-- ==== Sys2Proof/Word.lean ====
section
/-! DEFINITION. Words and bytes, and the plainest arithmetic on them. -/
namespace Sys2Proof

/-- A 32-bit register word (spec/00_scope.md R9). -/
abbrev Word := BitVec 32

/-- A byte of memory. -/
abbrev Byte := BitVec 8

end Sys2Proof
end

