-- ==== Sys2Proof/Syntax.lean ====
section
/-! DEFINITION. The commands: one constructor for each row of spec/opcode_table.json, in the table's order, with what
the outside brings to it. A command's operands are inputs (a written value, a received message, a pin level, a
measurement); everything else comes from the state. -/
namespace Sys2Proof

/-- A path that writes or reads register space (R402). -/
inductive Path where
  | cp (k : Nat)
  | spi
  | omp
  deriving DecidableEq, Repr

/-- The size of an access (R9). -/
inductive Size where
  | byte
  | half
  | word
  deriving DecidableEq, Repr

/-- Where an access goes: its address and its size (R9). -/
structure Place where
  addr : Nat
  size : Size
  deriving DecidableEq, Repr

/-- Why the device falls to BACKUP (R24 row 3, PM_LASTRESET). -/
inductive PowerCause where
  | pwrEn
  | porstN
  | pgood
  | rail (r : Nat)
  deriving DecidableEq, Repr

/-- The fatal errors of R27. -/
inductive FatalCode where
  | noMajority
  | cpNoSpare
  | d2dLost
  | keyStore
  deriving DecidableEq, Repr

/-- What is measured at a second boundary: the offset of each replica in ps (R49). -/
structure BoundaryIn where
  offsets : List Int
  deriving DecidableEq, Repr

/-- An insertion descriptor (R193). -/
structure TxDesc where
  op : Nat := 0
  ofs : Nat := 0
  corr : Nat := 0
  base : Nat := 0
  link : Nat := 0
  linkRec : Bool := false
  csum : Bool := false
  tag : Nat := 0
  deriving DecidableEq, Repr

/-- A frame whose last byte has reached the catch point of a port (R164, R186): its bytes from the destination address to the FCS, the
phase of the word clock against the TB clock in 2^-16 ns, the lane that carried the start block with its deskew, the time of removed
alignment markers, and what the PCS saw. -/
structure RxIn where
  bytes : List Byte
  phase : Nat := 0
  lane : Fin 8 := 0
  deskew : Int := 0
  marker : Nat := 0
  codeErr : Bool := false
  fecSym : Nat := 0
  fecCw : Nat := 0
  fecBad : Nat := 0
  deriving DecidableEq, Repr

/-- A micro-engine: cluster and physical index (R213). -/
structure Eng where
  c : Fin 32
  e : Fin 34
  deriving DecidableEq, Repr

/-- The ALU operations R225 names. -/
inductive AluOp where
  | add | sub | and | or | xor | shl | shr | mul | eq | lt
  deriving DecidableEq, Repr

/-- The calls of an AES unit (R226). -/
inductive AesOp where
  | cmac | seal | openSealed
  deriving DecidableEq, Repr

/-- The calls of a SHA-2 unit (R226). -/
inductive ShaOp where
  | sha256 | sha512 | hmac256
  deriving DecidableEq, Repr

/-- What ECC finds in the word a store access reads (R230). -/
inductive Ecc where
  | clean | corrected
  | broken (word : Fin 4)
  deriving DecidableEq, Repr

/-- A TLS 1.3 ClientHello on an NTS-KE connection as the firmware sees it (R255, R258): TLS 1.3 offered, "ntske/1" in its
ALPN, its cipher suites, supported groups, key-share groups and signature schemes, whether the key share passes
validation, and whether the Teasel jobs and the key store served the handshake. -/
structure Hello where
  tls13 : Bool
  alpn : Bool
  suites : List Nat
  groups : List Nat
  shares : List Nat
  schemes : List Nat
  shareOk : Bool
  served : Bool
  deriving DecidableEq, Repr


/-- A signal of a satellite in view (R125): signal code, satellite, antenna, elevation in degrees, whether the time solution
can use it, and the integration the firmware chooses for its search: coherent ms and non-coherent sums (R127). -/
structure GnSig where
  signal : Nat
  sv : Nat
  ant : Nat
  elev : Nat
  usable : Bool
  coh : Nat := 1
  sums : Nat := 1
  deriving DecidableEq, Repr

/-- What a channel measures at a latch instant (R134, R137, R138): `turns` is the integral of the Doppler frequency in 2^-16 cycle since
the previous latch or, after a restart of the count, since that; `mags` the magnitudes of the seven correlators VVE to VVL over the
last 1 s (R126). -/
structure GnObs where
  codeLock : Bool := false
  carrLock : Bool := false
  bitSync : Bool := false
  towKnown : Bool := false
  halfCyc : Bool := false
  slip : Bool := false
  txms : Nat := 0
  cn0 : Nat := 0
  chip : Nat := 0
  codeFrac : Nat := 0
  turns : Int := 0
  doppler : Int := 0
  mags : List Nat := []
  deriving DecidableEq, Repr

/-- What the interference monitor sees of a stream in a second (R141, R142): the power of the 256 bins, and the centre of each of the
four notches, in 8 Hz from the stream's centre. -/
structure GnBand where
  bins : List Nat
  centres : List Int
  deriving DecidableEq, Repr

/-- What the estimator answers for a second boundary (R151 to R154): whether there is a solution, satellites used and
usable, whether the residual test passes, whether some single-satellite exclusion passes it, one band only, time dilution in 0.1, TB
minus the time of the solution's system as the signals reach the balls, in 2^-16 ns, the weights in 2^-16 with which the delays of the
four streams enter it, rms error in ps, the position in cm and its uncertainty in m. -/
structure GnSol where
  have_ : Bool
  used : Nat
  usable : Nat
  residOk : Bool
  exclOk : Bool
  single : Bool
  tdop : Nat
  raw : Int
  weights : List Int
  sigma : Nat
  pos : Int × Int × Int
  posErr : Nat
  deriving DecidableEq, Repr

/-- A navigation record as a channel decodes it (R131 to R133): kind, bits, arrival instant, whether the BCH decoder corrected a bit,
whether it is the first word of a BeiDou subframe, and what the firmware reads from it: the UTC parameters of the satellite's system
(leap seconds now, leap seconds announced, and the announced instant in seconds of that system, counted from the epoch of R5), whether
it completes the satellite's ephemeris, and the satellites whose almanac it completes. -/
structure NavRec where
  kind : Nat
  bits : List Bool
  time : Nat
  fixed : Bool := false
  first : Bool := false
  utc : Option (Int × Int × Nat) := none
  eph : Bool := false
  alms : List Nat := []
  deriving DecidableEq, Repr

/-- The far end of an exchange with the control complex: the VLAN entry, the sender's MAC address, and, over IP, its address, the
address of this device it uses, and its port. -/
structure Far where
  vlan : Fin 64
  mac : Nat
  addr : List Byte := []
  self : List Byte := []
  port : Nat := 0
  deriving DecidableEq, Repr

/-- A SYN to the port of NTS-KE (R259): the number the connection gets, and who sent it. -/
structure KeSyn where
  conn : Nat
  peer : Far
  deriving DecidableEq, Repr

/-- Where a port stands between blocks when its scheduler commits a frame (R173, R191): the phase of the grid of blocks against the
TB, and the blocks the PCS inserts before the start block. -/
structure TxBlock where
  phase : Nat
  am : Nat
  deriving DecidableEq, Repr

/-- An OMP message as it arrives (R409): the port, the transport (0 UDP, 1 TCP, 2 layer 2), who sent it, the connection when it is
TCP, and the message with its trailer. -/
structure OmpIn where
  port : Fin 32
  transport : Fin 3
  peer : Far
  conn : Nat := 0
  bytes : List Byte
  deriving DecidableEq, Repr

/-- The commands of the part, as spec/opcode_table.json lists them. -/
inductive Instr where
  /-- AON_POWER_LOSS (R24): The AON domain falls below its reset level and the device enters OFF from any mode. -/
  | aonPowerLoss (vbatMv : Nat)
  /-- AON_POWER_ON (R24): The AON domain rises above its reset level and the device enters BACKUP from OFF. -/
  | aonPowerOn
  /-- POWER_FAIL_TO_BACKUP (R24): PWR_EN, PORST_N or PGOOD_IN goes low, or a main rail falls below its reset level, and the device enters BACKUP with every switched domain off. -/
  | powerFailToBackup (cause : PowerCause)
  /-- VBAT_SWITCHOVER (R468): The backup domain switches between VIO18 and VBAT without losing a count. -/
  | vbatSwitchover (toVbat : Bool)
  /-- POWER_UP_START (R463): The power controller latches PWR_EN, PORST_N and PGOOD_IN once all are high and every main rail is above its warning level, and starts the power-up sequence. -/
  | powerUpStart (pwrEn porstN pgood railsUp : Bool)
  /-- POWER_UP_COMPLETE (R463): Group A is above its domain reset levels at t0 + 200 us, and row 4 of R24 enters BOOT. -/
  | powerUpComplete (flashId : Bool)
  /-- ENTROPY_STARTUP_DONE (R395): The startup health tests of both noise sources complete. -/
  | entropyStartupDone (ok0 ok1 : Bool)
  /-- SLOT_READ_COMPLETE (R370): The sequential read of the chosen slot ends and its section CRCs and digest are judged. -/
  | slotReadComplete (readError : Bool)
  /-- IMAGE_VERIFY_DONE (R377): The image signature VERIFY job completes, and on a pass the ATTEMPT marker is programmed and the configuration is applied. -/
  | imageVerifyDone (engineFault : Bool)
  /-- BOOT_COMPLETE (R370): The configuration has been applied and row 5 of R24 enters WARMUP. -/
  | bootComplete
  /-- FATAL_ERROR (R27): A fatal error is detected, and the device takes row 7 to SAFE or, when already in SAFE, logs it and stays. -/
  | fatalError (code : FatalCode)
  /-- D2D_LINK_LOSS (R27): The die-to-die link loses lock and starts retraining. -/
  | d2dLinkLoss
  /-- D2D_RETRAIN_TIMEOUT (R27): The die-to-die link has not retrained within 10 ms, which is fatal code 0x03. -/
  | d2dRetrainTimeout
  /-- SYS_REBOOT (R24): A SYS_REBOOT write starts BOOT by row 8, with an optional slot choice. -/
  | sysReboot (path : Path) (slot : Nat)
  /-- ENTER_MAINT (R30): The ENTER_MAINT command moves the device to MAINTENANCE, or is refused when the mode does not allow it. -/
  | enterMaint (path : Path)
  /-- EXIT_MAINT (R30): The EXIT_MAINT command leaves MAINTENANCE into the resume mode of R26. -/
  | exitMaint (path : Path)
  /-- MODE_EVALUATION (R28): The firmware evaluates mode rows 9 to 16 and 19 at least once every 1 ms. -/
  | modeEvaluation
  /-- OSC_IN_LOSS (R34): OSC_IN is declared lost, steering is suspended and WARM is set. -/
  | oscInLoss
  /-- OSC_IN_RESTORED (R34): OSC_IN has held lock for 100 ms, OSCLOSS clears, and steering and the warm-up rule restart. -/
  | oscInRestored
  /-- MASTER_COPY_RESYNC (R37): A master copy that differs from the vote is overwritten with the majority value at the next tick. -/
  | masterCopyResync (m0 m1 m2 : Nat)
  /-- SECOND_BOUNDARY (R35): The nanosecond accumulator carries into SEC, and every rule that acts at a second boundary runs. -/
  | secondBoundary (b : BoundaryIn)
  /-- SYNC_WORD_SEND (R45): At 5 us before a second boundary the master sends the sync word with the next SEC and any pending step, and freezes that step. -/
  | syncWordSend
  /-- TB_INCR_LO_WRITE (R39): A write to TB_INCR_LO stages the low fraction bits of the increment. -/
  | tbIncrLoWrite (path : Path) (v : Nat)
  /-- TB_INCR_HI_COMMIT (R39): A write to TB_INCR_HI commits the whole increment, clamped to the legal range. -/
  | tbIncrHiCommit (path : Path) (v : Nat)
  /-- INCREMENT_TAKE_EFFECT (R39): A committed increment or GCOMP update takes effect at the master and all replicas 64 ticks after the commit. -/
  | incrementTakeEffect
  /-- STEP_ARM (R43): ARM copies the staged step, clamped, into the pending step. -/
  | stepArm (path : Path)
  /-- STEP_CANCEL (R43): CANCEL discards the pending step unless the step is frozen by the sync word. -/
  | stepCancel (path : Path)
  /-- TB_CAPTURE (R417): TB_CAP latches the voted master at the next tick into TB_NOW. -/
  | tbCapture
  /-- ACC_SAMPLE (R53): The accelerometer controller reads one three-axis sample over SPI. -/
  | accSample (read : Option (List Byte))
  /-- GCOMP_UPDATE (R54): Every 250 us the vibration correction is computed, saturated and written to TB_GCOMP. -/
  | gcompUpdate
  /-- GCAL_START (R56): A TB_GCAL write starts a sensitivity calibration run, or fails it at once when the conditions do not hold. -/
  | gcalStart (path : Path) (v : Nat)
  /-- GCAL_RUN_END (R56): The calibration run reaches its duration and reports GAMMA and QUALITY. -/
  | gcalRunEnd (xc : Int) (amp quality : Nat)
  /-- WARM_WINDOW_CLOSE (R51): A 10 s warm-up window closes, and the drift is formed and counted. -/
  | warmWindowClose (y : Option Int)
  /-- WARMMIN_ELAPSED (R50): OCXO_WARM has been high for TB_WARMMIN seconds under the time-only rule. -/
  | warmminElapsed
  /-- OCXO_WARM_CHANGE (R52): The OCXO_WARM input changes level, restarting the window count or the time-only measurement. -/
  | ocxoWarmChange (high : Bool)
  /-- OCXO_WARM_LOW_TIMEOUT (R52): OCXO_WARM has stayed low for 1 s and WARM returns to 1. -/
  | ocxoWarmLowTimeout
  /-- TDC_EDGE (R64): An edge that passes a channel's divider is stamped as a full timestamp. -/
  | tdcEdge (ch : Fin 32) (rising : Bool) (bin : Fin 2048) (wait : Nat)
  /-- EVENT_QUEUE_POP (R66): A POP write removes the head record of an event queue. -/
  | eventQueuePop (k : Fin 8)
  /-- INTERVAL_RESULT (R67): An interval unit pairs a start with its stop or counts it unpaired, at W + 100 ns after the start. -/
  | intervalResult (m : Fin 8)
  /-- STATS_WINDOW_CLOSE (R72): A statistics window closes and MEAN, SD, MIN, MAX and SLOPE are computed. -/
  | statsWindowClose (e : Fin 40)
  /-- RESULT_PUBLISH (R75): The result publication collector writes a window result to its registers and to the qualifier. -/
  | resultPublish
  /-- TDC_CAL_PERIOD_DUE (R78): TDC_CAL.PERIOD has elapsed since a channel's last calibration run. -/
  | tdcCalPeriodDue (ch : Fin 32)
  /-- TDC_CAL_TEMP_STEP (R78): The chiplet temperature has moved by TEMPSTEP and all channels are due for calibration. -/
  | tdcCalTempStep (temp : Int)
  /-- TDC_CAL_RUNALL (R78): The RUNALL command schedules calibration of all channels. -/
  | tdcCalRunall
  /-- TDC_INITIAL_CAL_DONE (R78): The initial calibration completes and CALDONE is set. -/
  | tdcInitialCalDone
  /-- CODE_DENSITY_DONE (R76): The code-density test on the spare interpolator completes and yields a new table. -/
  | codeDensityDone (ch : Fin 32) (empty inlPeak : Nat)
  /-- OFFSET_MATCH_DONE (R76): Offset matching ends after 4,096 events or 64 s, and the run is judged. -/
  | offsetMatchDone (ch : Fin 32) (active spare : Int)
  /-- SOURCE_WINDOW_CLOSE (R86): A source's window closes and the qualifiers Q2 to Q5 are evaluated. -/
  | sourceWindowClose (src : Fin 20)
  /-- Q1_ACTIVITY_FAIL (R86): A physical source has no edge within its allowed period and fails Q1. -/
  | q1ActivityFail (src : Fin 16)
  /-- WTR_ELAPSED (R93): A source's wait-to-restore ends and it becomes QUALIFIED. -/
  | wtrElapsed (src : Fin 20)
  /-- SELECTION (R92): Selection chooses the ACTIVE source, at each second boundary and within 1 ms of the ACTIVE source leaving. -/
  | selection
  /-- ZDA_SENTENCE (R106): A ZDA sentence on TOD_RX is validated and labels an EVT pulse, or is rejected. -/
  | zdaSentence (chars : List Byte)
  /-- DPLL_LOCK (R108): A DPLL holds its phase error within LOCKTHR for 1 s and enters LOCKED. -/
  | dpllLock (d : Fin 4) (phase freq : Int)
  /-- DPLL_LOCK_LOSS (R108): A LOCKED DPLL's phase error exceeds 4 x LOCKTHR and it returns to ACQUIRE. -/
  | dpllLockLoss (d : Fin 4) (phase freq : Int)
  /-- DPLL_FALLBACK (R108): After 100 ms in HOLD with FALLBACK = 1 the DPLL locks to TB. -/
  | dpllFallback (d : Fin 4)
  /-- OUTPUT_EDGE (R110): A pulse or frame output emits its leading edge at its computed instant. -/
  | outputEdge (n : Fin 16) (b : Nat)
  /-- OUT_ALIGN (R111): A write to OUT_ALIGN adds outputs to the pending alignment. -/
  | outAlign (mask : Nat)
  /-- TOD_MESSAGE_SEND (R114): A TOD output sends its message 10 ms after the leading edge of its 1PPS pulse. -/
  | todMessageSend (k : Fin 2)
  /-- GN_PATH_CLOCK_LOSS (R121): A GNSS path clock is lost and the channels on that path go to IDLE. -/
  | gnPathClockLoss (path : Fin 2)
  /-- GN_PATH_CLOCK_RESTORE (R121): A GNSS path clock has been within limits for 100 ms and its channels are reassigned. -/
  | gnPathClockRestore (path : Fin 2)
  /-- FE_LIST_RUN (R123): At power-up of domain 9 the front-end transaction list is run and checked. -/
  | feListRun (reads : List (List Byte)) (wait : Nat) (clkA clkB : Bool)
  /-- AGC_ADJUST (R124): The AGC loop adjusts the PWM duty once per millisecond. -/
  | agcAdjust (m : Fin 4) (samples : List Nat)
  /-- CHANNEL_ASSIGN (R125): The firmware assigns tracking channels to the enabled signals in priority order. -/
  | channelAssign (sigs : List GnSig)
  /-- ACQUISITION_DETECT (R127): An acquisition engine detects a cell and hands it to a channel. -/
  | acquisitionDetect (c : Fin 256)
  /-- NAV_RECORD_WRITE (R131): A channel writes a navigation record to the ring. -/
  | navRecordWrite (c : Fin 256) (r : NavRec) (read : Nat)
  /-- MEASUREMENT_LATCH (R134): At a latch instant every tracking channel captures its state. -/
  | measurementLatch (j : Fin 50) (obs : List (Nat × GnObs)) (corr : List (Nat × List (Int × Int)))
  /-- MEASUREMENT_SET_PUBLISH (R136): The drained measurement set is published with its header. -/
  | measurementSetPublish
  /-- INTERFERENCE_SECOND (R141): Once per second the spectrum is formed, notches are engaged or released and J is computed. -/
  | interferenceSecond (bands : List GnBand)
  /-- SPOOF_EVAL (R147): Once per second the three spoof detectors are evaluated and the spoof flag is set or cleared. -/
  | spoofEval
  /-- BURST_WINDOW_OPEN (R149): A burst tracking window opens around a second boundary. -/
  | burstWindowOpen
  /-- BURST_WINDOW_CLOSE (R149): A burst tracking window closes and the channels are propagated on TB. -/
  | burstWindowClose
  /-- SOLUTION_PUBLISH (R154): The time solution for a second boundary is published as the GN_SOL group. -/
  | solutionPublish (sol : GnSol)
  /-- SURVEY_COMPLETE (R152): SURVEY ends after SURVEYH hours and the solution enters HOLD. -/
  | surveyComplete (x y z : Int)
  /-- ORBIT_DATA_WRITE (R373): The daily orbit-data write erases the older flash copy and programs it. -/
  | orbitDataWrite (erased programmed : Bool)
  /-- LINK_SIGNAL_DETECT (R161): Signal and clock are detected on every lane of a port and it enters ALIGNING. -/
  | linkSignalDetect (p : Fin 32)
  /-- LINK_UP (R161): Block and marker lock held for UPHOLD ms bring the port UP. -/
  | linkUp (p : Fin 32)
  /-- LINK_DOWN (R161): A lane loses lock or a local fault is detected and the port goes DOWN. -/
  | linkDown (p : Fin 32) (reason : Fin 4)
  /-- REMOTE_FAULT_CHANGE (R161): Remote-fault ordered sets start or stop arriving on a port. -/
  | remoteFaultChange (p : Fin 32) (on : Bool)
  /-- QUAD_FAULT (R162): A quad fault takes every port of the quad to DOWN. -/
  | quadFault (q : Fin 4) (cause : Fin 4)
  /-- QUAD_INIT_RETRY (R162): The device retries quad initialization every 1 s. -/
  | quadInitRetry (q : Fin 4) (lock refclk : Bool)
  /-- QUAD_FAULT_CLEAR (R162): The SerDes PLL has held lock for 100 ms and the quad fault clears. -/
  | quadFaultClear (q : Fin 4)
  /-- RX_FRAME (R164): A received frame is checked, classified, filtered and steered to a receive queue or discarded. -/
  | rxFrame (p : Fin 32) (f : RxIn)
  /-- PAUSE_EXPIRE (R175): The pause timer reaches 0 and transmission may resume. -/
  | pauseExpire (p : Fin 32)
  /-- TX_COMMIT (R173): The transmit scheduler commits the head frame and fixes its launch instant. -/
  | txCommit (p : Fin 32) (b : TxBlock)
  /-- TX_LINKDOWN_DISCARD (R172): A complete head frame on a port that is not UP, or has RFAULT = 1, is discarded. -/
  | txLinkdownDiscard (p : Fin 32) (tq : Fin 8)
  /-- TX_UNDERRUN (R176): A committed frame's bytes are late, the frame is ended with a bad FCS and the threshold is raised. -/
  | txUnderrun (p : Fin 32) (sent : Nat)
  /-- TX_QUEUE_ACCEPT (R172): A transmit queue accepts a frame into its buffer and returns a credit to the collector. -/
  | txQueueAccept (src : Fin 33) (p : Fin 32)
  /-- MAC_THRRST (R177): The MAC_THRRST command returns CUR to CFG. -/
  | macThrrst (p : Fin 32)
  /-- LPI_NEGOTIATED (R179): The EEE exchange over LLDP completes and Tw is agreed. -/
  | lpiNegotiated (p : Fin 32) (tw : Nat)
  /-- LPI_ENTER (R180): The transmit path enters LPI after IDLE us of empty queues. -/
  | lpiEnter (p : Fin 32)
  /-- RX_LPI (R180): The partner enters or leaves receive LPI. -/
  | rxLpi (p : Fin 32) (enter : Bool)
  /-- MAC_COUNTER_READ (R182): A read of a counter's low word snapshots and zeroes all 64 bits and holds the high word. -/
  | macCounterRead (p : Fin 32) (c : Fin 48)
  /-- ARP_REQUEST (R165): The housekeeping partition answers an ARP request for an entry it may answer for. -/
  | arpRequest (g : Eng)
  /-- NEIGHBOR_SOLICITATION (R165): The housekeeping partition answers an IPv6 Neighbor Solicitation. -/
  | neighborSolicitation (g : Eng)
  /-- ICMP_ECHO (R214): The housekeeping partition answers an ICMP or ICMPv6 echo request. -/
  | icmpEcho (g : Eng)
  /-- START_BLOCK_LAUNCH (R192): The start block passes the measurement point, and the launch instant is read from the replica. -/
  | startBlockLaunch (p : Fin 32)
  /-- AUDIT_RESULT (R204): The CH30 stamp of an audited frame gives the audit error, which enters the histogram. -/
  | auditResult (mark : Nat)
  /-- RESERVATION_REQUEST (R199): An engine's reservation request is granted a start block and a reserved instant. -/
  | reservationRequest (g : Eng) (p : Fin 32) (len : Nat) (cls : Fin 8) (phase : Nat)
  /-- RESERVED_COMMIT (R200): A reserved frame is committed L_pipe before its start block. -/
  | reservedCommit (p : Fin 32)
  /-- TSQ_POP (R207): TSQ_POP removes the head record of a timestamp queue. -/
  | tsqPop (p : Fin 32)
  /-- AUDIT_CLEAR (R204): TSQ_AUDIT.CLR zeroes the audit histogram. -/
  | auditClear
  /-- DISPATCH (R218): A partition's dispatcher hashes a request into its home cluster's dispatch queue. -/
  | dispatch (k : Fin 6)
  /-- ENGINE_STEAL (R219): An idle engine steals the oldest request from the longest dispatch queue of its partition. -/
  | engineSteal (g : Eng)
  /-- REQUEST_START (R221): An engine starts a request with G60 to G63 loaded, or discards it as stale. -/
  | requestStart (g : Eng)
  /-- ALU_REGISTER (R225): An ALU instruction with register operands executes. -/
  | aluRegister (g : Eng) (op : AluOp) (rd ra rb : Fin 64)
  /-- ALU_IMMEDIATE (R225): An ALU instruction with an immediate operand executes. -/
  | aluImmediate (g : Eng) (op : AluOp) (rd ra : Fin 64) (imm : BitVec 16)
  /-- BRANCH (R225): A conditional or unconditional branch executes. -/
  | branchTo (g : Eng) (cond : Bool) (target : Fin 16384)
  /-- WINDOW_LOAD_STORE (R224): A load from the packet window or a store to the output window executes. -/
  | windowLoadStore (g : Eng) (store : Bool) (r : Fin 64) (ofs : Fin 256) (n : Fin 9)
  /-- STREAM (R224): A stream instruction reads or writes a 64-byte chunk beyond 256 bytes. -/
  | streamChunk (g : Eng) (out : Option (List Byte))
  /-- UNIT_WAIT (R226): An engine waits for the result of an earlier unit call. -/
  | unitWait (g : Eng) (u : Fin 12) (rd : Fin 64)
  /-- EMIT (R224): EMIT passes a frame with its descriptor to the cluster collector once a credit is free. -/
  | emitFrame (g : Eng) (p : Fin 32) (cls : Fin 8) (d : TxDesc)
  /-- END (R224): END ends a routine after its emits. -/
  | endRoutine (g : Eng)
  /-- DROP (R224): DROP ends a routine without a response. -/
  | dropRequest (g : Eng)
  /-- FORWARD (R224): FORWARD hands the frame to the host path, as FRAME_RX with a catch record. -/
  | forwardFrame (g : Eng)
  /-- CHECK (R239): CHECK recomputes the invariant fields and discards the response on a mismatch. -/
  | checkResponse (g : Eng) (ok : Bool)
  /-- RESERVED_CLASS_EXECUTE (R240): Executing a reserved instruction class counts as a self-check failure. -/
  | reservedClassExecute (g : Eng)
  /-- AES_CALL (R226): An AES-CMAC or AES-SIV seal or open call runs on a cluster AES unit. -/
  | aesCall (g : Eng) (op : AesOp) (slot : Nat) (ad : List (List Byte)) (data : List Byte)
  /-- SHA2_CALL (R226): A SHA-256, SHA-512 or HMAC call runs on a SHA-2 unit. -/
  | sha2Call (g : Eng) (op : ShaOp) (key data : List Byte)
  /-- ASSOC_READ (R229): READ returns all 32 bytes of an association-store entry. -/
  | assocRead (g : Eng) (n : Nat) (ecc : Ecc)
  /-- ASSOC_WRITE (R229): WRITE replaces an entry with ESEQ and dirty-bank updates. -/
  | assocWrite (g : Eng) (n : Nat) (data : List Byte) (ecc : Ecc)
  /-- CAS64 (R229): CAS64 compares and swaps one aligned 8-byte word. -/
  | cas64 (g : Eng) (n : Nat) (w : Fin 4) (old new : Nat) (ecc : Ecc)
  /-- ADD64 (R229): ADD64 adds to one aligned 8-byte word. -/
  | add64 (g : Eng) (n : Nat) (w : Fin 4) (d : Nat) (ecc : Ecc)
  /-- RATE (R232): A RATE call decays and updates four sketch counters and returns the minimum estimate. -/
  | rateCall (g : Eng) (key w : Nat) (ecc : Ecc)
  /-- TQR_READ (R226): A TQR unit call returns the last published TQR group coherently. -/
  | tqrRead (g : Eng)
  /-- RANDOM (R226): A Random unit call returns 64 to 256 bits from the DRBG. -/
  | randomCall (g : Eng) (bits : Nat)
  /-- KEY_LOAD (R226): A Key unit call loads an NTS master key generation into a key slot. -/
  | keyLoad (g : Eng) (gen slot : Nat)
  /-- COLLECTOR_TRANSFER (R234): A collector forwards a 64-byte transfer of a completed frame toward its port. -/
  | collectorTransfer (src : Fin 33) (p : Fin 32)
  /-- CLUSTER_DRAIN_END (R241): A draining cluster finishes or times out at 100 us and enters TEST or RETIRED. -/
  | clusterDrainEnd (c : Fin 32)
  /-- RESTORE_CLUSTER (R242): FAB_RETIRE restores a cluster retired by command. -/
  | restoreCluster (c : Fin 32)
  /-- RETIRE_CLUSTER (R242): FAB_RETIRE starts the drain of a cluster, or is refused for a sole cluster. -/
  | retireCluster (c : Fin 32)
  /-- RETIRE_ENGINE (R242): FAB_RETIRE retires an engine at the end of its current request. -/
  | retireEngine (c : Fin 32) (e : Fin 64)
  /-- RESTORE_ENGINE (R242): FAB_RETIRE restores an engine retired by command, with failure count 0. -/
  | restoreEngine (c : Fin 32) (e : Fin 64)
  /-- DIRTY_SWAP (R231): FAB_DIRTY.SWAP freezes the current dirty bank at the next tick and starts a zeroed bank. -/
  | dirtySwap
  /-- ASSOC_WINDOW_WRITE (R231): A host write to the association-store window is ignored and logged. -/
  | assocWindowWrite (addr : Nat)
  /-- OCCUPANCY_WINDOW (R238): A 100 us occupancy window closes and VREQ is set or cleared. -/
  | occupancyWindow (occ : List Nat)
  /-- RATE_EPOCH_ADVANCE (R232): The sketch epoch advances every HALFLIFE ms of clock time. -/
  | rateEpochAdvance
  /-- SKETCH_SCRUB (R232): The background scrubber applies the decay to sketch counters. -/
  | sketchScrub (row : Fin 4) (cell : Fin 524288)
  /-- NTP_REQUEST (R246): An NTP request is checked, rate-limited and answered with a mode 4 response. -/
  | ntpRequest (g : Eng) (ecc : Ecc)
  /-- NTS_KE_SYN (R259): An NTS-KE TCP SYN is accepted, refused at MAXCONN, or discarded at a closed gate. -/
  | ntsKeSyn (p : Fin 32) (x : KeSyn)
  /-- CLIENT_HELLO (R255): A TLS 1.3 ClientHello is answered with a handshake, a HelloRetryRequest or an alert. -/
  | clientHello (conn : Nat) (h : Hello)
  /-- NTS_KE_REQUEST (R257): The client's records up to End of Message are answered with the server records and cookies. -/
  | ntsKeRequest (conn : Nat) (records c2s s2c : List Byte) (ok : Bool)
  /-- NTS_KE_TIMEOUT (R258): An NTS-KE connection not complete within TIMEOUT is closed. -/
  | ntsKeTimeout (conn : Nat)
  /-- KEY_GENERATION_DRAW (R261): At H - 60 s the next master-key generation is drawn, loaded and sent to the partner. -/
  | keyGenerationDraw
  /-- KEY_GENERATION_CURRENT (R261): At the hour boundary the next generation becomes current and the oldest slot is zeroed. -/
  | keyGenerationCurrent
  /-- NTS_ROTATE (R262): The NTS_ROTATE command draws a generation that becomes current at the next second boundary. -/
  | ntsRotate
  /-- NTS_REQUEST (R264): An NTS-protected request is checked, authenticated and answered with a reserved launch. -/
  | ntsRequest (g : Eng) (ecc : Ecc) (phase : Nat)
  /-- CERT_EXPIRY_CHECK (R256): The daily check warns when the certificate chain in use expires soon. -/
  | certExpiryCheck
  /-- ANNOUNCE_RX (R275): A foreign Announce is checked, qualified and compared, which may change the port state. -/
  | announceRx (g : Eng)
  /-- ANNOUNCE_RECEIPT_TIMEOUT (R275): No better foreign master is heard for ARTO intervals and a PASSIVE port returns to MASTER. -/
  | announceReceiptTimeout (p : Fin 32)
  /-- DELAY_REQ_RX (R278): A Delay_Req is answered with a Delay_Resp. -/
  | delayReqRx (g : Eng)
  /-- PDELAY_REQ_RX (R278): A Pdelay_Req is answered with a one-step or two-step Pdelay_Resp. -/
  | pdelayReqRx (g : Eng)
  /-- PDELAY_RESP_RX (R279): A Pdelay_Resp or its follow-up gives a link delay and updates asCapable. -/
  | pdelayRespRx (g : Eng)
  /-- SIGNALING_RX (R284): A Signaling message with unicast negotiation TLVs is answered in one message. -/
  | signalingRx (g : Eng) (ecc : Ecc)
  /-- SYNC_RX (R295): A Sync on the PTPIN port gives a PTPIN measurement. -/
  | syncRx (g : Eng)
  /-- DELAY_RESP_RX (R295): A Delay_Resp on the PTPIN port completes a delay exchange. -/
  | delayRespRx (g : Eng)
  /-- CALENDAR_ISSUE (R290): A tile calendar issues an SRC = 1 request for a due instant CALLEAD ahead. -/
  | calendarIssue (mcast : Bool) (n : Fin 1048576) (ann : Bool) (t : Nat)
  /-- CALENDAR_MESSAGE (R291): The routine re-reads the grant and builds the scheduled Sync, Follow_Up or Announce. -/
  | calendarMessage (g : Eng)
  /-- PDELAY_REQ_SEND (R279): A P2P port sends Pdelay_Req as a reserved launch at its interval. -/
  | pdelayReqSend (p : Fin 32) (phase : Nat)
  /-- PTPIN_DELAY_REQ_SEND (R295): The PTPIN client sends a Delay_Req as a reserved launch. -/
  | ptpinDelayReqSend (phase : Nat)
  /-- PTPIN_GRANT_RENEW (R294): The PTPIN client renews its grants at half their duration. -/
  | ptpinGrantRenew
  /-- GRANT_EXPIRE (R287): A grant entry whose message types have all lapsed is zeroed. -/
  | grantExpire (n : Fin 1048576)
  /-- ROUGHTIME_REQUEST (R302): A Roughtime request is checked and appended as a leaf to its version's batch. -/
  | roughtimeRequest (g : Eng)
  /-- BATCH_CLOSE (R304): A batch closes, reads the TQR, builds its Merkle tree and submits its SIGN job. -/
  | batchClose (v : Fin 2)
  /-- BATCH_SIGNATURE_RELEASE (R308): The verified batch signature is released and the responses are emitted. -/
  | batchSignatureRelease (num : Nat) (ok : Bool)
  /-- ONLINE_KEY_GENERATE (R312): The first online key after BOOT is generated once E is at most KEYELIM. -/
  | onlineKeyGenerate
  /-- DAILY_KEY_GENERATE (R312): At D - KEYLEAD the next daily online key is generated and its DELEs signed. -/
  | dailyKeyGenerate
  /-- DAILY_KEY_EFFECT (R313): At UTC midnight D the daily key takes effect, or the late condition is raised. -/
  | dailyKeyEffect
  /-- TSL_SUBMIT (R321): A control processor submits a Teasel job to a partition queue. -/
  | tslSubmit (path : Path) (c : Fin 5) (v : Nat) (mem : List (Nat × Byte))
  /-- JOB_START (R321): An idle engine stages a job and starts it at the next slot boundary after its input checks. -/
  | jobStart (e : Fin 16)
  /-- LOAD (R324): LOAD copies n words of the input area into a slot. -/
  | loadSlot (e : Fin 16)
  /-- LOADKEY (R324): LOADKEY unwraps a key-store entry into a slot. -/
  | loadKeySlot (e : Fin 16)
  /-- RAND (R324): RAND writes a uniform integer in 1 to M - 1 into a slot. -/
  | randSlot (e : Fin 16)
  /-- MADD (R324): MADD forms a modular sum. -/
  | madd (e : Fin 16) (upset : Option Nat)
  /-- MSUB (R324): MSUB forms a modular difference. -/
  | msub (e : Fin 16) (upset : Option Nat)
  /-- MMUL (R324): MMUL forms a modular product. -/
  | mmul (e : Fin 16) (upset : Option Nat)
  /-- MINV (R324): MINV forms a modular inverse by a constant-iteration method. -/
  | minv (e : Fin 16) (upset : Option Nat)
  /-- MEXP (R324): MEXP forms a modular exponentiation, processing every exponent bit. -/
  | mexp (e : Fin 16) (upset : Option Nat)
  /-- MOVE (R324): MOVE copies a slot, or conditionally swaps two slots in equal time. -/
  | moveSlot (e : Fin 16)
  /-- UNLOAD (R324): UNLOAD holds a slot's value for the output area until release. -/
  | unloadSlot (e : Fin 16)
  /-- JOB_RELEASE (R327): At t_rel a job's outputs and completion record are released, or its fault is handled. -/
  | jobRelease (e : Fin 16) (differs : Bool)
  /-- COMPANION_START (R335): A SIGN job's companion VERIFY job starts on another engine. -/
  | companionStart (sign comp : Fin 16)
  /-- TSL_ABORT (R338): A TSL_ABORT write marks the selected engines for abort. -/
  | tslAbort (v : Nat)
  /-- ABORT_EFFECT (R338): At the next slot boundary the aborted jobs stop and are wiped and ended ABORTED. -/
  | abortEffect
  /-- TSL_RETIRE_ENGINE (R340): TSL_RETIRE retires an engine at the end of its job, or is refused for a sole engine. -/
  | tslRetireEngine (e : Fin 16)
  /-- TSL_RESTORE_ENGINE (R340): TSL_RETIRE restores an engine retired by command. -/
  | tslRestoreEngine (e : Fin 16)
  /-- CP_FAILURE (R339): A control processor fails and CP4 takes over its tasks, its Teasel jobs being aborted. -/
  | cpFailure (c : Fin 5)
  /-- PATH_SILENT (R346): A pair path has been silent for its limit and isolation is re-evaluated. -/
  | pathSilent (path : Fin 3)
  /-- ADERN_LANE_ALIGN (R347): An Adern lane is aligned after 64 valid commas. -/
  | adernLaneAlign (lane : Fin 2)
  /-- ADERN_LANE_LOSS (R347): An Adern lane is lost on a code error and its traffic moves to the other lane. -/
  | adernLaneLoss (lane : Fin 2)
  /-- HEARTBEAT_EMIT (R349): HB_OUT emits a pulse whose width codes the device state, every 250 us. -/
  | heartbeatEmit
  /-- HEARTBEAT_PULSE_RX (R349): A heartbeat pulse on HB_IN is stamped and decoded, or counted as a violation. -/
  | heartbeatPulseRx (width : Nat)
  /-- HELLO (R353): A received HELLO agrees the Adern version and checks the home flags. -/
  | helloRx (inband : Bool) (msg : List Byte) (ago : Nat)
  /-- HELLO_SEND (R351): HELLO is sent every 1 s until a version is agreed. -/
  | helloSend
  /-- STATUS (R357): A received STATUS updates the partner's state and bounds and the guard. -/
  | statusRx (inband : Bool) (msg : List Byte) (ago : Nat)
  /-- STATUS_SEND (R351): STATUS is sent every L/4. -/
  | statusSend
  /-- RENEW (R360): A received RENEW updates x_local and h_last and is acknowledged. -/
  | renewRx (inband : Bool) (msg : List Byte) (ago : Nat)
  /-- ACK (R355): A received ACK advances the non-home holder's x_eff. -/
  | ackRx (inband : Bool) (msg : List Byte) (ago : Nat)
  /-- CLAIM (R361): A received CLAIM makes the holder pick a renewal point to release at, or is answered with RELEASE. -/
  | claimRx (inband : Bool) (msg : List Byte) (ago : Nat)
  /-- RELEASE (R360): A received RELEASE records the converted release instant for a take. -/
  | releaseRx (inband : Bool) (msg : List Byte) (ago : Nat)
  /-- TT (R366): A TT message completes a time-transfer measurement of PARTNER. -/
  | ttRx (msg : List Byte) (ago marker : Nat)
  /-- REPL_NTS (R367): A replicated NTS generation is installed. -/
  | replNtsRx (inband : Bool) (msg : List Byte) (ago : Nat)
  /-- REPL_GRANT (R367): A replicated grant entry is written at its index. -/
  | replGrantRx (inband : Bool) (msg : List Byte) (ago : Nat)
  /-- REPL_DONE (R367): The end of a full resync marks the replicated state current. -/
  | replDoneRx (inband : Bool) (msg : List Byte) (ago : Nat)
  /-- REPL_SEND (R367): The holder sends a replication message for a written entry or generation. -/
  | replSend
  /-- RENEWAL_POINT (R355): At a renewal point the holder sends RENEW, or releases when a release is chosen there. -/
  | renewalPoint
  /-- CLAIM_SEND (R351): A home device in CLAIM sends CLAIM every L/4. -/
  | claimSend
  /-- RELEASE_REPEAT (R351): RELEASE is repeated twice at L/4 intervals after a release. -/
  | releaseRepeat
  /-- TT_MARKER_SEND (R366): A time-transfer marker is sent on the Adern link at its phase. -/
  | ttMarkerSend (dev : Int)
  /-- LISTEN_HOLDOFF_END (R359): The LISTEN hold-off elapses and the lease state becomes WAIT. -/
  | listenHoldoffEnd
  /-- HOMEWTR_EXPIRE (R361): The home reclaim timer expires and the home device enters CLAIM. -/
  | homewtrExpire
  /-- TOKEN_TAKE (R360): The take instant is reached and the device takes the token and opens its gate. -/
  | tokenTake
  /-- LEASE_EXPIRY (R359): TB reaches x_eff - G_eff, the gate closes and the holder releases. -/
  | leaseExpiry
  /-- DUALHOLD_CLEAR (R362): DUALHOLD clears after L without a HOLD indication from the partner. -/
  | dualholdClear
  /-- VADDR_ANNOUNCE (R363): Gratuitous ARP and unsolicited NA for the virtual addresses are sent at 1 ms intervals after a take. -/
  | vaddrAnnounce
  /-- LEASE_RELEASE_CMD (R361): LEASE_CMD RELEASE makes the holder release at a renewal point, or is refused. -/
  | leaseReleaseCmd
  /-- LEASE_RESYNC_CMD (R367): LEASE_CMD RESYNC starts a full grant resync. -/
  | leaseResyncCmd
  /-- AUTOCONFIRM (R380): An AUTOCONFIRM image is confirmed after 600 s in WARMUP or later. -/
  | autoconfirm
  /-- NVM_CONFIRM (R380): NVM_CONFIRM programs the CONFIRM marker of the running slot. -/
  | nvmConfirm (path : Path)
  /-- PROVISION (R388): PROVISION fuses ROOT0, draws a KEK and enters PROVISIONED. -/
  | provision (path : Path)
  /-- DEPLOY (R388): DEPLOY moves the lifecycle to DEPLOYED. -/
  | deploy (path : Path)
  /-- RETURN (R389): RETURN zeroes the key store and KEK and enters RETURNED. -/
  | returnDevice (path : Path)
  /-- FUSE_ROOT1 (R388): FUSE_ROOT1 fuses the inactive slot's signing-key digest into ROOT1. -/
  | fuseRoot1 (path : Path)
  /-- REVOKE (R388): REVOKE blows the revocation fuse of a root slot. -/
  | revoke (path : Path) (r : Fin 4)
  /-- SVN_ADVANCE (R388): SVN_ADVANCE raises the anti-rollback count to the running SVN. -/
  | svnAdvance (path : Path)
  /-- TAMPER_CLEAR (R388): TAMPER_CLEAR arranges for the latch to clear and a new KEK to be drawn at the next BOOT. -/
  | tamperClear (path : Path)
  /-- TAMPER_INPUT (R394): An active tamper input zeroes the KEK and the key store and sets the latch. -/
  | tamperInput (n : Fin 2) (high : Bool)
  /-- KEY_SCRUB (R393): The scrubber unwraps and checks every key-store entry once per second. -/
  | keyScrub (failed : List (Fin 256))
  /-- ENTROPY_BLOCK (R395): A 1,024-bit raw block is health-tested and conditioned, or discarded. -/
  | entropyBlock (src : Fin 2) (failed : Option Bool)
  /-- DRBG_RESEED (R396): The DRBG is reseeded once per second or after 2^20 requests. -/
  | drbgReseed
  /-- UPDATE_OPEN (R397): OPEN starts an update session and erases the named slot. -/
  | updateOpen (path : Path) (slot : Fin 2)
  /-- UPDATE_PROGRAM (R397): PROGRAM writes the staging buffer to the slot at NVM_UPDOFS. -/
  | updateProgram (path : Path)
  /-- UPDATE_READ (R397): READ fills the staging buffer from the slot. -/
  | updateRead (path : Path)
  /-- UPDATE_VERIFY (R397): VERIFY runs checks 1 to 13 on the slot without booting it. -/
  | updateVerify (path : Path)
  /-- UPDATE_CLOSE (R397): CLOSE ends the update session. -/
  | updateClose (path : Path)
  /-- NVM_OPERATION_COMPLETE (R397): An update flash operation completes or fails and STATUS and IRQ UPD are set. -/
  | nvmOperationComplete (failed : Option Nat)
  /-- SPI_WRITE (R406): An SPI WRITE transaction is CRC-checked and applied in address order. -/
  | spiWrite (b : List Byte)
  /-- SPI_READ (R406): An SPI READ transaction returns words with STATUS and CRC and stores the response. -/
  | spiRead (b : List Byte)
  /-- SPI_REPLAY (R408): REPLAY returns the stored response of the last READ unchanged. -/
  | spiReplay
  /-- SPI_BAD_OPCODE (R405): An unknown SPI opcode is ignored until CS rises and counted. -/
  | spiBadOpcode
  /-- SPI_CS_EARLY_RISE (R408): SPT_CS_N rises before a transaction ends. -/
  | spiCsEarlyRise (b : List Byte)
  /-- SYS_WLOCK_WRITE (R404): An SPI write to SYS_WLOCK clears or sets the write locks. -/
  | sysWlockWrite (v : Nat)
  /-- OMP_OPEN (R412): OPEN agrees a version and opens a session with a derived key. -/
  | ompOpen (m : OmpIn)
  /-- OMP_READ (R411): An OMP READ returns register words in READ_RESP. -/
  | ompRead (m : OmpIn)
  /-- OMP_WRITE (R415): An OMP WRITE is applied word by word and acknowledged. -/
  | ompWrite (m : OmpIn)
  /-- OMP_READ_GROUP (R411): READ_GROUP reads a sequence-bracketed group consistently inside the device. -/
  | ompReadGroup (m : OmpIn)
  /-- OMP_SUBSCRIBE (R411): SUBSCRIBE sets the pushed event severity and frame forwarding. -/
  | ompSubscribe (m : OmpIn)
  /-- OMP_FRAME_TX (R416): FRAME_TX emits a host-originated frame and is answered with FRAME_ACK. -/
  | ompFrameTx (m : OmpIn) (p : Fin 32) (cls : Fin 8) (d : TxDesc) (frame : List Byte)
  /-- OMP_CLOSE (R412): CLOSE ends an OMP session. -/
  | ompClose (m : OmpIn)
  /-- OMP_IDLE_TIMEOUT (R412): A session closes after IDLE seconds without an accepted message. -/
  | ompIdleTimeout (k : Fin 8)
  /-- SNAP_TAKE (R418): TAKE freezes a copy of register space at the next tick, or is refused. -/
  | snapTake (path : Path)
  /-- SNAP_READY (R419): The shadow copy completes and the snapshot becomes READY. -/
  | snapReady
  /-- SNAP_RELEASE (R420): RELEASE from the holder frees the shadow. -/
  | snapRelease (path : Path)
  /-- SNAP_HOLD_EXPIRE (R420): The shadow is freed HOLDMAX seconds after READY. -/
  | snapHoldExpire
  /-- EVENT_LOG_WRITE (R423): The log writer writes a pending event from a source and updates alarms, IRQ and subscriptions. -/
  | eventLogWrite
  /-- ALARM_ACK (R424): A write to SYS_ALARMACK clears every acknowledgeable condition of a code, or is refused. -/
  | alarmAck (path : Path) (code : Nat)
  /-- RC_READ (R11): A read of an RC field returns its value and clears or restarts it atomically. -/
  | rcRead (path : Path) (a : Place)
  /-- REGISTER_WRITE (R383): A write to a register with no row of its own sets its writable fields under clamping. -/
  | registerWrite (path : Path) (a : Place) (v : Nat)
  /-- BIST_START (R433): START takes a unit out of its role and begins a Campion test, or is refused. -/
  | bistStart (path : Path) (u : Fin 128) (port : Option (Fin 32))
  /-- BIST_STOP (R437): STOP cuts the test of a unit short. -/
  | bistStop (u : Fin 128)
  /-- BIST_TEST_END (R436): A test ends and is judged PASS, FAIL or INCOMPLETE, and the unit returns to its role. -/
  | bistTestEnd (gated : Bool) (count sig0 sig1 : Nat)
  /-- DUMP_BOUNDARY (R448): At a dump boundary every counter is latched and staged selections and periods apply. -/
  | dumpBoundary
  /-- DUMP_RECORD_PUBLISH (R449): The dump writer publishes the record in the dump ring. -/
  | dumpRecordPublish
  /-- PERF_SEL_WRITE (R450): A write to PERF_SELn or PERIOD is staged to the next boundary. -/
  | perfSelWrite (path : Path) (addr v : Nat)
  /-- SAMPLE_RECORD (R455): A marked instruction completes and produces a sample record in its cluster buffer. -/
  | sampleRecord (g : Eng) (low : Fin 16)
  /-- SAMPLE_COLLECT (R456): The tile sample collector moves a record from a cluster buffer to the sample ring. -/
  | sampleCollect (t : Fin 4)
  /-- RAIL_WARNING_FALL (R467): A rail falls below its warning level and a supply event begins. -/
  | railWarningFall (r : Fin 8) (mv : Nat)
  /-- RAIL_WARNING_RECOVER (R467): A rail recovers above its warning level, the event is logged and a boost floor is set. -/
  | railWarningRecover (r : Fin 8) (lowest mv : Nat)
  /-- BOOST_END (R467): The 60 s boost ends and the floor returns to VMIN. -/
  | boostEnd
  /-- VCORE_EVALUATE (R465): Every 1 ms the target VCORE is raised, lowered or floored and written over AVSBus. -/
  | vcoreEvaluate (rails : List Nat)
  /-- AVS_WRITE_RETRY (R464): A failed AVSBus write is retried, and after the third failure AVSFAULT is set. -/
  | avsWriteRetry (why : Fin 3)
  /-- AVS_STATUS_READ (R464): A Status read is attempted every 1 s, and one that succeeds clears AVSFAULT. -/
  | avsStatusRead (ok : Bool)
  /-- PM_RAISE (R467): PM_CMD RAISE starts a boost on request. -/
  | pmRaise (path : Path)
  /-- PM_AVS_RETRY (R464): PM_CMD AVS_RETRY performs a Status read now. -/
  | pmAvsRetry (path : Path) (ok : Bool)
  /-- VBAT_MEASURE (R469): VBAT is measured once per second and the low condition is set or cleared. -/
  | vbatMeasure (mv : Nat)
  /-- TEMP_SAMPLE (R470): The temperature sensors are sampled every 1 ms and thermal conditions are evaluated. -/
  | tempSample (ts : List Int)
  /-- THERM_SAMPLE (R489): The thermistor ADC samples every 10 ms. -/
  | thermSample (code : Fin 4096)
  /-- JTAG_BYPASS (R498): The BYPASS instruction selects the bypass register. -/
  | jtagBypass
  /-- JTAG_IDCODE (R498): The IDCODE instruction selects the identification register. -/
  | jtagIdcode
  /-- JTAG_SAMPLE_PRELOAD (R498): SAMPLE/PRELOAD captures or preloads the boundary cells. -/
  | jtagSamplePreload (cells : List Bool)
  /-- JTAG_EXTEST (R499): EXTEST drives the balls from the chain only in BACKUP or SAFE. -/
  | jtagExtest
  /-- JTAG_CLAMP (R499): CLAMP holds the balls at preloaded values only in BACKUP or SAFE. -/
  | jtagClamp
  /-- JTAG_HIGHZ (R499): HIGHZ sets the outputs high-impedance only in BACKUP or SAFE. -/
  | jtagHighz
  /-- D2D_LINK_RETRAIN (R27): The die-to-die link regains lock within 10 ms after a loss, which cancels the fatal timeout. -/
  | d2dLinkRetrain
  /-- TB_SYNTHESIZER_LOCK (R57): At the entry into BOOT the TB synthesizer achieves lock, and the master is seeded then. -/
  | tbSynthesizerLock
  /-- FLASH_IDENTIFICATION_RETRY (R371): A failed flash identification is retried 10 ms later, up to three attempts, before BOOT ends in SAFE with reason FLASH. -/
  | flashIdentificationRetry (flashId : Bool)
  /-- PULLIN_COMPLETE (R127): A GNSS channel that was handed a detected cell completes PULLIN and enters TRACK. -/
  | pullinComplete (c : Fin 256)
  /-- FOLLOW_UP_RX (R295): A Follow_Up received on the PTPIN port supplies the precise origin timestamp and correction of a two-step Sync for the PTPIN measurement. -/
  | followUpRx (g : Eng)
  /-- NAK (R365): A lease-protocol NAK message is received from the partner, checked under R365 and accepted. -/
  | nakRx (inband : Bool) (msg : List Byte) (ago : Nat)
  /-- OMP_CONNECTION_END (R412): The TCP connection that carries an OMP session ends, and the session closes. -/
  | ompConnectionEnd (conn : Nat)
  /-- VBAT_LOSS (R469): VBAT falls below 1.700 V while VIO18 is absent, and the backup counter and the KEK are lost. -/
  | vbatLoss
  /-- VBAT_RETURN (R468): VBAT returns while VIO18 is absent, and the backup domain starts again with its crystal and tamper watch and an invalid counter. -/
  | vbatReturn
  deriving DecidableEq, Repr

end Sys2Proof
end

