-- ==== Sys2Proof/Config.lean ====
section
/-! DEFINITION. What the specification leaves open: every constant here is opaque, so no proof can see a value of it.
A statement that holds of this model holds whatever these constants are. -/
namespace Sys2Proof.Config

/-- A fresh value the spec does not fix: the n-th draw, within the limits the user of the draw sets
(DESIGN CHOICE notes/assumptions/3.md). -/
opaque freeValue : Nat → Nat

/-- The DRBG's n-th draw, reduced by the user of the draw to the width it takes (R396; DESIGN CHOICE notes/assumptions/3.md). -/
opaque drbg : Nat → Nat

/-- SHA-256 (FIPS 180-4), as an uninterpreted function of the bytes hashed (DESIGN CHOICE notes/assumptions/4.md). -/
opaque sha256 : List Byte → BitVec 256

/-- SHA-384 (FIPS 180-4), uninterpreted. -/
opaque sha384 : List Byte → BitVec 384

/-- SHA-512 (FIPS 180-4), uninterpreted. -/
opaque sha512 : List Byte → BitVec 512

/-- HMAC-SHA-256 (RFC 2104) of a key and a message, uninterpreted. -/
opaque hmac256 : List Byte → List Byte → BitVec 256

/-- AES-CMAC of a key and a message, uninterpreted. -/
opaque aesCmac : List Byte → List Byte → BitVec 128

/-- AES-SIV-CMAC seal (RFC 5297): key, associated data, nonce and plaintext give the synthetic IV and ciphertext,
uninterpreted. -/
opaque sivSeal : List Byte → List (List Byte) → List Byte → List Byte

/-- AES-SIV-CMAC open: the plaintext, or nothing when the check fails, uninterpreted. -/
opaque sivOpen : List Byte → List (List Byte) → List Byte → Option (List Byte)

/-- HKDF-SHA-256 with a key, a salt and an info string, uninterpreted. -/
opaque hkdf : List Byte → List Byte → List Byte → BitVec 256

/-- A public key derived from a private value, by key type, uninterpreted. -/
opaque publicKey : Nat → Nat → BitVec 256

/-- The keyed row hash of the rate sketch (R232): row, key drawn at BOOT, and the client key, uninterpreted. -/
opaque sketchHash : Nat → Nat → Nat → Nat

/-- The keyed dispatch hash (R218): the key drawn at BOOT and the bytes of a request's flow, uninterpreted. -/
opaque dispatchHash : Nat → List Byte → Nat

/-- The firmware's running mean of an acceleration axis (R54): HPF code, sample rate, previous mean and new
sample, in 1/65536 of a raw unit. Its arithmetic is not stated (DESIGN CHOICE notes/assumptions/5.md). -/
opaque accMean : Nat → Nat → Int → Int → Int

/-- The interpolator's conversion table (R64, R76): table number and bin give a position in 2^-16 ns. -/
opaque interp : Nat → Nat → Int

/-- Whether a quotient that is not whole is rounded up, where the spec states no rounding
(DESIGN CHOICE notes/assumptions/6.md): numerator and denominator. -/
opaque roundUp : Int → Nat → Bool

/-- A holdover fit the least-squares system does not determine (R98): the fitted windows and the parameter asked
for (DESIGN CHOICE notes/assumptions/7.md). -/
opaque undeterminedFit : List (Nat × Nat × Int × Int) → Nat → Int

/-- What the loop of a DPLL on TB leaves, after some ticks, of a phase error in ps, by its bandwidth in mHz (R107): the rule gives
bandwidth, order and peaking, and no response (DESIGN CHOICE notes/assumptions/51.md). -/
opaque dpllLoop : Nat → Int → Nat → Int

/-- The factory-calibrated delay from the marker tap of a port to its ball, in 2^-16 ns (R204): the spec gives no
value (DESIGN CHOICE notes/assumptions/13.md). -/
opaque serDelay : Nat → Int

/-- The boot-ROM table of primes between 2^60 and 2^61 for the residue shadow, less 2^60 (R334): its content is not given
(DESIGN CHOICE notes/assumptions/21.md). -/
opaque shadowPrime : Nat → Nat

/-- The TLS records that carry some content on a connection, by the count of draws before them (R255): their bytes depend on keys the
spec leaves to TLS 1.3 (DESIGN CHOICE notes/assumptions/59.md). -/
opaque tlsWire : List Byte → Nat → List Byte

/-- The Ed25519 signature (RFC 8032) of a message under a private key, uninterpreted. -/
opaque ed25519 : Nat → List Byte → BitVec 512

/-- AES key wrap (RFC 3394) of a 32-byte key under a 32-byte key, and its inverse, uninterpreted. -/
opaque keyWrap : Nat → Nat → BitVec 320
opaque keyUnwrap : Nat → BitVec 320 → Option (BitVec 256)

/-- The golden signature of the boot ROM by unit type (R435): the spec gives no value (DESIGN CHOICE notes/assumptions/18.md). -/
opaque golden : Nat → BitVec 64

/-- The spectral flatness, in 2^-32, of a spectrum without power, where R142 gives 0 / 0, and the multipath metric in 2^-15 of a
channel without prompt power, where R126 divides by 0 (DESIGN CHOICE notes/assumptions/22.md). -/
opaque flatness : List Nat → Nat
opaque zeroPrompt : Nat → Nat → Int

/-- The bytes of the orbit data that are written to flash: almanacs, position and UTC parameters; the spec gives no layout
(DESIGN CHOICE notes/assumptions/25.md). -/
opaque orbitBody : List (Nat × Nat) → Option (Int × Int × Int) → Option (Int × Nat × Nat) → List Byte

/-- The temperature in 0.01 degC that the image's thermistor coefficients give for an ADC code (R489): the layout of the
coefficients is not given (DESIGN CHOICE notes/assumptions/25.md). -/
opaque thermistor : Nat → Int

/-- What sections of the image hold whose layout the spec does not give (DESIGN CHOICE notes/assumptions/25.md): of CERTS, the server name
and for each chain its algorithm, notBefore, notAfter and digest; of GOLDEN, unit type, count and signature; of FELIST, the
bytes sent and expected; of ORBIT, the position and UTC parameters; of FIRMWARE, the antenna and code of each enabled signal;
of KEYS, the address and for each entry its index, type, classes, users and wrapped value. -/
opaque certsSection : List Byte → List Byte × List (Nat × Nat × Nat × Nat)
opaque goldenSection : List Byte → List (Nat × Nat × Nat)
opaque feSection : List Byte → List (List Byte × Option (List Byte))
opaque orbitPos : List Byte → Option (Int × Int × Int)
opaque orbitUtc : List Byte → Option (Int × Nat × Nat)
opaque orbitAlms : List Byte → List (Nat × Nat)
opaque signals : List Byte → List (Nat × Nat)
opaque keysSection : List Byte → List Byte × List (Nat × Nat × Nat × Nat × List Byte)

/-- The import key derived from the device-unique key, and the chain that unwraps an entry under it (R391, R392),
uninterpreted. -/
opaque importKey : Nat → Nat
opaque importEntry : Nat → List Byte → Option Nat

/-- ECDSA P-384 verification (FIPS 186-5): key, digest and signature, uninterpreted. -/
opaque ecdsaP384 : List Byte → BitVec 384 → List Byte → Bool

end Sys2Proof.Config
end

