-- ==== Sys2Proof/Machine/SMap.lean ====
section
/-! DEFINITION. Sparse maps over natural-number keys in one canonical form: keys strictly rising, and no entry
equal to the default that an unlisted key reads as. The register file, the memories and every indexed family of
state use them, so that equal contents are equal data. -/
namespace Sys2Proof.Machine

/-- The value at key `a`; an unlisted key reads as `d`. -/
def SMap.get {α : Type} (d : α) : List (Nat × α) → Nat → α
  | [], _ => d
  | (k, v) :: t, a => if k = a then v else SMap.get d t a

/-- Put `(a, x)` at its place in a rising list that does not list `a`. -/
def SMap.insert {α : Type} : List (Nat × α) → Nat → α → List (Nat × α)
  | [], a, x => [(a, x)]
  | (k, v) :: t, a, x => if a < k then (a, x) :: (k, v) :: t else (k, v) :: SMap.insert t a x

/-- Write `x` at key `a`; writing the default removes the entry. -/
def SMap.set {α : Type} [DecidableEq α] (d : α) (m : List (Nat × α)) (a : Nat) (x : α) : List (Nat × α) :=
  if x = d then m.filter (fun p => p.1 ≠ a) else SMap.insert (m.filter (fun p => p.1 ≠ a)) a x

/-- The canonical form. -/
def SMap.wf {α : Type} [DecidableEq α] (d : α) : List (Nat × α) → Bool
  | [] => true
  | (k, v) :: t => decide (v ≠ d) && t.all (fun p => decide (k < p.1)) && SMap.wf d t

/-- Write the values `xs` at keys `a`, `a + 1`, … in turn. -/
def SMap.setMany {α : Type} [DecidableEq α] (d : α) (m : List (Nat × α)) (a : Nat) : List α → List (Nat × α)
  | [] => m
  | x :: xs => SMap.setMany d (SMap.set d m a x) (a + 1) xs

/-- The `n` values from key `a` on. -/
def SMap.getMany {α : Type} (d : α) (m : List (Nat × α)) (a n : Nat) : List α :=
  (List.range n).map fun i => SMap.get d m (a + i)

/-- The memory without the keys from `a` to `a + n - 1`. -/
def SMap.clearRange {α : Type} (m : List (Nat × α)) (a n : Nat) : List (Nat × α) :=
  m.filter fun p => decide (p.1 < a ∨ a + n ≤ p.1)

end Sys2Proof.Machine
end

