-- ==== Sys2Proof/Machine/Operands.lean ====
section
/-! DEFINITION. The forms operands take: bytes and numbers, check codes, and the divisions with their roundings. -/
namespace Sys2Proof.Machine

/-- A number from bytes, most significant first. -/
def beNat (bs : List Byte) : Nat := bs.foldl (fun n b => n * 256 + b.toNat) 0

/-- A number from bytes, least significant first. -/
def leNat (bs : List Byte) : Nat := bs.foldr (fun b n => b.toNat + n * 256) 0

/-- The low `n` bytes of a number, most significant first. -/
def beBytes : Nat → Nat → List Byte
  | 0, _ => []
  | n + 1, v => beBytes n (v / 256) ++ [BitVec.ofNat 8 v]

/-- The low `n` bytes of a number, least significant first. -/
def leBytes : Nat → Nat → List Byte
  | 0, _ => []
  | n + 1, v => BitVec.ofNat 8 v :: leBytes n (v / 256)

/-- `n` bytes from offset `o`. -/
def slice (bs : List Byte) (o n : Nat) : List Byte := (bs.drop o).take n

/-- One step of a reflected CRC of 32 bits. -/
def crc32Bit (poly c : Nat) : Nat := if c % 2 = 1 then (c / 2) ^^^ poly else c / 2

/-- CRC-32C: polynomial 0x1EDC6F41, reflected, initial value and final exclusive-or all ones (spec/00_scope.md). -/
def crc32c (bs : List Byte) : Nat :=
  (bs.foldl (fun c b => (List.range 8).foldl (fun c _ => crc32Bit 0x82F63B78 c) (c ^^^ b.toNat)) 0xFFFFFFFF)
    ^^^ 0xFFFFFFFF

/-- A CRC without reflection, of `w` bits. -/
def crcPlain (w poly init : Nat) (bs : List Byte) : Nat :=
  bs.foldl (fun c b =>
    (List.range 8).foldl (fun c _ =>
      if c.testBit (w - 1) then (c * 2 % 2 ^ w) ^^^ poly else c * 2 % 2 ^ w) (c ^^^ (b.toNat * 2 ^ (w - 8)))) init

/-- CRC-8 of the SPI target: polynomial 0x07, initial value 0xFF (R407). -/
def crc8 (bs : List Byte) : Nat := crcPlain 8 0x07 0xFF bs

/-- CRC-16 of the binary TOD message: polynomial 0x1021, initial value 0xFFFF (R114). -/
def crc16 (bs : List Byte) : Nat := crcPlain 16 0x1021 0xFFFF bs

/-- The ones'-complement sum of 16-bit words, folded (RFC 768, RFC 791). -/
def onesSum : List Byte → Nat
  | [] => 0
  | [a] => a.toNat * 256
  | a :: b :: t => (fun n => n % 65536 + n / 65536) (a.toNat * 256 + b.toNat + onesSum t)

/-- The quotient rounded up. -/
def ceilDiv (n d : Nat) : Nat := if d = 0 then 0 else (n + d - 1) / d

/-- A quotient whose rounding the spec does not state: exact when whole, else one of the two neighbours
(DESIGN CHOICE notes/assumptions/6.md). -/
def divRound (n : Int) (d : Nat) : Int :=
  if d = 0 then 0 else if n % d = 0 then n / d else if Config.roundUp n d then n / d + 1 else n / d

/-- The nearest whole quotient; at a tie, one of the two neighbours. -/
def nearestDiv (n : Int) (d : Nat) : Int :=
  if d = 0 then 0
  else if 2 * (n % d) < d then n / d else if 2 * (n % d) > d then n / d + 1 else divRound n d

/-- The whole part of a square root, by `fuel` steps of bisection from bit `fuel`. -/
def isqrtAux : Nat → Nat → Nat → Nat
  | 0, _, r => r
  | k + 1, n, r => isqrtAux k n (if (r + 2 ^ k) * (r + 2 ^ k) ≤ n then r + 2 ^ k else r)

/-- The whole part of the square root of a number below 2^256. -/
def isqrt (n : Nat) : Nat := isqrtAux 128 n 0

/-- The exclusive or of characters (R106, R115). -/
def xorBytes (bs : List Byte) : Nat := bs.foldl (fun c b => c ^^^ b.toNat) 0

/-- The `n` lowest decimal digits of a number as characters, zero-padded. -/
def decDigits : Nat → Nat → List Byte
  | 0, _ => []
  | n + 1, v => decDigits n (v / 10) ++ [BitVec.ofNat 8 (48 + v % 10)]

/-- A hexadecimal digit as an upper-case character. -/
def hexDigit (v : Nat) : Byte := BitVec.ofNat 8 (if v % 16 < 10 then 48 + v % 16 else 55 + v % 16)

/-- Two hexadecimal digits. -/
def hex2 (v : Nat) : List Byte := [hexDigit (v / 16), hexDigit v]

/-- A sign character and `n` digits. -/
def signDigits (n : Nat) (i : Int) : List Byte :=
  (if i < 0 then (45 : Byte) else 43) :: decDigits n i.natAbs

/-- The characters of a string. -/
def chars (t : String) : List Byte := t.toList.map fun c => BitVec.ofNat 8 c.toNat

/-- The decimal number of digit characters, if all are digits. -/
def decNat (bs : List Byte) : Option Nat :=
  bs.foldl (fun acc b => match acc with
    | none => none
    | some n => if 48 ≤ b.toNat ∧ b.toNat ≤ 57 then some (n * 10 + (b.toNat - 48)) else none) (some 0)

/-- The value of a hexadecimal digit character. -/
def hexVal (b : Byte) : Option Nat :=
  let c := b.toNat
  if 48 ≤ c ∧ c ≤ 57 then some (c - 48)
  else if 65 ≤ c ∧ c ≤ 70 then some (c - 55)
  else if 97 ≤ c ∧ c ≤ 102 then some (c - 87) else none

end Sys2Proof.Machine
end

