-- ==== Sys2Proof/Machine/Frames.lean ====
section
/-! DEFINITION. Ethernet frames as bytes (spec/06_ports_and_mac.md): parsing, checksums and building. -/
namespace Sys2Proof.Machine

/-! ### Check codes -/

/-- The frame check sequence of IEEE 802.3 over the bytes before it, four bytes in wire order. -/
def fcsOf (bs : List Byte) : List Byte :=
  leBytes 4 ((bs.foldl (fun c b => (List.range 8).foldl (fun c _ => crc32Bit 0xEDB88320 c) (c ^^^ b.toNat)) 0xFFFFFFFF)
    ^^^ 0xFFFFFFFF)

/-- The bitwise inverse of bytes (R176). -/
def invBytes (bs : List Byte) : List Byte := bs.map fun b => ~~~b

/-- The ones'-complement sum of two folded sums. -/
def onesAdd (a b : Nat) : Nat := (fun n => n % 65536 + n / 65536) (a + b)

/-! ### Parsing -/

/-- The header of a frame: addresses, VLAN tags with their TPIDs, the EtherType after the tags and its offset. -/
structure L2 where
  da : Nat
  sa : Nat
  tags : List (Nat × Nat)
  etype : Nat
  l3 : Nat
  deriving DecidableEq, Repr

/-- The tags from offset `o`, at most `fuel` of them, the EtherType and the offset after it. -/
def tagsFrom : Nat → List Byte → Nat → List (Nat × Nat) × Nat × Nat
  | 0, bs, o => ([], beNat (slice bs o 2), o + 2)
  | k + 1, bs, o =>
    let t := beNat (slice bs o 2)
    if t = 0x8100 ∨ t = 0x88A8 then
      let r := tagsFrom k bs (o + 4)
      ((t, beNat (slice bs (o + 2) 2)) :: r.1, r.2)
    else ([], t, o + 2)

/-- Parse the header; three tags are more than R164 accepts. -/
def parseL2 (bs : List Byte) : L2 :=
  let r := tagsFrom 3 bs 12
  { da := beNat (bs.take 6), sa := beNat (slice bs 6 6), tags := r.1, etype := r.2.1, l3 := r.2.2 }

/-- The IP header of a frame and where its payload lies. -/
structure Ip where
  ver : Nat
  src : List Byte
  dst : List Byte
  proto : Nat
  frag : Bool
  l4 : Nat
  len : Nat
  deriving DecidableEq, Repr

/-- IPv4 or IPv6 by EtherType: 1, 2, or 0 for another (R223). -/
def ipVer (etype : Nat) : Nat := if etype = 0x0800 then 1 else if etype = 0x86DD then 2 else 0

/-- The bytes of a frame from the end of the EtherType to the start of the FCS. -/
def l3Bytes (bs : List Byte) (h : L2) : List Byte := (bs.take (bs.length - 4)).drop h.l3

/-- The frame is too short to hold its IP header (R164, check 9). -/
def ipShort (bs : List Byte) (h : L2) : Bool :=
  let b := l3Bytes bs h
  match ipVer h.etype with
  | 1 => b.length < 20 || b.length < (beNat (b.take 1) % 16) * 4
  | 2 => b.length < 40
  | _ => false

/-- Parse the IP header of a frame that is long enough; none when check 9 of R164 fails. -/
def parseIp (bs : List Byte) (h : L2) : Option Ip :=
  let b := l3Bytes bs h
  if ipShort bs h then none
  else match ipVer h.etype with
  | 1 =>
    let ihl := beNat (b.take 1) % 16
    let total := beNat (slice b 2 2)
    let fo := beNat (slice b 6 2)
    if beNat (b.take 1) / 16 = 4 ∧ 5 ≤ ihl ∧ onesSum (b.take (ihl * 4)) = 0xFFFF ∧ ihl * 4 ≤ total ∧ total ≤ b.length then
      some { ver := 1, src := slice b 12 4, dst := slice b 16 4, proto := beNat (slice b 9 1),
             frag := fo / 8192 % 2 = 1 || fo % 8192 ≠ 0, l4 := h.l3 + ihl * 4, len := total - ihl * 4 }
    else none
  | 2 =>
    let n := beNat (slice b 4 2)
    if n + 40 ≤ b.length then
      some { ver := 2, src := slice b 8 16, dst := slice b 24 16, proto := beNat (slice b 6 1),
             frag := beNat (slice b 6 1) = 44, l4 := h.l3 + 40, len := n }
    else none
  | _ => none

/-- The sum of the pseudo-header of UDP, TCP and ICMPv6. -/
def pseudoSum (src dst : List Byte) (proto len : Nat) : Nat :=
  onesAdd (onesAdd (onesSum src) (onesSum dst)) (onesAdd (proto % 65536) (onesAdd (len / 65536) (len % 65536)))

/-- Check 11 of R164: the UDP length and checksum, or the TCP checksum, are right. -/
def l4Ok (bs : List Byte) (ip : Ip) : Bool :=
  if ip.proto = 17 then
    let n := beNat (slice bs (ip.l4 + 4) 2)
    let c := beNat (slice bs (ip.l4 + 6) 2)
    8 ≤ ip.len && 8 ≤ n && n ≤ ip.len &&
      (if c = 0 then ip.ver == 1
       else onesAdd (pseudoSum ip.src ip.dst 17 n) (onesSum (slice bs ip.l4 n)) == 0xFFFF)
  else if ip.proto = 6 then
    onesAdd (pseudoSum ip.src ip.dst 6 ip.len) (onesSum (slice bs ip.l4 ip.len)) == 0xFFFF
  else true

/-- The destination port of a UDP or TCP frame. -/
def dstPort (bs : List Byte) (ip : Ip) : Nat := beNat (slice bs (ip.l4 + 2) 2)

/-- The payload of a UDP frame. -/
def udpPayload (bs : List Byte) (ip : Ip) : List Byte :=
  slice bs (ip.l4 + 8) (beNat (slice bs (ip.l4 + 4) 2) - 8)

/-! ### Building -/

/-- Write bytes over others from offset `o`; bytes beyond the end are not written. -/
def overwrite (bs : List Byte) (o : Nat) (new : List Byte) : List Byte :=
  bs.take o ++ new.take (bs.length - o) ++ bs.drop (o + new.length)

/-- A checksum of zero is sent as all ones (RFC 768). -/
def nonZeroSum (c : Nat) : Nat := if c = 0 then 0xFFFF else c

/-- A UDP datagram with its checksum over the pseudo-header. -/
def udpBytes (src dst : List Byte) (sport dport : Nat) (payload : List Byte) : List Byte :=
  let n := payload.length + 8
  let h := beBytes 2 sport ++ beBytes 2 dport ++ beBytes 2 n
  let c := 0xFFFF - onesAdd (pseudoSum src dst 17 n) (onesSum (h ++ [0, 0] ++ payload))
  h ++ beBytes 2 (nonZeroSum c) ++ payload

/-- An IPv4 header without options: identification 0, DF = 1. -/
def ip4Header (src dst : List Byte) (proto len dscp ttl : Nat) : List Byte :=
  let h (c : Nat) : List Byte := [0x45, BitVec.ofNat 8 (dscp * 4)] ++ beBytes 2 (len + 20) ++ [0, 0, 0x40, 0, BitVec.ofNat 8 ttl, BitVec.ofNat 8 proto] ++
    beBytes 2 c ++ src ++ dst
  h (0xFFFF - onesSum (h 0))

/-- An IPv6 fixed header. -/
def ip6Header (src dst : List Byte) (proto len dscp hop : Nat) : List Byte :=
  beBytes 4 (6 * 2 ^ 28 + dscp * 2 ^ 22) ++ beBytes 2 len ++ [BitVec.ofNat 8 proto, BitVec.ofNat 8 hop] ++ src ++ dst

/-- An IP packet of either version. -/
def ipPacket (src dst : List Byte) (proto dscp ttl : Nat) (payload : List Byte) : List Byte :=
  (if src.length = 4 then ip4Header src dst proto payload.length dscp ttl
   else ip6Header src dst proto payload.length dscp ttl) ++ payload

/-- The Ethernet header with the tags of a stack. -/
def ethHeader (da sa : Nat) (tags : List (Nat × Nat)) (etype : Nat) : List Byte :=
  beBytes 6 da ++ beBytes 6 sa ++ tags.flatMap (fun t => beBytes 2 t.1 ++ beBytes 2 t.2) ++ beBytes 2 etype

/-- A frame padded with zero bytes to 60 bytes before the FCS (R163). -/
def padFrame (bs : List Byte) : List Byte := bs ++ List.replicate (60 - bs.length) 0

/-- RFC 1624: a checksum word after old words are replaced by new ones, given their sums. -/
def updateSum (c oldSum newSum : Nat) : Nat :=
  0xFFFF - onesAdd (onesAdd (0xFFFF - c) (0xFFFF - oldSum)) newSum

end Sys2Proof.Machine
end

