-- ==== Sys2Proof/Machine/RegTypes.lean ====
section
/-! DEFINITION. What a register field is (spec/00_scope.md R9 to R11), and the reset values that depend on an index. -/
namespace Sys2Proof.Machine

/-- A register field: the register's address, the field's bit range and its reset value. -/
structure Field where
  addr : Nat
  hi : Nat
  lo : Nat
  reset : Nat
  deriving DecidableEq, Repr

/-- The access codes of R11. -/
inductive Access where
  | ro | rw | rc | w1c | wo | cmd
  deriving DecidableEq, Repr

/-- A field as the register map lists it: its place, its access code, and whether the image sets it. -/
structure RegField where
  field : Field
  access : Access
  image : Bool
  deriving DecidableEq, Repr

/-- A family of registers: the address of the first, up to three strides and counts, and the fields by index. -/
structure RegEnt where
  base : Nat
  s1 : Nat
  c1 : Nat
  s2 : Nat
  c2 : Nat
  s3 : Nat
  c3 : Nat
  fields : Nat → Nat → Nat → List RegField

/-- R214: the default clusters of partition k. -/
def partDefaultMask : Nat → Nat
  | 0 => 0x00008000
  | 1 => 0x80800000
  | 2 => 0x07070707
  | 3 => 0x18181818
  | 4 => 0x202020A0
  | 5 => 0x40404040
  | _ => 0

/-- R214: the default partition of cluster c. -/
def clusterDefaultPart (c : Nat) : Nat :=
  ((List.range 6).find? fun k => (partDefaultMask k).testBit c).getD 0

/-- R248: the default LI3 of class c. -/
def ntpDefaultLi3 (c : Nat) : Nat := if c = 6 ∨ c = 7 then 1 else 0

/-- R248: the default stratum of class c. -/
def ntpDefaultStratum (c : Nat) : Nat :=
  if c = 3 then 2 else if c = 6 ∨ c = 7 then 16 else 1

/-- R248: the default Reference ID of class c. -/
def ntpDefaultRefid : Nat → Nat
  | 0 => 0x474E5353
  | 1 => 0x41544F4D
  | 2 => 0x50545000
  | 3 => 0x5052544E
  | 4 => 0x544F4400
  | 5 => 0x00000000
  | 6 => 0x4C4F434C
  | 7 => 0x494E4954
  | _ => 0

/-- R281: the default offsetScaledLogVariance of quality state s (profile 0). -/
def ptpDefaultOslv (s : Nat) : Nat := if s = 0 ∨ s = 2 then 0x4E5D else 0xFFFF

/-- R281: the default clockClass of quality state s (profile 0). -/
def ptpDefaultClass : Nat → Nat
  | 0 => 6
  | 1 => 13
  | 2 => 7
  | 3 => 52
  | 4 => 248
  | _ => 0

end Sys2Proof.Machine
end

