-- ==== Sys2Proof/Machine/Regs.lean ====
section
/-! DEFINITION. The register fields of the part, one constant a field, transcribed from the register
tables of spec/00 to spec/19 (address, bit range, reset value). Generated by a script from those tables. -/
namespace Sys2Proof.Machine

/-! ### 01_architecture.md -/
def SYS_ID_PART : Field := ⟨0x0, 31, 16, 0x9620⟩
def SYS_ID_GRADE : Field := ⟨0x0, 11, 8, 1⟩
def SYS_ID_STEP : Field := ⟨0x0, 7, 0, 0x2⟩
def SYS_MODE_MODELVALID : Field := ⟨0x10, 17, 17, 0x0⟩
def SYS_MODE_PAIR : Field := ⟨0x10, 16, 16, 0x0⟩
def SYS_MODE_CAUSE : Field := ⟨0x10, 15, 8, 0x0⟩
def SYS_MODE_PREV : Field := ⟨0x10, 7, 4, 0xF⟩
def SYS_MODE_MODE : Field := ⟨0x10, 3, 0, 0x0⟩
def SYS_MODETIME_TS (i : Nat) : Field := ⟨0x14 + 0x4 * i, 31, 0, 0x0⟩
def SYS_MODECMD_STATUS : Field := ⟨0x20, 9, 8, 0x0⟩
def SYS_MODECMD_CODE : Field := ⟨0x20, 7, 0, 0x0⟩

/-! ### 02_time_base.md -/
def TB_CTL_HOSTSTEER : Field := ⟨0x30000, 0, 0, 0x0⟩
def TB_STATUS_BKVALID : Field := ⟨0x30004, 16, 16, 0x0⟩
def TB_STATUS_REPFLAG : Field := ⟨0x30004, 15, 12, 0x0⟩
def TB_STATUS_FAILEDCOPY : Field := ⟨0x30004, 11, 10, 0x0⟩
def TB_STATUS_COPYFAIL : Field := ⟨0x30004, 9, 9, 0x0⟩
def TB_STATUS_STEPPEND : Field := ⟨0x30004, 8, 8, 0x0⟩
def TB_STATUS_SLEWLIM : Field := ⟨0x30004, 7, 7, 0x0⟩
def TB_STATUS_GCALRUN : Field := ⟨0x30004, 6, 6, 0x0⟩
def TB_STATUS_ACCFAULT : Field := ⟨0x30004, 5, 5, 0x0⟩
def TB_STATUS_WARMRULE : Field := ⟨0x30004, 4, 4, 0x0⟩
def TB_STATUS_SYNLOCK : Field := ⟨0x30004, 3, 3, 0x0⟩
def TB_STATUS_OSCLOSS : Field := ⟨0x30004, 2, 2, 0x0⟩
def TB_STATUS_OCXOWARM : Field := ⟨0x30004, 1, 1, 0x0⟩
def TB_STATUS_WARM : Field := ⟨0x30004, 0, 0, 0x1⟩
def TB_OSC_RATIO : Field := ⟨0x30008, 15, 8, 0x64⟩
def TB_OSC_FSEL : Field := ⟨0x30008, 2, 0, 0x0⟩
def TB_NOW_TS (i : Nat) : Field := ⟨0x30010 + 0x4 * i, 31, 0, 0x0⟩
def TB_CAP_CAPTURE : Field := ⟨0x3001C, 0, 0, 0x0⟩
def TB_INCR_LO_FRACLO : Field := ⟨0x30020, 31, 0, 0x0⟩
def TB_INCR_HI_INT : Field := ⟨0x30024, 15, 8, 0x1⟩
def TB_INCR_HI_FRACHI : Field := ⟨0x30024, 7, 0, 0x0⟩
def TB_EFFINCR_LO_FRACLO : Field := ⟨0x30028, 31, 0, 0x0⟩
def TB_EFFINCR_HI_INTFRAC : Field := ⟨0x3002C, 15, 0, 0x100⟩
def TB_STEP_STEP (i : Nat) : Field := ⟨0x30030 + 0x4 * i, 31, 0, 0x0⟩
def TB_STEPCTL_STATE : Field := ⟨0x3003C, 3, 2, 0x0⟩
def TB_STEPCTL_ACTION : Field := ⟨0x3003C, 1, 0, 0x0⟩
def TB_STEPTHR_THR : Field := ⟨0x30040, 31, 0, 0x64⟩
def TB_SLEWMAX_RATE : Field := ⟨0x30044, 31, 0, 0x2710⟩
def TB_WARMLIM_LIM : Field := ⟨0x30048, 31, 0, 0x64⟩
def TB_WARMN_N : Field := ⟨0x3004C, 7, 0, 0x6⟩
def TB_WARMMIN_SEC : Field := ⟨0x30050, 15, 0, 0x258⟩
def TB_WARMDRIFT_COUNT : Field := ⟨0x30054, 31, 24, 0x0⟩
def TB_WARMDRIFT_DRIFT : Field := ⟨0x30054, 23, 0, 0x0⟩
def TB_UTC_PENDING : Field := ⟨0x30060, 31, 31, 0x0⟩
def TB_UTC_SOURCE : Field := ⟨0x30060, 18, 18, 0x0⟩
def TB_UTC_LEAP : Field := ⟨0x30060, 17, 16, 0x0⟩
def TB_UTC_OFFSET : Field := ⟨0x30060, 15, 0, 0x0⟩
def TB_LEAPTIME0_SECLO : Field := ⟨0x30064, 31, 0, 0x0⟩
def TB_LEAPTIME1_SECHI : Field := ⟨0x30068, 15, 0, 0x0⟩
def TB_GCTL_SCALE : Field := ⟨0x30070, 23, 8, 0x3D⟩
def TB_GCTL_HPF : Field := ⟨0x30070, 7, 4, 0x5⟩
def TB_GCTL_RATE : Field := ⟨0x30070, 3, 1, 0x4⟩
def TB_GCTL_EN : Field := ⟨0x30070, 0, 0, 0x0⟩
def TB_ACCCMD_ORDER : Field := ⟨0x30074, 8, 8, 0x0⟩
def TB_ACCCMD_CMD : Field := ⟨0x30074, 7, 0, 0x0⟩
def TB_GSENS_GAMMA (i : Nat) : Field := ⟨0x30078 + 0x4 * i, 15, 0, 0x0⟩
def TB_GCOMP_CORR : Field := ⟨0x30084, 31, 0, 0x0⟩
def TB_GCAL_REF : Field := ⟨0x30088, 28, 24, 0x0⟩
def TB_GCAL_DURATION : Field := ⟨0x30088, 23, 16, 0x0⟩
def TB_GCAL_FREQ : Field := ⟨0x30088, 15, 8, 0x0⟩
def TB_GCAL_AXIS : Field := ⟨0x30088, 1, 0, 0x0⟩
def TB_GCALRES_STATE : Field := ⟨0x3008C, 31, 30, 0x0⟩
def TB_GCALRES_QUALITY : Field := ⟨0x3008C, 23, 16, 0x0⟩
def TB_GCALRES_GAMMA : Field := ⟨0x3008C, 15, 0, 0x0⟩
def TB_VOTE_COPY2 : Field := ⟨0x30090, 23, 16, 0x0⟩
def TB_VOTE_COPY1 : Field := ⟨0x30090, 15, 8, 0x0⟩
def TB_VOTE_COPY0 : Field := ⟨0x30090, 7, 0, 0x0⟩
def TB_REP_OFFSET (q : Nat) : Field := ⟨0x300A0 + 0x4 * q, 31, 16, 0x0⟩
def TB_REP_TRIM (q : Nat) : Field := ⟨0x300A0 + 0x4 * q, 15, 0, 0x0⟩
def TB_SEEDGAP_DELTA : Field := ⟨0x300B0, 31, 0, 0x0⟩

/-! ### 03_interval_measurement.md -/
def TDC_STATUS_CALDONE : Field := ⟨0x40000, 31, 31, 0x0⟩
def TDC_STATUS_CALRUN : Field := ⟨0x40000, 7, 7, 0x0⟩
def TDC_STATUS_CALIP : Field := ⟨0x40000, 6, 6, 0x0⟩
def TDC_STATUS_CALCH : Field := ⟨0x40000, 4, 0, 0x0⟩
def TDC_CAL_RUNALL : Field := ⟨0x40004, 31, 31, 0x0⟩
def TDC_CAL_TEMPSTEP : Field := ⟨0x40004, 23, 16, 0xA⟩
def TDC_CAL_PERIOD : Field := ⟨0x40004, 15, 0, 0xE10⟩
def TDC_CALFAIL_FAIL : Field := ⟨0x40008, 31, 0, 0x0⟩
def TDC_CH_EN (n : Nat) : Field := ⟨0x40100 + 0x40 * n, 31, 31, 0x0⟩
def TDC_CH_EDGE (n : Nat) : Field := ⟨0x40100 + 0x40 * n, 30, 29, 0x0⟩
def TDC_CH_WMODE (n : Nat) : Field := ⟨0x40100 + 0x40 * n, 28, 28, 0x0⟩
def TDC_CH_STEN (n : Nat) : Field := ⟨0x40100 + 0x40 * n, 27, 27, 0x0⟩
def TDC_CH_DIV (n : Nat) : Field := ⟨0x40100 + 0x40 * n, 15, 0, 0x1⟩
def TDC_CH_PER_LO (n : Nat) : Field := ⟨0x40104 + 0x40 * n, 31, 0, 0x0⟩
def TDC_CH_PER_HI (n : Nat) : Field := ⟨0x40108 + 0x40 * n, 31, 0, 0x0⟩
def TDC_CH_DLY (n : Nat) : Field := ⟨0x4010C + 0x40 * n, 31, 0, 0x0⟩
def TDC_CH_WIN (n : Nat) : Field := ⟨0x40110 + 0x40 * n, 31, 0, 0x1⟩
def TDC_CH_FULL (n : Nat) : Field := ⟨0x40114 + 0x40 * n, 31, 16, 0x0⟩
def TDC_CH_RATE (n : Nat) : Field := ⟨0x40114 + 0x40 * n, 15, 0, 0x0⟩
def TDC_CH_LASTSEQA (n : Nat) : Field := ⟨0x40118 + 0x40 * n, 31, 0, 0x0⟩
def TDC_CH_LAST (n i : Nat) : Field := ⟨0x4011C + 0x40 * n + 0x4 * i, 31, 0, 0x0⟩
def TDC_CH_LASTUNCAL (n : Nat) : Field := ⟨0x40128 + 0x40 * n, 31, 31, 0x0⟩
def TDC_CH_LASTEDGE (n : Nat) : Field := ⟨0x40128 + 0x40 * n, 30, 30, 0x0⟩
def TDC_CH_LASTSEQB (n : Nat) : Field := ⟨0x4012C + 0x40 * n, 31, 0, 0x0⟩
def TDC_CH_NOSWAP (n : Nat) : Field := ⟨0x40130 + 0x40 * n, 25, 25, 0x0⟩
def TDC_CH_ACTIVEIP (n : Nat) : Field := ⟨0x40130 + 0x40 * n, 24, 24, 0x0⟩
def TDC_CH_EMPTY (n : Nat) : Field := ⟨0x40130 + 0x40 * n, 23, 16, 0x0⟩
def TDC_CH_INLPEAK (n : Nat) : Field := ⟨0x40130 + 0x40 * n, 15, 0, 0x0⟩
def TDC_IV_EN (m : Nat) : Field := ⟨0x40900 + 0x20 * m, 31, 31, 0x0⟩
def TDC_IV_STEN (m : Nat) : Field := ⟨0x40900 + 0x20 * m, 30, 30, 0x0⟩
def TDC_IV_WMODE (m : Nat) : Field := ⟨0x40900 + 0x20 * m, 29, 29, 0x0⟩
def TDC_IV_STOP (m : Nat) : Field := ⟨0x40900 + 0x20 * m, 9, 5, 0x0⟩
def TDC_IV_START (m : Nat) : Field := ⟨0x40900 + 0x20 * m, 4, 0, 0x0⟩
def TDC_IV_WIN (m : Nat) : Field := ⟨0x40904 + 0x20 * m, 31, 0, 0x1DCD6500⟩
def TDC_IV_STWIN (m : Nat) : Field := ⟨0x40908 + 0x20 * m, 31, 0, 0x1⟩
def TDC_IV_RESSEQA (m : Nat) : Field := ⟨0x4090C + 0x20 * m, 31, 0, 0x0⟩
def TDC_IV_RES_LO (m : Nat) : Field := ⟨0x40910 + 0x20 * m, 31, 0, 0x0⟩
def TDC_IV_RES_HI (m : Nat) : Field := ⟨0x40914 + 0x20 * m, 31, 0, 0x0⟩
def TDC_IV_ORDER (m : Nat) : Field := ⟨0x40918 + 0x20 * m, 31, 31, 0x0⟩
def TDC_IV_SUBRES (m : Nat) : Field := ⟨0x40918 + 0x20 * m, 30, 30, 0x0⟩
def TDC_IV_RESSEQB (m : Nat) : Field := ⟨0x40918 + 0x20 * m, 29, 0, 0x0⟩
def TDC_IV_UNPAIRED (m : Nat) : Field := ⟨0x4091C + 0x20 * m, 31, 0, 0x0⟩
def TDC_ST_SEQA (e : Nat) : Field := ⟨0x41000 + 0x40 * e, 31, 0, 0x0⟩
def TDC_ST_VALID (e : Nat) : Field := ⟨0x41004 + 0x40 * e, 31, 31, 0x0⟩
def TDC_ST_SLOPEV (e : Nat) : Field := ⟨0x41004 + 0x40 * e, 30, 30, 0x0⟩
def TDC_ST_GAP (e : Nat) : Field := ⟨0x41004 + 0x40 * e, 29, 29, 0x0⟩
def TDC_ST_OVERFLOW (e : Nat) : Field := ⟨0x41004 + 0x40 * e, 28, 28, 0x0⟩
def TDC_ST_CUT (e : Nat) : Field := ⟨0x41004 + 0x40 * e, 27, 27, 0x0⟩
def TDC_ST_UNCAL (e : Nat) : Field := ⟨0x41004 + 0x40 * e, 26, 26, 0x0⟩
def TDC_ST_ORDERSEEN (e : Nat) : Field := ⟨0x41004 + 0x40 * e, 25, 25, 0x0⟩
def TDC_ST_SUBRESSEEN (e : Nat) : Field := ⟨0x41004 + 0x40 * e, 24, 24, 0x0⟩
def TDC_ST_COUNT (e : Nat) : Field := ⟨0x41004 + 0x40 * e, 23, 0, 0x0⟩
def TDC_ST_END (e i : Nat) : Field := ⟨0x41008 + 0x40 * e + 0x4 * i, 31, 0, 0x0⟩
def TDC_ST_MEAN_LO (e : Nat) : Field := ⟨0x41014 + 0x40 * e, 31, 0, 0x0⟩
def TDC_ST_MEAN_HI (e : Nat) : Field := ⟨0x41018 + 0x40 * e, 31, 0, 0x0⟩
def TDC_ST_SD (e : Nat) : Field := ⟨0x4101C + 0x40 * e, 31, 0, 0x0⟩
def TDC_ST_MIN_LO (e : Nat) : Field := ⟨0x41020 + 0x40 * e, 31, 0, 0x0⟩
def TDC_ST_MIN_HI (e : Nat) : Field := ⟨0x41024 + 0x40 * e, 31, 0, 0x0⟩
def TDC_ST_MAX_LO (e : Nat) : Field := ⟨0x41028 + 0x40 * e, 31, 0, 0x0⟩
def TDC_ST_MAX_HI (e : Nat) : Field := ⟨0x4102C + 0x40 * e, 31, 0, 0x0⟩
def TDC_ST_SLOPE_LO (e : Nat) : Field := ⟨0x41030 + 0x40 * e, 31, 0, 0x0⟩
def TDC_ST_SLOPE_HI (e : Nat) : Field := ⟨0x41034 + 0x40 * e, 15, 0, 0x0⟩
def TDC_ST_SEQB (e : Nat) : Field := ⟨0x4103C + 0x40 * e, 31, 0, 0x0⟩
def TDC_EQ_LEVEL (k : Nat) : Field := ⟨0x42000 + 0x20 * k, 8, 0, 0x0⟩
def TDC_EQ_HEADSEQA (k : Nat) : Field := ⟨0x42004 + 0x20 * k, 31, 0, 0x0⟩
def TDC_EQ_HEAD (k i : Nat) : Field := ⟨0x42008 + 0x20 * k + 0x4 * i, 31, 0, 0x0⟩
def TDC_EQ_GAP (k : Nat) : Field := ⟨0x42014 + 0x20 * k, 31, 31, 0x0⟩
def TDC_EQ_EDGE (k : Nat) : Field := ⟨0x42014 + 0x20 * k, 30, 30, 0x0⟩
def TDC_EQ_UNCAL (k : Nat) : Field := ⟨0x42014 + 0x20 * k, 29, 29, 0x0⟩
def TDC_EQ_LOSTN (k : Nat) : Field := ⟨0x42014 + 0x20 * k, 15, 0, 0x0⟩
def TDC_EQ_HEADSEQB (k : Nat) : Field := ⟨0x42018 + 0x20 * k, 31, 0, 0x0⟩
def TDC_EQ_LOST (k : Nat) : Field := ⟨0x4201C + 0x20 * k, 31, 16, 0x0⟩
def TDC_EQ_POP (k : Nat) : Field := ⟨0x4201C + 0x20 * k, 0, 0, 0x0⟩

/-! ### 04_references_holdover_outputs.md -/
def SEL_CTL_REVERT : Field := ⟨0x50000, 31, 31, 0x1⟩
def SEL_CTL_WTR : Field := ⟨0x50000, 15, 0, 0x12C⟩
def SEL_STATUS_ACQ : Field := ⟨0x50004, 31, 31, 0x0⟩
def SEL_STATUS_NOREF : Field := ⟨0x50004, 30, 30, 0x0⟩
def SEL_STATUS_RANKCONF : Field := ⟨0x50004, 29, 29, 0x0⟩
def SEL_STATUS_DRIFTUNRES : Field := ⟨0x50004, 28, 28, 0x0⟩
def SEL_STATUS_SWPEND : Field := ⟨0x50004, 27, 27, 0x0⟩
def SEL_STATUS_FREQONLY : Field := ⟨0x50004, 26, 26, 0x0⟩
def SEL_STATUS_EVERACTIVE : Field := ⟨0x50004, 25, 25, 0x0⟩
def SEL_STATUS_CONFSRC : Field := ⟨0x50004, 12, 8, 0x1F⟩
def SEL_STATUS_ACTIVE : Field := ⟨0x50004, 4, 0, 0x1F⟩
def SEL_PRIO_SOURCE (i : Nat) : Field := ⟨0x50010 + 0x4 * i, 12, 8, 0x0⟩
def SEL_PRIO_RANK (i : Nat) : Field := ⟨0x50010 + 0x4 * i, 3, 0, 0x0⟩
def SEL_TQR_SEQA : Field := ⟨0x50060, 31, 0, 0x0⟩
def SEL_TQR_OSCLOSS : Field := ⟨0x50064, 10, 10, 0x0⟩
def SEL_TQR_LEAPPEND : Field := ⟨0x50064, 9, 9, 0x0⟩
def SEL_TQR_TRACE : Field := ⟨0x50064, 8, 8, 0x0⟩
def SEL_TQR_CLASS : Field := ⟨0x50064, 2, 0, 0x7⟩
def SEL_TQR_TEB : Field := ⟨0x50068, 31, 0, 0xFFFFFFFF⟩
def SEL_TQR_FEB : Field := ⟨0x5006C, 31, 0, 0xFFFFFFFF⟩
def SEL_TQR_HOSEC : Field := ⟨0x50070, 31, 0, 0x0⟩
def SEL_TQR_TIME (i : Nat) : Field := ⟨0x50074 + 0x4 * i, 31, 0, 0x0⟩
def SEL_TQR_SEQB : Field := ⟨0x50080, 31, 0, 0x0⟩
def SEL_SWSLEW_SLEW : Field := ⟨0x50090, 31, 0, 0x0⟩
def SEL_HO_TRAINH : Field := ⟨0x500A0, 31, 16, 0x18⟩
def SEL_HO_MINSEC : Field := ⟨0x500A0, 15, 0, 0xE10⟩
def SEL_HO_HOAGEB : Field := ⟨0x500A4, 31, 0, 0x64⟩
def SEL_HO_HOTEMPB : Field := ⟨0x500A8, 31, 0, 0xA⟩
def SEL_HO_HOFINV : Field := ⟨0x500AC, 31, 0, 0xC350⟩
def SEL_HO_TRACELIM : Field := ⟨0x500B0, 31, 0, 0x3E8⟩
def SEL_HO_HOFPEN : Field := ⟨0x500B4, 31, 0, 0x3E8⟩
def SEL_HOMODEL_SEQA : Field := ⟨0x500C0, 31, 0, 0x0⟩
def SEL_HOMODEL_Y0 : Field := ⟨0x500C4, 31, 0, 0x0⟩
def SEL_HOMODEL_AGING : Field := ⟨0x500C8, 31, 0, 0x0⟩
def SEL_HOMODEL_TEMPCO : Field := ⟨0x500CC, 31, 0, 0x0⟩
def SEL_HOMODEL_TH : Field := ⟨0x500D0, 31, 0, 0x0⟩
def SEL_HOMODEL_VALID : Field := ⟨0x500D4, 31, 31, 0x0⟩
def SEL_HOMODEL_TRAINED : Field := ⟨0x500D4, 30, 0, 0x0⟩
def SEL_HOMODEL_SEQB : Field := ⟨0x500D8, 31, 0, 0x0⟩
def SEL_TODIN_EN : Field := ⟨0x500E0, 31, 31, 0x0⟩
def SEL_TODIN_PHASE : Field := ⟨0x500E0, 30, 30, 0x0⟩
def SEL_TODIN_EVT : Field := ⟨0x500E0, 29, 27, 0x0⟩
def SEL_TODIN_BAUD : Field := ⟨0x500E0, 3, 0, 0x1⟩
def SEL_SRC_EN (s : Nat) : Field := ⟨0x50100 + 0x40 * s, 31, 31, 0x0⟩
def SEL_SRC_TRACE (s : Nat) : Field := ⟨0x50100 + 0x40 * s, 30, 30, 0x0⟩
def SEL_SRC_DIFF (s : Nat) : Field := ⟨0x50100 + 0x40 * s, 29, 29, 0x0⟩
def SEL_SRC_QWIN (s : Nat) : Field := ⟨0x50100 + 0x40 * s, 23, 16, 0xA⟩
def SEL_SRC_TYPE (s : Nat) : Field := ⟨0x50100 + 0x40 * s, 3, 0, 0x0⟩
def SEL_SRC_FREQ (s : Nat) : Field := ⟨0x50104 + 0x40 * s, 31, 0, 0x0⟩
def SEL_SRC_FSOFT (s : Nat) : Field := ⟨0x50108 + 0x40 * s, 31, 0, 0x7D0⟩
def SEL_SRC_FHARD (s : Nat) : Field := ⟨0x5010C + 0x40 * s, 31, 0, 0x2710⟩
def SEL_SRC_PHSD (s : Nat) : Field := ⟨0x50110 + 0x40 * s, 31, 0, 0x186A0⟩
def SEL_SRC_PHJUMP (s : Nat) : Field := ⟨0x50114 + 0x40 * s, 31, 0, 0x32⟩
def SEL_SRC_DHARD (s : Nat) : Field := ⟨0x50118 + 0x40 * s, 31, 16, 0x64⟩
def SEL_SRC_DSOFT (s : Nat) : Field := ⟨0x50118 + 0x40 * s, 15, 0, 0x14⟩
def SEL_SRC_TEB (s : Nat) : Field := ⟨0x5011C + 0x40 * s, 31, 0, 0x0⟩
def SEL_SRC_FEB (s : Nat) : Field := ⟨0x50120 + 0x40 * s, 31, 0, 0x0⟩
def SEL_SRC_SEQA (s : Nat) : Field := ⟨0x50124 + 0x40 * s, 31, 0, 0x0⟩
def SEL_SRC_WTRLEFT (s : Nat) : Field := ⟨0x50128 + 0x40 * s, 31, 16, 0x0⟩
def SEL_SRC_REASON (s : Nat) : Field := ⟨0x50128 + 0x40 * s, 15, 8, 0x0⟩
def SEL_SRC_STATE (s : Nat) : Field := ⟨0x50128 + 0x40 * s, 2, 0, 0x0⟩
def SEL_SRC_FOFS (s : Nat) : Field := ⟨0x5012C + 0x40 * s, 31, 0, 0x0⟩
def SEL_SRC_PHASE_LO (s : Nat) : Field := ⟨0x50130 + 0x40 * s, 31, 0, 0x0⟩
def SEL_SRC_PHASE_HI (s : Nat) : Field := ⟨0x50134 + 0x40 * s, 31, 0, 0x0⟩
def SEL_SRC_DRIFT (s : Nat) : Field := ⟨0x50138 + 0x40 * s, 31, 0, 0x0⟩
def SEL_SRC_SEQB (s : Nat) : Field := ⟨0x5013C + 0x40 * s, 31, 0, 0x0⟩
def DPLL_EN (d : Nat) : Field := ⟨0x60000 + 0x20 * d, 31, 31, 0x0⟩
def DPLL_FALLBACK (d : Nat) : Field := ⟨0x60000 + 0x20 * d, 16, 16, 0x0⟩
def DPLL_BW (d : Nat) : Field := ⟨0x60000 + 0x20 * d, 12, 8, 0x9⟩
def DPLL_INPUT (d : Nat) : Field := ⟨0x60000 + 0x20 * d, 4, 0, 0x10⟩
def DPLL_LOCKTHR (d : Nat) : Field := ⟨0x60004 + 0x20 * d, 31, 0, 0x3E8⟩
def DPLL_INPUTNOW (d : Nat) : Field := ⟨0x60008 + 0x20 * d, 12, 8, 0x10⟩
def DPLL_STATE (d : Nat) : Field := ⟨0x60008 + 0x20 * d, 2, 0, 0x0⟩
def DPLL_PHERR (d : Nat) : Field := ⟨0x6000C + 0x20 * d, 31, 0, 0x0⟩
def DPLL_FOFS (d : Nat) : Field := ⟨0x60010 + 0x20 * d, 31, 0, 0x0⟩
def OUT_ALIGN_PENDING : Field := ⟨0x60100, 31, 31, 0x0⟩
def OUT_ALIGN_MASK : Field := ⟨0x60100, 15, 0, 0x0⟩
def OUT_EN (n : Nat) : Field := ⟨0x61000 + 0x40 * n, 31, 31, 0x0⟩
def OUT_POL (n : Nat) : Field := ⟨0x61000 + 0x40 * n, 30, 30, 0x0⟩
def OUT_KIND (n : Nat) : Field := ⟨0x61000 + 0x40 * n, 29, 28, 0x0⟩
def OUT_PULSE (n : Nat) : Field := ⟨0x61000 + 0x40 * n, 27, 26, 0x0⟩
def OUT_UTC (n : Nat) : Field := ⟨0x61000 + 0x40 * n, 25, 25, 0x0⟩
def OUT_DPLL (n : Nat) : Field := ⟨0x61000 + 0x40 * n, 1, 0, 0x0⟩
def OUT_RATE (n : Nat) : Field := ⟨0x61004 + 0x40 * n, 31, 0, 0x1⟩
def OUT_WIDTH (n : Nat) : Field := ⟨0x61008 + 0x40 * n, 31, 0, 0x5F5E100⟩
def OUT_OFS (n : Nat) : Field := ⟨0x6100C + 0x40 * n, 31, 0, 0x0⟩
def OUT_DLY (n : Nat) : Field := ⟨0x61010 + 0x40 * n, 31, 0, 0x0⟩
def OUT_FREQ_LO (n : Nat) : Field := ⟨0x61014 + 0x40 * n, 31, 0, 0x0⟩
def OUT_FREQ_HI (n : Nat) : Field := ⟨0x61018 + 0x40 * n, 31, 0, 0x0⟩
def OUT_MISSEQA (n : Nat) : Field := ⟨0x6101C + 0x40 * n, 31, 0, 0x0⟩
def OUT_MIS_LO (n : Nat) : Field := ⟨0x61020 + 0x40 * n, 31, 0, 0x0⟩
def OUT_MIS_HI (n : Nat) : Field := ⟨0x61024 + 0x40 * n, 31, 0, 0x0⟩
def OUT_MISSEQB (n : Nat) : Field := ⟨0x61028 + 0x40 * n, 31, 0, 0x0⟩
def OUT_ALIGNPEND (n : Nat) : Field := ⟨0x6102C + 0x40 * n, 31, 31, 0x0⟩
def OUT_OMIT (n : Nat) : Field := ⟨0x61030 + 0x40 * n, 31, 0, 0x0⟩
def TOD_EN (k : Nat) : Field := ⟨0x62000 + 0x10 * k, 31, 31, 0x0⟩
def TOD_FORMAT (k : Nat) : Field := ⟨0x62000 + 0x10 * k, 30, 30, 0x0⟩
def TOD_PULSE (k : Nat) : Field := ⟨0x62000 + 0x10 * k, 12, 8, 0x0⟩
def TOD_BAUD (k : Nat) : Field := ⟨0x62000 + 0x10 * k, 2, 0, 0x0⟩
def TOD_INVALID (k : Nat) : Field := ⟨0x62004 + 0x10 * k, 31, 31, 0x0⟩
def TOD_SEQ (k : Nat) : Field := ⟨0x62004 + 0x10 * k, 15, 0, 0x0⟩

/-! ### 05_gnss_baseband.md -/
def GN_NAV_SEQ (r : Nat) : Field := ⟨0xD0000 + 0x80 * r, 31, 0, 0x0⟩
def GN_NAV_CHECK (r : Nat) : Field := ⟨0xD0004 + 0x80 * r, 31, 30, 0x0⟩
def GN_NAV_KIND (r : Nat) : Field := ⟨0xD0004 + 0x80 * r, 27, 24, 0x0⟩
def GN_NAV_ANT (r : Nat) : Field := ⟨0xD0004 + 0x80 * r, 20, 20, 0x0⟩
def GN_NAV_SIGNAL (r : Nat) : Field := ⟨0xD0004 + 0x80 * r, 19, 16, 0x0⟩
def GN_NAV_SV (r : Nat) : Field := ⟨0xD0004 + 0x80 * r, 15, 8, 0x0⟩
def GN_NAV_CH (r : Nat) : Field := ⟨0xD0004 + 0x80 * r, 7, 0, 0x0⟩
def GN_NAV_TIME (r i : Nat) : Field := ⟨0xD0008 + 0x80 * r + 0x4 * i, 31, 0, 0x0⟩
def GN_NAV_NBITS (r : Nat) : Field := ⟨0xD0014 + 0x80 * r, 9, 0, 0x0⟩
def GN_NAV_SEQB (r : Nat) : Field := ⟨0xD001C + 0x80 * r, 31, 0, 0x0⟩
def GN_NAV_DATA (r i : Nat) : Field := ⟨0xD0020 + 0x80 * r + 0x4 * i, 31, 0, 0x0⟩
def GN_SET_SEQA (s : Nat) : Field := ⟨0x88000 + 0x20 * s, 31, 0, 0x0⟩
def GN_SET_TIME (s i : Nat) : Field := ⟨0x88004 + 0x20 * s + 0x4 * i, 31, 0, 0x0⟩
def GN_SET_STEP (s : Nat) : Field := ⟨0x88010 + 0x20 * s, 31, 31, 0x0⟩
def GN_SET_BURST (s : Nat) : Field := ⟨0x88010 + 0x20 * s, 30, 30, 0x0⟩
def GN_SET_NTRACK (s : Nat) : Field := ⟨0x88010 + 0x20 * s, 8, 0, 0x0⟩
def GN_SET_INDEX (s : Nat) : Field := ⟨0x88014 + 0x20 * s, 7, 0, 0x0⟩
def GN_SET_SEQB (s : Nat) : Field := ⟨0x8801C + 0x20 * s, 31, 0, 0x0⟩
def GN_MEAS_VALID (s c : Nat) : Field := ⟨0x90000 + 0x2000 * s + 0x20 * c, 31, 31, 0x0⟩
def GN_MEAS_CODELOCK (s c : Nat) : Field := ⟨0x90000 + 0x2000 * s + 0x20 * c, 30, 30, 0x0⟩
def GN_MEAS_CARRLOCK (s c : Nat) : Field := ⟨0x90000 + 0x2000 * s + 0x20 * c, 29, 29, 0x0⟩
def GN_MEAS_BITSYNC (s c : Nat) : Field := ⟨0x90000 + 0x2000 * s + 0x20 * c, 28, 28, 0x0⟩
def GN_MEAS_TOWKNOWN (s c : Nat) : Field := ⟨0x90000 + 0x2000 * s + 0x20 * c, 27, 27, 0x0⟩
def GN_MEAS_HALFCYC (s c : Nat) : Field := ⟨0x90000 + 0x2000 * s + 0x20 * c, 26, 26, 0x0⟩
def GN_MEAS_SLIP (s c : Nat) : Field := ⟨0x90000 + 0x2000 * s + 0x20 * c, 25, 25, 0x0⟩
def GN_MEAS_MPATH (s c : Nat) : Field := ⟨0x90000 + 0x2000 * s + 0x20 * c, 24, 24, 0x0⟩
def GN_MEAS_ANT (s c : Nat) : Field := ⟨0x90000 + 0x2000 * s + 0x20 * c, 20, 20, 0x0⟩
def GN_MEAS_SIGNAL (s c : Nat) : Field := ⟨0x90000 + 0x2000 * s + 0x20 * c, 19, 16, 0x0⟩
def GN_MEAS_SV (s c : Nat) : Field := ⟨0x90000 + 0x2000 * s + 0x20 * c, 15, 8, 0x0⟩
def GN_MEAS_CH (s c : Nat) : Field := ⟨0x90000 + 0x2000 * s + 0x20 * c, 7, 0, 0x0⟩
def GN_MEAS_TXMS (s c : Nat) : Field := ⟨0x90004 + 0x2000 * s + 0x20 * c, 29, 0, 0x0⟩
def GN_MEAS_CN0 (s c : Nat) : Field := ⟨0x90008 + 0x2000 * s + 0x20 * c, 31, 16, 0x0⟩
def GN_MEAS_CHIP (s c : Nat) : Field := ⟨0x90008 + 0x2000 * s + 0x20 * c, 15, 0, 0x0⟩
def GN_MEAS_CODEFRAC (s c : Nat) : Field := ⟨0x9000C + 0x2000 * s + 0x20 * c, 31, 0, 0x0⟩
def GN_MEAS_CARRCYC (s c : Nat) : Field := ⟨0x90010 + 0x2000 * s + 0x20 * c, 31, 0, 0x0⟩
def GN_MEAS_CARRFRAC (s c : Nat) : Field := ⟨0x90014 + 0x2000 * s + 0x20 * c, 31, 16, 0x0⟩
def GN_MEAS_LOCKT (s c : Nat) : Field := ⟨0x90014 + 0x2000 * s + 0x20 * c, 15, 0, 0x0⟩
def GN_MEAS_DOPPLER (s c : Nat) : Field := ⟨0x90018 + 0x2000 * s + 0x20 * c, 31, 0, 0x0⟩
def GN_MEAS_MP (s c : Nat) : Field := ⟨0x9001C + 0x2000 * s + 0x20 * c, 31, 16, 0x0⟩
def GN_CTL_EN : Field := ⟨0x80000, 31, 31, 0x0⟩
def GN_CTL_FSB : Field := ⟨0x80000, 23, 16, 0x0⟩
def GN_CTL_FSA : Field := ⟨0x80000, 15, 8, 0x0⟩
def GN_CTL_SPACING : Field := ⟨0x80000, 7, 2, 0x8⟩
def GN_CTL_DISC : Field := ⟨0x80000, 1, 1, 0x1⟩
def GN_CTL_ANTB : Field := ⟨0x80000, 0, 0, 0x0⟩
def GN_STATUS_SOLVALID : Field := ⟨0x80004, 31, 31, 0x0⟩
def GN_STATUS_JAMFLAG : Field := ⟨0x80004, 30, 30, 0x0⟩
def GN_STATUS_SPOOFFLAG : Field := ⟨0x80004, 29, 29, 0x0⟩
def GN_STATUS_INTFLAG : Field := ⟨0x80004, 28, 28, 0x0⟩
def GN_STATUS_BURST : Field := ⟨0x80004, 27, 27, 0x0⟩
def GN_STATUS_CHOVER : Field := ⟨0x80004, 26, 26, 0x0⟩
def GN_STATUS_FEFAIL : Field := ⟨0x80004, 25, 25, 0x0⟩
def GN_STATUS_CHTRACK : Field := ⟨0x80004, 24, 16, 0x0⟩
def GN_STATUS_SPACING : Field := ⟨0x80004, 15, 8, 0x8⟩
def GN_STATUS_CLKLOSSB : Field := ⟨0x80004, 1, 1, 0x0⟩
def GN_STATUS_CLKLOSSA : Field := ⟨0x80004, 0, 0, 0x0⟩
def GN_STR_CFG_EN (m : Nat) : Field := ⟨0x80010 + 0x4 * m, 31, 31, 0x0⟩
def GN_STR_CFG_BITS (m : Nat) : Field := ⟨0x80010 + 0x4 * m, 30, 30, 0x0⟩
def GN_STR_CFG_AGCQ (m : Nat) : Field := ⟨0x80010 + 0x4 * m, 23, 16, 0x80⟩
def GN_STR_CFG_GSLOPE (m : Nat) : Field := ⟨0x80010 + 0x4 * m, 15, 8, 0x10⟩
def GN_STR_IF_IF (m : Nat) : Field := ⟨0x80020 + 0x4 * m, 31, 0, 0x0⟩
def GN_STR_STAT_JAM (m : Nat) : Field := ⟨0x80030 + 0x4 * m, 31, 24, 0x0⟩
def GN_STR_STAT_AGC (m : Nat) : Field := ⟨0x80030 + 0x4 * m, 23, 16, 0x0⟩
def GN_STR_STAT_SF (m : Nat) : Field := ⟨0x80030 + 0x4 * m, 15, 8, 0x0⟩
def GN_STR_STAT_NOTCH (m : Nat) : Field := ⟨0x80030 + 0x4 * m, 3, 0, 0x0⟩
def GN_NOTCH_EN (m k : Nat) : Field := ⟨0x80040 + 0x10 * m + 0x4 * k, 31, 31, 0x0⟩
def GN_NOTCH_EXCESS (m k : Nat) : Field := ⟨0x80040 + 0x10 * m + 0x4 * k, 30, 24, 0x0⟩
def GN_NOTCH_FREQ (m k : Nat) : Field := ⟨0x80040 + 0x10 * m + 0x4 * k, 23, 0, 0x0⟩
def GN_LATCH_LASTSET : Field := ⟨0x80080, 31, 8, 0x0⟩
def GN_LATCH_RATE : Field := ⟨0x80080, 3, 0, 0x0⟩
def GN_BURST_EN : Field := ⟨0x80084, 31, 31, 0x0⟩
def GN_BURST_ALLOWED : Field := ⟨0x80084, 30, 30, 0x0⟩
def GN_BURST_LEN : Field := ⟨0x80084, 7, 0, 0x32⟩
def GN_BURSTELIM_ELIM : Field := ⟨0x80088, 31, 0, 0x64⟩
def GN_JAMCFG_NOTCHTHR : Field := ⟨0x8008C, 23, 16, 0xC⟩
def GN_JAMCFG_FLAG : Field := ⟨0x8008C, 15, 8, 0x64⟩
def GN_JAMCFG_WARN : Field := ⟨0x8008C, 7, 0, 0x28⟩
def GN_SPOOFCFG_RTHR : Field := ⟨0x80090, 31, 24, 0xE6⟩
def GN_SPOOFCFG_CN0SD : Field := ⟨0x80090, 23, 16, 0xF⟩
def GN_SPOOFCFG_CLKJUMP : Field := ⟨0x80090, 15, 8, 0x32⟩
def GN_SPOOFCFG_HOLD : Field := ⟨0x80090, 7, 0, 0x1E⟩
def GN_SPOOF_FLAG : Field := ⟨0x80094, 31, 31, 0x0⟩
def GN_SPOOF_A : Field := ⟨0x80094, 30, 30, 0x0⟩
def GN_SPOOF_B : Field := ⟨0x80094, 29, 29, 0x0⟩
def GN_SPOOF_C : Field := ⟨0x80094, 28, 28, 0x0⟩
def GN_SPOOF_AINC : Field := ⟨0x80094, 27, 27, 0x0⟩
def GN_SPOOF_R : Field := ⟨0x80094, 23, 16, 0x0⟩
def GN_SPOOF_CN0DEV : Field := ⟨0x80094, 15, 8, 0x0⟩
def GN_SPOOF_NDUAL : Field := ⟨0x80094, 7, 0, 0x0⟩
def GN_SOLCFG_TIMESYS : Field := ⟨0x80098, 31, 30, 0x0⟩
def GN_SOLCFG_POSSRC : Field := ⟨0x80098, 29, 29, 0x0⟩
def GN_SOLCFG_SURVEYH : Field := ⟨0x80098, 23, 16, 0x18⟩
def GN_SOLCFG_MASK : Field := ⟨0x80098, 15, 8, 0xA⟩
def GN_SOLCFG_MINSV : Field := ⟨0x80098, 7, 0, 0x4⟩
def GN_TTFS_START : Field := ⟨0x8009C, 31, 30, 0x0⟩
def GN_TTFS_MS : Field := ⟨0x8009C, 19, 0, 0x0⟩
def GN_POS_POS (i : Nat) : Field := ⟨0x800A0 + 0x4 * i, 31, 0, 0x0⟩
def GN_DLY_DLY (m : Nat) : Field := ⟨0x800B0 + 0x4 * m, 31, 0, 0x0⟩
def GN_SOL_SEQA : Field := ⟨0x800C0, 31, 0, 0x0⟩
def GN_SOL_STATE : Field := ⟨0x800C4, 31, 30, 0x0⟩
def GN_SOL_VALID : Field := ⟨0x800C4, 29, 29, 0x0⟩
def GN_SOL_SINGLEFREQ : Field := ⟨0x800C4, 28, 28, 0x0⟩
def GN_SOL_INT : Field := ⟨0x800C4, 27, 27, 0x0⟩
def GN_SOL_SVUSED : Field := ⟨0x800C4, 15, 8, 0x0⟩
def GN_SOL_TDOP : Field := ⟨0x800C4, 7, 0, 0x0⟩
def GN_SOL_OFS_LO : Field := ⟨0x800C8, 31, 0, 0x0⟩
def GN_SOL_OFS_HI : Field := ⟨0x800CC, 31, 0, 0x0⟩
def GN_SOL_SIGMA : Field := ⟨0x800D0, 31, 0, 0x0⟩
def GN_SOL_SURVLEFT : Field := ⟨0x800D4, 31, 0, 0x0⟩
def GN_SOL_SECLO : Field := ⟨0x800D8, 31, 0, 0x0⟩
def GN_SOL_SEQB : Field := ⟨0x800DC, 31, 0, 0x0⟩
def GN_NAVSEQ_SEQ : Field := ⟨0x800E0, 31, 0, 0x0⟩
def GN_FESTAT_DONE : Field := ⟨0x800E4, 31, 31, 0x0⟩
def GN_FESTAT_FAIL : Field := ⟨0x800E4, 30, 30, 0x0⟩
def GN_FESTAT_INDEX : Field := ⟨0x800E4, 21, 16, 0x0⟩
def GN_CORRSEL_EN : Field := ⟨0x800E8, 31, 31, 0x0⟩
def GN_CORRSEL_CH : Field := ⟨0x800E8, 7, 0, 0x0⟩
def GN_CORR_SEQA : Field := ⟨0x80100, 31, 0, 0x0⟩
def GN_CORR_I (i : Nat) : Field := ⟨0x80104 + 0x8 * i, 31, 0, 0x0⟩
def GN_CORR_Q (i : Nat) : Field := ⟨0x80108 + 0x8 * i, 31, 0, 0x0⟩
def GN_CORR_SEQB : Field := ⟨0x8013C, 31, 0, 0x0⟩
def GN_CHST_STATE (c : Nat) : Field := ⟨0x84000 + 0x10 * c, 31, 30, 0x0⟩
def GN_CHST_ANT (c : Nat) : Field := ⟨0x84000 + 0x10 * c, 20, 20, 0x0⟩
def GN_CHST_SIGNAL (c : Nat) : Field := ⟨0x84000 + 0x10 * c, 19, 16, 0x0⟩
def GN_CHST_SV (c : Nat) : Field := ⟨0x84000 + 0x10 * c, 15, 8, 0x0⟩
def GN_CHST_ELEV (c : Nat) : Field := ⟨0x84000 + 0x10 * c, 7, 0, 0x0⟩
def GN_CHST_CN0 (c : Nat) : Field := ⟨0x84004 + 0x10 * c, 31, 16, 0x0⟩
def GN_CHST_LOCKT (c : Nat) : Field := ⟨0x84004 + 0x10 * c, 15, 0, 0x0⟩
def GN_CHST_DOPPLER (c : Nat) : Field := ⟨0x84008 + 0x10 * c, 31, 0, 0x0⟩

/-! ### 06_ports_and_mac.md -/
def MAC_CFG_EN (p : Nat) : Field := ⟨0x100000 + 0x8000 * p, 31, 31, 0x0⟩
def MAC_CFG_PAUSEEN (p : Nat) : Field := ⟨0x100000 + 0x8000 * p, 30, 30, 0x1⟩
def MAC_CFG_MAXLEN (p : Nat) : Field := ⟨0x100000 + 0x8000 * p, 29, 16, 0x2400⟩
def MAC_CFG_UPHOLD (p : Nat) : Field := ⟨0x100000 + 0x8000 * p, 15, 8, 0xA⟩
def MAC_STATUS_LINK (p : Nat) : Field := ⟨0x100004 + 0x8000 * p, 31, 30, 0x0⟩
def MAC_STATUS_LFAULT (p : Nat) : Field := ⟨0x100004 + 0x8000 * p, 29, 29, 0x0⟩
def MAC_STATUS_RFAULT (p : Nat) : Field := ⟨0x100004 + 0x8000 * p, 28, 28, 0x0⟩
def MAC_STATUS_PAUSED (p : Nat) : Field := ⟨0x100004 + 0x8000 * p, 27, 27, 0x0⟩
def MAC_STATUS_TXLPI (p : Nat) : Field := ⟨0x100004 + 0x8000 * p, 26, 26, 0x0⟩
def MAC_STATUS_RXLPI (p : Nat) : Field := ⟨0x100004 + 0x8000 * p, 25, 25, 0x0⟩
def MAC_STATUS_GATE (p : Nat) : Field := ⟨0x100004 + 0x8000 * p, 24, 24, 0x0⟩
def MAC_STATUS_VACTIVE (p : Nat) : Field := ⟨0x100004 + 0x8000 * p, 23, 23, 0x0⟩
def MAC_STATUS_PAUSELEFT (p : Nat) : Field := ⟨0x100004 + 0x8000 * p, 15, 0, 0x0⟩
def MAC_ADDR_LO_ADDRLO (p : Nat) : Field := ⟨0x100008 + 0x8000 * p, 31, 0, 0x0⟩
def MAC_VADDR_LO_ADDRLO (p : Nat) : Field := ⟨0x100010 + 0x8000 * p, 31, 0, 0x0⟩
def MAC_ADDR_HI_ADDRHI (p : Nat) : Field := ⟨0x10000C + 0x8000 * p, 15, 0, 0x0⟩
def MAC_VADDR_HI_ADDRHI (p : Nat) : Field := ⟨0x100014 + 0x8000 * p, 15, 0, 0x0⟩
def MAC_TXTHR_CUR (p : Nat) : Field := ⟨0x100018 + 0x8000 * p, 29, 16, 0x40⟩
def MAC_TXTHR_CFG (p : Nat) : Field := ⟨0x100018 + 0x8000 * p, 13, 0, 0x40⟩
def MAC_THRRST_RESET (p : Nat) : Field := ⟨0x10001C + 0x8000 * p, 0, 0, 0x0⟩
def MAC_LPI_EN (p : Nat) : Field := ⟨0x100020 + 0x8000 * p, 31, 31, 0x0⟩
def MAC_LPI_IDLE (p : Nat) : Field := ⟨0x100020 + 0x8000 * p, 23, 16, 0xA⟩
def MAC_LPI_TWMIN (p : Nat) : Field := ⟨0x100020 + 0x8000 * p, 15, 0, 0x0⟩
def MAC_LPISTAT_NEG (p : Nat) : Field := ⟨0x100024 + 0x8000 * p, 31, 31, 0x0⟩
def MAC_LPISTAT_TW (p : Nat) : Field := ⟨0x100024 + 0x8000 * p, 15, 0, 0x0⟩
def MAC_FDEF_DROP (p : Nat) : Field := ⟨0x100028 + 0x8000 * p, 4, 4, 0x1⟩
def MAC_FDEF_RQ (p : Nat) : Field := ⟨0x100028 + 0x8000 * p, 3, 0, 0x0⟩
def MAC_RQMAP0_PART0 (p : Nat) : Field := ⟨0x10002C + 0x8000 * p, 3, 0, 0x0⟩
def MAC_RQMAP0_PART1 (p : Nat) : Field := ⟨0x10002C + 0x8000 * p, 7, 4, 0x0⟩
def MAC_RQMAP0_PART2 (p : Nat) : Field := ⟨0x10002C + 0x8000 * p, 11, 8, 0x0⟩
def MAC_RQMAP0_PART3 (p : Nat) : Field := ⟨0x10002C + 0x8000 * p, 15, 12, 0x0⟩
def MAC_RQMAP0_PART4 (p : Nat) : Field := ⟨0x10002C + 0x8000 * p, 19, 16, 0x0⟩
def MAC_RQMAP0_PART5 (p : Nat) : Field := ⟨0x10002C + 0x8000 * p, 23, 20, 0x0⟩
def MAC_RQMAP0_PART6 (p : Nat) : Field := ⟨0x10002C + 0x8000 * p, 27, 24, 0x0⟩
def MAC_RQMAP0_PART7 (p : Nat) : Field := ⟨0x10002C + 0x8000 * p, 31, 28, 0x0⟩
def MAC_RQMAP1_PART8 (p : Nat) : Field := ⟨0x100030 + 0x8000 * p, 3, 0, 0x0⟩
def MAC_RQMAP1_PART9 (p : Nat) : Field := ⟨0x100030 + 0x8000 * p, 7, 4, 0x0⟩
def MAC_RQMAP1_PART10 (p : Nat) : Field := ⟨0x100030 + 0x8000 * p, 11, 8, 0x0⟩
def MAC_RQMAP1_PART11 (p : Nat) : Field := ⟨0x100030 + 0x8000 * p, 15, 12, 0x0⟩
def MAC_RQMAP1_PART12 (p : Nat) : Field := ⟨0x100030 + 0x8000 * p, 19, 16, 0x0⟩
def MAC_RQMAP1_PART13 (p : Nat) : Field := ⟨0x100030 + 0x8000 * p, 23, 20, 0x0⟩
def MAC_RQMAP1_PART14 (p : Nat) : Field := ⟨0x100030 + 0x8000 * p, 27, 24, 0x0⟩
def MAC_RQMAP1_PART15 (p : Nat) : Field := ⟨0x100030 + 0x8000 * p, 31, 28, 0x0⟩
def MAC_TXQMAP_CLASS0 (p : Nat) : Field := ⟨0x100034 + 0x8000 * p, 2, 0, 0x0⟩
def MAC_TXQMAP_CLASS1 (p : Nat) : Field := ⟨0x100034 + 0x8000 * p, 5, 3, 0x1⟩
def MAC_TXQMAP_CLASS2 (p : Nat) : Field := ⟨0x100034 + 0x8000 * p, 8, 6, 0x2⟩
def MAC_TXQMAP_CLASS3 (p : Nat) : Field := ⟨0x100034 + 0x8000 * p, 11, 9, 0x3⟩
def MAC_TXQMAP_CLASS4 (p : Nat) : Field := ⟨0x100034 + 0x8000 * p, 14, 12, 0x4⟩
def MAC_TXQMAP_CLASS5 (p : Nat) : Field := ⟨0x100034 + 0x8000 * p, 17, 15, 0x5⟩
def MAC_TXQMAP_CLASS6 (p : Nat) : Field := ⟨0x100034 + 0x8000 * p, 20, 18, 0x6⟩
def MAC_TXQMAP_CLASS7 (p : Nat) : Field := ⟨0x100034 + 0x8000 * p, 23, 21, 0x7⟩
def MAC_SAT0_SAT (p : Nat) : Field := ⟨0x100038 + 0x8000 * p, 31, 0, 0x0⟩
def MAC_SAT1_SAT (p : Nat) : Field := ⟨0x10003C + 0x8000 * p, 15, 0, 0x0⟩
def MAC_VLAN_EN (p i : Nat) : Field := ⟨0x100100 + 0x8000 * p + 0x4 * i, 31, 31, 0x0⟩
def MAC_VLAN_TAGS (p i : Nat) : Field := ⟨0x100100 + 0x8000 * p + 0x4 * i, 30, 29, 0x0⟩
def MAC_VLAN_OTPID (p i : Nat) : Field := ⟨0x100100 + 0x8000 * p + 0x4 * i, 28, 28, 0x0⟩
def MAC_VLAN_TXPCP (p i : Nat) : Field := ⟨0x100100 + 0x8000 * p + 0x4 * i, 27, 25, 0x0⟩
def MAC_VLAN_OVID (p i : Nat) : Field := ⟨0x100100 + 0x8000 * p + 0x4 * i, 23, 12, 0x0⟩
def MAC_VLAN_IVID (p i : Nat) : Field := ⟨0x100100 + 0x8000 * p + 0x4 * i, 11, 0, 0x0⟩
def MAC_FILT_EN (p f : Nat) : Field := ⟨0x100200 + 0x8000 * p + 0x10 * f, 31, 31, 0x0⟩
def MAC_FILT_DROP (p f : Nat) : Field := ⟨0x100200 + 0x8000 * p + 0x10 * f, 30, 30, 0x0⟩
def MAC_FILT_RQ (p f : Nat) : Field := ⟨0x100200 + 0x8000 * p + 0x10 * f, 29, 26, 0x0⟩
def MAC_FILT_VLANANY (p f : Nat) : Field := ⟨0x100200 + 0x8000 * p + 0x10 * f, 25, 25, 0x1⟩
def MAC_FILT_VLAN (p f : Nat) : Field := ⟨0x100200 + 0x8000 * p + 0x10 * f, 24, 19, 0x0⟩
def MAC_FILT_PCPANY (p f : Nat) : Field := ⟨0x100200 + 0x8000 * p + 0x10 * f, 18, 18, 0x1⟩
def MAC_FILT_PCP (p f : Nat) : Field := ⟨0x100200 + 0x8000 * p + 0x10 * f, 17, 15, 0x0⟩
def MAC_FILT_DAANY (p f : Nat) : Field := ⟨0x100200 + 0x8000 * p + 0x10 * f, 14, 14, 0x1⟩
def MAC_FILT_DACLASS (p f : Nat) : Field := ⟨0x100200 + 0x8000 * p + 0x10 * f, 13, 11, 0x0⟩
def MAC_FILT_IPVER (p f : Nat) : Field := ⟨0x100200 + 0x8000 * p + 0x10 * f, 10, 9, 0x0⟩
def MAC_FILT_PROTOANY (p f : Nat) : Field := ⟨0x100200 + 0x8000 * p + 0x10 * f, 8, 8, 0x1⟩
def MAC_FILT_PROTO (p f : Nat) : Field := ⟨0x100200 + 0x8000 * p + 0x10 * f, 7, 0, 0x0⟩
def MAC_FILT_ETYPE (p f : Nat) : Field := ⟨0x100204 + 0x8000 * p + 0x10 * f, 31, 16, 0x0⟩
def MAC_FILT_ETMASK (p f : Nat) : Field := ⟨0x100204 + 0x8000 * p + 0x10 * f, 15, 0, 0x0⟩
def MAC_FILT_PORTLO (p f : Nat) : Field := ⟨0x100208 + 0x8000 * p + 0x10 * f, 31, 16, 0x0⟩
def MAC_FILT_PORTHI (p f : Nat) : Field := ⟨0x100208 + 0x8000 * p + 0x10 * f, 15, 0, 0xFFFF⟩
def MAC_IP_EN (p a : Nat) : Field := ⟨0x101000 + 0x8000 * p + 0x20 * a, 31, 31, 0x0⟩
def MAC_IP_V6 (p a : Nat) : Field := ⟨0x101000 + 0x8000 * p + 0x20 * a, 30, 30, 0x0⟩
def MAC_IP_KIND (p a : Nat) : Field := ⟨0x101000 + 0x8000 * p + 0x20 * a, 29, 28, 0x0⟩
def MAC_IP_VLAN (p a : Nat) : Field := ⟨0x101000 + 0x8000 * p + 0x20 * a, 27, 22, 0x0⟩
def MAC_IP_ADDR (p a i : Nat) : Field := ⟨0x101004 + 0x8000 * p + 0x20 * a + 0x4 * i, 31, 0, 0x0⟩
def MAC_CNT_LO (p c : Nat) : Field := ⟨0x104000 + 0x8000 * p + 0x8 * c, 31, 0, 0x0⟩
def MAC_CNT_HI (p c : Nat) : Field := ⟨0x104004 + 0x8000 * p + 0x8 * c, 31, 0, 0x0⟩
def MAC_QMODE_EN (q : Nat) : Field := ⟨0x107000 + 0x40000 * q, 31, 31, 0x0⟩
def MAC_QMODE_FEC25 (q : Nat) : Field := ⟨0x107000 + 0x40000 * q, 4, 4, 0x1⟩
def MAC_QMODE_MODE (q : Nat) : Field := ⟨0x107000 + 0x40000 * q, 2, 0, 0x5⟩
def MAC_QSTATUS_FAULT (q : Nat) : Field := ⟨0x107004 + 0x40000 * q, 31, 31, 0x0⟩
def MAC_QSTATUS_PLLLOCK (q : Nat) : Field := ⟨0x107004 + 0x40000 * q, 30, 30, 0x0⟩
def MAC_QSTATUS_REFCLK (q : Nat) : Field := ⟨0x107004 + 0x40000 * q, 29, 29, 0x0⟩
def MAC_QSTATUS_CAUSE (q : Nat) : Field := ⟨0x107004 + 0x40000 * q, 10, 8, 0x0⟩
def MAC_QSTATUS_SIGDET (q : Nat) : Field := ⟨0x107004 + 0x40000 * q, 7, 0, 0x0⟩
def MAC_LANE_RXPOL (q l : Nat) : Field := ⟨0x107010 + 0x40000 * q + 0x4 * l, 31, 31, 0x0⟩
def MAC_LANE_TXPOL (q l : Nat) : Field := ⟨0x107010 + 0x40000 * q + 0x4 * l, 30, 30, 0x0⟩
def MAC_LANE_PHYS (q l : Nat) : Field := ⟨0x107010 + 0x40000 * q + 0x4 * l, 26, 24, l⟩
def MAC_LANE_PRE (q l : Nat) : Field := ⟨0x107010 + 0x40000 * q + 0x4 * l, 23, 16, 0x0⟩
def MAC_LANE_MAIN (q l : Nat) : Field := ⟨0x107010 + 0x40000 * q + 0x4 * l, 15, 8, 0x0⟩
def MAC_LANE_POST (q l : Nat) : Field := ⟨0x107010 + 0x40000 * q + 0x4 * l, 7, 0, 0x0⟩

/-! ### 07_timestamping.md -/
def TSQ_CFG_FMT : Field := ⟨0x200000, 31, 31, 0x0⟩
def TSQ_CFG_AUDN : Field := ⟨0x200000, 20, 16, 0xA⟩
def TSQ_CFG_RLEAD : Field := ⟨0x200000, 15, 0, 0x3E8⟩
def TSQ_AUDIT_CLR : Field := ⟨0x200004, 31, 31, 0x0⟩
def TSQ_AUDIT_EN : Field := ⟨0x200004, 30, 30, 0x1⟩
def TSQ_AUDIT_LIM : Field := ⟨0x200004, 15, 0, 0xC8⟩
def TSQ_AUDSTAT_SKIP : Field := ⟨0x200008, 31, 0, 0x0⟩
def TSQ_AUDLAST_ERR : Field := ⟨0x20000C, 31, 16, 0x0⟩
def TSQ_AUDLAST_PORT : Field := ⟨0x20000C, 4, 0, 0x0⟩
def TSQ_HIST_SEQA : Field := ⟨0x200100, 31, 0, 0x0⟩
def TSQ_HIST_BIN (i : Nat) : Field := ⟨0x200104 + 0x4 * i, 31, 0, 0x0⟩
def TSQ_HIST_UNDER : Field := ⟨0x200184, 31, 0, 0x0⟩
def TSQ_HIST_OVER : Field := ⟨0x200188, 31, 0, 0x0⟩
def TSQ_HIST_COUNT : Field := ⟨0x20018C, 31, 0, 0x0⟩
def TSQ_HIST_SEQB : Field := ⟨0x200190, 31, 0, 0x0⟩
def TSQ_LANETRIM_RXTRIM (q l : Nat) : Field := ⟨0x200800 + 0x20 * q + 0x4 * l, 31, 16, 0⟩
def TSQ_LANETRIM_TXTRIM (q l : Nat) : Field := ⟨0x200800 + 0x20 * q + 0x4 * l, 15, 0, 0⟩
def TSQ_P_BOARDCAL (p : Nat) : Field := ⟨0x201000 + 0x80 * p, 31, 31, 0x0⟩
def TSQ_P_RXDLY (p : Nat) : Field := ⟨0x201004 + 0x80 * p, 31, 0, 0x0⟩
def TSQ_P_TXDLY (p : Nat) : Field := ⟨0x201008 + 0x80 * p, 31, 0, 0x0⟩
def TSQ_P_RXLAT (p : Nat) : Field := ⟨0x20100C + 0x80 * p, 31, 0, 0x0⟩
def TSQ_P_TXLAT (p : Nat) : Field := ⟨0x201010 + 0x80 * p, 31, 0, 0x0⟩
def TSQ_P_LEVEL (p : Nat) : Field := ⟨0x201014 + 0x80 * p, 12, 0, 0x0⟩
def TSQ_P_HEADSEQA (p : Nat) : Field := ⟨0x201018 + 0x80 * p, 31, 0, 0x0⟩
def TSQ_P_HEAD (p i : Nat) : Field := ⟨0x20101C + 0x80 * p + 0x4 * i, 31, 0, 0x0⟩
def TSQ_P_TAG (p : Nat) : Field := ⟨0x201028 + 0x80 * p, 31, 0, 0x0⟩
def TSQ_P_FLAGS (p : Nat) : Field := ⟨0x20102C + 0x80 * p, 31, 0, 0x0⟩
def TSQ_P_HEADSEQB (p : Nat) : Field := ⟨0x201030 + 0x80 * p, 31, 0, 0x0⟩
def TSQ_P_LOST (p : Nat) : Field := ⟨0x201034 + 0x80 * p, 31, 16, 0x0⟩
def TSQ_P_POP (p : Nat) : Field := ⟨0x201034 + 0x80 * p, 0, 0, 0x0⟩
def TSQ_P_RESVMISS (p : Nat) : Field := ⟨0x201038 + 0x80 * p, 31, 0, 0x0⟩
def TSQ_P_INSERR (p : Nat) : Field := ⟨0x20103C + 0x80 * p, 31, 0, 0x0⟩

/-! ### 08_response_fabric.md -/
def FAB_STATUS_VREQ : Field := ⟨0x300000, 31, 31, 0x0⟩
def FAB_STATUS_OCC : Field := ⟨0x300000, 26, 16, 0x0⟩
def FAB_STATUS_ENGIN : Field := ⟨0x300000, 10, 0, 0x0⟩
def FAB_RETIRE_STATUS : Field := ⟨0x300004, 31, 30, 0x0⟩
def FAB_RETIRE_ACTION : Field := ⟨0x300004, 17, 16, 0x0⟩
def FAB_RETIRE_CLUSTER : Field := ⟨0x300004, 12, 8, 0x0⟩
def FAB_RETIRE_ENGINE : Field := ⟨0x300004, 5, 0, 0x0⟩
def FAB_DIRTY_COUNT : Field := ⟨0x300008, 20, 1, 0x0⟩
def FAB_DIRTY_SWAP : Field := ⟨0x300008, 0, 0, 0x0⟩
def FAB_DIRTYTIME_TS (i : Nat) : Field := ⟨0x30000C + 0x4 * i, 31, 0, 0x0⟩
def FAB_RATE_OWNER : Field := ⟨0x300020, 31, 28, 0x2⟩
def FAB_RATE_HALFLIFE : Field := ⟨0x300020, 15, 0, 0x3E8⟩
def FAB_RATEEPOCH_EPOCH : Field := ⟨0x300024, 31, 0, 0x0⟩
def FAB_ECC_UNCORR : Field := ⟨0x300028, 31, 16, 0x0⟩
def FAB_ECC_CORR : Field := ⟨0x300028, 15, 0, 0x0⟩
def FAB_PART_EN (k : Nat) : Field := ⟨0x301000 + 0x40 * k, 31, 31, if k < 2 then 1 else 0⟩
def FAB_PART_STEALMIN (k : Nat) : Field := ⟨0x301000 + 0x40 * k, 23, 16, 0x4⟩
def FAB_PART_MAXAGE (k : Nat) : Field := ⟨0x301000 + 0x40 * k, 15, 0, 0x3E8⟩
def FAB_PART_CLMASK (k : Nat) : Field := ⟨0x301004 + 0x40 * k, 31, 0, partDefaultMask k⟩
def FAB_PART_ASSOCBASE (k : Nat) : Field := ⟨0x301008 + 0x40 * k, 19, 0, 0x0⟩
def FAB_PART_ASSOCCNT (k : Nat) : Field := ⟨0x30100C + 0x40 * k, 20, 0, if k = 4 then 0x100000 else 0⟩
def FAB_PART_OCC (k : Nat) : Field := ⟨0x301010 + 0x40 * k, 26, 16, 0x0⟩
def FAB_PART_ENGIN (k : Nat) : Field := ⟨0x301010 + 0x40 * k, 10, 0, 0x0⟩
def FAB_PART_REQ (k : Nat) : Field := ⟨0x301014 + 0x40 * k, 31, 0, 0x0⟩
def FAB_PART_RESP (k : Nat) : Field := ⟨0x301018 + 0x40 * k, 31, 0, 0x0⟩
def FAB_PART_STALE (k : Nat) : Field := ⟨0x30101C + 0x40 * k, 31, 0, 0x0⟩
def FAB_PART_GATEDROP (k : Nat) : Field := ⟨0x301020 + 0x40 * k, 31, 0, 0x0⟩
def FAB_PART_CHKFAIL (k : Nat) : Field := ⟨0x301024 + 0x40 * k, 31, 0, 0x0⟩
def FAB_PART_STEAL (k : Nat) : Field := ⟨0x301028 + 0x40 * k, 31, 0, 0x0⟩
def FAB_PART_DRAINDROP (k : Nat) : Field := ⟨0x30102C + 0x40 * k, 31, 0, 0x0⟩
def FAB_CL_STATE (c : Nat) : Field := ⟨0x302000 + 0x40 * c, 31, 29, 0x0⟩
def FAB_CL_PART (c : Nat) : Field := ⟨0x302000 + 0x40 * c, 27, 24, clusterDefaultPart c⟩
def FAB_CL_DQLEVEL (c : Nat) : Field := ⟨0x302000 + 0x40 * c, 23, 15, 0x0⟩
def FAB_CL_ENGIN (c : Nat) : Field := ⟨0x302000 + 0x40 * c, 5, 0, 0x20⟩
def FAB_CL_ENGMAP_LO (c : Nat) : Field := ⟨0x302004 + 0x40 * c, 31, 0, 0xFFFFFFFF⟩
def FAB_CL_ENGMAP_HI (c : Nat) : Field := ⟨0x302008 + 0x40 * c, 1, 0, 0x0⟩
def FAB_CL_RETMAP_LO (c : Nat) : Field := ⟨0x30200C + 0x40 * c, 31, 0, 0x0⟩
def FAB_CL_RETCMD (c : Nat) : Field := ⟨0x302010 + 0x40 * c, 3, 2, 0x0⟩
def FAB_CL_RETMAP_HI (c : Nat) : Field := ⟨0x302010 + 0x40 * c, 1, 0, 0x0⟩
def FAB_CL_FAIL0 (c : Nat) : Field := ⟨0x302014 + 0x40 * c, 31, 0, 0x0⟩
def FAB_CL_FAIL1 (c : Nat) : Field := ⟨0x302018 + 0x40 * c, 31, 0, 0x0⟩
def FAB_CL_FAIL2 (c : Nat) : Field := ⟨0x30201C + 0x40 * c, 3, 0, 0x0⟩
def FAB_CL_OCC (c : Nat) : Field := ⟨0x302020 + 0x40 * c, 10, 0, 0x0⟩
def FAB_CL_RETCMDMAP (c : Nat) : Field := ⟨0x302024 + 0x40 * c, 31, 0, 0x0⟩

/-! ### 09_ntp_and_nts.md -/
def NTP_CFG_EN : Field := ⟨0x400000, 31, 31, 0x0⟩
def NTP_CFG_PRECISION : Field := ⟨0x400000, 23, 16, 0xE2⟩
def NTP_CFG_MINPOLL : Field := ⟨0x400000, 15, 8, 0x4⟩
def NTP_CFG_TTL : Field := ⟨0x400000, 7, 0, 0x40⟩
def NTP_IPCFG_DSCP : Field := ⟨0x400004, 31, 26, 0x0⟩
def NTP_IPCFG_LIWIN : Field := ⟨0x400004, 16, 0, 0x15180⟩
def NTP_RDADD_RDADD : Field := ⟨0x400008, 31, 0, 0x0⟩
def NTP_CLASS_LI3 (c : Nat) : Field := ⟨0x400010 + 0x4 * c, 8, 8, ntpDefaultLi3 c⟩
def NTP_CLASS_STRATUM (c : Nat) : Field := ⟨0x400010 + 0x4 * c, 7, 0, ntpDefaultStratum c⟩
def NTP_REFID_REFID (c : Nat) : Field := ⟨0x400030 + 0x4 * c, 31, 0, ntpDefaultRefid c⟩
def NTP_RDELAY_RDELAY (c : Nat) : Field := ⟨0x400050 + 0x4 * c, 31, 0, 0x0⟩
def NTP_RATE_EN : Field := ⟨0x400070, 31, 31, 0x1⟩
def NTP_RATE_KODPOLL : Field := ⟨0x400070, 4, 0, 0x6⟩
def NTP_KODTHR_THR : Field := ⟨0x400074, 23, 0, 0x40⟩
def NTP_DROPTHR_THR : Field := ⟨0x400078, 23, 0, 0x400⟩
def NTP_STATUS_LI : Field := ⟨0x40007C, 31, 30, 0x3⟩
def NTP_STATUS_STRATUM : Field := ⟨0x40007C, 15, 8, 0x10⟩
def NTP_STATUS_CLASS : Field := ⟨0x40007C, 2, 0, 0x7⟩
def NTP_RDNOW_RD : Field := ⟨0x400080, 31, 0, 0xFFFFFFFF⟩
def NTP_CNT_REQ : Field := ⟨0x400100, 31, 0, 0x0⟩
def NTP_CNT_RESP : Field := ⟨0x400104, 31, 0, 0x0⟩
def NTP_CNT_KOD : Field := ⟨0x400108, 31, 0, 0x0⟩
def NTP_CNT_RATEDROP : Field := ⟨0x40010C, 31, 0, 0x0⟩
def NTP_CNT_VERDROP : Field := ⟨0x400110, 31, 0, 0x0⟩
def NTP_CNT_MODE6 : Field := ⟨0x400114, 31, 0, 0x0⟩
def NTP_CNT_MODE7 : Field := ⟨0x400118, 31, 0, 0x0⟩
def NTP_CNT_MODEOTHER : Field := ⟨0x40011C, 31, 0, 0x0⟩
def NTP_CNT_SHORT : Field := ⟨0x400120, 31, 0, 0x0⟩
def NTP_CNT_LEGACYMAC : Field := ⟨0x400124, 31, 0, 0x0⟩
def NTP_CNT_EXTIGN : Field := ⟨0x400128, 31, 0, 0x0⟩
def NTP_CNT_BADSRC : Field := ⟨0x40012C, 31, 0, 0x0⟩
def NTP_CNT_RATEERR : Field := ⟨0x400130, 31, 0, 0x0⟩
def NTP_CNT_V1 : Field := ⟨0x400134, 31, 0, 0x0⟩
def NTP_CNT_V2 : Field := ⟨0x400138, 31, 0, 0x0⟩
def NTP_CNT_V3 : Field := ⟨0x40013C, 31, 0, 0x0⟩
def NTP_CNT_V4 : Field := ⟨0x400140, 31, 0, 0x0⟩
def NTS_CFG_EN : Field := ⟨0x440000, 31, 31, 0x0⟩
def NTS_CFG_SRVNEG : Field := ⟨0x440000, 30, 30, 0x0⟩
def NTS_CFG_NTPPORT : Field := ⟨0x440000, 15, 0, 0x101B⟩
def NTS_KECFG_MAXCONN : Field := ⟨0x440004, 31, 16, 0x1000⟩
def NTS_KECFG_TIMEOUT : Field := ⟨0x440004, 15, 8, 0x5⟩
def NTS_KECFG_CERTWARN : Field := ⟨0x440004, 7, 0, 0x1E⟩
def NTS_KEYGEN_GEN : Field := ⟨0x440008, 31, 0, 0x0⟩
def NTS_KEYSTAT_VALID : Field := ⟨0x44000C, 31, 28, 0x0⟩
def NTS_KEYSTAT_REPL : Field := ⟨0x44000C, 27, 24, 0x0⟩
def NTS_KEYSTAT_CURSLOT : Field := ⟨0x44000C, 17, 16, 0x0⟩
def NTS_KEYSTAT_NEXTROT : Field := ⟨0x44000C, 11, 0, 0x0⟩
def NTS_KEYDIG_DIGEST (s : Nat) : Field := ⟨0x440010 + 0x4 * s, 31, 0, 0x0⟩
def NTS_ROTATE_STATUS : Field := ⟨0x440020, 2, 1, 0x0⟩
def NTS_ROTATE_ROTATE : Field := ⟨0x440020, 0, 0, 0x0⟩
def NTS_KESTAT_OPEN : Field := ⟨0x440024, 31, 16, 0x0⟩
def NTS_KESTAT_HSRATE : Field := ⟨0x440024, 15, 0, 0x0⟩
def NTS_CERT_PRESENT (c : Nat) : Field := ⟨0x440030 + 0x10 * c, 31, 31, 0x0⟩
def NTS_CERT_INUSE (c : Nat) : Field := ⟨0x440030 + 0x10 * c, 30, 30, 0x0⟩
def NTS_CERT_VALIDNOW (c : Nat) : Field := ⟨0x440030 + 0x10 * c, 29, 29, 0x0⟩
def NTS_CERT_ALG (c : Nat) : Field := ⟨0x440030 + 0x10 * c, 25, 24, 0x0⟩
def NTS_CERT_NOTBEFORE (c : Nat) : Field := ⟨0x440034 + 0x10 * c, 31, 0, 0x0⟩
def NTS_CERT_NOTAFTER (c : Nat) : Field := ⟨0x440038 + 0x10 * c, 31, 0, 0x0⟩
def NTS_CERT_DIGEST (c : Nat) : Field := ⟨0x44003C + 0x10 * c, 31, 0, 0x0⟩
def NTS_CNT_REQ : Field := ⟨0x440100, 31, 0, 0x0⟩
def NTS_CNT_RESP : Field := ⟨0x440104, 31, 0, 0x0⟩
def NTS_CNT_NAK_KEY : Field := ⟨0x440108, 31, 0, 0x0⟩
def NTS_CNT_NAK_COOKIE : Field := ⟨0x44010C, 31, 0, 0x0⟩
def NTS_CNT_NAK_AUTH : Field := ⟨0x440110, 31, 0, 0x0⟩
def NTS_CNT_MALFORMED : Field := ⟨0x440114, 31, 0, 0x0⟩
def NTS_CNT_BADSRC : Field := ⟨0x440118, 31, 0, 0x0⟩
def NTS_CNT_RATEDROP : Field := ⟨0x44011C, 31, 0, 0x0⟩
def NTS_CNT_KE_OK : Field := ⟨0x440120, 31, 0, 0x0⟩
def NTS_CNT_KE_ALERT : Field := ⟨0x440124, 31, 0, 0x0⟩
def NTS_CNT_KE_ERRREC : Field := ⟨0x440128, 31, 0, 0x0⟩
def NTS_CNT_KE_REFUSED : Field := ⟨0x44012C, 31, 0, 0x0⟩
def NTS_CNT_KE_TIMEOUT : Field := ⟨0x440130, 31, 0, 0x0⟩
def NTS_CNT_KE_ABORT : Field := ⟨0x440134, 31, 0, 0x0⟩
def NTS_CNT_COOKIES : Field := ⟨0x440138, 31, 0, 0x0⟩
def NTS_CNT_KE_NOCOOKIE : Field := ⟨0x44013C, 31, 0, 0x0⟩

/-! ### 10_ptp_grandmaster.md -/
def PTP_CFG_EN : Field := ⟨0x480000, 31, 31, 0x0⟩
def PTP_CFG_PROFILE : Field := ⟨0x480000, 30, 28, 0x0⟩
def PTP_CFG_MINOR : Field := ⟨0x480000, 27, 27, 0x1⟩
def PTP_CFG_UTCVALID : Field := ⟨0x480000, 26, 26, 0x0⟩
def PTP_CFG_DOMAIN : Field := ⟨0x480000, 23, 16, 0x0⟩
def PTP_CFG_ARTO : Field := ⟨0x480000, 15, 12, 0x3⟩
def PTP_CFG_SDOID : Field := ⟨0x480000, 11, 0, 0x0⟩
def PTP_CLOCKID_LO_ID : Field := ⟨0x480004, 31, 0, 0x0⟩
def PTP_CLOCKID_HI_ID : Field := ⟨0x480008, 31, 0, 0x0⟩
def PTP_PRIO_PRIO1 : Field := ⟨0x48000C, 15, 8, 128⟩
def PTP_PRIO_PRIO2 : Field := ⟨0x48000C, 7, 0, 0x80⟩
def PTP_HOSPEC_NS : Field := ⟨0x480010, 31, 0, 0x3E8⟩
def PTP_LEAPWIN_SEC : Field := ⟨0x480014, 31, 0, 0xA8C0⟩
def PTP_BUDGET_RATE : Field := ⟨0x480018, 31, 0, 0x10B07600⟩
def PTP_UCCFG_DURMAX : Field := ⟨0x48001C, 31, 16, 0x3E8⟩
def PTP_UCCFG_DURMIN : Field := ⟨0x48001C, 15, 0, 0xA⟩
def PTP_UCSTAT_GRANTS : Field := ⟨0x480020, 20, 0, 0x0⟩
def PTP_CALCFG_CALLEAD : Field := ⟨0x480024, 15, 0, 0x14⟩
def PTP_ADMIT_RATE : Field := ⟨0x480028, 31, 0, 0x0⟩
def PTP_QMAP_OSLV (s : Nat) : Field := ⟨0x480030 + 0x4 * s, 31, 16, ptpDefaultOslv s⟩
def PTP_QMAP_CLASS (s : Nat) : Field := ⟨0x480030 + 0x4 * s, 15, 8, ptpDefaultClass s⟩
def PTP_QMAP_ACC (s : Nat) : Field := ⟨0x480030 + 0x4 * s, 7, 0, 0xFF⟩
def PTP_STATUS_UNCERTAIN : Field := ⟨0x480044, 31, 31, 0x1⟩
def PTP_STATUS_ACC : Field := ⟨0x480044, 23, 16, 0xFE⟩
def PTP_STATUS_CLASS : Field := ⟨0x480044, 15, 8, 0xF8⟩
def PTP_STATUS_S : Field := ⟨0x480044, 2, 0, 0x4⟩
def PTP_C37_GMID : Field := ⟨0x480048, 15, 0, 0x0⟩
def PTP_PREFIX_HI (i : Nat) : Field := ⟨0x480100 + 0x8 * i, 31, 0, 0x0⟩
def PTP_PREFIX_LO (i : Nat) : Field := ⟨0x480104 + 0x8 * i, 31, 0, 0x0⟩
def PTPIN_EN : Field := ⟨0x480200, 31, 31, 0x0⟩
def PTPIN_MODE : Field := ⟨0x480200, 30, 30, 0x0⟩
def PTPIN_PORT : Field := ⟨0x480200, 29, 25, 0x0⟩
def PTPIN_DOMAIN : Field := ⟨0x480200, 15, 8, 0x0⟩
def PTPIN_LOGDREQ : Field := ⟨0x480200, 7, 4, 0x0⟩
def PTPIN_LOGSYNC : Field := ⟨0x480200, 3, 0, 0x0⟩
def PTPIN_ASYM : Field := ⟨0x480204, 31, 0, 0x0⟩
def PTPIN_MADDR (i : Nat) : Field := ⟨0x480208 + 0x4 * i, 31, 0, 0x0⟩
def PTPIN_SELECTED : Field := ⟨0x480218, 31, 31, 0x0⟩
def PTPIN_Q1 : Field := ⟨0x480218, 30, 30, 0x0⟩
def PTPIN_MAXCLASS : Field := ⟨0x480218, 15, 8, 0x7⟩
def PTPIN_MCLASS : Field := ⟨0x480218, 7, 0, 0xFF⟩
def PTPIN_MID_HI : Field := ⟨0x48021C, 31, 0, 0x0⟩
def PTPIN_MID_LO : Field := ⟨0x480220, 31, 0, 0x0⟩
def PTPIN_MEANDLY : Field := ⟨0x480224, 31, 0, 0x0⟩
def PTP_P_EN (p : Nat) : Field := ⟨0x481000 + 0x40 * p, 31, 31, 0x0⟩
def PTP_P_TRANSPORT (p : Nat) : Field := ⟨0x481000 + 0x40 * p, 30, 29, 0x0⟩
def PTP_P_P2P (p : Nat) : Field := ⟨0x481000 + 0x40 * p, 28, 28, 0x0⟩
def PTP_P_TWOSTEP (p : Nat) : Field := ⟨0x481000 + 0x40 * p, 27, 27, 0x0⟩
def PTP_P_MCAST (p : Nat) : Field := ⟨0x481000 + 0x40 * p, 26, 26, 0x0⟩
def PTP_P_UNICAST (p : Nat) : Field := ⟨0x481000 + 0x40 * p, 25, 25, 0x0⟩
def PTP_P_HYBRID (p : Nat) : Field := ⟨0x481000 + 0x40 * p, 24, 24, 0x0⟩
def PTP_P_MASTERONLY (p : Nat) : Field := ⟨0x481000 + 0x40 * p, 23, 23, 0⟩
def PTP_P_NFWD (p : Nat) : Field := ⟨0x481000 + 0x40 * p, 22, 22, 0x0⟩
def PTP_P_VLAN (p : Nat) : Field := ⟨0x481000 + 0x40 * p, 21, 16, 0x0⟩
def PTP_P_LOGSYNC (p : Nat) : Field := ⟨0x481004 + 0x40 * p, 31, 24, 0⟩
def PTP_P_LOGANN (p : Nat) : Field := ⟨0x481004 + 0x40 * p, 23, 16, 1⟩
def PTP_P_LOGDREQ (p : Nat) : Field := ⟨0x481004 + 0x40 * p, 15, 8, 0⟩
def PTP_P_LOGPDREQ (p : Nat) : Field := ⟨0x481004 + 0x40 * p, 7, 0, 0⟩
def PTP_P_BUDGET (p : Nat) : Field := ⟨0x481008 + 0x40 * p, 31, 0, 5000000⟩
def PTP_P_STATE (p : Nat) : Field := ⟨0x48100C + 0x40 * p, 2, 0, 0x0⟩
def PTP_P_LINKDLY (p : Nat) : Field := ⟨0x481010 + 0x40 * p, 31, 0, 0x0⟩
def PTP_P_PDTHR (p : Nat) : Field := ⟨0x481014 + 0x40 * p, 31, 0, 0x320⟩
def PTP_P_ADMIT (p : Nat) : Field := ⟨0x481018 + 0x40 * p, 31, 0, 0x0⟩
def PTP_CNT_SYNC_TX : Field := ⟨0x480800, 31, 0, 0x0⟩
def PTP_CNT_FU_TX : Field := ⟨0x480804, 31, 0, 0x0⟩
def PTP_CNT_ANN_TX : Field := ⟨0x480808, 31, 0, 0x0⟩
def PTP_CNT_DRESP_TX : Field := ⟨0x48080C, 31, 0, 0x0⟩
def PTP_CNT_PDRESP_TX : Field := ⟨0x480810, 31, 0, 0x0⟩
def PTP_CNT_PDRFU_TX : Field := ⟨0x480814, 31, 0, 0x0⟩
def PTP_CNT_SIG_TX : Field := ⟨0x480818, 31, 0, 0x0⟩
def PTP_CNT_MALFORMED : Field := ⟨0x48081C, 31, 0, 0x0⟩
def PTP_CNT_VERSION : Field := ⟨0x480820, 31, 0, 0x0⟩
def PTP_CNT_DOMAIN : Field := ⟨0x480824, 31, 0, 0x0⟩
def PTP_CNT_LOOP : Field := ⟨0x480828, 31, 0, 0x0⟩
def PTP_CNT_MGMT : Field := ⟨0x48082C, 31, 0, 0x0⟩
def PTP_CNT_WRONGMECH : Field := ⟨0x480830, 31, 0, 0x0⟩
def PTP_CNT_NOGRANT : Field := ⟨0x480834, 31, 0, 0x0⟩
def PTP_CNT_GRANT_OK : Field := ⟨0x480838, 31, 0, 0x0⟩
def PTP_CNT_GRANT_DENY : Field := ⟨0x48083C, 31, 0, 0x0⟩
def PTP_CNT_CANCEL_RX : Field := ⟨0x480840, 31, 0, 0x0⟩
def PTP_CNT_CALNOTMASTER : Field := ⟨0x480844, 31, 0, 0x0⟩
def PTP_CNT_LINKBUSY : Field := ⟨0x480848, 31, 0, 0x0⟩
def PTP_CNT_PTPIN_SYNC_RX : Field := ⟨0x48084C, 31, 0, 0x0⟩
def PTP_CNT_PTPIN_DREQ_TX : Field := ⟨0x480850, 31, 0, 0x0⟩

/-! ### 11_roughtime.md -/
def RT_CFG_EN : Field := ⟨0x4C0000, 31, 31, 0x0⟩
def RT_CFG_VERMASK : Field := ⟨0x4C0000, 30, 29, 0x3⟩
def RT_CFG_SIGNQ : Field := ⟨0x4C0000, 23, 16, 0x10⟩
def RT_CFG_WINDOW : Field := ⟨0x4C0000, 15, 0, 0x3E8⟩
def RT_NET_DSCP : Field := ⟨0x4C0004, 31, 26, 0x0⟩
def RT_NET_TTL : Field := ⟨0x4C0004, 23, 16, 0x40⟩
def RT_NET_PORT : Field := ⟨0x4C0004, 15, 0, 0x7D2⟩
def RT_KEYCFG_OVERLAP : Field := ⟨0x4C0008, 31, 16, 0xE10⟩
def RT_KEYCFG_KEYLEAD : Field := ⟨0x4C0008, 15, 0, 0x258⟩
def RT_KEYELIM_ELIM : Field := ⟨0x4C000C, 31, 0, 0x3B9ACA00⟩
def RT_RADIMIN_MIN : Field := ⟨0x4C0010, 31, 0, 0x1⟩
def RT_KEYSTAT_LTOK : Field := ⟨0x4C0014, 31, 31, 0x0⟩
def RT_KEYSTAT_ONLINE : Field := ⟨0x4C0014, 30, 30, 0x0⟩
def RT_KEYSTAT_NEXTREADY : Field := ⟨0x4C0014, 29, 29, 0x0⟩
def RT_KEYSTAT_LATE : Field := ⟨0x4C0014, 28, 28, 0x0⟩
def RT_KEYSTAT_KEYNUM : Field := ⟨0x4C0014, 15, 0, 0x0⟩
def RT_ONMINT_UTC : Field := ⟨0x4C0018, 31, 0, 0x0⟩
def RT_ONMAXT_UTC : Field := ⟨0x4C001C, 31, 0, 0x0⟩
def RT_LTPUB_PUB (i : Nat) : Field := ⟨0x4C0020 + 0x4 * i, 31, 0, 0x0⟩
def RT_ONPUB_PUB (i : Nat) : Field := ⟨0x4C0040 + 0x4 * i, 31, 0, 0x0⟩
def RT_BATCH_BACKLOG : Field := ⟨0x4C0060, 31, 24, 0x0⟩
def RT_BATCH_LASTN : Field := ⟨0x4C0060, 16, 0, 0x0⟩
def RT_BATCHNUM_NUM : Field := ⟨0x4C0064, 19, 0, 0x0⟩
def RT_RADI_RADI (i : Nat) : Field := ⟨0x4C0068 + 0x4 * i, 31, 0, 0x0⟩
def RT_CNT_REQ : Field := ⟨0x4C0100, 31, 0, 0x0⟩
def RT_CNT_RESP : Field := ⟨0x4C0104, 31, 0, 0x0⟩
def RT_CNT_BATCHES : Field := ⟨0x4C0108, 31, 0, 0x0⟩
def RT_CNT_SHORT : Field := ⟨0x4C010C, 31, 0, 0x0⟩
def RT_CNT_BADSRC : Field := ⟨0x4C0110, 31, 0, 0x0⟩
def RT_CNT_MALFORMED : Field := ⟨0x4C0114, 31, 0, 0x0⟩
def RT_CNT_VERNONE : Field := ⟨0x4C0118, 31, 0, 0x0⟩
def RT_CNT_SRVMISMATCH : Field := ⟨0x4C011C, 31, 0, 0x0⟩
def RT_CNT_NOKEY : Field := ⟨0x4C0120, 31, 0, 0x0⟩
def RT_CNT_NOTIME : Field := ⟨0x4C0124, 31, 0, 0x0⟩
def RT_CNT_BATCHFULL : Field := ⟨0x4C0128, 31, 0, 0x0⟩
def RT_CNT_SIGFAIL : Field := ⟨0x4C012C, 31, 0, 0x0⟩
def RT_CNT_V0 : Field := ⟨0x4C0130, 31, 0, 0x0⟩
def RT_CNT_V1 : Field := ⟨0x4C0134, 31, 0, 0x0⟩

/-! ### 12_teasel_engines.md -/
def TSL_STATUS_RETIRED : Field := ⟨0x500000, 31, 16, 0x0⟩
def TSL_STATUS_BUSY : Field := ⟨0x500000, 15, 0, 0x0⟩
def TSL_RETCMD_RETCMD : Field := ⟨0x500004, 15, 0, 0x0⟩
def TSL_PART_EN (k : Nat) : Field := ⟨0x500010 + 0x4 * k, 31, 31, 0x0⟩
def TSL_PART_USERS (k : Nat) : Field := ⟨0x500010 + 0x4 * k, 18, 16, 0x0⟩
def TSL_PART_ENGMASK (k : Nat) : Field := ⟨0x500010 + 0x4 * k, 15, 0, 0x0⟩
def TSL_QSTAT_INSERV (k : Nat) : Field := ⟨0x500020 + 0x4 * k, 20, 16, 0x0⟩
def TSL_QSTAT_LEVEL (k : Nat) : Field := ⟨0x500020 + 0x4 * k, 6, 0, 0x0⟩
def TSL_SUBMIT_PART (c : Nat) : Field := ⟨0x500030 + 0x4 * c, 31, 30, 0x0⟩
def TSL_SUBMIT_ADDR (c : Nat) : Field := ⟨0x500030 + 0x4 * c, 19, 3, 0x0⟩
def TSL_SUBMIT_STATUS (c : Nat) : Field := ⟨0x500030 + 0x4 * c, 1, 0, 0x0⟩
def TSL_ABORT_PENDING : Field := ⟨0x500044, 31, 31, 0x0⟩
def TSL_ABORT_MASK : Field := ⟨0x500044, 15, 0, 0x0⟩
def TSL_RETIRE_STATUS : Field := ⟨0x500048, 31, 30, 0x0⟩
def TSL_RETIRE_ACTION : Field := ⟨0x500048, 16, 16, 0x0⟩
def TSL_RETIRE_ENGINE : Field := ⟨0x500048, 3, 0, 0x0⟩
def TSL_CNT_DONE : Field := ⟨0x500100, 31, 0, 0x0⟩
def TSL_CNT_REFUSED : Field := ⟨0x500104, 31, 0, 0x0⟩
def TSL_CNT_SHADOWFAIL : Field := ⟨0x500108, 31, 0, 0x0⟩
def TSL_CNT_VERIFYFAIL : Field := ⟨0x50010C, 31, 0, 0x0⟩
def TSL_CNT_LATE : Field := ⟨0x500110, 31, 0, 0x0⟩
def TSL_CNT_SUPPLYDISC : Field := ⟨0x500114, 31, 0, 0x0⟩
def TSL_CNT_ABORTED : Field := ⟨0x500118, 31, 0, 0x0⟩
def TSL_CNT_FAILED : Field := ⟨0x50011C, 31, 0, 0x0⟩
def TSL_E_STATE (e : Nat) : Field := ⟨0x501000 + 0x40 * e, 31, 29, 0x0⟩
def TSL_E_CLASS (e : Nat) : Field := ⟨0x501000 + 0x40 * e, 28, 27, 0x0⟩
def TSL_E_NM1 (e : Nat) : Field := ⟨0x501000 + 0x40 * e, 26, 21, 0x0⟩
def TSL_E_PART (e : Nat) : Field := ⟨0x501000 + 0x40 * e, 20, 19, 0x0⟩
def TSL_E_FAILS (e : Nat) : Field := ⟨0x501000 + 0x40 * e, 18, 17, 0x0⟩
def TSL_E_JOBID (e : Nat) : Field := ⟨0x501004 + 0x40 * e, 31, 0, 0x0⟩
def TSL_E_LOADED (e : Nat) : Field := ⟨0x501008 + 0x40 * e, 31, 0, 0x0⟩
def TSL_E_SLOTLEN (e i : Nat) : Field := ⟨0x50100C + 0x40 * e + 0x4 * i, 31, 0, 0x0⟩
def TSL_E_DUR (e : Nat) : Field := ⟨0x50102C + 0x40 * e, 31, 0, 0x0⟩
def TSL_E_START (e i : Nat) : Field := ⟨0x501030 + 0x40 * e + 0x4 * i, 31, 0, 0x0⟩

/-! ### 13_pair_redundancy.md -/
def LEASE_CFG_EN : Field := ⟨0x580000, 31, 31, 0x0⟩
def LEASE_CFG_HOME : Field := ⟨0x580000, 30, 30, 0x0⟩
def LEASE_CFG_RECLAIM : Field := ⟨0x580000, 29, 29, 0x1⟩
def LEASE_CFG_INBAND : Field := ⟨0x580000, 28, 28, 0x0⟩
def LEASE_CFG_LEN : Field := ⟨0x580000, 25, 16, 0x32⟩
def LEASE_CFG_HOMEWTR : Field := ⟨0x580000, 15, 0, 0x12C⟩
def LEASE_GUARDCFG_GIMG : Field := ⟨0x580004, 31, 0, 0x4C4B40⟩
def LEASE_NET_ETYPE : Field := ⟨0x580008, 31, 16, 0x88B5⟩
def LEASE_NET_VLAN : Field := ⟨0x580008, 11, 6, 0x0⟩
def LEASE_NET_PORT : Field := ⟨0x580008, 4, 0, 0x0⟩
def LEASE_PMAC_LO_ID : Field := ⟨0x58000C, 31, 0, 0x0⟩
def LEASE_PMAC_HI_ID : Field := ⟨0x580010, 15, 0, 0x0⟩
def LEASE_PAIRID_LO_ID : Field := ⟨0x580014, 31, 0, 0x0⟩
def LEASE_PAIRID_HI_ID : Field := ⟨0x580018, 31, 0, 0x0⟩
def LEASE_ADNASYM_ASYM : Field := ⟨0x58001C, 31, 0, 0x0⟩
def LEASE_TTCFG_SKEWMAX : Field := ⟨0x580020, 31, 16, 0x7D0⟩
def LEASE_TTCFG_RATE : Field := ⟨0x580020, 9, 0, 0x64⟩
def LEASE_STATUS_STATE : Field := ⟨0x580024, 31, 29, 0x0⟩
def LEASE_STATUS_PSTATE : Field := ⟨0x580024, 28, 26, 0x0⟩
def LEASE_STATUS_GATE : Field := ⟨0x580024, 25, 25, 0x0⟩
def LEASE_STATUS_ROLECONF : Field := ⟨0x580024, 24, 24, 0x0⟩
def LEASE_STATUS_NOVER : Field := ⟨0x580024, 23, 23, 0x0⟩
def LEASE_STATUS_GUARDHI : Field := ⟨0x580024, 22, 22, 0x0⟩
def LEASE_STATUS_REPLCUR : Field := ⟨0x580024, 21, 21, 0x0⟩
def LEASE_STATUS_ISOLATED : Field := ⟨0x580024, 20, 20, 0x0⟩
def LEASE_STATUS_DUALHOLD : Field := ⟨0x580024, 19, 19, 0x0⟩
def LEASE_STATUS_SILENT : Field := ⟨0x580024, 18, 16, 0x7⟩
def LEASE_STATUS_VER : Field := ⟨0x580024, 15, 8, 0x0⟩
def LEASE_GUARD_GEFF : Field := ⟨0x580028, 31, 0, 0x4C4B40⟩
def LEASE_GCALC_GC : Field := ⟨0x58002C, 31, 0, 0x0⟩
def LEASE_DELAY_DMAX : Field := ⟨0x580030, 31, 0, 0x0⟩
def LEASE_LEN_LEFF : Field := ⟨0x580034, 9, 0, 0x32⟩
def LEASE_T_SEQA : Field := ⟨0x580040, 31, 0, 0x0⟩
def LEASE_T_EXP (i : Nat) : Field := ⟨0x580044 + 0x4 * i, 31, 0, 0x0⟩
def LEASE_T_HLAST (i : Nat) : Field := ⟨0x580050 + 0x4 * i, 31, 0, 0x0⟩
def LEASE_T_SEQB : Field := ⟨0x58005C, 31, 0, 0x0⟩
def LEASE_WTRLEFT_SEC : Field := ⟨0x580060, 15, 0, 0x0⟩
def LEASE_VER_AGREED : Field := ⟨0x580064, 31, 24, 0x0⟩
def LEASE_VER_PVMAX : Field := ⟨0x580064, 23, 16, 0x0⟩
def LEASE_VER_VMAX : Field := ⟨0x580064, 15, 8, 0x12⟩
def LEASE_VER_VMIN : Field := ⟨0x580064, 7, 0, 0x10⟩
def LEASE_CMD_STATUS : Field := ⟨0x580068, 9, 8, 0x0⟩
def LEASE_CMD_CODE : Field := ⟨0x580068, 7, 0, 0x0⟩
def LEASE_PTEB_BOUND : Field := ⟨0x58006C, 31, 0, 0xFFFFFFFF⟩
def LEASE_PFEB_BOUND : Field := ⟨0x580070, 31, 0, 0xFFFFFFFF⟩
def LEASE_CNT_RENEW_TX : Field := ⟨0x580100, 31, 0, 0x0⟩
def LEASE_CNT_ACK_RX : Field := ⟨0x580104, 31, 0, 0x0⟩
def LEASE_CNT_ACK_TX : Field := ⟨0x580108, 31, 0, 0x0⟩
def LEASE_CNT_CLAIM_TX : Field := ⟨0x58010C, 31, 0, 0x0⟩
def LEASE_CNT_RELEASE_TX : Field := ⟨0x580110, 31, 0, 0x0⟩
def LEASE_CNT_RELEASE_RX : Field := ⟨0x580114, 31, 0, 0x0⟩
def LEASE_CNT_TAKES : Field := ⟨0x580118, 31, 0, 0x0⟩
def LEASE_CNT_VIOL : Field := ⟨0x58011C, 31, 0, 0x0⟩
def LEASE_CNT_DUP : Field := ⟨0x580120, 31, 0, 0x0⟩
def LEASE_CNT_NAK_TX : Field := ⟨0x580124, 31, 0, 0x0⟩
def LEASE_CNT_TT_OK : Field := ⟨0x580128, 31, 0, 0x0⟩
def LEASE_CNT_REPL_TX : Field := ⟨0x58012C, 31, 0, 0x0⟩
def LEASE_CNT_REPL_RX : Field := ⟨0x580130, 31, 0, 0x0⟩
def LEASE_CNT_RESYNC : Field := ⟨0x580134, 31, 0, 0x0⟩

/-! ### 14_boot_configuration_lifecycle.md -/
def SYS_REBOOT_BOOTSLOT : Field := ⟨0x40, 3, 2, 0x0⟩
def SYS_REBOOT_SLOT : Field := ⟨0x40, 1, 0, 0x0⟩
def SYS_LIFECYCLE_SVNCNT : Field := ⟨0x100, 31, 24, 0⟩
def SYS_LIFECYCLE_REV1 : Field := ⟨0x100, 7, 7, 0⟩
def SYS_LIFECYCLE_REV0 : Field := ⟨0x100, 6, 6, 0⟩
def SYS_LIFECYCLE_ROOT1 : Field := ⟨0x100, 5, 5, 0⟩
def SYS_LIFECYCLE_ROOT0 : Field := ⟨0x100, 4, 4, 0⟩
def SYS_LIFECYCLE_STATE : Field := ⟨0x100, 1, 0, 0⟩
def SYS_LCCMD_STATUS : Field := ⟨0x104, 13, 12, 0x0⟩
def SYS_LCCMD_ARG : Field := ⟨0x104, 9, 8, 0x0⟩
def SYS_LCCMD_CODE : Field := ⟨0x104, 7, 0, 0x0⟩
def SYS_TAMPER_LATCH : Field := ⟨0x108, 31, 31, 0⟩
def SYS_TAMPER_KEKVALID : Field := ⟨0x108, 30, 30, 0⟩
def SYS_TAMPER_CAUSE : Field := ⟨0x108, 29, 28, 0⟩
def SYS_TAMPER_POL : Field := ⟨0x108, 3, 2, 0x0⟩
def SYS_TAMPER_EN : Field := ⟨0x108, 1, 0, 0x0⟩
def SYS_TAMPERSEC_SEC : Field := ⟨0x10C, 31, 0, 0⟩
def SYS_ENTROPY_DRBGOK : Field := ⟨0x110, 31, 31, 0x0⟩
def SYS_ENTROPY_FAILED : Field := ⟨0x110, 30, 29, 0x0⟩
def SYS_ENTROPY_DISCARDS : Field := ⟨0x110, 15, 0, 0x0⟩
def SYS_PROVPUB_PUB (i : Nat) : Field := ⟨0x120 + 0x4 * i, 31, 0, 0⟩
def SYS_KEY_TYPE (i : Nat) : Field := ⟨0x1000 + 0x8 * i, 31, 28, 0x0⟩
def SYS_KEY_CLASS (i : Nat) : Field := ⟨0x1000 + 0x8 * i, 27, 24, 0x0⟩
def SYS_KEY_USERS (i : Nat) : Field := ⟨0x1000 + 0x8 * i, 23, 16, 0x0⟩
def SYS_KEY_DIGEST (i : Nat) : Field := ⟨0x1004 + 0x8 * i, 31, 0, 0x0⟩
def CFG_IMAGE_SVN : Field := ⟨0x10000, 31, 24, 0x0⟩
def CFG_IMAGE_NSECT : Field := ⟨0x10000, 23, 16, 0x0⟩
def CFG_IMAGE_FMTMIN : Field := ⟨0x10000, 15, 8, 0x0⟩
def CFG_IMAGE_AUTOCONF : Field := ⟨0x10000, 0, 0, 0x0⟩
def CFG_TSFMT_FMT : Field := ⟨0x10004, 0, 0, 0x0⟩
def CFG_SEQ_LO_SEQ : Field := ⟨0x10008, 31, 0, 0x0⟩
def CFG_SEQ_HI_SEQ : Field := ⟨0x1000C, 31, 0, 0x0⟩
def CFG_SERVE_MAINTAUTH : Field := ⟨0x10014, 2, 2, 0x0⟩
def CFG_SERVE_MAINT_SERVE : Field := ⟨0x10014, 1, 1, 0x0⟩
def CFG_SERVE_WARMUP_SERVE : Field := ⟨0x10014, 0, 0, 0x0⟩
def CFG_IMGSTAT_KEYS : Field := ⟨0x10018, 31, 16, 0x0⟩
def CFG_IMGSTAT_IGNORED : Field := ⟨0x10018, 15, 0, 0x0⟩
def CFG_CLAMPCNT_COUNT : Field := ⟨0x1001C, 31, 0, 0x0⟩
def CFG_CLAMPLOG_ADDR (j : Nat) : Field := ⟨0x11000 + 0x10 * j, 31, 0, 0x0⟩
def CFG_CLAMPLOG_WRITTEN (j : Nat) : Field := ⟨0x11004 + 0x10 * j, 31, 0, 0x0⟩
def CFG_CLAMPLOG_EFFECTIVE (j : Nat) : Field := ⟨0x11008 + 0x10 * j, 31, 0, 0x0⟩
def CFG_CLAMPLOG_SOURCE (j : Nat) : Field := ⟨0x1100C + 0x10 * j, 31, 29, 0x0⟩
def CFG_CLAMPLOG_SEQ (j : Nat) : Field := ⟨0x1100C + 0x10 * j, 28, 0, 0x0⟩
def NVM_STATUS_FLASHOK : Field := ⟨0x700000, 31, 31, 0x0⟩
def NVM_STATUS_SESSION : Field := ⟨0x700000, 30, 30, 0x0⟩
def NVM_STATUS_SESSIONOMP : Field := ⟨0x700000, 29, 29, 0x0⟩
def NVM_STATUS_SESSIONSLOT : Field := ⟨0x700000, 28, 28, 0x0⟩
def NVM_STATUS_SAFEREASON : Field := ⟨0x700000, 3, 2, 0x0⟩
def NVM_STATUS_BOOTSLOT : Field := ⟨0x700000, 1, 0, 0x2⟩
def NVM_UPDCTL_STATUS : Field := ⟨0x700010, 10, 8, 0x0⟩
def NVM_UPDCTL_SLOT : Field := ⟨0x700010, 3, 3, 0x0⟩
def NVM_UPDCTL_CMD : Field := ⟨0x700010, 2, 0, 0x0⟩
def NVM_UPDOFS_OFS : Field := ⟨0x700014, 31, 0, 0x0⟩
def NVM_CONFIRM_CONFIRM : Field := ⟨0x700018, 0, 0, 0x0⟩
def NVM_ORBIT_XVALID : Field := ⟨0x700020, 31, 31, 0x0⟩
def NVM_ORBIT_YVALID : Field := ⟨0x700020, 30, 30, 0x0⟩
def NVM_ORBIT_SEQ : Field := ⟨0x700020, 29, 0, 0x0⟩
def NVM_SLOT_VALID (s : Nat) : Field := ⟨0x700100 + 0x20 * s, 31, 31, 0x0⟩
def NVM_SLOT_ATTEMPTED (s : Nat) : Field := ⟨0x700100 + 0x20 * s, 30, 30, 0x0⟩
def NVM_SLOT_CONFIRMED (s : Nat) : Field := ⟨0x700100 + 0x20 * s, 29, 29, 0x0⟩
def NVM_SLOT_REASON (s : Nat) : Field := ⟨0x700100 + 0x20 * s, 11, 8, 0x0⟩
def NVM_SLOT_FMTMIN (s : Nat) : Field := ⟨0x700100 + 0x20 * s, 7, 0, 0x0⟩
def NVM_SLOT_SEQLO (s : Nat) : Field := ⟨0x700104 + 0x20 * s, 31, 0, 0x0⟩
def NVM_SLOT_SEQHI (s : Nat) : Field := ⟨0x700108 + 0x20 * s, 31, 0, 0x0⟩
def NVM_SLOT_SVN (s : Nat) : Field := ⟨0x70010C + 0x20 * s, 31, 0, 0x0⟩
def NVM_SLOT_LEN (s : Nat) : Field := ⟨0x700110 + 0x20 * s, 31, 0, 0x0⟩
def NVM_SLOT_DIGEST (s : Nat) : Field := ⟨0x700114 + 0x20 * s, 31, 0, 0x0⟩

/-! ### 15_management_readback.md -/
def EVLOG_SEQA (j : Nat) : Field := ⟨0x1800000 + 0x20 * j, 31, 0, 0x0⟩
def EVLOG_TIME (j i : Nat) : Field := ⟨0x1800004 + 0x20 * j + 0x4 * i, 31, 0, 0x0⟩
def EVLOG_SEV (j : Nat) : Field := ⟨0x1800010 + 0x20 * j, 31, 30, 0x0⟩
def EVLOG_DROPN (j : Nat) : Field := ⟨0x1800010 + 0x20 * j, 27, 16, 0x0⟩
def EVLOG_CODE (j : Nat) : Field := ⟨0x1800010 + 0x20 * j, 15, 0, 0x0⟩
def EVLOG_ARG (j : Nat) : Field := ⟨0x1800014 + 0x20 * j, 31, 0, 0x0⟩
def EVLOG_SEQB (j : Nat) : Field := ⟨0x180001C + 0x20 * j, 31, 0, 0x0⟩
def SYS_WLOCK_OMP : Field := ⟨0x200, 1, 1, 0x1⟩
def SYS_WLOCK_SPI : Field := ⟨0x200, 0, 0, 0x1⟩
def SYS_SPISTAT_CRCERR : Field := ⟨0x204, 31, 16, 0x0⟩
def SYS_SPISTAT_LOCKED : Field := ⟨0x204, 15, 8, 0x0⟩
def SYS_SPISTAT_BADOP : Field := ⟨0x204, 7, 0, 0x0⟩
def SYS_IRQSTAT_SRC : Field := ⟨0x210, 8, 0, 0x0⟩
def SYS_IRQEN_EN : Field := ⟨0x214, 8, 0, 0x0⟩
def SYS_IRQCFG_MINSEV : Field := ⟨0x218, 1, 0, 0x2⟩
def SYS_SNAP_SEQ : Field := ⟨0x220, 31, 20, 0x0⟩
def SYS_SNAP_HOLDER : Field := ⟨0x220, 19, 18, 0x0⟩
def SYS_SNAP_STATE : Field := ⟨0x220, 17, 16, 0x0⟩
def SYS_SNAP_HOLDMAX : Field := ⟨0x220, 15, 4, 0x3C⟩
def SYS_SNAP_STATUS : Field := ⟨0x220, 3, 2, 0x0⟩
def SYS_SNAP_CMD : Field := ⟨0x220, 1, 0, 0x0⟩
def SYS_SNAPTIME_TS (i : Nat) : Field := ⟨0x224 + 0x4 * i, 31, 0, 0x0⟩
def SYS_EVTSEQ_SEQ : Field := ⟨0x240, 31, 0, 0x0⟩
def SYS_EVTRD_RD : Field := ⟨0x244, 31, 0, 0x0⟩
def SYS_EVTDROP_DROP : Field := ⟨0x248, 31, 0, 0x0⟩
def SYS_ALARMACK_STATUS : Field := ⟨0x250, 17, 16, 0x0⟩
def SYS_ALARMACK_CODE : Field := ⟨0x250, 15, 0, 0x0⟩
def SYS_ALARMCNT_CRIT : Field := ⟨0x254, 31, 16, 0x0⟩
def SYS_ALARMCNT_TOTAL : Field := ⟨0x254, 15, 0, 0x0⟩
def SYS_ALARM_SEV (a : Nat) : Field := ⟨0x400 + 0x10 * a, 31, 30, 0x0⟩
def SYS_ALARM_ACKABLE (a : Nat) : Field := ⟨0x400 + 0x10 * a, 29, 29, 0x0⟩
def SYS_ALARM_CODE (a : Nat) : Field := ⟨0x400 + 0x10 * a, 15, 0, 0x0⟩
def SYS_ALARM_SINCE (a i : Nat) : Field := ⟨0x404 + 0x10 * a + 0x4 * i, 31, 0, 0x0⟩
def SYS_OMPCFG_UDP : Field := ⟨0x300, 31, 31, 0x0⟩
def SYS_OMPCFG_TCP : Field := ⟨0x300, 30, 30, 0x0⟩
def SYS_OMPCFG_L2 : Field := ⟨0x300, 29, 29, 0x0⟩
def SYS_OMPCFG_WRITE : Field := ⟨0x300, 28, 28, 0x0⟩
def SYS_OMPCFG_IDLE : Field := ⟨0x300, 27, 16, 0x3C⟩
def SYS_OMPCFG_PORT : Field := ⟨0x300, 15, 0, 0x1E3C⟩
def SYS_OMPETYPE_MGMTEN : Field := ⟨0x304, 21, 21, 0x0⟩
def SYS_OMPETYPE_MGMTPORT : Field := ⟨0x304, 20, 16, 0x0⟩
def SYS_OMPETYPE_ETYPE : Field := ⟨0x304, 15, 0, 0x88B6⟩
def SYS_OMPSTAT_AUTHFAIL : Field := ⟨0x308, 31, 16, 0x0⟩
def SYS_OMPSTAT_LOCKED : Field := ⟨0x308, 15, 8, 0x0⟩
def SYS_OMPSTAT_NAK : Field := ⟨0x308, 7, 0, 0x0⟩
def SYS_OMPSESS_OPEN (s : Nat) : Field := ⟨0x310 + 0x8 * s, 31, 31, 0x0⟩
def SYS_OMPSESS_TRANSPORT (s : Nat) : Field := ⟨0x310 + 0x8 * s, 30, 29, 0x0⟩
def SYS_OMPSESS_FRAMES (s : Nat) : Field := ⟨0x310 + 0x8 * s, 28, 28, 0x0⟩
def SYS_OMPSESS_SUBSEV (s : Nat) : Field := ⟨0x310 + 0x8 * s, 27, 25, 0x0⟩
def SYS_OMPSESS_VER (s : Nat) : Field := ⟨0x310 + 0x8 * s, 15, 8, 0x0⟩
def SYS_OMPSESS_PORT (s : Nat) : Field := ⟨0x310 + 0x8 * s, 4, 0, 0x0⟩
def SYS_OMPSESS_ID (s : Nat) : Field := ⟨0x314 + 0x8 * s, 31, 0, 0x0⟩

/-! ### 16_campion_self_test.md -/
def BIST_CTL_STATUS : Field := ⟨0x600000, 31, 30, 0x0⟩
def BIST_CTL_UNIT : Field := ⟨0x600000, 22, 16, 0x0⟩
def BIST_CTL_ACTION : Field := ⟨0x600000, 1, 0, 0x0⟩
def BIST_STATUS_GBUSY : Field := ⟨0x600004, 31, 31, 0x0⟩
def BIST_STATUS_GUNIT : Field := ⟨0x600004, 30, 24, 0x0⟩
def BIST_STATUS_OBUSY : Field := ⟨0x600004, 23, 23, 0x0⟩
def BIST_STATUS_OUNIT : Field := ⟨0x600004, 22, 16, 0x0⟩
def BIST_STATUS_REFUSE : Field := ⟨0x600004, 3, 0, 0x0⟩
def BIST_FAILMAP_FAIL (w : Nat) : Field := ⟨0x600010 + 0x4 * w, 31, 0, 0x0⟩
def BIST_RESULT_SEQA (u : Nat) : Field := ⟨0x601000 + 0x40 * u, 31, 0, 0x0⟩
def BIST_RESULT_FAIL (u : Nat) : Field := ⟨0x601004 + 0x40 * u, 31, 31, 0x0⟩
def BIST_RESULT_RESULT (u : Nat) : Field := ⟨0x601004 + 0x40 * u, 30, 28, 0x0⟩
def BIST_RESULT_CAUSE (u : Nat) : Field := ⟨0x601004 + 0x40 * u, 27, 24, 0x0⟩
def BIST_RESULT_GOLDSRC (u : Nat) : Field := ⟨0x601004 + 0x40 * u, 23, 23, 0x0⟩
def BIST_RESULT_RUNS (u : Nat) : Field := ⟨0x601004 + 0x40 * u, 15, 0, 0x0⟩
def BIST_RESULT_SIG_LO (u : Nat) : Field := ⟨0x601008 + 0x40 * u, 31, 0, 0x0⟩
def BIST_RESULT_SIG_HI (u : Nat) : Field := ⟨0x60100C + 0x40 * u, 31, 0, 0x0⟩
def BIST_RESULT_GOLD_LO (u : Nat) : Field := ⟨0x601010 + 0x40 * u, 31, 0, 0x0⟩
def BIST_RESULT_GOLD_HI (u : Nat) : Field := ⟨0x601014 + 0x40 * u, 31, 0, 0x0⟩
def BIST_RESULT_COUNT (u : Nat) : Field := ⟨0x601018 + 0x40 * u, 31, 0, 0x0⟩
def BIST_RESULT_PROG (u : Nat) : Field := ⟨0x60101C + 0x40 * u, 31, 0, 0x0⟩
def BIST_RESULT_END (u i : Nat) : Field := ⟨0x601020 + 0x40 * u + 0x4 * i, 31, 0, 0x0⟩
def BIST_RESULT_SEQB (u : Nat) : Field := ⟨0x60103C + 0x40 * u, 31, 0, 0x0⟩

/-! ### 17_performance_telemetry.md -/
def DUMP_SEQA (s : Nat) : Field := ⟨0x20000000 + 0x1000 * s, 31, 0, 0x0⟩
def DUMP_TIME (s i : Nat) : Field := ⟨0x20000004 + 0x1000 * s + 0x4 * i, 31, 0, 0x0⟩
def DUMP_STEP (s : Nat) : Field := ⟨0x20000010 + 0x1000 * s, 31, 31, 0x0⟩
def DUMP_SELCHG (s : Nat) : Field := ⟨0x20000010 + 0x1000 * s, 30, 30, 0x0⟩
def DUMP_PERIOD (s : Nat) : Field := ⟨0x20000010 + 0x1000 * s, 15, 0, 0x0⟩
def DUMP_TILE (s : Nat) : Field := ⟨0x20000014 + 0x1000 * s, 1, 0, 0x0⟩
def DUMP_SEQB (s : Nat) : Field := ⟨0x2000003C + 0x1000 * s, 31, 0, 0x0⟩
def DUMPE_0_VALUE_LO (s n : Nat) : Field := ⟨0x20000040 + 0x1000 * s + 0x8 * n, 31, 0, 0x0⟩
def DUMPE_4_OVF (s n : Nat) : Field := ⟨0x20000044 + 0x1000 * s + 0x8 * n, 31, 31, 0x0⟩
def DUMPE_4_NEW (s n : Nat) : Field := ⟨0x20000044 + 0x1000 * s + 0x8 * n, 30, 30, 0x0⟩
def DUMPE_4_PORTEV (s n : Nat) : Field := ⟨0x20000044 + 0x1000 * s + 0x8 * n, 29, 29, 0x0⟩
def DUMPE_4_EVENT (s n : Nat) : Field := ⟨0x20000044 + 0x1000 * s + 0x8 * n, 23, 16, 0x0⟩
def DUMPE_4_VALUE_HI (s n : Nat) : Field := ⟨0x20000044 + 0x1000 * s + 0x8 * n, 15, 0, 0x0⟩
def SAMP_SEQ (t j : Nat) : Field := ⟨0x20100000 + 0x200000 * t + 0x20 * j, 31, 0, 0x0⟩
def SAMP_TIME (t j i : Nat) : Field := ⟨0x20100004 + 0x200000 * t + 0x20 * j + 0x4 * i, 31, 0, 0x0⟩
def SAMP_OPCODE (t j : Nat) : Field := ⟨0x20100010 + 0x200000 * t + 0x20 * j, 31, 24, 0x0⟩
def SAMP_WAIT (t j : Nat) : Field := ⟨0x20100010 + 0x200000 * t + 0x20 * j, 23, 20, 0x0⟩
def SAMP_ADDR (t j : Nat) : Field := ⟨0x20100010 + 0x200000 * t + 0x20 * j, 13, 0, 0x0⟩
def SAMP_GAP (t j : Nat) : Field := ⟨0x20100014 + 0x200000 * t + 0x20 * j, 31, 31, 0x0⟩
def SAMP_PART (t j : Nat) : Field := ⟨0x20100014 + 0x200000 * t + 0x20 * j, 30, 28, 0x0⟩
def SAMP_LOSTN (t j : Nat) : Field := ⟨0x20100014 + 0x200000 * t + 0x20 * j, 26, 11, 0x0⟩
def SAMP_ENGINE (t j : Nat) : Field := ⟨0x20100014 + 0x200000 * t + 0x20 * j, 10, 0, 0x0⟩
def SAMP_LAT (t j : Nat) : Field := ⟨0x20100018 + 0x200000 * t + 0x20 * j, 31, 0, 0x0⟩
def SAMP_TAG (t j : Nat) : Field := ⟨0x2010001C + 0x200000 * t + 0x20 * j, 31, 0, 0x0⟩
def PERF_DUMPCFG_EN : Field := ⟨0x680000, 31, 31, 0x1⟩
def PERF_DUMPCFG_PERIOD : Field := ⟨0x680000, 15, 0, 0x3E8⟩
def PERF_DUMPSTAT_SEQ : Field := ⟨0x680004, 31, 0, 0x0⟩
def PERF_TXCFG_EN : Field := ⟨0x680008, 31, 31, 0x0⟩
def PERF_TXCFG_VLAN : Field := ⟨0x680008, 15, 10, 0x0⟩
def PERF_TXCFG_PORT : Field := ⟨0x680008, 4, 0, 0x0⟩
def PERF_TXETYPE_ETYPE : Field := ⟨0x68000C, 15, 0, 0x88B7⟩
def PERF_TXSTAT_SENT : Field := ⟨0x680018, 31, 16, 0x0⟩
def PERF_TXSTAT_DROP : Field := ⟨0x680018, 15, 0, 0x0⟩
def PERF_SAMPCFG_EN : Field := ⟨0x680020, 31, 31, 0x0⟩
def PERF_SAMPCFG_PART : Field := ⟨0x680020, 27, 24, 0x2⟩
def PERF_SAMPCFG_NEXP : Field := ⟨0x680020, 4, 0, 0x10⟩
def PERF_SEL_PEND (t n : Nat) : Field := ⟨0x681000 + 0x1000 * t + 0x4 * n, 31, 31, 0x0⟩
def PERF_SEL_PORTEV (t n : Nat) : Field := ⟨0x681000 + 0x1000 * t + 0x4 * n, 30, 30, 0x0⟩
def PERF_SEL_PORT (t n : Nat) : Field := ⟨0x681000 + 0x1000 * t + 0x4 * n, 29, 27, 0x0⟩
def PERF_SEL_EVENT (t n : Nat) : Field := ⟨0x681000 + 0x1000 * t + 0x4 * n, 23, 16, 0x0⟩
def PERF_SEL_CLMASK (t n : Nat) : Field := ⟨0x681000 + 0x1000 * t + 0x4 * n, 7, 0, 0xFF⟩
def PERF_LIVE_LO (t n : Nat) : Field := ⟨0x681100 + 0x1000 * t + 0x8 * n, 31, 0, 0x0⟩
def PERF_LIVE_HI (t n : Nat) : Field := ⟨0x681104 + 0x1000 * t + 0x8 * n, 15, 0, 0x0⟩
def PERF_SAMPSTAT_SEQ (t : Nat) : Field := ⟨0x681400 + 0x1000 * t, 31, 0, 0x0⟩
def PERF_SAMPLOST_LOST (t : Nat) : Field := ⟨0x681404 + 0x1000 * t, 31, 0, 0x0⟩

/-! ### 18_power_management.md -/
def PM_STATUS_HOT110 : Field := ⟨0x20000, 22, 22, 0x0⟩
def PM_STATUS_TRIP : Field := ⟨0x20000, 21, 21, 0x0⟩
def PM_STATUS_HOT : Field := ⟨0x20000, 20, 20, 0x0⟩
def PM_STATUS_VBATLOW : Field := ⟨0x20000, 19, 19, 0x0⟩
def PM_STATUS_BOOST : Field := ⟨0x20000, 18, 18, 0x0⟩
def PM_STATUS_LF : Field := ⟨0x20000, 17, 17, 0x0⟩
def PM_STATUS_AVSFAULT : Field := ⟨0x20000, 16, 16, 0x0⟩
def PM_STATUS_DOMAINS : Field := ⟨0x20000, 13, 0, 0x1⟩
def PM_AVSCFG_EN : Field := ⟨0x20004, 31, 31, 0x1⟩
def PM_AVSCFG_VBOOT : Field := ⟨0x20004, 9, 0, 0x2EE⟩
def PM_VLIM_VMAX : Field := ⟨0x20008, 25, 16, 0x320⟩
def PM_VLIM_VMIN : Field := ⟨0x20008, 9, 0, 0x2BC⟩
def PM_AVSCTL_LOWOCC : Field := ⟨0x2000C, 25, 16, 0x180⟩
def PM_AVSCTL_DOWNMS : Field := ⟨0x2000C, 15, 8, 0x64⟩
def PM_AVSCTL_STEP : Field := ⟨0x2000C, 7, 4, 0x2⟩
def PM_AVSCTL_AVSCLK : Field := ⟨0x2000C, 3, 0, 0xA⟩
def PM_VCORE_TARGET : Field := ⟨0x20010, 31, 16, 0x2EE⟩
def PM_VCORE_MEAS : Field := ⟨0x20010, 15, 0, 0x0⟩
def PM_BOOST_FLOOR : Field := ⟨0x20014, 31, 16, 0x0⟩
def PM_BOOST_LEFT : Field := ⟨0x20014, 15, 0, 0x0⟩
def PM_CMD_STATUS : Field := ⟨0x20018, 9, 8, 0x0⟩
def PM_CMD_CODE : Field := ⟨0x20018, 7, 0, 0x0⟩
def PM_RAIL_MEAS (r : Nat) : Field := ⟨0x20020 + 0x4 * r, 31, 16, 0x0⟩
def PM_RAIL_LOW (r : Nat) : Field := ⟨0x20020 + 0x4 * r, 15, 0, 0xFFFF⟩
def PM_SUPEVT_COUNT : Field := ⟨0x20040, 31, 0, 0x0⟩
def PM_LASTRESET_RAIL : Field := ⟨0x20044, 7, 4, 0x0⟩
def PM_LASTRESET_CAUSE : Field := ⟨0x20044, 3, 0, 0x0⟩
def PM_TEMP_MAX (s : Nat) : Field := ⟨0x20050 + 0x4 * s, 31, 16, 0x8000⟩
def PM_TEMP_NOW (s : Nat) : Field := ⟨0x20050 + 0x4 * s, 15, 0, 0x0⟩
def PM_VBAT_LOW : Field := ⟨0x20080, 31, 31, 0x0⟩
def PM_VBAT_MV : Field := ⟨0x20080, 15, 0, 0x0⟩

/-! ### 06_ports_and_mac.md -/
def MAC_MCAST_LO_ADDRLO (p i : Nat) : Field := ⟨0x100080 + 0x8000 * p + 0x8 * i, 31, 0, 0x0⟩
def MAC_MCAST_HI_EN (p i : Nat) : Field := ⟨0x100084 + 0x8000 * p + 0x8 * i, 31, 31, 0x0⟩
def MAC_MCAST_HI_ADDRHI (p i : Nat) : Field := ⟨0x100084 + 0x8000 * p + 0x8 * i, 15, 0, 0x0⟩

/-! ### 17_performance_telemetry.md -/
def PERF_TXDMAC_LO_ADDRLO : Field := ⟨0x680010, 31, 0, 0x0⟩
def PERF_TXDMAC_HI_ADDRHI : Field := ⟨0x680014, 15, 0, 0x0⟩

end Sys2Proof.Machine
end

