-- ==== Sys2Proof/Machine/RegTable.lean ====
section
/-! DEFINITION. The register map: for every register of the register tables of spec/ its address family,
its fields, their access codes (R11) and whether the image sets them. Generated by a script from those tables. -/
namespace Sys2Proof.Machine

/-- Part 0 of the register map (R427, register tables of spec/). -/
def regTableParta : List RegEnt := [
  ⟨0x0, 0x0, 1, 0x0, 1, 0x0, 1, fun _ _ _ => [⟨SYS_ID_PART, .ro, false⟩, ⟨SYS_ID_GRADE, .ro, false⟩, ⟨SYS_ID_STEP, .ro, false⟩]⟩,
  ⟨0x10, 0x0, 1, 0x0, 1, 0x0, 1, fun _ _ _ => [⟨SYS_MODE_MODELVALID, .ro, false⟩, ⟨SYS_MODE_PAIR, .ro, false⟩, ⟨SYS_MODE_CAUSE, .ro, false⟩, ⟨SYS_MODE_PREV, .ro, false⟩, ⟨SYS_MODE_MODE, .ro, false⟩]⟩,
  ⟨0x14, 0x4, 3, 0x0, 1, 0x0, 1, fun i _ _ => [⟨SYS_MODETIME_TS i, .ro, false⟩]⟩,
  ⟨0x20, 0x0, 1, 0x0, 1, 0x0, 1, fun _ _ _ => [⟨SYS_MODECMD_STATUS, .cmd, false⟩, ⟨SYS_MODECMD_CODE, .cmd, false⟩]⟩,
  ⟨0x30000, 0x0, 1, 0x0, 1, 0x0, 1, fun _ _ _ => [⟨TB_CTL_HOSTSTEER, .ro, true⟩]⟩,
  ⟨0x30004, 0x0, 1, 0x0, 1, 0x0, 1, fun _ _ _ => [⟨TB_STATUS_BKVALID, .ro, false⟩, ⟨TB_STATUS_REPFLAG, .ro, false⟩, ⟨TB_STATUS_FAILEDCOPY, .ro, false⟩, ⟨TB_STATUS_COPYFAIL, .ro, false⟩, ⟨TB_STATUS_STEPPEND, .ro, false⟩, ⟨TB_STATUS_SLEWLIM, .ro, false⟩, ⟨TB_STATUS_GCALRUN, .ro, false⟩, ⟨TB_STATUS_ACCFAULT, .ro, false⟩, ⟨TB_STATUS_WARMRULE, .ro, false⟩, ⟨TB_STATUS_SYNLOCK, .ro, false⟩, ⟨TB_STATUS_OSCLOSS, .ro, false⟩, ⟨TB_STATUS_OCXOWARM, .ro, false⟩, ⟨TB_STATUS_WARM, .ro, false⟩]⟩,
  ⟨0x30008, 0x0, 1, 0x0, 1, 0x0, 1, fun _ _ _ => [⟨TB_OSC_RATIO, .ro, false⟩, ⟨TB_OSC_FSEL, .ro, true⟩]⟩,
  ⟨0x30010, 0x4, 3, 0x0, 1, 0x0, 1, fun i _ _ => [⟨TB_NOW_TS i, .ro, false⟩]⟩,
  ⟨0x3001C, 0x0, 1, 0x0, 1, 0x0, 1, fun _ _ _ => [⟨TB_CAP_CAPTURE, .cmd, false⟩]⟩,
  ⟨0x30020, 0x0, 1, 0x0, 1, 0x0, 1, fun _ _ _ => [⟨TB_INCR_LO_FRACLO, .rw, false⟩]⟩,
  ⟨0x30024, 0x0, 1, 0x0, 1, 0x0, 1, fun _ _ _ => [⟨TB_INCR_HI_INT, .rw, false⟩, ⟨TB_INCR_HI_FRACHI, .rw, false⟩]⟩,
  ⟨0x30028, 0x0, 1, 0x0, 1, 0x0, 1, fun _ _ _ => [⟨TB_EFFINCR_LO_FRACLO, .ro, false⟩]⟩,
  ⟨0x3002C, 0x0, 1, 0x0, 1, 0x0, 1, fun _ _ _ => [⟨TB_EFFINCR_HI_INTFRAC, .ro, false⟩]⟩,
  ⟨0x30030, 0x4, 3, 0x0, 1, 0x0, 1, fun i _ _ => [⟨TB_STEP_STEP i, .rw, false⟩]⟩,
  ⟨0x3003C, 0x0, 1, 0x0, 1, 0x0, 1, fun _ _ _ => [⟨TB_STEPCTL_STATE, .ro, false⟩, ⟨TB_STEPCTL_ACTION, .cmd, false⟩]⟩,
  ⟨0x30040, 0x0, 1, 0x0, 1, 0x0, 1, fun _ _ _ => [⟨TB_STEPTHR_THR, .rw, false⟩]⟩,
  ⟨0x30044, 0x0, 1, 0x0, 1, 0x0, 1, fun _ _ _ => [⟨TB_SLEWMAX_RATE, .rw, false⟩]⟩,
  ⟨0x30048, 0x0, 1, 0x0, 1, 0x0, 1, fun _ _ _ => [⟨TB_WARMLIM_LIM, .ro, true⟩]⟩,
  ⟨0x3004C, 0x0, 1, 0x0, 1, 0x0, 1, fun _ _ _ => [⟨TB_WARMN_N, .ro, true⟩]⟩,
  ⟨0x30050, 0x0, 1, 0x0, 1, 0x0, 1, fun _ _ _ => [⟨TB_WARMMIN_SEC, .ro, true⟩]⟩,
  ⟨0x30054, 0x0, 1, 0x0, 1, 0x0, 1, fun _ _ _ => [⟨TB_WARMDRIFT_COUNT, .ro, false⟩, ⟨TB_WARMDRIFT_DRIFT, .ro, false⟩]⟩,
  ⟨0x30060, 0x0, 1, 0x0, 1, 0x0, 1, fun _ _ _ => [⟨TB_UTC_PENDING, .ro, false⟩, ⟨TB_UTC_SOURCE, .ro, false⟩, ⟨TB_UTC_LEAP, .ro, false⟩, ⟨TB_UTC_OFFSET, .ro, false⟩]⟩,
  ⟨0x30064, 0x0, 1, 0x0, 1, 0x0, 1, fun _ _ _ => [⟨TB_LEAPTIME0_SECLO, .ro, false⟩]⟩,
  ⟨0x30068, 0x0, 1, 0x0, 1, 0x0, 1, fun _ _ _ => [⟨TB_LEAPTIME1_SECHI, .ro, false⟩]⟩,
  ⟨0x30070, 0x0, 1, 0x0, 1, 0x0, 1, fun _ _ _ => [⟨TB_GCTL_SCALE, .ro, true⟩, ⟨TB_GCTL_HPF, .ro, true⟩, ⟨TB_GCTL_RATE, .ro, true⟩, ⟨TB_GCTL_EN, .rw, false⟩]⟩,
  ⟨0x30074, 0x0, 1, 0x0, 1, 0x0, 1, fun _ _ _ => [⟨TB_ACCCMD_ORDER, .ro, true⟩, ⟨TB_ACCCMD_CMD, .ro, true⟩]⟩,
  ⟨0x30078, 0x4, 3, 0x0, 1, 0x0, 1, fun i _ _ => [⟨TB_GSENS_GAMMA i, .rw, false⟩]⟩,
  ⟨0x30084, 0x0, 1, 0x0, 1, 0x0, 1, fun _ _ _ => [⟨TB_GCOMP_CORR, .ro, false⟩]⟩,
  ⟨0x30088, 0x0, 1, 0x0, 1, 0x0, 1, fun _ _ _ => [⟨TB_GCAL_REF, .cmd, false⟩, ⟨TB_GCAL_DURATION, .cmd, false⟩, ⟨TB_GCAL_FREQ, .cmd, false⟩, ⟨TB_GCAL_AXIS, .cmd, false⟩]⟩,
  ⟨0x3008C, 0x0, 1, 0x0, 1, 0x0, 1, fun _ _ _ => [⟨TB_GCALRES_STATE, .ro, false⟩, ⟨TB_GCALRES_QUALITY, .ro, false⟩, ⟨TB_GCALRES_GAMMA, .ro, false⟩]⟩,
  ⟨0x30090, 0x0, 1, 0x0, 1, 0x0, 1, fun _ _ _ => [⟨TB_VOTE_COPY2, .rc, false⟩, ⟨TB_VOTE_COPY1, .rc, false⟩, ⟨TB_VOTE_COPY0, .rc, false⟩]⟩,
  ⟨0x300A0, 0x4, 4, 0x0, 1, 0x0, 1, fun q _ _ => [⟨TB_REP_OFFSET q, .ro, false⟩, ⟨TB_REP_TRIM q, .ro, false⟩]⟩,
  ⟨0x300B0, 0x0, 1, 0x0, 1, 0x0, 1, fun _ _ _ => [⟨TB_SEEDGAP_DELTA, .ro, false⟩]⟩,
  ⟨0x40000, 0x0, 1, 0x0, 1, 0x0, 1, fun _ _ _ => [⟨TDC_STATUS_CALDONE, .ro, false⟩, ⟨TDC_STATUS_CALRUN, .ro, false⟩, ⟨TDC_STATUS_CALIP, .ro, false⟩, ⟨TDC_STATUS_CALCH, .ro, false⟩]⟩,
  ⟨0x40004, 0x0, 1, 0x0, 1, 0x0, 1, fun _ _ _ => [⟨TDC_CAL_RUNALL, .cmd, false⟩, ⟨TDC_CAL_TEMPSTEP, .rw, false⟩, ⟨TDC_CAL_PERIOD, .rw, false⟩]⟩,
  ⟨0x40008, 0x0, 1, 0x0, 1, 0x0, 1, fun _ _ _ => [⟨TDC_CALFAIL_FAIL, .ro, false⟩]⟩,
  ⟨0x40100, 0x40, 32, 0x0, 1, 0x0, 1, fun n _ _ => [⟨TDC_CH_EN n, .rw, false⟩, ⟨TDC_CH_EDGE n, .rw, false⟩, ⟨TDC_CH_WMODE n, .rw, false⟩, ⟨TDC_CH_STEN n, .rw, false⟩, ⟨TDC_CH_DIV n, .rw, false⟩]⟩,
  ⟨0x40104, 0x40, 32, 0x0, 1, 0x0, 1, fun n _ _ => [⟨TDC_CH_PER_LO n, .rw, false⟩]⟩,
  ⟨0x40108, 0x40, 32, 0x0, 1, 0x0, 1, fun n _ _ => [⟨TDC_CH_PER_HI n, .rw, false⟩]⟩,
  ⟨0x4010C, 0x40, 32, 0x0, 1, 0x0, 1, fun n _ _ => [⟨TDC_CH_DLY n, .rw, false⟩]⟩]

/-- Part 1 of the register map (R427, register tables of spec/). -/
def regTablePartb : List RegEnt := [
  ⟨0x40110, 0x40, 32, 0x0, 1, 0x0, 1, fun n _ _ => [⟨TDC_CH_WIN n, .rw, false⟩]⟩,
  ⟨0x40114, 0x40, 32, 0x0, 1, 0x0, 1, fun n _ _ => [⟨TDC_CH_FULL n, .rc, false⟩, ⟨TDC_CH_RATE n, .rc, false⟩]⟩,
  ⟨0x40118, 0x40, 32, 0x0, 1, 0x0, 1, fun n _ _ => [⟨TDC_CH_LASTSEQA n, .ro, false⟩]⟩,
  ⟨0x4011C, 0x40, 32, 0x4, 3, 0x0, 1, fun n i _ => [⟨TDC_CH_LAST n i, .ro, false⟩]⟩,
  ⟨0x40128, 0x40, 32, 0x0, 1, 0x0, 1, fun n _ _ => [⟨TDC_CH_LASTUNCAL n, .ro, false⟩, ⟨TDC_CH_LASTEDGE n, .ro, false⟩]⟩,
  ⟨0x4012C, 0x40, 32, 0x0, 1, 0x0, 1, fun n _ _ => [⟨TDC_CH_LASTSEQB n, .ro, false⟩]⟩,
  ⟨0x40130, 0x40, 32, 0x0, 1, 0x0, 1, fun n _ _ => [⟨TDC_CH_NOSWAP n, .ro, false⟩, ⟨TDC_CH_ACTIVEIP n, .ro, false⟩, ⟨TDC_CH_EMPTY n, .ro, false⟩, ⟨TDC_CH_INLPEAK n, .ro, false⟩]⟩,
  ⟨0x40900, 0x20, 8, 0x0, 1, 0x0, 1, fun m _ _ => [⟨TDC_IV_EN m, .rw, false⟩, ⟨TDC_IV_STEN m, .rw, false⟩, ⟨TDC_IV_WMODE m, .rw, false⟩, ⟨TDC_IV_STOP m, .rw, false⟩, ⟨TDC_IV_START m, .rw, false⟩]⟩,
  ⟨0x40904, 0x20, 8, 0x0, 1, 0x0, 1, fun m _ _ => [⟨TDC_IV_WIN m, .rw, false⟩]⟩,
  ⟨0x40908, 0x20, 8, 0x0, 1, 0x0, 1, fun m _ _ => [⟨TDC_IV_STWIN m, .rw, false⟩]⟩,
  ⟨0x4090C, 0x20, 8, 0x0, 1, 0x0, 1, fun m _ _ => [⟨TDC_IV_RESSEQA m, .ro, false⟩]⟩,
  ⟨0x40910, 0x20, 8, 0x0, 1, 0x0, 1, fun m _ _ => [⟨TDC_IV_RES_LO m, .ro, false⟩]⟩,
  ⟨0x40914, 0x20, 8, 0x0, 1, 0x0, 1, fun m _ _ => [⟨TDC_IV_RES_HI m, .ro, false⟩]⟩,
  ⟨0x40918, 0x20, 8, 0x0, 1, 0x0, 1, fun m _ _ => [⟨TDC_IV_ORDER m, .ro, false⟩, ⟨TDC_IV_SUBRES m, .ro, false⟩, ⟨TDC_IV_RESSEQB m, .ro, false⟩]⟩,
  ⟨0x4091C, 0x20, 8, 0x0, 1, 0x0, 1, fun m _ _ => [⟨TDC_IV_UNPAIRED m, .rc, false⟩]⟩,
  ⟨0x41000, 0x40, 40, 0x0, 1, 0x0, 1, fun e _ _ => [⟨TDC_ST_SEQA e, .ro, false⟩]⟩,
  ⟨0x41004, 0x40, 40, 0x0, 1, 0x0, 1, fun e _ _ => [⟨TDC_ST_VALID e, .ro, false⟩, ⟨TDC_ST_SLOPEV e, .ro, false⟩, ⟨TDC_ST_GAP e, .ro, false⟩, ⟨TDC_ST_OVERFLOW e, .ro, false⟩, ⟨TDC_ST_CUT e, .ro, false⟩, ⟨TDC_ST_UNCAL e, .ro, false⟩, ⟨TDC_ST_ORDERSEEN e, .ro, false⟩, ⟨TDC_ST_SUBRESSEEN e, .ro, false⟩, ⟨TDC_ST_COUNT e, .ro, false⟩]⟩,
  ⟨0x41008, 0x40, 40, 0x4, 3, 0x0, 1, fun e i _ => [⟨TDC_ST_END e i, .ro, false⟩]⟩,
  ⟨0x41014, 0x40, 40, 0x0, 1, 0x0, 1, fun e _ _ => [⟨TDC_ST_MEAN_LO e, .ro, false⟩]⟩,
  ⟨0x41018, 0x40, 40, 0x0, 1, 0x0, 1, fun e _ _ => [⟨TDC_ST_MEAN_HI e, .ro, false⟩]⟩,
  ⟨0x4101C, 0x40, 40, 0x0, 1, 0x0, 1, fun e _ _ => [⟨TDC_ST_SD e, .ro, false⟩]⟩,
  ⟨0x41020, 0x40, 40, 0x0, 1, 0x0, 1, fun e _ _ => [⟨TDC_ST_MIN_LO e, .ro, false⟩]⟩,
  ⟨0x41024, 0x40, 40, 0x0, 1, 0x0, 1, fun e _ _ => [⟨TDC_ST_MIN_HI e, .ro, false⟩]⟩,
  ⟨0x41028, 0x40, 40, 0x0, 1, 0x0, 1, fun e _ _ => [⟨TDC_ST_MAX_LO e, .ro, false⟩]⟩,
  ⟨0x4102C, 0x40, 40, 0x0, 1, 0x0, 1, fun e _ _ => [⟨TDC_ST_MAX_HI e, .ro, false⟩]⟩,
  ⟨0x41030, 0x40, 40, 0x0, 1, 0x0, 1, fun e _ _ => [⟨TDC_ST_SLOPE_LO e, .ro, false⟩]⟩,
  ⟨0x41034, 0x40, 40, 0x0, 1, 0x0, 1, fun e _ _ => [⟨TDC_ST_SLOPE_HI e, .ro, false⟩]⟩,
  ⟨0x4103C, 0x40, 40, 0x0, 1, 0x0, 1, fun e _ _ => [⟨TDC_ST_SEQB e, .ro, false⟩]⟩,
  ⟨0x42000, 0x20, 8, 0x0, 1, 0x0, 1, fun k _ _ => [⟨TDC_EQ_LEVEL k, .ro, false⟩]⟩,
  ⟨0x42004, 0x20, 8, 0x0, 1, 0x0, 1, fun k _ _ => [⟨TDC_EQ_HEADSEQA k, .ro, false⟩]⟩,
  ⟨0x42008, 0x20, 8, 0x4, 3, 0x0, 1, fun k i _ => [⟨TDC_EQ_HEAD k i, .ro, false⟩]⟩,
  ⟨0x42014, 0x20, 8, 0x0, 1, 0x0, 1, fun k _ _ => [⟨TDC_EQ_GAP k, .ro, false⟩, ⟨TDC_EQ_EDGE k, .ro, false⟩, ⟨TDC_EQ_UNCAL k, .ro, false⟩, ⟨TDC_EQ_LOSTN k, .ro, false⟩]⟩,
  ⟨0x42018, 0x20, 8, 0x0, 1, 0x0, 1, fun k _ _ => [⟨TDC_EQ_HEADSEQB k, .ro, false⟩]⟩,
  ⟨0x4201C, 0x20, 8, 0x0, 1, 0x0, 1, fun k _ _ => [⟨TDC_EQ_LOST k, .rc, false⟩, ⟨TDC_EQ_POP k, .cmd, false⟩]⟩,
  ⟨0x50000, 0x0, 1, 0x0, 1, 0x0, 1, fun _ _ _ => [⟨SEL_CTL_REVERT, .rw, false⟩, ⟨SEL_CTL_WTR, .rw, false⟩]⟩,
  ⟨0x50004, 0x0, 1, 0x0, 1, 0x0, 1, fun _ _ _ => [⟨SEL_STATUS_ACQ, .ro, false⟩, ⟨SEL_STATUS_NOREF, .ro, false⟩, ⟨SEL_STATUS_RANKCONF, .ro, false⟩, ⟨SEL_STATUS_DRIFTUNRES, .ro, false⟩, ⟨SEL_STATUS_SWPEND, .ro, false⟩, ⟨SEL_STATUS_FREQONLY, .ro, false⟩, ⟨SEL_STATUS_EVERACTIVE, .ro, false⟩, ⟨SEL_STATUS_CONFSRC, .ro, false⟩, ⟨SEL_STATUS_ACTIVE, .ro, false⟩]⟩,
  ⟨0x50010, 0x4, 16, 0x0, 1, 0x0, 1, fun i _ _ => [⟨SEL_PRIO_SOURCE i, .ro, true⟩, ⟨SEL_PRIO_RANK i, .rw, false⟩]⟩,
  ⟨0x50060, 0x0, 1, 0x0, 1, 0x0, 1, fun _ _ _ => [⟨SEL_TQR_SEQA, .ro, false⟩]⟩,
  ⟨0x50064, 0x0, 1, 0x0, 1, 0x0, 1, fun _ _ _ => [⟨SEL_TQR_OSCLOSS, .ro, false⟩, ⟨SEL_TQR_LEAPPEND, .ro, false⟩, ⟨SEL_TQR_TRACE, .ro, false⟩, ⟨SEL_TQR_CLASS, .ro, false⟩]⟩,
  ⟨0x50068, 0x0, 1, 0x0, 1, 0x0, 1, fun _ _ _ => [⟨SEL_TQR_TEB, .ro, false⟩]⟩]

/-- Part 2 of the register map (R427, register tables of spec/). -/
def regTablePartc : List RegEnt := [
  ⟨0x5006C, 0x0, 1, 0x0, 1, 0x0, 1, fun _ _ _ => [⟨SEL_TQR_FEB, .ro, false⟩]⟩,
  ⟨0x50070, 0x0, 1, 0x0, 1, 0x0, 1, fun _ _ _ => [⟨SEL_TQR_HOSEC, .ro, false⟩]⟩,
  ⟨0x50074, 0x4, 3, 0x0, 1, 0x0, 1, fun i _ _ => [⟨SEL_TQR_TIME i, .ro, false⟩]⟩,
  ⟨0x50080, 0x0, 1, 0x0, 1, 0x0, 1, fun _ _ _ => [⟨SEL_TQR_SEQB, .ro, false⟩]⟩,
  ⟨0x50090, 0x0, 1, 0x0, 1, 0x0, 1, fun _ _ _ => [⟨SEL_SWSLEW_SLEW, .ro, false⟩]⟩,
  ⟨0x500A0, 0x0, 1, 0x0, 1, 0x0, 1, fun _ _ _ => [⟨SEL_HO_TRAINH, .ro, true⟩, ⟨SEL_HO_MINSEC, .ro, true⟩]⟩,
  ⟨0x500A4, 0x0, 1, 0x0, 1, 0x0, 1, fun _ _ _ => [⟨SEL_HO_HOAGEB, .ro, true⟩]⟩,
  ⟨0x500A8, 0x0, 1, 0x0, 1, 0x0, 1, fun _ _ _ => [⟨SEL_HO_HOTEMPB, .ro, true⟩]⟩,
  ⟨0x500AC, 0x0, 1, 0x0, 1, 0x0, 1, fun _ _ _ => [⟨SEL_HO_HOFINV, .ro, true⟩]⟩,
  ⟨0x500B0, 0x0, 1, 0x0, 1, 0x0, 1, fun _ _ _ => [⟨SEL_HO_TRACELIM, .ro, true⟩]⟩,
  ⟨0x500B4, 0x0, 1, 0x0, 1, 0x0, 1, fun _ _ _ => [⟨SEL_HO_HOFPEN, .ro, true⟩]⟩,
  ⟨0x500C0, 0x0, 1, 0x0, 1, 0x0, 1, fun _ _ _ => [⟨SEL_HOMODEL_SEQA, .ro, false⟩]⟩,
  ⟨0x500C4, 0x0, 1, 0x0, 1, 0x0, 1, fun _ _ _ => [⟨SEL_HOMODEL_Y0, .ro, false⟩]⟩,
  ⟨0x500C8, 0x0, 1, 0x0, 1, 0x0, 1, fun _ _ _ => [⟨SEL_HOMODEL_AGING, .ro, false⟩]⟩,
  ⟨0x500CC, 0x0, 1, 0x0, 1, 0x0, 1, fun _ _ _ => [⟨SEL_HOMODEL_TEMPCO, .ro, false⟩]⟩,
  ⟨0x500D0, 0x0, 1, 0x0, 1, 0x0, 1, fun _ _ _ => [⟨SEL_HOMODEL_TH, .ro, false⟩]⟩,
  ⟨0x500D4, 0x0, 1, 0x0, 1, 0x0, 1, fun _ _ _ => [⟨SEL_HOMODEL_VALID, .ro, false⟩, ⟨SEL_HOMODEL_TRAINED, .ro, false⟩]⟩,
  ⟨0x500D8, 0x0, 1, 0x0, 1, 0x0, 1, fun _ _ _ => [⟨SEL_HOMODEL_SEQB, .ro, false⟩]⟩,
  ⟨0x500E0, 0x0, 1, 0x0, 1, 0x0, 1, fun _ _ _ => [⟨SEL_TODIN_EN, .ro, true⟩, ⟨SEL_TODIN_PHASE, .ro, true⟩, ⟨SEL_TODIN_EVT, .ro, true⟩, ⟨SEL_TODIN_BAUD, .ro, true⟩]⟩,
  ⟨0x50100, 0x40, 20, 0x0, 1, 0x0, 1, fun s _ _ => [⟨SEL_SRC_EN s, .ro, true⟩, ⟨SEL_SRC_TRACE s, .ro, true⟩, ⟨SEL_SRC_DIFF s, .ro, true⟩, ⟨SEL_SRC_QWIN s, .ro, true⟩, ⟨SEL_SRC_TYPE s, .ro, true⟩]⟩,
  ⟨0x50104, 0x40, 20, 0x0, 1, 0x0, 1, fun s _ _ => [⟨SEL_SRC_FREQ s, .ro, true⟩]⟩,
  ⟨0x50108, 0x40, 20, 0x0, 1, 0x0, 1, fun s _ _ => [⟨SEL_SRC_FSOFT s, .rw, false⟩]⟩,
  ⟨0x5010C, 0x40, 20, 0x0, 1, 0x0, 1, fun s _ _ => [⟨SEL_SRC_FHARD s, .rw, false⟩]⟩,
  ⟨0x50110, 0x40, 20, 0x0, 1, 0x0, 1, fun s _ _ => [⟨SEL_SRC_PHSD s, .ro, true⟩]⟩,
  ⟨0x50114, 0x40, 20, 0x0, 1, 0x0, 1, fun s _ _ => [⟨SEL_SRC_PHJUMP s, .ro, true⟩]⟩,
  ⟨0x50118, 0x40, 20, 0x0, 1, 0x0, 1, fun s _ _ => [⟨SEL_SRC_DHARD s, .rw, false⟩, ⟨SEL_SRC_DSOFT s, .rw, false⟩]⟩,
  ⟨0x5011C, 0x40, 20, 0x0, 1, 0x0, 1, fun s _ _ => [⟨SEL_SRC_TEB s, .ro, true⟩]⟩,
  ⟨0x50120, 0x40, 20, 0x0, 1, 0x0, 1, fun s _ _ => [⟨SEL_SRC_FEB s, .ro, true⟩]⟩,
  ⟨0x50124, 0x40, 20, 0x0, 1, 0x0, 1, fun s _ _ => [⟨SEL_SRC_SEQA s, .ro, false⟩]⟩,
  ⟨0x50128, 0x40, 20, 0x0, 1, 0x0, 1, fun s _ _ => [⟨SEL_SRC_WTRLEFT s, .ro, false⟩, ⟨SEL_SRC_REASON s, .ro, false⟩, ⟨SEL_SRC_STATE s, .ro, false⟩]⟩,
  ⟨0x5012C, 0x40, 20, 0x0, 1, 0x0, 1, fun s _ _ => [⟨SEL_SRC_FOFS s, .ro, false⟩]⟩,
  ⟨0x50130, 0x40, 20, 0x0, 1, 0x0, 1, fun s _ _ => [⟨SEL_SRC_PHASE_LO s, .ro, false⟩]⟩,
  ⟨0x50134, 0x40, 20, 0x0, 1, 0x0, 1, fun s _ _ => [⟨SEL_SRC_PHASE_HI s, .ro, false⟩]⟩,
  ⟨0x50138, 0x40, 20, 0x0, 1, 0x0, 1, fun s _ _ => [⟨SEL_SRC_DRIFT s, .ro, false⟩]⟩,
  ⟨0x5013C, 0x40, 20, 0x0, 1, 0x0, 1, fun s _ _ => [⟨SEL_SRC_SEQB s, .ro, false⟩]⟩,
  ⟨0x60000, 0x20, 4, 0x0, 1, 0x0, 1, fun d _ _ => [⟨DPLL_EN d, .ro, true⟩, ⟨DPLL_FALLBACK d, .ro, true⟩, ⟨DPLL_BW d, .rw, false⟩, ⟨DPLL_INPUT d, .ro, true⟩]⟩,
  ⟨0x60004, 0x20, 4, 0x0, 1, 0x0, 1, fun d _ _ => [⟨DPLL_LOCKTHR d, .ro, true⟩]⟩,
  ⟨0x60008, 0x20, 4, 0x0, 1, 0x0, 1, fun d _ _ => [⟨DPLL_INPUTNOW d, .ro, false⟩, ⟨DPLL_STATE d, .ro, false⟩]⟩,
  ⟨0x6000C, 0x20, 4, 0x0, 1, 0x0, 1, fun d _ _ => [⟨DPLL_PHERR d, .ro, false⟩]⟩,
  ⟨0x60010, 0x20, 4, 0x0, 1, 0x0, 1, fun d _ _ => [⟨DPLL_FOFS d, .ro, false⟩]⟩]

/-- Part 3 of the register map (R427, register tables of spec/). -/
def regTablePartd : List RegEnt := [
  ⟨0x60100, 0x0, 1, 0x0, 1, 0x0, 1, fun _ _ _ => [⟨OUT_ALIGN_PENDING, .ro, false⟩, ⟨OUT_ALIGN_MASK, .cmd, false⟩]⟩,
  ⟨0x61000, 0x40, 16, 0x0, 1, 0x0, 1, fun n _ _ => [⟨OUT_EN n, .rw, false⟩, ⟨OUT_POL n, .ro, true⟩, ⟨OUT_KIND n, .ro, true⟩, ⟨OUT_PULSE n, .ro, true⟩, ⟨OUT_UTC n, .ro, true⟩, ⟨OUT_DPLL n, .ro, true⟩]⟩,
  ⟨0x61004, 0x40, 16, 0x0, 1, 0x0, 1, fun n _ _ => [⟨OUT_RATE n, .ro, true⟩]⟩,
  ⟨0x61008, 0x40, 16, 0x0, 1, 0x0, 1, fun n _ _ => [⟨OUT_WIDTH n, .ro, true⟩]⟩,
  ⟨0x6100C, 0x40, 16, 0x0, 1, 0x0, 1, fun n _ _ => [⟨OUT_OFS n, .rw, false⟩]⟩,
  ⟨0x61010, 0x40, 16, 0x0, 1, 0x0, 1, fun n _ _ => [⟨OUT_DLY n, .rw, false⟩]⟩,
  ⟨0x61014, 0x40, 16, 0x0, 1, 0x0, 1, fun n _ _ => [⟨OUT_FREQ_LO n, .ro, true⟩]⟩,
  ⟨0x61018, 0x40, 16, 0x0, 1, 0x0, 1, fun n _ _ => [⟨OUT_FREQ_HI n, .ro, true⟩]⟩,
  ⟨0x6101C, 0x40, 16, 0x0, 1, 0x0, 1, fun n _ _ => [⟨OUT_MISSEQA n, .ro, false⟩]⟩,
  ⟨0x61020, 0x40, 16, 0x0, 1, 0x0, 1, fun n _ _ => [⟨OUT_MIS_LO n, .ro, false⟩]⟩,
  ⟨0x61024, 0x40, 16, 0x0, 1, 0x0, 1, fun n _ _ => [⟨OUT_MIS_HI n, .ro, false⟩]⟩,
  ⟨0x61028, 0x40, 16, 0x0, 1, 0x0, 1, fun n _ _ => [⟨OUT_MISSEQB n, .ro, false⟩]⟩,
  ⟨0x6102C, 0x40, 16, 0x0, 1, 0x0, 1, fun n _ _ => [⟨OUT_ALIGNPEND n, .ro, false⟩]⟩,
  ⟨0x61030, 0x40, 16, 0x0, 1, 0x0, 1, fun n _ _ => [⟨OUT_OMIT n, .rc, false⟩]⟩,
  ⟨0x62000, 0x10, 2, 0x0, 1, 0x0, 1, fun k _ _ => [⟨TOD_EN k, .rw, false⟩, ⟨TOD_FORMAT k, .ro, true⟩, ⟨TOD_PULSE k, .ro, true⟩, ⟨TOD_BAUD k, .ro, true⟩]⟩,
  ⟨0x62004, 0x10, 2, 0x0, 1, 0x0, 1, fun k _ _ => [⟨TOD_INVALID k, .ro, false⟩, ⟨TOD_SEQ k, .ro, false⟩]⟩,
  ⟨0xD0000, 0x80, 1024, 0x0, 1, 0x0, 1, fun r _ _ => [⟨GN_NAV_SEQ r, .ro, false⟩]⟩,
  ⟨0xD0004, 0x80, 1024, 0x0, 1, 0x0, 1, fun r _ _ => [⟨GN_NAV_CHECK r, .ro, false⟩, ⟨GN_NAV_KIND r, .ro, false⟩, ⟨GN_NAV_ANT r, .ro, false⟩, ⟨GN_NAV_SIGNAL r, .ro, false⟩, ⟨GN_NAV_SV r, .ro, false⟩, ⟨GN_NAV_CH r, .ro, false⟩]⟩,
  ⟨0xD0008, 0x80, 1024, 0x4, 3, 0x0, 1, fun r i _ => [⟨GN_NAV_TIME r i, .ro, false⟩]⟩,
  ⟨0xD0014, 0x80, 1024, 0x0, 1, 0x0, 1, fun r _ _ => [⟨GN_NAV_NBITS r, .ro, false⟩]⟩,
  ⟨0xD001C, 0x80, 1024, 0x0, 1, 0x0, 1, fun r _ _ => [⟨GN_NAV_SEQB r, .ro, false⟩]⟩,
  ⟨0xD0020, 0x80, 1024, 0x4, 24, 0x0, 1, fun r i _ => [⟨GN_NAV_DATA r i, .ro, false⟩]⟩,
  ⟨0x88000, 0x20, 32, 0x0, 1, 0x0, 1, fun s _ _ => [⟨GN_SET_SEQA s, .ro, false⟩]⟩,
  ⟨0x88004, 0x20, 32, 0x4, 3, 0x0, 1, fun s i _ => [⟨GN_SET_TIME s i, .ro, false⟩]⟩,
  ⟨0x88010, 0x20, 32, 0x0, 1, 0x0, 1, fun s _ _ => [⟨GN_SET_STEP s, .ro, false⟩, ⟨GN_SET_BURST s, .ro, false⟩, ⟨GN_SET_NTRACK s, .ro, false⟩]⟩,
  ⟨0x88014, 0x20, 32, 0x0, 1, 0x0, 1, fun s _ _ => [⟨GN_SET_INDEX s, .ro, false⟩]⟩,
  ⟨0x8801C, 0x20, 32, 0x0, 1, 0x0, 1, fun s _ _ => [⟨GN_SET_SEQB s, .ro, false⟩]⟩,
  ⟨0x90000, 0x2000, 32, 0x20, 256, 0x0, 1, fun s c _ => [⟨GN_MEAS_VALID s c, .ro, false⟩, ⟨GN_MEAS_CODELOCK s c, .ro, false⟩, ⟨GN_MEAS_CARRLOCK s c, .ro, false⟩, ⟨GN_MEAS_BITSYNC s c, .ro, false⟩, ⟨GN_MEAS_TOWKNOWN s c, .ro, false⟩, ⟨GN_MEAS_HALFCYC s c, .ro, false⟩, ⟨GN_MEAS_SLIP s c, .ro, false⟩, ⟨GN_MEAS_MPATH s c, .ro, false⟩, ⟨GN_MEAS_ANT s c, .ro, false⟩, ⟨GN_MEAS_SIGNAL s c, .ro, false⟩, ⟨GN_MEAS_SV s c, .ro, false⟩, ⟨GN_MEAS_CH s c, .ro, false⟩]⟩,
  ⟨0x90004, 0x2000, 32, 0x20, 256, 0x0, 1, fun s c _ => [⟨GN_MEAS_TXMS s c, .ro, false⟩]⟩,
  ⟨0x90008, 0x2000, 32, 0x20, 256, 0x0, 1, fun s c _ => [⟨GN_MEAS_CN0 s c, .ro, false⟩, ⟨GN_MEAS_CHIP s c, .ro, false⟩]⟩,
  ⟨0x9000C, 0x2000, 32, 0x20, 256, 0x0, 1, fun s c _ => [⟨GN_MEAS_CODEFRAC s c, .ro, false⟩]⟩,
  ⟨0x90010, 0x2000, 32, 0x20, 256, 0x0, 1, fun s c _ => [⟨GN_MEAS_CARRCYC s c, .ro, false⟩]⟩,
  ⟨0x90014, 0x2000, 32, 0x20, 256, 0x0, 1, fun s c _ => [⟨GN_MEAS_CARRFRAC s c, .ro, false⟩, ⟨GN_MEAS_LOCKT s c, .ro, false⟩]⟩,
  ⟨0x90018, 0x2000, 32, 0x20, 256, 0x0, 1, fun s c _ => [⟨GN_MEAS_DOPPLER s c, .ro, false⟩]⟩,
  ⟨0x9001C, 0x2000, 32, 0x20, 256, 0x0, 1, fun s c _ => [⟨GN_MEAS_MP s c, .ro, false⟩]⟩,
  ⟨0x80000, 0x0, 1, 0x0, 1, 0x0, 1, fun _ _ _ => [⟨GN_CTL_EN, .ro, true⟩, ⟨GN_CTL_FSB, .ro, true⟩, ⟨GN_CTL_FSA, .ro, true⟩, ⟨GN_CTL_SPACING, .ro, true⟩, ⟨GN_CTL_DISC, .ro, true⟩, ⟨GN_CTL_ANTB, .ro, true⟩]⟩,
  ⟨0x80004, 0x0, 1, 0x0, 1, 0x0, 1, fun _ _ _ => [⟨GN_STATUS_SOLVALID, .ro, false⟩, ⟨GN_STATUS_JAMFLAG, .ro, false⟩, ⟨GN_STATUS_SPOOFFLAG, .ro, false⟩, ⟨GN_STATUS_INTFLAG, .ro, false⟩, ⟨GN_STATUS_BURST, .ro, false⟩, ⟨GN_STATUS_CHOVER, .ro, false⟩, ⟨GN_STATUS_FEFAIL, .ro, false⟩, ⟨GN_STATUS_CHTRACK, .ro, false⟩, ⟨GN_STATUS_SPACING, .ro, false⟩, ⟨GN_STATUS_CLKLOSSB, .ro, false⟩, ⟨GN_STATUS_CLKLOSSA, .ro, false⟩]⟩,
  ⟨0x80010, 0x4, 4, 0x0, 1, 0x0, 1, fun m _ _ => [⟨GN_STR_CFG_EN m, .ro, true⟩, ⟨GN_STR_CFG_BITS m, .ro, true⟩, ⟨GN_STR_CFG_AGCQ m, .ro, true⟩, ⟨GN_STR_CFG_GSLOPE m, .ro, true⟩]⟩,
  ⟨0x80020, 0x4, 4, 0x0, 1, 0x0, 1, fun m _ _ => [⟨GN_STR_IF_IF m, .ro, true⟩]⟩,
  ⟨0x80030, 0x4, 4, 0x0, 1, 0x0, 1, fun m _ _ => [⟨GN_STR_STAT_JAM m, .ro, false⟩, ⟨GN_STR_STAT_AGC m, .ro, false⟩, ⟨GN_STR_STAT_SF m, .ro, false⟩, ⟨GN_STR_STAT_NOTCH m, .ro, false⟩]⟩]

/-- Part 4 of the register map (R427, register tables of spec/). -/
def regTableParte : List RegEnt := [
  ⟨0x80040, 0x10, 4, 0x4, 4, 0x0, 1, fun m k _ => [⟨GN_NOTCH_EN m k, .ro, false⟩, ⟨GN_NOTCH_EXCESS m k, .ro, false⟩, ⟨GN_NOTCH_FREQ m k, .ro, false⟩]⟩,
  ⟨0x80080, 0x0, 1, 0x0, 1, 0x0, 1, fun _ _ _ => [⟨GN_LATCH_LASTSET, .ro, false⟩, ⟨GN_LATCH_RATE, .ro, true⟩]⟩,
  ⟨0x80084, 0x0, 1, 0x0, 1, 0x0, 1, fun _ _ _ => [⟨GN_BURST_EN, .rw, false⟩, ⟨GN_BURST_ALLOWED, .ro, false⟩, ⟨GN_BURST_LEN, .rw, false⟩]⟩,
  ⟨0x80088, 0x0, 1, 0x0, 1, 0x0, 1, fun _ _ _ => [⟨GN_BURSTELIM_ELIM, .rw, false⟩]⟩,
  ⟨0x8008C, 0x0, 1, 0x0, 1, 0x0, 1, fun _ _ _ => [⟨GN_JAMCFG_NOTCHTHR, .ro, true⟩, ⟨GN_JAMCFG_FLAG, .rw, false⟩, ⟨GN_JAMCFG_WARN, .rw, false⟩]⟩,
  ⟨0x80090, 0x0, 1, 0x0, 1, 0x0, 1, fun _ _ _ => [⟨GN_SPOOFCFG_RTHR, .rw, false⟩, ⟨GN_SPOOFCFG_CN0SD, .rw, false⟩, ⟨GN_SPOOFCFG_CLKJUMP, .rw, false⟩, ⟨GN_SPOOFCFG_HOLD, .rw, false⟩]⟩,
  ⟨0x80094, 0x0, 1, 0x0, 1, 0x0, 1, fun _ _ _ => [⟨GN_SPOOF_FLAG, .ro, false⟩, ⟨GN_SPOOF_A, .ro, false⟩, ⟨GN_SPOOF_B, .ro, false⟩, ⟨GN_SPOOF_C, .ro, false⟩, ⟨GN_SPOOF_AINC, .ro, false⟩, ⟨GN_SPOOF_R, .ro, false⟩, ⟨GN_SPOOF_CN0DEV, .ro, false⟩, ⟨GN_SPOOF_NDUAL, .ro, false⟩]⟩,
  ⟨0x80098, 0x0, 1, 0x0, 1, 0x0, 1, fun _ _ _ => [⟨GN_SOLCFG_TIMESYS, .ro, true⟩, ⟨GN_SOLCFG_POSSRC, .ro, true⟩, ⟨GN_SOLCFG_SURVEYH, .ro, true⟩, ⟨GN_SOLCFG_MASK, .ro, true⟩, ⟨GN_SOLCFG_MINSV, .ro, true⟩]⟩,
  ⟨0x8009C, 0x0, 1, 0x0, 1, 0x0, 1, fun _ _ _ => [⟨GN_TTFS_START, .ro, false⟩, ⟨GN_TTFS_MS, .ro, false⟩]⟩,
  ⟨0x800A0, 0x4, 3, 0x0, 1, 0x0, 1, fun i _ _ => [⟨GN_POS_POS i, .ro, false⟩]⟩,
  ⟨0x800B0, 0x4, 4, 0x0, 1, 0x0, 1, fun m _ _ => [⟨GN_DLY_DLY m, .ro, true⟩]⟩,
  ⟨0x800C0, 0x0, 1, 0x0, 1, 0x0, 1, fun _ _ _ => [⟨GN_SOL_SEQA, .ro, false⟩]⟩,
  ⟨0x800C4, 0x0, 1, 0x0, 1, 0x0, 1, fun _ _ _ => [⟨GN_SOL_STATE, .ro, false⟩, ⟨GN_SOL_VALID, .ro, false⟩, ⟨GN_SOL_SINGLEFREQ, .ro, false⟩, ⟨GN_SOL_INT, .ro, false⟩, ⟨GN_SOL_SVUSED, .ro, false⟩, ⟨GN_SOL_TDOP, .ro, false⟩]⟩,
  ⟨0x800C8, 0x0, 1, 0x0, 1, 0x0, 1, fun _ _ _ => [⟨GN_SOL_OFS_LO, .ro, false⟩]⟩,
  ⟨0x800CC, 0x0, 1, 0x0, 1, 0x0, 1, fun _ _ _ => [⟨GN_SOL_OFS_HI, .ro, false⟩]⟩,
  ⟨0x800D0, 0x0, 1, 0x0, 1, 0x0, 1, fun _ _ _ => [⟨GN_SOL_SIGMA, .ro, false⟩]⟩,
  ⟨0x800D4, 0x0, 1, 0x0, 1, 0x0, 1, fun _ _ _ => [⟨GN_SOL_SURVLEFT, .ro, false⟩]⟩,
  ⟨0x800D8, 0x0, 1, 0x0, 1, 0x0, 1, fun _ _ _ => [⟨GN_SOL_SECLO, .ro, false⟩]⟩,
  ⟨0x800DC, 0x0, 1, 0x0, 1, 0x0, 1, fun _ _ _ => [⟨GN_SOL_SEQB, .ro, false⟩]⟩,
  ⟨0x800E0, 0x0, 1, 0x0, 1, 0x0, 1, fun _ _ _ => [⟨GN_NAVSEQ_SEQ, .ro, false⟩]⟩,
  ⟨0x800E4, 0x0, 1, 0x0, 1, 0x0, 1, fun _ _ _ => [⟨GN_FESTAT_DONE, .ro, false⟩, ⟨GN_FESTAT_FAIL, .ro, false⟩, ⟨GN_FESTAT_INDEX, .ro, false⟩]⟩,
  ⟨0x800E8, 0x0, 1, 0x0, 1, 0x0, 1, fun _ _ _ => [⟨GN_CORRSEL_EN, .rw, false⟩, ⟨GN_CORRSEL_CH, .rw, false⟩]⟩,
  ⟨0x80100, 0x0, 1, 0x0, 1, 0x0, 1, fun _ _ _ => [⟨GN_CORR_SEQA, .ro, false⟩]⟩,
  ⟨0x80104, 0x8, 7, 0x0, 1, 0x0, 1, fun i _ _ => [⟨GN_CORR_I i, .ro, false⟩]⟩,
  ⟨0x80108, 0x8, 7, 0x0, 1, 0x0, 1, fun i _ _ => [⟨GN_CORR_Q i, .ro, false⟩]⟩,
  ⟨0x8013C, 0x0, 1, 0x0, 1, 0x0, 1, fun _ _ _ => [⟨GN_CORR_SEQB, .ro, false⟩]⟩,
  ⟨0x84000, 0x10, 256, 0x0, 1, 0x0, 1, fun c _ _ => [⟨GN_CHST_STATE c, .ro, false⟩, ⟨GN_CHST_ANT c, .ro, false⟩, ⟨GN_CHST_SIGNAL c, .ro, false⟩, ⟨GN_CHST_SV c, .ro, false⟩, ⟨GN_CHST_ELEV c, .ro, false⟩]⟩,
  ⟨0x84004, 0x10, 256, 0x0, 1, 0x0, 1, fun c _ _ => [⟨GN_CHST_CN0 c, .ro, false⟩, ⟨GN_CHST_LOCKT c, .ro, false⟩]⟩,
  ⟨0x84008, 0x10, 256, 0x0, 1, 0x0, 1, fun c _ _ => [⟨GN_CHST_DOPPLER c, .ro, false⟩]⟩,
  ⟨0x100000, 0x8000, 32, 0x0, 1, 0x0, 1, fun p _ _ => [⟨MAC_CFG_EN p, .ro, true⟩, ⟨MAC_CFG_PAUSEEN p, .ro, true⟩, ⟨MAC_CFG_MAXLEN p, .ro, true⟩, ⟨MAC_CFG_UPHOLD p, .ro, true⟩]⟩,
  ⟨0x100004, 0x8000, 32, 0x0, 1, 0x0, 1, fun p _ _ => [⟨MAC_STATUS_LINK p, .ro, false⟩, ⟨MAC_STATUS_LFAULT p, .ro, false⟩, ⟨MAC_STATUS_RFAULT p, .ro, false⟩, ⟨MAC_STATUS_PAUSED p, .ro, false⟩, ⟨MAC_STATUS_TXLPI p, .ro, false⟩, ⟨MAC_STATUS_RXLPI p, .ro, false⟩, ⟨MAC_STATUS_GATE p, .ro, false⟩, ⟨MAC_STATUS_VACTIVE p, .ro, false⟩, ⟨MAC_STATUS_PAUSELEFT p, .ro, false⟩]⟩,
  ⟨0x100008, 0x8000, 32, 0x0, 1, 0x0, 1, fun p _ _ => [⟨MAC_ADDR_LO_ADDRLO p, .ro, true⟩]⟩,
  ⟨0x100010, 0x8000, 32, 0x0, 1, 0x0, 1, fun p _ _ => [⟨MAC_VADDR_LO_ADDRLO p, .ro, true⟩]⟩,
  ⟨0x10000C, 0x8000, 32, 0x0, 1, 0x0, 1, fun p _ _ => [⟨MAC_ADDR_HI_ADDRHI p, .ro, true⟩]⟩,
  ⟨0x100014, 0x8000, 32, 0x0, 1, 0x0, 1, fun p _ _ => [⟨MAC_VADDR_HI_ADDRHI p, .ro, true⟩]⟩,
  ⟨0x100018, 0x8000, 32, 0x0, 1, 0x0, 1, fun p _ _ => [⟨MAC_TXTHR_CUR p, .ro, false⟩, ⟨MAC_TXTHR_CFG p, .ro, true⟩]⟩,
  ⟨0x10001C, 0x8000, 32, 0x0, 1, 0x0, 1, fun p _ _ => [⟨MAC_THRRST_RESET p, .cmd, false⟩]⟩,
  ⟨0x100020, 0x8000, 32, 0x0, 1, 0x0, 1, fun p _ _ => [⟨MAC_LPI_EN p, .rw, false⟩, ⟨MAC_LPI_IDLE p, .ro, true⟩, ⟨MAC_LPI_TWMIN p, .ro, true⟩]⟩,
  ⟨0x100024, 0x8000, 32, 0x0, 1, 0x0, 1, fun p _ _ => [⟨MAC_LPISTAT_NEG p, .ro, false⟩, ⟨MAC_LPISTAT_TW p, .ro, false⟩]⟩,
  ⟨0x100028, 0x8000, 32, 0x0, 1, 0x0, 1, fun p _ _ => [⟨MAC_FDEF_DROP p, .ro, true⟩, ⟨MAC_FDEF_RQ p, .ro, true⟩]⟩]

/-- Part 5 of the register map (R427, register tables of spec/). -/
def regTablePartf : List RegEnt := [
  ⟨0x10002C, 0x8000, 32, 0x0, 1, 0x0, 1, fun p _ _ => [⟨MAC_RQMAP0_PART0 p, .ro, true⟩, ⟨MAC_RQMAP0_PART1 p, .ro, true⟩, ⟨MAC_RQMAP0_PART2 p, .ro, true⟩, ⟨MAC_RQMAP0_PART3 p, .ro, true⟩, ⟨MAC_RQMAP0_PART4 p, .ro, true⟩, ⟨MAC_RQMAP0_PART5 p, .ro, true⟩, ⟨MAC_RQMAP0_PART6 p, .ro, true⟩, ⟨MAC_RQMAP0_PART7 p, .ro, true⟩]⟩,
  ⟨0x100030, 0x8000, 32, 0x0, 1, 0x0, 1, fun p _ _ => [⟨MAC_RQMAP1_PART8 p, .ro, true⟩, ⟨MAC_RQMAP1_PART9 p, .ro, true⟩, ⟨MAC_RQMAP1_PART10 p, .ro, true⟩, ⟨MAC_RQMAP1_PART11 p, .ro, true⟩, ⟨MAC_RQMAP1_PART12 p, .ro, true⟩, ⟨MAC_RQMAP1_PART13 p, .ro, true⟩, ⟨MAC_RQMAP1_PART14 p, .ro, true⟩, ⟨MAC_RQMAP1_PART15 p, .ro, true⟩]⟩,
  ⟨0x100034, 0x8000, 32, 0x0, 1, 0x0, 1, fun p _ _ => [⟨MAC_TXQMAP_CLASS0 p, .ro, true⟩, ⟨MAC_TXQMAP_CLASS1 p, .ro, true⟩, ⟨MAC_TXQMAP_CLASS2 p, .ro, true⟩, ⟨MAC_TXQMAP_CLASS3 p, .ro, true⟩, ⟨MAC_TXQMAP_CLASS4 p, .ro, true⟩, ⟨MAC_TXQMAP_CLASS5 p, .ro, true⟩, ⟨MAC_TXQMAP_CLASS6 p, .ro, true⟩, ⟨MAC_TXQMAP_CLASS7 p, .ro, true⟩]⟩,
  ⟨0x100038, 0x8000, 32, 0x0, 1, 0x0, 1, fun p _ _ => [⟨MAC_SAT0_SAT p, .w1c, false⟩]⟩,
  ⟨0x10003C, 0x8000, 32, 0x0, 1, 0x0, 1, fun p _ _ => [⟨MAC_SAT1_SAT p, .w1c, false⟩]⟩,
  ⟨0x100100, 0x8000, 32, 0x4, 64, 0x0, 1, fun p i _ => [⟨MAC_VLAN_EN p i, .ro, true⟩, ⟨MAC_VLAN_TAGS p i, .ro, true⟩, ⟨MAC_VLAN_OTPID p i, .ro, true⟩, ⟨MAC_VLAN_TXPCP p i, .ro, true⟩, ⟨MAC_VLAN_OVID p i, .ro, true⟩, ⟨MAC_VLAN_IVID p i, .ro, true⟩]⟩,
  ⟨0x100200, 0x8000, 32, 0x10, 64, 0x0, 1, fun p f _ => [⟨MAC_FILT_EN p f, .ro, true⟩, ⟨MAC_FILT_DROP p f, .ro, true⟩, ⟨MAC_FILT_RQ p f, .ro, true⟩, ⟨MAC_FILT_VLANANY p f, .ro, true⟩, ⟨MAC_FILT_VLAN p f, .ro, true⟩, ⟨MAC_FILT_PCPANY p f, .ro, true⟩, ⟨MAC_FILT_PCP p f, .ro, true⟩, ⟨MAC_FILT_DAANY p f, .ro, true⟩, ⟨MAC_FILT_DACLASS p f, .ro, true⟩, ⟨MAC_FILT_IPVER p f, .ro, true⟩, ⟨MAC_FILT_PROTOANY p f, .ro, true⟩, ⟨MAC_FILT_PROTO p f, .ro, true⟩]⟩,
  ⟨0x100204, 0x8000, 32, 0x10, 64, 0x0, 1, fun p f _ => [⟨MAC_FILT_ETYPE p f, .ro, true⟩, ⟨MAC_FILT_ETMASK p f, .ro, true⟩]⟩,
  ⟨0x100208, 0x8000, 32, 0x10, 64, 0x0, 1, fun p f _ => [⟨MAC_FILT_PORTLO p f, .ro, true⟩, ⟨MAC_FILT_PORTHI p f, .ro, true⟩]⟩,
  ⟨0x101000, 0x8000, 32, 0x20, 256, 0x0, 1, fun p a _ => [⟨MAC_IP_EN p a, .ro, true⟩, ⟨MAC_IP_V6 p a, .ro, true⟩, ⟨MAC_IP_KIND p a, .ro, true⟩, ⟨MAC_IP_VLAN p a, .ro, true⟩]⟩,
  ⟨0x101004, 0x8000, 32, 0x20, 256, 0x4, 4, fun p a i => [⟨MAC_IP_ADDR p a i, .ro, true⟩]⟩,
  ⟨0x104000, 0x8000, 32, 0x8, 48, 0x0, 1, fun p c _ => [⟨MAC_CNT_LO p c, .rc, false⟩]⟩,
  ⟨0x104004, 0x8000, 32, 0x8, 48, 0x0, 1, fun p c _ => [⟨MAC_CNT_HI p c, .ro, false⟩]⟩,
  ⟨0x107000, 0x40000, 4, 0x0, 1, 0x0, 1, fun q _ _ => [⟨MAC_QMODE_EN q, .ro, true⟩, ⟨MAC_QMODE_FEC25 q, .ro, true⟩, ⟨MAC_QMODE_MODE q, .ro, true⟩]⟩,
  ⟨0x107004, 0x40000, 4, 0x0, 1, 0x0, 1, fun q _ _ => [⟨MAC_QSTATUS_FAULT q, .ro, false⟩, ⟨MAC_QSTATUS_PLLLOCK q, .ro, false⟩, ⟨MAC_QSTATUS_REFCLK q, .ro, false⟩, ⟨MAC_QSTATUS_CAUSE q, .ro, false⟩, ⟨MAC_QSTATUS_SIGDET q, .ro, false⟩]⟩,
  ⟨0x107010, 0x40000, 4, 0x4, 8, 0x0, 1, fun q l _ => [⟨MAC_LANE_RXPOL q l, .ro, true⟩, ⟨MAC_LANE_TXPOL q l, .ro, true⟩, ⟨MAC_LANE_PHYS q l, .ro, true⟩, ⟨MAC_LANE_PRE q l, .ro, true⟩, ⟨MAC_LANE_MAIN q l, .ro, true⟩, ⟨MAC_LANE_POST q l, .ro, true⟩]⟩,
  ⟨0x200000, 0x0, 1, 0x0, 1, 0x0, 1, fun _ _ _ => [⟨TSQ_CFG_FMT, .ro, false⟩, ⟨TSQ_CFG_AUDN, .rw, false⟩, ⟨TSQ_CFG_RLEAD, .ro, true⟩]⟩,
  ⟨0x200004, 0x0, 1, 0x0, 1, 0x0, 1, fun _ _ _ => [⟨TSQ_AUDIT_CLR, .cmd, false⟩, ⟨TSQ_AUDIT_EN, .rw, false⟩, ⟨TSQ_AUDIT_LIM, .rw, false⟩]⟩,
  ⟨0x200008, 0x0, 1, 0x0, 1, 0x0, 1, fun _ _ _ => [⟨TSQ_AUDSTAT_SKIP, .rc, false⟩]⟩,
  ⟨0x20000C, 0x0, 1, 0x0, 1, 0x0, 1, fun _ _ _ => [⟨TSQ_AUDLAST_ERR, .ro, false⟩, ⟨TSQ_AUDLAST_PORT, .ro, false⟩]⟩,
  ⟨0x200100, 0x0, 1, 0x0, 1, 0x0, 1, fun _ _ _ => [⟨TSQ_HIST_SEQA, .ro, false⟩]⟩,
  ⟨0x200104, 0x4, 32, 0x0, 1, 0x0, 1, fun i _ _ => [⟨TSQ_HIST_BIN i, .ro, false⟩]⟩,
  ⟨0x200184, 0x0, 1, 0x0, 1, 0x0, 1, fun _ _ _ => [⟨TSQ_HIST_UNDER, .ro, false⟩]⟩,
  ⟨0x200188, 0x0, 1, 0x0, 1, 0x0, 1, fun _ _ _ => [⟨TSQ_HIST_OVER, .ro, false⟩]⟩,
  ⟨0x20018C, 0x0, 1, 0x0, 1, 0x0, 1, fun _ _ _ => [⟨TSQ_HIST_COUNT, .ro, false⟩]⟩,
  ⟨0x200190, 0x0, 1, 0x0, 1, 0x0, 1, fun _ _ _ => [⟨TSQ_HIST_SEQB, .ro, false⟩]⟩,
  ⟨0x200800, 0x20, 4, 0x4, 8, 0x0, 1, fun q l _ => [⟨TSQ_LANETRIM_RXTRIM q l, .ro, false⟩, ⟨TSQ_LANETRIM_TXTRIM q l, .ro, false⟩]⟩,
  ⟨0x201000, 0x80, 32, 0x0, 1, 0x0, 1, fun p _ _ => [⟨TSQ_P_BOARDCAL p, .ro, true⟩]⟩,
  ⟨0x201004, 0x80, 32, 0x0, 1, 0x0, 1, fun p _ _ => [⟨TSQ_P_RXDLY p, .ro, true⟩]⟩,
  ⟨0x201008, 0x80, 32, 0x0, 1, 0x0, 1, fun p _ _ => [⟨TSQ_P_TXDLY p, .ro, true⟩]⟩,
  ⟨0x20100C, 0x80, 32, 0x0, 1, 0x0, 1, fun p _ _ => [⟨TSQ_P_RXLAT p, .ro, false⟩]⟩,
  ⟨0x201010, 0x80, 32, 0x0, 1, 0x0, 1, fun p _ _ => [⟨TSQ_P_TXLAT p, .ro, false⟩]⟩,
  ⟨0x201014, 0x80, 32, 0x0, 1, 0x0, 1, fun p _ _ => [⟨TSQ_P_LEVEL p, .ro, false⟩]⟩,
  ⟨0x201018, 0x80, 32, 0x0, 1, 0x0, 1, fun p _ _ => [⟨TSQ_P_HEADSEQA p, .ro, false⟩]⟩,
  ⟨0x20101C, 0x80, 32, 0x4, 3, 0x0, 1, fun p i _ => [⟨TSQ_P_HEAD p i, .ro, false⟩]⟩,
  ⟨0x201028, 0x80, 32, 0x0, 1, 0x0, 1, fun p _ _ => [⟨TSQ_P_TAG p, .ro, false⟩]⟩,
  ⟨0x20102C, 0x80, 32, 0x0, 1, 0x0, 1, fun p _ _ => [⟨TSQ_P_FLAGS p, .ro, false⟩]⟩,
  ⟨0x201030, 0x80, 32, 0x0, 1, 0x0, 1, fun p _ _ => [⟨TSQ_P_HEADSEQB p, .ro, false⟩]⟩,
  ⟨0x201034, 0x80, 32, 0x0, 1, 0x0, 1, fun p _ _ => [⟨TSQ_P_LOST p, .rc, false⟩, ⟨TSQ_P_POP p, .cmd, false⟩]⟩,
  ⟨0x201038, 0x80, 32, 0x0, 1, 0x0, 1, fun p _ _ => [⟨TSQ_P_RESVMISS p, .rc, false⟩]⟩]

/-- Part 6 of the register map (R427, register tables of spec/). -/
def regTablePartg : List RegEnt := [
  ⟨0x20103C, 0x80, 32, 0x0, 1, 0x0, 1, fun p _ _ => [⟨TSQ_P_INSERR p, .rc, false⟩]⟩,
  ⟨0x300000, 0x0, 1, 0x0, 1, 0x0, 1, fun _ _ _ => [⟨FAB_STATUS_VREQ, .ro, false⟩, ⟨FAB_STATUS_OCC, .ro, false⟩, ⟨FAB_STATUS_ENGIN, .ro, false⟩]⟩,
  ⟨0x300004, 0x0, 1, 0x0, 1, 0x0, 1, fun _ _ _ => [⟨FAB_RETIRE_STATUS, .cmd, false⟩, ⟨FAB_RETIRE_ACTION, .cmd, false⟩, ⟨FAB_RETIRE_CLUSTER, .cmd, false⟩, ⟨FAB_RETIRE_ENGINE, .cmd, false⟩]⟩,
  ⟨0x300008, 0x0, 1, 0x0, 1, 0x0, 1, fun _ _ _ => [⟨FAB_DIRTY_COUNT, .ro, false⟩, ⟨FAB_DIRTY_SWAP, .cmd, false⟩]⟩,
  ⟨0x30000C, 0x4, 3, 0x0, 1, 0x0, 1, fun i _ _ => [⟨FAB_DIRTYTIME_TS i, .ro, false⟩]⟩,
  ⟨0x300020, 0x0, 1, 0x0, 1, 0x0, 1, fun _ _ _ => [⟨FAB_RATE_OWNER, .ro, true⟩, ⟨FAB_RATE_HALFLIFE, .ro, true⟩]⟩,
  ⟨0x300024, 0x0, 1, 0x0, 1, 0x0, 1, fun _ _ _ => [⟨FAB_RATEEPOCH_EPOCH, .ro, false⟩]⟩,
  ⟨0x300028, 0x0, 1, 0x0, 1, 0x0, 1, fun _ _ _ => [⟨FAB_ECC_UNCORR, .rc, false⟩, ⟨FAB_ECC_CORR, .rc, false⟩]⟩,
  ⟨0x301000, 0x40, 6, 0x0, 1, 0x0, 1, fun k _ _ => [⟨FAB_PART_EN k, .ro, true⟩, ⟨FAB_PART_STEALMIN k, .ro, true⟩, ⟨FAB_PART_MAXAGE k, .rw, false⟩]⟩,
  ⟨0x301004, 0x40, 6, 0x0, 1, 0x0, 1, fun k _ _ => [⟨FAB_PART_CLMASK k, .ro, true⟩]⟩,
  ⟨0x301008, 0x40, 6, 0x0, 1, 0x0, 1, fun k _ _ => [⟨FAB_PART_ASSOCBASE k, .ro, true⟩]⟩,
  ⟨0x30100C, 0x40, 6, 0x0, 1, 0x0, 1, fun k _ _ => [⟨FAB_PART_ASSOCCNT k, .ro, true⟩]⟩,
  ⟨0x301010, 0x40, 6, 0x0, 1, 0x0, 1, fun k _ _ => [⟨FAB_PART_OCC k, .ro, false⟩, ⟨FAB_PART_ENGIN k, .ro, false⟩]⟩,
  ⟨0x301014, 0x40, 6, 0x0, 1, 0x0, 1, fun k _ _ => [⟨FAB_PART_REQ k, .rc, false⟩]⟩,
  ⟨0x301018, 0x40, 6, 0x0, 1, 0x0, 1, fun k _ _ => [⟨FAB_PART_RESP k, .rc, false⟩]⟩,
  ⟨0x30101C, 0x40, 6, 0x0, 1, 0x0, 1, fun k _ _ => [⟨FAB_PART_STALE k, .rc, false⟩]⟩,
  ⟨0x301020, 0x40, 6, 0x0, 1, 0x0, 1, fun k _ _ => [⟨FAB_PART_GATEDROP k, .rc, false⟩]⟩,
  ⟨0x301024, 0x40, 6, 0x0, 1, 0x0, 1, fun k _ _ => [⟨FAB_PART_CHKFAIL k, .rc, false⟩]⟩,
  ⟨0x301028, 0x40, 6, 0x0, 1, 0x0, 1, fun k _ _ => [⟨FAB_PART_STEAL k, .rc, false⟩]⟩,
  ⟨0x30102C, 0x40, 6, 0x0, 1, 0x0, 1, fun k _ _ => [⟨FAB_PART_DRAINDROP k, .rc, false⟩]⟩,
  ⟨0x302000, 0x40, 32, 0x0, 1, 0x0, 1, fun c _ _ => [⟨FAB_CL_STATE c, .ro, false⟩, ⟨FAB_CL_PART c, .ro, false⟩, ⟨FAB_CL_DQLEVEL c, .ro, false⟩, ⟨FAB_CL_ENGIN c, .ro, false⟩]⟩,
  ⟨0x302004, 0x40, 32, 0x0, 1, 0x0, 1, fun c _ _ => [⟨FAB_CL_ENGMAP_LO c, .ro, false⟩]⟩,
  ⟨0x302008, 0x40, 32, 0x0, 1, 0x0, 1, fun c _ _ => [⟨FAB_CL_ENGMAP_HI c, .ro, false⟩]⟩,
  ⟨0x30200C, 0x40, 32, 0x0, 1, 0x0, 1, fun c _ _ => [⟨FAB_CL_RETMAP_LO c, .ro, false⟩]⟩,
  ⟨0x302010, 0x40, 32, 0x0, 1, 0x0, 1, fun c _ _ => [⟨FAB_CL_RETCMD c, .ro, false⟩, ⟨FAB_CL_RETMAP_HI c, .ro, false⟩]⟩,
  ⟨0x302014, 0x40, 32, 0x0, 1, 0x0, 1, fun c _ _ => [⟨FAB_CL_FAIL0 c, .ro, false⟩]⟩,
  ⟨0x302018, 0x40, 32, 0x0, 1, 0x0, 1, fun c _ _ => [⟨FAB_CL_FAIL1 c, .ro, false⟩]⟩,
  ⟨0x30201C, 0x40, 32, 0x0, 1, 0x0, 1, fun c _ _ => [⟨FAB_CL_FAIL2 c, .ro, false⟩]⟩,
  ⟨0x302020, 0x40, 32, 0x0, 1, 0x0, 1, fun c _ _ => [⟨FAB_CL_OCC c, .ro, false⟩]⟩,
  ⟨0x302024, 0x40, 32, 0x0, 1, 0x0, 1, fun c _ _ => [⟨FAB_CL_RETCMDMAP c, .ro, false⟩]⟩,
  ⟨0x400000, 0x0, 1, 0x0, 1, 0x0, 1, fun _ _ _ => [⟨NTP_CFG_EN, .ro, true⟩, ⟨NTP_CFG_PRECISION, .ro, true⟩, ⟨NTP_CFG_MINPOLL, .rw, false⟩, ⟨NTP_CFG_TTL, .ro, true⟩]⟩,
  ⟨0x400004, 0x0, 1, 0x0, 1, 0x0, 1, fun _ _ _ => [⟨NTP_IPCFG_DSCP, .ro, true⟩, ⟨NTP_IPCFG_LIWIN, .ro, true⟩]⟩,
  ⟨0x400008, 0x0, 1, 0x0, 1, 0x0, 1, fun _ _ _ => [⟨NTP_RDADD_RDADD, .rw, false⟩]⟩,
  ⟨0x400010, 0x4, 8, 0x0, 1, 0x0, 1, fun c _ _ => [⟨NTP_CLASS_LI3 c, .ro, true⟩, ⟨NTP_CLASS_STRATUM c, .ro, true⟩]⟩,
  ⟨0x400030, 0x4, 8, 0x0, 1, 0x0, 1, fun c _ _ => [⟨NTP_REFID_REFID c, .ro, true⟩]⟩,
  ⟨0x400050, 0x4, 8, 0x0, 1, 0x0, 1, fun c _ _ => [⟨NTP_RDELAY_RDELAY c, .ro, true⟩]⟩,
  ⟨0x400070, 0x0, 1, 0x0, 1, 0x0, 1, fun _ _ _ => [⟨NTP_RATE_EN, .rw, false⟩, ⟨NTP_RATE_KODPOLL, .ro, true⟩]⟩,
  ⟨0x400074, 0x0, 1, 0x0, 1, 0x0, 1, fun _ _ _ => [⟨NTP_KODTHR_THR, .rw, false⟩]⟩,
  ⟨0x400078, 0x0, 1, 0x0, 1, 0x0, 1, fun _ _ _ => [⟨NTP_DROPTHR_THR, .rw, false⟩]⟩,
  ⟨0x40007C, 0x0, 1, 0x0, 1, 0x0, 1, fun _ _ _ => [⟨NTP_STATUS_LI, .ro, false⟩, ⟨NTP_STATUS_STRATUM, .ro, false⟩, ⟨NTP_STATUS_CLASS, .ro, false⟩]⟩]

/-- Part 7 of the register map (R427, register tables of spec/). -/
def regTableParth : List RegEnt := [
  ⟨0x400080, 0x0, 1, 0x0, 1, 0x0, 1, fun _ _ _ => [⟨NTP_RDNOW_RD, .ro, false⟩]⟩,
  ⟨0x400100, 0x0, 1, 0x0, 1, 0x0, 1, fun _ _ _ => [⟨NTP_CNT_REQ, .rc, false⟩]⟩,
  ⟨0x400104, 0x0, 1, 0x0, 1, 0x0, 1, fun _ _ _ => [⟨NTP_CNT_RESP, .rc, false⟩]⟩,
  ⟨0x400108, 0x0, 1, 0x0, 1, 0x0, 1, fun _ _ _ => [⟨NTP_CNT_KOD, .rc, false⟩]⟩,
  ⟨0x40010C, 0x0, 1, 0x0, 1, 0x0, 1, fun _ _ _ => [⟨NTP_CNT_RATEDROP, .rc, false⟩]⟩,
  ⟨0x400110, 0x0, 1, 0x0, 1, 0x0, 1, fun _ _ _ => [⟨NTP_CNT_VERDROP, .rc, false⟩]⟩,
  ⟨0x400114, 0x0, 1, 0x0, 1, 0x0, 1, fun _ _ _ => [⟨NTP_CNT_MODE6, .rc, false⟩]⟩,
  ⟨0x400118, 0x0, 1, 0x0, 1, 0x0, 1, fun _ _ _ => [⟨NTP_CNT_MODE7, .rc, false⟩]⟩,
  ⟨0x40011C, 0x0, 1, 0x0, 1, 0x0, 1, fun _ _ _ => [⟨NTP_CNT_MODEOTHER, .rc, false⟩]⟩,
  ⟨0x400120, 0x0, 1, 0x0, 1, 0x0, 1, fun _ _ _ => [⟨NTP_CNT_SHORT, .rc, false⟩]⟩,
  ⟨0x400124, 0x0, 1, 0x0, 1, 0x0, 1, fun _ _ _ => [⟨NTP_CNT_LEGACYMAC, .rc, false⟩]⟩,
  ⟨0x400128, 0x0, 1, 0x0, 1, 0x0, 1, fun _ _ _ => [⟨NTP_CNT_EXTIGN, .rc, false⟩]⟩,
  ⟨0x40012C, 0x0, 1, 0x0, 1, 0x0, 1, fun _ _ _ => [⟨NTP_CNT_BADSRC, .rc, false⟩]⟩,
  ⟨0x400130, 0x0, 1, 0x0, 1, 0x0, 1, fun _ _ _ => [⟨NTP_CNT_RATEERR, .rc, false⟩]⟩,
  ⟨0x400134, 0x0, 1, 0x0, 1, 0x0, 1, fun _ _ _ => [⟨NTP_CNT_V1, .rc, false⟩]⟩,
  ⟨0x400138, 0x0, 1, 0x0, 1, 0x0, 1, fun _ _ _ => [⟨NTP_CNT_V2, .rc, false⟩]⟩,
  ⟨0x40013C, 0x0, 1, 0x0, 1, 0x0, 1, fun _ _ _ => [⟨NTP_CNT_V3, .rc, false⟩]⟩,
  ⟨0x400140, 0x0, 1, 0x0, 1, 0x0, 1, fun _ _ _ => [⟨NTP_CNT_V4, .rc, false⟩]⟩,
  ⟨0x440000, 0x0, 1, 0x0, 1, 0x0, 1, fun _ _ _ => [⟨NTS_CFG_EN, .ro, true⟩, ⟨NTS_CFG_SRVNEG, .ro, true⟩, ⟨NTS_CFG_NTPPORT, .ro, true⟩]⟩,
  ⟨0x440004, 0x0, 1, 0x0, 1, 0x0, 1, fun _ _ _ => [⟨NTS_KECFG_MAXCONN, .ro, true⟩, ⟨NTS_KECFG_TIMEOUT, .ro, true⟩, ⟨NTS_KECFG_CERTWARN, .rw, false⟩]⟩,
  ⟨0x440008, 0x0, 1, 0x0, 1, 0x0, 1, fun _ _ _ => [⟨NTS_KEYGEN_GEN, .ro, false⟩]⟩,
  ⟨0x44000C, 0x0, 1, 0x0, 1, 0x0, 1, fun _ _ _ => [⟨NTS_KEYSTAT_VALID, .ro, false⟩, ⟨NTS_KEYSTAT_REPL, .ro, false⟩, ⟨NTS_KEYSTAT_CURSLOT, .ro, false⟩, ⟨NTS_KEYSTAT_NEXTROT, .ro, false⟩]⟩,
  ⟨0x440010, 0x4, 4, 0x0, 1, 0x0, 1, fun s _ _ => [⟨NTS_KEYDIG_DIGEST s, .ro, false⟩]⟩,
  ⟨0x440020, 0x0, 1, 0x0, 1, 0x0, 1, fun _ _ _ => [⟨NTS_ROTATE_STATUS, .cmd, false⟩, ⟨NTS_ROTATE_ROTATE, .cmd, false⟩]⟩,
  ⟨0x440024, 0x0, 1, 0x0, 1, 0x0, 1, fun _ _ _ => [⟨NTS_KESTAT_OPEN, .ro, false⟩, ⟨NTS_KESTAT_HSRATE, .ro, false⟩]⟩,
  ⟨0x440030, 0x10, 2, 0x0, 1, 0x0, 1, fun c _ _ => [⟨NTS_CERT_PRESENT c, .ro, false⟩, ⟨NTS_CERT_INUSE c, .ro, false⟩, ⟨NTS_CERT_VALIDNOW c, .ro, false⟩, ⟨NTS_CERT_ALG c, .ro, false⟩]⟩,
  ⟨0x440034, 0x10, 2, 0x0, 1, 0x0, 1, fun c _ _ => [⟨NTS_CERT_NOTBEFORE c, .ro, false⟩]⟩,
  ⟨0x440038, 0x10, 2, 0x0, 1, 0x0, 1, fun c _ _ => [⟨NTS_CERT_NOTAFTER c, .ro, false⟩]⟩,
  ⟨0x44003C, 0x10, 2, 0x0, 1, 0x0, 1, fun c _ _ => [⟨NTS_CERT_DIGEST c, .ro, false⟩]⟩,
  ⟨0x440100, 0x0, 1, 0x0, 1, 0x0, 1, fun _ _ _ => [⟨NTS_CNT_REQ, .rc, false⟩]⟩,
  ⟨0x440104, 0x0, 1, 0x0, 1, 0x0, 1, fun _ _ _ => [⟨NTS_CNT_RESP, .rc, false⟩]⟩,
  ⟨0x440108, 0x0, 1, 0x0, 1, 0x0, 1, fun _ _ _ => [⟨NTS_CNT_NAK_KEY, .rc, false⟩]⟩,
  ⟨0x44010C, 0x0, 1, 0x0, 1, 0x0, 1, fun _ _ _ => [⟨NTS_CNT_NAK_COOKIE, .rc, false⟩]⟩,
  ⟨0x440110, 0x0, 1, 0x0, 1, 0x0, 1, fun _ _ _ => [⟨NTS_CNT_NAK_AUTH, .rc, false⟩]⟩,
  ⟨0x440114, 0x0, 1, 0x0, 1, 0x0, 1, fun _ _ _ => [⟨NTS_CNT_MALFORMED, .rc, false⟩]⟩,
  ⟨0x440118, 0x0, 1, 0x0, 1, 0x0, 1, fun _ _ _ => [⟨NTS_CNT_BADSRC, .rc, false⟩]⟩,
  ⟨0x44011C, 0x0, 1, 0x0, 1, 0x0, 1, fun _ _ _ => [⟨NTS_CNT_RATEDROP, .rc, false⟩]⟩,
  ⟨0x440120, 0x0, 1, 0x0, 1, 0x0, 1, fun _ _ _ => [⟨NTS_CNT_KE_OK, .rc, false⟩]⟩,
  ⟨0x440124, 0x0, 1, 0x0, 1, 0x0, 1, fun _ _ _ => [⟨NTS_CNT_KE_ALERT, .rc, false⟩]⟩,
  ⟨0x440128, 0x0, 1, 0x0, 1, 0x0, 1, fun _ _ _ => [⟨NTS_CNT_KE_ERRREC, .rc, false⟩]⟩]

/-- Part 8 of the register map (R427, register tables of spec/). -/
def regTableParti : List RegEnt := [
  ⟨0x44012C, 0x0, 1, 0x0, 1, 0x0, 1, fun _ _ _ => [⟨NTS_CNT_KE_REFUSED, .rc, false⟩]⟩,
  ⟨0x440130, 0x0, 1, 0x0, 1, 0x0, 1, fun _ _ _ => [⟨NTS_CNT_KE_TIMEOUT, .rc, false⟩]⟩,
  ⟨0x440134, 0x0, 1, 0x0, 1, 0x0, 1, fun _ _ _ => [⟨NTS_CNT_KE_ABORT, .rc, false⟩]⟩,
  ⟨0x440138, 0x0, 1, 0x0, 1, 0x0, 1, fun _ _ _ => [⟨NTS_CNT_COOKIES, .rc, false⟩]⟩,
  ⟨0x44013C, 0x0, 1, 0x0, 1, 0x0, 1, fun _ _ _ => [⟨NTS_CNT_KE_NOCOOKIE, .rc, false⟩]⟩,
  ⟨0x480000, 0x0, 1, 0x0, 1, 0x0, 1, fun _ _ _ => [⟨PTP_CFG_EN, .ro, true⟩, ⟨PTP_CFG_PROFILE, .ro, true⟩, ⟨PTP_CFG_MINOR, .ro, true⟩, ⟨PTP_CFG_UTCVALID, .ro, true⟩, ⟨PTP_CFG_DOMAIN, .ro, true⟩, ⟨PTP_CFG_ARTO, .ro, true⟩, ⟨PTP_CFG_SDOID, .ro, true⟩]⟩,
  ⟨0x480004, 0x0, 1, 0x0, 1, 0x0, 1, fun _ _ _ => [⟨PTP_CLOCKID_LO_ID, .ro, true⟩]⟩,
  ⟨0x480008, 0x0, 1, 0x0, 1, 0x0, 1, fun _ _ _ => [⟨PTP_CLOCKID_HI_ID, .ro, true⟩]⟩,
  ⟨0x48000C, 0x0, 1, 0x0, 1, 0x0, 1, fun _ _ _ => [⟨PTP_PRIO_PRIO1, .rw, false⟩, ⟨PTP_PRIO_PRIO2, .rw, false⟩]⟩,
  ⟨0x480010, 0x0, 1, 0x0, 1, 0x0, 1, fun _ _ _ => [⟨PTP_HOSPEC_NS, .rw, false⟩]⟩,
  ⟨0x480014, 0x0, 1, 0x0, 1, 0x0, 1, fun _ _ _ => [⟨PTP_LEAPWIN_SEC, .ro, true⟩]⟩,
  ⟨0x480018, 0x0, 1, 0x0, 1, 0x0, 1, fun _ _ _ => [⟨PTP_BUDGET_RATE, .rw, false⟩]⟩,
  ⟨0x48001C, 0x0, 1, 0x0, 1, 0x0, 1, fun _ _ _ => [⟨PTP_UCCFG_DURMAX, .ro, true⟩, ⟨PTP_UCCFG_DURMIN, .ro, true⟩]⟩,
  ⟨0x480020, 0x0, 1, 0x0, 1, 0x0, 1, fun _ _ _ => [⟨PTP_UCSTAT_GRANTS, .ro, false⟩]⟩,
  ⟨0x480024, 0x0, 1, 0x0, 1, 0x0, 1, fun _ _ _ => [⟨PTP_CALCFG_CALLEAD, .ro, true⟩]⟩,
  ⟨0x480028, 0x0, 1, 0x0, 1, 0x0, 1, fun _ _ _ => [⟨PTP_ADMIT_RATE, .ro, false⟩]⟩,
  ⟨0x480030, 0x4, 5, 0x0, 1, 0x0, 1, fun s _ _ => [⟨PTP_QMAP_OSLV s, .ro, true⟩, ⟨PTP_QMAP_CLASS s, .ro, true⟩, ⟨PTP_QMAP_ACC s, .ro, true⟩]⟩,
  ⟨0x480044, 0x0, 1, 0x0, 1, 0x0, 1, fun _ _ _ => [⟨PTP_STATUS_UNCERTAIN, .ro, false⟩, ⟨PTP_STATUS_ACC, .ro, false⟩, ⟨PTP_STATUS_CLASS, .ro, false⟩, ⟨PTP_STATUS_S, .ro, false⟩]⟩,
  ⟨0x480048, 0x0, 1, 0x0, 1, 0x0, 1, fun _ _ _ => [⟨PTP_C37_GMID, .ro, true⟩]⟩,
  ⟨0x480100, 0x8, 16, 0x0, 1, 0x0, 1, fun i _ _ => [⟨PTP_PREFIX_HI i, .ro, true⟩]⟩,
  ⟨0x480104, 0x8, 16, 0x0, 1, 0x0, 1, fun i _ _ => [⟨PTP_PREFIX_LO i, .ro, true⟩]⟩,
  ⟨0x480200, 0x0, 1, 0x0, 1, 0x0, 1, fun _ _ _ => [⟨PTPIN_EN, .ro, true⟩, ⟨PTPIN_MODE, .ro, true⟩, ⟨PTPIN_PORT, .ro, true⟩, ⟨PTPIN_DOMAIN, .ro, true⟩, ⟨PTPIN_LOGDREQ, .ro, true⟩, ⟨PTPIN_LOGSYNC, .ro, true⟩]⟩,
  ⟨0x480204, 0x0, 1, 0x0, 1, 0x0, 1, fun _ _ _ => [⟨PTPIN_ASYM, .ro, true⟩]⟩,
  ⟨0x480208, 0x4, 4, 0x0, 1, 0x0, 1, fun i _ _ => [⟨PTPIN_MADDR i, .ro, true⟩]⟩,
  ⟨0x480218, 0x0, 1, 0x0, 1, 0x0, 1, fun _ _ _ => [⟨PTPIN_SELECTED, .ro, false⟩, ⟨PTPIN_Q1, .ro, false⟩, ⟨PTPIN_MAXCLASS, .ro, true⟩, ⟨PTPIN_MCLASS, .ro, false⟩]⟩,
  ⟨0x48021C, 0x0, 1, 0x0, 1, 0x0, 1, fun _ _ _ => [⟨PTPIN_MID_HI, .ro, false⟩]⟩,
  ⟨0x480220, 0x0, 1, 0x0, 1, 0x0, 1, fun _ _ _ => [⟨PTPIN_MID_LO, .ro, false⟩]⟩,
  ⟨0x480224, 0x0, 1, 0x0, 1, 0x0, 1, fun _ _ _ => [⟨PTPIN_MEANDLY, .ro, false⟩]⟩,
  ⟨0x481000, 0x40, 32, 0x0, 1, 0x0, 1, fun p _ _ => [⟨PTP_P_EN p, .ro, true⟩, ⟨PTP_P_TRANSPORT p, .ro, true⟩, ⟨PTP_P_P2P p, .ro, true⟩, ⟨PTP_P_TWOSTEP p, .ro, true⟩, ⟨PTP_P_MCAST p, .ro, true⟩, ⟨PTP_P_UNICAST p, .ro, true⟩, ⟨PTP_P_HYBRID p, .ro, true⟩, ⟨PTP_P_MASTERONLY p, .ro, true⟩, ⟨PTP_P_NFWD p, .ro, true⟩, ⟨PTP_P_VLAN p, .ro, true⟩]⟩,
  ⟨0x481004, 0x40, 32, 0x0, 1, 0x0, 1, fun p _ _ => [⟨PTP_P_LOGSYNC p, .ro, true⟩, ⟨PTP_P_LOGANN p, .ro, true⟩, ⟨PTP_P_LOGDREQ p, .ro, true⟩, ⟨PTP_P_LOGPDREQ p, .ro, true⟩]⟩,
  ⟨0x481008, 0x40, 32, 0x0, 1, 0x0, 1, fun p _ _ => [⟨PTP_P_BUDGET p, .ro, true⟩]⟩,
  ⟨0x48100C, 0x40, 32, 0x0, 1, 0x0, 1, fun p _ _ => [⟨PTP_P_STATE p, .ro, false⟩]⟩,
  ⟨0x481010, 0x40, 32, 0x0, 1, 0x0, 1, fun p _ _ => [⟨PTP_P_LINKDLY p, .ro, false⟩]⟩,
  ⟨0x481014, 0x40, 32, 0x0, 1, 0x0, 1, fun p _ _ => [⟨PTP_P_PDTHR p, .ro, true⟩]⟩,
  ⟨0x481018, 0x40, 32, 0x0, 1, 0x0, 1, fun p _ _ => [⟨PTP_P_ADMIT p, .ro, false⟩]⟩,
  ⟨0x480800, 0x0, 1, 0x0, 1, 0x0, 1, fun _ _ _ => [⟨PTP_CNT_SYNC_TX, .rc, false⟩]⟩,
  ⟨0x480804, 0x0, 1, 0x0, 1, 0x0, 1, fun _ _ _ => [⟨PTP_CNT_FU_TX, .rc, false⟩]⟩,
  ⟨0x480808, 0x0, 1, 0x0, 1, 0x0, 1, fun _ _ _ => [⟨PTP_CNT_ANN_TX, .rc, false⟩]⟩,
  ⟨0x48080C, 0x0, 1, 0x0, 1, 0x0, 1, fun _ _ _ => [⟨PTP_CNT_DRESP_TX, .rc, false⟩]⟩,
  ⟨0x480810, 0x0, 1, 0x0, 1, 0x0, 1, fun _ _ _ => [⟨PTP_CNT_PDRESP_TX, .rc, false⟩]⟩]

/-- Part 9 of the register map (R427, register tables of spec/). -/
def regTablePartj : List RegEnt := [
  ⟨0x480814, 0x0, 1, 0x0, 1, 0x0, 1, fun _ _ _ => [⟨PTP_CNT_PDRFU_TX, .rc, false⟩]⟩,
  ⟨0x480818, 0x0, 1, 0x0, 1, 0x0, 1, fun _ _ _ => [⟨PTP_CNT_SIG_TX, .rc, false⟩]⟩,
  ⟨0x48081C, 0x0, 1, 0x0, 1, 0x0, 1, fun _ _ _ => [⟨PTP_CNT_MALFORMED, .rc, false⟩]⟩,
  ⟨0x480820, 0x0, 1, 0x0, 1, 0x0, 1, fun _ _ _ => [⟨PTP_CNT_VERSION, .rc, false⟩]⟩,
  ⟨0x480824, 0x0, 1, 0x0, 1, 0x0, 1, fun _ _ _ => [⟨PTP_CNT_DOMAIN, .rc, false⟩]⟩,
  ⟨0x480828, 0x0, 1, 0x0, 1, 0x0, 1, fun _ _ _ => [⟨PTP_CNT_LOOP, .rc, false⟩]⟩,
  ⟨0x48082C, 0x0, 1, 0x0, 1, 0x0, 1, fun _ _ _ => [⟨PTP_CNT_MGMT, .rc, false⟩]⟩,
  ⟨0x480830, 0x0, 1, 0x0, 1, 0x0, 1, fun _ _ _ => [⟨PTP_CNT_WRONGMECH, .rc, false⟩]⟩,
  ⟨0x480834, 0x0, 1, 0x0, 1, 0x0, 1, fun _ _ _ => [⟨PTP_CNT_NOGRANT, .rc, false⟩]⟩,
  ⟨0x480838, 0x0, 1, 0x0, 1, 0x0, 1, fun _ _ _ => [⟨PTP_CNT_GRANT_OK, .rc, false⟩]⟩,
  ⟨0x48083C, 0x0, 1, 0x0, 1, 0x0, 1, fun _ _ _ => [⟨PTP_CNT_GRANT_DENY, .rc, false⟩]⟩,
  ⟨0x480840, 0x0, 1, 0x0, 1, 0x0, 1, fun _ _ _ => [⟨PTP_CNT_CANCEL_RX, .rc, false⟩]⟩,
  ⟨0x480844, 0x0, 1, 0x0, 1, 0x0, 1, fun _ _ _ => [⟨PTP_CNT_CALNOTMASTER, .rc, false⟩]⟩,
  ⟨0x480848, 0x0, 1, 0x0, 1, 0x0, 1, fun _ _ _ => [⟨PTP_CNT_LINKBUSY, .rc, false⟩]⟩,
  ⟨0x48084C, 0x0, 1, 0x0, 1, 0x0, 1, fun _ _ _ => [⟨PTP_CNT_PTPIN_SYNC_RX, .rc, false⟩]⟩,
  ⟨0x480850, 0x0, 1, 0x0, 1, 0x0, 1, fun _ _ _ => [⟨PTP_CNT_PTPIN_DREQ_TX, .rc, false⟩]⟩,
  ⟨0x4C0000, 0x0, 1, 0x0, 1, 0x0, 1, fun _ _ _ => [⟨RT_CFG_EN, .ro, true⟩, ⟨RT_CFG_VERMASK, .ro, true⟩, ⟨RT_CFG_SIGNQ, .rw, false⟩, ⟨RT_CFG_WINDOW, .ro, true⟩]⟩,
  ⟨0x4C0004, 0x0, 1, 0x0, 1, 0x0, 1, fun _ _ _ => [⟨RT_NET_DSCP, .ro, true⟩, ⟨RT_NET_TTL, .ro, true⟩, ⟨RT_NET_PORT, .ro, true⟩]⟩,
  ⟨0x4C0008, 0x0, 1, 0x0, 1, 0x0, 1, fun _ _ _ => [⟨RT_KEYCFG_OVERLAP, .ro, true⟩, ⟨RT_KEYCFG_KEYLEAD, .ro, true⟩]⟩,
  ⟨0x4C000C, 0x0, 1, 0x0, 1, 0x0, 1, fun _ _ _ => [⟨RT_KEYELIM_ELIM, .ro, true⟩]⟩,
  ⟨0x4C0010, 0x0, 1, 0x0, 1, 0x0, 1, fun _ _ _ => [⟨RT_RADIMIN_MIN, .rw, false⟩]⟩,
  ⟨0x4C0014, 0x0, 1, 0x0, 1, 0x0, 1, fun _ _ _ => [⟨RT_KEYSTAT_LTOK, .ro, false⟩, ⟨RT_KEYSTAT_ONLINE, .ro, false⟩, ⟨RT_KEYSTAT_NEXTREADY, .ro, false⟩, ⟨RT_KEYSTAT_LATE, .ro, false⟩, ⟨RT_KEYSTAT_KEYNUM, .ro, false⟩]⟩,
  ⟨0x4C0018, 0x0, 1, 0x0, 1, 0x0, 1, fun _ _ _ => [⟨RT_ONMINT_UTC, .ro, false⟩]⟩,
  ⟨0x4C001C, 0x0, 1, 0x0, 1, 0x0, 1, fun _ _ _ => [⟨RT_ONMAXT_UTC, .ro, false⟩]⟩,
  ⟨0x4C0020, 0x4, 8, 0x0, 1, 0x0, 1, fun i _ _ => [⟨RT_LTPUB_PUB i, .ro, false⟩]⟩,
  ⟨0x4C0040, 0x4, 8, 0x0, 1, 0x0, 1, fun i _ _ => [⟨RT_ONPUB_PUB i, .ro, false⟩]⟩,
  ⟨0x4C0060, 0x0, 1, 0x0, 1, 0x0, 1, fun _ _ _ => [⟨RT_BATCH_BACKLOG, .ro, false⟩, ⟨RT_BATCH_LASTN, .ro, false⟩]⟩,
  ⟨0x4C0064, 0x0, 1, 0x0, 1, 0x0, 1, fun _ _ _ => [⟨RT_BATCHNUM_NUM, .ro, false⟩]⟩,
  ⟨0x4C0068, 0x4, 2, 0x0, 1, 0x0, 1, fun i _ _ => [⟨RT_RADI_RADI i, .ro, false⟩]⟩,
  ⟨0x4C0100, 0x0, 1, 0x0, 1, 0x0, 1, fun _ _ _ => [⟨RT_CNT_REQ, .rc, false⟩]⟩,
  ⟨0x4C0104, 0x0, 1, 0x0, 1, 0x0, 1, fun _ _ _ => [⟨RT_CNT_RESP, .rc, false⟩]⟩,
  ⟨0x4C0108, 0x0, 1, 0x0, 1, 0x0, 1, fun _ _ _ => [⟨RT_CNT_BATCHES, .rc, false⟩]⟩,
  ⟨0x4C010C, 0x0, 1, 0x0, 1, 0x0, 1, fun _ _ _ => [⟨RT_CNT_SHORT, .rc, false⟩]⟩,
  ⟨0x4C0110, 0x0, 1, 0x0, 1, 0x0, 1, fun _ _ _ => [⟨RT_CNT_BADSRC, .rc, false⟩]⟩,
  ⟨0x4C0114, 0x0, 1, 0x0, 1, 0x0, 1, fun _ _ _ => [⟨RT_CNT_MALFORMED, .rc, false⟩]⟩,
  ⟨0x4C0118, 0x0, 1, 0x0, 1, 0x0, 1, fun _ _ _ => [⟨RT_CNT_VERNONE, .rc, false⟩]⟩,
  ⟨0x4C011C, 0x0, 1, 0x0, 1, 0x0, 1, fun _ _ _ => [⟨RT_CNT_SRVMISMATCH, .rc, false⟩]⟩,
  ⟨0x4C0120, 0x0, 1, 0x0, 1, 0x0, 1, fun _ _ _ => [⟨RT_CNT_NOKEY, .rc, false⟩]⟩,
  ⟨0x4C0124, 0x0, 1, 0x0, 1, 0x0, 1, fun _ _ _ => [⟨RT_CNT_NOTIME, .rc, false⟩]⟩,
  ⟨0x4C0128, 0x0, 1, 0x0, 1, 0x0, 1, fun _ _ _ => [⟨RT_CNT_BATCHFULL, .rc, false⟩]⟩]

/-- Part 10 of the register map (R427, register tables of spec/). -/
def regTablePartk : List RegEnt := [
  ⟨0x4C012C, 0x0, 1, 0x0, 1, 0x0, 1, fun _ _ _ => [⟨RT_CNT_SIGFAIL, .rc, false⟩]⟩,
  ⟨0x4C0130, 0x0, 1, 0x0, 1, 0x0, 1, fun _ _ _ => [⟨RT_CNT_V0, .rc, false⟩]⟩,
  ⟨0x4C0134, 0x0, 1, 0x0, 1, 0x0, 1, fun _ _ _ => [⟨RT_CNT_V1, .rc, false⟩]⟩,
  ⟨0x500000, 0x0, 1, 0x0, 1, 0x0, 1, fun _ _ _ => [⟨TSL_STATUS_RETIRED, .ro, false⟩, ⟨TSL_STATUS_BUSY, .ro, false⟩]⟩,
  ⟨0x500004, 0x0, 1, 0x0, 1, 0x0, 1, fun _ _ _ => [⟨TSL_RETCMD_RETCMD, .ro, false⟩]⟩,
  ⟨0x500010, 0x4, 4, 0x0, 1, 0x0, 1, fun k _ _ => [⟨TSL_PART_EN k, .ro, true⟩, ⟨TSL_PART_USERS k, .ro, true⟩, ⟨TSL_PART_ENGMASK k, .ro, true⟩]⟩,
  ⟨0x500020, 0x4, 4, 0x0, 1, 0x0, 1, fun k _ _ => [⟨TSL_QSTAT_INSERV k, .ro, false⟩, ⟨TSL_QSTAT_LEVEL k, .ro, false⟩]⟩,
  ⟨0x500030, 0x4, 5, 0x0, 1, 0x0, 1, fun c _ _ => [⟨TSL_SUBMIT_PART c, .cmd, false⟩, ⟨TSL_SUBMIT_ADDR c, .cmd, false⟩, ⟨TSL_SUBMIT_STATUS c, .cmd, false⟩]⟩,
  ⟨0x500044, 0x0, 1, 0x0, 1, 0x0, 1, fun _ _ _ => [⟨TSL_ABORT_PENDING, .ro, false⟩, ⟨TSL_ABORT_MASK, .cmd, false⟩]⟩,
  ⟨0x500048, 0x0, 1, 0x0, 1, 0x0, 1, fun _ _ _ => [⟨TSL_RETIRE_STATUS, .cmd, false⟩, ⟨TSL_RETIRE_ACTION, .cmd, false⟩, ⟨TSL_RETIRE_ENGINE, .cmd, false⟩]⟩,
  ⟨0x500100, 0x0, 1, 0x0, 1, 0x0, 1, fun _ _ _ => [⟨TSL_CNT_DONE, .rc, false⟩]⟩,
  ⟨0x500104, 0x0, 1, 0x0, 1, 0x0, 1, fun _ _ _ => [⟨TSL_CNT_REFUSED, .rc, false⟩]⟩,
  ⟨0x500108, 0x0, 1, 0x0, 1, 0x0, 1, fun _ _ _ => [⟨TSL_CNT_SHADOWFAIL, .rc, false⟩]⟩,
  ⟨0x50010C, 0x0, 1, 0x0, 1, 0x0, 1, fun _ _ _ => [⟨TSL_CNT_VERIFYFAIL, .rc, false⟩]⟩,
  ⟨0x500110, 0x0, 1, 0x0, 1, 0x0, 1, fun _ _ _ => [⟨TSL_CNT_LATE, .rc, false⟩]⟩,
  ⟨0x500114, 0x0, 1, 0x0, 1, 0x0, 1, fun _ _ _ => [⟨TSL_CNT_SUPPLYDISC, .rc, false⟩]⟩,
  ⟨0x500118, 0x0, 1, 0x0, 1, 0x0, 1, fun _ _ _ => [⟨TSL_CNT_ABORTED, .rc, false⟩]⟩,
  ⟨0x50011C, 0x0, 1, 0x0, 1, 0x0, 1, fun _ _ _ => [⟨TSL_CNT_FAILED, .rc, false⟩]⟩,
  ⟨0x501000, 0x40, 16, 0x0, 1, 0x0, 1, fun e _ _ => [⟨TSL_E_STATE e, .ro, false⟩, ⟨TSL_E_CLASS e, .ro, false⟩, ⟨TSL_E_NM1 e, .ro, false⟩, ⟨TSL_E_PART e, .ro, false⟩, ⟨TSL_E_FAILS e, .ro, false⟩]⟩,
  ⟨0x501004, 0x40, 16, 0x0, 1, 0x0, 1, fun e _ _ => [⟨TSL_E_JOBID e, .ro, false⟩]⟩,
  ⟨0x501008, 0x40, 16, 0x0, 1, 0x0, 1, fun e _ _ => [⟨TSL_E_LOADED e, .ro, false⟩]⟩,
  ⟨0x50100C, 0x40, 16, 0x4, 8, 0x0, 1, fun e i _ => [⟨TSL_E_SLOTLEN e i, .ro, false⟩]⟩,
  ⟨0x50102C, 0x40, 16, 0x0, 1, 0x0, 1, fun e _ _ => [⟨TSL_E_DUR e, .ro, false⟩]⟩,
  ⟨0x501030, 0x40, 16, 0x4, 3, 0x0, 1, fun e i _ => [⟨TSL_E_START e i, .ro, false⟩]⟩,
  ⟨0x580000, 0x0, 1, 0x0, 1, 0x0, 1, fun _ _ _ => [⟨LEASE_CFG_EN, .ro, true⟩, ⟨LEASE_CFG_HOME, .ro, true⟩, ⟨LEASE_CFG_RECLAIM, .rw, false⟩, ⟨LEASE_CFG_INBAND, .ro, true⟩, ⟨LEASE_CFG_LEN, .ro, true⟩, ⟨LEASE_CFG_HOMEWTR, .rw, false⟩]⟩,
  ⟨0x580004, 0x0, 1, 0x0, 1, 0x0, 1, fun _ _ _ => [⟨LEASE_GUARDCFG_GIMG, .ro, true⟩]⟩,
  ⟨0x580008, 0x0, 1, 0x0, 1, 0x0, 1, fun _ _ _ => [⟨LEASE_NET_ETYPE, .ro, true⟩, ⟨LEASE_NET_VLAN, .ro, true⟩, ⟨LEASE_NET_PORT, .ro, true⟩]⟩,
  ⟨0x58000C, 0x0, 1, 0x0, 1, 0x0, 1, fun _ _ _ => [⟨LEASE_PMAC_LO_ID, .ro, true⟩]⟩,
  ⟨0x580010, 0x0, 1, 0x0, 1, 0x0, 1, fun _ _ _ => [⟨LEASE_PMAC_HI_ID, .ro, true⟩]⟩,
  ⟨0x580014, 0x0, 1, 0x0, 1, 0x0, 1, fun _ _ _ => [⟨LEASE_PAIRID_LO_ID, .ro, true⟩]⟩,
  ⟨0x580018, 0x0, 1, 0x0, 1, 0x0, 1, fun _ _ _ => [⟨LEASE_PAIRID_HI_ID, .ro, true⟩]⟩,
  ⟨0x58001C, 0x0, 1, 0x0, 1, 0x0, 1, fun _ _ _ => [⟨LEASE_ADNASYM_ASYM, .ro, true⟩]⟩,
  ⟨0x580020, 0x0, 1, 0x0, 1, 0x0, 1, fun _ _ _ => [⟨LEASE_TTCFG_SKEWMAX, .ro, true⟩, ⟨LEASE_TTCFG_RATE, .ro, true⟩]⟩,
  ⟨0x580024, 0x0, 1, 0x0, 1, 0x0, 1, fun _ _ _ => [⟨LEASE_STATUS_STATE, .ro, false⟩, ⟨LEASE_STATUS_PSTATE, .ro, false⟩, ⟨LEASE_STATUS_GATE, .ro, false⟩, ⟨LEASE_STATUS_ROLECONF, .ro, false⟩, ⟨LEASE_STATUS_NOVER, .ro, false⟩, ⟨LEASE_STATUS_GUARDHI, .ro, false⟩, ⟨LEASE_STATUS_REPLCUR, .ro, false⟩, ⟨LEASE_STATUS_ISOLATED, .ro, false⟩, ⟨LEASE_STATUS_DUALHOLD, .ro, false⟩, ⟨LEASE_STATUS_SILENT, .ro, false⟩, ⟨LEASE_STATUS_VER, .ro, false⟩]⟩,
  ⟨0x580028, 0x0, 1, 0x0, 1, 0x0, 1, fun _ _ _ => [⟨LEASE_GUARD_GEFF, .ro, false⟩]⟩,
  ⟨0x58002C, 0x0, 1, 0x0, 1, 0x0, 1, fun _ _ _ => [⟨LEASE_GCALC_GC, .ro, false⟩]⟩,
  ⟨0x580030, 0x0, 1, 0x0, 1, 0x0, 1, fun _ _ _ => [⟨LEASE_DELAY_DMAX, .ro, false⟩]⟩,
  ⟨0x580034, 0x0, 1, 0x0, 1, 0x0, 1, fun _ _ _ => [⟨LEASE_LEN_LEFF, .ro, false⟩]⟩,
  ⟨0x580040, 0x0, 1, 0x0, 1, 0x0, 1, fun _ _ _ => [⟨LEASE_T_SEQA, .ro, false⟩]⟩,
  ⟨0x580044, 0x4, 3, 0x0, 1, 0x0, 1, fun i _ _ => [⟨LEASE_T_EXP i, .ro, false⟩]⟩]

/-- Part 11 of the register map (R427, register tables of spec/). -/
def regTablePartl : List RegEnt := [
  ⟨0x580050, 0x4, 3, 0x0, 1, 0x0, 1, fun i _ _ => [⟨LEASE_T_HLAST i, .ro, false⟩]⟩,
  ⟨0x58005C, 0x0, 1, 0x0, 1, 0x0, 1, fun _ _ _ => [⟨LEASE_T_SEQB, .ro, false⟩]⟩,
  ⟨0x580060, 0x0, 1, 0x0, 1, 0x0, 1, fun _ _ _ => [⟨LEASE_WTRLEFT_SEC, .ro, false⟩]⟩,
  ⟨0x580064, 0x0, 1, 0x0, 1, 0x0, 1, fun _ _ _ => [⟨LEASE_VER_AGREED, .ro, false⟩, ⟨LEASE_VER_PVMAX, .ro, false⟩, ⟨LEASE_VER_VMAX, .ro, false⟩, ⟨LEASE_VER_VMIN, .ro, false⟩]⟩,
  ⟨0x580068, 0x0, 1, 0x0, 1, 0x0, 1, fun _ _ _ => [⟨LEASE_CMD_STATUS, .cmd, false⟩, ⟨LEASE_CMD_CODE, .cmd, false⟩]⟩,
  ⟨0x58006C, 0x0, 1, 0x0, 1, 0x0, 1, fun _ _ _ => [⟨LEASE_PTEB_BOUND, .ro, false⟩]⟩,
  ⟨0x580070, 0x0, 1, 0x0, 1, 0x0, 1, fun _ _ _ => [⟨LEASE_PFEB_BOUND, .ro, false⟩]⟩,
  ⟨0x580100, 0x0, 1, 0x0, 1, 0x0, 1, fun _ _ _ => [⟨LEASE_CNT_RENEW_TX, .rc, false⟩]⟩,
  ⟨0x580104, 0x0, 1, 0x0, 1, 0x0, 1, fun _ _ _ => [⟨LEASE_CNT_ACK_RX, .rc, false⟩]⟩,
  ⟨0x580108, 0x0, 1, 0x0, 1, 0x0, 1, fun _ _ _ => [⟨LEASE_CNT_ACK_TX, .rc, false⟩]⟩,
  ⟨0x58010C, 0x0, 1, 0x0, 1, 0x0, 1, fun _ _ _ => [⟨LEASE_CNT_CLAIM_TX, .rc, false⟩]⟩,
  ⟨0x580110, 0x0, 1, 0x0, 1, 0x0, 1, fun _ _ _ => [⟨LEASE_CNT_RELEASE_TX, .rc, false⟩]⟩,
  ⟨0x580114, 0x0, 1, 0x0, 1, 0x0, 1, fun _ _ _ => [⟨LEASE_CNT_RELEASE_RX, .rc, false⟩]⟩,
  ⟨0x580118, 0x0, 1, 0x0, 1, 0x0, 1, fun _ _ _ => [⟨LEASE_CNT_TAKES, .rc, false⟩]⟩,
  ⟨0x58011C, 0x0, 1, 0x0, 1, 0x0, 1, fun _ _ _ => [⟨LEASE_CNT_VIOL, .rc, false⟩]⟩,
  ⟨0x580120, 0x0, 1, 0x0, 1, 0x0, 1, fun _ _ _ => [⟨LEASE_CNT_DUP, .rc, false⟩]⟩,
  ⟨0x580124, 0x0, 1, 0x0, 1, 0x0, 1, fun _ _ _ => [⟨LEASE_CNT_NAK_TX, .rc, false⟩]⟩,
  ⟨0x580128, 0x0, 1, 0x0, 1, 0x0, 1, fun _ _ _ => [⟨LEASE_CNT_TT_OK, .rc, false⟩]⟩,
  ⟨0x58012C, 0x0, 1, 0x0, 1, 0x0, 1, fun _ _ _ => [⟨LEASE_CNT_REPL_TX, .rc, false⟩]⟩,
  ⟨0x580130, 0x0, 1, 0x0, 1, 0x0, 1, fun _ _ _ => [⟨LEASE_CNT_REPL_RX, .rc, false⟩]⟩,
  ⟨0x580134, 0x0, 1, 0x0, 1, 0x0, 1, fun _ _ _ => [⟨LEASE_CNT_RESYNC, .rc, false⟩]⟩,
  ⟨0x40, 0x0, 1, 0x0, 1, 0x0, 1, fun _ _ _ => [⟨SYS_REBOOT_BOOTSLOT, .ro, false⟩, ⟨SYS_REBOOT_SLOT, .cmd, false⟩]⟩,
  ⟨0x100, 0x0, 1, 0x0, 1, 0x0, 1, fun _ _ _ => [⟨SYS_LIFECYCLE_SVNCNT, .ro, false⟩, ⟨SYS_LIFECYCLE_REV1, .ro, false⟩, ⟨SYS_LIFECYCLE_REV0, .ro, false⟩, ⟨SYS_LIFECYCLE_ROOT1, .ro, false⟩, ⟨SYS_LIFECYCLE_ROOT0, .ro, false⟩, ⟨SYS_LIFECYCLE_STATE, .ro, false⟩]⟩,
  ⟨0x104, 0x0, 1, 0x0, 1, 0x0, 1, fun _ _ _ => [⟨SYS_LCCMD_STATUS, .cmd, false⟩, ⟨SYS_LCCMD_ARG, .cmd, false⟩, ⟨SYS_LCCMD_CODE, .cmd, false⟩]⟩,
  ⟨0x108, 0x0, 1, 0x0, 1, 0x0, 1, fun _ _ _ => [⟨SYS_TAMPER_LATCH, .ro, false⟩, ⟨SYS_TAMPER_KEKVALID, .ro, false⟩, ⟨SYS_TAMPER_CAUSE, .ro, false⟩, ⟨SYS_TAMPER_POL, .ro, true⟩, ⟨SYS_TAMPER_EN, .ro, true⟩]⟩,
  ⟨0x10C, 0x0, 1, 0x0, 1, 0x0, 1, fun _ _ _ => [⟨SYS_TAMPERSEC_SEC, .ro, false⟩]⟩,
  ⟨0x110, 0x0, 1, 0x0, 1, 0x0, 1, fun _ _ _ => [⟨SYS_ENTROPY_DRBGOK, .ro, false⟩, ⟨SYS_ENTROPY_FAILED, .ro, false⟩, ⟨SYS_ENTROPY_DISCARDS, .rc, false⟩]⟩,
  ⟨0x120, 0x4, 8, 0x0, 1, 0x0, 1, fun i _ _ => [⟨SYS_PROVPUB_PUB i, .ro, false⟩]⟩,
  ⟨0x1000, 0x8, 256, 0x0, 1, 0x0, 1, fun i _ _ => [⟨SYS_KEY_TYPE i, .ro, false⟩, ⟨SYS_KEY_CLASS i, .ro, false⟩, ⟨SYS_KEY_USERS i, .ro, false⟩]⟩,
  ⟨0x1004, 0x8, 256, 0x0, 1, 0x0, 1, fun i _ _ => [⟨SYS_KEY_DIGEST i, .ro, false⟩]⟩,
  ⟨0x10000, 0x0, 1, 0x0, 1, 0x0, 1, fun _ _ _ => [⟨CFG_IMAGE_SVN, .ro, false⟩, ⟨CFG_IMAGE_NSECT, .ro, false⟩, ⟨CFG_IMAGE_FMTMIN, .ro, false⟩, ⟨CFG_IMAGE_AUTOCONF, .ro, false⟩]⟩,
  ⟨0x10004, 0x0, 1, 0x0, 1, 0x0, 1, fun _ _ _ => [⟨CFG_TSFMT_FMT, .ro, true⟩]⟩,
  ⟨0x10008, 0x0, 1, 0x0, 1, 0x0, 1, fun _ _ _ => [⟨CFG_SEQ_LO_SEQ, .ro, false⟩]⟩,
  ⟨0x1000C, 0x0, 1, 0x0, 1, 0x0, 1, fun _ _ _ => [⟨CFG_SEQ_HI_SEQ, .ro, false⟩]⟩,
  ⟨0x10014, 0x0, 1, 0x0, 1, 0x0, 1, fun _ _ _ => [⟨CFG_SERVE_MAINTAUTH, .ro, true⟩, ⟨CFG_SERVE_MAINT_SERVE, .ro, true⟩, ⟨CFG_SERVE_WARMUP_SERVE, .ro, true⟩]⟩,
  ⟨0x10018, 0x0, 1, 0x0, 1, 0x0, 1, fun _ _ _ => [⟨CFG_IMGSTAT_KEYS, .ro, false⟩, ⟨CFG_IMGSTAT_IGNORED, .ro, false⟩]⟩,
  ⟨0x1001C, 0x0, 1, 0x0, 1, 0x0, 1, fun _ _ _ => [⟨CFG_CLAMPCNT_COUNT, .ro, false⟩]⟩,
  ⟨0x11000, 0x10, 256, 0x0, 1, 0x0, 1, fun j _ _ => [⟨CFG_CLAMPLOG_ADDR j, .ro, false⟩]⟩,
  ⟨0x11004, 0x10, 256, 0x0, 1, 0x0, 1, fun j _ _ => [⟨CFG_CLAMPLOG_WRITTEN j, .ro, false⟩]⟩,
  ⟨0x11008, 0x10, 256, 0x0, 1, 0x0, 1, fun j _ _ => [⟨CFG_CLAMPLOG_EFFECTIVE j, .ro, false⟩]⟩]

/-- Part 12 of the register map (R427, register tables of spec/). -/
def regTablePartm : List RegEnt := [
  ⟨0x1100C, 0x10, 256, 0x0, 1, 0x0, 1, fun j _ _ => [⟨CFG_CLAMPLOG_SOURCE j, .ro, false⟩, ⟨CFG_CLAMPLOG_SEQ j, .ro, false⟩]⟩,
  ⟨0x700000, 0x0, 1, 0x0, 1, 0x0, 1, fun _ _ _ => [⟨NVM_STATUS_FLASHOK, .ro, false⟩, ⟨NVM_STATUS_SESSION, .ro, false⟩, ⟨NVM_STATUS_SESSIONOMP, .ro, false⟩, ⟨NVM_STATUS_SESSIONSLOT, .ro, false⟩, ⟨NVM_STATUS_SAFEREASON, .ro, false⟩, ⟨NVM_STATUS_BOOTSLOT, .ro, false⟩]⟩,
  ⟨0x700010, 0x0, 1, 0x0, 1, 0x0, 1, fun _ _ _ => [⟨NVM_UPDCTL_STATUS, .cmd, false⟩, ⟨NVM_UPDCTL_SLOT, .cmd, false⟩, ⟨NVM_UPDCTL_CMD, .cmd, false⟩]⟩,
  ⟨0x700014, 0x0, 1, 0x0, 1, 0x0, 1, fun _ _ _ => [⟨NVM_UPDOFS_OFS, .rw, false⟩]⟩,
  ⟨0x700018, 0x0, 1, 0x0, 1, 0x0, 1, fun _ _ _ => [⟨NVM_CONFIRM_CONFIRM, .cmd, false⟩]⟩,
  ⟨0x700020, 0x0, 1, 0x0, 1, 0x0, 1, fun _ _ _ => [⟨NVM_ORBIT_XVALID, .ro, false⟩, ⟨NVM_ORBIT_YVALID, .ro, false⟩, ⟨NVM_ORBIT_SEQ, .ro, false⟩]⟩,
  ⟨0x700100, 0x20, 2, 0x0, 1, 0x0, 1, fun s _ _ => [⟨NVM_SLOT_VALID s, .ro, false⟩, ⟨NVM_SLOT_ATTEMPTED s, .ro, false⟩, ⟨NVM_SLOT_CONFIRMED s, .ro, false⟩, ⟨NVM_SLOT_REASON s, .ro, false⟩, ⟨NVM_SLOT_FMTMIN s, .ro, false⟩]⟩,
  ⟨0x700104, 0x20, 2, 0x0, 1, 0x0, 1, fun s _ _ => [⟨NVM_SLOT_SEQLO s, .ro, false⟩]⟩,
  ⟨0x700108, 0x20, 2, 0x0, 1, 0x0, 1, fun s _ _ => [⟨NVM_SLOT_SEQHI s, .ro, false⟩]⟩,
  ⟨0x70010C, 0x20, 2, 0x0, 1, 0x0, 1, fun s _ _ => [⟨NVM_SLOT_SVN s, .ro, false⟩]⟩,
  ⟨0x700110, 0x20, 2, 0x0, 1, 0x0, 1, fun s _ _ => [⟨NVM_SLOT_LEN s, .ro, false⟩]⟩,
  ⟨0x700114, 0x20, 2, 0x0, 1, 0x0, 1, fun s _ _ => [⟨NVM_SLOT_DIGEST s, .ro, false⟩]⟩,
  ⟨0x1800000, 0x20, 4096, 0x0, 1, 0x0, 1, fun j _ _ => [⟨EVLOG_SEQA j, .ro, false⟩]⟩,
  ⟨0x1800004, 0x20, 4096, 0x4, 3, 0x0, 1, fun j i _ => [⟨EVLOG_TIME j i, .ro, false⟩]⟩,
  ⟨0x1800010, 0x20, 4096, 0x0, 1, 0x0, 1, fun j _ _ => [⟨EVLOG_SEV j, .ro, false⟩, ⟨EVLOG_DROPN j, .ro, false⟩, ⟨EVLOG_CODE j, .ro, false⟩]⟩,
  ⟨0x1800014, 0x20, 4096, 0x0, 1, 0x0, 1, fun j _ _ => [⟨EVLOG_ARG j, .ro, false⟩]⟩,
  ⟨0x180001C, 0x20, 4096, 0x0, 1, 0x0, 1, fun j _ _ => [⟨EVLOG_SEQB j, .ro, false⟩]⟩,
  ⟨0x200, 0x0, 1, 0x0, 1, 0x0, 1, fun _ _ _ => [⟨SYS_WLOCK_OMP, .rw, false⟩, ⟨SYS_WLOCK_SPI, .rw, false⟩]⟩,
  ⟨0x204, 0x0, 1, 0x0, 1, 0x0, 1, fun _ _ _ => [⟨SYS_SPISTAT_CRCERR, .rc, false⟩, ⟨SYS_SPISTAT_LOCKED, .rc, false⟩, ⟨SYS_SPISTAT_BADOP, .rc, false⟩]⟩,
  ⟨0x210, 0x0, 1, 0x0, 1, 0x0, 1, fun _ _ _ => [⟨SYS_IRQSTAT_SRC, .w1c, false⟩]⟩,
  ⟨0x214, 0x0, 1, 0x0, 1, 0x0, 1, fun _ _ _ => [⟨SYS_IRQEN_EN, .rw, false⟩]⟩,
  ⟨0x218, 0x0, 1, 0x0, 1, 0x0, 1, fun _ _ _ => [⟨SYS_IRQCFG_MINSEV, .rw, false⟩]⟩,
  ⟨0x220, 0x0, 1, 0x0, 1, 0x0, 1, fun _ _ _ => [⟨SYS_SNAP_SEQ, .ro, false⟩, ⟨SYS_SNAP_HOLDER, .ro, false⟩, ⟨SYS_SNAP_STATE, .ro, false⟩, ⟨SYS_SNAP_HOLDMAX, .rw, false⟩, ⟨SYS_SNAP_STATUS, .cmd, false⟩, ⟨SYS_SNAP_CMD, .cmd, false⟩]⟩,
  ⟨0x224, 0x4, 3, 0x0, 1, 0x0, 1, fun i _ _ => [⟨SYS_SNAPTIME_TS i, .ro, false⟩]⟩,
  ⟨0x240, 0x0, 1, 0x0, 1, 0x0, 1, fun _ _ _ => [⟨SYS_EVTSEQ_SEQ, .ro, false⟩]⟩,
  ⟨0x244, 0x0, 1, 0x0, 1, 0x0, 1, fun _ _ _ => [⟨SYS_EVTRD_RD, .rw, false⟩]⟩,
  ⟨0x248, 0x0, 1, 0x0, 1, 0x0, 1, fun _ _ _ => [⟨SYS_EVTDROP_DROP, .rc, false⟩]⟩,
  ⟨0x250, 0x0, 1, 0x0, 1, 0x0, 1, fun _ _ _ => [⟨SYS_ALARMACK_STATUS, .cmd, false⟩, ⟨SYS_ALARMACK_CODE, .cmd, false⟩]⟩,
  ⟨0x254, 0x0, 1, 0x0, 1, 0x0, 1, fun _ _ _ => [⟨SYS_ALARMCNT_CRIT, .ro, false⟩, ⟨SYS_ALARMCNT_TOTAL, .ro, false⟩]⟩,
  ⟨0x400, 0x10, 64, 0x0, 1, 0x0, 1, fun a _ _ => [⟨SYS_ALARM_SEV a, .ro, false⟩, ⟨SYS_ALARM_ACKABLE a, .ro, false⟩, ⟨SYS_ALARM_CODE a, .ro, false⟩]⟩,
  ⟨0x404, 0x10, 64, 0x4, 3, 0x0, 1, fun a i _ => [⟨SYS_ALARM_SINCE a i, .ro, false⟩]⟩,
  ⟨0x300, 0x0, 1, 0x0, 1, 0x0, 1, fun _ _ _ => [⟨SYS_OMPCFG_UDP, .ro, true⟩, ⟨SYS_OMPCFG_TCP, .ro, true⟩, ⟨SYS_OMPCFG_L2, .ro, true⟩, ⟨SYS_OMPCFG_WRITE, .ro, true⟩, ⟨SYS_OMPCFG_IDLE, .ro, true⟩, ⟨SYS_OMPCFG_PORT, .ro, true⟩]⟩,
  ⟨0x304, 0x0, 1, 0x0, 1, 0x0, 1, fun _ _ _ => [⟨SYS_OMPETYPE_MGMTEN, .ro, true⟩, ⟨SYS_OMPETYPE_MGMTPORT, .ro, true⟩, ⟨SYS_OMPETYPE_ETYPE, .ro, true⟩]⟩,
  ⟨0x308, 0x0, 1, 0x0, 1, 0x0, 1, fun _ _ _ => [⟨SYS_OMPSTAT_AUTHFAIL, .rc, false⟩, ⟨SYS_OMPSTAT_LOCKED, .rc, false⟩, ⟨SYS_OMPSTAT_NAK, .rc, false⟩]⟩,
  ⟨0x310, 0x8, 8, 0x0, 1, 0x0, 1, fun s _ _ => [⟨SYS_OMPSESS_OPEN s, .ro, false⟩, ⟨SYS_OMPSESS_TRANSPORT s, .ro, false⟩, ⟨SYS_OMPSESS_FRAMES s, .ro, false⟩, ⟨SYS_OMPSESS_SUBSEV s, .ro, false⟩, ⟨SYS_OMPSESS_VER s, .ro, false⟩, ⟨SYS_OMPSESS_PORT s, .ro, false⟩]⟩,
  ⟨0x314, 0x8, 8, 0x0, 1, 0x0, 1, fun s _ _ => [⟨SYS_OMPSESS_ID s, .ro, false⟩]⟩,
  ⟨0x600000, 0x0, 1, 0x0, 1, 0x0, 1, fun _ _ _ => [⟨BIST_CTL_STATUS, .cmd, false⟩, ⟨BIST_CTL_UNIT, .cmd, false⟩, ⟨BIST_CTL_ACTION, .cmd, false⟩]⟩,
  ⟨0x600004, 0x0, 1, 0x0, 1, 0x0, 1, fun _ _ _ => [⟨BIST_STATUS_GBUSY, .ro, false⟩, ⟨BIST_STATUS_GUNIT, .ro, false⟩, ⟨BIST_STATUS_OBUSY, .ro, false⟩, ⟨BIST_STATUS_OUNIT, .ro, false⟩, ⟨BIST_STATUS_REFUSE, .ro, false⟩]⟩,
  ⟨0x600010, 0x4, 4, 0x0, 1, 0x0, 1, fun w _ _ => [⟨BIST_FAILMAP_FAIL w, .ro, false⟩]⟩,
  ⟨0x601000, 0x40, 101, 0x0, 1, 0x0, 1, fun u _ _ => [⟨BIST_RESULT_SEQA u, .ro, false⟩]⟩]

/-- Part 13 of the register map (R427, register tables of spec/). -/
def regTablePartn : List RegEnt := [
  ⟨0x601004, 0x40, 101, 0x0, 1, 0x0, 1, fun u _ _ => [⟨BIST_RESULT_FAIL u, .ro, false⟩, ⟨BIST_RESULT_RESULT u, .ro, false⟩, ⟨BIST_RESULT_CAUSE u, .ro, false⟩, ⟨BIST_RESULT_GOLDSRC u, .ro, false⟩, ⟨BIST_RESULT_RUNS u, .ro, false⟩]⟩,
  ⟨0x601008, 0x40, 101, 0x0, 1, 0x0, 1, fun u _ _ => [⟨BIST_RESULT_SIG_LO u, .ro, false⟩]⟩,
  ⟨0x60100C, 0x40, 101, 0x0, 1, 0x0, 1, fun u _ _ => [⟨BIST_RESULT_SIG_HI u, .ro, false⟩]⟩,
  ⟨0x601010, 0x40, 101, 0x0, 1, 0x0, 1, fun u _ _ => [⟨BIST_RESULT_GOLD_LO u, .ro, false⟩]⟩,
  ⟨0x601014, 0x40, 101, 0x0, 1, 0x0, 1, fun u _ _ => [⟨BIST_RESULT_GOLD_HI u, .ro, false⟩]⟩,
  ⟨0x601018, 0x40, 101, 0x0, 1, 0x0, 1, fun u _ _ => [⟨BIST_RESULT_COUNT u, .ro, false⟩]⟩,
  ⟨0x60101C, 0x40, 101, 0x0, 1, 0x0, 1, fun u _ _ => [⟨BIST_RESULT_PROG u, .ro, false⟩]⟩,
  ⟨0x601020, 0x40, 101, 0x4, 3, 0x0, 1, fun u i _ => [⟨BIST_RESULT_END u i, .ro, false⟩]⟩,
  ⟨0x60103C, 0x40, 101, 0x0, 1, 0x0, 1, fun u _ _ => [⟨BIST_RESULT_SEQB u, .ro, false⟩]⟩,
  ⟨0x20000000, 0x1000, 16, 0x0, 1, 0x0, 1, fun s _ _ => [⟨DUMP_SEQA s, .ro, false⟩]⟩,
  ⟨0x20000004, 0x1000, 16, 0x4, 3, 0x0, 1, fun s i _ => [⟨DUMP_TIME s i, .ro, false⟩]⟩,
  ⟨0x20000010, 0x1000, 16, 0x0, 1, 0x0, 1, fun s _ _ => [⟨DUMP_STEP s, .ro, false⟩, ⟨DUMP_SELCHG s, .ro, false⟩, ⟨DUMP_PERIOD s, .ro, false⟩]⟩,
  ⟨0x20000014, 0x1000, 16, 0x0, 1, 0x0, 1, fun s _ _ => [⟨DUMP_TILE s, .ro, false⟩]⟩,
  ⟨0x2000003C, 0x1000, 16, 0x0, 1, 0x0, 1, fun s _ _ => [⟨DUMP_SEQB s, .ro, false⟩]⟩,
  ⟨0x20000040, 0x1000, 16, 0x8, 496, 0x0, 1, fun s n _ => [⟨DUMPE_0_VALUE_LO s n, .ro, false⟩]⟩,
  ⟨0x20000044, 0x1000, 16, 0x8, 496, 0x0, 1, fun s n _ => [⟨DUMPE_4_OVF s n, .ro, false⟩, ⟨DUMPE_4_NEW s n, .ro, false⟩, ⟨DUMPE_4_PORTEV s n, .ro, false⟩, ⟨DUMPE_4_EVENT s n, .ro, false⟩, ⟨DUMPE_4_VALUE_HI s n, .ro, false⟩]⟩,
  ⟨0x20100000, 0x200000, 4, 0x20, 65536, 0x0, 1, fun t j _ => [⟨SAMP_SEQ t j, .ro, false⟩]⟩,
  ⟨0x20100004, 0x200000, 4, 0x20, 65536, 0x4, 3, fun t j i => [⟨SAMP_TIME t j i, .ro, false⟩]⟩,
  ⟨0x20100010, 0x200000, 4, 0x20, 65536, 0x0, 1, fun t j _ => [⟨SAMP_OPCODE t j, .ro, false⟩, ⟨SAMP_WAIT t j, .ro, false⟩, ⟨SAMP_ADDR t j, .ro, false⟩]⟩,
  ⟨0x20100014, 0x200000, 4, 0x20, 65536, 0x0, 1, fun t j _ => [⟨SAMP_GAP t j, .ro, false⟩, ⟨SAMP_PART t j, .ro, false⟩, ⟨SAMP_LOSTN t j, .ro, false⟩, ⟨SAMP_ENGINE t j, .ro, false⟩]⟩,
  ⟨0x20100018, 0x200000, 4, 0x20, 65536, 0x0, 1, fun t j _ => [⟨SAMP_LAT t j, .ro, false⟩]⟩,
  ⟨0x2010001C, 0x200000, 4, 0x20, 65536, 0x0, 1, fun t j _ => [⟨SAMP_TAG t j, .ro, false⟩]⟩,
  ⟨0x680000, 0x0, 1, 0x0, 1, 0x0, 1, fun _ _ _ => [⟨PERF_DUMPCFG_EN, .rw, false⟩, ⟨PERF_DUMPCFG_PERIOD, .rw, false⟩]⟩,
  ⟨0x680004, 0x0, 1, 0x0, 1, 0x0, 1, fun _ _ _ => [⟨PERF_DUMPSTAT_SEQ, .ro, false⟩]⟩,
  ⟨0x680008, 0x0, 1, 0x0, 1, 0x0, 1, fun _ _ _ => [⟨PERF_TXCFG_EN, .rw, false⟩, ⟨PERF_TXCFG_VLAN, .ro, true⟩, ⟨PERF_TXCFG_PORT, .ro, true⟩]⟩,
  ⟨0x68000C, 0x0, 1, 0x0, 1, 0x0, 1, fun _ _ _ => [⟨PERF_TXETYPE_ETYPE, .ro, true⟩]⟩,
  ⟨0x680018, 0x0, 1, 0x0, 1, 0x0, 1, fun _ _ _ => [⟨PERF_TXSTAT_SENT, .rc, false⟩, ⟨PERF_TXSTAT_DROP, .rc, false⟩]⟩,
  ⟨0x680020, 0x0, 1, 0x0, 1, 0x0, 1, fun _ _ _ => [⟨PERF_SAMPCFG_EN, .rw, false⟩, ⟨PERF_SAMPCFG_PART, .rw, false⟩, ⟨PERF_SAMPCFG_NEXP, .rw, false⟩]⟩,
  ⟨0x681000, 0x1000, 4, 0x4, 64, 0x0, 1, fun t n _ => [⟨PERF_SEL_PEND t n, .ro, false⟩, ⟨PERF_SEL_PORTEV t n, .rw, false⟩, ⟨PERF_SEL_PORT t n, .rw, false⟩, ⟨PERF_SEL_EVENT t n, .rw, false⟩, ⟨PERF_SEL_CLMASK t n, .rw, false⟩]⟩,
  ⟨0x681100, 0x1000, 4, 0x8, 96, 0x0, 1, fun t n _ => [⟨PERF_LIVE_LO t n, .ro, false⟩]⟩,
  ⟨0x681104, 0x1000, 4, 0x8, 96, 0x0, 1, fun t n _ => [⟨PERF_LIVE_HI t n, .ro, false⟩]⟩,
  ⟨0x681400, 0x1000, 4, 0x0, 1, 0x0, 1, fun t _ _ => [⟨PERF_SAMPSTAT_SEQ t, .ro, false⟩]⟩,
  ⟨0x681404, 0x1000, 4, 0x0, 1, 0x0, 1, fun t _ _ => [⟨PERF_SAMPLOST_LOST t, .rc, false⟩]⟩,
  ⟨0x20000, 0x0, 1, 0x0, 1, 0x0, 1, fun _ _ _ => [⟨PM_STATUS_HOT110, .ro, false⟩, ⟨PM_STATUS_TRIP, .ro, false⟩, ⟨PM_STATUS_HOT, .ro, false⟩, ⟨PM_STATUS_VBATLOW, .ro, false⟩, ⟨PM_STATUS_BOOST, .ro, false⟩, ⟨PM_STATUS_LF, .ro, false⟩, ⟨PM_STATUS_AVSFAULT, .ro, false⟩, ⟨PM_STATUS_DOMAINS, .ro, false⟩]⟩,
  ⟨0x20004, 0x0, 1, 0x0, 1, 0x0, 1, fun _ _ _ => [⟨PM_AVSCFG_EN, .rw, false⟩, ⟨PM_AVSCFG_VBOOT, .ro, true⟩]⟩,
  ⟨0x20008, 0x0, 1, 0x0, 1, 0x0, 1, fun _ _ _ => [⟨PM_VLIM_VMAX, .rw, false⟩, ⟨PM_VLIM_VMIN, .rw, false⟩]⟩,
  ⟨0x2000C, 0x0, 1, 0x0, 1, 0x0, 1, fun _ _ _ => [⟨PM_AVSCTL_LOWOCC, .ro, true⟩, ⟨PM_AVSCTL_DOWNMS, .ro, true⟩, ⟨PM_AVSCTL_STEP, .ro, true⟩, ⟨PM_AVSCTL_AVSCLK, .ro, true⟩]⟩,
  ⟨0x20010, 0x0, 1, 0x0, 1, 0x0, 1, fun _ _ _ => [⟨PM_VCORE_TARGET, .ro, false⟩, ⟨PM_VCORE_MEAS, .ro, false⟩]⟩,
  ⟨0x20014, 0x0, 1, 0x0, 1, 0x0, 1, fun _ _ _ => [⟨PM_BOOST_FLOOR, .ro, false⟩, ⟨PM_BOOST_LEFT, .ro, false⟩]⟩,
  ⟨0x20018, 0x0, 1, 0x0, 1, 0x0, 1, fun _ _ _ => [⟨PM_CMD_STATUS, .cmd, false⟩, ⟨PM_CMD_CODE, .cmd, false⟩]⟩]

/-- Part 14 of the register map (R427, register tables of spec/). -/
def regTableParto : List RegEnt := [
  ⟨0x20020, 0x4, 8, 0x0, 1, 0x0, 1, fun r _ _ => [⟨PM_RAIL_MEAS r, .ro, false⟩, ⟨PM_RAIL_LOW r, .rc, false⟩]⟩,
  ⟨0x20040, 0x0, 1, 0x0, 1, 0x0, 1, fun _ _ _ => [⟨PM_SUPEVT_COUNT, .rc, false⟩]⟩,
  ⟨0x20044, 0x0, 1, 0x0, 1, 0x0, 1, fun _ _ _ => [⟨PM_LASTRESET_RAIL, .ro, false⟩, ⟨PM_LASTRESET_CAUSE, .ro, false⟩]⟩,
  ⟨0x20050, 0x4, 10, 0x0, 1, 0x0, 1, fun s _ _ => [⟨PM_TEMP_MAX s, .ro, false⟩, ⟨PM_TEMP_NOW s, .ro, false⟩]⟩,
  ⟨0x20080, 0x0, 1, 0x0, 1, 0x0, 1, fun _ _ _ => [⟨PM_VBAT_LOW, .ro, false⟩, ⟨PM_VBAT_MV, .ro, false⟩]⟩,
  ⟨0x100080, 0x8000, 32, 0x8, 8, 0x0, 1, fun p i _ => [⟨MAC_MCAST_LO_ADDRLO p i, .ro, true⟩]⟩,
  ⟨0x100084, 0x8000, 32, 0x8, 8, 0x0, 1, fun p i _ => [⟨MAC_MCAST_HI_EN p i, .ro, true⟩, ⟨MAC_MCAST_HI_ADDRHI p i, .ro, true⟩]⟩,
  ⟨0x680010, 0x0, 1, 0x0, 1, 0x0, 1, fun _ _ _ => [⟨PERF_TXDMAC_LO_ADDRLO, .ro, true⟩]⟩,
  ⟨0x680014, 0x0, 1, 0x0, 1, 0x0, 1, fun _ _ _ => [⟨PERF_TXDMAC_HI_ADDRHI, .ro, true⟩]⟩]

/-- The whole register map. -/
def regTable : List RegEnt :=
  regTableParta ++ regTablePartb ++ regTablePartc ++ regTablePartd ++ regTableParte ++ regTablePartf ++ regTablePartg ++ regTableParth ++ regTableParti ++ regTablePartj ++ regTablePartk ++ regTablePartl ++ regTablePartm ++ regTablePartn ++ regTableParto

end Sys2Proof.Machine
end

