-- ==== Sys2Proof/Machine/State.lean ====
section
/-! DEFINITION. The state of the part: everything the specification gives it, as plain data. -/
namespace Sys2Proof.Machine

/-- The nine operating modes (R21). -/
inductive Mode where
  | off | backup | boot | safe | warmup | service | holdover | standby | maintenance
  deriving DecidableEq, Repr

/-- One event as its source holds it (R423): code, severity, argument, instant and block source. -/
structure EventRec where
  code : Nat
  sev : Nat
  arg : Nat
  time : Nat
  deriving DecidableEq, Repr

/-- An active alarm condition (R424). `key` tells apart two conditions of one code. -/
structure Alarm where
  sev : Nat
  code : Nat
  ackable : Bool
  since : Nat
  key : Nat
  deriving DecidableEq, Repr

/-- A master or replica counter (R35): seconds, nanoseconds and a 40-bit fraction of a nanosecond. -/
structure TbCount where
  sec : Nat := 0
  nsec : Nat := 0
  frac : Nat := 0
  deriving DecidableEq, Repr

/-- The sync word (R48). -/
structure SyncWord where
  sec : Nat
  step : Option Int
  seq : Nat
  deriving DecidableEq, Repr

/-- A running sensitivity calibration (R56). -/
structure GcalRun where
  axis : Nat
  freq : Nat
  duration : Nat
  ref : Nat
  start : Nat
  deriving DecidableEq, Repr

/-- A GNSS UTC parameter record (R46): satellite system (0 GPS and QZSS, 1 Galileo, 2 BeiDou), satellite, values. -/
structure UtcRecord where
  sys : Nat
  sv : Nat
  offset : Int
  leap : Nat
  leapTime : Nat
  deriving DecidableEq, Repr

/-- A committed increment (R39): its value in 2^-40 ns, the slew part it holds (R96), and the device tick at which it takes
effect. -/
structure Commit where
  incr : Nat
  slew : Int := 0
  due : Nat
  deriving DecidableEq, Repr

/-- The Time Base beyond its registers (spec/02_time_base.md). -/
structure Tb where
  /-- The three master copies (R37). -/
  c0 : TbCount := {}
  c1 : TbCount := {}
  c2 : TbCount := {}
  /-- The four replicas (R48). -/
  reps : List TbCount := [{}, {}, {}, {}]
  /-- The TB clock runs. -/
  running : Bool := false
  /-- TB ticks since power-up, what the last one added, and the summed excess of the effective increment over 1 ns. -/
  ticks : Nat := 0
  lastAdd : Nat := 0
  excess : Int := 0
  /-- TB_INCR in force, in 2^-40 ns (R38). -/
  incr : Nat := 2 ^ 40
  /-- The committed increments that have not taken effect, oldest first (R39). -/
  incrQ : List Commit := []
  /-- The slew applied since reset, in 2^-40 ns (R96). -/
  slewSum : Int := 0
  /-- TB_GCOMP in force, and the updates that have not taken effect with the device tick of their effect (R39). -/
  gcomp : Int := 0
  gcompQ : List (Int × Nat) := []
  /-- The pending step in 2^-16 ns, the instant of its ARM, and the frozen step (R43, R45). -/
  step : Option Int := none
  stepArmed : Nat := 0
  frozen : Option Int := none
  /-- The frozen step belongs to the first acquisition, which moves the outputs (R96). -/
  frozenFirst : Bool := false
  /-- Steps applied since reset, and the last one. -/
  steps : Nat := 0
  lastStep : Option Int := none
  /-- The device ticks and the excess at the last second boundaries, newest first (R88). -/
  secs : List (Nat × Int) := []
  /-- The last sync word, the next sequence number, and whether the word of the next second boundary has left (R48). -/
  sync : Option SyncWord := none
  syncSeq : Nat := 0
  syncOut : Bool := false
  /-- Resyncs of each copy in this TB second, resyncs not logged, and whether one was logged (R37). -/
  resyncs : List Nat := [0, 0, 0]
  unlogged : List Nat := [0, 0, 0]
  unloggedPrev : List Nat := [0, 0, 0]
  /-- TB_LEAPTIME of the most recently applied leap, and what it added to TAI - UTC (R110, R309). -/
  lastLeap : Option Nat := none
  lastDelta : Int := 0
  /-- The instant of the last OSC_IN loss (R34). -/
  lossAt : Nat := 0
  /-- Steering writes are held off (R34, R386). -/
  steerHeld : Bool := false
  /-- UTC records that passed their check (R46). -/
  utcRecords : List UtcRecord := []
  /-- Warm-up (R50 to R52), in device ticks: the start of both rules, the last rise and fall of OCXO_WARM; the last window's
  reference and mean frequency. -/
  warmFrom : Nat := 0
  ocxoRise : Nat := 0
  ocxoFall : Nat := 0
  warmRef : Option Nat := none
  warmPrev : Option Int := none
  /-- Device ticks (R51): the start of the reference rule with its present window reference, the opening of the window now
  open and of the one before; and whether that one has been taken. -/
  warmBegan : Nat := 0
  warmOpen : Nat := 0
  warmOpenPrev : Nat := 0
  warmTaken : Bool := true
  /-- Device ticks of the last accelerometer sample and of the last correction (R53, R54). -/
  accAt : Option Nat := none
  gcompAt : Option Nat := none
  /-- Accelerometer (R53 to R55): last sample, running means, identical samples in a row, instant of the first
  varying sample after a fault. -/
  acc : Int × Int × Int := (0, 0, 0)
  accMean : Int × Int × Int := (0, 0, 0)
  accSame : Nat := 0
  accVaryFrom : Option Nat := none
  gcal : Option GcalRun := none
  /-- Seconds each replica has measured within 20 ps since a flag, and the offset the flag adds (R49). -/
  repGood : List Nat := [0, 0, 0, 0]
  repAdd : List Nat := [0, 0, 0, 0]
  deriving DecidableEq, Repr

/-- The backup domain (R57, R468, R469, R394). -/
structure Backup where
  powered : Bool := true
  onVbat : Bool := false
  /-- VBAT was lost since the last BOOT (R394, R469). -/
  lost : Bool := false
  sec : Nat := 0
  phase : Nat := 0
  valid : Bool := false
  lastLoad : Nat := 0
  kek : Nat := 0
  /-- TAMPER_CLEAR was executed and acts at the next BOOT (R388). -/
  clearAsked : Bool := false
  /-- The levels last stored there (R394). -/
  tamperEn : Nat := 0
  tamperPol : Nat := 0
  deriving DecidableEq, Repr

/-- A supply event in progress (R467). -/
structure Dip where
  rail : Nat
  start : Nat
  lowest : Nat
  deriving DecidableEq, Repr

/-- The power controller (spec/18_power_management.md). -/
structure Pw where
  pwrEn : Bool := false
  porstN : Bool := false
  pgood : Bool := false
  /-- The power-up sequence has latched its inputs and runs (R463). -/
  sequencing : Bool := false
  dips : List Dip := []
  /-- VREQ since the last evaluation, and ms of low occupancy (R465). -/
  vreqSeen : Bool := false
  /-- A window since the last evaluation had an enabled partition at or above LOWOCC. -/
  occSeen : Bool := false
  lowMs : Nat := 0
  /-- The TB value in ns at the last evaluation, or after a negative step since (R465). -/
  evalAt : Nat := 0
  /-- Retries of the AVSBus write in progress, its last attempt in device ticks, the target last acknowledged, and the last Status read
  in device ticks (R464). -/
  avsTries : Nat := 0
  avsAt : Nat := 0
  avsAcked : Nat := 750
  statusAt : Nat := 0
  /-- End of the boost (R467). -/
  boostEnd : Nat := 0
  /-- Each sensor's part in the thermal conditions is in registers; the thermistor's last sample (R489). -/
  therm : Nat := 0
  /-- D2D link (R27): retraining since this instant. -/
  d2dLost : Option Nat := none
  /-- Control processors that have failed (R339). -/
  cpFailed : List Nat := []
  /-- The processor whose tasks CP4 carries while it is under test (R434). -/
  cp4Carries : Option Nat := none
  deriving DecidableEq, Repr

/-- One open OMP session beyond its registers (R412, R414). -/
structure OmpSession where
  key : BitVec 256
  /-- The far end, and the next sequence number of a TCP session. -/
  peer : Far
  snd : Nat := 0
  /-- The 64 highest SEQ values received, highest first. -/
  seen : List Nat := []
  /-- The last 16 answers, newest first: the SEQ answered, and the message sent. -/
  answers : List (Nat × List Byte) := []
  devSeq : Nat := 0
  lastActive : Nat := 0
  /-- Order of the last subscription with frames, 0 for none (R416). -/
  subOrder : Nat := 0
  /-- Connection of a TCP session. -/
  conn : Nat := 0
  deriving DecidableEq, Repr

/-- A copy of register space (R418), held as the register file is. -/
structure RegView where
  rf : List (Nat × Nat)
  deriving DecidableEq, Repr

/-- Management beyond its registers (spec/15_management_readback.md). -/
structure Mg where
  /-- Pending events of each source, oldest first, and the events each has lost (R423). -/
  evPending : List (Nat × List EventRec) := []
  evLost : List (Nat × Nat) := []
  /-- The source served last by the log writer. -/
  evRot : Nat := 0
  alarms : List Alarm := []
  /-- Events logged at most once per TB second: code, count in the second, last argument. -/
  secEvents : List (Nat × (Nat × Nat)) := []
  /-- Entries appended to CFG_CLAMPLOG since BOOT (R383). -/
  clampSeq : Nat := 0
  /-- The stored response of the last SPI READ (R408). -/
  spiStored : List Byte := []
  /-- A previous SPI attempt ended early and was not executed (R406). -/
  spiEarly : Bool := false
  sessions : List (Nat × Option OmpSession) := []
  subCount : Nat := 0
  /-- The snapshot shadow (R418), the instant it became READY, and the OMP session that holds it. -/
  shadow : Option RegView := none
  snapReady : Nat := 0
  deriving DecidableEq, Repr

/-- A statistics accumulation (R70 to R72): the run's anchor, last event and last residual, and the sums of the open
window, with event times taken from the window's first event. -/
structure StatAcc where
  run : Option (Nat × Nat × Int) := none
  n : Nat := 0
  t0 : Nat := 0
  tLast : Nat := 0
  st : Int := 0
  stt : Int := 0
  sx : Int := 0
  sxx : Int := 0
  stx : Int := 0
  mn : Int := 0
  mx : Int := 0
  gap : Bool := false
  overflow : Bool := false
  uncal : Bool := false
  order : Bool := false
  subres : Bool := false
  deriving DecidableEq, Repr

/-- The result of a closed window (R72). -/
structure WinResult where
  n : Nat
  stop : Nat
  mean : Int
  sd : Nat
  mn : Int
  mx : Int
  slope : Int
  gap : Bool
  overflow : Bool
  cut : Bool
  uncal : Bool
  order : Bool
  subres : Bool
  deriving DecidableEq, Repr

/-- What an engine takes (R63, R70): the stamp, the result of an interval engine, the period of a channel engine, its flags, and
whether it is an event that was missed. -/
structure StatEv where
  t : Nat
  x : Option Int := none
  per : Nat := 0
  uncal : Bool := false
  order : Bool := false
  subres : Bool := false
  miss : Bool := false
  deriving DecidableEq, Repr

/-- A statistics engine (R70): its accumulation and the results that wait for publication (R75). -/
structure TdcEngine where
  acc : StatAcc := {}
  /-- The TB second boundary at which a TIME window closes (R71). -/
  due : Option Nat := none
  /-- Events of a TIME window that are stamped at or after the next second boundary (R71). -/
  ahead : List StatEv := []
  closed : List WinResult := []
  deriving DecidableEq, Repr

/-- A channel's configuration as it is in force (R73). -/
structure ChCfg where
  en : Bool
  edge : Nat
  wmode : Nat
  sten : Bool
  div : Nat
  per : Nat
  dly : Int
  win : Nat
  deriving DecidableEq, Repr

/-- An interval unit's configuration as it is in force (R73). -/
structure IvCfg where
  en : Bool
  sten : Bool
  wmode : Nat
  stop : Nat
  start : Nat
  win : Nat
  stwin : Nat
  deriving DecidableEq, Repr

/-- A TDC channel beyond its registers (R62 to R64, R76). -/
structure TdcCh where
  /-- Edges of the selected polarity counted toward the divider. -/
  divCount : Nat := 0
  lastAt : Option Nat := none
  /-- Entries in the 64-entry FIFO toward the event collector. -/
  fifo : Nat := 0
  /-- The table and the matched offset of each interpolator. -/
  tables : Nat × Nat := (0, 0)
  offsets : Int × Int := (0, 0)
  calibrated : Bool := false
  /-- A swap waits for the next second boundary (R76). -/
  swap : Bool := false
  /-- The calibration run in hand: interpolator, new table, INL peak; due, and when last run. -/
  due : Bool := false
  dueIps : Nat := 0
  runTable : Option Nat := none
  /-- Offset matching: its start in device ticks, and the channel's own events since then (R76). -/
  matchFrom : Nat := 0
  matched : Nat := 0
  /-- Device ticks at the last run's end (R78). -/
  lastCal : Nat := 0
  /-- The configuration in force while a configuration write waits for the next second boundary (R73). -/
  held : Option ChCfg := none
  deriving DecidableEq, Repr

/-- An event-queue record (R66). -/
structure EqRecord where
  t : Nat
  edge : Bool
  uncal : Bool
  gap : Bool
  lostN : Nat
  deriving DecidableEq, Repr

/-- An interval unit beyond its registers (R67, R75): starts seen, each with the device tick of its arrival, stops seen, and
results that wait for the event collector. -/
structure IvUnit where
  starts : List (Nat × Nat) := []
  stops : List Nat := []
  fifo : Nat := 0
  held : Option IvCfg := none
  deriving DecidableEq, Repr

/-- The TDC (spec/03_interval_measurement.md). -/
structure Tdc where
  chans : List (Nat × TdcCh) := []
  engines : List (Nat × TdcEngine) := []
  units : List (Nat × IvUnit) := []
  queues : List (Nat × List EqRecord) := []
  queueLost : List (Nat × Nat) := []
  /-- The sources the collectors served last, and the instant in half ticks from which the event collector is free (R75). -/
  pubRot : Nat := 39
  colRot : Nat := 39
  colFree : Nat := 0
  /-- The next calibration table, and the chiplet temperature at the last cycle. -/
  nextTable : Nat := 64
  calTemp : Int := 0
  /-- The output whose edges CH24 sees (R61). -/
  feedback : Nat := 0
  deriving DecidableEq, Repr

/-- A reference source beyond its registers (R86 to R94). -/
structure Src where
  /-- The last outcome of each qualifier; the last window carried UNCAL. -/
  uncal : Bool := false
  q1 : Bool := false
  q2 : Bool := true
  q3 : Bool := true
  q4 : Bool := true
  q5 : Bool := true
  everQual : Bool := false
  wtrFrom : Nat := 0
  wtrLen : Nat := 0
  /-- Recent edges, newest first, of a run without an interval beyond the limit. -/
  edges : List Nat := []
  lastMeas : Option Nat := none
  /-- The accumulation of a virtual source's measurements. -/
  acc : StatAcc := {}
  /-- Mean and slope of the window before, when J may be formed from it. -/
  prev : Option (Int × Int) := none
  sd : Nat := 0
  /-- Windows of the last 3,600 s: close (device ticks), length in seconds, oscillator frequency minus model. -/
  hist : List (Nat × Nat × Int) := []
  drift : Int := 0
  driftFig : Int := 0
  driftSince : Option Nat := none
  /-- Windows in a row in which the disagreement stayed within FSOFT, and the preferred member (R94). -/
  agree : Nat := 0
  confWith : Nat := 0
  activeWins : Nat := 0
  /-- f of the latest window, in 10^-15, and the end of that window. -/
  f15 : Int := 0
  hasF : Bool := false
  prevEnd : Nat := 0
  /-- TODIN: the labels of the last pulses, newest first; none for a pulse without a label. -/
  labels : List (Option Nat) := []
  deriving DecidableEq, Repr

/-- A phase transfer in progress (R95): by slew or by step, its size in 2^-16 ns, the slew applied in 2^-40 ns,
whether it is the first since BOOT, the device tick at which the firmware writes the frequency part alone, and whether it has
(R41). -/
structure Transfer where
  slew : Bool
  size : Int
  applied : Int
  first : Bool
  endAt : Option Nat := none
  ended : Bool := false
  deriving DecidableEq, Repr

/-- Selection, holdover and the TQR beyond their registers (spec/04_references_holdover_outputs.md). -/
structure Sel where
  srcs : List (Nat × Src) := []
  transfer : Option Transfer := none
  /-- Class code and source last ACTIVE, and its TRACE bit. -/
  lastActive : Option Nat := none
  /-- The class now in force, the device ticks at its entry, and the entry bounds (R103), scaled. -/
  cls : Nat := 7
  clsTicks : Nat := 0
  /-- Publication instant at which the class was entered, and the UTC offset then (R251). -/
  clsTime : Nat := 0
  clsOfs : Int := 0
  eh : Nat := 0
  fh : Nat := 0
  sumT : Nat := 0
  entryT : Int := 0
  /-- Device ticks at which the present ACTIVE source became ACTIVE, and the instant after the last TB step. -/
  activeTicks : Nat := 0
  lastStep : Option Nat := none
  /-- R102 for a frequency-only source: E at the last time-capable instant, and the ticks then. -/
  e0 : Nat := 0
  e0Ticks : Nat := 0
  /-- Seed bound of R57, in ns. -/
  seed : Nat := 0xFFFFFFFF
  wc : Nat := 0
  driftSrc : Nat := 0
  /-- Device ticks since which the source that raised DRIFT_UNRESOLVED is lost (R88). -/
  driftLost : Option Nat := none
  /-- Fitted windows: close in device ticks, length in s, thermistor in 0.01 degC, oscillator frequency in 1e-15. -/
  fit : List (Nat × Nat × Int × Int) := []
  modelTicks : Nat := 0
  /-- The ZDA label that waits for the next pulse. -/
  zdaNext : Option Nat := none
  deriving DecidableEq, Repr

/-- A DPLL beyond its registers (R107, R108): device ticks at the entry into its state, the output frequencies last measured with
their device ticks, newest first, and the phase build-out in ps. While it tracks TB: the phase error in ps and the slew sum of TB
at device tick `errAt`. -/
structure Dpll where
  since : Nat := 0
  freqs : List (Nat × Int) := []
  buildOut : Int := 0
  err : Int := 0
  errAt : Nat := 0
  slewAt : Int := 0
  deriving DecidableEq, Repr

/-- An output beyond its registers (R96, R110, R111). -/
structure Outp where
  /-- The boundary from which the output runs. -/
  from_ : Option Nat := none
  ofs : Int := 0
  dly : Int := 0
  /-- The boundary from which the offsets in force place edges. -/
  ofsFrom : Nat := 0
  lastStart : Option Nat := none
  lastB : Option Nat := none
  /-- The pulse whose TOD message has not been replaced by a later edge (R114): its B_k, the device tick 10 ms after its leading
  edge, and its number. -/
  msg : Option (Nat × Nat) := none
  pulses : Nat := 0
  deriving DecidableEq, Repr

/-- DPLLs, outputs and TOD outputs. -/
structure Outs where
  dplls : List (Nat × Dpll) := []
  outs : List (Nat × Outp) := []
  alignAt : Nat := 0
  /-- The number of the pulse that each TOD output last sent a message for (R114). -/
  todSent : List (Nat × Nat) := []
  deriving DecidableEq, Repr

/-- A front-end transaction of the image's list (R123): the bytes sent, and the bytes expected back. -/
structure FeTrans where
  bytes : List Byte
  expect : Option (List Byte) := none
  deriving DecidableEq, Repr

/-- A captured measurement of a channel (R134, R137). -/
structure GnCapture where
  ch : Nat
  signal : Nat
  sv : Nat
  ant : Nat
  obs : GnObs
  /-- Carrier phase since the restart, in 2^-16 cycle, and seconds since carrier lock. -/
  carr : Int
  lockT : Nat
  deriving DecidableEq, Repr

/-- A measurement set captured and not yet published (R134 to R137). -/
structure GnSet where
  time : Nat
  index : Nat
  step : Bool
  burst : Bool
  recs : List GnCapture
  deriving DecidableEq, Repr

/-- The carrier count of a channel (R138): locked, since which device tick, and the phase in 2^-16 cycle. -/
structure GnCarr where
  locked : Bool := false
  since : Nat := 0
  phase : Int := 0
  deriving DecidableEq, Repr

/-- The search of a channel on an acquisition engine (R127, R128): code and Doppler bins, and the device tick by which all cells have
been searched. -/
structure GnSearch where
  ch : Nat
  codes : Nat
  dops : Nat
  endAt : Nat
  deriving DecidableEq, Repr

/-- The orbit data in the reserve area of the association store (R129): ephemerides by system and satellite with the device tick of
each, satellites with an almanac, the position in cm, the UTC parameters, the satellites last in view, and the sequence number of the
flash copy it is in step with. -/
structure Orbit where
  valid : Bool := false
  ephs : List (Nat × Nat × Nat) := []
  alms : List (Nat × Nat) := []
  pos : Option (Int × Int × Int) := none
  utc : Option (Int × Nat × Nat) := none
  view : List (Nat × Nat) := []
  seq : Nat := 0
  deriving DecidableEq, Repr

/-- The GNSS baseband beyond its registers (spec/05_gnss_baseband.md). -/
structure Gn where
  /-- The front-end list of the image, and what was known at its end: device ticks, start type (R123, R130). -/
  feList : List FeTrans := []
  feDone : Nat := 0
  start : Nat := 2
  /-- Antenna and code of each signal that GN_SIGEN enables (R125). -/
  sigen : List (Nat × Nat) := []
  /-- Paths whose clock has not been seen since the list, and the device tick of each path's loss (R121, R123). -/
  clkWait : List Nat := []
  clkLost : List (Nat × Nat) := []
  /-- A valid solution has been published since BOOT. -/
  valid : Bool := false
  /-- PWM duty of each stream, the device tick of its last millisecond, and its sum over the ticks since the last second's
  evaluation, up to a tick (R124, R142). -/
  duty : List (Nat × Nat) := []
  agcAt : List (Nat × Nat) := []
  dutySum : List (Nat × Nat) := []
  dutyAt : List (Nat × Nat) := []
  dutyFrom : List (Nat × Nat) := []
  /-- The signals last asked for (R125), and the sixteen acquisition engines' searches (R127). -/
  demand : List GnSig := []
  search : List GnSearch := []
  /-- Code discriminators of the last latch, carrier counts, and what a word's or a page's check takes from the one before, by
  channel (R126, R132, R138). -/
  disc : List (Nat × Int) := []
  carr : List (Nat × GnCarr) := []
  navPrev : List (Nat × List Bool) := []
  /-- Navigation records read by the firmware (R131). -/
  navRead : Nat := 0
  /-- The last TB second boundary, and whether a step applied there (R135). -/
  lastB : Nat := 0
  stepB : Bool := false
  /-- Interference, spoof detection and the solution have been evaluated for that second (R142, R144, R154). -/
  jamDone : Bool := false
  spoofDone : Bool := false
  solDone : Bool := false
  /-- The set on its way to the ring, the number of the last set, and the captures of the last second's latch. -/
  pending : Option GnSet := none
  setNum : Nat := 0
  lastSec : List GnCapture := []
  /-- Burst tracking: the window is open, and no set of it has been taken (R149). -/
  window : Bool := false
  firstSet : Bool := false
  /-- Seconds each notch's interferer has stayed below, by 4 m + k; J of the last second above WARN, by stream; seconds
  in a row at or above FLAG, by stream, and below WARN on every stream (R141 to R143). -/
  below : List (Nat × Nat) := []
  above : List (Nat × Bool) := []
  jamSec : List (Nat × Nat) := []
  quietSec : Nat := 0
  /-- Spoof detectors (R144 to R147): seconds in a row of A and B, seconds with all unfired, B without confirmation
  already logged, the last two GNSS measurements, less the TB steps applied before each, with their
  device ticks, and the sum of the steps. -/
  aSec : Nat := 0
  bSec : Nat := 0
  calm : Nat := 0
  bAlone : Bool := false
  x1 : Option (Int × Nat) := none
  x0 : Option (Int × Nat) := none
  stepSum : Int := 0
  /-- Solutions in a row that fail and that pass (R153). -/
  failSol : Nat := 0
  passSol : Nat := 0
  /-- A survey runs, with its seconds left, the box that the averaged positions span and their number; HOLD has been entered (R152). -/
  survey : Bool := false
  survLeft : Nat := 0
  survLo : Int × Int × Int := (0, 0, 0)
  survHi : Int × Int × Int := (0, 0, 0)
  survN : Nat := 0
  held : Bool := false
  /-- The uncertainty of the solution's position in m (R128). -/
  posErr : Nat := 100000
  /-- The orbit data held in the reserve area (R129, R152). -/
  orbit : Orbit := {}
  /-- Device ticks of the last orbit-data write, and one due after a survey (R129). -/
  orbitAt : Nat := 0
  orbitDue : Bool := false
  deriving DecidableEq, Repr
/-- A frame on its way to a port: destination address to payload, without FCS. -/
structure TxFrame where
  port : Nat
  cls : Nat
  bytes : List Byte
  desc : TxDesc := {}
  /-- The gated partition that built it, whose gate rule applies (R220), and the request's instant. -/
  part : Option Nat := none
  stamp : Nat := 0
  /-- It answers a received frame (R172), caught after so many transitions of the port to DOWN. -/
  caught : Bool := false
  downs : Nat := 0
  /-- The collector source: clusters 0 to 31, telemetry dumper 32 (R234). -/
  src : Nat := 0
  /-- Its place among the frames the transmit queues have accepted, and the bytes that have reached the transmit buffer. -/
  ord : Nat := 0
  arrived : Nat := 0
  host : Bool := false
  /-- The granted reservation it uses (R199). -/
  resv : Option Nat := none
  /-- A calendar message: its due instant (R292). -/
  due : Option Nat := none
  deriving DecidableEq, Repr

/-- A received frame in its queue, FCS included (R169). -/
structure RxFrame where
  port : Nat
  rq : Nat
  vlan : Nat
  dacls : Nat
  ipver : Nat
  bytes : List Byte
  stamp : Nat
  seq : Nat
  /-- The port's transitions to DOWN before it. -/
  downs : Nat := 0
  deriving DecidableEq, Repr

/-- A frame in transmission: its queue, the TB instant of its start block, the device tick of that with the part of a tick beyond it,
the instant of its end, the launch instant once the start block has passed, and the linked stamp it takes (R191, R192, R198). -/
structure InTx where
  frame : TxFrame
  queue : Nat
  tB : Nat
  tick : Nat
  ofs : Nat
  fin : Nat
  launch : Option Nat := none
  linked : Nat := 0
  deriving DecidableEq, Repr

/-- The rest of a frame that is discarded as the fabric delivers it (R176, R201): place, source, port, bytes left. -/
structure Waste where
  ord : Nat
  src : Nat
  port : Nat
  left : Nat
  deriving DecidableEq, Repr

/-- A port beyond its registers (spec/06_ports_and_mac.md). -/
structure Port where
  /-- The device tick of the entry into ALIGNING (R161). -/
  lockFrom : Nat := 0
  /-- The frames committed, oldest first, and the end of the last one and its gap. -/
  tx : List InTx := []
  freeAt : Nat := 0
  /-- Instants in 1/100 ns of device time at which the pause timer was loaded, or last accounted, and runs out
  (R174, R175). -/
  pauseFrom : Nat := 0
  pauseEnd : Nat := 0
  /-- Transitions to DOWN (R172), and the instant of the last rise of the gate (R220). -/
  downs : Nat := 0
  gateAt : Option Nat := none
  /-- Device ticks at the entry into transmit LPI and receive LPI, and the instant the wake ends (R180). -/
  lpiFrom : Nat := 0
  rxLpiFrom : Nat := 0
  wakeEnd : Option Nat := none
  /-- The device tick at which the transmit path last had something to do (R180). -/
  idleFrom : Nat := 0
  /-- The collector source taken last (R234), and the number of the next received frame (R222). -/
  turn : Nat := 32
  rxSeq : Nat := 0
  deriving DecidableEq, Repr

/-- Ports and MAC. -/
structure Mac where
  ports : List (Nat × Port) := []
  /-- Receive queues by 16 p + queue, transmit queues by 8 p + queue. -/
  rxq : List (Nat × List RxFrame) := []
  txq : List (Nat × List TxFrame) := []
  /-- The 64-bit counters by 64 p + c (R181). -/
  cnt : List (Nat × Nat) := []
  /-- Device ticks at which each quad's PLL regained lock, and of each quad's fault or last retry (R162). -/
  pllFrom : List (Nat × Nat) := []
  retryAt : List (Nat × Nat) := []
  /-- The place of the next frame accepted, and the rests of frames that are discarded on delivery. -/
  txOrd : Nat := 0
  waste : List Waste := []
  deriving DecidableEq, Repr

/-- A timestamp-queue record (R206). -/
structure TsRecord where
  t : Nat
  tag : Nat
  launch : Bool
  underrun : Bool := false
  notSent : Bool := false
  lostN : Nat := 0
  gap : Bool := false
  deriving DecidableEq, Repr

/-- A granted reservation (R199): port, start block, reserved instant, length, the step it includes, the steps
applied before the grant, whether an ordinary frame waits for it (R200), and whether its slot passes as idle (R201). -/
structure Grant where
  id : Nat
  port : Nat
  tB : Nat
  instant : Nat
  len : Nat
  step : Option Int
  steps : Nat
  hold : Bool := false
  missed : Bool := false
  deriving DecidableEq, Repr

/-- A selected launch whose marker CH30 takes (R203): port, stated instant, the device tick until which CH30 is busy, and whether its result
has come. -/
structure Audit where
  port : Nat
  stated : Nat
  ends : Nat
  done : Bool := false
  deriving DecidableEq, Repr

/-- Timestamping beyond its registers (spec/07_timestamping.md). -/
structure Stamps where
  queues : List (Nat × List TsRecord) := []
  lost : List (Nat × Nat) := []
  /-- Link tables by 64 p + link: 1 pending, 2 LAUNCHED, 3 UNDERRUN, 4 NOTSENT; and the stamp (R198). -/
  links : List (Nat × (Nat × Nat)) := []
  grants : List Grant := []
  nextGrant : Nat := 1
  auditCount : Nat := 0
  audit : Option Audit := none
  deriving DecidableEq, Repr

/-- A request of a partition (R217, R223). -/
structure Req where
  part : Nat
  src : Nat
  port : Nat
  rq : Nat := 0
  vlan : Nat := 0
  dacls : Nat := 0
  ipver : Nat := 0
  bytes : List Byte
  stamp : Nat
  seq : Nat := 0
  index : Nat := 0
  stolen : Bool := false
  /-- Its place among the requests dispatched (R219), the port's transitions to DOWN before it (R172), which message of the calendar it is
  (1 multicast, 2 Announce) or the version of the batch (R308), and the frame the control complex submits (R217). -/
  ord : Nat := 0
  downs : Nat := 0
  kind : Nat := 0
  tx : Option TxFrame := none
  /-- The responses of a SRC = 2 request, one per leaf (R308). -/
  resps : List TxFrame := []
  deriving DecidableEq, Repr

/-- What a unit call returns (R226). -/
structure UnitRes where
  unit : Nat
  ok : Bool
  data : List Byte := []
  deriving DecidableEq, Repr

/-- A micro-engine (R222, R224): the request it runs, its registers, output window and stream position, the results
that wait, its EMITs, and the reservation it was granted. -/
structure Engine where
  req : Option Req := none
  /-- G0 to G63, by number, 0 unlisted. -/
  regs : List (Nat × Nat) := []
  out : List (Nat × Byte) := []
  outLen : Nat := 0
  streamPos : Nat := 256
  flag : Bool := false
  results : List UnitRes := []
  /-- The unit waited for (R226). -/
  wait : Nat := 11
  /-- The instant of issue of an instruction that waits (R454). -/
  issued : Option Nat := none
  emits : Nat := 0
  checked : Bool := false
  grant : Option Nat := none
  /-- Consecutive passing responses (R240). -/
  passes : Nat := 0
  /-- A retirement or restoration that takes effect at the end of the request (R242). -/
  leaving : Bool := false
  /-- The next instruction of the microcode store. -/
  pc : Nat := 0
  deriving DecidableEq, Repr

/-- A response cluster beyond its registers. -/
structure Cluster where
  queue : List Req := []
  /-- Device tick at which it started to drain, and what follows: TEST or RETIRED (R241). -/
  drainFrom : Nat := 0
  drainTo : Nat := 3
  byCommand : Bool := false
  /-- Key slots of the AES units: slot and NTS generation (R226). -/
  keySlots : List (Nat × Nat) := []
  deriving DecidableEq, Repr

/-- The response fabric beyond its registers (spec/08_response_fabric.md). -/
structure Fab where
  clusters : List (Nat × Cluster) := []
  engines : List (Nat × Engine) := []
  /-- Requests of the internal sources, by 4 k + SRC (R217), the request each dispatcher stalls on (R218), and the place of the next one. -/
  intern : List (Nat × List Req) := []
  stalled : List (Nat × Option Req) := []
  reqOrd : Nat := 0
  /-- The source each dispatcher served last (R218). -/
  rot : List (Nat × Nat) := []
  /-- Keys drawn at BOOT: dispatch hash and rate sketch. -/
  hashKey : Nat := 0
  sketchKey : Nat := 0
  /-- Output lanes of the collectors by 32 source + port: frames that wait, and credits in use (R234). -/
  lanes : List (Nat × List TxFrame) := []
  credits : List (Nat × Nat) := []
  /-- The association store's entries and reserve area by byte address, sequence words, dirty banks, sketch. -/
  store : List Host.Cell := []
  eseq : List (Nat × Nat) := []
  dirty : List (Nat × Bool) := []
  frozen : List (Nat × Bool) := []
  sketch : List (Nat × Nat) := []
  /-- The microcode loaded into the clusters of each partition (R216). -/
  ucode : List (Nat × List Byte) := []
  /-- Device ticks at the entry into BOOT, and the last occupancy window closed (R232, R238). -/
  bootTicks : Nat := 0
  occAt : Nat := 0
  deriving DecidableEq, Repr


/-- An open NTS-KE connection (R258, R259): its number, port, instant of the SYN in device ticks, whether a
HelloRetryRequest was sent, and the chain of its completed handshake. -/
structure KeConn where
  id : Nat
  port : Nat
  start : Nat
  /-- The far end, and the next sequence number. -/
  peer : Far
  snd : Nat
  retried : Bool := false
  chain : Option Nat := none
  /-- Its handshake has completed and is counted. -/
  shaken : Bool := false
  deriving DecidableEq, Repr

/-- NTP and NTS beyond their registers (spec/09_ntp_and_nts.md). -/
structure Ntp where
  /-- Key slots KS0 to KS3: generation and key (R261). -/
  keys : List (Nat × (Nat × Nat)) := []
  /-- The generation drawn or received that is not yet current. -/
  next : Option Nat := none
  /-- The TB second at which `next` becomes current, the TAI hour in which a generation last did, and the hour in which the schedule
  last drew one (R261). -/
  nextAt : Nat := 0
  hour : Nat := 0
  drawHour : Option Nat := none
  conns : List KeConn := []
  /-- Handshakes completed in this TB second. -/
  handshakes : Nat := 0
  /-- Event 0x4004 has been logged since BOOT (R253). -/
  rateErr : Bool := false
  /-- The Reference ID of the last TQR publication (event 0x4001). -/
  refId : Nat := 0x494E4954
  /-- The image's server name and certificate chains (R256, R257). -/
  srvName : List Byte := []
  /-- TB day of the last expiry warning. -/
  warnDay : Option Nat := none
  deriving DecidableEq, Repr

/-- What an Announce says of its grandmaster (R275, R283). -/
structure GmData where
  prio1 : Nat
  cls : Nat
  acc : Nat
  oslv : Nat
  prio2 : Nat
  id : Nat
  steps : Nat
  deriving DecidableEq, Repr

/-- A foreign master of a port (R275): its sourcePortIdentity, the last Announce, its interval as a logarithm, and the
device ticks of the last two. `client` is set in the PTPIN domain. -/
structure Foreign where
  port : Nat
  src : Nat
  client : Bool
  gm : GmData
  logAnn : Int
  last : Nat
  prev : Option Nat := none
  timescale : Bool := false
  mac : Nat := 0
  deriving DecidableEq, Repr

/-- A peer-delay exchange in hand and its results on a P2P port (R279). -/
structure Peer where
  seq : Nat := 0
  t1 : Option Nat := none
  sentAt : Nat := 0
  /-- The first answer of a two-step exchange: t2, t4 and the correction. -/
  half : Option (Nat × Nat × Int) := none
  delays : List Int := []
  /-- Whether each of the last three exchanges completed in time. -/
  done : List Bool := []
  deriving DecidableEq, Repr

/-- PTP beyond its registers (spec/10_ptp_grandmaster.md). -/
structure Ptp where
  foreign : List Foreign := []
  peers : List (Nat × Peer) := []
  /-- The next link index of each port (R279). -/
  linkNext : List (Nat × Nat) := []
  /-- The last due instant issued, in ns, by 2 n + kind for grants and 2^21 + 2 p + kind for multicast (R290). -/
  issued : List (Nat × Nat) := []
  /-- TB instants in ns before which a new grant has no due instant (R289), by 4 n + type. -/
  grantAt : List (Nat × Nat) := []
  /-- Admitted rates of the ports in 1/16 message/s (R286). -/
  admitted : List (Nat × Nat) := []
  /-- PTPIN (R294, R295): the selected master, a two-step Sync that waits for its Follow_Up, the Sync terms last used,
  the Delay_Req in hand, the last exchanges, and the device ticks of the last measurement. -/
  master : Option Nat := none
  syncWait : Option (Nat × Nat × Int) := none
  syncTerm : Option Int := none
  dreqSeq : Nat := 0
  dreqAt : Option Nat := none
  exchanges : List (Int × Int) := []
  lastMeas : Option Nat := none
  logDreq : Int := -7
  /-- Device ticks of the client's last Delay_Req and of its last request for grants, and the least duration granted since, in s. -/
  dreqTick : Option Nat := none
  renewAt : Option Nat := none
  grantDur : Nat := 300
  /-- The device tick at which each port's better masters have timed out (R275), and the due instant and index that each tile's
  calendar issued last since the last negative step (R290). -/
  better : List (Nat × Nat) := []
  walked : List (Nat × (Nat × Nat)) := []
  sigSeq : Nat := 0
  deriving DecidableEq, Repr

/-- A leaf of a batch (R303): the request's record and its leaf hash. -/
structure RtLeaf where
  req : Req
  nonce : List Byte
  hash : Nat
  deriving DecidableEq, Repr

/-- The open batch of a version (R304): its opening instant and its leaves, oldest first. -/
structure RtOpen where
  from_ : Nat
  leaves : List RtLeaf
  deriving DecidableEq, Repr

/-- A closed batch that waits for its signature: its number, version, close instant, levels of its Merkle tree from the
leaves up, SREP, and the number of the online key in force at its close (R304 to R313). -/
structure RtBatch where
  num : Nat
  ver : Nat
  closed : Nat
  leaves : List RtLeaf
  tree : List (List Nat)
  srep : List Byte
  key : Nat
  deriving DecidableEq, Repr

/-- An online key (R312): its number since BOOT, seed, validity in UTC ns, and the CERT of each version. -/
structure RtKey where
  num : Nat
  seed : Nat
  mint : Int
  maxt : Int
  certs : List (List Byte)
  deriving DecidableEq, Repr

/-- Roughtime beyond its registers (spec/11_roughtime.md). -/
structure Rt where
  opens : List (Nat × Option RtOpen) := []
  closed : List RtBatch := []
  nextNum : Nat := 0
  /-- Keys drawn since BOOT, the current key, the daily key that waits for D, the keys of batches not yet signed, and
  whether a replacement is called for (R312, R313). -/
  keys : Nat := 0
  cur : Option RtKey := none
  daily : Option RtKey := none
  old : List RtKey := []
  replace : Bool := false
  deriving DecidableEq, Repr

/-- A Teasel descriptor as staged (R322); `resv` says that a reserved field is not 0. -/
structure TslDesc where
  cls : Nat
  n : Nat
  modSlot : Nat
  chkSlot : Nat
  chkEn : Bool
  jobId : Nat
  lstart : Nat
  lend : Nat
  lcount : Nat
  keys : List Nat
  inBase : Nat
  outBase : Nat
  inLen : Nat
  outLen : Nat
  vdesc : Nat
  resv : Bool
  prog : List Nat
  deriving DecidableEq, Repr

/-- A submitted job (R321): the processor that submitted it and the one its records go to, the descriptor's address, the
partition, the faulting attempts and supply discards so far, and the engines it has faulted on, latest first. -/
structure TslJob where
  cp : Nat
  ring : Nat
  addr : Nat
  part : Nat
  faults : Nat := 0
  supply : Nat := 0
  tried : List Nat := []
  deriving DecidableEq, Repr

/-- A job on an engine: its staged descriptor and input area, the next command and loop iteration, the slots, the outputs
held, the start in device ticks and the duration in slots, the code it is refused or released with, and its faults. -/
structure TslRun where
  job : TslJob
  desc : TslDesc
  input : List Byte
  pc : Nat := 0
  iter : Nat := 0
  slots : List (Nat × Nat) := []
  out : List (Nat × Byte) := []
  start : Nat
  dur : Nat
  refused : Bool := false
  code : Nat := 0
  /-- The prime q of the residue shadow, and a mismatch it has found (R334). -/
  q : Nat
  shadow : Bool := false
  supply : Bool := false
  /-- A SIGN job that waits for its companion, the companion's faults so far and engines (R335). -/
  waiting : Bool := false
  compFaults : Nat := 0
  compTried : List Nat := []
  /-- The engine whose SIGN job this companion serves. -/
  signer : Option Nat := none
  deriving DecidableEq, Repr

/-- A Teasel engine beyond its registers. -/
structure TslEng where
  run : Option TslRun := none
  /-- A retirement by command that takes effect at the end of the job (R340). -/
  leaving : Bool := false
  deriving DecidableEq, Repr

/-- The Teasel engines beyond their registers (spec/12_teasel_engines.md). -/
structure Tsl where
  engs : List (Nat × TslEng) := []
  queues : List (Nat × List TslJob) := []
  /-- The local memories of the control processors, by 2^20 cp + address, and their completion rings, newest last. -/
  mem : List Host.Cell := []
  rings : List (Nat × List (List Nat)) := []
  /-- Engines an abort waits for, and the first slot boundary after the write, in device ticks (R338). -/
  aborts : Nat := 0
  abortAt : Nat := 0
  /-- Jobs a supply event in progress discards (R337). -/
  discards : Nat := 0
  deriving DecidableEq, Repr

/-- A Campion test that runs (R433): its unit and whether a retirement asked for waits for its end (R438). -/
structure BistRun where
  u : Nat
  retire : Bool := false
  /-- The start, in device ticks, and the largest offset of a replica since, in ps (R439). -/
  startAt : Nat := 0
  worst : Nat := 0
  deriving DecidableEq, Repr

/-- Campion beyond its registers (spec/16_campion_self_test.md). -/
structure Bist where
  gated : Option BistRun := none
  open_ : Option BistRun := none
  /-- GOLDEN entries of the running image: unit type, count, signature (R435). -/
  golden : List (Nat × (Nat × Nat)) := []
  deriving DecidableEq, Repr

/-- A sample record before it reaches the ring (R455, R456). -/
structure Sample where
  opcode : Nat
  addr : Nat
  wait : Nat
  engine : Nat
  part : Nat
  tag : Nat
  time : Nat
  lat : Nat
  lostN : Nat
  deriving DecidableEq, Repr

/-- A marked instruction that has not completed (R454): engine, instruction class, address, unit waited on, partition,
packet tag, and the instant of issue. -/
structure Mark where
  engine : Nat
  cls : Nat
  addr : Nat
  wait : Nat
  part : Nat
  tag : Nat
  issued : Nat
  deriving DecidableEq, Repr

/-- A counter's selection (R450): port list, port, event, cluster mask. -/
structure PerfSel where
  portEv : Nat
  port : Nat
  event : Nat
  mask : Nat
  deriving DecidableEq, Repr

/-- A dump latched at a boundary (R449): record number, boundary instant, STEP, SELCHG, period, entry words. -/
structure DumpBank where
  num : Nat
  time : Nat
  step : Bool
  selChg : Bool
  period : Nat
  words : List Nat
  deriving DecidableEq, Repr

/-- Performance counters and sampling beyond their registers (spec/17_performance_telemetry.md). -/
structure Perf where
  /-- Totals since BOOT of every event: tile event `e` of cluster `c` at 32 e + c, port event `e` of port `p` at
  16384 + 32 e + p, Teasel event `e` of tile `t` at 32 e + t. -/
  raw : List (Nat × Nat) := []
  /-- Programmable counters by 64 t + n: the total at the last zeroing, and the count at the last boundary; fixed
  counters' counts at 256 + 32 t + f. -/
  base : List (Nat × Nat) := []
  last : List (Nat × Nat) := []
  /-- Selections in force while a staged one waits (R450). -/
  held : List (Nat × Option PerfSel) := []
  /-- Counters whose selection changed at the last boundary. -/
  fresh : List Nat := []
  /-- The period in force, and TB steps at the last boundary (R448). -/
  period : Nat := 1000
  steps : Nat := 0
  /-- The TB value in ns at the last boundary, or after a negative step since (R448). -/
  at_ : Nat := 0
  /-- The records latched at boundaries and not yet published, oldest first. -/
  banks : List DumpBank := []
  records : Nat := 0
  /-- Sampling in force: enable, partition, NEXP; instructions counted by tile; marks; cluster buffers; records lost by
  cluster; the cluster each tile's collector served last; records lost in the TB second (R454 to R456). -/
  sampEn : Nat := 0
  sampPart : Nat := 2
  sampExp : Nat := 16
  counts : List (Nat × Nat) := []
  marks : List Mark := []
  buffers : List (Nat × List Sample) := []
  lost : List (Nat × Nat) := []
  rot : List (Nat × Nat) := []
  deriving DecidableEq, Repr

/-- The test access port (R498, R499): the instruction register, and the levels preloaded into and driven from the
boundary chain. -/
structure Jtag where
  ir : Nat := 0x01
  cells : List Bool := []
  /-- The balls are under the chain's control: 1 EXTEST, 2 CLAMP, 3 HIGHZ. -/
  drive : Nat := 0
  deriving DecidableEq, Repr

/-- A RENEW sent by the holder (R355): its SEQ, renewal instant, expiry and sending instant. -/
structure RenewSent where
  seq : Nat
  r : Nat
  x : Nat
  tsend : Nat
  deriving DecidableEq, Repr

/-- A message waiting for replication (R367): a generation, an entry written, an entry of a full resync and its end. -/
inductive ReplItem where
  | nts (gen : Nat)
  | grant (g : Nat)
  | full (g : Nat)
  | done (n : Nat)
  deriving DecidableEq, Repr

/-- The lease engine beyond its registers (spec/13_pair_redundancy.md). -/
structure Lease where
  /-- BOOTID of this boot, and the SEQ of the last message sent (R350). -/
  bootId : Nat := 0
  seq : Nat := 0
  /-- Holder: instant of the take, index of the next renewal point, x_eff, the last renewal point (R355), and the renewal
  point chosen for a release (R361). -/
  tTake : Nat := 0
  k : Nat := 0
  xEff : Nat := 0
  rPrev : Nat := 0
  chosen : Option Nat := none
  /-- RENEWs sent as holder. -/
  sent : List RenewSent := []
  /-- Non-holder: x_local, h_last, the end of LISTEN, the converted release instant (R360). -/
  xLocal : Option Nat := none
  hLast : Option Nat := none
  listenEnd : Nat := 0
  relLocal : Option Nat := none
  /-- Own last release instant, and repeats of RELEASE still to send (R351). -/
  lastRel : Option Nat := none
  relLeft : Nat := 0
  /-- Partner: BOOTID, SEQ values accepted, the highest of them, its GUARD, whether it has
  given a HOLD indication since its BOOT, and the instant of its latest state. -/
  pBoot : Option Nat := none
  pSeen : List Nat := []
  pSeq : Nat := 0
  pGuard : Nat := 0
  pHeld : Bool := false
  /-- A STATUS has arrived since BOOT (R357). -/
  pStatus : Bool := false
  pStateAt : Nat := 0
  /-- Device ticks of the last acceptance on the Adern link, in-band and on the heartbeat (R346), and of the last HOLD
  indication while this device holds (R362). -/
  adernAt : Option Nat := none
  inbandAt : Option Nat := none
  hbAt : Option Nat := none
  dualAt : Nat := 0
  /-- One-way delays of the last 10 s: device ticks and ns (R357). -/
  delays : List (Nat × Nat) := []
  /-- Lanes aligned (R347). -/
  lane0 : Bool := false
  lane1 : Bool := false
  /-- Time transfer (R366): the stamp of the last own marker sent and of the partner's last marker. -/
  ttSent : Option Nat := none
  ttRecv : Option Nat := none
  /-- Device ticks from which the reclaim conditions hold (R361). -/
  wtrFrom : Option Nat := none
  /-- Device ticks at which the next HELLO, STATUS, CLAIM and repeated RELEASE are due (R351), and the due instant of the
  last own marker (R366). -/
  helloAt : Nat := 0
  statusAt : Nat := 0
  claimAt : Nat := 0
  relAt : Nat := 0
  ttDue : Option Nat := none
  /-- Messages that wait for replication, oldest first (R367). -/
  repl : List ReplItem := []
  /-- Rounds of announcements of the virtual addresses still to send (R363). -/
  announce : Nat := 0
  /-- Device ticks at which the next of them, and the next heartbeat pulse (R349), is due. -/
  announceAt : Nat := 0
  hbNext : Nat := 0
  deriving DecidableEq, Repr


/-- A key-store entry (R390, R391): type, class mask, user mask, the wrapped value, and its check. -/
structure KeyEntry where
  type : Nat
  cls : Nat
  value : Nat
  corrupt : Bool := false
  deriving DecidableEq, Repr

/-- Where BOOT stands (R370). -/
inductive BootStep where
  | idle | identify | readSlot | verify | apply | done
  deriving DecidableEq, Repr

/-- The flash operation an update session waits for (R397). -/
inductive FlashOp where
  | erase | program | read | verify
  deriving DecidableEq, Repr

/-- Boot, configuration, lifecycle, entropy and flash beyond their registers (spec/14). -/
structure Boot where
  step : BootStep := .idle
  flashTries : Nat := 0
  entropyDone : Bool := false
  /-- Slot requested by SYS_REBOOT: 0 automatic, 1 A, 2 B. -/
  request : Nat := 0
  slot : Nat := 2
  tried : List Nat := []
  /-- The slots that passed checks 1 to 8, and the largest BUILD among them (R57, R379). -/
  passed : List Nat := []
  build : Nat := 0
  /-- Faulting attempts of the VERIFY job (R318). -/
  verifyFaults : Nat := 0
  /-- When the step of BOOT in hand began, in device ticks (R370, R371). -/
  stepAt : Nat := 0
  /-- Domain 9 has stayed powered through a SYS_REBOOT with its front end set up (R123, R461). -/
  gnKept : Bool := false
  /-- The flash (R372), bytes unlisted erased at 0xFF. -/
  flash : List Host.Cell := []
  /-- The staging buffer (R397). -/
  staging : List Host.Cell := []
  /-- Update session: operation in hand, its slot offset. -/
  op : Option FlashOp := none
  /-- The key store (R390). -/
  keys : List (Nat × Option KeyEntry) := []
  /-- Fused root-key digests (R387). -/
  root0 : BitVec 384 := 0
  root1 : BitVec 384 := 0
  /-- Import key derivation disabled by RETURN (R389). -/
  importOff : Bool := false
  duk : Nat := 0
  /-- First write of a lifecycle command: value and instant in device ticks (R388). -/
  lcArmed : Option (Nat × Nat) := none
  /-- Consecutive failures of each noise source (R395). -/
  srcFails : Nat × Nat := (0, 0)
  /-- Generate requests since the last seeding (R396), and its instant in device ticks. -/
  drbgReqs : Nat := 0
  seededAt : Nat := 0
  /-- The device has been in WARMUP or later since this instant, in device ticks (R380). -/
  upSince : Nat := 0
  deriving DecidableEq, Repr

/-- What the part sends on one of its interfaces. -/
inductive Output where
  /-- A port starts or stops to send remote-fault ordered sets (R161). -/
  | remoteFault (p : Nat) (on : Bool)
  /-- The bytes of a transaction on the front-end control SPI (R123), and the duty of an AGC PWM output (R124). -/
  | frontEnd (bytes : List Byte)
  | agc (m duty : Nat)
  /-- The command byte of an accelerometer read (R53). -/
  | accRead (cmd : Byte)
  /-- An edge pair of output `n`: at instant `t` it goes to level `lead`, and `width` ns later back (R109, R110, R112). -/
  | edge (n t : Nat) (lead : Bool) (width : Nat)
  /-- A TOD message on TODk_TX (R114, R115). -/
  | tod (k : Nat) (bytes : List Byte)
  /-- A frame on port `p`, FCS included, that left with launch instant `t` (R191). -/
  | frame (p : Nat) (bytes : List Byte) (t : Nat)
  /-- A frame that an underrun ended (R176). -/
  | cut (p : Nat) (bytes : List Byte) (t : Nat)
  /-- What the TLS layer of an NTS-KE connection says in the frames it sends: a refusal, a HelloRetryRequest for a group, a handshake
  with chain, cipher suite, group and signature scheme, an alert, records followed by close_notify, and close_notify alone
  (R255 to R259). -/
  | keRst (p conn : Nat)
  | keRetry (conn group : Nat)
  | keHandshake (conn chain suite group scheme : Nat)
  | keAlert (conn code : Nat)
  | keRecords (conn : Nat) (bytes : List Byte)
  | keClose (conn : Nat)
  /-- A message on the lanes of the Adern link given as a mask, and a time-transfer marker on a lane (R347, R366). -/
  | adern (lanes : Nat) (bytes : List Byte)
  | marker (lane t : Nat)
  /-- A heartbeat pulse of a width in us (R349). -/
  | heartbeat (width : Nat)
  /-- Bytes on SPT_MISO (R405). -/
  | spi (bytes : List Byte)
  /-- An AVSBus write of a target in mV, and a Status read (R464). -/
  | avsWrite (mv : Nat)
  | avsStatus
  deriving DecidableEq, Repr

/-- Why the machine stops with a fault: no command of this part raises one (R12, R13: it reports by events). -/
inductive Fault where
  /-- Raised by no command; it stands so that the type has a name for a stop. Safe. -/
  | none
  deriving DecidableEq, Repr

/-- Why the model refuses a command. -/
inductive Refusal where
  /-- The command has no meaning in this model yet; raised by the arms of `exec` that say so. Safe. -/
  | notModelled (mnemonic : String)
  deriving DecidableEq, Repr

/-- The state of the part. -/
structure State where
  mode : Mode := .off
  /-- SAFE was entered from BOOT (R23). -/
  safeFromBoot : Bool := false
  /-- The register file: each field's difference from its reset value, by address and low bit. -/
  rf : List (Nat × Nat) := []
  bk : Backup := {}
  pw : Pw := {}
  tb : Tb := {}
  tdc : Tdc := {}
  sel : Sel := {}
  outs : Outs := {}
  gn : Gn := {}
  mac : Mac := {}
  ts : Stamps := {}
  fab : Fab := {}
  ntp : Ntp := {}
  ptp : Ptp := {}
  rt : Rt := {}
  tsl : Tsl := {}
  bist : Bist := {}
  perf : Perf := {}
  jtag : Jtag := {}
  lease : Lease := {}
  boot : Boot := {}
  mg : Mg := {}
  /-- What the part has sent on its interfaces, newest first: the model's own record (DESIGN CHOICE notes/assumptions/2.md). -/
  out : List Output := []
  /-- How many free values have been drawn: the model's own counter (DESIGN CHOICE notes/assumptions/3.md). -/
  free : Nat := 0
  /-- The commands that wait, first in, first out. -/
  pending : List Instr := []
  deriving DecidableEq, Repr

/-- The machine right after reset: the AON domain has just risen and the device is in BACKUP (R24 row 2). -/
def State.reset : State := { mode := .backup }

end Sys2Proof.Machine
end

