-- ==== Sys2Proof/Machine/Ops.lean ====
section
/-! DEFINITION. The named operations every meaning is written over: register fields, instants, events and alarms,
the clamp log, and free values. -/
namespace Sys2Proof.Machine

/-- What a step answers. -/
abbrev Out := Host.Outcome State Fault Refusal

/-! ### Register fields (R9 to R11) -/

/-- The key of a field in the register file. -/
def Field.key (F : Field) : Nat := F.addr * 32 + F.lo

/-- The width of a field in bits. -/
def Field.width (F : Field) : Nat := F.hi - F.lo + 1

/-- The value of a field. The register file holds each field as its difference (exclusive or) from its reset
value, so that a field at its reset value is not listed. -/
def RegView.get (v : RegView) (F : Field) : Nat := (SMap.get 0 v.rf F.key) ^^^ F.reset

/-- The value of a field of the state. -/
def State.get (s : State) (F : Field) : Nat := (SMap.get 0 s.rf F.key) ^^^ F.reset

/-- Set a field, truncated to its width. -/
def State.set (s : State) (F : Field) (v : Nat) : State :=
  { s with rf := SMap.set 0 s.rf F.key ((v % 2 ^ F.width) ^^^ F.reset) }

/-- The field is 1. -/
def State.is (s : State) (F : Field) : Bool := s.get F == 1

/-- Set a one-bit field. -/
def State.setb (s : State) (F : Field) (b : Bool) : State := s.set F (if b then 1 else 0)

/-- A value of `w` bits read as two's complement. -/
def toSigned (w v : Nat) : Int := if v < 2 ^ (w - 1) then (v : Int) else (v : Int) - 2 ^ w

/-- An integer as `w` bits of two's complement. -/
def ofSigned (w : Nat) (i : Int) : Nat := (i % (2 ^ w : Int)).toNat

/-- An integer saturated to the signed range of `w` bits. -/
def satSigned (w : Nat) (i : Int) : Int := max (-(2 ^ (w - 1) : Int)) (min i (2 ^ (w - 1) - 1))

/-- A number saturated at `w` bits. -/
def satU (w v : Nat) : Nat := min v (2 ^ w - 1)

/-- The signed value of a field. -/
def State.geti (s : State) (F : Field) : Int := toSigned F.width (s.get F)

/-- Set a field to a signed value, saturating. -/
def State.seti (s : State) (F : Field) (i : Int) : State := s.set F (ofSigned F.width (satSigned F.width i))

/-- Set a field, saturating at its largest value. -/
def State.setSat (s : State) (F : Field) (v : Nat) : State := s.set F (satU F.width v)

/-- Add to a saturating counter. -/
def State.bump (s : State) (F : Field) (n : Nat) : State := s.setSat F (s.get F + n)

/-- Clear a field to its reset value. -/
def State.clr (s : State) (F : Field) : State := s.set F F.reset

/-! ### Updating one block's part of the state -/

def State.onTb (s : State) (f : Tb → Tb) : State := { s with tb := f s.tb }
def State.onTdc (s : State) (f : Tdc → Tdc) : State := { s with tdc := f s.tdc }
def State.onSel (s : State) (f : Sel → Sel) : State := { s with sel := f s.sel }
def State.onOuts (s : State) (f : Outs → Outs) : State := { s with outs := f s.outs }
def State.onLease (s : State) (f : Lease → Lease) : State := { s with lease := f s.lease }
def State.onBoot (s : State) (f : Boot → Boot) : State := { s with boot := f s.boot }
def State.onMg (s : State) (f : Mg → Mg) : State := { s with mg := f s.mg }
def State.onPw (s : State) (f : Pw → Pw) : State := { s with pw := f s.pw }
def State.onBk (s : State) (f : Backup → Backup) : State := { s with bk := f s.bk }

def State.onMac (s : State) (f : Mac → Mac) : State := { s with mac := f s.mac }
def State.onTs (s : State) (f : Stamps → Stamps) : State := { s with ts := f s.ts }
def State.onGn (s : State) (f : Gn → Gn) : State := { s with gn := f s.gn }
def State.onRt (s : State) (f : Rt → Rt) : State := { s with rt := f s.rt }
def State.onTsl (s : State) (f : Tsl → Tsl) : State := { s with tsl := f s.tsl }
def State.onBist (s : State) (f : Bist → Bist) : State := { s with bist := f s.bist }
def State.onPerf (s : State) (f : Perf → Perf) : State := { s with perf := f s.perf }
def State.onJtag (s : State) (f : Jtag → Jtag) : State := { s with jtag := f s.jtag }

/-- Count a performance event (R442 to R446): tile event `e` of cluster `c`, port event `e` of port `p`. -/
def State.perfEv (s : State) (e c n : Nat) : State :=
  s.onPerf fun p => { p with raw := SMap.set 0 p.raw (32 * e + c) (SMap.get 0 p.raw (32 * e + c) + n) }
def State.portEv (s : State) (e p n : Nat) : State := s.perfEv (512 + e) p n

def State.onFab (s : State) (f : Fab → Fab) : State := { s with fab := f s.fab }
def State.onNtp (s : State) (f : Ntp → Ntp) : State := { s with ntp := f s.ntp }
def State.onPtp (s : State) (f : Ptp → Ptp) : State := { s with ptp := f s.ptp }
def State.onMode (s : State) (m : Mode) : State := { s with mode := m }
def State.onSafe (s : State) (b : Bool) : State := { s with safeFromBoot := b }

/-- The registers from address `a` on, `n` bytes of them, return to their reset values. -/
def State.clearRegs (s : State) (a n : Nat) : State := { s with rf := SMap.clearRange s.rf (a * 32) (n * 32) }

/-- Only the register fields that `p` names keep their values. -/
def State.keepRegs (s : State) (p : Nat × Nat → Bool) : State := { s with rf := s.rf.filter p }

/-! ### Instants -/

/-- One second and one millisecond, microsecond and nanosecond in instants' units of 2^-16 ns. -/
def ns1 : Nat := 65536
def us1 : Nat := 1000 * ns1
def ms1 : Nat := 1000 * us1
def sec1 : Nat := 1000 * ms1

/-- The seconds, nanoseconds and sub-nanoseconds of an instant (R5). -/
def instSec (t : Nat) : Nat := t / sec1
def instNsec (t : Nat) : Nat := t % sec1 / ns1
def instSub (t : Nat) : Nat := t % ns1

/-- The full timestamp of an instant (R5). -/
def instFull (t : Nat) : Nat := (instSec t % 2 ^ 48) * 2 ^ 48 + instNsec t * 2 ^ 16 + instSub t

/-- Word `i` of a full timestamp (R6). -/
def instWord (t i : Nat) : Nat := instFull t / 2 ^ (32 * i) % 2 ^ 32

/-- The compact timestamp (R7). -/
def instCompact (t : Nat) : Nat := (instSec t * 1000000000 + instNsec t) % 2 ^ 32

/-- Write an instant to three words (R6). -/
def State.setTs (s : State) (F : Nat → Field) (t : Nat) : State :=
  ((s.set (F 0) (instWord t 0)).set (F 1) (instWord t 1)).set (F 2) (instWord t 2)

/-- Read an instant from three words. -/
def State.getTs (s : State) (F : Nat → Field) : Nat :=
  let full := s.get (F 0) + s.get (F 1) * 2 ^ 32 + s.get (F 2) * 2 ^ 64
  (full / 2 ^ 48) * sec1 + full % 2 ^ 48

/-- Write a 64-bit value to a low and a high word. -/
def State.set64 (s : State) (lo hi : Field) (v : Nat) : State := (s.set lo v).set hi (v / 2 ^ 32)

/-- Read a 64-bit value from a low and a high word. -/
def State.get64 (s : State) (lo hi : Field) : Nat := s.get lo + s.get hi * 2 ^ 32

/-- The count of a counter copy in 2^-40 ns. -/
def TbCount.total (c : TbCount) : Nat := (c.sec * 1000000000 + c.nsec) * 2 ^ 40 + c.frac

/-- The counter that holds a count (R35). -/
def TbCount.ofTotal (n : Nat) : TbCount :=
  { sec := n / 2 ^ 40 / 1000000000 % 2 ^ 48, nsec := n / 2 ^ 40 % 1000000000, frac := n % 2 ^ 40 }

/-- A counter's bits as one number, for the vote (R37). -/
def TbCount.bits (c : TbCount) : Nat := c.sec * 2 ^ 72 + c.nsec * 2 ^ 40 + c.frac

/-- The counter of a number of bits. -/
def TbCount.ofBits (n : Nat) : TbCount :=
  { sec := n / 2 ^ 72, nsec := n / 2 ^ 40 % 2 ^ 32, frac := n % 2 ^ 40 }

/-- The bit-by-bit majority of three numbers. -/
def majority (a b c : Nat) : Nat := (a &&& b) ||| (a &&& c) ||| (b &&& c)

/-- The voted master (R37): with a failed copy, the lower-numbered copy of the remaining two. -/
def State.master (s : State) : TbCount :=
  if s.is TB_STATUS_COPYFAIL then
    (if s.get TB_STATUS_FAILEDCOPY = 0 then s.tb.c1 else s.tb.c0)
  else TbCount.ofBits (majority s.tb.c0.bits s.tb.c1.bits s.tb.c2.bits)

/-- The present TB instant, in 2^-16 ns. -/
def State.now (s : State) : Nat := s.master.total / 2 ^ 24

/-! ### Free values -/

/-- The next free value of the spec's open points, and the state that has used it. -/
def State.draw (s : State) : Nat := Config.freeValue s.free
def State.drawn (s : State) : State := { s with free := s.free + 1 }
def State.drawnBy (s : State) (n : Nat) : State := { s with free := s.free + n }

/-- The next DRBG output of `bits` bits (R396), and the state that has used it. -/
def State.random (s : State) (bits : Nat) : Nat := Config.drbg s.free % 2 ^ bits

/-! ### Events, alarms and IRQ sources (R423 to R425) -/

/-- The log runs: not in OFF and BACKUP. -/
def State.logs (s : State) : Bool := s.mode ≠ .off && s.mode ≠ .backup

/-- Set an edge source of SYS_IRQSTAT (R425). -/
def State.irq (s : State) (bit : Nat) : State :=
  s.set SYS_IRQSTAT_SRC (s.get SYS_IRQSTAT_SRC ||| 2 ^ bit)

/-- Note an event that is logged at most once per TB second, with its count and last argument. The key is the event
code plus 65,536 times the instance. -/
def State.noteSec (s : State) (code arg : Nat) : State :=
  let n := (SMap.get (0, 0) s.mg.secEvents code).1 + 1
  (s.onMg fun b => { b with secEvents := SMap.set (0, 0) s.mg.secEvents code (n, arg) })

/-- Put an event in its source's buffer of 16, or count it lost (R423). -/
def State.queueEvent (s : State) (code sev arg : Nat) : State :=
  let src := code / 256
  let q := SMap.get [] s.mg.evPending src
  if q.length < 16 then
    (s.onMg fun b => { b with
        evPending := SMap.set [] s.mg.evPending src (q ++ [⟨code, sev, arg % 2 ^ 32, s.now⟩]) })
  else
    let s' := (s.bump SYS_EVTDROP_DROP 1).noteSec (0x0126 + 65536 * src) src
    (s'.onMg fun b => { b with evLost := SMap.set 0 s'.mg.evLost src (SMap.get 0 s'.mg.evLost src + 1) })

/-- The place of a condition in the alarm list: CRITICAL first, oldest first within a severity (R424). -/
def insertAlarm (a : Alarm) : List Alarm → List Alarm
  | [] => [a]
  | b :: t => if b.sev < a.sev then a :: b :: t else b :: insertAlarm a t

/-- Start a condition (R424). -/
def State.addAlarm (s : State) (code sev key : Nat) (ackable : Bool) : State :=
  (s.onMg fun b => { b with alarms := insertAlarm ⟨sev, code, ackable, s.now, key⟩ s.mg.alarms }).irq 1

/-- Raise an event: a MAJOR or CRITICAL one starts a condition that the host acknowledges (R424). -/
def State.event (s : State) (code sev arg : Nat) : State :=
  if s.logs then
    let s := s.queueEvent code sev arg
    if sev ≥ 2 then s.addAlarm code sev 0 true else s
  else s

/-- Whether a condition that its chapter raises and clears is active. -/
def State.hasCond (s : State) (code key : Nat) : Bool :=
  s.mg.alarms.any fun a => a.code == code && a.key == key && !a.ackable

/-- Raise a condition that lasts until its chapter clears it (R424). -/
def State.raiseCond (s : State) (code sev arg key : Nat) : State :=
  if s.logs then
    let s' := s.queueEvent code sev arg
    if s.hasCond code key then s' else s'.addAlarm code sev key false
  else s

/-- Clear such a condition. -/
def State.clearCond (s : State) (code key : Nat) : State :=
  if s.hasCond code key then
    (s.onMg fun b => { b with
        alarms := s.mg.alarms.filter fun a => !(a.code == code && a.key == key && !a.ackable) }).irq 1
  else s

/-- Append an entry to CFG_CLAMPLOG (R383): address, value supplied, value in force, source. -/
def State.clampLog (s : State) (addr written effective source : Nat) : State :=
  let k := s.mg.clampSeq + 1
  let j := k % 256
  let s := (s.onMg fun b => { b with clampSeq := k })
  ((((((s.bump CFG_CLAMPCNT_COUNT 1).set (CFG_CLAMPLOG_ADDR j) addr).set (CFG_CLAMPLOG_WRITTEN j) written).set
    (CFG_CLAMPLOG_EFFECTIVE j) effective).set (CFG_CLAMPLOG_SOURCE j) source).set (CFG_CLAMPLOG_SEQ j) k)

/-- Repeat an action over the numbers below `n`. -/
def State.forEach (s : State) (n : Nat) (f : State → Nat → State) : State := (List.range n).foldl f s

/-- Emit an output of the part on one of its interfaces. -/
def State.emit (s : State) (o : Output) : State := { s with out := o :: s.out }

/-- A temperature sensor reads `t`: its register and its maximum (R470). -/
def State.tempTake (s : State) (i : Nat) (t : Int) : State :=
  (s.seti (PM_TEMP_NOW i) t).seti (PM_TEMP_MAX i) (max (s.geti (PM_TEMP_MAX i)) t)

end Sys2Proof.Machine
end

