-- ==== Sys2Proof/Machine/SelfTest.lean ====
section
/-! DEFINITION. Campion's units, golden values and results (spec/16_campion_self_test.md R431, R435 to R437). -/
namespace Sys2Proof.Machine

/-- The type of unit `u` (R431): cluster 0, Teasel engine 1, key store 2, control processor 3, store slice 4, quad 5, TDC
channel 6, vote checker 7, replica 8; none names no unit. -/
def unitType (u : Nat) : Option Nat :=
  if u < 32 then some 0 else if u < 48 then some 1 else if u = 48 then some 2 else if u < 54 then some 3 else if u < 58 then some 4
  else if u < 62 then some 5 else if u < 64 then none else if u < 96 then some 6 else if u = 96 then some 7 else if u < 101 then some 8
  else none

/-- A gated unit. -/
def unitGated (u : Nat) : Bool := u < 62

/-- The boot ROM's pattern count of a type (R431). -/
def romCount : Nat → Nat
  | 0 => 1310720
  | 1 => 524288
  | 2 => 262144
  | 3 => 2097152
  | 4 => 1376256
  | 5 => 786432
  | 6 => 1048576
  | 7 => 65536
  | _ => 9765625

/-- The image's GOLDEN entry of a type, if any (R435): count and signature. -/
def State.goldenEntry (s : State) (ty : Nat) : Option (Nat × Nat) := (s.bist.golden.find? (·.1 == ty)).map (·.2)

/-- The programmed count and the golden signature of a unit type. -/
def State.progCount (s : State) (ty : Nat) : Nat := (s.goldenEntry ty).elim (romCount ty) (·.1)
def State.goldenOf (s : State) (ty : Nat) : Nat := (s.goldenEntry ty).elim (Config.golden ty).toNat (·.2)

/-- The test of a kind that runs. -/
def State.bistRun (s : State) (gated : Bool) : Option BistRun := if gated then s.bist.gated else s.bist.open_

/-- Unit `u` is under test. -/
def State.underTest (s : State) (u : Nat) : Bool := (s.bistRun (unitGated u)).any (·.u == u)

/-- The running test of a kind, and what BIST_STATUS says of it. -/
def State.setRun (s : State) (gated : Bool) (r : Option BistRun) : State :=
  if gated then
    ((s.onBist fun b => { b with gated := r }).setb BIST_STATUS_GBUSY r.isSome).set BIST_STATUS_GUNIT (r.elim (s.get BIST_STATUS_GUNIT) (·.u))
  else
    ((s.onBist fun b => { b with open_ := r }).setb BIST_STATUS_OBUSY r.isSome).set BIST_STATUS_OUNIT (r.elim (s.get BIST_STATUS_OUNIT) (·.u))

/-- The offset measured of replica `n` while it is under test (R439). -/
def State.bistOffset (s : State) (n : Nat) (o : Int) : State :=
  if s.underTest (97 + n) then s.onBist fun b => { b with open_ := b.open_.map fun r => { r with worst := max r.worst o.natAbs } } else s

/-- Both sequence words of a result block (R441). -/
def State.bistSeq (s : State) (u : Nat) : State :=
  let n := s.get (BIST_RESULT_SEQA u) + 1
  (s.set (BIST_RESULT_SEQB u) n).set (BIST_RESULT_SEQA u) n

/-- The FAIL flag of a unit, in its result block and in the map. -/
def State.setFailFlag (s : State) (u : Nat) (b : Bool) : State :=
  let F := BIST_FAILMAP_FAIL (u / 32)
  let v := s.get F
  let m := 2 ^ (u % 32)
  (s.setb (BIST_RESULT_FAIL u) b).set F (if b then v ||| m else v - v / m % 2 * m)

/-- A test ends with a result of R436: 2 PASS, 3 FAIL, 4 INCOMPLETE with its cause; signature and count. -/
def State.bistResult (s : State) (u result cause count sig : Nat) : State :=
  let s := (((s.set (BIST_RESULT_RESULT u) result).set (BIST_RESULT_CAUSE u) cause).set (BIST_RESULT_COUNT u) count).set64
    (BIST_RESULT_SIG_LO u) (BIST_RESULT_SIG_HI u) sig
  let s := ((s.setTs (BIST_RESULT_END u) s.now).bistSeq u).setRun (unitGated u) none
  match result with
  | 2 => (s.setFailFlag u false).event 0x6002 0 u
  | 3 => (s.setFailFlag u true).event 0x6003 1 (u + s.get (BIST_RESULT_GOLDSRC u) * 2 ^ 8)
  | _ => s.event 0x6004 1 (u + cause * 2 ^ 8)

/-- A test is cut short (R437): where the pattern counter stopped and what the register then holds is not stated
(DESIGN CHOICE notes/assumptions/18.md). -/
def State.bistCut (s : State) (u cause : Nat) : State :=
  let n := s.get (BIST_RESULT_PROG u)
  s.drawn.drawn.bistResult u 4 cause (s.draw % max 1 n) (s.drawn.draw % 2 ^ 64)

/-- A retirement asked for a unit under test waits for the end of the test (R438). -/
def State.retireAfter (s : State) : State := s.onBist fun b => { b with gated := b.gated.map fun r => { r with retire := true } }

end Sys2Proof.Machine
end

