-- ==== Sys2Proof/Machine/Count.lean ====
section
/-! DEFINITION. What time itself counts (spec/17_performance_telemetry.md R443, R445, R446): engine states, full
queues, pauses, low-power idle and Teasel slots. -/
namespace Sys2Proof.Machine

/-- Add to a count when there is something to add. -/
def State.perfAdd (s : State) (e c n : Nat) : State := if n = 0 then s else s.perfEv e c n

/-- Engine-nanoseconds of every engine in service over `b` instants of 8 ns (R443): an engine with a request is in the
state of its wait code, the others of the cluster are idle, code 11. -/
def State.countEngines (s : State) (b : Nat) : State :=
  if b = 0 then s
  else
    let busy := s.fab.engines.filter fun x => x.2.req.isSome
    let s := busy.foldl (fun s x => s.perfEv (0x10 + x.2.wait) (x.1 / 64) (8 * b)) s
    s.forEach 32 fun s c =>
      s.perfAdd 0x1B c (8 * b * (s.get (FAB_CL_ENGIN c) - (busy.filter fun x => x.1 / 64 == c).length))

/-- Nanoseconds of the ports with the pause timer non-zero, and in transmit LPI or waking, over `n` ticks (R446). -/
def State.countPorts (s : State) (n : Nat) : State :=
  s.mac.ports.foldl (fun s x =>
    let e := (x.2.pauseEnd + 99) / 100
    let s := s.perfAdd (512 + 0x0F) x.1 (min (s.tb.ticks + n) e - s.tb.ticks)
    if s.is (MAC_STATUS_TXLPI x.1) then s.portEv 0x10 x.1 n else s) s

/-- Release slots of 128 ticks in which the Teasel engines of a tile were busy, over `n` ticks (R445, code 0x50). -/
def State.countSlots (s : State) (n : Nat) : State :=
  let b := (s.tb.ticks + n) / 128 - s.tb.ticks / 128
  if b = 0 then s
  else s.forEach 16 fun s e => if (s.get TSL_STATUS_BUSY).testBit e then s.perfEv 0x50 (e / 4) b else s

/-- Everything `n` ticks count, with the counter at `total` of 2^-40 ns and `d` after them. -/
def State.countTicks (s : State) (total d n : Nat) : State :=
  let ns := fun t => t / 2 ^ 43
  let s := s.forEach 32 fun s c => if s.get (FAB_CL_DQLEVEL c) = 256 then s.perfEv 0x40 c n else s
  (((s.countEngines (ns (total + d) - ns total)).countPorts n).countSlots n)

end Sys2Proof.Machine
end

