-- ==== Sys2Proof/Machine/Dump.lean ====
section
/-! DEFINITION. Performance counters and the dump boundaries, which time passes (spec/17_performance_telemetry.md R442 to R450, R453,
R454). -/
namespace Sys2Proof.Machine

/-! ### Counters (R442 to R447) -/

/-- The selection in a PERF_SEL register. -/
def State.perfSel (s : State) (t n : Nat) : PerfSel :=
  { portEv := s.get (PERF_SEL_PORTEV t n), port := s.get (PERF_SEL_PORT t n), event := s.get (PERF_SEL_EVENT t n)
    mask := s.get (PERF_SEL_CLMASK t n) }

/-- The selection a counter counts under: the one before a staged write (R450). -/
def State.perfInForce (s : State) (t n : Nat) : PerfSel :=
  (SMap.get none s.perf.held (64 * t + n)).getD (s.perfSel t n)

/-- The total of an event in a cluster, tile or port since BOOT. -/
def State.rawEv (s : State) (e c : Nat) : Nat := SMap.get 0 s.perf.raw (32 * e + c)

/-- A tile event over the clusters a mask selects; Teasel events take no mask (R445). -/
def State.tileEv (s : State) (t e mask : Nat) : Nat :=
  if e = 0x50 ∨ e = 0x51 then s.rawEv e t
  else (List.range 8).foldl (fun n j => if mask.testBit j then n + s.rawEv e (8 * t + j) else n) 0

/-- The total of a selection since BOOT. -/
def State.selTotal (s : State) (t : Nat) (x : PerfSel) : Nat :=
  if x.portEv = 1 then s.rawEv (512 + x.event) (8 * t + x.port) else s.tileEv t x.event x.mask

/-- The event of fixed counter `f` (R447). -/
def fixedEvent (f : Nat) : Nat :=
  if f = 1 then 0x01
  else if f < 14 then 0x10 + (f - 2)
  else if f < 22 then 0x20 + (f - 14)
  else if f < 28 then 0x30 + (f - 22)
  else if f = 28 then 0x40
  else 0x50 + (f - 29)

/-- Fixed counter `f` of a tile (R447). -/
def State.fixedTotal (s : State) (t f : Nat) : Nat :=
  if f = 0 then s.tb.ticks - s.fab.bootTicks
  else if f = 31 then (List.range 8).foldl (fun n j => n + s.rawEv (512 + 0x0A) (8 * t + j)) 0
  else s.tileEv t (fixedEvent f) 0xFF

/-- Counter `i` of a tile since it was last zeroed, before it wraps: P0 to P63, then F0 to F31. -/
def State.perfCount (s : State) (t i : Nat) : Nat :=
  if i < 64 then s.selTotal t (s.perfInForce t i) - SMap.get 0 s.perf.base (64 * t + i) else s.fixedTotal t (i - 64)

/-- The key of a counter's count at the last boundary. -/
def lastKey (t i : Nat) : Nat := if i < 64 then 64 * t + i else 256 + 32 * t + (i - 64)

/-- The counter wrapped at 2^48 since the last boundary (R442). -/
def State.perfWrapped (s : State) (t i : Nat) : Bool :=
  s.perfCount t i / 2 ^ 48 ≠ SMap.get 0 s.perf.last (lastKey t i) / 2 ^ 48

/-- The two words of a counter's entry in a dump record (R451). -/
def State.perfEntry (s : State) (t i : Nat) : List Nat :=
  let v := s.perfCount t i % 2 ^ 48
  let x := s.perfInForce t i
  let sel := if i < 64 then (if s.perf.fresh.contains (64 * t + i) then 2 ^ 30 else 0) + x.portEv * 2 ^ 29 + x.event * 2 ^ 16 else 0
  [v % 2 ^ 32, (if s.perfWrapped t i then 2 ^ 31 else 0) + sel + v / 2 ^ 32]

/-- The entry words of all four tiles. -/
def State.perfWords (s : State) : List Nat :=
  (List.range 4).flatMap fun t => (List.range 96).flatMap fun i => s.perfEntry t i

/-! ### Dump boundaries (R448, R449, R453, R454) -/

/-- The number of the dump interval an instant in ns lies in. -/
def State.dumpIndex (s : State) (ns : Nat) : Nat := ns / (s.perf.period * 1000000)

/-- The staged selections take effect: each changed counter is zeroed (R450). -/
def State.applySels (s : State) : State :=
  let keys := (List.range 256).filter fun k => (SMap.get none s.perf.held k).isSome
  let changed := keys.filter fun k => (SMap.get none s.perf.held k) ≠ some (s.perfSel (k / 64) (k % 64))
  let s := keys.foldl (fun s k => s.set (PERF_SEL_PEND (k / 64) (k % 64)) 0) s
  let s := s.onPerf fun p => { p with held := [], fresh := changed }
  let s := changed.foldl (fun s k =>
    s.onPerf fun p => { p with base := SMap.set 0 p.base k (s.selTotal (k / 64) (s.perfSel (k / 64) (k % 64))) }) s
  if changed = [] then s
  else
    let tiles := (List.range 4).foldl (fun m t => if changed.any (fun k => k / 64 == t) then m + 2 ^ t else m) 0
    s.event 0x6801 0 (min changed.length 255 + tiles * 2 ^ 8)

/-- The counts at this boundary, for the wrap bit of the next record. -/
def State.keepCounts (s : State) : State :=
  s.forEach 4 fun s t => s.forEach 96 fun s i =>
    s.onPerf fun p => { p with last := SMap.set 0 p.last (lastKey t i) (s.perfCount t i) }

/-- The sampling configuration takes effect; a change restarts the tile counts (R454). -/
def State.applySampling (s : State) : State :=
  let e := s.get PERF_SAMPCFG_EN
  let k := s.get PERF_SAMPCFG_PART
  let n := s.get PERF_SAMPCFG_NEXP
  if e = s.perf.sampEn ∧ k = s.perf.sampPart ∧ n = s.perf.sampExp then s
  else s.onPerf fun p => { p with sampEn := e, sampPart := k, sampExp := n, counts := [] }

/-- Telemetry frames not accepted since the last dump are discarded (R453). -/
def State.dropTelemetry (s : State) : State :=
  let n := (List.range 32).foldl (fun n p => n + (SMap.get [] s.fab.lanes (1024 + p)).length) 0
  if n = 0 then s
  else
    let s := s.onFab fun f => { f with lanes := SMap.clearRange f.lanes 1024 32, credits := SMap.clearRange f.credits 1024 32 }
    (s.bump PERF_TXSTAT_DROP n).forEach n fun s _ => s.noteSec 0x6803 0

/-- A boundary: every counter is latched, then what is staged takes effect. -/
def State.dumpAt (s : State) : State :=
  let p := s.perf
  let bank : DumpBank := { num := p.records + p.banks.length + 1, time := s.now, step := s.tb.steps ≠ p.steps, selChg := p.fresh ≠ [], period := p.period
                           words := s.perfWords }
  let en := s.is PERF_DUMPCFG_EN
  let s := s.dropTelemetry
  let s := s.onPerf fun p => { p with banks := if en then p.banks ++ [bank] else p.banks }
  let s := (s.applySels.keepCounts).applySampling
  s.onPerf fun p => { p with period := s.get PERF_DUMPCFG_PERIOD, steps := s.tb.steps, at_ := s.now / ns1 }

/-- The present value in ns. -/
def State.nowNs (s : State) : Nat := s.now / ns1

/-- A boundary has come since the last one latched (R448). -/
def State.dumpDue (s : State) : Bool := s.perf.period ≠ 0 && decide (s.dumpIndex s.perf.at_ < s.dumpIndex s.nowNs)

/-- The TB value in ns of the next boundary. -/
def State.dumpNext (s : State) : Nat := (s.dumpIndex s.nowNs + 1) * s.perf.period * 1000000

/-- A boundary within a second is latched at its tick; one at a second boundary, after the step that applies there (R448). -/
def State.dumpWithin (s : State) : State := if s.dumpDue && decide (1000 ≤ instNsec s.now) then s.dumpAt else s
def State.dumpSecond (s : State) : State := if s.dumpDue then s.dumpAt else s

end Sys2Proof.Machine
end

