-- ==== Sys2Proof/Machine/Time.lean ====
section
/-! DEFINITION. The Time Base (spec/02_time_base.md): counter, increment, slews and steps, UTC, replicas, warm-up,
feed-forward and seeding. -/
namespace Sys2Proof.Machine

/-! ### Advancing the counter -/

/-- Whether a path may write TB_INCR and the TB_STEP registers (R40). -/
def State.steers (s : State) : Path → Bool
  | .cp _ => !s.is TB_CTL_HOSTSTEER
  | _ => s.is TB_CTL_HOSTSTEER

/-- A steering write from the wrong path is ignored, and logged when it comes from the host (R40). -/
def State.steerRefused (s : State) (path : Path) (offset : Nat) : State :=
  match path with
  | .cp _ => s
  | _ => s.event 0x030B 1 offset

/-- The limits of the increment, in 2^-40 ns (R38). -/
def incrMin : Nat := 2 ^ 40 - 109951162
def incrMax : Nat := 2 ^ 40 + 109951162

/-- An increment replaced by the nearer limit (R38). -/
def clampIncr (i : Int) : Nat := (max (incrMin : Int) (min i incrMax)).toNat

/-- The effective increment (R38). -/
def State.effIncr (s : State) : Nat := clampIncr (s.tb.incr + s.tb.gcomp)

/-- TB_EFFINCR and SLEWLIM follow the increment in force (R38). -/
def State.showIncr (s : State) : State :=
  let e := s.effIncr
  ((s.set TB_EFFINCR_LO_FRACLO e).set TB_EFFINCR_HI_INTFRAC (e / 2 ^ 32)).setb TB_STATUS_SLEWLIM
    (e == incrMin || e == incrMax)

/-- A counter some ticks later. -/
def TbCount.add (c : TbCount) (d : Nat) : TbCount := TbCount.ofTotal (c.total + d)

/-- The counters `n` ticks later, at the increment in force (R35, R48). -/
def State.ticksPlain (s : State) (n : Nat) : State :=
  let d := n * s.effIncr
  (s.countTicks s.master.total d n).onTb fun t => { t with
    c0 := t.c0.add d, c1 := t.c1.add d, c2 := t.c2.add d, reps := t.reps.map (·.add d)
    ticks := t.ticks + n, lastAdd := if n = 0 then t.lastAdd else s.effIncr, excess := t.excess + n * ((s.effIncr : Int) - 2 ^ 40) }

/-- Misalignment M_n of an output, in 2^-16 ns (R96). -/
def State.misalign (s : State) (n : Nat) : Int := toSigned 64 (s.get64 (OUT_MIS_LO n) (OUT_MIS_HI n))

/-- Write a signed 64-bit value. -/
def State.setI64 (s : State) (lo hi : Field) (v : Int) : State := s.set64 lo hi (ofSigned 64 (satSigned 64 v))

/-- Set M_n as one bracketed group (R74). -/
def State.setMisalign (s : State) (n : Nat) (m : Int) : State :=
  let q := s.get (OUT_MISSEQA n) + 1
  ((s.setI64 (OUT_MIS_LO n) (OUT_MIS_HI n) m).set (OUT_MISSEQB n) q).set (OUT_MISSEQA n) q

/-- Pulse and frame outputs keep M_n (R96); clock outputs read 0 (R111). -/
def State.pulsed (s : State) (n : Nat) : Bool := s.get (OUT_KIND n) ≠ 0

/-- Add to M_n of every pulse and frame output; newly misaligned outputs are logged together (R96, event 0x0601). -/
def State.addMisalign (s : State) (d : Int) : State :=
  let big (s : State) := (List.range 16).foldl
    (fun m n => if s.pulsed n && decide (ns1 < (s.misalign n).natAbs) then m + 2 ^ n else m) 0
  let before := big s
  let s' := s.forEach 16 fun s n => if s.pulsed n then s.setMisalign n (s.misalign n + d) else s
  let newly := big s' &&& (before ^^^ 0xFFFF)
  if newly = 0 then s' else s'.event 0x0601 1 newly

/-- The increment last committed, and its slew part (R39, R96). -/
def State.lastIncr (s : State) : Nat := (s.tb.incrQ.getLast?.map (·.incr)).getD s.tb.incr
def State.lastSlew (s : State) : Int := (s.tb.incrQ.getLast?.map (·.slew)).getD (s.geti SEL_SWSLEW_SLEW)

/-- Commit an increment that holds slew part `r`: it takes effect 64 ticks later (R39). -/
def State.commit (s : State) (i : Nat) (r : Int) : State :=
  ((((s.onTb fun b => { b with incrQ := b.incrQ ++ [⟨i, r, b.ticks + 64⟩] }).set TB_INCR_LO_FRACLO i).set TB_INCR_HI_FRACHI
    (i / 2 ^ 32)).set TB_INCR_HI_INT (i / 2 ^ 40))

/-- A commit of the firmware or the host that leaves the slew part as it is. -/
def State.commitIncr (s : State) (i : Nat) : State := s.commit i s.lastSlew

/-- The frequency part of the increment last committed (R41). -/
def State.freqPart (s : State) : Int := (s.lastIncr : Int) - s.lastSlew

/-- Account the slew part of `n` ticks to the transfer and to the outputs (R96): SEL_SWSLEW is the slew part of the increment
in force (DEDUCED notes/assumptions/48.md). -/
def State.slewed (s : State) (n : Nat) : State :=
  let r := s.geti SEL_SWSLEW_SLEW
  if r = 0 then s
  else
    let d := n * r
    let was := s.tb.slewSum
    let s := s.onTb fun b => { b with slewSum := was + d }
    let s := s.onSel fun b => { b with transfer := b.transfer.map fun t => if t.slew then { t with applied := t.applied + d } else t }
    if s.sel.transfer.any (·.first) then s else s.addMisalign ((was + d) / 2 ^ 24 - was / 2 ^ 24)

/-- Committed increments whose 64 ticks have passed take effect (R39), the newest last; with the write that ends a slew its
transfer is complete (R97). -/
def State.takeIncr (s : State) : State :=
  match (s.tb.incrQ.filter fun c => decide (c.due ≤ s.tb.ticks)).getLast? with
  | none => s
  | some c =>
    let s := (s.onTb fun b => { b with incr := c.incr, incrQ := b.incrQ.filter fun c => decide (b.ticks < c.due) }).seti SEL_SWSLEW_SLEW c.slew
    if c.slew = 0 ∧ (s.sel.transfer.any fun t => t.slew && t.ended) then
      (s.onSel fun b => { b with transfer := none }).set SEL_STATUS_SWPEND 0
    else s

/-- Corrections whose 64 ticks have passed take effect (R39). -/
def State.takeGcomp (s : State) : State :=
  match (s.tb.gcompQ.filter fun c => decide (c.2 ≤ s.tb.ticks)).getLast? with
  | none => s
  | some c => s.onTb fun b => { b with gcomp := c.1, gcompQ := b.gcompQ.filter fun c => decide (b.ticks < c.2) }

/-- The slew has run for the ticks it needs: the firmware writes the frequency part alone (R41), at that tick
(DESIGN CHOICE notes/assumptions/48.md). -/
def State.endSlew (s : State) : State :=
  match s.sel.transfer with
  | some t =>
    if t.endAt.any fun n => decide (n ≤ s.tb.ticks) then
      (s.commit (clampIncr s.freqPart) 0).onSel fun b => { b with transfer := some { t with endAt := none, ended := true } }
    else s
  | none => s

/-- The count at which the sync word of the next second boundary leaves, 5 us before it (R45), in 2^-40 ns. -/
def State.syncCount (s : State) : Nat := (s.master.sec * 1000000000 + 999995000) * 2 ^ 40

/-- The sync word leaves: it carries the pending step when that was armed at least 10 us before the boundary, and freezes it
(R43, R45, R48; DEDUCED notes/assumptions/9.md). -/
def State.sendSync (s : State) : State :=
  if s.tb.syncOut || decide (s.master.total < s.syncCount) then s
  else
    let due := s.tb.step.isSome && decide (s.tb.stepArmed + 10 * us1 ≤ (instSec s.now + 1) * sec1)
    let frozen := if due then s.tb.step else none
    s.onTb fun b => { b with
      frozen := frozen
      frozenFirst := match s.sel.transfer with
        | some x => x.first
        | none => !s.is SEL_STATUS_EVERACTIVE
      step := if due then none else b.step
      sync := some ⟨instSec s.now + 1, frozen, b.syncSeq⟩, syncSeq := b.syncSeq + 1, syncOut := true }

/-- What falls due at the present tick (R39, R41, R45, R449). -/
def State.fallDue (s : State) : State := s.dumpWithin.takeIncr.takeGcomp.endSlew.sendSync.showIncr

/-- The ticks to the next of these, at most `n`: a committed increment's effect, a correction's effect, the end of a slew,
the sync word, a dump boundary. -/
def State.nextDue (s : State) (n : Nat) : Nat :=
  let upTo := fun (o : Option Nat) (n : Nat) => match o with
    | some t => min n (t - s.tb.ticks)
    | none => n
  let a := upTo (s.tb.incrQ.head?.map (·.due)) n
  let b := upTo (s.tb.gcompQ.head?.map (·.2)) a
  let c := upTo (s.sel.transfer.bind (·.endAt)) b
  let d := if s.perf.period = 0 then c else min c (ceilDiv (s.dumpNext * 2 ^ 40 - s.master.total) s.effIncr)
  if s.tb.syncOut then d else min d (ceilDiv (s.syncCount - s.master.total) s.effIncr)

/-- More than the number of things that can fall due before a second boundary. -/
def State.dues (s : State) : Nat := s.tb.incrQ.length + s.tb.gcompQ.length + 4 + (1000 / s.perf.period + 1)

/-- The counters `n` ticks later, with what falls due at its own tick. -/
def State.advanceBy : Nat → State → Nat → State
  | 0, s, n => s.ticksPlain n
  | f + 1, s, n =>
    let m := s.nextDue n
    let s := ((s.ticksPlain m).slewed m).fallDue
    if m = n then s else State.advanceBy f s (n - m)

/-- The counters `n` ticks later. -/
def State.advance (s : State) (n : Nat) : State := if s.tb.running then State.advanceBy s.dues s n else s

/-- Advance to the first tick whose count reaches `c`, in 2^-40 ns, stretch by stretch of the increment. -/
def State.runTo : Nat → State → Nat → State
  | 0, s, _ => s
  | f + 1, s, c =>
    if c ≤ s.master.total then s
    else State.runTo f (s.advance (s.nextDue (ceilDiv (c - s.master.total) s.effIncr))) c

/-- Advance to the first tick whose count reaches `c`, in 2^-40 ns. -/
def State.runUntil (s : State) (c : Nat) : State := s.runTo (s.dues + 2) c

/-- The state at instant `t`: the present one when it has passed, else the one reached there; none when a second boundary
comes first, whose rules SECOND_BOUNDARY runs. -/
def State.reach (s : State) (t : Nat) : Option State :=
  if t ≤ s.now then some s
  else if !s.tb.running || decide ((instSec s.now + 1) * sec1 ≤ t) then none
  else
    let s' := s.runUntil (t * 2 ^ 24)
    if t ≤ s'.now ∧ instSec s'.now = instSec s.now then some s' else none

/-- The state at a count of device ticks, in the same way. -/
def State.reachTick (s : State) (n : Nat) : Option State :=
  if n ≤ s.tb.ticks then some s
  else if !s.tb.running || decide (2000000000 ≤ n - s.tb.ticks) then none
  else
    let s' := s.advance (n - s.tb.ticks)
    if instSec s'.now = instSec s.now then some s' else none

/-- The state at a count of device ticks; where the TB clock does not run to count them, when the row comes. -/
def State.reachClocked (s : State) (n : Nat) : Option State := if s.tb.running then s.reachTick n else some s

/-- One clock tick: of the TB clock while it runs, else of the 32,768 Hz backup oscillator (R57, R468); a tick that is a second
boundary waits for SECOND_BOUNDARY, which brings its measurements (DESIGN CHOICE notes/assumptions/1.md). -/
def State.tick (s : State) : State :=
  if s.tb.running then (s.reachTick (s.tb.ticks + 1)).getD s
  else if s.bk.powered then
    let n := s.bk.phase + 1
    (s.onBk fun b => { b with phase := n % 32768, sec := s.bk.sec + n / 32768 })
  else s

/-- The ticks to the next second boundary: the first tick whose sum reaches 1,000,000,000 ns (R35). -/
def State.toBoundary (s : State) : Nat :=
  let m := s.master
  max 1 (ceilDiv (1000000000 * 2 ^ 40 - (m.nsec * 2 ^ 40 + m.frac)) s.effIncr)

/-! ### Steps -/

/-- A counter with a step added, FRAC[23:0] unchanged; none when the sum is below zero (R43, R44). -/
def TbCount.step (c : TbCount) (d : Int) : Option TbCount :=
  let t := (c.total : Int) + d * 2 ^ 24
  if t < 0 then none else some (TbCount.ofTotal t.toNat)

/-- Move an instant with a TB step. -/
def moveInst (d : Int) (t : Nat) : Nat := ((t : Int) + d).toNat

/-- The lease instants move with a TB step (R358): the instants the rule names, and those the others derive from. -/
def Lease.move (l : Lease) (d : Int) : Lease :=
  let m := moveInst d
  { l with xEff := m l.xEff, xLocal := l.xLocal.map m, hLast := l.hLast.map m, relLocal := l.relLocal.map m, listenEnd := m l.listenEnd
           tTake := m l.tTake, rPrev := m l.rPrev, chosen := l.chosen.map m, lastRel := l.lastRel.map m, pStateAt := m l.pStateAt
           sent := l.sent.map fun x => { x with r := m x.r } }

/-- A step as the event argument: ns, saturated to 32 bits (R58). -/
def stepArg (d : Int) : Nat := ofSigned 32 (satSigned 32 (divRound d ns1))

/-- Instants of frames on their way move with a step at tick `n` (R192, R199). -/
def Mac.move (m : Mac) (n : Nat) (d : Int) : Mac :=
  { m with ports := m.ports.map fun x => (x.1, { x.2 with
      tx := x.2.tx.map fun i => { i with tB := if i.tick < n then i.tB else moveInst d i.tB, fin := moveInst d i.fin }
      freeAt := moveInst d x.2.freeAt, wakeEnd := x.2.wakeEnd.map (moveInst d), gateAt := x.2.gateAt.map (moveInst d) }) }

/-- Fold a difference into half a period on either side of 0. -/
def foldPer (p : Nat) (d : Int) : Int := d - p * ((2 * d + p) / (2 * p))

/-- The phase of a TYPE 0 or TYPE 1 input is folded into half its period (R83). -/
def State.foldPhase (s : State) (k : Nat) (f : Int) : Int :=
  if k < 16 ∧ s.get (SEL_SRC_TYPE k) ≤ 1 then foldPer ((s.get (SEL_SRC_TYPE k) + 1) * sec1) f else f

/-- A change to a source's read-back group, bracketed (R74). -/
def State.srcGroup (s : State) (k : Nat) (f : State → State) : State :=
  let q := s.get (SEL_SRC_SEQA k) + 1
  ((f s).set (SEL_SRC_SEQB k) q).set (SEL_SRC_SEQA k) q

/-- The bandwidth of a DPLL in mHz, by its code (R107). -/
def dpllBandwidth (bw : Nat) : Nat := if bw = 20 then 4000000 else [1, 2, 5].getD (bw % 3) 1 * 10 ^ (bw / 3)

/-- The phase error of a DPLL that tracks TB, in ps: what its loop has left of the steps and slews of TB and of the error it began
with (R107; DESIGN CHOICE notes/assumptions/51.md). -/
def State.dpllErr (s : State) (d : Nat) : Int :=
  let x := SMap.get {} s.outs.dplls d
  let moved := x.err + (s.tb.slewSum - x.slewAt) * 1000 / 2 ^ 40
  if moved = 0 then 0 else Config.dpllLoop (dpllBandwidth (s.get (DPLL_BW d))) moved (s.tb.ticks - x.errAt)

/-- A DPLL that tracks TB finds its phase error changed by `d` ps: it follows no step instantly (R107). -/
def State.dpllMoved (s : State) (d : Nat) (by_ : Int) : State :=
  if s.get (DPLL_INPUTNOW d) = 16 ∧ (s.get (DPLL_STATE d) = 1 ∨ s.get (DPLL_STATE d) = 2 ∨ s.get (DPLL_STATE d) = 4) then
    let e := s.dpllErr d + by_
    let x := { SMap.get {} s.outs.dplls d with err := e, errAt := s.tb.ticks, slewAt := s.tb.slewSum }
    (s.onOuts fun o => { o with dplls := SMap.set {} o.dplls d x }).seti (DPLL_PHERR d) e
  else s

/-- What TB has moved by, the phase of every source against it has lost, and instants kept on TB move with it; outputs keep their
own timing (R45, R83, R96, R107). -/
def State.followStep (s : State) (d : Int) (first : Bool) : State :=
  let m := moveInst d
  let s := s.forEach 20 fun s k =>
    if s.is (SEL_SRC_EN k) then
      s.srcGroup k fun s => s.setI64 (SEL_SRC_PHASE_LO k) (SEL_SRC_PHASE_HI k)
        (s.foldPhase k (toSigned 64 (s.get64 (SEL_SRC_PHASE_LO k) (SEL_SRC_PHASE_HI k)) - d))
    else s
  let s := s.onSel fun e => { e with srcs := e.srcs.map fun p => (p.1, { p.2 with edges := p.2.edges.map m }) }
  let s := s.onTdc fun t => { t with chans := t.chans.map fun p => (p.1, { p.2 with lastAt := p.2.lastAt.map m }) }
  let s := s.forEach 4 fun s k => s.dpllMoved k (divRound (d * 1000) 65536)
  s.onOuts fun o => { o with alignAt := m o.alignAt, outs := o.outs.map fun p =>
    (p.1, { p.2 with lastStart := p.2.lastStart.map m, from_ := p.2.from_.map m, ofsFrom := m p.2.ofsFrom
                     lastB := if first then none else p.2.lastB }) }

/-- The instants that PTP keeps on TB move with a step (DESIGN CHOICE notes/assumptions/58.md); what the calendar has issued does not
(R290), but its walk starts anew after a negative step. -/
def Ptp.move (x : Ptp) (d : Int) : Ptp :=
  let m := moveInst d
  { x with
    grantAt := x.grantAt.map fun p => (p.1, moveInst (d / ns1) p.2)
    peers := x.peers.map fun p => (p.1, { p.2 with t1 := p.2.t1.map m, half := p.2.half.map fun h => (h.1, m h.2.1, h.2.2) })
    syncWait := x.syncWait.map fun w => (w.1, m w.2.1, w.2.2)
    syncTerm := x.syncTerm.map (· + d)
    dreqAt := x.dreqAt.map m
    walked := if d < 0 then [] else x.walked }

/-- The openings of Roughtime batches move with a step, so that a window keeps its length (DESIGN CHOICE notes/assumptions/60.md). -/
def Rt.move (x : Rt) (d : Int) : Rt :=
  { x with opens := x.opens.map fun p => (p.1, p.2.map fun o => { o with from_ := moveInst d o.from_ }) }

/-- A frozen step applies to the master and the replicas at the boundary's tick (R43 to R45, R96, R358). -/
def State.applyStep (s : State) (d : Int) : State :=
  let z : TbCount := {}
  let under := (s.master.step d).isNone
  let f := fun c : TbCount => (c.step d).getD z
  let first := s.tb.frozenFirst
  let s := (s.onTb fun t =>
    { t with c0 := f t.c0, c1 := f t.c1, c2 := f t.c2, reps := t.reps.map f, frozen := none, steps := t.steps + 1, lastStep := some d
             stepArmed := moveInst d t.stepArmed }).onLease fun l => l.move d
  -- the dump boundaries and the evaluations of V_t after a negative step follow the new value (R448, R465)
  let s := (s.onPerf fun p => { p with at_ := min p.at_ (s.now / ns1) }).onPw fun p => { p with evalAt := min p.evalAt (s.now / ns1) }
  let s := (s.onMac fun m => m.move s.tb.ticks d).onTs fun t =>
    { t with grants := t.grants.map fun g => { g with tB := moveInst d g.tB } }
  let s := if under then s.event 0x0304 1 0 else s
  let s := (((s.event 0x0303 0 (stepArg d)).followStep d first).onPtp fun x => x.move d).onRt fun x => x.move d
  let s := s.onSel fun x => { x with lastStep := some s.now }
  let s := if first then s else s.addMisalign d
  if s.tb.step.isSome then s
  else
    let s := (s.set TB_STEPCTL_STATE 0).set TB_STATUS_STEPPEND 0
    match s.sel.transfer with
    | some x => if x.slew then s else
        (s.onSel fun x => { x with transfer := none }).set SEL_STATUS_SWPEND 0
    | none => s

/-- Arm a step (R43): it replaces a pending one. -/
def State.armStep (s : State) (d : Int) : State :=
  ((s.onTb fun b => { b with step := some d, stepArmed := s.now }).set TB_STEPCTL_STATE 1).set TB_STATUS_STEPPEND 1

/-- Discard a pending step that is not frozen (R43, R45). -/
def State.dropStep (s : State) : State :=
  let s := (s.onTb fun b => { b with step := none })
  if s.tb.frozen.isNone then (s.set TB_STEPCTL_STATE 0).set TB_STATUS_STEPPEND 0 else s

/-- The phase transfer in progress ends (R97): a pending step that can still be cancelled is cancelled. A frozen step applies at
its boundary, and its transfer lasts until then. -/
def State.cutTransfer (s : State) : State :=
  let s := if s.tb.step.isSome then s.dropStep else s
  match s.sel.transfer with
  | none => s
  | some t =>
    if !t.slew && s.tb.frozen.isSome then s
    else (s.onSel fun b => { b with transfer := none }).set SEL_STATUS_SWPEND 0

/-- Abandon the remainder of a phase transfer (R97): a step is cancelled if it can be, and the slew part set to 0. -/
def State.abandonTransfer (s : State) : State :=
  match s.sel.transfer with
  | none => s
  | some _ =>
    let s := s.cutTransfer
    if s.lastSlew = 0 then s else s.commit (clampIncr s.freqPart) 0

/-- The staged step (R42), its NSEC clamped: the signed value in 2^-16 ns. -/
def State.stagedStep (s : State) : Int :=
  let full := s.get (TB_STEP_STEP 0) + s.get (TB_STEP_STEP 1) * 2 ^ 32 + s.get (TB_STEP_STEP 2) * 2 ^ 64
  let mag : Nat := (full / 2 ^ 48 % 2 ^ 47) * sec1 + min (full / 2 ^ 16 % 2 ^ 32) 999999999 * ns1 + full % 2 ^ 16
  if full.testBit 95 then -(mag : Int) else (mag : Int)

/-- The NSEC clamp of ARM rewrites TB_STEP0 and TB_STEP1 and logs one clamp entry (R42). -/
def State.clampStaged (s : State) (src : Nat) : State :=
  let w0 := s.get (TB_STEP_STEP 0)
  let w1 := s.get (TB_STEP_STEP 1)
  let nsec := w0 / 2 ^ 16 + w1 % 2 ^ 16 * 2 ^ 16
  if nsec ≤ 999999999 then s
  else
    let n0 := 999999999 % 2 ^ 16 * 2 ^ 16 + w0 % 2 ^ 16
    let n1 := w1 / 2 ^ 16 * 2 ^ 16 + 999999999 / 2 ^ 16
    ((s.set (TB_STEP_STEP 0) n0).set (TB_STEP_STEP 1) n1).clampLog 0x30034 w1 n1 src

/-- The clamp log's source code of a path (CFG_CLAMPLOG.SOURCE). -/
def pathSource : Path → Nat
  | .cp _ => 4
  | .spi => 1
  | .omp => 2

/-! ### UTC (R46, R47) -/

/-- The argument of event 0x0306. -/
def State.utcArg (s : State) : Nat :=
  s.get TB_UTC_OFFSET + s.get TB_UTC_LEAP * 2 ^ 16 + s.get TB_UTC_SOURCE * 2 ^ 18

/-- TB_LEAPTIME. -/
def State.leapTime (s : State) : Nat := s.get TB_LEAPTIME0_SECLO + s.get TB_LEAPTIME1_SECHI * 2 ^ 32

/-- The seconds a leap code adds to TAI minus UTC. -/
def leapDelta (code : Nat) : Int := if code = 1 then 1 else if code = 2 then -1 else 0

/-- At the first tick with SEC at or after TB_LEAPTIME the leap takes effect (R47). -/
def State.applyLeap (s : State) : State :=
  if s.is TB_UTC_PENDING ∧ s.leapTime ≤ instSec s.now then
    let o := s.geti TB_UTC_OFFSET + leapDelta (s.get TB_UTC_LEAP)
    let s := s.onTb fun t => { t with lastLeap := some s.leapTime, lastDelta := leapDelta (s.get TB_UTC_LEAP) }
    (((s.seti TB_UTC_OFFSET o).set TB_UTC_LEAP 0).set TB_UTC_PENDING 0).event 0x0305 0 (ofSigned 32 o)
  else s

/-- TAI - UTC in force at TB second `sec` near the present one, after a leap applied at it (R47, R110). -/
def State.utcAt (s : State) (sec : Nat) : Int :=
  let o := s.geti TB_UTC_OFFSET
  if s.is TB_UTC_PENDING ∧ s.leapTime ≤ sec then o + leapDelta (s.get TB_UTC_LEAP)
  else if s.tb.lastLeap.any fun l => decide (sec < l) then o - s.tb.lastDelta else o

/-- Put UTC parameters in force (R46): a leap that has already taken effect is folded into the offset. -/
def State.setUtc (s : State) (offset : Int) (leap leapTime source : Nat) : State :=
  let past := leapTime ≤ instSec s.now
  let o := if past then offset + leapDelta leap else offset
  let l := if past then 0 else leap
  let before := s.utcArg
  let s := ((((s.seti TB_UTC_OFFSET o).set TB_UTC_LEAP l).setb TB_UTC_PENDING (l == 1 || l == 2)).set
    TB_UTC_SOURCE source)
  let s := (s.set TB_LEAPTIME0_SECLO leapTime).set TB_LEAPTIME1_SECHI (leapTime / 2 ^ 32)
  if s.utcArg = before then s else s.event 0x0306 0 s.utcArg

/-- The confirmed set that is taken (R46): of different sets confirmed at the same time the one of the system TIMESYS names, and
then of the systems in order. `rs` holds the latest record of each satellite, newest first; of several sets that one system
confirms the newest counts (DESIGN CHOICE notes/assumptions/49.md). -/
def confirmedUtc (rs : List UtcRecord) (timesys : Nat) : Option UtcRecord :=
  let sats (r : UtcRecord) (sys : Option Nat) : List (Nat × Nat) :=
    ((rs.filter fun q => q.offset == r.offset && q.leap == r.leap && q.leapTime == r.leapTime &&
      (match sys with | some k => q.sys == k | none => true)).map fun q => (q.sys, q.sv)).eraseDups
  let confirmed := rs.filter fun r => 2 ≤ (sats r none).length
  let bySys (k : Nat) := confirmed.find? fun r => 2 ≤ (sats r (some k)).length
  let first := if timesys = 3 then 0 else timesys
  match confirmed with
  | [] => none
  | r :: t =>
    if t.all (fun q => q.offset == r.offset && q.leap == r.leap && q.leapTime == r.leapTime) then some r
    else (bySys first).orElse fun _ => (bySys 0).orElse fun _ => (bySys 1).orElse fun _ =>
      (bySys 2).orElse fun _ => some r

/-! ### Warm-up (R50 to R52) -/

/-- The warm-up rules run: after the end of BOOT, outside SAFE. -/
def State.warmRuns (s : State) : Bool :=
  s.mode ≠ .off && s.mode ≠ .backup && s.mode ≠ .boot && s.mode ≠ .safe

/-! ### Vibration feed-forward (R53 to R56) -/

/-- A running calibration ends FAILED (R56). -/
def State.failGcal (s : State) : State :=
  match s.tb.gcal with
  | none => s
  | some g =>
    (((((s.onTb fun b => { b with gcal := none }).set TB_STATUS_GCALRUN 0).set TB_GCALRES_STATE 3).set
      TB_GCALRES_GAMMA 0).set TB_GCALRES_QUALITY 0).event 0x030E 0 (g.axis + 3 * 2 ^ 16)

/-- Put a correction in TB_GCOMP; it takes effect 64 ticks later (R39, R54). -/
def State.commitGcomp (s : State) (c : Int) : State :=
  (s.onTb fun b => { b with gcompQ := b.gcompQ ++ [(c, b.ticks + 64)] }).seti TB_GCOMP_CORR c

/-- The correction of R54 from accelerations in 1/65536 raw units: the sum of the products of sensitivity and
acceleration, scaled, rounded to nearest and saturated to 1 ppm. -/
def State.correction (s : State) : Int :=
  let g := fun i => s.geti (TB_GSENS_GAMMA i)
  let (ax, ay, az) := s.tb.acc
  let (mx, my, mz) := if s.get TB_GCTL_HPF = 0 then (0, 0, 0) else s.tb.accMean
  let sum := g 0 * (ax * 65536 - mx) + g 1 * (ay * 65536 - my) + g 2 * (az * 65536 - mz)
  -- ppb/g in 2^-10, LSB in ug: 10^-9 * 10^-6 * 2^40 / 2^10 / 2^16
  let c := nearestDiv (-(sum * s.get TB_GCTL_SCALE * 2 ^ 14)) (10 ^ 15)
  max (-1099512) (min c 1099512)

/-- A signed 16-bit acceleration from two bytes in the order TB_ACCCMD gives (R53). -/
def accValue (high : Bool) (a b : Byte) : Int :=
  toSigned 16 (if high then a.toNat * 256 + b.toNat else a.toNat + b.toNat * 256)

/-- 2 pi times 10^24, rounded to nearest (R56; DESIGN CHOICE notes/assumptions/8.md). -/
def twoPi24 : Nat := 6283185307179586476925287

/-- R56: the sensitivity from the frequency in Hz, the amplitude X_c in 10^-18 s and the acceleration amplitude in
ug, in 2^-10 ppb/g. -/
def gammaOf (freq : Nat) (xc : Int) (amp : Nat) : Int :=
  -- -2 pi f Xc / A = -(twoPi24 f xc 10^-24 10^-18 10^6) per g; times 10^9 for ppb, times 2^10
  nearestDiv (-(twoPi24 * freq * xc * 1024)) (amp * 10 ^ 27)

/-! ### Seeding (R57) -/

/-- Load the backup seconds counter with SEC (R57); with VIO18 present its state is valid from then on (R469). -/
def State.loadBackup (s : State) : State :=
  (s.onBk fun b => { b with sec := instSec s.now, phase := 0, lastLoad := instSec s.now, valid := true })

/-- Set the master and the replicas. -/
def State.setCounter (s : State) (c : TbCount) : State :=
  let s := (s.onPerf fun p => { p with at_ := c.sec * 1000000000 + c.nsec }).onPw fun p => { p with evalAt := c.sec * 1000000000 + c.nsec }
  (s.onTb fun b => { b with c0 := c, c1 := c, c2 := c, reps := [c, c, c, c], syncOut := false })

/-- The seed bound of R57, in ns: the class UNQUALIFIED counts from here, and until a time-capable source is ACTIVE, E of R102
starts from it. -/
def State.seedBound (s : State) (e : Nat) : State :=
  s.onSel fun x => { x with seed := e, e0 := e * 27648000000, e0Ticks := s.tb.ticks, clsTicks := s.tb.ticks }

/-- The master is seeded from the backup counter, or from `build` when the backup is invalid (R57). -/
def State.seedTb (s : State) (build : Nat) : State :=
  if s.bk.valid then
    let gap := s.bk.sec - s.bk.lastLoad
    let nsec := s.bk.phase * 30517578125 / 1000000
    let s := s.setCounter { sec := s.bk.sec, nsec := min nsec 999999999, frac := 0 }
    ((s.seedBound (satU 32 (max 2000000000 (50000 * gap)))).setSat TB_SEEDGAP_DELTA gap).set TB_STATUS_BKVALID 1
  else
    let s := s.setCounter { sec := build, nsec := 0, frac := 0 }
    ((s.seedBound 0xFFFFFFFF).set TB_SEEDGAP_DELTA 0).set TB_STATUS_BKVALID 0

end Sys2Proof.Machine
end

