-- ==== Sys2Proof/Machine/Mac.lean ====
section
/-! DEFINITION. Ports and MAC (spec/06_ports_and_mac.md): link states, receive checks and steering, PAUSE, low-power
idle and counters. -/
namespace Sys2Proof.Machine

/-! ### Port modes (R159, R187) -/

/-- What a port mode fixes: lanes per port, LPI, pause quantum in 1/100 ns, block period in ps, L_pipe in ns, and D_tx
and D_rx in ps. -/
structure ModeRow where
  lanes : Nat
  lpi : Bool
  quantum : Nat
  block : Nat
  pipe : Nat
  dtx : Nat
  drx : Nat
  deriving DecidableEq, Repr

/-- The rows of R159 and R187; mode 4 has one row with FEC and one without. -/
def modeRow : Nat → Bool → ModeRow
  | 0, _ => ⟨8, false, 128, 160, 320, 68500, 152000⟩
  | 1, _ => ⟨4, false, 256, 320, 340, 71200, 158300⟩
  | 2, _ => ⟨2, true, 512, 640, 380, 74000, 171400⟩
  | 3, _ => ⟨1, true, 1024, 1280, 420, 79600, 196900⟩
  | 4, true => ⟨1, true, 2048, 2560, 460, 88100, 241300⟩
  | 4, false => ⟨1, true, 2048, 2560, 300, 41800, 92600⟩
  | _, _ => ⟨1, true, 5120, 6400, 320, 52300, 118400⟩

/-- The mode row of a port's quad. -/
def State.portRow (s : State) (p : Nat) : ModeRow :=
  modeRow (s.get (MAC_QMODE_MODE (p / 8))) (s.is (MAC_QMODE_FEC25 (p / 8)))

/-- The port exists in its quad's mode (R159). -/
def State.portExists (s : State) (p : Nat) : Bool :=
  p < 32 && s.is (MAC_QMODE_EN (p / 8)) && p % 8 % (s.portRow p).lanes == 0

/-- The ports of the quad of port `p`. -/
def State.quadPorts (s : State) (p : Nat) : Nat := 8 / (s.portRow p).lanes

def State.port (s : State) (p : Nat) : Port := SMap.get {} s.mac.ports p
def State.setPort (s : State) (p : Nat) (x : Port) : State := s.onMac fun m => { m with ports := SMap.set {} m.ports p x }
def State.onPort (s : State) (p : Nat) (f : Port → Port) : State := s.setPort p (f (s.port p))

/-- The port is UP, and UP with no remote fault. -/
def State.portUp (s : State) (p : Nat) : Bool := s.get (MAC_STATUS_LINK p) == 2
def State.portSends (s : State) (p : Nat) : Bool := s.portUp p && !s.is (MAC_STATUS_RFAULT p)

/-- The number of nanoseconds of device time, in 1/100 ns. -/
def State.ticks100 (s : State) : Nat := s.tb.ticks * 100

/-! ### Counters (R181, R182) -/

/-- Port counter `c`. -/
def State.cnt (s : State) (p c : Nat) : Nat := SMap.get 0 s.mac.cnt (64 * p + c)

/-- A counter reaches all ones: its saturation bit, and the event once per setting (R182). -/
def State.satBit (s : State) (p c : Nat) : State :=
  let F := if c < 32 then MAC_SAT0_SAT p else MAC_SAT1_SAT p
  if (s.get F).testBit (c % 32) then s
  else (s.set F (s.get F + 2 ^ (c % 32))).event 0x1007 1 (p + c * 2 ^ 8)

/-- Add to port counter `c`, saturating at 64 bits (R182). -/
def State.count (s : State) (p c n : Nat) : State :=
  let v := satU 64 (s.cnt p c + n)
  let s := s.onMac fun m => { m with cnt := SMap.set 0 m.cnt (64 * p + c) v }
  let s := if c = 19 then s.portEv 0x14 p n else if c = 41 then s.portEv 0x0E p n else s
  if v = 2 ^ 64 - 1 then s.satBit p c else s

/-- A read of a counter's low word: the snapshot, with bits [63:32] held for the high word (R182). -/
def State.readCounter (s : State) (p c : Nat) : State :=
  let v := s.cnt p c
  (s.set (MAC_CNT_HI p c) (v / 2 ^ 32)).onMac fun m => { m with cnt := SMap.set 0 m.cnt (64 * p + c) 0 }

/-! ### Answer gates (R28, R29) -/

/-- The lease rule of R29: outside a pair it is always met; in a pair the device holds the token and its TB has not
reached the expiry minus the guard. -/
def State.leaseLive (s : State) : Bool :=
  !s.is SYS_MODE_PAIR || (s.get LEASE_STATUS_STATE == 5 && decide (s.now + s.get LEASE_GUARD_GEFF * ns1 < s.lease.xEff))

/-- The mode answers time-service requests (R21). -/
def State.modeAnswers (s : State) : Bool :=
  match s.mode with
  | .service | .holdover => true
  | .warmup => s.is CFG_SERVE_WARMUP_SERVE
  | .maintenance => s.is CFG_SERVE_MAINT_SERVE
  | _ => false

/-- The answer gate of a port is open. -/
def State.gateOpen (s : State) (p : Nat) : Bool := s.is (MAC_STATUS_GATE p) && s.leaseLive

/-- Open NTS-KE connections on a port whose gate closes are dropped (R259). -/
def State.dropKe (s : State) (p : Nat) : State :=
  let l := s.ntp.conns.filter (·.port ≠ p)
  let n := s.ntp.conns.length - l.length
  if n = 0 then s
  else ((s.onNtp fun b => { b with conns := l }).bump NTS_CNT_KE_ABORT n).setSat NTS_KESTAT_OPEN l.length

/-- The gate of every port follows the mode and the lease; an opening gate answers requests caught from now on
(R28). -/
def State.updateGates (s : State) : State :=
  let open_ := s.modeAnswers && s.leaseLive
  s.forEach 32 fun s p =>
    let s := if s.portExists p then s.setb (MAC_STATUS_VACTIVE p) (s.is SYS_MODE_PAIR && s.leaseLive) else s
    if open_ && s.portExists p then
      if s.is (MAC_STATUS_GATE p) then s
      else (s.set (MAC_STATUS_GATE p) 1).onPort p fun x => { x with gateAt := some s.now }
    else (s.set (MAC_STATUS_GATE p) 0).dropKe p

/-! ### Timestamp-queue records (R205 to R208) -/

/-- The head registers of a port's timestamp queue follow the queue, as one bracketed group, in the format of CFG_TSFMT (R206 to
R208). -/
def State.showTsHead (s : State) (p : Nat) : State :=
  let q := SMap.get [] s.ts.queues p
  let n := s.get (TSQ_P_HEADSEQA p) + 1
  let compact := s.is CFG_TSFMT_FMT
  let s := s.set (TSQ_P_LEVEL p) q.length
  let s := match q with
    | [] => ((s.setTs (TSQ_P_HEAD p) 0).set (TSQ_P_TAG p) 0).set (TSQ_P_FLAGS p) 0
    | r :: _ =>
      let s := if compact then
          ((s.set (TSQ_P_HEAD p 0) (if r.notSent then 0 else instCompact r.t)).set (TSQ_P_HEAD p 1) 0).set (TSQ_P_HEAD p 2) 0
        else s.setTs (TSQ_P_HEAD p) r.t
      (s.set (TSQ_P_TAG p) r.tag).set (TSQ_P_FLAGS p)
        ((if r.gap then 2 ^ 31 else 0) + (if r.launch then 2 ^ 30 else 0) + (if r.underrun then 2 ^ 29 else 0) +
         (if r.notSent then 2 ^ 28 else 0) + (if compact then 2 ^ 27 else 0) +
         (if s.is (TSQ_P_BOARDCAL p) then 0 else 2 ^ 26) + r.lostN)
  (s.set (TSQ_P_HEADSEQA p) n).set (TSQ_P_HEADSEQB p) n

/-- Write a record to a port's timestamp queue, or count it lost (R205, R207). -/
def State.tsRecord (s : State) (p : Nat) (r : TsRecord) : State :=
  let q := SMap.get [] s.ts.queues p
  let lost := SMap.get 0 s.ts.lost p
  if 4096 ≤ q.length then
    ((s.onTs fun t => { t with lost := SMap.set 0 t.lost p (lost + 1) }).bump (TSQ_P_LOST p) 1).noteSec (0x2001 + 65536 * p) p
  else
    let r := { r with gap := lost ≠ 0, lostN := min lost 65535 }
    let s := s.onTs fun t => { t with queues := SMap.set [] t.queues p (q ++ [r]), lost := SMap.set 0 t.lost p 0 }
    if q = [] then s.showTsHead p else s.set (TSQ_P_LEVEL p) (q.length + 1)

/-- TSQ_POP (R207). -/
def State.tsPop (s : State) (p : Nat) : State :=
  match SMap.get [] s.ts.queues p with
  | [] => s
  | _ :: t => (s.onTs fun x => { x with queues := SMap.set [] x.queues p t }).showTsHead p

def execTsqPop (p : Fin 32) (s : State) : Out := .next (s.tsPop p)

/-! ### Links (R161, R162) -/

/-- The mode lets ports run: from WARMUP on, and on the management port in SAFE (R21, R23); not in a quad under test
(R434). -/
def State.portsRun (s : State) (p : Nat) : Bool :=
  !s.underTest (58 + p / 8) &&
  match s.mode with
  | .off | .backup | .boot => false
  | .safe => !s.safeFromBoot && s.is SYS_OMPETYPE_MGMTEN && s.get SYS_OMPETYPE_MGMTPORT == p
  | _ => true

/-- Account the time in transmit or receive LPI, which ends. -/
def State.lpiExit (s : State) (p : Nat) : State :=
  let s := if s.is (MAC_STATUS_TXLPI p) then
      (s.count p 45 ((s.tb.ticks - (s.port p).lpiFrom) / 1000)).set (MAC_STATUS_TXLPI p) 0 else s
  s.onPort p fun x => { x with wakeEnd := none }

/-- Receive LPI ends (R180). -/
def State.rxLpiExit (s : State) (p : Nat) : State :=
  if s.is (MAC_STATUS_RXLPI p) then
    (s.count p 21 ((s.tb.ticks - (s.port p).rxLpiFrom) / 1000)).set (MAC_STATUS_RXLPI p) 0
  else s

/-- A frame that is never sent: its launch record says so (R205, R206). -/
def State.notSent (s : State) (p : Nat) (f : TxFrame) : State :=
  if f.desc.op = 5 then s.tsRecord p { t := 0, tag := f.desc.tag, launch := true, notSent := true } else s

/-- The bytes of a frame that have not yet arrived are discarded as the fabric delivers them (R176, R201). -/
def State.wasteRest (s : State) (p : Nat) (f : TxFrame) : State :=
  if f.bytes.length ≤ f.arrived then s
  else s.onMac fun m => { m with waste := m.waste ++ [⟨f.ord, f.src, p, f.bytes.length - f.arrived⟩] }

/-- Length on the wire: padded to 60 bytes, with the FCS (R163). -/
def wireLen (f : TxFrame) : Nat := max 60 f.bytes.length + 4

/-- A frame has left with good FCS at its launch instant: counters, the host's launch record, and the frame itself (R181, R205). -/
def State.frameSent (s : State) (p : Nat) (x : InTx) : State :=
  let f := x.frame
  let launch := x.launch.getD 0
  let da := beNat (f.bytes.take 6)
  let bytes := padFrame f.bytes
  let s := (((s.count p 28 (wireLen f)).count p 29 1).count p (if da = 0xFFFFFFFFFFFF then 32 else if da.testBit 40 then 31 else 30) 1).count
    p (33 + x.queue) 1
  let s := if f.host then s.count p 47 1 else s
  let s := if f.desc.op = 5 then s.tsRecord p { t := launch, tag := f.desc.tag, launch := true } else s
  s.emit (.frame p (bytes ++ fcsOf bytes) launch)

/-- The frame has been sent whole by now. -/
def InTx.over (x : InTx) (now : Nat) : Bool :=
  x.launch.isSome && decide (x.frame.bytes.length ≤ x.frame.arrived) && decide (x.fin ≤ now)

/-- The frames of a port whose last byte has left by now are sent. -/
def State.settle (s : State) (p : Nat) : State :=
  let l := (s.port p).tx.takeWhile fun x => x.over s.now
  if l = [] then s
  else l.foldl (fun s x => s.frameSent p x) (s.onPort p fun y => { y with tx := y.tx.drop l.length })

/-- A frame in transmission is cut when the link goes DOWN (R178): counted, and recorded if the host asked for its launch. -/
def State.cutFrame (s : State) (p : Nat) (x : InTx) : State :=
  let s := (s.count p 42 1).wasteRest p x.frame
  match x.launch with
  | some t => if x.frame.desc.op = 5 then s.tsRecord p { t := t, tag := x.frame.desc.tag, launch := true } else s
  | none => s.notSent p x.frame

/-- The frames committed on a port are cut, but for those sent by now. -/
def State.cutInTx (s : State) (p : Nat) : State :=
  let s := s.settle p
  let l := (s.port p).tx
  if l = [] then s else l.foldl (fun s x => s.cutFrame p x) (s.onPort p fun y => { y with tx := [], freeAt := s.now })

/-- A local fault is detected, or no longer: the port sends remote-fault ordered sets meanwhile (R161). -/
def State.localFault (s : State) (p : Nat) (on : Bool) : State :=
  if s.is (MAC_STATUS_LFAULT p) = on then s else (s.setb (MAC_STATUS_LFAULT p) on).emit (.remoteFault p on)

/-- The port goes DOWN for a reason of event 0x1001 (R161, R178, R179, R198). Its reservations miss their instants (R201). -/
def State.portDown (s : State) (p reason : Nat) : State :=
  let was := s.get (MAC_STATUS_LINK p)
  if was = 0 then s
  else
    let s := ((s.cutInTx p).lpiExit p).rxLpiExit p
    let s := (((s.set (MAC_STATUS_LINK p) 0).set (MAC_STATUS_RFAULT p) 0).set (MAC_LPISTAT_NEG p) 0).count p 26 1
    let s := if reason = 1 ∨ reason = 2 then s.count p 25 1 else s
    let s := s.onTs fun t => { t with links := SMap.clearRange t.links (64 * p) 64 }
    let s := s.onPort p fun x => { x with downs := x.downs + 1 }
    if was = 2 then s.raiseCond 0x1001 2 (p + reason * 2 ^ 8) p else s

/-- The lanes of a port as a mask of its quad. -/
def State.laneMask (s : State) (p : Nat) : Nat := (2 ^ (s.portRow p).lanes - 1) * 2 ^ (p % 8)

/-- The port is one that may run: it exists, is enabled, the mode lets it run and its quad has no fault. -/
def State.portMay (s : State) (p : Nat) : Bool :=
  s.portExists p && s.is (MAC_CFG_EN p) && s.portsRun p && !s.is (MAC_QSTATUS_FAULT (p / 8))

/-- Row 2 of R161. A local fault has ended when every lane has signal and clock again (DESIGN CHOICE notes/assumptions/55.md). -/
def State.signalDetect (s : State) (p : Nat) : State :=
  if s.portMay p && s.get (MAC_STATUS_LINK p) == 0 then
    (((s.localFault p false).set (MAC_STATUS_LINK p) 1).set (MAC_QSTATUS_SIGDET (p / 8))
      (s.get (MAC_QSTATUS_SIGDET (p / 8)) ||| s.laneMask p)).onPort p fun x => { x with lockFrom := s.tb.ticks }
  else s

/-- Row 3 of R161: lock and no local fault since ALIGNING for UPHOLD ms. Link entries of frames that were not sent in the meantime
go (R197, reason 3). -/
def State.portRise (s : State) (p : Nat) : State :=
  if s.get (MAC_STATUS_LINK p) = 1 && !s.is (MAC_STATUS_LFAULT p) then
    match s.reachTick (1000000 * s.get (MAC_CFG_UPHOLD p) + (s.port p).lockFrom) with
    | none => s
    | some s =>
      let s := (s.onTs fun t => { t with links := SMap.clearRange t.links (64 * p) 64 }).onPort p fun x => { x with idleFrom := s.tb.ticks }
      ((s.set (MAC_STATUS_LINK p) 2).event 0x1002 0 p).clearCond 0x1001 p
  else s

/-- Row 4 of R161: reason 0 signal, 1 block lock, 2 alignment, 3 local fault. -/
def State.portFall (s : State) (p reason : Nat) : State :=
  if !s.portMay p then s
  else
    let s := (if reason = 3 then s.localFault p true else s).portDown p reason
    if reason = 0 then s.set (MAC_QSTATUS_SIGDET (p / 8)) (s.get (MAC_QSTATUS_SIGDET (p / 8)) &&& (0xFF - s.laneMask p))
    else s

/-- Remote-fault ordered sets start or stop arriving (R161). -/
def State.remoteFault (s : State) (p : Nat) (on : Bool) : State :=
  if s.portUp p then s.setb (MAC_STATUS_RFAULT p) on else s

/-- A quad fault (R162). -/
def State.quadFault (s : State) (q cause : Nat) : State :=
  if s.is (MAC_QMODE_EN q) && (s.mode ≠ .off && s.mode ≠ .backup && s.mode ≠ .boot) then
    let s := ((s.set (MAC_QSTATUS_FAULT q) 1).set (MAC_QSTATUS_CAUSE q) cause)
    let s := if cause ≠ 2 then s.set (MAC_QSTATUS_PLLLOCK q) 0 else s
    let s := if cause = 1 then s.set (MAC_QSTATUS_REFCLK q) 0 else s
    let s := s.onMac fun m => { m with retryAt := SMap.set 0 m.retryAt q s.tb.ticks }
    let s := s.forEach 8 fun s k => s.portDown (8 * q + k) 5
    s.raiseCond 0x1005 2 (q + 2 ^ 8 + cause * 2 ^ 9) q
  else s

/-- Quad initialization, retried every 1 s after a fault, finds the PLL and the reference clock in a state (R162). -/
def State.quadRetry (s : State) (q : Nat) (lock refclk : Bool) : State :=
  if s.is (MAC_QMODE_EN q) then
    match s.reachTick (if s.is (MAC_QSTATUS_FAULT q) then SMap.get 0 s.mac.retryAt q + 10 ^ 9 else 0) with
    | none => s
    | some s =>
      let gained := lock && refclk && !s.is (MAC_QSTATUS_PLLLOCK q)
      let s := (s.setb (MAC_QSTATUS_PLLLOCK q) (lock && refclk)).setb (MAC_QSTATUS_REFCLK q) refclk
      s.onMac fun m => { m with retryAt := SMap.set 0 m.retryAt q s.tb.ticks
                                pllFrom := if gained then SMap.set 0 m.pllFrom q s.tb.ticks else m.pllFrom }
  else s

/-- The PLL has held lock for 100 ms (R162). -/
def State.quadClear (s : State) (q : Nat) : State :=
  if s.is (MAC_QSTATUS_FAULT q) && s.is (MAC_QSTATUS_PLLLOCK q) then
    match s.reachTick (SMap.get 0 s.mac.pllFrom q + 10 ^ 8) with
    | none => s
    | some s =>
      let s := s.set (MAC_QSTATUS_FAULT q) 0
      (if s.logs then s.queueEvent 0x1005 2 (q + s.get (MAC_QSTATUS_CAUSE q) * 2 ^ 9) else s).clearCond 0x1005 q
  else s

def execLinkSignalDetect (p : Fin 32) (s : State) : Out := .next (s.signalDetect p)
def execRemoteFaultChange (p : Fin 32) (on : Bool) (s : State) : Out := .next (s.remoteFault p on)
def execQuadInitRetry (q : Fin 4) (lock refclk : Bool) (s : State) : Out := .next (s.quadRetry q lock refclk)
def execQuadFaultClear (q : Fin 4) (s : State) : Out := .next (s.quadClear q)

/-! ### VLAN and address classes (R165, R166, R170) -/

/-- A 48-bit MAC address from its two fields. -/
def State.mac48 (s : State) (lo hi : Field) : Nat := s.get lo + s.get hi * 2 ^ 32

def State.macAddr (s : State) (p : Nat) : Nat := s.mac48 (MAC_ADDR_LO_ADDRLO p) (MAC_ADDR_HI_ADDRHI p)
def State.macVaddr (s : State) (p : Nat) : Nat := s.mac48 (MAC_VADDR_LO_ADDRLO p) (MAC_VADDR_HI_ADDRHI p)

/-- VLAN entry `i` matches a tag stack: number of tags, TPIDs and VIDs; the inner TPID is 0x8100 (R166). -/
def State.vlanMatches (s : State) (p i : Nat) (tags : List (Nat × Nat)) : Bool :=
  s.is (MAC_VLAN_EN p i) && s.get (MAC_VLAN_TAGS p i) == tags.length &&
    (match tags with
     | [] => true
     | t :: r =>
       t.1 == (if s.is (MAC_VLAN_OTPID p i) then 0x88A8 else 0x8100) && t.2 % 4096 == s.get (MAC_VLAN_OVID p i) &&
         r.all fun u => u.1 == 0x8100 && u.2 % 4096 == s.get (MAC_VLAN_IVID p i))

/-- The frame's VLAN index: the lowest-numbered entry that matches (R166). -/
def State.vlanIndex (s : State) (p : Nat) (tags : List (Nat × Nat)) : Option Nat :=
  (List.range 64).find? fun i => s.vlanMatches p i tags

/-- The tag stack of a VLAN entry as transmitted (R167). -/
def State.vlanTags (s : State) (p i : Nat) : List (Nat × Nat) :=
  let pcp := s.get (MAC_VLAN_TXPCP p i) * 2 ^ 13
  let outer := (if s.is (MAC_VLAN_OTPID p i) then 0x88A8 else 0x8100, pcp + s.get (MAC_VLAN_OVID p i))
  match s.get (MAC_VLAN_TAGS p i) with
  | 0 => []
  | 1 => [outer]
  | _ => [outer, (0x8100, pcp + s.get (MAC_VLAN_IVID p i))]

/-- The address bytes of an IP entry (R170). -/
def State.ipEntryBytes (s : State) (p a : Nat) : List Byte :=
  if s.is (MAC_IP_V6 p a) then (List.range 4).flatMap fun i => beBytes 4 (s.get (MAC_IP_ADDR p a i))
  else beBytes 4 (s.get (MAC_IP_ADDR p a 0))

/-- Entry `a` is enabled and no lower-numbered one has its address on its VLAN entry: it is not ignored (R170). -/
def State.ipInForce (s : State) (p a : Nat) : Bool :=
  s.is (MAC_IP_EN p a) && (List.range a).all fun b =>
    !(s.is (MAC_IP_EN p b) && s.get (MAC_IP_VLAN p b) == s.get (MAC_IP_VLAN p a) && s.ipEntryBytes p b == s.ipEntryBytes p a)

/-- The lowest-numbered enabled entry with an address on a VLAN entry (R170). -/
def State.ipEntry (s : State) (p vlan : Nat) (addr : List Byte) : Option Nat :=
  (List.range 256).find? fun a => s.is (MAC_IP_EN p a) && s.get (MAC_IP_VLAN p a) == vlan && s.ipEntryBytes p a == addr

/-- The KIND of the entry of an address. -/
def State.ipKind (s : State) (p vlan : Nat) (addr : List Byte) : Option Nat :=
  (s.ipEntry p vlan addr).map fun a => s.get (MAC_IP_KIND p a)

/-- The destination is an accepted multicast address (R165, class 3). -/
def State.mcastOk (s : State) (p da : Nat) : Bool :=
  ((List.range 8).any fun i => s.is (MAC_MCAST_HI_EN p i) &&
    s.mac48 (MAC_MCAST_LO_ADDRLO p i) (MAC_MCAST_HI_ADDRHI p i) == da) ||
  da == 0x333300000001 ||
  (da / 2 ^ 24 == 0x3333FF && (List.range 256).any fun a =>
    s.is (MAC_IP_EN p a) && s.is (MAC_IP_V6 p a) && s.get (MAC_IP_ADDR p a 3) % 2 ^ 24 == da % 2 ^ 24)

/-- The destination class of a frame (R165), or none when it is not accepted. `dst` is the IP destination of an IPv4
or IPv6 frame. -/
def State.daClass (s : State) (p vlan da : Nat) (isIp : Bool) (dst : List Byte) : Option Nat :=
  let kind := if isIp then s.ipKind p vlan dst else none
  let virt := s.is SYS_MODE_PAIR && s.leaseLive
  if da = s.macAddr p ∧ kind = some 0 then some 0
  else if da = s.macAddr p ∧ kind = some 1 then some 1
  else if da = s.macVaddr p ∧ kind = some 2 ∧ virt then some 2
  else if s.mcastOk p da then some 3
  else if da = 0xFFFFFFFFFFFF then some 4
  else if !isIp ∧ (da = s.macAddr p ∨ (da = s.macVaddr p ∧ virt)) then some 5
  else none

/-! ### Filters (R168) -/

/-- What the filters look at. -/
structure FiltKey where
  vlan : Nat
  pcp : Option Nat
  etype : Nat
  ver : Nat
  proto : Nat
  port : Option Nat
  cls : Nat
  deriving DecidableEq, Repr

/-- Filter `f` matches (R168). -/
def State.filterMatches (s : State) (p f : Nat) (k : FiltKey) : Bool :=
  s.is (MAC_FILT_EN p f) &&
  (s.is (MAC_FILT_VLANANY p f) || s.get (MAC_FILT_VLAN p f) == k.vlan) &&
  (s.is (MAC_FILT_PCPANY p f) || k.pcp == some (s.get (MAC_FILT_PCP p f))) &&
  (s.is (MAC_FILT_DAANY p f) || s.get (MAC_FILT_DACLASS p f) == k.cls) &&
  ((s.get (MAC_FILT_ETYPE p f) ^^^ k.etype) &&& s.get (MAC_FILT_ETMASK p f) == 0) &&
  (match s.get (MAC_FILT_IPVER p f) with
   | 0 => true | 1 => k.ver == 1 | 2 => k.ver == 2 | _ => k.ver != 0) &&
  (s.is (MAC_FILT_PROTOANY p f) || (k.ver != 0 && s.get (MAC_FILT_PROTO p f) == k.proto)) &&
  (match k.port with
   | some n => s.get (MAC_FILT_PORTLO p f) ≤ n && n ≤ s.get (MAC_FILT_PORTHI p f)
   | none => s.get (MAC_FILT_PORTLO p f) == 0 && s.get (MAC_FILT_PORTHI p f) == 65535)

/-- The receive queue a frame is steered to, or none for DROP (R168). -/
def State.steer (s : State) (p : Nat) (k : FiltKey) : Option Nat :=
  match (List.range 64).find? fun f => s.filterMatches p f k with
  | some f => if s.is (MAC_FILT_DROP p f) then none else some (s.get (MAC_FILT_RQ p f))
  | none => if s.is (MAC_FDEF_DROP p) then none else some (s.get (MAC_FDEF_RQ p))

/-! ### Reception (R164, R169, R186) -/

/-- A factory trim or latency in ps as 2^-16 ns; the rounding is not stated (DESIGN CHOICE notes/assumptions/6.md). -/
def psToSub (ps : Int) : Int := divRound (ps * 65536) 1000

/-- The fixed receive latency of lane `l` of a port, without K and A, in 2^-16 ns (R186, R188). -/
def State.rxLatency (s : State) (p l : Nat) : Int :=
  psToSub ((s.portRow p).drx + s.geti (TSQ_LANETRIM_RXTRIM (p / 8) ((p % 8 + l) % 8))) + s.geti (TSQ_P_RXDLY p)

/-- The fixed transmit latency of a port, in 2^-16 ns (R191). -/
def State.txLatency (s : State) (p : Nat) : Int :=
  psToSub ((s.portRow p).dtx + s.geti (TSQ_LANETRIM_TXTRIM (p / 8) (p % 8))) + s.geti (TSQ_P_TXDLY p)

/-- The time of `n` bytes on a port's line, rounded up, in 2^-16 ns. -/
def State.lineTime (s : State) (p n : Nat) : Nat := ceilDiv (n * (s.portRow p).block * 65536) 8000

/-- The replica of a port's island (R48). -/
def State.replica (s : State) (p : Nat) : Nat := (s.tb.reps.getD (p / 8) {}).total / 2 ^ 24

/-- The interpolated replica instant at the catch point (R186): the frame's start block, one frame time and its preamble ago. A step that
was applied after it is not in it. -/
def State.catchPoint (s : State) (p : Nat) (f : RxIn) : Int :=
  let t : Int := (s.replica p : Int) + (f.phase % ns1 : Nat) - s.lineTime p (f.bytes.length + 8)
  if s.gn.stepB ∧ t < s.gn.lastB then t - s.tb.lastStep.getD 0 else t

/-- The catch stamp (R186): the deskew is 0 on single-lane ports, and only the modes 0 to 3 have alignment markers (PRESUMED
notes/assumptions/55.md). -/
def State.catchStamp (s : State) (p : Nat) (f : RxIn) : Nat :=
  let n := (s.portRow p).lanes
  (s.catchPoint p f - s.rxLatency p (f.lane % n) - (if n = 1 then 0 else f.deskew) -
    (if s.get (MAC_QMODE_MODE (p / 8)) < 4 then f.marker else 0 : Nat)).toNat

/-- Account the time with the pause timer non-zero up to now, or up to its end (R181, counter 27). -/
def State.accountPause (s : State) (p : Nat) (upto : Nat) : State :=
  let x := s.port p
  let e := min upto x.pauseEnd
  let n := (e - x.pauseFrom) / 100
  (s.count p 27 n).onPort p fun y => { y with pauseFrom := y.pauseFrom + n * 100 }

/-- A pause is running: its timer has not reached 0 (R175). -/
def State.pausing (s : State) (p : Nat) : Bool := s.is (MAC_STATUS_PAUSED p) && decide (s.ticks100 < (s.port p).pauseEnd)

/-- The pause timer is at 0. -/
def State.pauseClear (s : State) (p : Nat) : State :=
  ((s.set (MAC_STATUS_PAUSED p) 0).set (MAC_STATUS_PAUSELEFT p) 0).onPort p fun x => { x with pauseFrom := 0, pauseEnd := 0 }

/-- The pause timer reaches 0 (R175). -/
def State.pauseOver (s : State) (p : Nat) : State :=
  if s.is (MAC_STATUS_PAUSED p) then
    match s.reachTick (ceilDiv (s.port p).pauseEnd 100) with
    | some s => (s.accountPause p (s.port p).pauseEnd).pauseClear p
    | none => s
  else s

/-- The pause as it stands now (R175, R181): PAUSE_NS up to now, and PAUSELEFT, or the pause over. -/
def State.freshPause (s : State) (p : Nat) : State :=
  if s.is (MAC_STATUS_PAUSED p) then
    let s := s.accountPause p s.ticks100
    if s.pausing p then s.setSat (MAC_STATUS_PAUSELEFT p) (ceilDiv ((s.port p).pauseEnd - s.ticks100) (s.portRow p).quantum)
    else s.pauseClear p
  else s

/-- A wake that has ended, and the time in transmit and receive LPI up to now (R180, R181). -/
def State.freshLpi (s : State) (p : Nat) : State :=
  let s := if s.is (MAC_STATUS_TXLPI p) then
      (if (s.port p).wakeEnd.any fun w => decide (w ≤ s.now) then s.lpiExit p
       else
         let n := (s.tb.ticks - (s.port p).lpiFrom) / 1000
         (s.count p 45 n).onPort p fun x => { x with lpiFrom := x.lpiFrom + n * 1000 })
    else s
  if s.is (MAC_STATUS_RXLPI p) then
    let n := (s.tb.ticks - (s.port p).rxLpiFrom) / 1000
    (s.count p 21 n).onPort p fun x => { x with rxLpiFrom := x.rxLpiFrom + n * 1000 }
  else s

/-- The port as it stands now: frames sent, pause and LPI. -/
def State.portNow (s : State) (p : Nat) : State := ((s.settle p).freshPause p).freshLpi p

def execMacCounterRead (p : Fin 32) (c : Fin 48) (s : State) : Out := .next ((s.portNow p).readCounter p c)

/-- A valid PAUSE (R174, R175): a new one replaces the timer. -/
def State.pause (s : State) (p quanta : Nat) : State :=
  let s := s.count p 5 1
  if s.is (MAC_CFG_PAUSEEN p) then
    let s := if s.is (MAC_STATUS_PAUSED p) then s.accountPause p s.ticks100 else s
    if quanta = 0 then s.pauseClear p
    else
      ((s.set (MAC_STATUS_PAUSED p) 1).set (MAC_STATUS_PAUSELEFT p) quanta).onPort p fun x =>
        { x with pauseFrom := s.ticks100, pauseEnd := s.ticks100 + quanta * (s.portRow p).quantum }
  else s.count p 6 1

def execPauseExpire (p : Fin 32) (s : State) : Out := .next (s.pauseOver p)

/-- A MAC control frame (R164, check 5; R174). -/
def State.macControl (s : State) (p : Nat) (bs : List Byte) (h : L2) : State :=
  if h.tags = [] ∧ bs.length = 64 ∧ beNat (slice bs 14 2) = 1 ∧ (h.da = 0x0180C2000001 ∨ h.da = s.macAddr p) then
    s.pause p (beNat (slice bs 16 2))
  else s.count p 7 1

/-- Bytes held in the receive queues of a port. -/
def State.rxBytes (s : State) (p : Nat) : Nat :=
  (List.range 16).foldl (fun n q => (SMap.get [] s.mac.rxq (16 * p + q)).foldl (fun n f => n + f.bytes.length) n) 0

/-- The destination of the IP header, for the class (R165). -/
def dstBytes (bs : List Byte) (h : L2) : List Byte :=
  if ipVer h.etype = 1 then slice bs (h.l3 + 16) 4 else if ipVer h.etype = 2 then slice bs (h.l3 + 24) 16 else []

/-- Put an accepted frame in its receive queue, or discard it (R169). -/
def State.rxQueue (s : State) (p rq : Nat) (f : RxFrame) : State :=
  let q := SMap.get [] s.mac.rxq (16 * p + rq)
  if 2048 ≤ q.length ∨ 1048576 / s.quadPorts p < s.rxBytes p + f.bytes.length then s.count p 19 1
  else
    let n := (s.port p).rxSeq
    (s.onMac fun m => { m with rxq := SMap.set [] m.rxq (16 * p + rq) (q ++ [{ f with seq := n }]) }).onPort p
      fun x => { x with rxSeq := (n + 1) % 2 ^ 27 }

/-- Checks 6 to 13 of R164. -/
def State.rxAccept (s : State) (p : Nat) (f : RxIn) (h : L2) : State :=
  let bs := f.bytes
  let ver := ipVer h.etype
  if 2 < h.tags.length then s.count p 14 1
  else match s.vlanIndex p h.tags with
  | none => s.count p 13 1
  | some v =>
    let short := ipShort bs h
    match (if short then some 0 else s.daClass p v h.da (ver ≠ 0) (dstBytes bs h)) with
    | none => s.count p 12 1
    | some cls =>
      let ip := parseIp bs h
      if ver ≠ 0 ∧ ip.isNone then s.count p 15 1
      else if ip.any (·.frag) then s.count p 16 1
      else if ip.any (fun i => !l4Ok bs i) then s.count p 17 1
      else
        let dport := ip.bind fun i => if i.proto = 17 ∨ i.proto = 6 then some (dstPort bs i) else none
        let k : FiltKey := ⟨v, h.tags.head?.map (·.2 / 2 ^ 13), h.etype, ver, (ip.map (·.proto)).getD 0, dport, cls⟩
        match s.steer p k with
        | none => s.count p 18 1
        | some rq => (s.portEv 0x0B p 1).rxQueue p rq ⟨p, rq, v, cls, ver, bs, s.catchStamp p f, 0, (s.port p).downs⟩

/-- A received frame (R164). -/
def State.rxFrame (s : State) (p : Nat) (f : RxIn) : State :=
  if !s.portUp p then s
  else
    let fec := s.get (MAC_QMODE_MODE (p / 8)) < 4 ∨ (s.get (MAC_QMODE_MODE (p / 8)) = 4 ∧ s.is (MAC_QMODE_FEC25 (p / 8)))
    let s := if fec then ((s.count p 22 f.fecCw).count p 23 f.fecBad).count p 24 f.fecSym else s
    let bs := f.bytes
    let n := bs.length
    if f.codeErr then s.count p 11 1
    else if n < 64 then s.count p 9 1
    else if s.get (MAC_CFG_MAXLEN p) < n then s.count p 10 1
    else if fcsOf (bs.take (n - 4)) ≠ bs.drop (n - 4) then s.count p 8 1
    else
      let h := parseL2 bs
      let s := (s.count p 1 1).count p 0 n
      let s := s.count p (if h.da = 0xFFFFFFFFFFFF then 4 else if h.da.testBit 40 then 3 else 2) 1
      if h.etype = 0x8808 then s.macControl p bs h else s.rxAccept p f h

def execRxFrame (p : Fin 32) (f : RxIn) (s : State) : Out := .next (s.rxFrame p f)

/-! ### Threshold and low-power idle (R177, R179, R180) -/

/-- MAC_THRRST (R177). -/
def State.thrReset (s : State) (p : Nat) : State :=
  if s.portExists p then
    let cur := s.get (MAC_TXTHR_CUR p)
    ((s.set (MAC_TXTHR_CUR p) (s.get (MAC_TXTHR_CFG p))).set (MAC_THRRST_RESET p) 1).event 0x1004 0 (p + cur * 2 ^ 16)
  else s

/-- The EEE exchange completes (R179): Tw is the larger of the own minimum and the partner's request. -/
def State.lpiNegotiated (s : State) (p tw : Nat) : State :=
  if s.is (MAC_LPI_EN p) && (s.portRow p).lpi && s.portUp p then
    let w := max (s.get (MAC_LPI_TWMIN p)) (tw % 65536)
    (((s.set (MAC_LPISTAT_NEG p) 1).set (MAC_LPISTAT_TW p) w).event 0x1006 0 (p + min w 65535 * 2 ^ 16)).onPort p fun x =>
      { x with idleFrom := s.tb.ticks }
  else s

/-- All queues of a port are empty, nothing is committed and no reservation waits. -/
def State.txIdle (s : State) (p : Nat) : Bool :=
  (s.port p).tx.isEmpty && !s.ts.grants.any (fun g => g.port == p && !g.missed) &&
    (List.range 8).all fun q => SMap.get [] s.mac.txq (8 * p + q) == []

/-- The state when a port has been idle for MAC_LPI.IDLE us (R180). -/
def State.idleFor (s : State) (p : Nat) : Option State :=
  let us := s.get (MAC_LPI_IDLE p)
  ((s.reach (us1 * us + (s.port p).freeAt)).bind fun s => s.reachTick (1000 * us + (s.port p).idleFrom)).map fun s => s.portNow p

/-- The transmit path enters LPI after IDLE us (R180); `calendar` says whether a calendar launch is then due within 2 Tw. -/
def State.lpiEnterIf (s : State) (p : Nat) (calendar : State → Bool) : State :=
  match s.idleFor p with
  | none => s
  | some t =>
    if t.is (MAC_LPISTAT_NEG p) && t.is (MAC_LPI_EN p) && t.portUp p && t.txIdle p && !calendar t && !t.is (MAC_STATUS_TXLPI p) then
      ((t.set (MAC_STATUS_TXLPI p) 1).count p 44 1).onPort p fun x => { x with lpiFrom := t.tb.ticks, wakeEnd := none }
    else s

/-- Start the wake from transmit LPI if it has not started (R180). -/
def State.startWake (s : State) (p : Nat) : State :=
  if s.is (MAC_STATUS_TXLPI p) && (s.port p).wakeEnd.isNone then
    s.onPort p fun x => { x with wakeEnd := some (s.now + s.get (MAC_LPISTAT_TW p) * ns1) }
  else s

/-- MAC_LPI.EN is cleared (R179): the port wakes, receive LPI is no longer accepted, and the agreement ends (DESIGN CHOICE
notes/assumptions/55.md). -/
def State.lpiOff (s : State) (p : Nat) : State := ((s.startWake p).rxLpiExit p).set (MAC_LPISTAT_NEG p) 0

/-- The partner enters or leaves receive LPI (R180). -/
def State.rxLpi (s : State) (p : Nat) (enter : Bool) : State :=
  if enter then
    if s.is (MAC_LPI_EN p) && (s.portRow p).lpi && s.portUp p && !s.is (MAC_STATUS_RXLPI p) then
      ((s.set (MAC_STATUS_RXLPI p) 1).count p 20 1).onPort p fun x => { x with rxLpiFrom := s.tb.ticks }
    else s
  else s.rxLpiExit p

def execMacThrrst (p : Fin 32) (s : State) : Out := .next (s.thrReset p)
def execRxLpi (p : Fin 32) (enter : Bool) (s : State) : Out := .next (s.rxLpi p enter)

end Sys2Proof.Machine
end

