-- ==== Sys2Proof/Machine/Launch.lean ====
section
/-! DEFINITION. Transmission and launch timestamping (spec/06_ports_and_mac.md R171 to R178; spec/07_timestamping.md):
queues, commit, insertion, reservations and the launch audit. -/
namespace Sys2Proof.Machine

/-! ### Queues and their frames (R171, R172) -/

def State.txq (s : State) (p q : Nat) : List TxFrame := SMap.get [] s.mac.txq (8 * p + q)
def State.setTxq (s : State) (p q : Nat) (l : List TxFrame) : State :=
  (s.onMac fun m => { m with txq := SMap.set [] m.txq (8 * p + q) l }).onPort p fun x => { x with idleFrom := s.tb.ticks }

/-- The queue of a traffic class (R171). -/
def State.classQueue (s : State) (p cls : Nat) : Nat :=
  s.get { MAC_TXQMAP_CLASS0 p with lo := 3 * cls, hi := 3 * cls + 2, reset := 0xFAC688 / 2 ^ (3 * cls) % 8 }

/-- Bytes held in the transmit buffer of a port: of the frames that wait and of those in transmission. -/
def State.txBytes (s : State) (p : Nat) : Nat :=
  (List.range 8).foldl (fun n q => (s.txq p q).foldl (fun n f => n + wireLen f) n)
    ((s.port p).tx.foldl (fun n x => n + wireLen x.frame) 0)

/-- The frame is whole in the buffer. -/
def TxFrame.whole (f : TxFrame) : Bool := f.bytes.length ≤ f.arrived

/-- Link entry `l` of a port: state and launch (R198). -/
def State.link (s : State) (p l : Nat) : Nat × Nat := SMap.get (0, 0) s.ts.links (64 * p + l % 64)
def State.setLink (s : State) (p l : Nat) (v : Nat × Nat) : State :=
  s.onTs fun t => { t with links := SMap.set (0, 0) t.links (64 * p + l % 64) v }

/-- A frame that is never sent: its link entry and its launch record say so (R198, R205, R206), and what the fabric still delivers of
it is discarded. -/
def State.neverSent (s : State) (p : Nat) (f : TxFrame) : State :=
  let s := if f.desc.linkRec then s.setLink p f.desc.link (4, 0) else s
  (s.notSent p f).wasteRest p f

/-- Remove the first frame of a queue that satisfies a test. -/
def takeFirst (t : TxFrame → Bool) : List TxFrame → Option (TxFrame × List TxFrame)
  | [] => none
  | f :: r => if t f then some (f, r) else (takeFirst t r).map fun x => (x.1, f :: x.2)

/-- A grant of a port by its identifier. -/
def State.grantOf (s : State) (id : Nat) : Option Grant := s.ts.grants.find? (·.id == id)

/-- A reserved frame whose slot has passed: its grant is gone or missed (R201). -/
def State.slotGone (s : State) (f : TxFrame) : Bool :=
  match f.resv with
  | some id => !(s.grantOf id).any fun g => !g.missed
  | none => false

/-- A transmit queue has room for a frame (R172). -/
def State.roomFor (s : State) (p : Nat) (f : TxFrame) : Bool :=
  decide ((s.txq p (s.classQueue p f.cls)).length < 1024) && decide (s.txBytes p + wireLen f ≤ 2097152 / s.quadPorts p)

/-- The source whose turn it is at a port's collector: the next in the rotation whose oldest frame can be accepted (R234). -/
def State.nextSource (s : State) (p : Nat) : Option Nat :=
  ((List.range 33).map fun i => ((s.port p).turn + 1 + i) % 33).find? fun src =>
    match SMap.get [] s.fab.lanes (32 * src + p) with
    | [] => false
    | f :: _ => s.slotGone f || s.roomFor p f

/-- A transmit queue accepts the oldest frame of a source's lane, when it is that source's turn, and returns its credit (R172, R234). A
reserved frame whose slot has passed is discarded as it is delivered (R201). -/
def State.queueAccept (s : State) (src p : Nat) : State :=
  if s.nextSource p ≠ some src then s
  else match SMap.get [] s.fab.lanes (32 * src + p) with
  | [] => s
  | f :: rest =>
    let gone := s.slotGone f
    let f := { f with ord := s.mac.txOrd }
    let s := s.onFab fun b =>
      { b with lanes := SMap.set [] b.lanes (32 * src + p) rest,
               credits := SMap.set 0 b.credits (32 * src + p) (SMap.get 0 b.credits (32 * src + p) - 1) }
    let s := (s.onMac fun m => { m with txOrd := m.txOrd + 1 }).onPort p fun x => { x with turn := src }
    if gone then s.neverSent p f
    else
      let q := s.classQueue p f.cls
      let s := s.setTxq p q (s.txq p q ++ [f])
      let s := if src = 32 then s.bump PERF_TXSTAT_SENT 1 else s
      if f.desc.linkRec then s.setLink p f.desc.link (1, 0) else s

def execTxQueueAccept (src : Fin 33) (p : Fin 32) (s : State) : Out := .next (s.queueAccept src p)

/-! ### Insertion (R193 to R197) -/

/-- The NTP timestamp of an instant under a TAI minus UTC offset (R194). -/
def ntpStamp (t : Nat) (offset : Int) : Nat :=
  let d := 10 ^ 9 * 65536
  let f : Nat := (2 * (t % sec1) * 2 ^ 32 + d) / (2 * d)
  (ofSigned 64 (((instSec t : Int) - offset + 2208988800) * 2 ^ 32 + (f : Int)))

/-- A PTP timestamp: SEC and NSEC in ten bytes (R195). -/
def ptpStamp (t : Nat) : List Byte := beBytes 6 (instSec t) ++ beBytes 4 (instNsec t)

/-- A correctionField with an addition, saturating (R195). -/
def addCorr (bs : List Byte) (o : Nat) (d : Int) : List Byte :=
  overwrite bs o (beBytes 8 (ofSigned 64 (satSigned 64 (toSigned 64 (beNat (slice bs o 8)) + d))))

/-- The BASE of PTP_CORR extended to an instant as R209 extends: the one nearest the launch with these second, nanosecond and
sub-nanosecond bits. Its window is the 65,536 s that SEC[15:0] counts (R195; DEDUCED notes/assumptions/57.md). -/
def extendBase (base launch : Nat) : Nat :=
  let w := 65536 * sec1
  let b := base / 2 ^ 48 % 65536 * sec1 + base % 2 ^ 48
  let d := (launch + w - b % w) % w
  if 2 * d ≤ w then launch - d else launch + (w - d)

/-- The offset of a frame's UDP header, for a frame without FCS. -/
def udpAt (bs : List Byte) : Option (Ip × Nat) :=
  let b := bs ++ [0, 0, 0, 0]
  match parseIp b (parseL2 b) with
  | some ip => if ip.proto = 17 then some (ip, ip.l4) else none
  | none => none

/-- The first byte a field may take (R197, reason 1). -/
def fieldFloor (bs : List Byte) : Nat :=
  let h := parseL2 (bs ++ [0, 0, 0, 0])
  let udp := fun (proto : Nat) => if proto = 17 then 8 else 0
  match ipVer h.etype with
  | 1 => h.l3 + beNat (slice bs h.l3 1) % 16 * 4 + udp (beNat (slice bs (h.l3 + 9) 1))
  | 2 => h.l3 + 40 + udp (beNat (slice bs (h.l3 + 6) 1))
  | _ => h.l3

/-- The fields an operation writes: offset and length (R193). -/
def descFields (d : TxDesc) : List (Nat × Nat) :=
  match d.op with
  | 1 => [(d.ofs, 8)]
  | 2 => [(d.ofs, 10), (d.corr, 8)]
  | 3 => [(d.corr, 8)]
  | 4 => [(d.ofs, 10), (d.corr, 8)]
  | _ => []

/-- What PTP_CORR adds to the correctionField (R195). -/
def corrAdded (f : TxFrame) (launch : Nat) : Int :=
  let old := toSigned 64 (beNat (slice f.bytes f.desc.corr 8))
  satSigned 64 (old + ((launch : Int) - extendBase f.desc.base launch)) - old

/-- The bytes of a frame with the fields of its descriptor written at launch (R193 to R196); `linked` is the launch that OP 4 writes. -/
def State.insertFields (s : State) (f : TxFrame) (launch linked : Nat) : List Byte :=
  let d := f.desc
  let new := match d.op with
    | 1 => overwrite f.bytes d.ofs (beBytes 8 (ntpStamp launch (s.utcAt (instSec launch))))
    | 2 => addCorr (overwrite f.bytes d.ofs (ptpStamp launch)) d.corr (instSub launch)
    | 3 => addCorr f.bytes d.corr ((launch : Int) - extendBase d.base launch)
    | 4 => addCorr (overwrite f.bytes d.ofs (ptpStamp linked)) d.corr (instSub linked)
    | _ => f.bytes
  if d.csum then
    match udpAt f.bytes with
    | some (ip, u) =>
      let c := beNat (slice f.bytes (u + 6) 2)
      if ip.ver = 1 ∧ c = 0 then new
      else overwrite new (u + 6) (beBytes 2 (nonZeroSum (updateSum c (onesSum (f.bytes.drop u)) (onesSum (new.drop u)))))
    | none => new
  else new

/-- The reason a descriptor is refused at commit (R197). -/
def State.insertError (s : State) (p : Nat) (f : TxFrame) : Option Nat :=
  let d := f.desc
  if (descFields d).any (fun x => x.1 < fieldFloor f.bytes || f.bytes.length < x.1 + x.2) then some 1
  else if d.csum ∧ (udpAt f.bytes).isNone then some 2
  else if d.op = 4 ∧ (s.link p d.link).1 = 0 then some 3
  else if d.op = 6 ∧ f.resv.isNone then some 4
  else none

/-- The bytes that must have arrived before commit (R173, R196). -/
def State.neededBytes (s : State) (p : Nat) (f : TxFrame) : Nat :=
  (descFields f.desc).foldl (fun n x => max n (x.1 + x.2)) (min (s.get (MAC_TXTHR_CUR p)) f.bytes.length)

/-! ### Time on the line -/

/-- One transmit block, rounded up (R187). -/
def State.blockTime (s : State) (p : Nat) : Nat := ceilDiv ((s.portRow p).block * 65536) 1000

/-- A frame with preamble and gap (R163). -/
def State.frameTime (s : State) (p : Nat) (f : TxFrame) : Nat := s.lineTime p (wireLen f + 20)

/-- The port's mode inserts alignment markers or FEC parity: modes 0 to 3, and mode 4 with FEC (PRESUMED notes/assumptions/55.md). -/
def State.inserts (s : State) (p : Nat) : Bool :=
  s.get (MAC_QMODE_MODE (p / 8)) < 4 || (s.get (MAC_QMODE_MODE (p / 8)) == 4 && s.is (MAC_QMODE_FEC25 (p / 8)))

/-- The first block boundary at or after an instant, on the grid of blocks with a boundary at `phase`, in 1/1,000 of 2^-16 ns, and
`am` blocks that the PCS inserts before it (R191). -/
def State.blockAt (s : State) (p from_ phase am : Nat) : Nat :=
  let b := (s.portRow p).block * 65536
  (1000 * from_ + (phase % b + b - 1000 * from_ % b) % b + (if s.inserts p then am * b else 0) + 500) / 1000

/-- The instant from which R191 allows a start block. -/
def State.earliest (s : State) (p from_ : Nat) : Nat :=
  max (from_ + (s.portRow p).pipe * ns1) (max (s.port p).freeAt ((s.port p).wakeEnd.getD 0))

/-! ### Commit (R173, R175, R191, R197, R198, R200, R220) -/

/-- The first frame of a queue that ordinary service sees: not one that waits for its reserved instant (R200). -/
def TxFrame.ordinary (f : TxFrame) : Bool := f.resv.isNone

/-- A host-originated MAC control frame, which a pause does not hold (R175). -/
def TxFrame.control (f : TxFrame) : Bool := f.host && (parseL2 f.bytes).etype == 0x8808

/-- The queue served next and its head: strict priority; during a pause only MAC control frames of the host. -/
def State.nextHead (s : State) (p : Nat) : Option (Nat × TxFrame) :=
  (List.range 8).findSome? fun q =>
    match (s.txq p q).find? TxFrame.ordinary with
    | some f => if !s.pausing p || f.control then some (q, f) else none
    | none => none

/-- Remove the first ordinary frame of a queue. -/
def State.dropHead (s : State) (p q : Nat) : State :=
  match takeFirst TxFrame.ordinary (s.txq p q) with
  | some (_, r) => s.setTxq p q r
  | none => s

/-- A response to a frame caught before the port went DOWN (R172). -/
def State.caughtBefore (s : State) (p : Nat) (f : TxFrame) : Bool := f.caught && f.downs != (s.port p).downs

/-- A response of a gated partition whose gate is closed, or opened after the request was caught (R220). -/
def State.gateDrops (s : State) (p : Nat) (f : TxFrame) : Bool :=
  f.part.isSome && (!s.gateOpen p || (s.port p).gateAt.any fun g => decide (f.stamp < g))

/-- A gated response is discarded at the transmit scheduler (R220). -/
def State.countGate (s : State) (f : TxFrame) : State := (s.perfEv 0x26 f.src 1).bump (FAB_PART_GATEDROP (f.part.getD 0)) 1

/-- A descriptor error at commit (R197). -/
def State.countInsert (s : State) (p reason : Nat) : State :=
  ((s.portEv 0x12 p 1).bump (TSQ_P_INSERR p) 1).noteSec (0x2003 + 65536 * p) (p + reason * 2 ^ 8)

/-- A frame of queue `q` is committed with its start block (R191). The start block passes at the device tick that the increment in
force gives, with a part of a tick beyond it (R192); the linked stamp is the one of this moment (R198). -/
def State.commitFrame (s : State) (p q : Nat) (f : TxFrame) (tB : Nat) : State :=
  let wait := (((tB : Int) + s.txLatency p - s.now) / ns1).toNat
  let ahead := (tB - s.now) * 2 ^ 24
  let x : InTx := { frame := f, queue := q, tB := tB, tick := s.tb.ticks + ahead / s.effIncr, ofs := ahead % s.effIncr / 2 ^ 24
                    fin := tB + s.lineTime p (wireLen f + 8), linked := (s.link p f.desc.link).2 }
  let s := (((s.portEv 0x01 p 1).portEv (0x02 + q) p 1).portEv 0x0A p (wireLen f)).portEv 0x13 p wait
  s.onPort p fun y => { y with tx := y.tx ++ [x], freeAt := tB + s.frameTime p f }

/-! ### Reservations (R199 to R201) -/

/-- A start block moved past the earlier grants it would overlap, in order of their start blocks; `at_` gives the first block boundary
at or after an instant. -/
def clearOf (len : Nat) (at_ : Nat → Nat) : List Grant → Nat → Nat
  | [], t => t
  | g :: r, t => if t < g.tB + g.len ∧ g.tB < t + len then clearOf len at_ r (at_ (g.tB + g.len)) else clearOf len at_ r t

/-- Insert a grant by its start block. -/
def insertGrant (g : Grant) : List Grant → List Grant
  | [] => [g]
  | h :: t => if g.tB < h.tB then g :: h :: t else h :: insertGrant g t

/-- The next second boundary. -/
def State.nextBoundary (s : State) : Nat := (instSec s.now + 1) * sec1

/-- The step armed for a tick before an instant (R199): a frozen one, or one armed at least 10 us before. -/
def State.stepBefore (s : State) (t : Nat) : Option Int :=
  if s.nextBoundary ≤ t then
    s.tb.frozen.orElse fun _ => if s.tb.stepArmed + 10 * us1 ≤ s.nextBoundary then s.tb.step else none
  else none

/-- The grants of a port whose slot is over and was missed go. -/
def State.purgeGrants (s : State) (p : Nat) : State :=
  if s.ts.grants.any fun g => g.port == p && g.missed && decide (g.tB + g.len ≤ s.now) then
    s.onTs fun t => { t with grants := t.grants.filter fun g => !(g.port == p && g.missed && decide (g.tB + g.len ≤ s.now)) }
  else s

/-- Grant a reservation on a port for a frame of `len` bytes (R199): the grant, and its reserved instant. `phase` places the grid of
blocks. -/
def State.reserve (s : State) (p len phase : Nat) : State × Grant :=
  let s := ((s.portNow p).purgeGrants p).startWake p
  let n := s.lineTime p (max 64 len + 20)
  let at_ := fun t => s.blockAt p t phase 0
  let t := clearOf n at_ (s.ts.grants.filter (·.port == p)) (at_ (s.earliest p (s.now + s.get TSQ_CFG_RLEAD * ns1)))
  let d := s.stepBefore t
  let g : Grant := { id := s.ts.nextGrant, port := p, tB := t, len := n, step := d, steps := s.tb.steps
                     instant := ((t : Int) + d.getD 0 + s.txLatency p).toNat }
  ((s.portEv 0x0C p 1).onTs fun x => { x with grants := insertGrant g x.grants, nextGrant := x.nextGrant + 1 }, g)

/-- The frame of a grant has been committed. -/
def State.grantUsed (s : State) (g : Grant) : Bool := (s.port g.port).tx.any fun x => x.frame.resv == some g.id

/-- The grants of a port whose frames have not been committed and whose slots have not been missed. -/
def State.openGrants (s : State) (p : Nat) : List Grant := s.ts.grants.filter fun g => g.port == p && !g.missed && !s.grantUsed g

/-- The reason a reserved frame cannot leave at its instant (R201), in the order of the table. A slot that has begun when the frame
would be committed is missed for reason 1. -/
def State.resvMiss (s : State) (p : Nat) (g : Grant) (f : Option TxFrame) : Option Nat :=
  let applied := s.tb.steps ≠ g.steps
  let coming := s.stepBefore g.tB
  if !f.any (·.whole) ∨ g.tB < s.now then some 1
  else if s.pausing p then some 2
  else if !s.portSends p then some 3
  else if g.step.isSome ∧ !applied ∧ coming.isNone then some 4
  else if f.any (fun f => s.gateDrops p f) then some 5
  else if (if applied then s.tb.lastStep ≠ g.step else coming ≠ g.step) then some 6
  else none

/-- A missed slot passes as idle: its frame, if it has been delivered, is discarded (R201). -/
def State.missSlot (s : State) (p : Nat) (g : Grant) (found : Option (Nat × TxFrame × List TxFrame)) : State :=
  let s := s.onTs fun t => { t with grants := t.grants.map fun h => if h.id = g.id then { h with missed := true } else h }
  match found with
  | some (q, f, l) => (s.setTxq p q l).neverSent p f
  | none => s

/-- The commit point of a reservation (R200, R201). A frame that R172, R163 or R197 discards is counted there, and its slot passes as
idle (DESIGN CHOICE notes/assumptions/57.md). -/
def State.resvTake (s : State) (p : Nat) (g : Grant) : State :=
  let found := (List.range 8).findSome? fun q => (takeFirst (fun f => f.resv == some g.id) (s.txq p q)).map fun x => (q, x.1, x.2)
  match s.resvMiss p g (found.map (·.2.1)), found with
  | some r, _ =>
    let s := s.missSlot p g found
    let s := if r = 3 then s.count p 42 1 else s
    let s := match found with
      | some (_, f, _) => if r = 5 then s.countGate f else s
      | none => s
    ((s.portEv 0x0D p 1).bump (TSQ_P_RESVMISS p) 1).noteSec (0x2004 + 65536 * p) (p + r * 2 ^ 8)
  | none, some (q, f, l) =>
    if s.caughtBefore p f then (s.missSlot p g found).count p 42 1
    else if s.get (MAC_CFG_MAXLEN p) < wireLen f then (s.missSlot p g found).count p 43 1
    else match s.insertError p f with
    | some r => (s.missSlot p g found).countInsert p r
    | none =>
      let s := if f.part = some 3 then s.bump NTS_CNT_RESP 1 else s
      (s.setTxq p q l).commitFrame p q f g.tB
  | none, none => s

/-- The reservations of a port whose commit point, L_pipe before the start block, has come (R200). -/
def State.resvDue (s : State) (p : Nat) : State :=
  let l := (s.openGrants p).filter fun g => decide (g.tB ≤ s.now + (s.portRow p).pipe * ns1)
  (l.foldl (fun s g => s.resvTake p g) s).purgeGrants p

/-- The commit point of the earliest reservation of a port. -/
def State.resvCommit (s : State) (p : Nat) : State :=
  match s.openGrants p with
  | [] => s
  | g :: _ =>
    match s.reach (g.tB - (s.portRow p).pipe * ns1) with
    | none => s
    | some s => (s.portNow p).resvDue p

def execReservedCommit (p : Fin 32) (s : State) : Out := .next (s.resvCommit p)

/-! ### Ordinary service -/

/-- A frame that starts at `t` keeps clear of a grant (R200): it and its gap end at least one block before the reserved start block. A
slot that was missed is only kept free (R201). -/
def State.clears (s : State) (p : Nat) (f : TxFrame) (t : Nat) (g : Grant) : Bool :=
  g.port != p || s.grantUsed g || decide (t + s.frameTime p f + s.blockTime p ≤ g.tB) || (g.missed && decide (g.tB + g.len ≤ t))

/-- The head frame of a queue is committed if R173 and R200 allow; else it holds its port for the reserved frame. -/
def State.commitHead (s : State) (p q : Nat) (f : TxFrame) (phase am : Nat) : State :=
  let w := s.startWake p
  let t := w.blockAt p (w.earliest p w.now) phase am
  if s.ts.grants.all fun g => s.clears p f t g then (w.dropHead p q).commitFrame p q f t
  else s.onTs fun x => { x with grants := x.grants.map fun g => if s.clears p f t g then g else { g with hold := true } }

/-- The scheduler considers the head frame of the highest non-empty queue: it is discarded by R172, R220, R163, R197 or R178, waits, or
is committed. -/
def State.serveHead (s : State) (p phase am : Nat) : State :=
  match s.nextHead p with
  | none => s
  | some (q, f) =>
    if s.caughtBefore p f then if f.whole then ((s.dropHead p q).count p 42 1).neverSent p f else s
    else if s.gateDrops p f then ((s.dropHead p q).countGate f).neverSent p f
    else if s.get (MAC_CFG_MAXLEN p) < wireLen f then ((s.dropHead p q).count p 43 1).neverSent p f
    else match s.insertError p f with
    | some r => ((s.dropHead p q).countInsert p r).neverSent p f
    | none =>
      let link := (s.link p f.desc.link).1
      if f.desc.op = 4 ∧ link = 1 then s
      else if f.desc.op = 4 ∧ 3 ≤ link then ((s.dropHead p q).count p 46 1).neverSent p f
      else if f.arrived < s.neededBytes p f then s
      else s.commitHead p q f phase am

/-- The port may commit an ordinary frame: it sends, its next launch can be fixed, and no reserved frame holds it (R173, R200). -/
def State.mayCommit (s : State) (p : Nat) : Bool :=
  s.portSends p && decide ((s.port p).freeAt ≤ s.now + (s.portRow p).pipe * ns1) &&
    !s.ts.grants.any fun g => g.port == p && g.hold

/-- TX_COMMIT: the transmit scheduler of a port acts; `phase` places its grid of blocks, and `am` is the number of blocks that the PCS
inserts before the start block (R191). -/
def State.txCommit (s : State) (p phase am : Nat) : State :=
  let s := (s.portNow p).resvDue p
  if s.mayCommit p then s.serveHead p phase am else s

def execTxCommit (p : Fin 32) (b : TxBlock) (s : State) : Out := .next (s.txCommit p b.phase b.am)

/-- The head frame of a queue, complete, on a port that is not UP or has RFAULT = 1 (R172). -/
def State.linkDiscard (s : State) (p q : Nat) : State :=
  let s := s.settle p
  match (s.txq p q).find? TxFrame.ordinary with
  | none => s
  | some f =>
    if f.whole && (!s.portSends p || s.caughtBefore p f) then ((s.dropHead p q).count p 42 1).neverSent p f else s

def execTxLinkdownDiscard (p : Fin 32) (tq : Fin 8) (s : State) : Out := .next (s.linkDiscard p tq)

/-! ### Launch (R192, R198, R203) -/

/-- The instant a frame states for its own launch (R204); none for a frame that is not audited (R203). -/
def State.stated (s : State) (f : TxFrame) (launch : Nat) : Option Nat :=
  match f.desc.op with
  | 1 | 2 | 5 => some launch
  | 3 => some ((extendBase f.desc.base launch : Int) + corrAdded f launch).toNat
  | 6 => (f.resv.bind s.grantOf).map (·.instant)
  | 0 => if f.desc.linkRec then some launch else none
  | _ => none

/-- Count a launch toward the audit, and select it (R203). CH30 holds an audit for 200 ns. -/
def State.auditCount (s : State) (p : Nat) (stated : Nat) : State :=
  if !s.is TSQ_AUDIT_EN then s
  else
    let n := s.ts.auditCount + 1
    if n < 2 ^ s.get TSQ_CFG_AUDN then s.onTs fun t => { t with auditCount := n }
    else
      let s := (s.portEv 0x11 p 1).onTs fun t => { t with auditCount := 0 }
      if s.ts.audit.any fun a => decide (s.tb.ticks < a.ends) then s.bump TSQ_AUDSTAT_SKIP 1
      else s.onTs fun t => { t with audit := some ⟨p, stated, s.tb.ticks + 200, false⟩ }

/-- The transmit path has left LPI. -/
def State.wakeOver (s : State) (p : Nat) : State := if s.is (MAC_STATUS_TXLPI p) then s.lpiExit p else s

/-- The first frame that has not launched is replaced by what it became. -/
def launched (x : InTx) : List InTx → List InTx
  | [] => []
  | y :: r => if y.launch.isNone then x :: r else y :: launched x r

/-- The start block of a frame passes the measurement point at the present tick: the launch instant is taken from the replica there
(R192), or is the one fixed at commit when the tick has passed; the inserted fields, the link table and the audit follow. -/
def State.launchNow (s : State) (p : Nat) (x : InTx) : State :=
  let at_ : Nat := if s.tb.ticks = x.tick then s.replica p + x.ofs else x.tB
  let launch := ((at_ : Int) + s.txLatency p).toNat
  let f := x.frame
  let bytes := s.insertFields f launch x.linked
  let s := s.wakeOver p
  let s := if f.desc.linkRec then s.setLink p f.desc.link (2, launch) else s
  let s := match s.stated f launch with | some t => s.auditCount p t | none => s
  let s := match f.resv with
    | some id => s.onTs fun t => { t with grants := t.grants.filter (·.id ≠ id) }
    | none => s
  s.onPort p fun y => { y with tx := launched { x with launch := some launch, frame := { f with bytes := bytes } } y.tx }

/-- START_BLOCK_LAUNCH: the next start block of a port passes. -/
def State.launchFrame (s : State) (p : Nat) : State :=
  match (s.port p).tx.find? (·.launch.isNone) with
  | none => s.settle p
  | some x =>
    match s.reachTick x.tick with
    | none => s
    | some t => (t.launchNow p x).settle p

def execStartBlockLaunch (p : Fin 32) (s : State) : Out := .next (s.launchFrame p)

/-- A frame ends after `sent` bytes with the inverse of its FCS, and the threshold rises; its rest is discarded as it is delivered
(R176, R178, R198). -/
def State.cutShort (s : State) (p sent launch : Nat) (x : InTx) : State :=
  let f := x.frame
  let bytes := f.bytes.take (max 64 (min sent f.arrived))
  let cur := min 9216 (s.get (MAC_TXTHR_CUR p) + 64)
  let s := (((s.count p 41 1).set (MAC_TXTHR_CUR p) cur).noteSec (0x1003 + 65536 * p) (p + cur * 2 ^ 16)).onPort p
    fun y => { y with tx := y.tx.drop 1
                      freeAt := if y.tx.length ≤ 1 then x.tB + s.lineTime p (bytes.length + 24) else y.freeAt }
  let s := if f.desc.linkRec then s.setLink p f.desc.link (3, launch) else s
  let s := if f.desc.op = 5 then s.tsRecord p { t := launch, tag := f.desc.tag, launch := true, underrun := true } else s
  (s.wasteRest p f).emit (.cut p (bytes ++ invBytes (fcsOf bytes)) launch)

/-- TX_UNDERRUN: the bytes of the frame on the line are used up, and the next ones are late. -/
def State.underrun (s : State) (p sent : Nat) : State :=
  match (s.settle p).port p |>.tx with
  | [] => s.settle p
  | x :: _ =>
    if x.frame.whole then s.settle p
    else match x.launch, (s.settle p).reach (x.tB + s.lineTime p (x.frame.arrived + 8)) with
    | some launch, some t => t.cutShort p sent launch x
    | _, _ => s

def execTxUnderrun (p : Fin 32) (sent : Nat) (s : State) : Out := .next (s.underrun p sent)

/-- The oldest frame of a source on a port that is not whole: one in transmission, one that waits, or the rest of one that is
discarded (R234). -/
def State.oldest (s : State) (src p : Nat) : Option Nat :=
  let f := fun (x : TxFrame) => if x.src = src ∧ !x.whole then some x.ord else none
  ((s.port p).tx.filterMap (fun x => f x.frame) ++ (List.range 8).flatMap (fun q => (s.txq p q).filterMap f) ++
    s.mac.waste.filterMap fun w => if w.src = src ∧ w.port = p then some w.ord else none).min?

/-- A 64-byte transfer to frame `o`. -/
def TxFrame.fill (f : TxFrame) (o : Nat) : TxFrame := if f.ord = o ∧ !f.whole then { f with arrived := f.arrived + 64 } else f

/-- COLLECTOR_TRANSFER: a collector forwards 64 bytes of the oldest incomplete frame of a source on a port (R234, R236); those of a
frame that is discarded vanish (R176, R201). -/
def State.transfer64 (s : State) (src p : Nat) : State :=
  match s.oldest src p with
  | none => s
  | some o =>
    (s.onMac fun m => { m with
      ports := SMap.set {} m.ports p { s.port p with tx := (s.port p).tx.map fun x => { x with frame := x.frame.fill o } }
      txq := m.txq.map fun q => (q.1, if q.1 / 8 = p then q.2.map (·.fill o) else q.2)
      waste := (m.waste.map fun w => if w.ord = o ∧ w.port = p then { w with left := w.left - 64 } else w).filter (0 < ·.left) }).settle p

def execCollectorTransfer (src : Fin 33) (p : Fin 32) (s : State) : Out := .next (s.transfer64 src p)

/-! ### Audit results (R204) -/

/-- The CH30 stamp of the audited launch's marker. -/
def State.auditResult (s : State) (mark : Nat) : State :=
  match s.ts.audit with
  | none => s
  | some a => if a.done then s else
    let q := a.port / 8
    let e : Int := (mark : Int) + Config.serDelay a.port + psToSub (s.geti (TSQ_LANETRIM_TXTRIM q (a.port % 8))) +
      s.geti (TSQ_P_TXDLY a.port) - a.stated
    let i := (e * 1000 + 400 * 65536) / (25 * 65536)
    let n := s.get TSQ_HIST_SEQA + 1
    let ps := satSigned 16 (divRound (e * 1000) 65536)
    let s := s.onTs fun t => { t with audit := some { a with done := true } }
    let s := if i < 0 then s.bump TSQ_HIST_UNDER 1 else if 32 ≤ i then s.bump TSQ_HIST_OVER 1
      else s.bump (TSQ_HIST_BIN i.toNat) 1
    let s := ((s.bump TSQ_HIST_COUNT 1).set TSQ_HIST_SEQA n).set TSQ_HIST_SEQB n
    let s := (s.seti TSQ_AUDLAST_ERR ps).set TSQ_AUDLAST_PORT a.port
    if s.get TSQ_AUDIT_LIM * 65536 < e.natAbs * 1000 then s.noteSec 0x2002 (a.port + ofSigned 16 ps * 2 ^ 16) else s

/-- TSQ_AUDIT.CLR (R204). -/
def State.auditClear (s : State) : State :=
  let n := s.get TSQ_HIST_SEQA + 1
  let s := s.forEach 32 fun s i => s.set (TSQ_HIST_BIN i) 0
  ((((s.set TSQ_HIST_UNDER 0).set TSQ_HIST_OVER 0).set TSQ_HIST_COUNT 0).set TSQ_HIST_SEQA n).set TSQ_HIST_SEQB n

def execAuditResult (mark : Nat) (s : State) : Out := .next (s.auditResult mark)
def execAuditClear (s : State) : Out := .next s.auditClear

end Sys2Proof.Machine
end

