-- ==== Sys2Proof/Machine/Fabric.lean ====
section
/-! DEFINITION. The response fabric (spec/08_response_fabric.md): dispatch, micro-engines, units, association store,
rate sketch, self-check and leaving service. -/
namespace Sys2Proof.Machine

/-! ### Clusters and engines (R212, R213, R241) -/

def State.cluster (s : State) (c : Nat) : Cluster := SMap.get {} s.fab.clusters c
def State.setCluster (s : State) (c : Nat) (x : Cluster) : State := s.onFab fun f => { f with clusters := SMap.set {} f.clusters c x }
def State.engineOf (s : State) (id : Nat) : Engine := SMap.get {} s.fab.engines id
def State.setEngineOf (s : State) (id : Nat) (x : Engine) : State := s.onFab fun f => { f with engines := SMap.set {} f.engines id x }

/-- The device-wide identifier of an engine (R213). -/
def engId (g : Eng) : Nat := 64 * g.c + g.e

def State.eng (s : State) (g : Eng) : Engine := s.engineOf (engId g)
def State.setEng (s : State) (g : Eng) (x : Engine) : State := s.setEngineOf (engId g) x
def State.onEng (s : State) (g : Eng) (f : Engine → Engine) : State := s.setEng g (f (s.eng g))

/-- One bit of a field. -/
def State.bit (s : State) (F : Field) (i : Nat) : Bool := (s.get F).testBit i
def State.setBit (s : State) (F : Field) (i : Nat) (b : Bool) : State :=
  s.set F (if b then s.get F ||| 2 ^ i else s.get F &&& ((2 ^ F.width - 1) ^^^ 2 ^ i))

/-- Bit `e` of an engine map in a low field of 32 engines and a high field of two. -/
def State.engBit (s : State) (lo hi : Field) (e : Nat) : Bool := if e < 32 then s.bit lo e else s.bit hi (e - 32)
def State.setEngBit (s : State) (lo hi : Field) (e : Nat) (b : Bool) : State :=
  if e < 32 then s.setBit lo e b else s.setBit hi (e - 32) b

/-- The engine is in service, is retired, was retired by command. -/
def State.engIn (s : State) (c e : Nat) : Bool := s.engBit (FAB_CL_ENGMAP_LO c) (FAB_CL_ENGMAP_HI c) e
def State.engRetired (s : State) (c e : Nat) : Bool := s.engBit (FAB_CL_RETMAP_LO c) (FAB_CL_RETMAP_HI c) e
def State.engByCmd (s : State) (c e : Nat) : Bool := s.engBit (FAB_CL_RETCMDMAP c) (FAB_CL_RETCMD c) e

/-- The failure count of an engine (R240). -/
def failField (c e : Nat) : Field :=
  let F := if e < 16 then FAB_CL_FAIL0 c else if e < 32 then FAB_CL_FAIL1 c else FAB_CL_FAIL2 c
  F

def State.failCount (s : State) (c e : Nat) : Nat := s.get (failField c e) / 4 ^ (e % 16) % 4
def State.setFail (s : State) (c e n : Nat) : State :=
  let v := s.get (failField c e)
  s.set (failField c e) (v - v / 4 ^ (e % 16) % 4 * 4 ^ (e % 16) + n * 4 ^ (e % 16))

/-- The partition is enabled (R215). -/
def State.partOn (s : State) (k : Nat) : Bool := s.is (FAB_PART_EN k)

/-- The clusters of a partition IN_SERVICE, in ascending order (R218). -/
def State.serving (s : State) (k : Nat) : List Nat :=
  (List.range 32).filter fun c => s.bit (FAB_PART_CLMASK k) c && s.get (FAB_CL_STATE c) == 0 && s.partOn k

/-- Engines in service of a cluster. -/
def State.engines (s : State) (c : Nat) : Nat := ((List.range 34).filter fun e => s.engIn c e).length

/-- The counts of engines in service follow the maps (R237). -/
def State.showEngines (s : State) : State :=
  let s := s.forEach 32 fun s c => s.set (FAB_CL_ENGIN c) (s.engines c)
  let n (s : State) (k : Nat) := (s.serving k).foldl (fun n c => n + s.get (FAB_CL_ENGIN c)) 0
  let s := s.forEach 6 fun s k => s.set (FAB_PART_ENGIN k) (n s k)
  s.set FAB_STATUS_ENGIN ((List.range 6).foldl (fun m k => m + n s k) 0)

/-- A cluster enters a state with event 0x3004 (R241). -/
def State.clusterTo (s : State) (c st : Nat) : State :=
  let old := s.get (FAB_CL_STATE c)
  ((s.set (FAB_CL_STATE c) st).event 0x3004 0 (c + st * 2 ^ 8 + old * 2 ^ 12)).showEngines

/-- The home cluster of a bucket: the buckets are dealt round-robin over the serving clusters (R218). -/
def State.home (s : State) (k b : Nat) : Option Nat :=
  let l := s.serving k
  l[b % l.length]?

/-- The dispatch key of a request (R218). A Roughtime batch close, for which none is stated, takes its batch number (DESIGN CHOICE
notes/assumptions/56.md). -/
def dispatchKey (r : Req) : List Byte :=
  if r.src = 1 ∨ r.src = 2 then beBytes 4 r.index
  else
    let h := parseL2 r.bytes
    match parseIp r.bytes h with
    | some ip => ip.src ++ ip.dst ++ (if ip.proto = 17 ∨ ip.proto = 6 then slice r.bytes ip.l4 4 else [0, 0, 0, 0]) ++ beBytes 1 r.vlan
    | none => beBytes 6 h.sa ++ beBytes 1 r.vlan

/-- The bucket of a request. -/
def State.bucket (s : State) (r : Req) : Nat := Config.dispatchHash s.fab.hashKey (dispatchKey r) % 256

/-- Put a request in its home cluster's queue; none when the queue is full or no cluster serves (R218). -/
def State.toHome (s : State) (r : Req) : Option State :=
  match s.home r.part (s.bucket r) with
  | none => none
  | some c =>
    let x := s.cluster c
    if 256 ≤ x.queue.length then none
    else some ((s.setCluster c { x with queue := x.queue ++ [r] }).set (FAB_CL_DQLEVEL c) (x.queue.length + 1))

/-- A partition is gated (R214). -/
def gated (k : Nat) : Bool := 2 ≤ k

/-- The partition of a receive queue (R169). -/
def State.rqPart (s : State) (p rq : Nat) : Nat :=
  let F := if rq < 8 then MAC_RQMAP0_PART0 p else MAC_RQMAP1_PART8 p
  s.get { F with lo := 4 * (rq % 8), hi := 4 * (rq % 8) + 3 }

/-- The head request of source `i` of partition `k`, and the state without it: receive queue `i` below 512, internal
source `i - 512` from there (R217). -/
def State.takeSource (s : State) (k i : Nat) : Option (Req × State) :=
  if i < 512 then
    if s.rqPart (i / 16) (i % 16) = k then
      match SMap.get [] s.mac.rxq i with
      | f :: r => some ({ part := k, src := 0, port := f.port, rq := f.rq, vlan := f.vlan, dacls := f.dacls, ipver := f.ipver,
                          bytes := f.bytes, stamp := f.stamp, seq := f.seq, downs := f.downs }, s.onMac fun m => { m with rxq := SMap.set [] m.rxq i r })
      | [] => none
    else none
  else
    match SMap.get [] s.fab.intern (4 * k + (i - 512)) with
    | q :: r => some (q, s.onFab fun f => { f with intern := SMap.set [] f.intern (4 * k + (i - 512)) r })
    | [] => none

/-- The request partition `k`'s dispatcher stalls on. -/
def State.stalledOn (s : State) (k : Nat) : Option Req := SMap.get none s.fab.stalled k
def State.setStalled (s : State) (k : Nat) (r : Option Req) : State := s.onFab fun f => { f with stalled := SMap.set none f.stalled k r }

/-- The requests in a cluster's queue move, in order, to their homes under the present table, as far as there is room (R241). -/
def State.moveQueue (s : State) (c : Nat) : State :=
  let q := (s.cluster c).queue
  let s := s.setCluster c { s.cluster c with queue := [] }
  let r := q.foldl (fun (a : State × List Req) r =>
    if a.2 = [] then match a.1.toHome r with | some t => (t, []) | none => (a.1, [r]) else (a.1, a.2 ++ [r])) (s, [])
  (r.1.setCluster c { r.1.cluster c with queue := r.2 }).set (FAB_CL_DQLEVEL c) r.2.length

/-- The clusters of a partition that have left service with requests that have not moved yet. -/
def State.leftBehind (s : State) (k : Nat) : List Nat :=
  (List.range 32).filter fun c => s.bit (FAB_PART_CLMASK k) c && s.get (FAB_CL_STATE c) != 0 && !(s.cluster c).queue.isEmpty

/-- A request is dispatched: discarded when it is gated and the gate of its port is closed (R220), placed in its home queue, or the
dispatcher stalls on it (R218). -/
def State.place (s : State) (k : Nat) (r : Req) : State :=
  if gated k && !s.gateOpen r.port then
    (s.perfEv 0x26 ((s.home k (s.bucket r)).getD 0) 1).bump (FAB_PART_GATEDROP k) 1
  else match s.toHome { r with ord := s.fab.reqOrd } with
  | some t => (t.bump (FAB_PART_REQ k) 1).onFab fun f => { f with reqOrd := f.reqOrd + 1 }
  | none => s.setStalled k (some r)

/-- The dispatcher of partition `k` finishes a redeal, then the request it stalls on, and then takes one request in rotating order
(R218, R220, R241). While no cluster of the partition serves it takes nothing. -/
def State.dispatch (s : State) (k : Nat) : State :=
  if s.serving k = [] then s
  else
    let s := (s.leftBehind k).foldl (fun s c => s.moveQueue c) s
    if s.leftBehind k ≠ [] then s
    else match s.stalledOn k with
    | some r => (s.setStalled k none).place k r
    | none =>
      let rot := SMap.get 515 s.fab.rot k
      let order := (List.range 516).map fun i => (rot + 1 + i) % 516
      match order.findSome? fun i => (s.takeSource k i).map fun x => (i, x) with
      | none => s
      | some (i, r, t) => (t.onFab fun f => { f with rot := SMap.set 515 f.rot k i }).place k r

def execDispatch (k : Fin 6) (s : State) : Out := .next (s.dispatch k)

/-- A request that is never stolen (R219). -/
def Req.bound (r : Req) : Bool :=
  r.src == 3 || (match parseIp r.bytes (parseL2 r.bytes) with | some ip => ip.proto == 6 | none => false)

/-- Take the oldest request that may be stolen. -/
def takeLoose : List Req → Option (Req × List Req)
  | [] => none
  | r :: t => if !r.bound then some (r, t) else (takeLoose t).map fun x => (x.1, r :: x.2)

/-- The cluster is free to work: IN_SERVICE or DRAINING, and the engine in service and idle. -/
def State.engFree (s : State) (g : Eng) : Bool :=
  s.engIn g.c g.e && (s.eng g).req.isNone && s.get (FAB_CL_STATE g.c) ≤ 1

/-- An idle engine steals the oldest request of the longest queue of its partition (R219). -/
def State.steal (s : State) (g : Eng) : State :=
  let k := s.get (FAB_CL_PART g.c)
  let mine := s.cluster g.c
  if s.engFree g && mine.queue.isEmpty && s.get (FAB_CL_STATE g.c) == 0 then
    let best := (s.serving k).foldl (fun (b : Option (Nat × Nat)) c =>
      let n := (s.cluster c).queue.length
      match b with
      | some (_, m) => if m < n then some (c, n) else b
      | none => some (c, n)) none
    match best with
    | some (c, n) =>
      if n < s.get (FAB_PART_STEALMIN k) then s
      else match takeLoose (s.cluster c).queue with
      | some (r, rest) =>
        let s := (s.setCluster c { s.cluster c with queue := rest }).set (FAB_CL_DQLEVEL c) rest.length
        ((s.setCluster g.c { mine with queue := [{ r with stolen := true }] }).set (FAB_CL_DQLEVEL g.c) 1).bump (FAB_PART_STEAL k) 1
      | none => s
    | none => s
  else s

def execEngineSteal (g : Eng) (s : State) : Out := .next (s.steal g)

/-- The length of a request's frame, FCS included; 0 when it has none. -/
def Req.len (r : Req) : Nat := r.tx.elim r.bytes.length wireLen

/-- The metadata register G62 (R223). -/
def State.metaWord (s : State) (r : Req) : Nat :=
  r.port + r.rq * 2 ^ 5 + r.vlan * 2 ^ 9 + r.dacls * 2 ^ 15 + r.ipver * 2 ^ 18 + r.src * 2 ^ 20 + r.len % 2 ^ 14 * 2 ^ 22 +
  (if s.is (TSQ_P_BOARDCAL r.port) then 0 else 2 ^ 36) + r.index % 2 ^ 20 * 2 ^ 37

/-- An engine with a request loaded (R222). -/
def State.loadRequest (s : State) (g : Eng) (r : Req) : State :=
  let full := instFull r.stamp
  let regs := SMap.set 0 (SMap.set 0 (SMap.set 0 (SMap.set 0 [] 60 (full / 2 ^ 48)) 61 (full % 2 ^ 48)) 62 (s.metaWord r)) 63
    (r.port * 2 ^ 27 + r.seq % 2 ^ 27)
  s.onEng g fun x => { req := some r, regs := regs, wait := 0, passes := x.passes, leaving := x.leaving }

/-- An engine starts the oldest request of its cluster, or discards it as stale (R221). -/
def State.requestStart (s : State) (g : Eng) : State :=
  let x := s.cluster g.c
  match x.queue with
  | [] => s
  | r :: rest =>
    if s.engFree g then
      let s := (s.setCluster g.c { x with queue := rest }).set (FAB_CL_DQLEVEL g.c) rest.length
      let lim := s.get (FAB_PART_MAXAGE r.part)
      if lim ≠ 0 ∧ lim * us1 < s.now - r.stamp then (s.perfEv 0x25 g.c 1).bump (FAB_PART_STALE r.part) 1
      else
        let s := s.perfEv 0x20 g.c 1
        (if r.stolen then s.perfEv 0x24 g.c 1 else s).loadRequest g r
    else s

def execRequestStart (g : Eng) (s : State) : Out := .next (s.requestStart g)

/-! ### Retirement (R240 to R242) -/

/-- A cluster starts to leave IN_SERVICE (R241): toward TEST (2) or RETIRED (3). -/
def State.startDrain (s : State) (c next : Nat) (byCommand : Bool) : State :=
  let s := (s.set (FAB_CL_STATE c) 1).setCluster c { s.cluster c with drainFrom := s.tb.ticks, drainTo := next, byCommand := byCommand }
  (s.moveQueue c).showEngines

/-- Another cluster of the partition would remain IN_SERVICE. -/
def State.notSole (s : State) (c : Nat) : Bool := (s.serving (s.get (FAB_CL_PART c))).any fun d => d ≠ c

/-- The marks of an engine are abandoned (R454). -/
def State.dropMarks (s : State) (id : Nat) : State :=
  s.onPerf fun p => { p with marks := p.marks.filter (·.engine ≠ id) }

/-- An engine ends its request; a commanded retirement then takes effect (R242). -/
def State.endRequest (s : State) (g : Eng) : State :=
  let x := s.eng g
  let s := s.setEng g { passes := x.passes }
  if x.leaving then
    (((s.dropMarks (engId g)).setEngBit (FAB_CL_ENGMAP_LO g.c) (FAB_CL_ENGMAP_HI g.c) g.e false).setEngBit (FAB_CL_RETMAP_LO g.c)
      (FAB_CL_RETMAP_HI g.c) g.e true).showEngines
  else s

/-- An engine whose failure count has reached 3 is retired (R240): a spare takes its place, or the cluster goes on
with one engine fewer and leaves when it was the last. -/
def State.retireFailed (s : State) (g : Eng) : State :=
  let c := g.c.val
  let id := engId g
  let s := ((s.dropMarks id).setEngBit (FAB_CL_ENGMAP_LO c) (FAB_CL_ENGMAP_HI c) g.e false).setEngBit (FAB_CL_RETMAP_LO c) (FAB_CL_RETMAP_HI c) g.e true
  match (List.range 34).find? fun e => !s.engIn c e && !s.engRetired c e with
  | some e => ((s.setEngBit (FAB_CL_ENGMAP_LO c) (FAB_CL_ENGMAP_HI c) e true).event 0x3002 1 (id + (64 * c + e) * 2 ^ 16)).showEngines
  | none =>
    let left := s.engines c
    let s := (s.raiseCond 0x3003 2 (id + left * 2 ^ 16) id).showEngines
    let k := s.get (FAB_CL_PART c)
    if left ≠ 0 then s
    else if s.notSole c then s.startDrain c 3 false
    else
      -- a cluster of the partition that is under test is required back (R437)
      let back (d : Nat) : Bool := s.get (FAB_CL_STATE d) == 2 || (s.get (FAB_CL_STATE d) == 1 && (s.cluster d).drainTo == 2)
      match (List.range 32).find? fun d =>
        s.bit (FAB_PART_CLMASK k) d && s.underTest d && back d && !s.bist.gated.any (·.retire) with
      | some d => (((s.bistCut d 4).setCluster d { s.cluster d with drainTo := 3 }).clusterTo d 0).startDrain c 3 false
      | none => s.event 0x3007 3 k

/-- An instruction of a class has executed on an engine (R445): it is counted, and every 2^NEXP-th one issued in the
sampled partition of a tile is marked (R454). -/
def State.ran (s : State) (g : Eng) (cls : Nat) : State :=
  match (s.eng g).req with
  | none => s
  | some r =>
    let x := s.eng g
    let s := (s.perfEv 0x01 g.c 1).perfEv (0x02 + cls) g.c 1
    let p := s.perf
    if p.sampEn = 1 ∧ r.part = p.sampPart ∧ s.engIn g.c g.e then
      let t := g.c.val / 8
      let n := (SMap.get 0 p.counts t + 1) % 2 ^ p.sampExp
      let m : Mark := { engine := engId g, cls := cls, addr := x.pc, wait := if cls = 6 ∨ cls = 7 then x.wait else 0, part := r.part
                        tag := r.port * 2 ^ 27 + r.seq % 2 ^ 27, issued := x.issued.getD s.now }
      s.onPerf fun p => { p with counts := SMap.set 0 p.counts t n, marks := if n = 0 then p.marks ++ [m] else p.marks }
    else s

/-- A failed self-check (R239, R240): the response is discarded and the request not answered. -/
def State.checkFailed (s : State) (g : Eng) : State :=
  match (s.eng g).req with
  | none => s
  | some r =>
    let n := min 3 (s.failCount g.c g.e + 1)
    let s := (((s.perfEv 0x27 g.c 1).bump (FAB_PART_CHKFAIL r.part) 1).noteSec (0x3001 + 65536 * g.c) (engId g)).setFail g.c g.e n
    let s := s.endRequest g
    let s := s.setEng g { s.eng g with passes := 0 }
    if n = 3 then s.retireFailed g else s

/-- CHECK (R239, R240): 65,536 passing responses in a row reset the failure count. -/
def State.check (s : State) (g : Eng) (ok : Bool) : State :=
  if (s.eng g).req.isNone then s
  else if ok then
    let n := (s.eng g).passes + 1
    let s := s.onEng g fun x => { x with checked := true, passes := n % 65536, pc := (x.pc + 1) % 16384 }
    if n = 65536 then s.setFail g.c g.e 0 else s
  else s.checkFailed g

def execCheckResponse (g : Eng) (ok : Bool) (s : State) : Out := .next ((s.ran g 8).check g ok)
def execReservedClassExecute (g : Eng) (s : State) : Out := .next (s.checkFailed g)

/-- A FAB_RETIRE request is refused (R241, R242). -/
def State.retireRefused (s : State) (c e status : Nat) : State :=
  (s.set FAB_RETIRE_STATUS status).event 0x3005 1 (c + e * 2 ^ 8 + status * 2 ^ 16)

/-- FAB_RETIRE runs from WARMUP on and in SAFE, when the fabric is powered. -/
def State.retireCluster (s : State) (c : Nat) : State :=
  if s.underTest c ∧ s.get (FAB_CL_STATE c) ≠ 3 ∧ s.get (FAB_CL_STATE c) ≠ 4 then (s.set FAB_RETIRE_STATUS 1).retireAfter
  else if s.get (FAB_CL_STATE c) ≠ 0 then s.retireRefused c 0 3
  else if !s.notSole c then s.retireRefused c 0 2
  else (s.set FAB_RETIRE_STATUS 1).startDrain c 3 true

def State.restoreCluster (s : State) (c : Nat) : State :=
  if s.get (FAB_CL_STATE c) = 3 ∧ (s.cluster c).byCommand then
    ((s.set FAB_RETIRE_STATUS 1).setCluster c { s.cluster c with byCommand := false }).clusterTo c 0
  else s.retireRefused c 0 3

def State.retireEngine (s : State) (c e : Nat) : State :=
  if 34 ≤ e ∨ !s.engIn c e ∨ s.engRetired c e then s.retireRefused c e 3
  else if s.engines c = 1 ∧ !s.notSole c then s.retireRefused c e 2
  else
    let s := (s.set FAB_RETIRE_STATUS 1).setEngBit (FAB_CL_RETCMDMAP c) (FAB_CL_RETCMD c) e true
    let id := 64 * c + e
    let s := if (s.engineOf id).req.isSome then s.setEngineOf id { s.engineOf id with leaving := true }
      else ((s.setEngBit (FAB_CL_ENGMAP_LO c) (FAB_CL_ENGMAP_HI c) e false).setEngBit (FAB_CL_RETMAP_LO c) (FAB_CL_RETMAP_HI c) e
        true).showEngines
    if s.engines c = 0 then s.startDrain c 3 true else s

def State.restoreEngine (s : State) (c e : Nat) : State :=
  if 34 ≤ e ∨ !s.engByCmd c e then s.retireRefused c e 3
  else
    let id := 64 * c + e
    let s := s.setEngineOf id { s.engineOf id with leaving := false }
    let s := ((s.set FAB_RETIRE_STATUS 1).setEngBit (FAB_CL_RETCMDMAP c) (FAB_CL_RETCMD c) e false).setEngBit (FAB_CL_RETMAP_LO c)
      (FAB_CL_RETMAP_HI c) e false
    ((s.setEngBit (FAB_CL_ENGMAP_LO c) (FAB_CL_ENGMAP_HI c) e true).setFail c e 0).clearCond 0x3003 id |>.showEngines

/-- The engines of a cluster that run a request. -/
def State.busyEngines (s : State) (c : Nat) : List Nat := (List.range 34).filter fun e => (s.engineOf (64 * c + e)).req.isSome

/-- Requests still in flight in a draining cluster after 100 us are discarded (R241). -/
def State.dropBusy (s : State) (c : Nat) : State :=
  let busy := s.busyEngines c
  let n := busy.length
  let t := busy.foldl (fun s e => s.setEngineOf (64 * c + e) { passes := (s.engineOf (64 * c + e)).passes }) s
  if n = 0 then t else (t.bump (FAB_PART_DRAINDROP (s.get (FAB_CL_PART c))) n).event 0x3006 1 (c + min n 65535 * 2 ^ 16)

/-- A draining cluster finishes: when nothing is in flight any more, or 100 us after its start (R241). Requests that have not found room
at their new homes stay queued, and the dispatcher moves them (R218). -/
def State.drainEnd (s : State) (c : Nat) : State :=
  if s.get (FAB_CL_STATE c) ≠ 1 then s
  else
    match s.reachTick (if s.busyEngines c = [] then 0 else 100000 + (s.cluster c).drainFrom) with
    | none => s
    | some s =>
      let s := (s.moveQueue c).dropBusy c
      s.clusterTo c (s.cluster c).drainTo

def execRetireCluster (c : Fin 32) (s : State) : Out := .next (s.retireCluster c)
def execRestoreCluster (c : Fin 32) (s : State) : Out := .next (s.restoreCluster c)
def execRetireEngine (c : Fin 32) (e : Fin 64) (s : State) : Out := .next (s.retireEngine c e)
def execRestoreEngine (c : Fin 32) (e : Fin 64) (s : State) : Out := .next (s.restoreEngine c e)
def execClusterDrainEnd (c : Fin 32) (s : State) : Out := .next (s.drainEnd c)

/-! ### Instructions (R222 to R225) -/

/-- Run an instruction of an engine that executes a request. -/
def State.onRun (s : State) (g : Eng) (f : Engine → Req → State) : State :=
  match (s.eng g).req with
  | some r => f (s.eng g) r
  | none => s

/-- The next instruction. -/
def Engine.next (x : Engine) : Engine := { x with pc := (x.pc + 1) % 16384 }

def Engine.reg (x : Engine) (r : Nat) : Nat := SMap.get 0 x.regs r
def Engine.setReg (x : Engine) (r v : Nat) : Engine := { x with regs := SMap.set 0 x.regs r (v % 2 ^ 64) }

/-- An ALU operation (R225; DESIGN CHOICE notes/assumptions/14.md): the value of a shift by 64 or more is not stated. -/
def State.alu (s : State) (g : Eng) (op : AluOp) (rd : Nat) (a b : Nat) (x : Engine) : State :=
  let w := 2 ^ 64
  match op with
  | .add => s.setEng g ((x.setReg rd (a + b)).next)
  | .sub => s.setEng g ((x.setReg rd (a + w - b)).next)
  | .and => s.setEng g ((x.setReg rd (a &&& b)).next)
  | .or => s.setEng g ((x.setReg rd (a ||| b)).next)
  | .xor => s.setEng g ((x.setReg rd (a ^^^ b)).next)
  | .mul => s.setEng g ((x.setReg rd (a * b)).next)
  | .shl => if b < 64 then s.setEng g ((x.setReg rd (a * 2 ^ b)).next) else s.drawn.setEng g ((x.setReg rd s.draw).next)
  | .shr => if b < 64 then s.setEng g ((x.setReg rd (a / 2 ^ b)).next) else s.drawn.setEng g ((x.setReg rd s.draw).next)
  | .eq => s.setEng g { x.next with flag := a == b }
  | .lt => s.setEng g { x.next with flag := decide (a < b) }

def State.aluRegister (s : State) (g : Eng) (op : AluOp) (rd ra rb : Nat) : State :=
  s.onRun g fun x _ => s.alu g op rd (x.reg ra) (x.reg rb) x

/-- The extension of a 16-bit immediate whose top bit is set is not stated (DESIGN CHOICE notes/assumptions/14.md). -/
def State.aluImmediate (s : State) (g : Eng) (op : AluOp) (rd ra imm : Nat) : State :=
  s.onRun g fun x _ =>
    if imm < 32768 then s.alu g op rd (x.reg ra) imm x
    else s.drawn.alu g op rd (x.reg ra) (if s.draw % 2 = 0 then imm else imm + (2 ^ 64 - 65536)) x

def State.branch (s : State) (g : Eng) (cond : Bool) (target : Nat) : State :=
  s.onRun g fun x _ => s.setEng g (if cond && !x.flag then x.next else { x with pc := target })

/-- Put bytes in the output window from an offset. -/
def Engine.write (x : Engine) (o : Nat) (bs : List Byte) : Engine :=
  { x with out := SMap.setMany 0 x.out o bs, outLen := max x.outLen (o + bs.length) }

/-- The bytes of the output window. -/
def Engine.output (x : Engine) : List Byte := SMap.getMany 0 x.out 0 x.outLen

/-- A load from the packet window, where bytes beyond the frame read 0, or a store to the output window (R224); the
first byte is the most significant (DESIGN CHOICE notes/assumptions/14.md). -/
def State.window (s : State) (g : Eng) (store : Bool) (r o n : Nat) : State :=
  s.onRun g fun x q =>
    let m := min (max n 1) (256 - o)
    if store then s.setEng g (x.write o (beBytes m (x.reg r))).next
    else
      let bs := slice (q.bytes.take 256) o m
      s.setEng g (x.setReg r (beNat (bs ++ List.replicate (m - bs.length) 0))).next

/-- A stream read takes the next 64-byte chunk beyond the packet window; a stream write extends the output (R224). -/
def State.stream (s : State) (g : Eng) (out : Option (List Byte)) : State :=
  s.onRun g fun x q =>
    match out with
    | none => s.setEng g { x.next with results := x.results ++ [⟨10, decide (x.streamPos < q.bytes.length), slice q.bytes x.streamPos 64⟩]
                                       streamPos := x.streamPos + 64 }
    | some bs => s.setEng g (x.write (max 256 x.outLen) (bs.take 64)).next

/-- Write 8-byte words to registers from `r` on. -/
def Engine.setWords (x : Engine) : Nat → Nat → List Byte → Engine
  | 0, _, _ => x
  | k + 1, r, bs => if bs = [] ∨ 64 ≤ r then x else Engine.setWords (x.setReg r (beNat (bs.take 8))) k (r + 1) (bs.drop 8)

/-- Wait for the oldest result of a unit (R226): its data go to registers from `rd` on and its success to the flag. -/
def State.unitWait (s : State) (g : Eng) (u rd : Nat) : State :=
  s.onRun g fun x _ =>
    match x.results.find? (·.unit == u) with
    | some r =>
      let x := { x with results := x.results.erase r, wait := 0, issued := none, flag := r.ok }
      (s.ran g 6).setEng g (x.setWords 64 rd r.data).next
    | none => s.setEng g { x with wait := u, issued := some (x.issued.getD s.now) }

/-- Responses of one flow leave in request order, except when a request was stolen (R219): no earlier request of the same flow is
still with an engine (DESIGN CHOICE notes/assumptions/56.md: its engine waits in EMIT). -/
def State.inTurn (s : State) (r : Req) : Bool :=
  r.stolen || s.fab.engines.all fun e =>
    match e.2.req with
    | some q => q.stolen || q.part != r.part || decide (r.ord ≤ q.ord) || dispatchKey q != dispatchKey r
    | none => true

/-- Put a frame on a source's lane, with one of its credits (R234). -/
def State.pushLane (s : State) (f : TxFrame) : State :=
  let key := 32 * f.src + f.port
  s.onFab fun b => { b with lanes := SMap.set [] b.lanes key (SMap.get [] b.lanes key ++ [f])
                            credits := SMap.set 0 b.credits key (SMap.get 0 b.credits key + 1) }

/-- What a request's EMIT hands to the collector: the frame built in the output window; with none built, the frame that the control
complex submitted (R217; DESIGN CHOICE notes/assumptions/56.md). -/
def Engine.frame (x : Engine) (g : Eng) (q : Req) (p cls : Nat) (d : TxDesc) : TxFrame :=
  let own : TxFrame := { port := p, cls := cls, bytes := x.output, desc := d, part := if gated q.part then some q.part else none,
                         stamp := q.stamp, caught := q.src == 0, downs := q.downs, src := g.c, resv := if d.op = 6 then x.grant else none }
  match q.tx with
  | some f => if x.outLen = 0 then { f with stamp := q.stamp, src := g.c } else own
  | none => own

/-- EMIT once a credit is free and the flow's turn has come (R219, R224, R234): the frame joins the lane of its port. -/
def State.emitTo (s : State) (g : Eng) (p cls : Nat) (d : TxDesc) : State :=
  s.onRun g fun x q =>
    let f := x.frame g q p cls d
    if 4 ≤ SMap.get 0 s.fab.credits (32 * g.c.val + f.port) ∨ !s.inTurn q then
      s.setEng g { x with wait := 9, issued := some (x.issued.getD s.now) }
    else
      let s := ((s.ran g 7).perfEv 0x21 g.c 1).setEng g { x.next with wait := 0, issued := none, emits := x.emits + 1, out := [], outLen := 0 }
      (s.pushLane f).bump (FAB_PART_RESP q.part) 1

/-- END after one to eight EMITs (R224); a routine that ends otherwise has no meaning there, and its engine stays with its request
(DESIGN CHOICE notes/assumptions/56.md). -/
def State.finish (s : State) (g : Eng) : State :=
  s.onRun g fun x _ => if 1 ≤ x.emits ∧ x.emits ≤ 8 then s.endRequest g else s

/-- DROP: no response (R224). -/
def State.dropReq (s : State) (g : Eng) : State := s.onRun g fun _ _ => (s.perfEv 0x22 g.c 1).endRequest g

def execAluRegister (g : Eng) (op : AluOp) (rd ra rb : Fin 64) (s : State) : Out := .next ((s.ran g 0).aluRegister g op rd ra rb)
def execAluImmediate (g : Eng) (op : AluOp) (rd ra : Fin 64) (imm : BitVec 16) (s : State) : Out :=
  .next ((s.ran g 1).aluImmediate g op rd ra imm.toNat)
def execBranchTo (g : Eng) (cond : Bool) (target : Fin 16384) (s : State) : Out := .next ((s.ran g 2).branch g cond target)
def execWindowLoadStore (g : Eng) (store : Bool) (r : Fin 64) (ofs : Fin 256) (n : Fin 9) (s : State) : Out :=
  .next ((s.ran g 3).window g store r ofs n)
def execStreamChunk (g : Eng) (out : Option (List Byte)) (s : State) : Out := .next ((s.ran g 4).stream g out)
def execUnitWait (g : Eng) (u : Fin 12) (rd : Fin 64) (s : State) : Out := .next (s.unitWait g u rd)
def execEmitFrame (g : Eng) (p : Fin 32) (cls : Fin 8) (d : TxDesc) (s : State) : Out := .next (s.emitTo g p cls d)
def execEndRoutine (g : Eng) (s : State) : Out := .next ((s.ran g 8).finish g)
def execDropRequest (g : Eng) (s : State) : Out := .next ((s.ran g 8).dropReq g)

/-! ### Unit calls (R226) -/

/-- A unit answers a call of an engine. -/
def State.answer (s : State) (g : Eng) (u : Nat) (ok : Bool) (data : List Byte) : State :=
  s.setEng g { (s.eng g).next with results := (s.eng g).results ++ [⟨u, ok, data⟩], wait := 0, issued := none }

/-- A call of a unit: it blocks while the engine's one slot there holds the result of an earlier call. -/
def State.onCall (s : State) (g : Eng) (u : Nat) (f : State → State) : State :=
  s.onRun g fun x _ =>
    if x.results.any (·.unit == u) then s.setEng g { x with wait := u, issued := some (x.issued.getD s.now) } else f (s.ran g 5)

/-- The key in a cluster key slot, 32 bytes. -/
def State.slotKey (s : State) (c slot : Nat) : List Byte := beBytes 32 (SMap.get 0 (s.cluster c).keySlots slot)

/-- AES-CMAC, AES-SIV seal and open. -/
def State.aesCall (s : State) (g : Eng) (op : AesOp) (slot : Nat) (ad : List (List Byte)) (data : List Byte) : State :=
  s.onCall g 1 fun s =>
    let k := s.slotKey g.c slot
    -- how many blocks a call takes is not stated (DESIGN CHOICE notes/assumptions/17.md)
    let s := s.drawn.perfEv 0x30 g.c s.draw
    match op with
    | .cmac => s.answer g 1 true (beBytes 16 (Config.aesCmac k data).toNat)
    | .seal => s.answer g 1 true (Config.sivSeal k ad data)
    | .openSealed => match Config.sivOpen k ad data with
      | some p => s.answer g 1 true p
      | none => s.answer g 1 false []

/-- The compressions a SHA-2 call takes (FIPS 180-4, RFC 2104). -/
def shaBlocks (op : ShaOp) (key data : List Byte) : Nat :=
  match op with
  | .sha256 => (data.length + 72) / 64
  | .sha512 => (data.length + 144) / 128
  | .hmac256 => 3 + (data.length + 72) / 64 + (if 64 < key.length then (key.length + 72) / 64 else 0)

def State.shaCall (s : State) (g : Eng) (op : ShaOp) (key data : List Byte) : State :=
  s.onCall g 2 fun s =>
    let s := s.perfEv 0x31 g.c (shaBlocks op key data)
    match op with
    | .sha256 => s.answer g 2 true (beBytes 32 (Config.sha256 data).toNat)
    | .sha512 => s.answer g 2 true (beBytes 64 (Config.sha512 data).toNat)
    | .hmac256 => s.answer g 2 true (beBytes 32 (Config.hmac256 key data).toNat)

/-- The last published TQR group, word by word (R105, R226). -/
def State.tqrBytes (s : State) : List Byte :=
  beBytes 4 (s.get SEL_TQR_CLASS + s.get SEL_TQR_TRACE * 2 ^ 8 + s.get SEL_TQR_LEAPPEND * 2 ^ 9 + s.get SEL_TQR_OSCLOSS * 2 ^ 10) ++
  beBytes 4 (s.get SEL_TQR_TEB) ++ beBytes 4 (s.get SEL_TQR_FEB) ++ beBytes 4 (s.get SEL_TQR_HOSEC) ++
  beBytes 4 (s.get (SEL_TQR_TIME 0)) ++ beBytes 4 (s.get (SEL_TQR_TIME 1)) ++ beBytes 4 (s.get (SEL_TQR_TIME 2))

def State.tqrRead (s : State) (g : Eng) : State := s.onCall g 6 fun s => s.answer g 6 true s.tqrBytes

/-- 64 to 256 bits of the DRBG (R226, R396). -/
def State.randomUnit (s : State) (g : Eng) (bits : Nat) : State :=
  s.onCall g 7 fun s =>
    let n := max 64 (min bits 256)
    (s.drawn.answer g 7 true (beBytes (n / 8) (s.random n))).onBoot fun b => { b with drbgReqs := b.drbgReqs + 1 }

/-- A reservation call (R199, R226): the granted instant as a full timestamp. -/
def State.reservationCall (s : State) (g : Eng) (p len phase : Nat) : State :=
  s.onCall g 5 fun s =>
    let r := s.reserve p len phase
    let s := (r.1.perfEv 0x35 g.c 1).answer g 5 true (beBytes 12 (instFull r.2.instant))
    s.onEng g fun x => { x with grant := some r.2.id }

def execAesCall (g : Eng) (op : AesOp) (slot : Nat) (ad : List (List Byte)) (data : List Byte) (s : State) : Out :=
  .next (s.aesCall g op slot ad data)
def execSha2Call (g : Eng) (op : ShaOp) (key data : List Byte) (s : State) : Out := .next (s.shaCall g op key data)
def execTqrRead (g : Eng) (s : State) : Out := .next (s.tqrRead g)
def execRandomCall (g : Eng) (bits : Nat) (s : State) : Out := .next (s.randomUnit g bits)
def execReservationRequest (g : Eng) (p : Fin 32) (len : Nat) (_cls : Fin 8) (phase : Nat) (s : State) : Out :=
  .next (s.reservationCall g p len phase)

/-! ### Association store (R227 to R231) -/

/-- The window address of entry `n`. -/
def entryAddr (n : Nat) : Nat := 0x10000000 + 0xA00000 * (n / 262144) + 32 * (n % 262144)

/-- The tile whose slice holds entry `n` (R227). -/
def sliceTile (n : Nat) : Nat := n / 262144

/-- The 32 bytes of entry `n`. -/
def State.entry (s : State) (n : Nat) : List Byte := SMap.getMany 0 s.fab.store (entryAddr n) 32

/-- The entry lies in the partition's range (R228). -/
def State.owns (s : State) (k n : Nat) : Bool :=
  s.partOn k && s.get (FAB_PART_ASSOCBASE k) ≤ n && n < s.get (FAB_PART_ASSOCBASE k) + s.get (FAB_PART_ASSOCCNT k)

/-- Write bytes of entry `n` from offset `o`, with the sequence word and the dirty bank (R229). -/
def State.writeEntry (s : State) (n o : Nat) (bs : List Byte) : State :=
  s.onFab fun f => { f with store := SMap.setMany 0 f.store (entryAddr n + o) bs
                            eseq := SMap.set 0 f.eseq n ((SMap.get 0 f.eseq n + 2) % 2 ^ 32)
                            dirty := SMap.set false f.dirty n true }

/-- What ECC does to an access (R230): a corrected error is counted; an uncorrectable one zeroes the 8-byte word and
the call returns ERR. -/
def State.eccEntry (s : State) (n : Nat) : Ecc → State × Bool
  | .clean => (s, true)
  | .corrected => (s.bump FAB_ECC_CORR 1, true)
  | .broken w =>
    (((s.onFab fun f => { f with store := SMap.setMany 0 f.store (entryAddr n + 8 * w) (List.replicate 8 0) }).bump FAB_ECC_UNCORR 1).event
      0x300A 1 n, false)

/-- A call on entry `n` of an engine's partition: ERR outside its range or on an uncorrectable error. -/
def State.storeCall (s : State) (g : Eng) (n : Nat) (ecc : Ecc) (f : State → State) : State :=
  s.onCall g 3 fun s =>
    let s := s.perfEv 0x32 g.c 1
    let s := if sliceTile n ≠ g.c.val / 8 then s.perfEv 0x33 g.c 1 else s
    if !(s.eng g).req.any fun q => s.owns q.part n then s.answer g 3 false []
    else
      let r := s.eccEntry n ecc
      if r.2 then f r.1 else r.1.answer g 3 false []

def State.assocRead (s : State) (g : Eng) (n : Nat) (ecc : Ecc) : State :=
  s.storeCall g n ecc fun s => s.answer g 3 true (s.entry n)

/-- A 32-byte entry from bytes: cut, or filled with zeros. -/
def entryOf (bs : List Byte) : List Byte := (bs ++ List.replicate (32 - bs.length) 0).take 32

def State.assocWrite (s : State) (g : Eng) (n : Nat) (data : List Byte) (ecc : Ecc) : State :=
  s.storeCall g n ecc fun s => (s.writeEntry n 0 (entryOf data)).answer g 3 true []

/-- Word `w` of entry `n`. -/
def State.entryWord (s : State) (n w : Nat) : Nat := beNat (SMap.getMany 0 s.fab.store (entryAddr n + 8 * w) 8)

/-- CAS64 returns the old value and a success flag (R229). -/
def State.cas64 (s : State) (g : Eng) (n w old new : Nat) (ecc : Ecc) : State :=
  s.storeCall g n ecc fun s =>
    let v := s.entryWord n w
    if v = old % 2 ^ 64 then (s.writeEntry n (8 * w) (beBytes 8 new)).answer g 3 true (beBytes 8 v) else s.answer g 3 false (beBytes 8 v)

def State.add64 (s : State) (g : Eng) (n w d : Nat) (ecc : Ecc) : State :=
  s.storeCall g n ecc fun s =>
    let v := (s.entryWord n w + d) % 2 ^ 64
    (s.writeEntry n (8 * w) (beBytes 8 v)).answer g 3 true (beBytes 8 v)

def execAssocRead (g : Eng) (n : Nat) (ecc : Ecc) (s : State) : Out := .next (s.assocRead g n ecc)
def execAssocWrite (g : Eng) (n : Nat) (data : List Byte) (ecc : Ecc) (s : State) : Out := .next (s.assocWrite g n data ecc)
def execCas64 (g : Eng) (n : Nat) (w : Fin 4) (old new : Nat) (ecc : Ecc) (s : State) : Out := .next (s.cas64 g n w old new ecc)
def execAdd64 (g : Eng) (n : Nat) (w : Fin 4) (d : Nat) (ecc : Ecc) (s : State) : Out := .next (s.add64 g n w d ecc)

/-- FAB_DIRTY.SWAP (R231). -/
def State.dirtySwap (s : State) : State :=
  let n := s.fab.dirty.length
  let s := s.onFab fun f => { f with frozen := f.dirty, dirty := [] }
  ((s.setTs FAB_DIRTYTIME_TS s.now).setSat FAB_DIRTY_COUNT n).event 0x3009 0 n

/-- A host write to the store's window is ignored and logged (R231). -/
def State.windowWrite (s : State) (addr : Nat) : State := s.noteSec 0x3008 ((addr - 0x10000000) / 32)

def execDirtySwap (s : State) : Out := .next s.dirtySwap
def execAssocWindowWrite (addr : Nat) (s : State) : Out := .next (s.windowWrite addr)

/-! ### Rate sketch (R232, R233) -/

/-- The device ticks of one epoch, and the number of the present one, counted from the entry into BOOT (R232). -/
def State.epochTicks (s : State) : Nat := max 1 (s.get FAB_RATE_HALFLIFE) * 1000000
def State.epoch (s : State) : Nat := (s.tb.ticks - s.fab.bootTicks) / s.epochTicks

/-- A counter's count decayed to the present epoch. -/
def State.decayed (s : State) (v : Nat) : Nat := v % 2 ^ 24 / 2 ^ min 24 ((s.epoch % 256 + 256 - v / 2 ^ 24) % 256)

/-- Counter `i` of row `r`. -/
def State.sketchAt (s : State) (r i : Nat) : Nat := SMap.get 0 s.fab.sketch (524288 * r + i)
def State.setSketch (s : State) (r i n : Nat) : State :=
  s.onFab fun f => { f with sketch := SMap.set 0 f.sketch (524288 * r + i) (n + s.epoch % 256 * 2 ^ 24) }

/-- The counter of a client key in row `r`. -/
def State.sketchIndex (s : State) (r key : Nat) : Nat := Config.sketchHash r s.fab.sketchKey key % 524288

/-- Decay and update the four rows; the estimate is the least of the new counts (R232). -/
def State.rate (s : State) (key w : Nat) : State × Nat :=
  (List.range 4).foldl (fun (a : State × Nat) r =>
    let i := a.1.sketchIndex r key
    let n := min (2 ^ 24 - 1) (a.1.decayed (a.1.sketchAt r i) + w)
    (a.1.setSketch r i n, min a.2 n)) (s, 2 ^ 24 - 1)

/-- A RATE call of an engine (R230, R232, R233). -/
def State.rateCall (s : State) (g : Eng) (key w : Nat) (ecc : Ecc) : State :=
  s.onCall g 4 fun s =>
    let s := s.perfEv 0x34 g.c 1
    if !(s.eng g).req.any fun q => q.part == s.get FAB_RATE_OWNER then s.answer g 4 false []
    else match ecc with
    | .broken r =>
      let i := s.sketchIndex r key
      let z (f : Fab) (j : Nat) : Fab := { f with sketch := SMap.set 0 f.sketch (524288 * r.val + j) 0 }
      (((s.onFab fun f => z (z f (i / 2 * 2)) (i / 2 * 2 + 1)).bump FAB_ECC_UNCORR 1).event 0x300A 1 (i + 2 ^ 20)).answer g 4 false []
    | _ =>
      let s := if ecc = .corrected then s.bump FAB_ECC_CORR 1 else s
      let r := s.rate key w
      r.1.answer g 4 true (beBytes 8 r.2)

/-- FAB_RATEEPOCH follows the epoch. -/
def State.showEpoch (s : State) : State := s.set FAB_RATEEPOCH_EPOCH s.epoch

/-- The next epoch begins (R232). -/
def State.epochAdvance (s : State) : State :=
  (s.reachTick (s.fab.bootTicks + (s.epoch + 1) * s.epochTicks)).elim s State.showEpoch

/-- The background scrubber applies the decay to one counter (R232). -/
def State.scrub (s : State) (r i : Nat) : State :=
  let v := s.sketchAt r i
  if v = 0 then s else s.setSketch r i (s.decayed v)

def execRateCall (g : Eng) (key w : Nat) (ecc : Ecc) (s : State) : Out := .next (s.rateCall g key w ecc)
def execRateEpochAdvance (s : State) : Out := .next s.epochAdvance
def execSketchScrub (row : Fin 4) (i : Fin 524288) (s : State) : Out := .next (s.scrub row i)

/-! ### Occupancy (R238) -/

/-- The mean occupancy of clusters, weighted by their engines in service. -/
def State.meanOcc (s : State) (cs : List Nat) : Nat :=
  let n := cs.foldl (fun n c => n + s.engines c) 0
  if n = 0 then 0 else cs.foldl (fun m c => m + s.get (FAB_CL_OCC c) * s.engines c) 0 / n

/-- A window has closed with the occupancy of each cluster, in 1/1,024 (R238). -/
def State.showOcc (s : State) (occ : List Nat) : State :=
  let s := s.forEach 32 fun s c => s.set (FAB_CL_OCC c) (min 1024 (occ.getD c 0))
  let s := s.forEach 6 fun s k => s.set (FAB_PART_OCC k) (s.meanOcc (s.serving k))
  let s := s.set FAB_STATUS_OCC (s.meanOcc ((List.range 6).flatMap fun k => s.serving k))
  let top := (List.range 6).foldl (fun m k => max m (s.get (FAB_PART_OCC k))) 0
  let s := if s.get PM_AVSCTL_LOWOCC ≤ top then s.onPw fun p => { p with occSeen := true } else s
  if 768 < top then (s.set FAB_STATUS_VREQ 1).onPw fun p => { p with vreqSeen := true }
  else if top < 512 then s.set FAB_STATUS_VREQ 0 else s

/-- The window of 100 us that closes next, aligned to TB: the one that ends at or before the present instant and has not been
closed, else the one now open (R238). -/
def State.occupancy (s : State) (occ : List Nat) : State :=
  let w := s.now / (100 * us1)
  if s.fab.occAt ≠ w then (s.onFab fun f => { f with occAt := w }).showOcc occ
  else match s.reach (100 * us1 + 100 * us1 * w) with
  | none => s
  | some s => (s.onFab fun f => { f with occAt := w + 1 }).showOcc occ

def execOccupancyWindow (occ : List Nat) (s : State) : Out := .next (s.occupancy occ)

end Sys2Proof.Machine
end

