-- ==== Sys2Proof/Machine/TimeBase.lean ====
section
/-! DEFINITION. The commands of the Time Base (spec/02_time_base.md), but for those that need a mode transition or act
at a second boundary. -/
namespace Sys2Proof.Machine

/-- The switched domains run: the device is neither OFF nor in BACKUP (R22). -/
def State.awake (s : State) : Bool := s.mode ≠ .off && s.mode ≠ .backup

/-! ### Increment and steps (R38 to R45, R48) -/

/-- The part runs to the tick 5 us before its next second boundary, at which the sync word leaves (R45, R48); once it has left
nothing happens. -/
def State.syncSend (s : State) : State :=
  if s.tb.running && !s.tb.syncOut then (s.runUntil s.syncCount).sendSync else s

/-- A write to TB_INCR_LO stages the low fraction bits (R39, R40). -/
def State.incrLo (s : State) (path : Path) (v : Nat) : State :=
  if !s.awake then s
  else if s.steers path then s.set TB_INCR_LO_FRACLO v else s.steerRefused path 0x20

/-- A write to TB_INCR_HI commits the whole increment, replaced by the nearer limit (R38 to R40). -/
def State.incrHi (s : State) (path : Path) (v : Nat) : State :=
  if !s.awake then s
  else if s.steers path then
    let w := v % 2 ^ 16
    let i : Nat := w * 2 ^ 32 + s.get TB_INCR_LO_FRACLO
    let e := clampIncr i
    let s := s.commitIncr e
    if e = i then s else s.clampLog 0x30024 v (e / 2 ^ 32) (pathSource path)
  else s.steerRefused path 0x24

/-- The committed increment and correction take effect, 64 ticks after the commit (R39); unless a second boundary comes first. -/
def State.incrEffect (s : State) : State :=
  match s.tb.incrQ.head?.map (·.due), s.tb.gcompQ.head?.map (·.2) with
  | none, none => s
  | some a, none => (s.reachTick a).getD s
  | none, some b => (s.reachTick b).getD s
  | some a, some b => (s.reachTick (min a b)).getD s

/-- TB_STEPCTL.ACTION = ARM (R40, R42, R43). -/
def State.stepArm (s : State) (path : Path) : State :=
  if !s.awake then s
  else if s.steers path then ((s.clampStaged (pathSource path)).armStep (s.clampStaged (pathSource path)).stagedStep).set
    TB_STEPCTL_ACTION 1
  else s.steerRefused path 0x3C

/-- TB_STEPCTL.ACTION = CANCEL; refused while the step is frozen (R43, R45). A step armed after the freeze is not
frozen, and is discarded. -/
def State.stepCancel (s : State) (path : Path) : State :=
  if !s.awake then s
  else if s.steers path then
    if s.tb.frozen.isSome then s else s.dropStep.set TB_STEPCTL_ACTION 2
  else s.steerRefused path 0x3C

/-- TB_CAP: the voted master at the next tick (R417). -/
def State.capture (s : State) : State :=
  if s.awake && s.tb.running then
    (s.setTs TB_NOW_TS ((s.master.add s.effIncr).total / 2 ^ 24)).set TB_CAP_CAPTURE 1
  else s

def execSyncWordSend (s : State) : Out := .next s.syncSend
def execTbIncrLoWrite (path : Path) (v : Nat) (s : State) : Out := .next (s.incrLo path v)
def execTbIncrHiCommit (path : Path) (v : Nat) (s : State) : Out := .next (s.incrHi path v)
def execIncrementTakeEffect (s : State) : Out := .next s.incrEffect
def execStepArm (path : Path) (s : State) : Out := .next (s.stepArm path)
def execStepCancel (path : Path) (s : State) : Out := .next (s.stepCancel path)
def execTbCapture (s : State) : Out := .next s.capture

/-! ### Vibration feed-forward (R53 to R56) -/

/-- ACCFAULT is set and TB_GCOMP forced to 0 (R55). -/
def State.accFault (s : State) (why : Nat) : State :=
  let s := (s.onTb fun b => { b with accVaryFrom := none })
  if s.is TB_STATUS_ACCFAULT then s
  else (((s.set TB_STATUS_ACCFAULT 1).commitGcomp 0).event 0x030C 2 why).failGcal

/-- A sample of three values: the running means, the stuck count and the recovery (R54, R55;
DEDUCED notes/assumptions/10.md). -/
def State.accTake (s : State) (x y z : Int) : State :=
  let t := s.tb
  let same := t.acc == (x, y, z)
  let n := if same then t.accSame + 1 else 1
  let m := fun (old new : Int) => Config.accMean (s.get TB_GCTL_HPF) (s.get TB_GCTL_RATE) old new
  let means := (m t.accMean.1 x, m t.accMean.2.1 y, m t.accMean.2.2 z)
  let from_ := if same then none else some (t.accVaryFrom.getD t.ticks)
  let s := (s.onTb fun b => { b with acc := (x, y, z), accMean := means, accSame := n, accVaryFrom := from_ })
  if 256 ≤ n then s.accFault 0
  else if s.is TB_STATUS_ACCFAULT && from_.any (fun f => decide (1000000000 + f ≤ s.tb.ticks)) then
    (s.set TB_STATUS_ACCFAULT 0).event 0x030D 0 0
  else s

/-- One accelerometer sample: the command byte goes out, and six bytes X, Y, Z come back or the read fails (R53, R55). -/
def State.accRead (s : State) (read : Option (List Byte)) : State :=
  let s := (s.onTb fun b => { b with accAt := some b.ticks }).emit (.accRead (BitVec.ofNat 8 (s.get TB_ACCCMD_CMD)))
  match read with
  | some [a, b, c, d, e, f] =>
    let o := s.is TB_ACCCMD_ORDER
    s.accTake (accValue o a b) (accValue o c d) (accValue o e f)
  | _ => s.accFault 1

/-- The period of the samples in ticks (R53): 250 Hz to 4 kHz. -/
def State.accPeriod (s : State) : Nat := 4000000 / 2 ^ min 4 (s.get TB_GCTL_RATE)

/-- A sample, one period after the one before it; the first is due at once. -/
def State.accSample (s : State) (read : Option (List Byte)) : State :=
  if !s.awake then s
  else match s.tb.accAt with
  | none => s.accRead read
  | some t => match s.reachTick (t + s.accPeriod) with
    | some s => s.accRead read
    | none => s

/-- The correction: 0 while EN = 0, under ACCFAULT and during a calibration (R54 to R56). -/
def State.gcompNow (s : State) : State :=
  let s := s.onTb fun b => { b with gcompAt := some b.ticks }
  if s.is TB_GCTL_EN && !s.is TB_STATUS_ACCFAULT && s.tb.gcal.isNone then s.commitGcomp s.correction
  else s.commitGcomp 0

/-- The correction of every 250 us (R54); the first is due at once. -/
def State.gcompUpdate (s : State) : State :=
  if !s.awake then s
  else match s.tb.gcompAt with
  | none => s.gcompNow
  | some t => match s.reachTick (250000 + t) with
    | some s => s.gcompNow
    | none => s

/-- The limits of a TB_GCAL write (R383). -/
def clampTo (lo hi v : Nat) : Nat := max lo (min v hi)

/-- The word of TB_GCAL that a written one comes to: AXIS 0 to 2, FREQ 10 to 250, DURATION 10 to 255. -/
def gcalWord (v : Nat) : Nat :=
  clampTo 0 2 (v % 4) + clampTo 10 250 (v / 2 ^ 8 % 2 ^ 8) * 2 ^ 8 + clampTo 10 255 (v / 2 ^ 16 % 2 ^ 8) * 2 ^ 16 +
    v / 2 ^ 24 % 32 * 2 ^ 24

/-- A source is QUALIFIED or ACTIVE (R89). -/
def State.srcGood (s : State) (k : Nat) : Bool := s.get (SEL_SRC_STATE k) == 4 || s.get (SEL_SRC_STATE k) == 6

/-- The nominal frequency of a reference input in Hz; 0 below 1 Hz (R82). -/
def State.srcHz (s : State) (k : Nat) : Nat :=
  match s.get (SEL_SRC_TYPE k) with
  | 0 => 1
  | 1 => 0
  | 2 => 10000000
  | 3 => 5000000
  | 4 => 2048000
  | 5 => 1544000
  | 6 => 8000
  | _ => s.get (SEL_SRC_FREQ k)

/-- A TB_GCAL write (R56): ignored during a run; a run starts only in MAINTENANCE with a qualified reference of
1 MHz to 50 MHz. -/
def State.gcalStart (s : State) (path : Path) (v : Nat) : State :=
  if !s.awake || s.tb.gcal.isSome then s
  else
    let w := gcalWord v
    let s := if w = v % 2 ^ 29 &&& 0x1FFFFF03 then s else s.clampLog 0x30088 v w (pathSource path)
    let ref := w / 2 ^ 24
    let s := (((s.set TB_GCAL_AXIS w).set TB_GCAL_FREQ (w / 2 ^ 8)).set TB_GCAL_DURATION (w / 2 ^ 16)).set TB_GCAL_REF ref
    if s.mode = .maintenance ∧ ref < 16 ∧ s.srcGood ref ∧ 1000000 ≤ s.srcHz ref ∧ s.srcHz ref ≤ 50000000
        ∧ !s.is TB_STATUS_ACCFAULT ∧ !s.is TB_STATUS_OSCLOSS then
      ((s.onTb fun b => { b with gcal := some ⟨w % 4, w / 2 ^ 8 % 2 ^ 8, w / 2 ^ 16 % 2 ^ 8, ref, s.tb.ticks⟩ }).commitGcomp 0
        |>.set TB_STATUS_GCALRUN 1).set TB_GCALRES_STATE 1
    else s.set TB_GCALRES_STATE 3

/-- A run is done (R56): the measured amplitudes give GAMMA, saturated to its field, and QUALITY. -/
def State.gcalDone (s : State) (g : GcalRun) (xc : Int) (amp quality : Nat) : State :=
  let s := ((s.onTb fun b => { b with gcal := none }).set TB_STATUS_GCALRUN 0).set TB_GCALRES_STATE 2
  let q := min quality 100
  ((s.seti TB_GCALRES_GAMMA (gammaOf g.freq xc amp)).set TB_GCALRES_QUALITY q).event 0x030E 0
    (g.axis + q * 2 ^ 8 + 2 * 2 ^ 16)

/-- The run reaches its duration (R56). -/
def State.gcalEnd (s : State) (xc : Int) (amp quality : Nat) : State :=
  match s.tb.gcal with
  | none => s
  | some g => match s.reachTick (1000000000 * g.duration + g.start) with
    | some s => s.gcalDone g xc amp quality
    | none => s

def execAccSample (read : Option (List Byte)) (s : State) : Out := .next (s.accSample read)
def execGcompUpdate (s : State) : Out := .next s.gcompUpdate
def execGcalStart (path : Path) (v : Nat) (s : State) : Out := .next (s.gcalStart path v)
def execGcalRunEnd (xc : Int) (amp quality : Nat) (s : State) : Out := .next (s.gcalEnd xc amp quality)

end Sys2Proof.Machine
end

