-- ==== Sys2Proof/Machine/Tdc.lean ====
section
/-! DEFINITION. The time-to-digital converter (spec/03_interval_measurement.md): channels, event queues, interval
units, statistics windows, publication and self-calibration. -/
namespace Sys2Proof.Machine

/-! ### State access -/

def State.ch (s : State) (n : Nat) : TdcCh := SMap.get {} s.tdc.chans n
def State.setCh (s : State) (n : Nat) (c : TdcCh) : State :=
  s.onTdc fun t => { t with chans := SMap.set {} t.chans n c }
def State.engine (s : State) (e : Nat) : TdcEngine := SMap.get {} s.tdc.engines e
def State.setEngine (s : State) (e : Nat) (g : TdcEngine) : State :=
  s.onTdc fun t => { t with engines := SMap.set {} t.engines e g }
def State.unit (s : State) (m : Nat) : IvUnit := SMap.get {} s.tdc.units m
def State.setUnit (s : State) (m : Nat) (u : IvUnit) : State :=
  s.onTdc fun t => { t with units := SMap.set {} t.units m u }

/-- The configuration of a channel as its registers hold it. -/
def State.chRegs (s : State) (n : Nat) : ChCfg :=
  { en := s.is (TDC_CH_EN n), edge := s.get (TDC_CH_EDGE n), wmode := s.get (TDC_CH_WMODE n), sten := s.is (TDC_CH_STEN n)
    div := s.get (TDC_CH_DIV n), per := s.get64 (TDC_CH_PER_LO n) (TDC_CH_PER_HI n), dly := s.geti (TDC_CH_DLY n)
    win := s.get (TDC_CH_WIN n) }

/-- The configuration of a channel in force (R73). -/
def State.chCfg (s : State) (n : Nat) : ChCfg := (s.ch n).held.getD (s.chRegs n)

def State.ivRegs (s : State) (m : Nat) : IvCfg :=
  { en := s.is (TDC_IV_EN m), sten := s.is (TDC_IV_STEN m), wmode := s.get (TDC_IV_WMODE m), stop := s.get (TDC_IV_STOP m)
    start := s.get (TDC_IV_START m), win := s.get (TDC_IV_WIN m), stwin := s.get (TDC_IV_STWIN m) }

def State.ivCfg (s : State) (m : Nat) : IvCfg := (s.unit m).held.getD (s.ivRegs m)

/-- A live write that changes a channel's or a unit's configuration holds the configuration `c` that was in force until the next
second boundary (R73). -/
def State.holdCh (s : State) (n : Nat) (c : ChCfg) : State := s.setCh n { s.ch n with held := some c }
def State.holdIv (s : State) (m : Nat) (c : IvCfg) : State := s.setUnit m { s.unit m with held := some c }

/-! ### Statistics (R70 to R72): residuals in 2^-32 ns, times in 2^-16 ns -/

/-- The anchor of a run whose first event is at `t`: the latest second boundary, of a SEC that is a multiple of k
when the period is k whole seconds. -/
def anchor (p t : Nat) : Nat :=
  let k := if p % (sec1 * 65536) = 0 then max 1 (p / (sec1 * 65536)) else 1
  t / (k * sec1) * (k * sec1)

/-- The residual of an event at `t` (R70). -/
def StatAcc.residual (a : StatAcc) (p t : Nat) : Int :=
  if p = 0 then 0
  else match a.run with
    | none => foldPer p (((t : Int) - anchor p t) * 65536)
    | some (_, tp, xp) => xp + foldPer p (((t : Int) - tp) * 65536)

/-- Events beyond this many in a TIME window are not accumulated (R71). -/
def winMax : Nat := 2 ^ 24

/-- Accumulate a residual (R71, R72). -/
def StatAcc.add (a : StatAcc) (t : Nat) (x : Int) (uncal order subres : Bool) : StatAcc :=
  let a := { a with run := some (match a.run with | some r => r.1 | none => 0, t, x) }
  if winMax ≤ a.n then { a with overflow := true }
  else
    let t0 := if a.n = 0 then t else a.t0
    let d := (t : Int) - t0
    { a with
      n := a.n + 1, t0 := t0, tLast := t, st := a.st + d, stt := a.stt + d * d, sx := a.sx + x, sxx := a.sxx + x * x,
      stx := a.stx + d * x, mn := if a.n = 0 then x else min a.mn x, mx := if a.n = 0 then x else max a.mx x,
      uncal := a.uncal || uncal, order := a.order || order, subres := a.subres || subres }

/-- The square root of a quotient: exact when it is whole, else one of the two neighbours. -/
def sqrtRound (num den : Nat) : Nat :=
  let r := isqrt (num / den)
  if r * r * den = num then r else if Config.roundUp num den then r + 1 else r

/-- SLOPE of a window, in 10^-15 (R72). -/
def StatAcc.slope (a : StatAcc) : Int :=
  let num := a.n * a.stx - a.st * a.sx
  let den := (a.n * a.stt - a.st * a.st).toNat
  if a.n < 2 then 0 else satSigned 48 (nearestDiv (num * 10 ^ 15) (den * 65536))

/-- The result of a window that closes at `stop` (R72). -/
def StatAcc.result (a : StatAcc) (stop : Nat) (cut : Bool) : WinResult :=
  if a.n = 0 then
    { n := 0, stop := stop, mean := 0, sd := 0, mn := 0, mx := 0, slope := 0, gap := a.gap, overflow := false, cut := cut,
      uncal := false, order := false, subres := false }
  else
    { n := a.n, stop := stop, mean := divRound a.sx (a.n * 65536)
      sd := if a.n = 1 then 0 else sqrtRound (a.n * a.sxx - a.sx * a.sx).toNat ((a.n * 65536) ^ 2)
      mn := divRound a.mn 65536, mx := divRound a.mx 65536, slope := a.slope, gap := a.gap, overflow := a.overflow, cut := cut
      uncal := a.uncal, order := a.order, subres := a.subres }

/-- The accumulation of the next window of the same run, or of a new run. -/
def StatAcc.next (a : StatAcc) (newRun : Bool) : StatAcc := { run := if newRun then none else a.run }

/-- Whether engine `e` is statistics-enabled, its mode and its window size, as in force. -/
def State.engCfg (s : State) (e : Nat) : Bool × Nat × Nat :=
  if e < 32 then (fun c : ChCfg => (c.en && c.sten, c.wmode, c.win)) (s.chCfg e)
  else (fun c : IvCfg => (c.en && c.sten, c.wmode, c.stwin)) (s.ivCfg (e - 32))

/-- Close the window of engine `e` at `stop`; the result waits for publication (R75). -/
def State.closeWin (s : State) (e stop : Nat) (cut newRun : Bool) : State :=
  let g := s.engine e
  s.setEngine e { g with acc := g.acc.next newRun, due := none, closed := g.closed ++ [g.acc.result stop cut] }

/-- Close the window of engine `e` when it is due: its boundary has come, or it holds its N events (R71). -/
def State.closeDue (s : State) (e : Nat) : State :=
  let g := s.engine e
  let (en, mode, win) := s.engCfg e
  match g.due with
  | some b => s.closeWin e b false false
  | none => if en && mode == 0 && decide (win ≤ g.acc.n) && decide (0 < g.acc.n) then s.closeWin e g.acc.tLast false false else s

/-- An engine takes an event (R71, R72): one stamped before the boundary at which its window closes belongs to that window; else a
window that is due closes first. A missed event leaves GAP alone (R63). -/
def State.statTake (s : State) (e : Nat) (v : StatEv) : State :=
  let s := match (s.engine e).due with
    | some b => if v.t < b then s else s.closeDue e
    | none => s.closeDue e
  let g := s.engine e
  if v.miss then s.setEngine e { g with acc := { g.acc with gap := true } }
  else
    let r := match v.x with
      | some d => d * 65536
      | none => g.acc.residual v.per v.t
    s.setEngine e { g with acc := g.acc.add v.t r v.uncal v.order v.subres }

/-- An event for engine `e`: in TIME mode one that is stamped at or after the next second boundary waits for it. -/
def State.statEvent (s : State) (e : Nat) (v : StatEv) : State :=
  if (s.engCfg e).2.1 = 1 ∧ (instSec s.now + 1) * sec1 ≤ v.t then
    s.setEngine e { s.engine e with ahead := (s.engine e).ahead ++ [v] }
  else s.statTake e v

/-! ### The event collector (R75): the statistics take an event at once, the FIFOs drain at the collector's pace
(DESIGN CHOICE notes/assumptions/52.md) -/

/-- What waits at source `i`: the FIFO of channel `i`, or the results of interval unit `i - 32`. -/
def State.colLevel (s : State) (i : Nat) : Nat := if i < 32 then (s.ch i).fifo else (s.unit (i - 32)).fifo

/-- The collector serves the next waiting source in rotating order. -/
def State.colServe (s : State) : State :=
  match ((List.range 40).map fun i => (s.tdc.colRot + 1 + i) % 40).find? fun i => decide (0 < s.colLevel i) with
  | none => s
  | some i =>
    (if i < 32 then s.setCh i { s.ch i with fifo := (s.ch i).fifo - 1 }
      else s.setUnit (i - 32) { s.unit (i - 32) with fifo := (s.unit (i - 32)).fifo - 1 }).onTdc fun t => { t with colRot := i }

/-- What the collector has served up to now, one item in 2.5 ns. -/
def State.collect (s : State) : State :=
  let waiting := ((List.range 40).map s.colLevel).sum
  let n := min waiting ((2 * s.tb.ticks - s.tdc.colFree) / 5)
  let free := if n = waiting then 2 * s.tb.ticks else s.tdc.colFree + 5 * n
  (s.forEach n fun s _ => s.colServe).onTdc fun t => { t with colFree := free }

/-! ### Capture (R62 to R64) -/

/-- The calibration table of interpolator `ip` of channel `n`: the factory table until one is made (R78). -/
def State.ipTable (s : State) (n ip : Nat) : Nat :=
  let t := if ip = 0 then (s.ch n).tables.1 else (s.ch n).tables.2
  if t = 0 then 2 * n + ip else t

/-- The TB count at the interpolator period that contains an edge at the present tick (R64), in 2^-16 ns: a period is two ticks and
begins at an even one (DESIGN CHOICE notes/assumptions/52.md). -/
def State.ipCount (s : State) : Nat :=
  if s.tb.ticks % 2 = 0 then s.now else (s.master.total - s.tb.lastAdd) / 2 ^ 24

/-- The timestamp of an edge found at bin `bin` of its interpolator period (R64). -/
def State.edgeStamp (s : State) (n bin : Nat) (dly : Int) : Nat :=
  let ip := s.get (TDC_CH_ACTIVEIP n)
  let o := if ip = 0 then (s.ch n).offsets.1 else (s.ch n).offsets.2
  ((s.ipCount : Int) + (Config.interp (s.ipTable n ip) bin + o) - dly).toNat

/-- Write the LAST group of a channel (R74). -/
def State.setLast (s : State) (n t : Nat) (rising uncal : Bool) : State :=
  let q := s.get (TDC_CH_LASTSEQA n) + 1
  ((((s.setTs (TDC_CH_LAST n) t).setb (TDC_CH_LASTUNCAL n) uncal).setb (TDC_CH_LASTEDGE n) rising).set
    (TDC_CH_LASTSEQB n) q).set (TDC_CH_LASTSEQA n) q

/-- A missed event at `t` (R63): counted, flagged in the windows that lose it, and noted for the event of the second. -/
def State.missEvent (s : State) (n t : Nat) (full : Bool) : State :=
  let s := if full then s.bump (TDC_CH_FULL n) 1 else s.bump (TDC_CH_RATE n) 1
  let s := s.noteSec (0x0403 + 65536 * n) (n + if full then 256 else 0)
  let s := if (s.chCfg n).sten then s.statEvent n { t := t, miss := true } else s
  s.forEach 8 fun s m =>
    let c := s.ivCfg m
    if c.en && c.sten && (c.start == n || c.stop == n) then s.statEvent (32 + m) { t := t, miss := true } else s

/-! ### Event queues (R66) -/

def State.queue (s : State) (k : Nat) : List EqRecord := SMap.get [] s.tdc.queues k

/-- The head group and LEVEL follow the queue (R66, R74). -/
def State.showQueue (s : State) (k : Nat) : State :=
  let q := s.queue k
  let n := s.get (TDC_EQ_HEADSEQA k) + 1
  let s := s.set (TDC_EQ_LEVEL k) q.length
  let s := match q with
    | [] => ((((s.setTs (TDC_EQ_HEAD k) 0).set (TDC_EQ_GAP k) 0).set (TDC_EQ_EDGE k) 0).set (TDC_EQ_UNCAL k) 0).set
        (TDC_EQ_LOSTN k) 0
    | r :: _ => ((((s.setTs (TDC_EQ_HEAD k) r.t).setb (TDC_EQ_GAP k) r.gap).setb (TDC_EQ_EDGE k) r.edge).setb
        (TDC_EQ_UNCAL k) r.uncal).set (TDC_EQ_LOSTN k) r.lostN
  (s.set (TDC_EQ_HEADSEQB k) n).set (TDC_EQ_HEADSEQA k) n

/-- Write a record to event queue `k`, or discard it when the queue is full (R66). -/
def State.queueWrite (s : State) (k t : Nat) (edge uncal : Bool) : State :=
  let q := s.queue k
  let lost := SMap.get 0 s.tdc.queueLost k
  if 256 ≤ q.length then
    ((s.onTdc fun b => { b with queueLost := SMap.set 0 s.tdc.queueLost k (lost + 1) }).bump (TDC_EQ_LOST k) 1).noteSec
      (0x0404 + 65536 * k) k
  else
    let r : EqRecord := ⟨t, edge, uncal, decide (0 < lost), satU 16 lost⟩
    let s := (s.onTdc fun b => { b with
      queues := SMap.set [] s.tdc.queues k (q ++ [r]), queueLost := SMap.set 0 s.tdc.queueLost k 0 })
    if q = [] then s.showQueue k else s.set (TDC_EQ_LEVEL k) (q.length + 1)

/-- POP removes the head record; no effect on an empty queue (R66). -/
def State.queuePop (s : State) (k : Nat) : State :=
  match s.queue k with
  | [] => s
  | _ :: q => (s.onTdc fun b => { b with queues := SMap.set [] s.tdc.queues k q }).showQueue k

def execEventQueuePop (k : Fin 8) (s : State) : Out := .next (s.queuePop k)

/-! ### Interval units (R67 to R69) -/

/-- Publish an interval result (R68, R74) and give it to the unit's engine, under event time `t`: the start's, or the later event's
where START = STOP (DESIGN CHOICE notes/assumptions/52.md). -/
def State.ivResult (s : State) (m t : Nat) (d : Int) (plain : Bool) : State :=
  let sub := plain && decide (d.natAbs < 64)
  let ord := plain && !sub && decide (d < 0)
  let r := if sub then 0 else d
  let q := s.get (TDC_IV_RESSEQA m) + 1
  let s := (((((s.setI64 (TDC_IV_RES_LO m) (TDC_IV_RES_HI m) r).setb (TDC_IV_ORDER m) ord).setb (TDC_IV_SUBRES m) sub).set
    (TDC_IV_RESSEQB m) q).set (TDC_IV_RESSEQA m) q)
  let c := s.ivCfg m
  if c.sten then
    (s.setUnit m { s.unit m with fifo := (s.unit m).fifo + 1 }).statEvent (32 + m)
      { t := t, x := some r, uncal := !s.is TDC_STATUS_CALDONE, order := ord, subres := sub }
  else s

/-- A unit sees an event of channel `n` at `t`. A unit of one channel measures from each event to the next (R69). -/
def State.ivEvent (s : State) (m n t : Nat) : State :=
  let c := s.ivCfg m
  let u := s.unit m
  if !c.en then s
  else if c.start = c.stop then
    if c.start = n then
      let s' := s.setUnit m { u with starts := [(t, s.tb.ticks)] }
      match u.starts with
      | [p] => s'.ivResult m t ((t : Int) - p.1) false
      | _ => s'
    else s
  else
    let u := if c.start = n then { u with starts := u.starts ++ [(t, s.tb.ticks)] } else u
    s.setUnit m (if c.stop = n then { u with stops := u.stops ++ [t] } else u)

/-- The stop of smallest distance to `t` within `w`, the earlier of two equally near (R67). -/
def nearestStop (t w : Nat) (stops : List Nat) : Option Nat :=
  stops.foldl (fun (best : Option Nat) (p : Nat) =>
    let d := ((p : Int) - t).natAbs
    if w < d then best
    else match best with
      | some q => let e := ((q : Int) - t).natAbs
        if d < e ∨ (d = e ∧ p < q) then some p else best
      | none => some p) none

/-- The oldest start `t` of unit `m` is paired with its stop, or counted unpaired (R67). -/
def State.pairStart (s : State) (m t : Nat) (rest : List (Nat × Nat)) : State :=
  let u := s.unit m
  let w := (s.ivCfg m).win * ns1
  match nearestStop t w u.stops with
  | none =>
    (s.setUnit m { u with starts := rest, stops := u.stops.filter fun p => decide (t ≤ p + w) }).bump (TDC_IV_UNPAIRED m) 1
  | some p =>
    (s.setUnit m { u with starts := rest, stops := (u.stops.erase p).filter fun p => decide (t ≤ p + w) }).ivResult m t
      ((p : Int) - t) true

/-- The result of the oldest start is formed W + 100 ns after it (R67): that instant is reached. -/
def State.intervalResult (s : State) (m : Nat) : State :=
  let c := s.ivCfg m
  if c.start = c.stop then s
  else match (s.unit m).starts with
  | [] => s
  | (t, k) :: rest => match s.reachTick (k + c.win + 100) with
    | some s => s.pairStart m t rest
    | none => s

def execIntervalResult (m : Fin 8) (s : State) : Out := .next (s.intervalResult m)

/-! ### An edge -/

/-- An accepted event: LAST group, statistics, event queue, interval units, and a run of offset matching (R76). -/
def State.acceptEvent (s : State) (n t : Nat) (rising : Bool) : State :=
  let uncal := !(s.ch n).calibrated
  let s := s.setLast n t rising uncal
  let c := s.chCfg n
  let h := s.ch n
  let s := s.setCh n { h with fifo := if c.sten then h.fifo + 1 else h.fifo, matched := h.matched + 1 }
  let s := if c.sten then s.statEvent n { t := t, per := c.per, uncal := uncal } else s
  let s := if 16 ≤ n ∧ n < 24 then s.queueWrite (n - 16) t rising uncal else s
  s.forEach 8 fun s m => s.ivEvent m n t

/-- An edge on channel `n` in interpolator bin `bin` (R62 to R64). Of every D edges the D-th passes the divider (DESIGN CHOICE
notes/assumptions/52.md). Answers the timestamp of an accepted event. -/
def State.tdcEdge (s : State) (n : Nat) (rising : Bool) (bin : Nat) : State × Option Nat :=
  let c := s.chCfg n
  if !s.awake || !s.tb.running || !c.en then (s, none)
  else
    let s := s.collect
    let h := s.ch n
    if (c.edge = 0 ∧ !rising) ∨ (c.edge = 1 ∧ rising) then (s, none)
    else if h.divCount + 1 < c.div then (s.setCh n { h with divCount := h.divCount + 1 }, none)
    else
      let h := { h with divCount := 0 }
      let t := s.edgeStamp n bin c.dly
      if h.lastAt.any (fun l => decide (t < l + 20 * ns1 ∧ l ≤ t)) then ((s.setCh n h).missEvent n t false, none)
      else if c.sten ∧ 64 ≤ h.fifo then ((s.setCh n h).missEvent n t true, none)
      else ((s.setCh n { h with lastAt := some t }).acceptEvent n t rising, some t)

/-! ### Windows (R71, R73) and publication (R74, R75) -/

/-- What engine `e` does at a second boundary: a window that was due or full closes; a TIME window whose second has come is due; a
step or a configuration write cuts the window and begins a new run. At a step the stepped count decides what closes, and END
shows it (DESIGN CHOICE notes/assumptions/52.md). Answers whether a step cut it. -/
def State.engineBoundary (s : State) (e : Nat) (step : Bool) : State × Bool :=
  let hold := (s.engine e).ahead
  let s := (if hold = [] then s else s.setEngine e { s.engine e with ahead := [] }).closeDue e
  let s := if step then hold.foldl (fun s v => s.statTake e v) s else s
  let (en, mode, win) := s.engCfg e
  let cfg := if e < 32 then (s.ch e).held.isSome else (s.unit (e - 32)).held.isSome
  let normal := mode == 1 && instSec s.now % max 1 win == 0
  let cut := en && !normal && (step || cfg)
  let s := if !en then s
    else if normal && !step && !cfg then s.setEngine e { s.engine e with due := some s.now }
    else if normal || cut then s.closeWin e s.now cut true
    else s
  (if step then s else hold.foldl (fun s v => s.statTake e v) s, cut && step)

/-- All engines at a second boundary; event 0x0405 once per step (R73). -/
def State.windowsBoundary (s : State) (step : Bool) : State :=
  let (s, k) := (List.range 40).foldl (fun (sk : State × Nat) e =>
    let (s', cut) := sk.1.engineBoundary e step
    (s', if cut then sk.2 + 1 else sk.2)) (s, 0)
  -- the first event after a step begins a run (R69)
  if step then
    (s.forEach 8 fun s m => if (s.ivCfg m).start = (s.ivCfg m).stop ∧ (s.unit m).starts ≠ [] then
      s.setUnit m { s.unit m with starts := [] } else s).event 0x0405 0 k
  else s

/-- Configuration writes take effect: a channel newly enabled starts a run and its divider (R62, R73). -/
def State.releaseCfg (s : State) : State :=
  let s := s.forEach 32 fun s n =>
    match (s.ch n).held with
    | none => s
    | some c =>
      let h := { s.ch n with held := none }
      s.setCh n (if !c.en then { h with divCount := 0, lastAt := none } else h)
  s.forEach 8 fun s m =>
    if (s.unit m).held.isSome then s.setUnit m {} else s

/-- The closing of a window by its own event or boundary (R71, R72). -/
def execStatsWindowClose (e : Fin 40) (s : State) : Out := .next (s.closeDue e)

/-- Publish a result set, closing sequence word first (R74). -/
def State.publishWin (s : State) (e : Nat) (r : WinResult) : State :=
  let q := s.get (TDC_ST_SEQA e) + 1
  let s := (((((((((s.set (TDC_ST_SEQB e) q).setb (TDC_ST_VALID e) (decide (1 ≤ r.n))).setb (TDC_ST_SLOPEV e)
    (decide (2 ≤ r.n))).setb (TDC_ST_GAP e) r.gap).setb (TDC_ST_OVERFLOW e) r.overflow).setb (TDC_ST_CUT e) r.cut).setb
    (TDC_ST_UNCAL e) r.uncal).setb (TDC_ST_ORDERSEEN e) r.order).setb (TDC_ST_SUBRESSEEN e) r.subres).set (TDC_ST_COUNT e) r.n
  let s := (s.setTs (TDC_ST_END e) r.stop).setI64 (TDC_ST_MEAN_LO e) (TDC_ST_MEAN_HI e) r.mean
  let s := ((s.setSat (TDC_ST_SD e) r.sd).setI64 (TDC_ST_MIN_LO e) (TDC_ST_MIN_HI e) r.mn).setI64 (TDC_ST_MAX_LO e)
    (TDC_ST_MAX_HI e) r.mx
  let y := ofSigned 48 r.slope
  ((s.set (TDC_ST_SLOPE_LO e) y).set (TDC_ST_SLOPE_HI e) (y / 2 ^ 32)).set (TDC_ST_SEQA e) q

/-- The publication collector serves the next waiting engine in rotating order (R75). -/
def State.publishNext (s : State) : State :=
  match ((List.range 40).map fun i => (s.tdc.pubRot + 1 + i) % 40).find? fun e => (s.engine e).closed ≠ [] with
  | none => s
  | some e =>
    match (s.engine e).closed with
    | [] => s
    | r :: rest =>
      ((s.onTdc fun b => { b with pubRot := e }).setEngine e { s.engine e with closed := rest }).publishWin e r

def execResultPublish (s : State) : Out := .next s.publishNext

/-! ### Self-calibration (R76 to R78) -/

/-- Start the next run: the lowest channel due, its spare interpolator; a channel whose swap still waits is not
started. With no channel due the RUNALL cycle is over. -/
def State.nextRun (s : State) : State :=
  if s.is TDC_STATUS_CALRUN then s
  else match (List.range 32).find? fun n => (s.ch n).due with
  | none => s.set TDC_CAL_RUNALL 0
  | some n =>
    if (s.ch n).swap then s
    else
      let spare := 1 - s.get (TDC_CH_ACTIVEIP n)
      let s := s.onTdc fun t => { t with calTemp := s.geti (PM_TEMP_NOW 9) }
      ((s.set TDC_STATUS_CALRUN 1).set TDC_STATUS_CALCH n).set TDC_STATUS_CALIP spare

/-- A channel becomes due for two runs, one per interpolator (R76). -/
def State.calDue (s : State) (n : Nat) : State := s.setCh n { s.ch n with due := true, dueIps := 2 }

/-- Triggers act after the initial calibration. -/
def State.calTrigger (s : State) (f : State → State) : State :=
  if s.awake && s.is TDC_STATUS_CALDONE then (f s).nextRun else s

/-- The run in hand ends: `more` when the channel's other interpolator follows. -/
def State.endRun (s : State) (n : Nat) (more : Bool) : State :=
  let h := s.ch n
  let left := h.dueIps - 1
  let again := more && decide (0 < left)
  (s.setCh n { h with due := again, dueIps := if again then left else 0, runTable := none, lastCal := s.tb.ticks }).set
    TDC_STATUS_CALRUN 0

/-- A run fails (R77): the fail flag, no swap, event 0x0402; the channel's calibration ends (DEDUCED notes/assumptions/11.md). -/
def State.failRun (s : State) (n reason : Nat) : State :=
  let s := (s.set TDC_CALFAIL_FAIL (s.get TDC_CALFAIL_FAIL ||| 2 ^ n)).set (TDC_CH_NOSWAP n) 1
  let s := s.event 0x0402 2 (n + s.get TDC_STATUS_CALIP * 32 + reason * 256 + s.get (TDC_CH_INLPEAK n) * 65536)
  (s.endRun n false).nextRun

/-- A run passes (R77). -/
def State.passRun (s : State) (n : Nat) (noswap : Bool) : State :=
  let s := s.set TDC_CALFAIL_FAIL (s.get TDC_CALFAIL_FAIL &&& (2 ^ n ^^^ 0xFFFFFFFF))
  let s := s.setb (TDC_CH_NOSWAP n) noswap
  let s := s.event 0x0401 0 (n + s.get TDC_STATUS_CALIP * 32 + (if noswap then 64 else 0) + s.get (TDC_CH_INLPEAK n) * 65536)
  (s.endRun n (!noswap)).nextRun

/-- The run in hand is on this channel. -/
def State.running (s : State) (n : Nat) : Bool := s.is TDC_STATUS_CALRUN && s.get TDC_STATUS_CALCH == n

/-- The code-density test completes with a number of empty bins and a raw INL peak in ps (R76, R77). -/
def State.codeDensity (s : State) (n empty inlPeak : Nat) : State :=
  if s.running n && (s.ch n).runTable.isNone then
    let s := (s.setSat (TDC_CH_EMPTY n) empty).setSat (TDC_CH_INLPEAK n) inlPeak
    if 0 < empty then s.failRun n 1
    else if 16 < inlPeak then s.failRun n 2
    else
      (s.setCh n { s.ch n with runTable := some s.tdc.nextTable, matchFrom := s.tb.ticks, matched := 0 }).onTdc fun t => { t with nextTable := t.nextTable + 1 }
  else s

/-- Offset matching has ended with mean difference `diff`, active minus spare, in 2^-16 ns; `tab` is the table of the run. -/
def State.matchDone (s : State) (n tab : Nat) (diff : Int) : State :=
  if (s.ch n).matched < 16 ∧ (s.chCfg n).en then s.passRun n true
  else if 50 * ns1 < diff.natAbs * 1000 then s.failRun n 3
  else
    let h := s.ch n
    let h := if s.get TDC_STATUS_CALIP = 0 then
        { h with tables := (tab, h.tables.2), offsets := (diff, h.offsets.2), swap := true }
      else { h with tables := (h.tables.1, tab), offsets := (h.offsets.1, diff), swap := true }
    (s.setCh n h).passRun n false

/-- Offset matching ends (R76): with the 4,096th event of the channel, else 64 s after its start; of a disabled channel 4.1 ms
after it. -/
def State.offsetMatch (s : State) (n : Nat) (diff : Int) : State :=
  match (s.ch n).runTable with
  | none => s
  | some tab =>
    if !s.running n then s
    else if (s.chCfg n).en ∧ 4096 ≤ (s.ch n).matched then s.matchDone n tab diff
    else match s.reachTick ((if (s.chCfg n).en then 64000000000 else 4100000) + (s.ch n).matchFrom) with
      | some s => s.matchDone n tab diff
      | none => s

/-- Swaps take effect at a second boundary (R76). -/
def State.swapBoundary (s : State) : State :=
  (s.forEach 32 fun s n =>
    if (s.ch n).swap then (s.setCh n { s.ch n with swap := false }).set (TDC_CH_ACTIVEIP n) (1 - s.get (TDC_CH_ACTIVEIP n))
    else s).nextRun

/-- What the initial calibration measures of a channel (R76 to R78): for each interpolator the empty bins and the raw INL peak in ps,
and the mean difference of the two, active minus spare, in 2^-16 ns. -/
structure CalIn where
  empty : Nat × Nat := (0, 0)
  peak : Nat × Nat := (0, 0)
  diff : Int := 0
  deriving DecidableEq, Repr

/-- What the initial calibration makes of channel `n`: an interpolator without a failure takes its new table, IP1 the matched offset;
a failure is reported as that of a run (R77). -/
def State.calFirst (s : State) (n tab : Nat) (c : CalIn) : State :=
  let why := fun (empty peak : Nat) => if 0 < empty then 1 else if 16 < peak then 2 else 0
  let w0 := why c.empty.1 c.peak.1
  let w1 := if why c.empty.2 c.peak.2 ≠ 0 then why c.empty.2 c.peak.2 else if 50 * ns1 < c.diff.natAbs * 1000 then 3 else 0
  let h := s.ch n
  let s := s.setCh n { h with
    tables := (if w0 = 0 then tab else h.tables.1, if w1 = 0 then tab + 1 else h.tables.2), offsets := (0, if w1 = 0 then c.diff else 0)
    calibrated := true, lastCal := s.tb.ticks }
  let s := ((s.set (TDC_CH_ACTIVEIP n) 0).setSat (TDC_CH_EMPTY n) c.empty.2).setSat (TDC_CH_INLPEAK n) c.peak.2
  let fail := fun (s : State) (ip w peak : Nat) => if w = 0 then s else
    (s.set TDC_CALFAIL_FAIL (s.get TDC_CALFAIL_FAIL ||| 2 ^ n)).event 0x0402 2 (n + ip * 32 + w * 256 + satU 16 peak * 65536)
  fail (fail s 0 w0 c.peak.1) 1 w1 c.peak.2

/-- The initial calibration of all 64 interpolators with what it measured (R78); a channel without a measurement passes with no
difference. -/
def State.initialCal (s : State) (cs : List CalIn) : State :=
  let first := s.tdc.nextTable
  let s := s.forEach 32 fun s n => s.calFirst n (first + 2 * n) (cs.getD n {})
  (s.onTdc fun t => { t with nextTable := first + 64, calTemp := s.geti (PM_TEMP_NOW 9) }).set TDC_STATUS_CALDONE 1

/-- What the initial calibration measures of the 32 channels: free values (log entry 52). -/
def State.calDraws (s : State) : List CalIn := (List.range 32).map fun n =>
  let v (k : Nat) : Nat := Config.freeValue (s.free + 6 * n + k)
  { empty := (v 0, v 1), peak := (v 2, v 3), diff := (v 4 : Int) - v 5 }

/-- The initial calibration completes, once after BOOT. -/
def State.initialCalDone (s : State) : State :=
  if s.awake && s.mode ≠ .boot && !s.is TDC_STATUS_CALDONE then (s.forEach 192 fun s _ => s.drawn).initialCal s.calDraws else s

/-- The chiplet temperature, of sensor S9 in 0.1 degC, reads `temp`: when it has moved by TEMPSTEP or more since the last run all
channels are due (R78, R470). -/
def State.calTemp (s : State) (temp : Int) : State :=
  if s.awake && s.is TDC_STATUS_CALDONE then
    let s := s.tempTake 9 temp
    if 10 * s.get TDC_CAL_TEMPSTEP ≤ (temp - s.tdc.calTemp).natAbs then (s.forEach 32 State.calDue).nextRun else s
  else s

/-- PERIOD seconds have passed since the channel's last run (R78): that instant is reached. -/
def State.calPeriod (s : State) (n : Nat) : State :=
  match s.reachTick (1000000000 * s.get TDC_CAL_PERIOD + (s.ch n).lastCal) with
  | some s => s.calTrigger fun s => s.calDue n
  | none => s

/-- RUNALL (R78). -/
def State.calRunAll (s : State) : State :=
  if s.awake then s.calTrigger fun s => (s.forEach 32 State.calDue).set TDC_CAL_RUNALL 1 else s

def execTdcCalPeriodDue (ch : Fin 32) (s : State) : Out := .next (s.calPeriod ch)
def execTdcCalTempStep (temp : Int) (s : State) : Out := .next (s.calTemp temp)
def execTdcCalRunall (s : State) : Out := .next s.calRunAll
def execTdcInitialCalDone (s : State) : Out := .next s.initialCalDone
def execCodeDensityDone (ch : Fin 32) (empty inlPeak : Nat) (s : State) : Out := .next (s.codeDensity ch empty inlPeak)
def execOffsetMatchDone (ch : Fin 32) (active spare : Int) (s : State) : Out := .next (s.offsetMatch ch (active - spare))

/-! ### Output feedback (R61) -/

/-- CH24 moves to the next enabled output at each second boundary. -/
def State.feedbackBoundary (s : State) : State :=
  match ((List.range 16).map fun i => (s.tdc.feedback + 1 + i) % 16).find? fun n => s.is (OUT_EN n) with
  | none => s
  | some n => (s.onTdc fun b => { b with feedback := n })

end Sys2Proof.Machine
end

