-- ==== Sys2Proof/Machine/TqrUse.lean ====
section
/-! DEFINITION. What a TQR publication changes in the NTP and PTP services (spec/09_ntp_and_nts.md R248 to R250;
spec/10_ptp_grandmaster.md R280 to R282). -/
namespace Sys2Proof.Machine

/-- The class code of a source (R101): GNSS, atomic, PTPIN, PARTNER, TODIN by source number. -/
def classOf (k : Nat) : Nat := match k with
  | 16 => 0
  | 17 => 2
  | 18 => 3
  | 19 => 4
  | _ => 1

/-! ### NTP header fields (R248 to R250) -/

/-- The Reference ID of class `c`: 0 means that of the last ACTIVE source's class, or INIT (R248). -/
def State.refIdOf (s : State) (c : Nat) : Nat :=
  let r := s.get (NTP_REFID_REFID c)
  if r ≠ 0 then r
  else match s.sel.lastActive with
  | some k => s.get (NTP_REFID_REFID (classOf k))
  | none => 0x494E4954

/-- LI of a request caught in second `sec`, under the published TQR (R249). -/
def State.ntpLi (s : State) (sec : Nat) : Nat :=
  if s.is (NTP_CLASS_LI3 (s.get SEL_TQR_CLASS)) then 3
  else if s.is SEL_TQR_LEAPPEND ∧ s.leapTime ≤ sec + s.get NTP_IPCFG_LIWIN then
    (if s.get TB_UTC_LEAP = 1 then 1 else if s.get TB_UTC_LEAP = 2 then 2 else 0)
  else 0

/-- The root dispersion of R250. -/
def State.rootDisp (s : State) : Nat :=
  let e := s.get SEL_TQR_TEB
  if e = 0xFFFFFFFF then 0xFFFFFFFF else min 0xFFFFFFFF (ceilDiv (e * 65536) (10 ^ 9) + s.get NTP_RDADD_RDADD)

/-- NTP_STATUS and NTP_RDNOW follow a publication; a change of stratum, LI or Reference ID is logged (event
0x4001). -/
def State.showNtp (s : State) : State :=
  let c := s.get SEL_TQR_CLASS
  let li := s.ntpLi (instSec s.now)
  let st := s.get (NTP_CLASS_STRATUM c)
  let r := s.refIdOf c
  let changed := s.get NTP_STATUS_LI ≠ li ∨ s.get NTP_STATUS_STRATUM ≠ st ∨ s.ntp.refId ≠ r
  let s := (((s.set NTP_STATUS_LI li).set NTP_STATUS_STRATUM st).set NTP_STATUS_CLASS c).set NTP_RDNOW_RD s.rootDisp
  if changed then (s.onNtp fun b => { b with refId := r }).event 0x4001 0 (st + li * 2 ^ 8 + c * 2 ^ 12) else s

/-! ### PTP quality state (R280 to R282) -/

/-- The quality state S (R280). -/
def State.ptpState (s : State) : Nat :=
  let c := s.get SEL_TQR_CLASS
  if c ≤ 4 then (if s.is SEL_TQR_TRACE then 0 else 1)
  else if c = 5 then (if s.get SEL_TQR_TEB ≤ s.get PTP_HOSPEC_NS then 2 else 3)
  else 4

/-- The bounds of R282 in 1/10 ns, from code 0x1D on. -/
def accBounds : List Nat :=
  [10, 25, 100, 250, 1000, 2500, 10000, 25000, 100000, 250000, 1000000, 2500000,
   10000000, 25000000, 100000000, 250000000, 1000000000, 2500000000, 10000000000, 100000000000]

/-- The computed clockAccuracy of an error bound in ns (R282). -/
def accOf (e : Nat) : Nat :=
  if e = 0xFFFFFFFF then 0xFE
  else match (List.range accBounds.length).find? fun i => e * 10 ≤ accBounds.getD i 0 with
  | some i => 0x1D + i
  | none => 0x31

/-- The clockAccuracy of the published TQR (R281). -/
def State.clockAcc (s : State) : Nat :=
  let a := s.get (PTP_QMAP_ACC s.ptpState)
  if a = 0xFF then accOf (s.get SEL_TQR_TEB) else a

/-- The time is uncertain (R283). -/
def State.uncertain (s : State) : Bool := s.is SEL_STATUS_SWPEND || s.ptpState == 4

/-- PTP_STATUS follows a publication; a change of S is logged (event 0x4203). -/
def State.showPtp (s : State) : State :=
  let q := s.ptpState
  let cls := s.get (PTP_QMAP_CLASS q)
  let changed := s.get PTP_STATUS_S ≠ q
  let s := (((s.set PTP_STATUS_S q).set PTP_STATUS_CLASS cls).set PTP_STATUS_ACC s.clockAcc).setb PTP_STATUS_UNCERTAIN s.uncertain
  if changed then s.event 0x4203 0 (q + cls * 2 ^ 8 + s.clockAcc * 2 ^ 16) else s

end Sys2Proof.Machine
end

