-- ==== Sys2Proof/Machine/Quality.lean ====
section
/-! DEFINITION. Sources, the holdover model, the Time Quality Record, phase transfers and DPLL states
(spec/04_references_holdover_outputs.md): the operations that a source's change of state runs. -/
namespace Sys2Proof.Machine

/-! ### Sources -/

def State.src (s : State) (k : Nat) : Src := SMap.get {} s.sel.srcs k
def State.setSrc (s : State) (k : Nat) (x : Src) : State := s.onSel fun e => { e with srcs := SMap.set {} e.srcs k x }

/-- The state code of a source (R89). -/
def State.srcState (s : State) (k : Nat) : Nat := s.get (SEL_SRC_STATE k)

/-- The row and rank under which the priority table names a source (R91). -/
def State.rowOf (s : State) (k : Nat) : Option Nat :=
  (List.range 16).find? fun i => s.get (SEL_PRIO_RANK i) ≠ 0 && s.get (SEL_PRIO_SOURCE i) == k
def State.rankOf (s : State) (k : Nat) : Nat := match s.rowOf k with
  | some i => s.get (SEL_PRIO_RANK i)
  | none => 0

/-- The device holds the Yarrow token. -/
def State.holds (s : State) : Bool := s.get LEASE_STATUS_STATE == 5

/-- PARTNER is eligible only while the device does not hold the token (R84). -/
def State.eligible (s : State) (k : Nat) : Bool := k ≠ 18 || (s.is SYS_MODE_PAIR && !s.holds)

/-- Time-capable sources: TYPE 0 and 1 inputs and the virtual sources (R81). -/
def State.timeCapable (s : State) (k : Nat) : Bool := 16 ≤ k || s.get (SEL_SRC_TYPE k) ≤ 1

/-- Sources that carry time of day (R81). -/
def todSource (k : Nat) : Bool := decide (16 ≤ k)

/-- A source is QUALIFIED or ACTIVE. -/
def State.good (s : State) (k : Nat) : Bool := s.srcState k == 4 || s.srcState k == 6

/-- The ACTIVE source. -/
def State.active (s : State) : Option Nat :=
  if s.get SEL_STATUS_ACTIVE < 20 then some (s.get SEL_STATUS_ACTIVE) else none

/-- phi of a source, in 2^-16 ns (R83). -/
def State.phase (s : State) (k : Nat) : Int := toSigned 64 (s.get64 (SEL_SRC_PHASE_LO k) (SEL_SRC_PHASE_HI k))

/-- REASON of a source: every qualifier that fails (R89). -/
def State.reason (s : State) (k : Nat) : Nat :=
  let x := s.src k
  let b := fun (c : Bool) (n : Nat) => if c then 2 ^ n else 0
  b (!x.q1) 0 + b (!x.q2) 1 + b (!x.q3) 2 + b (!x.q4) 3 + b (!x.q5) 4 + b (x.confWith ≠ 0) 5 + b (!s.eligible k) 6 +
    b x.uncal 7

/-- REASON follows the last evaluation (R89). -/
def State.showReason (s : State) (k : Nat) : State :=
  if s.get (SEL_SRC_REASON k) = s.reason k then s else s.srcGroup k fun s => s.set (SEL_SRC_REASON k) (s.reason k)

/-! ### Holdover model (R98) -/

/-- One day in ns, and the denominator of the model's prediction. -/
def dayNs : Nat := 86400 * 10 ^ 9

/-- y(t) at the present tick, in 10^-15; 0 before the model is trained (R88, R98). -/
def State.modelY (s : State) : Int :=
  if s.is SEL_STATUS_EVERACTIVE then
    let dt : Int := (s.tb.ticks : Int) - s.sel.modelTicks
    let dT : Int := toSigned 32 s.pw.therm - s.geti SEL_HOMODEL_TH
    nearestDiv (s.geti SEL_HOMODEL_Y0 * (dayNs * 100) + s.geti SEL_HOMODEL_AGING * dt * 100 + s.geti SEL_HOMODEL_TEMPCO * dT * dayNs)
      (dayNs * 100)
  else 0

/-- A sum over a list. -/
def sumInt {α : Type} (l : List α) (f : α → Int) : Int := l.foldl (fun a x => a + f x) 0

/-- A determinant of three rows. -/
def det3 (a b c d e f g h i : Int) : Int := a * (e * i - f * h) - b * (d * i - f * g) + c * (d * h - e * g)

/-- A parameter of the fit: the quotient of two determinants; what a singular system leaves open is not chosen. -/
def fitParam (w : List (Nat × Nat × Int × Int)) (n d : Int) (scale : Nat) (i : Nat) : Int :=
  if d = 0 then Config.undeterminedFit w i
  else if 0 < d then nearestDiv (n * scale) d.toNat else nearestDiv (-n * scale) (-d).toNat

/-- The fitted windows of the last TRAINH hours. -/
def State.fitSpan (s : State) : List (Nat × Nat × Int × Int) :=
  s.sel.fit.filter fun p => decide (s.tb.ticks ≤ p.1 + s.get SEL_HO_TRAINH * 3600 * 10 ^ 9)

/-- Refit the model at the present window close by least squares over the fitted windows (R98): offset at the
present instant, aging per day, coefficient per degC. -/
def State.refitBy (s : State) (w : List (Nat × Nat × Int × Int)) : State :=
  let th := toSigned 32 s.pw.therm
  let u := fun (p : Nat × Nat × Int × Int) => (p.1 : Int) - s.tb.ticks
  let v := fun (p : Nat × Nat × Int × Int) => p.2.2.1 - th
  let y := fun (p : Nat × Nat × Int × Int) => p.2.2.2
  let n : Int := w.length
  let su := sumInt w u
  let sv := sumInt w v
  let suu := sumInt w fun p => u p * u p
  let suv := sumInt w fun p => u p * v p
  let svv := sumInt w fun p => v p * v p
  let sy := sumInt w y
  let suy := sumInt w fun p => u p * y p
  let svy := sumInt w fun p => v p * y p
  let d := det3 n su sv su suu suv sv suv svv
  let y0 := fitParam w (det3 sy su sv suy suu suv svy suv svv) d 1 0
  let a := fitParam w (det3 n sy sv su suy suv sv svy svv) d dayNs 1
  let c := fitParam w (det3 n su sy su suu suy sv suv svy) d 100 2
  let q := s.get SEL_HOMODEL_SEQA + 1
  let secs := (w.map fun p => p.2.1).sum
  let s := ((((s.set SEL_HOMODEL_SEQB q).seti SEL_HOMODEL_Y0 y0).seti SEL_HOMODEL_AGING a).seti SEL_HOMODEL_TEMPCO c).seti
    SEL_HOMODEL_TH th
  let s := (s.setSat SEL_HOMODEL_TRAINED secs).onSel fun x => { x with modelTicks := s.tb.ticks, fit := w }
  let s := if s.get SEL_HO_MINSEC ≤ secs ∧ !s.is SEL_HOMODEL_VALID ∧ !s.is TB_STATUS_OSCLOSS then
      ((s.set SEL_HOMODEL_VALID 1).set SYS_MODE_MODELVALID 1).event 0x0508 0 0
    else s
  s.set SEL_HOMODEL_SEQA q

/-- The refit of every window close, from the first ACTIVE source on; with no window to fit the model stands (R98). -/
def State.refit (s : State) : State :=
  if s.is SEL_STATUS_EVERACTIVE ∧ s.fitSpan ≠ [] then s.refitBy s.fitSpan else s

/-- A window of the ACTIVE source enters the fit (R98). -/
def State.fitWindow (s : State) (len : Nat) (y : Int) : State :=
  s.onSel fun x => { x with fit := x.fit ++ [(s.tb.ticks, len, toSigned 32 s.pw.therm, y)] }

/-! ### Time Quality Record (R101 to R105): E in units of 1/27,648,000,000 ns, F in 1/864,000 of 10^-12 -/

def scaleE : Nat := 27648000000
def scaleF : Nat := 864000

/-- The part of a phase transfer still to be applied, in 2^-16 ns (R97). -/
def State.toApply (s : State) : Nat :=
  let f := match s.tb.frozen with
    | some d => d.natAbs
    | none => 0
  match s.sel.transfer with
  | none => 0
  | some t =>
    if t.slew then f + ((t.size * 2 ^ 24 - t.applied).natAbs + (2 ^ 24 - 1)) / 2 ^ 24
    else match s.tb.step with
      | some d => f + d.natAbs
      | none => f

/-- F of R102 for an ACTIVE source, scaled. -/
def State.lockF (s : State) (k : Nat) : Nat :=
  let x := s.src k
  let td := match x.driftSince with
    | some t => if s.is SEL_STATUS_DRIFTUNRES then (s.tb.ticks - t) / 10 ^ 9 else 0
    | none => 0
  let wc := if s.is SEL_STATUS_RANKCONF then s.sel.wc else 0
  s.get (SEL_SRC_FEB k) * scaleF + x.f15.natAbs * 864 + wc * 864 + x.drift.natAbs * td * 240

/-- E of R102 for an ACTIVE source, scaled. The replica excess of R49 counts here alone, as R102 and R103 list their terms
(DESIGN CHOICE notes/assumptions/50.md). -/
def State.lockE (s : State) (k : Nat) : Nat :=
  let x := s.src k
  let td := match x.driftSince with
    | some t => if s.is SEL_STATUS_DRIFTUNRES then (s.tb.ticks - t) / 10 ^ 9 else 0
    | none => 0
  if s.timeCapable k then
    s.get (SEL_SRC_TEB k) * scaleE + (s.phase k).natAbs * 421875 + 3 * x.sd * 421875 + s.tb.repAdd.sum * 27648000 +
      s.toApply * 421875 + x.drift.natAbs * td ^ 2 * 3840
  else
    let tau := (s.tb.ticks - s.sel.e0Ticks) / 10 ^ 9
    s.sel.e0 + s.lockF k * tau * 32

/-- The class of R101. -/
def State.tqrClass (s : State) : Nat :=
  match s.active with
  | some k => classOf k
  | none =>
    if s.is SEL_STATUS_EVERACTIVE then 5
    else if !s.is TB_STATUS_WARM && s.is TB_STATUS_WARMRULE then 6 else 7

/-- Seconds since the class was entered. -/
def State.tau (s : State) : Nat := (s.tb.ticks - s.sel.clsTicks) / 10 ^ 9

/-- The reference temperature of R103, in 0.01 degC. -/
def State.refTemp (s : State) : Int :=
  if s.is SEL_HOMODEL_VALID then s.geti SEL_HOMODEL_TH else s.sel.entryT

/-- What E has grown by while OSC_IN is lost, scaled: 1,000 ns per ms (R103); the growth ends with the loss (DESIGN CHOICE
notes/assumptions/50.md). -/
def State.oscE (s : State) : Nat :=
  if s.is TB_STATUS_OSCLOSS then (s.tb.ticks - s.tb.lossAt) * 27648000 else 0

/-- E and F of the present class, scaled (R102, R103). -/
def State.boundE (s : State) : Nat :=
  let e := match s.active with
    | some k => s.lockE k
    | none =>
      let t := s.tau
      if s.sel.cls = 5 then
        let fh := s.sel.fh + (if s.is SEL_HOMODEL_VALID then 0 else s.get SEL_HO_HOFPEN * scaleF)
        s.sel.eh + fh * t * 32 + s.get SEL_HO_HOAGEB * t ^ 2 * 160 + s.get SEL_HO_HOTEMPB * s.sel.sumT * 276480
      else s.sel.seed * scaleE + s.get SEL_HO_HOFINV * scaleF * t * 32
  e + s.oscE

def State.boundF (s : State) : Nat :=
  if s.is TB_STATUS_OSCLOSS then 1000000000 * scaleF
  else match s.active with
    | some k => s.lockF k
    | none =>
      if s.sel.cls = 5 then
        s.sel.fh + (if s.is SEL_HOMODEL_VALID then 0 else s.get SEL_HO_HOFPEN * scaleF) + s.get SEL_HO_HOAGEB * s.tau * 10 +
          s.get SEL_HO_HOTEMPB * (toSigned 32 s.pw.therm - s.refTemp).natAbs * 8640
      else s.get SEL_HO_HOFINV * scaleF

/-- The bounds as published, rounded up and saturated (R103). -/
def State.teb (s : State) : Nat := satU 32 (ceilDiv s.boundE scaleE)
def State.feb (s : State) : Nat := satU 32 (ceilDiv s.boundF scaleF)

/-- The traceable flag (R104). -/
def State.traceable (s : State) : Bool :=
  let lim := decide (s.teb ≤ s.get SEL_HO_TRACELIM)
  !s.is TB_STATUS_OSCLOSS && match s.active with
    | some k => s.is (SEL_SRC_TRACE k) && (s.timeCapable k || lim)
    | none => s.sel.cls == 5 && (s.sel.lastActive.any fun k => s.is (SEL_SRC_TRACE k)) && lim

/-- Publish the TQR (R105). -/
def State.publishTqr (s : State) : State :=
  let c := s.tqrClass
  let s := if c = s.sel.cls then s else s.onSel fun x => { x with cls := c, clsTicks := s.tb.ticks, clsTime := s.now, clsOfs := s.geti TB_UTC_OFFSET }
  let q := s.get SEL_TQR_SEQA + 1
  let e := s.teb
  let f := s.feb
  let t := s.traceable
  let s := (((((s.set SEL_TQR_SEQB q).set SEL_TQR_CLASS c).setb SEL_TQR_TRACE t).setb SEL_TQR_LEAPPEND (s.is TB_UTC_PENDING)).setb
    SEL_TQR_OSCLOSS (s.is TB_STATUS_OSCLOSS))
  let s := ((s.set SEL_TQR_TEB e).set SEL_TQR_FEB f).setSat SEL_TQR_HOSEC (if c = 5 then s.tau else 0)
  ((s.setTs SEL_TQR_TIME s.now).set SEL_TQR_SEQA q).showNtp.showPtp

/-- The TQR is published at the instant of a class change (R105). -/
def State.classChanged (s : State) : State := if s.tqrClass = s.sel.cls then s else s.publishTqr

/-! ### The lease state and the reclaim conditions (R354, R359, R361) -/

def State.leaseSt (s : State) : Nat := s.get LEASE_STATUS_STATE

/-- The lease state changes (R359). -/
def State.leaseTo (s : State) (st : Nat) : State :=
  let old := s.leaseSt
  if old = st then s
  else
    let s := (s.set LEASE_STATUS_STATE st).event 0x5801 0 (st + old * 2 ^ 4)
    let s := s.onLease fun l => { l with wtrFrom := if st = 3 then l.wtrFrom else none }
    if st = 3 then s else s.set LEASE_WTRLEFT_SEC 0

/-- The device acts as the home device (R354): under ROLECONF by BOOTID, and neither while isolated. -/
def State.isHome (s : State) : Bool :=
  if s.is LEASE_STATUS_ROLECONF then
    !s.is LEASE_STATUS_ISOLATED && s.lease.pBoot.any fun b => decide (b < s.lease.bootId)
  else s.is LEASE_CFG_HOME

/-- The reclaim conditions of R361, but for the state. -/
def State.reclaimOk (s : State) : Bool :=
  s.is LEASE_CFG_RECLAIM && s.isHome && s.get LEASE_STATUS_PSTATE == 4 && !s.is LEASE_STATUS_ISOLATED && !s.is LEASE_STATUS_ROLECONF &&
    (List.range 20).any fun k => k ≠ 18 && s.srcState k == 4

/-- The seconds of HOMEWTR that remain (R361, R369). -/
def State.wtrLeft (s : State) : Nat :=
  match decide (s.leaseSt = 3), s.lease.wtrFrom with
  | true, some t => s.get LEASE_CFG_HOMEWTR - (s.tb.ticks - t) / 1000000000
  | _, _ => 0

/-- HOMEWTR starts, restarts or goes on, and CLAIM ends when a condition fails (R359 row 6, R361). -/
def State.reclaimEval (s : State) : State :=
  if s.leaseSt = 3 then
    if !s.reclaimOk then (s.onLease fun l => { l with wtrFrom := none }).set LEASE_WTRLEFT_SEC 0
    else
      let s := s.onLease fun l => { l with wtrFrom := some (l.wtrFrom.getD s.tb.ticks) }
      s.set LEASE_WTRLEFT_SEC s.wtrLeft
  else if s.leaseSt = 4 ∧ !s.reclaimOk then s.leaseTo 3
  else s

/-! ### DPLL states (R108) -/

def State.dpll (s : State) (d : Nat) : Dpll := SMap.get {} s.outs.dplls d
def State.setDpll (s : State) (d : Nat) (x : Dpll) : State := s.onOuts fun o => { o with dplls := SMap.set {} o.dplls d x }

/-- The mean output frequency of the last second (R108), in 10^-15: each measured value counts from its tick to the next. -/
def State.dpllMean (s : State) (d : Nat) : Int :=
  let now := s.tb.ticks
  let first := now - 1000000000
  let r := (s.dpll d).freqs.foldl (fun (a : Int × Nat) (p : Nat × Int) =>
    let f := max first p.1
    (a.1 + p.2 * ((a.2 - f : Nat) : Int), min a.2 f)) (0, now)
  if now = r.2 then s.geti (DPLL_FOFS d) else nearestDiv r.1 (now - r.2)

/-- A DPLL changes state. -/
def State.dpllTo (s : State) (d st : Nat) : State :=
  if s.get (DPLL_STATE d) = st then s
  else ((s.setDpll d { s.dpll d with since := s.tb.ticks }).set (DPLL_STATE d) st).event 0x0604 0 (d + st * 16)

/-- The input of a DPLL is in WTR, QUALIFIED or ACTIVE; TB always is. -/
def State.dpllIn (s : State) (d : Nat) : Nat := if s.get (DPLL_INPUT d) = 16 then 6 else s.srcState (s.get (DPLL_INPUT d))

/-- A DPLL tracks input `i`; the phase error it begins with on TB is not stated and is free (DESIGN CHOICE
notes/assumptions/51.md). -/
def State.dpllTrack (s : State) (d i : Nat) : State :=
  let s := s.set (DPLL_INPUTNOW d) i
  if i = 16 then
    (s.setDpll d { s.dpll d with err := toSigned 32 (s.draw % 2 ^ 32), errAt := s.tb.ticks, slewAt := s.tb.slewSum }).drawn
  else s

/-- Rows 1, 2, 4 and 6 of R108, as the enable and the input's state stand. -/
def State.dpllRows (s : State) (d : Nat) (left : Bool) : State :=
  let st := s.get (DPLL_STATE d)
  let i := s.dpllIn d
  if !s.is (DPLL_EN d) then s.dpllTo d 0
  else if st = 0 then (s.dpllTrack d (s.get (DPLL_INPUT d))).dpllTo d 1
  else if (st = 1 ∨ st = 2) ∧ left ∧ i ≠ 3 ∧ i ≠ 4 ∧ i ≠ 6 then
    ((s.seti (DPLL_FOFS d) (s.dpllMean d)).dpllTo d 3).raiseCond 0x0605 2 d d
  else if (st = 3 ∨ st = 4) ∧ (i = 4 ∨ i = 6) then
    let s := s.setDpll d { s.dpll d with buildOut := (s.dpll d).buildOut + s.geti (DPLL_PHERR d), err := 0 }
    ((((s.set (DPLL_PHERR d) 0).set (DPLL_INPUTNOW d) (s.get (DPLL_INPUT d))).dpllTo d 1).clearCond 0x0605 d).event 0x0606 0 d
  else s

/-- The DPLLs that track source `k` follow its change of state. -/
def State.dpllFollow (s : State) (k : Nat) (left : Bool) : State :=
  s.forEach 4 fun s d => if s.get (DPLL_INPUT d) = k then s.dpllRows d left else s

/-! ### Phase transfers (R95, R97) and leaving ACTIVE -/

/-- The firmware steers: image choice, oscillator present, steering not held (R34, R40, R386). -/
def State.fwSteers (s : State) : Bool := !s.is TB_CTL_HOSTSTEER && !s.is TB_STATUS_OSCLOSS && !s.tb.steerHeld

/-- Stage and arm a step of the firmware (R42, R43). -/
def State.fwStep (s : State) (d : Int) : State :=
  let m := d.natAbs
  let full := instFull m + (if d < 0 then 2 ^ 95 else 0)
  (((s.set (TB_STEP_STEP 0) full).set (TB_STEP_STEP 1) (full / 2 ^ 32)).set (TB_STEP_STEP 2) (full / 2 ^ 64)).set
    TB_STEPCTL_ACTION 1 |>.armStep d

/-- The slew part of TB_INCR for a slew at TB_SLEWMAX (R41), in 2^-40 ns per tick. -/
def State.slewRate (s : State) (d : Int) : Int :=
  let r := nearestDiv (s.get TB_SLEWMAX_RATE * 2 ^ 40) (10 ^ 9)
  if d < 0 then -r else r

/-- TB takes the frequency of source `k` (R95): the frequency part moves by f of its latest window. -/
def State.takeFreq (s : State) (k : Nat) : State :=
  s.commitIncr (clampIncr (s.lastIncr + nearestDiv (s.freqPart * (s.src k).f15) (10 ^ 15)))

/-- A slew of `d`, in 2^-16 ns, at TB_SLEWMAX as far as the increment's limits allow it (R38, R41): `n` ticks of the slew part `r`
remove it. The firmware writes the frequency part alone `n` ticks after the slew, so that it is in force for `n` ticks. -/
def State.startSlew (s : State) (d : Int) (first : Bool) : State :=
  let base := s.freqPart
  let i := clampIncr (base + s.slewRate d)
  let r := (i : Int) - base
  let n := ceilDiv (d.natAbs * 2 ^ 24) r.natAbs
  let endAt := if r = 0 ∨ decide (r < 0) ≠ decide (d < 0) then none else some (s.tb.ticks + n)
  let r := if endAt.isNone then 0 else r
  ((s.commit (clampIncr (base + r)) r).onSel fun x => { x with
    transfer := some { slew := true, size := d, applied := 0, first := first, endAt := endAt } }).set SEL_STATUS_SWPEND 1

/-- Pass phase `d` of a newly ACTIVE source to TB (R95). Answers the state and the kind of transfer. -/
def State.transfer (s : State) (k : Nat) (d : Int) (first : Bool) : State × Nat :=
  if !s.fwSteers then (s, 0)
  else if !s.timeCapable k then (s.takeFreq k, 0)
  else if d = 0 then (s, 0)
  else if d.natAbs ≤ s.get TB_STEPTHR_THR * ns1 then (s.startSlew d first, 1)
  else
    let s := s.fwStep d
    ((s.onSel fun x => { x with transfer := some { slew := false, size := d, applied := 0, first := first } }).set SEL_STATUS_SWPEND 1, 2)

/-- "No reference qualified" after a source has been ACTIVE raises NOREF (R90). -/
def State.norefCheck (s : State) : State :=
  if s.is SEL_STATUS_EVERACTIVE && !s.is SEL_STATUS_NOREF && (List.range 20).all (fun k => !s.good k) then
    (s.set SEL_STATUS_NOREF 1).raiseCond 0x050A 2 0 0
  else s

/-- CONFSRC, RANKCONF and W_c as the sources in CONFLICT stand (R94, R102). -/
def State.conflictShow (s : State) : State :=
  let c := (List.range 20).filter fun k => s.srcState k == 5
  let wc := c.foldl (fun m k => max m ((s.src k).f15 - (s.src ((s.src k).confWith - 1)).f15).natAbs) 0
  let s := (s.onSel fun x => { x with wc := wc }).set SEL_STATUS_CONFSRC (c.headD 0x1F)
  if c = [] ∧ s.is SEL_STATUS_RANKCONF then
    ((s.set SEL_STATUS_RANKCONF 0).clearCond 0x0503 0).event 0x0504 0 0
  else s

/-- The ACTIVE source has left ACTIVE and none is selected: the entry bounds are formed, the transfer abandoned, the
class becomes HOLDOVER (R97, R101 to R103). -/
def State.leaveActive (s : State) (k : Nat) : State :=
  let e := s.lockE k
  let f := s.lockF k
  let th := toSigned 32 s.pw.therm
  let s := s.onSel fun x => { x with eh := e, fh := f, sumT := 0, entryT := th, lastActive := some k }
  let s := if s.timeCapable k then s.onSel fun x => { x with e0 := e, e0Ticks := s.tb.ticks } else s
  (((s.set SEL_STATUS_ACTIVE 0x1F).set SEL_STATUS_FREQONLY 0).abandonTransfer).classChanged

/-- A source moves to state `st` (R89): its group, event 0x0501, and all that follows from the change. -/
def State.srcTo (s : State) (k st : Nat) : State :=
  let old := s.srcState k
  if old = st then s
  else
    let wasActive := decide (old = 6)
    let s := s.srcGroup k fun s => ((s.set (SEL_SRC_STATE k) st).set (SEL_SRC_REASON k) (s.reason k)).set (SEL_SRC_WTRLEFT k) 0
    let s := s.event 0x0501 0 (k + st * 2 ^ 8 + s.reason k * 2 ^ 16)
    let x := s.src k
    let x := if st = 4 then { x with everQual := true, agree := 0, confWith := 0 } else if st = 5 then x else { x with agree := 0 }
    let x := if st ≤ 2 then { x with activeWins := 0 } else x
    let s := s.setSrc k x
    let s := if wasActive ∧ s.active = some k then s.leaveActive k else s
    let s := if (old = 4 ∨ old = 6) ∧ st ≠ 4 ∧ st ≠ 6 then
        (match s.tb.gcal with
          | some g => if g.ref = k then s.failGcal else s
          | none => s).norefCheck
      else s
    let s := if old = 5 then s.conflictShow else s
    (s.dpllFollow k ((old = 3 ∨ old = 4 ∨ old = 6) && !(st = 3 ∨ st = 4 ∨ st = 6))).reclaimEval

end Sys2Proof.Machine
end

