-- ==== Sys2Proof/Machine/Warm.lean ====
section
/-! DEFINITION. Warm-up and the oscillator input (spec/02_time_base.md R34, R50 to R52). -/
namespace Sys2Proof.Machine

/-! ### Warm-up (R50 to R52) -/

/-- A reference passes the activity qualifier. -/
def State.anyQ1 (s : State) : Bool :=
  (List.range 20).any fun k => (SMap.get {} s.sel.srcs k).q1

/-- WARM clears under a rule (R50); a change of the TQR class is published at once (R105). -/
def State.clearWarm (s : State) (rule : Nat) : State :=
  (((s.set TB_STATUS_WARM 0).set TB_STATUS_WARMRULE rule).event 0x030A 0 rule).classChanged

/-- The reference rule begins, with window reference `ref` (R51): no window has passed and none precedes the next. -/
def State.warmBegin (s : State) (ref : Option Nat) : State :=
  (s.onTb fun b => { b with warmPrev := none, warmRef := ref, warmBegan := b.ticks }).set TB_WARMDRIFT_COUNT 0

/-- WARM returns to 1 and the warm-up rule starts from its beginning (R34, R52). -/
def State.setWarm (s : State) : State :=
  ((s.warmBegin none).set TB_STATUS_WARM 1).classChanged

/-- Seconds since the later of the start of the rules and the last rise of OCXO_WARM (R50), of the device's clock. -/
def State.warmSeconds (s : State) : Nat := (s.tb.ticks - max s.tb.warmFrom s.tb.ocxoRise) / 1000000000

/-- While WARM = 1 the rule in use shows in WARMRULE, and the time-only rule clears WARM at once when its time has
already passed (R50). The reference rule begins anew when it comes into use (R51). -/
def State.warmRule (s : State) : State :=
  if s.is TB_STATUS_WARM && s.warmRuns && !s.is TB_STATUS_OSCLOSS then
    if s.anyQ1 then (if s.is TB_STATUS_WARMRULE then (s.warmBegin none).set TB_STATUS_WARMRULE 0 else s)
    else
      let s := s.set TB_STATUS_WARMRULE 1
      if s.is TB_STATUS_OCXOWARM && decide (s.get TB_WARMMIN_SEC ≤ s.warmSeconds) then s.clearWarm 1
      else s.setSat TB_WARMDRIFT_COUNT (s.warmSeconds / 256)
  else s

/-- The window reference (R51): the best-ranked reference of the priority table that passes the activity
qualifier; among equal ranks the lowest row. -/
def State.warmReference (s : State) : Option Nat :=
  ((List.range 16).foldl (fun (best : Option (Nat × Nat)) i =>
    let r := s.get (SEL_PRIO_RANK i)
    let k := s.get (SEL_PRIO_SOURCE i)
    if r ≠ 0 ∧ (SMap.get {} s.sel.srcs k).q1 then
      match best with
      | some (rb, _) => if r < rb then some (r, k) else best
      | none => some (r, k)
    else best) none).map (·.2)

/-! ### Oscillator input (R34) -/

/-- OSC_IN is declared lost: event and condition, the transfer abandoned, the frequency part written alone, WARM set,
a calibration failed (R34, R52, R56). -/
def State.oscLost (s : State) : State :=
  if s.awake && !s.is TB_STATUS_OSCLOSS then
    let s := (((s.set TB_STATUS_OSCLOSS 1).set TB_STATUS_SYNLOCK 0).raiseCond 0x0308 3 0 0).cutTransfer
    let s := if s.is TB_CTL_HOSTSTEER then s else s.commit (clampIncr s.freqPart) 0
    let s := (s.onTb fun t => { t with lossAt := t.ticks }).failGcal
    -- the holdover model is no longer valid (R99)
    let s := ((s.onSel fun x => { x with fit := [] }).set SEL_HOMODEL_VALID 0).set SEL_HOMODEL_TRAINED 0 |>.set SYS_MODE_MODELVALID 0
    s.setWarm
  else s

/-- OSC_IN is restored: the condition clears, steering resumes, both warm-up rules start again and acquisition begins
(R34, R50, R87). -/
def State.oscRestored (s : State) : State :=
  if s.is TB_STATUS_OSCLOSS then
    let ms := (s.tb.ticks - s.tb.lossAt) / 1000000
    let s := (((s.set TB_STATUS_OSCLOSS 0).set TB_STATUS_SYNLOCK 1).set SEL_STATUS_ACQ 1).clearCond 0x0308 0
    let s := s.event 0x0309 0 (satU 32 ms)
    let s := (s.onTb fun b => { b with warmFrom := b.ticks }).setWarm
    (s.set TB_WARMDRIFT_DRIFT 0xFFFFFF).warmRule
  else s

def execOscInLoss (s : State) : Out := .next s.oscLost
def execOscInRestored (s : State) : Out := .next s.oscRestored

/-! ### The commands of warm-up -/

/-- The window closes at this second: it ends at a TB second that is a multiple of 10 and has not been taken (R51). -/
def State.warmCloses (s : State) : Bool := decide (instSec s.now % 10 = 0) && !s.tb.warmTaken

/-- The 10 s window of the window reference closes; `y` is its mean fractional frequency in 10^-15, absent when the window is
cut or gives no slope (R51). A window that was open before the rule or its reference began is not a full one. -/
def State.warmWindow (s : State) (y : Option Int) : State :=
  if s.is TB_STATUS_WARM && s.warmRuns && !s.is TB_STATUS_OSCLOSS && s.anyQ1 && s.warmCloses then
    let ref := s.warmReference
    let s := s.warmRule.onTb fun b => { b with warmTaken := true }
    let s := if ref = s.tb.warmRef then s else s.warmBegin ref
    if ref.isNone ∨ s.tb.warmOpenPrev < s.tb.warmBegan then s
    else match y, s.tb.warmPrev with
    | none, _ => (s.onTb fun b => { b with warmPrev := none })
    | some y, none => (s.onTb fun b => { b with warmPrev := some y })
    | some y, some p =>
      let d := (y - p).natAbs
      let s := (s.onTb fun b => { b with warmPrev := some y }).setSat TB_WARMDRIFT_DRIFT (divRound d 1000).toNat
      if d < s.get TB_WARMLIM_LIM * 1000 ∧ s.is TB_STATUS_OCXOWARM then
        let s := s.bump TB_WARMDRIFT_COUNT 1
        if s.get TB_WARMN_N ≤ s.get TB_WARMDRIFT_COUNT then s.clearWarm 0 else s
      else s.set TB_WARMDRIFT_COUNT 0
  else s

/-- OCXO_WARM has been high for TB_WARMMIN seconds under the time-only rule (R50): that instant is reached. -/
def State.warmMin (s : State) : State :=
  if s.is TB_STATUS_WARM && s.warmRuns && !s.is TB_STATUS_OSCLOSS && !s.anyQ1 && s.is TB_STATUS_OCXOWARM then
    match s.reachTick (1000000000 * s.get TB_WARMMIN_SEC + max s.tb.warmFrom s.tb.ocxoRise) with
    | some s => s.clearWarm 1
    | none => s
  else s

/-- The OCXO_WARM input changes level (R50, R51). -/
def State.ocxoChange (s : State) (high : Bool) : State :=
  if !s.awake || s.is TB_STATUS_OCXOWARM == high then s
  else
    let s := s.setb TB_STATUS_OCXOWARM high
    let s := s.onTb fun b =>
      if high then { b with warmPrev := none, ocxoRise := b.ticks } else { b with warmPrev := none, ocxoFall := b.ticks }
    let s := if s.is TB_STATUS_WARM then s.set TB_WARMDRIFT_COUNT 0 else s
    if high then s.warmRule else s

/-- OCXO_WARM has stayed low for 1 s after WARM had cleared (R52): that instant is reached. -/
def State.ocxoTimeout (s : State) : State :=
  if s.warmRuns && !s.is TB_STATUS_OCXOWARM && !s.is TB_STATUS_WARM then
    match s.reachTick (1000000000 + s.tb.ocxoFall) with
    | some s => s.setWarm.warmRule
    | none => s
  else s

def execWarmWindowClose (y : Option Int) (s : State) : Out := .next (s.warmWindow y)
def execWarmminElapsed (s : State) : Out := .next s.warmMin
def execOcxoWarmChange (high : Bool) (s : State) : Out := .next (s.ocxoChange high)
def execOcxoWarmLowTimeout (s : State) : Out := .next s.ocxoTimeout

end Sys2Proof.Machine
end

