-- ==== Sys2Proof/Machine/Select.lean ====
section
/-! DEFINITION. Qualification, selection, the TOD input and DPLL commands
(spec/04_references_holdover_outputs.md). -/
namespace Sys2Proof.Machine

/-! ### The state table (R89) -/

/-- All qualifiers pass, as last evaluated. -/
def State.passesAll (s : State) (k : Nat) : Bool :=
  let x := s.src k
  x.q1 && x.q2 && x.q3 && x.q4 && x.q5

/-- One row of R89, as the state stands; `close` at a window close of the source. -/
def State.srcRow (s : State) (k : Nat) (close : Bool) : State :=
  let x := s.src k
  let st := s.srcState k
  let named := (s.rowOf k).isSome || (k == 18 && s.is SYS_MODE_PAIR)
  if !s.is (SEL_SRC_EN k) || !named then s.srcTo k 0
  else if st = 0 then s.srcTo k 1
  else if 2 ≤ st ∧ !x.q1 then s.srcTo k 1
  else if st = 1 ∧ x.q1 then s.srcTo k 2
  else if st = 2 ∧ close ∧ s.passesAll k ∧ x.confWith = 0 then
    let w := s.get SEL_CTL_WTR
    if !x.everQual ∨ w = 0 then s.srcTo k 4
    else
      let s := (s.setSrc k { x with wtrFrom := s.tb.ticks, wtrLen := w }).srcTo k 3
      s.srcGroup k fun s => s.set (SEL_SRC_WTRLEFT k) w
  else if 3 ≤ st ∧ !(s.passesAll k) then s.srcTo k 2
  -- row 12: three windows in a row without disagreement
  else if st = 5 ∧ 3 ≤ x.agree then s.srcTo k 4
  else s

/-- The rows that do not wait for a window close. -/
def State.srcRows (s : State) (k : Nat) : State :=
  if s.warmRuns then ((s.srcRow k false).srcRow k false).showReason k else s

/-! ### Q1 (R86) -/

/-- The nominal period of a physical input's events, as a quotient in 2^-16 ns (R82). -/
def State.period (s : State) (k : Nat) : Nat × Nat :=
  match s.get (SEL_SRC_TYPE k) with
  | 0 => (sec1, 1)
  | 1 => (2 * sec1, 1)
  | 2 => (us1, 1)
  | 3 => (us1, 1)
  | 4 => (125 * us1, 1)
  | 5 => (125 * us1, 1)
  | 6 => (125 * us1, 1)
  | _ => let f := max 1 (s.get (SEL_SRC_FREQ k)); (ceilDiv f 1000000 * sec1, f)

/-- An interval between events is within the limit of Q1. -/
def inLimit (p : Nat × Nat) (d : Nat) : Bool :=
  if ms1 * p.2 ≤ p.1 then decide (2 * d * p.2 ≤ 3 * p.1) else decide (d * p.2 ≤ 3 * p.1)

/-- Keep what the averaging span needs: the last 1,001 events, or those of the last second and the one before. -/
def trimEdges (t : Nat) (es : List Nat) : List Nat :=
  let es := es.take 1001
  let inside := es.takeWhile fun e => decide (t < e + sec1)
  es.take (max 2 (inside.length + 1))

/-- The mean period over the span is within 0.1 % of nominal. -/
def meanOk (p : Nat × Nat) (es : List Nat) : Bool :=
  match es, es.getLast? with
  | t :: _ :: _, some o =>
    let n := es.length - 1
    decide (1000 * ((t - o : Nat) * p.2 : Int) ≤ 1001 * (n * p.1)) && decide (999 * (n * p.1) ≤ 1000 * ((t - o : Nat) * p.2))
  | _, _ => false

/-- The span is full: 1,000 periods, or one second. -/
def spanFull (es : List Nat) : Bool :=
  match es, es.getLast? with
  | t :: _ :: _, some o => decide (1001 ≤ es.length) || decide (o + sec1 ≤ t)
  | _, _ => false

/-- An event of a physical input: Q1 and the phase of its latest measurement (R83, R86). -/
def State.refEvent (s : State) (k t : Nat) : State :=
  let x := s.src k
  let p := s.period k
  let ok := match x.edges with
    | e :: _ => decide (e < t) && inLimit p (t - e)
    | [] => false
  let es := trimEdges t (if ok then t :: x.edges else [t])
  let q1 := if x.q1 then ok && meanOk p es else spanFull es && meanOk p es
  let s := s.setSrc k { x with edges := es, q1 := q1 }
  let s := match (s.engine k).acc.run with
    | some (_, _, r) =>
      if (s.chCfg k).sten then s.srcGroup k fun s => s.setI64 (SEL_SRC_PHASE_LO k) (SEL_SRC_PHASE_HI k) (s.foldPhase k (divRound (-r) 65536))
      else s
    | none => s
  (s.srcRows k).warmRule

/-- A measurement of a virtual source: `x` is TB minus the source's time, in 2^-16 ns, at instant `t` (R83). -/
def State.measure (s : State) (k t : Nat) (x : Int) : State :=
  let y := s.src k
  let s := s.setSrc k { y with lastMeas := some s.tb.ticks, acc := y.acc.add t (x * 65536) false false false }
  s.srcGroup k fun s => s.setI64 (SEL_SRC_PHASE_LO k) (SEL_SRC_PHASE_HI k) (-x)

/-- TODIN passes Q1 (R106). -/
def Src.labelsOk (x : Src) (now : Nat) : Bool :=
  let ls := match x.labels with
    | none :: t => t
    | l => l
  let fresh := match x.edges with
    | e :: _ => decide (now ≤ e + 3 * sec1 / 2)
    | [] => false
  fresh && match ls with
    | some a :: some b :: some c :: _ => a == b + 1 && b == c + 1
    | _ => false

/-- DRIFT_UNRESOLVED clears when the source that raised it has been lost for a whole window (R88). -/
def State.driftGone (s : State) : State :=
  if !s.is SEL_STATUS_DRIFTUNRES then s
  else if 2 ≤ s.srcState s.sel.driftSrc then s.onSel fun x => { x with driftLost := none }
  else match s.sel.driftLost with
  | none => s.onSel fun x => { x with driftLost := some s.tb.ticks }
  | some t =>
    if s.tb.ticks < t + s.get (SEL_SRC_QWIN s.sel.driftSrc) * 10 ^ 9 then s
    else (((s.set SEL_STATUS_DRIFTUNRES 0).clearCond 0x0506 0).queueEvent 0x0506 2 s.sel.driftSrc).onSel fun x => { x with driftLost := none }

/-- The qualifiers that are evaluated each TB second (R86): Q1 of virtual sources, and Q5. -/
def State.secondQualifiers (s : State) : State :=
  let recent := fun (x : Src) => x.lastMeas.any fun t => decide (s.tb.ticks < t + 2 * 10 ^ 9)
  let set1 := fun (s : State) (k : Nat) (b : Bool) => s.setSrc k { s.src k with q1 := b }
  let s := set1 s 16 (recent (s.src 16))
  let s := set1 s 17 (s.is PTPIN_Q1)
  let s := set1 s 18 (recent (s.src 18))
  let s := set1 s 19 ((s.src 19).labelsOk s.now)
  let s := s.setSrc 16 { s.src 16 with
    q5 := !s.is GN_STATUS_SPOOFFLAG && !s.is GN_STATUS_INTFLAG && !s.is GN_STATUS_JAMFLAG }
  if s.warmRuns then (s.forEach 20 fun s k => s.srcRows k).driftGone else s

/-- The longest interval between events that Q1 allows, in 2^-16 ns (R86). -/
def edgeLimit (p : Nat × Nat) : Nat := if ms1 * p.2 ≤ p.1 then ceilDiv (3 * p.1) (2 * p.2) else ceilDiv (3 * p.1) p.2

/-- Q1 fails for want of an edge, at the end of the time allowed after the last one (R86): that instant is reached. -/
def State.q1Fail (s : State) (k : Nat) : State :=
  let x := s.src k
  if !x.q1 then s
  else match s.reach (x.edges.headD 0 + edgeLimit (s.period k)) with
  | some s => (s.setSrc k { x with q1 := false, edges := [] }).srcRows k |>.warmRule
  | none => s

def execQ1ActivityFail (src : Fin 16) (s : State) : Out := .next (s.q1Fail src)

/-! ### Selection (R84, R90, R92) -/

/-- The better of two candidates: rank, then row. PARTNER in STANDBY comes before all (R84). -/
def State.selKey (s : State) (k : Nat) : Nat :=
  if k = 18 ∧ s.mode = .standby then 0 else s.rankOf k * 16 + (s.rowOf k).getD 0 + 1

/-- The candidates of R92. -/
def State.candidates (s : State) : List Nat :=
  (List.range 20).filter fun k => s.good k && s.eligible k && (s.rankOf k ≠ 0 || (k == 18 && s.mode == .standby))

/-- The candidate of smallest key. -/
def State.bestOf (s : State) (l : List Nat) : Option Nat :=
  l.foldl (fun (b : Option Nat) (k : Nat) => match b with
    | some j => if s.selKey k < s.selKey j then some k else b
    | none => some k) none

/-- The source that R92 chooses. -/
def State.chosenSource (s : State) : Option Nat :=
  let c := s.candidates
  let best := s.bestOf c
  match s.active with
  | none => best
  | some a =>
    if !c.contains a then best
    else if c.contains 18 ∧ s.mode = .standby then some 18
    else if !s.is SEL_CTL_REVERT then some a
    else match best with
      | some b => if s.rankOf b < s.rankOf a then some b else some a
      | none => some a

/-- Selection makes source `b` ACTIVE (R89 rows 9 and 10, R95, R97). Event 0x0502 names as previous the source that was ACTIVE until
now, and none where that one had failed before (DESIGN CHOICE notes/assumptions/50.md). -/
def State.switchTo (s : State) (b : Nat) : State :=
  let prev := s.active
  let first := !s.is SEL_STATUS_EVERACTIVE
  let swOld := (s.sel.transfer.any fun t => t.first)
  let s := match prev with
    | some a => if s.timeCapable a ∧ !s.timeCapable b then
        let e := s.lockE a
        s.onSel fun x => { x with e0 := e, e0Ticks := s.tb.ticks } else s
    | none => s
  let s := s.abandonTransfer
  let s := if s.tb.frozen.isSome then s else s.onSel fun x => { x with transfer := none }
  let s := s.set SEL_STATUS_ACTIVE b
  let s := match prev with
    | some a => (s.setSrc a { s.src a with activeWins := 0 }).srcTo a 4
    | none => s
  let s := s.srcTo b 6
  let s := s.setSrc b { s.src b with activeWins := 0 }
  let s := ((s.set SEL_STATUS_EVERACTIVE 1).setb SEL_STATUS_FREQONLY (!s.timeCapable b)).onSel fun x =>
    { x with activeTicks := s.tb.ticks }
  let s := (s.set SEL_STATUS_NOREF 0).clearCond 0x050A 0
  let d := match s.tb.frozen with
    | some f => s.phase b - f
    | none => s.phase b
  let frozenKept := s.tb.frozen.isSome
  let (s, kind) := s.transfer b d first
  let s := if frozenKept then s.onTb fun t => { t with frozenFirst := swOld } else s
  (s.event 0x0502 0 (b + (prev.getD 0x1F) * 2 ^ 8 + kind * 2 ^ 13)).publishTqr

/-- Selection (R90, R92). -/
def State.select (s : State) : State :=
  if s.warmRuns then
    -- an ACTIVE source that is no longer eligible returns to QUALIFIED (R89 row 10)
    let s := match s.active with
      | some a => if s.eligible a then s else s.srcTo a 4
      | none => s
    match s.chosenSource with
    | none => s
    | some b => if s.active = some b then s else s.switchTo b
  else s

def execSelection (s : State) : Out := .next s.select

/-- The whole-second step toward the best-ranked source with time of day while a physical input is ACTIVE (R85). -/
def State.wholeSecond (s : State) : State :=
  match s.active with
  | none => s
  | some a =>
    if 16 ≤ a ∨ !s.fwSteers then s
    else match s.bestOf (s.candidates.filter fun k => todSource k && s.srcState k == 4) with
      | none => s
      | some q =>
        let p := (s.tb.step.getD 0) + (s.tb.frozen.getD 0)
        let n := nearestDiv (s.phase q - p) sec1
        if n = 0 then s else s.fwStep (s.tb.step.getD 0 + n * sec1)

/-- A wait-to-restore ends (R89 row 8, R93): its last instant is reached. -/
def State.wtrElapsed (s : State) (k : Nat) : State :=
  if s.srcState k = 3 then
    match s.reachTick (1000000000 * (s.src k).wtrLen + (s.src k).wtrFrom) with
    | some s => (s.srcTo k 4).wholeSecond
    | none => s
  else s

def execWtrElapsed (src : Fin 20) (s : State) : Out := .next (s.wtrElapsed src)

/-! ### Window close (R86 to R88, R94, R98) -/

/-- The acquisition candidate (R87). -/
def State.acqCandidate (s : State) : Option Nat :=
  if s.is SEL_STATUS_ACQ && s.active.isNone then
    s.bestOf ((List.range 20).filter fun k =>
      (fun x : Src => x.q1 && x.q3 && x.q5) (s.src k) && s.eligible k && 2 ≤ s.srcState k &&
        (s.rankOf k ≠ 0 || (k == 18 && s.mode == .standby)))
  else none

/-- The source that acquisition exempts from Q2 and Q4 (R87): the candidate, and once it is ACTIVE that source, while ACQ = 1
(DEDUCED notes/assumptions/50.md). -/
def State.acqSource (s : State) : Option Nat :=
  if s.is SEL_STATUS_ACQ then (match s.active with
    | some a => some a
    | none => s.acqCandidate) else none

/-- The slope over (ticks, value) points: value units per hour, times 10^12 / 10^15 (R88). -/
def driftSlope (l : List (Nat × Nat × Int)) : Int :=
  match l with
  | [] => 0
  | p0 :: _ =>
    let u := fun (p : Nat × Nat × Int) => (p.1 : Int) - p0.1
    let n : Int := l.length
    let su := sumInt l u
    let sy := sumInt l fun p => p.2.2
    let d := n * sumInt l (fun p => u p * u p) - su * su
    let c := n * sumInt l (fun p => u p * p.2.2) - su * sy
    if d ≤ 0 then 0 else divRound (c * (3600 * 10 ^ 9)) (d.toNat * 1000)

/-- A source has 3,600 s of valid windows. -/
def Src.trained (x : Src) : Bool := decide (3600 ≤ (x.hist.map fun p => p.2.1).sum)

/-- Sources that take part in the drift comparison (R88). -/
def State.driftSet (s : State) (r : Nat) : List Nat :=
  (List.range 20).filter fun k => k ≠ r &&
    (fun x : Src => x.q1 && x.q2 && x.q3 && x.q5 && x.trained) (s.src k) && 2 ≤ s.srcState k

/-- The median, in half units: twice the middle value, or the sum of the two middle values. -/
def median2 (l : List Int) : Int :=
  let l := l.mergeSort (fun a b => decide (a ≤ b))
  let n := l.length
  l.getD ((n - 1) / 2) 0 + l.getD (n / 2) 0

/-- DRIFT_UNRESOLVED is raised for source `r`, or cleared when the condition that raised it is gone (R88). -/
def State.driftUnres (s : State) (r : Nat) (now : Bool) : State :=
  if s.is SEL_STATUS_DRIFTUNRES then
    if now ∨ s.sel.driftSrc ≠ r then s
    else ((s.set SEL_STATUS_DRIFTUNRES 0).clearCond 0x0506 0).queueEvent 0x0506 2 r
  else if now then
    ((s.set SEL_STATUS_DRIFTUNRES 1).onSel fun x => { x with driftSrc := r }).raiseCond 0x0506 2 (r + 256) 0
  else s

/-- The drift rule for source `r` (R88): F_r, Q4, events and DRIFT_UNRESOLVED. -/
def State.driftEval (s : State) (r : Nat) : State :=
  let x := s.src r
  if !x.trained then (s.setSrc r { x with q4 := true, driftFig := 0, driftSince := none }).driftUnres r false
  else
    let o := s.driftSet r
    let hard := s.get (SEL_SRC_DHARD r)
    let soft := s.get (SEL_SRC_DSOFT r)
    let f2 : Int := match o with
      | [] => 2 * x.drift
      | [q] => 2 * (x.drift - (s.src q).drift)
      | l => 2 * x.drift - median2 (l.map fun q => (s.src q).drift)
    let beyond := decide (2 * hard < f2.natAbs)
    let crossed := decide (2 * soft < f2.natAbs)
    let since := if crossed then some (x.driftSince.getD s.tb.ticks) else none
    let fig := divRound f2 2
    let isAct := s.srcState r == 6
    let (q4, other, unres) : Bool × Option Nat × Bool :=
      if !beyond then (true, none, false)
      else match o with
        | [] => (true, none, isAct)
        | [q] =>
          let dq := (s.src q).drift.natAbs
          if dq < x.drift.natAbs then (false, none, false)
          else if x.drift.natAbs < dq then (true, some q, false) else (true, none, true)
        | _ => (false, none, false)
    let s := if crossed ∧ x.driftSince.isNone then
        s.event 0x0505 1 (r + ofSigned 16 (satSigned 16 fig) * 2 ^ 16) else s
    let s := s.setSrc r { x with q4 := q4 || s.acqSource == some r, driftFig := fig, driftSince := since }
    let s := match other with
      | some q => if s.acqSource = some q then s else (s.setSrc q { s.src q with q4 := false }).srcRows q
      | none => s
    s.driftUnres r unres

/-- Sources that can stand in a rank conflict (R94). -/
def State.conflictable (s : State) (k : Nat) : Bool :=
  (fun x : Src => x.q1 && x.q3 && x.q4 && x.q5 && x.hasF) (s.src k) && s.rankOf k ≠ 0 && 2 ≤ s.srcState k

/-- The pairs in conflict: difference and the two sources in row order. -/
def State.conflictPairs (s : State) : List (Nat × Nat × Nat) :=
  let l := (List.range 16).filterMap fun i =>
    let k := s.get (SEL_PRIO_SOURCE i)
    if s.get (SEL_PRIO_RANK i) ≠ 0 ∧ s.rowOf k = some i ∧ s.conflictable k then some k else none
  let pairs := l.flatMap fun a => l.filterMap fun b =>
    if (s.rowOf a).getD 0 < (s.rowOf b).getD 0 ∧ s.rankOf a = s.rankOf b then
      let d := ((s.src a).f15 - (s.src b).f15).natAbs
      if min (s.get (SEL_SRC_FSOFT a)) (s.get (SEL_SRC_FSOFT b)) * 1000 < d then some (d, a, b) else none
    else none
  -- largest difference first; the rows already rise within equal differences
  pairs.mergeSort (fun p q => decide (q.1 ≤ p.1))

/-- The agreeing third sources of member `m` of a pair; `ps` are the pairs in conflict. A source of another rank that is itself in
conflict is none; the members of the rank's own group are (R94). -/
def State.agreeing (s : State) (ps : List (Nat × Nat × Nat)) (m a b : Nat) (gone : List Nat) : Nat :=
  ((List.range 20).filter fun k => k ≠ a && k ≠ b && !gone.contains k && (s.src k).hasF &&
    (s.rankOf k == s.rankOf a || ps.all fun p => p.2.1 ≠ k && p.2.2 ≠ k) &&
    (s.srcState k == 3 || s.srcState k == 4 || s.srcState k == 6) &&
    decide (((s.src k).f15 - (s.src m).f15).natAbs ≤ s.get (SEL_SRC_FSOFT m) * 1000)).length

/-- A member loses a conflict to `to_`: DISQ with reason CONFLICT, or CONFLICT when it is left unresolved. -/
def State.loseTo (s : State) (k to_ : Nat) (unresolved : Bool) : State :=
  let s := s.setSrc k { s.src k with confWith := to_ + 1, agree := 0 }
  let st := s.srcState k
  if unresolved ∧ (st = 4 ∨ st = 6) then
    let s := s.srcTo k 5
    if s.is SEL_STATUS_RANKCONF then s
    else (s.set SEL_STATUS_RANKCONF 1).raiseCond 0x0503 2 (to_ + k * 2 ^ 8) 0
  else if st = 5 ∧ unresolved then s
  else if 3 ≤ st then s.srcTo k 2
  else s

/-- Resolve one pair (R94). -/
def State.resolvePair (s : State) (ps : List (Nat × Nat × Nat)) (gone : List Nat) (a b : Nat) : State × List Nat :=
  if gone.contains a ∨ gone.contains b then (s, gone)
  else
    let na := s.agreeing ps a a b gone
    let nb := s.agreeing ps b a b gone
    if nb < na then (s.loseTo b a false, b :: gone)
    else if na < nb then (s.loseTo a b false, a :: gone)
    else if s.srcState b = 6 then (s.loseTo a b true, a :: gone)
    else (s.loseTo b a true, b :: gone)

/-- All conflicts of the evaluation (R94). -/
def State.conflicts (s : State) (ps : List (Nat × Nat × Nat)) : State :=
  (ps.foldl (fun (sg : State × List Nat) p => sg.1.resolvePair ps sg.2 p.2.1 p.2.2) (s, [])).1

/-- The window result of a source: of its TDC engine, or of the firmware's accumulation (R83). -/
def State.windowOf (s : State) (k : Nat) : WinResult :=
  if 16 ≤ k then (s.src k).acc.result s.now false
  else
    let b := fun F => s.is F
    { n := if b (TDC_ST_VALID k) && s.get (TDC_ST_COUNT k) == 0 then winMax else s.get (TDC_ST_COUNT k)
      stop := s.getTs (TDC_ST_END k), mean := toSigned 64 (s.get64 (TDC_ST_MEAN_LO k) (TDC_ST_MEAN_HI k))
      sd := s.get (TDC_ST_SD k), mn := 0, mx := 0
      slope := toSigned 48 (s.get64 (TDC_ST_SLOPE_LO k) (TDC_ST_SLOPE_HI k))
      gap := b (TDC_ST_GAP k), overflow := b (TDC_ST_OVERFLOW k), cut := b (TDC_ST_CUT k), uncal := b (TDC_ST_UNCAL k)
      order := false, subres := false }

/-- Q2 and Q3 from a usable window, and f, SD and the history of the drift rule (R86, R88). -/
def State.judgeWindow (s : State) (k : Nat) (r : WinResult) (cand : Option Nat) : State :=
  let x := s.src k
  let qw := s.get (SEL_SRC_QWIN k)
  let f := -r.slope
  let ref := match cand with
    | some c => if c = k then 0 else (s.src c).f15
    | none => 0
  let fq := (f - ref).natAbs
  let q2 := decide (fq ≤ s.get (SEL_SRC_FHARD k) * 1000) || cand == some k
  let s := if q2 ∧ s.get (SEL_SRC_FSOFT k) * 1000 < fq then
      s.event 0x0507 1 (k + ofSigned 16 (satSigned 16 (divRound f 10000)) * 2 ^ 16) else s
  let jOk := match x.prev with
    | some (m, y) => if s.sel.lastStep = some x.prevEnd then true
        else decide (((r.mean - m) * 1000000 - y * (qw * 65536)).natAbs ≤ s.get (SEL_SRC_PHJUMP k) * ns1 * 1000000)
    | none => true
  let q3 := decide (r.sd * 1000 ≤ s.get (SEL_SRC_PHSD k) * 65536) && jOk
  let a := s.tb.secs.getD qw (s.tb.secs.getLastD (0, 0))
  let b := s.tb.secs.headD (0, 0)
  let inc : Int := if b.1 = a.1 then 0 else nearestDiv ((b.2 - a.2) * 10 ^ 15) ((b.1 - a.1) * 2 ^ 40)
  let y := r.slope - inc
  let hist := (x.hist.filter fun p => decide (s.tb.ticks < p.1 + 3600 * 10 ^ 9)) ++ [(s.tb.ticks, qw, y - s.modelY)]
  let drift := driftSlope hist
  let whole := decide (s.sel.activeTicks ≤ a.1) && s.srcState k == 6
  let s := s.setSrc k { x with
    q2 := q2, q3 := q3, f15 := f, hasF := true, sd := r.sd, prev := some (r.mean, r.slope), prevEnd := r.stop, hist := hist
    drift := drift }
  let s := s.srcGroup k fun s => (s.seti (SEL_SRC_FOFS k) (divRound f 1000)).seti (SEL_SRC_DRIFT k) drift
  let s := s.driftEval k
  if whole ∧ (s.src k).driftFig.natAbs ≤ s.get (SEL_SRC_DSOFT k) then s.fitWindow qw y else s

/-- A window of a source closes (R86): qualifiers, drift, conflicts, the state table, the holdover model and the whole-second step.
A window with fewer than two events gives no slope: it is not used, and the next window forms no J (DESIGN CHOICE
notes/assumptions/50.md). -/
def State.sourceWindow (s : State) (k : Nat) : State :=
  if !s.warmRuns || !s.is (SEL_SRC_EN k) then s
  else
    let r := s.windowOf k
    let s := if 16 ≤ k then s.setSrc k { s.src k with acc := (s.src k).acc.next false } else s
    if r.uncal then
      (s.setSrc k { s.src k with uncal := true }).showReason k
    else
      let s := s.setSrc k { s.src k with uncal := false }
      let cand := s.acqSource
      let usable := !r.gap && !r.overflow && !r.cut && decide (2 ≤ r.n)
      let s := if usable then s.judgeWindow k r cand
        else s.setSrc k { s.src k with prev := none, prevEnd := r.stop }
      let ps := s.conflictPairs
      let s := (ps.foldl (fun s p => ((s.setSrc p.2.1 { s.src p.2.1 with q2 := true }).setSrc p.2.2
        { s.src p.2.2 with q2 := true })) s).conflicts ps
      let inPair := ps.any fun p => p.2.1 == k || p.2.2 == k
      let s := if inPair ∨ s.srcState k = 5 then s else s.setSrc k { s.src k with confWith := 0 }
      let s := if s.srcState k = 5 then s.setSrc k { s.src k with agree := if inPair then 0 else (s.src k).agree + 1 } else s
      let s := (s.srcRow k true).conflictShow
      let s := if s.srcState k = 6 then
          let n := (s.src k).activeWins + 1
          let s := s.setSrc k { s.src k with activeWins := n }
          if 2 ≤ n then s.set SEL_STATUS_ACQ 0 else s
        else s
      (s.refit.showReason k).wholeSecond

def execSourceWindowClose (src : Fin 20) (s : State) : Out := .next (s.sourceWindow src)

/-- A TB step starts new runs: virtual sources' windows too (R73, R83). -/
def State.cutVirtual (s : State) : State :=
  s.forEach 4 fun s i => s.setSrc (16 + i) { s.src (16 + i) with acc := {}, prev := none }

/-! ### TOD input (R106) -/

/-- Days from 1970-01-01 of a Gregorian date. -/
def daysOf (y m d : Nat) : Nat :=
  let y' := if m ≤ 2 then y - 1 else y
  let mp := (m + 9) % 12
  365 * y' + y' / 4 - y' / 100 + y' / 400 + (153 * mp + 2) / 5 + d - 719469

/-- The days of a month. -/
def daysIn (y m : Nat) : Nat :=
  if m = 2 then (if y % 4 = 0 ∧ (y % 100 ≠ 0 ∨ y % 400 = 0) then 29 else 28)
  else if m = 4 ∨ m = 6 ∨ m = 9 ∨ m = 11 then 30 else 31

/-- Split a list at a byte. -/
def splitAt (c : Byte) : List Byte → List (List Byte)
  | [] => [[]]
  | b :: t => match splitAt c t with
    | [] => [[b]]
    | w :: ws => if b = c then [] :: w :: ws else (b :: w) :: ws

/-- What a ZDA sentence says: hour, minute, second, day, month, year. -/
structure Zda where
  hh : Nat
  mm : Nat
  ss : Nat
  day : Nat
  mon : Nat
  year : Nat
  deriving DecidableEq, Repr

/-- The time field: six digits, and hundredths that must be 00. -/
def zdaTime (f : List Byte) : Option (Nat × Nat × Nat) :=
  match decNat (slice f 0 2), decNat (slice f 2 2), decNat (slice f 4 2) with
  | some h, some m, some x =>
    if f.length = 6 ∨ f.drop 6 = chars ".00" then
      if h ≤ 23 ∧ m ≤ 59 ∧ x ≤ 60 then some (h, m, x) else none
    else none
  | _, _, _ => none

/-- Validate a sentence (R106): its content, or the reason of event 0x0509 (1 format, 2 checksum). -/
def zdaParse (cs : List Byte) : Zda ⊕ Nat :=
  let n := cs.length
  let body := slice cs 1 (n - 6)
  let tail := cs.drop (n - 5)
  match tail with
  | [star, h, l, cr, lf] =>
    if 82 < n ∨ n < 12 ∨ cs.headD 0 ≠ 36 ∨ star ≠ 42 ∨ cr ≠ 13 ∨ lf ≠ 10 ∨ slice cs 3 4 ≠ chars "ZDA," then .inr 1
    else match hexVal h, hexVal l with
    | some a, some b =>
      match (splitAt 44 body).drop 1 with
      | [t, d, m, y, _, _] =>
        match zdaTime t, decNat d, decNat m, decNat y with
        | some (hh, mm, ss), some dd, some mo, some yy =>
          if d.length = 2 ∧ m.length = 2 ∧ y.length = 4 ∧ 1 ≤ mo ∧ mo ≤ 12 ∧ 1 ≤ dd ∧ dd ≤ daysIn yy mo ∧ 1970 ≤ yy then
            if xorBytes body = a * 16 + b then .inl ⟨hh, mm, ss, dd, mo, yy⟩ else .inr 2
          else .inr 1
        | _, _, _, _ => .inr 1
      | _ => .inr 1
    | _, _ => .inr 1
  | _ => .inr 1

/-- The TAI label of a sentence, by TB_UTC.OFFSET. -/
def State.zdaLabel (s : State) (z : Zda) : Int :=
  (daysOf z.year z.mon z.day * 86400 + z.hh * 3600 + z.mm * 60 + z.ss : Nat) + s.geti TB_UTC_OFFSET

def State.zdaReject (s : State) (why : Nat) : State := s.event 0x0509 1 why

/-- Label the pulse at `t` and take the measurement (R83, R106). -/
def State.labelPulse (s : State) (t lab : Nat) : State :=
  let x := s.src 19
  let s := s.setSrc 19 { x with labels := (some lab :: x.labels.drop 1).take 4 }
  s.measure 19 t ((t : Int) - (lab * sec1 : Nat))

/-- A ZDA sentence that ends at the present instant (R106; DEDUCED notes/assumptions/12.md). -/
def State.zda (s : State) (cs : List Byte) : State :=
  if !s.warmRuns || !s.is SEL_TODIN_EN then s
  else match zdaParse cs with
  | .inr why => s.zdaReject why
  | .inl z =>
    let l := s.zdaLabel z
    let leapOk := z.ss ≠ 60 || (s.get TB_UTC_LEAP == 1 && l + 1 == (s.leapTime : Int))
    if !leapOk || decide (l < 0) then s.zdaReject 3
    else
      let lab := l.toNat
      let x := s.src 19
      if s.is SEL_TODIN_PHASE then
        match x.labels with
        | some p :: _ => if lab = p + 1 then s.onSel fun e => { e with zdaNext := some lab }
            else (s.setSrc 19 { x with labels := [] }).zdaReject 3
        | _ => s.onSel fun e => { e with zdaNext := some lab }
      else match x.edges with
        | t :: _ =>
          if sec1 < s.now - t ∨ x.labels.headD none ≠ none then s.zdaReject 4
          else match x.labels with
            | _ :: some p :: _ => if lab = p + 1 then s.labelPulse t lab
                else (s.setSrc 19 { x with labels := [none] }).zdaReject 3
            | _ => s.labelPulse t lab
        | [] => s.zdaReject 4

def execZdaSentence (chars : List Byte) (s : State) : Out := .next (s.zda chars)

/-- A pulse of the TODIN source's EVT channel at `t`. -/
def State.todPulse (s : State) (t : Nat) : State :=
  let x := s.src 19
  let s := s.setSrc 19 { x with edges := [t], labels := (none :: x.labels).take 4 }
  match s.sel.zdaNext with
  | some l => (s.onSel fun e => { e with zdaNext := none }).labelPulse t l
  | none => s

/-! ### An edge, as the TDC and the qualifiers take it -/

/-- An edge on a TDC channel (R62 to R64), with what a reference input or the TODIN pulse makes of it. -/
def State.edge (s : State) (n : Nat) (rising : Bool) (bin : Nat) : State :=
  let r := s.tdcEdge n rising bin
  let s := r.1
  match r.2 with
  | none => s
  | some t =>
    let s := if n < 16 ∧ s.is (SEL_SRC_EN n) then s.refEvent n t else s
    if s.is SEL_TODIN_EN ∧ n = 16 + s.get SEL_TODIN_EVT then s.todPulse t else s

/-- An edge `wait` ticks from now; where a second boundary comes first, nothing (log entry 1). -/
def State.edgeIn (s : State) (n : Nat) (rising : Bool) (bin wait : Nat) : State := match s.reachTick (wait + s.tb.ticks) with
  | some s => s.edge n rising bin
  | none => s

def execTdcEdge (ch : Fin 32) (rising : Bool) (bin : Fin 2048) (wait : Nat) (s : State) : Out := .next (s.edgeIn ch rising bin wait)

/-! ### DPLL commands (R108) -/

/-- The phase error of a DPLL: of one that tracks TB what its loop has left, else what is measured (R107). -/
def State.dpllPhase (s : State) (d : Nat) (phase : Int) : Int := if s.get (DPLL_INPUTNOW d) = 16 then s.dpllErr d else phase

/-- What the DPLL shows: phase error in ps, output frequency against TB in 10^-15; the frequencies of the last second are kept. -/
def State.dpllShow (s : State) (d : Nat) (phase freq : Int) : State :=
  let x := s.dpll d
  let old := x.freqs.takeWhile fun p => decide (s.tb.ticks < p.1 + 1000000000)
  let fs := (s.tb.ticks, freq) :: x.freqs.take (old.length + 1)
  ((s.setDpll d { x with freqs := fs }).seti (DPLL_PHERR d) (s.dpllPhase d phase)).seti (DPLL_FOFS d) freq

/-- The phase error has stayed within LOCKTHR for 1 s in ACQUIRE, and since the last step of a TB it tracks (row 3): that instant
is reached. -/
def State.dpllLock (s : State) (d : Nat) (phase freq : Int) : State :=
  if !s.awake || s.get (DPLL_STATE d) ≠ 1 then s
  else
    let from_ := max (s.dpll d).since (if s.get (DPLL_INPUTNOW d) = 16 then (s.dpll d).errAt else 0)
    match s.reachTick (1000000000 + from_) with
    | some s => if s.get (DPLL_LOCKTHR d) < (s.dpllPhase d phase).natAbs then s else (s.dpllShow d phase freq).dpllTo d 2
    | none => s

/-- The phase error exceeds 4 x LOCKTHR (row 7). -/
def State.dpllUnlock (s : State) (d : Nat) (phase freq : Int) : State :=
  if !s.awake || s.get (DPLL_STATE d) ≠ 2 || (s.dpllPhase d phase).natAbs ≤ 4 * s.get (DPLL_LOCKTHR d) then s
  else (s.dpllShow d phase freq).dpllTo d 1

/-- 100 ms in HOLD with FALLBACK = 1 (row 5): that instant is reached, and the DPLL locks to TB. -/
def State.dpllFallback (s : State) (d : Nat) : State :=
  if !s.awake || s.get (DPLL_STATE d) ≠ 3 || !s.is (DPLL_FALLBACK d) then s
  else match s.reachTick (100000000 + (s.dpll d).since) with
  | some s => ((s.dpllTrack d 16).dpllTo d 4).event 0x0605 2 (d + 16)
  | none => s

/-- The DPLLs at a second boundary: the rows that need no measurement, and the phase error of those that track TB (R107, R108). -/
def State.dpllSecond (s : State) : State :=
  if s.warmRuns then s.forEach 4 fun s d =>
    let s := s.dpllRows d false
    if s.get (DPLL_INPUTNOW d) = 16 ∧ (s.get (DPLL_STATE d) = 1 ∨ s.get (DPLL_STATE d) = 2 ∨ s.get (DPLL_STATE d) = 4) then
      let e := s.dpllErr d
      let s := s.seti (DPLL_PHERR d) e
      if s.get (DPLL_STATE d) = 2 ∧ 4 * s.get (DPLL_LOCKTHR d) < e.natAbs then s.dpllTo d 1 else s
    else s
  else s

def execDpllLock (d : Fin 4) (phase freq : Int) (s : State) : Out := .next (s.dpllLock d phase freq)
def execDpllLockLoss (d : Fin 4) (phase freq : Int) (s : State) : Out := .next (s.dpllUnlock d phase freq)
def execDpllFallback (d : Fin 4) (s : State) : Out := .next (s.dpllFallback d)

end Sys2Proof.Machine
end

