-- ==== Sys2Proof/Machine/Gnss.lean ====
section
/-! DEFINITION. The GNSS baseband (spec/05_gnss_baseband.md): front end, channels, navigation ring, measurement latch,
interference, spoof detection, burst tracking and the published time solution. -/
namespace Sys2Proof.Machine

/-! ### Signals and streams (R119, R122, R125) -/

/-- Whether a signal lies in the L5 band. -/
def gnL5 (code : Nat) : Bool := code == 2 || code == 4 || code == 7 || code == 10

/-- A signal without a pilot component. -/
def gnDataOnly (code : Nat) : Bool := code == 0 || code == 5 || code == 8

/-- The system of a signal: 0 GPS, 1 Galileo, 2 BeiDou, 3 QZSS. -/
def gnSystem (code : Nat) : Nat := if code ≤ 2 then 0 else if code ≤ 4 then 1 else if code ≤ 7 then 2 else 3

/-- The system whose time and UTC parameters a signal has: QZSS counts as GPS (R151). -/
def gnTimeSystem (code : Nat) : Nat := if gnSystem code = 3 then 0 else gnSystem code

/-- The satellite numbers of a signal's system. -/
def gnSvOk (code sv : Nat) : Bool :=
  match gnSystem code with
  | 1 => decide (1 ≤ sv ∧ sv ≤ 36)
  | 3 => decide (193 ≤ sv ∧ sv ≤ 202)
  | _ => decide (1 ≤ sv ∧ sv ≤ 63)

/-- Carrier and chipping rate in Hz. -/
def gnCarrier (code : Nat) : Nat := if gnL5 code then 1176450000 else if code = 5 then 1561098000 else 1575420000
def gnChips (code : Nat) : Nat := if gnL5 code then 10230000 else if code = 5 then 2046000 else 1023000

/-- The code length in chips. -/
def gnLength (code : Nat) : Nat := ([1023, 10230, 10230, 4092, 10230, 2046, 10230, 10230, 1023, 10230, 10230] : List Nat).getD code 10230

/-- The stream of a signal on an antenna (R119). -/
def gnStream (ant code : Nat) : Nat := 2 * ant + if gnL5 code then 1 else 0

/-- The sample rate of an antenna path in MS/s. -/
def State.gnRate (s : State) (ant : Nat) : Nat := if ant = 0 then s.get GN_CTL_FSA else s.get GN_CTL_FSB

/-- The clock-loss flag of a path. -/
def gnLoss (path : Nat) : Field := if path = 0 then GN_STATUS_CLKLOSSA else GN_STATUS_CLKLOSSB

/-- The baseband runs: domain 9 is on from the BOOT that enables it, and the front-end list has not failed (R123). -/
def State.gnOn (s : State) : Bool :=
  s.is GN_CTL_EN && !s.is GN_STATUS_FEFAIL && s.mode ≠ .off && s.mode ≠ .backup && s.mode ≠ .safe

/-- A path is in use and its clock is present. -/
def State.gnPath (s : State) (ant : Nat) : Bool := (ant == 0 || s.is GN_CTL_ANTB) && !s.is (gnLoss ant)

/-- The condition of R122 for a signal on its stream. -/
def State.gnFits (s : State) (ant code : Nat) : Bool :=
  let m := gnStream ant code
  let ctr : Int := (if gnL5 code then 1176450000 else 1575420000) + s.geti (GN_STR_IF_IF m)
  decide (10 * (((gnCarrier code : Int) - ctr).natAbs + gnChips code) ≤ 4 * (s.gnRate ant * 1000000))

/-! ### Front end and path clocks (R121, R123, R124, R130) -/

/-- An image's transaction whose read-back differs from the expected value. -/
def feBad (t : FeTrans) (read : List Byte) : Bool := t.expect.any fun e => decide (e ≠ read)

/-- The ephemeris held of a satellite is at most 2 h old (R149; for R128 and R130 an older one is not valid, DESIGN CHOICE
notes/assumptions/53.md). -/
def State.ephFresh (s : State) (sys sv : Nat) : Bool :=
  s.gn.orbit.ephs.any fun e => e.1 == sys && e.2.1 == sv && decide (s.tb.ticks ≤ e.2.2 + 7200 * 10 ^ 9)

/-- A position is known before any solution: the image's or the stored one. -/
def State.posKnown (s : State) : Bool := s.is GN_SOLCFG_POSSRC || s.gn.orbit.pos.isSome

/-- The start type of R130 from what is known: E, beyond 4.29 s as it is before the register saturates, the position, the valid
ephemerides of the satellites last in view, and an almanac. A stored position counts as known within 100 m (DESIGN CHOICE
notes/assumptions/53.md). -/
def State.gnStart (s : State) : Nat :=
  let teb := s.get SEL_TQR_TEB
  let e := if teb = 0xFFFFFFFF then s.boundE else teb * scaleE
  if e < 1000 * scaleE ∧ s.posKnown ∧ 6 ≤ (s.gn.orbit.view.filter fun x => s.ephFresh x.1 x.2).length then 0
  else if e < 10 ^ 10 * scaleE ∧ s.posKnown ∧ !s.gn.orbit.alms.isEmpty then 1 else 2

/-- The front-end transaction whose read bytes are not as expected, if there is one. -/
def State.feMismatch (s : State) (reads : List (List Byte)) : Option Nat :=
  (List.range s.gn.feList.length).find? fun i => feBad (s.gn.feList.getD i ⟨[], none⟩) (reads.getD i [])

/-- The first `n` transactions of the list are sent. -/
def State.feSend (s : State) (n : Nat) : State := (s.gn.feList.take n).foldl (fun s t => s.emit (.frontEnd t.bytes)) s

/-- The end of the first `n` transactions: their bytes at 10 MHz, and what passes between and around them. -/
def State.feTime (s : State) (n wait : Nat) : Nat := s.tb.ticks + (800 * ((s.gn.feList.take n).map (·.bytes.length)).sum + wait)

/-- The front-end list runs: the first mismatch ends it; each transaction up to there is sent (R123). After the list a path whose clock
is not there yet has 100 ms. -/
def State.feRun (s : State) (reads : List (List Byte)) (wait : Nat) (clkA clkB : Bool) : State :=
  if !s.gnOn || s.is GN_FESTAT_DONE then s
  else match s.feMismatch reads with
  | some i => match s.reachTick (s.feTime (i + 1) wait) with
    | some s => ((((s.feSend (i + 1)).set GN_FESTAT_FAIL 1).set GN_FESTAT_INDEX i).set GN_STATUS_FEFAIL 1).event 0x080E 2 i
    | none => s
  | none => match s.reachTick (s.feTime s.gn.feList.length wait) with
    | some s =>
      let waits := (if clkA then [] else [0]) ++ (if clkB then [] else [1])
      ((s.feSend s.gn.feList.length).onGn fun g => { g with feDone := s.tb.ticks, start := s.gnStart, clkWait := waits }).set GN_FESTAT_DONE 1
    | none => s

def execFeListRun (reads : List (List Byte)) (wait : Nat) (clkA clkB : Bool) (s : State) : Out := .next (s.feRun reads wait clkA clkB)

/-- The state code of a channel: 0 IDLE, 1 ACQ, 2 PULLIN, 3 TRACK. -/
def State.gnCh (s : State) (c : Nat) : Nat := s.get (GN_CHST_STATE c)

/-- CHTRACK counts the channels in TRACK. -/
def State.gnShow (s : State) : State := s.set GN_STATUS_CHTRACK ((List.range 256).filter fun c => s.gnCh c == 3).length

/-- A channel goes to IDLE. -/
def State.gnIdle (s : State) (c : Nat) : State :=
  (s.clearRegs (0x84000 + 0x10 * c) 0x10).onGn fun g =>
    { g with carr := SMap.set {} g.carr c {}, navPrev := SMap.set [] g.navPrev c [], disc := SMap.set 0 g.disc c 0 }

/-! ### Acquisition (R127, R128) -/

/-- The satellite of a channel: system and number. -/
def State.gnSat (s : State) (c : Nat) : Nat × Nat := (gnSystem (s.get (GN_CHST_SIGNAL c)), s.get (GN_CHST_SV c))

/-- The signal of a channel as it was last asked for. -/
def State.gnAsked (s : State) (c : Nat) : Option GnSig :=
  s.gn.demand.find? fun x => x.ant == s.get (GN_CHST_ANT c) && x.signal == s.get (GN_CHST_SIGNAL c) && x.sv == s.get (GN_CHST_SV c)

/-- The position uncertainty in m: 1 m in HOLD, the solution's estimate in FIX or SURVEY, 100 km with only a stored position. -/
def State.gnPosErr (s : State) : Nat :=
  match s.get GN_SOL_STATE with
  | 0 => 100000
  | 3 => 1
  | _ => s.gn.posErr

/-- N_code of R128 for E in ns, an uncertainty P_pos + P_orb in m, a chipping rate and a code length. -/
def gnCodeBins (e p rc l : Nat) : Nat := min (2 * ceilDiv (2 * rc * (e * 299792458 + p * 10 ^ 9)) (10 ^ 9 * 299792458) + 1) (2 * l)

/-- N_dop of R128 for a carrier in Hz, F in 10^-12, V in cm/s and T in ms. -/
def gnDopBins (f fe v t : Nat) : Nat := 2 * ceilDiv (2 * f * (fe * 299792458 + v * 10 ^ 10) * t) (10 ^ 12 * 299792458 * 1000) + 1

/-- The window of a channel's search (R128): code and Doppler bins; without an almanac, a position or E below 10 ms, the full code and
5 kHz on either side, of code 0, 3 and 5 signals only. -/
def State.gnWindow (s : State) (c coh : Nat) : Option (Nat × Nat) :=
  let code := s.get (GN_CHST_SIGNAL c)
  let sat := s.gnSat c
  let eph := s.ephFresh sat.1 sat.2
  let e := s.get SEL_TQR_TEB
  if (eph || s.gn.orbit.alms.contains sat) && (s.posKnown || s.get GN_SOL_STATE ≠ 0) && decide (e < 10000000) then
    some (gnCodeBins e (s.gnPosErr + if eph then 2 else 3000) (gnChips code) (gnLength code),
      gnDopBins (gnCarrier code) (s.get SEL_TQR_FEB) (if eph then 1 else 100) coh)
  else if code = 0 ∨ code = 3 ∨ code = 5 then some (2 * gnLength code, 2 * ceilDiv (2 * 5000 * coh) 1000 + 1)
  else none

/-- The search of a channel in ACQ, at 2^20 cells per second and 1 ms of integration. -/
def State.gnSearchOf (s : State) (c : Nat) : Option GnSearch :=
  let x := s.gnAsked c
  let coh := max 1 (min 20 (x.elim 1 GnSig.coh))
  let sums := max 1 (min 20 (x.elim 1 GnSig.sums))
  (s.gnWindow c coh).map fun w =>
    { ch := c, codes := w.1, dops := w.2, endAt := s.tb.ticks + ceilDiv (w.1 * w.2 * coh * sums * 10 ^ 9) (2 ^ 20) }

/-- The sixteen acquisition engines: a search goes on while its channel is in ACQ and cells are left, and free engines take the pending
searches, highest elevation first (R127). -/
def State.gnDeal (s : State) : State :=
  let kept := s.gn.search.filter fun x => s.gnCh x.ch == 1 && decide (s.tb.ticks < x.endAt)
  let free := (List.range 256).filter fun c => s.gnCh c == 1 && !kept.any (·.ch == c)
  let byElev := free.mergeSort fun a b => decide (s.get (GN_CHST_ELEV b) ≤ s.get (GN_CHST_ELEV a))
  s.onGn fun g => { g with search := (kept ++ byElev.filterMap s.gnSearchOf).take 16 }

/-- A path clock is lost (R121); one that has not been seen since the front-end list counts as lost 100 ms after the list (R123). -/
def State.gnClockLost (s : State) (path : Nat) : State :=
  if !s.gnOn || !s.is GN_FESTAT_DONE || !s.gnPath path then s
  else match s.reachTick (if s.gn.clkWait.contains path then 10 ^ 8 + s.gn.feDone else 0) with
  | none => s
  | some s =>
    let s := s.onGn fun g => { g with clkWait := g.clkWait.filter (· ≠ path), clkLost := SMap.set 0 g.clkLost path s.tb.ticks }
    let s := (s.set (gnLoss path) 1).event 0x0802 2 (path + 256)
    (s.forEach 256 fun s c => if s.gnCh c ≠ 0 ∧ s.get (GN_CHST_ANT c) = path then s.gnIdle c else s).gnShow.gnDeal

/-- The place of a signal in the order of R125. -/
def State.gnPrio (s : State) (x : GnSig) : Nat :=
  let onA := (List.range 256).any fun c => s.gnCh c == 3 && s.get (GN_CHST_ANT c) == 0 && s.get (GN_CHST_SV c) == x.sv &&
    gnSystem (s.get (GN_CHST_SIGNAL c)) == gnSystem x.signal
  let grp := if x.ant = 0 ∧ x.usable then 0 else if x.ant = 1 ∧ !gnL5 x.signal ∧ onA then 1 else 2
  grp * 256 + (255 - min x.elev 255)

/-- The signals that may be assigned now: enabled by GN_SIGEN, on a running path and an enabled stream that fits, above the mask. -/
def State.gnWanted (s : State) (sigs : List GnSig) : List GnSig :=
  let ok := sigs.eraseDups.filter fun x => s.gn.sigen.contains (x.ant, x.signal) && gnSvOk x.signal x.sv && s.gnPath x.ant && s.is (GN_STR_CFG_EN (gnStream x.ant x.signal)) && s.gnFits x.ant x.signal &&
    decide (s.get GN_SOLCFG_MASK < x.elev)
  ok.mergeSort (fun a b => decide (s.gnPrio a ≤ s.gnPrio b))

/-- The channel that has a signal. -/
def State.gnHas (s : State) (x : GnSig) : Option Nat :=
  (List.range 256).find? fun c => s.gnCh c ≠ 0 && s.get (GN_CHST_ANT c) == x.ant && s.get (GN_CHST_SIGNAL c) == x.signal &&
    s.get (GN_CHST_SV c) == x.sv

/-- A satellite is tracked on an L1-band signal. -/
def State.gnOnL1 (s : State) (sat : Nat × Nat) : Bool :=
  (List.range 256).any fun d => s.gnCh d == 3 && !gnL5 (s.get (GN_CHST_SIGNAL d)) && s.gnSat d == sat

/-- A channel takes a signal: an L5-band signal of a satellite whose L1-band signal is tracked is handed over without a
search (R127). -/
def State.gnTake (s : State) (c : Nat) (x : GnSig) : State :=
  let handed := gnL5 x.signal && s.gnOnL1 (gnSystem x.signal, x.sv)
  (((((s.gnIdle c).set (GN_CHST_STATE c) (if handed then 2 else 1)).set (GN_CHST_ANT c) x.ant).set (GN_CHST_SIGNAL c) x.signal).set
    (GN_CHST_SV c) x.sv).setSat (GN_CHST_ELEV c) x.elev

/-- Channels are assigned in the order of R125, at most 256 of them. -/
def State.gnAssign (s : State) (sigs : List GnSig) : State :=
  if !s.gnOn || !s.is GN_FESTAT_DONE then s
  else
    let s := s.onGn fun g => { g with demand := sigs
                                      orbit := { g.orbit with view := (sigs.map fun x => (gnSystem x.signal, x.sv)).eraseDups } }
    let want := s.gnWanted sigs
    let top := want.take 256
    let s := s.forEach 256 fun s c => if s.gnCh c ≠ 0 ∧ !top.any (fun x => s.gnHas x == some c) then s.gnIdle c else s
    let s := top.foldl (fun s x => match s.gnHas x with
      | some c => s.setSat (GN_CHST_ELEV c) x.elev
      | none => match (List.range 256).find? fun c => s.gnCh c == 0 with
        | some c => s.gnTake c x
        | none => s) s
    let left := want.length - 256
    let more := decide (0 < left)
    let s := if s.is GN_STATUS_CHOVER = more then s
      else (s.setb GN_STATUS_CHOVER more).event 0x080C 1 ((if more then 256 else 0) + min left 255)
    s.gnShow.gnDeal

/-- A path clock is restored, 100 ms after its loss at the earliest (R121, R125); one that was not lost has been seen since the list. -/
def State.gnClockRestored (s : State) (path : Nat) : State :=
  if !s.gnOn then s
  else if !s.is (gnLoss path) then s.onGn fun g => { g with clkWait := g.clkWait.filter (· ≠ path) }
  else match s.reachTick (10 ^ 8 + SMap.get 0 s.gn.clkLost path) with
  | some s => ((s.set (gnLoss path) 0).event 0x0802 2 path).gnAssign s.gn.demand
  | none => s

def execGnPathClockLoss (path : Fin 2) (s : State) : Out := .next (s.gnClockLost path)
def execGnPathClockRestore (path : Fin 2) (s : State) : Out := .next (s.gnClockRestored path)
def execChannelAssign (sigs : List GnSig) (s : State) : Out := .next (s.gnAssign sigs)

/-- A sample's value from its code (R120): 4 bits in two's complement, or sign and magnitude in the low two bits. -/
def gnSample (four : Bool) (code : Nat) : Int :=
  if four then toSigned 4 (code % 16) else (if code / 2 % 2 = 1 then -1 else 1) * (if code % 2 = 1 then 3 else 1)

/-- A level and its target with one divisor (R124): samples with the magnitude bit against 33 %, or the mean square against 9 LSB^2. -/
def gnLevel (four : Bool) (samples : List Nat) : Nat × Nat :=
  if four then ((samples.map fun c => (gnSample true c).natAbs ^ 2).sum, 9 * samples.length)
  else (100 * (samples.filter fun c => (gnSample false c).natAbs == 3).length, 33 * samples.length)

/-- The duty of a stream is accounted up to now for the mean over the second (R142). -/
def State.dutyCount (s : State) (m : Nat) : State :=
  let d := SMap.get 0 s.gn.duty m
  let n := s.tb.ticks - SMap.get 0 s.gn.dutyAt m
  s.onGn fun g => { g with dutySum := SMap.set 0 g.dutySum m (SMap.get 0 g.dutySum m + d * n), dutyAt := SMap.set 0 g.dutyAt m s.tb.ticks }

/-- Once per millisecond the AGC loop steps a stream's duty toward its target (R124), from the I and Q sample codes of the
millisecond. How far it steps is not stated, nor the duty it starts from (DESIGN CHOICE notes/assumptions/22.md). -/
def State.agcStep (s : State) (m : Nat) (samples : List Nat) : State :=
  if !s.gnOn || !s.is (GN_STR_CFG_EN m) || !s.gnPath (m / 2) then s
  else match s.reachTick (1000000 + SMap.get 0 s.gn.agcAt m) with
  | none => s
  | some s =>
    let s := (s.dutyCount m).onGn fun g => { g with agcAt := SMap.set 0 g.agcAt m s.tb.ticks }
    let l := gnLevel (s.is (GN_STR_CFG_BITS m)) samples
    let d := SMap.get 0 s.gn.duty m
    let put (v : Nat) : State := (s.drawn.onGn fun g => { g with duty := SMap.set 0 g.duty m v }).emit (.agc m v)
    if l.1 < l.2 ∧ d < 255 then put (d + 1 + s.draw % (255 - d))
    else if l.2 < l.1 ∧ 0 < d then put (s.draw % d)
    else s

def execAgcAdjust (m : Fin 4) (samples : List Nat) (s : State) : Out := .next (s.agcStep m samples)

/-- In burst tracking the channels run only inside the windows (R149). -/
def State.gnRuns (s : State) : Bool := s.gnOn && (!s.is GN_STATUS_BURST || s.gn.window)

/-- A satellite whose ephemeris is older than 2 h is tracked continuously on its lowest channel (R149). -/
def State.gnHeld (s : State) (c : Nat) : Bool :=
  let sat := s.gnSat c
  !s.ephFresh sat.1 sat.2 && ((List.range 256).find? fun d => s.gnCh d ≠ 0 && s.gnSat d == sat) == some c

/-- The channel runs now. -/
def State.gnChRuns (s : State) (c : Nat) : Bool := s.gnRuns || (s.gnOn && s.gnHeld c)

/-- A detection of the engine that searches for the channel hands it its cell (R127). -/
def State.gnDetect (s : State) (c : Nat) : State :=
  if s.gnRuns && s.gnCh c == 1 && s.gnDeal.gn.search.any (·.ch == c) then (s.gnDeal.set (GN_CHST_STATE c) 2).gnDeal else s

/-- The channel has pulled in and tracks; L5-band signals of its satellite that wait are handed over (R127). -/
def State.gnPulledIn (s : State) (c : Nat) : State :=
  if s.gnRuns ∧ s.gnCh c = 2 then
    let s := (s.set (GN_CHST_STATE c) 3).set (GN_CHST_LOCKT c) 0
    let s := if gnL5 (s.get (GN_CHST_SIGNAL c)) then s
      else s.forEach 256 fun s d => if s.gnCh d = 1 ∧ gnL5 (s.get (GN_CHST_SIGNAL d)) ∧ s.gnSat d = s.gnSat c then s.set (GN_CHST_STATE d) 2 else s
    s.gnShow.gnDeal
  else s

def execAcquisitionDetect (c : Fin 256) (s : State) : Out := .next (s.gnDetect c)
def execPullinComplete (c : Fin 256) (s : State) : Out := .next (s.gnPulledIn c)

/-! ### Navigation ring (R131 to R133) -/

/-- The message kind of a signal code (R132). -/
def gnKind (code : Nat) : Nat := ([0, 2, 1, 3, 4, 5, 6, 7, 0, 2, 1] : List Nat).getD code 8

/-- Eight bits, the first the most significant. -/
def byteOfBits (bs : List Bool) : Byte := BitVec.ofNat 8 ((List.range 8).foldl (fun n i => 2 * n + if bs.getD i false then 1 else 0) 0)

/-- A channel is assigned to satellite `sv` of system `sys`, QZSS counted as GPS. -/
def State.gnOnSat (s : State) (sys sv : Nat) : Bool :=
  (List.range 256).any fun c => s.gnCh c ≠ 0 && s.get (GN_CHST_SV c) == sv &&
    (fun g => (if g = 3 then 0 else g) == sys) (gnSystem (s.get (GN_CHST_SIGNAL c)))

/-- TAI minus a system's time in seconds (R151). -/
def gnTai (sys : Nat) : Nat := if sys = 2 then 33 else 19

/-- UTC parameters from a record that passed its check go to the Time Base, where a set confirmed by two satellites
replaces the values in force (R46, R133). The latest record of a satellite counts while a channel is assigned to the satellite
(DESIGN CHOICE notes/assumptions/49.md). -/
def State.gnUtc (s : State) (code sv check : Nat) (r : NavRec) : State :=
  match r.utc with
  | some (now, next, t) =>
    if (check = 0 ∨ check = 2) ∧ r.kind ≠ 2 ∧ r.kind ≠ 4 ∧ r.kind ≠ 8 then
      let sys := gnTimeSystem code
      let rec_ : UtcRecord := { sys := sys, sv := sv, offset := now + gnTai sys, leap := if now < next then 1 else if next < now then 2 else 0
                                leapTime := t + gnTai sys }
      let s := s.onTb fun b => { b with utcRecords := rec_ :: b.utcRecords.filter fun q => !(q.sys == sys && q.sv == sv) && s.gnOnSat q.sys q.sv }
      match confirmedUtc s.tb.utcRecords (s.get GN_SOLCFG_TIMESYS) with
      | some q => (s.setUtc q.offset q.leap q.leapTime 1).onGn fun g => { g with orbit := { g.orbit with utc := some (q.offset, q.leap, q.leapTime) } }
      | none => s
    else s
  | none => s

/-- Bits as a number, the first the most significant. -/
def bitsNat (bs : List Bool) : Nat := bs.foldl (fun n b => 2 * n + if b then 1 else 0) 0

/-- The remainder of a polynomial over bits by one of degree `w`, whose lower bits are `poly`. -/
def bitsRem (w poly : Nat) (bs : List Bool) : Nat :=
  bs.foldl (fun c b => (c * 2 % 2 ^ w + if b then 1 else 0) ^^^ (if c.testBit (w - 1) then poly else 0)) 0

/-- CRC-24Q over data and check bits leaves no remainder (PRESUMED notes/assumptions/54.md). -/
def crc24qOk (bs : List Bool) : Bool := bitsRem 24 0x864CFB bs == 0

/-- The data bits, counted from 1, in each parity bit D25 to D30 of an LNAV word, and the bit of the previous word, 29 or 30, that enters it
(PRESUMED notes/assumptions/54.md). -/
def lnavParity : List (List Nat × Nat) :=
  [([1, 2, 3, 5, 6, 10, 11, 12, 13, 14, 17, 18, 20, 23], 29), ([2, 3, 4, 6, 7, 11, 12, 13, 14, 15, 18, 19, 21, 24], 30),
   ([1, 3, 4, 5, 7, 8, 12, 13, 14, 15, 16, 19, 20, 22], 29), ([2, 4, 5, 6, 8, 9, 13, 14, 15, 16, 17, 20, 21, 23], 30),
   ([1, 3, 5, 6, 7, 9, 10, 14, 15, 16, 17, 18, 21, 22, 24], 30), ([3, 5, 6, 8, 9, 10, 11, 13, 15, 19, 22, 23, 24], 29)]

/-- The parity of an LNAV word, given D29 and D30 of the word before; the data bits are sent complemented where that D30 is 1. -/
def lnavOk (d29 d30 : Bool) (bs : List Bool) : Bool :=
  let d (i : Nat) : Bool := bs.getD (i - 1) false ^^ d30
  (List.range 6).all fun k =>
    let p := lnavParity.getD k ([], 29)
    bs.getD (24 + k) false == p.1.foldl (fun x i => x ^^ d i) (if p.2 = 29 then d29 else d30)

/-- BCH(15,11) of a BeiDou word, 22 data bits before the two check fields; the first word of a subframe has one block, after 15 uncoded
bits (PRESUMED notes/assumptions/54.md). -/
def bchOk (first : Bool) (bs : List Bool) : Bool :=
  let block (i j : Nat) : Bool := bitsRem 4 3 ((bs.drop i).take 11 ++ (bs.drop j).take 4) == 0
  if first then block 15 26 else block 0 22 && block 11 26

/-- The bits a record of a kind has (R132). -/
def navLength (kind n : Nat) : Bool :=
  match kind with
  | 0 | 5 => n == 30
  | 1 => n == 300
  | 2 => n == 600 || n == 274
  | 3 => n == 120
  | 4 => n == 244
  | 6 => n == 600 || n == 264
  | 7 => n == 288
  | _ => decide (1 ≤ n ∧ n ≤ 768)

/-- CHECK of a record (R132), given what the channel holds of the word or page part before: an LNAV word with no known predecessor, an even I/NAV
part, and an odd one without its even part, have none. -/
def navCheck (r : NavRec) (prev : List Bool) : Nat :=
  let of (ok : Bool) : Nat := if ok then 0 else 1
  match r.kind with
  | 0 => if prev.length = 2 then of (lnavOk (prev.getD 0 false) (prev.getD 1 false) r.bits) else 3
  | 3 => if !r.bits.getD 0 false || prev.isEmpty then 3 else of (crc24qOk (prev.take 114 ++ r.bits.take 106))
  | 4 => of (crc24qOk (r.bits.take 238))
  | 5 => if bchOk r.first r.bits then (if r.fixed then 2 else 0) else 1
  | 8 => 3
  | _ => of (crc24qOk r.bits)

/-- What the check of the next record of a channel takes from this one. -/
def navCarry (r : NavRec) : List Bool :=
  match r.kind with
  | 0 => r.bits.drop 28
  | 3 => if r.bits.getD 0 false then [] else r.bits
  | _ => []

/-- Orbit data from a record that passed its check is held (R129). -/
def State.gnOrbit (s : State) (code sv check : Nat) (r : NavRec) : State :=
  let sys := gnSystem code
  if (check = 0 ∨ check = 2) ∧ r.kind ≠ 8 then
    s.onGn fun g => { g with orbit := { g.orbit with
      ephs := if r.eph then (sys, sv, s.tb.ticks) :: g.orbit.ephs.filter (fun e => !(e.1 == sys && e.2.1 == sv)) else g.orbit.ephs
      alms := (r.alms.map (fun v => (sys, v)) ++ g.orbit.alms).eraseDups } }
  else s

/-- A channel that runs writes a navigation record (R131, R132, R149); `read` is the last record the firmware has read. -/
def State.navWrite (s : State) (c : Nat) (r : NavRec) (read : Nat) : State :=
  let code := s.get (GN_CHST_SIGNAL c)
  let sv := s.get (GN_CHST_SV c)
  let n := r.bits.length
  if !s.gnChRuns c || s.gnCh c ≠ 3 || (r.kind ≠ gnKind code && r.kind ≠ 8) || !navLength r.kind n then s
  else
    let check := navCheck r (SMap.get [] s.gn.navPrev c)
    let s := s.onGn fun g => { g with navPrev := SMap.set [] g.navPrev c (navCarry r) }
    let k := s.get GN_NAVSEQ_SEQ + 1
    let w := k % 1024
    let s := s.onGn fun g => { g with navRead := min (k - 1) (max g.navRead read) }
    let s := if s.gn.navRead + 1024 < k then s.noteSec 0x080B 0 else s
    let s := s.clearRegs (0xD0000 + 0x80 * w) 0x80
    let s := (s.set (GN_NAV_SEQ w) k).set (GN_NAV_CHECK w) check
    let s := (((s.set (GN_NAV_KIND w) r.kind).set (GN_NAV_ANT w) (s.get (GN_CHST_ANT c))).set (GN_NAV_SIGNAL w) code).set (GN_NAV_SV w) sv
    let s := ((s.set (GN_NAV_CH w) c).setTs (GN_NAV_TIME w) r.time).set (GN_NAV_NBITS w) n
    let bytes := (List.range 96).map fun i => byteOfBits ((r.bits.drop (8 * i)).take 8)
    let s := s.forEach 24 fun s i => s.set (GN_NAV_DATA w i) (leNat (slice bytes (4 * i) 4))
    (((s.set (GN_NAV_SEQB w) k).set GN_NAVSEQ_SEQ k).gnOrbit code sv check r).gnUtc code sv check r

def execNavRecordWrite (c : Fin 256) (r : NavRec) (read : Nat) (s : State) : Out := .next (s.navWrite c r read)

/-! ### Measurement latch (R134 to R140) -/

/-- Latches per second (GN_LATCH.RATE). -/
def State.gnLatches (s : State) : Nat := ([1, 2, 4, 5, 8, 10, 20, 25, 40, 50] : List Nat).getD (s.get GN_LATCH_RATE) 50

/-- The multipath metric in 2^-15 (R126), from the magnitudes of the seven correlators, and whether it lies beyond 0.1. -/
def gnMp (mags : List Nat) : Int × Bool :=
  let n : Int := (mags.getD 0 0 : Int) - mags.getD 6 0
  let p := mags.getD 3 0
  if p = 0 then (fun x => (x, decide (32768 < 10 * x.natAbs))) (Config.zeroPrompt (mags.getD 0 0) (mags.getD 6 0))
  else (divRound (n * 32768) p, decide (p < 10 * n.natAbs))

/-- The code discriminator (R126): early minus late, or double-delta, on the magnitudes VE, E, L and VL. -/
def State.gnDisc (s : State) (mags : List Nat) : Int :=
  let m (i : Nat) : Int := (mags.getD i 0 : Nat)
  if s.is GN_CTL_DISC then 2 * (m 2 - m 4) - (m 1 - m 5) else m 2 - m 4

/-- The set on its way is published: its records, then its header (R136, R137). -/
def State.gnPublish (s : State) : State :=
  match s.gn.pending with
  | none => s
  | some x =>
    let k := s.gn.setNum + 1
    let w := k % 32
    let s := s.onGn fun g => { g with pending := none, setNum := k }
    let s := s.clearRegs (0x90000 + 0x2000 * w) 0x2000
    let s := x.recs.foldl (fun s r =>
      let c := r.ch
      let o := r.obs
      let s := ((((s.set (GN_MEAS_VALID w c) 1).setb (GN_MEAS_CODELOCK w c) o.codeLock).setb (GN_MEAS_CARRLOCK w c) o.carrLock).setb
        (GN_MEAS_BITSYNC w c) o.bitSync).setb (GN_MEAS_TOWKNOWN w c) o.towKnown
      let s := ((s.setb (GN_MEAS_HALFCYC w c) o.halfCyc).setb (GN_MEAS_SLIP w c) o.slip).setb (GN_MEAS_MPATH w c)
        (gnMp o.mags).2
      let s := (((s.set (GN_MEAS_ANT w c) r.ant).set (GN_MEAS_SIGNAL w c) r.signal).set (GN_MEAS_SV w c) r.sv).set (GN_MEAS_CH w c) c
      let s := (((s.set (GN_MEAS_TXMS w c) o.txms).setSat (GN_MEAS_CN0 w c) o.cn0).set (GN_MEAS_CHIP w c) o.chip).set
        (GN_MEAS_CODEFRAC w c) o.codeFrac
      let s := ((s.set (GN_MEAS_CARRCYC w c) (ofSigned 32 (r.carr / 65536))).set (GN_MEAS_CARRFRAC w c) (ofSigned 16 r.carr)).setSat
        (GN_MEAS_LOCKT w c) r.lockT
      (s.seti (GN_MEAS_DOPPLER w c) o.doppler).seti (GN_MEAS_MP w c) (gnMp o.mags).1) s
    let s := ((s.setTs (GN_SET_TIME w) x.time).setb (GN_SET_STEP w) x.step).setb (GN_SET_BURST w) x.burst
    let s := ((s.set (GN_SET_NTRACK w) x.recs.length).set (GN_SET_INDEX w) x.index).set (GN_SET_SEQB w) k
    (s.set (GN_SET_SEQA w) k).set GN_LATCH_LASTSET k

/-- What a channel in TRACK captures. The carrier count changes by the integral of the Doppler frequency, and starts from 0 at carrier lock and at
each SLIP; the first set of a burst's window restarts it (R138, R149). Without carrier lock it stays 0 (DESIGN CHOICE
notes/assumptions/53.md). -/
def State.gnCapture (s : State) (obs : List (Nat × GnObs)) (c : Nat) : GnCapture :=
  let code := s.get (GN_CHST_SIGNAL c)
  let o := SMap.get {} obs c
  let was := SMap.get {} s.gn.carr c
  let first := s.is GN_STATUS_BURST && s.gn.firstSet
  let slip := o.slip || first || (o.carrLock && !was.locked)
  let carr := if !o.carrLock || first then 0 else if slip then o.turns else was.phase + o.turns
  let since := if was.locked && o.carrLock then was.since else s.tb.ticks
  { ch := c, signal := code, sv := s.get (GN_CHST_SV c), ant := s.get (GN_CHST_ANT c), carr := carr
    lockT := (s.tb.ticks - since) / 10 ^ 9, obs := { o with halfCyc := o.halfCyc || !gnDataOnly code, slip := slip } }

/-- The loops of the channels after a latch. -/
def State.gnLoops (s : State) (recs : List GnCapture) : State :=
  s.onGn fun g =>
    { g with disc := recs.foldl (fun m x => SMap.set 0 m x.ch (s.gnDisc x.obs.mags)) g.disc
             carr := recs.foldl (fun m x =>
               let was := SMap.get {} g.carr x.ch
               SMap.set {} m x.ch { locked := x.obs.carrLock, since := if was.locked && x.obs.carrLock then was.since else s.tb.ticks
                                    phase := x.carr }) g.carr }

/-- The correlator snapshot of channel GN_CORRSEL.CH (R140). -/
def State.gnCorr (s : State) (sums : List (Nat × List (Int × Int))) : State :=
  if s.is GN_CORRSEL_EN then
    let corr := SMap.get [] sums (s.get GN_CORRSEL_CH)
    let q := s.get GN_CORR_SEQA + 1
    let s := (s.set GN_CORR_SEQB q).forEach 7 fun s i =>
      (s.seti (GN_CORR_I i) (corr.getD i (0, 0)).1).seti (GN_CORR_Q i) (corr.getD i (0, 0)).2
    s.set GN_CORR_SEQA q
  else s

/-- Latch instant `j` of the second (R134): the state advances to it, and every channel in TRACK captures what it measures
there. -/
def State.gnLatch (s : State) (j : Nat) (obs : List (Nat × GnObs)) (corr : List (Nat × List (Int × Int))) : State :=
  let r := s.gnLatches
  if !s.gnOn || decide (r ≤ j) then s
  else match s.reach (sec1 / r * j + s.gn.lastB) with
  | none => s
  | some s =>
    if !s.gnRuns then s
    else
      let s := s.gnPublish
      let l := (List.range 256).filter fun c => s.gnCh c == 3
      let recs := l.map (s.gnCapture obs)
      let set : GnSet := { time := s.gn.lastB + j * (sec1 / r), index := j, step := j == 0 && s.gn.stepB, burst := s.is GN_STATUS_BURST
                           recs := recs }
      let s := recs.foldl (fun s x =>
        let s := (s.setSat (GN_CHST_CN0 x.ch) x.obs.cn0).seti (GN_CHST_DOPPLER x.ch) x.obs.doppler
        if j = 0 then s.bump (GN_CHST_LOCKT x.ch) 1 else s) s
      ((s.onGn fun g => { g with pending := some set, firstSet := false, lastSec := if j = 0 then recs else g.lastSec }).gnLoops recs).gnCorr corr

/-- A set has drained, one record per cycle of the path clock (R136). -/
def State.gnDrained (s : State) : State :=
  match s.gn.pending with
  | none => s
  | some x => (s.reach (x.time + ceilDiv (256 * us1) (s.gnRate (if s.gnPath 0 then 0 else 1)))).elim s State.gnPublish

def execMeasurementLatch (j : Fin 50) (obs : List (Nat × GnObs)) (corr : List (Nat × List (Int × Int))) (s : State) : Out :=
  .next (s.gnLatch j obs corr)
def execMeasurementSetPublish (s : State) : Out := .next s.gnDrained

/-! ### Interference (R141 to R143) -/

/-- Twice the median of 256 bins: the sum of the two middle ones. -/
def median2Nat (l : List Nat) : Nat :=
  let l := l.mergeSort (fun a b => decide (a ≤ b))
  l.getD ((l.length - 1) / 2) 0 + l.getD (l.length / 2) 0

/-- A power exceeds the median, given doubled, by at least `e` dB. -/
def exceeds (p med2 e : Nat) : Bool := decide (10 ^ e * med2 ^ 10 ≤ (2 * p) ^ 10)

/-- The excess in whole dB; the rounding is not stated (DESIGN CHOICE notes/assumptions/6.md). -/
def excessDb (p med2 : Nat) : Nat :=
  let e := ((List.range 128).filter fun e => exceeds p med2 e).length - 1
  if (2 * p) ^ 10 = 10 ^ e * med2 ^ 10 ∨ !Config.roundUp p med2 then e else min 127 (e + 1)

/-- The centre of bin `i` in 8 Hz from the stream's centre, with bin 128 at the centre (DESIGN CHOICE notes/assumptions/22.md), and the
bin that holds a centre. -/
def binCentre (rate i : Nat) : Int := nearestDiv (((i : Int) - 128) * (rate * 1000000)) 2048
def binOf (rate : Nat) (f : Int) : Nat := (max 0 (min 255 (128 + nearestDiv (f * 2048) (rate * 1000000)))).toNat

/-- Notch `k` of stream `m` is engaged at a bin or released, with event 0x080D. -/
def State.notchOn (s : State) (m k : Nat) (f : Int) : State :=
  ((((s.set (GN_NOTCH_EN m k) 1).seti (GN_NOTCH_FREQ m k) f).setBit (GN_STR_STAT_NOTCH m) k true).onGn fun g =>
    { g with below := SMap.set 0 g.below (4 * m + k) 0 }).event 0x080D 0 (m + 4 * k + 256)
def State.notchOff (s : State) (m k : Nat) : State :=
  ((((s.set (GN_NOTCH_EN m k) 0).set (GN_NOTCH_EXCESS m k) 0).set (GN_NOTCH_FREQ m k) 0).setBit (GN_STR_STAT_NOTCH m) k false).event
    0x080D 0 (m + 4 * k)

/-- The notches of a stream follow their interferers, and are released or engaged (R141). -/
def State.notches (s : State) (m : Nat) (b : GnBand) : State :=
  let rate := s.gnRate (m / 2)
  let med := median2Nat b.bins
  let thr := s.get GN_JAMCFG_NOTCHTHR
  let at_ (i : Nat) := b.bins.getD i 0
  let s := s.forEach 4 fun s k =>
    if !s.is (GN_NOTCH_EN m k) then s
    else
      let f := b.centres.getD k 0
      let p := at_ (binOf rate f)
      let n := if exceeds p med (thr - 3) then 0 else SMap.get 0 s.gn.below (4 * m + k) + 1
      let s := s.onGn fun g => { g with below := SMap.set 0 g.below (4 * m + k) n }
      if n = 5 then s.notchOff m k else (s.seti (GN_NOTCH_FREQ m k) f).setSat (GN_NOTCH_EXCESS m k) (excessDb p med)
  let taken := (List.range 4).filterMap fun k => if s.is (GN_NOTCH_EN m k) then some (binOf rate (s.geti (GN_NOTCH_FREQ m k))) else none
  let peaks := (List.range 256).filter fun i => exceeds (at_ i) med thr && !taken.contains i
  let peaks := peaks.mergeSort (fun i j => decide (at_ j ≤ at_ i))
  peaks.foldl (fun s i => match (List.range 4).find? fun k => !s.is (GN_NOTCH_EN m k) with
    | some k => (s.notchOn m k (binCentre rate i)).setSat (GN_NOTCH_EXCESS m k) (excessDb (at_ i) med)
    | none => s) s

/-- The spectral flatness, geometric over arithmetic mean of the bins, against `p / q` (R142). -/
def flatCmp (bins : List Nat) (p q : Nat) : Ordering :=
  let l := (List.range 256).map fun i => bins.getD i 0
  if l.sum = 0 then compare (min (2 ^ 32) (Config.flatness bins) * q) (p * 2 ^ 32)
  else compare (l.foldl (· * ·) 1 * (256 * q) ^ 256) ((l.sum * p) ^ 256)

/-- The flatness in 1/256, at most 255. -/
def flat256 (bins : List Nat) : Nat :=
  let n := ((List.range 255).filter fun k => flatCmp bins (k + 1) 256 ≠ .lt).length
  if flatCmp bins n 256 = .eq ∨ !Config.roundUp n 256 then n else min 255 (n + 1)

/-- The mean AGC duty over the second: a sum over ticks, and the ticks. -/
def State.dutyMean (s : State) (m : Nat) : Nat × Nat :=
  let t := s.tb.ticks - SMap.get 0 s.gn.dutyFrom m
  if t = 0 then (SMap.get 0 s.gn.duty m, 1) else (SMap.get 0 s.gn.dutySum m, t)

/-- J of a stream (R142): the number of j up to 255 that lie at most 1/2 above 8 dG + 255 (1 - SF). -/
def State.jamOf (s : State) (m : Nat) (b : GnBand) : Nat :=
  let d := s.dutyMean m
  let dg := (s.get (GN_STR_CFG_AGCQ m) * d.2 - d.1) * s.get (GN_STR_CFG_GSLOPE m)
  ((List.range 255).filter fun j => match flatCmp b.bins (2 * dg + (509 - 2 * j) * (8 * d.2)) (510 * (8 * d.2)) with
    | .lt => true
    | .eq => Config.roundUp dg (8 * d.2)
    | .gt => false).length

/-- A stream's second: notches, J and its warning (R141 to R143). -/
def State.streamSecond (s : State) (m : Nat) (b : GnBand) : State :=
  let s := (s.notches m b).dutyCount m
  let d := s.dutyMean m
  let j := s.jamOf m b
  let s := (((s.set (GN_STR_STAT_JAM m) j).setSat (GN_STR_STAT_AGC m) (divRound d.1 d.2).toNat).set (GN_STR_STAT_SF m) (flat256 b.bins)).onGn
    fun g => { g with dutySum := SMap.set 0 g.dutySum m 0, dutyFrom := SMap.set 0 g.dutyFrom m s.tb.ticks }
  let high := decide (s.get GN_JAMCFG_WARN < j)
  let was := SMap.get false s.gn.above m
  let n := if s.get GN_JAMCFG_FLAG ≤ j then SMap.get 0 s.gn.jamSec m + 1 else 0
  let s := s.onGn fun g => { g with above := SMap.set false g.above m high, jamSec := SMap.set 0 g.jamSec m n }
  if high && !was then s.event 0x0803 1 (m + j * 2 ^ 8) else s

/-- The streams that are judged: enabled, on a running path. -/
def State.gnStreamOn (s : State) (m : Nat) : Bool := s.is (GN_STR_CFG_EN m) && s.gnPath (m / 2)

/-- The jamming flag follows the streams' counts (R143). -/
def State.jamFlag (s : State) : State :=
  let en := (List.range 4).filter s.gnStreamOn
  let high := en.foldl (fun n m => if s.get GN_JAMCFG_FLAG ≤ s.get (GN_STR_STAT_JAM m) then n + 2 ^ m else n) 0
  let quiet := en.all fun m => decide (s.get (GN_STR_STAT_JAM m) < s.get GN_JAMCFG_WARN)
  let s := s.onGn fun g => { g with quietSec := if quiet then g.quietSec + 1 else 0 }
  if !s.is GN_STATUS_JAMFLAG && en.any (fun m => decide (3 ≤ SMap.get 0 s.gn.jamSec m)) then
    (s.set GN_STATUS_JAMFLAG 1).event 0x0804 2 (256 + high)
  else if s.is GN_STATUS_JAMFLAG && decide (10 ≤ s.gn.quietSec) then (s.set GN_STATUS_JAMFLAG 0).event 0x0804 2 high
  else s

/-- A second of the interference monitor, once in each (R141 to R143). -/
def State.interference (s : State) (bands : List GnBand) : State :=
  if !s.gnOn || s.gn.jamDone then s
  else ((s.onGn fun g => { g with jamDone := true }).forEach 4 fun s m =>
    if s.gnStreamOn m then s.streamSecond m (bands.getD m ⟨[], []⟩) else s).jamFlag

def execInterferenceSecond (bands : List GnBand) (s : State) : Out := .next (s.interference bands)

/-! ### Spoof detection (R144 to R147) -/

/-- The phase differences of the satellites tracked on one L1-band signal on both antennas, in 2^-16 cycle (R144). -/
def State.dualPhases (s : State) : List Nat :=
  let good (x : GnCapture) := !gnL5 x.signal && x.obs.carrLock && x.obs.halfCyc
  let a := s.gn.lastSec.filter fun x => x.ant == 0 && good x
  let b := s.gn.lastSec.filter fun x => x.ant == 1 && good x
  let pairs := a.filterMap fun x => (b.find? fun y => y.signal == x.signal && y.sv == x.sv).map fun y =>
    ((gnSystem x.signal, x.sv), ofSigned 16 (x.carr - y.carr))
  (pairs.foldl (fun (l : List ((Nat × Nat) × Nat)) p => if l.any (·.1 == p.1) then l else l ++ [p]) []).map (·.2)

/-- The cosine of `d` in 2^-16 turn, up to a quarter turn, in 2^-64: the series of the cosine, exact at both ends, else within 2^-58
(DESIGN CHOICE notes/assumptions/22.md). -/
def cosQuarter (d : Nat) : Int :=
  if d = 0 then 2 ^ 64
  else if 16384 ≤ d then 0
  else
    let x : Nat := 57952155664616982739 * d / 32768
    let x2 : Nat := x * x / 2 ^ 64
    ((List.range 14).foldl (fun (p : Int × Nat) n =>
      let t : Nat := p.2 * x2 / 2 ^ 64 / ((2 * n + 1) * (2 * n + 2))
      (if n % 2 = 0 then p.1 - t else p.1 + t, t)) ((2 ^ 64 : Int), 2 ^ 64)).1

/-- The cosine of `d` in 2^-16 turn, in 2^-64. -/
def cosTurn (d : Nat) : Int :=
  let r := d % 65536
  if r ≤ 16384 then cosQuarter r else if r ≤ 32768 then -cosQuarter (32768 - r) else if r ≤ 49152 then -cosQuarter (r - 32768)
  else cosQuarter (65536 - r)

/-- N^2 R^2 of the phases (R144), in 2^-64: the square of a sum of unit vectors is the sum of the cosines of their differences. -/
def vectorSquare (ph : List Nat) : Int := (ph.map fun a => (ph.map fun b => cosTurn (a + (65536 - b % 65536))).sum).sum

/-- R reaches `t / 256`, and R in 1/256, at most 255. -/
def phaseAtLeast (ph : List Nat) (t : Nat) : Bool := decide (((t * ph.length) ^ 2 : Nat) * 2 ^ 64 ≤ vectorSquare ph * 65536)
def phase256 (ph : List Nat) : Nat :=
  let n := ((List.range 255).filter fun k => phaseAtLeast ph (k + 1)).length
  if ((n * ph.length) ^ 2 : Nat) * 2 ^ 64 = vectorSquare ph * 65536 ∨ !Config.roundUp n 256 then n else min 255 (n + 1)

/-- C/N0 of the antenna A L1-band channels of satellites above 20 degrees (R145). -/
def State.gnHighCn0 (s : State) : List Nat :=
  (s.gn.lastSec.filter fun x => x.ant == 0 && !gnL5 x.signal && decide (20 < s.get (GN_CHST_ELEV x.ch))).map (·.obs.cn0)

/-- n times the sum of squares less the square of the sum: n^2 times the variance. -/
def spread (l : List Nat) : Nat := l.length * (l.map fun c => c * c).sum - l.sum * l.sum

/-- The clock jump in 10^-6 of 2^-16 ns, when detector C is evaluated (R146). -/
def State.gnJump (s : State) : Option Nat :=
  let others := (List.range 20).any fun k => k ≠ 16 && s.good k
  match s.gn.x1, s.gn.x0 with
  | some (x, t), some (y, u) =>
    if (s.is SYS_MODE_MODELVALID || others) && (s.src 16).hasF && decide (s.tb.ticks < t + 10 ^ 9) && decide (t < 1500000000 + u) then
      some ((x - y) * 10 ^ 6 + (s.src 16).f15 * 65536).natAbs
    else none
  | _, _ => none

/-- The three detectors and the flag, once per second (R144 to R147). Event 0x0807 is logged when B alone begins to fire, not again while it
goes on (DESIGN CHOICE notes/assumptions/53.md). -/
def State.spoofEval (s : State) : State :=
  if !s.gnOn || s.gn.spoofDone then s
  else
    let s := s.onGn fun g => { g with spoofDone := true }
    let ph := s.dualPhases
    let n := ph.length
    let inc := !s.gnPath 1 || decide (n < 4)
    let aSec := if !inc && phaseAtLeast ph (s.get GN_SPOOFCFG_RTHR) then s.gn.aSec + 1 else 0
    let l := s.gnHighCn0
    let low := decide (6 ≤ l.length) && decide (spread l < (l.length * (10 * s.get GN_SPOOFCFG_CN0SD)) ^ 2)
    let bSec := if low then s.gn.bSec + 1 else 0
    let a := decide (10 ≤ aSec)
    let b := decide (60 ≤ bSec)
    let jmp := s.gnJump
    let cf := jmp.any fun j => decide (s.get GN_SPOOFCFG_CLKJUMP * (65536 * 10 ^ 6) < j)
    let r := phase256 ph
    let dev := if l.length < 6 then s.get GN_SPOOF_CN0DEV else min 255 (sqrtRound (spread l) ((10 * l.length) ^ 2))
    let calm := if a || b || cf then 0 else s.gn.calm + 1
    let alone := b && !inc && !a
    let was := s.gn.bAlone
    let s := s.onGn fun g => { g with aSec := aSec, bSec := bSec, calm := calm, bAlone := alone }
    let s := (((s.setb GN_SPOOF_A a).setb GN_SPOOF_B b).setb GN_SPOOF_C cf).setb GN_SPOOF_AINC inc
    let s := ((if n = 0 then s else s.set GN_SPOOF_R r).set GN_SPOOF_CN0DEV dev).setSat GN_SPOOF_NDUAL n
    let s := if alone && !was then s.event 0x0807 1 dev else s
    if !s.is GN_SPOOF_FLAG && (a || cf || (b && inc)) then
      let arg := (if a then 1 else 0) + (if b then 2 else 0) + (if cf then 4 else 0) + s.get GN_SPOOF_R * 2 ^ 8 +
        satU 16 ((jmp.getD 0) / (65536 * 10 ^ 6)) * 2 ^ 16
      ((s.set GN_SPOOF_FLAG 1).set GN_STATUS_SPOOFFLAG 1).event 0x0805 2 arg
    else if s.is GN_SPOOF_FLAG && decide (s.get GN_SPOOFCFG_HOLD * 10 ≤ calm) then
      ((s.set GN_SPOOF_FLAG 0).set GN_STATUS_SPOOFFLAG 0).event 0x0806 0 0
    else s

def execSpoofEval (s : State) : Out := .next s.spoofEval

/-! ### Burst tracking (R148, R149) -/

/-- The conditions of R148. -/
def State.burstOk (s : State) : Bool :=
  s.is GN_BURST_EN && s.get GN_SOL_STATE == 3 && !s.is GN_STATUS_SPOOFFLAG && !s.is GN_STATUS_JAMFLAG &&
    ((List.range 20).any (fun k => k ≠ 16 && s.good k) || decide (s.get SEL_TQR_TEB ≤ s.get GN_BURSTELIM_ELIM))

/-- Half a window, in instants' units. -/
def State.halfWindow (s : State) : Nat := s.get GN_BURST_LEN * ms1 / 2

/-- At a second boundary burst tracking starts or stops (R148); the first window is then open. -/
def State.burstBoundary (s : State) : State :=
  if !s.gnOn then s
  else
    let ok := s.burstOk
    let len := s.get GN_BURST_LEN
    if ok && !s.is GN_STATUS_BURST then
      ((s.onGn fun g => { g with window := true, firstSet := true }).set GN_STATUS_BURST 1).event 0x080A 0 (256 + len)
    else if !ok && s.is GN_STATUS_BURST then
      ((s.onGn fun g => { g with window := false, firstSet := false }).set GN_STATUS_BURST 0).event 0x080A 0 len
    else s

/-- The second boundary, or the value a step gives it, and that step, for the latch and detector C (R135, R146); a second of a survey has
passed (R152). -/
def State.gnBoundary (s : State) (step : Option Int) : State :=
  let d := step.getD 0
  let b := (((s.now : Int) - d) / sec1 * sec1 + d).toNat
  s.onGn fun g => { g with lastB := b, stepB := step.isSome, stepSum := g.stepSum + d, jamDone := false, spoofDone := false, solDone := false
                           survLeft := g.survLeft - 1 }

/-- A window opens half its length before the next second boundary. -/
def State.windowOpen (s : State) : State :=
  if !s.gnOn || !s.is GN_STATUS_BURST || s.gn.window then s
  else match s.reach (sec1 * (instSec s.now + 1) - s.halfWindow) with
  | some s => s.onGn fun g => { g with window := true, firstSet := true }
  | none => s

/-- A window closes half its length after the boundary. -/
def State.windowClose (s : State) : State :=
  if !s.gnOn || !s.is GN_STATUS_BURST || !s.gn.window then s
  else match s.reach (s.gn.lastB + s.halfWindow) with
  | some s => s.onGn fun g => { g with window := false }
  | none => s

def execBurstWindowOpen (s : State) : Out := .next s.windowOpen
def execBurstWindowClose (s : State) : Out := .next s.windowClose

/-! ### Time solution (R151 to R154) -/

/-- Two positions in cm lie within 10 m. -/
def near10m (p q : Int × Int × Int) : Bool :=
  decide ((p.1 - q.1) ^ 2 + (p.2.1 - q.2.1) ^ 2 + (p.2.2 - q.2.2) ^ 2 ≤ 1000000)

/-- The antenna position. -/
def State.setPos (s : State) (p : Int × Int × Int) : State := ((s.seti (GN_POS_POS 0) p.1).seti (GN_POS_POS 1) p.2.1).seti (GN_POS_POS 2) p.2.2

/-- The satellites whose measurements at the last boundary may enter the solution (R151): of the systems TIMESYS names, with TOWKNOWN, and
with orbits and clocks from records that passed their checks. -/
def State.solSats (s : State) : List (Nat × Nat) :=
  let sys := s.get GN_SOLCFG_TIMESYS
  ((s.gn.lastSec.filter fun x => x.obs.towKnown && (sys == 3 || gnTimeSystem x.signal == sys) &&
    s.gn.orbit.ephs.any fun e => e.1 == gnSystem x.signal && e.2.1 == x.sv).map fun x => (gnSystem x.signal, x.sv)).eraseDups

/-- A solution uses no other satellites, and there is none without any. -/
def State.solLimit (s : State) (x : GnSol) : GnSol :=
  let n := s.solSats.length
  { x with have_ := x.have_ && decide (0 < min x.used n), used := min x.used n, usable := min x.usable n }

/-- OFFSET (R151, R154): TB minus the system's time, less TAI minus that time and less the delays of the streams. -/
def State.solOffset (s : State) (x : GnSol) : Int :=
  let d := ((List.range 4).map fun m => x.weights.getD m 0 * s.geti (GN_DLY_DLY m)).sum
  x.raw - (gnTai (s.get GN_SOLCFG_TIMESYS) * sec1 : Nat) - divRound d 1000

/-- The STATE of a solution and what it starts (R152). -/
def State.solState (s : State) (x : GnSol) : Nat × State :=
  if !x.have_ then (0, s)
  else if s.is GN_SOLCFG_POSSRC || s.gn.held then (3, s.onGn fun g => { g with held := true })
  else if s.gn.survey then
    let box (f : Int → Int → Int) (a : Int × Int × Int) : Int × Int × Int :=
      if s.gn.survN = 0 then x.pos else (f a.1 x.pos.1, f a.2.1 x.pos.2.1, f a.2.2 x.pos.2.2)
    (2, s.onGn fun g => { g with survLo := box min g.survLo, survHi := box max g.survHi, survN := g.survN + 1, posErr := x.posErr })
  else match (if s.gn.orbit.pos.any (near10m x.pos) then s.gn.orbit.pos else none) with
    | some p => (3, (s.onGn fun g => { g with held := true }).setPos p)
    | none => (1, s.onGn fun g => { g with survey := true, survLeft := s.get GN_SOLCFG_SURVEYH * 3600, survN := 0
                                           posErr := x.posErr })

/-- The integrity flag (R153); a second without a solution breaks the run of passing ones and is no failing solution while enough satellites are
usable (DESIGN CHOICE notes/assumptions/53.md). -/
def State.solIntegrity (s : State) (x : GnSol) : State :=
  let bad := (x.have_ && !x.residOk && !x.exclOk) || decide (x.usable < s.get GN_SOLCFG_MINSV)
  let s := s.onGn fun g => { g with failSol := if bad then g.failSol + 1 else if x.have_ then 0 else g.failSol
                                    passSol := if bad || !x.have_ then 0 else g.passSol + 1 }
  if !s.is GN_STATUS_INTFLAG && decide (3 ≤ s.gn.failSol) then (s.set GN_STATUS_INTFLAG 1).event 0x0808 2 (256 + min x.usable 255)
  else if s.is GN_STATUS_INTFLAG && decide (10 ≤ s.gn.passSol) then (s.set GN_STATUS_INTFLAG 0).event 0x0808 2 (min x.usable 255)
  else s

/-- The first valid solution since BOOT (R130). -/
def State.solFirst (s : State) : State :=
  if s.gn.valid then s
  else
    let ms := satU 20 (divRound (s.tb.ticks - s.gn.feDone : Nat) 1000000).toNat
    (((s.onGn fun g => { g with valid := true }).set GN_TTFS_MS ms).set GN_TTFS_START s.gn.start).event 0x0801 0 (ms + s.gn.start * 2 ^ 20)

/-- The solution for the last second boundary is published, once, within 200 ms after it; a valid one is the measurement of source 16
(R154). -/
def State.solPublish (s : State) (x : GnSol) : State :=
  if !s.gnOn || !s.is GN_FESTAT_DONE || s.gn.solDone || decide (s.gn.lastB + 200 * ms1 < s.now) then s
  else
    let x := s.solLimit x
    let ofs := s.solOffset x
    let s := (s.onGn fun g => { g with solDone := true }).solIntegrity x
    let r := s.solState x
    let s := r.2
    let ok := x.have_ && decide (s.get GN_SOLCFG_MINSV ≤ x.used) && !s.is GN_STATUS_INTFLAG
    let q := s.get GN_SOL_SEQA + 1
    let s := (((s.set GN_SOL_SEQB q).set GN_SOL_STATE r.1).setb GN_SOL_VALID ok).setb GN_SOL_SINGLEFREQ x.single
    let s := ((s.setb GN_SOL_INT (s.is GN_STATUS_INTFLAG)).setSat GN_SOL_SVUSED x.used).setSat GN_SOL_TDOP x.tdop
    let s := ((s.setI64 GN_SOL_OFS_LO GN_SOL_OFS_HI ofs).setSat GN_SOL_SIGMA x.sigma).set GN_SOL_SECLO (instSec s.gn.lastB)
    let s := s.set GN_SOL_SURVLEFT (if s.gn.survey then s.gn.survLeft else 0)
    let s := (s.set GN_SOL_SEQA q).setb GN_STATUS_SOLVALID ok
    if ok then
      let s := s.onGn fun g => { g with x0 := g.x1, x1 := some (ofs - g.stepSum, s.tb.ticks) }
      (s.measure 16 s.gn.lastB ofs).solFirst
    else s

/-- A coordinate held between two limits. -/
def within (lo hi v : Int) : Int := max lo (min hi v)

/-- The survey ends after its hours: the averaged position is held (R152), which lies in the box of the positions averaged, however they
are weighted (log entry 53). -/
def State.surveyEnd (s : State) (x y z : Int) : State :=
  if s.gnOn ∧ s.gn.survey ∧ s.gn.survLeft = 0 ∧ s.gn.survN ≠ 0 then
    let q := s.get GN_SOL_SEQA + 1
    let p := (within s.gn.survLo.1 s.gn.survHi.1 x, within s.gn.survLo.2.1 s.gn.survHi.2.1 y, within s.gn.survLo.2.2 s.gn.survHi.2.2 z)
    let s := (s.onGn fun g => { g with survey := false, held := true, orbitDue := true, orbit := { g.orbit with pos := some p } }).setPos p
    ((((s.set GN_SOL_SEQB q).set GN_SOL_STATE 3).set GN_SOL_SURVLEFT 0).set GN_SOL_SEQA q).event 0x0809 0 0
  else s

def execSolutionPublish (sol : GnSol) (s : State) : Out := .next (s.solPublish sol)
def execSurveyComplete (x y z : Int) (s : State) : Out := .next (s.surveyEnd x y z)

end Sys2Proof.Machine
end

