-- ==== Sys2Proof/Machine/Respond.lean ====
section
/-! DEFINITION. How a service routine answers (spec/06_ports_and_mac.md R167; spec/08_response_fabric.md R224, R234,
R239): frames built from the request and put on the cluster's lane. -/
namespace Sys2Proof.Machine

/-- A cluster has a credit for a port (R234). -/
def State.credit (s : State) (c p : Nat) : Bool := SMap.get 0 s.fab.credits (32 * c + p) < 4

/-- What a routine of the image has executed (R445, R454): how many instructions of each class, AES blocks, SHA-2
compressions, store calls and RATE calls it takes is the microcode's, so these counts are free values
(DESIGN CHOICE notes/assumptions/17.md); its marked instructions are free as well. -/
def State.worked (s : State) (g : Eng) (k : Nat) : State :=
  let v := fun i => Config.freeValue (s.free + i)
  let total := (List.range 9).foldl (fun n i => n + v i) 0
  let s := (s.drawnBy 16).perfEv 0x01 g.c total
  let s := (List.range 9).foldl (fun s i => s.perfEv (0x02 + i) g.c (v i)) s
  let s := ((((s.perfEv 0x30 g.c (v 9)).perfEv 0x31 g.c (v 10)).perfEv 0x32 g.c (v 11)).perfEv 0x33 g.c (min (v 11) (v 12))).perfEv 0x34
    g.c (v 13)
  let p := s.perf
  if p.sampEn = 1 ∧ k = p.sampPart then
    let t := g.c.val / 8
    let n := SMap.get 0 p.counts t + total
    let m : Mark := { engine := engId g, cls := v 14 % 9, addr := v 15 % 16384, wait := v 14 / 9 % 11, part := k, tag := v 15 / 16384 % 2 ^ 32
                      issued := s.now }
    s.onPerf fun p => { p with counts := SMap.set 0 p.counts t (n % 2 ^ p.sampExp)
                               marks := p.marks ++ List.replicate (n / 2 ^ p.sampExp) m }
  else s

/-- The routine of an engine that runs a request of partition `k`: it waits in EMIT without a credit for the port of
the answer, or before its flow's turn (code 9; R219), else it runs. -/
def State.routine (s : State) (g : Eng) (k : Nat) (f : Req → State) : State :=
  match (s.eng g).req with
  | none => s
  | some r =>
    if r.part ≠ k then s
    else if s.credit g.c r.port && s.inTurn r then (f r).worked g k
    else s.onEng g fun x => { x with wait := 9 }

/-- A routine sends a frame of its request on a port. -/
def State.sendFrame (s : State) (g : Eng) (r : Req) (p cls : Nat) (bytes : List Byte) (d : TxDesc) (resv : Option Nat) : State :=
  let f : TxFrame := { port := p, cls := cls, bytes := bytes, desc := d, part := if gated r.part then some r.part else none, stamp := r.stamp
                       caught := r.src == 0, downs := r.downs, src := g.c, resv := resv }
  (((s.pushLane f).perfEv 0x21 g.c 1).bump (FAB_PART_RESP r.part) 1).onEng g fun x => { x with emits := x.emits + 1 }

/-- The routine ends after its CHECK has passed (R239, R240). -/
def State.done (s : State) (g : Eng) : State := (s.check g true).finish g

/-- The UDP answer to a request, addresses and ports exchanged, and the offset of its UDP payload. -/
def State.udpReply (s : State) (r : Req) (ttl dscp : Nat) (payload : List Byte) : List Byte × Nat :=
  let h := parseL2 r.bytes
  match parseIp r.bytes h with
  | none => ([], 0)
  | some ip =>
    let udp := udpBytes ip.dst ip.src (dstPort r.bytes ip) (beNat (slice r.bytes ip.l4 2)) payload
    let head := ethHeader h.sa h.da (s.vlanTags r.port r.vlan) h.etype
    (head ++ ipPacket ip.dst ip.src 17 dscp ttl udp, head.length + (if ip.ver = 1 then 20 else 40) + 8)

/-- The sending port, addresses and payload of a UDP request. -/
def reqUdp (r : Req) : Option (Ip × List Byte) :=
  match parseIp r.bytes (parseL2 r.bytes) with
  | some ip => if ip.proto = 17 then some (ip, udpPayload r.bytes ip) else none
  | none => none

/-- The control complex submits a frame: a request with SRC = 3 of the management partition (R217). -/
def State.submit (s : State) (f : TxFrame) : State :=
  let r : Req := { part := 1, src := 3, port := f.port, bytes := f.bytes, stamp := s.now, tx := some f }
  s.onFab fun b => { b with intern := SMap.set [] b.intern 7 (SMap.get [] b.intern 7 ++ [r]) }

/-- A frame the control complex builds, sent in class `cls`. -/
def State.originate (s : State) (p cls : Nat) (bytes : List Byte) (d : TxDesc) (resv : Option Nat) : State :=
  s.submit { port := p, cls := cls, bytes := bytes, desc := d, resv := resv }

/-- A TCP segment without options (RFC 793): ports, sequence and acknowledgement numbers, flags, window and checksum. -/
def tcpBytes (src dst : List Byte) (sport dport seq ack flags : Nat) (payload : List Byte) : List Byte :=
  let h (c : Nat) : List Byte := beBytes 2 sport ++ beBytes 2 dport ++ beBytes 4 seq ++ beBytes 4 ack ++ beBytes 1 0x50 ++
    beBytes 1 flags ++ beBytes 2 65535 ++ beBytes 2 c ++ beBytes 2 0
  h (0xFFFF - onesAdd (pseudoSum src dst 6 (20 + payload.length)) (onesSum (h 0 ++ payload))) ++ payload

/-- A packet of the control complex to a far end, in the tag stack of its VLAN entry (R167), class 6, TTL 64 and DSCP 0
(DESIGN CHOICE notes/assumptions/59.md); the virtual MAC address is the source of a virtual IP address (R170). -/
def State.peerSend (s : State) (p : Nat) (x : Far) (proto : Nat) (b : List Byte) : State :=
  let mac := if s.ipKind p x.vlan x.self = some 2 then s.macVaddr p else s.macAddr p
  s.originate p 6 (ethHeader x.mac mac (s.vlanTags p x.vlan) (if x.addr.length = 4 then 0x0800 else 0x86DD) ++
    ipPacket x.self x.addr proto 0 64 b) {} none

/-- One segment; the acknowledgement number is the far end's, which the commands do not carry: a free value
(DESIGN CHOICE notes/assumptions/59.md). -/
def State.tcpSend (s : State) (p : Nat) (x : Far) (sport seq flags : Nat) (b : List Byte) : State :=
  s.drawn.peerSend p x 6 (tcpBytes x.self x.addr sport x.port seq (s.draw % 2 ^ 32) flags b)

/-- Bytes of a stream in segments of at most 1,024, the last with some flags (DESIGN CHOICE notes/assumptions/59.md). -/
def State.tcpStream (s : State) (p : Nat) (x : Far) (sport seq flags : Nat) : Nat → List Byte → State
  | 0, b => s.tcpSend p x sport seq flags b
  | n + 1, b =>
    if b.length ≤ 1024 then s.tcpSend p x sport seq flags b
    else (s.tcpSend p x sport seq 0x10 (b.take 1024)).tcpStream p x sport ((seq + 1024) % 2 ^ 32) flags n (b.drop 1024)

/-- An LLDP TLV: type, length, value (IEEE 802.1AB). -/
def lldpTlv (type : Nat) (v : List Byte) : List Byte := beBytes 2 (type * 512 + v.length) ++ v

/-- The LLDP frame of a port with the EEE TLV (R179; PRESUMED notes/assumptions/55.md): chassis and port are its MAC address, the wake
times are in us, and the partner's are echoed as 0 until they are known. -/
def State.lldpFrame (s : State) (p : Nat) : List Byte :=
  let tx := ceilDiv (if s.is (MAC_LPISTAT_NEG p) then s.get (MAC_LPISTAT_TW p) else s.get (MAC_LPI_TWMIN p)) 1000
  let rx := ceilDiv (s.get (MAC_LPI_TWMIN p)) 1000
  let echo := if s.is (MAC_LPISTAT_NEG p) then tx else 0
  ethHeader 0x0180C200000E (s.macAddr p) [] 0x88CC ++ lldpTlv 1 (beBytes 1 4 ++ beBytes 6 (s.macAddr p)) ++
    lldpTlv 2 (beBytes 1 3 ++ beBytes 6 (s.macAddr p)) ++ lldpTlv 3 (beBytes 2 120) ++
    lldpTlv 127 (beBytes 3 0x00120F ++ beBytes 1 5 ++ beBytes 2 tx ++ beBytes 2 rx ++ beBytes 2 rx ++ beBytes 2 echo ++ beBytes 2 echo) ++
    lldpTlv 0 []

/-- A control processor sends its side of the EEE exchange on a port with MAC_LPI.EN = 1 that is UP (R179). -/
def State.lldpSend (s : State) (p : Nat) : State :=
  if s.is (MAC_LPI_EN p) && (s.portRow p).lpi && s.portUp p then s.originate p 6 (s.lldpFrame p) {} none else s

/-- MAC_LPI.EN was written (R179). -/
def State.lpiWritten (s : State) (p : Nat) : State := if s.is (MAC_LPI_EN p) then s.lldpSend p else s.lpiOff p

def execLpiNegotiated (p : Fin 32) (tw : Nat) (s : State) : Out := .next ((s.lpiNegotiated p tw).lldpSend p)

/-- Draw `bits` bits of the DRBG (R396). -/
def State.rand (s : State) (bits : Nat) : Nat × State := (s.random bits, s.drawn.onBoot fun b => { b with drbgReqs := b.drbgReqs + 1 })

end Sys2Proof.Machine
end

