-- ==== Sys2Proof/Machine/Ptp.lean ====
section
/-! DEFINITION. PTP grandmaster and PTPIN client (spec/10_ptp_grandmaster.md). -/
namespace Sys2Proof.Machine

/-! ### Identity, intervals and comparison (R273 to R275) -/

/-- PTP_CLOCKID. -/
def State.clockId (s : State) : Nat := s.get PTP_CLOCKID_HI_ID * 2 ^ 32 + s.get PTP_CLOCKID_LO_ID

/-- sourcePortIdentity of port `p` (R274). -/
def State.portId (s : State) (p : Nat) : List Byte := beBytes 8 s.clockId ++ beBytes 2 (p + 1)

/-- 2^log seconds in ns. -/
def interval (log : Int) : Nat := if log < 0 then 10 ^ 9 / 2 ^ log.natAbs else 10 ^ 9 * 2 ^ log.toNat

/-- A logarithm from a message, kept to the range its interval has in ns. -/
def logOf (b : Nat) : Int := max (-9) (min (toSigned 8 b) 20)

/-- The first list is smaller, compared element by element. -/
def lexLess : List Nat → List Nat → Bool
  | a :: r, b :: t => if a < b then true else if b < a then false else lexLess r t
  | _, _ => false

/-- What a dataset is ordered by (R275): IEEE 1588 9.3.4, or the alternate BMCA of profiles 1 and 2. -/
def State.gmKey (s : State) (g : GmData) : List Nat :=
  if s.get PTP_CFG_PROFILE = 1 ∨ s.get PTP_CFG_PROFILE = 2 then [g.cls, g.acc, g.oslv, g.prio2, g.id, g.steps]
  else [g.prio1, g.cls, g.acc, g.oslv, g.prio2, g.id, g.steps]

/-- The device's own Announce content (R283). -/
def State.ownGm (s : State) : GmData :=
  { prio1 := s.get PTP_PRIO_PRIO1, cls := s.get (PTP_QMAP_CLASS s.ptpState), acc := s.clockAcc, oslv := s.get (PTP_QMAP_OSLV s.ptpState),
    prio2 := s.get PTP_PRIO_PRIO2, id := s.clockId, steps := 0 }

/-- Two Announces within four intervals; the last within announceReceiptTimeout (R275). -/
def Foreign.qualified (f : Foreign) : Bool := f.prev.any fun t => decide (f.last ≤ t + 4 * interval f.logAnn)
def State.current (s : State) (f : Foreign) : Bool := s.tb.ticks ≤ f.last + s.get PTP_CFG_ARTO * interval f.logAnn

/-- A qualified foreign master of a serving port compares better. -/
def State.betterForeign (s : State) (p : Nat) : Bool :=
  s.ptp.foreign.any fun f => f.port == p && !f.client && f.qualified && s.current f && lexLess (s.gmKey f.gm) (s.gmKey s.ownGm)

/-- A port changes state (event 0x4201). -/
def State.ptpTo (s : State) (p st : Nat) : State :=
  if s.get (PTP_P_STATE p) = st then s else (s.set (PTP_P_STATE p) st).event 0x4201 0 (p + st * 2 ^ 8)

def State.peer (s : State) (p : Nat) : Peer := SMap.get {} s.ptp.peers p
def State.setPeer (s : State) (p : Nat) (x : Peer) : State := s.onPtp fun t => { t with peers := SMap.set {} t.peers p x }

/-- asCapable (R279). -/
def State.asCapable (s : State) (p : Nat) : Bool :=
  (s.peer p).done.length == 3 && (s.peer p).done.all id && decide (s.geti (PTP_P_LINKDLY p) ≤ s.get (PTP_P_PDTHR p) * ns1)

/-- The device tick after which no better qualified master of a port has announced within its receipt timeout (R275, row 4). -/
def State.betterUntil (s : State) (p : Nat) : Nat :=
  (s.ptp.foreign.filter fun f => f.port == p && !f.client && f.qualified && s.current f && lexLess (s.gmKey f.gm) (s.gmKey s.ownGm)).foldl
    (fun n f => max n (f.last + s.get PTP_CFG_ARTO * interval f.logAnn + 1)) 0

/-- The states of R275, as the conditions of a serving port stand. -/
def State.ptpEval (s : State) (p : Nat) : State :=
  let cap := s.get PTP_CFG_PROFILE ≠ 4 || s.asCapable p
  let s := if s.betterForeign p then s.onPtp fun t => { t with better := SMap.set 0 t.better p (s.betterUntil p) } else s
  if !s.is PTP_CFG_EN || !s.is (PTP_P_EN p) || !s.portUp p then s.ptpTo p 0
  else match s.get (PTP_P_STATE p) with
  | 0 => s.ptpTo p (if cap then 1 else 3)
  | 1 => if !s.is (PTP_P_MASTERONLY p) && s.betterForeign p then s.ptpTo p 2 else if cap then s else s.ptpTo p 3
  | 2 => if s.betterForeign p || decide (s.tb.ticks < SMap.get 0 s.ptp.better p) then s else s.ptpTo p 1
  | _ => if cap then s.ptpTo p 1 else s

/-- A link of a port rises or falls: the PTP state follows (R161, R275). -/
def State.linkUp (s : State) (p : Nat) : State :=
  let t := s.portRise p
  (if t.portUp p && !s.portUp p then t.lldpSend p else t).ptpEval p
def State.linkDown (s : State) (p reason : Nat) : State := (s.portFall p reason).ptpEval p

def execLinkUp (p : Fin 32) (s : State) : Out := .next (s.linkUp p)
def execLinkDown (p : Fin 32) (reason : Fin 4) (s : State) : Out := .next (s.linkDown p reason)
/-- A port goes DOWN, and its PTP state follows (R275, row 1). -/
def State.dropPort (s : State) (p reason : Nat) : State := (s.portDown p reason).ptpEval p

def execQuadFault (q cause : Fin 4) (s : State) : Out :=
  .next ((s.quadFault q cause).forEach 8 fun s k => s.ptpEval (8 * q + k))

/-! ### Messages -/

/-- The header of a received message and its place. -/
structure PtpMsg where
  type : Nat
  minor : Nat
  domain : Nat
  flags : Nat
  corr : Int
  src : Nat
  seq : Nat
  log : Nat
  body : List Byte
  deriving DecidableEq, Repr

/-- The PTP payload of a request: after the EtherType on L2, after the UDP header on UDP. -/
def ptpPayload (r : Req) : List Byte :=
  let h := parseL2 r.bytes
  if h.etype = 0x88F7 then l3Bytes r.bytes h
  else match reqUdp r with
  | some (_, p) => p
  | none => []

/-- The least length of a message type (R276, check 1). -/
def ptpMinLen : Nat → Nat
  | 0 | 1 | 8 | 12 => 44
  | 2 | 3 | 9 | 10 => 54
  | 11 => 64
  | _ => 34

/-- Fields of the common header. -/
def ptpParse (p : List Byte) : PtpMsg :=
  { type := beNat (p.take 1) % 16, minor := beNat (slice p 1 1) / 16, domain := beNat (slice p 4 1), flags := beNat (slice p 6 2),
    corr := toSigned 64 (beNat (slice p 8 8)), src := beNat (slice p 20 10), seq := beNat (slice p 30 2), log := beNat (slice p 33 1),
    body := p }

/-- A message in the PTPIN domain on the PTPIN port (R294). -/
def State.clientMsg (s : State) (p domain : Nat) : Bool :=
  s.is PTPIN_EN && s.get PTPIN_PORT == p && s.get PTPIN_DOMAIN == domain

/-- A request's frame was sent to a group address. -/
def isMcast (r : Req) : Bool := (parseL2 r.bytes).da.testBit 40

/-! ### Grant entries (R285, R288) -/

/-- A grant entry. Rates are logarithm + 7, 15 for not granted, for Sync, Announce and Delay_Resp. -/
structure GrantEntry where
  valid : Bool := false
  af : Nat := 0
  port : Nat := 0
  vlan : Nat := 0
  sync : Nat := 15
  ann : Nat := 15
  dr : Nat := 15
  minor : Nat := 0
  pfx : Nat := 0
  expiry : Nat := 0
  portId : List Byte := []
  dmac : Nat := 0
  addr : List Byte := []
  deriving DecidableEq, Repr

def decodeGrant (b : List Byte) : GrantEntry :=
  let w := beNat (b.take 4)
  { valid := w.testBit 31, af := w / 2 ^ 29 % 4, port := w / 2 ^ 24 % 32, vlan := w / 2 ^ 18 % 64, sync := w / 2 ^ 14 % 16,
    ann := w / 2 ^ 10 % 16, dr := w / 2 ^ 6 % 16, minor := w / 2 ^ 5 % 2, pfx := w / 2 % 16, expiry := beNat (slice b 4 4),
    portId := slice b 8 10, dmac := beNat (slice b 18 6), addr := slice b 24 8 }

def encodeGrant (e : GrantEntry) : List Byte :=
  beBytes 4 ((if e.valid then 2 ^ 31 else 0) + e.af * 2 ^ 29 + e.port * 2 ^ 24 + e.vlan * 2 ^ 18 + e.sync * 2 ^ 14 + e.ann * 2 ^ 10 +
    e.dr * 2 ^ 6 + e.minor * 2 ^ 5 + e.pfx * 2) ++ beBytes 4 e.expiry ++ e.portId ++ beBytes 6 e.dmac ++ e.addr

def State.grantEntry (s : State) (n : Nat) : GrantEntry := decodeGrant (s.entry n)

/-- The address family and address of the sender of a request: MAC on L2. -/
def senderAddr (r : Req) : Nat × List Byte :=
  let h := parseL2 r.bytes
  match parseIp r.bytes h with
  | some ip => (ip.ver, ip.src)
  | none => (0, beBytes 6 h.sa)

/-- The address bytes that an entry stores (R288). -/
def storedAddr (af : Nat) (a : List Byte) : List Byte :=
  if af = 1 then a ++ [0, 0, 0, 0] else if af = 2 then a.drop 8 else [0, 0, 0, 0, 0, 0, 0, 0]

/-- The enabled prefix of an IPv6 client (R286). -/
def State.prefixOf (s : State) (a : List Byte) : Option Nat :=
  (List.range 16).find? fun i =>
    let v := s.get (PTP_PREFIX_HI i) * 2 ^ 32 + s.get (PTP_PREFIX_LO i)
    v ≠ 0 && v == beNat (a.take 8)

/-- An entry is the one of a key (R285). -/
def State.keyMatches (s : State) (e : GrantEntry) (p af : Nat) (a pid : List Byte) : Bool :=
  e.valid && e.port == p && e.af == af && e.portId == pid && e.addr == storedAddr af a &&
    (if af = 0 then beBytes 6 e.dmac == a else af ≠ 2 || some e.pfx == s.prefixOf a)

/-- The entries of a key's bucket (R285). -/
def bucketOf (p : Nat) (a pid : List Byte) : List Nat :=
  let b := crc32c (beBytes 1 p ++ a ++ pid) % 131072
  (List.range 8).map fun i => 8 * b + i

/-- The entry of a key. -/
def State.findGrant (s : State) (p af : Nat) (a pid : List Byte) : Option Nat :=
  (bucketOf p a pid).find? fun n => s.keyMatches (s.grantEntry n) p af a pid

/-- An expiry second has not been reached (R288, modulo 2^32). -/
def notExpired (expiry sec : Nat) : Bool :=
  let d := (expiry + 2 ^ 32 - sec % 2 ^ 32) % 2 ^ 32
  0 < d && d < 2 ^ 31

/-- A sender holds a current Delay_Resp grant (R291). -/
def State.drGranted (s : State) (r : Req) (pid : List Byte) : Bool :=
  let a := senderAddr r
  match s.findGrant r.port a.1 a.2 pid with
  | some n => let e := s.grantEntry n; e.dr ≠ 15 && notExpired e.expiry (instSec r.stamp)
  | none => false

/-- The check of R276 that a message fails: its number, from 1. -/
def State.ptpCheck (s : State) (r : Req) (p : List Byte) (m : PtpMsg) : Option Nat :=
  let n := beNat (slice p 2 2)
  let client := s.clientMsg r.port m.domain
  let serving := s.is (PTP_P_EN r.port) && !client
  let known := [0, 1, 2, 3, 8, 9, 10, 11, 12].contains m.type
  if p.length < 34 ∨ p.length < n ∨ p.length < ptpMinLen m.type then some 1
  else if beNat (slice p 1 1) % 16 ≠ 2 ∨ 1 < m.minor then some 2
  else if beNat (p.take 1) / 16 ≠ s.get PTP_CFG_SDOID / 256 ∨ !(m.domain == s.get PTP_CFG_DOMAIN || client) then some 3
  else if m.src / 2 ^ 16 = s.clockId then some 4
  else if m.type = 13 then some 5
  else if (m.type = 1 ∧ s.is (PTP_P_P2P r.port)) ∨ ([2, 3, 10].contains m.type ∧ !s.is (PTP_P_P2P r.port)) ∨
      (serving ∧ [0, 8, 9].contains m.type) ∨ !known then some 6
  else if m.type = 1 ∧ !isMcast r ∧ s.is (PTP_P_UNICAST r.port) ∧ !s.drGranted r (beBytes 10 m.src) then some 7
  else none

/-- The counter of a check. -/
def ptpCounter : Nat → Field
  | 1 => PTP_CNT_MALFORMED
  | 2 => PTP_CNT_VERSION
  | 3 => PTP_CNT_DOMAIN
  | 4 => PTP_CNT_LOOP
  | 5 => PTP_CNT_MGMT
  | 6 => PTP_CNT_WRONGMECH
  | _ => PTP_CNT_NOGRANT

/-- A received message of some types: it fails a check of R276, or is handled. -/
def State.ptpRx (s : State) (g : Eng) (types : List Nat) (f : State → Req → PtpMsg → State) : State :=
  s.routine g 4 fun r =>
    if r.src ≠ 0 then s
    else
      let p := ptpPayload r
      let m := ptpParse p
      match s.ptpCheck r p m with
      | some k => ((s.bump (ptpCounter k) 1).noteSec 0x4204 k).dropReq g
      | none => if types.contains m.type then f s r m else s

/-! ### Building messages (R274, R277) -/

/-- controlField of a message type. -/
def ctlOf : Nat → Nat
  | 0 => 0
  | 1 => 1
  | 8 => 2
  | 9 => 3
  | _ => 5

/-- A message with its common header: type, minor version, domain, flags, correction, source port, sequence number,
interval and the bytes after the header. -/
def State.ptpMessage (s : State) (type minor domain flags : Nat) (corr : Int) (p seq log : Nat) (body : List Byte) : List Byte :=
  let sdo := s.get PTP_CFG_SDOID
  beBytes 1 (sdo / 256 * 16 + type) ++ beBytes 1 (minor * 16 + 2) ++ beBytes 2 (34 + body.length) ++ beBytes 1 domain ++
  beBytes 1 sdo ++ beBytes 2 flags ++ beBytes 8 (ofSigned 64 corr) ++ beBytes 4 0 ++ s.portId p ++ beBytes 2 seq ++
  beBytes 1 (ctlOf type) ++ beBytes 1 log ++ body

/-- Where a message goes: destination MAC, own MAC, and the IP addresses with their TTL on UDP. -/
structure PtpDest where
  mac : Nat
  own : Nat
  ip : Option (List Byte × List Byte × Nat)
  vlan : Nat
  mcast : Bool
  deriving DecidableEq, Repr

/-- The device's server address of a version on a VLAN entry: the lowest-numbered entry of KIND 0 or 2, and the MAC
address that goes with it (DEDUCED notes/assumptions/15.md). -/
def State.ownServer (s : State) (p vlan ver : Nat) : List Byte × Nat :=
  match (List.range 256).find? fun a => s.ipInForce p a && s.get (MAC_IP_VLAN p a) == vlan && s.get (MAC_IP_KIND p a) ≠ 1 &&
      s.get (MAC_IP_V6 p a) + 1 == ver with
  | some a => (s.ipEntryBytes p a, if s.get (MAC_IP_KIND p a) = 2 then s.macVaddr p else s.macAddr p)
  | none => (List.replicate (if ver = 1 then 4 else 16) 0, s.macAddr p)

/-- The multicast destination of a port (R274). -/
def State.mcastDest (s : State) (p : Nat) (pdelay : Bool) : PtpDest :=
  let vlan := s.get (PTP_P_VLAN p)
  match s.get (PTP_P_TRANSPORT p) with
  | 0 => { mac := if pdelay || s.is (PTP_P_NFWD p) then 0x0180C200000E else 0x011B19000000, own := s.macAddr p, ip := none,
           vlan := vlan, mcast := true }
  | 1 =>
    let o := s.ownServer p vlan 1
    { mac := if pdelay then 0x01005E00006B else 0x01005E000181, own := o.2, vlan := vlan, mcast := true,
      ip := some (o.1, if pdelay then beBytes 4 0xE000006B else beBytes 4 0xE0000181, if pdelay then 1 else 64) }
  | _ =>
    let o := s.ownServer p vlan 2
    { mac := if pdelay then 0x33330000006B else 0x333300000181, own := o.2, vlan := vlan, mcast := true,
      ip := some (o.1, if pdelay then beBytes 16 (0xFF02 * 2 ^ 112 + 0x6B) else beBytes 16 (0xFF0E * 2 ^ 112 + 0x181), if pdelay then 1 else 64) }

/-- Unicast to the sender of a request, from the address it named or a server address. -/
def State.senderDest (s : State) (r : Req) : PtpDest :=
  let h := parseL2 r.bytes
  let group := h.da.testBit 40
  match parseIp r.bytes h with
  | none => { mac := h.sa, own := if group then s.macAddr r.port else h.da, ip := none, vlan := r.vlan, mcast := false }
  | some ip =>
    let o := if group then s.ownServer r.port r.vlan ip.ver else (ip.dst, h.da)
    { mac := h.sa, own := o.2, ip := some (o.1, ip.src, 64), vlan := r.vlan, mcast := false }

/-- Unicast to the client of a grant entry (R288). -/
def State.grantDest (s : State) (e : GrantEntry) : PtpDest :=
  if e.af = 0 then { mac := e.dmac, own := s.macAddr e.port, ip := none, vlan := e.vlan, mcast := false }
  else
    let o := s.ownServer e.port e.vlan e.af
    let dst := if e.af = 1 then e.addr.take 4
      else beBytes 4 (s.get (PTP_PREFIX_HI e.pfx)) ++ beBytes 4 (s.get (PTP_PREFIX_LO e.pfx)) ++ e.addr
    { mac := e.dmac, own := o.2, ip := some (o.1, dst, 64), vlan := e.vlan, mcast := false }

/-- The frame of a message on UDP port 319 (event) or 320 (general), or on L2, and the offset P of its header. -/
def State.ptpFrame (s : State) (p : Nat) (d : PtpDest) (event : Bool) (m : List Byte) : List Byte × Nat :=
  let tags := s.vlanTags p d.vlan
  match d.ip with
  | none => let h := ethHeader d.mac d.own tags 0x88F7; (h ++ m, h.length)
  | some (src, dst, ttl) =>
    let v6 := src.length = 16
    let port := if event then 319 else 320
    let h := ethHeader d.mac d.own tags (if v6 then 0x86DD else 0x0800)
    (h ++ ipPacket src dst 17 0 ttl (udpBytes src dst port port m), h.length + (if v6 then 40 else 20) + 8)

/-- Bits of the flagField's first octet (R277, R278). -/
def flagHead (d : PtpDest) (twoStep : Bool) : Nat := (if d.mcast then 0 else 0x400) + (if twoStep then 0x200 else 0)

/-- A routine sends a message, with a descriptor that may name offsets from P. -/
def State.sendPtp (s : State) (g : Eng) (r : Req) (p : Nat) (d : PtpDest) (event : Bool) (m : List Byte) (op link : Nat)
    (rec : Bool) (base : Nat) : State :=
  let f := s.ptpFrame p d event m
  let udp := d.ip.isSome
  let desc : TxDesc := { op := op, ofs := f.2 + 34, corr := f.2 + 8, link := link, linkRec := rec, base := base, csum := udp && op ≠ 0 }
  s.sendFrame g r p (if event then 0 else 1) f.1 desc none

/-! ### Two-step link indices (R279) -/

/-- Link index `l` of a port is in use: its follow-up has not been committed or discarded. -/
def State.linkInUse (s : State) (p l : Nat) : Bool :=
  let is (f : TxFrame) : Bool := f.desc.op == 4 && f.desc.link == l && f.port == p
  ((List.range 8).any fun q => (s.txq p q).any is) || s.fab.lanes.any fun x => x.1 % 32 == p && x.2.any is

/-- The next link index of a port; none, counted, when it is still in use. -/
def State.takeLink (s : State) (p : Nat) : State × Option Nat :=
  let l := SMap.get 0 s.ptp.linkNext p
  if s.linkInUse p l then ((s.bump PTP_CNT_LINKBUSY 1).noteSec (0x4207 + 65536 * p) p, none)
  else (s.onPtp fun t => { t with linkNext := SMap.set 0 t.linkNext p ((l + 1) % 56) }, some l)

/-! ### Delay and peer delay (R278, R279) -/

/-- Delay_Req (R278, R291). -/
def State.delayReq (s : State) (g : Eng) : State :=
  s.ptpRx g [1] fun s r m =>
    let p := r.port
    let mc := isMcast r
    if s.get (PTP_P_STATE p) ≠ 1 ∨ !(s.is (PTP_P_MCAST p) || (!mc && s.drGranted r (beBytes 10 m.src))) then s.dropReq g
    else
      let d := if mc && !s.is (PTP_P_HYBRID p) then s.mcastDest p false else s.senderDest r
      let corr := satSigned 64 (m.corr - instSub r.stamp)
      let log := if d.mcast then s.get (PTP_P_LOGDREQ p) else 0x7F
      let msg := s.ptpMessage 9 m.minor m.domain (flagHead d false) corr p m.seq log (ptpStamp r.stamp ++ beBytes 10 m.src)
      ((s.sendPtp g r p d false msg 0 0 false 0).bump PTP_CNT_DRESP_TX 1).done g

/-- Pdelay_Req (R278): a one-step or two-step answer. -/
def State.pdelayReq (s : State) (g : Eng) : State :=
  s.ptpRx g [2] fun s r m =>
    let p := r.port
    if s.get (PTP_P_STATE p) = 0 then s.dropReq g
    else
      let d := if isMcast r then s.mcastDest p true else s.senderDest r
      let who := beBytes 10 m.src
      if s.is (PTP_P_TWOSTEP p) then
        let l := s.takeLink p
        match l.2 with
        | none => l.1.dropReq g
        | some i =>
          let s := l.1
          let a := s.ptpMessage 3 m.minor m.domain (flagHead d true) (-(instSub r.stamp : Int)) p m.seq 0x7F (ptpStamp r.stamp ++ who)
          let b := s.ptpMessage 10 m.minor m.domain (flagHead d false) m.corr p m.seq 0x7F (beBytes 10 0 ++ who)
          let s := (s.sendPtp g r p d true a 0 i true 0).bump PTP_CNT_PDRESP_TX 1
          ((s.sendPtp g r p d false b 4 i false 0).bump PTP_CNT_PDRFU_TX 1).done g
      else
        let a := s.ptpMessage 3 m.minor m.domain (flagHead d false) m.corr p m.seq 0x7F (beBytes 10 0 ++ who)
        ((s.sendPtp g r p d true a 3 0 false (instFull r.stamp % 2 ^ 64)).bump PTP_CNT_PDRESP_TX 1).done g

/-- A PTP timestamp field as an instant. -/
def ptpInstant (b : List Byte) : Nat := beNat (b.take 6) * sec1 + beNat (slice b 6 4) * ns1

/-- A peer-delay exchange completes with a delay (R279). -/
def State.peerDone (s : State) (p : Nat) (d : Int) : State :=
  let x := s.peer p
  let ds := (d :: x.delays).take 8
  let inTime := decide (s.tb.ticks ≤ x.sentAt + interval (s.geti (PTP_P_LOGPDREQ p)))
  let s := s.setPeer p { x with t1 := none, half := none, delays := ds, done := (inTime :: x.done).take 3 }
  (s.seti (PTP_P_LINKDLY p) (divRound (ds.foldl (· + ·) 0) ds.length)).ptpEval p

/-- Half of the difference of R279. -/
def peerDelay (t1 t2 t3 t4 : Nat) (c : Int) : Int := divRound (((t4 : Int) - t1) - ((t3 : Int) - t2) - c) 2

/-- Pdelay_Resp or Pdelay_Resp_Follow_Up (R279). -/
def State.pdelayResp (s : State) (g : Eng) : State :=
  s.ptpRx g [3, 10] fun s r m =>
    let p := r.port
    let x := s.peer p
    let mine := slice m.body 44 10 = s.portId p ∧ m.seq = x.seq
    let s' := match x.t1 with
      | none => s
      | some t1 =>
        if ¬mine then s
        else if m.type = 3 then
          if m.flags / 512 % 2 = 1 then s.setPeer p { x with half := some (ptpInstant (slice m.body 34 10), r.stamp, m.corr) }
          else s.peerDone p (peerDelay t1 0 0 r.stamp m.corr)
        else match x.half with
        | some (t2, t4, c) => s.peerDone p (peerDelay t1 t2 (ptpInstant (slice m.body 34 10)) t4 (c + m.corr))
        | none => s
    s'.dropReq g

/-- Reserve the launch of a message the device originates, with the grid of blocks of its port, and submit it. The message is built from
the reserved instant (R199, R279; DESIGN CHOICE notes/assumptions/58.md). -/
def State.sendReserved (s : State) (p : Nat) (d : PtpDest) (phase : Nat) (build : Nat → List Byte) : State × Nat :=
  let len := (s.ptpFrame p d true (build 0)).1.length + 4
  let v := s.reserve p len phase
  let f := v.1.ptpFrame p d true (build v.2.instant)
  (v.1.originate p 0 f.1 { op := 6 } (some v.2.id), v.2.instant)

/-- A P2P port sends Pdelay_Req (R279), every 2^logMinPdelayReqInterval s. An exchange still open has not completed. -/
def State.pdelaySend (s : State) (p phase : Nat) : State :=
  let x := s.peer p
  match s.reachTick (if x.sentAt = 0 then 0 else x.sentAt + interval (s.geti (PTP_P_LOGPDREQ p))) with
  | none => s
  | some s =>
  if !s.is (PTP_P_P2P p) || s.get (PTP_P_STATE p) == 0 then s
  else
    let seq := (x.seq + 1) % 65536
    let d := s.mcastDest p true
    let build (t : Nat) := s.ptpMessage 2 (s.get PTP_CFG_MINOR) (s.get PTP_CFG_DOMAIN) (flagHead d false) (instSub t) p seq
      (s.get (PTP_P_LOGPDREQ p)) (ptpStamp t ++ beBytes 10 0)
    let r := s.sendReserved p d phase build
    let lost := if x.t1.isSome then (false :: x.done).take 3 else x.done
    (r.1.setPeer p { x with seq := seq, t1 := some r.2, sentAt := s.tb.ticks, half := none, done := lost }).ptpEval p

def execDelayReqRx (g : Eng) (s : State) : Out := .next (s.delayReq g)
def execPdelayReqRx (g : Eng) (s : State) : Out := .next (s.pdelayReq g)
def execPdelayRespRx (g : Eng) (s : State) : Out := .next (s.pdelayResp g)
def execPdelayReqSend (p : Fin 32) (phase : Nat) (s : State) : Out := .next (s.pdelaySend p phase)

/-! ### Announce received (R275, R294) -/

/-- A measurement of PTPIN is recent, and the selected master meets R294. -/
def State.ptpinQ1 (s : State) : State :=
  let ok := match s.ptp.master with
    | none => false
    | some m => s.ptp.foreign.any fun f => f.client && f.src == m && s.current f && f.timescale && f.gm.cls ≤ s.get PTPIN_MAXCLASS
  s.setb PTPIN_Q1 (ok && s.ptp.lastMeas.any fun t => decide (s.tb.ticks ≤ t + 2 * 10 ^ 9))

/-- Selection among the qualified masters of the PTPIN domain (R294). -/
def State.ptpinSelect (s : State) : State :=
  let good := s.ptp.foreign.filter fun f => f.client && f.qualified && s.current f
  let best := good.foldl (fun (b : Option Foreign) f =>
    match b with
    | none => some f
    | some x => if lexLess (s.gmKey f.gm ++ [f.src]) (s.gmKey x.gm ++ [x.src]) then some f else b) none
  let gone (t : Ptp) (m : Option Nat) : Ptp :=
    { t with master := m, syncWait := none, exchanges := [], syncTerm := none, dreqAt := none, logDreq := -7 }
  let lose (s : State) : State :=
    if s.ptp.master.isNone then s
    else (((s.onPtp fun t => gone t none).set PTPIN_SELECTED 0).event 0x4205 0 0)
  match best with
  | none => (lose s).ptpinQ1
  | some f =>
    if f.gm.id = s.clockId then
      (lose ((s.onPtp fun t => { t with foreign := t.foreign.filter fun x => !(x.client && x.src == f.src) }).event 0x4206 2 0)).ptpinQ1
    else
      let new := s.ptp.master ≠ some f.src
      let s := if new then s.onPtp fun t => gone t (some f.src) else s
      let s := (((s.set PTPIN_SELECTED 1).set PTPIN_MCLASS f.gm.cls).set PTPIN_MID_HI (f.gm.id / 2 ^ 32)).set PTPIN_MID_LO f.gm.id
      (if new then s.event 0x4205 0 256 else s).ptpinQ1

/-- A foreign Announce (R275, R294). -/
def State.announceRx (s : State) (g : Eng) : State :=
  s.ptpRx g [11] fun s r m =>
    let b := m.body
    let client := s.clientMsg r.port m.domain
    let gm : GmData := { prio1 := beNat (slice b 47 1), cls := beNat (slice b 48 1), acc := beNat (slice b 49 1), oslv := beNat (slice b 50 2),
                         prio2 := beNat (slice b 52 1), id := beNat (slice b 53 8), steps := beNat (slice b 61 2) }
    if !client && gm.id == s.clockId then s.dropReq g
    else
      let same (f : Foreign) : Bool := f.port == r.port && f.src == m.src && f.client == client
      let old := s.ptp.foreign.find? same
      let f : Foreign := { port := r.port, src := m.src, client := client, gm := gm, logAnn := logOf m.log, last := s.tb.ticks,
                           prev := old.map (·.last), timescale := m.flags / 8 % 2 = 1,
                           mac := (parseL2 r.bytes).sa }
      let s := s.onPtp fun t => { t with foreign := f :: t.foreign.filter fun x => !same x }
      let s := if client then s.ptpinSelect else s.ptpEval r.port
      s.dropReq g

/-- The device tick at which the next Announce of a port's foreign masters times out (R275, R294). -/
def State.announceDue (s : State) (p : Nat) : Nat :=
  ((s.ptp.foreign.filter fun f => f.port == p && s.current f).map fun f => f.last + s.get PTP_CFG_ARTO * interval f.logAnn + 1).min?.getD 0

/-- No Announce for announceReceiptTimeout (R275): the timed-out masters of the port are forgotten. -/
def State.announceTimeout (s : State) (p : Nat) : State :=
  match s.reachTick (s.announceDue p) with
  | none => s
  | some s =>
  let s := s.onPtp fun t => { t with foreign := t.foreign.filter fun f => f.port ≠ p || s.current f }
  let s := if s.is PTPIN_EN && s.get PTPIN_PORT == p then s.ptpinSelect else s
  s.ptpEval p

def execAnnounceRx (g : Eng) (s : State) : Out := .next (s.announceRx g)
def execAnnounceReceiptTimeout (p : Fin 32) (s : State) : Out := .next (s.announceTimeout p)

/-! ### Unicast negotiation (R284 to R287) -/

/-- Rate of a code in 1/16 message/s (R286): 2^(-log) messages/s, twice for Sync on a two-step port. -/
def rate16 (code : Nat) (double : Bool) : Nat := if code = 15 then 0 else 2 ^ (11 - code) * (if double then 2 else 1)

/-- The admitted rate of a port, in 1/16 message/s. -/
def State.admit16 (s : State) (p : Nat) : Nat := SMap.get 0 s.ptp.admitted p

/-- Rates of an entry. -/
def State.entryRate (s : State) (e : GrantEntry) : Nat :=
  rate16 e.sync (s.is (PTP_P_TWOSTEP e.port)) + rate16 e.ann false + rate16 e.dr false

/-- The admitted rates change with an entry (R286). -/
def State.showAdmit (s : State) (p old new : Nat) : State :=
  let a := s.admit16 p + new - old
  let s := (s.onPtp fun t => { t with admitted := SMap.set 0 t.admitted p a }).setSat (PTP_P_ADMIT p) (divRound a 16).toNat
  s.setSat PTP_ADMIT_RATE (divRound (s.ptp.admitted.foldl (fun n x => n + x.2) 0 : Nat) 16).toNat

/-- The VALID entries of the PTP range, in ascending index. -/
def State.validGrants (s : State) : List Nat :=
  ((List.range (s.get (FAB_PART_ASSOCCNT 4))).map (s.get (FAB_PART_ASSOCBASE 4) + ·)).filter fun n => (s.grantEntry n).valid

/-- A full grant resync starts (R367). -/
def State.startResync (s : State) : State :=
  let gs := s.validGrants
  (s.onLease fun l => { l with
    repl := (l.repl.filter fun x => match x with | .nts _ => true | _ => false) ++ gs.map ReplItem.full ++ [.done gs.length] }).bump
    LEASE_CNT_RESYNC 1

/-- An entry write waits for replication; more than 65,536 of them start a full resync (R367). -/
def State.replGrant (s : State) (n : Nat) : State :=
  let s := s.onLease fun l => { l with repl := l.repl ++ [.grant n] }
  if 65536 < (s.lease.repl.filter fun x => match x with | .grant _ => true | _ => false).length then
    s.startResync.event 0x580C 1 0
  else s

/-- Write a grant entry, with the rates, the count of entries and the replication to a partner (R287, R367). -/
def State.putGrant (s : State) (n : Nat) (e : GrantEntry) : State :=
  let old := s.grantEntry n
  let s := s.writeEntry n 0 (if e.valid then encodeGrant e else List.replicate 32 0)
  let s := s.showAdmit (if old.valid then old.port else e.port) (if old.valid then s.entryRate old else 0) (if e.valid then s.entryRate e else 0)
  let s := s.set PTP_UCSTAT_GRANTS (s.get PTP_UCSTAT_GRANTS + (if e.valid then 1 else 0) - (if old.valid then 1 else 0))
  if s.is SYS_MODE_PAIR && s.get LEASE_STATUS_STATE == 5 then s.replGrant n else s

/-- The code of a message type in an entry, and the entry with another. -/
def GrantEntry.code (e : GrantEntry) (t : Nat) : Nat := if t = 0 then e.sync else if t = 11 then e.ann else e.dr
def GrantEntry.setCode (e : GrantEntry) (t c : Nat) : GrantEntry :=
  if t = 0 then { e with sync := c } else if t = 11 then { e with ann := c } else { e with dr := c }

/-- The GRANT TLV (R284). -/
def grantTlv (t log dur : Nat) : List Byte :=
  beBytes 2 5 ++ beBytes 2 8 ++ beBytes 1 (t * 16) ++ beBytes 1 log ++ beBytes 4 dur ++ [0, 1]

/-- A REQUEST_UNICAST_TRANSMISSION (R286): the state and the GRANT that answers it. -/
def State.unicastRequest (s : State) (r : Req) (m : PtpMsg) (t log dur : Nat) (ecc : Ecc) : State × List Byte :=
  let p := r.port
  let a := senderAddr r
  let pid := beBytes 10 m.src
  let l := toSigned 8 log
  let deny (s : State) (reason : Nat) := ((s.bump PTP_CNT_GRANT_DENY 1).noteSec 0x4202 reason, grantTlv t log 0)
  let found := s.findGrant p a.1 a.2 pid
  let free := (bucketOf p a.2 pid).find? fun n => !(s.grantEntry n).valid
  let pfx := if a.1 = 2 then s.prefixOf a.2 else some 0
  if s.get (PTP_P_STATE p) ≠ 1 ∨ !s.is (PTP_P_UNICAST p) then deny s 1
  else if t ≠ 0 ∧ t ≠ 11 ∧ t ≠ 9 then deny s 2
  else if l < (if t = 11 then -3 else -7) ∨ 4 < l then deny s 3
  else match found.orElse fun _ => free with
  | none => deny s 4
  | some n =>
    let old := s.grantEntry n
    -- the message types of a lapsed entry are no longer granted
    let live := found.isSome && notExpired old.expiry (instSec r.stamp)
    let e := if live then old else {}
    let code := (l + 7).toNat
    let two := t = 0 && s.is (PTP_P_TWOSTEP p)
    let up := rate16 code two
    let down := if live then rate16 (e.code t) two else if old.valid then s.entryRate old else 0
    let total := s.ptp.admitted.foldl (fun n x => n + x.2) 0
    if s.get PTP_BUDGET_RATE * 16 < total + up - down ∨ s.get (PTP_P_BUDGET p) * 16 < s.admit16 p + up - down then deny s 5
    else match pfx with
    | none => deny s 6
    | some i =>
      let x := s.eccEntry n ecc
      if !x.2 ∨ !s.owns 4 n then deny x.1 7
      else
        let s := x.1
        let d := min (max dur (s.get PTP_UCCFG_DURMIN)) (s.get PTP_UCCFG_DURMAX)
        let e' := { e.setCode t code with
          valid := true, af := a.1, port := p, vlan := r.vlan, minor := m.minor, pfx := i
          expiry := (instSec r.stamp + d) % 2 ^ 32, portId := pid, dmac := (parseL2 r.bytes).sa, addr := storedAddr a.1 a.2 }
        let s := s.putGrant n e'
        let s := if e.code t = 15 then s.onPtp fun y => { y with grantAt := SMap.set 0 y.grantAt (4 * n + t % 4) (s.now / ns1 + 1000000) }
          else s
        (s.bump PTP_CNT_GRANT_OK 1, grantTlv t log d)

/-- A CANCEL_UNICAST_TRANSMISSION (R284). -/
def State.unicastCancel (s : State) (r : Req) (m : PtpMsg) (t : Nat) : State × List Byte :=
  let a := senderAddr r
  let s := s.bump PTP_CNT_CANCEL_RX 1
  let ack := beBytes 2 7 ++ beBytes 2 2 ++ beBytes 1 (t * 16) ++ [0]
  match s.findGrant r.port a.1 a.2 (beBytes 10 m.src) with
  | some n => if t = 0 ∨ t = 11 ∨ t = 9 then (s.putGrant n ((s.grantEntry n).setCode t 15), ack) else (s, ack)
  | none => (s, ack)

/-- A master grants the PTPIN client a duration (R294): the least of its three grants counts. -/
def State.grantedTo (s : State) (dur : Nat) : State :=
  if dur = 0 then s else s.onPtp fun t => { t with grantDur := min t.grantDur dur }

/-- The TLVs of a Signaling message in order, with the answers to them (R284). -/
def State.tlvs (r : Req) (m : PtpMsg) (ecc : Ecc) : Nat → State → List Byte → State × List Byte
  | 0, s, _ => (s, [])
  | k + 1, s, b =>
    if b.length < 4 then (s, [])
    else
      let t := beNat (b.take 2)
      let n := beNat (slice b 2 2)
      if b.length < 4 + n then (s, [])
      else
        let mt := beNat (slice b 4 1) / 16
        let x := if s.clientMsg r.port m.domain then
            ((if t = 5 ∧ 8 ≤ n then s.grantedTo (beNat (slice b 6 4)) else s), [])
          else if t = 4 ∧ 6 ≤ n then s.unicastRequest r m mt (beNat (slice b 5 1)) (beNat (slice b 6 4)) ecc
          else if t = 6 ∧ 2 ≤ n then s.unicastCancel r m mt else (s, [])
        let y := State.tlvs r m ecc k x.1 (b.drop (4 + n))
        (y.1, x.2 ++ y.2)

/-- Signaling (R276, R284). -/
def State.signaling (s : State) (g : Eng) (ecc : Ecc) : State :=
  s.ptpRx g [12] fun s r m =>
    let target := slice m.body 34 10
    if (target ≠ List.replicate 10 0xFF ∧ target ≠ s.portId r.port) ∨ (!s.clientMsg r.port m.domain ∧ s.get (PTP_P_STATE r.port) = 0) then
      s.dropReq g
    else
      let x := State.tlvs r m ecc 400 s (m.body.drop 44)
      let s := x.1
      if x.2 = [] then s.dropReq g
      else
        let d := s.senderDest r
        let msg := s.ptpMessage 12 m.minor m.domain (flagHead d false) 0 r.port s.ptp.sigSeq 0x7F (beBytes 10 m.src ++ x.2)
        let s := s.onPtp fun t => { t with sigSeq := (t.sigSeq + 1) % 65536 }
        ((s.sendPtp g r r.port d false msg 0 0 false 0).bump PTP_CNT_SIG_TX 1).done g

/-- An entry whose three types have all lapsed or been cancelled is zeroed (R287). -/
def State.grantExpire (s : State) (n : Nat) : State :=
  let e := s.grantEntry n
  if e.valid && (!notExpired e.expiry (instSec s.now) || (e.sync == 15 && e.ann == 15 && e.dr == 15)) then s.putGrant n {} else s

def execSignalingRx (g : Eng) (ecc : Ecc) (s : State) : Out := .next (s.signaling g ecc)
def execGrantExpire (n : Fin 1048576) (s : State) : Out := .next (s.grantExpire n)

/-! ### Transmission calendar (R289 to R291) -/

/-- Interval and phase of a calendar message in ns: of grant `n` or multicast port `n` (R289). -/
def calPhase (mcast : Bool) (n : Nat) (log : Int) : Nat := if mcast then n * interval log / 32 else n * interval log / 2 ^ 20

/-- The logarithm in force, if the message is granted or configured. -/
def State.calLog (s : State) (mcast : Bool) (n : Nat) (ann : Bool) : Option Int :=
  if mcast then
    if s.is (PTP_P_MCAST n) then some (s.geti (if ann then PTP_P_LOGANN n else PTP_P_LOGSYNC n)) else none
  else
    let e := s.grantEntry n
    let c := if ann then e.ann else e.sync
    if e.valid ∧ c ≠ 15 then some ((c : Int) - 7) else none

/-- The port of a calendar message. -/
def State.calPort (s : State) (mcast : Bool) (n : Nat) : Nat := if mcast then n % 32 else (s.grantEntry n).port

/-- The key of the last due instant issued. -/
def calKey (mcast : Bool) (n : Nat) (ann : Bool) : Nat := (if mcast then 2 ^ 21 else 0) + 2 * n + (if ann then 1 else 0)

/-- The tile whose calendar holds a message (R290). -/
def calTile (mcast : Bool) (n : Nat) : Nat := if mcast then n / 8 else n / 262144

/-- A calendar walks in ascending t, and on ties in ascending index (R290). -/
def State.inOrder (s : State) (mcast : Bool) (n t : Nat) : Bool :=
  let w := SMap.get (0, 0) s.ptp.walked (calTile mcast n)
  decide (w.1 < t) || (w.1 == t && decide (w.2 ≤ n))

/-- The calendar issues a request for the due instant `t`, in ns (R289, R290), once TB has reached t less the lead. -/
def State.calIssue (s : State) (mcast : Bool) (n : Nat) (ann : Bool) (t : Nat) : State :=
  match s.reach ((t - s.get PTP_CALCFG_CALLEAD * 1000) * ns1) with
  | none => s
  | some s =>
  let p := s.calPort mcast n
  match s.calLog mcast n ann with
  | none => s
  | some log =>
    let i := interval log
    let key := calKey mcast n ann
    let e := s.grantEntry n
    if (mcast ∧ (32 ≤ n ∨ s.get (PTP_P_STATE p) ≠ 1)) ∨ t < calPhase mcast n log ∨ (t - calPhase mcast n log) % i ≠ 0 ∨
        !s.inOrder mcast n t ∨ t ≤ SMap.get 0 s.ptp.issued key ∨
        (!mcast ∧ (!notExpired e.expiry (t / 10 ^ 9) ∨ t < SMap.get 0 s.ptp.grantAt (4 * n + if ann then 3 else 0))) then s
    else
      let r : Req := { part := 4, src := 1, port := p, bytes := [], stamp := t * ns1, index := n, kind := (if mcast then 1 else 0) + if ann then 2 else 0 }
      let s := s.onPtp fun y => { y with issued := SMap.set 0 y.issued key t, walked := SMap.set (0, 0) y.walked (calTile mcast n) (t, n) }
      s.onFab fun f => { f with intern := SMap.set [] f.intern 17 (SMap.get [] f.intern 17 ++ [r]) }

/-- The second octet of the flagField of Announce (R283), for a due second. -/
def State.annFlags (s : State) (sec : Nat) : Nat :=
  let near := s.is TB_UTC_PENDING && decide (s.leapTime ≤ sec + s.get PTP_LEAPWIN_SEC)
  let trace := s.is SEL_TQR_TRACE
  let freq := trace || (s.get SEL_TQR_CLASS == 1 && s.get SEL_STATUS_ACTIVE < 20 && s.is (SEL_SRC_TRACE (s.get SEL_STATUS_ACTIVE)))
  (if near && s.get TB_UTC_LEAP == 1 then 1 else 0) + (if near && s.get TB_UTC_LEAP == 2 then 2 else 0) +
  (if s.is TB_UTC_SOURCE || s.is PTP_CFG_UTCVALID then 4 else 0) + 8 + (if trace then 16 else 0) + (if freq then 32 else 0) +
  (if s.uncertain then 64 else 0)

/-- timeSource of a class (R283). -/
def timeSource : Nat → Nat
  | 0 => 0x20
  | 1 => 0x10
  | 2 => 0x40
  | 3 => 0x90
  | 4 => 0x39
  | _ => 0xA0

/-- The organization extension TLV of profile 3 (R283). -/
def State.c37Tlv (s : State) : List Byte :=
  if s.get PTP_CFG_PROFILE = 3 then
    beBytes 2 3 ++ beBytes 2 18 ++ beBytes 3 0x1C129D ++ beBytes 3 2 ++ beBytes 2 (s.get PTP_C37_GMID) ++ beBytes 4 0 ++
      beBytes 4 (s.get SEL_TQR_TEB) ++ beBytes 2 0
  else []

/-- The body of Announce (R283). -/
def State.annBody (s : State) (due : Nat) : List Byte :=
  let g := s.ownGm
  ptpStamp due ++ beBytes 2 (s.get TB_UTC_OFFSET) ++ [0] ++ beBytes 1 g.prio1 ++ beBytes 1 g.cls ++ beBytes 1 g.acc ++ beBytes 2 g.oslv ++
  beBytes 1 g.prio2 ++ beBytes 8 g.id ++ beBytes 2 0 ++ beBytes 1 (timeSource (s.get SEL_TQR_CLASS)) ++ s.c37Tlv

/-- The routine of a calendar request (R278, R291). -/
def State.calMessage (s : State) (g : Eng) : State :=
  s.routine g 4 fun r =>
    if r.src ≠ 1 then s
    else
      let mcast := decide (r.kind % 2 = 1)
      let ann := decide (2 ≤ r.kind)
      let n := r.index
      let p := r.port
      let e := s.grantEntry n
      match s.calLog mcast n ann with
      | none => (s.bump PTP_CNT_CALNOTMASTER 1).dropReq g
      | some log =>
        if s.get (PTP_P_STATE p) ≠ 1 ∨ (!mcast ∧ !notExpired e.expiry (instSec r.stamp)) then (s.bump PTP_CNT_CALNOTMASTER 1).dropReq g
        else
          let d := if mcast then s.mcastDest p false else s.grantDest e
          let minor := if mcast then s.get PTP_CFG_MINOR else e.minor
          let dom := s.get PTP_CFG_DOMAIN
          let seq := (r.stamp / ns1 - calPhase mcast n log) / interval log % 65536
          let lg := ofSigned 8 log
          if ann then
            let msg := s.ptpMessage 11 minor dom (flagHead d false + s.annFlags (instSec r.stamp)) 0 p seq lg (s.annBody r.stamp)
            ((s.sendPtp g r p d false msg 0 0 false 0).bump PTP_CNT_ANN_TX 1).done g
          else if s.is (PTP_P_TWOSTEP p) then
            let l := s.takeLink p
            match l.2 with
            | none => l.1.dropReq g
            | some i =>
              let s := l.1
              let a := s.ptpMessage 0 minor dom (flagHead d true) 0 p seq lg (ptpStamp r.stamp)
              let b := s.ptpMessage 8 minor dom (flagHead d false) 0 p seq lg (beBytes 10 0)
              let s := (s.sendPtp g r p d true a 0 i true 0).bump PTP_CNT_SYNC_TX 1
              ((s.sendPtp g r p d false b 4 i false 0).bump PTP_CNT_FU_TX 1).done g
          else
            let a := s.ptpMessage 0 minor dom (flagHead d false) 0 p seq lg (beBytes 10 0)
            ((s.sendPtp g r p d true a 2 0 false 0).bump PTP_CNT_SYNC_TX 1).done g

/-- A calendar launch is due on a port within `w` ns (R180, R292): of the multicast messages and of the grants whose
entries are listed. -/
def State.calSoon (s : State) (p w : Nat) : Bool :=
  let now := s.now / ns1
  let due (mcast : Bool) (n : Nat) (ann : Bool) : Bool :=
    match s.calLog mcast n ann with
    | none => false
    | some log =>
      let i := interval log
      decide ((i - (now + i - calPhase mcast n log % i) % i) % i ≤ w)
  (s.get (PTP_P_STATE p) == 1 && (due true p false || due true p true)) ||
    s.fab.eseq.any fun x => (s.grantEntry x.1).valid && (s.grantEntry x.1).port == p && (due false x.1 false || due false x.1 true)

/-- The transmit path enters LPI (R180). -/
def State.lpiEnter (s : State) (p : Nat) : State := s.lpiEnterIf p fun t => t.calSoon p (2 * t.get (MAC_LPISTAT_TW p))

def execCalendarIssue (mcast : Bool) (n : Fin 1048576) (ann : Bool) (t : Nat) (s : State) : Out := .next (s.calIssue mcast n ann t)
def execCalendarMessage (g : Eng) (s : State) : Out := .next (s.calMessage g)
def execLpiEnter (p : Fin 32) (s : State) : Out := .next (s.lpiEnter p)

/-! ### PTPIN client (R294, R295) -/

/-- The delay of the exchange with the smallest round trip. -/
def bestDelay : List (Int × Int) → Option Int
  | [] => none
  | x :: t => some (t.foldl (fun b y => if y.1 < b.1 then y else b) x).2

/-- A Sync's terms, t2 - t1 - c_s, give a measurement of source 17 once a delay is known (R295). -/
def State.ptpinMeasure (s : State) (t2 : Nat) (term : Int) : State :=
  let s := s.onPtp fun t => { t with syncTerm := some term }
  match bestDelay s.ptp.exchanges with
  | none => s
  | some d =>
    ((s.onPtp fun t => { t with lastMeas := some s.tb.ticks }).measure 17 t2 (term - d - s.geti PTPIN_ASYM)).ptpinQ1

/-- Sync on the PTPIN port (R295). -/
def State.syncRx (s : State) (g : Eng) : State :=
  s.ptpRx g [0] fun s r m =>
    let s := if s.clientMsg r.port m.domain then
        let s := s.bump PTP_CNT_PTPIN_SYNC_RX 1
        if s.ptp.master = some m.src then
          if m.flags / 512 % 2 = 1 then s.onPtp fun t => { t with syncWait := some (m.seq, r.stamp, m.corr) }
          else s.ptpinMeasure r.stamp ((r.stamp : Int) - ptpInstant (slice m.body 34 10) - m.corr)
        else s
      else s
    s.dropReq g

/-- Follow_Up on the PTPIN port (R295). -/
def State.followUpRx (s : State) (g : Eng) : State :=
  s.ptpRx g [8] fun s r m =>
    let s := match s.ptp.syncWait with
      | some (seq, t2, c) =>
        if s.clientMsg r.port m.domain ∧ s.ptp.master = some m.src ∧ seq = m.seq then
          (s.onPtp fun t => { t with syncWait := none }).ptpinMeasure t2 ((t2 : Int) - ptpInstant (slice m.body 34 10) - (c + m.corr))
        else s
      | none => s
    s.dropReq g

/-- Delay_Resp on the PTPIN port completes an exchange (R295). -/
def State.delayRespRx (s : State) (g : Eng) : State :=
  s.ptpRx g [9] fun s r m =>
    let s := match s.ptp.dreqAt, s.ptp.syncTerm with
      | some t3, some term =>
        if s.clientMsg r.port m.domain ∧ s.ptp.master = some m.src ∧ m.seq = s.ptp.dreqSeq ∧ slice m.body 44 10 = s.portId r.port then
          let rtt := term + ((ptpInstant (slice m.body 34 10) : Int) - t3 - m.corr)
          let s := s.onPtp fun t => { t with dreqAt := none, exchanges := ((rtt, divRound rtt 2) :: t.exchanges).take 16,
                                             logDreq := if m.log = 0x7F then t.logDreq else logOf m.log }
          s.seti PTPIN_MEANDLY ((bestDelay s.ptp.exchanges).getD 0)
        else s
      | _, _ => s
    s.dropReq g

/-- The MAC address of the PTPIN master: the one its messages came from; until one has come the spec does not say
(DESIGN CHOICE notes/assumptions/16.md). -/
def State.masterMac (s : State) : Nat × State :=
  match s.ptp.foreign.find? (·.client) with
  | some f => (f.mac, s)
  | none => (s.draw % 2 ^ 48, s.drawn)

/-- Where the PTPIN client's messages go (R294). -/
def State.ptpinDest (s : State) : PtpDest × State :=
  let p := s.get PTPIN_PORT
  if !s.is PTPIN_MODE then (s.mcastDest p false, s)
  else
    let m := s.masterMac
    let vlan := s.get (PTP_P_VLAN p)
    match s.get (PTP_P_TRANSPORT p) with
    | 0 => ({ mac := m.1, own := s.macAddr p, ip := none, vlan := vlan, mcast := false }, m.2)
    | 1 => let o := s.ownServer p vlan 1
           ({ mac := m.1, own := o.2, ip := some (o.1, beBytes 4 (s.get (PTPIN_MADDR 0)), 64), vlan := vlan, mcast := false }, m.2)
    | _ => let o := s.ownServer p vlan 2
           ({ mac := m.1, own := o.2, ip := some (o.1, (List.range 4).flatMap fun i => beBytes 4 (s.get (PTPIN_MADDR i)), 64), vlan := vlan,
              mcast := false }, m.2)

/-- The PTPIN client sends a Delay_Req as a reserved launch (R295), every 2^max(LOGDREQ, the master's logMinDelayReqInterval) s. -/
def State.ptpinSend (s : State) (phase : Nat) : State :=
  match s.reachTick (s.ptp.dreqTick.elim 0 (· + interval (max (s.geti PTPIN_LOGDREQ) s.ptp.logDreq))) with
  | none => s
  | some s =>
  if !s.is PTPIN_EN || s.ptp.master.isNone || !s.portUp (s.get PTPIN_PORT) then s
  else
    let p := s.get PTPIN_PORT
    let x := s.ptpinDest
    let s := x.2
    let seq := (s.ptp.dreqSeq + 1) % 65536
    let build (t : Nat) := s.ptpMessage 1 (s.get PTP_CFG_MINOR) (s.get PTPIN_DOMAIN) (flagHead x.1 false) (instSub t) p seq 0x7F (ptpStamp t)
    let r := s.sendReserved p x.1 phase build
    (r.1.onPtp fun t => { t with dreqSeq := seq, dreqAt := some r.2, dreqTick := some s.tb.ticks }).bump PTP_CNT_PTPIN_DREQ_TX 1

/-- The client requests its three grants, and renews them at half their duration (R294). The Announce interval it asks for is not stated
(DESIGN CHOICE notes/assumptions/16.md). -/
def State.ptpinRenew (s : State) : State :=
  match s.reachTick (s.ptp.renewAt.elim 0 (500000000 * s.ptp.grantDur + ·)) with
  | none => s
  | some s =>
  if !s.is PTPIN_EN || !s.is PTPIN_MODE || !s.portUp (s.get PTPIN_PORT) then s
  else
    let p := s.get PTPIN_PORT
    let x := s.ptpinDest
    let log := ofSigned 8 ((x.2.draw % 8 : Nat) - 3)
    let s := x.2.drawn
    let tlv (t l : Nat) := beBytes 2 4 ++ beBytes 2 6 ++ beBytes 1 (t * 16) ++ beBytes 1 l ++ beBytes 4 300
    let msg := s.ptpMessage 12 (s.get PTP_CFG_MINOR) (s.get PTPIN_DOMAIN) (flagHead x.1 false) 0 p s.ptp.sigSeq 0x7F
      (List.replicate 10 0xFF ++ tlv 11 log ++ tlv 0 (ofSigned 8 (s.geti PTPIN_LOGSYNC)) ++ tlv 9 (ofSigned 8 (s.geti PTPIN_LOGDREQ)))
    let s := s.onPtp fun t => { t with sigSeq := (t.sigSeq + 1) % 65536, renewAt := some s.tb.ticks, grantDur := 300 }
    (s.originate p 1 (s.ptpFrame p x.1 false msg).1 {} none).bump PTP_CNT_SIG_TX 1

def execSyncRx (g : Eng) (s : State) : Out := .next (s.syncRx g)
def execFollowUpRx (g : Eng) (s : State) : Out := .next (s.followUpRx g)
def execDelayRespRx (g : Eng) (s : State) : Out := .next (s.delayRespRx g)
def execPtpinDelayReqSend (phase : Nat) (s : State) : Out := .next (s.ptpinSend phase)
def execPtpinGrantRenew (s : State) : Out := .next s.ptpinRenew

end Sys2Proof.Machine
end

