-- ==== Sys2Proof/Machine/Bist.lean ====
section
/-! DEFINITION. Campion (spec/16_campion_self_test.md): starting, taking a unit out, ending and cutting short; with the
roles of Teasel engines and control processors that a test takes them from. -/
namespace Sys2Proof.Machine

/-! ### Roles of Teasel engines (R318, R340) -/

/-- The Teasel partition of an engine (R318). -/
def State.tslPart (s : State) (e : Nat) : Option Nat :=
  (List.range 4).find? fun k => s.is (TSL_PART_EN k) && s.bit (TSL_PART_ENGMASK k) e

/-- The engine carries work: in a partition, neither retired nor under test. -/
def State.tslIn (s : State) (e : Nat) : Bool :=
  (s.tslPart e).isSome && !s.bit TSL_STATUS_RETIRED e && s.get (TSL_E_STATE e) ≠ 6

/-- The engines in service of a Teasel partition. -/
def State.tslServing (s : State) (k : Nat) : List Nat := (List.range 16).filter fun e => s.tslIn e && s.tslPart e == some k

/-- TSL_QSTAT and the partition fields follow (R343). -/
def State.showTsl (s : State) : State :=
  let s := s.forEach 4 fun s k => (s.set (TSL_QSTAT_INSERV k) (s.tslServing k).length).set (TSL_QSTAT_LEVEL k)
    (SMap.get [] s.tsl.queues k).length
  s.forEach 16 fun s e => s.set (TSL_E_PART e) ((s.tslPart e).getD 0)

/-- Taking engine `e` out would leave a partition that serves a user with no engine in service (R340, R434). -/
def State.tslSole (s : State) (e : Nat) : Bool :=
  match s.tslPart e with
  | none => false
  | some k => s.get (TSL_PART_USERS k) ≠ 0 && s.tslServing k == [e]

/-- The state an engine rests in: under test, retired, or idle. -/
def State.tslRest (s : State) (e : Nat) : Nat :=
  if s.underTest (32 + e) ∧ !s.bit TSL_STATUS_RETIRED e then 6 else if s.bit TSL_STATUS_RETIRED e then 5 else 0

/-- The engine serves no job. -/
def State.tslIdle (s : State) (e : Nat) : Bool := !s.bit TSL_STATUS_BUSY e

/-- An idle engine enters its resting state. -/
def State.tslSettle (s : State) (e : Nat) : State :=
  if s.tslIdle e then (s.set (TSL_E_STATE e) (s.tslRest e)).showTsl else s

/-- An engine retired by command (R340). -/
def State.tslRetireNow (s : State) (e : Nat) : State :=
  (((s.setBit TSL_STATUS_RETIRED e true).setBit TSL_RETCMD_RETCMD e true).event 0x500A 0 (e + 2 ^ 8)).tslSettle e

/-! ### Control processors (R339, R434) -/

/-- CP4 is the spare: it carries no other processor's tasks. -/
def State.cp4Spare (s : State) : Bool := s.pw.cpFailed.all (fun c => c == 4) && s.pw.cp4Carries.isNone

/-- The completion records of processor `c`'s jobs go to CP4. -/
def State.ringsTo4 (s : State) (c : Nat) : State :=
  let f (j : TslJob) : TslJob := if j.ring = c then { j with ring := 4 } else j
  s.onTsl fun t => { t with
    queues := t.queues.map fun q => (q.1, q.2.map f)
    engs := t.engs.map fun x => (x.1, { x.2 with run := x.2.run.map fun r => { r with job := f r.job } }) }

/-! ### Starting (R432, R433) -/

/-- A core or chiplet rail is below its warning level (R433, R460). -/
def State.railLow (s : State) : Bool := s.pw.dips.any fun d => d.rail == 0 || d.rail == 1 || d.rail == 4 || d.rail == 5

/-- R432. -/
def State.gatedAllowed (s : State) : Bool :=
  match s.get SYS_LIFECYCLE_STATE with
  | 1 => false
  | 2 => s.mode == .maintenance && s.is CFG_SERVE_MAINTAUTH
  | _ => s.mode ≠ .off && s.mode ≠ .backup && s.mode ≠ .boot

def State.openAllowed (s : State) (u : Nat) : Bool :=
  s.mode ≠ .off && s.mode ≠ .backup && (96 ≤ u || s.is TDC_STATUS_CALDONE)

/-- The unit has a role that a test takes it from (R434). -/
def State.hasRole (s : State) (u : Nat) : Bool :=
  s.mode ≠ .safe &&
  (match unitType u with
   | some 0 => s.get (FAB_CL_STATE u) == 0
   | some 1 => s.tslIn (u - 32)
   | some 3 => !s.pw.cpFailed.contains (u - 49) && !(u == 53 && s.cp4Spare)
   | some 5 => s.is (MAC_QMODE_EN (u - 58))
   | _ => false)

/-- Taking the unit out would leave its partition or role with no unit (R434); CP4 while it carries a failed
processor's tasks has no substitute. -/
def State.bistSole (s : State) (u : Nat) : Bool :=
  s.hasRole u &&
  (match unitType u with
   | some 0 => !s.notSole u
   | some 1 => s.tslSole (u - 32)
   | some 3 => !s.cp4Spare || s.pw.cpFailed.contains 4
   | some 5 => !(List.range 32).any fun p => p / 8 ≠ u - 58 && s.portUp p
   | _ => false)

/-- The first reason to refuse a start (R433). -/
def State.bistRefuse (s : State) (path : Path) (u : Nat) (port : Option (Fin 32)) : Option Nat :=
  if (unitType u).isNone then some 1
  else if !(if unitGated u then s.gatedAllowed else s.openAllowed u) then some 2
  else if (s.bistRun (unitGated u)).isSome then some 3
  else if s.bistSole u then some 4
  else if path = .omp ∧ unitType u = some 5 ∧ port.any (fun p => p.val / 8 == u - 58) then some 5
  else if s.railLow then some 6
  else none

/-- A refused command of BIST_CTL. -/
def State.bistRefused (s : State) (u r : Nat) : State :=
  ((s.set BIST_CTL_STATUS 2).set BIST_STATUS_REFUSE r).event 0x6005 1 (u + r * 2 ^ 8)

/-- The result block at the start of a test (R435, R441). -/
def State.bistBlock (s : State) (u : Nat) : State :=
  let ty := (unitType u).getD 0
  let s := ((s.set (BIST_RESULT_RESULT u) 1).set (BIST_RESULT_CAUSE u) 0).bump (BIST_RESULT_RUNS u) 1
  let s := (s.set (BIST_RESULT_PROG u) (s.progCount ty)).set (BIST_RESULT_COUNT u) 0
  let s := (s.setb (BIST_RESULT_GOLDSRC u) (s.goldenEntry ty).isSome).set64 (BIST_RESULT_GOLD_LO u) (BIST_RESULT_GOLD_HI u)
    (if ty = 6 ∨ ty = 8 then 0 else s.goldenOf ty)
  s.bistSeq u

/-- The unit leaves its role (R434); a TDC channel's calibration run is due on its spare interpolator (R439). -/
def State.bistLeave (s : State) (u : Nat) : State :=
  match unitType u with
  | some 0 => if s.hasRole u then s.startDrain u 2 false else s
  | some 1 => s.tslSettle (u - 32)
  | some 3 =>
    if s.hasRole u then (s.onPw fun p => { p with cp4Carries := some (u - 49) }).ringsTo4 (u - 49) else s
  | some 5 => if s.hasRole u then s.forEach 8 fun s k => s.dropPort (8 * (u - 58) + k) 4 else s
  | some 6 => s.setCh (u - 64) { s.ch (u - 64) with due := true, dueIps := 1 } |>.nextRun
  | _ => s

/-- BIST_CTL with ACTION = START. -/
def State.bistStart (s : State) (path : Path) (u : Nat) (port : Option (Fin 32)) : State :=
  if !s.awake then s
  else
    let s := (s.set BIST_CTL_UNIT u).set BIST_CTL_ACTION 1
    match s.bistRefuse path u port with
    | some r => s.bistRefused u r
    | none =>
      let role := s.hasRole u
      let t := (((s.set BIST_CTL_STATUS 1).bistBlock u).setRun (unitGated u) (some { u := u, startAt := s.tb.ticks })).event 0x6001 0 u
      -- the unit leaves the role it had before the start
      if role ∨ unitType u = some 6 ∨ unitType u = some 1 then t.bistLeave u else t

/-! ### Ending (R434, R436, R437, R438) -/

/-- The unit returns to its role, or enters RETIRED when a retirement waits (R434, R438). -/
def State.bistReturn (s : State) (u : Nat) (retire : Bool) : State :=
  match unitType u with
  | some 0 =>
    -- a cluster still on its way out goes back as well
    if s.get (FAB_CL_STATE u) = 2 ∨ (s.get (FAB_CL_STATE u) = 1 ∧ (s.cluster u).drainTo = 2) then
      if retire then (s.setCluster u { s.cluster u with byCommand := true, drainTo := 3 }).clusterTo u 3
      else (s.setCluster u { s.cluster u with drainTo := 3 }).clusterTo u 0
    else s
  | some 1 => if retire ∧ !s.bit TSL_STATUS_RETIRED (u - 32) then s.tslRetireNow (u - 32) else s.tslSettle (u - 32)
  | some 3 => if s.pw.cp4Carries = some (u - 49) then s.onPw fun p => { p with cp4Carries := none } else s
  | _ => s

/-- A test is cut short and its unit returns (R437). -/
def State.bistCutReturn (s : State) (gated : Bool) (cause : Nat) : State :=
  match s.bistRun gated with
  | none => s
  | some r => (s.bistCut r.u cause).bistReturn r.u r.retire

/-- BIST_CTL with ACTION = STOP. -/
def State.bistStop (s : State) (u : Nat) : State :=
  if !s.awake then s
  else
    let s := (s.set BIST_CTL_UNIT u).set BIST_CTL_ACTION 2
    if (unitType u).isSome ∧ s.underTest u then (s.set BIST_CTL_STATUS 1).bistCutReturn (unitGated u) 1
    else s.bistRefused u 7

/-- The unit is out of its role, or is tested in place, so that its test can end: a cluster has drained, an engine's job
is over, a TDC channel's run is over. -/
def State.bistReady (s : State) (u : Nat) : Bool :=
  match unitType u with
  | some 0 => s.get (FAB_CL_STATE u) ≠ 1
  | some 1 => s.tslIdle (u - 32)
  | some 6 => !(s.ch (u - 64)).due && !(s.is TDC_STATUS_CALRUN && s.get TDC_STATUS_CALCH == u - 64)
  | _ => true

/-- The criterion of row 2 of R436 (R439): the signature, or for the vote checker those of the first and second voter,
for a replica its mismatches and its largest offset in ps. -/
def State.bistPass (s : State) (u sig0 sig1 : Nat) : Bool :=
  match unitType u with
  | some 6 => !s.bit TDC_CALFAIL_FAIL (u - 64)
  | some 7 => sig0 == s.goldenOf 7 && sig1 == s.goldenOf 7
  | some 8 => sig0 == 0 && sig1 ≤ 20
  | some ty => sig0 == s.goldenOf ty
  | none => false

/-- The signature fields of a finished test (R439). -/
def State.bistSig (s : State) (u sig0 sig1 : Nat) : Nat :=
  match unitType u with
  | some 6 => s.get (TDC_CH_INLPEAK (u - 64)) + s.get (TDC_CH_EMPTY (u - 64)) * 2 ^ 32
  | some 7 => sig1
  | some 8 => sig0 % 2 ^ 32 + sig1 * 2 ^ 32
  | _ => sig0

/-- A replica is compared for 10 s, whose end is reached (R439); what another test takes is the unit's. -/
def State.bistTime (s : State) (r : BistRun) : Option State :=
  if unitType r.u = some 8 then s.reachTick (10000000000 + r.startAt) else some s

/-- A test ends with its pattern count and the unit's signatures (R436); the largest offset of a replica is the one measured at the
seconds of the test. -/
def State.bistEnd (s : State) (gated : Bool) (count sig0 sig1 : Nat) : State :=
  match s.bistRun gated with
  | none => s
  | some r => match s.bistTime r with
  | none => s
  | some s =>
    let u := r.u
    let sig0 := sig0 % 2 ^ 64
    let sig1 := if unitType u = some 8 then r.worst else sig1 % 2 ^ 64
    if !s.bistReady u then s
    else
      let result := if count ≠ s.get (BIST_RESULT_PROG u) then 4 else if s.bistPass u sig0 sig1 then 2 else 3
      let s := if unitType u = some 7 ∧ sig0 ≠ s.goldenOf 7 then s.set64 (BIST_RESULT_GOLD_LO u) (BIST_RESULT_GOLD_HI u) sig0 else s
      (s.bistResult u result 0 count (s.bistSig u sig0 sig1)).bistReturn u r.retire

def execBistStart (path : Path) (u : Fin 128) (port : Option (Fin 32)) (s : State) : Out := .next (s.bistStart path u port)
def execBistStop (u : Fin 128) (s : State) : Out := .next (s.bistStop u)
def execBistTestEnd (gated : Bool) (count sig0 sig1 : Nat) (s : State) : Out := .next (s.bistEnd gated count sig0 sig1)

end Sys2Proof.Machine
end

