-- ==== Sys2Proof/Machine/Keys.lean ====
section
/-! DEFINITION. The key store (spec/14_boot_configuration_lifecycle.md R390 to R393): its entries and their read-back. -/
namespace Sys2Proof.Machine

/-- An entry of the key store as it stands there. -/
def State.entryAt (s : State) (i : Nat) : Option KeyEntry := SMap.get none s.boot.keys i

/-- No key is held, made or found: the tamper latch is set (R394), or the device has been returned (R389). -/
def State.keysOff (s : State) : Bool := s.is SYS_TAMPER_LATCH || s.boot.importOff

/-- An entry as a service or an engine finds it. -/
def State.keyAt (s : State) (i : Nat) : Option KeyEntry := if s.keysOff then none else s.entryAt i

/-- The digest of an entry that reads back (R391): of the public key for a private key, of the key for a secret one. -/
def keyDigest (type value : Nat) : Nat :=
  let body := if type = 1 ∨ type = 2 then beBytes 32 value else beBytes 32 (Config.publicKey (if type = 7 then 4 else type) value).toNat
  (Config.sha256 (chars "ORF-KD" ++ body)).toNat / 2 ^ 224

/-- Write an entry: type, class mask, user mask and value (R391). -/
def State.putKey (s : State) (i type cls users value : Nat) : State :=
  let s := s.onBoot fun b => { b with keys := SMap.set none b.keys i (some { type := type, cls := cls, value := value }) }
  (((s.set (SYS_KEY_TYPE i) type).set (SYS_KEY_CLASS i) cls).set (SYS_KEY_USERS i) users).set (SYS_KEY_DIGEST i)
    (keyDigest type value)

/-- Empty an entry. -/
def State.dropKey (s : State) (i : Nat) : State :=
  let s := s.onBoot fun b => { b with keys := SMap.set none b.keys i none }
  (((s.set (SYS_KEY_TYPE i) 0).set (SYS_KEY_CLASS i) 0).set (SYS_KEY_USERS i) 0).set (SYS_KEY_DIGEST i) 0

/-- The value of a key that a user finds; an entry whose check fails gives none (R393). -/
def State.keyValue (s : State) (i : Nat) : Option Nat :=
  match s.keyAt i with
  | some k => if k.corrupt then none else some k.value
  | none => none

end Sys2Proof.Machine
end

