-- ==== Sys2Proof/Machine/LeaseCore.lean ====
section
/-! DEFINITION. The lease engine's state, messages and releases (spec/13_pair_redundancy.md R348 to R363). -/
namespace Sys2Proof.Machine

/-! ### State (R345, R356, R359) -/

/-- The lease engine runs (R345). -/
def State.leaseOn (s : State) : Bool := s.leaseSt ≠ 0

/-- The TOKEN pin (R359). -/
def State.tokenHigh (s : State) : Bool := s.leaseSt == 5

/-- L and L/4 in instants' units, and G_eff. -/
def State.leaseL (s : State) : Nat := s.get LEASE_LEN_LEFF * ms1
def State.leaseQ (s : State) : Nat := s.get LEASE_LEN_LEFF * ms1 / 4
def State.leaseG (s : State) : Nat := s.get LEASE_GUARD_GEFF * ns1

/-- The lease time group and the gate condition follow (R356, R369). -/
def State.showLease (s : State) : State :=
  let n := s.get LEASE_T_SEQA + 1
  let s := s.setTs LEASE_T_EXP (if s.leaseSt = 5 then s.lease.xEff else s.lease.xLocal.getD 0)
  let s := s.setTs LEASE_T_HLAST (s.lease.hLast.getD 0)
  ((s.set LEASE_T_SEQB n).set LEASE_T_SEQA n).setb LEASE_STATUS_GATE (s.leaseSt == 5 && decide (s.now + s.leaseG < s.lease.xEff))

/-- Row 2 of R359: LISTEN with its hold-off; it is the same when LISTEN is entered from HOLD
(DEDUCED notes/assumptions/20.md). -/
def State.toListen (s : State) : State :=
  (s.onLease fun l => { l with listenEnd := s.now + 2 * s.leaseL + s.leaseG }).leaseTo 2

/-! ### Messages (R348, R350, R351, R353) -/

/-- The types of a version (R353). -/
def leaseType (ver type : Nat) : Bool :=
  (1 ≤ type && type ≤ 7) || type == 0x10 || (0x11 ≤ ver && (type == 0x21 || type == 0x22)) || (0x12 ≤ ver && type == 0x20)

/-- The body length of a type (R351). -/
def leaseBody (type : Nat) : Nat :=
  if type = 1 then 12 else if type = 2 then 16 else if type = 3 then 24 else if type = 4 then 28 else if type = 6 then 12
  else if type = 7 then 12 else if type = 0x10 then 24 else if type = 0x20 then 44 else if type = 0x21 then 36
  else if type = 0x22 then 4 else 0

/-- A full timestamp of a message (R350). -/
def instBytes (t : Nat) : List Byte := beBytes 12 (instFull t)

/-- The mode code of R21. -/
def modeCode : Mode → Nat
  | .off => 0xF | .backup => 0 | .boot => 1 | .safe => 2 | .warmup => 3 | .service => 4 | .holdover => 5 | .standby => 6
  | .maintenance => 7

/-- The header and body of a message (R350). -/
def State.leaseMsg (s : State) (type seq : Nat) (body : List Byte) : List Byte :=
  let flags := s.get LEASE_CFG_HOME + (if s.leaseSt = 5 then 2 else 0) + s.get LEASE_STATUS_ROLECONF * 4 + s.leaseSt * 16
  beBytes 1 (if type = 1 then s.get LEASE_VER_VMAX else s.get LEASE_STATUS_VER) ++ beBytes 1 type ++ beBytes 2 body.length ++
  beBytes 4 s.lease.bootId ++ beBytes 4 seq ++ beBytes 4 (s.get LEASE_PAIRID_HI_ID) ++ beBytes 4 (s.get LEASE_PAIRID_LO_ID) ++
  beBytes 1 flags ++ beBytes 1 (modeCode s.mode) ++ [0, 0] ++ instBytes s.now ++ beBytes 4 (s.get LEASE_GUARD_GEFF) ++ body

/-- The first 16 bytes of HMAC-SHA-256 under the pair key (R348). -/
def State.pairMac (s : State) (bs : List Byte) : Option (List Byte) :=
  (s.keyValue 2).map fun k => (beBytes 32 (Config.hmac256 (beBytes 32 k) bs).toNat).take 16

/-- The message as an in-band frame, forwarded by the management partition (R348). -/
def State.sendInband (s : State) (m : List Byte) : State :=
  if !s.is LEASE_CFG_INBAND then s
  else match s.pairMac m with
  | none => s
  | some t =>
    let p := s.get LEASE_NET_PORT
    s.originate p 7 (ethHeader (s.mac48 LEASE_PMAC_LO_ID LEASE_PMAC_HI_ID) (s.macAddr p) (s.vlanTags p (s.get LEASE_NET_VLAN))
      (s.get LEASE_NET_ETYPE) ++ m ++ t) {} none

/-- The message on lanes of the Adern link (R347). -/
def State.sendAdern (s : State) (lanes : Nat) (m : List Byte) : State :=
  let up := (if s.lease.lane0 then 1 else 0) + (if s.lease.lane1 then 2 else 0)
  if lanes &&& up = 0 then s else s.emit (.adern (lanes &&& up) (m ++ beBytes 4 (crc32c m)))

/-- The lane of replication traffic, and that of markers (R347). -/
def State.replLane (s : State) : Nat := if s.lease.lane1 then 2 else 1
def State.markLane (s : State) : Nat := if s.lease.lane0 then 1 else 2

/-- The counter of messages sent of a type. -/
def sentCounter (type : Nat) : Option Field :=
  if type = 3 then some LEASE_CNT_RENEW_TX else if type = 4 then some LEASE_CNT_ACK_TX else if type = 5 then some LEASE_CNT_CLAIM_TX
  else if type = 6 then some LEASE_CNT_RELEASE_TX else if type = 7 then some LEASE_CNT_NAK_TX
  else if 0x20 ≤ type then some LEASE_CNT_REPL_TX else none

/-- Send a message on every path of its type (R347, R351): only HELLO before a version is agreed. -/
def State.sendLease (s : State) (type : Nat) (body : List Byte) : State :=
  if type ≠ 1 ∧ !leaseType (s.get LEASE_STATUS_VER) type ∨ (type ≠ 1 ∧ s.get LEASE_STATUS_VER = 0) then s
  else
    let n := (s.lease.seq + 1) % 2 ^ 32
    let m := s.leaseMsg type n body
    let s := s.onLease fun l => { l with seq := n }
    let s := match sentCounter type with | some F => s.bump F 1 | none => s
    if 0x20 ≤ type then (if s.bit LEASE_STATUS_SILENT 0 then s.sendInband m else s.sendAdern s.replLane m)
    else if type = 0x10 then s.sendAdern s.markLane m
    else (s.sendAdern 3 m).sendInband m

/-- HELLO (R351). -/
def State.sendHello (s : State) : State :=
  s.sendLease 1 (beBytes 1 (s.get LEASE_VER_VMIN) ++ beBytes 1 (s.get LEASE_VER_VMAX) ++ [0x96, 0x20] ++ beBytes 1 (s.get SYS_ID_STEP) ++
    [0] ++ beBytes 2 (s.get LEASE_CFG_LEN) ++ beBytes 4 (s.get LEASE_GUARDCFG_GIMG))

/-! ### Releases (R359, R361) -/

/-- The holder releases by a row of R359, but for row 14 of R24: state, gate, RELEASE, event. -/
def State.leaseRelease (s : State) (row tRel : Nat) : State :=
  let s := s.onLease fun l => { l with
    lastRel := some tRel, relLeft := 2, relAt := s.tb.ticks + s.get LEASE_LEN_LEFF * 250000, chosen := none, relLocal := none
    announce := 0 }
  let s := if row = 9 ∨ s.mode = .warmup ∨ s.mode = .maintenance then s.leaseTo 1 else s.toListen
  let s := s.updateGates.event 0x5803 0 row
  (s.sendLease 6 (instBytes tRel)).showLease

/-- What a mode just entered does to the lease state (R359, rows 2, 9 and 11). -/
def State.leaseMode (s : State) : State :=
  let st := s.leaseSt
  if st = 5 then (if s.modeAnswers then s else s.leaseRelease 9 s.now)
  else if st = 2 ∨ st = 3 ∨ st = 4 then (if s.mode = .standby then s else (s.leaseTo 1).showLease)
  else if st = 1 then (if s.mode = .standby then s.toListen.showLease else s)
  else s

end Sys2Proof.Machine
end

