-- ==== Sys2Proof/Machine/Outputs.lean ====
section
/-! DEFINITION. Pulse, frame and TOD outputs (R109 to R115). -/
namespace Sys2Proof.Machine

def State.outp (s : State) (n : Nat) : Outp := SMap.get {} s.outs.outs n
def State.setOutp (s : State) (n : Nat) (x : Outp) : State := s.onOuts fun o => { o with outs := SMap.set {} o.outs n x }

/-- Outputs run: WARMUP, SERVICE, HOLDOVER, STANDBY and MAINTENANCE (R21, R113). -/
def State.outsRun (s : State) : Bool := s.warmRuns

/-- Pulses per second of an output, 0 for PP2S and PPM (R109, R110). -/
def State.outRate (s : State) (n : Nat) : Nat :=
  if s.get (OUT_KIND n) = 2 then s.get (OUT_RATE n)
  else match s.get (OUT_PULSE n) with
    | 0 => 1
    | 3 => s.get (OUT_RATE n)
    | _ => 0

/-- The seconds between edges of PP2S and PPM. -/
def State.outEvery (s : State) (n : Nat) : Nat := if s.get (OUT_PULSE n) = 1 then 2 else 60

/-- `b` is a nominal instant of output `n` (R110); for a UTC output the offset is the one in force at `b` itself. -/
def State.nominal (s : State) (n b : Nat) : Bool :=
  let r := s.outRate n
  if r = 0 then
    let sec : Int := (b / sec1 : Nat) - (if s.is (OUT_UTC n) then s.utcAt (b / sec1) else 0)
    decide (b % sec1 = 0) && decide (sec % s.outEvery n = 0)
  else
    let j := (nearestDiv (b % sec1 * r) sec1).toNat
    decide (j < r) && decide ((nearestDiv (j * sec1) r).toNat = b % sec1)

/-- The width in ns, at most the period minus 10 ns (R109). -/
def State.outWidth (s : State) (n : Nat) : Nat :=
  let r := s.outRate n
  let per := if r = 0 then s.outEvery n * 1000000000 else 1000000000 / r
  min (s.get (OUT_WIDTH n)) (per - 10)

/-- t_k of R110, in 2^-16 ns; DLY in ps is rounded to that unit. -/
def State.edgeAt (s : State) (n b : Nat) : Int :=
  let o := s.outp n
  (b : Int) + o.ofs * ns1 + nearestDiv (o.dly * 65536) 1000 + s.misalign n

/-- The state in which the edge of nominal instant `b` is due: TB is let run to t_k as the misalignment then stands; none when a
second boundary comes first. -/
def State.reachEdge : Nat → State → Nat → Nat → Option State
  | 0, s, _, _ => some s
  | f + 1, s, n, b =>
    if s.edgeAt n b ≤ (s.now : Int) then some s
    else match s.reach (s.edgeAt n b).toNat with
      | some s => State.reachEdge f s n b
      | none => none

/-- The polarity of an output's leading edge (OUT_CFG.POL). -/
def State.leadHigh (s : State) (n : Nat) : Bool := !s.is (OUT_POL n)

/-- The edge of nominal instant `b` is due now (R110, R111, R113): it is placed at t_k, or omitted. The message of a TOD output
follows it by 10 ms (R114). -/
def State.placeEdge (s : State) (n b : Nat) : State :=
  let o := s.outp n
  let t := s.edgeAt n b
  if o.from_.all (fun f => decide (t < f)) ∨ t < o.ofsFrom then s
  else if o.lastStart.any fun l => decide (t < (l + (s.outWidth n + 10) * ns1 : Nat)) then
    ((s.setOutp n { o with lastB := some b, msg := none }).bump (OUT_OMIT n) 1).event 0x0603 1 n
  else
    let late := (s.now - t.toNat) / ns1
    (s.setOutp n { o with lastB := some b, lastStart := some t.toNat, msg := some (b, s.tb.ticks - late + 10000000), pulses := o.pulses + 1 }).emit
      (.edge n t.toNat (s.leadHigh n) (s.outWidth n))

/-- The edge of nominal instant `b` of a pulse or frame output; each is emitted at most once (R110). -/
def State.pulseEdge (s : State) (n b : Nat) : State :=
  if !s.nominal n b || (s.outp n).lastB.any (fun l => decide (b ≤ l)) then s
  else match State.reachEdge 4 s n b with
  | some s => s.placeEdge n b
  | none => s

/-! ### Clock outputs (R109, R112) -/

/-- A clock output's frequency in 2^-16 Hz, 1 Hz to 1.0 GHz. -/
def State.clockFreq (s : State) (n : Nat) : Nat := s.get64 (OUT_FREQ_LO n) (OUT_FREQ_HI n)

/-- A clock output of a whole number of hertz from a LOCKED DPLL that tracks TB: its edges stand on TB (R112). -/
def State.clockOnTb (s : State) (n : Nat) : Bool :=
  let d := s.get (OUT_DPLL n)
  s.get (DPLL_INPUT d) == 16 && s.get (DPLL_STATE d) == 2 && s.clockFreq n % 65536 == 0 && decide (0 < s.clockFreq n)

/-- `b` is an edge instant of a clock on TB: a second boundary or a whole number of its periods after one. -/
def State.clockNominal (s : State) (n b : Nat) : Bool :=
  let f := s.clockFreq n / 65536
  let j := (nearestDiv (b % sec1 * f) sec1).toNat
  decide (j < f) && decide ((nearestDiv (j * sec1) f).toNat = b % sec1)

/-- A rising edge of a clock output at `b`, half a period wide. -/
def State.putClock (s : State) (n b : Nat) : State :=
  (s.setOutp n { s.outp n with lastStart := some b, lastB := some b }).emit
    (.edge n b (s.leadHigh n) (500000000 * 65536 / max 1 (s.clockFreq n)))

/-- A rising edge of a clock output. On TB it is due at `b` alone; from another input the DPLL's phase places it, so the row brings
its instant (DESIGN CHOICE notes/assumptions/51.md). No edge comes twice. -/
def State.clockEdge (s : State) (n b : Nat) : State :=
  if (s.outp n).lastStart.any (fun l => decide (b ≤ l)) || (s.clockOnTb n && !s.clockNominal n b) then s
  else match s.reach b with
  | some s => s.putClock n b
  | none => s

/-- At a TB second boundary every clock output on TB has a rising edge (R112). -/
def State.clockBoundary (s : State) : State :=
  if s.outsRun then
    s.forEach 16 fun s n => if s.is (OUT_EN n) && !s.pulsed n && s.clockOnTb n then s.putClock n (instSec s.now * sec1) else s
  else s

/-- An output's edge (R110, R112). -/
def State.outEdge (s : State) (n b : Nat) : State :=
  if !s.outsRun || !s.is (OUT_EN n) then s
  else if s.pulsed n then s.pulseEdge n b else s.clockEdge n b

def execOutputEdge (n : Fin 16) (b : Nat) (s : State) : Out := .next (s.outEdge n b)

/-- OUT_ALIGN adds outputs to the pending alignment (R111). -/
def State.outAlign (s : State) (mask : Nat) : State :=
  let m := mask % 65536
  if !s.awake || m = 0 then s
  else
    let all := if s.is OUT_ALIGN_PENDING then s.get OUT_ALIGN_MASK ||| m else m
    let s := ((s.set OUT_ALIGN_MASK all).set OUT_ALIGN_PENDING 1).onOuts fun o => { o with alignAt := s.now }
    s.forEach 16 fun s n => if all.testBit n then s.set (OUT_ALIGNPEND n) 1 else s

def execOutAlign (mask : Nat) (s : State) : Out := .next (s.outAlign mask)

/-- The pending alignment at a second boundary (R111). -/
def State.alignBoundary (s : State) : State :=
  if s.is OUT_ALIGN_PENDING ∧ s.outs.alignAt + 10 * us1 ≤ s.now then
    let m := s.get OUT_ALIGN_MASK
    let s := s.forEach 16 fun s n =>
      if m.testBit n then
        let s := s.set (OUT_ALIGNPEND n) 0
        if s.pulsed n then s.setMisalign n 0 else s
      else s
    (s.set OUT_ALIGN_PENDING 0).event 0x0602 0 m
  else s

/-- Outputs at a second boundary: they start at the first one after WARMUP is entered, and offsets written since the
last one take effect (R110, R113). -/
def State.outBoundary (s : State) : State :=
  if s.outsRun then
    s.forEach 16 fun s n =>
      let o := s.outp n
      let ofs := s.geti (OUT_OFS n)
      let dly := s.geti (OUT_DLY n)
      let o := if o.from_.isNone then { o with from_ := some s.now, ofsFrom := s.now }
        else if o.ofs = ofs ∧ o.dly = dly then o else { o with ofsFrom := s.now }
      s.setOutp n { o with ofs := ofs, dly := dly }
  else s

/-- Outputs stop (R21): their drivers are off, and they start afresh later. -/
def State.stopOutputs (s : State) : State := s.onOuts fun o => { o with outs := [] }

/-! ### TOD outputs (R114, R115) -/

/-- The flags byte of a TOD message. -/
def State.todFlags (s : State) (m : Int) : Nat :=
  s.get SEL_TQR_CLASS + s.get SEL_TQR_TRACE * 8 + s.get SEL_TQR_LEAPPEND * 16 +
    (if s.is SEL_TQR_LEAPPEND ∧ s.get TB_UTC_LEAP = 2 then 32 else 0) + (if m ≠ 0 then 64 else 0) + s.get TB_STATUS_WARM * 128

/-- The binary message (R114). -/
def State.todBinary (s : State) (sec : Nat) (m : Int) (seq : Nat) : List Byte :=
  let body := [(0xA5 : Byte), 0x5A, 0x01, BitVec.ofNat 8 (s.todFlags m)] ++ beBytes 6 sec ++ beBytes 2 (s.get TB_UTC_OFFSET) ++
    beBytes 4 (s.get SEL_TQR_TEB) ++ beBytes 4 (s.get SEL_TQR_FEB) ++ beBytes 4 (s.get SEL_TQR_HOSEC) ++
    beBytes 4 (ofSigned 32 (satSigned 32 (divRound m 65536))) ++ beBytes 2 seq
  body ++ beBytes 2 (crc16 body)

/-- The ASCII message (R115). -/
def State.todAscii (s : State) (sec : Nat) (m : Int) (seq : Nat) : List Byte :=
  let c : List Byte := [44]
  let body := chars "ORTOD," ++ decDigits 15 sec ++ c ++ signDigits 3 (s.geti TB_UTC_OFFSET) ++ c ++
    decDigits 1 (s.get SEL_TQR_CLASS) ++ c ++ decDigits 10 (s.get SEL_TQR_TEB) ++ c ++ decDigits 10 (s.get SEL_TQR_FEB) ++ c ++
    decDigits 10 (s.get SEL_TQR_HOSEC) ++ c ++ hex2 (s.todFlags m) ++ c ++
    signDigits 10 (satSigned 32 (divRound m 65536)) ++ c ++ decDigits 5 seq
  (36 : Byte) :: body ++ [42] ++ hex2 (xorBytes body) ++ [13, 10]

/-- A TOD output's pulse is a 1PPS output (R114). -/
def State.todOk (s : State) (k : Nat) : Bool := s.get (OUT_KIND (s.get (TOD_PULSE k))) == 1 && s.get (OUT_PULSE (s.get (TOD_PULSE k))) == 0

/-- STATUS.INVALID says whether PULSE names an output that is not 1PPS (R114). -/
def State.showTod (s : State) : State := s.forEach 2 fun s k => s.setb (TOD_INVALID k) (!s.todOk k)

/-- The message of the pulse of second `sec` leaves (R114, R115). -/
def State.todMessage (s : State) (k n sec : Nat) : State :=
  let seq := (s.get (TOD_SEQ k) + 1) % 65536
  let m := s.misalign n
  let msg := if s.is (TOD_FORMAT k) then s.todAscii sec m seq else s.todBinary sec m seq
  let p := (s.outp n).pulses
  ((s.onOuts fun o => { o with todSent := SMap.set 0 o.todSent k p }).set (TOD_SEQ k) seq).emit (.tod k msg)

/-- A TOD output sends one message per pulse, 10 ms after the pulse's leading edge (R114): that instant is reached. -/
def State.todSend (s : State) (k : Nat) : State :=
  let n := s.get (TOD_PULSE k)
  if !s.outsRun || !s.is (TOD_EN k) || !s.todOk k || !s.is (OUT_EN n) then s
  else match (s.outp n).msg with
  | none => s
  | some (b, at_) =>
    if SMap.get 0 s.outs.todSent k = (s.outp n).pulses then s
    else match s.reachTick at_ with
      | some s => s.todMessage k n (b / sec1)
      | none => s

def execTodMessageSend (k : Fin 2) (s : State) : Out := .next (s.todSend k)

end Sys2Proof.Machine
end

