-- ==== Sys2Proof/Machine/Modes.lean ====
section
/-! DEFINITION. Operating modes (spec/01_architecture_modes.md): transitions, fatal errors and mode commands. -/
namespace Sys2Proof.Machine

/-! ### Entering a mode (R24, R28, R31, R32) -/

/-- The only port that may run in SAFE (R23). -/
def State.mgmtPort (s : State) : Option Nat :=
  let p := s.get SYS_OMPETYPE_MGMTPORT
  if !s.safeFromBoot && s.is SYS_OMPETYPE_MGMTEN && s.portExists p && s.is (MAC_CFG_EN p) then some p else none

/-- What SAFE stops: ports, outputs and calibrations (R21, R23, R386). -/
def State.safeStops (s : State) : State :=
  let keep := s.mgmtPort
  let s := s.forEach 32 fun s p => if keep = some p then s else s.dropPort p 4
  (s.stopOutputs.failGcal).set TB_STATUS_WARM 1

/-- The boundary scan gives the balls back (R499). -/
def State.scanRelease (s : State) : State :=
  if s.jtag.drive = 0 then s else s.onJtag fun j => { j with ir := 0x01, drive := 0 }

/-- A transition to a powered mode with a cause of R24: registers, event, lease, answer gates and Campion. -/
def State.enterMode (s : State) (m : Mode) (cause : Nat) : State :=
  let old := s.mode
  let s := s.onMode m
  let s := (((s.set SYS_MODE_PREV (modeCode old)).set SYS_MODE_CAUSE cause).setTs SYS_MODETIME_TS s.now).event 0x0101 0
    (modeCode m + modeCode old * 2 ^ 4 + cause * 2 ^ 8)
  let s := s.irq 7
  let s := if old = .maintenance then s.failGcal else s
  let s := if m = .safe then (s.onSafe (decide (old = Mode.boot))).safeStops else s
  let s := if (old = .backup ∨ old = .safe) ∧ old ≠ m then s.scanRelease else s
  let s := s.leaseMode.updateGates
  if s.bist.gated.isSome && !s.gatedAllowed then s.bistCutReturn true 3 else s

/-! ### Fatal errors (R27) -/

/-- A fatal error: row 7 of R24, or an event when the device is already in SAFE. -/
def State.fatal (s : State) (code : Nat) : State :=
  match s.mode with
  | .off | .backup => s
  | .safe => s.event 0x0102 3 (code + 2 ^ 8)
  | _ => ((s.event 0x0102 3 code).enterMode .safe 0x04).set NVM_STATUS_SAFEREASON 2

/-- The codes of R27. -/
def fatalNumber : FatalCode → Nat
  | .noMajority => 0x01
  | .cpNoSpare => 0x02
  | .d2dLost => 0x03
  | .keyStore => 0x04

def execFatalError (code : FatalCode) (s : State) : Out := .next (s.fatal (fatalNumber code))

/-- The die-to-die link loses lock (R27). -/
def State.d2dLoss (s : State) : State :=
  if s.awake && s.pw.d2dLost.isNone then s.onPw fun p => { p with d2dLost := some s.tb.ticks } else s

/-- It has not retrained within 10 ms: the instant is reached, and the error is fatal. -/
def State.d2dTimeout (s : State) : State :=
  match s.pw.d2dLost with
  | none => s
  | some t => match s.reachTick (10000000 + t) with
    | some s => (s.onPw fun p => { p with d2dLost := none }).fatal 0x03
    | none => s

/-- It retrains in time. -/
def State.d2dRetrain (s : State) : State :=
  match s.pw.d2dLost with
  | some t => if s.tb.ticks ≤ 10000000 + t then s.onPw fun p => { p with d2dLost := none } else s
  | none => s

def execD2dLinkLoss (s : State) : Out := .next s.d2dLoss
def execD2dRetrainTimeout (s : State) : Out := .next s.d2dTimeout
def execD2dLinkRetrain (s : State) : Out := .next s.d2dRetrain

/-! ### Master copies (R37) -/

/-- The bit by bit vote has a majority: at least two copies agree. -/
def twoAgree (a b c : Nat) : Bool := a == b || a == c || b == c

/-- The number of ones among the low 120 bits. -/
def onesCount (n : Nat) : Nat := ((List.range 120).filter n.testBit).length

/-- A copy that differs from the vote in `d` bits is overwritten at the next tick: counted, logged once per second and
copy, and marked failed after 1,000 resyncs in one second (R37, event 0x0301). -/
def State.resyncCopy (s : State) (k d : Nat) : State :=
  let n := s.tb.resyncs.getD k 0 + 1
  let F := if k = 0 then TB_VOTE_COPY0 else if k = 1 then TB_VOTE_COPY1 else TB_VOTE_COPY2
  let s := (s.onTb fun t => { t with
    resyncs := t.resyncs.set k n, unlogged := if n = 1 then t.unlogged else t.unlogged.set k (t.unlogged.getD k 0 + 1) }).bump F 1
  let s := if n = 1 then s.event 0x0301 1 (k + satU 8 d * 2 ^ 8 + satU 16 (s.tb.unloggedPrev.getD k 0) * 2 ^ 16) else s
  if n = 1000 ∧ !s.is TB_STATUS_COPYFAIL then
    ((s.set TB_STATUS_COPYFAIL 1).set TB_STATUS_FAILEDCOPY k).event 0x0302 2 k
  else s

/-- A copy whose bits are upset, and the three of them. -/
def TbCount.upset (c : TbCount) (m : Nat) : TbCount := TbCount.ofBits ((c.bits ^^^ m) % 2 ^ 120)
def State.upset (s : State) (m0 m1 m2 : Nat) : State :=
  s.onTb fun t => { t with c0 := t.c0.upset m0, c1 := t.c1.upset m1, c2 := t.c2.upset m2 }

/-- A copy that held `c` where the vote gave `v` is resynchronized. -/
def State.putCopy (s : State) (v : TbCount) (k : Nat) (c : TbCount) : State :=
  if c = v then s else s.resyncCopy k (onesCount (c.bits ^^^ v.bits))

/-- Every copy takes the vote. -/
def State.takeVote (s : State) : State :=
  let t := s.tb
  let v := s.master
  (((s.onTb fun t => { t with c0 := v, c1 := v, c2 := v }).putCopy v 0 t.c0).putCopy v 1 t.c1).putCopy v 2 t.c2

/-- The vote: three copies that all differ have no majority, and two that remain beside a failed one must agree: else the error is
fatal (R27, R37). -/
def State.vote (s : State) : State :=
  let t := s.tb
  if s.is TB_STATUS_COPYFAIL then
    let f := s.get TB_STATUS_FAILEDCOPY
    if (if f = 0 then t.c1 else t.c0) = (if f = 2 then t.c1 else t.c2) then s else s.fatal 0x01
  else if !twoAgree t.c0.bits t.c1.bits t.c2.bits then s.fatal 0x01
  else s.takeVote

/-- Upsets reach the copies, given as exclusive ors of their bits, and the vote of the next tick corrects them (DEDUCED
notes/assumptions/19.md). -/
def State.copyUpset (s : State) (m0 m1 m2 : Nat) : State :=
  if !s.tb.running then s else (s.upset m0 m1 m2).vote

def execMasterCopyResync (m0 m1 m2 : Nat) (s : State) : Out := .next (s.copyUpset m0 m1 m2)

/-! ### Evaluation (R24 to R26, R28) -/

/-- A source other than PARTNER is QUALIFIED or ACTIVE. -/
def State.otherGood (s : State) : Bool := (List.range 20).any fun k => k ≠ 18 && s.good k

/-- The device is a pair member without the token. -/
def State.noToken (s : State) : Bool := s.is SYS_MODE_PAIR && !s.holds

/-- The resume mode after MAINTENANCE (R26). -/
def State.resumeMode (s : State) : Mode :=
  if s.is TB_STATUS_WARM then .warmup
  else if s.noToken then .standby
  else if s.active.isSome then .service
  else if s.is SYS_MODE_MODELVALID then .holdover
  else .warmup

/-- The row of 9 to 16 and 19 that applies, in the order of R25: the mode and the cause. -/
def State.modeRow (s : State) : Option (Mode × Nat) :=
  let warm := s.is TB_STATUS_WARM
  match s.mode with
  | .warmup =>
    if warm then none
    else if s.noToken then some (.standby, 0x06)
    else if s.active.isSome then some (.service, 0x06)
    else none
  | .service =>
    if s.noToken then some (.standby, 0x0A)
    else if warm then some (.warmup, 0x07)
    else if !(List.range 20).any s.good then some (.holdover, 0x08)
    else none
  | .holdover =>
    if s.noToken then some (.standby, 0x0A)
    else if warm then some (.warmup, 0x07)
    else if s.active.isSome then some (.service, 0x09)
    else none
  | .standby =>
    if s.holds then
      if s.otherGood then some (.service, 0x0B)
      else if s.is SEL_STATUS_EVERACTIVE then some (.holdover, 0x0B)
      else some (.warmup, 0x0B)
    else if warm then some (.warmup, 0x07)
    else none
  | _ => none

/-- MODE_EVALUATION. -/
def State.evalModes (s : State) : State :=
  match s.modeRow with
  | some (m, c) => s.enterMode m c
  | none => s

def execModeEvaluation (s : State) : Out := .next s.evalModes

/-! ### Mode commands (R30) -/

/-- A refused mode command. -/
def State.modeRefused (s : State) (code : Nat) : State :=
  ((s.set SYS_MODECMD_STATUS 2).set SYS_MODECMD_CODE code).event 0x0103 1 (code + modeCode s.mode * 2 ^ 8)

/-- ENTER_MAINT: a token holder that will not answer in MAINTENANCE releases first. -/
def State.enterMaint (s : State) : State :=
  match s.mode with
  | .off | .backup => s
  | .warmup | .service | .holdover | .standby =>
    let s := (s.set SYS_MODECMD_STATUS 1).set SYS_MODECMD_CODE 1
    let s := if s.leaseSt = 5 && !s.is CFG_SERVE_MAINT_SERVE then s.leaseRelease 9 s.now else s
    s.enterMode .maintenance 0x0C
  | _ => s.modeRefused 1

/-- EXIT_MAINT. -/
def State.exitMaint (s : State) : State :=
  match s.mode with
  | .off | .backup => s
  | .maintenance => ((s.set SYS_MODECMD_STATUS 1).set SYS_MODECMD_CODE 2).enterMode s.resumeMode 0x0D
  | _ => s.modeRefused 2

def execEnterMaint (_path : Path) (s : State) : Out := .next s.enterMaint
def execExitMaint (_path : Path) (s : State) : Out := .next s.exitMaint

end Sys2Proof.Machine
end

