-- ==== Sys2Proof/Machine/Housekeeping.lean ====
section
/-! DEFINITION. The housekeeping partition (spec/06_ports_and_mac.md R165; spec/08_response_fabric.md R214): ARP, Neighbor
Discovery and echo; and the announcements of the virtual addresses (spec/13_pair_redundancy.md R363). -/
namespace Sys2Proof.Machine

/-- The device answers for entries of a KIND on a port (R165). -/
def State.answersKind (s : State) (p kind : Nat) : Bool :=
  if s.mode = .safe then kind == 1 && s.mgmtPort == some p
  else match kind with
  | 0 => s.mode ≠ .standby
  | 1 => true
  | 2 => s.is SYS_MODE_PAIR && s.leaseLive
  | _ => false

/-- The entry of an address that the device answers for, and the MAC address it then uses: MAC_VADDR for KIND 2, else
MAC_ADDR (R165). -/
def State.answerMac (s : State) (p vlan : Nat) (addr : List Byte) : Option Nat :=
  match s.ipKind p vlan addr with
  | some k => if s.answersKind p k then some (if k = 2 then s.macVaddr p else s.macAddr p) else none
  | none => none

/-- The body of an ARP packet for IPv4 over Ethernet (RFC 826). -/
def arpBody (op sha : Nat) (spa : List Byte) (tha : Nat) (tpa : List Byte) : List Byte :=
  beBytes 2 1 ++ beBytes 2 0x0800 ++ [6, 4] ++ beBytes 2 op ++ beBytes 6 sha ++ spa ++ beBytes 6 tha ++ tpa

/-- The routine answers with a frame in class 5 without insertion (R171), or ends without one. -/
def State.hkAnswer (s : State) (g : Eng) (r : Req) : Option (List Byte) → State
  | some b => (s.sendFrame g r r.port 5 b {} none).done g
  | none => s.dropReq g

/-- The answer to an ARP request for an address of the device. -/
def State.arpReply (s : State) (r : Req) : Option (List Byte) :=
  let h := parseL2 r.bytes
  let b := l3Bytes r.bytes h
  if h.etype = 0x0806 ∧ 28 ≤ b.length ∧ b.take 8 = beBytes 2 1 ++ beBytes 2 0x0800 ++ [6, 4] ++ beBytes 2 1 then
    (s.answerMac r.port r.vlan (slice b 24 4)).map fun m =>
      ethHeader (beNat (slice b 8 6)) m (s.vlanTags r.port r.vlan) 0x0806 ++
        arpBody 2 m (slice b 24 4) (beNat (slice b 8 6)) (slice b 14 4)
  else none

def State.arpRequest (s : State) (g : Eng) : State := s.routine g 0 fun r => s.hkAnswer g r (s.arpReply r)

/-- An ICMPv6 message with its checksum. -/
def icmp6 (src dst : List Byte) (m : List Byte) : List Byte :=
  let z := m.take 2 ++ [0, 0] ++ m.drop 4
  overwrite m 2 (beBytes 2 (0xFFFF - onesAdd (pseudoSum src dst 58 m.length) (onesSum z)))

/-- An ICMPv6 message is whole and its checksum is right. -/
def icmp6Ok (b : List Byte) (ip : Ip) (m : List Byte) : Bool :=
  ip.proto == 58 && m.length == ip.len && onesAdd (pseudoSum ip.src ip.dst 58 ip.len) (onesSum (slice b ip.l4 ip.len)) == 0xFFFF

/-- The source link-layer address option among the options of a message. -/
def slla : Nat → List Byte → Option Nat
  | 0, _ => none
  | f + 1, b =>
    let n := 8 * beNat (slice b 1 1)
    if b.length < 8 ∨ n = 0 then none
    else if beNat (b.take 1) = 1 then some (beNat (slice b 2 6))
    else slla f (b.drop n)

/-- A Neighbor Advertisement for an address (RFC 4861): flags in the first bits, and the target link-layer address. -/
def naMessage (flags : Nat) (target : List Byte) (mac : Nat) : List Byte :=
  [136, 0, 0, 0] ++ beBytes 4 (flags * 2 ^ 29) ++ target ++ [2, 1] ++ beBytes 6 mac

/-- The all-nodes multicast address. -/
def allNodes : List Byte := [0xFF, 0x02, 0, 0, 0, 0, 0, 0, 0, 0, 0, 0, 0, 0, 0, 1]

/-- The answer to a Neighbor Solicitation: solicited to its sender, or unsolicited to all nodes when the sender has no
address yet (RFC 4861). -/
def State.ndReply (s : State) (r : Req) : Option (List Byte) :=
  let h := parseL2 r.bytes
  match parseIp r.bytes h with
  | none => none
  | some ip =>
    let m := slice r.bytes ip.l4 ip.len
    let target := slice m 8 16
    if ip.ver = 2 ∧ icmp6Ok r.bytes ip m ∧ 24 ≤ m.length ∧ m.take 2 = [135, 0] ∧ slice r.bytes (h.l3 + 7) 1 = [255] then
      let dad := ip.src.all fun b => b == 0
      let dst := if dad then allNodes else ip.src
      let da := if dad then 0x333300000001 else (slla 8 (m.drop 24)).getD h.sa
      (s.answerMac r.port r.vlan target).map fun mac =>
        ethHeader da mac (s.vlanTags r.port r.vlan) 0x86DD ++
          ipPacket target dst 58 0 255 (icmp6 target dst (naMessage (if dad then 1 else 3) target mac))
    else none

def State.neighborSolicitation (s : State) (g : Eng) : State := s.routine g 0 fun r => s.hkAnswer g r (s.ndReply r)

/-- The answer to an echo request to an address of the device: the same identifier, number and data (RFC 792, RFC 4443). -/
def State.echoReply (s : State) (r : Req) : Option (List Byte) :=
  let h := parseL2 r.bytes
  match parseIp r.bytes h with
  | none => none
  | some ip =>
    let m := slice r.bytes ip.l4 ip.len
    let frame (mac : Nat) (m : List Byte) : List Byte :=
      ethHeader h.sa mac (s.vlanTags r.port r.vlan) h.etype ++ ipPacket ip.dst ip.src ip.proto 0 64 m
    if m.length < 8 ∨ m.length ≠ ip.len ∨ ip.frag then none
    else if ip.ver = 1 ∧ ip.proto = 1 ∧ m.take 2 = [8, 0] ∧ onesSum m = 0xFFFF then
      let z := [0, 0, 0, 0] ++ m.drop 4
      (s.answerMac r.port r.vlan ip.dst).map fun mac => frame mac (overwrite z 2 (beBytes 2 (0xFFFF - onesSum z)))
    else if ip.ver = 2 ∧ icmp6Ok r.bytes ip m ∧ m.take 2 = [128, 0] then
      (s.answerMac r.port r.vlan ip.dst).map fun mac => frame mac (icmp6 ip.dst ip.src (129 :: m.drop 1))
    else none

def State.icmpEcho (s : State) (g : Eng) : State := s.routine g 0 fun r => s.hkAnswer g r (s.echoReply r)

def execArpRequest (g : Eng) (s : State) : Out := .next (s.arpRequest g)
def execNeighborSolicitation (g : Eng) (s : State) : Out := .next (s.neighborSolicitation g)
def execIcmpEcho (g : Eng) (s : State) : Out := .next (s.icmpEcho g)

/-! ### Announcements (R363) -/

/-- A gratuitous ARP request, or an unsolicited Neighbor Advertisement with the override flag, for entry `a` of a port. -/
def State.announceFrame (s : State) (p a : Nat) : List Byte :=
  let addr := s.ipEntryBytes p a
  let mac := s.macVaddr p
  let tags := s.vlanTags p (s.get (MAC_IP_VLAN p a))
  if s.is (MAC_IP_V6 p a) then
    ethHeader 0x333300000001 mac tags 0x86DD ++ ipPacket addr allNodes 58 0 255 (icmp6 addr allNodes (naMessage 1 addr mac))
  else ethHeader 0xFFFFFFFFFFFF mac tags 0x0806 ++ arpBody 1 mac addr 0 addr

/-- One announcement of every virtual address, sent by the housekeeping partition in class 5. -/
def State.announceAll (s : State) : State :=
  s.forEach 32 fun s p =>
    if s.portExists p && s.portUp p then
      s.forEach 256 fun s a =>
        if s.ipInForce p a && s.get (MAC_IP_KIND p a) == 2 then s.originate p 5 (s.announceFrame p a) {} none else s
    else s

/-- VADDR_ANNOUNCE: the next of the three rounds that follow a take, 1 ms apart. -/
def State.vaddrAnnounce (s : State) : State :=
  if s.lease.announce = 0 ∨ s.leaseSt ≠ 5 then s
  else match s.reachTick s.lease.announceAt with
  | none => s
  | some s => (s.onLease fun l => { l with announce := l.announce - 1, announceAt := s.tb.ticks + 1000000 }).announceAll

def execVaddrAnnounce (s : State) : Out := .next s.vaddrAnnounce

end Sys2Proof.Machine
end

