-- ==== Sys2Proof/Machine/Perf.lean ====
section
/-! DEFINITION. Performance counters, dumps, telemetry frames and instruction sampling
(spec/17_performance_telemetry.md). -/
namespace Sys2Proof.Machine

/-! ### Live counters (R459) -/

/-- A read of the low word of a live counter: it latches the high word (R459). -/
def State.liveRead (s : State) (t i : Nat) : State :=
  let v := s.perfCount t i % 2 ^ 48
  (s.set (PERF_LIVE_LO t i) v).set (PERF_LIVE_HI t i) (v / 2 ^ 32)

/-! ### Staged selections (R450, R459) -/

/-- The listed tile events and port events; other codes clamp to 0 (R445, R446). -/
def tileCode (e : Nat) : Bool :=
  e ≤ 0x0A || (0x10 ≤ e && e ≤ 0x1B) || (0x20 ≤ e && e ≤ 0x27) || (0x30 ≤ e && e ≤ 0x35) || e == 0x40 || e == 0x50 || e == 0x51
def portCode (e : Nat) : Bool := e ≤ 0x14

/-- A selection from a register value, its event clamped. -/
def selOf (v : Nat) : PerfSel :=
  let p := v / 2 ^ 30 % 2
  let e := v / 2 ^ 16 % 256
  { portEv := p, port := v / 2 ^ 27 % 8, event := if (if p = 1 then portCode e else tileCode e) then e else 0, mask := v % 256 }

/-- A write to PERF_SELn: the selection in force is kept until the next boundary. -/
def State.selWrite (s : State) (src t n v : Nat) : State :=
  let x := selOf v
  let s := s.onPerf fun p => { p with held := SMap.set none p.held (64 * t + n) (some (s.perfInForce t n)) }
  let s := ((((s.set (PERF_SEL_PORTEV t n) x.portEv).set (PERF_SEL_PORT t n) x.port).set (PERF_SEL_EVENT t n) x.event).set
    (PERF_SEL_CLMASK t n) x.mask).set (PERF_SEL_PEND t n) 1
  let e := v / 2 ^ 16 % 256
  if x.event = e then s
  else s.clampLog (0x681000 + 0x1000 * t + 4 * n) v (v - e * 2 ^ 16) src

/-- A write to PERF_DUMPCFG: PERIOD is staged, EN acts at once. -/
def State.dumpCfgWrite (s : State) (src v : Nat) : State :=
  let p := v % 2 ^ 16
  let q := max 1 (min p 60000)
  let s := (s.set PERF_DUMPCFG_EN (v / 2 ^ 31)).set PERF_DUMPCFG_PERIOD q
  if p = q then s else s.clampLog 0x680000 v (v - p + q) src

/-- PERF_SEL_WRITE: PERF_SELn of a tile, or PERF_DUMPCFG. -/
def State.perfSelWrite (s : State) (path : Path) (addr v : Nat) : State :=
  let v := v % 2 ^ 32
  if !s.tb.running then s
  else if addr = 0x680000 then s.dumpCfgWrite (pathSource path) v
  else
    let t := (addr - 0x681000) / 0x1000
    let n := (addr - 0x681000) % 0x1000 / 4
    if 0x681000 ≤ addr ∧ t < 4 ∧ n < 64 ∧ addr % 4 = 0 then s.selWrite (pathSource path) t n v else s

/-! ### Dump boundaries (R448, R449) -/

/-- DUMP_BOUNDARY: the next boundary is reached, when it lies before the next second boundary; those that time passes on its way are
latched as they come (R449), and one at a second boundary with that row. -/
def State.dumpBoundary (s : State) : State :=
  if !s.tb.running ∨ s.perf.period = 0 then s
  else if s.dumpDue then s.dumpAt
  else if s.dumpNext < (instSec s.now + 1) * 1000000000 then s.runUntil (s.dumpNext * 2 ^ 40)
  else s

/-! ### Records and frames (R449, R451, R452) -/

/-- An instant in the format of CFG_TSFMT (R8). -/
def State.setTsFmt (s : State) (F : Nat → Field) (t : Nat) : State :=
  if s.is CFG_TSFMT_FMT then ((s.set (F 0) (instCompact t)).set (F 1) 0).set (F 2) 0 else s.setTs F t

/-- The sixteen header words of a record; `tile` is 0 in memory. -/
def State.dumpHeader (s : State) (b : DumpBank) (tile : Nat) : List Nat :=
  let compact := s.is CFG_TSFMT_FMT
  [b.num % 2 ^ 32, if compact then instCompact b.time else instWord b.time 0, if compact then 0 else instWord b.time 1,
   if compact then 0 else instWord b.time 2, (if b.step then 2 ^ 31 else 0) + (if b.selChg then 2 ^ 30 else 0) + b.period, tile] ++
  List.replicate 9 0 ++ [b.num % 2 ^ 32]

/-- One entry of a record. -/
def State.putEntry (s : State) (slot i lo hi : Nat) : State :=
  (((((s.set (DUMPE_0_VALUE_LO slot i) lo).set (DUMPE_4_OVF slot i) (hi / 2 ^ 31)).set (DUMPE_4_NEW slot i) (hi / 2 ^ 30 % 2)).set
    (DUMPE_4_PORTEV slot i) (hi / 2 ^ 29 % 2)).set (DUMPE_4_EVENT slot i) (hi / 2 ^ 16 % 256)).set (DUMPE_4_VALUE_HI slot i) hi

/-- The record in its slot of the dump ring. -/
def State.putRecord (s : State) (b : DumpBank) : State :=
  let k := b.num % 16
  let s := ((((s.setTsFmt (DUMP_TIME k) b.time).setb (DUMP_STEP k) b.step).setb (DUMP_SELCHG k) b.selChg).set (DUMP_PERIOD k)
    b.period).set (DUMP_TILE k) 0
  let s := s.forEach 384 fun s i => s.putEntry k i (b.words.getD (2 * i) 0) (b.words.getD (2 * i + 1) 0)
  ((s.set (DUMP_SEQB k) b.num).set (DUMP_SEQA k) b.num).set PERF_DUMPSTAT_SEQ b.num

/-- The telemetry frame of a tile; register words are little-endian (R9). -/
def State.telemetryFrame (s : State) (b : DumpBank) (t : Nat) : List Byte :=
  let p := s.get PERF_TXCFG_PORT
  ethHeader (s.mac48 PERF_TXDMAC_LO_ADDRLO PERF_TXDMAC_HI_ADDRHI) (s.macAddr p) (s.vlanTags p (s.get PERF_TXCFG_VLAN))
    (s.get PERF_TXETYPE_ETYPE) ++
  (s.dumpHeader b t ++ (b.words.drop (192 * t)).take 192).flatMap (leBytes 4)

/-- DUMP_RECORD_PUBLISH: the oldest record latched. -/
def State.dumpPublish (s : State) : State :=
  match s.perf.banks with
  | [] => s
  | b :: rest =>
    let s := (s.putRecord b).onPerf fun p => { p with banks := rest, records := b.num }
    if s.is PERF_TXCFG_EN then
      s.forEach 4 fun s t =>
        s.pushLane { port := s.get PERF_TXCFG_PORT, cls := 7, bytes := s.telemetryFrame b t, stamp := s.now, src := 32 }
    else s

/-! ### Sampling (R454 to R456) -/

/-- A marked instruction of an engine completes; its latency is read to within 2 ns (DESIGN CHOICE notes/assumptions/17.md). -/
def State.sampleRecord (s : State) (g : Eng) (low : Nat) : State :=
  match s.perf.marks.find? (·.engine == engId g) with
  | none => s
  | some m =>
    let c := g.c.val
    let s := s.onPerf fun p => { p with marks := p.marks.erase m }
    let lat := (s.now - m.issued) / ns1 + s.draw % 5 - 2
    let s := s.drawn
    let l := SMap.get 0 s.perf.lost c
    let b := SMap.get [] s.perf.buffers c
    let r : Sample := { opcode := 16 * m.cls + low, addr := m.addr, wait := m.wait, engine := m.engine, part := m.part, tag := m.tag
                        time := s.now, lat := satU 32 lat, lostN := min l 65535 }
    if 16 ≤ b.length then
      ((s.onPerf fun p => { p with lost := SMap.set 0 p.lost c (l + 1) }).bump (PERF_SAMPLOST_LOST (c / 8)) 1).noteSec
        (0x6802 + 65536 * (c / 8)) (c / 8)
    else s.onPerf fun p => { p with lost := SMap.set 0 p.lost c 0, buffers := SMap.set [] p.buffers c (b ++ [r]) }

/-- A record in the sample ring of a tile (R455). -/
def State.putSample (s : State) (t : Nat) (r : Sample) : State :=
  let k := s.get (PERF_SAMPSTAT_SEQ t) + 1
  let j := k % 65536
  let s := (((s.setTsFmt (SAMP_TIME t j) r.time).set (SAMP_OPCODE t j) r.opcode).set (SAMP_WAIT t j) r.wait).set (SAMP_ADDR t j) r.addr
  let s := (((s.setb (SAMP_GAP t j) (r.lostN ≠ 0)).set (SAMP_PART t j) r.part).set (SAMP_LOSTN t j) r.lostN).set (SAMP_ENGINE t j) r.engine
  (((s.set (SAMP_LAT t j) r.lat).set (SAMP_TAG t j) r.tag).set (SAMP_SEQ t j) k).set (PERF_SAMPSTAT_SEQ t) k

/-- The collector of a tile takes one record, in rotating order of its clusters (R456). -/
def State.sampleCollect (s : State) (t : Nat) : State :=
  let last := SMap.get 7 s.perf.rot t
  match ((List.range 8).map fun i => (last + 1 + i) % 8).find? fun j => SMap.get [] s.perf.buffers (8 * t + j) ≠ [] with
  | none => s
  | some j =>
    match SMap.get [] s.perf.buffers (8 * t + j) with
    | [] => s
    | r :: rest =>
      (s.onPerf fun p => { p with rot := SMap.set 7 p.rot t j, buffers := SMap.set [] p.buffers (8 * t + j) rest }).putSample t r

def execDumpBoundary (s : State) : Out := .next s.dumpBoundary
def execDumpRecordPublish (s : State) : Out := .next s.dumpPublish
def execPerfSelWrite (path : Path) (addr v : Nat) (s : State) : Out := .next (s.perfSelWrite path addr v)
def execSampleRecord (g : Eng) (low : Fin 16) (s : State) : Out := .next (s.sampleRecord g low)
def execSampleCollect (t : Fin 4) (s : State) : Out := .next (s.sampleCollect t)

end Sys2Proof.Machine
end

