-- ==== Sys2Proof/Machine/Clamps.lean ====
section
/-! DEFINITION. The register map by address, and the limits of its fields (spec/00_scope.md R9 to R11;
spec/14_boot_configuration_lifecycle.md R383). -/
namespace Sys2Proof.Machine

/-! ### Registers by address -/

/-- The index along one dimension, and what is left of the offset. -/
def dimIndex (st n d : Nat) : Option (Nat × Nat) := if st = 0 then some (0, d) else if d / st < n then some (d / st, d % st) else none

/-- The indices of a register of a family at an address. -/
def RegEnt.locate (e : RegEnt) (a : Nat) : Option (Nat × Nat × Nat) :=
  if a < e.base then none
  else match dimIndex e.s1 e.c1 (a - e.base) with
  | none => none
  | some (i, d) => match dimIndex e.s2 e.c2 d with
    | none => none
    | some (j, d) => match dimIndex e.s3 e.c3 d with
      | some (k, 0) => some (i, j, k)
      | _ => none

/-- The fields of the register at an address; none where no register lies. -/
def regAt (a : Nat) : List RegField :=
  regTable.flatMap fun e => match e.locate a with
    | some (i, j, k) => e.fields i j k
    | none => []

/-- The word of a register as a view holds it. -/
def RegView.word (v : RegView) (fs : List RegField) : Nat := fs.foldl (fun w f => w + v.get f.field * 2 ^ f.field.lo) 0
def State.word (s : State) (fs : List RegField) : Nat := fs.foldl (fun w f => w + s.get f.field * 2 ^ f.field.lo) 0

/-- The bits of a field in its register. -/
def Field.mask (F : Field) : Nat := (2 ^ F.width - 1) * 2 ^ F.lo

/-- The value of a field in a word. -/
def Field.of (F : Field) (v : Nat) : Nat := v / 2 ^ F.lo % 2 ^ F.width

/-! ### Limits -/

/-- The limits of a field: the address family of its register, its low bit, and the legal value of a value, which may depend
on the index. -/
structure Clamp where
  base : Nat
  s1 : Nat
  c1 : Nat
  s2 : Nat
  c2 : Nat
  lo : Nat
  legal : State → Nat → Nat → Nat

/-- The nearest value of a range, of a signed range of `w` bits, and a replacement for values from `n` on. -/
def rng (lo hi : Nat) (_ : State) (_ v : Nat) : Nat := clampTo lo hi v
def srng (w : Nat) (lo hi : Int) (_ : State) (_ v : Nat) : Nat := ofSigned w (max lo (min (toSigned w v) hi))
def rep (n r : Nat) (_ : State) (_ v : Nat) : Nat := if n ≤ v then r else v

/-- Fields with a rule of their own: SEL_SRC.TYPE is 0 for a virtual source, FAB_PART.EN is 1 for partitions 0 and 1,
MAC_TXTHR is rounded down to 64, voltages to 5 mV, NVM_UPDOFS to 4,096; RT_CFG.VERMASK is not 0; EtherTypes keep apart;
SYS_EVTRD is at most SYS_EVTSEQ. -/
def srcType (_ : State) (k v : Nat) : Nat := if 16 ≤ k then 0 else min v 7
def partEn (_ : State) (k v : Nat) : Nat := if k < 2 then 1 else v
def txThr (_ : State) (_ v : Nat) : Nat := clampTo 64 9216 v / 64 * 64
def volt (_ : State) (_ v : Nat) : Nat := clampTo 650 800 v / 5 * 5
def updOfs (_ : State) (_ v : Nat) : Nat := min v 67100672 / 4096 * 4096
def verMask (_ : State) (_ v : Nat) : Nat := if v = 0 then 2 else v
def etypeOmp (_ : State) (_ v : Nat) : Nat := if v = 0x88B5 then 0x88B6 else v
def etypePerf (_ : State) (_ v : Nat) : Nat := if v = 0x88B5 ∨ v = 0x88B6 then 0x88B7 else v
def evtRd (s : State) (_ v : Nat) : Nat := min v (s.get SYS_EVTSEQ_SEQ)

def clampParta : List Clamp := [
  ⟨0x30008, 0x0, 1, 0x0, 1, 0, rng 0 4⟩, ⟨0x30040, 0x0, 1, 0x0, 1, 0, rng 1 1000000000⟩, ⟨0x30044, 0x0, 1, 0x0, 1, 0, rng 1 500000⟩,
  ⟨0x30048, 0x0, 1, 0x0, 1, 0, rng 1 10000⟩, ⟨0x3004C, 0x0, 1, 0x0, 1, 0, rng 1 255⟩, ⟨0x30070, 0x0, 1, 0x0, 1, 8, rng 1 65535⟩,
  ⟨0x30070, 0x0, 1, 0x0, 1, 1, rng 0 4⟩, ⟨0x40004, 0x0, 1, 0x0, 1, 16, rng 1 50⟩, ⟨0x40004, 0x0, 1, 0x0, 1, 0, rng 60 65535⟩,
  ⟨0x40100, 0x40, 32, 0x0, 1, 29, rng 0 2⟩, ⟨0x40100, 0x40, 32, 0x0, 1, 0, rng 1 65535⟩, ⟨0x40110, 0x40, 32, 0x0, 1, 0, rng 1 16777216⟩,
  ⟨0x40904, 0x20, 8, 0x0, 1, 0, rng 1 1000000000⟩, ⟨0x40908, 0x20, 8, 0x0, 1, 0, rng 1 16777216⟩, ⟨0x50000, 0x0, 1, 0x0, 1, 0, rng 0 3600⟩,
  ⟨0x50010, 0x4, 16, 0x0, 1, 8, rng 0 19⟩, ⟨0x500A0, 0x0, 1, 0x0, 1, 16, rng 1 168⟩, ⟨0x500A0, 0x0, 1, 0x0, 1, 0, rng 60 65535⟩,
  ⟨0x500E0, 0x0, 1, 0x0, 1, 0, rng 0 8⟩, ⟨0x50100, 0x40, 20, 0x0, 1, 16, rng 1 100⟩, ⟨0x50100, 0x40, 20, 0x0, 1, 0, srcType⟩,
  ⟨0x50104, 0x40, 20, 0x0, 1, 0, rng 1 250000000⟩, ⟨0x50108, 0x40, 20, 0x0, 1, 0, rng 1 100000000⟩, ⟨0x5010C, 0x40, 20, 0x0, 1, 0, rng 1 100000000⟩,
  ⟨0x50118, 0x40, 20, 0x0, 1, 16, rng 1 65535⟩, ⟨0x50118, 0x40, 20, 0x0, 1, 0, rng 1 65535⟩, ⟨0x60000, 0x20, 4, 0x0, 1, 8, rng 0 20⟩,
  ⟨0x60000, 0x20, 4, 0x0, 1, 0, rng 0 16⟩, ⟨0x60004, 0x20, 4, 0x0, 1, 0, rng 10 1000000⟩, ⟨0x61000, 0x40, 16, 0x0, 1, 28, rng 0 2⟩,
  ⟨0x61008, 0x40, 16, 0x0, 1, 0, rng 10 500000000⟩, ⟨0x6100C, 0x40, 16, 0x0, 1, 0, srng 32 (-500000000) 500000000⟩, ⟨0x61010, 0x40, 16, 0x0, 1, 0, srng 32 (-10000) 10000⟩,
  ⟨0x62000, 0x10, 2, 0x0, 1, 8, rng 0 15⟩, ⟨0x80000, 0x0, 1, 0x0, 1, 16, rng 20 100⟩, ⟨0x80000, 0x0, 1, 0x0, 1, 8, rng 20 100⟩,
  ⟨0x80000, 0x0, 1, 0x0, 1, 2, rng 1 32⟩, ⟨0x80010, 0x4, 4, 0x0, 1, 8, rng 1 255⟩, ⟨0x80020, 0x4, 4, 0x0, 1, 0, srng 32 (-50000000) 50000000⟩,
  ⟨0x80080, 0x0, 1, 0x0, 1, 0, rng 0 9⟩, ⟨0x80084, 0x0, 1, 0x0, 1, 0, rng 20 200⟩, ⟨0x80088, 0x0, 1, 0x0, 1, 0, rng 1 1000000⟩,
  ⟨0x8008C, 0x0, 1, 0x0, 1, 16, rng 6 40⟩, ⟨0x8008C, 0x0, 1, 0x0, 1, 8, rng 2 255⟩, ⟨0x8008C, 0x0, 1, 0x0, 1, 0, rng 1 254⟩,
  ⟨0x80090, 0x0, 1, 0x0, 1, 24, rng 128 255⟩, ⟨0x80090, 0x0, 1, 0x0, 1, 16, rng 1 100⟩, ⟨0x80090, 0x0, 1, 0x0, 1, 8, rng 5 255⟩]

def clampPartb : List Clamp := [
  ⟨0x80090, 0x0, 1, 0x0, 1, 0, rng 1 255⟩, ⟨0x80098, 0x0, 1, 0x0, 1, 16, rng 1 255⟩, ⟨0x80098, 0x0, 1, 0x0, 1, 8, rng 0 45⟩,
  ⟨0x80098, 0x0, 1, 0x0, 1, 0, rng 4 12⟩, ⟨0x100000, 0x8000, 32, 0x0, 1, 16, rng 64 9216⟩, ⟨0x100000, 0x8000, 32, 0x0, 1, 8, rng 1 255⟩,
  ⟨0x100018, 0x8000, 32, 0x0, 1, 0, txThr⟩, ⟨0x100020, 0x8000, 32, 0x0, 1, 16, rng 1 255⟩, ⟨0x10002C, 0x8000, 32, 0x0, 1, 0, rep 6 0⟩,
  ⟨0x10002C, 0x8000, 32, 0x0, 1, 4, rep 6 0⟩, ⟨0x10002C, 0x8000, 32, 0x0, 1, 8, rep 6 0⟩, ⟨0x10002C, 0x8000, 32, 0x0, 1, 12, rep 6 0⟩,
  ⟨0x10002C, 0x8000, 32, 0x0, 1, 16, rep 6 0⟩, ⟨0x10002C, 0x8000, 32, 0x0, 1, 20, rep 6 0⟩, ⟨0x10002C, 0x8000, 32, 0x0, 1, 24, rep 6 0⟩,
  ⟨0x10002C, 0x8000, 32, 0x0, 1, 28, rep 6 0⟩, ⟨0x100030, 0x8000, 32, 0x0, 1, 0, rep 6 0⟩, ⟨0x100030, 0x8000, 32, 0x0, 1, 4, rep 6 0⟩,
  ⟨0x100030, 0x8000, 32, 0x0, 1, 8, rep 6 0⟩, ⟨0x100030, 0x8000, 32, 0x0, 1, 12, rep 6 0⟩, ⟨0x100030, 0x8000, 32, 0x0, 1, 16, rep 6 0⟩,
  ⟨0x100030, 0x8000, 32, 0x0, 1, 20, rep 6 0⟩, ⟨0x100030, 0x8000, 32, 0x0, 1, 24, rep 6 0⟩, ⟨0x100030, 0x8000, 32, 0x0, 1, 28, rep 6 0⟩,
  ⟨0x100100, 0x8000, 32, 0x4, 64, 29, rng 0 2⟩, ⟨0x100200, 0x8000, 32, 0x10, 64, 11, rng 0 5⟩, ⟨0x101000, 0x8000, 32, 0x20, 256, 28, rng 0 2⟩,
  ⟨0x107000, 0x40000, 4, 0x0, 1, 0, rng 0 5⟩, ⟨0x107010, 0x40000, 4, 0x4, 8, 16, srng 8 (-32) 0⟩, ⟨0x107010, 0x40000, 4, 0x4, 8, 8, rng 0 127⟩,
  ⟨0x107010, 0x40000, 4, 0x4, 8, 0, srng 8 (-48) 0⟩, ⟨0x200000, 0x0, 1, 0x0, 1, 16, rng 0 20⟩, ⟨0x200000, 0x0, 1, 0x0, 1, 0, rng 200 2000⟩,
  ⟨0x200004, 0x0, 1, 0x0, 1, 0, rng 10 400⟩, ⟨0x300020, 0x0, 1, 0x0, 1, 28, rep 6 2⟩, ⟨0x300020, 0x0, 1, 0x0, 1, 0, rng 1 65535⟩,
  ⟨0x301000, 0x40, 6, 0x0, 1, 31, partEn⟩, ⟨0x301000, 0x40, 6, 0x0, 1, 16, rng 1 255⟩, ⟨0x30100C, 0x40, 6, 0x0, 1, 0, rng 0 1048576⟩,
  ⟨0x400000, 0x0, 1, 0x0, 1, 16, srng 8 (-32) (-6)⟩, ⟨0x400000, 0x0, 1, 0x0, 1, 8, rng 4 17⟩, ⟨0x400000, 0x0, 1, 0x0, 1, 0, rng 1 255⟩,
  ⟨0x400004, 0x0, 1, 0x0, 1, 0, rng 0 86400⟩, ⟨0x400008, 0x0, 1, 0x0, 1, 0, rng 0 65536⟩, ⟨0x400010, 0x4, 8, 0x0, 1, 0, rng 1 16⟩,
  ⟨0x400070, 0x0, 1, 0x0, 1, 0, rng 4 17⟩, ⟨0x400074, 0x0, 1, 0x0, 1, 0, rng 1 16777215⟩, ⟨0x400078, 0x0, 1, 0x0, 1, 0, rng 1 16777215⟩]

def clampPartc : List Clamp := [
  ⟨0x440000, 0x0, 1, 0x0, 1, 0, rng 1 65535⟩, ⟨0x440004, 0x0, 1, 0x0, 1, 16, rng 1 16384⟩, ⟨0x440004, 0x0, 1, 0x0, 1, 8, rng 1 60⟩,
  ⟨0x440004, 0x0, 1, 0x0, 1, 0, rng 1 255⟩, ⟨0x480000, 0x0, 1, 0x0, 1, 28, rep 5 0⟩, ⟨0x480000, 0x0, 1, 0x0, 1, 12, rng 2 15⟩,
  ⟨0x480010, 0x0, 1, 0x0, 1, 0, rng 1 0xFFFFFFFE⟩, ⟨0x480014, 0x0, 1, 0x0, 1, 0, rng 0 86400⟩, ⟨0x480018, 0x0, 1, 0x0, 1, 0, rng 0 300000000⟩,
  ⟨0x48001C, 0x0, 1, 0x0, 1, 16, rng 1 65535⟩, ⟨0x48001C, 0x0, 1, 0x0, 1, 0, rng 1 65535⟩, ⟨0x480024, 0x0, 1, 0x0, 1, 0, rng 1 1000⟩,
  ⟨0x480200, 0x0, 1, 0x0, 1, 4, srng 4 (-7) 4⟩, ⟨0x480200, 0x0, 1, 0x0, 1, 0, srng 4 (-7) 4⟩, ⟨0x481000, 0x40, 32, 0x0, 1, 29, rng 0 2⟩,
  ⟨0x481004, 0x40, 32, 0x0, 1, 24, srng 8 (-7) 4⟩, ⟨0x481004, 0x40, 32, 0x0, 1, 16, srng 8 (-3) 4⟩, ⟨0x481004, 0x40, 32, 0x0, 1, 8, srng 8 (-7) 4⟩,
  ⟨0x481004, 0x40, 32, 0x0, 1, 0, srng 8 (-7) 4⟩, ⟨0x481014, 0x40, 32, 0x0, 1, 0, rng 1 1000000⟩, ⟨0x4C0000, 0x0, 1, 0x0, 1, 29, verMask⟩,
  ⟨0x4C0000, 0x0, 1, 0x0, 1, 16, rng 1 64⟩, ⟨0x4C0000, 0x0, 1, 0x0, 1, 0, rng 100 10000⟩, ⟨0x4C0004, 0x0, 1, 0x0, 1, 16, rng 1 255⟩,
  ⟨0x4C0004, 0x0, 1, 0x0, 1, 0, rng 1 65535⟩, ⟨0x4C0008, 0x0, 1, 0x0, 1, 16, rng 60 43200⟩, ⟨0x4C0008, 0x0, 1, 0x0, 1, 0, rng 60 3600⟩,
  ⟨0x4C000C, 0x0, 1, 0x0, 1, 0, rng 1000 4000000000⟩, ⟨0x4C0010, 0x0, 1, 0x0, 1, 0, rng 1 10000000⟩, ⟨0x580000, 0x0, 1, 0x0, 1, 16, rng 1 1000⟩,
  ⟨0x580000, 0x0, 1, 0x0, 1, 0, rng 0 3600⟩, ⟨0x580004, 0x0, 1, 0x0, 1, 0, rng 1000 500000000⟩, ⟨0x580020, 0x0, 1, 0x0, 1, 16, rng 100 60000⟩,
  ⟨0x580020, 0x0, 1, 0x0, 1, 0, rng 1 1000⟩, ⟨0x700014, 0x0, 1, 0x0, 1, 0, updOfs⟩, ⟨0x220, 0x0, 1, 0x0, 1, 4, rng 1 3600⟩,
  ⟨0x244, 0x0, 1, 0x0, 1, 0, evtRd⟩, ⟨0x300, 0x0, 1, 0x0, 1, 16, rng 10 3600⟩, ⟨0x300, 0x0, 1, 0x0, 1, 0, rng 1 65535⟩,
  ⟨0x304, 0x0, 1, 0x0, 1, 0, etypeOmp⟩, ⟨0x680000, 0x0, 1, 0x0, 1, 0, rng 1 60000⟩, ⟨0x68000C, 0x0, 1, 0x0, 1, 0, etypePerf⟩,
  ⟨0x680020, 0x0, 1, 0x0, 1, 24, rng 0 5⟩, ⟨0x680020, 0x0, 1, 0x0, 1, 0, rng 8 24⟩, ⟨0x20004, 0x0, 1, 0x0, 1, 0, volt⟩,
  ⟨0x20008, 0x0, 1, 0x0, 1, 16, volt⟩, ⟨0x20008, 0x0, 1, 0x0, 1, 0, volt⟩, ⟨0x2000C, 0x0, 1, 0x0, 1, 16, rng 1 767⟩]

def clampPartd : List Clamp := [
  ⟨0x2000C, 0x0, 1, 0x0, 1, 8, rng 10 255⟩, ⟨0x2000C, 0x0, 1, 0x0, 1, 4, rng 1 5⟩, ⟨0x2000C, 0x0, 1, 0x0, 1, 0, rng 1 15⟩]

/-- The limits of every field that has them, as the Function columns of the register tables state. -/
def clampTable : List Clamp := clampParta ++ clampPartb ++ clampPartc ++ clampPartd

/-- The legal value of a value for a field, by its own limits. PERF_SEL.EVENT has those of R445 and R446. -/
def State.legal (s : State) (F : Field) (v : Nat) : Nat :=
  let hit := clampTable.findSome? fun c =>
    if c.lo ≠ F.lo ∨ F.addr < c.base then none
    else match dimIndex c.s1 c.c1 (F.addr - c.base) with
    | none => none
    | some (i, d) => match dimIndex c.s2 c.c2 d with
      | some (_, 0) => some (c.legal s i v)
      | _ => none
  hit.getD v

/-! ### Limits that depend on another field -/

/-- A field whose limits depend on other fields: how many instances, the field, and its legal value for the state. -/
structure Dep where
  n : Nat
  field : Nat → Field
  legal : State → Nat → Nat

/-- The frame rate or the pulse rate of an output (R109). -/
def State.legalRate (s : State) (n : Nat) : Nat :=
  let v := s.get (OUT_RATE n)
  match s.get (OUT_KIND n) with
  | 2 => if v < 5000 then 2000 else 8000
  | 1 => clampTo 1 25000000 v
  | _ => v

/-- A statistics window: N to 2^24 events, or T to 1,000 s. -/
def State.legalWin (s : State) (mode win : Field) : Nat := if s.is mode then min (s.get win) 1000 else s.get win

/-- The rank of a priority row: 0 when a lower row with a rank names the same source (R91). -/
def State.legalRank (s : State) (i : Nat) : Nat :=
  if (List.range i).any fun j => s.get (SEL_PRIO_RANK j) ≠ 0 && s.get (SEL_PRIO_SOURCE j) == s.get (SEL_PRIO_SOURCE i) then 0
  else s.get (SEL_PRIO_RANK i)

/-- The main tap of a lane (R484). -/
def State.legalMain (s : State) (q l : Nat) : Nat :=
  min (s.get (MAC_LANE_MAIN q l)) (127 - (s.geti (MAC_LANE_PRE q l)).natAbs - (s.geti (MAC_LANE_POST q l)).natAbs)

/-- LPI is not available in port modes 0 and 1 (R179, MAC_LPI). -/
def State.legalLpi (s : State) (p : Nat) : Nat :=
  if s.get (MAC_QMODE_MODE (p / 8)) ≤ 1 then 0 else s.get (MAC_LPI_EN p)

/-- The dependent fields that live writes can move. -/
def depsLive : List Dep := [
  ⟨32, TDC_CH_WIN, fun s n => s.legalWin (TDC_CH_WMODE n) (TDC_CH_WIN n)⟩, ⟨8, TDC_IV_STWIN, fun s m => s.legalWin (TDC_IV_WMODE m) (TDC_IV_STWIN m)⟩,
  ⟨16, SEL_PRIO_RANK, State.legalRank⟩,
  ⟨20, SEL_SRC_FHARD, fun s k => max (s.get (SEL_SRC_FSOFT k)) (s.get (SEL_SRC_FHARD k))⟩,
  ⟨20, SEL_SRC_DHARD, fun s k => max (s.get (SEL_SRC_DSOFT k)) (s.get (SEL_SRC_DHARD k))⟩,
  ⟨1, fun _ => GN_JAMCFG_FLAG, fun s _ => max (s.get GN_JAMCFG_WARN + 1) (s.get GN_JAMCFG_FLAG)⟩,
  ⟨1, fun _ => NTP_DROPTHR_THR, fun s _ => max (s.get NTP_KODTHR_THR) (s.get NTP_DROPTHR_THR)⟩,
  ⟨1, fun _ => PM_VLIM_VMAX, fun s _ => max (s.get PM_VLIM_VMIN) (s.get PM_VLIM_VMAX)⟩,
  ⟨32, MAC_LPI_EN, State.legalLpi⟩]

/-- Those that only the image moves. -/
def depsImage : List Dep := [
  ⟨16, OUT_RATE, State.legalRate⟩,
  ⟨1, fun _ => PTP_UCCFG_DURMAX, fun s _ => max (s.get PTP_UCCFG_DURMIN) (s.get PTP_UCCFG_DURMAX)⟩,
  ⟨6, FAB_PART_ASSOCCNT, fun s k => min (s.get (FAB_PART_ASSOCCNT k)) (1048576 - s.get (FAB_PART_ASSOCBASE k))⟩,
  ⟨32, fun i => MAC_LANE_MAIN (i / 8) (i % 8), fun s i => s.legalMain (i / 8) (i % 8)⟩,
  ⟨2048, fun i => MAC_FILT_PORTHI (i / 64) (i % 64), fun s i =>
    max (s.get (MAC_FILT_PORTLO (i / 64) (i % 64))) (s.get (MAC_FILT_PORTHI (i / 64) (i % 64)))⟩]

/-- Re-clamp dependent fields: the state, and the fields that changed with their former values. -/
def State.reclamp (s : State) (deps : List Dep) : State × List (Field × Nat) :=
  deps.foldl (fun r d => (List.range d.n).foldl (fun (r : State × List (Field × Nat)) i =>
    let F := d.field i
    let v := r.1.get F
    let w := d.legal r.1 i
    if w = v then r else (r.1.set F w, r.2 ++ [(F, v)])) r) (s, [])

/-- A re-clamp in the clamp log: the dependent register, its former word, and the word now in force, with SOURCE 3
(DEDUCED notes/assumptions/26.md). -/
def State.logReclamp (s : State) (x : Field × Nat) : State :=
  let w := s.word (regAt x.1.addr)
  let old := w - s.get x.1 * 2 ^ x.1.lo + x.2 * 2 ^ x.1.lo
  s.clampLog x.1.addr old w 3

end Sys2Proof.Machine
end

