-- ==== Sys2Proof/Machine/Flash.lean ====
section
/-! DEFINITION. The flash (spec/14_boot_configuration_lifecycle.md R372, R373, R397, R398): its bytes, erased at 0xFF, and its
operations. -/
namespace Sys2Proof.Machine

/-- `n` bytes from a flash address. -/
def State.flashBytes (s : State) (a n : Nat) : List Byte := SMap.getMany 0xFF s.boot.flash a n

/-- Erase `n` bytes. -/
def State.flashErase (s : State) (a n : Nat) : State := s.onBoot fun b => { b with flash := SMap.clearRange b.flash a n }

/-- Put bytes. -/
def State.flashPut (s : State) (a : Nat) (bs : List Byte) : State :=
  s.onBoot fun b => { b with flash := SMap.setMany 0xFF b.flash a bs }

/-- Program bytes: bits go from 1 to 0 only (PRESUMED notes/assumptions/23.md). -/
def State.flashProgram (s : State) (a : Nat) (bs : List Byte) : State :=
  s.flashPut a (List.zipWith (fun x y => x &&& y) bs (s.flashBytes a bs.length))

/-- The flash address of a slot, and of its markers (R372). -/
def slotBase (k : Nat) : Nat := if k = 0 then 0 else 0x04000000
def markerBase (k : Nat) : Nat := slotBase k + 0x03FFF000

/-- A marker byte is set: programmed to 0x00; other contents than 0xFF and 0x00 count as set (PRESUMED notes/assumptions/23.md). -/
def State.marker (s : State) (k i : Nat) : Bool := SMap.get 0xFF s.boot.flash (markerBase k + i) ≠ 0xFF

/-- Program a marker of a slot and show it: 0 ATTEMPT, 1 CONFIRM. -/
def State.setMarker (s : State) (k i : Nat) : State :=
  (s.flashPut (markerBase k + i) [0]).set (if i = 0 then NVM_SLOT_ATTEMPTED k else NVM_SLOT_CONFIRMED k) 1

/-- A 4 KiB block whose content is not stated: the next free value gives its bytes (DESIGN CHOICE notes/assumptions/3.md). -/
def State.garbled (s : State) : List Byte := (List.range 4096).map fun i => BitVec.ofNat 8 (s.draw / 256 ^ i)

/-- A power loss or a BOOT ends the session. A program operation in hand leaves its 4 KiB in a state that is not stated, and
how many sectors an erase has reached is not stated either (R398; DESIGN CHOICE notes/assumptions/3.md). -/
def State.flashTorn (s : State) : State :=
  let base := slotBase (s.get NVM_STATUS_SESSIONSLOT)
  let s := match s.boot.op with
    | some .program => s.drawn.flashPut (base + s.get NVM_UPDOFS_OFS) s.garbled
    | some .erase => s.drawn.flashErase base (4096 * (1 + s.draw % 16383))
    | _ => s
  s.onBoot fun b => { b with op := none }

end Sys2Proof.Machine
end

