-- ==== Sys2Proof/Machine/Image.lean ====
section
/-! DEFINITION. The Grero image (spec/14_boot_configuration_lifecycle.md R374 to R378, R381 to R383): header and sections, the
checks of a slot, and the configuration it gives. -/
namespace Sys2Proof.Machine

/-! ### Header and section table (R374, R375) -/

/-- A section as the table lists it. -/
structure Section where
  type : Nat
  mandatory : Bool
  ofs : Nat
  len : Nat
  crc : Nat
  inst : Nat
  deriving DecidableEq, Repr

/-- The header of the image in slot `k`, and a field of it. -/
def State.head (s : State) (k : Nat) : List Byte := s.flashBytes (slotBase k) 256
def State.headField (s : State) (k o n : Nat) : Nat := leNat (s.flashBytes (slotBase k + o) n)
def State.imgLen (s : State) (k : Nat) : Nat := s.headField k 12 4
def State.imgSeq (s : State) (k : Nat) : Nat := s.headField k 16 8
def State.imgSvn (s : State) (k : Nat) : Nat := s.headField k 32 4

/-- A section from its 32-byte entry. -/
def sectionOf (b : List Byte) : Section :=
  { type := leNat (slice b 0 2), mandatory := leNat (slice b 2 2) % 2 == 1, ofs := leNat (slice b 4 4), len := leNat (slice b 8 4)
    crc := leNat (slice b 12 4), inst := leNat (slice b 16 2) }

/-- The sections of a slot. -/
def State.sections (s : State) (k : Nat) : List Section :=
  (List.range (s.headField k 38 2)).map fun i => sectionOf (s.flashBytes (slotBase k + 256 + 32 * i) 32)

/-- The bytes of a section. -/
def State.sectionBytes (s : State) (k : Nat) (x : Section) : List Byte := s.flashBytes (slotBase k + x.ofs) x.len

/-- The bytes of the first section of a type. -/
def State.findSection (s : State) (k type : Nat) : Option (List Byte) :=
  ((s.sections k).find? fun x => x.type == type).map (s.sectionBytes k)

/-! ### Checks of a slot (R376 to R378) -/

/-- No two ranges of a list overlap; each is a start and a length. -/
def disjointRanges : List (Nat × Nat) → Bool
  | [] => true
  | (a, n) :: t => t.all (fun p => n == 0 || p.2 == 0 || a + n ≤ p.1 || p.1 + p.2 ≤ a) && disjointRanges t

/-- Check 7. -/
def State.lengthOk (s : State) (k : Nat) : Bool :=
  let len := s.imgLen k
  let n := s.headField k 38 2
  let secs := s.sections k
  4096 ≤ len && len ≤ 67104768 && 1 ≤ n && n ≤ 64 && secs.all (fun x => x.ofs + x.len ≤ len - 256) &&
    disjointRanges ((0, 256) :: (256, 32 * n) :: (len - 256, 256) :: secs.map fun x => (x.ofs, x.len))

/-- Check 8: the rules of R376 on section types. -/
def sectionsOk (l : List Section) : Bool :=
  let n (t : Nat) := (l.filter fun x => x.type == t).length
  let code : List Nat := (l.filter fun x => x.type == 3).map (·.inst)
  l.all (fun x => (1 ≤ x.type && x.type ≤ 8) || !x.mandatory) && n 1 == 1 && n 2 == 1 && code.all (fun i => decide (i ≤ 5)) && decide code.Nodup &&
    decide (n 4 ≤ 8) && [5, 6, 7, 8].all fun t => decide (n t ≤ 1)

/-- Checks 2 to 8 in their order: the reason of the first that fails, 0 when all pass. -/
def State.headCheck (s : State) (k : Nat) : Nat :=
  let h := s.head k
  if leNat (h.take 4) = 0xFFFFFFFF then 2
  else if leNat (h.take 4) ≠ 0x4F525247 then 3
  else if leNat (slice h 252 4) ≠ crc32c (h.take 252) then 4
  else if s.headField k 4 1 ≠ 1 ∨ 3 < s.headField k 5 1 then 5
  else if s.headField k 6 2 ≠ 0x9620 ∨ !(s.headField k 8 4).testBit (s.get SYS_ID_STEP) then 6
  else if !s.lengthOk k then 7
  else if !sectionsOk (s.sections k) then 8
  else 0

/-- Check 9. -/
def State.crcOk (s : State) (k : Nat) : Bool := (s.sections k).all fun x => crc32c (s.sectionBytes k x) == x.crc

/-- The image's digest, its signing key, and that key's digest (R377). -/
def State.imgDigest (s : State) (k : Nat) : BitVec 384 := Config.sha384 (s.flashBytes (slotBase k) (s.imgLen k - 256))
def State.signKey (s : State) (k : Nat) : List Byte := s.flashBytes (slotBase k + s.imgLen k - 256) 96
def State.keyHash (s : State) (k : Nat) : BitVec 384 := Config.sha384 (s.signKey k)

/-- A root slot is fused and not revoked, and its digest. -/
def State.rootLive (s : State) (r : Nat) : Bool :=
  if r = 0 then s.is SYS_LIFECYCLE_ROOT0 && !s.is SYS_LIFECYCLE_REV0 else r == 1 && s.is SYS_LIFECYCLE_ROOT1 && !s.is SYS_LIFECYCLE_REV1
def State.rootDigest (s : State) (r : Nat) : BitVec 384 := if r = 0 then s.boot.root0 else s.boot.root1

/-- Check 10: the key rule of R377. -/
def State.rootOk (s : State) (k : Nat) : Bool :=
  s.get SYS_LIFECYCLE_STATE == 0 || (s.rootLive (s.headField k 36 1) && s.keyHash k == s.rootDigest (s.headField k 36 1))

/-- Check 11: the signature. -/
def State.signOk (s : State) (k : Nat) : Bool :=
  Config.ecdsaP384 (s.signKey k) (s.imgDigest k) (s.flashBytes (slotBase k + s.imgLen k - 160) 96)

/-- Check 12: the SVN rule. -/
def State.svnOk (s : State) (k : Nat) : Bool := s.get SYS_LIFECYCLE_STATE ≤ 1 || s.get SYS_LIFECYCLE_SVNCNT ≤ s.imgSvn k

/-! ### The configuration (R381, R383) -/

/-- A CONFIG entry: address, mask, value. -/
abbrev CfgEntry := Nat × Nat × Nat

/-- The entries of a CONFIG section. -/
def cfgEntries (b : List Byte) : List CfgEntry :=
  (List.range (b.length / 12)).map fun i => (leNat (slice b (12 * i) 4), leNat (slice b (12 * i + 4) 4), leNat (slice b (12 * i + 8) 4))

/-- In ascending address order, entries of one address in the order of the list. -/
def insertEntry (e : CfgEntry) : List CfgEntry → List CfgEntry
  | [] => [e]
  | f :: t => if f.1 ≤ e.1 then f :: insertEntry e t else e :: f :: t
def sortEntries (l : List CfgEntry) : List CfgEntry := l.foldl (fun r e => insertEntry e r) []

/-- The port whose register lies at an address. -/
def portOfAddr (a : Nat) : Option Nat :=
  if 0x100000 ≤ a ∧ a < 0x200000 then
    (if 0x7000 ≤ (a - 0x100000) % 0x8000 ∧ (a - 0x100000) % 0x40000 < 0x7040 then none else some ((a - 0x100000) / 0x8000))
  else if 0x201000 ≤ a ∧ a < 0x202000 then some ((a - 0x201000) / 0x80)
  else if 0x481000 ≤ a ∧ a < 0x481800 then some ((a - 0x481000) / 0x40)
  else none

/-- The port's registers exist (R160). -/
def State.addrExists (s : State) (a : Nat) : Bool :=
  match portOfAddr a with
  | some p => s.portExists p
  | none => true

/-- The bits of a word that some fields cover. -/
def maskOf (fs : List RegField) : Nat := fs.foldl (fun m f => m ||| f.field.mask) 0

/-- The masked bits of a field are set, to a legal value; whether that is not the value supplied. -/
def State.mergeField (s : State) (F : Field) (m v : Nat) : State × Bool :=
  let fm := F.of m
  if fm = 0 then (s, false)
  else
    let w := (s.get F &&& (2 ^ F.width - 1 - fm)) ||| (F.of v &&& fm)
    let l := s.legal F w
    (s.set F l, l ≠ w)

/-- Channels 24 to 31 of the interval measurement, which Niloth firmware configures and no image sets (R60, R61). -/
def firmwareChannel (a : Nat) : Bool := 0x40700 ≤ a && a < 0x40900

/-- One entry: ignored whole when it names another address than a register of fields the image sets, or covers another bit;
whether a value was clamped. -/
def State.applyEntry (s : State) (e : CfgEntry) : State × Bool :=
  let fs := if firmwareChannel e.1 then [] else (regAt e.1).filter fun f => f.image || f.access == .rw
  if !s.addrExists e.1 then (s, false)
  else if fs = [] ∨ e.2.1 &&& maskOf fs ≠ e.2.1 then (s.bump CFG_IMGSTAT_IGNORED 1, false)
  else fs.foldl (fun r f =>
    let x := r.1.mergeField f.field e.2.1 e.2.2
    (x.1, r.2 || x.2)) (s, false)

/-- A clock frequency of 1 Hz to 1.0 GHz over two registers (R109). -/
def State.clampFreq (s : State) (n : Nat) : State × List (Field × Nat) :=
  let v := s.get64 (OUT_FREQ_LO n) (OUT_FREQ_HI n)
  let w := clampTo 65536 (10 ^ 9 * 65536) v
  if w = v then (s, [])
  else (s.set64 (OUT_FREQ_LO n) (OUT_FREQ_HI n) w, [(OUT_FREQ_LO n, s.get (OUT_FREQ_LO n)), (OUT_FREQ_HI n, s.get (OUT_FREQ_HI n))])

/-- An entry names a field. -/
def namesField (l : List CfgEntry) (F : Field) : Bool := l.any fun e => e.1 == F.addr && F.of e.2.1 ≠ 0

/-- The second pass: dependent fields, and clock frequencies that the entries name. -/
def State.secondPass (s : State) (l : List CfgEntry) : State × List (Field × Nat) :=
  let r := s.reclamp (depsImage ++ depsLive)
  (List.range 16).foldl (fun r n =>
    if namesField l (OUT_FREQ_LO n) || namesField l (OUT_FREQ_HI n) then
      ((r.1.clampFreq n).1, r.2 ++ (r.1.clampFreq n).2)
    else r) r

/-- The defaults that a profile and the port rates give (R273, R275, R281, R286). -/
def State.profileDefaults (s m : State) : State :=
  let p := m.get PTP_CFG_PROFILE
  let g := p == 1 || p == 2
  let s := s.set PTP_PRIO_PRIO1 (if p = 4 then 246 else 128)
  let s := if !g then s else s.forEach 5 fun s q =>
    let c := ([6, 248, 7, 140, 248] : List Nat).getD q 248
    (s.set (PTP_QMAP_CLASS q) c).set (PTP_QMAP_ACC q) (if q = 0 ∨ q = 2 then 0x21 else 0xFE)
  s.forEach 32 fun s i =>
    let s := s.setb (PTP_P_MASTERONLY i) g
    let s := ((s.seti (PTP_P_LOGSYNC i) (if p = 1 then -4 else if p = 4 then -3 else 0)).seti (PTP_P_LOGANN i)
      (if p = 0 then 1 else if p = 1 then -3 else 0)).seti (PTP_P_LOGDREQ i) (if p = 1 then -4 else 0)
    let s := s.seti (PTP_P_LOGPDREQ i) (if p = 1 then -4 else 0)
    if m.portExists i then s.set (PTP_P_BUDGET i) (32000000000 / (m.portRow i).block) else s

/-- The configuration on top of reset values: port modes and the profile first, as defaults and existing ports depend on
them; then every entry; then the second pass; then the clamp log, the image's writes in their order and re-clamps after
them (DEDUCED notes/assumptions/26.md). -/
def State.configure (s : State) (cfg : List Byte) : State :=
  let l := sortEntries (cfgEntries cfg)
  let early := l.filter fun e => e.1 = 0x480000 ∨ (portOfAddr e.1 = none ∧ 0x107000 ≤ e.1 ∧ e.1 < 0x200000)
  let m := early.foldl (fun s e => (s.applyEntry e).1) s
  let modes := (early.filter fun e => e.1 ≠ 0x480000).foldl (fun s e => (s.applyEntry e).1) s
  let s0 := s.profileDefaults m
  -- quads first, so that R160 sees the modes the image gives
  let s0 := s0.forEach 4 fun s q =>
    ((s.set (MAC_QMODE_EN q) (modes.get (MAC_QMODE_EN q))).set (MAC_QMODE_MODE q) (modes.get (MAC_QMODE_MODE q))).set (MAC_QMODE_FEC25 q)
      (modes.get (MAC_QMODE_FEC25 q))
  let r := l.foldl (fun (r : State × List CfgEntry) e =>
    let x := r.1.applyEntry e
    (x.1, if x.2 then r.2 ++ [e] else r.2)) (s0, [])
  let d := r.1.secondPass l
  let hit := l.filter fun e => r.2.contains e || d.2.any fun x => namesField [e] x.1
  let s := hit.foldl (fun s e => s.clampLog e.1 e.2.2 (s.word (regAt e.1)) 0) d.1
  (d.2.filter fun x => !namesField l x.1).foldl State.logReclamp s

/-! ### The Grero refusal rules (R382) -/

/-- The sets of a list are disjoint. -/
def disjointMasks : List Nat → Bool
  | [] => true
  | m :: t => t.all (fun x => m &&& x == 0) && disjointMasks t

/-- R215: no cluster in two partitions, partitions 0 and 1 with a cluster, no queue of an existing port mapped to a disabled
partition. -/
def State.ruleClusters (s : State) : Bool :=
  disjointMasks ((List.range 6).map fun k => s.get (FAB_PART_CLMASK k)) && s.get (FAB_PART_CLMASK 0) ≠ 0 && s.get (FAB_PART_CLMASK 1) ≠ 0 &&
    (List.range 32).all fun p => !s.portExists p || (List.range 16).all fun q => s.partOn (s.rqPart p q)

/-- R228: the entry ranges of enabled partitions do not overlap. -/
def State.ruleRanges (s : State) : Bool :=
  disjointRanges (((List.range 6).filter s.partOn).map fun k => (s.get (FAB_PART_ASSOCBASE k), s.get (FAB_PART_ASSOCCNT k)))

/-- R273: the domain and the ports lie in the profile's row. -/
def State.rulePtp (s : State) : Bool :=
  let d := s.get PTP_CFG_DOMAIN
  let ports := (List.range 32).filter fun p => s.portExists p && s.is (PTP_P_EN p)
  let tr (p : Nat) := s.get (PTP_P_TRANSPORT p)
  match s.get PTP_CFG_PROFILE with
  | 0 => decide (d ≤ 127)
  | 1 => 24 ≤ d && d ≤ 43 && ports.all fun p => tr p == 0 && !s.is (PTP_P_UNICAST p) && !s.is (PTP_P_P2P p)
  | 2 => 44 ≤ d && d ≤ 63 && ports.all fun p => tr p ≠ 0 && !s.is (PTP_P_MCAST p) && !s.is (PTP_P_P2P p)
  | 3 => d == 254 && ports.all fun p => tr p == 0 && !s.is (PTP_P_UNICAST p) && s.is (PTP_P_P2P p)
  | _ => decide (d ≤ 127) && ports.all fun p => tr p == 0 && !s.is (PTP_P_UNICAST p) && s.is (PTP_P_P2P p)

/-- R294: the PTPIN domain is not the domain served on its port. -/
def State.rulePtpin (s : State) : Bool :=
  !(s.is PTPIN_EN && s.is PTP_CFG_EN && s.is (PTP_P_EN (s.get PTPIN_PORT)) && s.get PTPIN_DOMAIN == s.get PTP_CFG_DOMAIN)

/-- R318: every user has a partition, those of Roughtime and NTS-KE two engines, and no engine lies in two partitions. -/
def State.ruleTeasel (s : State) : Bool :=
  let on := (List.range 4).filter fun k => s.is (TSL_PART_EN k)
  let engs (k : Nat) := ((List.range 16).filter fun e => s.bit (TSL_PART_ENGMASK k) e).length
  (List.range 3).all (fun u => on.any fun k => s.bit (TSL_PART_USERS k) u) &&
    on.all (fun k => !(s.bit (TSL_PART_USERS k) 0 || s.bit (TSL_PART_USERS k) 1) || decide (2 ≤ engs k)) &&
    disjointMasks (on.map fun k => s.get (TSL_PART_ENGMASK k))

/-- Every rule the manual states in the form "Grero refuses an image": R122, R215, R228, R245, R273, R294, R308, R318, R376. -/
def State.configRules (s : State) (secs : List Section) (firmware : List Byte) : Bool :=
  (Config.signals firmware).all (fun x => s.gnFits x.1 x.2) && s.ruleClusters && s.ruleRanges &&
    !(s.get NTS_CFG_NTPPORT == 123 && s.partOn 2 && s.partOn 3) && s.rulePtp && s.rulePtpin &&
    !(s.is RT_CFG_EN && decide (1 ≤ s.get (FAB_PART_MAXAGE 5)) && decide (s.get (FAB_PART_MAXAGE 5) ≤ 19999)) && s.ruleTeasel &&
    (List.range 6).all fun k => !s.partOn k || secs.any fun x => x.type == 3 && x.inst == k

end Sys2Proof.Machine
end

