-- ==== Sys2Proof/Machine/Ntp.lean ====
section
/-! DEFINITION. NTP and NTS (spec/09_ntp_and_nts.md). -/
namespace Sys2Proof.Machine

/-! ### NTP server (R246 to R254) -/

/-- Check 2 of R246: an IP source no answer may go to, or UDP source port 0. -/
def badSource (ip : Ip) (sport : Nat) : Bool :=
  let n := beNat ip.src
  sport == 0 ||
    (if ip.ver = 1 then n / 2 ^ 28 == 14 || n == 0xFFFFFFFF || n == 0 || n / 2 ^ 24 == 127
     else n / 2 ^ 120 == 0xFF || n == 0 || n == 1)

/-- The rate key of a client: IPv4 /32 or IPv6 /56 (R232). -/
def rateKey (ip : Ip) : Nat := if ip.ver = 1 then beNat ip.src else 2 ^ 56 + beNat (ip.src.take 7)

/-- The decision of R253. -/
inductive RateDecision where
  | answer | kod | drop
  deriving DecidableEq, Repr

/-- One RATE call of partition `k` and its decision (R253). A call that returns ERR is answered. -/
def State.rateDecide (s : State) (g : Eng) (k : Nat) (ip : Ip) (ecc : Ecc) : State × RateDecision :=
  if !s.is NTP_RATE_EN || s.get FAB_RATE_OWNER ≠ k then (s, .answer)
  else match ecc with
  | .broken _ =>
    let s := (s.rateCall g (rateKey ip) 1 ecc).onEng g fun x => { x with results := [] }
    let s := s.bump NTP_CNT_RATEERR 1
    if s.ntp.rateErr then (s, .answer) else ((s.onNtp fun n => { n with rateErr := true }).event 0x4004 2 0, .answer)
  | _ =>
    let s := if ecc = .corrected then s.bump FAB_ECC_CORR 1 else s
    let r := s.rate (rateKey ip) 1
    if r.2 ≤ s.get NTP_KODTHR_THR then (r.1, .answer)
    else if r.2 ≤ s.get NTP_DROPTHR_THR then (r.1, .kod)
    else (r.1, .drop)

/-- Poll of a response: the request's, raised to a least value, at most 17 (R247). -/
def pollOf (req least : Nat) : Nat := ofSigned 8 (min (max (toSigned 8 req) least) 17)

/-- The header of R247 with the quality fields of the last published TQR group and a transmit timestamp. -/
def State.ntpHeader (s : State) (r : Req) (p : List Byte) (tx : Nat) : List Byte :=
  let b0 := beNat (p.take 1)
  let vn := b0 / 8 % 8
  let mode := if vn = 1 ∧ b0 % 8 = 0 then 0 else 4
  let c := s.get SEL_TQR_CLASS
  let at_ (t : Nat) : Nat := ntpStamp t (s.utcAt (instSec t))
  let ref := if c ≤ 4 then at_ (s.getTs SEL_TQR_TIME)
    else if c ≤ 6 then ntpStamp s.sel.clsTime s.sel.clsOfs else 0
  beBytes 1 (s.ntpLi (instSec r.stamp) * 64 + vn * 8 + mode) ++ beBytes 1 (s.get (NTP_CLASS_STRATUM c)) ++
  beBytes 1 (pollOf (beNat (slice p 2 1)) (s.get NTP_CFG_MINPOLL)) ++ beBytes 1 (s.get NTP_CFG_PRECISION) ++
  beBytes 4 (s.get (NTP_RDELAY_RDELAY c)) ++ beBytes 4 s.rootDisp ++ beBytes 4 (s.refIdOf c) ++ beBytes 8 ref ++
  slice p 40 8 ++ beBytes 8 (at_ r.stamp) ++ beBytes 8 tx

/-- The header of R254, with a Reference ID. -/
def State.kodHeader (s : State) (p : List Byte) (refId : Nat) : List Byte :=
  let b0 := beNat (p.take 1)
  let vn := b0 / 8 % 8
  let mode := if vn = 1 ∧ b0 % 8 = 0 then 0 else 4
  beBytes 1 (192 + vn * 8 + mode) ++ [0] ++ beBytes 1 (pollOf (beNat (slice p 2 1)) (s.get NTP_RATE_KODPOLL)) ++
  beBytes 1 (s.get NTP_CFG_PRECISION) ++ beBytes 8 0 ++ beBytes 4 refId ++ beBytes 8 0 ++ slice p 40 8 ++ slice p 40 8 ++ slice p 40 8

/-- The check of R246 that a request fails: its counter. -/
def ntpCheck (ip : Ip) (sport : Nat) (p : List Byte) : Option Field :=
  let b0 := beNat (p.take 1)
  let vn := b0 / 8 % 8
  let mode := b0 % 8
  if p.length < 48 then some NTP_CNT_SHORT
  else if badSource ip sport then some NTP_CNT_BADSRC
  else if vn = 0 ∨ 5 ≤ vn then some NTP_CNT_VERDROP
  else if mode = 6 then some NTP_CNT_MODE6
  else if mode = 7 then some NTP_CNT_MODE7
  else if mode ≠ 3 ∧ ¬(vn = 1 ∧ mode = 0) then some NTP_CNT_MODEOTHER
  else if p.length = 68 ∨ p.length = 72 then some NTP_CNT_LEGACYMAC
  else none

/-- The counter of responses per request version. -/
def versionCount : Nat → Field
  | 1 => NTP_CNT_V1
  | 2 => NTP_CNT_V2
  | 3 => NTP_CNT_V3
  | _ => NTP_CNT_V4

/-- An NTP request (R246 to R254). -/
def State.ntpRequest (s : State) (g : Eng) (ecc : Ecc) : State :=
  s.routine g 2 fun r =>
    if !s.is NTP_CFG_EN then s.dropReq g else
    match reqUdp r with
    | none => s.dropReq g
    | some (ip, p) =>
      let s := s.bump NTP_CNT_REQ 1
      match ntpCheck ip (beNat (slice r.bytes ip.l4 2)) p with
      | some F =>
        let s := s.bump F 1
        let s := if F = NTP_CNT_MODE6 then s.noteSec 0x4003 0 else if F = NTP_CNT_MODE7 then s.noteSec (0x4003 + 65536) 0 else s
        s.dropReq g
      | none =>
        let q := s.rateDecide g 2 ip ecc
        let s := q.1
        match q.2 with
        | .drop => ((s.bump NTP_CNT_RATEDROP 1).noteSec (0x4002 + 65536) 0).dropReq g
        | .kod =>
          let f := s.udpReply r (s.get NTP_CFG_TTL) (s.get NTP_IPCFG_DSCP) (s.kodHeader p 0x52415445)
          ((((s.sendFrame g r r.port 2 f.1 {} none).bump NTP_CNT_KOD 1).noteSec 0x4002 0)).done g
        | .answer =>
          let f := s.udpReply r (s.get NTP_CFG_TTL) (s.get NTP_IPCFG_DSCP) (s.ntpHeader r p 0)
          let s := s.sendFrame g r r.port 2 f.1 { op := 1, ofs := f.2 + 40, csum := true } none
          let s := if 48 < p.length then s.bump NTP_CNT_EXTIGN 1 else s
          ((s.bump NTP_CNT_RESP 1).bump (versionCount (beNat (p.take 1) / 8 % 8)) 1).done g

def execNtpRequest (g : Eng) (ecc : Ecc) (s : State) : Out := .next (s.ntpRequest g ecc)

/-! ### Master keys (R260 to R263) -/

/-- The generation in a slot, if one is held. -/
def State.keySlot (s : State) (slot : Nat) : Option (Nat × Nat) :=
  if s.bit NTS_KEYSTAT_VALID slot then some (SMap.get (0, 0) s.ntp.keys slot) else none

/-- The key of a generation that a slot holds. -/
def State.genKey (s : State) (gen : Nat) : Option Nat :=
  match s.keySlot (gen % 4) with
  | some (g, k) => if g = gen then some k else none
  | none => none

/-- Every NTS cluster's slot holds the same key (R261). -/
def State.fillSlots (s : State) (slot key : Nat) : State :=
  s.forEach 32 fun s c =>
    if s.bit (FAB_PART_CLMASK 3) c then
      s.setCluster c { s.cluster c with keySlots := SMap.set 0 (s.cluster c).keySlots slot key }
    else s

/-- Load a generation into its slot (R261, R263). -/
def State.installGen (s : State) (gen key : Nat) (fromPartner : Bool) : State :=
  let slot := gen % 4
  let s := s.onNtp fun n => { n with keys := SMap.set (0, 0) n.keys slot (gen, key), next := some gen }
  let s := (s.setBit NTS_KEYSTAT_VALID slot true).setBit NTS_KEYSTAT_REPL slot fromPartner
  let s := s.putKey (16 + slot) 1 0 32 key
  (s.set (NTS_KEYDIG_DIGEST slot) ((Config.sha256 (beBytes 4 gen ++ beBytes 32 key)).toNat / 2 ^ 224)).fillSlots slot key

/-- Zero a slot. -/
def State.zeroSlot (s : State) (slot : Nat) : State :=
  (((s.onNtp fun n => { n with keys := SMap.set (0, 0) n.keys slot (0, 0) }).setBit NTS_KEYSTAT_VALID slot false).setBit
    NTS_KEYSTAT_REPL slot false).set (NTS_KEYDIG_DIGEST slot) 0 |>.fillSlots slot 0 |>.dropKey (16 + slot)

/-- A generation becomes current, and the one before the accepted set is zeroed (R261). -/
def State.adoptGen (s : State) (gen : Nat) : State :=
  let s := (s.set NTS_KEYGEN_GEN gen).set NTS_KEYSTAT_CURSLOT (gen % 4)
  let s := s.onNtp fun n => { n with next := none, hour := instSec s.now / 3600 }
  (s.zeroSlot ((gen + 1) % 4)).set NTS_ROTATE_ROTATE 0
def State.makeCurrent (s : State) (gen : Nat) : State := (s.adoptGen gen).event 0x4101 0 gen

/-- The device generates keys: it is not a pair member, or holds the token (R261), and it may hold keys (R389, R394). -/
def State.makesKeys (s : State) : Bool := !s.keysOff && (!s.is SYS_MODE_PAIR || s.get LEASE_STATUS_STATE == 5)

/-- Draw a generation that becomes current at a TB second, load it, and send it to the partner in a pair (R261). -/
def State.drawGen (s : State) (gen sec : Nat) : State :=
  let r := s.rand 256
  let s := (r.2.installGen gen r.1 false).onNtp fun n => { n with nextAt := sec }
  if s.is SYS_MODE_PAIR then s.onLease fun l => { l with repl := l.repl ++ [.nts gen] } else s

/-- The first generation, at BOOT of a device outside a pair (R261). -/
def State.firstGen (s : State) : State :=
  let r := s.rand 32
  let s := r.2.drawGen r.1 0
  ((s.set NTS_KEYGEN_GEN r.1).set NTS_KEYSTAT_CURSLOT (r.1 % 4)).onNtp fun n => { n with next := none, hour := instSec s.now / 3600 }

/-- The services run: from the end of BOOT, outside SAFE. -/
def State.serviceOn (s : State) : Bool :=
  match s.mode with
  | .warmup | .service | .holdover | .standby | .maintenance => true
  | _ => false

/-- Step 1 of R261, in the 60 s before an hour boundary, once for each: the generation becomes current at the boundary. Nothing is
drawn while one waits already, as after NTS_ROTATE (DESIGN CHOICE notes/assumptions/59.md). -/
def State.genDraw (s : State) : State :=
  let sec := instSec s.now
  if s.serviceOn && s.makesKeys && s.ntp.next.isNone && decide (3540 ≤ sec % 3600) && s.ntp.drawHour != some (sec / 3600) then
    (s.drawGen ((s.get NTS_KEYGEN_GEN + 1) % 2 ^ 32) ((sec / 3600 + 1) * 3600)).onNtp fun n => { n with drawHour := some (sec / 3600) }
  else s

/-- Step 2 of R261, once its second has come. A pair member without the token to which the holder's generation has not come moves its
schedule on without it at an hour boundary (R263). -/
def State.genCurrent (s : State) : State :=
  let sec := instSec s.now
  if !s.serviceOn then s
  else match s.ntp.next with
  | some g => if s.ntp.nextAt ≤ sec then s.makeCurrent g else s
  | none =>
    if !s.makesKeys ∧ s.get NTS_KEYSTAT_VALID ≠ 0 ∧ s.ntp.hour < sec / 3600 then s.makeCurrent ((s.get NTS_KEYGEN_GEN + 1) % 2 ^ 32)
    else s

/-- NTS_ROTATE (R262). -/
def State.ntsRotate (s : State) : State :=
  if !s.serviceOn then s
  else if !s.makesKeys then s.set NTS_ROTATE_STATUS 2
  else
    let s := if s.ntp.next.isSome then s else s.drawGen ((s.get NTS_KEYGEN_GEN + 1) % 2 ^ 32) 0
    ((s.onNtp fun n => { n with nextAt := instSec s.now + 1 }).set NTS_ROTATE_STATUS 1).set NTS_ROTATE_ROTATE 1

/-- At a second boundary a rotation asked for takes effect; the time to the next hour and the handshake rate follow
(R261, R262). -/
def State.ntsBoundary (s : State) : State :=
  let s := match s.is NTS_ROTATE_ROTATE, s.ntp.next with
    | true, some g => s.makeCurrent g
    | _, _ => s
  let s := s.set NTS_KEYSTAT_NEXTROT (3600 - instSec s.now % 3600)
  (s.setSat NTS_KESTAT_HSRATE s.ntp.handshakes).onNtp fun n => { n with handshakes := 0 }

/-- A generation of the partner is installed (R263, R367): it is current at the next hour boundary when it comes in the
60 s before one (step 1 of R261), else at once. -/
def State.genReceived (s : State) (gen key : Nat) : State :=
  let sec := instSec s.now
  let s := (s.installGen gen key true).event 0x4107 0 gen
  if 3540 ≤ sec % 3600 ∧ (s.genKey (s.get NTS_KEYGEN_GEN)).isSome then s.onNtp fun n => { n with nextAt := (sec / 3600 + 1) * 3600 }
  else s.adoptGen gen

/-- A generation is newer than the newest installed (R365). -/
def State.genNewer (s : State) (gen : Nat) : Bool :=
  let d := (gen + 2 ^ 32 - s.ntp.next.getD (s.get NTS_KEYGEN_GEN)) % 2 ^ 32
  s.get NTS_KEYSTAT_VALID == 0 || (d ≠ 0 && d < 2 ^ 31)

/-- A device takes the token without the holder's current generation (R263). -/
def State.ntsTake (s : State) : State :=
  if s.is NTS_CFG_EN && !s.keysOff && (s.genKey (s.get NTS_KEYGEN_GEN)).isNone then
    let r := if s.get NTS_KEYSTAT_VALID = 0 then s.rand 32 else ((s.get NTS_KEYGEN_GEN + 1) % 2 ^ 32, s)
    ((r.2.drawGen r.1 (instSec s.now + 1)).set NTS_ROTATE_ROTATE 1).event 0x4106 2 r.1
  else s

/-- KEY unit call (R226): an NTS generation into a key slot of the cluster; ERR for one not held. -/
def State.keyLoad (s : State) (g : Eng) (gen slot : Nat) : State :=
  s.onCall g 8 fun s =>
    match s.genKey gen with
    | some k => (s.setCluster g.c { s.cluster g.c with keySlots := SMap.set 0 (s.cluster g.c).keySlots (slot % 4) k }).answer g 8 true []
    | none => s.answer g 8 false []

def execKeyGenerationDraw (s : State) : Out := .next s.genDraw
def execKeyGenerationCurrent (s : State) : Out := .next s.genCurrent
def execNtsRotate (s : State) : Out := .next s.ntsRotate
def execKeyLoad (g : Eng) (gen slot : Nat) (s : State) : Out := .next (s.keyLoad g gen slot)

/-- A cookie under the current generation (R260), and the state that has drawn its nonce. -/
def State.cookie (s : State) (c2s s2c : List Byte) : List Byte × State :=
  let gen := s.get NTS_KEYGEN_GEN
  let r := s.rand 128
  let id := beBytes 4 gen
  let nonce := beBytes 16 r.1
  let key := beBytes 32 ((s.genKey gen).getD 0)
  (id ++ nonce ++ Config.sivSeal key [id, nonce] (beBytes 2 0x000F ++ beBytes 2 0 ++ c2s ++ s2c), r.2)

/-- `n` cookies, each a record or field under a given head. -/
def State.cookies (s : State) (c2s s2c head : List Byte) : Nat → List Byte × State
  | 0 => ([], s)
  | n + 1 =>
    let c := s.cookie c2s s2c
    let t := c.2.cookies c2s s2c head n
    (head ++ c.1 ++ t.1, t.2)

/-- Open a cookie (R260): C2S and S2C. -/
def State.openCookie (s : State) (c : List Byte) : Option (List Byte × List Byte) :=
  let key := beBytes 32 ((s.genKey (beNat (c.take 4))).getD 0)
  match Config.sivOpen key [c.take 4, slice c 4 16] (c.drop 20) with
  | some p => if p.length = 68 ∧ p.take 4 = [0, 0x0F, 0, 0] then some (slice p 4 32, slice p 36 32) else none
  | none => none

/-- A generation is in the accepted set (R261). -/
def State.accepted (s : State) (gen : Nat) : Bool :=
  let g := s.get NTS_KEYGEN_GEN
  (gen == g || gen == (g + 2 ^ 32 - 1) % 2 ^ 32 || gen == (g + 2 ^ 32 - 2) % 2 ^ 32) && (s.genKey gen).isSome

/-! ### NTS-protected NTP (R264 to R267) -/

/-- The extension fields of a payload from its end of header: type, offset and body; none when a length is under 4 or
runs beyond the payload (R264). -/
def extFields : Nat → List Byte → Nat → Option (List (Nat × Nat × List Byte))
  | 0, _, _ => none
  | k + 1, p, o =>
    if p.length ≤ o then some []
    else
      let n := beNat (slice p (o + 2) 2)
      if n < 4 ∨ p.length < o + n then none
      else (extFields k p (o + n)).map fun t => (beNat (slice p o 2), o, slice p (o + 4) (n - 4)) :: t

/-- The parts of an NTS request that checks 1 and 4 of R264 find. -/
structure NtsParts where
  uid : List Byte
  cookie : List Byte
  placeholders : Nat
  authAt : Nat
  nonce : List Byte
  ct : List Byte
  deriving DecidableEq, Repr

/-- Bytes padded to a multiple of four. -/
def pad4 (n : Nat) : Nat := (n + 3) / 4 * 4

/-- The extension fields of an NTS request; none when malformed (R264, check 4). -/
def ntsParts (p : List Byte) : Option NtsParts :=
  match extFields (p.length / 4 + 1) p 48 with
  | none => none
  | some fs =>
    let uid := fs.find? fun f => f.1 == 0x0104 && 32 ≤ f.2.2.length
    let cookies := fs.filter fun f => f.1 == 0x0204
    match uid, cookies, fs.getLast? with
    | some u, [c], some a =>
      let b := a.2.2
      let nl := beNat (b.take 2)
      let cl := beNat (slice b 2 2)
      let auths := (fs.filter fun f => f.1 == 0x0404).length
      if a.1 = 0x0404 ∧ auths = 1 ∧ 16 ≤ nl ∧ nl ≤ 64 ∧ 16 ≤ cl ∧ 4 + pad4 nl + cl ≤ b.length then
        some { uid := beBytes 2 0x0104 ++ beBytes 2 (u.2.2.length + 4) ++ u.2.2, cookie := c.2.2,
               placeholders := min 7 (fs.filter fun f => f.1 == 0x0304 && f.2.2.length == 104).length, authAt := a.2.1,
               nonce := slice b 4 nl, ct := slice b (4 + pad4 nl) cl }
      else none
    | _, _, _ => none

/-- An NTS NAK (R266): reason 0 key, 1 cookie, 2 authenticator. -/
def State.ntsNak (s : State) (g : Eng) (r : Req) (p uid : List Byte) (F : Field) (reason : Nat) : State :=
  let f := s.udpReply r (s.get NTP_CFG_TTL) (s.get NTP_IPCFG_DSCP) (s.kodHeader p 0x4E54534E ++ uid)
  (((s.sendFrame g r r.port 3 f.1 {} none).bump F 1).noteSec 0x4105 reason).done g

/-- The answer of R265 with a reservation; `phase` is that of the port's block boundaries (R199). -/
def State.ntsAnswer (s : State) (g : Eng) (r : Req) (p : List Byte) (x : NtsParts) (keys : List Byte × List Byte) (kod : Bool)
    (phase : Nat) : State :=
  let k := 1 + x.placeholders
  let payload := 48 + x.uid.length + 40 + 108 * k
  let frame := (s.udpReply r 0 0 (List.replicate payload 0)).1.length + 4
  let v := s.reserve r.port frame phase
  let s := v.1
  let tx := ntpStamp v.2.instant (s.utcAt (instSec v.2.instant))
  let h := s.ntpHeader r p tx
  let h := if kod then h.take 1 ++ [0] ++ beBytes 1 (pollOf (beNat (slice p 2 1)) (s.get NTP_RATE_KODPOLL)) ++ slice h 3 9 ++
      beBytes 4 0x52415445 ++ h.drop 16 else h
  let c := s.cookies keys.1 keys.2 (beBytes 2 0x0204 ++ beBytes 2 108) k
  let n := c.2.rand 128
  let s := n.2
  let nonce := beBytes 16 n.1
  let ct := Config.sivSeal keys.2 [h ++ x.uid, nonce] c.1
  let auth := beBytes 2 0x0404 ++ beBytes 2 (8 + 16 + ct.length) ++ beBytes 2 16 ++ beBytes 2 ct.length ++ nonce ++ ct
  let f := s.udpReply r (s.get NTP_CFG_TTL) (s.get NTP_IPCFG_DSCP) (h ++ x.uid ++ auth)
  let s := s.sendFrame g r r.port 3 f.1 { op := 6 } (some v.2.id)
  (s.bump NTS_CNT_COOKIES k).done g

/-- An NTS-protected request (R264 to R267). -/
def State.ntsRequest (s : State) (g : Eng) (ecc : Ecc) (phase : Nat) : State :=
  s.routine g 3 fun r =>
    if !s.is NTS_CFG_EN then s.dropReq g else
    match reqUdp r with
    | none => s.dropReq g
    | some (ip, p) =>
      let s := s.bump NTS_CNT_REQ 1
      let b0 := beNat (p.take 1)
      let bad (s : State) (F : Field) := (s.bump F 1).dropReq g
      if p.length < 48 ∨ (p.length - 48) % 4 ≠ 0 then bad s NTS_CNT_MALFORMED
      else if badSource ip (beNat (slice r.bytes ip.l4 2)) then bad s NTS_CNT_BADSRC
      else if b0 / 8 % 8 ≠ 4 ∨ b0 % 8 ≠ 3 then bad s NTS_CNT_MALFORMED
      else match ntsParts p with
      | none => bad s NTS_CNT_MALFORMED
      | some x =>
        if x.cookie.length ≠ 104 ∨ !s.accepted (beNat (x.cookie.take 4)) then s.ntsNak g r p x.uid NTS_CNT_NAK_KEY 0
        else match s.openCookie x.cookie with
        | none => s.ntsNak g r p x.uid NTS_CNT_NAK_COOKIE 1
        | some keys =>
          match Config.sivOpen keys.1 [p.take x.authAt, x.nonce] x.ct with
          | none => s.ntsNak g r p x.uid NTS_CNT_NAK_AUTH 2
          | some _ =>
            let q := s.rateDecide g 3 ip ecc
            match q.2 with
            | .drop => bad q.1 NTS_CNT_RATEDROP
            | .kod => q.1.ntsAnswer g r p x keys true phase
            | .answer => q.1.ntsAnswer g r p x keys false phase

def execNtsRequest (g : Eng) (ecc : Ecc) (phase : Nat) (s : State) : Out := .next (s.ntsRequest g ecc phase)

/-! ### NTS key establishment (R255 to R259) -/

/-- The present instant in UTC seconds (R47). -/
def State.utcNow (s : State) : Int := (instSec s.now : Int) - s.geti TB_UTC_OFFSET

/-- A chain's leaf is valid now. -/
def State.certValid (s : State) (c : Nat) : Bool :=
  s.is (NTS_CERT_PRESENT c) && decide ((s.get (NTS_CERT_NOTBEFORE c) : Int) ≤ s.utcNow ∧ s.utcNow ≤ s.get (NTS_CERT_NOTAFTER c))

/-- VALIDNOW of both chains, and the condition that no present chain is valid (R256). -/
def State.freshCerts (s : State) : State :=
  let s := s.forEach 2 fun s c => s.setb (NTS_CERT_VALIDNOW c) (s.certValid c)
  if s.is NTS_CFG_EN then
    if s.certValid 0 || s.certValid 1 then s.clearCond 0x4103 0
    else if s.hasCond 0x4103 0 then s
    else s.raiseCond 0x4103 3 (s.get (NTS_CERT_PRESENT 0) + 2 * s.get (NTS_CERT_PRESENT 1)) 0
  else s

/-- The signature scheme of a chain (R256). -/
def State.certScheme (s : State) (c : Nat) : Nat := if s.get (NTS_CERT_ALG c) = 0 then 0x0807 else 0x0403

/-- The chain for a client that offers some schemes (R256). -/
def State.chooseChain (s : State) (schemes : List Nat) : Option Nat :=
  let offered := [0, 1].filter fun c => s.is (NTS_CERT_PRESENT c) && schemes.contains (s.certScheme c)
  let best (F : Nat → Field) (l : List Nat) : Option Nat := l.foldl (fun b c =>
    match b with
    | none => some c
    | some d => if s.get (F d) < s.get (F c) then some c else b) none
  match offered.filter s.certValid with
  | [] => best NTS_CERT_NOTAFTER offered
  | l => best NTS_CERT_NOTBEFORE l

def State.keConn (s : State) (id : Nat) : Option KeConn := s.ntp.conns.find? (·.id == id)
def State.setConns (s : State) (l : List KeConn) : State :=
  (s.onNtp fun n => { n with conns := l }).setSat NTS_KESTAT_OPEN l.length
def State.dropConn (s : State) (id : Nat) : State := s.setConns (s.ntp.conns.filter (·.id ≠ id))

/-- An address is a server address of a port: an entry of KIND 0 or 2 that serves (R170, R245). -/
def State.serverAddr (s : State) (p vlan : Nat) (addr : List Byte) : Bool :=
  match s.ipKind p vlan addr with
  | some 0 => true
  | some 2 => s.is SYS_MODE_PAIR && s.leaseLive
  | _ => false

/-- TCP segments of NTS-KE go out from port 4460 (R245). -/
def State.keSend (s : State) (k : KeConn) (flags : Nat) (b : List Byte) : State :=
  (s.setConns (s.ntp.conns.map fun x => if x.id = k.id then { x with snd := (x.snd + b.length) % 2 ^ 32 } else x)).tcpStream k.port k.peer
    4460 k.snd flags (b.length / 1024) b

/-- What the TLS layer says on a connection, and the records that carry it. -/
def State.keSay (s : State) (k : KeConn) (flags : Nat) (what : Output) (content : List Byte) : State :=
  (s.emit what).drawn.keSend k flags (Config.tlsWire content s.free)

/-- A SYN (R258, R259): an initial sequence number is a free value (DESIGN CHOICE notes/assumptions/59.md). -/
def State.keSyn (s : State) (p conn : Nat) (x : Far) : State :=
  if !s.is NTS_CFG_EN || !s.serverAddr p x.vlan x.self || !s.portSends p || !s.gateOpen p || (s.keConn conn).isSome then s
  else if s.get NTS_KECFG_MAXCONN ≤ s.ntp.conns.length then
    ((s.bump NTS_CNT_KE_REFUSED 1).emit (.keRst p conn)).tcpSend p x 4460 0 0x14 []
  else
    let n := s.draw % 2 ^ 32
    (s.drawn.setConns (s.ntp.conns ++ [{ id := conn, port := p, start := s.tb.ticks, peer := x, snd := (n + 1) % 2 ^ 32 }])).tcpSend p x
      4460 n 0x12 []

/-- An alert ends a connection (R258). -/
def State.keAlert (s : State) (conn code : Nat) : State :=
  match s.keConn conn with
  | none => s
  | some k => (((s.bump NTS_CNT_KE_ALERT 1).noteSec 0x4104 code).keSay k 0x11 (.keAlert conn code) (beBytes 1 2 ++ beBytes 1 code)).dropConn conn

/-- A ClientHello (R255, R256, R258). -/
def State.clientHello (s : State) (conn : Nat) (h : Hello) : State :=
  match s.keConn conn with
  | none => s
  | some k =>
    if k.chain.isSome then s
    else
      let suite := if h.suites.contains 0x1301 then some 0x1301 else if h.suites.contains 0x1302 then some 0x1302 else none
      let pick (l : List Nat) := if l.contains 0x001D then some 0x001D else if l.contains 0x0017 then some 0x0017 else none
      let chain := s.chooseChain h.schemes
      if !h.tls13 then s.keAlert conn 70
      else if !h.alpn then s.keAlert conn 120
      else match suite, chain with
      | some su, some c =>
        match pick h.groups, pick h.shares with
        | none, _ => s.keAlert conn 40
        | some gr, none =>
          if k.retried then s.keAlert conn 47
          else (s.setConns (s.ntp.conns.map fun x => if x.id = conn then { x with retried := true } else x)).keSay k 0x18 (.keRetry conn gr)
            (beBytes 2 gr)
        | some _, some sh =>
          if !h.shareOk then s.keAlert conn 47
          else if !h.served then s.keAlert conn 80
          else
            let s := s.setConns (s.ntp.conns.map fun x => if x.id = conn then { x with chain := some c } else x)
            ((((s.set (NTS_CERT_INUSE 0) 0).set (NTS_CERT_INUSE 1) 0).set (NTS_CERT_INUSE c) 1).freshCerts).keSay k 0x18
              (.keHandshake conn c su sh (s.certScheme c)) (beBytes 1 c ++ beBytes 2 su ++ beBytes 2 sh ++ beBytes 2 (s.certScheme c))
      | _, _ => s.keAlert conn 40

/-- What a client's bytes hold. -/
inductive KeParse where
  /-- The records before End of Message: critical bit, type and body. -/
  | whole (l : List (Bool × Nat × List Byte))
  /-- No End of Message yet. -/
  | waits
  /-- The records before End of Message total more than 1,024 bytes. -/
  | tooLong
  deriving DecidableEq, Repr

/-- The records of a client after `used` bytes of them (R258). -/
def keRecords : Nat → Nat → List Byte → KeParse
  | 0, _, _ => .tooLong
  | k + 1, used, bs =>
    let t := beNat (bs.take 2)
    let n := beNat (slice bs 2 2)
    if 4 ≤ bs.length ∧ t % 32768 = 0 then (if used ≤ 1024 then .whole [] else .tooLong)
    else if 1024 < used + bs.length ∧ (bs.length < 4 ∨ 1024 < used + 4 + n) then .tooLong
    else if bs.length < 4 ∨ bs.length < 4 + n then .waits
    else match keRecords k (used + 4 + n) (bs.drop (4 + n)) with
      | .whole r => .whole ((t ≥ 32768, t % 32768, slice bs 4 n) :: r)
      | r => r

/-- A record of NTS-KE: critical bit, type and body. -/
def keRecord (crit : Bool) (t : Nat) (b : List Byte) : List Byte := beBytes 2 (t + if crit then 32768 else 0) ++ beBytes 2 b.length ++ b

/-- Whether a list of 16-bit values holds one. -/
def has16 (b : List Byte) (v : Nat) : Bool := (List.range (b.length / 2)).any fun i => beNat (slice b (2 * i) 2) == v

/-- Records, close_notify and FIN end a connection (R257). -/
def State.keEnd (s : State) (conn : Nat) (bytes : List Byte) : State :=
  match s.keConn conn with
  | none => s
  | some k =>
    let b := bytes ++ keRecord true 0 []
    (s.keSay k 0x11 (.keRecords conn b) (b ++ [1, 0])).dropConn conn

/-- A handshake has completed: it is counted once (NTS_KESTAT.HSRATE). -/
def State.keShaken (s : State) (k : KeConn) : State :=
  if k.shaken then s
  else (s.setConns (s.ntp.conns.map fun x => if x.id = k.id then { x with shaken := true } else x)).onNtp fun n =>
    { n with handshakes := n.handshakes + 1 }

/-- The client's records so far (R257, R258), with the exported keys; `ok` when no Teasel or key-store failure came between. Before
End of Message the device waits for more. -/
def State.keRequest (s : State) (conn : Nat) (records c2s s2c : List Byte) (ok : Bool) : State :=
  match s.keConn conn with
  | none => s
  | some k =>
    if k.chain.isNone then s
    else
      let s := s.keShaken k
      let err (s : State) (code : Nat) :=
        ((s.bump NTS_CNT_KE_ERRREC 1).noteSec 0x4104 (code + 256)).keEnd conn (keRecord true 2 (beBytes 2 code))
      let none_ (s : State) (bytes : List Byte) := ((s.bump NTS_CNT_KE_NOCOOKIE 1).noteSec 0x4104 0xFF).keEnd conn bytes
      match keRecords 300 0 records with
      | .waits => s
      | .tooLong => err s 1
      | .whole rs =>
        let of (t : Nat) := rs.filter fun r => r.2.1 == t
        if rs.any fun r => r.1 && 8 ≤ r.2.1 then err s 0
        else if (rs.head?.map (·.2.1)) ≠ some 1 ∨ (of 1).length ≠ 1 ∨ of 4 = [] ∨
            rs.any (fun r => [2, 3, 5, 6, 7].contains r.2.1) then err s 1
        else if !ok then err s 2
        else if !(of 1).any (fun r => has16 r.2.2 0) then none_ s (keRecord true 1 [])
        else if !(of 4).any (fun r => has16 r.2.2 0x000F) then none_ s (keRecord true 1 [0, 0] ++ keRecord true 4 [])
        else
          let head := keRecord true 1 [0, 0] ++ keRecord true 4 [0, 0x0F] ++ keRecord false 7 (beBytes 2 (s.get NTS_CFG_NTPPORT)) ++
            (if s.is NTS_CFG_SRVNEG then keRecord false 6 s.ntp.srvName else [])
          let c := s.cookies (entryOf c2s) (entryOf s2c) (beBytes 2 5 ++ beBytes 2 104) 8
          ((c.2.bump NTS_CNT_KE_OK 1).bump NTS_CNT_COOKIES 8).keEnd conn (head ++ c.1)

/-- A connection not complete within TIMEOUT (R258). -/
def State.keTimeout (s : State) (conn : Nat) : State :=
  match s.keConn conn with
  | none => s
  | some k => match s.reachTick (1000000000 * s.get NTS_KECFG_TIMEOUT + k.start) with
    | none => s
    | some s => match s.keConn conn with
      | none => s
      | some k => ((s.bump NTS_CNT_KE_TIMEOUT 1).keSay k 0x11 (.keClose conn) [1, 0]).dropConn conn

/-- The daily certificate check (R256): the chain in use, that of the last handshake or else the one a client that offers
both schemes would get. -/
def State.certCheck (s : State) : State :=
  if !s.is NTS_CFG_EN || !s.serviceOn then s
  else
    let s := s.freshCerts
    let used := if s.is (NTS_CERT_INUSE 0) then some 0 else if s.is (NTS_CERT_INUSE 1) then some 1 else s.chooseChain [0x0807, 0x0403]
    let day := instSec s.now / 86400
    match used with
    | none => s
    | some c =>
      let left : Int := (s.get (NTS_CERT_NOTAFTER c) : Int) - s.utcNow
      if left ≤ s.get NTS_KECFG_CERTWARN * 86400 ∧ s.ntp.warnDay ≠ some day then
        (s.onNtp fun n => { n with warnDay := some day }).event 0x4102 2 (c + min 255 (left / 86400).toNat * 2 ^ 8)
      else s

def execNtsKeSyn (p : Fin 32) (x : KeSyn) (s : State) : Out := .next (s.keSyn p x.conn x.peer)
def execClientHello (conn : Nat) (h : Hello) (s : State) : Out := .next (s.clientHello conn h)
def execNtsKeRequest (conn : Nat) (records c2s s2c : List Byte) (ok : Bool) (s : State) : Out :=
  .next (s.keRequest conn records c2s s2c ok)
def execNtsKeTimeout (conn : Nat) (s : State) : Out := .next (s.keTimeout conn)
def execCertExpiryCheck (s : State) : Out := .next s.certCheck

end Sys2Proof.Machine
end

