-- ==== Sys2Proof/Machine/Lease.lean ====
section
/-! DEFINITION. The lease engine (spec/13_pair_redundancy.md): paths, messages received and sent, renewals, takes and
releases, time transfer and replication. -/
namespace Sys2Proof.Machine

/-! ### Paths (R346, R347) -/

/-- A path is configured: the in-band path only by the image. -/
def State.pathUsed (s : State) (k : Nat) : Bool := k ≠ 1 || s.is LEASE_CFG_INBAND

/-- Paths 0 and 1 carry messages only under an agreed version. -/
def State.pathLast (s : State) (k : Nat) : Option Nat :=
  if k = 2 then s.lease.hbAt
  else if s.get LEASE_STATUS_VER = 0 ∨ !s.pathUsed k then none
  else if k = 0 then s.lease.adernAt else s.lease.inbandAt

/-- The time after which a path is silent, in device ticks. -/
def State.pathLimit (s : State) (k : Nat) : Nat := if k = 2 then 1000000 else s.get LEASE_LEN_LEFF * 500000

/-- ISOLATED follows the three paths (R346, event 0x580D). -/
def State.isolation (s : State) : State :=
  let now := s.get LEASE_STATUS_SILENT == 7
  if now = s.is LEASE_STATUS_ISOLATED then s
  else
    let s := s.setb LEASE_STATUS_ISOLATED now
    let s := if now then s.raiseCond 0x580D 2 (if s.leaseSt = 5 then 1 else 0) 0 else s.clearCond 0x580D 0
    s.reclaimEval

/-- A path becomes silent or not (event 0x5804); HELLO is sent when it leaves silence (R351). -/
def State.setSilent (s : State) (k : Nat) (silent : Bool) : State :=
  if s.bit LEASE_STATUS_SILENT k = silent then s
  else
    let s := (s.setBit LEASE_STATUS_SILENT k silent).isolation
    if silent then (if s.pathUsed k then s.raiseCond 0x5804 2 (k + 2 ^ 8) 0 else s)
    else
      let s := s.queueEvent 0x5804 2 k
      let s := if (List.range 3).any fun j => s.pathUsed j && s.bit LEASE_STATUS_SILENT j then s else s.clearCond 0x5804 0
      s.sendHello

/-- A path shows what it has accepted. -/
def State.pathShow (s : State) (k : Nat) : State :=
  s.setSilent k (!(s.pathLast k).any fun t => decide (s.tb.ticks < t + s.pathLimit k))

/-- PATH_SILENT: the limit of a path is reached with nothing accepted. -/
def State.pathSilent (s : State) (k : Nat) : State :=
  if !s.leaseOn then s
  else match s.pathLast k with
  | none => s.pathShow k
  | some t =>
    match s.reachTick (t + s.pathLimit k) with
    | some s => s.pathShow k
    | none => s

/-- An Adern lane aligns or is lost; traffic moves by itself, as each message goes by the lanes aligned (R347). -/
def State.laneSet (s : State) (lane : Nat) (up : Bool) : State :=
  if !s.awake then s else s.onLease fun l => if lane = 0 then { l with lane0 := up } else { l with lane1 := up }

def execPathSilent (path : Fin 3) (s : State) : Out := .next (s.pathSilent path)
def execAdernLaneAlign (lane : Fin 2) (s : State) : Out := .next (s.laneSet lane true)
def execAdernLaneLoss (lane : Fin 2) (s : State) : Out := .next (s.laneSet lane false)

/-! ### Guard and one-way delay (R357) -/

/-- A one-way delay measured now, in ns. -/
def State.addDelay (s : State) (ns : Nat) : State := s.onLease fun l => { l with delays := (s.tb.ticks, ns) :: l.delays }

/-- G_eff and what it is formed from are recomputed. -/
def State.guard (s : State) : State :=
  let s := s.onLease fun l => { l with delays := l.delays.filter fun d => decide (s.tb.ticks ≤ 10000000000 + d.1) }
  let d := s.lease.delays.foldl (fun m x => max m x.2) 0
  let fp := if s.lease.pStatus then s.get LEASE_PFEB_BOUND else s.get SEL_HO_HOFINV
  let l := s.get LEASE_LEN_LEFF * 1000000
  let gc := ceilDiv ((s.get SEL_TQR_FEB + fp) * l) (10 ^ 12) + d
  let g := satU 32 (max (s.get LEASE_GUARDCFG_GIMG) (max gc s.lease.pGuard))
  let s := ((s.setSat LEASE_DELAY_DMAX d).setSat LEASE_GCALC_GC gc).set LEASE_GUARD_GEFF g
  let hi := decide (l < 2 * g)
  let s := if hi && !s.is LEASE_STATUS_GUARDHI then s.event 0x580A 2 (satU 32 (divRound g 1000).toNat) else s
  ((s.setb LEASE_STATUS_GUARDHI hi).updateGates).showLease

/-! ### Releases and the mode (R359, R24 row 14) -/

/-- A release by row 7, 8 or 10 of R359, with row 14 of R24 from SERVICE or HOLDOVER. -/
def State.releaseBy (s : State) (row tRel : Nat) : State :=
  let s := s.leaseRelease row tRel
  if s.mode = .service ∨ s.mode = .holdover then s.enterMode .standby 0x0A else s

/-- A HOLD indication of the partner received at instant `t` (R360, R362). -/
def State.holdSeen (s : State) (t : Nat) : State :=
  let s := s.onLease fun l => { l with hLast := some (max t (l.hLast.getD 0)), pHeld := true, relLocal := none }
  if s.leaseSt ≠ 5 then s.showLease
  else
    let rel := !s.isHome
    let s := if s.is LEASE_STATUS_DUALHOLD then s else (s.set LEASE_STATUS_DUALHOLD 1).event 0x5808 3 (if rel then 1 else 0)
    let s := s.onLease fun l => { l with dualAt := s.tb.ticks }
    if rel then s.releaseBy 10 s.now else s.showLease

/-- The partner's most recent state (R360). -/
def State.partnerIs (s : State) (st t : Nat) : State :=
  ((s.set LEASE_STATUS_PSTATE st).onLease fun l => { l with pStateAt := t }).reclaimEval

/-! ### Messages received (R350, R352, R365) -/

/-- A message's fields. The receiver's stamp (R352) lies some time before the instant at which the message has come in whole; no TB step
is taken to apply in between (DESIGN CHOICE notes/assumptions/62.md). -/
structure LeaseMsg where
  ver : Nat
  type : Nat
  bootId : Nat
  seq : Nat
  pairId : Nat
  flags : Nat
  mode : Nat
  tsend : Nat
  guard : Nat
  body : List Byte
  deriving DecidableEq, Repr

/-- A full timestamp in a message as an instant. -/
def msgInst (b : List Byte) : Nat := beNat (b.take 6) * sec1 + beNat (slice b 6 4) * ns1 + beNat (slice b 10 2)

/-- A frame's message when its trailer and its length are right (R347, R348, R350; code 1 of R365). -/
def State.leaseFrame (s : State) (inband : Bool) (b : List Byte) : Option LeaseMsg :=
  let n := if inband then 16 else 4
  let m := b.take (b.length - n)
  let tail := b.drop (b.length - n)
  let ok := if inband then s.pairMac m == some tail else tail == beBytes 4 (crc32c m)
  let type := beNat (slice m 1 1)
  let len := beNat (slice m 2 2)
  if 40 + n ≤ b.length ∧ ok ∧ len + 40 = m.length ∧ (!leaseType 0x12 type ∨ len = leaseBody type) then
    some { ver := beNat (m.take 1), type := type, bootId := beNat (slice m 4 4), seq := beNat (slice m 8 4), pairId := beNat (slice m 12 8),
           flags := beNat (slice m 20 1), mode := beNat (slice m 21 1), tsend := msgInst (slice m 24 12), guard := beNat (slice m 36 4),
           body := m.drop 40 }
  else none

/-- A violation of R365 is counted and logged once per second (event 0x5805). -/
def State.violation (s : State) (code : Nat) : State := (s.bump LEASE_CNT_VIOL 1).noteSec 0x5805 code

/-- NAK (R351). -/
def State.nak (s : State) (reason : Nat) (m : LeaseMsg) : State :=
  s.sendLease 7 (beBytes 1 reason ++ [0, 0, 0] ++ beBytes 1 m.type ++ [0, 0, 0] ++ beBytes 4 m.seq)

/-- The offset conversion of R352. -/
def convert (y trecv tsend : Nat) : Nat := ((y : Int) + trecv - tsend).toNat

/-- An accepted message: its path is alive, its SEQ is known, and its GUARD is G_p (R346, R357). -/
def State.leaseAccept (s : State) (inband : Bool) (m : LeaseMsg) : State :=
  let new := s.lease.pBoot ≠ some m.bootId
  let s := s.onLease fun l => { l with
    pBoot := some m.bootId, pSeen := if new then [m.seq] else m.seq :: l.pSeen, pSeq := m.seq, pGuard := m.guard
    pHeld := l.pHeld && !new }
  let s := s.onLease fun l => if inband then { l with inbandAt := some s.tb.ticks } else { l with adernAt := some s.tb.ticks }
  s.pathShow (if inband then 1 else 0)

/-- A duplicate is dropped and counted, and keeps its path alive (R365). -/
def State.leaseDup (s : State) (inband : Bool) : State :=
  let s := (s.bump LEASE_CNT_DUP 1).onLease fun l => if inband then { l with inbandAt := some s.tb.ticks } else { l with adernAt := some s.tb.ticks }
  s.pathShow (if inband then 1 else 0)

/-- Codes 1 to 6 of R365 in order, then the row's own checks and effect. A message of another type is another row's; one of
no known type is answered by each. -/
def State.leaseRx (s : State) (type : Nat) (inband : Bool) (b : List Byte) (trecv : Nat) (f : State → LeaseMsg → State) : State :=
  if !s.leaseOn ∨ (inband ∧ !s.is LEASE_CFG_INBAND) then s
  else match s.leaseFrame inband b with
  | none => s.violation 1
  | some m =>
    if leaseType 0x12 m.type ∧ m.type ≠ type then s
    else if m.pairId ≠ s.get LEASE_PAIRID_HI_ID * 2 ^ 32 + s.get LEASE_PAIRID_LO_ID then s.violation 2
    else if s.lease.pBoot = some m.bootId ∧ s.lease.pSeen.contains m.seq then s.leaseDup inband
    else if m.type ≠ 1 ∧ (m.ver ≠ s.get LEASE_STATUS_VER ∨ m.ver = 0) then s.violation 3
    else if s.get LEASE_TTCFG_SKEWMAX * ms1 < ((m.tsend : Int) - trecv).natAbs then s.violation 4
    else if (s.lease.pBoot ≠ some m.bootId ∧ m.type ≠ 1) ∨ (s.lease.pBoot = some m.bootId ∧ m.seq < s.lease.pSeq) then s.violation 5
    else if m.type ≠ 1 ∧ !leaseType (s.get LEASE_STATUS_VER) m.type then (s.violation 6).nak 1 m
    else f s m

/-- HELLO (R353, R354): the version and L are agreed, and equal home flags conflict. -/
def State.helloBody (s : State) (inband : Bool) (m : LeaseMsg) : State :=
  let new := s.lease.pBoot ≠ some m.bootId
  let vmin := beNat (m.body.take 1)
  let vmax := beNat (slice m.body 1 1)
  let len := beNat (slice m.body 6 2)
  let ver := min (s.get LEASE_VER_VMAX) vmax
  let ok := max (s.get LEASE_VER_VMIN) vmin ≤ ver
  let was := s.get LEASE_STATUS_VER
  let s := s.set LEASE_VER_PVMAX vmax
  let s := if m.flags.testBit 0 = s.is LEASE_CFG_HOME then
      let s := s.violation 12
      if s.is LEASE_STATUS_ROLECONF then s else (s.set LEASE_STATUS_ROLECONF 1).event 0x5809 3 (s.get LEASE_CFG_HOME)
    else s
  let s := (s.set LEASE_STATUS_VER (if ok then ver else 0)).set LEASE_VER_AGREED (if ok then ver else 0)
  let s := if !ok then
      (if s.is LEASE_STATUS_NOVER ∧ !new then s else (s.set LEASE_STATUS_NOVER 1).event 0x5807 2 (vmin + vmax * 2 ^ 8))
    else s.set LEASE_STATUS_NOVER 0
  let s := (s.leaseAccept inband m).pathShow (if inband then 0 else 1)
  let s := if new then s.sendHello else s
  if ok ∧ (new ∨ was ≠ ver) then
    let q := s.leaseQ
    let s := (s.setSat LEASE_LEN_LEFF (min 1000 (max (s.get LEASE_CFG_LEN) len))).event 0x5806 0 ver
    -- the renewal points of a holder follow the new L
    let s := if s.leaseQ = q ∨ s.leaseQ = 0 then s
      else s.onLease fun l => { l with k := (l.rPrev - l.tTake) / s.leaseQ + 1 }
    if s.leaseSt = 5 then
      let g := s.get NTS_KEYGEN_GEN
      let gens := [(g + 2 ^ 32 - 2) % 2 ^ 32, (g + 2 ^ 32 - 1) % 2 ^ 32, g].filter s.accepted
      (s.onLease fun l => { l with repl := gens.map ReplItem.nts }).startResync
    else (s.validGrants.foldl (fun s n => s.putGrant n {}) s).set LEASE_STATUS_REPLCUR 0
  else s

def State.helloRx (s : State) (inband : Bool) (b : List Byte) (trecv : Nat) : State :=
  (s.leaseRx 1 inband b trecv fun s m => s.helloBody inband m).reclaimEval

/-- The state a STATUS gives by its flags (R351, R360): a lease state OUT in BACKUP, BOOT or SAFE is DOWN. -/
def statusState (m : LeaseMsg) : Nat :=
  let st := m.flags / 16 % 8
  if m.flags.testBit 1 ∨ st = 5 then 4 else if st = 2 ∨ st = 3 ∨ st = 4 then 3 else if m.mode ≤ 2 then 1 else 2

/-- STATUS (R357, R360). -/
def State.statusRx (s : State) (inband : Bool) (b : List Byte) (trecv : Nat) : State :=
  s.leaseRx 2 inband b trecv fun s m =>
    let s := ((s.leaseAccept inband m).set LEASE_PTEB_BOUND (beNat (slice m.body 4 4))).set LEASE_PFEB_BOUND (beNat (slice m.body 8 4))
    let s := ((s.partnerIs (statusState m) trecv).onLease fun l => { l with pStatus := true }).guard
    if m.flags.testBit 1 then s.holdSeen trecv else s

/-- RENEW (R355, R360): a non-holder takes its expiry over and acknowledges it. -/
def State.renewRx (s : State) (inband : Bool) (b : List Byte) (trecv : Nat) : State :=
  s.leaseRx 3 inband b trecv fun s m =>
    let x := slice m.body 12 12
    let s := s.leaseAccept inband m
    let holder := s.leaseSt = 5
    let s := s.onLease fun l => { l with xLocal := some (max (convert (msgInst x) trecv m.tsend) (l.xLocal.getD 0)) }
    let s := s.holdSeen trecv
    if holder then s else s.sendLease 4 (beBytes 4 m.seq ++ x ++ instBytes trecv)

/-- ACK (R355, R357). -/
def State.ackRx (s : State) (inband : Bool) (b : List Byte) (trecv : Nat) : State :=
  s.leaseRx 4 inband b trecv fun s m =>
    let n := beNat (m.body.take 4)
    match s.lease.sent.find? fun y => y.seq == n && instFull y.x == instFull (msgInst (slice m.body 4 12)) with
    | none => s.violation 9
    | some y =>
      let s := (s.leaseAccept inband m).bump LEASE_CNT_ACK_RX 1
      let turn := (m.tsend : Int) - msgInst (slice m.body 16 12)
      let s := if inband then s.addDelay (divRound ((trecv : Int) - y.tsend - turn) (2 * ns1)).toNat else s
      if s.leaseSt = 5 ∧ !s.isHome then
        ((s.onLease fun l => { l with xEff := max l.xEff (y.r + s.leaseL) }).updateGates).showLease
      else s

/-- The first renewal point at least 100 us after an instant (R361). -/
def State.renewalAfter (s : State) (t : Nat) : Nat :=
  s.lease.tTake + max s.lease.k (ceilDiv (t + 100 * us1 - s.lease.tTake) s.leaseQ) * s.leaseQ

/-- The renewal point at which the holder releases is chosen. -/
def State.chooseRelease (s : State) (t : Nat) : State :=
  s.onLease fun l => { l with chosen := some (l.chosen.getD (s.renewalAfter t)) }

/-- CLAIM (R361). -/
def State.claimRx (s : State) (inband : Bool) (b : List Byte) (trecv : Nat) : State :=
  s.leaseRx 5 inband b trecv fun s m =>
    let partnerHome := if s.is LEASE_STATUS_ROLECONF then !s.isHome else m.flags.testBit 0
    if !partnerHome ∨ s.isHome then (s.violation 7).nak 2 m
    else
      let s := s.leaseAccept inband m
      if s.leaseSt = 5 then s.chooseRelease trecv else s.sendLease 6 (instBytes (s.lease.lastRel.getD trecv))

/-- RELEASE (R360): from a partner that has given a HOLD indication since its BOOT, or in answer to a CLAIM. -/
def State.releaseRx (s : State) (inband : Bool) (b : List Byte) (trecv : Nat) : State :=
  s.leaseRx 6 inband b trecv fun s m =>
    if !s.lease.pHeld ∧ s.leaseSt ≠ 4 then s.violation 8
    else ((s.leaseAccept inband m).bump LEASE_CNT_RELEASE_RX 1).onLease fun l =>
      { l with relLocal := some (convert (msgInst m.body) trecv m.tsend) }

/-- NAK (R365): accepted. -/
def State.nakRx (s : State) (inband : Bool) (b : List Byte) (trecv : Nat) : State :=
  s.leaseRx 7 inband b trecv fun s m => s.leaseAccept inband m

def execHelloRx (inband : Bool) (msg : List Byte) (ago : Nat) (s : State) : Out := .next (s.helloRx inband msg (s.now - ago))
def execStatusRx (inband : Bool) (msg : List Byte) (ago : Nat) (s : State) : Out := .next (s.statusRx inband msg (s.now - ago))
def execRenewRx (inband : Bool) (msg : List Byte) (ago : Nat) (s : State) : Out := .next (s.renewRx inband msg (s.now - ago))
def execAckRx (inband : Bool) (msg : List Byte) (ago : Nat) (s : State) : Out := .next (s.ackRx inband msg (s.now - ago))
def execClaimRx (inband : Bool) (msg : List Byte) (ago : Nat) (s : State) : Out := .next (s.claimRx inband msg (s.now - ago))
def execReleaseRx (inband : Bool) (msg : List Byte) (ago : Nat) (s : State) : Out := .next (s.releaseRx inband msg (s.now - ago))
def execNakRx (inband : Bool) (msg : List Byte) (ago : Nat) (s : State) : Out := .next (s.nakRx inband msg (s.now - ago))

/-! ### Heartbeat (R349) -/

/-- The state a pulse width in ns gives. -/
def pulseState (w : Nat) : Option Nat :=
  if 750 ≤ w ∧ w ≤ 1250 then some 1 else if 1500 ≤ w ∧ w ≤ 2500 then some 2 else if 3000 ≤ w ∧ w ≤ 5000 then some 3
  else if 6000 ≤ w ∧ w ≤ 10000 then some 4 else none

/-- A pulse on HB_IN, whose trailing edge is now. -/
def State.pulseRx (s : State) (w : Nat) : State :=
  if !s.leaseOn then s
  else match pulseState w with
  | none => s.violation 11
  | some st =>
    let s := ((s.onLease fun l => { l with hbAt := some s.tb.ticks }).pathShow 2).partnerIs st s.now
    if st = 4 then s.holdSeen s.now else s

/-- The width of the device's own pulses in us; none in OFF, and none while the lease engine does not run. -/
def State.pulseWidth (s : State) : Option Nat :=
  match s.mode with
  | .off => none
  | .backup | .boot | .safe => some 1
  | _ => match s.leaseSt with
    | 0 => none
    | 1 => some 2
    | 5 => some 8
    | _ => some 4

/-- A pulse every 250 us (R349): the next one is due 250 us after the last, within 1 %; without the TB clock, in BACKUP, the AON domain
times it (DESIGN CHOICE notes/assumptions/62.md). -/
def State.heartbeat (s : State) : State :=
  match s.pulseWidth with
  | none => s
  | some w =>
    if !s.tb.running then s.emit (.heartbeat w)
    else match s.reachTick s.lease.hbNext with
    | none => s
    | some s => (s.emit (.heartbeat w)).onLease fun l => { l with hbNext := s.tb.ticks + 250000 }

def execHeartbeatPulseRx (width : Nat) (s : State) : Out := .next (s.pulseRx width)
def execHeartbeatEmit (s : State) : Out := .next s.heartbeat

/-! ### Messages sent in time (R351) -/

/-- HELLO every 1 s until a version is agreed. -/
def State.helloSend (s : State) : State :=
  if !s.leaseOn ∨ s.get LEASE_STATUS_VER ≠ 0 then s
  else match s.reachTick s.lease.helloAt with
  | none => s
  | some s => s.sendHello.onLease fun l => { l with helloAt := 1000000000 + s.tb.ticks }

/-- STATUS every L/4, at which the guard is recomputed (R357). -/
def State.statusSend (s : State) : State :=
  if !s.leaseOn then s
  else match s.reachTick s.lease.statusAt with
  | none => s
  | some s =>
    let s := s.guard
    let body := beBytes 1 (s.get SEL_TQR_CLASS) ++ beBytes 1 (s.get SEL_TQR_TRACE) ++ [0, 0] ++ beBytes 4 (s.get SEL_TQR_TEB) ++
      beBytes 4 (s.get SEL_TQR_FEB) ++ beBytes 2 s.wtrLeft ++ [0, 0]
    (s.sendLease 2 body).onLease fun l => { l with statusAt := l.statusAt + s.get LEASE_LEN_LEFF * 250000 }

/-- CLAIM every L/4 in state CLAIM. -/
def State.claimSend (s : State) : State :=
  if s.leaseSt ≠ 4 then s
  else match s.reachTick s.lease.claimAt with
  | none => s
  | some s => (s.sendLease 5 []).onLease fun l => { l with claimAt := l.claimAt + s.get LEASE_LEN_LEFF * 250000 }

/-- RELEASE again, twice at L/4 intervals. -/
def State.releaseRepeat (s : State) : State :=
  match s.lease.lastRel with
  | none => s
  | some t =>
    if s.lease.relLeft = 0 ∨ s.leaseSt = 5 ∨ !s.leaseOn then s
    else match s.reachTick s.lease.relAt with
    | none => s
    | some s => (s.sendLease 6 (instBytes t)).onLease fun l =>
      { l with relLeft := l.relLeft - 1, relAt := l.relAt + s.get LEASE_LEN_LEFF * 250000 }

def execHelloSend (s : State) : Out := .next s.helloSend
def execStatusSend (s : State) : Out := .next s.statusSend
def execClaimSend (s : State) : Out := .next s.claimSend
def execReleaseRepeat (s : State) : Out := .next s.releaseRepeat

/-! ### The lease (R355, R359 to R363) -/

/-- RENEW of renewal point `r`. -/
def State.sendRenew (s : State) (r : Nat) : State :=
  let x := r + s.leaseL
  let s := s.sendLease 3 (instBytes r ++ instBytes x)
  s.onLease fun l => { l with sent := ⟨l.seq, r, x, s.now⟩ :: l.sent }

/-- The instant at which row 7 of R359 releases; none while, with G_eff above L/2, a renewal point lies before x_eff
(R357, R359). -/
def State.expiryAt (s : State) : Option Nat :=
  if s.leaseL < 2 * s.leaseG ∧ s.lease.tTake + s.lease.k * s.leaseQ < s.lease.xEff then none else some (s.lease.xEff - s.leaseG)

/-- RENEWAL_POINT: the release chosen there, or RENEW with the new x_eff of R355. -/
def State.renewalPoint (s : State) : State :=
  if s.leaseSt ≠ 5 ∨ s.leaseQ = 0 then s
  else
    let r := s.lease.tTake + s.lease.k * s.leaseQ
    if s.expiryAt.any fun t => decide (t < r) then s
    else match s.reach r with
    | none => s
    | some s =>
      if s.lease.chosen.any fun c => decide (c ≤ r) then s.releaseBy 8 r
      else
        let p := s.get LEASE_STATUS_PSTATE
        let alone := decide (s.lease.rPrev ≤ s.lease.pStateAt) && (p == 1 || p == 2)
        let s := s.sendRenew r
        let s := s.onLease fun l => { l with
          k := l.k + 1, rPrev := r, xEff := if s.isHome || alone then max l.xEff (r + s.leaseL) else l.xEff }
        s.updateGates.showLease

/-- LEASE_EXPIRY: row 7 of R359. -/
def State.leaseExpiry (s : State) : State :=
  if s.leaseSt ≠ 5 then s
  else match s.expiryAt with
  | none => s
  | some t =>
    match s.reach t with
    | none => s
    | some s => s.releaseBy 7 t

/-- LISTEN_HOLDOFF_END: row 3 of R359. -/
def State.listenOver (s : State) : State :=
  if s.leaseSt ≠ 2 then s
  else match s.reach s.lease.listenEnd with
  | none => s
  | some s => (s.leaseTo 3).reclaimEval

/-- HOMEWTR_EXPIRE: row 5 of R359. -/
def State.homewtr (s : State) : State :=
  let s := s.reclaimEval
  if s.leaseSt ≠ 3 then s
  else match s.lease.wtrFrom with
  | none => s
  | some t =>
    match s.reachTick (1000000000 * s.get LEASE_CFG_HOMEWTR + t) with
    | none => s
    | some s => (s.leaseTo 4).onLease fun l => { l with claimAt := s.tb.ticks }

/-- The device would answer once it holds the token (R360). -/
def State.mayTake (s : State) : Bool := s.otherGood || s.is SEL_STATUS_EVERACTIVE || s.is CFG_SERVE_WARMUP_SERVE

/-- The row of R360 that applies and its instant. -/
def State.takeRow (s : State) : Option (Nat × Nat) :=
  let l := s.lease
  let late := max (l.xLocal.getD l.listenEnd) (l.hLast.getD l.listenEnd + s.leaseL) + s.leaseG
  let p := s.get LEASE_STATUS_PSTATE
  let iso := s.is LEASE_STATUS_ISOLATED
  match l.relLocal with
  | some t => some (1, t + s.leaseG)
  | none =>
    if s.isHome then (if p ≠ 4 ∨ iso then some (2, late) else none)
    else if !iso ∧ (p = 1 ∨ p = 2) then some (3, late)
    else none

/-- The token is taken now by a row of R360 (R363). -/
def State.takeToken (s : State) (row : Nat) : State :=
  let t := s.now
  let s := s.leaseTo 5
  let s := s.onLease fun l => { l with
    tTake := t, k := 1, rPrev := t, xEff := t + s.leaseL, chosen := none, relLocal := none, relLeft := 0, announce := 3, announceAt := s.tb.ticks,
    repl := [] }
  let s := (s.bump LEASE_CNT_TAKES 1).sendRenew t
  let s := s.updateGates.event 0x5802 0 row
  (s.evalModes.ntsTake).showLease

/-- TOKEN_TAKE. -/
def State.tokenTake (s : State) : State :=
  if !(s.leaseSt = 3 ∨ (s.leaseSt = 4 ∧ s.isHome)) ∨ !s.mayTake then s
  else match s.takeRow with
  | none => s
  | some (row, t) =>
    match s.reach t with
    | none => s
    | some s => s.takeToken row

/-- DUALHOLD_CLEAR (R362). -/
def State.dualClear (s : State) : State :=
  if !s.is LEASE_STATUS_DUALHOLD then s
  else match s.reachTick (1000000 * s.get LEASE_LEN_LEFF + s.lease.dualAt) with
  | none => s
  | some s => s.set LEASE_STATUS_DUALHOLD 0

/-- A LEASE_CMD is accepted or refused. -/
def State.leaseCmd (s : State) (code : Nat) (ok : Bool) : State := (s.set LEASE_CMD_CODE code).set LEASE_CMD_STATUS (if ok then 1 else 2)

/-- LEASE_CMD RELEASE (R361). -/
def State.leaseReleaseCmd (s : State) : State :=
  if !s.awake then s
  else
    let ok := s.leaseSt == 5 && s.get LEASE_STATUS_PSTATE == 3 && !s.is LEASE_STATUS_ISOLATED
    let s := s.leaseCmd 1 ok
    if ok then s.chooseRelease s.now else s

/-- LEASE_CMD RESYNC (R367): of the holder, whose resync it is. -/
def State.leaseResyncCmd (s : State) : State :=
  if !s.awake then s
  else
    let ok := s.leaseSt == 5
    let s := s.leaseCmd 2 ok
    if ok then s.startResync else s

def execRenewalPoint (s : State) : Out := .next s.renewalPoint
def execLeaseExpiry (s : State) : Out := .next s.leaseExpiry
def execListenHoldoffEnd (s : State) : Out := .next s.listenOver
def execHomewtrExpire (s : State) : Out := .next s.homewtr
def execTokenTake (s : State) : Out := .next s.tokenTake
def execDualholdClear (s : State) : Out := .next s.dualClear
def execLeaseReleaseCmd (s : State) : Out := .next s.leaseReleaseCmd
def execLeaseResyncCmd (s : State) : Out := .next s.leaseResyncCmd

/-! ### Time transfer (R366) -/

/-- The `n`-th due instant of the own markers: whole multiples of 1 s / RATE, at the non-home device half of it later. -/
def State.markerDue (s : State) (n : Nat) : Nat :=
  let r := s.get LEASE_TTCFG_RATE
  if s.is LEASE_CFG_HOME then n * sec1 / r else (2 * n + 1) * sec1 / (2 * r)

/-- TT_MARKER_SEND: the next marker leaves at its instant, and CH31 stamps it there with a deviation `dev`; the TT message follows. -/
def State.markerSend (s : State) (dev : Int) : State :=
  let r := s.get LEASE_TTCFG_RATE
  if !s.leaseOn ∨ r = 0 ∨ !(s.lease.lane0 || s.lease.lane1) then s
  else
    let n0 := s.now * r / sec1
    let fits (n : Nat) : Bool := decide (s.now ≤ s.markerDue n) && s.lease.ttDue.all fun d => decide (d < s.markerDue n)
    match [n0 - 1, n0, n0 + 1, n0 + 2].find? fits with
    | none => s
    | some n =>
      let due := s.markerDue n
      match s.reach due with
      | none => s
      | some s =>
        let t1 := ((s.now : Int) + dev).toNat
        let s := (s.emit (.marker (s.markLane - 1) due)).onLease fun l => { l with ttSent := some t1, ttDue := some due }
        s.sendLease 0x10 (instBytes t1 ++ instBytes (s.lease.ttRecv.getD 0))

/-- TT (R366): from the own marker sent at t1 and caught at t2, and the partner's sent at t3 and caught here at t4, TB minus
the partner's TB and the mean delay. -/
def State.ttRx (s : State) (b : List Byte) (trecv t4 : Nat) : State :=
  s.leaseRx 0x10 false b trecv fun s m =>
    let s := (s.leaseAccept false m).onLease fun l => { l with ttRecv := some t4 }
    let t3 := msgInst (m.body.take 12)
    let t2 := msgInst (m.body.drop 12)
    match s.lease.ttSent with
    | none => s
    | some t1 =>
      if t2 = 0 then s
      else
        let x := divRound (((t4 : Int) - t3) - ((t2 : Int) - t1) + s.geti LEASE_ADNASYM_ASYM) 2
        let d := (divRound (((t2 : Int) - t1) + ((t4 : Int) - t3)) (2 * ns1)).toNat
        (((s.addDelay d).bump LEASE_CNT_TT_OK 1).measure 18 t4 x).onLease fun l => { l with ttSent := none }

def execTtMarkerSend (dev : Int) (s : State) : Out := .next (s.markerSend dev)
def execTtRx (msg : List Byte) (ago marker : Nat) (s : State) : Out := .next (s.ttRx msg (s.now - ago) (s.now - marker))

/-! ### Replication (R367) -/

/-- A replication message the receiver refuses (code 10 of R365), or what it applies. -/
def State.replRx (s : State) (type : Nat) (inband : Bool) (b : List Byte) (trecv : Nat) (bad : LeaseMsg → Bool) (f : State → LeaseMsg → State) :
    State :=
  s.leaseRx type inband b trecv fun s m =>
    if s.leaseSt = 5 ∨ bad m then (s.violation 10).nak 3 m else f ((s.leaseAccept inband m).bump LEASE_CNT_REPL_RX 1) m

/-- REPL_NTS: a generation is unwrapped and installed. -/
def State.replNts (s : State) (inband : Bool) (b : List Byte) (trecv : Nat) : State :=
  s.replRx 0x20 inband b trecv (fun m => !s.genNewer (beNat (m.body.take 4))) fun s m =>
    match s.keyValue 2 with
    | none => s
    | some k =>
      match Config.keyUnwrap k (BitVec.ofNat 320 (beNat (m.body.drop 4))) with
      | some v => s.genReceived (beNat (m.body.take 4)) v.toNat
      | none => s

/-- REPL_GRANT: an entry is written at the same index. -/
def State.replGrantRx (s : State) (inband : Bool) (b : List Byte) (trecv : Nat) : State :=
  s.replRx 0x21 inband b trecv (fun m => !s.owns 4 (beNat (m.body.take 4))) fun s m =>
    s.putGrant (beNat (m.body.take 4)) (decodeGrant (m.body.drop 4))

/-- REPL_DONE: the replicated state is current. -/
def State.replDone (s : State) (inband : Bool) (b : List Byte) (trecv : Nat) : State :=
  s.replRx 0x22 inband b trecv (fun _ => false) fun s m => (s.set LEASE_STATUS_REPLCUR 1).event 0x580B 0 (beNat m.body)

/-- REPL_SEND: the holder sends the oldest item that waits. -/
def State.replSend (s : State) : State :=
  if s.leaseSt ≠ 5 ∨ s.get LEASE_STATUS_VER = 0 then s
  else match s.lease.repl with
  | [] => s
  | x :: rest =>
    let s := s.onLease fun l => { l with repl := rest }
    match x with
    | .nts gen =>
      match s.genKey gen, s.keyValue 2 with
      | some v, some k => s.sendLease 0x20 (beBytes 4 gen ++ beBytes 40 (Config.keyWrap k v).toNat)
      | _, _ => s
    | .grant n | .full n => s.sendLease 0x21 (beBytes 4 n ++ s.entry n)
    | .done n => (s.sendLease 0x22 (beBytes 4 n)).event 0x580B 0 n

def execReplNtsRx (inband : Bool) (msg : List Byte) (ago : Nat) (s : State) : Out := .next (s.replNts inband msg (s.now - ago))
def execReplGrantRx (inband : Bool) (msg : List Byte) (ago : Nat) (s : State) : Out := .next (s.replGrantRx inband msg (s.now - ago))
def execReplDoneRx (inband : Bool) (msg : List Byte) (ago : Nat) (s : State) : Out := .next (s.replDone inband msg (s.now - ago))
def execReplSend (s : State) : Out := .next s.replSend

end Sys2Proof.Machine
end

