-- ==== Sys2Proof/Machine/Roughtime.lean ====
section
/-! DEFINITION. Roughtime (spec/11_roughtime.md): requests, batches and their Merkle trees, midpoint and radius, keys. -/
namespace Sys2Proof.Machine

/-! ### Messages (R298 to R301) -/

/-- The tags of R301. -/
def rtSIG : Nat := 0x00474953
def rtVER : Nat := 0x00524556
def rtSRV : Nat := 0x00565253
def rtNONC : Nat := 0x434E4F4E
def rtPUBK : Nat := 0x4B425550
def rtPATH : Nat := 0x48544150
def rtRADI : Nat := 0x49444152
def rtDELE : Nat := 0x454C4544
def rtSREP : Nat := 0x50455253
def rtMIDP : Nat := 0x5044494D
def rtVERS : Nat := 0x53524556
def rtCERT : Nat := 0x54524543
def rtMINT : Nat := 0x544E494D
def rtMAXT : Nat := 0x5458414D
def rtROOT : Nat := 0x544F4F52
def rtINDX : Nat := 0x5844494E

/-- The version number of a VERMASK bit (R298). -/
def rtVersion (v : Nat) : Nat := 0x8000000B + v

/-- The 8 bytes every packet starts with. -/
def rtMagic : List Byte := chars "ROUGHTIM"

/-- Where the values of a message end: the offsets after the first, and the end of the message (R300). -/
def rtEnds (m : List Byte) (n : Nat) : List Nat :=
  ((List.range (n - 1)).map fun i => leNat (slice m (4 + 4 * i) 4)) ++ [m.length - 8 * n]

/-- Whether each number is below the next, strictly or not. -/
def rising (strict : Bool) : List Nat → Bool
  | a :: b :: t => (if strict then decide (a < b) else decide (a ≤ b)) && rising strict (b :: t)
  | _ => true

/-- The tags and values of a message, none when it breaks R300. -/
def rtParse (m : List Byte) : Option (List (Nat × List Byte)) :=
  let n := leNat (m.take 4)
  if m.length % 4 ≠ 0 ∨ n = 0 ∨ m.length < 8 * n then none
  else
    let ends := rtEnds m n
    let tags := (List.range n).map fun i => leNat (slice m (4 * n + 4 * i) 4)
    if ends.all (fun o => o % 4 == 0) && rising false (0 :: ends) && rising true tags then
      some ((tags.zip ((0 :: ends).zip ends)).map fun x => (x.1, slice m (8 * n + x.2.1) (x.2.2 - x.2.1)))
    else none

/-- The message of a packet (R300): the bytes after the message length, which the payload must hold. -/
def rtMessage (p : List Byte) : Option (List Byte) :=
  let n := leNat (slice p 8 4)
  if p.take 8 = rtMagic ∧ 12 ≤ p.length ∧ n ≤ p.length - 12 then some (slice p 12 n) else none

/-- A value of a parsed message. -/
def rtTag (m : List (Nat × List Byte)) (t : Nat) : Option (List Byte) := (m.find? (·.1 == t)).map (·.2)

/-- The offsets at which values 1 on start. -/
def rtStarts : Nat → List (List Byte) → List Nat
  | o, a :: b :: t => (o + a.length) :: rtStarts (o + a.length) (b :: t)
  | _, _ => []

/-- Build a message of tags and values in order (R300). -/
def rtBuild (fs : List (Nat × List Byte)) : List Byte :=
  leBytes 4 fs.length ++ ((rtStarts 0 (fs.map (·.2))).map (leBytes 4)).flatten ++ (fs.map fun f => leBytes 4 f.1).flatten ++
    (fs.map (·.2)).flatten

/-- A packet around a message. -/
def rtPacket (m : List Byte) : List Byte := rtMagic ++ leBytes 4 m.length ++ m

/-- The version enabled in VERMASK (R298). -/
def State.rtEnabled (s : State) (v : Nat) : Bool := (s.get RT_CFG_VERMASK).testBit v

/-- The version numbers enabled, in ascending order (R299). -/
def State.rtVersions (s : State) : List Byte :=
  (if s.rtEnabled 0 then leBytes 4 (rtVersion 0) else []) ++ (if s.rtEnabled 1 then leBytes 4 (rtVersion 1) else [])

/-- The highest version that a VER list holds and VERMASK enables (R299). -/
def State.rtChoose (s : State) (l : List Byte) : Option Nat :=
  let has (v : Nat) := (List.range (l.length / 4)).any fun i => leNat (slice l (4 * i) 4) == rtVersion v
  if s.rtEnabled 1 && has 1 then some 1 else if s.rtEnabled 0 && has 0 then some 0 else none

/-! ### Hashes and trees (R303, R306, R307) -/

/-- H: the first 32 bytes of SHA-512 (R303). -/
def rtHash (bs : List Byte) : Nat := (Config.sha512 bs).toNat / 2 ^ 256

/-- An inner node (R306). -/
def rtNode (l r : Nat) : Nat := rtHash (1 :: (beBytes 32 l ++ beBytes 32 r))

/-- The level above a level. -/
def rtUp : List Nat → List Nat
  | l :: r :: t => rtNode l r :: rtUp t
  | _ => []

/-- The depth of the tree over `n` leaves: the least d with n ≤ 2^d (R306). -/
def rtDepth (n : Nat) : Nat := ((List.range 17).find? fun d => n ≤ 2 ^ d).getD 16

/-- The levels of the tree, from a level of leaves up to its root. -/
def rtLevels : Nat → List Nat → List (List Nat)
  | 0, l => [l]
  | d + 1, l => l :: rtLevels d (rtUp l)

/-- The tree over leaf hashes: positions without a leaf hold zeros (R306). -/
def rtTree (hs : List Nat) : List (List Nat) :=
  let d := rtDepth hs.length
  rtLevels d (hs ++ List.replicate (2 ^ d - hs.length) 0)

/-- The root of a tree. -/
def rtRoot (t : List (List Nat)) : Nat := ((t.getLast?.getD []).head?).getD 0

/-- The PATH of leaf `i`: the sibling at each level from the leaf upward (R307). -/
def rtPath : List (List Nat) → Nat → List Byte
  | l :: m :: t, i => beBytes 32 (l.getD (i ^^^ 1) 0) ++ rtPath (m :: t) (i / 2)
  | _, _ => []

/-! ### Keys (R311 to R313) -/

/-- The long-term public key as it reads back. -/
def State.rtLongTerm (s : State) : List Byte := (List.range 8).flatMap fun i => leBytes 4 (s.get (RT_LTPUB_PUB i))

/-- The server identity (R311). -/
def State.rtServer (s : State) : List Byte := beBytes 32 (rtHash (255 :: s.rtLongTerm))

/-- Show a public key in eight words, byte 4i in the low byte of word i. -/
def State.rtShowKey (s : State) (F : Nat → Field) (pub : List Byte) : State :=
  s.forEach 8 fun s i => s.set (F i) (leNat (slice pub (4 * i) 4))

/-- At the end of BOOT the long-term key is taken from the key store, or event 0x4305 is logged (R311). -/
def State.rtBoot (s : State) : State :=
  if !s.is RT_CFG_EN then s
  else match s.keyValue 3 with
  | some k => (s.setb RT_KEYSTAT_LTOK true).rtShowKey RT_LTPUB_PUB (beBytes 32 (Config.publicKey 4 k).toNat)
  | none => s.event 0x4305 3 0

/-- The service runs (R311). -/
def State.rtOn (s : State) : Bool := s.is RT_CFG_EN && s.is RT_KEYSTAT_LTOK && s.serviceOn

/-- UTC in ns at an instant (R298, R309). -/
def State.utcNs (s : State) (t : Nat) : Int := ((instSec t : Int) - s.utcAt (instSec t)) * 10 ^ 9 + instNsec t

/-- The next UTC midnight after a UTC time, in ns (R312). -/
def nextMidnight (u : Int) : Int := (u / (86400 * 10 ^ 9) + 1) * (86400 * 10 ^ 9)

/-- The overlap and the lead of R312, in ns. -/
def State.rtOverlap (s : State) : Int := s.get RT_KEYCFG_OVERLAP * 10 ^ 9
def State.rtLead (s : State) : Int := s.get RT_KEYCFG_KEYLEAD * 10 ^ 9

/-- A UTC time in a version's units (R298); the rounding of a time that is not whole is not stated
(DESIGN CHOICE notes/assumptions/6.md). -/
def rtTime (v : Nat) (u : Int) : Int := divRound u (if v = 0 then 1000 else 10 ^ 9)

/-- The context a signature covers, and its final zero. -/
def rtContext (t : String) (m : List Byte) : List Byte := chars t ++ 0 :: m

/-- The public key of a seed. -/
def rtPublic (seed : Nat) : List Byte := beBytes 32 (Config.publicKey 4 seed).toNat

/-- The CERT of a version for a key, under the long-term key (R308, R312). -/
def rtCert (long v seed : Nat) (mint maxt : Int) : List Byte :=
  let t := fun u => leBytes 8 (ofSigned 64 (rtTime v u))
  let dele := rtBuild [(rtPUBK, rtPublic seed), (rtMINT, t mint), (rtMAXT, t maxt)]
  rtBuild [(rtSIG, beBytes 64 (Config.ed25519 long (rtContext "RoughTime v1 delegation signature--" dele)).toNat), (rtDELE, dele)]

/-- Generate an online key valid between two UTC times (R312): the seed is drawn into the key store, and each version's
DELE is signed with the long-term key. -/
def State.rtDraw (s : State) (mint maxt : Int) : RtKey × State :=
  let long := (s.keyValue 3).getD 0
  let n := s.rt.keys
  let r := s.rand 256
  let s := (r.2.putKey (8 + n % 8) 7 12 2 r.1).onRt fun x => { x with keys := n + 1 }
  ({ num := n, seed := r.1, mint := mint, maxt := maxt, certs := [rtCert long 0 r.1 mint maxt, rtCert long 1 r.1 mint maxt] }, s)

/-- Old keys that no batch awaits are wiped from the key store (R313). -/
def State.rtWipe (s : State) : State :=
  let used (k : RtKey) := s.rt.closed.any fun b => b.key == k.num
  let gone := s.rt.old.filter fun k => !used k
  gone.foldl (fun s k => s.dropKey (8 + k.num % 8)) (s.onRt fun x => { x with old := x.old.filter used })

/-- Install an online key: event 0x4301, and the late condition ends (R312, R313). -/
def State.rtInstall (s : State) (k : RtKey) : State :=
  let s := s.onRt fun x => { x with old := x.old ++ x.cur.toList, cur := some k, replace := false }
  let s := (s.bump RT_KEYSTAT_KEYNUM 1).set RT_KEYSTAT_ONLINE 1
  let s := (s.set RT_ONMINT_UTC (ofSigned 32 (rtTime 1 k.mint))).set RT_ONMAXT_UTC (ofSigned 32 (rtTime 1 k.maxt))
  let s := ((s.rtShowKey RT_ONPUB_PUB (rtPublic k.seed)).set RT_KEYSTAT_LATE 0).clearCond 0x4302 0
  (s.event 0x4301 0 (s.get RT_KEYSTAT_KEYNUM)).rtWipe

/-- The UTC midnight from which a key's successor serves: OVERLAP before its MAXT (R312). -/
def State.rtD (s : State) (k : RtKey) : Int := k.maxt - s.rtOverlap

/-- The first key once E is at most KEYELIM, and a replacement once a batch has closed outside the key's validity
(R312). A daily key of another midnight no longer fits then. -/
def State.rtGenerate (s : State) : State :=
  let first := s.rt.cur.isNone && decide (s.get SEL_TQR_TEB ≤ s.get RT_KEYELIM_ELIM)
  if s.rtOn && (first || s.rt.replace) then
    let u := s.utcNs s.now
    let d := nextMidnight u
    let r := s.rtDraw (u - s.rtOverlap) (d + s.rtOverlap)
    let s := r.2.rtInstall r.1
    let s := match s.rt.daily with
      | some k => if k.mint + s.rtOverlap = d then s
          else ((s.onRt fun x => { x with daily := none }).set RT_KEYSTAT_NEXTREADY 0).dropKey (8 + k.num % 8)
      | none => s
    if first then s else s.event 0x4306 2 (s.get RT_KEYSTAT_KEYNUM)
  else s

/-- The daily key, generated KEYLEAD before D (R312). One that comes after D takes effect at once. -/
def State.rtDaily (s : State) : State :=
  match s.rt.cur with
  | none => s
  | some c =>
    let d := s.rtD c
    let u := s.utcNs s.now
    if s.rtOn && s.rt.daily.isNone && decide (d - s.rtLead ≤ u) then
      let r := s.rtDraw (d - s.rtOverlap) (d + 86400 * 10 ^ 9 + s.rtOverlap)
      if d ≤ u then r.2.rtInstall r.1 else (r.2.onRt fun x => { x with daily := some r.1 }).set RT_KEYSTAT_NEXTREADY 1
    else s

/-- At or after D the daily key takes effect, for a UTC time in ns (R312). -/
def State.rtDue (s : State) (u : Int) : State :=
  match s.rt.daily with
  | some k =>
    if k.mint + s.rtOverlap ≤ u then ((s.onRt fun x => { x with daily := none }).set RT_KEYSTAT_NEXTREADY 0).rtInstall k else s
  | none => s

/-- UTC midnight D: the daily key takes effect, or the late condition is raised (R312, R313). -/
def State.rtEffect (s : State) : State :=
  if !s.rtOn then s
  else match s.rt.daily, s.rt.cur with
  | some _, _ => s.rtDue (s.utcNs s.now)
  | none, some c =>
    if s.rtD c ≤ s.utcNs s.now ∧ !s.is RT_KEYSTAT_LATE then (s.set RT_KEYSTAT_LATE 1).raiseCond 0x4302 2 0 0 else s
  | none, none => s

def execOnlineKeyGenerate (s : State) : Out := .next s.rtGenerate
def execDailyKeyGenerate (s : State) : Out := .next s.rtDaily
def execDailyKeyEffect (s : State) : Out := .next s.rtEffect

/-! ### Batches (R304 to R309) -/

/-- The open batch of a version. -/
def State.rtOpen (s : State) (v : Nat) : Option RtOpen := SMap.get none s.rt.opens v
def State.setRtOpen (s : State) (v : Nat) (o : Option RtOpen) : State := s.onRt fun x => { x with opens := SMap.set none x.opens v o }

/-- The signing backlog is below SIGNQ (R304). -/
def State.rtRoom (s : State) : Bool := s.rt.closed.length < s.get RT_CFG_SIGNQ

/-- The closed batches, with RT_BATCH.BACKLOG. -/
def State.setRtClosed (s : State) (l : List RtBatch) : State := (s.onRt fun x => { x with closed := l }).set RT_BATCH_BACKLOG l.length

/-- L of R309: the instant lies within 1 s of a pending or of the last applied leap. -/
def State.rtLeap (s : State) (t : Nat) : Nat :=
  let near (sec : Nat) := decide (t ≤ (sec + 1) * sec1 ∧ sec * sec1 ≤ t + sec1)
  if (s.is TB_UTC_PENDING && near s.leapTime) || (match s.tb.lastLeap with | some l => near l | none => false) then 1 else 0

/-- MIDP of a UTC time in ns (R309). -/
def rtMidp (v : Nat) (u : Int) : Int := if v = 0 then (u + 500) / 1000 else (u + 500000000) / 10 ^ 9

/-- RADI of an error bound (R309). -/
def State.rtRadi (s : State) (v e l : Nat) : Nat :=
  let m := s.get RT_RADIMIN_MIN
  if v = 0 then max m (ceilDiv (e + 500) 1000 + 1000000 * l) else max (ceilDiv m (10 ^ 6)) (ceilDiv (e + 500000000) (10 ^ 9) + l)

/-- A version's batch closes at an instant (R304, R306, R309): without a bound or a valid key its leaves are discarded and
counted. -/
def State.rtClose (s : State) (v : Nat) (o : RtOpen) (t : Nat) : State :=
  let u := s.utcNs t
  let s := (s.setRtOpen v none).rtDue u
  let num := s.rt.nextNum
  let n := o.leaves.length
  let s := (s.onRt fun x => { x with nextNum := (num + 1) % 2 ^ 20 }).set RT_BATCH_LASTN n
  let key := s.rt.cur.bind fun k => if k.mint ≤ u ∧ u ≤ k.maxt then some k else none
  let s := if key.isNone ∧ s.rt.cur.isSome then s.onRt fun x => { x with replace := true } else s
  let e := s.get SEL_TQR_TEB
  if e = 0xFFFFFFFF then s.bump RT_CNT_NOTIME n
  else match key with
  | none => s.bump RT_CNT_NOKEY n
  | some k =>
    let radi := s.rtRadi v e (s.rtLeap t)
    let tree := rtTree (o.leaves.map (·.hash))
    let srep := rtBuild [(rtRADI, leBytes 4 radi), (rtMIDP, leBytes 8 (ofSigned 64 (rtMidp v u))), (rtVERS, s.rtVersions),
      (rtROOT, beBytes 32 (rtRoot tree))]
    (s.set (RT_RADI_RADI v) radi).setRtClosed
      (s.rt.closed ++ [{ num := num, ver := v, closed := t, leaves := o.leaves, tree := tree, srep := srep, key := k.num }])

/-- The end of a batch's window (R304). -/
def State.rtEnd (s : State) (o : RtOpen) : Nat := us1 * s.get RT_CFG_WINDOW + o.from_

/-- The window of a version's batch ends, and the batch closes when the backlog is below SIGNQ (R304). -/
def State.rtWindow (s : State) (v : Nat) : State :=
  match s.rtOpen v with
  | none => s
  | some o =>
    match s.reach (s.rtEnd o) with
    | none => s
    | some s => if s.rtRoom then s.rtClose v o (s.rtEnd o) else s

/-- A backlog that falls below SIGNQ closes the batches whose window is over, now (R304); the lower version comes first (DESIGN CHOICE
notes/assumptions/60.md). -/
def State.rtCatch (s : State) : State :=
  s.forEach 2 fun s v =>
    match s.rtOpen v with
    | some o => if s.rtEnd o ≤ s.now ∧ s.rtRoom then s.rtClose v o s.now else s
    | none => s

def execBatchClose (v : Fin 2) (s : State) : Out := .next (s.rtWindow v)

/-! ### Requests (R302, R303) -/

/-- A request that fails a check is dropped: counter and event 0x4303 (R302). -/
def State.rtFail (s : State) (g : Eng) (F : Field) (check : Nat) : State := ((s.bump F 1).noteSec 0x4303 check).dropReq g

/-- A batch whose window is over before this instant has closed at its end (R304). -/
def State.rtOver (s : State) (v : Nat) : State :=
  match s.rtOpen v with
  | some o => if s.rtEnd o < s.now ∧ s.rtRoom then s.rtClose v o (s.rtEnd o) else s
  | none => s

/-- A leaf joins its version's batch, which opens now when it is the first and closes at the 65,536th (R303, R304). -/
def State.rtAppend (s : State) (v : Nat) (l : RtLeaf) : State :=
  let s := s.rtOver v
  let o : RtOpen := match s.rtOpen v with
    | some o => { o with leaves := o.leaves ++ [l] }
    | none => { from_ := s.now, leaves := [l] }
  let s := s.setRtOpen v (some o)
  if o.leaves.length = 65536 ∧ s.rtRoom then s.rtClose v o s.now else s

/-- The batch of a version is full and cannot close (R305). -/
def State.rtFull (s : State) (v : Nat) : Bool := (s.rtOpen v).any fun o => decide (65536 ≤ o.leaves.length)

/-- A request on the Roughtime endpoint (R302). -/
def State.rtCheck (s : State) (g : Eng) (r : Req) (ip : Ip) (p : List Byte) : State :=
  let s := s.bump RT_CNT_REQ 1
  if p.length < 1024 then s.rtFail g RT_CNT_SHORT 1
  else if badSource ip (beNat (slice r.bytes ip.l4 2)) then s.rtFail g RT_CNT_BADSRC 2
  else match (rtMessage p).bind fun m => (rtParse m).map fun t => (m, t) with
  | none => s.rtFail g RT_CNT_MALFORMED 3
  | some (m, t) =>
    let ver := (rtTag t rtVER).getD []
    let nonce := (rtTag t rtNONC).getD []
    if ver = [] ∨ ver.length % 4 ≠ 0 ∨ 128 < ver.length ∨ nonce.length ≠ 32 then s.rtFail g RT_CNT_MALFORMED 4
    else match s.rtChoose ver with
    | none => s.rtFail g RT_CNT_VERNONE 5
    | some v =>
      if (rtTag t rtSRV).any fun b => decide (b ≠ s.rtServer) then s.rtFail g RT_CNT_SRVMISMATCH 6
      else if s.rt.cur.isNone then s.rtFail g RT_CNT_NOKEY 7
      else if s.get SEL_TQR_TEB = 0xFFFFFFFF then s.rtFail g RT_CNT_NOTIME 8
      else if s.rtFull v then s.rtFail g RT_CNT_BATCHFULL 9
      else
        let input := if v = 0 then nonce else p.take (12 + m.length)
        (s.rtAppend v { req := r, nonce := nonce, hash := rtHash (0 :: input) }).dropReq g

/-- One response of a batch is emitted (R308). -/
def State.rtEmit (s : State) (g : Eng) (r : Req) (f : TxFrame) : State :=
  let s := ((s.pushLane { f with src := g.c }).perfEv 0x21 g.c 1).onEng g fun x => { x with emits := x.emits + 1 }
  ((s.bump (FAB_PART_RESP 5) 1).bump RT_CNT_RESP 1).bump (if r.kind = 0 then RT_CNT_V0 else RT_CNT_V1) 1

/-- The responses of a SRC = 2 request, one EMIT per leaf and each with a credit, then END (R308, R224, R234). -/
def State.rtAnswer (s : State) (g : Eng) (r : Req) : State :=
  let s := (r.resps.drop (s.eng g).emits).foldl (fun s f => if s.credit g.c f.port then s.rtEmit g r f else s) s
  if r.resps.length ≤ (s.eng g).emits then s.done g else s.onEng g fun x => { x with wait := 9 }

/-- A Roughtime request (R302): what is not on the endpoint is not a request of the service. One of the batch unit is answered
(R308). -/
def State.rtRequest (s : State) (g : Eng) : State :=
  s.routine g 5 fun r =>
    if r.src = 2 then s.rtAnswer g r else
    match reqUdp r with
    | none => s.dropReq g
    | some (ip, p) =>
      if s.rtOn && dstPort r.bytes ip == s.get RT_NET_PORT && s.serverAddr r.port r.vlan ip.dst then s.rtCheck g r ip p else s.dropReq g

def execRoughtimeRequest (g : Eng) (s : State) : Out := .next (s.rtRequest g)

/-! ### Responses (R308, R313) -/

/-- The response to leaf `i` of a batch (R307, R308). -/
def rtResponse (b : RtBatch) (sig cert : List Byte) (i : Nat) (l : RtLeaf) : List Byte :=
  rtPacket (rtBuild [(rtSIG, sig), (rtVER, leBytes 4 (rtVersion b.ver)), (rtNONC, l.nonce), (rtPATH, rtPath b.tree i), (rtSREP, b.srep),
    (rtCERT, cert), (rtINDX, leBytes 4 i)])

/-- The frame of a response (R308). -/
def State.rtFrame (s : State) (b : RtBatch) (sig cert : List Byte) (i : Nat) (l : RtLeaf) : TxFrame :=
  { port := l.req.port, cls := 4, bytes := (s.udpReply l.req (s.get RT_NET_TTL) (s.get RT_NET_DSCP) (rtResponse b sig cert i l)).1, desc := {}
    part := some 5, stamp := b.closed, caught := true, downs := l.req.downs }

/-- Up to eight frames of one port in a row, and the rest. -/
def samePort (p : Nat) : Nat → List TxFrame → List TxFrame × List TxFrame
  | k + 1, f :: t => if f.port = p then (f :: (samePort p k t).1, (samePort p k t).2) else ([], f :: t)
  | _, l => ([], l)

/-- The requests of the batch unit (R217, R223, R308): each covers up to eight leaves in a row that came in on one port, because its
metadata names one (DESIGN CHOICE notes/assumptions/60.md). -/
def rtRequests (b : RtBatch) : Nat → List TxFrame → List Req
  | k + 1, f :: t =>
    let g := samePort f.port 8 (f :: t)
    { part := 5, src := 2, port := f.port, bytes := [], stamp := b.closed, index := b.num, kind := b.ver, resps := g.1 } :: rtRequests b k g.2
  | _, _ => []

/-- The SIGN job of batch `num` is released, or has failed after all its reruns (R308, R313). -/
def State.rtRelease (s : State) (num : Nat) (ok : Bool) : State :=
  match s.rt.closed.find? (·.num == num) with
  | none => s
  | some b =>
    let s := s.setRtClosed (s.rt.closed.filter (·.num ≠ num))
    let n := b.leaves.length
    match (s.rt.cur.toList ++ s.rt.old).find? (·.num == b.key), ok with
    | some k, true =>
      let sig := beBytes 64 (Config.ed25519 k.seed (rtContext "RoughTime v1 response signature" b.srep)).toNat
      let s := (s.bump RT_CNT_BATCHES 1).set RT_BATCHNUM_NUM num
      let fs := ((List.range n).zip b.leaves).map fun x => s.rtFrame b sig (k.certs.getD b.ver []) x.1 x.2
      (s.onFab fun f => { f with intern := SMap.set [] f.intern 22 (SMap.get [] f.intern 22 ++ rtRequests b n fs) }).rtWipe.rtCatch
    | _, _ => ((s.bump RT_CNT_SIGFAIL n).event 0x4304 2 num).rtWipe.rtCatch

def execBatchSignatureRelease (num : Nat) (ok : Bool) (s : State) : Out := .next (s.rtRelease num ok)

end Sys2Proof.Machine
end

