-- ==== Sys2Proof/Machine/Teasel.lean ====
section
/-! DEFINITION. The Teasel engines (spec/12_teasel_engines.md): jobs, checks, commands, release, reruns, aborts and
retirement. -/
namespace Sys2Proof.Machine

/-! ### Engines and local memory (R319 to R322) -/

def State.tslEng (s : State) (e : Nat) : TslEng := SMap.get {} s.tsl.engs e
def State.setTslEng (s : State) (e : Nat) (x : TslEng) : State := s.onTsl fun t => { t with engs := SMap.set {} t.engs e x }
def State.tslRun (s : State) (e : Nat) : Option TslRun := (s.tslEng e).run
def State.setTslRun (s : State) (e : Nat) (r : TslRun) : State := s.setTslEng e { s.tslEng e with run := some r }

/-- `n` bytes of the local memory of processor `c`; a byte nothing has written reads 0 (DESIGN CHOICE notes/assumptions/21.md). -/
def State.cpMem (s : State) (c a n : Nat) : List Byte := SMap.getMany 0 s.tsl.mem (2 ^ 32 * c + a) n

/-- Put bytes into the local memory of processor `c`. -/
def State.setCpMem (s : State) (c a : Nat) (bs : List Byte) : State :=
  s.onTsl fun t => { t with mem := SMap.setMany 0 t.mem (2 ^ 32 * c + a) bs }

/-- Parse a descriptor at an address of a processor's memory (R322). -/
def State.tslDesc (s : State) (c a : Nat) : TslDesc :=
  let w (i : Nat) : Nat := leNat (s.cpMem c (a + 4 * i) 4)
  let w0 := w 0
  let w2 := w 2
  { cls := w0 / 2 ^ 30, n := w0 / 2 ^ 24 % 64 + 1, modSlot := w0 / 2 ^ 19 % 32, chkSlot := w0 / 2 ^ 14 % 32, chkEn := w0.testBit 13
    jobId := w 1, lstart := w2 / 2 ^ 24, lend := w2 / 2 ^ 16 % 256, lcount := w2 % 2 ^ 13
    keys := [w 3 % 2 ^ 16, w 3 / 2 ^ 16, w 4 % 2 ^ 16, w 4 / 2 ^ 16]
    inBase := w 5, outBase := w 6, inLen := w 7 % 2 ^ 16, outLen := w 7 / 2 ^ 16, vdesc := w 8
    resv := w0 / 2 ^ 8 % 32 ≠ 0 || w2 / 2 ^ 13 % 8 ≠ 0 || [9, 10, 11, 12, 13, 14, 15].any (fun i => w i ≠ 0)
    prog := (List.range (w0 % 256 + 1)).map fun i => w (16 + i) }

/-! ### Commands (R323, R324) -/

/-- The fields of a command word. -/
def cmdOp (c : Nat) : Nat := c / 2 ^ 28
def cmdD (c : Nat) : Nat := c / 2 ^ 23 % 32
def cmdA (c : Nat) : Nat := c / 2 ^ 18 % 32
def cmdB (c : Nat) : Nat := c / 2 ^ 13 % 32
def cmdImm (c : Nat) : Nat := c % 2 ^ 13

/-- A MOVE that exchanges on a bit. -/
def cmdSwap (c : Nat) : Bool := cmdOp c == 9 && c.testBit 12

/-- The slots a command reads, and those it writes. -/
def cmdReads (c : Nat) : List Nat :=
  match cmdOp c with
  | 4 | 5 | 6 | 8 => [cmdA c, cmdB c]
  | 7 | 10 => [cmdA c]
  | 9 => if cmdSwap c then [cmdA c, cmdD c, cmdB c] else [cmdA c]
  | _ => []
def cmdWrites (c : Nat) : List Nat :=
  match cmdOp c with
  | 1 | 2 | 3 | 4 | 5 | 6 | 7 | 8 => [cmdD c]
  | 9 => if cmdSwap c then [cmdD c, cmdA c] else [cmdD c]
  | _ => []

/-- The command needs M (R323). -/
def cmdNeedsM (c : Nat) : Bool := 3 ≤ cmdOp c && cmdOp c ≤ 8

/-- The opcode is valid and the fields that the command does not use are 0. -/
def cmdValid (c : Nat) : Bool :=
  match cmdOp c with
  | 1 => cmdA c == 0 && cmdB c == 0
  | 2 => cmdA c == 0 && cmdB c == 0 && cmdImm c < 4
  | 3 => cmdA c == 0 && cmdB c == 0 && cmdImm c == 0
  | 4 | 5 | 6 => cmdImm c == 0
  | 7 => cmdB c == 0 && cmdImm c == 0
  | 8 => cmdImm c < 64
  | 9 => cmdSwap c || (cmdB c == 0 && cmdImm c == 0)
  | 10 => cmdD c == 0 && cmdB c == 0
  | _ => false

/-- The exponent words of a MEXP. -/
def cmdExp (c : Nat) : Nat := cmdImm c % 64 + 1

/-- The cost of a command in slots (R328). -/
def cmdCost (n c : Nat) : Nat :=
  let mul := ceilDiv (n * n) 16 + 4
  match cmdOp c with
  | 6 => mul
  | 7 => 128 * n * (ceilDiv n 4 + 2)
  | 8 => 128 * cmdExp c * mul
  | _ => ceilDiv n 4 + 2

/-- T_chk of R327. -/
def tChk (n : Nat) : Nat := n + 8

/-- The commands of the loop body. -/
def TslDesc.body (d : TslDesc) : List Nat := if d.lcount = 0 then [] else (d.prog.drop d.lstart).take (d.lend + 1 - d.lstart)
def TslDesc.pre (d : TslDesc) : List Nat := if d.lcount = 0 then d.prog else d.prog.take d.lstart
def TslDesc.post (d : TslDesc) : List Nat := if d.lcount = 0 then [] else d.prog.drop (d.lend + 1)

/-- D of R327. -/
def TslDesc.slots (d : TslDesc) : Nat :=
  let c (l : List Nat) : Nat := (l.map (cmdCost d.n)).sum
  64 + tChk d.n + c d.pre + d.lcount * c d.body + c d.post

/-! ### Input checks (R325) -/

/-- An index below `n` at which `p` holds lies in the loop body. -/
def TslDesc.inBody (d : TslDesc) (i : Nat) : Bool := d.lcount ≠ 0 && d.lstart ≤ i && i ≤ d.lend

/-- The program position of the only LOAD of MODSLOT, if MODSLOT is written once, by a LOAD, and outside a loop that runs
more than once. -/
def TslDesc.modLoad (d : TslDesc) : Option Nat :=
  match (List.range d.prog.length).filter fun i => (cmdWrites (d.prog.getD i 0)).contains d.modSlot with
  | [i] => if cmdOp (d.prog.getD i 0) = 1 ∧ !(d.inBody i && 1 < d.lcount) then some i else none
  | _ => none

/-- BAD_DESC. -/
def TslDesc.badDesc (d : TslDesc) : Bool :=
  8192 < d.inLen || 8192 < d.outLen || 4096 < d.lcount || d.resv || d.inBase % 8 ≠ 0 || d.outBase % 8 ≠ 0 ||
  (d.lcount ≠ 0 && (d.lend < d.lstart || d.prog.length ≤ d.lend)) ||
  (match d.modLoad with
   | none => true
   | some i => (d.prog.take i).any cmdNeedsM) ||
  (d.chkEn && !d.prog.any fun c => (cmdWrites c).contains d.chkSlot) ||
  ((List.range d.prog.length).any fun i =>
    let c := d.prog.getD i 0
    let b := cmdImm c % 2 ^ 12
    cmdSwap c && (64 * d.n ≤ b || (d.inBody i && b + 1 < d.lcount))) ||
  (if d.cls = 2 then d.vdesc == 0 else d.vdesc ≠ 0)

/-- BAD_SLOT: a slot is read before an earlier command writes it. -/
def readsEarly : List Nat → List Nat → Bool
  | _, [] => false
  | w, c :: t => (cmdReads c).any (fun i => !w.contains i) || readsEarly (cmdWrites c ++ w) t

/-- BUF_RANGE. -/
def TslDesc.badBuf (d : TslDesc) (inLen : Nat) : Bool :=
  d.prog.any fun c => (cmdOp c == 1 && inLen < cmdImm c + d.n) || (cmdOp c == 10 && d.outLen < cmdImm c + d.n)

/-- UNLOAD_KEY: an UNLOAD reads a slot written by LOADKEY and not rewritten since. -/
def unloadsKey : List Nat → List Nat → Bool
  | _, [] => false
  | k, c :: t =>
    (cmdOp c == 10 && k.contains (cmdA c)) ||
      unloadsKey (if cmdOp c = 2 then cmdD c :: k else k.filter fun i => !(cmdWrites c).contains i) t

/-- The order in which commands run, for the checks: two rounds of the loop show every value that one leaves to the next. -/
def TslDesc.order (d : TslDesc) : List Nat := d.pre ++ d.body ++ (if 2 ≤ d.lcount then d.body else []) ++ d.post

/-- The `n` words from word offset `o` of an area (R320). -/
def areaWords (b : List Byte) (n o : Nat) : Nat := leNat (slice b (8 * o) (8 * n))

/-- RANGE, ZERO and BASE_TRIVIAL of the operands known at start: a slot's value is known from the LOAD or LOADKEY that wrote
it until another command rewrites it. `kind` selects the check: 8, 9 or 10. -/
def badOperand (n m : Nat) (value : Nat → Nat) (kind : Nat) : List (Nat × Nat) → List Nat → Bool
  | _, [] => false
  | kn, c :: t =>
    let get (i : Nat) : Option Nat := (kn.find? (·.1 == i)).map (·.2)
    let known (i : Nat) (p : Nat → Bool) : Bool := (get i).any p
    let bad :=
      if cmdOp c = 10 then false
      else match kind with
      | 8 => (cmdReads c).any (fun i => known i fun v => decide (m ≤ v)) ||
             (cmdOp c == 8 && known (cmdB c) fun v => decide (2 ^ (64 * cmdExp c) ≤ v))
      | 9 => (cmdOp c == 7 && known (cmdA c) fun v => v == 0) || (cmdOp c == 8 && known (cmdB c) fun v => v == 0)
      | _ => cmdOp c == 8 && known (cmdA c) fun v => decide (v < 2)
    let rest := kn.filter fun x => !(cmdWrites c).contains x.1
    bad || badOperand n m value kind (if cmdOp c = 1 ∨ cmdOp c = 2 then (cmdD c, value c) :: rest else rest) t

/-- The key of a LOADKEY. -/
def TslDesc.keyOf (d : TslDesc) (c : Nat) : Nat := d.keys.getD (cmdImm c % 4) 0

/-- KEY_UNAVAIL: the entry is empty, fails its check, or is not permitted for the class. -/
def State.keyBad (s : State) (d : TslDesc) (c : Nat) : Bool :=
  cmdOp c == 2 && match s.keyAt (d.keyOf c) with
  | none => true
  | some k => k.corrupt || !k.cls.testBit d.cls

/-- The value that a LOAD or LOADKEY puts into a slot. -/
def State.loadValue (s : State) (d : TslDesc) (input : List Byte) (c : Nat) : Nat :=
  if cmdOp c = 1 then areaWords input d.n (cmdImm c) else ((s.keyAt (d.keyOf c)).map (·.value)).getD 0

/-- The first row of R325 that applies; 0 when none does. -/
def State.tslCheck (s : State) (d : TslDesc) (input : List Byte) : Nat :=
  let m := (d.modLoad.map fun i => areaWords input d.n (cmdImm (d.prog.getD i 0))).getD 0
  -- M is not checked against itself
  let operands (k : Nat) : Bool :=
    badOperand d.n m (s.loadValue d input) k [] (d.order.map fun c => if cmdOp c = 1 ∧ cmdD c = d.modSlot then 0 else c)
  if d.badDesc then 0x01
  else if d.prog.any fun c => !cmdValid c then 0x02
  else if readsEarly [] d.prog then 0x03
  else if d.badBuf (input.length / 8) then 0x04
  else if d.prog.any (s.keyBad d) then 0x05
  else if m < 3 then 0x06
  else if m % 2 = 0 ∧ d.prog.any (fun c => 6 ≤ cmdOp c && cmdOp c ≤ 8) then 0x07
  else if operands 8 then 0x08
  else if operands 9 then 0x09
  else if operands 10 then 0x0A
  else if unloadsKey [] d.order then 0x0B
  else 0

/-! ### Submission and start (R321, R331) -/

/-- A completion record in the ring of a processor (R331): job, code, engine, attempts, supply discards, D. -/
def State.tslRecord (s : State) (ring jobId code e attempts supply d : Nat) : State :=
  let w1 := code + e * 2 ^ 8 + attempts % 4 * 2 ^ 12 + supply % 16 * 2 ^ 14
  let r := [jobId, w1, instWord s.now 0, instWord s.now 1, instWord s.now 2, d % 2 ^ 32, 0, 0]
  s.onTsl fun t => { t with rings := SMap.set [] t.rings ring (SMap.get [] t.rings ring ++ [r]) }

/-- A queued job ends without an engine: NO_ENGINE or ABORTED. -/
def State.tslEndQueued (s : State) (j : TslJob) (code : Nat) : State :=
  (s.bump (if code = 0x12 then TSL_CNT_ABORTED else TSL_CNT_FAILED) 1).tslRecord j.ring (s.tslDesc j.cp j.addr).jobId code 0 j.faults j.supply 0

def State.tslQueue (s : State) (k : Nat) : List TslJob := SMap.get [] s.tsl.queues k
def State.setTslQueue (s : State) (k : Nat) (l : List TslJob) : State :=
  (s.onTsl fun t => { t with queues := SMap.set [] t.queues k l }).showTsl

/-- A write of TSL_SUBMITc; the processor has put `mem` into its local memory before. -/
def State.tslSubmit (s : State) (path : Path) (c v : Nat) (mem : List (Nat × Byte)) : State :=
  if path ≠ .cp c ∨ !s.awake then s
  else
    let s := mem.foldl (fun s x => s.setCpMem c (x.1 % 2 ^ 32) [x.2]) s
    let k := v / 2 ^ 30 % 4
    let s := (s.set (TSL_SUBMIT_PART c) k).set (TSL_SUBMIT_ADDR c) (v / 8)
    let j : TslJob := { cp := c, ring := if s.pw.cpFailed.contains c || s.pw.cp4Carries == some c then 4 else c, addr := v / 8 % 2 ^ 17 * 8, part := k }
    if 64 ≤ (s.tslQueue k).length then s.set (TSL_SUBMIT_STATUS c) 2
    else
      let s := s.set (TSL_SUBMIT_STATUS c) 1
      if s.tslServing k = [] then s.tslEndQueued j 0x13 else s.setTslQueue k (s.tslQueue k ++ [j])

/-- The next release-slot boundary after the present tick, in device ticks (R327). -/
def State.nextSlot (s : State) : Nat := (s.tb.ticks / 128 + 1) * 128

/-- An engine may run a job that has faulted on some engines: one of the partition that has not run it, or any when each
engine in service has (R336). -/
def State.mayRun (s : State) (k e : Nat) (tried : List Nat) : Bool :=
  !tried.contains e || (s.tslServing k).all fun x => tried.contains x

/-- The first job of a queue that an engine may run, and the rest. -/
def State.takeJob (s : State) (k e : Nat) : List TslJob → Option (TslJob × List TslJob)
  | [] => none
  | j :: t =>
    if s.mayRun k e j.tried then some (j, t)
    else (s.takeJob k e t).map fun r => (r.1, j :: r.2)

/-- An engine takes jobs. -/
def State.tslFree (s : State) (e : Nat) : Bool := s.tslIn e && s.tslIdle e && (s.tslRun e).isNone && !s.railLow

/-- A SIGN job waits for its companion. -/
def State.tslWaits (s : State) (e : Nat) : Bool :=
  (s.tslRun e).any fun r => r.waiting && !(List.range 16).any fun x => (s.tslRun x).any fun c => c.signer == some e

/-- Engine `x` may run the companion of the SIGN job on `e` (R335): one of the partition, or with no other engine in service
there the lowest-numbered idle engine of another partition. -/
def State.companionFor (s : State) (e x : Nat) : Bool :=
  match s.tslRun e with
  | none => false
  | some r =>
    let k := r.job.part
    let others := (s.tslServing k).filter (· ≠ e)
    s.tslFree x && x ≠ e &&
      (if others = [] then
        s.tslPart x ≠ some k && (List.range x).all fun y => !(s.tslFree y && s.tslPart y ≠ some k)
       else others.contains x && (!r.compTried.contains x || others.all fun y => r.compTried.contains y))

/-- A job is on an engine: its block, and its check at start (R325, R343). -/
def State.startRun (s : State) (e : Nat) (j : TslJob) (d : TslDesc) (input : List Byte) (code : Nat) (signer : Option Nat) : State :=
  let dur := if code = 0 then d.slots else tChk d.n
  let v := s.rand 16
  let r : TslRun := { job := j, desc := d, input := input, start := s.tb.ticks, dur := dur, refused := code ≠ 0, code := code
                      q := 2 ^ 60 + Config.shadowPrime v.1 % 2 ^ 60, signer := signer }
  let s := v.2.setTslRun e r
  let s := ((((s.set (TSL_E_JOBID e) 0).set (TSL_E_STATE e) (if signer.isSome then 3 else 2)).set (TSL_E_CLASS e) d.cls).set (TSL_E_NM1 e)
    (d.n - 1)).set (TSL_E_DUR e) dur
  ((s.setTs (TSL_E_START e) s.now).set (TSL_E_JOBID e) d.jobId).setBit TSL_STATUS_BUSY e true

/-- A key whose check failed at its use is fatal (R393). -/
def State.keyFault (s : State) (d : TslDesc) : State :=
  if d.prog.any fun c => cmdOp c == 2 && (s.keyAt (d.keyOf c)).any (·.corrupt) then s.fatal 0x04 else s

/-- JOB_START: an idle engine takes the oldest job it may run, stages it, and starts it at the next slot boundary. -/
def State.jobStart (s : State) (e : Nat) : State :=
  match s.tslPart e with
  | none => s
  | some k =>
    if !s.tslFree e ∨ (List.range 16).any (fun x => s.tslWaits x && s.companionFor x e) then s
    else match s.takeJob k e (s.tslQueue k) with
    | none => s
    | some _ =>
      match s.reachTick s.nextSlot with
      | none => s
      | some s =>
        match s.takeJob k e (s.tslQueue k) with
        | none => s
        | some (j, rest) =>
          let d := s.tslDesc j.cp j.addr
          let input := s.cpMem j.cp d.inBase (8 * min d.inLen 8192)
          let code := s.tslCheck d input
          let s := (s.setTslQueue k rest).startRun e j d input code none
          if code = 5 then s.keyFault d else s

/-- COMPANION_START: the VERIFY job of a SIGN job starts on another engine (R335). -/
def State.companionStart (s : State) (e x : Nat) : State :=
  if !s.tslWaits e ∨ !s.companionFor e x then s
  else match s.reachTick s.nextSlot with
  | none => s
  | some s =>
    match s.tslRun e with
    | none => s
    | some r =>
      let d := s.tslDesc r.job.cp r.desc.vdesc
      let input := s.cpMem r.job.cp d.inBase (8 * min d.inLen 8192) ++ SMap.getMany 0 r.out 0 (8 * r.desc.outLen)
      let code := if d.cls ≠ 0 ∨ !d.chkEn then 0x01 else s.tslCheck d input
      let s := s.startRun x r.job d input code (some e)
      if code = 5 then s.keyFault d else s

def execTslSubmit (path : Path) (c : Fin 5) (v : Nat) (mem : List (Nat × Byte)) (s : State) : Out := .next (s.tslSubmit path c v mem)
def execJobStart (e : Fin 16) (s : State) : Out := .next (s.jobStart e)
def execCompanionStart (sign comp : Fin 16) (s : State) : Out := .next (s.companionStart sign comp)

/-! ### Running commands (R324, R326, R334) -/

/-- Modular exponentiation over `f` bits of the exponent, from the lowest. -/
def powMod : Nat → Nat → Nat → Nat → Nat → Nat
  | 0, m, _, _, r => r % m
  | f + 1, m, b, x, r => powMod f m (b * b % m) (x / 2) (if x % 2 = 1 then r * b % m else r)

/-- The extended Euclidean algorithm: the last nonzero remainder and the cofactor of `a`. -/
def euclid : Nat → Int → Int → Int → Int → Int × Int
  | 0, r0, _, t0, _ => (r0, t0)
  | f + 1, r0, r1, t0, t1 => if r1 = 0 then (r0, t0) else euclid f r1 (r0 - r0 / r1 * r1) t1 (t0 - r0 / r1 * t1)

/-- The inverse of `a` modulo `m`, if it has one; the numbers have at most 4,096 bits. -/
def invMod (a m : Nat) : Option Nat :=
  let r := euclid 8192 m (a % m) 0 1
  if r.1 = 1 then some (r.2 % m).toNat else none

def TslRun.slot (r : TslRun) (i : Nat) : Nat := SMap.get 0 r.slots i

/-- The modulus M. -/
def TslRun.m (r : TslRun) : Nat := r.slot r.desc.modSlot

/-- The next command of a run. -/
def TslRun.cmd (r : TslRun) : Option Nat := r.desc.prog[r.pc]?

/-- The next command in program order, with the loop (R323). -/
def TslRun.step (r : TslRun) : TslRun :=
  if r.desc.lcount ≠ 0 ∧ r.pc = r.desc.lend then
    (if r.iter + 1 < r.desc.lcount then { r with pc := r.desc.lstart, iter := r.iter + 1 } else { r with pc := r.pc + 1, iter := 0 })
  else { r with pc := r.pc + 1 }

/-- A slot is written: its length and its loaded bit show (R343). -/
def State.showSlot (s : State) (e n i : Nat) : State :=
  let F := TSL_E_SLOTLEN e (i / 4)
  let w := 2 ^ (8 * (i % 4))
  (s.setBit (TSL_E_LOADED e) i true).set F (s.get F - s.get F / w % 256 * w + n * w)

/-- Run the next command of engine `e` when its opcode is `op`: `f` gives the state after it and the run with the slots it
writes. -/
def State.tslCmd (s : State) (e op : Nat) (f : State → TslRun → Nat → State × TslRun) : State :=
  match s.tslRun e with
  | none => s
  | some r =>
    match r.cmd with
    | none => s
    | some c =>
      if r.refused ∨ r.waiting ∨ cmdOp c ≠ op then s
      else
        let v := f s r c
        let s := v.1.setTslRun e v.2.step
        (cmdWrites c).foldl (fun s i => s.showSlot e r.desc.n i) s

/-- A slot takes a value. -/
def TslRun.put (r : TslRun) (i v : Nat) : TslRun := { r with slots := SMap.set 0 r.slots i v }

/-- An arithmetic result, which an upset may replace; a shadowed job finds it out when `seen` says so (R334). -/
def TslRun.result (r : TslRun) (i right : Nat) (upset : Option Nat) (seen : Nat → Bool) : TslRun :=
  match upset with
  | none => r.put i right
  | some v =>
    let v := v % 2 ^ (64 * r.desc.n)
    { r.put i v with shadow := r.shadow || (r.desc.cls ≠ 2 && seen v) }

/-- A result and its shadow differ modulo q. -/
def TslRun.differs (r : TslRun) (right v : Nat) : Bool := v % r.q ≠ right % r.q

/-- A value that a check of R326 stops: the job keeps the first code, and what the slot then holds is free. -/
def State.tslOpen (s : State) (r : TslRun) (i code : Nat) : State × TslRun :=
  (s.drawn, { r.put i (s.draw % max 1 r.m) with code := if r.code = 0 then code else r.code })

def State.tslLoad (s : State) (e : Nat) : State := s.tslCmd e 1 fun s r c => (s, r.put (cmdD c) (areaWords r.input r.desc.n (cmdImm c)))

def State.tslLoadKey (s : State) (e : Nat) : State :=
  s.tslCmd e 2 fun s r c => (s, r.put (cmdD c) (s.loadValue r.desc r.input c % 2 ^ (64 * r.desc.n)))

def State.tslRand (s : State) (e : Nat) : State :=
  s.tslCmd e 3 fun s r c =>
    let v := s.rand (64 * r.desc.n)
    (v.2, r.put (cmdD c) (1 + v.1 % (r.m - 1)))

/-- MADD, MSUB and MMUL. -/
def State.tslArith (s : State) (e op : Nat) (upset : Option Nat) (f : Nat → Nat → Nat → Nat) : State :=
  s.tslCmd e op fun s r c =>
    let v := f r.m (r.slot (cmdA c)) (r.slot (cmdB c))
    (s, r.result (cmdD c) v upset (r.differs v))

def State.tslInv (s : State) (e : Nat) (upset : Option Nat) : State :=
  s.tslCmd e 7 fun s r c =>
    let a := r.slot (cmdA c)
    if a = 0 then s.tslOpen r (cmdD c) 0x09
    else match invMod a r.m with
    | none => s.tslOpen r (cmdD c) 0x0C
    | some v => (s, r.result (cmdD c) v upset fun w => a * w % r.m ≠ 1 % r.m)

def State.tslExp (s : State) (e : Nat) (upset : Option Nat) : State :=
  s.tslCmd e 8 fun s r c =>
    let a := r.slot (cmdA c)
    let x := r.slot (cmdB c) % 2 ^ (64 * cmdExp c)
    if x = 0 then s.tslOpen r (cmdD c) 0x09
    else if a < 2 then s.tslOpen r (cmdD c) 0x0A
    else
      let v := powMod (64 * cmdExp c) r.m (a % r.m) x 1
      (s, r.result (cmdD c) v upset (r.differs v))

def State.tslMove (s : State) (e : Nat) : State :=
  s.tslCmd e 9 fun s r c =>
    let a := r.slot (cmdA c)
    if !cmdSwap c then (s, r.put (cmdD c) a)
    else if (r.slot (cmdB c)).testBit (cmdImm c % 2 ^ 12 - r.iter) then (s, (r.put (cmdA c) (r.slot (cmdD c))).put (cmdD c) a)
    else (s, r)

def State.tslUnload (s : State) (e : Nat) : State :=
  s.tslCmd e 10 fun s r c =>
    (s, { r with out := SMap.setMany 0 r.out (8 * cmdImm c) (leBytes (8 * r.desc.n) (r.slot (cmdA c))) })

def execLoadSlot (e : Fin 16) (s : State) : Out := .next (s.tslLoad e)
def execLoadKeySlot (e : Fin 16) (s : State) : Out := .next (s.tslLoadKey e)
def execRandSlot (e : Fin 16) (s : State) : Out := .next (s.tslRand e)
def execMadd (e : Fin 16) (upset : Option Nat) (s : State) : Out := .next (s.tslArith e 4 upset fun m a b => (a + b) % m)
def execMsub (e : Fin 16) (upset : Option Nat) (s : State) : Out := .next (s.tslArith e 5 upset fun m a b => (a + (m - b % m)) % m)
def execMmul (e : Fin 16) (upset : Option Nat) (s : State) : Out := .next (s.tslArith e 6 upset fun m a b => a * b % m)
def execMinv (e : Fin 16) (upset : Option Nat) (s : State) : Out := .next (s.tslInv e upset)
def execMexp (e : Fin 16) (upset : Option Nat) (s : State) : Out := .next (s.tslExp e upset)
def execMoveSlot (e : Fin 16) (s : State) : Out := .next (s.tslMove e)
def execUnloadSlot (e : Fin 16) (s : State) : Out := .next (s.tslUnload e)

/-! ### Retirement and empty partitions (R336, R340) -/

/-- A partition left with no engine in service (R336): a unit under test is required back (R437), else its queued jobs end
with NO_ENGINE. -/
def State.tslEmpty (s : State) (k : Nat) : State :=
  if !s.is (TSL_PART_EN k) ∨ s.tslServing k ≠ [] then s
  else if (List.range 16).any fun e => s.tslPart e == some k && s.underTest (32 + e) && !s.bit TSL_STATUS_RETIRED e then
    s.bistCutReturn true 4
  else
    let q := s.tslQueue k
    q.foldl (fun s j => s.tslEndQueued j 0x13) ((s.event 0x5009 3 k).setTslQueue k [])

/-- A fault of an engine (R336): at 3 it is retired. -/
def State.tslFault (s : State) (e : Nat) : State :=
  let n := min 3 (s.get (TSL_E_FAILS e) + 1)
  let s := s.set (TSL_E_FAILS e) n
  if n = 3 ∧ !s.bit TSL_STATUS_RETIRED e then
    let s := ((s.setBit TSL_STATUS_RETIRED e true).raiseCond 0x5004 2 e e).tslSettle e
    match s.tslPart e with
    | some k => s.tslEmpty k
    | none => s
  else s

/-- The wipe of R332, after which the engine rests; a retirement by command then takes effect (R340). -/
def State.tslWipe (s : State) (e : Nat) : State :=
  let leaving := (s.tslEng e).leaving
  let s := ((s.setTslEng e {}).set (TSL_E_LOADED e) 0).forEach 8 fun s i => s.set (TSL_E_SLOTLEN e i) 0
  let s := ((s.setBit TSL_STATUS_BUSY e false).perfEv 0x51 (e / 4) 1).tslSettle e
  if leaving ∧ !s.bit TSL_STATUS_RETIRED e then
    let s := s.tslRetireNow e
    match s.tslPart e with
    | some k => s.tslEmpty k
    | none => s
  else s

/-! ### Release (R327, R329, R331, R335 to R337) -/

/-- The outputs written to the output area are those of UNLOAD alone: bytes no UNLOAD named stay. -/
def State.tslOutput (s : State) (r : TslRun) : State :=
  r.out.foldl (fun s x => s.setCpMem r.job.cp (r.desc.outBase + x.1) [x.2]) s

/-- The job of a run ends with a code; `e` is the engine of its last attempt. -/
def State.tslEnd (s : State) (e : Nat) (r : TslRun) (code attempts : Nat) : State :=
  let F := if code = 0 then TSL_CNT_DONE else if code = 0x12 then TSL_CNT_ABORTED
    else if code = 0x10 ∨ code = 0x11 ∨ code = 0x13 then TSL_CNT_FAILED else TSL_CNT_REFUSED
  let s := s.bump F 1
  let s := if F = TSL_CNT_REFUSED then s.noteSec 0x5001 code else s
  let s := if code = 0 then s.tslOutput r else s
  (s.tslRecord r.job.ring r.desc.jobId code e attempts r.job.supply r.dur).tslWipe e

/-- A job goes back to the head of its partition's queue, or ends when no engine is left. -/
def State.tslRequeue (s : State) (j : TslJob) : State :=
  if s.tslServing j.part = [] then s.tslEndQueued j 0x13 else s.setTslQueue j.part (j :: s.tslQueue j.part)

/-- A faulting attempt is rerun, or ends FAILED after the third (R336). -/
def State.tslRerun (s : State) (e : Nat) (r : TslRun) : State :=
  let j := { r.job with faults := r.job.faults + 1, tried := e :: r.job.tried }
  if j.faults = 3 then ((s.event 0x5005 2 r.desc.jobId).tslEnd e { r with job := j } 0x10 3).tslFault e
  else ((s.tslWipe e).tslFault e).tslRequeue j

/-- A supply event discards an attempt (R337): the eighth ends the job. -/
def State.tslDiscard (s : State) (e : Nat) (r : TslRun) : State :=
  let j := { r.job with supply := r.job.supply + 1 }
  let s := s.bump TSL_CNT_SUPPLYDISC 1
  if 8 ≤ j.supply then s.tslEnd e { r with job := j } 0x11 (j.faults + 1) else (s.tslWipe e).tslRequeue j

/-- The job has completed without a fault: its engine's count returns to 0. -/
def State.tslClean (s : State) (e : Nat) : State := s.set (TSL_E_FAILS e) 0

/-- The companion on `x` of the SIGN job on `e` has reached its t_rel (R335). -/
def State.companionOver (s : State) (x e : Nat) (c r : TslRun) (shadow : Bool) : State :=
  if c.supply ∨ r.supply then (s.tslWipe x).tslDiscard e r
  else if c.refused ∨ (c.cmd.isNone ∧ !shadow ∧ c.code ≠ 0) then (s.tslWipe x).tslEnd e r (c.code + 0x20) (r.job.faults + 1)
  else if c.cmd.isSome ∨ shadow then
    -- the companion alone is rerun
    let s := if c.cmd.isSome then (s.bump TSL_CNT_LATE 1).event 0x5008 1 (x + c.desc.n * 2 ^ 16)
      else (s.bump TSL_CNT_SHADOWFAIL 1).event 0x5002 1 (x + c.desc.cls * 2 ^ 4 + min 3 (s.get (TSL_E_FAILS x) + 1) * 2 ^ 8)
    let s := (s.tslWipe x).tslFault x
    let r := { r with compFaults := r.compFaults + 1, compTried := x :: r.compTried }
    if r.compFaults = 3 then (s.event 0x5005 2 r.desc.jobId).tslEnd e r 0x10 (r.job.faults + 1) else s.setTslRun e r
  else if c.slot c.desc.chkSlot ≠ 0 then
    let s := ((s.bump TSL_CNT_VERIFYFAIL 1).event 0x5003 1 (e + x * 2 ^ 4)).tslClean x
    (s.tslWipe x).tslRerun e r
  else ((s.tslClean x).tslWipe x).tslClean e |>.tslEnd e r 0 (r.job.faults + 1)

/-- JOB_RELEASE: what happens at t_rel. `differs` says that a slot compared at the end differs from its shadow (R334). -/
def State.jobRelease (s : State) (e : Nat) (differs : Bool) : State :=
  match s.tslRun e with
  | none => s
  | some r =>
    if r.waiting then s
    else match s.reachTick (r.start + 128 * r.dur) with
    | none => s
    | some s =>
      let shadow := r.shadow || (differs && r.desc.cls ≠ 2 && !r.refused)
      match r.signer with
      | some g =>
        match s.tslRun g with
        | some x => s.companionOver e g r x shadow
        | none => s.tslWipe e
      | none =>
        if r.supply then s.tslDiscard e r
        else if r.refused then s.tslEnd e r r.code (r.job.faults + 1)
        else if r.cmd.isSome then ((s.bump TSL_CNT_LATE 1).event 0x5008 1 (e + r.desc.n * 2 ^ 16)).tslRerun e r
        else if shadow ∨ (r.desc.chkEn ∧ r.code = 0 ∧ r.slot r.desc.chkSlot ≠ 0) then
          ((s.bump TSL_CNT_SHADOWFAIL 1).event 0x5002 1 (e + r.desc.cls * 2 ^ 4 + min 3 (s.get (TSL_E_FAILS e) + 1) * 2 ^ 8)).tslRerun e r
        else if r.code ≠ 0 then (s.tslClean e).tslEnd e r r.code (r.job.faults + 1)
        else if r.desc.cls = 2 then s.setTslRun e { r with waiting := true }
        else (s.tslClean e).tslEnd e r 0 (r.job.faults + 1)

def execJobRelease (e : Fin 16) (differs : Bool) (s : State) : Out := .next (s.jobRelease e differs)

/-! ### Supply events (R337) -/

/-- A rail falls below its warning level: every job in progress will be discarded. -/
def State.tslSupply (s : State) : State :=
  s.forEach 16 fun s e =>
    match s.tslRun e with
    | some r =>
      if r.supply then s
      else (s.setTslRun e { r with supply := true }).onTsl fun t => { t with discards := t.discards + (if r.signer.isSome then 0 else 1) }
    | none => s

/-- Every rail has recovered. -/
def State.tslSupplyOver (s : State) : State := (s.event 0x5007 0 s.tsl.discards).onTsl fun t => { t with discards := 0 }

/-! ### Abort (R338, R339) -/

/-- The engines of a mask are marked for the next slot boundary. -/
def State.markAbort (s : State) (m : Nat) : State :=
  s.onTsl fun t => { t with aborts := t.aborts ||| m, abortAt := if t.aborts = 0 then s.nextSlot else t.abortAt }

/-- TSL_ABORT. -/
def State.tslAbort (s : State) (v : Nat) : State :=
  if !s.awake then s
  else
    let m := v % 2 ^ 16
    (((s.set TSL_ABORT_MASK m).set TSL_ABORT_PENDING 1).event 0x5006 0 m).onTsl fun t =>
      { t with aborts := t.aborts ||| m, abortAt := if s.is TSL_ABORT_PENDING then t.abortAt else s.nextSlot }

/-- The job on an engine ends ABORTED, with its companion or the SIGN job it serves. -/
def State.abortEngine (s : State) (e : Nat) : State :=
  match s.tslRun e with
  | none => s
  | some r =>
    match r.signer with
    | some g =>
      match s.tslRun g with
      | some x => (s.tslWipe e).tslEnd g x 0x12 (x.job.faults + 1)
      | none => s.tslWipe e
    | none =>
      let comps := (List.range 16).filter fun x => (s.tslRun x).any fun c => c.signer == some e
      comps.foldl (fun s x => s.tslWipe x) (s.tslEnd e r 0x12 (r.job.faults + 1))

/-- The job on an engine has its t_rel at or before an instant, a SIGN job that of its companion. -/
def State.relBy (s : State) (e t : Nat) : Bool :=
  (s.tslRun e).any fun r =>
    if r.desc.cls = 2 then
      (List.range 16).any fun x => (s.tslRun x).any fun c => c.signer == some e && decide (c.start + 128 * c.dur ≤ t)
    else decide (r.start + 128 * r.dur ≤ t)

/-- ABORT_EFFECT. -/
def State.abortEffect (s : State) : State :=
  if s.tsl.aborts = 0 ∧ !s.is TSL_ABORT_PENDING then s
  else match s.reachTick s.tsl.abortAt with
  | none => s
  | some s =>
    let m := s.tsl.aborts
    let t := s.tsl.abortAt
    let s := s.forEach 16 fun s e => if m.testBit e && !s.relBy e t then s.abortEngine e else s
    (s.set TSL_ABORT_PENDING 0).onTsl fun x => { x with aborts := 0 }

/-- CP_FAILURE (R339): CP4 takes over; the processor's Teasel jobs are aborted, and their records go to CP4. A test that
needs CP4 is cut (R437); without a spare the error is fatal (R27). -/
def State.cpFail (s : State) (c : Nat) : State :=
  if !s.awake ∨ s.pw.cpFailed.contains c then s
  else
    -- CP4 under test, or the processor whose tasks CP4 carries, is required back
    let s := if (c ≠ 4 ∧ s.underTest 53) ∨ (s.pw.cp4Carries.isSome ∧ s.pw.cp4Carries ≠ some c) then s.bistCutReturn true 4 else s
    let carried := s.pw.cp4Carries = some c
    let spare := s.cp4Spare && !s.pw.cpFailed.contains 4
    let needed := c ≠ 4 || !s.cp4Spare
    let s := s.onPw fun p => { p with cpFailed := c :: p.cpFailed }
    if !needed ∨ carried then s
    else if c = 4 ∨ !spare then s.fatal 0x02
    else
      let s := s.ringsTo4 c
      let s := s.forEach 4 fun s k =>
        let q := s.tslQueue k
        (q.filter (·.cp == c)).foldl (fun s j => s.tslEndQueued j 0x12) (s.setTslQueue k (q.filter (·.cp ≠ c)))
      s.markAbort ((List.range 16).foldl (fun m e => if (s.tslRun e).any fun r => r.job.cp == c then m + 2 ^ e else m) 0)

def execTslAbort (v : Nat) (s : State) : Out := .next (s.tslAbort v)
def execAbortEffect (s : State) : Out := .next s.abortEffect
def execCpFailure (c : Fin 5) (s : State) : Out := .next (s.cpFail c)

/-! ### Retirement by command (R340) -/

/-- What TSL_RETIRE reads back. -/
def State.tslRetShow (s : State) (e action status : Nat) : State :=
  ((s.set TSL_RETIRE_ENGINE e).set TSL_RETIRE_ACTION action).set TSL_RETIRE_STATUS status

def State.tslRetire (s : State) (e : Nat) : State :=
  if !s.awake then s
  else if s.bit TSL_STATUS_RETIRED e then s.tslRetShow e 1 3
  else if s.underTest (32 + e) then (s.tslRetShow e 1 1).retireAfter
  else if s.tslSole e then s.tslRetShow e 1 2
  else
    let s := s.tslRetShow e 1 1
    if s.tslIdle e then
      let s := s.tslRetireNow e
      match s.tslPart e with
      | some k => s.tslEmpty k
      | none => s
    else s.setTslEng e { s.tslEng e with leaving := true }

def State.tslRestore (s : State) (e : Nat) : State :=
  if !s.awake then s
  else if (s.tslEng e).leaving then (s.tslRetShow e 0 1).setTslEng e { s.tslEng e with leaving := false }
  else if s.bit TSL_RETCMD_RETCMD e then
    ((((s.tslRetShow e 0 1).setBit TSL_STATUS_RETIRED e false).setBit TSL_RETCMD_RETCMD e false).set (TSL_E_FAILS e) 0).event 0x500A 0 e |>.tslSettle e
  else s.tslRetShow e 0 3

def execTslRetireEngine (e : Fin 16) (s : State) : Out := .next (s.tslRetire e)
def execTslRestoreEngine (e : Fin 16) (s : State) : Out := .next (s.tslRestore e)

end Sys2Proof.Machine
end

