-- ==== Sys2Proof/Machine/Power.lean ====
section
/-! DEFINITION. Power (spec/18_power_management.md): the AON and backup domains, sequencing, load-following, supply events, the
battery, and the sensors. -/
namespace Sys2Proof.Machine

/-! ### Rows 1 to 3 of R24, the backup domain (R22, R463, R468, R469) -/

/-- The registers of the AON domain, the backup domain, the fuses and the factory, which keep their values while the switched
domains are off (R461, R463, R394). -/
def keptOff (key : Nat) : Bool :=
  let a := key / 32
  let lo := key % 32
  a == 0 || (a == 0x10 && decide (lo < 16)) || (0x14 ≤ a && a ≤ 0x1C) || a == 0x100 || (a == 0x108 && decide (4 ≤ lo)) || a == 0x10C ||
    (0x120 ≤ a && a ≤ 0x13C) || (0x20020 ≤ a && a ≤ 0x20044) || (0x200800 ≤ a && a < 0x200880)

/-- Of these, what keeps its values without VIO18: the backup domain, the fuses and the factory (R463, R468, R394). -/
def keptVbat (key : Nat) : Bool :=
  let a := key / 32
  keptOff key && (a == 0 || a == 0x100 || a == 0x108 || a == 0x10C || (0x120 ≤ a && a ≤ 0x13C) || (0x200800 ≤ a && a < 0x200880))

/-- Every switched domain goes off: what lies in it is lost. -/
def State.powerOff (s : State) : State :=
  let s := s.flashTorn
  let t := s.now
  let bk := if s.tb.running then { s.bk with sec := instSec t, phase := instNsec t * 32768 / 1000000000 } else s.bk
  { rf := s.rf.filter fun p => keptOff p.1
    mode := .backup, bk := bk, pw := { pwrEn := s.pw.pwrEn, porstN := s.pw.porstN, pgood := s.pw.pgood }
    jtag := s.jtag
    mg := { spiStored := s.mg.spiStored, spiEarly := s.mg.spiEarly }
    boot := { flash := s.boot.flash, root0 := s.boot.root0, root1 := s.boot.root1, importOff := s.boot.importOff, duk := s.boot.duk }
    out := s.out, free := s.free, pending := s.pending }

/-- The main rails (R460). -/
def mainRail (r : Nat) : Bool := r == 0 || r == 1 || r == 4 || r == 5 || r == 7

/-- PM_LASTRESET of a cause. -/
def causeCode : PowerCause → Nat × Nat
  | .pwrEn => (1, 0)
  | .porstN => (2, 0)
  | .pgood => (3, 0)
  | .rail r => (4, r)

/-- The level of a pin that the cause names. -/
def State.lowerPin (s : State) : PowerCause → State
  | .pwrEn => s.onPw fun p => { p with pwrEn := false }
  | .porstN => s.onPw fun p => { p with porstN := false }
  | .pgood => s.onPw fun p => { p with pgood := false }
  | .rail _ => s

/-- POWER_FAIL_TO_BACKUP: row 3 of R24; in BACKUP the power-up sequence returns to its step 1 (R463). -/
def State.powerFail (s : State) (c : PowerCause) : State :=
  let named := match c with
    | .rail r => mainRail r
    | _ => true
  if !named then s
  else
    let s := s.lowerPin c
    match s.mode with
    | .off => s
    | .backup => s.onPw fun p => { p with sequencing := false }
    | m =>
      let s := if m = .safe then s.scanRelease else s
      let t := s.now
      let s := (((s.powerOff.set SYS_MODE_PREV (modeCode m)).set SYS_MODE_CAUSE 0x01).setTs SYS_MODETIME_TS t)
      (s.set PM_LASTRESET_CAUSE (causeCode c).1).set PM_LASTRESET_RAIL (causeCode c).2

/-- The backup domain loses its supply: the counter and the KEK are cleared (R469). -/
def State.vbatLost (s : State) : State :=
  (s.onBk fun b => { b with powered := false, valid := false, sec := 0, phase := 0, kek := 0, lost := true }).set
    SYS_TAMPER_KEKVALID 0

/-- AON_POWER_LOSS: row 1 of R24. With VBAT below 1.700 V the backup domain is lost too. -/
def State.aonLoss (s : State) (vbatMv : Nat) : State :=
  if s.mode = .off then s
  else
    let s := s.powerOff
    let s := ((((s.onMode .off).keepRegs fun p => keptVbat p.1).onPw fun _ => {}).onJtag fun _ => {}).onMg fun _ => {}
    if vbatMv < 1700 then s.vbatLost else s

/-- AON_POWER_ON: row 2 of R24. -/
def State.aonOn (s : State) : State :=
  if s.mode = .off then
    let s := s.onMode .backup
    (((s.onBk fun b => { b with powered := true }).set SYS_MODE_PREV 0xF).set SYS_MODE_CAUSE 0).set PM_LASTRESET_CAUSE 0
  else s

/-- VBAT_SWITCHOVER: from VIO18 to VBAT when VIO18 is gone, and back. -/
def State.vbatSwitch (s : State) (toVbat : Bool) : State :=
  if toVbat = decide (s.mode = .off) then s.onBk fun b => { b with onVbat := toVbat } else s

/-- VBAT_LOSS and VBAT_RETURN: only while VIO18 is absent. -/
def State.vbatLoss (s : State) : State := if s.mode = .off ∧ s.bk.powered then s.vbatLost else s
def State.vbatBack (s : State) : State := if s.mode = .off then s.onBk fun b => { b with powered := true } else s

/-- POWER_UP_START: the three pins are latched and the sequence starts when all is well (R463). -/
def State.powerUpStart (s : State) (pwrEn porstN pgood railsUp : Bool) : State :=
  if s.mode = .backup then
    s.onPw fun p => { p with pwrEn := pwrEn, porstN := porstN, pgood := pgood, sequencing := pwrEn && porstN && pgood && railsUp }
  else s

def execAonPowerLoss (vbatMv : Nat) (s : State) : Out := .next (s.aonLoss vbatMv)
def execAonPowerOn (s : State) : Out := .next s.aonOn
def execPowerFailToBackup (cause : PowerCause) (s : State) : Out := .next (s.powerFail cause)
def execVbatSwitchover (toVbat : Bool) (s : State) : Out := .next (s.vbatSwitch toVbat)
def execVbatLoss (s : State) : Out := .next s.vbatLoss
def execVbatReturn (s : State) : Out := .next s.vbatBack
def execPowerUpStart (pwrEn porstN pgood railsUp : Bool) (s : State) : Out := .next (s.powerUpStart pwrEn porstN pgood railsUp)

/-! ### Load-following (R464, R465) -/

/-- WARMUP has been entered since BOOT. -/
def State.warmedUp (s : State) : Bool := s.awake && s.mode ≠ .boot && !(s.mode == .safe && s.safeFromBoot)

/-- PM_STATUS.LF. -/
def State.showLf (s : State) : State := s.setb PM_STATUS_LF (s.warmedUp && s.is PM_AVSCFG_EN && !s.is PM_STATUS_AVSFAULT)

/-- A change of V_t is one AVSBus write of the set point rounded to 5 mV; the write before it has been acknowledged unless it was
being retried. -/
def State.avsTarget (s : State) (v : Nat) : State :=
  let v := v - v % 5
  let old := s.get PM_VCORE_TARGET
  if v = old then s
  else ((s.onPw fun p => { p with
    avsAcked := if p.avsTries = 0 then old else p.avsAcked, avsTries := 0, avsAt := s.tb.ticks }).set PM_VCORE_TARGET v).emit (.avsWrite v)

/-- The floor F (R465, R467). -/
def State.vFloor (s : State) : Nat := if s.is PM_STATUS_BOOST then s.get PM_BOOST_FLOOR else s.get PM_VLIM_VMIN

/-- The samples of the rails' monitors: the latest and the lowest since the last read (PM_RAIL, PM_VCORE). -/
def State.railSample (s : State) (r mv : Nat) : State :=
  let s := (s.setSat (PM_RAIL_MEAS r) mv).setSat (PM_RAIL_LOW r) (min (s.get (PM_RAIL_LOW r)) mv)
  if r = 0 then s.setSat PM_VCORE_MEAS mv else s

/-- The whole millisecond since the last evaluation, or the next one, which is reached when it lies before the next second boundary. -/
def State.evalInstant (s : State) : Option State :=
  let ms := s.nowNs / 1000000
  if s.pw.evalAt / 1000000 < ms then some s else s.reach (1000000 * ns1 + 1000000 * ns1 * ms)

/-- V_t moves, `n` milliseconds after its last evaluation (R465). -/
def State.vcoreDecide (s : State) (n : Nat) : State :=
  let v := s.get PM_VCORE_TARGET
  let step := 5 * s.get PM_AVSCTL_STEP
  if !s.warmedUp ∨ s.is PM_STATUS_AVSFAULT then s
  else if !s.is PM_AVSCFG_EN then s.avsTarget (max (s.get PM_AVSCFG_VBOOT) (s.get PM_BOOST_FLOOR))
  else
    let raise := s.pw.vreqSeen || s.is FAB_STATUS_VREQ
    let low := if raise || s.pw.occSeen then 0 else s.pw.lowMs + n
    let lower := s.get PM_AVSCTL_DOWNMS ≤ low
    let v := if raise then min (s.get PM_VLIM_VMAX) (v + step) else if lower then max s.vFloor (v - step) else v
    let s := s.onPw fun p => { p with vreqSeen := false, occSeen := false, lowMs := if lower then 0 else low }
    s.avsTarget (max v s.vFloor)

/-- VCORE_EVALUATE: at a whole millisecond, with the monitors' samples (R465; DEDUCED notes/assumptions/24.md). -/
def State.vcoreEvaluate (s : State) (rails : List Nat) : State :=
  if !s.awake then s
  else match s.evalInstant with
  | none => s
  | some s =>
    let n := max 1 (s.nowNs / 1000000 - s.pw.evalAt / 1000000)
    let s := s.onPw fun p => { p with evalAt := s.nowNs }
    let s := s.forEach 8 fun s r => match rails[r]? with
      | some mv => s.railSample r mv
      | none => s
    s.showLf.vcoreDecide n

/-- AVS_WRITE_RETRY: the write in hand failed for a reason of event 0x0203, and is sent again 10 us after it; after its third retry fails, AVSFAULT
(R464; DEDUCED notes/assumptions/24.md). -/
def State.avsFailed (s : State) (why : Nat) : State :=
  let v := s.get PM_VCORE_TARGET
  if !s.awake ∨ v = s.pw.avsAcked ∨ s.is PM_STATUS_AVSFAULT then s
  else if s.pw.avsTries < 3 then (match s.reachClocked (10000 + s.pw.avsAt) with
    | some s => (s.onPw fun p => { p with avsTries := p.avsTries + 1, avsAt := s.tb.ticks }).emit (.avsWrite v)
    | none => s)
  else (((s.set PM_STATUS_AVSFAULT 1).set PM_VCORE_TARGET s.pw.avsAcked).raiseCond 0x0203 2 why 0).showLf

/-- A Status read, and what a successful one clears (R464). -/
def State.avsRead (s : State) (ok : Bool) : State :=
  let s := s.emit .avsStatus
  if ok ∧ s.is PM_STATUS_AVSFAULT then ((s.set PM_STATUS_AVSFAULT 0).clearCond 0x0203 0).showLf else s

/-- AVS_STATUS_READ, 1 s after the last one. -/
def State.avsStatus (s : State) (ok : Bool) : State :=
  if s.awake then
    match s.reachClocked (1000000000 + s.pw.statusAt) with
    | some s => (s.onPw fun p => { p with statusAt := s.tb.ticks }).avsRead ok
    | none => s
  else s

/-- PM_CMD AVS_RETRY: STATUS 2 while EN = 0 or before WARMUP. -/
def State.pmRefused (s : State) : Bool := !s.is PM_AVSCFG_EN || !s.warmedUp

def State.pmAvsRetry (s : State) (ok : Bool) : State :=
  if !s.awake then s
  else
    let s := s.set PM_CMD_CODE 2
    if s.pmRefused then s.set PM_CMD_STATUS 2 else (s.set PM_CMD_STATUS 1).avsRead ok

def execVcoreEvaluate (rails : List Nat) (s : State) : Out := .next (s.vcoreEvaluate rails)
def execAvsWriteRetry (why : Fin 3) (s : State) : Out := .next (s.avsFailed why)
def execAvsStatusRead (ok : Bool) (s : State) : Out := .next (s.avsStatus ok)
def execPmAvsRetry (_path : Path) (ok : Bool) (s : State) : Out := .next (s.pmAvsRetry ok)

/-! ### Boost and supply events (R467) -/

/-- A boost starts, or starts its 60 s again with its floor unchanged. -/
def State.boost (s : State) : State :=
  let running := s.is PM_STATUS_BOOST
  let floor := min (s.get PM_VLIM_VMAX) (s.get PM_VCORE_TARGET + 5 * s.get PM_AVSCTL_STEP)
  let s := ((s.onPw fun p => { p with boostEnd := 60000000000 + s.tb.ticks }).set PM_STATUS_BOOST 1).set PM_BOOST_LEFT 60
  if running then s
  else
    let s := (s.set PM_BOOST_FLOOR floor).event 0x0204 0 floor
    if s.is PM_STATUS_AVSFAULT then s else s.avsTarget (max (s.get PM_VCORE_TARGET) floor)

/-- PM_CMD RAISE. -/
def State.pmRaise (s : State) : State :=
  if !s.awake then s
  else
    let s := s.set PM_CMD_CODE 1
    if s.pmRefused then s.set PM_CMD_STATUS 2 else (s.set PM_CMD_STATUS 1).boost

/-- BOOST_END: at its instant, the floor returns to VMIN. -/
def State.boostOver (s : State) : State :=
  if s.is PM_STATUS_BOOST then
    match s.reachTick s.pw.boostEnd with
    | some s => ((s.set PM_STATUS_BOOST 0).set PM_BOOST_FLOOR 0).set PM_BOOST_LEFT 0
    | none => s
  else s

/-- RAIL_WARNING_FALL: a supply event starts; core and chiplet rails cut tests and mark jobs (R337, R437). -/
def State.railFall (s : State) (r mv : Nat) : State :=
  if s.mode = .backup then
    -- a main rail below its warning level: the sequence returns to its step 1 (R463)
    (s.railSample r mv).onPw fun p => { p with sequencing := p.sequencing && !mainRail r }
  else if !s.awake ∨ s.pw.dips.any (fun d => d.rail == r) then s
  else
    let s := (s.onPw fun p => { p with dips := p.dips ++ [⟨r, s.tb.ticks, mv⟩] }).railSample r mv
    if s.railLow then ((s.bistCutReturn true 2).bistCutReturn false 2).tslSupply else s

/-- RAIL_WARNING_RECOVER: with the lowest sample of the event and the present one. -/
def State.railRecover (s : State) (r lowest mv : Nat) : State :=
  match s.awake, s.pw.dips.find? fun d => d.rail == r with
  | true, some d =>
    let was := s.railLow
    let low := min d.lowest lowest
    let us := (s.tb.ticks - d.start) / 1000
    let s := ((s.onPw fun p => { p with dips := p.dips.filter fun d => d.rail ≠ r }).railSample r low).railSample r mv
    let s := (s.bump PM_SUPEVT_COUNT 1).event 0x0201 1 (r + satU 12 low * 2 ^ 4 + satU 16 us * 2 ^ 16)
    let s := if was && !s.railLow then s.tslSupplyOver else s
    if r = 0 ∨ s.showLf.is PM_STATUS_LF then s.boost else s
  | _, _ => s

def execRailWarningFall (r : Fin 8) (mv : Nat) (s : State) : Out := .next (s.railFall r mv)
def execRailWarningRecover (r : Fin 8) (lowest mv : Nat) (s : State) : Out := .next (s.railRecover r lowest mv)
def execBoostEnd (s : State) : Out := .next s.boostOver
def execPmRaise (_path : Path) (s : State) : Out := .next s.pmRaise

/-! ### Battery, temperatures and thermistor (R469, R470, R489) -/

/-- VBAT_MEASURE. -/
def State.vbatMeasure (s : State) (mv : Nat) : State :=
  if !s.awake then s
  else
    let s := s.setSat PM_VBAT_MV mv
    if s.is PM_VBAT_LOW then
      (if 2050 < mv then ((s.set PM_VBAT_LOW 0).set PM_STATUS_VBATLOW 0).clearCond 0x0207 0 else s)
    else if mv < 2000 then ((s.set PM_VBAT_LOW 1).set PM_STATUS_VBATLOW 1).raiseCond 0x0207 2 mv 0
    else s

/-- The grade's upper Tj limit in 0.1 degC (R2). -/
def State.tMax (s : State) : Int := if s.get SYS_ID_GRADE = 2 then 1250 else 1100

/-- The hottest sensor: number and reading. -/
def State.hottest (s : State) : Nat × Int :=
  (List.range 10).foldl (fun m i => if m.2 < s.geti (PM_TEMP_NOW i) then (i, s.geti (PM_TEMP_NOW i)) else m) (0, s.geti (PM_TEMP_NOW 0))

/-- A thermal condition above a limit, which clears 2 degC below it (R470). -/
def State.thermal (s : State) (F : Field) (code sev : Nat) (limit : Int) (h : Nat × Int) : State :=
  if s.is F then (if h.2 ≤ limit - 20 then (s.set F 0).clearCond code 0 else s)
  else if limit < h.2 then (s.set F 1).raiseCond code sev (h.1 + ofSigned 16 h.2 * 2 ^ 16) 0
  else s

/-- TEMP_SAMPLE: the ten sensors in 0.1 degC. -/
def State.tempSample (s : State) (ts : List Int) : State :=
  if !s.awake then s
  else
    let s := s.forEach 10 fun s i => match ts[i]? with
      | some t => s.tempTake i t
      | none => s
    let h := s.hottest
    let s := s.setb PM_STATUS_HOT110 (s.get SYS_ID_GRADE == 2 && decide (1100 < h.2))
    (s.thermal PM_STATUS_HOT 0x0205 2 s.tMax h).thermal PM_STATUS_TRIP 0x0206 3 (s.tMax + 100) h

/-- THERM_SAMPLE: the 12-bit ADC code, converted by the coefficients of the image (DESIGN CHOICE notes/assumptions/25.md). -/
def State.thermSample (s : State) (code : Nat) : State :=
  if s.awake then s.onPw fun p => { p with therm := ofSigned 32 (satSigned 32 (Config.thermistor code)) } else s

def execVbatMeasure (mv : Nat) (s : State) : Out := .next (s.vbatMeasure mv)
def execTempSample (ts : List Int) (s : State) : Out := .next (s.tempSample ts)
def execThermSample (code : Fin 4096) (s : State) : Out := .next (s.thermSample code)

end Sys2Proof.Machine
end

