-- ==== Sys2Proof/Machine/Boot.lean ====
section
/-! DEFINITION. BOOT (spec/14_boot_configuration_lifecycle.md R370 to R373, R378 to R382, R390 to R392; R24 rows 4 to 6 and 8). -/
namespace Sys2Proof.Machine

/-! ### The key-encryption key and the tamper latch (R390, R394) -/

/-- Draw a KEK. -/
def State.drawKek (s : State) : State :=
  let r := s.rand 256
  (r.2.onBk fun b => { b with kek := r.1 }).set SYS_TAMPER_KEKVALID 1

/-- Zero the KEK. -/
def State.zeroKek (s : State) : State := (s.onBk fun b => { b with kek := 0 }).set SYS_TAMPER_KEKVALID 0

/-- The latch records a cause and the coarse TAI second; a latch already set keeps what it recorded. -/
def State.latch (s : State) (cause : Nat) : State :=
  if s.is SYS_TAMPER_LATCH then s
  else ((s.set SYS_TAMPER_LATCH 1).set SYS_TAMPER_CAUSE cause).set SYS_TAMPERSEC_SEC (if s.tb.running then instSec s.now else s.bk.sec)

/-- The condition of event 0x0111 lasts while the latch is set. -/
def State.latchShow (s : State) : State :=
  if s.is SYS_TAMPER_LATCH then s.raiseCond 0x0111 3 (s.get SYS_TAMPER_CAUSE) 0 else s

/-! ### Slots: identification, choice, rejection (R370, R371, R378, R379) -/

/-- BOOT ends in SAFE by row 6 of R24. -/
def State.bootSafe (s : State) : State :=
  ((s.onBoot fun b => { b with step := .idle }).enterMode .safe 0x03).set NVM_STATUS_SAFEREASON 1

/-- A slot is rejected. -/
def State.slotReject (s : State) (k reason : Nat) : State :=
  ((s.set (NVM_SLOT_VALID k) 0).set (NVM_SLOT_REASON k) reason).event 0x7001 2 (k + reason * 2 ^ 8)

/-- What a header says in its slot block, when the header's CRC holds; else 0. -/
def State.showHead (s : State) (k : Nat) (ok : Bool) : State :=
  let v (n : Nat) := if ok then n else 0
  let s := ((s.set (NVM_SLOT_FMTMIN k) (v (s.headField k 5 1))).set (NVM_SLOT_SEQLO k) (v (s.imgSeq k))).set (NVM_SLOT_SEQHI k)
    (v (s.imgSeq k / 2 ^ 32))
  let s := (s.set (NVM_SLOT_SVN k) (v (s.imgSvn k))).set (NVM_SLOT_LEN k) (v (s.imgLen k))
  (s.setb (NVM_SLOT_ATTEMPTED k) (s.marker k 0)).setb (NVM_SLOT_CONFIRMED k) (s.marker k 1)

/-- Checks 2 to 8 of a slot, as BOOT shows them. -/
def State.slotHead (s : State) (k : Nat) : State :=
  let r := s.headCheck k
  let s := s.showHead k (r == 0 || decide (5 ≤ r))
  if r = 0 then s.onBoot fun b => { b with passed := b.passed ++ [k], build := max b.build (s.headField k 24 8 % 2 ^ 48) }
  else s.slotReject k r

/-- Orbit-data copy `c`: its flash address, its sequence number and its body, when it is valid (R373); the header is read
least significant byte first (DESIGN CHOICE notes/assumptions/25.md). -/
def orbitBase (c : Nat) : Nat := 0x08000000 + 0x80000 * c
def State.orbitSeq (s : State) (c : Nat) : Nat := leNat (s.flashBytes (orbitBase c + 4) 4)
def State.orbitCopy (s : State) (c : Nat) : Option (List Byte) :=
  let h := s.flashBytes (orbitBase c) 16
  let n := leNat (slice h 8 4)
  if leNat (h.take 4) ≠ 0x4F524244 ∨ 0x80000 < n + 16 then none
  else
    let body := s.flashBytes (orbitBase c + 16) n
    if crc32c body = leNat (slice h 12 4) then some body else none

/-- The valid copy with the higher sequence number. -/
def State.orbitNewer (s : State) : Option Nat :=
  match (s.orbitCopy 0).isSome, (s.orbitCopy 1).isSome with
  | true, true => some (if s.orbitSeq 0 < s.orbitSeq 1 then 1 else 0)
  | true, false => some 0
  | false, true => some 1
  | _, _ => none

/-- NVM_ORBIT. -/
def State.showOrbit (s : State) : State :=
  ((s.setb NVM_ORBIT_XVALID (s.orbitCopy 0).isSome).setb NVM_ORBIT_YVALID (s.orbitCopy 1).isSome).set NVM_ORBIT_SEQ
    (s.orbitNewer.elim 0 s.orbitSeq)

/-- A slot's sequential read begins: the first one 2 ms after the entry into BOOT (R370), or with the TB clock after row 4. -/
def State.readSlot (s : State) (k : Nat) : State :=
  let at_ := if s.tb.running && s.boot.tried.isEmpty then max s.tb.ticks (s.fab.bootTicks + 2000000) else s.tb.ticks
  s.onBoot fun b => { b with step := .readSlot, slot := k, tried := k :: b.tried, verifyFaults := 0, stepAt := at_ }

/-- A slot whose ATTEMPT marker is set while its CONFIRM marker is not. -/
def State.unconfirmed (s : State) (k : Nat) : Bool := s.marker k 0 && !s.marker k 1

/-- R379, steps 1 to 3. -/
def State.chooseSlot (s : State) : State :=
  let c := s.boot.passed
  let r := s.boot.request
  if r ≠ 0 ∧ c.contains (r - 1) then s.readSlot (r - 1)
  else match c with
  | [] => s.bootSafe
  | [k] => s.readSlot k
  | _ =>
    if r ≠ 0 then s.readSlot (2 - r)
    else if s.unconfirmed 0 ∧ !s.unconfirmed 1 then (s.event 0x7008 2 0).readSlot 1
    else if s.unconfirmed 1 ∧ !s.unconfirmed 0 then (s.event 0x7008 2 1).readSlot 0
    else s.readSlot (if s.imgSeq 0 < s.imgSeq 1 then 1 else 0)

/-- Step 4 of R379: the slot tried fails, and the other one is tried if it passed checks 1 to 8 and has not been. -/
def State.slotFails (s : State) (reason : Nat) : State :=
  let k := s.boot.slot
  let s := s.slotReject k reason
  if s.boot.passed.contains (1 - k) ∧ !s.boot.tried.contains (1 - k) then s.readSlot (1 - k) else s.bootSafe

/-- The flash is identified: headers, orbit data, choice. -/
def State.identified (s : State) : State := (((s.set NVM_STATUS_FLASHOK 1).slotHead 0).slotHead 1).showOrbit.chooseSlot

/-- An attempt to identify the flash; the third failure ends BOOT. -/
def State.identify (s : State) (ok : Bool) : State :=
  let s := s.onBoot fun b => { b with flashTries := b.flashTries + 1 }
  if ok then s.identified
  else if s.boot.flashTries < 3 then s.onBoot fun b => { b with step := .identify, stepAt := s.tb.ticks }
  else ((s.slotReject 0 1).slotReject 1 1).bootSafe

/-! ### Entering BOOT (rows 4 and 8 of R24; R370 step 1) -/

/-- The device-unique import key's public half (R392). -/
def State.showProvPub (s : State) : State :=
  s.rtShowKey SYS_PROVPUB_PUB (if s.boot.importOff then [] else beBytes 32 (Config.publicKey 3 (Config.importKey s.boot.duk)).toNat)

/-- What every entry into BOOT begins with: domains of group A, the KEK that VBAT lost, the latch's condition, SYS_PROVPUB. -/
def State.bootStart (s : State) : State :=
  let s := (s.set PM_STATUS_DOMAINS (s.get PM_STATUS_DOMAINS ||| 0x20A1)).onFab fun f => { f with bootTicks := s.tb.ticks }
  let keyed := s.get SYS_LIFECYCLE_STATE = 1 ∨ s.get SYS_LIFECYCLE_STATE = 2
  let s := if s.bk.lost ∧ keyed then s.latch 2 else s
  (s.onBk fun b => { b with lost := false }).latchShow.showProvPub

/-- POWER_UP_COMPLETE: row 4 of R24. TB shows its seed from here; it runs once the synthesizer locks. -/
def State.powerUp (s : State) (flashId : Bool) : State :=
  if s.mode = .backup ∧ s.pw.sequencing then
    let s := s.onPw fun p => { p with sequencing := false }
    let s := (((s.seedTb 0).enterMode .boot 0x01).event 0x0202 0 (s.get PM_LASTRESET_CAUSE + s.get PM_LASTRESET_RAIL * 2 ^ 4)).bootStart
    s.identify flashId
  else s

/-- FLASH_IDENTIFICATION_RETRY: 10 ms after the last attempt, up to three attempts; with no TB clock to count them yet, when the row
comes (DESIGN CHOICE notes/assumptions/63.md). -/
def State.flashRetry (s : State) (flashId : Bool) : State :=
  if s.mode = .boot ∧ s.boot.step = .identify then
    match s.reachClocked (10000000 + s.boot.stepAt) with
    | some s => s.identify flashId
    | none => s
  else s

/-- TB_SYNTHESIZER_LOCK: the master is seeded then (R57), in SAFE too when BOOT has ended there first (R386). -/
def State.synLock (s : State) : State :=
  if (s.mode = .boot ∨ s.mode = .safe) ∧ !s.tb.running then 
    ((s.onTb fun t => { t with running := true }).set TB_STATUS_SYNLOCK 1).seedTb s.boot.build
  else s

/-- What survives a SYS_REBOOT beside what keeps its value while the domains are off: the counting of TB, the chiplet's pins,
the replicas' measurements and the core voltage's (R57, R461). -/
def keptReboot (key : Nat) : Bool :=
  let a := key / 32
  keptOff key || (0x30020 ≤ a && a ≤ 0x3002C) || (0x300A0 ≤ a && a ≤ 0x300AC) ||
    ([TB_STATUS_BKVALID, TB_STATUS_SYNLOCK, TB_STATUS_OSCLOSS, TB_STATUS_OCXOWARM, PM_VCORE_MEAS].any fun F => F.key == key)

/-- A cell of the reserve area of the association store (R228). -/
def reserveCell (a : Nat) : Bool := 0x12800000 ≤ a && a < 0x12900000

/-- The state BOOT begins from by row 8, before the mode changes. -/
def State.rebooted (s : State) (slot : Nat) : State :=
  let m := s.master
  let e := s.get SEL_TQR_TEB
  let gn := s.is GN_CTL_EN && s.is GN_FESTAT_DONE && !s.is GN_FESTAT_FAIL
  let id := s.is NVM_STATUS_FLASHOK
  let t := s.tb
  let s := (s.flashTorn).avsTarget 750
  let z : State :=
    { rf := s.rf.filter fun p => keptReboot p.1
      mode := s.mode, bk := s.bk
      pw := { pwrEn := s.pw.pwrEn, porstN := s.pw.porstN, pgood := s.pw.pgood, dips := s.pw.dips, avsAcked := s.pw.avsAcked
              avsTries := s.pw.avsTries, avsAt := s.pw.avsAt, statusAt := s.pw.statusAt, evalAt := s.pw.evalAt, therm := s.pw.therm, d2dLost := s.pw.d2dLost }
      tb := { c0 := m, c1 := m, c2 := m, reps := t.reps, running := t.running, ticks := t.ticks, excess := t.excess, incr := t.incr
              incrQ := t.incrQ.map fun c => { c with slew := 0 }
              steps := t.steps, lastStep := t.lastStep, sync := t.sync, syncSeq := t.syncSeq, syncOut := t.syncOut
              lossAt := t.lossAt, ocxoRise := t.ocxoRise, ocxoFall := t.ocxoFall, steerHeld := t.steerHeld }
      sel := { clsTicks := t.ticks, clsTime := s.now }
      perf := { at_ := s.now / ns1, steps := t.steps }
      jtag := s.jtag
      mg := { spiStored := s.mg.spiStored, spiEarly := s.mg.spiEarly }
      fab := { store := s.fab.store.filter fun c => reserveCell c.1 }
      boot := { flash := s.boot.flash, root0 := s.boot.root0, root1 := s.boot.root1, importOff := s.boot.importOff, duk := s.boot.duk
                request := if slot = 3 then 0 else slot, gnKept := gn }
      gn := { orbit := s.gn.orbit }
      out := s.out, free := s.free, pending := s.pending }
  let z := (z.seedBound (satU 32 (max 2000000000 e))).showIncr
  if id then z.set NVM_STATUS_FLASHOK 1 else z

/-- The open OMP sessions as the event of their end at BOOT shows them (R412, event 0x0123). -/
def State.openSessions (s : State) : List Nat :=
  ((List.range 8).filter fun k => s.is (SYS_OMPSESS_OPEN k)).map fun k =>
    k + s.get (SYS_OMPSESS_TRANSPORT k) * 2 ^ 9 + s.get (SYS_OMPSESS_VER k) * 2 ^ 16 + 3 * 2 ^ 24

/-- SYS_REBOOT: row 8 of R24. A holder releases as it enters BOOT. The flash stays identified; one that never was is tried
again (R371). -/
def State.sysReboot (s : State) (slot : Nat) : State :=
  if !s.awake then s
  else
    let s := if s.leaseSt = 5 then s.leaseRelease 9 s.now else s
    let open_ := s.openSessions
    let s := (open_.foldl (fun s a => (s.event 0x0123 0 a).irq 8) ((s.rebooted slot).enterMode .boot 0x05)).bootStart
    let s := s.set PM_STATUS_DOMAINS (s.get PM_STATUS_DOMAINS ||| (0x40 + if s.boot.gnKept then 0x100 else 0))
    if s.is NVM_STATUS_FLASHOK then s.identified else s.onBoot fun b => { b with step := .identify }

def execPowerUpComplete (flashId : Bool) (s : State) : Out := .next (s.powerUp flashId)
def execFlashIdentificationRetry (flashId : Bool) (s : State) : Out := .next (s.flashRetry flashId)
def execTbSynthesizerLock (s : State) : Out := .next s.synLock
def execSysReboot (_path : Path) (slot : Nat) (s : State) : Out := .next (s.sysReboot slot)

/-! ### Entropy (R395, R396) -/

/-- ENTROPY_STARTUP_DONE: with a source that passes, the DRBG is instantiated, and a cleared latch gives a new KEK (R388); with
none, both slots are rejected (R371). A returned device draws no KEK (R389; DEDUCED notes/assumptions/63.md). -/
def State.entropyDone (s : State) (ok0 ok1 : Bool) : State :=
  if s.mode ≠ .boot ∨ s.boot.entropyDone then s
  else
    let s := s.set SYS_ENTROPY_FAILED ((if ok0 then 0 else 1) + (if ok1 then 0 else 2))
    if !ok0 && !ok1 then ((s.slotReject 0 14).slotReject 1 14).bootSafe
    else
      let s := (s.onBoot fun b => { b with
        entropyDone := true, seededAt := s.tb.ticks, stepAt := if b.step = .verify then s.tb.ticks else b.stepAt }).set SYS_ENTROPY_DRBGOK 1
      if s.bk.clearAsked then
        let s := s.onBk fun b => { b with clearAsked := false }
        let s := (((s.set SYS_TAMPER_LATCH 0).set SYS_TAMPER_CAUSE 0).clearCond 0x0111 0).event 0x0112 0 0
        if s.boot.importOff then s else s.drawKek
      else s

def execEntropyStartupDone (ok0 ok1 : Bool) (s : State) : Out := .next (s.entropyDone ok0 ok1)

/-! ### Reading and verifying the slot (R370 steps 5 and 6, R377, R378) -/

/-- SLOT_READ_COMPLETE: the last byte is read, at 50 MB/s from the read's beginning, and checks 9 and 10 follow; a read error ends
the read when it comes (check 1). -/
def State.slotRead (s : State) (readError : Bool) : State :=
  let k := s.boot.slot
  if s.mode ≠ .boot ∨ s.boot.step ≠ .readSlot then s
  else if readError then s.slotFails 1
  else match s.reachTick (20 * s.imgLen k + s.boot.stepAt) with
    | none => s
    | some s =>
      let s := s.set (NVM_SLOT_DIGEST k) ((s.imgDigest k).toNat / 2 ^ 352)
      if !s.crcOk k then s.slotFails 9 else if !s.rootOk k then s.slotFails 10
      else s.onBoot fun b => { b with step := .verify, stepAt := s.tb.ticks }

def execSlotReadComplete (readError : Bool) (s : State) : Out := .next (s.slotRead readError)

/-! ### Applying the image (R370 step 7) -/

/-- The image's entry in its KEYS sections is written to an image index. -/
def imageIndex (i : Nat) : Bool := (1 ≤ i && i ≤ 5) || (32 ≤ i && i ≤ 255)

/-- Import one entry (R392). -/
def State.importOne (s : State) (e : Nat × Nat × Nat × Nat × List Byte) : State :=
  if !imageIndex e.1 then s
  else match Config.importEntry s.boot.duk e.2.2.2.2 with
  | some v => (s.putKey e.1 e.2.1 e.2.2.1 e.2.2.2.1 v).bump CFG_IMGSTAT_KEYS 1
  | none => s.event 0x0113 2 e.1

/-- The address of this device in a KEYS section: the first 16 bytes of SHA-256 of SYS_PROVPUB. -/
def State.keysAddress (s : State) : List Byte :=
  (beBytes 32 (Config.sha256 (beBytes 32 (Config.publicKey 3 (Config.importKey s.boot.duk)).toNat)).toNat).take 16

/-- The import key, and the KEYS sections that address this device, in PROVISIONED and DEPLOYED with the latch clear. -/
def State.importKeys (s : State) (k : Nat) : State :=
  let s := if s.keysOff then s else s.putKey 0 3 2 4 (Config.importKey s.boot.duk)
  let st := s.get SYS_LIFECYCLE_STATE
  if (st ≠ 1 ∧ st ≠ 2) ∨ s.keysOff then s
  else
    let ks := ((s.sections k).filter fun x => x.type == 4).map fun x => Config.keysSection (s.sectionBytes k x)
    (ks.filter fun x => x.1 == s.keysAddress).foldl (fun s x => x.2.foldl State.importOne s) s

/-- The certificate chains (R256). -/
def State.loadCerts (s : State) (b : List Byte) : State :=
  let c := Config.certsSection b
  let s := s.onNtp fun n => { n with srvName := c.1 }
  s.forEach 2 fun s i => match c.2[i]? with
    | some (alg, nb, na, d) =>
      ((((s.set (NTS_CERT_PRESENT i) 1).set (NTS_CERT_ALG i) alg).set (NTS_CERT_NOTBEFORE i) nb).set (NTS_CERT_NOTAFTER i) na).set
        (NTS_CERT_DIGEST i) d
    | none => s

/-- The data of R129 used at BOOT: the newer valid copy, else the image's ORBIT section (R373). -/
def State.orbitData (s : State) (k : Nat) : Option (List Byte) :=
  match s.orbitNewer with
  | some c => s.orbitCopy c
  | none => s.findSection k 8

/-- The orbit data used at BOOT (R129, R373): the newer of the copy in the reserve area, which follows each flash copy written, and the flash
copy. -/
def State.bootOrbit (s : State) (k : Nat) : Orbit :=
  let n := s.orbitNewer.elim 0 s.orbitSeq
  let held := s.gn.orbit
  if held.valid ∧ n ≤ held.seq then held
  else
    let d := s.orbitData k
    { valid := true, alms := d.elim [] Config.orbitAlms, pos := d.bind Config.orbitPos, utc := d.bind Config.orbitUtc, seq := n }

/-- Position and UTC parameters from the orbit data (R46, R373); with POSSRC = 1 the position is the image's. -/
def State.loadOrbit (s : State) (k : Nat) : State :=
  let o := s.bootOrbit k
  let s := s.onGn fun g => { g with orbit := o, orbitAt := s.tb.ticks }
  let s := if s.is GN_SOLCFG_POSSRC then (match (s.findSection k 8).bind Config.orbitPos with | some p => s.setPos p | none => s) else s
  match o.utc with
  | some (o, l, t) => s.setUtc o l t 0
  | none => s

/-- The domains of group B that the configuration powers (R461). -/
def State.domains (s : State) : Nat :=
  let used := (List.range 6).foldl (fun m p => if s.partOn p then m ||| s.get (FAB_PART_CLMASK p) else m) 0
  let tiles := (List.range 4).foldl (fun m t => if used / 2 ^ (8 * t) % 256 ≠ 0 then m + 2 ^ (t + 1) else m) 0
  let quads := (List.range 4).foldl (fun m q => if s.is (MAC_QMODE_EN q) then m + 2 ^ (q + 9) else m) 0
  0x20A1 + 0x40 + tiles + quads + (if s.is GN_CTL_EN then 0x100 else 0)

/-- The fabric: clusters in their partitions, keys, microcode (R215, R216, R218, R232). -/
def State.loadFabric (s : State) (k : Nat) : State :=
  let s := s.forEach 32 fun s c =>
    match (List.range 6).find? fun p => s.partOn p && s.bit (FAB_PART_CLMASK p) c with
    | some p => (s.set (FAB_CL_PART c) p).set (FAB_CL_STATE c) 0
    | none => s.set (FAB_CL_STATE c) 4
  let a := s.rand 128
  let b := a.2.rand 128
  let code := ((b.2.sections k).filter fun x => x.type == 3 && b.2.partOn x.inst).map fun x => (x.inst, b.2.sectionBytes k x)
  (b.2.onFab fun f => { f with hashKey := a.1, sketchKey := b.1, ucode := code }).showEngines

/-- Ports: the threshold in force, and the fixed latencies (R178, R204). -/
def State.loadPorts (s : State) : State :=
  s.forEach 32 fun s p =>
    if s.portExists p then
      ((s.set (MAC_TXTHR_CUR p) (s.get (MAC_TXTHR_CFG p))).seti (TSQ_P_RXLAT p) (s.rxLatency p 0)).seti (TSQ_P_TXLAT p) (s.txLatency p)
    else s

/-- The pair's values in force until an agreement, and BOOTID (R350, R354, R358). -/
def State.loadLease (s : State) : State :=
  let r := s.rand 32
  let s := ((r.2.setb SYS_MODE_PAIR (s.is LEASE_CFG_EN)).set LEASE_LEN_LEFF (s.get LEASE_CFG_LEN)).set LEASE_GUARD_GEFF (s.get LEASE_GUARDCFG_GIMG)
  s.onLease fun l => { l with bootId := r.1 }

/-- The running image in CFG_IMAGE, CFG_SEQ, NVM_STATUS and SYS_REBOOT. -/
def State.showImage (s : State) (k : Nat) : State :=
  let s := (((s.set CFG_IMAGE_SVN (s.imgSvn k)).set CFG_IMAGE_NSECT (s.headField k 38 2)).set CFG_IMAGE_FMTMIN (s.headField k 5 1)).set
    CFG_IMAGE_AUTOCONF (s.headField k 37 1)
  let s := (s.set CFG_SEQ_LO_SEQ (s.imgSeq k)).set CFG_SEQ_HI_SEQ (s.imgSeq k / 2 ^ 32)
  ((s.set NVM_STATUS_BOOTSLOT k).set SYS_REBOOT_BOOTSLOT k).setb NVM_CONFIRM_CONFIRM (s.marker k 1)

/-- The image's optional sections: certificates, golden signatures, front-end list (R123, R256, R435). A front end that has
stayed powered keeps its set-up. -/
def State.loadSections (s : State) (k : Nat) : State :=
  let s := match s.findSection k 5 with
    | some b => s.loadCerts b
    | none => s
  let golden := ((s.findSection k 6).elim [] Config.goldenSection).map fun x => (x.1, x.2.1, x.2.2)
  let fe := ((s.findSection k 7).elim [] Config.feSection).map fun x => (⟨x.1, x.2⟩ : FeTrans)
  let s := (s.onBist fun b => { b with golden := golden }).onGn fun g =>
    { g with feList := fe.take 64, sigen := (s.findSection k 2).elim [] Config.signals }
  if s.boot.gnKept && s.is GN_CTL_EN then
    (s.onGn fun g => { g with feDone := s.tb.ticks, start := s.gnStart }).set GN_FESTAT_DONE 1
  else s

/-- What the timing chiplet and the counters take from the configuration: an increment that it names, the core voltage, the dump
period, the oscillator ratio (R33, R39, R448, R465). -/
def State.loadChiplet (s : State) (cfg : List CfgEntry) : State :=
  let s := s.set TB_OSC_RATIO ([100, 50, 40, 20, 10].getD (s.get TB_OSC_FSEL) 10)
  let i : Nat := s.get TB_INCR_LO_FRACLO + s.get TB_INCR_HI_FRACHI * 2 ^ 32 + s.get TB_INCR_HI_INT * 2 ^ 40
  let named := namesField cfg TB_INCR_LO_FRACLO || namesField cfg TB_INCR_HI_FRACHI || namesField cfg TB_INCR_HI_INT
  let s := (if named then s.commitIncr (clampIncr i) else s).avsTarget (s.get PM_AVSCFG_VBOOT)
  (s.onPerf fun p => { p with period := s.get PERF_DUMPCFG_PERIOD, steps := s.tb.steps }).applySampling

/-- The image of slot `k` is installed: its configuration stands in the registers, and what follows from it is set up. -/
def State.install (s : State) (k : Nat) (cfg : List CfgEntry) : State :=
  let s := (s.showImage k).set PM_STATUS_DOMAINS s.domains
  let s := s.onBk fun b => { b with tamperEn := s.get SYS_TAMPER_EN, tamperPol := s.get SYS_TAMPER_POL }
  let s := (s.loadLease.loadPorts.loadFabric k).set GN_STATUS_SPACING (s.get GN_CTL_SPACING)
  let s := (((s.loadOrbit k).loadSections k).loadChiplet cfg).importKeys k
  let s := if s.is SYS_MODE_PAIR ∨ s.keysOff then s else s.firstGen
  s.rtBoot.showTsl.showNtp.showPtp.onBoot fun b => { b with step := .apply }

/-- IMAGE_VERIFY_DONE, 64,682 slots of 128 ns after the job began: the signature, then checks 12 and 13; a slot that passes is marked, applied and becomes the one that
booted. A faulting attempt reruns once (R318). -/
def State.imageVerify (s : State) (engineFault : Bool) : State :=
  if s.mode ≠ .boot ∨ s.boot.step ≠ .verify ∨ !s.boot.entropyDone then s
  else match s.reachTick (8279296 + s.boot.stepAt) with
  | none => s
  | some s =>
    let k := s.boot.slot
    if engineFault then
      (if s.boot.verifyFaults = 0 then s.onBoot fun b => { b with verifyFaults := 1, stepAt := s.tb.ticks } else s.slotFails 11)
    else if !s.signOk k then s.slotFails 11
    else
      let s' := if s.marker k 1 then s else s.setMarker k 0
      if !s.svnOk k then s'.slotFails 12
      else
        let cfg := (s.findSection k 1).getD []
        let c := s'.configure cfg
        if !c.configRules (s.sections k) ((s.findSection k 2).getD []) then s'.slotFails 13
        else
          let c := (c.set (NVM_SLOT_VALID k) 1).event 0x7002 0
            (k + (if s.marker k 1 then 2 else 0) + s.headField k 5 1 * 2 ^ 8)
          c.install k (sortEntries (cfgEntries cfg))

def execImageVerifyDone (engineFault : Bool) (s : State) : Out := .next (s.imageVerify engineFault)

/-- BOOT_COMPLETE: row 5 of R24. -/
def State.bootComplete (s : State) : State :=
  if s.mode ≠ .boot ∨ s.boot.step ≠ .apply ∨ !s.tb.running then s
  else
    let s := s.onBoot fun b => { b with step := .done, upSince := s.tb.ticks }
    let s := ((s.onTb fun t => { t with warmFrom := t.ticks }).warmBegin none).set TB_WARMDRIFT_DRIFT 0xFFFFFF
    let s := if s.is LEASE_CFG_EN then
      (((s.onLease fun l => { l with statusAt := s.tb.ticks, helloAt := s.tb.ticks }).leaseTo 1).set LEASE_STATUS_ISOLATED 1).raiseCond 0x580D 2 0 0
    else s
    (((s.set SEL_STATUS_ACQ 1).enterMode .warmup 0x02).forEach 20 State.srcRows).dpllSecond.showTod.warmRule.publishTqr

def execBootComplete (s : State) : Out := .next s.bootComplete

/-! ### Orbit-data writes (R129, R373) -/

/-- ORBIT_DATA_WRITE, due once per 24 h and after a survey: the copy with the lower sequence number, or the invalid one, is erased and programmed with the next
sequence number; after an erase or a program that failed the page of its header holds free bytes. -/
def State.orbitWrite (s : State) (erased programmed : Bool) : State :=
  let due := s.gn.orbitDue || decide (86400000000000 + s.gn.orbitAt ≤ s.tb.ticks)
  if !s.serviceOn ∨ !due then s
  else
    let body := (Config.orbitBody s.gn.orbit.alms s.gn.orbit.pos s.gn.orbit.utc).take (0x80000 - 16)
    let c := match s.orbitNewer with
      | some 0 => 1
      | _ => 0
    let seq := (s.orbitNewer.elim 0 fun n => s.orbitSeq n + 1) % 2 ^ 32
    let ok := erased && programmed
    let s := (if erased then s.flashErase (orbitBase c) 0x80000 else s).onGn fun g =>
      { g with orbitAt := s.tb.ticks, orbitDue := false, orbit := if ok then { g.orbit with seq := seq } else g.orbit }
    if ok then
      (s.flashPut (orbitBase c) (leBytes 4 0x4F524244 ++ leBytes 4 seq ++ leBytes 4 body.length ++ leBytes 4 (crc32c body) ++ body)).showOrbit
    else (s.drawn.flashPut (orbitBase c) s.garbled).showOrbit.event 0x7006 1 c

def execOrbitDataWrite (erased programmed : Bool) (s : State) : Out := .next (s.orbitWrite erased programmed)

end Sys2Proof.Machine
end

