-- ==== Sys2Proof/Machine/Lifecycle.lean ====
section
/-! DEFINITION. Lifecycle, tamper, key scrubbing, entropy and confirmation (spec/14_boot_configuration_lifecycle.md R380, R387 to
R396). -/
namespace Sys2Proof.Machine

/-! ### The key store is zeroed (R389, R394) -/

/-- Every entry is zeroed, and what the services hold of the keys with it. -/
def State.zeroStore (s : State) : State :=
  let s := s.forEach 4 State.zeroSlot
  let s := s.forEach 256 fun s i => if (s.entryAt i).isSome then s.dropKey i else s
  let s := ((s.onNtp fun n => { n with next := none }).onRt fun r => { r with cur := none, daily := none, old := [] })
  (s.set RT_KEYSTAT_LTOK 0).set RT_KEYSTAT_ONLINE 0

/-! ### Lifecycle commands (R388, R389) -/

/-- A lifecycle command executed, with its event. -/
def State.lcDone (s : State) (code : Nat) : State :=
  (s.set SYS_LCCMD_STATUS 2).event 0x0110 0 (code + s.get SYS_LIFECYCLE_STATE * 2 ^ 8)

/-- PROVISION: ROOT0 is fused with the running image's key digest, and a KEK is drawn. -/
def State.lcProvision (s : State) : Option State :=
  if s.get SYS_LIFECYCLE_STATE = 0 then
    let h := s.keyHash s.boot.slot
    some (((s.onBoot fun b => { b with root0 := h }).set SYS_LIFECYCLE_ROOT0 1).drawKek.set SYS_LIFECYCLE_STATE 1)
  else none

/-- DEPLOY. -/
def State.lcDeploy (s : State) : Option State :=
  if s.get SYS_LIFECYCLE_STATE = 1 then some (s.set SYS_LIFECYCLE_STATE 2) else none

/-- RETURN: the key store and the KEK are zeroed, and the import key is never derived again (R389). -/
def State.lcReturn (s : State) : Option State :=
  if s.get SYS_LIFECYCLE_STATE = 1 ∨ s.get SYS_LIFECYCLE_STATE = 2 then
    some (((s.zeroStore.zeroKek.onBoot fun b => { b with importOff := true }).set SYS_LIFECYCLE_STATE 3).showProvPub)
  else none

/-- FUSE_ROOT1: from the inactive slot, which passed its verification. -/
def State.lcFuseRoot1 (s : State) : Option State :=
  let k := 1 - s.boot.slot
  if (s.get SYS_LIFECYCLE_STATE = 1 ∨ s.get SYS_LIFECYCLE_STATE = 2) ∧ !s.is SYS_LIFECYCLE_ROOT1 ∧ s.is (NVM_SLOT_VALID k) then
    let h := s.keyHash k
    some ((s.onBoot fun b => { b with root1 := h }).set SYS_LIFECYCLE_ROOT1 1)
  else none

/-- REVOKE of root slot `r`: the other one is fused and not revoked, and the running image is signed under it. -/
def State.lcRevoke (s : State) (r : Nat) : Option State :=
  if r ≤ 1 ∧ s.rootLive (1 - r) ∧ s.keyHash s.boot.slot = s.rootDigest (1 - r) then
    some (s.set (if r = 0 then SYS_LIFECYCLE_REV0 else SYS_LIFECYCLE_REV1) 1)
  else none

/-- SVN_ADVANCE: the count is never lowered. -/
def State.lcSvn (s : State) : Option State :=
  if s.get SYS_LIFECYCLE_STATE = 2 then some (s.set SYS_LIFECYCLE_SVNCNT (max (s.get SYS_LIFECYCLE_SVNCNT) (s.get CFG_IMAGE_SVN))) else none

/-- TAMPER_CLEAR: acts at the next BOOT. -/
def State.lcTamper (s : State) : Option State :=
  if s.is SYS_TAMPER_LATCH then some (s.onBk fun b => { b with clearAsked := true }) else none

/-- The effect of a command, or none where its precondition fails. -/
def State.lcEffect (s : State) (v : Nat) : Option State :=
  match v % 256 with
  | 1 => s.lcProvision
  | 2 => s.lcDeploy
  | 3 => s.lcReturn
  | 4 => s.lcFuseRoot1
  | 5 => s.lcRevoke (v / 256)
  | 6 => s.lcSvn
  | 7 => s.lcTamper
  | _ => none

/-- A write of CODE and ARG to SYS_LCCMD: the first arms, a second of the same value within 1 s executes. -/
def State.lcWrite (s : State) (path : Path) (v : Nat) : State :=
  if !s.awake then s
  else
    let v := v % 2 ^ 10
    let armed := s.boot.lcArmed
    let s := (((s.onBoot fun b => { b with lcArmed := none }).set SYS_LCCMD_CODE v).set SYS_LCCMD_ARG (v / 256)).set SYS_LCCMD_STATUS 3
    let cp : Bool := match path with
      | .cp _ => true
      | _ => false
    if s.mode ≠ .maintenance ∨ cp then s
    else
      let again : Bool := match armed with
        | some (w, t) => w == v && decide (s.tb.ticks ≤ 1000000000 + t)
        | none => false
      if again then (match s.lcEffect v with
        | some s => s.lcDone (v % 256)
        | none => s)
      else (s.onBoot fun b => { b with lcArmed := some (v, s.tb.ticks) }).set SYS_LCCMD_STATUS 1

def execProvision (path : Path) (s : State) : Out := .next (s.lcWrite path 1)
def execDeploy (path : Path) (s : State) : Out := .next (s.lcWrite path 2)
def execReturnDevice (path : Path) (s : State) : Out := .next (s.lcWrite path 3)
def execFuseRoot1 (path : Path) (s : State) : Out := .next (s.lcWrite path 4)
def execRevoke (path : Path) (r : Fin 4) (s : State) : Out := .next (s.lcWrite path (5 + r * 256))
def execSvnAdvance (path : Path) (s : State) : Out := .next (s.lcWrite path 6)
def execTamperClear (path : Path) (s : State) : Out := .next (s.lcWrite path 7)

/-! ### Tamper inputs and the scrubber (R393, R394) -/

/-- TAMPER_INPUT: an input that is watched reaches its active level, in any mode, while the backup domain has its supply. -/
def State.tamperInput (s : State) (n : Nat) (high : Bool) : State :=
  if s.bk.powered && s.bk.tamperEn.testBit n && s.bk.tamperPol.testBit n == high then
    let s := s.zeroKek.latch n
    if s.awake then s.zeroStore.latchShow else s
  else s

/-- KEY_SCRUB: the entries whose check fails; an empty one is not checked. -/
def State.keyScrub (s : State) (failed : List Nat) : State :=
  let bad := failed.filter fun i => (s.entryAt i).isSome
  if !s.awake ∨ bad = [] then s
  else (bad.foldl (fun (s : State) i => s.onBoot fun b => { b with
    keys := SMap.set none b.keys i ((SMap.get none b.keys i).map fun k => { k with corrupt := true }) }) s).fatal 0x04

def execTamperInput (n : Fin 2) (high : Bool) (s : State) : Out := .next (s.tamperInput n high)
def execKeyScrub (failed : List (Fin 256)) (s : State) : Out := .next (s.keyScrub (failed.map (·.val)))

/-! ### Entropy (R395, R396) -/

/-- ENTROPY_BLOCK of a source: it passes, or fails the repetition count (false) or the adaptive proportion test (true). Three
failures in a row fail the source until BOOT. -/
def State.entropyBlock (s : State) (k : Nat) (failed : Option Bool) : State :=
  if !s.awake ∨ !s.is SYS_ENTROPY_DRBGOK ∨ s.bit SYS_ENTROPY_FAILED k then s
  else
    let put (n : Nat) (s : State) : State :=
      s.onBoot fun b => { b with srcFails := if k = 0 then (n, b.srcFails.2) else (b.srcFails.1, n) }
    match failed with
    | none => put 0 s
    | some ap =>
      let n := (if k = 0 then s.boot.srcFails.1 else s.boot.srcFails.2) + 1
      let s := ((put n s).bump SYS_ENTROPY_DISCARDS 1).event 0x0114 1 (k + if ap then 2 ^ 8 else 0)
      if n < 3 then s
      else
        let s := (s.setBit SYS_ENTROPY_FAILED k true).event 0x0115 2 k
        if s.get SYS_ENTROPY_FAILED = 3 then s.raiseCond 0x0116 3 0 0 else s

/-- A reseed is due: after 2^20 generate requests, or one second after the last seeding. -/
def State.reseedDue (s : State) : Option State :=
  if 2 ^ 20 ≤ s.boot.drbgReqs then some s else s.reachTick (1000000000 + s.boot.seededAt)

/-- DRBG_RESEED: from the sources that pass; while both have failed the DRBG continues under its last seed. -/
def State.reseed (s : State) : State :=
  if s.awake && s.is SYS_ENTROPY_DRBGOK && s.get SYS_ENTROPY_FAILED ≠ 3 then
    match s.reseedDue with
    | some s => s.onBoot fun b => { b with drbgReqs := 0, seededAt := s.tb.ticks }
    | none => s
  else s

def execEntropyBlock (src : Fin 2) (failed : Option Bool) (s : State) : Out := .next (s.entropyBlock src failed)
def execDrbgReseed (s : State) : Out := .next s.reseed

/-! ### Confirmation (R380) -/

/-- The running slot is confirmed. -/
def State.confirm (s : State) (auto : Bool) : State :=
  if s.is NVM_CONFIRM_CONFIRM then s
  else
    let k := s.boot.slot
    ((s.setMarker k 1).set NVM_CONFIRM_CONFIRM 1).event 0x7005 0 (k + if auto then 2 ^ 8 else 0)

/-- AUTOCONFIRM: 600 s in WARMUP or a later mode. -/
def State.autoconfirm (s : State) : State :=
  if s.serviceOn && s.is CFG_IMAGE_AUTOCONF && !s.is NVM_CONFIRM_CONFIRM then
    match s.reachTick (600 * 1000000000 + s.boot.upSince) with
    | some s => s.confirm true
    | none => s
  else s

def execAutoconfirm (s : State) : Out := .next s.autoconfirm
def execNvmConfirm (_path : Path) (s : State) : Out := .next (if s.serviceOn then s.confirm false else s)

end Sys2Proof.Machine
end

