-- ==== Sys2Proof/Machine/Update.lean ====
section
/-! DEFINITION. Update sessions (spec/14_boot_configuration_lifecycle.md R397, R398). -/
namespace Sys2Proof.Machine

/-- A command is accepted from the SPI target and from OMP, after BOOT (R386, R401). -/
def State.updPath (s : State) (path : Path) : Bool :=
  s.awake && s.mode ≠ .boot && match path with
    | .cp _ => false
    | _ => true

/-- The session belongs to the path, and no operation is in hand. -/
def State.updMine (s : State) (path : Path) : Bool :=
  s.is NVM_STATUS_SESSION && s.boot.op.isNone && s.is NVM_STATUS_SESSIONOMP == decide (path = .omp)

/-- A command: refused with STATUS 3, or started with STATUS 1. -/
def State.updCmd (s : State) (path : Path) (code : Nat) (ok : Bool) (f : State → State) : State :=
  if !s.updPath path then s
  else
    let s := s.set NVM_UPDCTL_CMD code
    if ok then f (s.set NVM_UPDCTL_STATUS 1) else s.set NVM_UPDCTL_STATUS 3

/-- An operation of the flash is in hand. -/
def State.startOp (s : State) (o : FlashOp) : State := s.onBoot fun b => { b with op := some o }

/-- The slot of the session. -/
def State.updSlot (s : State) : Nat := s.get NVM_STATUS_SESSIONSLOT

/-- A slot that has been erased reads EMPTY. -/
def State.slotEmpty (s : State) (k : Nat) : State :=
  let s := (s.showHead k false).set (NVM_SLOT_VALID k) 0
  (s.set (NVM_SLOT_REASON k) 2).set (NVM_SLOT_DIGEST k) 0

/-- OPEN: the markers and the first sector are erased at once, the rest by the end of the operation. -/
def State.updOpen (s : State) (path : Path) (k : Nat) : State :=
  let free := k ≠ s.get NVM_STATUS_BOOTSLOT || (s.mode == .safe && s.safeFromBoot)
  if !s.updPath path then s
  else (s.updCmd path 1 (!s.is NVM_STATUS_SESSION && s.boot.op.isNone && free) fun s =>
    let omp := decide (path = .omp)
    let s := ((s.set NVM_STATUS_SESSION 1).setb NVM_STATUS_SESSIONOMP omp).set NVM_STATUS_SESSIONSLOT k
    let s := (s.event 0x7003 0 (k + 2 ^ 8 + if omp then 2 ^ 9 else 0)).flashErase (markerBase k) 4096
    ((s.flashErase (slotBase k) 4096).slotEmpty k).startOp .erase).set NVM_UPDCTL_SLOT k

/-- PROGRAM: the staging buffer at slot offset NVM_UPDOFS. -/
def State.updProgram (s : State) (path : Path) : State :=
  s.updCmd path 2 (s.updMine path) fun s =>
    (s.flashProgram (slotBase s.updSlot + s.get NVM_UPDOFS_OFS) (SMap.getMany 0 s.boot.staging 0 4096)).startOp .program

/-- READ: the staging buffer takes 4 KiB of the slot, which it holds when the operation ends. -/
def State.fillStaging (s : State) (bs : List Byte) : State := s.onBoot fun b => { b with staging := SMap.setMany 0 [] 0 bs }
def State.updRead (s : State) (path : Path) : State :=
  s.updCmd path 3 (s.updMine path) (State.startOp · .read)

/-- The first check of R378, from 2 to 13, that a slot fails; 0 when it passes. The rules of R382 are judged on the configuration
that its image gives over reset values. -/
def State.slotReason (s : State) (k : Nat) : Nat :=
  let h := s.headCheck k
  if h ≠ 0 then h
  else if !s.crcOk k then 9
  else if !s.rootOk k then 10
  else if !s.signOk k then 11
  else if !s.svnOk k then 12
  else
    let c := (s.keepRegs fun p => keptOff p.1).configure ((s.findSection k 1).getD [])
    if c.configRules (s.sections k) ((s.findSection k 2).getD []) then 0 else 13

/-- VERIFY, and what it shows when it ends: the result in the slot's block, with event 0x7004, and event 0x7001 when the slot is
rejected. -/
def State.updVerify (s : State) (path : Path) : State := s.updCmd path 4 (s.updMine path) (State.startOp · .verify)
def State.verified (s : State) (k : Nat) : State :=
  let r := s.slotReason k
  let s := s.showHead k (r == 0 || decide (5 ≤ r))
  let s := if r = 0 ∨ 9 ≤ r then s.set (NVM_SLOT_DIGEST k) ((s.imgDigest k).toNat / 2 ^ 352) else s
  let s := if r = 0 then (s.set (NVM_SLOT_VALID k) 1).set (NVM_SLOT_REASON k) 0 else s.slotReject k r
  s.event 0x7004 0 (k + r * 2 ^ 8)

/-- CLOSE. -/
def State.updClose (s : State) (path : Path) : State :=
  s.updCmd path 5 (s.updMine path) fun s =>
    let s := s.event 0x7003 0 (s.updSlot + if s.is NVM_STATUS_SESSIONOMP then 2 ^ 9 else 0)
    (((s.set NVM_STATUS_SESSION 0).set NVM_STATUS_SESSIONOMP 0).set NVM_UPDCTL_STATUS 2).irq 4

/-- What an operation that fails leaves: an erase, the sectors below the address that failed; a program or a read, 4 KiB that are
not stated; a VERIFY, a slot with a read error. -/
def State.opFails (s : State) (o : FlashOp) (a : Nat) : State :=
  let k := s.updSlot
  match o with
  | .erase => s.flashErase (slotBase k) (a / 4096 * 4096 - slotBase k)
  | .program => s.drawn.flashPut (slotBase k + s.get NVM_UPDOFS_OFS) s.garbled
  | .read => s.drawn.fillStaging s.garbled
  | .verify => (s.slotReject k 1).event 0x7004 0 (k + 2 ^ 8)

/-- NVM_OPERATION_COMPLETE: the operation in hand is done, or failed at a flash address. -/
def State.opComplete (s : State) (failed : Option Nat) : State :=
  match s.boot.op with
  | none => s
  | some o =>
    let s := s.onBoot fun b => { b with op := none }
    let s := match failed with
      | some a => ((s.opFails o a).set NVM_UPDCTL_STATUS 4).event 0x7007 2 a
      | none => (match o with
        | .erase => s.flashErase (slotBase s.updSlot) 0x03FFF000
        | .program => s
        | .read => s.fillStaging (s.flashBytes (slotBase s.updSlot + s.get NVM_UPDOFS_OFS) 4096)
        | .verify => s.verified s.updSlot).set NVM_UPDCTL_STATUS 2
    s.irq 4

def execUpdateOpen (path : Path) (slot : Fin 2) (s : State) : Out := .next (s.updOpen path slot)
def execUpdateProgram (path : Path) (s : State) : Out := .next (s.updProgram path)
def execUpdateRead (path : Path) (s : State) : Out := .next (s.updRead path)
def execUpdateVerify (path : Path) (s : State) : Out := .next (s.updVerify path)
def execUpdateClose (path : Path) (s : State) : Out := .next (s.updClose path)
def execNvmOperationComplete (failed : Option Nat) (s : State) : Out := .next (s.opComplete failed)

/-- An NVM_UPDCTL write: its command, or a refusal for a code that names none. -/
def State.updWrite (s : State) (path : Path) (v : Nat) : State :=
  match v % 8 with
  | 1 => s.updOpen path (v / 8 % 2)
  | 2 => s.updProgram path
  | 3 => s.updRead path
  | 4 => s.updVerify path
  | 5 => s.updClose path
  | c => s.updCmd path c false id

end Sys2Proof.Machine
end

