-- ==== Sys2Proof/Machine/Access.lean ====
section
/-! DEFINITION. Register space as its paths see it (spec/15_management_readback.md R402 to R404, R417 to R421, R424, R427, R428;
spec/00_scope.md R9 to R11): reads, writes, commands, snapshots. -/
namespace Sys2Proof.Machine

/-! ### What a register shows at the instant it is read -/

/-- The alarm table and its counts (R424). -/
def State.freshAlarms (s : State) : State :=
  let l := s.mg.alarms
  let s := (s.setSat SYS_ALARMCNT_TOTAL l.length).setSat SYS_ALARMCNT_CRIT (l.filter fun a => a.sev == 3).length
  s.forEach 64 fun s i => match l[i]? with
    | some a => (((s.set (SYS_ALARM_SEV i) a.sev).setb (SYS_ALARM_ACKABLE i) a.ackable).set (SYS_ALARM_CODE i) a.code).setTs
        (SYS_ALARM_SINCE i) a.since
    | none => (((s.set (SYS_ALARM_SEV i) 0).set (SYS_ALARM_ACKABLE i) 0).set (SYS_ALARM_CODE i) 0).setTs (SYS_ALARM_SINCE i) 0

/-- The level sources of SYS_IRQSTAT: LOGHI, TSQ and EQ (R425). -/
def State.irqLevels (s : State) : Nat :=
  let d := (s.get SYS_EVTSEQ_SEQ + 2 ^ 32 - s.get SYS_EVTRD_RD) % 2 ^ 32
  (if 3072 ≤ d then 2 ^ 3 else 0) + (if (List.range 32).any fun p => s.get (TSQ_P_LEVEL p) ≠ 0 then 2 ^ 5 else 0) +
    (if (List.range 8).any fun k => s.get (TDC_EQ_LEVEL k) ≠ 0 then 2 ^ 6 else 0)

/-- IRQ_N is pulled low (R425). -/
def State.irqLow (s : State) : Bool := s.awake && (s.get SYS_IRQSTAT_SRC ||| s.irqLevels) &&& s.get SYS_IRQEN_EN ≠ 0

/-- ALARM_N is asserted while a condition is active (R13, R424). -/
def State.alarmLow (s : State) : Bool := s.awake && s.mg.alarms ≠ []

/-- The state with every register that follows from others, or from the instant, as a read finds it. -/
def State.fresh (s : State) : State :=
  let s := (s.set SYS_MODE_MODE (modeCode s.mode)).freshAlarms
  let s := s.set SYS_IRQSTAT_SRC (s.get SYS_IRQSTAT_SRC ||| s.irqLevels)
  let s := s.setb GN_BURST_ALLOWED (s.gnOn && s.burstOk)
  let s := ((s.set TSQ_CFG_FMT (s.get CFG_TSFMT_FMT)).set LEASE_WTRLEFT_SEC s.wtrLeft).showEpoch
  let s := s.setb LEASE_STATUS_GATE (s.leaseSt == 5 && decide (s.now + s.leaseG < s.lease.xEff))
  let s := if s.is PM_STATUS_BOOST then s.setSat PM_BOOST_LEFT (ceilDiv (s.pw.boostEnd - s.tb.ticks) 1000000000) else s
  s.forEach 32 fun s p =>
    let s := s.portNow p
    if s.leaseLive then s else (s.set (MAC_STATUS_GATE p) 0).set (MAC_STATUS_VACTIVE p) 0

/-- The domain of an address is powered (R461): the GNSS front end, the port quads, the tiles and everything else. -/
def State.poweredAt (s : State) (a : Nat) : Bool :=
  let on (d : Nat) : Bool := (s.get PM_STATUS_DOMAINS).testBit (d - 1)
  if 0x80000 ≤ a ∧ a < 0x100000 then on 9
  else if 0x100000 ≤ a ∧ a < 0x200000 then on (10 + (a - 0x100000) / 0x40000)
  else if 0x201000 ≤ a ∧ a < 0x202000 then on (10 + (a - 0x201000) / 0x400)
  else if 0x302000 ≤ a ∧ a < 0x302800 then on (1 + (a - 0x302000) / 0x200)
  else if 0x681000 ≤ a ∧ a < 0x685000 then on (1 + (a - 0x681000) / 0x1000)
  else true

/-! ### Reading (R11, R406, R428) -/

/-- The memory windows, within which any address counts as mapped (R406, R427). -/
def isWindow (a : Nat) : Bool :=
  (0x710000 ≤ a && a < 0x711000) || (0x1000000 ≤ a && a < 0x1710000) || (0x1800000 ≤ a && a < 0x1820000) ||
    (0x10000000 ≤ a && a < 0x13420000) || (0x20000000 ≤ a && a < 0x21000000)

/-- The address names a register or lies in a memory window. -/
def mapped (a : Nat) : Bool := isWindow a || regAt a ≠ []

/-- A word of the association store's window (R227). -/
def State.storeWord (s : State) (a : Nat) : Nat :=
  if 0x13400000 ≤ a then
    let n := (a - 0x13400000) * 8
    (List.range 32).foldl (fun w i => if SMap.get false s.fab.frozen (n + i) then w + 2 ^ i else w) 0
  else if 0x13000000 ≤ a then SMap.get 0 s.fab.eseq ((a - 0x13000000) / 4)
  else
    let t := (a - 0x10000000) / 0xA00000
    let o := (a - 0x10000000) % 0xA00000
    if t < 4 ∧ 0x800000 ≤ o then SMap.get 0 s.fab.sketch (524288 * t + (o - 0x800000) / 4)
    else leNat (SMap.getMany 0 s.fab.store a 4)

/-- The counter a MAC counter's low word or a live counter's low word belongs to. -/
def macCounter (a : Nat) : Option (Nat × Nat) :=
  let o := (a - 0x100000) % 0x8000
  if 0x100000 ≤ a ∧ a < 0x200000 ∧ 0x4000 ≤ o ∧ o < 0x4180 ∧ o % 8 = 0 then some ((a - 0x100000) / 0x8000, (o - 0x4000) / 8) else none
def liveCounter (a : Nat) : Option (Nat × Nat) :=
  (List.range 4).findSome? fun t => (List.range 96).findSome? fun i => if (PERF_LIVE_LO t i).addr = a then some (t, i) else none

/-- A register lies in a domain that is powered, and its port exists (R160, R461). -/
def State.lives (s : State) (a : Nat) : Bool := s.poweredAt a && s.addrExists a

/-- A register's word; the reset value where the register does not live. -/
def State.regWord (s : State) (a : Nat) : Nat :=
  if !s.lives a then (regAt a).foldl (fun w f => w + f.field.reset * 2 ^ f.field.lo) 0
  else match macCounter a with
  | some (p, c) => (s.portNow p).cnt p c % 2 ^ 32
  | none => match (if 0x681000 ≤ a ∧ a < 0x685000 then liveCounter a else none) with
    | some (t, i) => s.perfCount t i % 2 ^ 32
    | none => s.fresh.word (regAt a)

/-- The word at an aligned address. -/
def State.alignedWord (s : State) (a : Nat) : Nat :=
  if 0x710000 ≤ a ∧ a < 0x711000 then leNat (SMap.getMany 0 s.boot.staging (a - 0x710000) 4)
  else if 0x1000000 ≤ a ∧ a < 0x1710000 then (match s.mg.shadow with
    | some v => if s.get SYS_SNAP_STATE = 2 then v.word (regAt (a - 0x1000000)) else 0
    | none => 0)
  else if 0x10000000 ≤ a ∧ a < 0x13420000 then s.storeWord a
  else s.regWord a

/-- The word at an address: in a memory window four bytes from any address, elsewhere a register (R9, R428). -/
def State.wordAt (s : State) (a : Nat) : Nat :=
  let o := a % 4
  if o = 0 then s.alignedWord a
  else if isWindow a then (s.alignedWord (a - o) / 2 ^ (8 * o) + s.alignedWord (a - o + 4) * 2 ^ (32 - 8 * o)) % 2 ^ 32
  else 0

/-- What a read of a register does: RC fields restart, PM_RAIL.LOW at the present sample; the counters of 64 and 48 bits take
their snapshots (R11, R182, R459). -/
def State.readEffect (s : State) (a : Nat) : State :=
  if !s.lives a then s
  else match macCounter a with
  | some (p, c) => (s.portNow p).readCounter p c
  | none => match (if 0x681000 ≤ a ∧ a < 0x685000 then liveCounter a else none) with
    | some (t, i) => s.liveRead t i
    | none => (regAt a).foldl (fun s f =>
        if f.access = .rc then
          (if 0x20020 ≤ a ∧ a < 0x20040 then s.set f.field (s.get (PM_RAIL_MEAS ((a - 0x20020) / 4))) else s.set f.field 0)
        else s) s

/-- Reads answer while the AON domain is powered. -/
def State.readsOn (s : State) : Bool := s.mode ≠ .off

/-- Read the word at an address. -/
def State.read (s : State) (a : Nat) : Nat × State := if s.readsOn then (s.wordAt a, s.readEffect a) else (0, s)

/-- Read `n` words in address order. -/
def State.readMany (s : State) (a : Nat) : Nat → List Nat × State
  | 0 => ([], s)
  | n + 1 =>
    let r := s.read a
    let t := r.2.readMany (a + 4) n
    (r.1 :: t.1, t.2)

/-- An access of a size: narrower than a word, register space reads 0 and nothing happens, and a memory window answers (R9). -/
def State.access (s : State) (a : Nat) (size : Size) : Nat × State :=
  match size with
  | .word => s.read a
  | .half => if isWindow a then ((s.read a).1 % 2 ^ 16, s) else (0, s)
  | .byte => if isWindow a then ((s.read a).1 % 2 ^ 8, s) else (0, s)

/-- RC_READ. -/
def execRcRead (_path : Path) (a : Place) (s : State) : Out := .next (s.access a.addr a.size).2

/-! ### Write paths and locks (R402, R404) -/

/-- The lock of a path. -/
def State.locked (s : State) : Path → Bool
  | .spi => s.is SYS_WLOCK_SPI
  | .omp => s.is SYS_WLOCK_OMP
  | .cp _ => false

/-- A write that the lock discards: counted and logged. -/
def State.lockDiscard (s : State) (path : Path) : State :=
  match path with
  | .spi => (s.bump SYS_SPISTAT_LOCKED 1).noteSec 0x0121 0
  | .omp => (s.bump SYS_OMPSTAT_LOCKED 1).noteSec (0x0121 + 65536) 1
  | .cp _ => s

/-- A path that may write at all: register space is written outside OFF and BACKUP, over OMP with SYS_OMPCFG.WRITE. -/
def State.pathOpen (s : State) (path : Path) : Bool := s.awake && (path ≠ .omp || s.is SYS_OMPCFG_WRITE)

/-- SYS_WLOCK_WRITE. -/
def State.wlockWrite (s : State) (v : Nat) : State :=
  if !s.awake then s
  else if v % 2 ^ 32 = 0xA5C3 then (s.set SYS_WLOCK_OMP 0).set SYS_WLOCK_SPI 0
  else if v % 2 ^ 32 = 0xA5C1 then s.set SYS_WLOCK_SPI 0
  else (s.set SYS_WLOCK_OMP 1).set SYS_WLOCK_SPI 1

def execSysWlockWrite (v : Nat) (s : State) : Out := .next (s.wlockWrite v)

/-! ### Snapshots (R418 to R420) -/

/-- The copy at an instant: every register from 0x0 to 0x70FFFF as a read finds it, with the counters' low words. -/
def State.view (s : State) : RegView :=
  let s := s.fresh
  let s := s.forEach 32 fun s p => s.forEach 48 fun s c => s.set (MAC_CNT_LO p c) (s.cnt p c)
  let s := s.forEach 4 fun s t => s.forEach 96 fun s i => s.set (PERF_LIVE_LO t i) (s.perfCount t i)
  ⟨s.rf.filter fun p => decide (p.1 / 32 < 0x710000) && s.lives (p.1 / 32)⟩

/-- The holder code of a path. -/
def holderCode : Path → Nat
  | .spi => 1
  | .omp => 2
  | .cp _ => 0

/-- SYS_SNAP.CMD = TAKE: the copy holds the first tick after the write. CMD reads the last code written (DESIGN CHOICE
notes/assumptions/61.md). -/
def State.snapTake (s : State) (path : Path) : State :=
  if !s.pathOpen path ∨ holderCode path = 0 then s
  else
    let s := s.set SYS_SNAP_CMD 1
    let st := s.get SYS_SNAP_STATE
    if st = 0 ∨ (st = 2 ∧ s.get SYS_SNAP_HOLDER = holderCode path) then
      let s := s.tick
      let v := s.view
      let s := ((s.set SYS_SNAP_STATUS 1).set SYS_SNAP_STATE 1).set SYS_SNAP_HOLDER (holderCode path)
      (s.setTs SYS_SNAPTIME_TS s.now).onMg fun m => { m with shadow := some v }
    else s.set SYS_SNAP_STATUS 2

/-- The shadow becomes free. -/
def State.snapFree (s : State) : State :=
  ((s.set SYS_SNAP_STATE 0).set SYS_SNAP_HOLDER 0).onMg fun m => { m with shadow := none }

/-- SYS_SNAP.CMD = RELEASE, from the holder. -/
def State.snapRelease (s : State) (path : Path) : State :=
  if !s.pathOpen path ∨ holderCode path = 0 then s
  else
    let s := s.set SYS_SNAP_CMD 2
    if s.get SYS_SNAP_STATE = 2 ∧ s.get SYS_SNAP_HOLDER = holderCode path then (s.set SYS_SNAP_STATUS 1).snapFree
    else s.set SYS_SNAP_STATUS 2

/-- SNAP_READY: the copy is complete. -/
def State.snapReady (s : State) : State :=
  if s.get SYS_SNAP_STATE = 1 then
    let n := (s.get SYS_SNAP_SEQ + 1) % 2 ^ 12
    ((((s.set SYS_SNAP_STATE 2).set SYS_SNAP_SEQ n).event 0x0125 0 n).irq 2).onMg fun m => { m with snapReady := s.tb.ticks }
  else s

/-- SNAP_HOLD_EXPIRE: HOLDMAX seconds after READY. -/
def State.snapExpire (s : State) : State :=
  if s.get SYS_SNAP_STATE = 2 ∧ s.mg.snapReady + s.get SYS_SNAP_HOLDMAX * 1000000000 ≤ s.tb.ticks then s.snapFree
  else if s.get SYS_SNAP_STATE = 2 then (match s.reachTick (1000000000 * s.get SYS_SNAP_HOLDMAX + s.mg.snapReady) with
    | some s => s.snapFree
    | none => s)
  else s

def execSnapTake (path : Path) (s : State) : Out := .next (s.snapTake path)
def execSnapRelease (path : Path) (s : State) : Out := .next (s.snapRelease path)
def execSnapReady (s : State) : Out := .next s.snapReady
def execSnapHoldExpire (s : State) : Out := .next s.snapExpire

/-! ### Alarm acknowledgement (R424) -/

/-- A write to SYS_ALARMACK: every acknowledgeable condition of the code, or a refusal. CODE reads the last code written (DESIGN
CHOICE notes/assumptions/61.md). -/
def State.alarmAck (s : State) (path : Path) (code : Nat) : State :=
  if !s.pathOpen path then s
  else
    let code := code % 2 ^ 16
    let s := s.set SYS_ALARMACK_CODE code
    let hit (a : Alarm) : Bool := a.code == code && a.ackable
    let n := (s.mg.alarms.filter hit).length
    if n = 0 then s.set SYS_ALARMACK_STATUS 2
    else (((s.set SYS_ALARMACK_STATUS 1).onMg fun m => { m with alarms := m.alarms.filter fun a => !hit a }).irq 1).event 0x0127 0
      (code + satU 8 n * 2 ^ 16)

def execAlarmAck (path : Path) (code : Nat) (s : State) : Out := .next (s.alarmAck path code)

/-! ### Register writes (R383, R384, R417) -/

/-- The fields a write sets. Of the TDC channels, the references accept none after BOOT, the event inputs take a write from every
path, and channels 24 to 31 from Niloth firmware alone (R60, R61, R80). -/
def writable (fw : Bool) (a : Nat) : List Field :=
  if 0x40100 ≤ a ∧ a < 0x40500 ∨ (0x40700 ≤ a ∧ a < 0x40900 ∧ !fw) then []
  else (regAt a).filterMap fun f => if f.access = .rw then some f.field else none

/-- What follows at once from a live value in force (R80, R89, R179, R304, R361, R465). -/
def State.afterWrite (s : State) (a : Nat) : State :=
  if 0x50000 ≤ a ∧ a < 0x50600 then s.forEach 20 State.srcRows
  else if a = 0x580000 then s.reclaimEval
  else if a = 0x20004 then s.showLf
  else if a = RT_CFG_SIGNQ.addr then s.rtCatch
  else if 0x100000 ≤ a ∧ a < 0x200000 ∧ (a - 0x100000) % 0x8000 = (MAC_LPI_EN 0).addr - 0x100000 then s.lpiWritten ((a - 0x100000) / 0x8000)
  else s

/-- A TDC channel or interval unit whose fields a write has changed keeps the configuration that was in force, as `old` has it, until
the next second boundary (R62, R73). -/
def State.holdOld (s old : State) (a : Nat) : State :=
  if 0x40100 ≤ a ∧ a < 0x40900 then s.holdCh ((a - 0x40100) / 0x40) (old.chCfg ((a - 0x40100) / 0x40))
  else if 0x40900 ≤ a ∧ a < 0x40A00 then s.holdIv ((a - 0x40900) / 0x20) (old.ivCfg ((a - 0x40900) / 0x20))
  else s

/-- A write to live-tunable fields, under clamping (R383). -/
def State.fieldWrite (s : State) (path : Path) (a v : Nat) : State :=
  let fs := writable (match path with | .cp _ => true | _ => false) a
  if fs = [] then s
  else
    let before := s
    let old := fs.map fun F => (F, s.get F)
    let r := fs.foldl (fun (r : State × Bool) F =>
      let x := r.1.mergeField F (2 ^ 32 - 1) v
      (x.1, r.2 || x.2)) (s, false)
    let q := r.1.reclamp depsLive
    let others := q.2.filter fun x => x.1.addr ≠ a
    let own := r.2 || q.2.length ≠ others.length
    let s := if own then q.1.clampLog a v (q.1.word (regAt a)) (pathSource path) else q.1
    let s := others.foldl State.logReclamp s
    if old.all fun x => s.get x.1 == x.2 then s else (s.holdOld before a).afterWrite a

/-- The first `n` bytes of a word go into the staging buffer (R9, R401). -/
def State.stage (s : State) (o n v : Nat) : State :=
  s.onBoot fun b => { b with staging := SMap.setMany 0 b.staging o (((leBytes 4 v).take n).take (0x1000 - o)) }

/-- The commands of the SYS and NVM blocks. -/
def State.sysCommand (s : State) (path : Path) (a v : Nat) : Option State :=
  if a = 0x20 then some (if v % 256 = 1 then s.enterMaint else if v % 256 = 2 then s.exitMaint else s.modeRefused (v % 256))
  else if a = 0x40 then some (s.sysReboot (v % 4))
  else if a = 0x104 then some (s.lcWrite path v)
  else if a = 0x200 then some (if path = .spi then s.wlockWrite v else s)
  else if a = 0x210 then some (s.set SYS_IRQSTAT_SRC (s.get SYS_IRQSTAT_SRC &&& (0x1FF ^^^ (v &&& 0x197))))
  else if a = 0x220 then
    let t := s.fieldWrite path a v
    some (if v % 4 = 1 then t.snapTake path else if v % 4 = 2 then t.snapRelease path else t)
  else if a = 0x250 then some (s.alarmAck path v)
  else if a = 0x700010 then some (s.updWrite path v)
  else if a = 0x700018 then some (if v % 2 = 1 ∧ s.serviceOn then s.confirm false else s)
  else if 0x710000 ≤ a ∧ a < 0x711000 then
    some (s.stage (a - 0x710000) 4 v)
  else none

/-- A staged word of TB_STEP (R40, R43). -/
def State.stepWord (s : State) (path : Path) (a v : Nat) : State :=
  if s.steers path then s.set (TB_STEP_STEP ((a - 0x30030) / 4)) v else s.steerRefused path (a - 0x30000)

/-- The commands of the time base, measurement and output blocks. -/
def State.timeCommand (s : State) (path : Path) (a v : Nat) : Option State :=
  if a = 0x3001C then some (if v % 2 = 1 then s.capture else s)
  else if a = 0x30020 then some (s.incrLo path v)
  else if a = 0x30024 then some (s.incrHi path v)
  else if 0x30030 ≤ a ∧ a ≤ 0x30038 then some (s.stepWord path a v)
  else if a = 0x3003C then some (if v % 4 = 1 then s.stepArm path else if v % 4 = 2 then s.stepCancel path
    else if !s.awake || s.steers path then s else s.steerRefused path 0x3C)
  else if a = 0x30088 then some (s.gcalStart path v)
  else if a = 0x40004 then
    let t := s.fieldWrite path a v
    some (if v / 2 ^ 31 = 1 then t.calRunAll else t)
  else if 0x42000 ≤ a ∧ a < 0x42100 then some (if a % 0x20 = 0x1C ∧ v % 2 = 1 then s.queuePop ((a - 0x42000) / 0x20) else s)
  else if a = 0x60100 then some (s.outAlign (v % 2 ^ 16))
  else none

/-- The commands of the ports. -/
def State.portCommand (s : State) (a v : Nat) : Option State :=
  let p := (a - 0x100000) / 0x8000
  let o := (a - 0x100000) % 0x8000
  if 0x100000 ≤ a ∧ a < 0x200000 ∧ o = 0x1C then some (if v % 2 = 1 then s.thrReset p else s)
  else if 0x100000 ≤ a ∧ a < 0x200000 ∧ o = 0x38 then
    some (s.set (MAC_SAT0_SAT p) (s.get (MAC_SAT0_SAT p) &&& (2 ^ 32 - 1 - v)))
  else if 0x100000 ≤ a ∧ a < 0x200000 ∧ o = 0x3C then
    some (s.set (MAC_SAT1_SAT p) (s.get (MAC_SAT1_SAT p) &&& (2 ^ 16 - 1 - v % 2 ^ 16)))
  else if 0x201000 ≤ a ∧ a < 0x202000 ∧ a % 0x80 = 0x34 then
    some (if v % 2 = 1 then s.tsPop ((a - 0x201000) / 0x80) else s)
  else none

/-- FAB_RETIRE (R242). -/
def State.fabRetire (s : State) (v : Nat) : State :=
  let c := v / 2 ^ 8 % 32
  match v / 2 ^ 16 % 4 with
  | 0 => s.restoreCluster c
  | 1 => s.retireCluster c
  | 2 => s.retireEngine c (v % 64)
  | _ => s.restoreEngine c (v % 64)

/-- The commands of the timestamp, fabric and service blocks; a control processor submits at its own register (R321, R402). -/
def State.serviceCommand (s : State) (path : Path) (a v : Nat) : Option State :=
  if a = 0x200004 then
    let t := s.fieldWrite path a v
    some (if v / 2 ^ 31 = 1 then t.auditClear else t)
  else if a = 0x300004 then some (s.fabRetire v)
  else if a = 0x300008 then some (if v % 2 = 1 then s.dirtySwap else s)
  else if a = 0x440020 then some (if v % 2 = 1 then s.ntsRotate else s)
  else if a = 0x500044 then some (s.tslAbort v)
  else if a = 0x500048 then some (if v / 2 ^ 16 % 2 = 1 then s.tslRetire (v % 16) else s.tslRestore (v % 16))
  else if a = 0x580068 then some (if v % 256 = 1 then s.leaseReleaseCmd else if v % 256 = 2 then s.leaseResyncCmd
    else s.leaseCmd (v % 256) false)
  else match path with
    | .cp c => if c < 5 ∧ a = (TSL_SUBMIT_PART c).addr then some (s.tslSubmit path c v []) else none
    | _ => none

/-- PM_CMD: what the device reads on AVSBus is not known beforehand (DEDUCED notes/assumptions/24.md). -/
def State.pmCommand (s : State) (v : Nat) : State :=
  match v % 256 with
  | 1 => s.pmRaise
  | 2 => s.drawn.pmAvsRetry (s.draw % 2 == 0)
  | _ => s

/-- The commands of the self-test, counter and power blocks. -/
def State.testCommand (s : State) (path : Path) (port : Option (Fin 32)) (a v : Nat) : Option State :=
  if a = 0x600000 then
    some (if v % 4 = 1 then s.bistStart path (v / 2 ^ 16 % 128) port else if v % 4 = 2 then s.bistStop (v / 2 ^ 16 % 128) else s)
  else if a = 0x680000 ∨ (0x681000 ≤ a ∧ a < 0x685000 ∧ (a - 0x681000) % 0x1000 < 0x100) then some (s.perfSelWrite path a v)
  else if a = 0x20018 then some (s.pmCommand v)
  else none

/-- The command of an address, if it is a command register. -/
def State.command (s : State) (path : Path) (port : Option (Fin 32)) (a v : Nat) : Option State :=
  match s.sysCommand path a v with
  | some t => some t
  | none => match s.timeCommand path a v with
    | some t => some t
    | none => match s.portCommand a v with
      | some t => some t
      | none => match s.serviceCommand path a v with
        | some t => some t
        | none => s.testCommand path port a v

/-- A write of one word: in BOOT the SYS block alone accepts it (R384, R401). The window of the association store ignores a
write and logs it (R231). -/
def State.regWrite (s : State) (path : Path) (port : Option (Fin 32)) (a v : Nat) : State :=
  let v := v % 2 ^ 32
  if !s.pathOpen path then s
  else if s.locked path ∧ a ≠ 0x200 then s.lockDiscard path
  else if s.mode = .boot ∧ 0x1000 ≤ a then s
  else if !s.lives a then s
  else if 0x10000000 ≤ a ∧ a < 0x13420000 then s.windowWrite a
  else if a % 4 ≠ 0 ∧ !isWindow a then s
  else match s.command path port a v with
  | some t => t
  | none => s.fieldWrite path a v

/-- Write words in address order. -/
def State.writeMany (s : State) (path : Path) (port : Option (Fin 32)) (a : Nat) : List Nat → State
  | [] => s
  | v :: t => (s.regWrite path port a v).writeMany path port (a + 4) t

/-- A write narrower than a word: nothing in register space; in the staging buffer its bytes, under the rules of any write (R9,
R401). -/
def State.narrowWrite (s : State) (path : Path) (a n v : Nat) : State :=
  if !s.pathOpen path then s
  else if s.locked path then s.lockDiscard path
  else if s.mode = .boot then s
  else if 0x710000 ≤ a ∧ a < 0x711000 then s.stage (a - 0x710000) n v
  else if 0x10000000 ≤ a ∧ a < 0x13420000 then s.windowWrite a
  else s

/-- A write of a size. -/
def State.writeAs (s : State) (path : Path) (a v : Nat) (size : Size) : State :=
  match size with
  | .word => s.regWrite path none a v
  | .half => s.narrowWrite path a 2 v
  | .byte => s.narrowWrite path a 1 v

def execRegisterWrite (path : Path) (a : Place) (v : Nat) (s : State) : Out := .next (s.writeAs path a.addr v a.size)

end Sys2Proof.Machine
end

