-- ==== Sys2Proof/Machine/Host.lean ====
section
/-! DEFINITION. The host's two paths and the event-log writer (spec/15_management_readback.md R405 to R416, R422, R423): the SPI
target and OMP. -/
namespace Sys2Proof.Machine

/-! ### SPI target (R405 to R408) -/

/-- Four bytes a word, lowest address first (R406). -/
def wordBytes (l : List Nat) : List Byte := l.flatMap (leBytes 4)
def bytesWords : Nat → List Byte → List Nat
  | 0, _ => []
  | n + 1, b => leNat (b.take 4) :: bytesWords n (b.drop 4)

/-- Part of a range of `n` words is unmapped. -/
def holes (a n : Nat) : Bool := (List.range n).any fun i => !mapped (a + 4 * i)

/-- The SPI target answers outside OFF. -/
def State.spiOn (s : State) : Bool := s.mode ≠ .off

/-- The STATUS byte of a transaction, and the state that has reported an early end. -/
def State.spiStatus (s : State) (crc lock hole : Bool) : Nat × State :=
  ((if crc then 1 else 0) + (if lock then 2 else 0) + (if hole then 4 else 0) + (if s.mg.spiEarly then 8 else 0),
   s.onMg fun m => { m with spiEarly := false })

/-- START, STATUS, data and CRC. -/
def spiResponse (status : Nat) (data : List Byte) : List Byte :=
  let b := BitVec.ofNat 8 status :: data
  0xA5 :: b ++ [BitVec.ofNat 8 (crc8 b)]

/-- A CRC error is counted and logged (R407). -/
def State.spiCrcError (s : State) : State := (s.bump SYS_SPISTAT_CRCERR 1).noteSec 0x0120 0

/-- The address and word count of a header. -/
def spiAddr (b : List Byte) : Nat := beNat (slice b 1 4)
def spiWords (b : List Byte) : Nat := beNat (slice b 5 1) + 1

/-- The CRC over all but the last byte checks. -/
def spiCrcOk (b : List Byte) : Bool := crc8 b.dropLast == beNat (b.drop (b.length - 1))

def writeOp (b : List Byte) : Bool := b.take 1 == [0x02] || b.take 1 == [0x32]
def readOp (b : List Byte) : Bool := b.take 1 == [0x0B] || b.take 1 == [0x6B]

/-- A lock discards some word of a write. -/
def State.meetsLock (s : State) (path : Path) (port : Option (Fin 32)) (a : Nat) : List Nat → Bool
  | [] => false
  | v :: t => (s.pathOpen path && s.locked path && a ≠ 0x200) || (s.regWrite path port a v).meetsLock path port (a + 4) t

/-- SPI_WRITE: a whole WRITE transaction. -/
def State.spiWrite (s : State) (b : List Byte) : State :=
  if !s.spiOn || !writeOp b || b.length ≠ 7 + 4 * spiWords b then s
  else if !spiCrcOk b then
    let r := s.spiCrcError.spiStatus true false false
    r.2.emit (.spi (spiResponse r.1 []))
  else
    let a := spiAddr b
    let n := spiWords b
    let w := bytesWords n (b.drop 6)
    let lock := s.meetsLock .spi none a w
    let t := s.writeMany .spi none a w
    let r := t.spiStatus false lock (holes a n)
    r.2.emit (.spi (spiResponse r.1 []))

/-- The response to a READ, stored until the next one. -/
def State.spiFetch (s : State) (b : List Byte) : State :=
  if !spiCrcOk b then
    let r := s.spiCrcError.spiStatus true false false
    r.2.onMg fun m => { m with spiStored := spiResponse r.1 [] }
  else
    let r := s.readMany (spiAddr b) (spiWords b)
    let q := r.2.spiStatus false false (holes (spiAddr b) (spiWords b))
    q.2.onMg fun m => { m with spiStored := spiResponse q.1 (wordBytes r.1) }

/-- SPI_REPLAY: the stored response, unchanged. -/
def State.spiReplay (s : State) : State := if !s.spiOn || s.mg.spiStored == [] then s else s.emit (.spi s.mg.spiStored)

/-- SPI_READ. -/
def State.spiRead (s : State) (b : List Byte) : State :=
  if !s.spiOn || !readOp b || b.length ≠ 7 then s else (s.spiFetch b).spiReplay

/-- SPI_CS_EARLY_RISE: a READ whose header is complete has fetched its words; anything shorter is not executed. -/
def State.spiEarlyRise (s : State) (b : List Byte) : State :=
  if !s.spiOn then s
  else if readOp b && decide (7 ≤ b.length) then s.spiFetch (b.take 7)
  else if readOp b || (writeOp b && (decide (b.length < 6) || decide (b.length < 7 + 4 * spiWords b))) then
    s.onMg fun m => { m with spiEarly := true }
  else s

/-- SPI_BAD_OPCODE. -/
def State.spiBad (s : State) : State := if s.spiOn then s.bump SYS_SPISTAT_BADOP 1 else s

def execSpiWrite (b : List Byte) (s : State) : Out := .next (s.spiWrite b)
def execSpiRead (b : List Byte) (s : State) : Out := .next (s.spiRead b)
def execSpiCsEarlyRise (b : List Byte) (s : State) : Out := .next (s.spiEarlyRise b)
def execSpiReplay (s : State) : Out := .next s.spiReplay
def execSpiBadOpcode (s : State) : Out := .next s.spiBad

/-! ### OMP messages (R409 to R411) -/

/-- HMAC-SHA-256 as bytes. -/
def hmacBytes (key data : List Byte) : List Byte := beBytes 32 (Config.hmac256 key data).toNat

/-- A message with its trailer. -/
def ompMessage (key : List Byte) (ver type session seq : Nat) (body : List Byte) : List Byte :=
  let m := [0x4F, 0x4D] ++ beBytes 1 ver ++ beBytes 1 type ++ beBytes 4 body.length ++ beBytes 4 session ++ beBytes 4 seq ++ body
  m ++ hmacBytes key m

/-- The largest body of a transport (R409). -/
def ompLimit (transport : Nat) : Nat := if transport = 1 then 65536 else 1024

end Sys2Proof.Machine

namespace Sys2Proof

/-- The fields of a message. -/
def OmpIn.type (m : OmpIn) : Nat := Machine.beNat (Machine.slice m.bytes 3 1)
def OmpIn.len (m : OmpIn) : Nat := Machine.beNat (Machine.slice m.bytes 4 4)
def OmpIn.id (m : OmpIn) : Nat := Machine.beNat (Machine.slice m.bytes 8 4)
def OmpIn.seq (m : OmpIn) : Nat := Machine.beNat (Machine.slice m.bytes 12 4)
def OmpIn.body (m : OmpIn) : List Byte := (m.bytes.drop 16).take (m.bytes.length - 48)

/-- The trailer checks under a key. -/
def OmpIn.signed (m : OmpIn) (key : List Byte) : Bool :=
  Machine.hmacBytes key (m.bytes.take (m.bytes.length - 32)) == m.bytes.drop (m.bytes.length - 32)

/-- LEN agrees with the frame and with the transport's limit (R409, R415). -/
def OmpIn.lenOk (m : OmpIn) : Bool := decide (m.bytes.length = m.len + 48) && decide (m.len ≤ Machine.ompLimit m.transport)

end Sys2Proof

namespace Sys2Proof.Machine

/-- The OMP key, while it is held and the tamper latch is clear (R394, R409). -/
def State.ompKey (s : State) : Option (List Byte) := (s.keyValue 1).map (beBytes 32)

/-- A message reaches the management partition: its transport is enabled, over IP it goes to an entry of KIND 1, its port is up, and in
SAFE is the management port; a cluster of the partition serves. -/
def State.ompReaches (s : State) (m : OmpIn) : Bool :=
  let on : Bool := match m.transport.val with
    | 0 => s.is SYS_OMPCFG_UDP
    | 1 => s.is SYS_OMPCFG_TCP
    | _ => s.is SYS_OMPCFG_L2
  on && (m.transport == 2 || s.ipKind m.port m.peer.vlan m.peer.self == some 1) && s.portUp m.port && (s.mode ≠ .safe || s.mgmtPort == some m.port.val) && s.serving 1 ≠ [] &&
    decide (48 ≤ m.bytes.length) && m.bytes.take 2 == [0x4F, 0x4D]

/-! ### Sessions (R412 to R415) -/

def State.ompSession (s : State) (k : Nat) : Option OmpSession := SMap.get none s.mg.sessions k
def State.setOmpSession (s : State) (k : Nat) (x : Option OmpSession) : State :=
  s.onMg fun m => { m with sessions := SMap.set none m.sessions k x }

/-- The slot of an open session. -/
def State.ompSlot (s : State) (id : Nat) : Option Nat :=
  (List.range 8).find? fun k => s.is (SYS_OMPSESS_OPEN k) && s.get (SYS_OMPSESS_ID k) == id

/-- FRAME_RX goes to the most recent subscription with frames (R416). -/
def State.showFrames (s : State) : State :=
  let order (k : Nat) : Nat := (s.ompSession k).elim 0 (·.subOrder)
  s.forEach 8 fun s k => s.setb (SYS_OMPSESS_FRAMES k) (order k ≠ 0 && (List.range 8).all fun j => order j ≤ order k)

/-- A session closes: cause 0 CLOSE, 1 idle, 2 TCP, 3 BOOT. -/
def State.ompCloseSlot (s : State) (k cause : Nat) : State :=
  if !s.is (SYS_OMPSESS_OPEN k) then s
  else
    let arg := k + s.get (SYS_OMPSESS_TRANSPORT k) * 2 ^ 9 + s.get (SYS_OMPSESS_VER k) * 2 ^ 16 + cause * 2 ^ 24
    let s := ((s.setOmpSession k none).event 0x0123 0 arg).irq 8
    let s := ((s.set (SYS_OMPSESS_OPEN k) 0).set (SYS_OMPSESS_TRANSPORT k) 0).set (SYS_OMPSESS_SUBSEV k) 0
    (((s.set (SYS_OMPSESS_VER k) 0).set (SYS_OMPSESS_PORT k) 0).set (SYS_OMPSESS_ID k) 0).showFrames

/-- A message of the device in a session, and the state that has counted it. -/
def State.ompBuild (s : State) (k type : Nat) (body : List Byte) : List Byte × State :=
  match s.ompSession k with
  | none => ([], s)
  | some x =>
    (ompMessage (beBytes 32 x.key.toNat) (s.get (SYS_OMPSESS_VER k)) type (s.get (SYS_OMPSESS_ID k)) (x.devSeq + 1) body,
     s.setOmpSession k (some { x with devSeq := (x.devSeq + 1) % 2 ^ 32 }))

/-- A message as frames of its transport, in class 6 (R167, R171, R409). -/
def State.ompSend (s : State) (p transport : Nat) (x : Far) (seq : Nat) (b : List Byte) : State :=
  match transport with
  | 0 => s.peerSend p x 17 (udpBytes x.self x.addr (s.get SYS_OMPCFG_PORT) x.port b)
  | 1 => s.tcpStream p x (s.get SYS_OMPCFG_PORT) seq 0x18 (b.length / 1024) b
  | _ => s.originate p 6 (ethHeader x.mac (s.macAddr p) (s.vlanTags p x.vlan) (s.get SYS_OMPETYPE_ETYPE) ++ b) {} none

/-- A message of a session goes out, next in its stream when it has one. -/
def State.ompOut (s : State) (k p transport : Nat) (x : Far) (b : List Byte) : State :=
  match s.ompSession k with
  | none => s
  | some o => (s.setOmpSession k (some { o with snd := (o.snd + b.length) % 2 ^ 32 })).ompSend p transport x o.snd b

/-- A message without a session: where a stream begins is a free value (DESIGN CHOICE notes/assumptions/59.md). -/
def State.ompSingle (s : State) (m : OmpIn) (b : List Byte) : State := s.drawn.ompSend m.port m.transport m.peer (s.draw % 2 ^ 32) b

/-- Send a message of the device in a session that still stands. -/
def State.ompPush (s : State) (k type : Nat) (body : List Byte) : State :=
  match s.ompSession k with
  | none => s
  | some x =>
    let r := s.ompBuild k type body
    r.2.ompOut k (s.get (SYS_OMPSESS_PORT k)) (s.get (SYS_OMPSESS_TRANSPORT k)) x.peer r.1

/-- Answer a message of a session by the way it came, and keep the answer (R414). -/
def State.ompAnswer (s : State) (k : Nat) (m : OmpIn) (type : Nat) (body : List Byte) : State :=
  if (s.ompSession k).isNone then s
  else
    let r := s.ompBuild k type body
    let s := r.2.setOmpSession k ((r.2.ompSession k).map fun x => { x with answers := ((m.seq, r.1) :: x.answers).take 16 })
    s.ompOut k m.port m.transport m.peer r.1

/-- The body of a NAK. -/
def nakBody (m : OmpIn) (reason : Nat) : List Byte := beBytes 4 reason ++ beBytes 1 m.type ++ beBytes 3 0 ++ beBytes 4 m.seq

/-- A NAK in a session, and one without a session under the OMP key. -/
def State.ompNak (s : State) (k : Nat) (m : OmpIn) (reason : Nat) : State := (s.bump SYS_OMPSTAT_NAK 1).ompAnswer k m 8 (nakBody m reason)
def State.ompNakOut (s : State) (key : List Byte) (m : OmpIn) (reason : Nat) : State :=
  (s.bump SYS_OMPSTAT_NAK 1).ompSingle m (ompMessage key 0 8 m.id 1 (nakBody m reason))

/-- A failed HMAC is dropped, counted and logged (R414). -/
def State.ompAuthFail (s : State) : State := (s.bump SYS_OMPSTAT_AUTHFAIL 1).noteSec 0x0122 0

/-- The versions of R413, and the highest one in a range. -/
def ompVersion (lo hi : Nat) : Option Nat := [0x21, 0x20, 0x11, 0x10].find? fun v => lo ≤ v && v ≤ hi

/-- A session opens in slot `k` (R412). -/
def State.ompOpenSlot (s : State) (k ver : Nat) (m : OmpIn) (key : List Byte) : State :=
  let r := s.rand 128
  let q := r.2.rand 32
  let id := 1 + q.1 % (2 ^ 32 - 1)
  let nd := beBytes 16 r.1
  let ks := Config.hmac256 key (chars "ORF9620 OMP" ++ m.body.take 16 ++ nd ++ beBytes 4 id)
  let s := q.2.setOmpSession k (some { key := ks, seen := [m.seq], devSeq := 1, lastActive := q.2.tb.ticks, conn := m.conn,
                                          peer := m.peer, snd := q.2.draw % 2 ^ 32 })
  let s := ((s.set (SYS_OMPSESS_OPEN k) 1).set (SYS_OMPSESS_TRANSPORT k) m.transport).set (SYS_OMPSESS_VER k) ver
  let s := ((s.set (SYS_OMPSESS_PORT k) m.port).set (SYS_OMPSESS_ID k) id).event 0x0123 0
    (k + 2 ^ 8 + m.transport * 2 ^ 9 + ver * 2 ^ 16)
  let body := nd ++ beBytes 1 ver ++ beBytes 1 (s.get SYS_OMPCFG_WRITE) ++ beBytes 2 (s.get SYS_OMPCFG_IDLE)
  (s.irq 8).drawn.ompOut k m.port m.transport m.peer (ompMessage key ver 2 id 1 body)

/-- The TCP connection carries a session already (R409). -/
def State.connBusy (s : State) (m : OmpIn) : Bool :=
  m.transport == 1 && (List.range 8).any fun k =>
    s.get (SYS_OMPSESS_TRANSPORT k) == 1 && (s.ompSession k).any fun x => x.conn == m.conn

/-- OMP_OPEN. -/
def State.ompOpen (s : State) (m : OmpIn) : State :=
  match s.ompReaches m && m.type == 1, s.ompKey with
  | true, some key =>
    if !m.signed key then s.ompAuthFail
    else if !m.lenOk ∨ m.len ≠ 20 then s.ompNakOut key m 6
    else
      let lo := beNat (slice m.body 16 1)
      let hi := beNat (slice m.body 17 1)
      match ompVersion lo hi with
      | none => (s.event 0x0124 1 (lo + hi * 2 ^ 8)).ompNakOut key m 2
      | some v =>
        if m.transport = 1 ∧ v < 0x20 then (s.ompNakOut key m 2).tcpSend m.port m.peer (s.get SYS_OMPCFG_PORT)
          ((s.draw % 2 ^ 32 + 60) % 2 ^ 32) 0x11 []
        else match (List.range 8).find? fun k => !s.is (SYS_OMPSESS_OPEN k) with
        | none => s.ompNakOut key m 4
        | some k => if s.connBusy m then s.ompNakOut key m 4 else s.ompOpenSlot k v m key
  | _, _ => s

def execOmpOpen (m : OmpIn) (s : State) : Out := .next (s.ompOpen m)

/-- A SEQ joins the 64 highest ones received. -/
def seenWith (l : List Nat) (q : Nat) : List Nat := ((l.filter fun x => q < x) ++ q :: l.filter fun x => x < q).take 64

/-- The first version of each type of a host's session messages (R411). -/
def typeVersion : Nat → Option Nat
  | 0x03 | 0x05 | 0x07 => some 0x10
  | 0x09 => some 0x11
  | 0x0C => some 0x20
  | 0x0D => some 0x21
  | _ => none

/-- The LEN of a message fits its type, and its word count is not 0. -/
def ompShape (m : OmpIn) : Bool :=
  let n := beNat (slice m.body 4 4)
  m.lenOk && match m.type with
    | 0x03 | 0x0D => m.len == 8 && decide (1 ≤ n) && decide (4 + 4 * n ≤ ompLimit m.transport)
    | 0x05 => m.len == 8 + 4 * n && decide (1 ≤ n)
    | 0x09 => m.len == 4
    | 0x07 => m.len == 0
    | _ => true

/-- Writes over OMP are permitted and not locked (R415). -/
def State.ompWrites (s : State) : Bool := s.is SYS_OMPCFG_WRITE && !s.is SYS_WLOCK_OMP

/-- A new message of a session is served, or refused by name (R413 to R415); a WRITE that the lock keeps out has its words counted (R404;
DEDUCED notes/assumptions/64.md). -/
def State.ompServe (s : State) (k : Nat) (m : OmpIn) (f : State → State) : State :=
  let known : Bool := match typeVersion m.type with
    | some v => decide (v ≤ s.get (SYS_OMPSESS_VER k))
    | none => false
  if !known then s.ompNak k m 3
  else if !ompShape m then s.ompNak k m 6
  else if (m.type = 5 ∨ m.type = 0x0C) ∧ !s.ompWrites then
    (if m.type = 5 ∧ s.is SYS_WLOCK_OMP then s.forEach (beNat (slice m.body 4 4)) fun s _ => s.lockDiscard .omp else s).ompNak k m 5
  else f s

/-- The acceptance rules of R414. -/
def State.ompAccept (s : State) (m : OmpIn) (f : Nat → State → State) : State :=
  match s.ompReaches m, s.ompKey with
  | true, some key =>
    (match s.ompSlot m.id with
    | none => if m.signed key then s.ompNakOut key m 1 else s.ompAuthFail
    | some k => match s.ompSession k with
      | none => s
      | some x =>
        if !m.signed (beBytes 32 x.key.toNat) then s.ompAuthFail
        else if x.seen.contains m.seq then (match x.answers.find? fun a => a.1 == m.seq with
          | some a => s.ompOut k m.port m.transport m.peer a.2
          | none => s)
        else if x.seen.length = 64 ∧ x.seen.all fun q => decide (m.seq < q) then s
        else
          let s := s.setOmpSession k (some { x with seen := seenWith x.seen m.seq, lastActive := s.tb.ticks })
          s.ompServe k m (f k))
  | _, _ => s

/-- A message of one type. -/
def State.ompRx (s : State) (type : Nat) (m : OmpIn) (f : Nat → State → State) : State := if m.type = type then s.ompAccept m f else s

/-! ### Session messages (R411, R415, R416) -/

/-- The address and word count in a body. -/
def ompAddr (m : OmpIn) : Nat := beNat (m.body.take 4)
def ompWords (m : OmpIn) : Nat := beNat (slice m.body 4 4)

/-- READ_RESP. -/
def State.ompRead (s : State) (m : OmpIn) (k : Nat) : State :=
  let r := s.readMany (ompAddr m) (ompWords m)
  r.2.ompAnswer k m 4 (beBytes 4 (if holes (ompAddr m) (ompWords m) then 4 else 0) ++ wordBytes r.1)

/-- WRITE_ACK, when the session outlives the write. -/
def State.ompWrite (s : State) (m : OmpIn) (k : Nat) : State :=
  let t := s.writeMany .omp (some m.port) (ompAddr m) (bytesWords (ompWords m) (m.body.drop 8))
  t.ompAnswer k m 6 (beBytes 4 (if holes (ompAddr m) (ompWords m) then 4 else 0) ++ beBytes 4 (ompWords m))

/-- READ_GROUP: the read of R74; a group whose sequence words differ gives status bit 3 and no data. -/
def State.ompReadGroup (s : State) (m : OmpIn) (k : Nat) : State :=
  let hole := if holes (ompAddr m) (ompWords m) then 4 else 0
  if s.wordAt (ompAddr m) = s.wordAt ((ompAddr m) + 4 * ((ompWords m) - 1)) then
    let r := s.readMany (ompAddr m) (ompWords m)
    r.2.ompAnswer k m 4 (beBytes 4 hole ++ wordBytes r.1)
  else s.ompAnswer k m 4 (beBytes 4 (hole + 8))

/-- SUBSCRIBE; it has no answer. -/
def State.ompSubscribe (s : State) (m : OmpIn) (k : Nat) : State :=
  let frames := decide (0x20 ≤ s.get (SYS_OMPSESS_VER k)) && (beNat (slice m.body 1 1)).testBit 0
  let n := s.mg.subCount + 1
  let s := s.onMg fun g => { g with subCount := n }
  let s := s.setOmpSession k ((s.ompSession k).map fun x => { x with subOrder := if frames then n else 0 })
  (s.set (SYS_OMPSESS_SUBSEV k) (min 4 (beNat (m.body.take 1)))).showFrames

/-- A FRAME_TX that is not emitted (R416). -/
def State.frameRefused (s : State) (p : Nat) (d : TxDesc) (frame : List Byte) : Bool :=
  (d.op ≠ 0 && d.op ≠ 5) || !s.portExists p || decide (s.get (MAC_CFG_MAXLEN p) < frame.length + 4)

/-- FRAME_TX, answered by FRAME_ACK. -/
def State.ompFrameTx (s : State) (m : OmpIn) (p cls : Nat) (d : TxDesc) (frame : List Byte) (k : Nat) : State :=
  if s.frameRefused p d frame then s.ompAnswer k m 0x0E (beBytes 4 0x10 ++ beBytes 4 d.tag)
  else (s.submit { port := p, cls := cls, bytes := frame, desc := d, host := true }).ompAnswer k m 0x0E (beBytes 4 0 ++ beBytes 4 d.tag)

/-- OMP_READ; a message of a type that no host sends arrives with it, and is refused. -/
def State.ompReadRx (s : State) (m : OmpIn) : State :=
  if m.type ≠ 1 ∧ (typeVersion m.type).isNone ∨ m.type = 3 then s.ompAccept m fun k s => s.ompRead m k else s

def execOmpRead (m : OmpIn) (s : State) : Out := .next (s.ompReadRx m)
def execOmpWrite (m : OmpIn) (s : State) : Out := .next (s.ompRx 5 m fun k s => s.ompWrite m k)
def execOmpReadGroup (m : OmpIn) (s : State) : Out := .next (s.ompRx 0x0D m fun k s => s.ompReadGroup m k)
def execOmpSubscribe (m : OmpIn) (s : State) : Out := .next (s.ompRx 9 m fun k s => s.ompSubscribe m k)
def execOmpClose (m : OmpIn) (s : State) : Out := .next (s.ompRx 7 m fun k s => s.ompCloseSlot k 0)
def execOmpFrameTx (m : OmpIn) (p : Fin 32) (cls : Fin 8) (d : TxDesc) (frame : List Byte) (s : State) : Out :=
  .next (s.ompRx 0x0C m fun k s => s.ompFrameTx m p cls d frame k)

/-- OMP_IDLE_TIMEOUT: IDLE seconds without an accepted message (R412). -/
def State.ompIdle (s : State) (k : Nat) : State :=
  match s.ompSession k with
  | none => s
  | some x => match s.reachTick (1000000000 * s.get SYS_OMPCFG_IDLE + x.lastActive) with
    | some s => s.ompCloseSlot k 1
    | none => s

/-- OMP_CONNECTION_END. -/
def State.ompConnEnd (s : State) (conn : Nat) : State :=
  s.forEach 8 fun s k =>
    if s.get (SYS_OMPSESS_TRANSPORT k) = 1 ∧ (s.ompSession k).any fun x => x.conn == conn then s.ompCloseSlot k 2 else s

def execOmpIdleTimeout (k : Fin 8) (s : State) : Out := .next (s.ompIdle k)
def execOmpConnectionEnd (conn : Nat) (s : State) : Out := .next (s.ompConnEnd conn)

/-- FORWARD, in the management partition only (R205, R224, R416): FRAME_RX to the session that receives frames, with a catch record
of the same tag; without one the frame is discarded. -/
def State.forward (s : State) (g : Eng) : State :=
  s.onRun g fun _ q =>
    if q.part ≠ 1 then s
    else
      let s := s.perfEv 0x23 g.c 1
      let s := match (List.range 8).find? fun k => s.is (SYS_OMPSESS_FRAMES k) with
        | none => s
        | some k =>
          let tag := q.port * 2 ^ 27 + q.seq % 2 ^ 27
          (s.tsRecord q.port { t := q.stamp, tag := tag, launch := false }).ompPush k 0x0B
            (beBytes 4 tag ++ beBytes 8 (s.metaWord q) ++ q.bytes.take (q.bytes.length - 4))
      s.endRequest g

def execForwardFrame (g : Eng) (s : State) : Out := .next ((s.ran g 8).forward g)

/-! ### The event-log writer (R422, R423) -/

/-- The source the writer serves next: in rotating order, one that has an event. -/
def State.nextLogSource (s : State) : Option (Nat × List EventRec) :=
  match s.mg.evPending.find? fun x => decide (s.mg.evRot < x.1) with
  | some x => some x
  | none => s.mg.evPending.head?

/-- The entry that the log holds at slot `j`, as bytes (R411, R422). -/
def State.logEntry (s : State) (j : Nat) : List Byte := wordBytes ((List.range 8).map fun i => s.word (regAt (0x1800000 + 0x20 * j + 4 * i)))

/-- Write an entry. -/
def State.writeEntryLog (s : State) (e : EventRec) (drop : Nat) : State :=
  let k := (s.get SYS_EVTSEQ_SEQ + 1) % 2 ^ 32
  let j := k % 4096
  let s := (((s.set (EVLOG_SEQB j) k).setTs (EVLOG_TIME j) e.time).set (EVLOG_SEV j) e.sev).set (EVLOG_DROPN j) (satU 12 drop)
  let s := ((((s.set (EVLOG_CODE j) e.code).set (EVLOG_ARG j) e.arg).set (EVLOG_SEQA j) k)).set SYS_EVTSEQ_SEQ k
  let s := if s.get SYS_IRQCFG_MINSEV ≤ e.sev then s.irq 0 else s
  s.forEach 8 fun s n =>
    if 1 ≤ s.get (SYS_OMPSESS_SUBSEV n) ∧ s.get (SYS_OMPSESS_SUBSEV n) ≤ e.sev + 1 then s.ompPush n 0x0A (s.logEntry j) else s

/-- EVENT_LOG_WRITE. -/
def State.logWrite (s : State) : State :=
  match s.nextLogSource with
  | some (src, e :: t) =>
    let lost := SMap.get 0 s.mg.evLost src
    let s := s.onMg fun m => { m with evPending := SMap.set [] m.evPending src t, evLost := SMap.set 0 m.evLost src 0, evRot := src }
    s.writeEntryLog e lost
  | _ => s

def execEventLogWrite (s : State) : Out := .next s.logWrite

end Sys2Proof.Machine
end

