-- ==== Sys2Proof/Machine/Jtag.lean ====
section
/-! DEFINITION. Boundary scan (spec/19_package_electrical.md R498, R499). -/
namespace Sys2Proof.Machine

/-- The identification code: version 2, part 0x9620, manufacturer 0x5A5, and a one (R498). -/
def jtagId : Nat := 0x29620B4B

/-- What the selected data register captures: the identification code and its length, the bypass bit, or the cells. -/
def Jtag.captured (j : Jtag) : Nat × Nat :=
  if j.ir = 0x01 then (jtagId, 32)
  else if j.ir = 0x00 ∨ j.ir = 0x02 then (j.cells.foldr (fun b n => 2 * n + (if b then 1 else 0)) 0, j.cells.length)
  else (0, 1)

/-- The instruction register takes a code, and what it puts the balls under: 0 their functional drivers. -/
def State.tap (s : State) (ir drive : Nat) : State :=
  if s.mode = .off then s else s.onJtag fun j => { j with ir := ir, drive := drive }

/-- EXTEST, CLAMP and HIGHZ take control in BACKUP and SAFE only, and are BYPASS elsewhere (R499). -/
def State.tapDrive (s : State) (ir drive : Nat) : State :=
  if s.mode = .backup ∨ s.mode = .safe then s.tap ir drive else s.tap 0xFF 0

/-- The cells are preloaded. -/
def State.tapPreload (s : State) (cells : List Bool) : State :=
  if s.mode = .off then s else (s.tap 0x02 0).onJtag fun j => { j with cells := cells }

def execJtagBypass (s : State) : Out := .next (s.tap 0xFF 0)
def execJtagIdcode (s : State) : Out := .next (s.tap 0x01 0)
def execJtagSamplePreload (cells : List Bool) (s : State) : Out := .next (s.tapPreload cells)
def execJtagExtest (s : State) : Out := .next (s.tapDrive 0x00 1)
def execJtagClamp (s : State) : Out := .next (s.tapDrive 0x04 2)
def execJtagHighz (s : State) : Out := .next (s.tapDrive 0x08 3)

end Sys2Proof.Machine
end

