-- ==== Sys2Proof/Machine/Boundary.lean ====
section
/-! DEFINITION. The second boundary (spec/02_time_base.md R35, R43 to R49, R57; spec/04_references_holdover_outputs.md R86, R93, R100,
R103, R105): every rule that acts at it, in one row. -/
namespace Sys2Proof.Machine

/-! ### Replicas (R48, R49) -/

/-- At a second boundary a replica loads the sync word's SEC; one that was flagged is reloaded whole. -/
def State.loadReplicas (s : State) : State :=
  let m := s.master
  let load (t : Tb) (n : Nat) : TbCount := if t.repAdd.getD n 0 ≠ 0 then m else { t.reps.getD n m with sec := m.sec }
  s.onTb fun t => { t with reps := (List.range 4).map (load t) }

/-- The offset measured of replica `n`, in ps: its trim, whose law the spec does not state, holds it within 20 ps
(DESIGN CHOICE notes/assumptions/31.md); beyond 200 ps the replica is flagged, until it has measured within 20 ps for 10 seconds. -/
def State.judgeReplica (s : State) (n : Nat) (o : Int) : State :=
  let s := (s.seti (TB_REP_OFFSET n) o).bistOffset n o
  let set (l : List Nat) (v : Nat) := l.set n v
  if 200 < o.natAbs then
    let s := ((s.setBit TB_STATUS_REPFLAG n true).set (TB_REP_TRIM n) 0).event 0x0307 2 (n + ofSigned 16 (satSigned 16 o) * 2 ^ 16)
    s.onTb fun t => { t with repGood := set t.repGood 0, repAdd := set t.repAdd o.natAbs }
  else
    let s := if 20 < o.natAbs then (s.set (TB_REP_TRIM n) s.draw).drawn else s
    let g := if 20 < o.natAbs then 0 else s.tb.repGood.getD n 0 + 1
    let s := s.onTb fun t => { t with repGood := set t.repGood g }
    if s.bit TB_STATUS_REPFLAG n ∧ 10 ≤ g then
      (s.setBit TB_STATUS_REPFLAG n false).onTb fun t => { t with repAdd := set t.repAdd 0 }
    else s

/-- The four replicas. -/
def State.replicas (s : State) (os : List Int) : State := s.forEach 4 fun s n => match os[n]? with
  | some o => s.judgeReplica n o
  | none => s

/-! ### Sources and holdover -/

/-- The seconds left of every wait-to-restore (R93). -/
def State.showWtr (s : State) : State :=
  s.forEach 20 fun s k =>
    if s.srcState k = 3 then
      let x := s.src k
      s.srcGroup k fun s => s.set (SEL_SRC_WTRLEFT k) (x.wtrLen - (s.tb.ticks - x.wtrFrom) / 1000000000)
    else s

/-- The thermistor sum of R103, while the class is HOLDOVER. -/
def State.sumTherm (s : State) : State :=
  if s.sel.cls = 5 then
    let d := (toSigned 32 s.pw.therm - s.refTemp).natAbs
    s.onSel fun x => { x with sumT := x.sumT + d }
  else s

/-- In holdover the frequency part that cancels y(t) is written (R100). -/
def State.holdoverSteer (s : State) : State :=
  if s.fwSteers && s.warmRuns && s.active.isNone && s.is SEL_STATUS_EVERACTIVE then
    s.commitIncr (clampIncr (2 ^ 40 - nearestDiv (s.modelY * 2 ^ 40) (10 ^ 15)))
  else s

/-! ### Events logged once per second (R58, R423) -/

/-- The argument of an event that is logged once per TB second: its last argument with the count in the second, as its chapter's
table lays them out. -/
def secondArg (code n arg : Nat) : Nat :=
  if code = 0x0120 ∨ code = 0x0122 then satU 16 n
  else if code = 0x1003 then arg + satU 8 n * 2 ^ 8
  else if code = 0x2002 ∨ code = 0x3008 then arg
  else if code = 0x080B then satU 32 n
  else arg + satU 16 n * 2 ^ 16

/-- One of them. KoD and drops share 0x4002, and modes 6 and 7 share 0x4003: the first count is kept under the code alone, the
second under its second instance. -/
def State.flushOne (s : State) (l : List (Nat × (Nat × Nat))) (x : Nat × (Nat × Nat)) : State :=
  let code := x.1 % 65536
  if code = 0x4002 ∨ code = 0x4003 then
    let a := (SMap.get (0, 0) l code).1
    let b := (SMap.get (0, 0) l (65536 + code)).1
    if x.1 = code ∨ a = 0 then s.queueEvent code 1 (satU 16 a + satU 16 b * 2 ^ 16) else s
  else s.queueEvent code 1 (secondArg code x.2.1 x.2.2)

/-- The second's events are logged; the counts of the next second begin at 0. -/
def State.flushEvents (s : State) : State :=
  let l := s.mg.secEvents
  l.foldl (fun s x => s.flushOne l x) (s.onMg fun m => { m with secEvents := [] })

/-! ### The boundary -/

/-- The tick of the boundary, the step it applies, and the leap (R35, R43, R47, R48); the sync word leaves on the way. -/
def State.carry (s : State) : State :=
  let s := (s.runUntil (2 ^ 40 * (1000000000 * (s.master.sec + 1)))).onTb fun t => { t with
    syncOut := false, secs := ((t.ticks, t.excess) :: t.secs).take 101 }
  let s := match s.tb.frozen with
    | some d => s.applyStep d
    | none => s
  s.loadReplicas.applyLeap.loadBackup

/-- The measurement windows and their configurations (R71, R73, R76). -/
def State.measureBoundary (s : State) (step : Bool) : State :=
  let s := (s.windowsBoundary step).releaseCfg.swapBoundary.feedbackBoundary
  if step then s.cutVirtual else s

/-- Sources, holdover and outputs (R86, R93, R100, R103, R108, R111 to R113). -/
def State.sourceBoundary (s : State) : State :=
  let s := s.ptpinQ1.secondQualifiers.showWtr.reclaimEval
  let s := s.sumTherm.holdoverSteer.select
  s.alignBoundary.outBoundary.dpllSecond.clockBoundary.warmRule

/-- The services and the gates (R105, R148, R256, R261, R28). -/
def State.serviceBoundary (s : State) (step : Option Int) : State :=
  let s := s.publishTqr.ntsBoundary.freshCerts
  (s.gnBoundary step).burstBoundary.updateGates

/-- The counts that begin anew with a second (R37). -/
def State.newSecond (s : State) : State :=
  (s.onTb fun t => { t with resyncs := [0, 0, 0], unloggedPrev := t.unlogged, unlogged := [0, 0, 0] }).flushEvents

/-- At a second that is a multiple of 10 a warm-up window closes and the next one opens (R51). -/
def State.warmOpens (s : State) : State :=
  if instSec s.now % 10 = 0 then s.onTb fun t => { t with warmOpenPrev := t.warmOpen, warmOpen := t.ticks, warmTaken := false } else s

/-- SECOND_BOUNDARY: the block runs to its next second boundary. -/
def State.boundary (s : State) (b : BoundaryIn) : State :=
  if !s.tb.running then s
  else
    let steps := s.tb.steps
    let s := s.carry
    let step := if s.tb.steps = steps then none else s.tb.lastStep
    let s := s.dumpSecond.replicas b.offsets
    ((s.measureBoundary step.isSome).sourceBoundary.serviceBoundary step).newSecond.warmOpens

def execSecondBoundary (b : BoundaryIn) (s : State) : Out := .next (s.boundary b)

end Sys2Proof.Machine
end

