-- ==== Sys2Proof/Machine/Dispatch.lean ====
section
/-! DEFINITION. One arm per command: its meaning. -/
namespace Sys2Proof.Machine

def exec (i : Instr) (s : State) : Host.Outcome State Fault Refusal :=
  match i with
  | .aonPowerLoss vbatMv => Sys2Proof.Machine.execAonPowerLoss vbatMv s
  | .aonPowerOn => Sys2Proof.Machine.execAonPowerOn s
  | .powerFailToBackup cause => Sys2Proof.Machine.execPowerFailToBackup cause s
  | .vbatSwitchover toVbat => Sys2Proof.Machine.execVbatSwitchover toVbat s
  | .powerUpStart pwrEn porstN pgood railsUp => Sys2Proof.Machine.execPowerUpStart pwrEn porstN pgood railsUp s
  | .powerUpComplete flashId => Sys2Proof.Machine.execPowerUpComplete flashId s
  | .entropyStartupDone ok0 ok1 => Sys2Proof.Machine.execEntropyStartupDone ok0 ok1 s
  | .slotReadComplete readError => Sys2Proof.Machine.execSlotReadComplete readError s
  | .imageVerifyDone engineFault => Sys2Proof.Machine.execImageVerifyDone engineFault s
  | .bootComplete => Sys2Proof.Machine.execBootComplete s
  | .fatalError code => Sys2Proof.Machine.execFatalError code s
  | .d2dLinkLoss => Sys2Proof.Machine.execD2dLinkLoss s
  | .d2dRetrainTimeout => Sys2Proof.Machine.execD2dRetrainTimeout s
  | .sysReboot path slot => Sys2Proof.Machine.execSysReboot path slot s
  | .enterMaint path => Sys2Proof.Machine.execEnterMaint path s
  | .exitMaint path => Sys2Proof.Machine.execExitMaint path s
  | .modeEvaluation => Sys2Proof.Machine.execModeEvaluation s
  | .oscInLoss => Sys2Proof.Machine.execOscInLoss s
  | .oscInRestored => Sys2Proof.Machine.execOscInRestored s
  | .masterCopyResync m0 m1 m2 => Sys2Proof.Machine.execMasterCopyResync m0 m1 m2 s
  | .secondBoundary b => Sys2Proof.Machine.execSecondBoundary b s
  | .syncWordSend => Sys2Proof.Machine.execSyncWordSend s
  | .tbIncrLoWrite path v => Sys2Proof.Machine.execTbIncrLoWrite path v s
  | .tbIncrHiCommit path v => Sys2Proof.Machine.execTbIncrHiCommit path v s
  | .incrementTakeEffect => Sys2Proof.Machine.execIncrementTakeEffect s
  | .stepArm path => Sys2Proof.Machine.execStepArm path s
  | .stepCancel path => Sys2Proof.Machine.execStepCancel path s
  | .tbCapture => Sys2Proof.Machine.execTbCapture s
  | .accSample read => Sys2Proof.Machine.execAccSample read s
  | .gcompUpdate => Sys2Proof.Machine.execGcompUpdate s
  | .gcalStart path v => Sys2Proof.Machine.execGcalStart path v s
  | .gcalRunEnd xc amp quality => Sys2Proof.Machine.execGcalRunEnd xc amp quality s
  | .warmWindowClose y => Sys2Proof.Machine.execWarmWindowClose y s
  | .warmminElapsed => Sys2Proof.Machine.execWarmminElapsed s
  | .ocxoWarmChange high => Sys2Proof.Machine.execOcxoWarmChange high s
  | .ocxoWarmLowTimeout => Sys2Proof.Machine.execOcxoWarmLowTimeout s
  | .tdcEdge ch rising bin wait => Sys2Proof.Machine.execTdcEdge ch rising bin wait s
  | .eventQueuePop k => Sys2Proof.Machine.execEventQueuePop k s
  | .intervalResult m => Sys2Proof.Machine.execIntervalResult m s
  | .statsWindowClose e => Sys2Proof.Machine.execStatsWindowClose e s
  | .resultPublish => Sys2Proof.Machine.execResultPublish s
  | .tdcCalPeriodDue ch => Sys2Proof.Machine.execTdcCalPeriodDue ch s
  | .tdcCalTempStep temp => Sys2Proof.Machine.execTdcCalTempStep temp s
  | .tdcCalRunall => Sys2Proof.Machine.execTdcCalRunall s
  | .tdcInitialCalDone => Sys2Proof.Machine.execTdcInitialCalDone s
  | .codeDensityDone ch empty inlPeak => Sys2Proof.Machine.execCodeDensityDone ch empty inlPeak s
  | .offsetMatchDone ch active spare => Sys2Proof.Machine.execOffsetMatchDone ch active spare s
  | .sourceWindowClose src => Sys2Proof.Machine.execSourceWindowClose src s
  | .q1ActivityFail src => Sys2Proof.Machine.execQ1ActivityFail src s
  | .wtrElapsed src => Sys2Proof.Machine.execWtrElapsed src s
  | .selection => Sys2Proof.Machine.execSelection s
  | .zdaSentence chars => Sys2Proof.Machine.execZdaSentence chars s
  | .dpllLock d phase freq => Sys2Proof.Machine.execDpllLock d phase freq s
  | .dpllLockLoss d phase freq => Sys2Proof.Machine.execDpllLockLoss d phase freq s
  | .dpllFallback d => Sys2Proof.Machine.execDpllFallback d s
  | .outputEdge n b => Sys2Proof.Machine.execOutputEdge n b s
  | .outAlign mask => Sys2Proof.Machine.execOutAlign mask s
  | .todMessageSend k => Sys2Proof.Machine.execTodMessageSend k s
  | .gnPathClockLoss path => Sys2Proof.Machine.execGnPathClockLoss path s
  | .gnPathClockRestore path => Sys2Proof.Machine.execGnPathClockRestore path s
  | .feListRun reads wait clkA clkB => Sys2Proof.Machine.execFeListRun reads wait clkA clkB s
  | .agcAdjust m samples => Sys2Proof.Machine.execAgcAdjust m samples s
  | .channelAssign sigs => Sys2Proof.Machine.execChannelAssign sigs s
  | .acquisitionDetect c => Sys2Proof.Machine.execAcquisitionDetect c s
  | .navRecordWrite c r read => Sys2Proof.Machine.execNavRecordWrite c r read s
  | .measurementLatch j obs corr => Sys2Proof.Machine.execMeasurementLatch j obs corr s
  | .measurementSetPublish => Sys2Proof.Machine.execMeasurementSetPublish s
  | .interferenceSecond bands => Sys2Proof.Machine.execInterferenceSecond bands s
  | .spoofEval => Sys2Proof.Machine.execSpoofEval s
  | .burstWindowOpen => Sys2Proof.Machine.execBurstWindowOpen s
  | .burstWindowClose => Sys2Proof.Machine.execBurstWindowClose s
  | .solutionPublish sol => Sys2Proof.Machine.execSolutionPublish sol s
  | .surveyComplete x y z => Sys2Proof.Machine.execSurveyComplete x y z s
  | .orbitDataWrite erased programmed => Sys2Proof.Machine.execOrbitDataWrite erased programmed s
  | .linkSignalDetect p => Sys2Proof.Machine.execLinkSignalDetect p s
  | .linkUp p => Sys2Proof.Machine.execLinkUp p s
  | .linkDown p reason => Sys2Proof.Machine.execLinkDown p reason s
  | .remoteFaultChange p on => Sys2Proof.Machine.execRemoteFaultChange p on s
  | .quadFault q cause => Sys2Proof.Machine.execQuadFault q cause s
  | .quadInitRetry q lock refclk => Sys2Proof.Machine.execQuadInitRetry q lock refclk s
  | .quadFaultClear q => Sys2Proof.Machine.execQuadFaultClear q s
  | .rxFrame p f => Sys2Proof.Machine.execRxFrame p f s
  | .pauseExpire p => Sys2Proof.Machine.execPauseExpire p s
  | .txCommit p b => Sys2Proof.Machine.execTxCommit p b s
  | .txLinkdownDiscard p tq => Sys2Proof.Machine.execTxLinkdownDiscard p tq s
  | .txUnderrun p sent => Sys2Proof.Machine.execTxUnderrun p sent s
  | .txQueueAccept src p => Sys2Proof.Machine.execTxQueueAccept src p s
  | .macThrrst p => Sys2Proof.Machine.execMacThrrst p s
  | .lpiNegotiated p tw => Sys2Proof.Machine.execLpiNegotiated p tw s
  | .lpiEnter p => Sys2Proof.Machine.execLpiEnter p s
  | .rxLpi p enter => Sys2Proof.Machine.execRxLpi p enter s
  | .macCounterRead p c => Sys2Proof.Machine.execMacCounterRead p c s
  | .arpRequest g => Sys2Proof.Machine.execArpRequest g s
  | .neighborSolicitation g => Sys2Proof.Machine.execNeighborSolicitation g s
  | .icmpEcho g => Sys2Proof.Machine.execIcmpEcho g s
  | .startBlockLaunch p => Sys2Proof.Machine.execStartBlockLaunch p s
  | .auditResult mark => Sys2Proof.Machine.execAuditResult mark s
  | .reservationRequest g p len cls phase => Sys2Proof.Machine.execReservationRequest g p len cls phase s
  | .reservedCommit p => Sys2Proof.Machine.execReservedCommit p s
  | .tsqPop p => Sys2Proof.Machine.execTsqPop p s
  | .auditClear => Sys2Proof.Machine.execAuditClear s
  | .dispatch k => Sys2Proof.Machine.execDispatch k s
  | .engineSteal g => Sys2Proof.Machine.execEngineSteal g s
  | .requestStart g => Sys2Proof.Machine.execRequestStart g s
  | .aluRegister g op rd ra rb => Sys2Proof.Machine.execAluRegister g op rd ra rb s
  | .aluImmediate g op rd ra imm => Sys2Proof.Machine.execAluImmediate g op rd ra imm s
  | .branchTo g cond target => Sys2Proof.Machine.execBranchTo g cond target s
  | .windowLoadStore g store r ofs n => Sys2Proof.Machine.execWindowLoadStore g store r ofs n s
  | .streamChunk g out => Sys2Proof.Machine.execStreamChunk g out s
  | .unitWait g u rd => Sys2Proof.Machine.execUnitWait g u rd s
  | .emitFrame g p cls d => Sys2Proof.Machine.execEmitFrame g p cls d s
  | .endRoutine g => Sys2Proof.Machine.execEndRoutine g s
  | .dropRequest g => Sys2Proof.Machine.execDropRequest g s
  | .forwardFrame g => Sys2Proof.Machine.execForwardFrame g s
  | .checkResponse g ok => Sys2Proof.Machine.execCheckResponse g ok s
  | .reservedClassExecute g => Sys2Proof.Machine.execReservedClassExecute g s
  | .aesCall g op slot ad data => Sys2Proof.Machine.execAesCall g op slot ad data s
  | .sha2Call g op key data => Sys2Proof.Machine.execSha2Call g op key data s
  | .assocRead g n ecc => Sys2Proof.Machine.execAssocRead g n ecc s
  | .assocWrite g n data ecc => Sys2Proof.Machine.execAssocWrite g n data ecc s
  | .cas64 g n w old new ecc => Sys2Proof.Machine.execCas64 g n w old new ecc s
  | .add64 g n w d ecc => Sys2Proof.Machine.execAdd64 g n w d ecc s
  | .rateCall g key w ecc => Sys2Proof.Machine.execRateCall g key w ecc s
  | .tqrRead g => Sys2Proof.Machine.execTqrRead g s
  | .randomCall g bits => Sys2Proof.Machine.execRandomCall g bits s
  | .keyLoad g gen slot => Sys2Proof.Machine.execKeyLoad g gen slot s
  | .collectorTransfer src p => Sys2Proof.Machine.execCollectorTransfer src p s
  | .clusterDrainEnd c => Sys2Proof.Machine.execClusterDrainEnd c s
  | .restoreCluster c => Sys2Proof.Machine.execRestoreCluster c s
  | .retireCluster c => Sys2Proof.Machine.execRetireCluster c s
  | .retireEngine c e => Sys2Proof.Machine.execRetireEngine c e s
  | .restoreEngine c e => Sys2Proof.Machine.execRestoreEngine c e s
  | .dirtySwap => Sys2Proof.Machine.execDirtySwap s
  | .assocWindowWrite addr => Sys2Proof.Machine.execAssocWindowWrite addr s
  | .occupancyWindow occ => Sys2Proof.Machine.execOccupancyWindow occ s
  | .rateEpochAdvance => Sys2Proof.Machine.execRateEpochAdvance s
  | .sketchScrub row cell => Sys2Proof.Machine.execSketchScrub row cell s
  | .ntpRequest g ecc => Sys2Proof.Machine.execNtpRequest g ecc s
  | .ntsKeSyn p x => Sys2Proof.Machine.execNtsKeSyn p x s
  | .clientHello conn h => Sys2Proof.Machine.execClientHello conn h s
  | .ntsKeRequest conn records c2s s2c ok => Sys2Proof.Machine.execNtsKeRequest conn records c2s s2c ok s
  | .ntsKeTimeout conn => Sys2Proof.Machine.execNtsKeTimeout conn s
  | .keyGenerationDraw => Sys2Proof.Machine.execKeyGenerationDraw s
  | .keyGenerationCurrent => Sys2Proof.Machine.execKeyGenerationCurrent s
  | .ntsRotate => Sys2Proof.Machine.execNtsRotate s
  | .ntsRequest g ecc phase => Sys2Proof.Machine.execNtsRequest g ecc phase s
  | .certExpiryCheck => Sys2Proof.Machine.execCertExpiryCheck s
  | .announceRx g => Sys2Proof.Machine.execAnnounceRx g s
  | .announceReceiptTimeout p => Sys2Proof.Machine.execAnnounceReceiptTimeout p s
  | .delayReqRx g => Sys2Proof.Machine.execDelayReqRx g s
  | .pdelayReqRx g => Sys2Proof.Machine.execPdelayReqRx g s
  | .pdelayRespRx g => Sys2Proof.Machine.execPdelayRespRx g s
  | .signalingRx g ecc => Sys2Proof.Machine.execSignalingRx g ecc s
  | .syncRx g => Sys2Proof.Machine.execSyncRx g s
  | .delayRespRx g => Sys2Proof.Machine.execDelayRespRx g s
  | .calendarIssue mcast n ann t => Sys2Proof.Machine.execCalendarIssue mcast n ann t s
  | .calendarMessage g => Sys2Proof.Machine.execCalendarMessage g s
  | .pdelayReqSend p phase => Sys2Proof.Machine.execPdelayReqSend p phase s
  | .ptpinDelayReqSend phase => Sys2Proof.Machine.execPtpinDelayReqSend phase s
  | .ptpinGrantRenew => Sys2Proof.Machine.execPtpinGrantRenew s
  | .grantExpire n => Sys2Proof.Machine.execGrantExpire n s
  | .roughtimeRequest g => Sys2Proof.Machine.execRoughtimeRequest g s
  | .batchClose v => Sys2Proof.Machine.execBatchClose v s
  | .batchSignatureRelease num ok => Sys2Proof.Machine.execBatchSignatureRelease num ok s
  | .onlineKeyGenerate => Sys2Proof.Machine.execOnlineKeyGenerate s
  | .dailyKeyGenerate => Sys2Proof.Machine.execDailyKeyGenerate s
  | .dailyKeyEffect => Sys2Proof.Machine.execDailyKeyEffect s
  | .tslSubmit path c v mem => Sys2Proof.Machine.execTslSubmit path c v mem s
  | .jobStart e => Sys2Proof.Machine.execJobStart e s
  | .loadSlot e => Sys2Proof.Machine.execLoadSlot e s
  | .loadKeySlot e => Sys2Proof.Machine.execLoadKeySlot e s
  | .randSlot e => Sys2Proof.Machine.execRandSlot e s
  | .madd e upset => Sys2Proof.Machine.execMadd e upset s
  | .msub e upset => Sys2Proof.Machine.execMsub e upset s
  | .mmul e upset => Sys2Proof.Machine.execMmul e upset s
  | .minv e upset => Sys2Proof.Machine.execMinv e upset s
  | .mexp e upset => Sys2Proof.Machine.execMexp e upset s
  | .moveSlot e => Sys2Proof.Machine.execMoveSlot e s
  | .unloadSlot e => Sys2Proof.Machine.execUnloadSlot e s
  | .jobRelease e differs => Sys2Proof.Machine.execJobRelease e differs s
  | .companionStart sign comp => Sys2Proof.Machine.execCompanionStart sign comp s
  | .tslAbort v => Sys2Proof.Machine.execTslAbort v s
  | .abortEffect => Sys2Proof.Machine.execAbortEffect s
  | .tslRetireEngine e => Sys2Proof.Machine.execTslRetireEngine e s
  | .tslRestoreEngine e => Sys2Proof.Machine.execTslRestoreEngine e s
  | .cpFailure c => Sys2Proof.Machine.execCpFailure c s
  | .pathSilent path => Sys2Proof.Machine.execPathSilent path s
  | .adernLaneAlign lane => Sys2Proof.Machine.execAdernLaneAlign lane s
  | .adernLaneLoss lane => Sys2Proof.Machine.execAdernLaneLoss lane s
  | .heartbeatEmit => Sys2Proof.Machine.execHeartbeatEmit s
  | .heartbeatPulseRx width => Sys2Proof.Machine.execHeartbeatPulseRx width s
  | .helloRx inband msg ago => Sys2Proof.Machine.execHelloRx inband msg ago s
  | .helloSend => Sys2Proof.Machine.execHelloSend s
  | .statusRx inband msg ago => Sys2Proof.Machine.execStatusRx inband msg ago s
  | .statusSend => Sys2Proof.Machine.execStatusSend s
  | .renewRx inband msg ago => Sys2Proof.Machine.execRenewRx inband msg ago s
  | .ackRx inband msg ago => Sys2Proof.Machine.execAckRx inband msg ago s
  | .claimRx inband msg ago => Sys2Proof.Machine.execClaimRx inband msg ago s
  | .releaseRx inband msg ago => Sys2Proof.Machine.execReleaseRx inband msg ago s
  | .ttRx msg ago marker => Sys2Proof.Machine.execTtRx msg ago marker s
  | .replNtsRx inband msg ago => Sys2Proof.Machine.execReplNtsRx inband msg ago s
  | .replGrantRx inband msg ago => Sys2Proof.Machine.execReplGrantRx inband msg ago s
  | .replDoneRx inband msg ago => Sys2Proof.Machine.execReplDoneRx inband msg ago s
  | .replSend => Sys2Proof.Machine.execReplSend s
  | .renewalPoint => Sys2Proof.Machine.execRenewalPoint s
  | .claimSend => Sys2Proof.Machine.execClaimSend s
  | .releaseRepeat => Sys2Proof.Machine.execReleaseRepeat s
  | .ttMarkerSend dev => Sys2Proof.Machine.execTtMarkerSend dev s
  | .listenHoldoffEnd => Sys2Proof.Machine.execListenHoldoffEnd s
  | .homewtrExpire => Sys2Proof.Machine.execHomewtrExpire s
  | .tokenTake => Sys2Proof.Machine.execTokenTake s
  | .leaseExpiry => Sys2Proof.Machine.execLeaseExpiry s
  | .dualholdClear => Sys2Proof.Machine.execDualholdClear s
  | .vaddrAnnounce => Sys2Proof.Machine.execVaddrAnnounce s
  | .leaseReleaseCmd => Sys2Proof.Machine.execLeaseReleaseCmd s
  | .leaseResyncCmd => Sys2Proof.Machine.execLeaseResyncCmd s
  | .autoconfirm => Sys2Proof.Machine.execAutoconfirm s
  | .nvmConfirm path => Sys2Proof.Machine.execNvmConfirm path s
  | .provision path => Sys2Proof.Machine.execProvision path s
  | .deploy path => Sys2Proof.Machine.execDeploy path s
  | .returnDevice path => Sys2Proof.Machine.execReturnDevice path s
  | .fuseRoot1 path => Sys2Proof.Machine.execFuseRoot1 path s
  | .revoke path r => Sys2Proof.Machine.execRevoke path r s
  | .svnAdvance path => Sys2Proof.Machine.execSvnAdvance path s
  | .tamperClear path => Sys2Proof.Machine.execTamperClear path s
  | .tamperInput n high => Sys2Proof.Machine.execTamperInput n high s
  | .keyScrub failed => Sys2Proof.Machine.execKeyScrub failed s
  | .entropyBlock src failed => Sys2Proof.Machine.execEntropyBlock src failed s
  | .drbgReseed => Sys2Proof.Machine.execDrbgReseed s
  | .updateOpen path slot => Sys2Proof.Machine.execUpdateOpen path slot s
  | .updateProgram path => Sys2Proof.Machine.execUpdateProgram path s
  | .updateRead path => Sys2Proof.Machine.execUpdateRead path s
  | .updateVerify path => Sys2Proof.Machine.execUpdateVerify path s
  | .updateClose path => Sys2Proof.Machine.execUpdateClose path s
  | .nvmOperationComplete failed => Sys2Proof.Machine.execNvmOperationComplete failed s
  | .spiWrite b => Sys2Proof.Machine.execSpiWrite b s
  | .spiRead b => Sys2Proof.Machine.execSpiRead b s
  | .spiReplay => Sys2Proof.Machine.execSpiReplay s
  | .spiBadOpcode => Sys2Proof.Machine.execSpiBadOpcode s
  | .spiCsEarlyRise b => Sys2Proof.Machine.execSpiCsEarlyRise b s
  | .sysWlockWrite v => Sys2Proof.Machine.execSysWlockWrite v s
  | .ompOpen m => Sys2Proof.Machine.execOmpOpen m s
  | .ompRead m => Sys2Proof.Machine.execOmpRead m s
  | .ompWrite m => Sys2Proof.Machine.execOmpWrite m s
  | .ompReadGroup m => Sys2Proof.Machine.execOmpReadGroup m s
  | .ompSubscribe m => Sys2Proof.Machine.execOmpSubscribe m s
  | .ompFrameTx m p cls d frame => Sys2Proof.Machine.execOmpFrameTx m p cls d frame s
  | .ompClose m => Sys2Proof.Machine.execOmpClose m s
  | .ompIdleTimeout k => Sys2Proof.Machine.execOmpIdleTimeout k s
  | .snapTake path => Sys2Proof.Machine.execSnapTake path s
  | .snapReady => Sys2Proof.Machine.execSnapReady s
  | .snapRelease path => Sys2Proof.Machine.execSnapRelease path s
  | .snapHoldExpire => Sys2Proof.Machine.execSnapHoldExpire s
  | .eventLogWrite => Sys2Proof.Machine.execEventLogWrite s
  | .alarmAck path code => Sys2Proof.Machine.execAlarmAck path code s
  | .rcRead path a => Sys2Proof.Machine.execRcRead path a s
  | .registerWrite path a v => Sys2Proof.Machine.execRegisterWrite path a v s
  | .bistStart path u port => Sys2Proof.Machine.execBistStart path u port s
  | .bistStop u => Sys2Proof.Machine.execBistStop u s
  | .bistTestEnd gated count sig0 sig1 => Sys2Proof.Machine.execBistTestEnd gated count sig0 sig1 s
  | .dumpBoundary => Sys2Proof.Machine.execDumpBoundary s
  | .dumpRecordPublish => Sys2Proof.Machine.execDumpRecordPublish s
  | .perfSelWrite path addr v => Sys2Proof.Machine.execPerfSelWrite path addr v s
  | .sampleRecord g low => Sys2Proof.Machine.execSampleRecord g low s
  | .sampleCollect t => Sys2Proof.Machine.execSampleCollect t s
  | .railWarningFall r mv => Sys2Proof.Machine.execRailWarningFall r mv s
  | .railWarningRecover r lowest mv => Sys2Proof.Machine.execRailWarningRecover r lowest mv s
  | .boostEnd => Sys2Proof.Machine.execBoostEnd s
  | .vcoreEvaluate rails => Sys2Proof.Machine.execVcoreEvaluate rails s
  | .avsWriteRetry why => Sys2Proof.Machine.execAvsWriteRetry why s
  | .avsStatusRead ok => Sys2Proof.Machine.execAvsStatusRead ok s
  | .pmRaise path => Sys2Proof.Machine.execPmRaise path s
  | .pmAvsRetry path ok => Sys2Proof.Machine.execPmAvsRetry path ok s
  | .vbatMeasure mv => Sys2Proof.Machine.execVbatMeasure mv s
  | .tempSample ts => Sys2Proof.Machine.execTempSample ts s
  | .thermSample code => Sys2Proof.Machine.execThermSample code s
  | .jtagBypass => Sys2Proof.Machine.execJtagBypass s
  | .jtagIdcode => Sys2Proof.Machine.execJtagIdcode s
  | .jtagSamplePreload cells => Sys2Proof.Machine.execJtagSamplePreload cells s
  | .jtagExtest => Sys2Proof.Machine.execJtagExtest s
  | .jtagClamp => Sys2Proof.Machine.execJtagClamp s
  | .jtagHighz => Sys2Proof.Machine.execJtagHighz s
  | .d2dLinkRetrain => Sys2Proof.Machine.execD2dLinkRetrain s
  | .tbSynthesizerLock => Sys2Proof.Machine.execTbSynthesizerLock s
  | .flashIdentificationRetry flashId => Sys2Proof.Machine.execFlashIdentificationRetry flashId s
  | .pullinComplete c => Sys2Proof.Machine.execPullinComplete c s
  | .followUpRx g => Sys2Proof.Machine.execFollowUpRx g s
  | .nakRx inband msg ago => Sys2Proof.Machine.execNakRx inband msg ago s
  | .ompConnectionEnd conn => Sys2Proof.Machine.execOmpConnectionEnd conn s
  | .vbatLoss => Sys2Proof.Machine.execVbatLoss s
  | .vbatReturn => Sys2Proof.Machine.execVbatReturn s

end Sys2Proof.Machine
end

