-- ==== Sys2Proof/Machine/Flags.lean ====
section
/-! DEFINITION. The status pins and the interrupt and alarm lines (spec/01_architecture.md R31; spec/00_scope.md R13;
spec/15_management_readback.md R425). -/
namespace Sys2Proof.Machine

/-- The pins of R31 with ALARM_N and IRQ_N: `none` for a high-impedance pin, and whether an open-drain pin is pulled low. -/
structure Pins where
  mode : Option Nat
  locked : Option Bool
  holdover : Option Bool
  warm : Option Bool
  token : Option Bool
  service : Option Bool
  alarmLow : Bool
  irqLow : Bool
  deriving DecidableEq, Repr

/-- The pins of a device in OFF, and in BACKUP. -/
def Pins.off : Pins := ⟨none, none, none, none, none, none, false, false⟩
def Pins.backup : Pins := ⟨some 0, some false, some false, some false, some false, some false, false, false⟩

/-- The answer gate is open on at least one port. -/
def State.anyGate (s : State) : Bool := (List.range 32).any s.gateOpen

/-- The pins as the state drives them. -/
def State.pins (s : State) : Pins :=
  match s.mode with
  | .off => Pins.off
  | .backup => Pins.backup
  | .boot | .safe => ⟨some (modeCode s.mode), some false, some false, some true, some false, some false, s.alarmLow, s.irqLow⟩
  | _ => ⟨some (modeCode s.mode), some (decide (s.get SEL_TQR_CLASS ≤ 4)), some (s.get SEL_TQR_CLASS == 5), some (s.is TB_STATUS_WARM),
      some s.holds, some s.anyGate, s.alarmLow, s.irqLow⟩

end Sys2Proof.Machine
end

