-- ==== Sys2Proof/WellFormed.lean ====
section
/-! DEFINITION. Well-formed commands: the operands lie in the ranges that the interfaces of the part can bring. -/
namespace Sys2Proof

/-- The control processors are CP0 to CP4 (spec/15_management_readback.md R402). -/
def pathOk : Path → Bool
  | .cp k => k < 5
  | .spi => true
  | .omp => true

/-- A register word has 32 bits (spec/00_scope.md R9). -/
def wordOk (v : Nat) : Bool := v < 2 ^ 32

/-- The addresses and the port of a far end have their widths. -/
def farOk (x : Far) : Bool := x.mac < 2 ^ 48 && x.port < 65536 && [0, 4, 16].contains x.addr.length && x.self.length == x.addr.length

/-- An OMP message has a header and a trailer (R410). -/
def ompOk (m : OmpIn) : Bool := 48 ≤ m.bytes.length && farOk m.peer

/-- Each of the four replicas is measured (R48, R49). -/
def boundaryOk (b : BoundaryIn) : Bool := b.offsets.length == 4

/-- A frame has its addresses, type and FCS (R164). -/
def rxOk (f : RxIn) : Bool := 18 ≤ f.bytes.length

/-- The form of an SPI WRITE and of an SPI READ (R406). -/
def spiCount (b : List Byte) : Nat := match b with
  | [_, _, _, _, _, n] => n.toNat + 1
  | _ => 0
def spiWriteOk (b : List Byte) : Bool := (b.take 1 == [0x02] || b.take 1 == [0x32]) && b.length == 7 + 4 * spiCount (b.take 6)
def spiReadOk (b : List Byte) : Bool := (b.take 1 == [0x0B] || b.take 1 == [0x6B]) && b.length == 7

/-- A well-formed command. -/
def Instr.wf : Instr → Bool
  | .aonPowerLoss _ => true
  | .aonPowerOn => true
  | .powerFailToBackup _ => true
  | .vbatSwitchover _ => true
  | .powerUpStart _ _ _ _ => true
  | .powerUpComplete _ => true
  | .entropyStartupDone _ _ => true
  | .slotReadComplete _ => true
  | .imageVerifyDone _ => true
  | .bootComplete => true
  | .fatalError _ => true
  | .d2dLinkLoss => true
  | .d2dRetrainTimeout => true
  | .sysReboot path _ => pathOk path
  | .enterMaint path => pathOk path
  | .exitMaint path => pathOk path
  | .modeEvaluation => true
  | .oscInLoss => true
  | .oscInRestored => true
  | .masterCopyResync _ _ _ => true
  | .secondBoundary b => boundaryOk b
  | .syncWordSend => true
  | .tbIncrLoWrite path v => pathOk path && wordOk v
  | .tbIncrHiCommit path v => pathOk path && wordOk v
  | .incrementTakeEffect => true
  | .stepArm path => pathOk path
  | .stepCancel path => pathOk path
  | .tbCapture => true
  | .accSample _ => true
  | .gcompUpdate => true
  | .gcalStart path v => pathOk path && wordOk v
  | .gcalRunEnd _ _ _ => true
  | .warmWindowClose _ => true
  | .warmminElapsed => true
  | .ocxoWarmChange _ => true
  | .ocxoWarmLowTimeout => true
  | .tdcEdge _ _ _ _ => true
  | .eventQueuePop _ => true
  | .intervalResult _ => true
  | .statsWindowClose _ => true
  | .resultPublish => true
  | .tdcCalPeriodDue _ => true
  | .tdcCalTempStep _ => true
  | .tdcCalRunall => true
  | .tdcInitialCalDone => true
  | .codeDensityDone _ _ _ => true
  | .offsetMatchDone _ _ _ => true
  | .sourceWindowClose _ => true
  | .q1ActivityFail _ => true
  | .wtrElapsed _ => true
  | .selection => true
  | .zdaSentence _ => true
  | .dpllLock _ _ _ => true
  | .dpllLockLoss _ _ _ => true
  | .dpllFallback _ => true
  | .outputEdge _ _ => true
  | .outAlign _ => true
  | .todMessageSend _ => true
  | .gnPathClockLoss _ => true
  | .gnPathClockRestore _ => true
  | .feListRun _ _ _ _ => true
  | .agcAdjust _ _ => true
  | .channelAssign _ => true
  | .acquisitionDetect _ => true
  | .navRecordWrite _ _ _ => true
  | .measurementLatch _ _ _ => true
  | .measurementSetPublish => true
  | .interferenceSecond _ => true
  | .spoofEval => true
  | .burstWindowOpen => true
  | .burstWindowClose => true
  | .solutionPublish _ => true
  | .surveyComplete _ _ _ => true
  | .orbitDataWrite _ _ => true
  | .linkSignalDetect _ => true
  | .linkUp _ => true
  | .linkDown _ _ => true
  | .remoteFaultChange _ _ => true
  | .quadFault _ _ => true
  | .quadInitRetry _ _ _ => true
  | .quadFaultClear _ => true
  | .rxFrame _ f => rxOk f
  | .pauseExpire _ => true
  | .txCommit _ _ => true
  | .txLinkdownDiscard _ _ => true
  | .txUnderrun _ _ => true
  | .txQueueAccept _ _ => true
  | .macThrrst _ => true
  | .lpiNegotiated _ _ => true
  | .lpiEnter _ => true
  | .rxLpi _ _ => true
  | .macCounterRead _ _ => true
  | .arpRequest _ => true
  | .neighborSolicitation _ => true
  | .icmpEcho _ => true
  | .startBlockLaunch _ => true
  | .auditResult _ => true
  | .reservationRequest _ _ _ _ _ => true
  | .reservedCommit _ => true
  | .tsqPop _ => true
  | .auditClear => true
  | .dispatch _ => true
  | .engineSteal _ => true
  | .requestStart _ => true
  | .aluRegister _ _ _ _ _ => true
  | .aluImmediate _ _ _ _ _ => true
  | .branchTo _ _ _ => true
  | .windowLoadStore _ _ _ _ _ => true
  | .streamChunk _ _ => true
  | .unitWait _ _ _ => true
  | .emitFrame _ _ _ _ => true
  | .endRoutine _ => true
  | .dropRequest _ => true
  | .forwardFrame _ => true
  | .checkResponse _ _ => true
  | .reservedClassExecute _ => true
  | .aesCall _ _ _ _ _ => true
  | .sha2Call _ _ _ _ => true
  | .assocRead _ _ _ => true
  | .assocWrite _ _ _ _ => true
  | .cas64 _ _ _ _ _ _ => true
  | .add64 _ _ _ _ _ => true
  | .rateCall _ _ _ _ => true
  | .tqrRead _ => true
  | .randomCall _ _ => true
  | .keyLoad _ _ _ => true
  | .collectorTransfer _ _ => true
  | .clusterDrainEnd _ => true
  | .restoreCluster _ => true
  | .retireCluster _ => true
  | .retireEngine _ _ => true
  | .restoreEngine _ _ => true
  | .dirtySwap => true
  | .assocWindowWrite addr => wordOk addr
  | .occupancyWindow _ => true
  | .rateEpochAdvance => true
  | .sketchScrub _ _ => true
  | .ntpRequest _ _ => true
  | .ntsKeSyn _ x => farOk x.peer
  | .clientHello _ _ => true
  | .ntsKeRequest _ _ _ _ _ => true
  | .ntsKeTimeout _ => true
  | .keyGenerationDraw => true
  | .keyGenerationCurrent => true
  | .ntsRotate => true
  | .ntsRequest _ _ _ => true
  | .certExpiryCheck => true
  | .announceRx _ => true
  | .announceReceiptTimeout _ => true
  | .delayReqRx _ => true
  | .pdelayReqRx _ => true
  | .pdelayRespRx _ => true
  | .signalingRx _ _ => true
  | .syncRx _ => true
  | .delayRespRx _ => true
  | .calendarIssue _ _ _ _ => true
  | .calendarMessage _ => true
  | .pdelayReqSend _ _ => true
  | .ptpinDelayReqSend _ => true
  | .ptpinGrantRenew => true
  | .grantExpire _ => true
  | .roughtimeRequest _ => true
  | .batchClose _ => true
  | .batchSignatureRelease _ _ => true
  | .onlineKeyGenerate => true
  | .dailyKeyGenerate => true
  | .dailyKeyEffect => true
  | .tslSubmit path _ v _ => pathOk path && wordOk v
  | .jobStart _ => true
  | .loadSlot _ => true
  | .loadKeySlot _ => true
  | .randSlot _ => true
  | .madd _ _ => true
  | .msub _ _ => true
  | .mmul _ _ => true
  | .minv _ _ => true
  | .mexp _ _ => true
  | .moveSlot _ => true
  | .unloadSlot _ => true
  | .jobRelease _ _ => true
  | .companionStart _ _ => true
  | .tslAbort v => wordOk v
  | .abortEffect => true
  | .tslRetireEngine _ => true
  | .tslRestoreEngine _ => true
  | .cpFailure _ => true
  | .pathSilent _ => true
  | .adernLaneAlign _ => true
  | .adernLaneLoss _ => true
  | .heartbeatEmit => true
  | .heartbeatPulseRx _ => true
  | .helloRx _ _ _ => true
  | .helloSend => true
  | .statusRx _ _ _ => true
  | .statusSend => true
  | .renewRx _ _ _ => true
  | .ackRx _ _ _ => true
  | .claimRx _ _ _ => true
  | .releaseRx _ _ _ => true
  | .ttRx _ _ _ => true
  | .replNtsRx _ _ _ => true
  | .replGrantRx _ _ _ => true
  | .replDoneRx _ _ _ => true
  | .replSend => true
  | .renewalPoint => true
  | .claimSend => true
  | .releaseRepeat => true
  | .ttMarkerSend _ => true
  | .listenHoldoffEnd => true
  | .homewtrExpire => true
  | .tokenTake => true
  | .leaseExpiry => true
  | .dualholdClear => true
  | .vaddrAnnounce => true
  | .leaseReleaseCmd => true
  | .leaseResyncCmd => true
  | .autoconfirm => true
  | .nvmConfirm path => pathOk path
  | .provision path => pathOk path
  | .deploy path => pathOk path
  | .returnDevice path => pathOk path
  | .fuseRoot1 path => pathOk path
  | .revoke path _ => pathOk path
  | .svnAdvance path => pathOk path
  | .tamperClear path => pathOk path
  | .tamperInput _ _ => true
  | .keyScrub _ => true
  | .entropyBlock _ _ => true
  | .drbgReseed => true
  | .updateOpen path _ => pathOk path
  | .updateProgram path => pathOk path
  | .updateRead path => pathOk path
  | .updateVerify path => pathOk path
  | .updateClose path => pathOk path
  | .nvmOperationComplete _ => true
  | .spiWrite b => spiWriteOk b
  | .spiRead b => spiReadOk b
  | .spiReplay => true
  | .spiBadOpcode => true
  | .spiCsEarlyRise _ => true
  | .sysWlockWrite v => wordOk v
  | .ompOpen m => ompOk m
  | .ompRead m => ompOk m
  | .ompWrite m => ompOk m
  | .ompReadGroup m => ompOk m
  | .ompSubscribe m => ompOk m
  | .ompFrameTx m _ _ _ _ => ompOk m
  | .ompClose m => ompOk m
  | .ompIdleTimeout _ => true
  | .snapTake path => pathOk path
  | .snapReady => true
  | .snapRelease path => pathOk path
  | .snapHoldExpire => true
  | .eventLogWrite => true
  | .alarmAck path _ => pathOk path
  | .rcRead path a => pathOk path && wordOk a.addr
  | .registerWrite path a v => pathOk path && wordOk a.addr && wordOk v
  | .bistStart path _ _ => pathOk path
  | .bistStop _ => true
  | .bistTestEnd _ _ _ _ => true
  | .dumpBoundary => true
  | .dumpRecordPublish => true
  | .perfSelWrite path addr v => pathOk path && wordOk addr && wordOk v
  | .sampleRecord _ _ => true
  | .sampleCollect _ => true
  | .railWarningFall _ _ => true
  | .railWarningRecover _ _ _ => true
  | .boostEnd => true
  | .vcoreEvaluate _ => true
  | .avsWriteRetry _ => true
  | .avsStatusRead _ => true
  | .pmRaise path => pathOk path
  | .pmAvsRetry path _ => pathOk path
  | .vbatMeasure _ => true
  | .tempSample _ => true
  | .thermSample _ => true
  | .jtagBypass => true
  | .jtagIdcode => true
  | .jtagSamplePreload _ => true
  | .jtagExtest => true
  | .jtagClamp => true
  | .jtagHighz => true
  | .d2dLinkRetrain => true
  | .tbSynthesizerLock => true
  | .flashIdentificationRetry _ => true
  | .pullinComplete _ => true
  | .followUpRx _ => true
  | .nakRx _ _ _ => true
  | .ompConnectionEnd _ => true
  | .vbatLoss => true
  | .vbatReturn => true

end Sys2Proof
end

