-- ==== Sys2Proof/Safety.lean ====
section
/-! DEFINITION. What a safe run keeps, and the terms in which statements speak of what a command leaves alone. -/
namespace Sys2Proof.Machine

/-- The register file and every addressed memory of the part are in their canonical form: the flash (R372) lists no erased
byte, and the staging buffer (R397), the association store (R227) and the local memories of the control processors (R321) list
no zero byte. -/
def State.canonical (s : State) : Bool :=
  SMap.wf 0 s.rf && SMap.wf 0xFF s.boot.flash && SMap.wf 0 s.boot.staging && SMap.wf 0 s.fab.store && SMap.wf 0 s.tsl.mem

/-- A state in its canonical form whose waiting commands are well formed. -/
def State.wf (s : State) : Bool := s.canonical && s.pending.all Instr.wf

/-- A step is safe when it answers a next state: no command of this part stops it (R12, R13). -/
def State.safeStep (s : State) : Prop := ∃ t, step s = .next t

/-- Register fields at other places than those of `fs` read in `t` what they read in `s`. -/
def OnlyRegs (s t : State) (fs : List Field) : Prop := ∀ F : Field, (∀ G ∈ fs, F.key ≠ G.key) → t.get F = s.get F

/-- The three master copies agree, count in their own range and none is marked failed (R35, R37). -/
def State.copiesAgree (s : State) : Prop :=
  s.tb.c1 = s.tb.c0 ∧ s.tb.c2 = s.tb.c0 ∧ s.is TB_STATUS_COPYFAIL = false ∧
    s.tb.c0.frac < 2 ^ 40 ∧ s.tb.c0.nsec < 1000000000 ∧ s.tb.c0.sec < 2 ^ 48

end Sys2Proof.Machine
end

