-- ==== Sys2Proof/Certificates/Slice0/Obligations.lean ====
section
/-! DEFINITION. The statements for the provers. Each cites the sections of spec/ it rests on; a statement whose basis is derived may
rest on choices of the model, which it names by their row of notes/assumptions. -/
open Sys2Proof Sys2Proof.Machine

/-- TB_INCR writes: staging, commit within the limits, and the writer's choice. A TB_INCR_LO write on the steering path
stages its 32 bits and changes nothing else. A TB_INCR_HI write commits INT, FRAC[39:32] and the staged bits together,
replaced by the nearer limit: it takes its place behind the increments that wait, to take effect 64 ticks later, both
registers read back the committed value, the increment in force stays, and one clamp-log entry with the address of TB_INCR_HI
appears when it was replaced. From the other path both writes change nothing but the log: event 0x030B with the register's
offset when the write comes from the host. (spec/02_time_base.md (R38 to R40)) -/
def Obligations.IncrementWritesStageCommitAndRefuse : Prop :=
  (∀ (s : State) (p : Path) (v : Nat), s.awake = true → s.steers p = true →
    exec (.tbIncrLoWrite p v) s = .next (s.set TB_INCR_LO_FRACLO v)) ∧
  (∀ (s : State) (p : Path) (v : Nat), s.awake = true → s.steers p = true →
    let i : Nat := v % 2 ^ 16 * 2 ^ 32 + s.get TB_INCR_LO_FRACLO
    let e : Nat := max (2 ^ 40 - 109951162) (min i (2 ^ 40 + 109951162))
    exec (.tbIncrHiCommit p v) s = .next
      (if e = i then s.commitIncr e else (s.commitIncr e).clampLog 0x30024 v (e / 2 ^ 32) (pathSource p))) ∧
  (∀ (s : State) (e : Nat),
    (s.commitIncr e).tb = { s.tb with incrQ := s.tb.incrQ ++ [⟨e, s.lastSlew, s.tb.ticks + 64⟩] } ∧
    (s.commitIncr e).get TB_INCR_LO_FRACLO = e % 2 ^ 32 ∧ (s.commitIncr e).get TB_INCR_HI_FRACHI = e / 2 ^ 32 % 2 ^ 8 ∧
    (s.commitIncr e).get TB_INCR_HI_INT = e / 2 ^ 40 % 2 ^ 8 ∧ { s.commitIncr e with tb := s.tb, rf := s.rf } = s ∧
    OnlyRegs s (s.commitIncr e) [TB_INCR_LO_FRACLO, TB_INCR_HI_FRACHI, TB_INCR_HI_INT]) ∧
  (∀ (s : State) (k v : Nat), s.awake = true → s.steers (.cp k) = false →
    exec (.tbIncrLoWrite (.cp k) v) s = .next s ∧ exec (.tbIncrHiCommit (.cp k) v) s = .next s) ∧
  (∀ (s : State) (p : Path) (v : Nat), s.awake = true → s.steers p = false → p = .spi ∨ p = .omp →
    exec (.tbIncrLoWrite p v) s = .next (s.event 0x030B 1 0x20) ∧
    exec (.tbIncrHiCommit p v) s = .next (s.event 0x030B 1 0x24))

/-- ARM, CANCEL and the sync word on a pending step. ARM makes the staged value the pending step, replacing one that is
pending, with its arming instant; a staged NSEC above 999,999,999 is first clamped, TB_STEP0 and TB_STEP1 are rewritten and
one clamp-log entry with the address of TB_STEP1 appears. CANCEL discards a pending step that is not frozen and shows IDLE;
while a step is frozen it changes nothing. SYNC_WORD_SEND runs the part to the count 5 us before its second boundary and
sends the word there, once a second: the word names the next SEC, it carries and freezes a step armed at least 10 us before
the boundary, and leaves one armed later pending. The register ACTION follows the accepted command; a command of the host
that does not steer is logged alone, with the offset of TB_STEPCTL. (spec/02_time_base.md (R40, R42, R43, R45, R48),
notes/assumptions/9.md) -/
def Obligations.StepCommandsArmCancelAndFreeze : Prop :=
  (∀ (s : State) (p : Path), s.awake = true → s.steers p = true →
    (s.get (TB_STEP_STEP 0) / 2 ^ 16 + s.get (TB_STEP_STEP 1) % 2 ^ 16 * 2 ^ 16 ≤ 999999999) →
    ∃ t, exec (.stepArm p) s = .next t ∧
      t.tb = { s.tb with step := some s.stagedStep, stepArmed := s.now } ∧
      t.get TB_STEPCTL_STATE = 1 ∧ t.get TB_STATUS_STEPPEND = 1 ∧ t.get TB_STEPCTL_ACTION = 1 ∧
      { t with tb := s.tb, rf := s.rf } = s ∧ OnlyRegs s t [TB_STEPCTL_STATE, TB_STATUS_STEPPEND, TB_STEPCTL_ACTION]) ∧
  (∀ (s : State) (p : Path), s.awake = true → s.steers p = true →
    (999999999 < s.get (TB_STEP_STEP 0) / 2 ^ 16 + s.get (TB_STEP_STEP 1) % 2 ^ 16 * 2 ^ 16) →
    ∃ t, exec (.stepArm p) s = .next t ∧
      t.tb.step = some t.stagedStep ∧ t.get TB_STEPCTL_STATE = 1 ∧ t.get TB_STATUS_STEPPEND = 1 ∧
      t.get (TB_STEP_STEP 0) = 999999999 % 2 ^ 16 * 2 ^ 16 + s.get (TB_STEP_STEP 0) % 2 ^ 16 ∧
      t.get (TB_STEP_STEP 1) = s.get (TB_STEP_STEP 1) / 2 ^ 16 * 2 ^ 16 + 999999999 / 2 ^ 16 ∧
      t.mg = { s.mg with clampSeq := s.mg.clampSeq + 1 } ∧
      t.get (CFG_CLAMPLOG_ADDR ((s.mg.clampSeq + 1) % 256)) = 0x30034) ∧
  (∀ (s : State) (p : Path), s.awake = true → s.steers p = true → s.tb.frozen = none →
    exec (.stepCancel p) s = .next
      ((((s.onTb fun b => { b with step := none }).set TB_STEPCTL_STATE 0).set TB_STATUS_STEPPEND 0).set TB_STEPCTL_ACTION 2)) ∧
  (∀ (s : State) (p : Path) (d : Int), s.awake = true → s.steers p = true → s.tb.frozen = some d →
    exec (.stepCancel p) s = .next s) ∧
  (∀ (s : State) (p : Path), s.awake = true → s.steers p = false → p = .spi ∨ p = .omp →
    exec (.stepArm p) s = .next (s.event 0x030B 1 0x3C) ∧ exec (.stepCancel p) s = .next (s.event 0x030B 1 0x3C)) ∧
  (∀ (s : State), s.tb.running = true → s.tb.syncOut = false →
    exec .syncWordSend s = .next (s.runUntil ((s.master.sec * 1000000000 + 999995000) * 2 ^ 40)).sendSync) ∧
  (∀ (s : State), s.tb.syncOut = true → exec .syncWordSend s = .next s) ∧
  (∀ (s : State), s.tb.syncOut = false → (s.master.sec * 1000000000 + 999995000) * 2 ^ 40 ≤ s.master.total →
    { s.sendSync with tb := s.tb } = s ∧ s.sendSync.tb.syncOut = true ∧ s.sendSync.tb.syncSeq = s.tb.syncSeq + 1 ∧
    s.sendSync.tb.c0 = s.tb.c0 ∧ s.sendSync.tb.ticks = s.tb.ticks ∧
    (s.tb.step = none → s.sendSync.tb.frozen = none ∧ s.sendSync.tb.step = none ∧
      s.sendSync.tb.sync = some ⟨instSec s.now + 1, none, s.tb.syncSeq⟩) ∧
    (∀ d, s.tb.step = some d → s.tb.stepArmed + 10 * us1 ≤ (instSec s.now + 1) * sec1 →
      s.sendSync.tb.frozen = some d ∧ s.sendSync.tb.step = none ∧
      s.sendSync.tb.sync = some ⟨instSec s.now + 1, some d, s.tb.syncSeq⟩) ∧
    (∀ d, s.tb.step = some d → (instSec s.now + 1) * sec1 < s.tb.stepArmed + 10 * us1 →
      s.sendSync.tb.frozen = none ∧ s.sendSync.tb.step = some d ∧
      s.sendSync.tb.sync = some ⟨instSec s.now + 1, none, s.tb.syncSeq⟩))

/-- A committed increment is in force when its 64 ticks have passed. INCREMENT_TAKE_EFFECT runs the part to the tick at which
the increment or the correction that waits first takes effect, when no second boundary comes first, and otherwise changes
nothing. With one increment waiting, no correction, no phase transfer, no telemetry dump and the sync word of the second
sent, the device ticks then stand at that tick, the count is what that many ticks of the old increment make of it, the
increment is the one in force, its slew part is SEL_SWSLEW's, and none waits. TB_CAPTURE puts the full timestamp of the next
tick in TB_NOW and changes no other register but TB_CAP. A second boundary that would come first is left to SECOND_BOUNDARY
(the model's choice, notes/assumptions/1.md). (spec/02_time_base.md (R39), spec/15_management_readback.md (R417),
notes/assumptions/1.md) -/
def Obligations.IncrementTakesEffectAfterItsTicks : Prop :=
  (∀ (s : State) (c : Commit) (q : List Commit), s.tb.incrQ = c :: q → s.tb.gcompQ = [] →
    exec .incrementTakeEffect s = .next ((s.reachTick c.due).getD s)) ∧
  (∀ (s : State) (x : Int × Nat) (q : List (Int × Nat)), s.tb.incrQ = [] → s.tb.gcompQ = x :: q →
    exec .incrementTakeEffect s = .next ((s.reachTick x.2).getD s)) ∧
  (∀ (s : State) (c : Commit) (q : List Commit) (x : Int × Nat) (q' : List (Int × Nat)), s.tb.incrQ = c :: q → s.tb.gcompQ = x :: q' →
    exec .incrementTakeEffect s = .next ((s.reachTick (min c.due x.2)).getD s)) ∧
  (∀ (s : State), s.tb.incrQ = [] → s.tb.gcompQ = [] → exec .incrementTakeEffect s = .next s) ∧
  (∀ (s : State) (i n : Nat) (r : Int), s.tb.running = true → s.tb.incrQ = [⟨i, r, s.tb.ticks + n⟩] → s.tb.gcompQ = [] →
    s.sel.transfer = none → s.perf.period = 0 → s.tb.syncOut = true → 0 < n → n ≤ 64 →
    instSec (s.ticksPlain n).now = instSec s.now →
    ∃ t, exec .incrementTakeEffect s = .next t ∧ t.tb.incr = i ∧ t.tb.incrQ = [] ∧ t.tb.ticks = s.tb.ticks + n ∧
      t.tb.c0 = s.tb.c0.add (n * s.effIncr) ∧ t.tb.c1 = s.tb.c1.add (n * s.effIncr) ∧ t.tb.c2 = s.tb.c2.add (n * s.effIncr) ∧
      t.get SEL_SWSLEW_SLEW = ofSigned SEL_SWSLEW_SLEW.width r) ∧
  (∀ (s : State), s.awake = true → s.tb.running = true →
    exec .tbCapture s = .next
      ((((s.set (TB_NOW_TS 0) (instWord ((s.master.add s.effIncr).total / 2 ^ 24) 0)).set (TB_NOW_TS 1)
        (instWord ((s.master.add s.effIncr).total / 2 ^ 24) 1)).set (TB_NOW_TS 2)
        (instWord ((s.master.add s.effIncr).total / 2 ^ 24) 2)).set TB_CAP_CAPTURE 1))

/-- Loss and return of OSC_IN. A loss of OSC_IN in a powered mode sets OSCLOSS, clears SYNLOCK and sets WARM, ends a
sensitivity calibration, clears MODELVALID and the holdover model's windows, and notes the device ticks of the loss; the mode
and the count stay. A loss already declared changes nothing. On return OSCLOSS clears, SYNLOCK is set, acquisition begins,
both warm-up rules start from the present device tick, the reference rule's drift figure is void, and with OCXO_WARM low WARM
stays set; with OSC_IN not lost nothing changes. (spec/02_time_base.md (R34, R50, R52, R56),
spec/04_references_holdover_outputs.md (R87, R99)) -/
def Obligations.OscillatorLossSuspendsSteering : Prop :=
  (∀ (s : State), s.awake = true → s.is TB_STATUS_OSCLOSS = false →
    ∃ t, exec .oscInLoss s = .next t ∧ t.get TB_STATUS_OSCLOSS = 1 ∧ t.get TB_STATUS_SYNLOCK = 0 ∧ t.get TB_STATUS_WARM = 1 ∧
      t.get SYS_MODE_MODELVALID = 0 ∧ t.sel.fit = [] ∧ t.tb.gcal = none ∧ t.tb.lossAt = s.tb.ticks ∧ t.mode = s.mode ∧
      t.tb.c0 = s.tb.c0 ∧ t.tb.c1 = s.tb.c1 ∧ t.tb.c2 = s.tb.c2) ∧
  (∀ (s : State), s.is TB_STATUS_OSCLOSS = true → exec .oscInLoss s = .next s) ∧
  (∀ (s : State), s.is TB_STATUS_OSCLOSS = true →
    ∃ t, exec .oscInRestored s = .next t ∧ t.get TB_STATUS_OSCLOSS = 0 ∧ t.get TB_STATUS_SYNLOCK = 1 ∧ t.get SEL_STATUS_ACQ = 1 ∧
      t.tb.warmFrom = s.tb.ticks ∧ t.get TB_WARMDRIFT_DRIFT = 0xFFFFFF ∧ t.mode = s.mode ∧
      (s.is TB_STATUS_OCXOWARM = false → t.get TB_STATUS_WARM = 1)) ∧
  (∀ (s : State), s.is TB_STATUS_OSCLOSS = false → exec .oscInRestored s = .next s)

/-- Accelerometer samples, the correction of every 250 us and a calibration run. A sample comes one period after the one
before it, the first at once, and where a second boundary comes first it is left: the command byte of TB_ACCCMD goes out, and
six bytes are read as three signed 16-bit values in its byte order and taken; a failed read sets ACCFAULT, forces TB_GCOMP to
0 and logs 0x030C once. Every 250 us, in the same way, the computed correction is committed to TB_GCOMP while EN is set,
ACCFAULT clear and no calibration runs, else 0. TB_GCAL starts a run in MAINTENANCE with a good reference from 1 MHz to 50
MHz and commits 0 to TB_GCOMP; outside MAINTENANCE it fails with STATE 3; during a run a write changes nothing. A run that
reaches its duration reports GAMMA and QUALITY with STATE 2 and event 0x030E. (spec/02_time_base.md (R53 to R56),
notes/assumptions/10.md) -/
def Obligations.VibrationCorrectionCommands : Prop :=
  (∀ (s : State) (x : Option (List Byte)), s.awake = true → s.tb.accAt = none → exec (.accSample x) s = .next (s.accRead x)) ∧
  (∀ (s u : State) (x : Option (List Byte)) (a : Nat), s.awake = true → s.tb.accAt = some a →
    s.reachTick (a + 4000000 / 2 ^ min 4 (s.get TB_GCTL_RATE)) = some u → exec (.accSample x) s = .next (u.accRead x)) ∧
  (∀ (s : State) (x : Option (List Byte)) (a : Nat), s.awake = true → s.tb.accAt = some a →
    s.reachTick (a + 4000000 / 2 ^ min 4 (s.get TB_GCTL_RATE)) = none → exec (.accSample x) s = .next s) ∧
  (∀ (s : State) (a b c d e f : Byte), let u := (s.onTb fun b => { b with accAt := some b.ticks }).emit (.accRead (BitVec.ofNat 8 (s.get TB_ACCCMD_CMD)))
    (s.is TB_ACCCMD_ORDER = true → s.accRead (some [a, b, c, d, e, f]) = u.accTake (toSigned 16 (a.toNat * 256 + b.toNat))
      (toSigned 16 (c.toNat * 256 + d.toNat)) (toSigned 16 (e.toNat * 256 + f.toNat))) ∧
    (s.is TB_ACCCMD_ORDER = false → s.accRead (some [a, b, c, d, e, f]) = u.accTake (toSigned 16 (a.toNat + b.toNat * 256))
      (toSigned 16 (c.toNat + d.toNat * 256)) (toSigned 16 (e.toNat + f.toNat * 256))) ∧
    (s.is TB_STATUS_ACCFAULT = false → s.accRead none =
      (((((u.onTb fun b => { b with accVaryFrom := none }).set TB_STATUS_ACCFAULT 1).commitGcomp 0).event 0x030C 2 1).failGcal)) ∧
    (s.is TB_STATUS_ACCFAULT = true → s.accRead none = u.onTb fun b => { b with accVaryFrom := none })) ∧
  (∀ (s : State), s.awake = true → s.tb.gcompAt = none → exec .gcompUpdate s = .next s.gcompNow) ∧
  (∀ (s u : State) (a : Nat), s.awake = true → s.tb.gcompAt = some a → s.reachTick (250000 + a) = some u →
    exec .gcompUpdate s = .next u.gcompNow) ∧
  (∀ (s : State), s.is TB_GCTL_EN = true → s.is TB_STATUS_ACCFAULT = false → s.tb.gcal = none →
    s.gcompNow = (s.onTb fun b => { b with gcompAt := some b.ticks, gcompQ := b.gcompQ ++ [(s.correction, b.ticks + 64)] }).seti
      TB_GCOMP_CORR s.correction) ∧
  (∀ (s : State), s.is TB_GCTL_EN = false ∨ s.is TB_STATUS_ACCFAULT = true ∨ s.tb.gcal ≠ none →
    s.gcompNow = (s.onTb fun b => { b with gcompAt := some b.ticks, gcompQ := b.gcompQ ++ [(0, b.ticks + 64)] }).seti TB_GCOMP_CORR 0) ∧
  (∀ (s : State) (p : Path) (v : Nat), s.tb.gcal ≠ none → exec (.gcalStart p v) s = .next s) ∧
  (∀ (s : State) (p : Path) (axis freq dur ref : Nat), axis ≤ 2 → 10 ≤ freq → freq ≤ 250 → 10 ≤ dur → dur ≤ 255 → ref < 16 →
    s.tb.gcal = none → s.mode = .maintenance → s.srcGood ref = true → 1000000 ≤ s.srcHz ref → s.srcHz ref ≤ 50000000 →
    s.is TB_STATUS_ACCFAULT = false → s.is TB_STATUS_OSCLOSS = false →
    ∃ t, exec (.gcalStart p (axis + freq * 2 ^ 8 + dur * 2 ^ 16 + ref * 2 ^ 24)) s = .next t ∧
      t.tb = { s.tb with gcal := some ⟨axis, freq, dur, ref, s.tb.ticks⟩, gcompQ := s.tb.gcompQ ++ [(0, s.tb.ticks + 64)] } ∧
      t.get TB_STATUS_GCALRUN = 1 ∧ t.get TB_GCALRES_STATE = 1) ∧
  (∀ (s : State) (p : Path) (v : Nat), s.awake = true → s.tb.gcal = none → s.mode ≠ .maintenance →
    ∃ t, exec (.gcalStart p v) s = .next t ∧ t.tb = s.tb ∧ t.get TB_GCALRES_STATE = 3) ∧
  (∀ (s u : State) (g : GcalRun) (xc : Int) (amp q : Nat), s.tb.gcal = some g → s.reachTick (1000000000 * g.duration + g.start) = some u →
    exec (.gcalRunEnd xc amp q) s = .next
      ((((((u.onTb fun b => { b with gcal := none }).set TB_STATUS_GCALRUN 0).set TB_GCALRES_STATE 2).seti TB_GCALRES_GAMMA
        (gammaOf g.freq xc amp)).set TB_GCALRES_QUALITY (min q 100)).event 0x030E 0 (g.axis + min q 100 * 2 ^ 8 + 2 * 2 ^ 16))) ∧
  (∀ (s : State) (g : GcalRun) (xc : Int) (amp q : Nat), s.tb.gcal = some g → s.reachTick (1000000000 * g.duration + g.start) = none →
    exec (.gcalRunEnd xc amp q) s = .next s)

/-- The warm-up rules: windows, the time-only rule and OCXO_WARM. While the reference rule is in use and its window ends at
this second, a window cut short forgets the last mean, a first window keeps its mean, and a later one forms the drift: within
the limit and with OCXO_WARM high it counts, reaching TB_WARMN it clears WARM with 0x030A argument 0, and otherwise the count
returns to 0; a new reference begins anew. Under the time-only rule with OCXO_WARM high WARMMIN_ELAPSED runs to the instant
at which TB_WARMMIN seconds have passed and clears WARM with argument 1. A rise or fall of OCXO_WARM is shown, noted by its
device tick and restarts the count; a level already shown changes nothing. After WARM had cleared, a low level of 1 s sets it
again. (spec/02_time_base.md (R50 to R52)) -/
def Obligations.WarmUpRulesClearAndReturn : Prop :=
  (∀ (s : State) (r : Nat), s.is TB_STATUS_WARM = true → s.warmRuns = true → s.is TB_STATUS_OSCLOSS = false → s.anyQ1 = true →
    s.is TB_STATUS_WARMRULE = false → instSec s.now % 10 = 0 → s.tb.warmTaken = false → s.warmReference = some r →
    let w := s.onTb fun b => { b with warmTaken := true }
    (s.tb.warmRef ≠ some r → s.tb.warmOpenPrev < s.tb.ticks → ∀ y, exec (.warmWindowClose y) s = .next (w.warmBegin (some r))) ∧
    (s.tb.warmRef = some r → s.tb.warmBegan ≤ s.tb.warmOpenPrev →
      exec (.warmWindowClose none) s = .next (w.onTb fun b => { b with warmPrev := none })) ∧
    (s.tb.warmRef = some r → s.tb.warmBegan ≤ s.tb.warmOpenPrev → s.tb.warmPrev = none → ∀ y,
      exec (.warmWindowClose (some y)) s = .next (w.onTb fun b => { b with warmPrev := some y }))) ∧
  (∀ (s : State) (r : Nat) (y p : Int), s.is TB_STATUS_WARM = true → s.warmRuns = true → s.is TB_STATUS_OSCLOSS = false →
    s.anyQ1 = true → s.is TB_STATUS_WARMRULE = false → instSec s.now % 10 = 0 → s.tb.warmTaken = false →
    s.warmReference = some r → s.tb.warmRef = some r → s.tb.warmBegan ≤ s.tb.warmOpenPrev → s.tb.warmPrev = some p →
    let u := (s.onTb fun b => { b with warmTaken := true, warmPrev := some y }).setSat TB_WARMDRIFT_DRIFT
      (divRound (y - p).natAbs 1000).toNat
    let c := min (s.get TB_WARMDRIFT_COUNT + 1) (2 ^ TB_WARMDRIFT_COUNT.width - 1)
    ((s.get TB_WARMLIM_LIM * 1000 ≤ (y - p).natAbs ∨ s.is TB_STATUS_OCXOWARM = false) →
      exec (.warmWindowClose (some y)) s = .next (u.set TB_WARMDRIFT_COUNT 0)) ∧
    ((y - p).natAbs < s.get TB_WARMLIM_LIM * 1000 → s.is TB_STATUS_OCXOWARM = true → c < s.get TB_WARMN_N →
      exec (.warmWindowClose (some y)) s = .next (u.set TB_WARMDRIFT_COUNT c)) ∧
    ((y - p).natAbs < s.get TB_WARMLIM_LIM * 1000 → s.is TB_STATUS_OCXOWARM = true → s.get TB_WARMN_N ≤ c →
      exec (.warmWindowClose (some y)) s = .next
        ((((u.set TB_WARMDRIFT_COUNT c).set TB_STATUS_WARM 0).set TB_STATUS_WARMRULE 0).event 0x030A 0 0).classChanged)) ∧
  (∀ (s u : State), s.is TB_STATUS_WARM = true → s.warmRuns = true → s.is TB_STATUS_OSCLOSS = false → s.anyQ1 = false →
    s.is TB_STATUS_OCXOWARM = true → s.reachTick (1000000000 * s.get TB_WARMMIN_SEC + max s.tb.warmFrom s.tb.ocxoRise) = some u →
    exec .warmminElapsed s = .next (((u.set TB_STATUS_WARM 0).set TB_STATUS_WARMRULE 1).event 0x030A 0 1).classChanged) ∧
  (∀ (s : State), s.awake = true → s.is TB_STATUS_OCXOWARM = true → s.is TB_STATUS_WARM = false →
    exec (.ocxoWarmChange false) s = .next
      ((s.set TB_STATUS_OCXOWARM 0).onTb fun b => { b with warmPrev := none, ocxoFall := b.ticks })) ∧
  (∀ (s : State), s.awake = true → s.is TB_STATUS_OCXOWARM = true → s.is TB_STATUS_WARM = true →
    exec (.ocxoWarmChange false) s = .next
      (((s.set TB_STATUS_OCXOWARM 0).onTb fun b => { b with warmPrev := none, ocxoFall := b.ticks }).set TB_WARMDRIFT_COUNT 0)) ∧
  (∀ (s : State), s.awake = true → s.is TB_STATUS_OCXOWARM = false → s.is TB_STATUS_WARM = true →
    exec (.ocxoWarmChange true) s = .next
      (((s.set TB_STATUS_OCXOWARM 1).onTb fun b => { b with warmPrev := none, ocxoRise := b.ticks }).set TB_WARMDRIFT_COUNT 0).warmRule) ∧
  (∀ (s : State) (high : Bool), s.is TB_STATUS_OCXOWARM = high → exec (.ocxoWarmChange high) s = .next s) ∧
  (∀ (s u : State), s.warmRuns = true → s.is TB_STATUS_OCXOWARM = false → s.is TB_STATUS_WARM = false →
    s.reachTick (1000000000 + s.tb.ocxoFall) = some u →
    exec .ocxoWarmLowTimeout s = .next (((u.warmBegin none).set TB_STATUS_WARM 1).classChanged.warmRule)) ∧
  (∀ (s : State), s.warmRuns = true → s.is TB_STATUS_WARM = true → exec .ocxoWarmLowTimeout s = .next s)

/-- OFF, BACKUP and the power-up sequence: rows 1 to 3 of the mode table. AON_POWER_LOSS from any mode but OFF completes in
OFF: every part of the state outside the registers, the backup domain and the flash with its fuses is at reset, registers
outside the backup domain, the fuses and the factory's are at reset, and a flash no operation was writing is as it was; with
VBAT at 1.700 V or more those registers and the backup domain keep what they hold, its counter at the present instant where
TB ran, below it the counter and the KEK are cleared and the backup domain has no supply. AON_POWER_ON in OFF enters BACKUP
with PREV 0xF and cause 0 and supplies the backup domain. POWER_FAIL_TO_BACKUP by a pin or a main rail completes from every
powered mode in BACKUP with the lost mode in PREV, cause 1 and its reason in PM_LASTRESET, the switched domains at reset and
the backup counter at the present instant where TB ran; in BACKUP it stops the sequence. POWER_UP_START in BACKUP latches the
three pins and starts the sequence when all is well. VBAT_SWITCHOVER moves the supply of the backup domain and nothing else;
VBAT_LOSS while VIO18 is absent clears the counter and the KEK, and VBAT_RETURN supplies the domain again. Outside its mode
each command changes nothing, or notes the level of its pin alone. (spec/01_architecture.md (R22, R24),
spec/18_power_management.md (R461, R463, R468, R469), notes/assumptions/3.md) -/
def Obligations.PowerRowsOfTheModeTable : Prop :=
  (∀ (s : State) (v : Nat), s.mode ≠ .off →
    ∃ t, exec (.aonPowerLoss v) s = .next t ∧
      t = { mode := .off, rf := t.rf, bk := t.bk, boot := t.boot, out := s.out, free := t.free, pending := s.pending } ∧
      t.boot = { flash := t.boot.flash, root0 := s.boot.root0, root1 := s.boot.root1, importOff := s.boot.importOff, duk := s.boot.duk } ∧
      (s.boot.op = none → t.boot.flash = s.boot.flash) ∧
      (∀ F : Field, keptVbat F.key = false → t.get F = F.reset) ∧
      (∀ F : Field, keptVbat F.key = true → F.key ≠ SYS_TAMPER_KEKVALID.key → t.get F = s.get F) ∧
      (1700 ≤ v → t.get SYS_TAMPER_KEKVALID = s.get SYS_TAMPER_KEKVALID) ∧
      (1700 ≤ v → s.tb.running = false → t.bk = s.bk) ∧
      (1700 ≤ v → s.tb.running = true → t.bk = { s.bk with sec := instSec s.now, phase := instNsec s.now * 32768 / 1000000000 }) ∧
      (v < 1700 → t.bk.powered = false ∧ t.bk.valid = false ∧ t.bk.sec = 0 ∧ t.bk.phase = 0 ∧ t.bk.kek = 0 ∧ t.bk.lost = true ∧
        t.get SYS_TAMPER_KEKVALID = 0)) ∧
  (∀ (s : State) (v : Nat), s.mode = .off → exec (.aonPowerLoss v) s = .next s) ∧
  (∀ (s : State), s.mode = .off →
    exec .aonPowerOn s = .next (((((s.onMode .backup).onBk fun b => { b with powered := true }).set SYS_MODE_PREV 0xF).set
      SYS_MODE_CAUSE 0).set PM_LASTRESET_CAUSE 0)) ∧
  (∀ (s : State), s.mode ≠ .off → exec .aonPowerOn s = .next s) ∧
  (∀ (s : State) (c : PowerCause) (why : Nat), s.awake = true →
    (c = .pwrEn ∧ why = 1) ∨ (c = .porstN ∧ why = 2) ∨ (c = .pgood ∧ why = 3) ∨
      (∃ r, c = .rail r ∧ why = 4 ∧ (r = 0 ∨ r = 1 ∨ r = 4 ∨ r = 5 ∨ r = 7)) →
    ∃ t, exec (.powerFailToBackup c) s = .next t ∧
      t = { mode := .backup, rf := t.rf, bk := t.bk, pw := t.pw, jtag := t.jtag, mg := t.mg, boot := t.boot, out := s.out, free := t.free,
            pending := s.pending } ∧
      t.boot = { flash := t.boot.flash, root0 := s.boot.root0, root1 := s.boot.root1, importOff := s.boot.importOff, duk := s.boot.duk } ∧
      (s.boot.op = none → t.boot.flash = s.boot.flash) ∧
      t.mg = { spiStored := s.mg.spiStored, spiEarly := s.mg.spiEarly } ∧ (s.mode ≠ .safe → t.jtag = s.jtag) ∧
      t.pw = { pwrEn := s.pw.pwrEn && decide (why ≠ 1), porstN := s.pw.porstN && decide (why ≠ 2), pgood := s.pw.pgood && decide (why ≠ 3) } ∧
      t.get SYS_MODE_PREV = modeCode s.mode ∧ t.get SYS_MODE_CAUSE = 1 ∧ t.get PM_LASTRESET_CAUSE = why ∧
      (∀ r, c = .rail r → t.get PM_LASTRESET_RAIL = r) ∧
      (∀ F : Field, keptOff F.key = false → t.get F = F.reset) ∧
      (s.tb.running = false → t.bk = s.bk) ∧
      (s.tb.running = true → t.bk = { s.bk with sec := instSec s.now, phase := instNsec s.now * 32768 / 1000000000 })) ∧
  (∀ (s : State) (r : Nat), r ≠ 0 → r ≠ 1 → r ≠ 4 → r ≠ 5 → r ≠ 7 → exec (.powerFailToBackup (.rail r)) s = .next s) ∧
  (∀ (s : State), s.mode = .off → exec (.powerFailToBackup .pwrEn) s = .next (s.onPw fun p => { p with pwrEn := false }) ∧
    exec (.powerFailToBackup .porstN) s = .next (s.onPw fun p => { p with porstN := false }) ∧
    exec (.powerFailToBackup .pgood) s = .next (s.onPw fun p => { p with pgood := false })) ∧
  (∀ (s : State), s.mode = .backup →
    exec (.powerFailToBackup .pwrEn) s = .next (s.onPw fun p => { p with pwrEn := false, sequencing := false }) ∧
    exec (.powerFailToBackup .porstN) s = .next (s.onPw fun p => { p with porstN := false, sequencing := false }) ∧
    exec (.powerFailToBackup .pgood) s = .next (s.onPw fun p => { p with pgood := false, sequencing := false }) ∧
    exec (.powerFailToBackup (.rail 0)) s = .next (s.onPw fun p => { p with sequencing := false })) ∧
  (∀ (s : State) (a b c d : Bool), s.mode = .backup →
    exec (.powerUpStart a b c d) s = .next (s.onPw fun p => { p with pwrEn := a, porstN := b, pgood := c, sequencing := a && b && c && d })) ∧
  (∀ (s : State) (a b c d : Bool), s.mode ≠ .backup → exec (.powerUpStart a b c d) s = .next s) ∧
  (∀ (s : State), s.mode = .off → exec (.vbatSwitchover true) s = .next (s.onBk fun b => { b with onVbat := true })) ∧
  (∀ (s : State), s.mode ≠ .off → exec (.vbatSwitchover false) s = .next (s.onBk fun b => { b with onVbat := false })) ∧
  (∀ (s : State), (s.mode = .off → exec (.vbatSwitchover false) s = .next s) ∧ (s.mode ≠ .off → exec (.vbatSwitchover true) s = .next s)) ∧
  (∀ (s : State), s.mode = .off → s.bk.powered = true →
    exec .vbatLoss s = .next ((s.onBk fun b => { b with
      powered := false, valid := false, sec := 0, phase := 0, kek := 0, lost := true }).set SYS_TAMPER_KEKVALID 0)) ∧
  (∀ (s : State), s.mode = .off → exec .vbatReturn s = .next (s.onBk fun b => { b with powered := true })) ∧
  (∀ (s : State), s.mode ≠ .off → exec .vbatLoss s = .next s ∧ exec .vbatReturn s = .next s)

/-- Fatal errors, the die-to-die link and the vote of the master copies. A fatal error outside OFF, BACKUP and SAFE logs
0x0102 and takes row 7 to SAFE with the reason in NVM_STATUS; in SAFE it is logged with the bit that says so and the device
stays; in OFF and BACKUP nothing happens. A loss of the die-to-die link is noted once with its device ticks; a retraining
within 10 ms ends it, and otherwise the instant 10 ms after the loss is reached and the error is fatal code 0x03.
MASTER_COPY_RESYNC upsets bits of the copies while the counter runs, and the vote of the next tick follows: copies without a
majority, or the two that remain in disagreement, are fatal code 0x01; three that agree stay; one that differs from the vote
takes it and is counted; while the counter stands still nothing changes. (spec/01_architecture.md (R27), spec/02_time_base.md
(R37), notes/assumptions/19.md) -/
def Obligations.FatalErrorsAndLinkLoss : Prop :=
  (∀ (s : State) (c : FatalCode), s.awake = true → s.mode ≠ .safe →
    exec (.fatalError c) s = .next (((s.event 0x0102 3 (fatalNumber c)).enterMode .safe 0x04).set NVM_STATUS_SAFEREASON 2)) ∧
  (∀ (s : State) (c : FatalCode), s.mode = .safe → exec (.fatalError c) s = .next (s.event 0x0102 3 (fatalNumber c + 2 ^ 8))) ∧
  (∀ (s : State) (c : FatalCode), s.awake = false → exec (.fatalError c) s = .next s) ∧
  (∀ (s : State), s.awake = true → s.pw.d2dLost = none →
    exec .d2dLinkLoss s = .next (s.onPw fun p => { p with d2dLost := some s.tb.ticks })) ∧
  (∀ (s : State) (n : Nat), s.pw.d2dLost = some n → exec .d2dLinkLoss s = .next s) ∧
  (∀ (s : State) (n : Nat), s.pw.d2dLost = some n → s.tb.ticks ≤ 10000000 + n →
    exec .d2dLinkRetrain s = .next (s.onPw fun p => { p with d2dLost := none })) ∧
  (∀ (s u : State) (n : Nat), s.pw.d2dLost = some n → s.reachTick (10000000 + n) = some u →
    exec .d2dRetrainTimeout s = .next ((u.onPw fun p => { p with d2dLost := none }).fatal 0x03)) ∧
  (∀ (s : State) (n : Nat), s.pw.d2dLost = some n → s.reachTick (10000000 + n) = none → exec .d2dRetrainTimeout s = .next s) ∧
  (∀ (s : State), s.pw.d2dLost = none → exec .d2dRetrainTimeout s = .next s ∧ exec .d2dLinkRetrain s = .next s) ∧
  (∀ (s : State) (a b c : Nat), s.tb.running = false → exec (.masterCopyResync a b c) s = .next s) ∧
  (∀ (s : State) (a b c : Nat), s.tb.running = true → exec (.masterCopyResync a b c) s = .next (s.upset a b c).vote) ∧
  (∀ (u : State), u.is TB_STATUS_COPYFAIL = false →
    (u.tb.c0.bits ≠ u.tb.c1.bits → u.tb.c0.bits ≠ u.tb.c2.bits → u.tb.c1.bits ≠ u.tb.c2.bits → u.vote = u.fatal 0x01) ∧
    (u.tb.c1 = u.tb.c0 → u.tb.c2 = u.tb.c0 → u.master = u.tb.c0 → u.vote = u) ∧
    (u.tb.c1 = u.tb.c2 → u.master = u.tb.c1 → u.tb.c0 ≠ u.tb.c1 →
      u.vote = (u.onTb fun t => { t with c0 := u.tb.c1 }).resyncCopy 0 (onesCount (u.tb.c0.bits ^^^ u.tb.c1.bits)))) ∧
  (∀ (u : State), u.is TB_STATUS_COPYFAIL = true → u.get TB_STATUS_FAILEDCOPY = 2 →
    (u.tb.c0 = u.tb.c1 → u.vote = u) ∧ (u.tb.c0 ≠ u.tb.c1 → u.vote = u.fatal 0x01))

/-- MAINTENANCE commands and the firmware's evaluation of the mode. Entering a mode with a cause of the mode table leaves the
device in that mode, with the mode left in PREV and the cause in CAUSE. MODE_EVALUATION takes from WARMUP, once WARM is
clear: STANDBY for a pair member without the token, else SERVICE when a source is ACTIVE; from SERVICE: STANDBY without the
token, WARMUP when WARM returns, HOLDOVER when no source is QUALIFIED or ACTIVE; from HOLDOVER: STANDBY, WARMUP, or SERVICE
when a source is ACTIVE; from STANDBY with the token: SERVICE when a source other than PARTNER is good, HOLDOVER when one has
ever been ACTIVE, else WARMUP; and where no row applies it changes nothing. ENTER_MAINT and EXIT_MAINT are accepted, with
STATUS 1 and the command's CODE, and change the mode by causes 0x0C and 0x0D, leaving into the resume mode; a token holder
that will not serve in MAINTENANCE releases first; in a mode that does not allow them they are refused with STATUS 2 and
event 0x0103. (spec/01_architecture.md (R24 to R26, R28, R30)) -/
def Obligations.ModeCommandsAndEvaluation : Prop :=
  (∀ (s : State) (m : Mode) (c : Nat), s.awake = true → m ≠ .off → m ≠ .backup → c < 256 →
    (s.enterMode m c).mode = m ∧ (s.enterMode m c).get SYS_MODE_PREV = modeCode s.mode ∧ (s.enterMode m c).get SYS_MODE_CAUSE = c) ∧
  (∀ (s : State), s.mode = .warmup → s.is TB_STATUS_WARM = false →
    (s.noToken = true → exec .modeEvaluation s = .next (s.enterMode .standby 0x06)) ∧
    (s.noToken = false → s.active.isSome = true → exec .modeEvaluation s = .next (s.enterMode .service 0x06)) ∧
    (s.noToken = false → s.active.isSome = false → exec .modeEvaluation s = .next s)) ∧
  (∀ (s : State), s.mode = .warmup → s.is TB_STATUS_WARM = true → exec .modeEvaluation s = .next s) ∧
  (∀ (s : State), s.mode = .service →
    (s.noToken = true → exec .modeEvaluation s = .next (s.enterMode .standby 0x0A)) ∧
    (s.noToken = false → s.is TB_STATUS_WARM = true → exec .modeEvaluation s = .next (s.enterMode .warmup 0x07)) ∧
    (s.noToken = false → s.is TB_STATUS_WARM = false → (∀ k, k < 20 → s.good k = false) →
      exec .modeEvaluation s = .next (s.enterMode .holdover 0x08)) ∧
    (s.noToken = false → s.is TB_STATUS_WARM = false → (∃ k, k < 20 ∧ s.good k = true) → exec .modeEvaluation s = .next s)) ∧
  (∀ (s : State), s.mode = .holdover →
    (s.noToken = true → exec .modeEvaluation s = .next (s.enterMode .standby 0x0A)) ∧
    (s.noToken = false → s.is TB_STATUS_WARM = true → exec .modeEvaluation s = .next (s.enterMode .warmup 0x07)) ∧
    (s.noToken = false → s.is TB_STATUS_WARM = false → s.active.isSome = true →
      exec .modeEvaluation s = .next (s.enterMode .service 0x09)) ∧
    (s.noToken = false → s.is TB_STATUS_WARM = false → s.active.isSome = false → exec .modeEvaluation s = .next s)) ∧
  (∀ (s : State), s.mode = .standby → s.holds = true →
    (s.otherGood = true → exec .modeEvaluation s = .next (s.enterMode .service 0x0B)) ∧
    (s.otherGood = false → s.is SEL_STATUS_EVERACTIVE = true → exec .modeEvaluation s = .next (s.enterMode .holdover 0x0B)) ∧
    (s.otherGood = false → s.is SEL_STATUS_EVERACTIVE = false → exec .modeEvaluation s = .next (s.enterMode .warmup 0x0B))) ∧
  (∀ (s : State), s.mode = .standby → s.holds = false →
    (s.is TB_STATUS_WARM = true → exec .modeEvaluation s = .next (s.enterMode .warmup 0x07)) ∧
    (s.is TB_STATUS_WARM = false → exec .modeEvaluation s = .next s)) ∧
  (∀ (s : State), s.mode = .off ∨ s.mode = .backup ∨ s.mode = .boot ∨ s.mode = .safe ∨ s.mode = .maintenance →
    exec .modeEvaluation s = .next s) ∧
  (∀ (s : State) (p : Path), s.mode = .warmup ∨ s.mode = .service ∨ s.mode = .holdover ∨ s.mode = .standby →
    s.leaseSt ≠ 5 ∨ s.is CFG_SERVE_MAINT_SERVE = true →
    exec (.enterMaint p) s = .next (((s.set SYS_MODECMD_STATUS 1).set SYS_MODECMD_CODE 1).enterMode .maintenance 0x0C)) ∧
  (∀ (s : State) (p : Path), s.mode = .warmup ∨ s.mode = .service ∨ s.mode = .holdover ∨ s.mode = .standby →
    s.leaseSt = 5 → s.is CFG_SERVE_MAINT_SERVE = false →
    exec (.enterMaint p) s = .next
      ((((s.set SYS_MODECMD_STATUS 1).set SYS_MODECMD_CODE 1).leaseRelease 9 s.now).enterMode .maintenance 0x0C)) ∧
  (∀ (s : State) (p : Path), s.mode = .boot ∨ s.mode = .safe ∨ s.mode = .maintenance →
    exec (.enterMaint p) s = .next (((s.set SYS_MODECMD_STATUS 2).set SYS_MODECMD_CODE 1).event 0x0103 1 (1 + modeCode s.mode * 2 ^ 8))) ∧
  (∀ (s : State) (p : Path) (m : Mode), s.mode = .maintenance →
    m = (if s.is TB_STATUS_WARM = true then .warmup else if s.is SYS_MODE_PAIR = true ∧ s.holds = false then .standby
      else if s.active.isSome = true then .service else if s.is SYS_MODE_MODELVALID = true then .holdover else .warmup) →
    exec (.exitMaint p) s = .next (((s.set SYS_MODECMD_STATUS 1).set SYS_MODECMD_CODE 2).enterMode m 0x0D)) ∧
  (∀ (s : State) (p : Path), s.awake = true → s.mode ≠ .maintenance →
    exec (.exitMaint p) s = .next (((s.set SYS_MODECMD_STATUS 2).set SYS_MODECMD_CODE 2).event 0x0103 1 (2 + modeCode s.mode * 2 ^ 8)))

/-- BOOT step by step: identification, entropy, slot read, verification, WARMUP. POWER_UP_COMPLETE in BACKUP with the
sequence running seeds TB for its registers, enters BOOT with cause 1, logs 0x0202 and tries to identify the flash; a failed
attempt is retried 10 ms later, the third failure rejects both slots and ends in SAFE. The synthesizer's lock starts the
counter and seeds it from the backup counter when that is valid, else from the newest image build, and shows which in
BKVALID. The entropy tests instantiate the DRBG when a source passes, and where the tamper latch was to be cleared they clear
it and draw a KEK; with none both slots are rejected with reason 14. A slot read without error runs to its last byte, and a
slot whose CRCs and root digest hold waits for its signature; a read error, a CRC or a root failure fails the slot with
reasons 1, 9 and 10. A verification runs to its end; an engine's first fault reruns, its second fails the slot with reason
11, as does a bad signature; a slot that passes gets the ATTEMPT marker unless confirmed, and its configuration is installed,
or fails with reasons 12 and 13. BOOT_COMPLETE without a pair enters WARMUP with cause 2. Out of its place in the sequence,
and where a second boundary comes before its instant, each command changes nothing. (spec/14_boot_configuration_lifecycle.md
(R370, R371, R377 to R379, R388), spec/01_architecture.md (R24), spec/02_time_base.md (R57), notes/assumptions/63.md) -/
def Obligations.BootRunsItsSequence : Prop :=
  (∀ (s : State) (f : Bool), s.mode = .backup → s.pw.sequencing = true →
    exec (.powerUpComplete f) s = .next (((((( s.onPw fun p => { p with sequencing := false }).seedTb 0).enterMode .boot 0x01).event
      0x0202 0 (s.get PM_LASTRESET_CAUSE + s.get PM_LASTRESET_RAIL * 2 ^ 4)).bootStart).identify f)) ∧
  (∀ (s : State) (f : Bool), s.mode ≠ .backup ∨ s.pw.sequencing = false → exec (.powerUpComplete f) s = .next s) ∧
  (∀ (s u : State) (f : Bool), s.mode = .boot → s.boot.step = .identify → s.reachClocked (10000000 + s.boot.stepAt) = some u →
    exec (.flashIdentificationRetry f) s = .next (u.identify f)) ∧
  (∀ (s : State), let u := s.onBoot fun b => { b with flashTries := b.flashTries + 1 }
    s.identify true = ((((u.set NVM_STATUS_FLASHOK 1).slotHead 0).slotHead 1).showOrbit.chooseSlot) ∧
    (s.boot.flashTries < 2 → s.identify false = u.onBoot fun b => { b with step := .identify, stepAt := s.tb.ticks }) ∧
    (2 ≤ s.boot.flashTries → s.identify false = ((u.slotReject 0 1).slotReject 1 1).bootSafe)) ∧
  (∀ (s : State) (f : Bool), s.mode ≠ .boot ∨ s.boot.step ≠ .identify ∨ s.reachClocked (10000000 + s.boot.stepAt) = none →
    exec (.flashIdentificationRetry f) s = .next s) ∧
  (∀ (s : State), s.mode = .boot ∨ s.mode = .safe → s.tb.running = false →
    ∃ t, exec .tbSynthesizerLock s = .next t ∧ t.tb.running = true ∧ t.get TB_STATUS_SYNLOCK = 1 ∧ t.tb.c1 = t.tb.c0 ∧
      t.tb.c2 = t.tb.c0 ∧ t.tb.reps = [t.tb.c0, t.tb.c0, t.tb.c0, t.tb.c0] ∧ t.mode = s.mode ∧
      (s.bk.valid = true → t.tb.c0 = ⟨s.bk.sec, min (s.bk.phase * 30517578125 / 1000000) 999999999, 0⟩ ∧ t.get TB_STATUS_BKVALID = 1) ∧
      (s.bk.valid = false → t.tb.c0 = ⟨s.boot.build, 0, 0⟩ ∧ t.get TB_STATUS_BKVALID = 0)) ∧
  (∀ (s : State), s.tb.running = true ∨ (s.mode ≠ .boot ∧ s.mode ≠ .safe) → exec .tbSynthesizerLock s = .next s) ∧
  (∀ (s : State) (a b : Bool), s.mode = .boot → s.boot.entropyDone = false → (a || b) = true →
    let u := ((s.set SYS_ENTROPY_FAILED ((if a then 0 else 1) + (if b then 0 else 2))).onBoot fun x => { x with
      entropyDone := true, seededAt := s.tb.ticks, stepAt := if x.step = .verify then s.tb.ticks else x.stepAt }).set SYS_ENTROPY_DRBGOK 1
    (s.bk.clearAsked = false → exec (.entropyStartupDone a b) s = .next u) ∧
    (s.bk.clearAsked = true → s.boot.importOff = false → exec (.entropyStartupDone a b) s = .next
      (((((u.onBk fun x => { x with clearAsked := false }).set SYS_TAMPER_LATCH 0).set SYS_TAMPER_CAUSE 0).clearCond 0x0111 0).event
        0x0112 0 0).drawKek)) ∧
  (∀ (s : State), s.mode = .boot → s.boot.entropyDone = false →
    exec (.entropyStartupDone false false) s = .next (((s.set SYS_ENTROPY_FAILED 3).slotReject 0 14).slotReject 1 14).bootSafe) ∧
  (∀ (s : State) (a b : Bool), s.mode ≠ .boot ∨ s.boot.entropyDone = true → exec (.entropyStartupDone a b) s = .next s) ∧
  (∀ (s : State), s.mode = .boot → s.boot.step = .readSlot → exec (.slotReadComplete true) s = .next (s.slotFails 1)) ∧
  (∀ (s v : State), s.mode = .boot → s.boot.step = .readSlot → s.reachTick (20 * s.imgLen s.boot.slot + s.boot.stepAt) = some v →
    let k := s.boot.slot
    let u := v.set (NVM_SLOT_DIGEST k) ((v.imgDigest k).toNat / 2 ^ 352)
    (u.crcOk k = false → exec (.slotReadComplete false) s = .next (u.slotFails 9)) ∧
    (u.crcOk k = true → u.rootOk k = false → exec (.slotReadComplete false) s = .next (u.slotFails 10)) ∧
    (u.crcOk k = true → u.rootOk k = true →
      exec (.slotReadComplete false) s = .next (u.onBoot fun b => { b with step := .verify, stepAt := v.tb.ticks }))) ∧
  (∀ (s : State) (e : Bool), s.mode ≠ .boot ∨ s.boot.step ≠ .readSlot → exec (.slotReadComplete e) s = .next s) ∧
  (∀ (s v : State), s.mode = .boot → s.boot.step = .verify → s.boot.entropyDone = true → s.reachTick (8279296 + s.boot.stepAt) = some v →
    (v.boot.verifyFaults = 0 → exec (.imageVerifyDone true) s = .next (v.onBoot fun b => { b with verifyFaults := 1, stepAt := v.tb.ticks })) ∧
    (v.boot.verifyFaults ≠ 0 → exec (.imageVerifyDone true) s = .next (v.slotFails 11)) ∧
    (v.signOk v.boot.slot = false → exec (.imageVerifyDone false) s = .next (v.slotFails 11))) ∧
  (∀ (s v : State), s.mode = .boot → s.boot.step = .verify → s.boot.entropyDone = true → s.reachTick (8279296 + s.boot.stepAt) = some v →
    let k := v.boot.slot
    let cfg := (v.findSection k 1).getD []
    let m := if v.marker k 1 then v else v.setMarker k 0
    let c := m.configure cfg
    v.signOk k = true →
    (v.svnOk k = false → exec (.imageVerifyDone false) s = .next (m.slotFails 12)) ∧
    (v.svnOk k = true → c.configRules (v.sections k) ((v.findSection k 2).getD []) = false →
      exec (.imageVerifyDone false) s = .next (m.slotFails 13)) ∧
    (v.svnOk k = true → c.configRules (v.sections k) ((v.findSection k 2).getD []) = true →
      exec (.imageVerifyDone false) s = .next
        (((c.set (NVM_SLOT_VALID k) 1).event 0x7002 0 (k + (if v.marker k 1 then 2 else 0) + v.headField k 5 1 * 2 ^ 8)).install k
          (sortEntries (cfgEntries cfg))))) ∧
  (∀ (s : State) (e : Bool), s.mode ≠ .boot ∨ s.boot.step ≠ .verify ∨ s.boot.entropyDone = false ∨
    s.reachTick (8279296 + s.boot.stepAt) = none → exec (.imageVerifyDone e) s = .next s) ∧
  (∀ (s : State), s.mode = .boot → s.boot.step = .apply → s.tb.running = true → s.is LEASE_CFG_EN = false →
    exec .bootComplete s = .next
      (((((((s.onBoot fun b => { b with step := .done, upSince := s.tb.ticks }).onTb fun t => { t with warmFrom := t.ticks }).warmBegin none).set
        TB_WARMDRIFT_DRIFT 0xFFFFFF).set SEL_STATUS_ACQ 1).enterMode .warmup 0x02).forEach 20 State.srcRows).dpllSecond.showTod.warmRule.publishTqr) ∧
  (∀ (s : State), s.mode ≠ .boot ∨ s.boot.step ≠ .apply ∨ s.tb.running = false → exec .bootComplete s = .next s)

/-- SYS_REBOOT: row 8 of the mode table. In a powered mode SYS_REBOOT completes: a token holder releases first, then BOOT is
entered by cause 5, the sessions that were open are logged as ended, and a device whose flash was identified goes on to
choose its slot, one whose flash was not tries to identify it. Where the device holds no token and the flash has not been
identified, BOOT shows the mode it left in PREV, takes the slot choice (3 asks for none), waits for a new attempt to identify
the flash, keeps the counter running at the voted value with its device ticks, the backup counter and the KEK, the fused
roots and the flash that no operation was writing, and drops what the ports, the fabric, the services and the time-service
logic held. In OFF and BACKUP it changes nothing. (spec/01_architecture.md (R24), spec/14_boot_configuration_lifecycle.md
(R371, R379), spec/18_power_management.md (R461)) -/
def Obligations.RebootKeepsTheCountAndTheSlotChoice : Prop :=
  (∀ (s : State) (p : Path) (n : Nat), s.awake = true →
    let r := if s.leaseSt = 5 then s.leaseRelease 9 s.now else s
    let u := (r.openSessions.foldl (fun s a => (s.event 0x0123 0 a).irq 8) ((r.rebooted n).enterMode .boot 0x05)).bootStart
    let v := u.set PM_STATUS_DOMAINS (u.get PM_STATUS_DOMAINS ||| (0x40 + if u.boot.gnKept then 0x100 else 0))
    (v.is NVM_STATUS_FLASHOK = true → exec (.sysReboot p n) s = .next v.identified) ∧
    (v.is NVM_STATUS_FLASHOK = false → exec (.sysReboot p n) s = .next (v.onBoot fun b => { b with step := .identify }))) ∧
  (∀ (s : State) (p : Path) (n : Nat), s.awake = true → s.leaseSt ≠ 5 → s.is NVM_STATUS_FLASHOK = false → s.boot.op = none →
    ∃ t, exec (.sysReboot p n) s = .next t ∧ t.mode = .boot ∧ t.get SYS_MODE_PREV = modeCode s.mode ∧ t.get SYS_MODE_CAUSE = 5 ∧
      t.boot.request = (if n = 3 then 0 else n) ∧ t.boot.step = .identify ∧ t.boot.flash = s.boot.flash ∧
      t.boot.root0 = s.boot.root0 ∧ t.boot.root1 = s.boot.root1 ∧ t.bk.sec = s.bk.sec ∧ t.bk.kek = s.bk.kek ∧
      t.tb.running = s.tb.running ∧ t.tb.ticks = s.tb.ticks ∧ t.tb.c0 = s.master ∧ t.tb.c1 = s.master ∧ t.tb.c2 = s.master ∧
      t.mac.rxq = [] ∧ t.fab.engines = [] ∧ t.tsl = {} ∧ t.ntp.conns = [] ∧ t.ptp = {}) ∧
  (∀ (s : State) (p : Path) (n : Nat), s.awake = false → exec (.sysReboot p n) s = .next s)

/-- The seven lifecycle commands: first write arms, second executes under its precondition. In MAINTENANCE a write of a
lifecycle command from the SPI target or OMP, with none armed, arms it and shows STATUS 1. A second write of the same value
within 1 s executes it when its precondition holds, with STATUS 2 and event 0x0110: PROVISION fuses ROOT0 and draws a KEK,
DEPLOY moves PROVISIONED to DEPLOYED, RETURN zeroes the key store and the KEK, disables the import key and enters RETURNED,
FUSE_ROOT1 fuses the key digest of the inactive valid slot, REVOKE blows the fuse of a root while the running image is signed
under the other live root, SVN_ADVANCE raises the count to the running SVN and never lowers it, TAMPER_CLEAR is kept for the
next BOOT. Where the precondition fails, in another mode, or from a control processor, STATUS is 3, nothing stays armed and
no effect happens. (spec/14_boot_configuration_lifecycle.md (R388, R389)) -/
def Obligations.LifecycleCommandsArmThenExecute : Prop :=
  let shown := fun (s : State) (code arg : Nat) =>
    (((s.onBoot fun b => { b with lcArmed := none }).set SYS_LCCMD_CODE code).set SYS_LCCMD_ARG arg).set SYS_LCCMD_STATUS 3
  let row := fun (p : Path) => [(Instr.provision p, 1, 0), (.deploy p, 2, 0), (.returnDevice p, 3, 0), (.fuseRoot1 p, 4, 0), (.revoke p 0, 5, 0),
    (.revoke p 1, 5, 1), (.revoke p 2, 5, 2), (.revoke p 3, 5, 3), (.svnAdvance p, 6, 0), (.tamperClear p, 7, 0)]
  let armed := fun (s : State) (code arg : Nat) => ∃ t, s.boot.lcArmed = some (code + arg * 256, t) ∧ s.tb.ticks ≤ 1000000000 + t
  (∀ (s : State) (p : Path) (c : Instr) (k a : Nat), s.mode = .maintenance → p = .spi ∨ p = .omp → s.boot.lcArmed = none →
    (c, k, a) ∈ row p →
    ∃ t, exec c s = .next t ∧ t.boot = { s.boot with lcArmed := some (k + a * 256, s.tb.ticks) } ∧ t.get SYS_LCCMD_STATUS = 1 ∧ t.get SYS_LCCMD_CODE = k ∧ t.get SYS_LCCMD_ARG = a ∧
      { t with boot := s.boot, rf := s.rf } = s ∧ OnlyRegs s t [SYS_LCCMD_CODE, SYS_LCCMD_ARG, SYS_LCCMD_STATUS]) ∧
  (∀ (s : State) (p : Path) (c : Instr) (k a : Nat), s.awake = true → s.mode ≠ .maintenance ∨ (∃ n, p = .cp n) → (c, k, a) ∈ row p →
    exec c s = .next (((((s.onBoot fun b => { b with lcArmed := none }).set SYS_LCCMD_CODE (k + a * 256)).set SYS_LCCMD_ARG
      ((k + a * 256) / 256)).set SYS_LCCMD_STATUS 3))) ∧
  (∀ (s : State) (p : Path) (k a : Nat), s.mode = .maintenance → p = .spi ∨ p = .omp → armed s k a →
    let u := shown s (k + a * 256) a
    (k = 1 → a = 0 → s.get SYS_LIFECYCLE_STATE = 0 → exec (.provision p) s = .next
      (((((u.onBoot fun b => { b with root0 := u.keyHash s.boot.slot }).set SYS_LIFECYCLE_ROOT0 1).drawKek).set SYS_LIFECYCLE_STATE 1).lcDone 1)) ∧
    (k = 2 → a = 0 → s.get SYS_LIFECYCLE_STATE = 1 → exec (.deploy p) s = .next ((u.set SYS_LIFECYCLE_STATE 2).lcDone 2)) ∧
    (k = 3 → a = 0 → s.get SYS_LIFECYCLE_STATE = 1 ∨ s.get SYS_LIFECYCLE_STATE = 2 → exec (.returnDevice p) s = .next
      ((((u.zeroStore.zeroKek.onBoot fun b => { b with importOff := true }).set SYS_LIFECYCLE_STATE 3).showProvPub).lcDone 3)) ∧
    (k = 4 → a = 0 → s.get SYS_LIFECYCLE_STATE = 1 ∨ s.get SYS_LIFECYCLE_STATE = 2 → s.is SYS_LIFECYCLE_ROOT1 = false →
      s.is (NVM_SLOT_VALID (1 - s.boot.slot)) = true → exec (.fuseRoot1 p) s = .next
      (((u.onBoot fun b => { b with root1 := u.keyHash (1 - s.boot.slot) }).set SYS_LIFECYCLE_ROOT1 1).lcDone 4)) ∧
    (k = 5 → a = 0 → s.rootLive 1 = true → s.keyHash s.boot.slot = s.rootDigest 1 →
      exec (.revoke p 0) s = .next ((u.set SYS_LIFECYCLE_REV0 1).lcDone 5)) ∧
    (k = 5 → a = 1 → s.rootLive 0 = true → s.keyHash s.boot.slot = s.rootDigest 0 →
      exec (.revoke p 1) s = .next ((u.set SYS_LIFECYCLE_REV1 1).lcDone 5)) ∧
    (k = 6 → a = 0 → s.get SYS_LIFECYCLE_STATE = 2 → exec (.svnAdvance p) s = .next
      ((u.set SYS_LIFECYCLE_SVNCNT (max (s.get SYS_LIFECYCLE_SVNCNT) (s.get CFG_IMAGE_SVN))).lcDone 6)) ∧
    (k = 7 → a = 0 → s.is SYS_TAMPER_LATCH = true → exec (.tamperClear p) s = .next ((u.onBk fun b => { b with clearAsked := true }).lcDone 7)) ∧
    (k = 1 → a = 0 → s.get SYS_LIFECYCLE_STATE ≠ 0 → exec (.provision p) s = .next u) ∧
    (k = 2 → a = 0 → s.get SYS_LIFECYCLE_STATE ≠ 1 → exec (.deploy p) s = .next u) ∧
    (k = 3 → a = 0 → s.get SYS_LIFECYCLE_STATE ≠ 1 → s.get SYS_LIFECYCLE_STATE ≠ 2 → exec (.returnDevice p) s = .next u) ∧
    (k = 4 → a = 0 → (s.get SYS_LIFECYCLE_STATE ≠ 1 ∧ s.get SYS_LIFECYCLE_STATE ≠ 2) ∨ s.is SYS_LIFECYCLE_ROOT1 = true ∨
      s.is (NVM_SLOT_VALID (1 - s.boot.slot)) = false → exec (.fuseRoot1 p) s = .next u) ∧
    (k = 5 → a = 0 → s.rootLive 1 = false ∨ s.keyHash s.boot.slot ≠ s.rootDigest 1 → exec (.revoke p 0) s = .next u) ∧
    (k = 5 → a = 1 → s.rootLive 0 = false ∨ s.keyHash s.boot.slot ≠ s.rootDigest 0 → exec (.revoke p 1) s = .next u) ∧
    (k = 5 → (a = 2 → exec (.revoke p 2) s = .next u) ∧ (a = 3 → exec (.revoke p 3) s = .next u)) ∧
    (k = 7 → a = 0 → s.is SYS_TAMPER_LATCH = false → exec (.tamperClear p) s = .next u) ∧
    (k = 6 → a = 0 → s.get SYS_LIFECYCLE_STATE ≠ 2 → exec (.svnAdvance p) s = .next u))

/-- Tamper inputs, key scrubbing, entropy blocks, DRBG reseeds and image confirmation. A watched tamper input at its active
level zeroes the KEK and sets the latch with its cause in any mode while the backup domain has its supply, and in a powered
mode zeroes the key store and shows the latch's alarm too; the latch records its first cause with the coarse second, and
keeps it; at its other level, unwatched or without supply it does nothing. A scrub that finds no failing entry changes
nothing, and one failing entry is marked and is fatal code 0x04. A passing entropy block clears its source's failures; a
failing one is counted and logged, the third in a row fails the source; the second source's failure with it is an alarm. A
reseed, after 2^20 requests or one second after the last seeding, which is reached, starts the request count again unless
both sources have failed. Confirmation programs the CONFIRM marker of the running slot once and logs 0x7005, with bit 8 when
it is automatic, 600 s after BOOT, which is reached. (spec/14_boot_configuration_lifecycle.md (R380, R393 to R396)) -/
def Obligations.TamperScrubEntropyAndConfirmation : Prop :=
  (∀ (s : State) (n : Fin 2) (h : Bool), s.bk.powered = true → s.bk.tamperEn.testBit n = true → s.bk.tamperPol.testBit n = h →
    let u := (s.onBk fun b => { b with kek := 0 }).set SYS_TAMPER_KEKVALID 0
    (s.awake = true → exec (.tamperInput n h) s = .next ((u.latch n).zeroStore.latchShow)) ∧
    (s.awake = false → exec (.tamperInput n h) s = .next (u.latch n))) ∧
  (∀ (s : State) (n : Fin 2) (h : Bool),
    s.bk.powered = false ∨ s.bk.tamperEn.testBit n = false ∨ s.bk.tamperPol.testBit n = !h → exec (.tamperInput n h) s = .next s) ∧
  (∀ (s : State) (c : Nat), s.is SYS_TAMPER_LATCH = false →
    s.latch c = ((s.set SYS_TAMPER_LATCH 1).set SYS_TAMPER_CAUSE c).set SYS_TAMPERSEC_SEC (if s.tb.running then instSec s.now else s.bk.sec)) ∧
  (∀ (s : State) (c : Nat), s.is SYS_TAMPER_LATCH = true → s.latch c = s) ∧
  (∀ (s : State), exec (.keyScrub []) s = .next s) ∧
  (∀ (s : State) (i : Fin 256) (k : KeyEntry), s.awake = true → s.entryAt i = some k →
    exec (.keyScrub [i]) s = .next ((s.onBoot fun b => { b with keys := SMap.set none b.keys i (some { k with corrupt := true }) }).fatal 0x04)) ∧
  (∀ (s : State) (i : Fin 256), s.entryAt i = none → exec (.keyScrub [i]) s = .next s) ∧
  (∀ (s : State) (k : Fin 2), s.awake = true → s.is SYS_ENTROPY_DRBGOK = true → s.bit SYS_ENTROPY_FAILED k = false →
    let put := fun (n : Nat) => s.onBoot fun b => { b with srcFails := if k = 0 then (n, b.srcFails.2) else (b.srcFails.1, n) }
    let n := (if k = 0 then s.boot.srcFails.1 else s.boot.srcFails.2) + 1
    let u := fun (ap : Bool) => ((put n).bump SYS_ENTROPY_DISCARDS 1).event 0x0114 1 (k + if ap then 2 ^ 8 else 0)
    let v := fun (ap : Bool) => ((u ap).setBit SYS_ENTROPY_FAILED k true).event 0x0115 2 k
    exec (.entropyBlock k none) s = .next (put 0) ∧
    (n < 3 → ∀ ap, exec (.entropyBlock k (some ap)) s = .next (u ap)) ∧
    (3 ≤ n → ∀ ap, (v ap).get SYS_ENTROPY_FAILED ≠ 3 → exec (.entropyBlock k (some ap)) s = .next (v ap)) ∧
    (3 ≤ n → ∀ ap, (v ap).get SYS_ENTROPY_FAILED = 3 → exec (.entropyBlock k (some ap)) s = .next ((v ap).raiseCond 0x0116 3 0 0))) ∧
  (∀ (s : State) (k : Fin 2) (f : Option Bool), s.bit SYS_ENTROPY_FAILED k = true → exec (.entropyBlock k f) s = .next s) ∧
  (∀ (s : State), s.awake = true → s.is SYS_ENTROPY_DRBGOK = true → s.get SYS_ENTROPY_FAILED ≠ 3 →
    (2 ^ 20 ≤ s.boot.drbgReqs → exec .drbgReseed s = .next (s.onBoot fun b => { b with drbgReqs := 0, seededAt := s.tb.ticks })) ∧
    (s.boot.drbgReqs < 2 ^ 20 → ∀ u, s.reachTick (1000000000 + s.boot.seededAt) = some u →
      exec .drbgReseed s = .next (u.onBoot fun b => { b with drbgReqs := 0, seededAt := u.tb.ticks }))) ∧
  (∀ (s : State), s.get SYS_ENTROPY_FAILED = 3 → exec .drbgReseed s = .next s) ∧
  (∀ (s : State) (p : Path), s.mode = .service ∨ s.mode = .warmup ∨ s.mode = .holdover ∨ s.mode = .standby ∨ s.mode = .maintenance →
    s.is NVM_CONFIRM_CONFIRM = false →
    exec (.nvmConfirm p) s = .next (((s.setMarker s.boot.slot 1).set NVM_CONFIRM_CONFIRM 1).event 0x7005 0 s.boot.slot)) ∧
  (∀ (s : State) (p : Path), s.is NVM_CONFIRM_CONFIRM = true → exec (.nvmConfirm p) s = .next s ∧ exec .autoconfirm s = .next s) ∧
  (∀ (s : State), s.mode = .service ∨ s.mode = .warmup ∨ s.mode = .holdover ∨ s.mode = .standby ∨ s.mode = .maintenance →
    s.is CFG_IMAGE_AUTOCONF = true → s.is NVM_CONFIRM_CONFIRM = false → ∀ u, s.reachTick (600 * 1000000000 + s.boot.upSince) = some u →
    u.is NVM_CONFIRM_CONFIRM = false →
    exec .autoconfirm s = .next (((u.setMarker u.boot.slot 1).set NVM_CONFIRM_CONFIRM 1).event 0x7005 0 (u.boot.slot + 2 ^ 8)))

/-- Update sessions: OPEN, PROGRAM, READ, VERIFY, CLOSE and the end of an operation. From the SPI target or OMP after BOOT,
OPEN of a slot that did not boot, with no session, opens the session for its path, logs 0x7003, erases the markers and the
first sector and shows the slot empty; with a session open it is refused with STATUS 3. In its session with no operation in
hand PROGRAM clears bits of 4 KiB at NVM_UPDOFS by the staging buffer, READ and VERIFY begin, and CLOSE ends the session with
STATUS 2 and IRQ UPD; outside it they are refused with STATUS 3. A control processor's write changes nothing.
NVM_OPERATION_COMPLETE ends the operation in hand: STATUS 2, with the erase finished, the staging buffer filled from the
slot, or the slot's block showing the first check that fails with event 0x7004; or STATUS 4 with event 0x7007; and IRQ UPD
either way; with none in hand it changes nothing. (spec/14_boot_configuration_lifecycle.md (R397, R398, R401)) -/
def Obligations.UpdateSessionsRunTheirCommands : Prop :=
  (∀ (s : State) (p : Path) (k : Fin 2), s.awake = true → s.mode ≠ .boot → p = .spi ∨ p = .omp →
    s.is NVM_STATUS_SESSION = false → s.boot.op = none → (k : Nat) ≠ s.get NVM_STATUS_BOOTSLOT →
    ∃ t, exec (.updateOpen p k) s = .next t ∧ t.boot.op = some .erase ∧ t.get NVM_STATUS_SESSION = 1 ∧
      t.get NVM_STATUS_SESSIONSLOT = k ∧ t.get NVM_STATUS_SESSIONOMP = (if p = .omp then 1 else 0) ∧ t.get NVM_UPDCTL_STATUS = 1 ∧
      t.get NVM_UPDCTL_CMD = 1 ∧ t.get (NVM_SLOT_VALID k) = 0 ∧ t.get (NVM_SLOT_REASON k) = 2 ∧
      t.boot.flash = SMap.clearRange (SMap.clearRange s.boot.flash (markerBase k) 4096) (slotBase k) 4096) ∧
  (∀ (s : State) (p : Path) (k : Fin 2), s.awake = true → s.mode ≠ .boot → p = .spi ∨ p = .omp → s.is NVM_STATUS_SESSION = true →
    exec (.updateOpen p k) s = .next (((s.set NVM_UPDCTL_CMD 1).set NVM_UPDCTL_STATUS 3).set NVM_UPDCTL_SLOT k)) ∧
  (∀ (s : State) (p : Path), s.awake = true → s.mode ≠ .boot → s.boot.op = none → s.is NVM_STATUS_SESSION = true →
    (p = .spi ∧ s.is NVM_STATUS_SESSIONOMP = false) ∨ (p = .omp ∧ s.is NVM_STATUS_SESSIONOMP = true) →
    let k := s.get NVM_STATUS_SESSIONSLOT
    let a := slotBase k + s.get NVM_UPDOFS_OFS
    let u := fun c => (s.set NVM_UPDCTL_CMD c).set NVM_UPDCTL_STATUS 1
    exec (.updateProgram p) s = .next (((u 2).flashPut a (List.zipWith (fun x y => x &&& y) (SMap.getMany 0 s.boot.staging 0 4096)
      ((u 2).flashBytes a 4096))).onBoot fun b => { b with op := some .program }) ∧
    exec (.updateRead p) s = .next ((u 3).onBoot fun b => { b with op := some .read }) ∧
    exec (.updateVerify p) s = .next ((u 4).onBoot fun b => { b with op := some .verify }) ∧
    exec (.updateClose p) s = .next ((((((u 5).event 0x7003 0 (k + if s.is NVM_STATUS_SESSIONOMP then 2 ^ 9 else 0)).set NVM_STATUS_SESSION 0).set
      NVM_STATUS_SESSIONOMP 0).set NVM_UPDCTL_STATUS 2).irq 4)) ∧
  (∀ (s : State) (p : Path), s.awake = true → s.mode ≠ .boot → p = .spi ∨ p = .omp → s.is NVM_STATUS_SESSION = false ∨ s.boot.op ≠ none →
    exec (.updateProgram p) s = .next ((s.set NVM_UPDCTL_CMD 2).set NVM_UPDCTL_STATUS 3) ∧
    exec (.updateRead p) s = .next ((s.set NVM_UPDCTL_CMD 3).set NVM_UPDCTL_STATUS 3) ∧
    exec (.updateVerify p) s = .next ((s.set NVM_UPDCTL_CMD 4).set NVM_UPDCTL_STATUS 3) ∧
    exec (.updateClose p) s = .next ((s.set NVM_UPDCTL_CMD 5).set NVM_UPDCTL_STATUS 3)) ∧
  (∀ (s : State) (n : Nat) (k : Fin 2), exec (.updateOpen (.cp n) k) s = .next s ∧ exec (.updateProgram (.cp n)) s = .next s ∧
    exec (.updateRead (.cp n)) s = .next s ∧ exec (.updateVerify (.cp n)) s = .next s ∧ exec (.updateClose (.cp n)) s = .next s) ∧
  (∀ (s : State), let u := s.onBoot fun b => { b with op := none }
    let k := s.get NVM_STATUS_SESSIONSLOT
    (s.boot.op = some .program → exec (.nvmOperationComplete none) s = .next ((u.set NVM_UPDCTL_STATUS 2).irq 4)) ∧
    (s.boot.op = some .erase → exec (.nvmOperationComplete none) s = .next
      (((u.flashErase (slotBase k) 0x03FFF000).set NVM_UPDCTL_STATUS 2).irq 4)) ∧
    (s.boot.op = some .read → exec (.nvmOperationComplete none) s = .next (((u.onBoot fun b => { b with
      staging := SMap.setMany 0 [] 0 (SMap.getMany 0xFF s.boot.flash (slotBase k + s.get NVM_UPDOFS_OFS) 4096) }).set NVM_UPDCTL_STATUS 2).irq 4)) ∧
    (s.boot.op = some .verify → exec (.nvmOperationComplete none) s = .next (((u.verified k).set NVM_UPDCTL_STATUS 2).irq 4))) ∧
  (∀ (s : State) (k : Nat),
    (s.slotReason k = 0 → s.verified k = ((((s.showHead k true).set (NVM_SLOT_DIGEST k)
      (((s.showHead k true).imgDigest k).toNat / 2 ^ 352)).set (NVM_SLOT_VALID k) 1).set (NVM_SLOT_REASON k) 0).event 0x7004 0 k) ∧
    (∀ r, s.slotReason k = r → 9 ≤ r → s.verified k = (((s.showHead k true).set (NVM_SLOT_DIGEST k)
      (((s.showHead k true).imgDigest k).toNat / 2 ^ 352)).slotReject k r).event 0x7004 0 (k + r * 2 ^ 8)) ∧
    (∀ r, s.slotReason k = r → 5 ≤ r → r < 9 → s.verified k = ((s.showHead k true).slotReject k r).event 0x7004 0 (k + r * 2 ^ 8)) ∧
    (∀ r, s.slotReason k = r → r ≠ 0 → r < 5 → s.verified k = ((s.showHead k false).slotReject k r).event 0x7004 0 (k + r * 2 ^ 8))) ∧
  (∀ (s : State) (o : FlashOp) (a : Nat), s.boot.op = some o →
    exec (.nvmOperationComplete (some a)) s = .next (((((s.onBoot fun b => { b with op := none }).opFails o a).set NVM_UPDCTL_STATUS 4).event
      0x7007 2 a).irq 4)) ∧
  (∀ (s : State) (f : Option Nat), s.boot.op = none → exec (.nvmOperationComplete f) s = .next s)

/-- Load-following, AVSBus, boosts, supply events, battery, temperatures, thermistor and the test access port. VCORE_EVALUATE
runs at a whole millisecond, the one that has passed since the last evaluation or else the next, and shows the samples and
LF; before WARMUP and under AVSFAULT the target stays. With load-following on it moves the target by the step: up on a
request, down after the low time, and never below the floor; off it is VBOOT or the boost's floor. Each change is one AVSBus
write of the target rounded down to 5 mV. A failed write is retried three times, 10 us apart, then AVSFAULT is set and
condition 0x0203 raised with the acknowledged target in force; a Status read comes 1 s after the last, a good one clears the
fault. RAISE and AVS_RETRY are refused with STATUS 2 while EN is clear or before WARMUP, else STATUS 1 and their effect. A
boost's end returns the floor. A rail that falls below its warning level starts one supply event, and its recovery counts it
and logs 0x0201 with the lowest sample; in BACKUP a main rail stops the sequence. VBAT_MEASURE shows the voltage; below 2.000
V LOW is set with condition 0x0207, above 2.050 V it clears, and between them nothing else changes. A temperature sample
shows each sensor and its largest value; above the grade's limit HOT is set with 0x0205 and 10 degC above it TRIP with
0x0206, each clearing 2 degC below its limit. THERM_SAMPLE keeps the converted value. In OFF the test access port takes no
instruction; elsewhere BYPASS, IDCODE and SAMPLE/PRELOAD give the balls to the functional drivers, and EXTEST, CLAMP and
HIGHZ take them in BACKUP and SAFE, and act as BYPASS in every other mode. A battery or temperature sample in OFF and BACKUP
changes nothing. (spec/18_power_management.md (R464, R465, R467, R469, R470), spec/19_package_electrical.md (R489, R498,
R499), notes/assumptions/24.md, notes/assumptions/25.md) -/
def Obligations.SuppliesBatteryAndSensorsFollowTheirRows : Prop :=
  (∀ (s : State) (rails : List Nat), s.awake = false → exec (.vcoreEvaluate rails) s = .next s) ∧
  (∀ (s : State) (rails : List Nat), s.evalInstant = none → exec (.vcoreEvaluate rails) s = .next s) ∧
  (∀ (s : State), (s.pw.evalAt / 1000000 < s.nowNs / 1000000 → s.evalInstant = some s) ∧
    (s.nowNs / 1000000 ≤ s.pw.evalAt / 1000000 →
      s.evalInstant = s.reach (1000000 * ns1 + 1000000 * ns1 * (s.nowNs / 1000000)))) ∧
  (∀ (s u : State) (rails : List Nat), s.awake = true → s.evalInstant = some u →
    exec (.vcoreEvaluate rails) s = .next (((u.onPw fun p => { p with evalAt := u.nowNs }).forEach 8 fun s r => match rails[r]? with
      | some mv => s.railSample r mv
      | none => s).showLf.vcoreDecide (max 1 (u.nowNs / 1000000 - u.pw.evalAt / 1000000)))) ∧
  (∀ (s : State) (n : Nat), s.warmedUp = false ∨ s.is PM_STATUS_AVSFAULT = true → s.vcoreDecide n = s) ∧
  (∀ (s : State) (n : Nat), s.warmedUp = true → s.is PM_STATUS_AVSFAULT = false → s.is PM_AVSCFG_EN = false →
    s.vcoreDecide n = s.avsTarget (max (s.get PM_AVSCFG_VBOOT) (s.get PM_BOOST_FLOOR))) ∧
  (∀ (s : State) (n : Nat), s.warmedUp = true → s.is PM_STATUS_AVSFAULT = false → s.is PM_AVSCFG_EN = true →
    let v := s.get PM_VCORE_TARGET
    let step := 5 * s.get PM_AVSCTL_STEP
    let f := if s.is PM_STATUS_BOOST then s.get PM_BOOST_FLOOR else s.get PM_VLIM_VMIN
    let w := fun (l : Nat) => s.onPw fun p => { p with vreqSeen := false, occSeen := false, lowMs := l }
    (s.pw.vreqSeen = true ∨ s.is FAB_STATUS_VREQ = true →
      s.vcoreDecide n = (w 0).avsTarget (max (min (s.get PM_VLIM_VMAX) (v + step)) f)) ∧
    (s.pw.vreqSeen = false → s.is FAB_STATUS_VREQ = false → s.pw.occSeen = false → s.get PM_AVSCTL_DOWNMS ≤ s.pw.lowMs + n →
      s.vcoreDecide n = (w 0).avsTarget (max (max f (v - step)) f)) ∧
    (s.pw.vreqSeen = false → s.is FAB_STATUS_VREQ = false → s.pw.occSeen = true → 0 < s.get PM_AVSCTL_DOWNMS →
      s.vcoreDecide n = (w 0).avsTarget (max v f)) ∧
    (s.pw.vreqSeen = false → s.is FAB_STATUS_VREQ = false → s.pw.occSeen = false → s.pw.lowMs + n < s.get PM_AVSCTL_DOWNMS →
      s.vcoreDecide n = (w (s.pw.lowMs + n)).avsTarget (max v f))) ∧
  (∀ (s : State) (v : Nat), v - v % 5 = s.get PM_VCORE_TARGET → s.avsTarget v = s) ∧
  (∀ (s : State) (v : Nat), v - v % 5 ≠ s.get PM_VCORE_TARGET →
    s.avsTarget v = ((s.onPw fun p => { p with
      avsAcked := if s.pw.avsTries = 0 then s.get PM_VCORE_TARGET else s.pw.avsAcked, avsTries := 0, avsAt := s.tb.ticks }).set PM_VCORE_TARGET
        (v - v % 5)).emit
      (.avsWrite (v - v % 5))) ∧
  (∀ (s : State) (w : Fin 3), s.awake = true → s.get PM_VCORE_TARGET ≠ s.pw.avsAcked → s.is PM_STATUS_AVSFAULT = false →
    (s.pw.avsTries < 3 → ∀ u, s.reachClocked (10000 + s.pw.avsAt) = some u → exec (.avsWriteRetry w) s = .next
      ((u.onPw fun p => { p with avsTries := p.avsTries + 1, avsAt := u.tb.ticks }).emit (.avsWrite (s.get PM_VCORE_TARGET)))) ∧
    (3 ≤ s.pw.avsTries → exec (.avsWriteRetry w) s = .next
      ((((s.set PM_STATUS_AVSFAULT 1).set PM_VCORE_TARGET s.pw.avsAcked).raiseCond 0x0203 2 w 0).showLf))) ∧
  (∀ (s : State) (w : Fin 3), s.get PM_VCORE_TARGET = s.pw.avsAcked → exec (.avsWriteRetry w) s = .next s) ∧
  (∀ (s u : State) (ok : Bool), s.awake = true → s.reachClocked (1000000000 + s.pw.statusAt) = some u →
    exec (.avsStatusRead ok) s = .next ((u.onPw fun p => { p with statusAt := u.tb.ticks }).avsRead ok)) ∧
  (∀ (s : State) (ok : Bool), s.awake = false ∨ s.reachClocked (1000000000 + s.pw.statusAt) = none →
    exec (.avsStatusRead ok) s = .next s) ∧
  (∀ (s : State), s.avsRead false = s.emit .avsStatus ∧ (s.is PM_STATUS_AVSFAULT = false → s.avsRead true = s.emit .avsStatus) ∧
    (s.is PM_STATUS_AVSFAULT = true →
      s.avsRead true = (((s.emit .avsStatus).set PM_STATUS_AVSFAULT 0).clearCond 0x0203 0).showLf)) ∧
  (∀ (s : State) (p : Path) (ok : Bool), s.awake = true → s.is PM_AVSCFG_EN = false ∨ s.warmedUp = false →
    exec (.pmAvsRetry p ok) s = .next ((s.set PM_CMD_CODE 2).set PM_CMD_STATUS 2) ∧
    exec (.pmRaise p) s = .next ((s.set PM_CMD_CODE 1).set PM_CMD_STATUS 2)) ∧
  (∀ (s : State) (p : Path) (ok : Bool), s.is PM_AVSCFG_EN = true → s.warmedUp = true →
    exec (.pmAvsRetry p ok) s = .next (((s.set PM_CMD_CODE 2).set PM_CMD_STATUS 1).avsRead ok) ∧
    (s.is PM_STATUS_BOOST = true → exec (.pmRaise p) s = .next (((((s.set PM_CMD_CODE 1).set PM_CMD_STATUS 1).onPw fun p => { p with
      boostEnd := 60000000000 + s.tb.ticks }).set PM_STATUS_BOOST 1).set PM_BOOST_LEFT 60)) ∧
    (s.is PM_STATUS_BOOST = false →
      ∃ t, exec (.pmRaise p) s = .next t ∧ t.get PM_STATUS_BOOST = 1 ∧ t.get PM_BOOST_LEFT = 60 ∧
        t.pw.boostEnd = 60000000000 + s.tb.ticks ∧
        t.get PM_BOOST_FLOOR = min (s.get PM_VLIM_VMAX) (s.get PM_VCORE_TARGET + 5 * s.get PM_AVSCTL_STEP) % 2 ^ PM_BOOST_FLOOR.width)) ∧
  (∀ (s u : State), s.is PM_STATUS_BOOST = true → s.reachTick s.pw.boostEnd = some u →
    exec .boostEnd s = .next (((u.set PM_STATUS_BOOST 0).set PM_BOOST_FLOOR 0).set PM_BOOST_LEFT 0)) ∧
  (∀ (s : State), s.is PM_STATUS_BOOST = false → exec .boostEnd s = .next s) ∧
  (∀ (s : State) (r : Fin 8) (mv : Nat), s.awake = true → (∀ d ∈ s.pw.dips, d.rail ≠ r) →
    let u := (s.onPw fun p => { p with dips := s.pw.dips ++ [⟨r, s.tb.ticks, mv⟩] }).railSample r mv
    (u.railLow = false → exec (.railWarningFall r mv) s = .next u) ∧
    (u.railLow = true → exec (.railWarningFall r mv) s = .next ((u.bistCutReturn true 2).bistCutReturn false 2).tslSupply)) ∧
  (∀ (s : State) (r : Fin 8) (mv : Nat) (d : Dip), s.mode ≠ .backup → d ∈ s.pw.dips → d.rail = r →
    exec (.railWarningFall r mv) s = .next s) ∧
  (∀ (s : State) (r : Fin 8) (mv : Nat), s.mode = .backup → exec (.railWarningFall r mv) s = .next ((s.railSample r mv).onPw fun p => { p with
    sequencing := p.sequencing && !(r.val == 0 || r.val == 1 || r.val == 4 || r.val == 5 || r.val == 7) })) ∧
  (∀ (s : State) (r : Fin 8) (low mv : Nat) (d : Dip), s.awake = true → (s.pw.dips.find? fun d => d.rail == r.val) = some d →
    let least := min d.lowest low
    let u := ((((s.onPw fun p => { p with dips := s.pw.dips.filter fun d => d.rail ≠ r.val }).railSample r least).railSample r mv).bump
      PM_SUPEVT_COUNT 1).event 0x0201 1 (r + satU 12 least * 2 ^ 4 + satU 16 ((s.tb.ticks - d.start) / 1000) * 2 ^ 16)
    let w := if s.railLow = true ∧ u.railLow = false then u.tslSupplyOver else u
    exec (.railWarningRecover r low mv) s = .next (if r.val = 0 ∨ w.showLf.is PM_STATUS_LF = true then w.boost else w)) ∧
  (∀ (s : State) (r : Fin 8) (low mv : Nat), (s.mode = .off → exec (.railWarningFall r mv) s = .next s) ∧
    (s.awake = false → exec (.railWarningRecover r low mv) s = .next s)) ∧
  (∀ (s : State) (r : Fin 8) (low mv : Nat), s.pw.dips = [] → exec (.railWarningRecover r low mv) s = .next s) ∧
  (∀ (s : State) (mv : Nat), s.awake = true → s.is PM_VBAT_LOW = false →
    (mv < 2000 → exec (.vbatMeasure mv) s = .next
      ((((s.setSat PM_VBAT_MV mv).set PM_VBAT_LOW 1).set PM_STATUS_VBATLOW 1).raiseCond 0x0207 2 mv 0)) ∧
    (2000 ≤ mv → exec (.vbatMeasure mv) s = .next (s.setSat PM_VBAT_MV mv))) ∧
  (∀ (s : State) (mv : Nat), s.awake = true → s.is PM_VBAT_LOW = true →
    (2050 < mv → exec (.vbatMeasure mv) s = .next
      ((((s.setSat PM_VBAT_MV mv).set PM_VBAT_LOW 0).set PM_STATUS_VBATLOW 0).clearCond 0x0207 0)) ∧
    (mv ≤ 2050 → exec (.vbatMeasure mv) s = .next (s.setSat PM_VBAT_MV mv))) ∧
  (∀ (s : State) (F : Field) (code sev : Nat) (limit : Int) (h : Nat × Int), s.is F = false →
    (limit < h.2 → s.thermal F code sev limit h = (s.set F 1).raiseCond code sev (h.1 + ofSigned 16 h.2 * 2 ^ 16) 0) ∧
    (h.2 ≤ limit → s.thermal F code sev limit h = s)) ∧
  (∀ (s : State) (F : Field) (code sev : Nat) (limit : Int) (h : Nat × Int), s.is F = true →
    (h.2 ≤ limit - 20 → s.thermal F code sev limit h = (s.set F 0).clearCond code 0) ∧
    (limit - 20 < h.2 → s.thermal F code sev limit h = s)) ∧
  (∀ (s : State) (ts : List Int), s.awake = true → ts.length = 10 →
    let u := s.forEach 10 fun s i => (s.seti (PM_TEMP_NOW i) (ts.getD i 0)).seti (PM_TEMP_MAX i) (max (s.geti (PM_TEMP_MAX i)) (ts.getD i 0))
    let w := u.setb PM_STATUS_HOT110 (u.get SYS_ID_GRADE == 2 && decide (1100 < u.hottest.2))
    exec (.tempSample ts) s = .next ((w.thermal PM_STATUS_HOT 0x0205 2 w.tMax u.hottest).thermal PM_STATUS_TRIP 0x0206 3
      (w.tMax + 100) u.hottest)) ∧
  (∀ (s : State) (c : Fin 4096), s.awake = true →
    exec (.thermSample c) s = .next (s.onPw fun p => { p with therm := ofSigned 32 (satSigned 32 (Config.thermistor c)) })) ∧
  (∀ (s : State) (mv : Nat) (ts : List Int) (c : Fin 4096), s.awake = false →
    exec (.vbatMeasure mv) s = .next s ∧ exec (.tempSample ts) s = .next s ∧ exec (.thermSample c) s = .next s) ∧
  (∀ (s : State) (cs : List Bool), s.mode ≠ .off →
    exec .jtagBypass s = .next (s.onJtag fun j => { j with ir := 0xFF, drive := 0 }) ∧
    exec .jtagIdcode s = .next (s.onJtag fun j => { j with ir := 0x01, drive := 0 }) ∧
    exec (.jtagSamplePreload cs) s = .next (s.onJtag fun _ => ⟨0x02, cs, 0⟩)) ∧
  (∀ (s : State), s.mode = .backup ∨ s.mode = .safe →
    exec .jtagExtest s = .next (s.onJtag fun j => { j with ir := 0x00, drive := 1 }) ∧
    exec .jtagClamp s = .next (s.onJtag fun j => { j with ir := 0x04, drive := 2 }) ∧
    exec .jtagHighz s = .next (s.onJtag fun j => { j with ir := 0x08, drive := 3 })) ∧
  (∀ (s : State), s.mode ≠ .backup → s.mode ≠ .safe →
    exec .jtagExtest s = exec .jtagBypass s ∧ exec .jtagClamp s = exec .jtagBypass s ∧ exec .jtagHighz s = exec .jtagBypass s) ∧
  (∀ (s : State) (cs : List Bool), s.mode = .off →
    exec .jtagBypass s = .next s ∧ exec .jtagIdcode s = .next s ∧ exec (.jtagSamplePreload cs) s = .next s)

/-- An edge on a TDC channel: ignored, divided, missed or stamped. An edge comes a number of ticks from now: these pass
first, and where a second boundary comes before them nothing happens. An edge on a channel that is not enabled, while the
counter stands still, or in OFF and BACKUP, changes nothing. Else the event collector first serves what it has had time for,
two fifths of an item per tick and at most what waits, in its rotation. An edge of the unselected polarity does nothing more;
one that the divider does not pass only moves it. One that passes within 20 ns after the last accepted event is counted in
MISS.RATE, one of a statistics channel that finds 64 entries in the FIFO in MISS.FULL, and neither is stamped. Every other is
accepted: its timestamp is the count at its interpolator period plus the interpolator's table and offset less the channel's
delay, it becomes the last accepted one and goes to the LAST group, FIFO, statistics, queue and interval units, and to the
source or the time-of-day input of that channel. The LAST group then reads that timestamp, edge and calibration flag with
equal sequence words. (spec/03_interval_measurement.md (R62 to R64, R74, R75), notes/assumptions/52.md) -/
def Obligations.TdcEdgesAreCountedOrStamped : Prop :=
  (∀ (s : State) (w : Nat) (n : Fin 32) (r : Bool) (b : Fin 2048), s.reachTick (w + s.tb.ticks) = none →
    exec (.tdcEdge n r b w) s = .next s) ∧
  (∀ (o s : State) (w : Nat) (n : Fin 32) (r : Bool) (b : Fin 2048), o.reachTick (w + o.tb.ticks) = some s →
    s.awake = false ∨ s.tb.running = false ∨ (s.chCfg n).en = false → exec (.tdcEdge n r b w) o = .next s) ∧
  (∀ (o s : State) (w : Nat) (n : Fin 32) (r : Bool) (b : Fin 2048), o.reachTick (w + o.tb.ticks) = some s → s.awake = true →
    s.tb.running = true → (s.chCfg n).en = true →
    (r = false → (s.chCfg n).edge = 0 → exec (.tdcEdge n r b w) o = .next s.collect) ∧
    (r = true → (s.chCfg n).edge = 1 → exec (.tdcEdge n r b w) o = .next s.collect)) ∧
  (∀ (o s : State) (w : Nat) (n : Fin 32) (r : Bool) (b : Fin 2048), o.reachTick (w + o.tb.ticks) = some s → s.awake = true →
    s.tb.running = true → (s.chCfg n).en = true →
    ¬((s.chCfg n).edge = 0 ∧ r = false) → ¬((s.chCfg n).edge = 1 ∧ r = true) →
    let u := s.collect
    let c := s.chCfg n
    let h : TdcCh := { u.ch n with divCount := 0 }
    let t := u.edgeStamp n b c.dly
    ((u.ch n).divCount + 1 < c.div →
      exec (.tdcEdge n r b w) o = .next (u.setCh n { u.ch n with divCount := (u.ch n).divCount + 1 })) ∧
    (c.div ≤ (u.ch n).divCount + 1 →
      (∀ l, h.lastAt = some l → t < l + 20 * ns1 → l ≤ t → exec (.tdcEdge n r b w) o = .next ((u.setCh n h).missEvent n t false)) ∧
      ((∀ l, h.lastAt = some l → l + 20 * ns1 ≤ t ∨ t < l) →
        (c.sten = true → 64 ≤ h.fifo → exec (.tdcEdge n r b w) o = .next ((u.setCh n h).missEvent n t true)) ∧
        (c.sten = false ∨ h.fifo < 64 →
          let a := (u.setCh n { h with lastAt := some t }).acceptEvent n t r
          let x := if (n : Nat) < 16 ∧ a.is (SEL_SRC_EN n) = true then a.refEvent n t else a
          exec (.tdcEdge n r b w) o = .next
            (if x.is SEL_TODIN_EN = true ∧ (n : Nat) = 16 + x.get SEL_TODIN_EVT then x.todPulse t else x))))) ∧
  (∀ (s : State) (n bin : Nat) (dly : Int), let ip := s.get (TDC_CH_ACTIVEIP n)
    let o := if ip = 0 then (s.ch n).offsets.1 else (s.ch n).offsets.2
    s.edgeStamp n bin dly = ((s.ipCount : Int) + (Config.interp (s.ipTable n ip) bin + o) - dly).toNat) ∧
  (∀ (s : State) (n t : Nat) (r u : Bool), n < 32 →
    (∀ i, i < 3 → (s.setLast n t r u).get (TDC_CH_LAST n i) = instWord t i) ∧
    (s.setLast n t r u).get (TDC_CH_LASTEDGE n) = (if r then 1 else 0) ∧
    (s.setLast n t r u).get (TDC_CH_LASTUNCAL n) = (if u then 1 else 0) ∧
    (s.setLast n t r u).get (TDC_CH_LASTSEQA n) = (s.setLast n t r u).get (TDC_CH_LASTSEQB n))

/-- Event-queue pops, interval results, window closes and publication. POP removes the head record of a non-empty queue,
whose LEVEL then reads one less, and does nothing on an empty one. INTERVAL_RESULT runs to the instant at which the oldest
start's stops are all known: a start with no stop within the window is counted unpaired; one with a stop in it claims the
nearest and gives a result: the difference, or 0 with SUBRES when its size is under 64, with ORDER when a larger one is
negative. A statistics window that is due closes at its boundary, one that counts events at its last event when it holds its
number, and otherwise nothing happens. The publication collector writes the oldest result of the next waiting engine in its
rotation and none when none waits. (spec/03_interval_measurement.md (R66 to R68, R71, R74, R75)) -/
def Obligations.IntervalWindowsAndQueues : Prop :=
  (∀ (s : State) (k : Fin 8), SMap.get [] s.tdc.queues k = [] → exec (.eventQueuePop k) s = .next s) ∧
  (∀ (s : State) (k : Fin 8) (r : EqRecord) (q : List EqRecord), SMap.get [] s.tdc.queues k = r :: q → q.length < 256 →
    ∃ t, exec (.eventQueuePop k) s = .next t ∧ SMap.get [] t.tdc.queues k = q ∧ t.get (TDC_EQ_LEVEL k) = q.length ∧
      t.get (TDC_EQ_HEADSEQA k) = t.get (TDC_EQ_HEADSEQB k) ∧ { t with tdc := s.tdc, rf := s.rf } = s ∧
      (∀ h q', q = h :: q' → ∀ i, i < 3 → t.get (TDC_EQ_HEAD k i) = instWord h.t i)) ∧
  (∀ (s u : State) (m : Fin 8) (t k : Nat) (ts : List (Nat × Nat)), (s.ivCfg m).start ≠ (s.ivCfg m).stop →
    (s.unit m).starts = (t, k) :: ts → s.reachTick (k + (s.ivCfg m).win + 100) = some u →
    let w := (u.ivCfg m).win * ns1
    (nearestStop t w (u.unit m).stops = none → exec (.intervalResult m) s = .next
      ((u.setUnit m { u.unit m with starts := ts, stops := (u.unit m).stops.filter fun p => decide (t ≤ p + w) }).bump (TDC_IV_UNPAIRED m) 1)) ∧
    (∀ p, nearestStop t w (u.unit m).stops = some p → exec (.intervalResult m) s = .next
      ((u.setUnit m { u.unit m with starts := ts, stops := ((u.unit m).stops.erase p).filter fun p => decide (t ≤ p + w) }).ivResult m t
        ((p : Int) - t) true))) ∧
  (∀ (s : State) (m : Fin 8), (s.ivCfg m).start = (s.ivCfg m).stop ∨ (s.unit m).starts = [] → exec (.intervalResult m) s = .next s) ∧
  (∀ (s : State) (m t : Nat) (d : Int), m < 8 → (s.ivCfg m).sten = false →
    (s.ivResult m t d true).get (TDC_IV_SUBRES m) = (if d.natAbs < 64 then 1 else 0) ∧
    (s.ivResult m t d true).get (TDC_IV_ORDER m) = (if 64 ≤ d.natAbs ∧ d < 0 then 1 else 0) ∧
    (d.natAbs < 64 → (s.ivResult m t d true).get (TDC_IV_RES_LO m) = 0 ∧ (s.ivResult m t d true).get (TDC_IV_RES_HI m) = 0) ∧
    (64 ≤ d.natAbs → d.natAbs < 2 ^ 63 →
      (s.ivResult m t d true).get (TDC_IV_RES_LO m) + (s.ivResult m t d true).get (TDC_IV_RES_HI m) * 2 ^ 32 = (d % 2 ^ 64).toNat)) ∧
  (∀ (s : State) (e : Fin 40) (b : Nat), (s.engine e).due = some b →
    exec (.statsWindowClose e) s = .next (s.setEngine e { s.engine e with
      acc := { run := (s.engine e).acc.run }, due := none, closed := (s.engine e).closed ++ [(s.engine e).acc.result b false] })) ∧
  (∀ (s : State) (e : Fin 40) (win : Nat), (s.engine e).due = none → s.engCfg e = (true, 0, win) →
    (win ≤ (s.engine e).acc.n → 0 < (s.engine e).acc.n → exec (.statsWindowClose e) s = .next (s.setEngine e { s.engine e with
      acc := { run := (s.engine e).acc.run }, due := none,
      closed := (s.engine e).closed ++ [(s.engine e).acc.result (s.engine e).acc.tLast false] })) ∧
    ((s.engine e).acc.n < win → exec (.statsWindowClose e) s = .next s)) ∧
  (∀ (s : State), (∀ e, e < 40 → (s.engine e).closed = []) → exec .resultPublish s = .next s) ∧
  (∀ (s : State) (e : Nat) (r : WinResult) (rs : List WinResult), e < 40 → (s.engine e).closed = r :: rs →
    (∀ e', e' < 40 → e' ≠ e → (s.engine e').closed = []) →
    exec .resultPublish s = .next (((s.onTdc fun b => { b with pubRot := e }).setEngine e { s.engine e with closed := rs }).publishWin e r))

/-- TDC self-calibration: triggers, the two tests and the initial calibration. After the initial calibration a period, whose
end is reached, a change of the chiplet's temperature by TEMPSTEP or RUNALL makes its channels due for both interpolators and
starts the next run; before it, or in OFF and BACKUP, they start none. A temperature is taken into its sensor's register, and
one that has moved by less does nothing more. The code-density test of the channel under run fails on an empty bin (reason 1)
or an INL peak above 16 ps (reason 2) and else yields a new table; offset matching without a table or a run changes nothing,
ends at the channel's 4,096th event or 64 s after its start, with fewer than 16 events on an enabled channel passes without a
swap, with a difference above 50 ps fails (reason 3), and else stores the table and offset of the spare and asks for the
swap. The initial calibration runs once, on values that are free: it sets CALDONE, takes the temperature, leaves IP0 of every
channel active, and gives each of the 64 interpolators without a failure its new table; an empty bin or a difference above 50
ps leaves the table of that interpolator. (spec/03_interval_measurement.md (R76 to R78), notes/assumptions/11.md,
notes/assumptions/52.md) -/
def Obligations.TdcCalibrationRunsAndJudges : Prop :=
  let due := fun (s : State) (n : Nat) => s.setCh n { s.ch n with due := true, dueIps := 2 }
  (∀ (s : State), s.awake = true → s.is TDC_STATUS_CALDONE = true →
    exec .tdcCalRunall s = .next (((s.forEach 32 due).set TDC_CAL_RUNALL 1).nextRun) ∧
    (∀ d, (10 * s.get TDC_CAL_TEMPSTEP ≤ (d - s.tdc.calTemp).natAbs → exec (.tdcCalTempStep d) s = .next ((s.tempTake 9 d).forEach 32 due).nextRun) ∧
      ((d - s.tdc.calTemp).natAbs < 10 * s.get TDC_CAL_TEMPSTEP → exec (.tdcCalTempStep d) s = .next (s.tempTake 9 d)))) ∧
  (∀ (s : State) (d : Int), (s.tempTake 9 d).geti (PM_TEMP_NOW 9) = satSigned 16 d ∧
    (∀ i < 9, (s.tempTake 9 d).get (PM_TEMP_NOW i) = s.get (PM_TEMP_NOW i)) ∧ (s.tempTake 9 d).tdc = s.tdc) ∧
  (∀ (s u : State) (n : Fin 32), s.reachTick (1000000000 * s.get TDC_CAL_PERIOD + (s.ch n).lastCal) = some u →
    (u.awake = true → u.is TDC_STATUS_CALDONE = true → exec (.tdcCalPeriodDue n) s = .next (due u n).nextRun) ∧
    (u.awake = false ∨ u.is TDC_STATUS_CALDONE = false → exec (.tdcCalPeriodDue n) s = .next u)) ∧
  (∀ (s : State), s.awake = false ∨ s.is TDC_STATUS_CALDONE = false →
    exec .tdcCalRunall s = .next s ∧ (∀ d, exec (.tdcCalTempStep d) s = .next s)) ∧
  (∀ (s : State) (n : Fin 32) (e p : Nat), s.is TDC_STATUS_CALRUN = true → s.get TDC_STATUS_CALCH = n → (s.ch n).runTable = none →
    let u := (s.setSat (TDC_CH_EMPTY n) e).setSat (TDC_CH_INLPEAK n) p
    (0 < e → exec (.codeDensityDone n e p) s = .next (u.failRun n 1)) ∧
    (e = 0 → 16 < p → exec (.codeDensityDone n e p) s = .next (u.failRun n 2)) ∧
    (e = 0 → p ≤ 16 → exec (.codeDensityDone n e p) s = .next
      ((u.setCh n { s.ch n with runTable := some s.tdc.nextTable, matchFrom := s.tb.ticks, matched := 0 }).onTdc
        fun t => { t with nextTable := t.nextTable + 1 }))) ∧
  (∀ (s : State) (n : Fin 32) (e p : Nat), s.is TDC_STATUS_CALRUN = false ∨ s.get TDC_STATUS_CALCH ≠ n →
    exec (.codeDensityDone n e p) s = .next s ∧ (∀ x y, exec (.offsetMatchDone n x y) s = .next s)) ∧
  (∀ (s : State) (n : Fin 32) (tab : Nat) (x y : Int), s.is TDC_STATUS_CALRUN = true → s.get TDC_STATUS_CALCH = n →
    (s.ch n).runTable = some tab →
    ((s.chCfg n).en = true → 4096 ≤ (s.ch n).matched → exec (.offsetMatchDone n x y) s = .next (s.matchDone n tab (x - y))) ∧
    (∀ u, (s.chCfg n).en = true → (s.ch n).matched < 4096 → s.reachTick (64000000000 + (s.ch n).matchFrom) = some u →
      exec (.offsetMatchDone n x y) s = .next (u.matchDone n tab (x - y))) ∧
    (∀ u, (s.chCfg n).en = false → s.reachTick (4100000 + (s.ch n).matchFrom) = some u →
      exec (.offsetMatchDone n x y) s = .next (u.matchDone n tab (x - y)))) ∧
  (∀ (s : State) (n tab : Nat) (d : Int),
    ((s.ch n).matched < 16 → (s.chCfg n).en = true → s.matchDone n tab d = s.passRun n true) ∧
    (16 ≤ (s.ch n).matched ∨ (s.chCfg n).en = false → 50 * ns1 < d.natAbs * 1000 → s.matchDone n tab d = s.failRun n 3) ∧
    (16 ≤ (s.ch n).matched ∨ (s.chCfg n).en = false → d.natAbs * 1000 ≤ 50 * ns1 → s.get TDC_STATUS_CALIP = 0 → s.matchDone n tab d =
      (s.setCh n { s.ch n with tables := (tab, (s.ch n).tables.2), offsets := (d, (s.ch n).offsets.2), swap := true }).passRun n false) ∧
    (16 ≤ (s.ch n).matched ∨ (s.chCfg n).en = false → d.natAbs * 1000 ≤ 50 * ns1 → s.get TDC_STATUS_CALIP = 1 → s.matchDone n tab d =
      (s.setCh n { s.ch n with tables := ((s.ch n).tables.1, tab), offsets := ((s.ch n).offsets.1, d), swap := true }).passRun n false)) ∧
  (∀ (s : State), s.awake = true → s.mode ≠ .boot → s.is TDC_STATUS_CALDONE = false →
    exec .tdcInitialCalDone s = .next (State.initialCal { s with free := s.free + 192 } s.calDraws)) ∧
  (∀ (s : State) (cs : List CalIn), let t := s.initialCal cs
    t.get TDC_STATUS_CALDONE = 1 ∧ t.tdc.nextTable = s.tdc.nextTable + 64 ∧ t.tdc.calTemp = s.geti (PM_TEMP_NOW 9) ∧
    ∀ n, n < 32 → (t.ch n).calibrated = true ∧ (t.ch n).lastCal = s.tb.ticks ∧ t.get (TDC_CH_ACTIVEIP n) = 0 ∧
      ((cs.getD n {}).empty = (0, 0) → (cs.getD n {}).peak.1 ≤ 16 → (cs.getD n {}).peak.2 ≤ 16 → (cs.getD n {}).diff.natAbs * 1000 ≤ 50 * ns1 →
        (t.ch n).tables = (s.tdc.nextTable + 2 * n, s.tdc.nextTable + 2 * n + 1) ∧ (t.ch n).offsets = (0, (cs.getD n {}).diff)) ∧
      (0 < (cs.getD n {}).empty.1 → (t.ch n).tables.1 = (s.ch n).tables.1) ∧
      (50 * ns1 < (cs.getD n {}).diff.natAbs * 1000 → (t.ch n).tables.2 = (s.ch n).tables.2 ∧ (t.ch n).offsets = (0, 0))) ∧
  (∀ (s : State), s.mode = .boot ∨ s.awake = false ∨ s.is TDC_STATUS_CALDONE = true → exec .tdcInitialCalDone s = .next s)

/-- Source states, activity, window closes, conflicts, wait-to-restore and selection. A change of a source's state shows the
new state. Q1 of a physical input fails at the end of the time its last edge allows: that instant is reached, the edges kept
are dropped and the rows of the state table follow, so that an enabled, named source that stands at least in DISQ falls to
FAILED; an input whose Q1 has failed already, or one whose instant lies beyond a second boundary, is left alone. A window of
an enabled source that carries UNCAL marks it and shows REASON alone. Any other is judged, when it is usable (no gap,
overflow or cut, at least two events), or starts the phase-jump test afresh; with no sources in conflict the state table, the
conflict read-back, the count of the ACTIVE source's windows (the second ends acquisition), the holdover fit, REASON and the
whole-second rule follow in that order. Judging keeps minus the slope as the frequency, the standard deviation and the mean,
and Q2 compares the frequency with FHARD. Of a pair in conflict the member with fewer agreeing third sources falls to DISQ
from any higher state. The end of a wait-to-restore qualifies the source at its instant. Selection first returns an ACTIVE
source that is no longer eligible to QUALIFIED; a chosen source that is not ACTIVE becomes so; with none or the present one
chosen nothing changes. Outside the modes that qualify, windows and selection change nothing.
(spec/04_references_holdover_outputs.md (R83, R86 to R94), notes/assumptions/50.md) -/
def Obligations.SourcesQualifyAndAreSelected : Prop :=
  (∀ (s : State) (k st : Nat), k < 20 → st < 8 → (s.srcTo k st).srcState k = st) ∧
  (∀ (s u : State) (k : Fin 16), (s.src k).q1 = true → s.reach ((s.src k).edges.headD 0 + edgeLimit (s.period k)) = some u →
    let v := u.setSrc k { s.src k with q1 := false, edges := [] }
    exec (.q1ActivityFail k) s = .next (v.srcRows k).warmRule ∧
    (u.warmRuns = true → u.is (SEL_SRC_EN k) = true → (u.rowOf k).isSome = true → 2 ≤ u.srcState k →
      (v.srcRows k).srcState k = 1 ∧ ((v.srcRows k).src k).q1 = false)) ∧
  (∀ (s : State) (k : Fin 16), (s.src k).q1 = false ∨ s.reach ((s.src k).edges.headD 0 + edgeLimit (s.period k)) = none →
    exec (.q1ActivityFail k) s = .next s) ∧
  (∀ (s u : State) (k : Fin 20), s.srcState k = 3 → s.reachTick (1000000000 * (s.src k).wtrLen + (s.src k).wtrFrom) = some u →
    exec (.wtrElapsed k) s = .next (u.srcTo k 4).wholeSecond) ∧
  (∀ (s : State) (k : Fin 20), s.srcState k ≠ 3 ∨ s.reachTick (1000000000 * (s.src k).wtrLen + (s.src k).wtrFrom) = none →
    exec (.wtrElapsed k) s = .next s) ∧
  (∀ (s : State) (k : Fin 20), s.warmRuns = false ∨ s.is (SEL_SRC_EN k) = false → exec (.sourceWindowClose k) s = .next s) ∧
  (∀ (s : State) (k : Fin 20), s.warmRuns = true → s.is (SEL_SRC_EN k) = true →
    let r := s.windowOf k
    let c := if 16 ≤ (k : Nat) then s.setSrc k { s.src k with acc := (s.src k).acc.next false } else s
    let u := c.setSrc k { c.src k with uncal := false }
    let v := if r.gap = false ∧ r.overflow = false ∧ r.cut = false ∧ 2 ≤ r.n then u.judgeWindow k r u.acqSource
      else u.setSrc k { u.src k with prev := none, prevEnd := r.stop }
    let x := ((v.setSrc k { v.src k with confWith := 0 }).srcRow k true).conflictShow
    let y := x.setSrc k { x.src k with activeWins := (x.src k).activeWins + 1 }
    (r.uncal = true → exec (.sourceWindowClose k) s = .next ((c.setSrc k { c.src k with uncal := true }).showReason k)) ∧
    (r.uncal = false → v.conflictPairs = [] → v.srcState k ≠ 5 →
      (x.srcState k ≠ 6 → exec (.sourceWindowClose k) s = .next (x.refit.showReason k).wholeSecond) ∧
      (x.srcState k = 6 → exec (.sourceWindowClose k) s = .next
        ((if 1 ≤ (x.src k).activeWins then y.set SEL_STATUS_ACQ 0 else y).refit.showReason k).wholeSecond))) ∧
  (∀ (s : State) (k : Nat) (r : WinResult), k < 20 →
    ((s.judgeWindow k r none).src k).f15 = -r.slope ∧ ((s.judgeWindow k r none).src k).sd = r.sd ∧
    ((s.judgeWindow k r none).src k).q2 = decide ((-r.slope).natAbs ≤ s.get (SEL_SRC_FHARD k) * 1000) ∧
    ((s.judgeWindow k r none).src k).prev = some (r.mean, r.slope)) ∧
  (∀ (s : State) (ps : List (Nat × Nat × Nat)) (gone : List Nat) (a b : Nat), a ∉ gone → b ∉ gone →
    (s.agreeing ps b a b gone < s.agreeing ps a a b gone → s.resolvePair ps gone a b = (s.loseTo b a false, b :: gone)) ∧
    (s.agreeing ps a a b gone < s.agreeing ps b a b gone → s.resolvePair ps gone a b = (s.loseTo a b false, a :: gone)) ∧
    (a < 20 → 3 ≤ s.srcState a → (s.loseTo a b false).srcState a = 2)) ∧
  (∀ (s : State), s.warmRuns = false → exec .selection s = .next s) ∧
  (∀ (s : State), s.warmRuns = true → (∀ a, s.active = some a → s.eligible a = true) →
    (s.chosenSource = none → exec .selection s = .next s) ∧
    (∀ b, s.chosenSource = some b → s.active = some b → exec .selection s = .next s) ∧
    (∀ b, s.chosenSource = some b → s.active ≠ some b → exec .selection s = .next (s.switchTo b))) ∧
  (∀ (s : State) (a : Nat), s.warmRuns = true → s.active = some a → s.eligible a = false →
    let u := s.srcTo a 4
    exec .selection s = .next (match u.chosenSource with
      | none => u
      | some b => if u.active = some b then u else u.switchTo b)) ∧
  (∀ (s : State) (b : Nat), b < 20 → s.active ≠ some b →
    (s.switchTo b).get SEL_STATUS_ACTIVE = b ∧ (s.switchTo b).get SEL_STATUS_EVERACTIVE = 1 ∧ (s.switchTo b).srcState b = 6 ∧
    ((s.switchTo b).src b).activeWins = 0)

/-- ZDA sentences and the DPLL's lock, loss and fallback. With the TOD input off, or in OFF, BACKUP, BOOT and SAFE, a
sentence changes nothing; one that fails its checks is rejected with event 0x0509 and its reason; one whose TAI second would
be negative, or whose second 60 is not the announced leap second, is rejected with reason 3. A valid sentence ahead of its
pulse waits as the label of the next pulse when the last pulse has no label or carries the second before it, and else clears
the labels and is rejected with reason 3; one after its pulse labels that pulse when it comes within a second of it, the
pulse has no label yet and the label of the pulse before is absent or one second less, and is else rejected with reason 4, or
3 for the wrong second. The label and the measurement taken from it go to the TODIN source. DPLL_LOCK runs to 1 s after the
DPLL entered ACQUIRE (or, tracking TB, after TB's last step); a phase error within LOCKTHR then locks it and a larger one
leaves it in ACQUIRE. In LOCKED a phase error above four times LOCKTHR returns it to ACQUIRE and a smaller one changes
nothing. DPLL_FALLBACK runs to 100 ms after HOLD was entered and, with FALLBACK = 1, makes the DPLL track TB in the fallback
state and logs 0x0605. A change of the DPLL's state notes the tick and logs 0x0604. In every other state, and in OFF and
BACKUP, each command changes nothing. (spec/04_references_holdover_outputs.md (R106 to R108), notes/assumptions/12.md,
notes/assumptions/51.md) -/
def Obligations.TodInputAndDpllCommands : Prop :=
  (∀ (s : State) (cs : List Byte), s.warmRuns = false ∨ s.is SEL_TODIN_EN = false → exec (.zdaSentence cs) s = .next s) ∧
  (∀ (s : State) (cs : List Byte) (why : Nat), s.warmRuns = true → s.is SEL_TODIN_EN = true → zdaParse cs = .inr why →
    exec (.zdaSentence cs) s = .next (s.event 0x0509 1 why)) ∧
  (∀ (s : State) (cs : List Byte) (z : Zda), s.warmRuns = true → s.is SEL_TODIN_EN = true → zdaParse cs = .inl z →
    let l : Int := (daysOf z.year z.mon z.day * 86400 + z.hh * 3600 + z.mm * 60 + z.ss : Nat) + s.geti TB_UTC_OFFSET
    let leap : Prop := s.get TB_UTC_LEAP = 1 ∧ l + 1 = (s.leapTime : Int)
    (l < 0 → exec (.zdaSentence cs) s = .next (s.event 0x0509 1 3)) ∧
    (z.ss = 60 → ¬leap → exec (.zdaSentence cs) s = .next (s.event 0x0509 1 3)) ∧
    (0 ≤ l → (z.ss ≠ 60 ∨ leap) → s.is SEL_TODIN_PHASE = true →
      ((s.src 19).labels = [] ∨ (∃ t, (s.src 19).labels = none :: t) →
        exec (.zdaSentence cs) s = .next (s.onSel fun e => { e with zdaNext := some l.toNat })) ∧
      (∀ p t, (s.src 19).labels = some p :: t →
        (l.toNat = p + 1 → exec (.zdaSentence cs) s = .next (s.onSel fun e => { e with zdaNext := some l.toNat })) ∧
        (l.toNat ≠ p + 1 → exec (.zdaSentence cs) s = .next ((s.setSrc 19 { s.src 19 with labels := [] }).event 0x0509 1 3)))) ∧
    (0 ≤ l → (z.ss ≠ 60 ∨ leap) → s.is SEL_TODIN_PHASE = false →
      ((s.src 19).edges = [] → exec (.zdaSentence cs) s = .next (s.event 0x0509 1 4)) ∧
      (∀ p ps, (s.src 19).edges = p :: ps →
        (sec1 < s.now - p ∨ (∃ q t, (s.src 19).labels = some q :: t) → exec (.zdaSentence cs) s = .next (s.event 0x0509 1 4)) ∧
        (∀ ls, s.now - p ≤ sec1 → (s.src 19).labels = [none] ∨ (s.src 19).labels = none :: none :: ls →
          exec (.zdaSentence cs) s = .next (s.labelPulse p l.toNat)) ∧
        (∀ q ls, s.now - p ≤ sec1 → (s.src 19).labels = none :: some q :: ls →
          (l.toNat = q + 1 → exec (.zdaSentence cs) s = .next (s.labelPulse p l.toNat)) ∧
          (l.toNat ≠ q + 1 →
            exec (.zdaSentence cs) s = .next ((s.setSrc 19 { s.src 19 with labels := [none] }).event 0x0509 1 3)))))) ∧
  (∀ (s : State) (t lab : Nat), ((s.labelPulse t lab).src 19).labels = (some lab :: (s.src 19).labels.drop 1).take 4 ∧
    ((s.labelPulse t lab).src 19).lastMeas = some s.tb.ticks) ∧
  (∀ (s u : State) (d : Fin 4) (ph fr : Int), s.awake = true → s.get (DPLL_STATE d) = 1 →
    s.reachTick (1000000000 + max (s.dpll d).since (if s.get (DPLL_INPUTNOW d) = 16 then (s.dpll d).errAt else 0)) = some u →
    ((u.dpllPhase d ph).natAbs ≤ u.get (DPLL_LOCKTHR d) → exec (.dpllLock d ph fr) s = .next ((u.dpllShow d ph fr).dpllTo d 2)) ∧
    (u.get (DPLL_LOCKTHR d) < (u.dpllPhase d ph).natAbs → exec (.dpllLock d ph fr) s = .next u)) ∧
  (∀ (s : State) (d : Fin 4) (ph fr : Int), s.awake = true → s.get (DPLL_STATE d) = 2 →
    (4 * s.get (DPLL_LOCKTHR d) < (s.dpllPhase d ph).natAbs → exec (.dpllLockLoss d ph fr) s = .next ((s.dpllShow d ph fr).dpllTo d 1)) ∧
    ((s.dpllPhase d ph).natAbs ≤ 4 * s.get (DPLL_LOCKTHR d) → exec (.dpllLockLoss d ph fr) s = .next s)) ∧
  (∀ (s u : State) (d : Fin 4), s.awake = true → s.get (DPLL_STATE d) = 3 → s.is (DPLL_FALLBACK d) = true →
    s.reachTick (100000000 + (s.dpll d).since) = some u →
    exec (.dpllFallback d) s = .next (((u.dpllTrack d 16).dpllTo d 4).event 0x0605 2 (d + 16)) ∧
    (u.dpllTrack d 16).get (DPLL_INPUTNOW d) = 16) ∧
  (∀ (s : State) (d st : Nat), d < 4 → st < 8 → (s.dpllTo d st).get (DPLL_STATE d) = st ∧
    (s.get (DPLL_STATE d) ≠ st → ((s.dpllTo d st).dpll d).since = s.tb.ticks)) ∧
  (∀ (s : State) (d : Fin 4) (ph fr : Int), s.awake = false ∨ (s.get (DPLL_STATE d) ≠ 1 ∧ s.get (DPLL_STATE d) ≠ 2 ∧ s.get (DPLL_STATE d) ≠ 3) →
    exec (.dpllLock d ph fr) s = .next s ∧ exec (.dpllLockLoss d ph fr) s = .next s ∧ exec (.dpllFallback d) s = .next s)

/-- Output edges, alignment and time-of-day messages. A nominal instant of an enabled pulse or frame output, later than the
last one it served, is let come: TB runs to the instant plus the offsets and the misalignment. Its edge is then placed there
with the output's polarity and width and its time-of-day message is set for 10 ms later, when that instant comes after the
output's start and after its offsets took effect; within the width and 10 ns of the last edge it is omitted, counted and
logged instead. A clock output gives an edge half a period wide at the instant of the row, which must be an edge instant of
TB for one that stands on TB, and later than its last. An edge of an instant already served, of no nominal instant or of an
output that is off changes nothing. OUT_ALIGN adds its outputs to the pending alignment, notes the instant and shows each of
them pending; an empty mask changes nothing; the alignment takes effect at the first second boundary at least 10 us later,
where the misalignment of each pulse or frame output named becomes 0. A time-of-day output that is on and names a 1PPS output
sends the message of that output's last pulse, with the next sequence number and in its format, 10 ms after the pulse, and no
second one for it; STATUS.INVALID shows that it names any other output, for which nothing is sent.
(spec/04_references_holdover_outputs.md (R109 to R115), notes/assumptions/51.md) -/
def Obligations.OutputsEmitAlignAndReport : Prop :=
  (∀ (s u : State) (n : Fin 16) (b : Nat), s.outsRun = true → s.is (OUT_EN n) = true → s.get (OUT_KIND n) ≠ 0 → s.nominal n b = true →
    (∀ l, (s.outp n).lastB = some l → l < b) → State.reachEdge 4 s n b = some u → exec (.outputEdge n b) s = .next (u.placeEdge n b)) ∧
  (∀ (s : State) (n b from_ : Nat), (s.outp n).from_ = some from_ →
    let t : Int := (b : Int) + (s.outp n).ofs * ns1 + nearestDiv ((s.outp n).dly * 65536) 1000 + s.misalign n
    let late := (s.now - t.toNat) / ns1
    (t < from_ ∨ t < (s.outp n).ofsFrom → s.placeEdge n b = s) ∧
    (from_ ≤ t → (s.outp n).ofsFrom ≤ t →
      ((∀ l, (s.outp n).lastStart = some l → ((l + (s.outWidth n + 10) * ns1 : Nat) : Int) ≤ t) →
        s.placeEdge n b = (s.setOutp n { s.outp n with
          lastB := some b, lastStart := some t.toNat, msg := some (b, s.tb.ticks - late + 10000000), pulses := (s.outp n).pulses + 1 }).emit
            (.edge n t.toNat (s.leadHigh n) (s.outWidth n))) ∧
      (∀ l, (s.outp n).lastStart = some l → t < ((l + (s.outWidth n + 10) * ns1 : Nat) : Int) →
        s.placeEdge n b = ((s.setOutp n { s.outp n with lastB := some b, msg := none }).bump (OUT_OMIT n) 1).event 0x0603 1 n))) ∧
  (∀ (s u : State) (n : Fin 16) (b : Nat), s.outsRun = true → s.is (OUT_EN n) = true → s.get (OUT_KIND n) = 0 →
    (∀ l, (s.outp n).lastStart = some l → l < b) → (s.clockOnTb n = true → s.clockNominal n b = true) → s.reach b = some u →
    exec (.outputEdge n b) s = .next ((u.setOutp n { u.outp n with lastStart := some b, lastB := some b }).emit
      (.edge n b (u.leadHigh n) (500000000 * 65536 / max 1 (u.clockFreq n))))) ∧
  (∀ (s : State) (n : Fin 16) (b : Nat), s.outsRun = false ∨ s.is (OUT_EN n) = false ∨
    (s.get (OUT_KIND n) ≠ 0 ∧ (s.nominal n b = false ∨ ∃ l, (s.outp n).lastB = some l ∧ b ≤ l)) ∨
    (s.get (OUT_KIND n) = 0 ∧ ((s.clockOnTb n = true ∧ s.clockNominal n b = false) ∨ ∃ l, (s.outp n).lastStart = some l ∧ b ≤ l)) →
    exec (.outputEdge n b) s = .next s) ∧
  (∀ (s : State) (m : Nat), s.awake = true → m % 65536 ≠ 0 →
    let all := if s.is OUT_ALIGN_PENDING then s.get OUT_ALIGN_MASK ||| m % 65536 else m % 65536
    ∃ t, exec (.outAlign m) s = .next t ∧ t.get OUT_ALIGN_PENDING = 1 ∧ t.get OUT_ALIGN_MASK = all % 2 ^ OUT_ALIGN_MASK.width ∧
      t.outs = { s.outs with alignAt := s.now } ∧ { t with outs := s.outs, rf := s.rf } = s ∧
      ∀ n, n < 16 → all.testBit n = true → t.get (OUT_ALIGNPEND n) = 1) ∧
  (∀ (s : State) (m : Nat), s.awake = false ∨ m % 65536 = 0 → exec (.outAlign m) s = .next s) ∧
  (∀ (s : State), s.is OUT_ALIGN_PENDING = true → s.outs.alignAt + 10 * us1 ≤ s.now →
    s.alignBoundary.get OUT_ALIGN_PENDING = 0 ∧ ∀ n, n < 16 → (s.get OUT_ALIGN_MASK).testBit n = true →
      s.alignBoundary.get (OUT_ALIGNPEND n) = 0 ∧ (s.get (OUT_KIND n) ≠ 0 → s.alignBoundary.misalign n = 0)) ∧
  (∀ (s : State), s.is OUT_ALIGN_PENDING = false ∨ s.now < s.outs.alignAt + 10 * us1 → s.alignBoundary = s) ∧
  (∀ (s : State) (k : Fin 2), let n := s.get (TOD_PULSE k)
    s.outsRun = false ∨ s.is (TOD_EN k) = false ∨ s.todOk k = false ∨ s.is (OUT_EN n) = false ∨ (s.outp n).msg = none ∨
      SMap.get 0 s.outs.todSent k = (s.outp n).pulses → exec (.todMessageSend k) s = .next s) ∧
  (∀ (s u : State) (k : Fin 2) (b at_ : Nat), let n := s.get (TOD_PULSE k)
    s.outsRun = true → s.is (TOD_EN k) = true → s.todOk k = true → s.is (OUT_EN n) = true → (s.outp n).msg = some (b, at_) →
    SMap.get 0 s.outs.todSent k ≠ (s.outp n).pulses → s.reachTick at_ = some u →
    exec (.todMessageSend k) s = .next (u.todMessage k n (b / sec1))) ∧
  (∀ (s : State) (k n sec : Nat),
    let q := (s.get (TOD_SEQ k) + 1) % 65536
    let m := if s.is (TOD_FORMAT k) then s.todAscii sec (s.misalign n) q else s.todBinary sec (s.misalign n) q
    s.todMessage k n sec =
      ((s.onOuts fun o => { o with todSent := SMap.set 0 o.todSent k (s.outp n).pulses }).set (TOD_SEQ k) q).emit (.tod k m)) ∧
  (∀ (s : State) (k : Nat), k < 2 → (s.showTod.get (TOD_INVALID k) = 1 ↔
    ¬(s.get (OUT_KIND (s.get (TOD_PULSE k))) = 1 ∧ s.get (OUT_PULSE (s.get (TOD_PULSE k))) = 0)))

/-- The second boundary: the carry, a frozen step, the replicas, a due leap, the backup load, then every rule of the second.
While TB counts, SECOND_BOUNDARY runs the counter to its next carry, the sync word leaving on the way, applies the step that
word carries, loads the replicas, applies a leap that is due and loads the backup counter; the second's dump and the replica
measurements follow, then the measurement windows and released configurations, then the sources, holdover steering,
selection, alignment, outputs, DPLLs and clock outputs, then the services and gates, then the second's events and the opening
of a warm-up window. While TB stands still it changes nothing. After the carry no step is frozen and the backup counter is
valid and holds the new second. With three agreeing copies, nothing committed, no transfer, no step and no dump, the carry
ends in the next second. A step that is applied is added to the counters that agree, with FRAC[23:0] unchanged, and moves the
lease instants; one that would take the counter below zero sets it to zero. At the boundary a replica takes the master's SEC,
a flagged one the whole count; a measured offset above 200 ps flags it with event 0x0307. A leap whose second has come
changes the offset by its second, is no longer pending and logs event 0x0305. (spec/02_time_base.md (R35, R43 to R45, R47 to
R49, R57), notes/assumptions/1.md) -/
def Obligations.SecondBoundaryRunsItsRules : Prop :=
  (∀ (s : State) (b : BoundaryIn), s.tb.running = false → exec (.secondBoundary b) s = .next s) ∧
  (∀ (s : State) (b : BoundaryIn), s.tb.running = true →
    let u := s.carry
    let step := if u.tb.steps = s.tb.steps then none else u.tb.lastStep
    exec (.secondBoundary b) s = .next
      (((((u.dumpSecond.replicas b.offsets).measureBoundary step.isSome).sourceBoundary).serviceBoundary step).newSecond.warmOpens)) ∧
  (∀ (s : State), s.measureBoundary true = (s.windowsBoundary true).releaseCfg.swapBoundary.feedbackBoundary.cutVirtual ∧
    s.measureBoundary false = (s.windowsBoundary false).releaseCfg.swapBoundary.feedbackBoundary ∧
    s.sourceBoundary = (s.ptpinQ1.secondQualifiers.showWtr.reclaimEval.sumTherm.holdoverSteer.select).alignBoundary.outBoundary.dpllSecond.clockBoundary.warmRule ∧
    ∀ step, s.serviceBoundary step = ((s.publishTqr.ntsBoundary.freshCerts).gnBoundary step).burstBoundary.updateGates) ∧
  (∀ (s : State), s.tb.running = true →
    s.carry.tb.frozen = none ∧ s.carry.bk.sec = instSec s.carry.now ∧ s.carry.bk.phase = 0 ∧ s.carry.bk.valid = true ∧
      s.carry.bk.lastLoad = s.carry.bk.sec ∧ s.carry.mode = s.mode) ∧
  (∀ (s : State), s.tb.running = true → s.copiesAgree → s.tb.c0.sec + 1 < 2 ^ 48 → s.tb.incrQ = [] → s.tb.gcompQ = [] →
    s.sel.transfer = none → s.tb.step = none → s.tb.frozen = none → s.perf.period = 0 →
    instSec s.carry.now = instSec s.now + 1 ∧ s.carry.tb.steps = s.tb.steps ∧ s.carry.copiesAgree) ∧
  (∀ (c : TbCount) (d : Int), 0 ≤ (c.total : Int) + d * 2 ^ 24 →
    c.step d = some (TbCount.ofTotal ((c.total : Int) + d * 2 ^ 24).toNat) ∧
    (TbCount.ofTotal ((c.total : Int) + d * 2 ^ 24).toNat).frac % 2 ^ 24 = c.frac % 2 ^ 24 ∧
    (TbCount.ofTotal ((c.total : Int) + d * 2 ^ 24).toNat).nsec < 1000000000) ∧
  (∀ (s : State) (d : Int), s.tb.c1 = s.tb.c0 → s.tb.c2 = s.tb.c0 → s.is TB_STATUS_COPYFAIL = false → s.tb.frozen = some d →
    (s.applyStep d).tb.c0 = (s.tb.c0.step d).getD {} ∧ (s.applyStep d).tb.c1 = (s.applyStep d).tb.c0 ∧
    (s.applyStep d).tb.c2 = (s.applyStep d).tb.c0 ∧ (s.applyStep d).tb.steps = s.tb.steps + 1 ∧
    (s.applyStep d).tb.lastStep = some d ∧ (s.applyStep d).tb.frozen = none ∧ (s.applyStep d).lease = s.lease.move d) ∧
  (∀ (c : TbCount) (d : Int), (c.total : Int) + d * 2 ^ 24 < 0 → (c.step d).getD {} = ⟨0, 0, 0⟩) ∧
  (∀ (s : State) (n : Nat) (r : TbCount), n < 4 → s.tb.reps[n]? = some r →
    (s.tb.repAdd.getD n 0 = 0 → s.loadReplicas.tb.reps[n]? = some { r with sec := s.master.sec }) ∧
    (s.tb.repAdd.getD n 0 ≠ 0 → s.loadReplicas.tb.reps[n]? = some s.master)) ∧
  (∀ (s : State) (n : Nat) (o : Int), n < 4 → 200 < o.natAbs →
    (s.judgeReplica n o).bit TB_STATUS_REPFLAG n = true ∧ (s.judgeReplica n o).get (TB_REP_TRIM n) = 0) ∧
  (∀ (s : State), s.is TB_UTC_PENDING = true → s.leapTime ≤ instSec s.now →
    s.applyLeap.get TB_UTC_LEAP = 0 ∧ s.applyLeap.get TB_UTC_PENDING = 0 ∧
    s.applyLeap.get TB_UTC_OFFSET =
      ofSigned TB_UTC_OFFSET.width (satSigned TB_UTC_OFFSET.width
        (s.geti TB_UTC_OFFSET + (if s.get TB_UTC_LEAP = 1 then 1 else if s.get TB_UTC_LEAP = 2 then -1 else 0)))) ∧
  (∀ (s : State), s.is TB_UTC_PENDING = false ∨ instSec s.now < s.leapTime → s.applyLeap = s)

/-- GNSS front end, path clocks, AGC, channel assignment, acquisition and tracking states. The front-end list runs while the
baseband is on and the list has not run: each transaction is sent in order up to the first read-back mismatch, at transaction
i, which sets FAIL, INDEX and FEFAIL with event 0x080E of severity 2; a list without one sets DONE, keeps the start type and
awaits the path clocks that are not there yet. This comes when the bytes sent have passed at 10 MHz with the gaps the command
says, and where a second boundary comes before, nothing happens. A lost clock of a running path (one not seen since the list:
100 ms after it) sets its flag, returns every channel of that antenna path to IDLE and leaves the others in their states; a
restored one, 100 ms after the loss, clears the flag, logs event 0x0802 and assigns channels again from the demand kept, and
one that was not lost has been seen. Assignment keeps the demand and the satellites in view; with all channels idle and one
wanted signal, channel 0 searches for it (ACQ) with an engine when its window is known, and every other channel stays idle.
The AGC loop runs once per millisecond and steps the duty up below its target and down above it, by an amount the spec does
not state (a free value, log 22), and puts it on its output. A detection takes a channel that an engine searches for from ACQ
to PULLIN, and a completed pull-in takes it to TRACK with LOCKT cleared and hands over the L5-band signals of its satellite
that wait; in any other state both change nothing. Every row changes nothing while the baseband is off.
(spec/05_gnss_baseband.md (R121, R123 to R128, R130), notes/assumptions/22.md, notes/assumptions/53.md) -/
def Obligations.GnssFrontEndAndChannels : Prop :=
  (∀ (s : State) (rs : List (List Byte)) (w : Nat) (a b : Bool), s.gnOn = false ∨ s.is GN_FESTAT_DONE = true →
    exec (.feListRun rs w a b) s = .next s) ∧
  (∀ (s : State) (rs : List (List Byte)) (w : Nat) (a b : Bool), s.gnOn = true → s.is GN_FESTAT_DONE = false →
    (∀ i < s.gn.feList.length, feBad (s.gn.feList.getD i ⟨[], none⟩) (rs.getD i []) = false) →
    (s.reachTick (s.tb.ticks + (800 * (s.gn.feList.map (·.bytes.length)).sum + w)) = none → exec (.feListRun rs w a b) s = .next s) ∧
    ∀ u, s.reachTick (s.tb.ticks + (800 * (s.gn.feList.map (·.bytes.length)).sum + w)) = some u →
    exec (.feListRun rs w a b) s = .next (((u.gn.feList.foldl (fun s t => s.emit (.frontEnd t.bytes)) u).onGn fun g =>
      { g with feDone := u.tb.ticks, start := u.gnStart, clkWait := (if a then [] else [0]) ++ (if b then [] else [1]) }).set GN_FESTAT_DONE 1)) ∧
  (∀ (s : State) (rs : List (List Byte)) (w : Nat) (a b : Bool) (i : Nat), s.gnOn = true → s.is GN_FESTAT_DONE = false →
    i < s.gn.feList.length → feBad (s.gn.feList.getD i ⟨[], none⟩) (rs.getD i []) = true →
    (∀ j < i, feBad (s.gn.feList.getD j ⟨[], none⟩) (rs.getD j []) = false) →
    (s.reachTick (s.tb.ticks + (800 * ((s.gn.feList.take (i + 1)).map (·.bytes.length)).sum + w)) = none → exec (.feListRun rs w a b) s = .next s) ∧
    ∀ u, s.reachTick (s.tb.ticks + (800 * ((s.gn.feList.take (i + 1)).map (·.bytes.length)).sum + w)) = some u →
    exec (.feListRun rs w a b) s = .next ((((((u.gn.feList.take (i + 1)).foldl (fun s t => s.emit (.frontEnd t.bytes)) u).set
      GN_FESTAT_FAIL 1).set GN_FESTAT_INDEX i).set GN_STATUS_FEFAIL 1).event 0x080E 2 i)) ∧
  (∀ (s : State) (p : Fin 2), s.gnOn = false ∨ s.is GN_FESTAT_DONE = false ∨ s.gnPath p = false → exec (.gnPathClockLoss p) s = .next s) ∧
  (∀ (s u : State) (p : Fin 2), s.gnOn = true → s.is GN_FESTAT_DONE = true → s.gnPath p = true →
    s.reachTick (if s.gn.clkWait.contains p then 10 ^ 8 + s.gn.feDone else 0) = some u →
    ∃ t, exec (.gnPathClockLoss p) s = .next t ∧ t.get (gnLoss p) = 1 ∧ t.mode = u.mode ∧ t.gn.clkWait.contains p = false ∧
      SMap.get 0 t.gn.clkLost p = u.tb.ticks ∧ ∀ c < 256, t.gnCh c = if u.get (GN_CHST_ANT c) = p then 0 else u.gnCh c) ∧
  (∀ (s u : State) (p : Fin 2), s.gnOn = true → s.is (gnLoss p) = true → s.reachTick (10 ^ 8 + SMap.get 0 s.gn.clkLost p) = some u →
    exec (.gnPathClockRestore p) s = .next (((u.set (gnLoss p) 0).event 0x0802 2 (p : Nat)).gnAssign u.gn.demand)) ∧
  (∀ (s : State) (p : Fin 2), s.gnOn = true → s.is (gnLoss p) = false →
    exec (.gnPathClockRestore p) s = .next (s.onGn fun g => { g with clkWait := g.clkWait.filter (· ≠ (p : Nat)) })) ∧
  (∀ (s : State) (p : Fin 2), s.gnOn = false → exec (.gnPathClockRestore p) s = .next s) ∧
  (∀ (s : State) (l : List GnSig), s.gnOn = false ∨ s.is GN_FESTAT_DONE = false → exec (.channelAssign l) s = .next s) ∧
  (∀ (s : State) (x : GnSig), s.gnOn = true → s.is GN_FESTAT_DONE = true → (∀ c < 256, s.gnCh c = 0) → s.is GN_STATUS_CHOVER = false →
    s.gn.sigen.contains (x.ant, x.signal) = true → gnSvOk x.signal x.sv = true →
    s.gnPath x.ant = true → s.is (GN_STR_CFG_EN (gnStream x.ant x.signal)) = true → s.gnFits x.ant x.signal = true →
    s.get GN_SOLCFG_MASK < x.elev → x.ant < 2 → x.signal < 16 → x.sv < 256 →
    ∃ t, exec (.channelAssign [x]) s = .next t ∧ t.gn.demand = [x] ∧ t.gn.orbit.view = [(gnSystem x.signal, x.sv)] ∧ t.gnCh 0 = 1 ∧
      t.get (GN_CHST_ANT 0) = x.ant ∧ t.get (GN_CHST_SIGNAL 0) = x.signal ∧ t.get (GN_CHST_SV 0) = x.sv ∧ t.get GN_STATUS_CHTRACK = 0 ∧
      ((t.gnSearchOf 0).isSome = true → t.gn.search.any (·.ch == 0) = true) ∧ ∀ c < 256, c ≠ 0 → t.gnCh c = 0) ∧
  (∀ (s : State) (m : Fin 4) (v : List Nat), s.gnOn = false ∨ s.is (GN_STR_CFG_EN m) = false ∨ s.gnPath (m / 2) = false →
    exec (.agcAdjust m v) s = .next s) ∧
  (∀ (s u : State) (m : Fin 4) (v : List Nat), s.gnOn = true → s.is (GN_STR_CFG_EN m) = true → s.gnPath (m / 2) = true →
    s.reachTick (1000000 + SMap.get 0 s.gn.agcAt m) = some u →
    let w := (u.dutyCount m).onGn fun g => { g with agcAt := SMap.set 0 g.agcAt m u.tb.ticks }
    let l := gnLevel (u.is (GN_STR_CFG_BITS m)) v
    let d := SMap.get 0 u.gn.duty m
    (l.1 < l.2 → d < 255 → ∃ n, d < n ∧ n ≤ 255 ∧
      exec (.agcAdjust m v) s = .next ((w.drawn.onGn fun g => { g with duty := SMap.set 0 g.duty m n }).emit (.agc m n))) ∧
    (l.2 < l.1 → 0 < d → ∃ n, n < d ∧
      exec (.agcAdjust m v) s = .next ((w.drawn.onGn fun g => { g with duty := SMap.set 0 g.duty m n }).emit (.agc m n))) ∧
    (l.1 = l.2 → exec (.agcAdjust m v) s = .next w)) ∧
  (∀ (s : State) (c : Fin 256), s.gnRuns = true → s.gnCh c = 1 → s.gnDeal.gn.search.any (·.ch == (c : Nat)) = true →
    exec (.acquisitionDetect c) s = .next (s.gnDeal.set (GN_CHST_STATE c) 2).gnDeal ∧
    ((s.gnDeal.set (GN_CHST_STATE c) 2).gnDeal).gnCh c = 2) ∧
  (∀ (s : State) (c : Fin 256), s.gnRuns = false ∨ s.gnCh c ≠ 1 ∨ s.gnDeal.gn.search.any (·.ch == (c : Nat)) = false →
    exec (.acquisitionDetect c) s = .next s) ∧
  (∀ (s : State) (c : Fin 256), s.gnRuns = true → s.gnCh c = 2 →
    ∃ t, exec (.pullinComplete c) s = .next t ∧ t.gnCh c = 3 ∧ t.get (GN_CHST_LOCKT c) = 0 ∧ t.tb = s.tb ∧ t.mode = s.mode ∧
      (∀ d < 256, d ≠ c → t.gnCh d = if gnL5 (s.get (GN_CHST_SIGNAL c)) = false ∧ s.gnCh d = 1 ∧ gnL5 (s.get (GN_CHST_SIGNAL d)) = true ∧
        s.gnSat d = s.gnSat c then 2 else s.gnCh d) ∧
      t.get GN_STATUS_CHTRACK = ((List.range 256).filter fun d => t.gnCh d == 3).length) ∧
  (∀ (s : State) (c : Fin 256), s.gnRuns = false ∨ s.gnCh c ≠ 2 → exec (.pullinComplete c) s = .next s)

/-- Navigation records, latch instants and measurement sets. A channel in TRACK that runs writes its record at the next
sequence number k, in word k mod 1024: the ring shows k in SEQ and SEQB and in GN_NAVSEQ, with the kind, the check of the
record against what the channel holds of the part before it, the channel, its antenna, signal and SV, the length and the
bits; the channel then holds what the next check needs, and a record that passes its check and completes an ephemeris is held
with its tick. A record from any other channel, of another kind than its signal's, or of a length its kind has not writes
nothing. At latch instant j of the second the state advances to it, a set still on its way is published, and every channel in
TRACK captures what it measures there; the new set waits with its time, index, step and burst marks, and at j = 0 the capture
is kept for the second. While the channels do not run, the instant alone is reached. A set on its way is let drain, then
published as set k in place k mod 32: SEQA and SEQB read k, GN_LATCH.LASTSET is k, NTRACK the number of its records, a record
reads VALID where its channel captured and no other does, and nothing waits afterwards; with none on its way nothing changes.
(spec/05_gnss_baseband.md (R129, R131, R132, R134 to R138), notes/assumptions/54.md) -/
def Obligations.GnssMeasurementsAreLatchedAndPublished : Prop :=
  (∀ (s : State) (c : Fin 256) (r : NavRec) (n : Nat),
    s.gnChRuns c = false ∨ s.gnCh c ≠ 3 ∨ (r.kind ≠ gnKind (s.get (GN_CHST_SIGNAL c)) ∧ r.kind ≠ 8) ∨ navLength r.kind r.bits.length = false →
    exec (.navRecordWrite c r n) s = .next s) ∧
  (∀ (s : State) (c : Fin 256) (r : NavRec) (n : Nat), s.gnChRuns c = true → s.gnCh c = 3 →
    r.kind = gnKind (s.get (GN_CHST_SIGNAL c)) ∨ r.kind = 8 → navLength r.kind r.bits.length = true →
    s.get GN_NAVSEQ_SEQ + 1 < 2 ^ 32 →
    let k := s.get GN_NAVSEQ_SEQ + 1
    let w := k % 1024
    let check := navCheck r (SMap.get [] s.gn.navPrev c)
    ∃ t, exec (.navRecordWrite c r n) s = .next t ∧ t.get GN_NAVSEQ_SEQ = k ∧ t.get (GN_NAV_SEQ w) = k ∧ t.get (GN_NAV_SEQB w) = k ∧
      t.get (GN_NAV_KIND w) = r.kind ∧ t.get (GN_NAV_CHECK w) = check ∧ t.get (GN_NAV_CH w) = c ∧
      t.get (GN_NAV_SIGNAL w) = s.get (GN_CHST_SIGNAL c) ∧ t.get (GN_NAV_SV w) = s.get (GN_CHST_SV c) ∧
      t.get (GN_NAV_ANT w) = s.get (GN_CHST_ANT c) ∧ t.get (GN_NAV_NBITS w) = r.bits.length ∧
      (∀ i < 24, ∀ j < 4, t.get (GN_NAV_DATA w i) / 2 ^ (8 * j) % 256 = (byteOfBits ((r.bits.drop (8 * (4 * i + j))).take 8)).toNat) ∧
      SMap.get [] t.gn.navPrev c = navCarry r ∧
      (check = 0 ∨ check = 2 → r.kind ≠ 8 → r.eph = true →
        (gnSystem (s.get (GN_CHST_SIGNAL c)), s.get (GN_CHST_SV c), s.tb.ticks) ∈ t.gn.orbit.ephs) ∧
      t.mode = s.mode ∧ (r.utc = none → t.tb = s.tb)) ∧
  (∀ (s : State) (j : Fin 50) (obs : List (Nat × GnObs)) (corr : List (Nat × List (Int × Int))),
    s.gnOn = false ∨ s.gnLatches ≤ j ∨ s.reach (sec1 / s.gnLatches * j + s.gn.lastB) = none →
    exec (.measurementLatch j obs corr) s = .next s) ∧
  (∀ (s u : State) (j : Fin 50) (obs : List (Nat × GnObs)) (corr : List (Nat × List (Int × Int))), s.gnOn = true → (j : Nat) < s.gnLatches →
    s.reach (sec1 / s.gnLatches * j + s.gn.lastB) = some u →
    (u.gnRuns = false → exec (.measurementLatch j obs corr) s = .next u) ∧
    (u.gnRuns = true →
      let recs := ((List.range 256).filter fun c => u.gnPublish.gnCh c == 3).map (u.gnPublish.gnCapture obs)
      ∃ t, exec (.measurementLatch j obs corr) s = .next t ∧
        t.gn.pending = some { time := u.gnPublish.gn.lastB + (j : Nat) * (sec1 / s.gnLatches), index := j,
                              step := (j : Nat) == 0 && u.gnPublish.gn.stepB, burst := u.gnPublish.is GN_STATUS_BURST, recs := recs } ∧
        t.gn.firstSet = false ∧ t.gn.setNum = u.gnPublish.gn.setNum ∧ (j = 0 → t.gn.lastSec = recs) ∧
        (j ≠ 0 → t.gn.lastSec = u.gnPublish.gn.lastSec) ∧ t.tb = u.tb ∧ t.mode = u.mode)) ∧
  (∀ (s : State), s.gn.pending = none → exec .measurementSetPublish s = .next s) ∧
  (∀ (s u : State) (x : GnSet), s.gn.pending = some x →
    s.reach (x.time + ceilDiv (256 * us1) (s.gnRate (if s.gnPath 0 then 0 else 1))) = some u →
    exec .measurementSetPublish s = .next u.gnPublish) ∧
  (∀ (s : State) (x : GnSet), s.gn.pending = some x → s.gn.setNum + 1 < 2 ^ 32 → x.recs.length ≤ 256 → x.index < 256 →
    (∀ r ∈ x.recs, r.ch < 256) →
    let k := s.gn.setNum + 1
    let w := k % 32
    let t := s.gnPublish
    t.gn = { s.gn with pending := none, setNum := k } ∧ t.get (GN_SET_SEQA w) = k ∧
      t.get (GN_SET_SEQB w) = k ∧ t.get GN_LATCH_LASTSET = k ∧ t.get (GN_SET_NTRACK w) = x.recs.length ∧
      t.get (GN_SET_INDEX w) = x.index ∧ t.get (GN_SET_STEP w) = (if x.step then 1 else 0) ∧
      t.get (GN_SET_BURST w) = (if x.burst then 1 else 0) ∧ (∀ r ∈ x.recs, t.get (GN_MEAS_VALID w r.ch) = 1) ∧
      (∀ c < 256, (∀ r ∈ x.recs, r.ch ≠ c) → t.get (GN_MEAS_VALID w c) = 0) ∧
      (∀ v < 32, v ≠ w → ∀ c < 256, t.get (GN_MEAS_VALID v c) = s.get (GN_MEAS_VALID v c)) ∧ t.mode = s.mode ∧ t.tb = s.tb)

/-- The interference second, the spoof flag and the burst windows. The interference second runs once per second while the
baseband is on: each enabled stream of a running path is judged in order, its JAM reads J and its seconds at or above FLAG
are counted; then the jamming flag follows: three such seconds of a stream set it, ten quiet seconds clear it, each with
event 0x0804 of severity 2. The spoof evaluation, also once per second, counts the seconds of detectors A and B, shows A
after 10, B after 60 and C from the clock jump, and sets the flag on A, on C or on B without enough dual pairs; a standing
flag falls after the hold. A burst window opens half its length before the next second boundary and closes half its length
after the last, the next set being the first of its window; at a second boundary burst tracking starts when its conditions
hold, with the window open, and stops when one fails, each with event 0x080A. Outside burst tracking, or with the window
already so, the window rows change nothing. (spec/05_gnss_baseband.md (R142 to R149), notes/assumptions/22.md,
notes/assumptions/53.md) -/
def Obligations.InterferenceSpoofAndBurstRules : Prop :=
  (∀ (s : State) (bs : List GnBand), s.gnOn = false ∨ s.gn.jamDone = true → exec (.interferenceSecond bs) s = .next s) ∧
  (∀ (s : State) (bs : List GnBand), s.gnOn = true → s.gn.jamDone = false →
    exec (.interferenceSecond bs) s = .next ((s.onGn fun g => { g with jamDone := true }).forEach 4 fun s m =>
      if s.is (GN_STR_CFG_EN m) = true ∧ s.gnPath (m / 2) = true then s.streamSecond m (bs.getD m ⟨[], []⟩) else s).jamFlag) ∧
  (∀ (s : State) (m : Nat) (b : GnBand), m < 4 →
    let v := (s.notches m b).dutyCount m
    (s.streamSecond m b).get (GN_STR_STAT_JAM m) = v.jamOf m b ∧
    SMap.get 0 (s.streamSecond m b).gn.jamSec m =
      (if s.get GN_JAMCFG_FLAG ≤ v.jamOf m b then SMap.get 0 s.gn.jamSec m + 1 else 0)) ∧
  (∀ (s : State), let on := fun m => s.is (GN_STR_CFG_EN m) && s.gnPath (m / 2)
    (s.is GN_STATUS_JAMFLAG = false → (s.jamFlag.is GN_STATUS_JAMFLAG = true ↔ ∃ m < 4, on m = true ∧ 3 ≤ SMap.get 0 s.gn.jamSec m)) ∧
    (s.is GN_STATUS_JAMFLAG = true → (s.jamFlag.is GN_STATUS_JAMFLAG = false ↔ 10 ≤ s.jamFlag.gn.quietSec)) ∧
    s.jamFlag.gn.quietSec =
      (if ∀ m < 4, on m = true → s.get (GN_STR_STAT_JAM m) < s.get GN_JAMCFG_WARN then s.gn.quietSec + 1 else 0)) ∧
  (∀ (s : State), s.gnOn = false ∨ s.gn.spoofDone = true → exec .spoofEval s = .next s) ∧
  (∀ (s : State), s.gnOn = true → s.gn.spoofDone = false →
    let inc := !s.gnPath 1 || decide (s.dualPhases.length < 4)
    let l := s.gnHighCn0
    let aSec := if inc = false ∧ phaseAtLeast s.dualPhases (s.get GN_SPOOFCFG_RTHR) = true then s.gn.aSec + 1 else 0
    let bSec := if 6 ≤ l.length ∧ spread l < (l.length * (10 * s.get GN_SPOOFCFG_CN0SD)) ^ 2 then s.gn.bSec + 1 else 0
    let a := decide (10 ≤ aSec)
    let b := decide (60 ≤ bSec)
    let cf := s.gnJump.any fun j => decide (s.get GN_SPOOFCFG_CLKJUMP * (65536 * 10 ^ 6) < j)
    ∃ t, exec .spoofEval s = .next t ∧ t.gn.spoofDone = true ∧ t.gn.aSec = aSec ∧ t.gn.bSec = bSec ∧
      t.gn.calm = (if a || b || cf then 0 else s.gn.calm + 1) ∧ t.is GN_SPOOF_A = a ∧ t.is GN_SPOOF_B = b ∧ t.is GN_SPOOF_C = cf ∧
      t.is GN_SPOOF_AINC = inc ∧
      (s.is GN_SPOOF_FLAG = false → t.is GN_SPOOF_FLAG = (a || cf || (b && inc))) ∧
      (s.is GN_SPOOF_FLAG = true → t.is GN_SPOOF_FLAG = !decide (s.get GN_SPOOFCFG_HOLD * 10 ≤ t.gn.calm)) ∧
      (t.is GN_SPOOF_FLAG ≠ s.is GN_SPOOF_FLAG → t.is GN_STATUS_SPOOFFLAG = t.is GN_SPOOF_FLAG)) ∧
  (∀ (s : State), s.gnOn = false ∨ s.is GN_STATUS_BURST = false ∨ s.gn.window = true → exec .burstWindowOpen s = .next s) ∧
  (∀ (s u : State), s.gnOn = true → s.is GN_STATUS_BURST = true → s.gn.window = false →
    s.reach (sec1 * (instSec s.now + 1) - s.halfWindow) = some u →
    exec .burstWindowOpen s = .next (u.onGn fun g => { g with window := true, firstSet := true })) ∧
  (∀ (s : State), s.gnOn = false ∨ s.is GN_STATUS_BURST = false ∨ s.gn.window = false → exec .burstWindowClose s = .next s) ∧
  (∀ (s u : State), s.gnOn = true → s.is GN_STATUS_BURST = true → s.gn.window = true → s.reach (s.gn.lastB + s.halfWindow) = some u →
    exec .burstWindowClose s = .next (u.onGn fun g => { g with window := false })) ∧
  (∀ (s : State), s.gnOn = true →
    (s.burstOk = true → s.is GN_STATUS_BURST = false → s.burstBoundary =
      ((s.onGn fun g => { g with window := true, firstSet := true }).set GN_STATUS_BURST 1).event 0x080A 0 (256 + s.get GN_BURST_LEN)) ∧
    (s.burstOk = false → s.is GN_STATUS_BURST = true → s.burstBoundary =
      ((s.onGn fun g => { g with window := false, firstSet := false }).set GN_STATUS_BURST 0).event 0x080A 0 (s.get GN_BURST_LEN)))

/-- The published time solution, the survey and the orbit-data write. A solution is published once per second, within 200 ms
after the boundary, while the baseband runs with its list done, from the satellites that may enter it alone: the sequence
words take the next number and the integrity counts follow it. With no solution STATE reads 0, VALID is clear and the run of
passing solutions ends. One that passes the residual test, or would with one satellite excluded, of enough satellites and
with no integrity flag is valid: STATE reads 3 with a held or image position or one near the stored position, 2 during a
survey and else 1, which starts a survey; OFFSET less the steps becomes the second measurement kept for the clock jump and
the measurement of source 16. The survey ends when none of its seconds is left: the averaged position, which the command
brings and which is kept within the box that the positions averaged span (the spec states no weights), is held and stored,
STATE reads 3 with event 0x0809, and an orbit-data write is due. That write, due then or 24 h after the last, erases the copy
with the lower sequence number, or the invalid one, and programs the record of the orbit data held with the next number; one
that fails, in its erase or its program, leaves free bytes in the page of the header and logs event 0x7006. Outside these
conditions nothing changes. (spec/05_gnss_baseband.md (R129, R151 to R154), spec/14_boot_configuration_lifecycle.md (R373),
notes/assumptions/53.md) -/
def Obligations.GnssSolutionSurveyAndOrbitData : Prop :=
  (∀ (s : State) (x : GnSol), s.gnOn = false ∨ s.is GN_FESTAT_DONE = false ∨ s.gn.solDone = true ∨ s.gn.lastB + 200 * ms1 < s.now →
    exec (.solutionPublish x) s = .next s) ∧
  (∀ (s : State) (x : GnSol), s.gnOn = true → s.is GN_FESTAT_DONE = true → s.gn.solDone = false → s.now ≤ s.gn.lastB + 200 * ms1 →
    (s.solLimit x).have_ = false →
    ∃ t, exec (.solutionPublish x) s = .next t ∧ t.get GN_SOL_STATE = 0 ∧ t.is GN_SOL_VALID = false ∧ t.is GN_STATUS_SOLVALID = false ∧
      t.get GN_SOL_SEQA = (s.get GN_SOL_SEQA + 1) % 2 ^ 32 ∧ t.get GN_SOL_SEQB = (s.get GN_SOL_SEQA + 1) % 2 ^ 32 ∧
      t.gn.failSol = (if (s.solLimit x).usable < s.get GN_SOLCFG_MINSV then s.gn.failSol + 1 else s.gn.failSol) ∧ t.gn.passSol = 0 ∧
      (s.is GN_STATUS_INTFLAG = true → t.is GN_STATUS_INTFLAG = true) ∧ t.gn.solDone = true ∧ t.gn.x1 = s.gn.x1 ∧ t.tb = s.tb ∧ t.mode = s.mode) ∧
  (∀ (s : State) (x : GnSol), let y := s.solLimit x
    s.gnOn = true → s.is GN_FESTAT_DONE = true → s.gn.solDone = false → s.now ≤ s.gn.lastB + 200 * ms1 → y.have_ = true →
    y.residOk = true ∨ y.exclOk = true → s.is GN_STATUS_INTFLAG = false → s.get GN_SOLCFG_MINSV ≤ y.usable → s.get GN_SOLCFG_MINSV ≤ y.used →
    ∃ t, exec (.solutionPublish x) s = .next t ∧ t.is GN_SOL_VALID = true ∧ t.is GN_STATUS_SOLVALID = true ∧
      t.get GN_SOL_STATE = (if s.is GN_SOLCFG_POSSRC = true ∨ s.gn.held = true then 3 else if s.gn.survey = true then 2
        else if s.gn.orbit.pos.any (near10m x.pos) = true then 3 else 1) ∧
      t.gn.survey = (s.gn.survey || !(s.is GN_SOLCFG_POSSRC || s.gn.held || s.gn.orbit.pos.any (near10m x.pos))) ∧
      t.gn.x1 = some (s.solOffset y - s.gn.stepSum, s.tb.ticks) ∧ t.gn.x0 = s.gn.x1 ∧
      (t.src 16).lastMeas = some s.tb.ticks ∧ t.gn.failSol = 0 ∧ t.gn.passSol = s.gn.passSol + 1 ∧ t.gn.valid = true) ∧
  (∀ (s : State) (x y z : Int), s.gnOn = true → s.gn.survey = true → s.gn.survLeft = 0 → s.gn.survN ≠ 0 →
    let q := s.get GN_SOL_SEQA + 1
    let p := (within s.gn.survLo.1 s.gn.survHi.1 x, within s.gn.survLo.2.1 s.gn.survHi.2.1 y, within s.gn.survLo.2.2 s.gn.survHi.2.2 z)
    exec (.surveyComplete x y z) s = .next
      (((((((s.onGn fun g => { g with survey := false, held := true, orbitDue := true, orbit := { g.orbit with pos := some p } }).setPos p).set
        GN_SOL_SEQB q).set GN_SOL_STATE 3).set GN_SOL_SURVLEFT 0).set GN_SOL_SEQA q).event 0x0809 0 0)) ∧
  (∀ (s : State) (x y z : Int), s.gnOn = false ∨ s.gn.survey = false ∨ s.gn.survLeft ≠ 0 ∨ s.gn.survN = 0 →
    exec (.surveyComplete x y z) s = .next s) ∧
  (∀ (s : State) (e g : Bool), s.serviceOn = false ∨ (s.gn.orbitDue = false ∧ s.tb.ticks < 86400000000000 + s.gn.orbitAt) →
    exec (.orbitDataWrite e g) s = .next s) ∧
  (∀ (s : State), s.serviceOn = true → s.gn.orbitDue = true ∨ 86400000000000 + s.gn.orbitAt ≤ s.tb.ticks →
    let body := (Config.orbitBody s.gn.orbit.alms s.gn.orbit.pos s.gn.orbit.utc).take (0x80000 - 16)
    let c := if s.orbitNewer = some 0 then 1 else 0
    let seq := (s.orbitNewer.elim 0 fun n => s.orbitSeq n + 1) % 2 ^ 32
    let mark (t : State) : State := t.onGn fun g => { g with orbitAt := s.tb.ticks, orbitDue := false }
    let torn (t : State) : State := (t.drawn.flashPut (orbitBase c) t.garbled).showOrbit.event 0x7006 1 c
    exec (.orbitDataWrite true true) s = .next (((mark (s.flashErase (orbitBase c) 0x80000)).onGn fun g =>
      { g with orbit := { g.orbit with seq := seq } }).flashPut (orbitBase c)
        (leBytes 4 0x4F524244 ++ leBytes 4 seq ++ leBytes 4 body.length ++ leBytes 4 (crc32c body) ++ body)).showOrbit ∧
    exec (.orbitDataWrite true false) s = .next (torn (mark (s.flashErase (orbitBase c) 0x80000))) ∧
    ∀ g, exec (.orbitDataWrite false g) s = .next (torn (mark s)))

/-- Link states, quad faults, PAUSE, low-power idle, threshold and counter reads. Signal detection ends a local fault and
starts block lock on a port that may run and is DOWN. Completed lock brings an ALIGNING port without local fault UP at the
end of UPHOLD ms, with event 0x1002, its link entries and link condition cleared, and its side of the EEE exchange is sent. A
link that falls on a port that may run goes DOWN: RFAULT and the EEE agreement clear, what is being transmitted is cut, the
link entries go and the fall is counted; a local fault also starts remote-fault ordered sets. On any port the PTP state is
evaluated. Remote fault follows its ordered sets while the port is UP. A quad fault takes all eight ports DOWN and shows its
cause; a retry, 1 s after a fault, shows lock and reference clock; a clear needs a standing fault and 100 ms of lock. The
pause timer's end clears PAUSED and PAUSELEFT at its instant. An EEE exchange, the entry into transmit LPI after the idle
time and the partner's receive LPI have the effects of their rules under their conditions and none otherwise. MAC_THRRST
restores the configured threshold. A counter read brings the port up to date, clears the counter and holds its high word.
(spec/06_ports_and_mac.md (R161, R162, R175, R177, R179, R180, R182), notes/assumptions/55.md) -/
def Obligations.LinksQuadsAndPauses : Prop :=
  (∀ (s : State) (p : Fin 32), s.portMay p = true → s.get (MAC_STATUS_LINK p) = 0 →
    exec (.linkSignalDetect p) s = .next ((((s.localFault p false).set (MAC_STATUS_LINK p) 1).set (MAC_QSTATUS_SIGDET (p / 8))
      (s.get (MAC_QSTATUS_SIGDET (p / 8)) ||| s.laneMask p)).onPort p fun x => { x with lockFrom := s.tb.ticks })) ∧
  (∀ (s : State) (p : Fin 32), s.portMay p = false ∨ s.get (MAC_STATUS_LINK p) ≠ 0 → exec (.linkSignalDetect p) s = .next s) ∧
  (∀ (s u : State) (p : Fin 32), s.get (MAC_STATUS_LINK p) = 1 → s.is (MAC_STATUS_LFAULT p) = false →
    s.reachTick (1000000 * s.get (MAC_CFG_UPHOLD p) + (s.port p).lockFrom) = some u →
    let v := (u.onTs fun t => { t with links := SMap.clearRange t.links (64 * p) 64 }).onPort p fun x => { x with idleFrom := u.tb.ticks }
    exec (.linkUp p) s = .next (((((v.set (MAC_STATUS_LINK p) 2).event 0x1002 0 p).clearCond 0x1001 p).lldpSend p).ptpEval p)) ∧
  (∀ (s : State) (p : Fin 32), s.get (MAC_STATUS_LINK p) ≠ 1 ∨ s.is (MAC_STATUS_LFAULT p) = true ∨
    s.reachTick (1000000 * s.get (MAC_CFG_UPHOLD p) + (s.port p).lockFrom) = none → exec (.linkUp p) s = .next (s.ptpEval p)) ∧
  (∀ (s : State) (p : Fin 32) (r : Fin 4), s.portMay p = false → exec (.linkDown p r) s = .next (s.ptpEval p)) ∧
  (∀ (s : State) (p : Fin 32) (r : Fin 4), s.portMay p = true →
    let u := (if r = 3 then s.localFault p true else s).portDown p r
    exec (.linkDown p r) s = .next (State.ptpEval
      (if r = 0 then u.set (MAC_QSTATUS_SIGDET (p / 8)) (u.get (MAC_QSTATUS_SIGDET (p / 8)) &&& (0xFF - u.laneMask p)) else u) p)) ∧
  (∀ (s : State) (p : Nat) (on : Bool), p < 32 → (s.localFault p on).is (MAC_STATUS_LFAULT p) = on ∧
    (s.is (MAC_STATUS_LFAULT p) ≠ on → (s.localFault p on).out = .remoteFault p on :: s.out)) ∧
  (∀ (s : State) (p : Nat) (r : Nat), p < 32 → s.get (MAC_STATUS_LINK p) ≠ 0 →
    (s.portDown p r).get (MAC_STATUS_LINK p) = 0 ∧ (s.portDown p r).get (MAC_STATUS_RFAULT p) = 0 ∧
    (s.portDown p r).get (MAC_LPISTAT_NEG p) = 0 ∧ ((s.portDown p r).port p).tx = [] ∧
    ((s.portDown p r).port p).downs = (s.port p).downs + 1 ∧ (∀ l, (s.portDown p r).link p l = (0, 0)) ∧
    (s.portDown p r).mode = s.mode ∧ (s.portDown p r).tb = s.tb) ∧
  (∀ (s : State) (p : Nat) (r : Nat), s.get (MAC_STATUS_LINK p) = 0 → s.portDown p r = s) ∧
  (∀ (s : State) (p : Fin 32) (on : Bool), exec (.remoteFaultChange p on) s = .next (if s.portUp p then s.setb (MAC_STATUS_RFAULT p) on else s)) ∧
  (∀ (s : State) (q c : Fin 4), exec (.quadFault q c) s = .next ((s.quadFault q c).forEach 8 fun s k => s.ptpEval (8 * q + k))) ∧
  (∀ (s : State) (q c : Fin 4), s.is (MAC_QMODE_EN q) = true → s.mode ≠ .off → s.mode ≠ .backup → s.mode ≠ .boot →
    (s.quadFault q c).get (MAC_QSTATUS_FAULT q) = 1 ∧ (s.quadFault q c).get (MAC_QSTATUS_CAUSE q) = c ∧
    ((c : Nat) ≠ 2 → (s.quadFault q c).get (MAC_QSTATUS_PLLLOCK q) = 0) ∧ (∀ k < 8, (s.quadFault q c).get (MAC_STATUS_LINK (8 * q + k)) = 0)) ∧
  (∀ (s : State) (q c : Fin 4), s.is (MAC_QMODE_EN q) = false ∨ s.mode = .off ∨ s.mode = .backup ∨ s.mode = .boot → s.quadFault q c = s) ∧
  (∀ (s : State) (q : Fin 4) (l r : Bool), s.is (MAC_QMODE_EN q) = false → exec (.quadInitRetry q l r) s = .next s) ∧
  (∀ (s u : State) (q : Fin 4) (l r : Bool), s.is (MAC_QMODE_EN q) = true →
    s.reachTick (if s.is (MAC_QSTATUS_FAULT q) then SMap.get 0 s.mac.retryAt q + 10 ^ 9 else 0) = some u →
    exec (.quadInitRetry q l r) s = .next
      (((u.setb (MAC_QSTATUS_PLLLOCK q) (l && r)).setb (MAC_QSTATUS_REFCLK q) r).onMac fun m =>
        { m with retryAt := SMap.set 0 m.retryAt q u.tb.ticks
                 pllFrom := if l = true ∧ r = true ∧ u.is (MAC_QSTATUS_PLLLOCK q) = false then SMap.set 0 m.pllFrom q u.tb.ticks
                   else m.pllFrom })) ∧
  (∀ (s : State) (q : Fin 4), s.is (MAC_QSTATUS_FAULT q) = false ∨ s.is (MAC_QSTATUS_PLLLOCK q) = false →
    exec (.quadFaultClear q) s = .next s) ∧
  (∀ (s u : State) (q : Fin 4), s.is (MAC_QSTATUS_FAULT q) = true → s.is (MAC_QSTATUS_PLLLOCK q) = true →
    s.reachTick (SMap.get 0 s.mac.pllFrom q + 10 ^ 8) = some u → ∃ t, exec (.quadFaultClear q) s = .next t ∧
    t.get (MAC_QSTATUS_FAULT q) = 0 ∧ t.hasCond 0x1005 q = false ∧ t.mac = u.mac ∧ t.mode = u.mode) ∧
  (∀ (s : State) (p : Fin 32), s.is (MAC_STATUS_PAUSED p) = false → exec (.pauseExpire p) s = .next s) ∧
  (∀ (s u : State) (p : Fin 32), s.is (MAC_STATUS_PAUSED p) = true → s.reachTick (ceilDiv (s.port p).pauseEnd 100) = some u →
    ∃ t, exec (.pauseExpire p) s = .next t ∧ t.get (MAC_STATUS_PAUSED p) = 0 ∧ t.get (MAC_STATUS_PAUSELEFT p) = 0 ∧
      (t.port p).pauseEnd = 0 ∧ (t.port p).pauseFrom = 0) ∧
  (∀ (s : State) (p : Fin 32) (tw : Nat),
    let w := max (s.get (MAC_LPI_TWMIN p)) (tw % 65536)
    exec (.lpiNegotiated p tw) s = .next (State.lldpSend (if s.is (MAC_LPI_EN p) && (s.portRow p).lpi && s.portUp p then
      (((s.set (MAC_LPISTAT_NEG p) 1).set (MAC_LPISTAT_TW p) w).event 0x1006 0 (p + min w 65535 * 2 ^ 16)).onPort p fun x =>
        { x with idleFrom := s.tb.ticks } else s) p)) ∧
  (∀ (s t : State) (p : Fin 32), s.idleFor p = some t → exec (.lpiEnter p) s = .next
    (if t.is (MAC_LPISTAT_NEG p) && t.is (MAC_LPI_EN p) && t.portUp p && t.txIdle p && !t.calSoon p (2 * t.get (MAC_LPISTAT_TW p)) &&
        !t.is (MAC_STATUS_TXLPI p) then
      ((t.set (MAC_STATUS_TXLPI p) 1).count p 44 1).onPort p fun x => { x with lpiFrom := t.tb.ticks, wakeEnd := none } else s)) ∧
  (∀ (s : State) (p : Fin 32), s.idleFor p = none → exec (.lpiEnter p) s = .next s) ∧
  (∀ (s : State) (p : Fin 32), exec (.rxLpi p true) s = .next
    (if s.is (MAC_LPI_EN p) && (s.portRow p).lpi && s.portUp p && !s.is (MAC_STATUS_RXLPI p) then
      ((s.set (MAC_STATUS_RXLPI p) 1).count p 20 1).onPort p fun x => { x with rxLpiFrom := s.tb.ticks } else s)) ∧
  (∀ (s : State) (p : Fin 32), exec (.rxLpi p false) s = .next
    (if s.is (MAC_STATUS_RXLPI p) then (s.count p 21 ((s.tb.ticks - (s.port p).rxLpiFrom) / 1000)).set (MAC_STATUS_RXLPI p) 0 else s)) ∧
  (∀ (s : State) (p : Fin 32), exec (.macThrrst p) s = .next (if s.portExists p then
    ((s.set (MAC_TXTHR_CUR p) (s.get (MAC_TXTHR_CFG p))).set (MAC_THRRST_RESET p) 1).event 0x1004 0 (p + s.get (MAC_TXTHR_CUR p) * 2 ^ 16)
    else s)) ∧
  (∀ (s : State) (p : Fin 32) (c : Fin 48), let u := s.portNow p
    u.cnt p c < 2 ^ 64 → ∃ t, exec (.macCounterRead p c) s = .next t ∧ t.cnt p c = 0 ∧
    t.get (MAC_CNT_HI p c) = u.cnt p c / 2 ^ 32 ∧ OnlyRegs u t [MAC_CNT_HI p c] ∧
    (∀ (q : Fin 32) (d : Fin 48), 64 * (q : Nat) + d ≠ 64 * p + c → t.cnt q d = u.cnt q d))

/-- The checks on a received frame, in their order, its catch stamp and its receive queue. A frame on a port that is not UP
is not received. Otherwise, after the FEC counts of a mode with FEC, the first failing check discards the frame and counts
it: an error in the code, a length below 64, a length above MAXLEN, a wrong FCS. A frame that passes counts toward frames,
bytes and its address class; a MAC control frame goes to the PAUSE rules; any other one needs at most two tags, a VLAN entry,
an accepted destination, a sound IP header, no fragment and a good transport checksum, and is then steered by the filters to
a queue or dropped. The queue takes it in order with the next sequence number while fewer than 2,048 frames and the port's
share of the buffer are held, else it is counted as discarded. Its catch stamp is the island's replica one frame time and
preamble ago, with the phase the PCS measured, less the receive latency of its lane, the deskew and the markers, each where
the mode has them. A valid PAUSE starts, replaces or ends the timer when it is enabled and is counted as ignored when not.
(spec/06_ports_and_mac.md (R164, R166, R168, R169, R174, R175), spec/07_timestamping.md (R186), notes/assumptions/55.md) -/
def Obligations.ReceivedFramesAreCheckedSteeredAndQueued : Prop :=
  (∀ (s : State) (p : Fin 32) (f : RxIn), s.portUp p = false → exec (.rxFrame p f) s = .next s) ∧
  (∀ (s : State) (p : Fin 32) (f : RxIn), s.portUp p = true →
    let fec := s.get (MAC_QMODE_MODE (p / 8)) < 4 ∨ (s.get (MAC_QMODE_MODE (p / 8)) = 4 ∧ s.is (MAC_QMODE_FEC25 (p / 8)) = true)
    let u := if fec then ((s.count p 22 f.fecCw).count p 23 f.fecBad).count p 24 f.fecSym else s
    let n := f.bytes.length
    let h := parseL2 f.bytes
    let v := ((u.count p 1 1).count p 0 n).count p (if h.da = 0xFFFFFFFFFFFF then 4 else if h.da.testBit 40 then 3 else 2) 1
    (f.codeErr = true → exec (.rxFrame p f) s = .next (u.count p 11 1)) ∧
    (f.codeErr = false → n < 64 → exec (.rxFrame p f) s = .next (u.count p 9 1)) ∧
    (f.codeErr = false → 64 ≤ n → u.get (MAC_CFG_MAXLEN p) < n → exec (.rxFrame p f) s = .next (u.count p 10 1)) ∧
    (f.codeErr = false → 64 ≤ n → n ≤ u.get (MAC_CFG_MAXLEN p) → fcsOf (f.bytes.take (n - 4)) ≠ f.bytes.drop (n - 4) →
      exec (.rxFrame p f) s = .next (u.count p 8 1)) ∧
    (f.codeErr = false → 64 ≤ n → n ≤ u.get (MAC_CFG_MAXLEN p) → fcsOf (f.bytes.take (n - 4)) = f.bytes.drop (n - 4) →
      exec (.rxFrame p f) s = .next (if h.etype = 0x8808 then v.macControl p f.bytes h else v.rxAccept p f h))) ∧
  (∀ (s : State) (p : Nat) (f : RxIn) (h : L2), 2 < h.tags.length → s.rxAccept p f h = s.count p 14 1) ∧
  (∀ (s : State) (p : Nat) (f : RxIn) (h : L2), h.tags.length ≤ 2 → s.vlanIndex p h.tags = none → s.rxAccept p f h = s.count p 13 1) ∧
  (∀ (s : State) (p v : Nat) (f : RxIn) (h : L2), h.tags.length ≤ 2 → s.vlanIndex p h.tags = some v → ipShort f.bytes h = false →
    s.daClass p v h.da (ipVer h.etype ≠ 0) (dstBytes f.bytes h) = none → s.rxAccept p f h = s.count p 12 1) ∧
  (∀ (s : State) (p v cls : Nat) (f : RxIn) (h : L2), h.tags.length ≤ 2 → s.vlanIndex p h.tags = some v →
    ipShort f.bytes h = false → s.daClass p v h.da (ipVer h.etype ≠ 0) (dstBytes f.bytes h) = some cls →
    (ipVer h.etype ≠ 0 → parseIp f.bytes h = none → s.rxAccept p f h = s.count p 15 1) ∧
    (∀ ip, parseIp f.bytes h = some ip → ip.frag = true → s.rxAccept p f h = s.count p 16 1) ∧
    (∀ ip, parseIp f.bytes h = some ip → ip.frag = false → l4Ok f.bytes ip = false → s.rxAccept p f h = s.count p 17 1)) ∧
  (∀ (s : State) (p v cls : Nat) (f : RxIn) (h : L2) (ip : Ip), h.tags.length ≤ 2 → s.vlanIndex p h.tags = some v →
    ipShort f.bytes h = false → s.daClass p v h.da (ipVer h.etype ≠ 0) (dstBytes f.bytes h) = some cls →
    parseIp f.bytes h = some ip → ip.frag = false → l4Ok f.bytes ip = true →
    let k : FiltKey := ⟨v, h.tags.head?.map (·.2 / 2 ^ 13), h.etype, ipVer h.etype, ip.proto,
                        if ip.proto = 17 ∨ ip.proto = 6 then some (dstPort f.bytes ip) else none, cls⟩
    s.rxAccept p f h = match s.steer p k with
      | none => s.count p 18 1
      | some rq => (s.portEv 0x0B p 1).rxQueue p rq
          ⟨p, rq, v, cls, ipVer h.etype, f.bytes, s.catchStamp p f, 0, (s.port p).downs⟩) ∧
  (∀ (s : State) (p rq : Nat) (f : RxFrame),
    let q := SMap.get [] s.mac.rxq (16 * p + rq)
    (2048 ≤ q.length ∨ 1048576 / s.quadPorts p < s.rxBytes p + f.bytes.length → s.rxQueue p rq f = s.count p 19 1) ∧
    (q.length < 2048 → s.rxBytes p + f.bytes.length ≤ 1048576 / s.quadPorts p →
      SMap.get [] (s.rxQueue p rq f).mac.rxq (16 * p + rq) = q ++ [{ f with seq := (s.port p).rxSeq }] ∧
      ((s.rxQueue p rq f).port p).rxSeq = ((s.port p).rxSeq + 1) % 2 ^ 27 ∧ (s.rxQueue p rq f).mac.txq = s.mac.txq ∧
      (s.rxQueue p rq f).rf = s.rf)) ∧
  (∀ (s : State) (p : Nat) (f : RxIn), s.gn.stepB = false →
    let n := (s.portRow p).lanes
    s.catchStamp p f = ((s.replica p : Int) + (f.phase % ns1 : Nat) - s.lineTime p (f.bytes.length + 8) - s.rxLatency p (f.lane % n) -
      (if n = 1 then 0 else f.deskew) - (if s.get (MAC_QMODE_MODE (p / 8)) < 4 then f.marker else 0 : Nat)).toNat) ∧
  (∀ (s : State) (p n : Nat), p < 32 → s.is (MAC_CFG_PAUSEEN p) = true → 0 < n → n < 65536 →
    (s.pause p n).get (MAC_STATUS_PAUSED p) = 1 ∧ (s.pause p n).get (MAC_STATUS_PAUSELEFT p) = n ∧
    ((s.pause p n).port p).pauseEnd = s.ticks100 + n * (s.portRow p).quantum) ∧
  (∀ (s : State) (p : Nat), p < 32 → s.is (MAC_CFG_PAUSEEN p) = true →
    (s.pause p 0).get (MAC_STATUS_PAUSED p) = 0 ∧ (s.pause p 0).get (MAC_STATUS_PAUSELEFT p) = 0) ∧
  (∀ (s : State) (p n : Nat), p < 32 → s.is (MAC_CFG_PAUSEEN p) = false → s.pause p n = (s.count p 5 1).count p 6 1)

/-- Transmit queues, commit, launch, underrun and transfers. When it is a source's turn at a port's collector, the queue of
the class accepts the source's oldest frame there, returns the credit and marks its link entry pending; a reserved frame
whose slot is gone is never sent. The scheduler first brings the port and its due reservations up to date. On a port that
does not send, is too far ahead or is held, it does nothing more. Else the head frame of the highest queue that may be served
is discarded and counted when it was caught before the port went DOWN, its gate is closed, it is too long or its descriptor
is refused; waits for its link or its bytes; and else is committed at the first block boundary the rules allow, when it keeps
clear of every reservation, and holds the port for the reserved frame when not. A launch is reached at its tick: the instant
is fixed, the fields of its descriptor and its link entry are written, and a frame that is whole and over leaves with its
FCS. An underrun, when the bytes that have arrived are used up, ends the frame with the inverse of its FCS and raises the
threshold by 64 up to 9,216. A whole frame at the head of a queue of a port that does not send is discarded. A transfer adds
64 bytes to the oldest incomplete frame of its source. (spec/06_ports_and_mac.md (R172, R173, R176, R178),
spec/07_timestamping.md (R191 to R193, R197, R198, R205), spec/08_response_fabric.md (R220, R234), notes/assumptions/57.md)
-/
def Obligations.FramesAreQueuedCommittedAndLaunched : Prop :=
  (∀ (s : State) (src : Fin 33) (p : Fin 32), s.nextSource p ≠ some (src : Nat) ∨ SMap.get [] s.fab.lanes (32 * src + p) = [] →
    exec (.txQueueAccept src p) s = .next s) ∧
  (∀ (s : State) (src : Fin 33) (p : Fin 32) (f : TxFrame) (rest : List TxFrame), s.nextSource p = some (src : Nat) →
    SMap.get [] s.fab.lanes (32 * src + p) = f :: rest →
    let g : TxFrame := { f with ord := s.mac.txOrd }
    let u := ((s.onFab fun b => { b with lanes := SMap.set [] b.lanes (32 * src + p) rest,
                                         credits := SMap.set 0 b.credits (32 * src + p) (SMap.get 0 b.credits (32 * src + p) - 1) }).onMac
      fun m => { m with txOrd := m.txOrd + 1 }).onPort p fun x => { x with turn := src }
    let q := u.classQueue p f.cls
    let v := u.setTxq p q (u.txq p q ++ [g])
    let w := if (src : Nat) = 32 then v.bump PERF_TXSTAT_SENT 1 else v
    (s.slotGone f = true → exec (.txQueueAccept src p) s = .next (u.neverSent p g)) ∧
    (s.slotGone f = false → exec (.txQueueAccept src p) s = .next (if f.desc.linkRec then w.setLink p f.desc.link (1, 0) else w))) ∧
  (∀ (s : State) (p : Fin 32) (ph am : Nat), let u := (s.portNow p).resvDue p
    exec (.txCommit p ⟨ph, am⟩) s = .next (if u.mayCommit p then u.serveHead p ph am else u)) ∧
  (∀ (s : State) (p ph am : Nat), s.nextHead p = none → s.serveHead p ph am = s) ∧
  (∀ (s : State) (p ph am q : Nat) (f : TxFrame), s.nextHead p = some (q, f) →
    (s.caughtBefore p f = true → s.serveHead p ph am = if f.whole then ((s.dropHead p q).count p 42 1).neverSent p f else s) ∧
    (s.caughtBefore p f = false → s.gateDrops p f = true → s.serveHead p ph am = ((s.dropHead p q).countGate f).neverSent p f) ∧
    (s.caughtBefore p f = false → s.gateDrops p f = false →
      (s.get (MAC_CFG_MAXLEN p) < wireLen f → s.serveHead p ph am = ((s.dropHead p q).count p 43 1).neverSent p f) ∧
      (wireLen f ≤ s.get (MAC_CFG_MAXLEN p) →
        (∀ r, s.insertError p f = some r → s.serveHead p ph am = ((s.dropHead p q).countInsert p r).neverSent p f) ∧
        (s.insertError p f = none → f.desc.op = 4 → (s.link p f.desc.link).1 = 1 → s.serveHead p ph am = s) ∧
        (s.insertError p f = none → f.desc.op = 4 → 3 ≤ (s.link p f.desc.link).1 →
          s.serveHead p ph am = ((s.dropHead p q).count p 46 1).neverSent p f) ∧
        (s.insertError p f = none → f.desc.op ≠ 4 ∨ (s.link p f.desc.link).1 = 2 →
          (f.arrived < s.neededBytes p f → s.serveHead p ph am = s) ∧
          (s.neededBytes p f ≤ f.arrived →
            let u := s.startWake p
            let t := u.blockAt p (u.earliest p u.now) ph am
            ((∀ g ∈ s.ts.grants, s.clears p f t g = true) → s.serveHead p ph am = (u.dropHead p q).commitFrame p q f t) ∧
            ((∃ g ∈ s.ts.grants, s.clears p f t g = false) → s.serveHead p ph am = s.onTs fun x =>
              { x with grants := x.grants.map fun g => if s.clears p f t g then g else { g with hold := true } })))))) ∧
  (∀ (s : State) (p : Nat) (q : Nat) (f : TxFrame) (t : Nat), ∃ x : InTx, x.frame = f ∧ x.queue = q ∧ x.tB = t ∧ x.launch = none ∧
    x.linked = (s.link p f.desc.link).2 ∧
    ((s.commitFrame p q f t).port p).tx = (s.port p).tx ++ [x] ∧
    ((s.commitFrame p q f t).port p).freeAt = t + s.frameTime p f ∧ (s.commitFrame p q f t).rf = s.rf ∧
    (s.commitFrame p q f t).ts = s.ts) ∧
  (∀ (s : State) (p : Fin 32) (q : Fin 8), let u := s.settle p
    ((u.txq p q).find? TxFrame.ordinary = none → exec (.txLinkdownDiscard p q) s = .next u) ∧
    (∀ f, (u.txq p q).find? TxFrame.ordinary = some f → exec (.txLinkdownDiscard p q) s = .next
      (if f.whole && (!u.portSends p || u.caughtBefore p f) then ((u.dropHead p q).count p 42 1).neverSent p f else u))) ∧
  (∀ (s : State) (p : Fin 32), (s.port p).tx.find? (·.launch.isNone) = none → exec (.startBlockLaunch p) s = .next (s.settle p)) ∧
  (∀ (s u : State) (p : Fin 32) (x : InTx), (s.port p).tx.find? (·.launch.isNone) = some x → s.reachTick x.tick = some u →
    exec (.startBlockLaunch p) s = .next ((u.launchNow p x).settle p)) ∧
  (∀ (s : State) (p : Nat) (x : InTx), p < 32 →
    let at_ : Nat := if s.tb.ticks = x.tick then s.replica p + x.ofs else x.tB
    let launch := ((at_ : Int) + s.txLatency p).toNat
    let y : InTx := { x with launch := some launch, frame := { x.frame with bytes := s.insertFields x.frame launch x.linked } }
    ((s.launchNow p x).port p).tx = launched y (s.port p).tx ∧ (s.launchNow p x).out = s.out ∧
    (x.frame.desc.linkRec = true → (s.launchNow p x).link p x.frame.desc.link = (2, launch)) ∧
    (∀ id, x.frame.resv = some id → (s.launchNow p x).grantOf id = none)) ∧
  (∀ (s : State) (p : Nat) (x : InTx) (r : List InTx), (s.port p).tx = x :: r →
    (x.over s.now = false → s.settle p = s) ∧
    (∀ launch, x.launch = some launch → x.frame.whole = true → x.fin ≤ s.now → (∀ y ∈ r, y.over s.now = false) →
      (s.settle p).out = .frame p (padFrame x.frame.bytes ++ fcsOf (padFrame x.frame.bytes)) launch :: s.out ∧
      ((s.settle p).port p).tx = r)) ∧
  (∀ (s : State) (p : Fin 32) (n : Nat), let u := s.settle p
    (u.port p).tx = [] ∨ (∃ x r, (u.port p).tx = x :: r ∧ (x.frame.whole = true ∨ x.launch = none)) → exec (.txUnderrun p n) s = .next u) ∧
  (∀ (s t : State) (p : Fin 32) (n launch : Nat) (x : InTx) (r : List InTx), let u := s.settle p
    (u.port p).tx = x :: r → x.frame.whole = false → x.launch = some launch →
    u.reach (x.tB + s.lineTime p (x.frame.arrived + 8)) = some t → exec (.txUnderrun p n) s = .next (t.cutShort p n launch x)) ∧
  (∀ (s : State) (p n launch : Nat) (x : InTx), p < 32 →
    let bytes := x.frame.bytes.take (max 64 (min n x.frame.arrived))
    let t := s.cutShort p n launch x
    (t.port p).tx = (s.port p).tx.drop 1 ∧ t.get (MAC_TXTHR_CUR p) = min 9216 (s.get (MAC_TXTHR_CUR p) + 64) ∧
      t.out = .cut p (bytes ++ invBytes (fcsOf bytes)) launch :: s.out ∧ t.mode = s.mode ∧ t.tb = s.tb ∧
      (x.frame.desc.linkRec = true → t.link p x.frame.desc.link = (3, launch))) ∧
  (∀ (s : State) (src : Fin 33) (p : Fin 32), s.oldest src p = none → exec (.collectorTransfer src p) s = .next s) ∧
  (∀ (s : State) (src : Fin 33) (p : Fin 32) (o : Nat), s.oldest src p = some o → exec (.collectorTransfer src p) s = .next
    ((s.onMac fun m => { m with
      ports := SMap.set {} m.ports p { s.port p with tx := (s.port p).tx.map fun x => { x with frame := x.frame.fill o } }
      txq := m.txq.map fun q => (q.1, if q.1 / 8 = (p : Nat) then q.2.map (·.fill o) else q.2)
      waste := (m.waste.map fun w => if w.ord = o ∧ w.port = (p : Nat) then { w with left := w.left - 64 } else w).filter fun w => decide (0 < w.left) }).settle p)) ∧
  (∀ (f : TxFrame) (o : Nat), (f.ord = o → f.arrived < f.bytes.length → f.fill o = { f with arrived := f.arrived + 64 }) ∧
    (f.ord ≠ o ∨ f.bytes.length ≤ f.arrived → f.fill o = f))

/-- Reserved commits, timestamp-queue pops and the launch audit. RESERVED_COMMIT runs to the commit point of a port's
earliest open reservation, one pipeline before its start block, brings the port up to date and takes every reservation that
is due. The frame that holds one is committed at the reserved start block; one that cannot leave for a reason r of the table
passes its slot idle: the frame is never sent, and RESVMISS counts and is noted with r; the reasons of a port that does not
send and of a closed gate are counted there too. A pop removes the head record of a timestamp queue and shows the next. An
audit result ends the audit it measures: AUDLAST takes its port, one histogram bin or out-of-range count and COUNT rise by
one. The clear empties the histogram: every bin and the three counts read 0. With no open reservation, no record and no audit
awaiting its result nothing changes. (spec/07_timestamping.md (R200, R201, R203, R204, R207), notes/assumptions/57.md) -/
def Obligations.ReservationsQueueReadsAndTheAudit : Prop :=
  (∀ (s : State) (p : Fin 32), s.openGrants p = [] → exec (.reservedCommit p) s = .next s) ∧
  (∀ (s u : State) (p : Fin 32) (g : Grant) (r : List Grant), s.openGrants p = g :: r →
    s.reach (g.tB - (s.portRow p).pipe * ns1) = some u → exec (.reservedCommit p) s = .next ((u.portNow p).resvDue p)) ∧
  (∀ (s : State) (p : Nat) (g : Grant), s.openGrants p = [g] → g.tB ≤ s.now + (s.portRow p).pipe * ns1 →
    s.resvDue p = (s.resvTake p g).purgeGrants p) ∧
  (∀ (s : State) (p : Nat) (g : Grant) (q : Nat) (f : TxFrame) (l : List TxFrame),
    ((List.range 8).findSome? fun q => (takeFirst (fun f => f.resv == some g.id) (s.txq p q)).map fun x => (q, x.1, x.2)) = some (q, f, l) →
    (s.resvMiss p g (some f) = none → s.caughtBefore p f = false → wireLen f ≤ s.get (MAC_CFG_MAXLEN p) → s.insertError p f = none →
      s.resvTake p g = ((if f.part = some 3 then s.bump NTS_CNT_RESP 1 else s).setTxq p q l).commitFrame p q f g.tB) ∧
    (∀ r, s.resvMiss p g (some f) = some r →
      let u := State.neverSent ((s.onTs fun t => { t with grants := t.grants.map fun h => if h.id = g.id then { h with missed := true } else h }).setTxq p q l) p f
      let v := if r = 3 then u.count p 42 1 else u
      let w := if r = 5 then v.countGate f else v
      s.resvTake p g = ((w.portEv 0x0D p 1).bump (TSQ_P_RESVMISS p) 1).noteSec (0x2004 + 65536 * p) (p + r * 2 ^ 8))) ∧
  (∀ (s : State) (p : Nat) (g : Grant),
    ((List.range 8).findSome? fun q => (takeFirst (fun f => f.resv == some g.id) (s.txq p q)).map fun x => (q, x.1, x.2)) = none →
    s.resvTake p g =
      ((((s.onTs fun t => { t with grants := t.grants.map fun h => if h.id = g.id then { h with missed := true } else h }).portEv 0x0D p 1).bump
        (TSQ_P_RESVMISS p) 1).noteSec (0x2004 + 65536 * p) (p + 1 * 2 ^ 8))) ∧
  (∀ (s : State) (p : Fin 32), SMap.get [] s.ts.queues p = [] → exec (.tsqPop p) s = .next s) ∧
  (∀ (s : State) (p : Fin 32) (r : TsRecord) (l : List TsRecord), SMap.get [] s.ts.queues p = r :: l → l.length < 8192 →
    ∃ t, exec (.tsqPop p) s = .next t ∧ SMap.get [] t.ts.queues p = l ∧ t.get (TSQ_P_LEVEL p) = l.length ∧
      (∀ q, q ≠ (p : Nat) → SMap.get [] t.ts.queues q = SMap.get [] s.ts.queues q) ∧ t.ts.links = s.ts.links ∧ t.ts.grants = s.ts.grants) ∧
  (∀ (s : State) (m : Nat), s.ts.audit = none ∨ (∃ a, s.ts.audit = some a ∧ a.done = true) → exec (.auditResult m) s = .next s) ∧
  (∀ (s : State) (m : Nat) (a : Audit), s.ts.audit = some a → a.done = false → a.port < 32 →
    ∃ t, exec (.auditResult m) s = .next t ∧ t.ts.audit = some { a with done := true } ∧ t.get TSQ_AUDLAST_PORT = a.port ∧
      t.get TSQ_HIST_COUNT = satU 32 (s.get TSQ_HIST_COUNT + 1) ∧ t.get TSQ_HIST_SEQA = t.get TSQ_HIST_SEQB ∧ t.mac = s.mac ∧ t.tb = s.tb) ∧
  (∀ (s : State), ∃ t, exec .auditClear s = .next t ∧ (∀ i < 32, t.get (TSQ_HIST_BIN i) = 0) ∧ t.get TSQ_HIST_UNDER = 0 ∧
    t.get TSQ_HIST_OVER = 0 ∧ t.get TSQ_HIST_COUNT = 0 ∧ t.get TSQ_HIST_SEQA = t.get TSQ_HIST_SEQB ∧ t.ts = s.ts)

/-- ARP, Neighbor Discovery, echo and the announcements of the virtual addresses. A housekeeping routine runs on an engine
that holds a request of partition 0. Without a credit for the answer's port, or before its flow's turn, the engine waits with
code 9. Else the routine for ARP, Neighbor Solicitation or echo puts its reply, when the request asks for an address the
device answers for, on the port's lane in class 5 without insertion and ends; any other request is dropped. An engine without
such a request changes nothing. The device answers for a KIND 2 address only in a pair with a live lease, and in SAFE only
for the management kind on its port. An announcement runs to its instant and sends every virtual address once, one of the
rounds, 1 ms apart, that follow a take; with none left, or without the token, it changes nothing. (spec/06_ports_and_mac.md
(R165, R171), spec/08_response_fabric.md (R214, R219, R234), spec/13_pair_redundancy.md (R363)) -/
def Obligations.HousekeepingAnswersForTheDevice : Prop :=
  (∀ (s : State) (g : Eng), (s.eng g).req = none ∨ (∃ r, (s.eng g).req = some r ∧ r.part ≠ 0) →
    exec (.arpRequest g) s = .next s ∧ exec (.neighborSolicitation g) s = .next s ∧ exec (.icmpEcho g) s = .next s) ∧
  (∀ (s : State) (g : Eng) (r : Req), (s.eng g).req = some r → r.part = 0 → s.credit g.c r.port = false ∨ s.inTurn r = false →
    let u := s.onEng g fun x => { x with wait := 9 }
    exec (.arpRequest g) s = .next u ∧ exec (.neighborSolicitation g) s = .next u ∧ exec (.icmpEcho g) s = .next u) ∧
  (∀ (s : State) (g : Eng) (r : Req), (s.eng g).req = some r → r.part = 0 → s.credit g.c r.port = true → s.inTurn r = true →
    let u (b : Option (List Byte)) : State := match b with
      | some b => ((s.sendFrame g r r.port 5 b {} none).done g).worked g 0
      | none => (s.dropReq g).worked g 0
    exec (.arpRequest g) s = .next (u (s.arpReply r)) ∧ exec (.neighborSolicitation g) s = .next (u (s.ndReply r)) ∧
      exec (.icmpEcho g) s = .next (u (s.echoReply r))) ∧
  (∀ (s : State) (g : Eng) (r : Req) (p cls : Nat) (b : List Byte),
    SMap.get [] (s.sendFrame g r p cls b {} none).fab.lanes (32 * g.c + p) = SMap.get [] s.fab.lanes (32 * g.c + p) ++
      [{ port := p, cls := cls, bytes := b, desc := {}, part := if 2 ≤ r.part then some r.part else none, stamp := r.stamp,
         caught := r.src == 0, downs := r.downs, src := g.c, resv := none }]) ∧
  (∀ (s : State) (p : Nat), s.mode ≠ .safe → s.is SYS_MODE_PAIR = false ∨ s.leaseLive = false → s.answersKind p 2 = false) ∧
  (∀ (s : State) (p k : Nat), s.mode = .safe → s.answersKind p k = true → k = 1 ∧ s.mgmtPort = some p) ∧
  (∀ (s : State), s.lease.announce = 0 ∨ s.leaseSt ≠ 5 → exec .vaddrAnnounce s = .next s) ∧
  (∀ (s u : State), s.lease.announce ≠ 0 → s.leaseSt = 5 → s.reachTick s.lease.announceAt = some u →
    exec .vaddrAnnounce s = .next
      (State.announceAll (u.onLease fun l => { l with announce := l.announce - 1, announceAt := u.tb.ticks + 1000000 })))

/-- The instruction classes of a micro-engine and its unit calls. On an engine that runs a request, an instruction is counted
and has the effect of its class: ALU results modulo 2^64 go to rd, and a comparison sets the flag; a shift by 64 or more, and
an immediate with its top bit set, take a value the spec does not state (free values, log 14). A branch is taken when
unconditional or when the flag stands; a load reads the packet window, zero beyond the frame, a store writes the output
window; a stream read takes the next 64-byte chunk, a stream write extends the output. AES, SHA-2, TQR, random, key and
reservation calls queue their result for the engine; while the result of an earlier call of that unit is still there, the
call is not made and the engine notes the unit and since when it waits. The wait for a unit moves its oldest result to
registers or notes the unit waited for. While the lane of its frame holds four frames or an earlier request of its flow is
still running, EMIT waits with code 9; else the frame joins the lane of its port with one of its credits. The frame is the
one built in the output window, or the one the control complex submitted when none is built. An engine without a request does
nothing. The count of an instruction changes only the performance unit. (spec/08_response_fabric.md (R222 to R226, R234),
spec/08_response_fabric.md (R217, R219), notes/assumptions/14.md, notes/assumptions/17.md, notes/assumptions/56.md) -/
def Obligations.EnginesExecuteTheirInstructions : Prop :=
  (∀ (s : State) (g : Eng) (k : Nat), (s.ran g k).fab = s.fab ∧ (s.ran g k).rf = s.rf ∧ (s.ran g k).mac = s.mac ∧ (s.ran g k).tb = s.tb ∧
    (s.ran g k).boot = s.boot ∧ (s.ran g k).ts = s.ts ∧ (s.ran g k).mg = s.mg ∧ (s.ran g k).mode = s.mode ∧ (s.ran g k).free = s.free ∧
    ((s.eng g).req = none → s.ran g k = s)) ∧
  (∀ (s : State) (g : Eng), (s.eng g).req = none → ∀ (op : AluOp) (rd ra rb : Fin 64) (imm : BitVec 16) (t : Fin 16384) (b : Bool)
    (o : Fin 256) (n : Fin 9) (u : Fin 12) (p : Fin 32) (c : Fin 8) (d : TxDesc) (l : Option (List Byte)) (sh : ShaOp) (ae : AesOp)
    (k : Nat) (ad : List (List Byte)) (x y : List Byte),
    exec (.aluRegister g op rd ra rb) s = .next s ∧ exec (.aluImmediate g op rd ra imm) s = .next s ∧ exec (.branchTo g b t) s = .next s ∧
    exec (.windowLoadStore g b rd o n) s = .next s ∧ exec (.streamChunk g l) s = .next s ∧ exec (.unitWait g u rd) s = .next s ∧
    exec (.emitFrame g p c d) s = .next s ∧ exec (.aesCall g ae k ad x) s = .next s ∧ exec (.sha2Call g sh x y) s = .next s ∧
    exec (.tqrRead g) s = .next s ∧ exec (.randomCall g k) s = .next s ∧ exec (.keyLoad g k k) s = .next s ∧
    exec (.reservationRequest g p k c k) s = .next s) ∧
  (∀ (s : State) (g : Eng) (r : Req) (rd ra rb : Fin 64), (s.eng g).req = some r →
    let x := s.eng g
    let u := s.ran g 0
    let a := x.reg ra
    let b := x.reg rb
    exec (.aluRegister g .add rd ra rb) s = .next (u.setEng g (x.setReg rd (a + b)).next) ∧
    exec (.aluRegister g .sub rd ra rb) s = .next (u.setEng g (x.setReg rd (a + 2 ^ 64 - b)).next) ∧
    exec (.aluRegister g .and rd ra rb) s = .next (u.setEng g (x.setReg rd (a &&& b)).next) ∧
    exec (.aluRegister g .or rd ra rb) s = .next (u.setEng g (x.setReg rd (a ||| b)).next) ∧
    exec (.aluRegister g .xor rd ra rb) s = .next (u.setEng g (x.setReg rd (a ^^^ b)).next) ∧
    exec (.aluRegister g .mul rd ra rb) s = .next (u.setEng g (x.setReg rd (a * b)).next) ∧
    exec (.aluRegister g .eq rd ra rb) s = .next (u.setEng g { x.next with flag := a == b }) ∧
    exec (.aluRegister g .lt rd ra rb) s = .next (u.setEng g { x.next with flag := decide (a < b) }) ∧
    (b < 64 → exec (.aluRegister g .shl rd ra rb) s = .next (u.setEng g (x.setReg rd (a * 2 ^ b)).next) ∧
      exec (.aluRegister g .shr rd ra rb) s = .next (u.setEng g (x.setReg rd (a / 2 ^ b)).next)) ∧
    (64 ≤ b → ∃ v, exec (.aluRegister g .shl rd ra rb) s = .next (u.drawn.setEng g (x.setReg rd v).next) ∧
      exec (.aluRegister g .shr rd ra rb) s = .next (u.drawn.setEng g (x.setReg rd v).next))) ∧
  (∀ (s : State) (g : Eng) (r : Req) (op : AluOp) (rd ra : Fin 64) (imm : BitVec 16), (s.eng g).req = some r →
    (imm.toNat < 32768 → exec (.aluImmediate g op rd ra imm) s = .next ((s.ran g 1).alu g op rd ((s.eng g).reg ra) imm.toNat (s.eng g))) ∧
    (32768 ≤ imm.toNat → ∃ v, v % 65536 = imm.toNat ∧
      exec (.aluImmediate g op rd ra imm) s = .next ((s.ran g 1).drawn.alu g op rd ((s.eng g).reg ra) v (s.eng g)))) ∧
  (∀ (s : State) (g : Eng) (r : Req) (c : Bool) (t : Fin 16384), (s.eng g).req = some r →
    exec (.branchTo g c t) s = .next ((s.ran g 2).setEng g
      (if c = true ∧ (s.eng g).flag = false then (s.eng g).next else { s.eng g with pc := t }))) ∧
  (∀ (s : State) (g : Eng) (q : Req) (r : Fin 64) (o : Fin 256) (n : Fin 9), (s.eng g).req = some q →
    let m := min (max n.val 1) (256 - o)
    let bs := slice (q.bytes.take 256) o m
    exec (.windowLoadStore g true r o n) s =
      .next ((s.ran g 3).setEng g ((s.eng g).write o (beBytes m ((s.eng g).reg r))).next) ∧
    exec (.windowLoadStore g false r o n) s =
      .next ((s.ran g 3).setEng g ((s.eng g).setReg r (beNat (bs ++ List.replicate (m - bs.length) 0))).next)) ∧
  (∀ (s : State) (g : Eng) (q : Req) (bs : List Byte), (s.eng g).req = some q →
    let x := s.eng g
    exec (.streamChunk g none) s = .next ((s.ran g 4).setEng g { x.next with
      results := x.results ++ [⟨10, decide (x.streamPos < q.bytes.length), slice q.bytes x.streamPos 64⟩], streamPos := x.streamPos + 64 }) ∧
    exec (.streamChunk g (some bs)) s = .next ((s.ran g 4).setEng g (x.write (max 256 x.outLen) (bs.take 64)).next)) ∧
  (∀ (s : State) (g : Eng) (q : Req) (u : Fin 12) (rd : Fin 64), (s.eng g).req = some q →
    ((s.eng g).results.find? (·.unit == (u : Nat)) = none → exec (.unitWait g u rd) s =
      .next (s.setEng g { s.eng g with wait := u, issued := some ((s.eng g).issued.getD s.now) })) ∧
    (∀ v, (s.eng g).results.find? (·.unit == (u : Nat)) = some v →
      let x : Engine := { s.eng g with results := (s.eng g).results.erase v, wait := 0, issued := none, flag := v.ok }
      exec (.unitWait g u rd) s = .next ((s.ran g 6).setEng g (x.setWords 64 rd v.data).next))) ∧
  (∀ (s : State) (g : Eng) (q : Req) (p : Fin 32) (c : Fin 8) (d : TxDesc), (s.eng g).req = some q →
    let f := (s.eng g).frame g q p c d
    let key := 32 * g.c.val + f.port
    (4 ≤ SMap.get 0 s.fab.credits key ∨ s.inTurn q = false → exec (.emitFrame g p c d) s =
      .next (s.setEng g { s.eng g with wait := 9, issued := some ((s.eng g).issued.getD s.now) })) ∧
    (SMap.get 0 s.fab.credits key < 4 → s.inTurn q = true → ∃ t, exec (.emitFrame g p c d) s = .next t ∧
      SMap.get [] t.fab.lanes key = SMap.get [] s.fab.lanes key ++ [f] ∧
      SMap.get 0 t.fab.credits key = SMap.get 0 s.fab.credits key + 1 ∧
      t.eng g = { (s.eng g).next with wait := 0, issued := none, emits := (s.eng g).emits + 1, out := [], outLen := 0 } ∧
      t.mac = s.mac ∧ t.tb = s.tb ∧ t.mode = s.mode)) ∧
  (∀ (x : Engine) (g : Eng) (q : Req) (p c : Nat) (d : TxDesc),
    (q.tx = none ∨ x.outLen ≠ 0 → x.frame g q p c d =
      { port := p, cls := c, bytes := x.output, desc := d, part := if 2 ≤ q.part then some q.part else none, stamp := q.stamp,
        caught := q.src == 0, downs := q.downs, src := g.c, resv := if d.op = 6 then x.grant else none }) ∧
    (∀ f, q.tx = some f → x.outLen = 0 → x.frame g q p c d = { f with stamp := q.stamp, src := g.c })) ∧
  (∀ (s : State) (g : Eng) (q : Req) (u : Nat), (s.eng g).req = some q → (s.eng g).results.any (·.unit == u) = true →
    let w := s.setEng g { s.eng g with wait := u, issued := some ((s.eng g).issued.getD s.now) }
    ∀ (ae : AesOp) (k j : Nat) (ad : List (List Byte)) (x y : List Byte) (sh : ShaOp) (p : Fin 32) (c : Fin 8),
    (u = 1 → exec (.aesCall g ae k ad x) s = .next w) ∧ (u = 2 → exec (.sha2Call g sh x y) s = .next w) ∧
    (u = 5 → exec (.reservationRequest g p k c j) s = .next w) ∧ (u = 6 → exec (.tqrRead g) s = .next w) ∧
    (u = 7 → exec (.randomCall g k) s = .next w) ∧ (u = 8 → exec (.keyLoad g k j) s = .next w)) ∧
  (∀ (s : State) (g : Eng) (q : Req) (slot : Nat) (ad : List (List Byte)) (x : List Byte), (s.eng g).req = some q →
    (s.eng g).results.any (·.unit == 1) = false →
    let u := (s.ran g 5).drawn.perfEv 0x30 g.c (s.ran g 5).draw
    let key := s.slotKey g.c slot
    exec (.aesCall g .cmac slot ad x) s = .next (u.answer g 1 true (beBytes 16 (Config.aesCmac key x).toNat)) ∧
    exec (.aesCall g .seal slot ad x) s = .next (u.answer g 1 true (Config.sivSeal key ad x)) ∧
    (Config.sivOpen key ad x = none → exec (.aesCall g .openSealed slot ad x) s = .next (u.answer g 1 false [])) ∧
    (∀ p, Config.sivOpen key ad x = some p → exec (.aesCall g .openSealed slot ad x) s = .next (u.answer g 1 true p))) ∧
  (∀ (s : State) (g : Eng) (q : Req) (k x : List Byte), (s.eng g).req = some q → (s.eng g).results.any (·.unit == 2) = false →
    let u := s.ran g 5
    exec (.sha2Call g .sha256 k x) s =
      .next ((u.perfEv 0x31 g.c ((x.length + 72) / 64)).answer g 2 true (beBytes 32 (Config.sha256 x).toNat)) ∧
    exec (.sha2Call g .sha512 k x) s =
      .next ((u.perfEv 0x31 g.c ((x.length + 144) / 128)).answer g 2 true (beBytes 64 (Config.sha512 x).toNat)) ∧
    exec (.sha2Call g .hmac256 k x) s =
      .next ((u.perfEv 0x31 g.c (shaBlocks .hmac256 k x)).answer g 2 true (beBytes 32 (Config.hmac256 k x).toNat))) ∧
  (∀ (s : State) (g : Eng) (q : Req), (s.eng g).req = some q → (s.eng g).results.any (·.unit == 6) = false →
    exec (.tqrRead g) s = .next ((s.ran g 5).answer g 6 true s.tqrBytes)) ∧
  (∀ (s : State) (g : Eng) (q : Req) (bits : Nat), (s.eng g).req = some q → (s.eng g).results.any (·.unit == 7) = false →
    ∃ t bs, exec (.randomCall g bits) s = .next t ∧ bs.length = max 64 (min bits 256) / 8 ∧
      t.eng g = { (s.eng g).next with results := (s.eng g).results ++ [⟨7, true, bs⟩], wait := 0, issued := none } ∧ t.free = s.free + 1 ∧
      t.boot.drbgReqs = s.boot.drbgReqs + 1) ∧
  (∀ (s : State) (g : Eng) (q : Req) (gen slot : Nat), (s.eng g).req = some q → (s.eng g).results.any (·.unit == 8) = false →
    (s.genKey gen = none → exec (.keyLoad g gen slot) s = .next ((s.ran g 5).answer g 8 false [])) ∧
    (∀ v, s.genKey gen = some v → ∃ t, exec (.keyLoad g gen slot) s = .next t ∧ SMap.get 0 (t.cluster g.c).keySlots (slot % 4) = v ∧
      t.eng g = { (s.eng g).next with results := (s.eng g).results ++ [⟨8, true, []⟩], wait := 0, issued := none })) ∧
  (∀ (s : State) (g : Eng) (q : Req) (p : Fin 32) (len ph : Nat) (c : Fin 8), (s.eng g).req = some q →
    (s.eng g).results.any (·.unit == 5) = false →
    let r := (s.ran g 5).reserve p len ph
    ∃ t, exec (.reservationRequest g p len c ph) s = .next t ∧ t.ts = r.1.ts ∧ t.rf = r.1.rf ∧ r.2.port = p ∧
      (t.eng g).grant = some r.2.id ∧ (t.eng g).results = (s.eng g).results ++ [⟨5, true, beBytes 12 (instFull r.2.instant)⟩])

/-- Dispatch to the home cluster, stealing, start, CHECK and the ends of a request. While no cluster of a partition serves,
its dispatcher does nothing. Else it first moves what clusters that left service still hold; then serves the request it
stalls on; and else takes the next request in rotating order; with no source that has one nothing changes. A request of a
gated partition whose port's gate is closed is counted and dropped, any other joins the end of its home cluster's queue with
the next order number, and one whose home is full stalls the dispatcher. A free engine starts the oldest request of its
cluster, its registers G60 to G63 loaded from it, or discards it as stale beyond the partition's age limit. A free engine of
an empty cluster IN_SERVICE steals the first request it may of the longest queue, when that is at least STEALMIN; one not
free, not IN_SERVICE or with a queue of its own steals nothing. END after one to eight EMITs, DROP, and FORWARD in the
management partition, leave the engine idle; END otherwise and FORWARD elsewhere leave the request. FORWARD gives the frame
to the first session that receives frames, with a catch record. A passing CHECK marks the response and counts toward 65,536;
a failing one, and a reserved instruction class, discards the request, counts, and raises the engine's failure count; at
three it is retired. (spec/08_response_fabric.md (R217 to R225, R239, R240), spec/08_response_fabric.md (R241),
spec/15_management_readback.md (R416), notes/assumptions/56.md) -/
def Obligations.RequestsAreDispatchedStartedCheckedAndEnded : Prop :=
  (∀ (s : State) (k : Fin 6), s.serving k = [] → exec (.dispatch k) s = .next s) ∧
  (∀ (s : State) (k : Fin 6), s.serving k ≠ [] →
    let u := (s.leftBehind k).foldl (fun s c => s.moveQueue c) s
    let order := (List.range 516).map fun i => (SMap.get 515 u.fab.rot k + 1 + i) % 516
    (s.leftBehind k = [] → u = s) ∧
    (u.leftBehind k ≠ [] → exec (.dispatch k) s = .next u) ∧
    (∀ r, u.leftBehind k = [] → u.stalledOn k = some r → exec (.dispatch k) s = .next ((u.setStalled k none).place k r)) ∧
    (u.leftBehind k = [] → u.stalledOn k = none →
      ((∀ i < 516, u.takeSource k i = none) → exec (.dispatch k) s = .next u) ∧
      (∀ pre i post r t, order = pre ++ i :: post → (∀ j ∈ pre, u.takeSource k j = none) → u.takeSource k i = some (r, t) →
        exec (.dispatch k) s = .next ((t.onFab fun f => { f with rot := SMap.set 515 f.rot k i }).place k r)))) ∧
  (∀ (s : State) (k : Nat) (r : Req),
    (2 ≤ k → s.gateOpen r.port = false →
      s.place k r = (s.perfEv 0x26 ((s.home k (s.bucket r)).getD 0) 1).bump (FAB_PART_GATEDROP k) 1) ∧
    (k < 2 ∨ s.gateOpen r.port = true →
      (s.toHome { r with ord := s.fab.reqOrd } = none → s.place k r = s.setStalled k (some r)) ∧
      (∀ t, s.toHome { r with ord := s.fab.reqOrd } = some t →
        s.place k r = (t.bump (FAB_PART_REQ k) 1).onFab fun f => { f with reqOrd := f.reqOrd + 1 }))) ∧
  (∀ (s : State) (r : Req) (c : Nat), c < 32 → s.home r.part (s.bucket r) = some c → (s.cluster c).queue.length < 256 →
    ∃ t, s.toHome r = some t ∧ (t.cluster c).queue = (s.cluster c).queue ++ [r] ∧ t.get (FAB_CL_DQLEVEL c) = (s.cluster c).queue.length + 1 ∧
      t.mac = s.mac) ∧
  (∀ (s : State) (r : Req) (c : Nat), s.home r.part (s.bucket r) = none ∨
    (s.home r.part (s.bucket r) = some c ∧ 256 ≤ (s.cluster c).queue.length) → s.toHome r = none) ∧
  (∀ (s : State) (g : Eng), s.engFree g = false ∨ (s.cluster g.c).queue ≠ [] ∨ s.get (FAB_CL_STATE g.c) ≠ 0 →
    exec (.engineSteal g) s = .next s) ∧
  (∀ (s : State) (g : Eng) (d : Fin 32) (r : Req) (rest : List Req), s.engFree g = true → (s.cluster g.c).queue = [] →
    s.get (FAB_CL_STATE g.c) = 0 → d ≠ g.c → (d : Nat) ∈ s.serving (s.get (FAB_CL_PART g.c)) → 
    (∀ c ∈ s.serving (s.get (FAB_CL_PART g.c)), c ≠ (d : Nat) → (s.cluster c).queue.length < (s.cluster d).queue.length) →
    takeLoose (s.cluster d).queue = some (r, rest) →
    s.get (FAB_PART_STEALMIN (s.get (FAB_CL_PART g.c))) ≤ (s.cluster d).queue.length →
    ∃ t, exec (.engineSteal g) s = .next t ∧ (t.cluster d).queue = rest ∧ (t.cluster g.c).queue = [{ r with stolen := true }] ∧
      t.mac = s.mac ∧ t.mode = s.mode) ∧
  (∀ (s : State) (g : Eng), (∀ c ∈ s.serving (s.get (FAB_CL_PART g.c)),
      (s.cluster c).queue.length < s.get (FAB_PART_STEALMIN (s.get (FAB_CL_PART g.c)))) → exec (.engineSteal g) s = .next s) ∧
  (∀ (s : State) (g : Eng), (s.cluster g.c).queue = [] ∨ s.engFree g = false → exec (.requestStart g) s = .next s) ∧
  (∀ (s : State) (g : Eng) (r : Req) (rest : List Req), (s.cluster g.c).queue = r :: rest → s.engFree g = true →
    let u := (s.setCluster g.c { s.cluster g.c with queue := rest }).set (FAB_CL_DQLEVEL g.c) rest.length
    (u.get (FAB_PART_MAXAGE r.part) ≠ 0 → u.get (FAB_PART_MAXAGE r.part) * us1 < s.now - r.stamp →
      exec (.requestStart g) s = .next ((u.perfEv 0x25 g.c 1).bump (FAB_PART_STALE r.part) 1)) ∧
    (u.get (FAB_PART_MAXAGE r.part) = 0 ∨ s.now - r.stamp ≤ u.get (FAB_PART_MAXAGE r.part) * us1 →
      ∃ t, exec (.requestStart g) s = .next t ∧ (t.eng g).req = some r ∧ (t.eng g).reg 60 = instFull r.stamp / 2 ^ 48 ∧
        (t.eng g).reg 61 = instFull r.stamp % 2 ^ 48 ∧ (t.eng g).reg 62 = s.metaWord r ∧ (t.eng g).reg 63 = r.port * 2 ^ 27 + r.seq % 2 ^ 27 ∧
        (t.eng g).passes = (s.eng g).passes ∧ (t.cluster g.c).queue = rest ∧ t.rf = u.rf ∧ t.mac = s.mac)) ∧
  (∀ (s : State) (g : Eng), (s.eng g).req = none →
    exec (.endRoutine g) s = .next s ∧ exec (.dropRequest g) s = .next s ∧ exec (.forwardFrame g) s = .next s ∧
    exec (.reservedClassExecute g) s = .next s ∧ ∀ ok, exec (.checkResponse g ok) s = .next s) ∧
  (∀ (s : State) (g : Eng) (r : Req), (s.eng g).req = some r → (s.eng g).leaving = false →
    let idle : Engine := { passes := (s.eng g).passes }
    (1 ≤ (s.eng g).emits → (s.eng g).emits ≤ 8 → exec (.endRoutine g) s = .next ((s.ran g 8).setEng g idle)) ∧
    ((s.eng g).emits = 0 ∨ 8 < (s.eng g).emits → exec (.endRoutine g) s = .next (s.ran g 8)) ∧
    exec (.dropRequest g) s = .next (((s.ran g 8).perfEv 0x22 g.c 1).setEng g idle) ∧
    (r.part ≠ 1 → exec (.forwardFrame g) s = .next (s.ran g 8)) ∧
    (r.part = 1 → (∀ k < 8, s.is (SYS_OMPSESS_FRAMES k) = false) →
      exec (.forwardFrame g) s = .next (((s.ran g 8).perfEv 0x23 g.c 1).setEng g idle)) ∧
    (∀ k : Fin 8, r.part = 1 → s.is (SYS_OMPSESS_FRAMES k) = true → (∀ j : Fin 8, j < k → s.is (SYS_OMPSESS_FRAMES j) = false) →
      let tag := r.port * 2 ^ 27 + r.seq % 2 ^ 27
      exec (.forwardFrame g) s = .next ((((s.ran g 8).perfEv 0x23 g.c 1).tsRecord r.port { t := r.stamp, tag := tag, launch := false }).ompPush
        k 0x0B (beBytes 4 tag ++ beBytes 8 (s.metaWord r) ++ r.bytes.take (r.bytes.length - 4)) |>.endRequest g)) ∧
    ((s.eng g).passes + 1 < 65536 → exec (.checkResponse g true) s = .next ((s.ran g 8).setEng g
      { s.eng g with checked := true, passes := (s.eng g).passes + 1, pc := ((s.eng g).pc + 1) % 16384 })) ∧
    (2 ≤ s.failCount g.c g.e →
      let fail (u : State) : State := ((((u.perfEv 0x27 g.c 1).bump (FAB_PART_CHKFAIL r.part) 1).noteSec (0x3001 + 65536 * g.c) (engId g)).setFail
        g.c g.e 3).endRequest g
      let zero (u : State) : State := u.setEng g { u.eng g with passes := 0 }
      exec (.checkResponse g false) s = .next ((zero (fail (s.ran g 8))).retireFailed g) ∧
      exec (.reservedClassExecute g) s = .next ((zero (fail s)).retireFailed g)) ∧
    (s.failCount g.c g.e < 2 →
      let fail (u : State) : State := State.setEng (((u.perfEv 0x27 g.c 1).bump (FAB_PART_CHKFAIL r.part) 1).noteSec (0x3001 + 65536 * g.c) (engId g)
        |>.setFail g.c g.e (s.failCount g.c g.e + 1)) g {}
      ∃ t v, exec (.checkResponse g false) s = .next t ∧ exec (.reservedClassExecute g) s = .next v ∧
        t.rf = (fail (s.ran g 8)).rf ∧ v.rf = (fail s).rf ∧ t.eng g = {} ∧ v.eng g = {} ∧ t.mac = s.mac ∧ v.mac = s.mac))

/-- Association-store calls, dirty banks, RATE calls, epochs, scrubbing and occupancy. A store call while the result of an
earlier one is still there is not made: the engine waits. A call on an entry outside the range of the engine's partition
answers ERR and changes no stored byte. Inside it READ returns the 32 bytes; WRITE stores the data at that entry; CAS64
stores the new word only when the old one matches, and returns the old value and success; ADD64 stores and returns the sum
modulo 2^64; every byte outside the entry, or outside the word for CAS64 and ADD64, reads as before. A successful change
advances the entry's sequence word and marks it dirty. An uncorrectable error zeroes its 8-byte word, counts, and answers
ERR; a corrected one is counted. SWAP freezes the dirty bank and starts an empty one. A write by the host to the window
changes no byte. A RATE call of another partition than the owner answers ERR; one of the owner decays and raises the four
counters of its key, saturating, and returns no more than the least. The epoch is the number of half-lives since the entry
into BOOT; its row reaches the next one's start and shows it. The scrub applies the decay. An occupancy window closes at its
end and shows each cluster's occupancy up to 1,024. (spec/08_response_fabric.md (R228 to R231), spec/08_response_fabric.md
(R226, R232, R233, R238)) -/
def Obligations.AssociationStoreAndRateSketchCalls : Prop :=
  (∀ (s : State) (g : Eng) (n : Nat) (w : Fin 4) (a b : Nat) (x : List Byte) (e : Ecc), (s.eng g).req = none →
    exec (.assocRead g n e) s = .next s ∧ exec (.assocWrite g n x e) s = .next s ∧ exec (.cas64 g n w a b e) s = .next s ∧
    exec (.add64 g n w a e) s = .next s ∧ exec (.rateCall g a b e) s = .next s) ∧
  (∀ (s : State) (g : Eng) (q : Req) (n : Nat) (w : Fin 4) (a b : Nat) (x : List Byte) (e : Ecc) (u : Nat), (s.eng g).req = some q →
    (s.eng g).results.any (·.unit == u) = true →
    let t := s.setEng g { s.eng g with wait := u, issued := some ((s.eng g).issued.getD s.now) }
    (u = 3 → exec (.assocRead g n e) s = .next t ∧ exec (.assocWrite g n x e) s = .next t ∧ exec (.cas64 g n w a b e) s = .next t ∧
      exec (.add64 g n w a e) s = .next t) ∧ (u = 4 → exec (.rateCall g a b e) s = .next t)) ∧
  (∀ (s : State) (g : Eng) (q : Req) (n : Nat) (w : Fin 4) (a b : Nat) (x : List Byte) (e : Ecc), (s.eng g).req = some q → (s.eng g).results.any (·.unit == 3) = false →
    s.owns q.part n = false →
    (∃ t, exec (.assocRead g n e) s = .next t ∧ t.fab.store = s.fab.store ∧
      t.eng g = { (s.eng g).next with results := (s.eng g).results ++ [⟨3, false, []⟩], wait := 0, issued := none }) ∧
    (∃ t, exec (.assocWrite g n x e) s = .next t ∧ t.fab.store = s.fab.store ∧
      t.eng g = { (s.eng g).next with results := (s.eng g).results ++ [⟨3, false, []⟩], wait := 0, issued := none }) ∧
    (∃ t, exec (.cas64 g n w a b e) s = .next t ∧ t.fab.store = s.fab.store ∧
      t.eng g = { (s.eng g).next with results := (s.eng g).results ++ [⟨3, false, []⟩], wait := 0, issued := none }) ∧
    (∃ t, exec (.add64 g n w a e) s = .next t ∧ t.fab.store = s.fab.store ∧
      t.eng g = { (s.eng g).next with results := (s.eng g).results ++ [⟨3, false, []⟩], wait := 0, issued := none })) ∧
  (∀ (s : State) (g : Eng) (q : Req) (n : Nat), (s.eng g).req = some q → (s.eng g).results.any (·.unit == 3) = false →
    s.owns q.part n = true →
    ∃ t, exec (.assocRead g n .clean) s = .next t ∧ t.fab.store = s.fab.store ∧ t.rf = s.rf ∧
      t.eng g = { (s.eng g).next with results := (s.eng g).results ++ [⟨3, true, s.entry n⟩], wait := 0, issued := none }) ∧
  (∀ (s : State) (g : Eng) (q : Req) (n : Nat) (x : List Byte), (s.eng g).req = some q → (s.eng g).results.any (·.unit == 3) = false →
    s.owns q.part n = true → x.length = 32 →
    ∃ t, exec (.assocWrite g n x .clean) s = .next t ∧ t.entry n = x ∧
      (∀ a, a < entryAddr n ∨ entryAddr n + 32 ≤ a → SMap.get 0 t.fab.store a = SMap.get 0 s.fab.store a) ∧
      SMap.get 0 t.fab.eseq n = (SMap.get 0 s.fab.eseq n + 2) % 2 ^ 32 ∧ SMap.get false t.fab.dirty n = true ∧
      t.eng g = { (s.eng g).next with results := (s.eng g).results ++ [⟨3, true, []⟩], wait := 0, issued := none } ∧ t.rf = s.rf) ∧
  (∀ (s : State) (g : Eng) (q : Req) (n : Nat) (w : Fin 4) (a b : Nat), (s.eng g).req = some q → (s.eng g).results.any (·.unit == 3) = false →
    s.owns q.part n = true →
    let v := s.entryWord n w
    (v ≠ a % 2 ^ 64 → ∃ t, exec (.cas64 g n w a b .clean) s = .next t ∧ t.fab.store = s.fab.store ∧
      t.eng g = { (s.eng g).next with results := (s.eng g).results ++ [⟨3, false, beBytes 8 v⟩], wait := 0, issued := none }) ∧
    (v = a % 2 ^ 64 → ∃ t, exec (.cas64 g n w a b .clean) s = .next t ∧ t.entryWord n w = b % 2 ^ 64 ∧
      SMap.get false t.fab.dirty n = true ∧ t.eng g = { (s.eng g).next with results := (s.eng g).results ++ [⟨3, true, beBytes 8 v⟩], wait := 0, issued := none } ∧
      (∀ i, i < entryAddr n + 8 * w ∨ entryAddr n + 8 * w + 8 ≤ i → SMap.get 0 t.fab.store i = SMap.get 0 s.fab.store i)) ∧
    (∃ t, exec (.add64 g n w a .clean) s = .next t ∧ t.entryWord n w = (v + a) % 2 ^ 64 ∧ SMap.get false t.fab.dirty n = true ∧
      t.eng g = { (s.eng g).next with results := (s.eng g).results ++ [⟨3, true, beBytes 8 ((v + a) % 2 ^ 64)⟩], wait := 0, issued := none } ∧
      (∀ i, i < entryAddr n + 8 * w ∨ entryAddr n + 8 * w + 8 ≤ i → SMap.get 0 t.fab.store i = SMap.get 0 s.fab.store i))) ∧
  (∀ (s : State) (g : Eng) (q : Req) (n : Nat) (w : Fin 4), (s.eng g).req = some q → (s.eng g).results.any (·.unit == 3) = false →
    s.owns q.part n = true →
    ∃ t, exec (.assocRead g n (.broken w)) s = .next t ∧ t.entryWord n w = 0 ∧
      t.eng g = { (s.eng g).next with results := (s.eng g).results ++ [⟨3, false, []⟩], wait := 0, issued := none } ∧
      t.get FAB_ECC_UNCORR = satU FAB_ECC_UNCORR.width (s.get FAB_ECC_UNCORR + 1) ∧
      (∀ i, i < entryAddr n + 8 * w ∨ entryAddr n + 8 * w + 8 ≤ i → SMap.get 0 t.fab.store i = SMap.get 0 s.fab.store i)) ∧
  (∀ (s : State), ∃ t, exec .dirtySwap s = .next t ∧ t.fab = { s.fab with frozen := s.fab.dirty, dirty := [] } ∧
    t.get FAB_DIRTY_COUNT = satU 20 s.fab.dirty.length ∧ t.mac = s.mac ∧ t.mode = s.mode) ∧
  (∀ (s : State) (a : Nat), exec (.assocWindowWrite a) s = .next (s.noteSec 0x3008 ((a - 0x10000000) / 32)) ∧
    (s.noteSec 0x3008 ((a - 0x10000000) / 32)).fab = s.fab) ∧
  (∀ (s : State) (g : Eng) (q : Req) (key w : Nat) (e : Ecc), (s.eng g).req = some q → (s.eng g).results.any (·.unit == 4) = false →
    q.part ≠ s.get FAB_RATE_OWNER →
    exec (.rateCall g key w e) s = .next (((s.ran g 5).perfEv 0x34 g.c 1).answer g 4 false [])) ∧
  (∀ (s : State) (g : Eng) (q : Req) (key w : Nat), (s.eng g).req = some q → (s.eng g).results.any (·.unit == 4) = false →
    q.part = s.get FAB_RATE_OWNER →
    let r := State.rate ((s.ran g 5).perfEv 0x34 g.c 1) key w
    exec (.rateCall g key w .clean) s = .next (r.1.answer g 4 true (beBytes 8 r.2)) ∧
    let v := State.rate (((s.ran g 5).perfEv 0x34 g.c 1).bump FAB_ECC_CORR 1) key w
    exec (.rateCall g key w .corrected) s = .next (v.1.answer g 4 true (beBytes 8 v.2)) ∧
    ∀ r : Fin 4, ∃ t, exec (.rateCall g key w (.broken r)) s = .next t ∧ t.sketchAt r (s.sketchIndex r key) = 0 ∧
      t.get FAB_ECC_UNCORR = satU FAB_ECC_UNCORR.width (s.get FAB_ECC_UNCORR + 1) ∧ ⟨4, false, []⟩ ∈ (t.eng g).results) ∧
  (∀ (s : State) (key w r : Nat), r < 4 → (s.rate key w).1.sketchAt r (s.sketchIndex r key) =
    min (2 ^ 24 - 1) (s.decayed (s.sketchAt r (s.sketchIndex r key)) + w) + s.epoch % 256 * 2 ^ 24 ∧
    (s.rate key w).2 ≤ min (2 ^ 24 - 1) (s.decayed (s.sketchAt r (s.sketchIndex r key)) + w)) ∧
  (∀ (s : State), s.epoch = (s.tb.ticks - s.fab.bootTicks) / (max 1 (s.get FAB_RATE_HALFLIFE) * 1000000) ∧
    let n := s.fab.bootTicks + (s.epoch + 1) * (max 1 (s.get FAB_RATE_HALFLIFE) * 1000000)
    (s.reachTick n = none → exec .rateEpochAdvance s = .next s) ∧
    (∀ u, s.reachTick n = some u → exec .rateEpochAdvance s = .next (u.set FAB_RATEEPOCH_EPOCH u.epoch))) ∧
  (∀ (s : State) (r : Fin 4) (i : Fin 524288), exec (.sketchScrub r i) s = .next
    (if s.sketchAt r i = 0 then s else s.setSketch r i (s.decayed (s.sketchAt r i)))) ∧
  (∀ (s : State) (occ : List Nat), let w := s.now / (100 * us1)
    (s.fab.occAt ≠ w → exec (.occupancyWindow occ) s = .next ((s.onFab fun f => { f with occAt := w }).showOcc occ)) ∧
    (s.fab.occAt = w → s.reach (100 * us1 + 100 * us1 * w) = none → exec (.occupancyWindow occ) s = .next s) ∧
    (∀ u, s.fab.occAt = w → s.reach (100 * us1 + 100 * us1 * w) = some u →
      exec (.occupancyWindow occ) s = .next ((u.onFab fun f => { f with occAt := w + 1 }).showOcc occ)) ∧
    (∀ c < 32, (s.showOcc occ).get (FAB_CL_OCC c) = min 1024 (occ.getD c 0)) ∧ (s.showOcc occ).fab = s.fab ∧
    (s.showOcc occ).mac = s.mac ∧ (s.showOcc occ).mode = s.mode)

/-- Draining, retirement and restoration of clusters and engines. A cluster that drains ends its drain when no engine of it
runs a request, or at the instant 100 us after it began: its queue moves to its homes, what its engines still run is
discarded and counted, and it enters the state it drains to; one that does not drain is left as it is. Retiring a cluster
under test waits for the test. Else retiring a cluster IN_SERVICE that is not its partition's last starts its drain; the last
one is refused with status 2, one in another state with status 3. A cluster retired by command returns to service; any other
restore is refused. Retiring an engine in service that leaves another one marks it retired by command: at once when idle, at
the end of its request when busy; an engine not in service is refused, and so is the last engine of a sole cluster. An engine
retired by command returns to service with its failure count cleared. (spec/08_response_fabric.md (R240 to R242),
spec/08_response_fabric.md (R218), spec/16_campion_self_test.md (R437)) -/
def Obligations.ClustersAndEnginesLeaveAndReturn : Prop :=
  (∀ (s : State) (c : Fin 32), s.get (FAB_CL_STATE c) ≠ 1 → exec (.clusterDrainEnd c) s = .next s) ∧
  (∀ (s : State) (c : Fin 32), s.get (FAB_CL_STATE c) = 1 →
    (s.busyEngines c ≠ [] → s.reachTick (100000 + (s.cluster c).drainFrom) = none → exec (.clusterDrainEnd c) s = .next s) ∧
    (∀ u, (s.busyEngines c = [] ∧ u = s) ∨ (s.busyEngines c ≠ [] ∧ s.reachTick (100000 + (s.cluster c).drainFrom) = some u) →
      let v := (u.moveQueue c).dropBusy c
      exec (.clusterDrainEnd c) s = .next (v.clusterTo c (v.cluster c).drainTo) ∧
      (∀ e < 34, (v.engineOf (64 * c + e)).req = none) ∧
      ((v.cluster c).drainTo < 8 → (v.clusterTo c (v.cluster c).drainTo).get (FAB_CL_STATE c) = (v.cluster c).drainTo))) ∧
  (∀ (s : State) (c : Fin 32), s.underTest c = true → s.get (FAB_CL_STATE c) ≠ 3 → s.get (FAB_CL_STATE c) ≠ 4 →
    exec (.retireCluster c) s = .next ((s.set FAB_RETIRE_STATUS 1).retireAfter)) ∧
  (∀ (s : State) (c : Fin 32), s.underTest c = false → s.get (FAB_CL_STATE c) ≠ 0 →
    exec (.retireCluster c) s = .next ((s.set FAB_RETIRE_STATUS 3).event 0x3005 1 (c + 0 * 2 ^ 8 + 3 * 2 ^ 16))) ∧
  (∀ (s : State) (c : Fin 32), s.underTest c = false → s.get (FAB_CL_STATE c) = 0 → s.notSole c = false →
    exec (.retireCluster c) s = .next ((s.set FAB_RETIRE_STATUS 2).event 0x3005 1 (c + 0 * 2 ^ 8 + 2 * 2 ^ 16))) ∧
  (∀ (s : State) (c : Fin 32), s.underTest c = false → s.get (FAB_CL_STATE c) = 0 → s.notSole c = true →
    ∃ t, exec (.retireCluster c) s = .next t ∧ t.get (FAB_CL_STATE c) = 1 ∧ t.get FAB_RETIRE_STATUS = 1 ∧ (t.cluster c).drainTo = 3 ∧
      (t.cluster c).byCommand = true ∧ t.mode = s.mode) ∧
  (∀ (s : State) (c : Fin 32), s.get (FAB_CL_STATE c) = 3 → (s.cluster c).byCommand = true →
    ∃ t, exec (.restoreCluster c) s = .next t ∧ t.get (FAB_CL_STATE c) = 0 ∧ t.get FAB_RETIRE_STATUS = 1 ∧ (t.cluster c).byCommand = false) ∧
  (∀ (s : State) (c : Fin 32), s.get (FAB_CL_STATE c) ≠ 3 ∨ (s.cluster c).byCommand = false →
    exec (.restoreCluster c) s = .next ((s.set FAB_RETIRE_STATUS 3).event 0x3005 1 (c + 0 * 2 ^ 8 + 3 * 2 ^ 16))) ∧
  (∀ (s : State) (c : Fin 32) (e : Fin 64), 34 ≤ (e : Nat) ∨ s.engIn c e = false ∨ s.engRetired c e = true →
    exec (.retireEngine c e) s = .next ((s.set FAB_RETIRE_STATUS 3).event 0x3005 1 (c + e * 2 ^ 8 + 3 * 2 ^ 16))) ∧
  (∀ (s : State) (c : Fin 32) (e : Fin 64), (e : Nat) < 34 → s.engIn c e = true → s.engRetired c e = false → s.engines c = 1 →
    s.notSole c = false → exec (.retireEngine c e) s = .next ((s.set FAB_RETIRE_STATUS 2).event 0x3005 1 (c + e * 2 ^ 8 + 2 * 2 ^ 16))) ∧
  (∀ (s : State) (c : Fin 32) (e : Fin 64), (e : Nat) < 34 → s.engIn c e = true → s.engRetired c e = false → 1 < s.engines c →
    (s.engineOf (64 * c + e)).req = none →
    ∃ t, exec (.retireEngine c e) s = .next t ∧ t.engIn c e = false ∧ t.engRetired c e = true ∧ t.engByCmd c e = true ∧
      t.get FAB_RETIRE_STATUS = 1 ∧ t.get (FAB_CL_STATE c) = s.get (FAB_CL_STATE c) ∧ t.fab = s.fab) ∧
  (∀ (s : State) (c : Fin 32) (e : Fin 64), (e : Nat) < 34 → s.engIn c e = true → s.engRetired c e = false → 1 < s.engines c →
    (s.engineOf (64 * c + e)).req.isSome = true →
    ∃ t, exec (.retireEngine c e) s = .next t ∧ (t.engineOf (64 * c + e)) = { s.engineOf (64 * c + e) with leaving := true } ∧
      t.engIn c e = true ∧ t.engByCmd c e = true ∧ t.get FAB_RETIRE_STATUS = 1) ∧
  (∀ (s : State) (c : Fin 32) (e : Fin 64), 34 ≤ (e : Nat) ∨ s.engByCmd c e = false →
    exec (.restoreEngine c e) s = .next ((s.set FAB_RETIRE_STATUS 3).event 0x3005 1 (c + e * 2 ^ 8 + 3 * 2 ^ 16))) ∧
  (∀ (s : State) (c : Fin 32) (e : Fin 64), (e : Nat) < 34 → s.engByCmd c e = true → s.get (FAB_CL_FAIL2 c) < 16 →
    s.get (FAB_CL_FAIL0 c) < 2 ^ 32 → s.get (FAB_CL_FAIL1 c) < 2 ^ 32 →
    ∃ t, exec (.restoreEngine c e) s = .next t ∧ t.engIn c e = true ∧ t.engRetired c e = false ∧ t.engByCmd c e = false ∧
      t.failCount c e = 0 ∧ t.get FAB_RETIRE_STATUS = 1 ∧ (t.engineOf (64 * c + e)).leaving = false)

/-- An NTP request: checks, the rate decision, the 48-byte answer and the kiss-o'-death. The NTP routine runs on an engine
that holds a request of partition 2, and waits with code 9 without a credit or while an earlier request of its flow still
runs. With NTP disabled, or a request that is not UDP, it is dropped. Otherwise it is counted; the first failing check of
R246 counts it, notes it for modes 6 and 7, and drops it. A KoD decision sends the header of R254 with RATE, a DROP decision
counts and drops, and an ANSWER decision sends the server header in class 2, the transmit timestamp inserted at launch with
the checksum. Headers are 48 bytes for a request of at least 48; the server header carries the request's transmit timestamp
as origin and the given transmit timestamp. With rate limiting off, or owned by another partition, the decision is ANSWER;
else it compares the estimate with the two thresholds; a call that meets an uncorrectable error is counted and answered.
(spec/09_ntp_and_nts.md (R246, R247, R253, R254), spec/08_response_fabric.md (R232, R233)) -/
def Obligations.NtpRequestsAreAnswered : Prop :=
  (∀ (s : State) (g : Eng) (e : Ecc), (s.eng g).req = none ∨ (∃ r, (s.eng g).req = some r ∧ r.part ≠ 2) → exec (.ntpRequest g e) s = .next s) ∧
  (∀ (s : State) (g : Eng) (e : Ecc) (r : Req), (s.eng g).req = some r → r.part = 2 → s.credit g.c r.port = false ∨ s.inTurn r = false →
    exec (.ntpRequest g e) s = .next (s.onEng g fun x => { x with wait := 9 })) ∧
  (∀ (s : State) (g : Eng) (e : Ecc) (r : Req), (s.eng g).req = some r → r.part = 2 → s.credit g.c r.port = true →
    s.inTurn r = true → s.is NTP_CFG_EN = false ∨ reqUdp r = none → exec (.ntpRequest g e) s = .next ((s.dropReq g).worked g 2)) ∧
  (∀ (s : State) (g : Eng) (e : Ecc) (r : Req) (ip : Ip) (p : List Byte), (s.eng g).req = some r → r.part = 2 → s.credit g.c r.port = true →
    s.inTurn r = true → s.is NTP_CFG_EN = true → reqUdp r = some (ip, p) →
    let u := s.bump NTP_CNT_REQ 1
    (∀ F, ntpCheck ip (beNat (slice r.bytes ip.l4 2)) p = some F → F ≠ NTP_CNT_MODE6 → F ≠ NTP_CNT_MODE7 →
      exec (.ntpRequest g e) s = .next (((u.bump F 1).dropReq g).worked g 2)) ∧
    (ntpCheck ip (beNat (slice r.bytes ip.l4 2)) p = some NTP_CNT_MODE6 →
      exec (.ntpRequest g e) s = .next ((((u.bump NTP_CNT_MODE6 1).noteSec 0x4003 0).dropReq g).worked g 2)) ∧
    (ntpCheck ip (beNat (slice r.bytes ip.l4 2)) p = some NTP_CNT_MODE7 →
      exec (.ntpRequest g e) s = .next ((((u.bump NTP_CNT_MODE7 1).noteSec (0x4003 + 65536) 0).dropReq g).worked g 2)) ∧
    (ntpCheck ip (beNat (slice r.bytes ip.l4 2)) p = none → ∀ v,
      (u.rateDecide g 2 ip e = (v, .drop) →
        exec (.ntpRequest g e) s = .next ((((v.bump NTP_CNT_RATEDROP 1).noteSec (0x4002 + 65536) 0).dropReq g).worked g 2)) ∧
      (u.rateDecide g 2 ip e = (v, .kod) →
        let f := v.udpReply r (v.get NTP_CFG_TTL) (v.get NTP_IPCFG_DSCP) (v.kodHeader p 0x52415445)
        exec (.ntpRequest g e) s =
          .next (((((v.sendFrame g r r.port 2 f.1 {} none).bump NTP_CNT_KOD 1).noteSec 0x4002 0).done g).worked g 2)) ∧
      (u.rateDecide g 2 ip e = (v, .answer) →
        let f := v.udpReply r (v.get NTP_CFG_TTL) (v.get NTP_IPCFG_DSCP) (v.ntpHeader r p 0)
        let w := v.sendFrame g r r.port 2 f.1 { op := 1, ofs := f.2 + 40, csum := true } none
        let w := if 48 < p.length then w.bump NTP_CNT_EXTIGN 1 else w
        exec (.ntpRequest g e) s =
          .next ((((w.bump NTP_CNT_RESP 1).bump (versionCount (beNat (p.take 1) / 8 % 8)) 1).done g).worked g 2)))) ∧
  (∀ (s : State) (g : Eng) (k : Nat) (ip : Ip) (e : Ecc), s.is NTP_RATE_EN = false ∨ s.get FAB_RATE_OWNER ≠ k →
    s.rateDecide g k ip e = (s, .answer)) ∧
  (∀ (s : State) (g : Eng) (k : Nat) (ip : Ip), s.is NTP_RATE_EN = true → s.get FAB_RATE_OWNER = k →
    let r := s.rate (rateKey ip) 1
    (r.2 ≤ s.get NTP_KODTHR_THR → s.rateDecide g k ip .clean = (r.1, .answer)) ∧
    (s.get NTP_KODTHR_THR < r.2 → r.2 ≤ s.get NTP_DROPTHR_THR → s.rateDecide g k ip .clean = (r.1, .kod)) ∧
    (s.get NTP_KODTHR_THR < r.2 → s.get NTP_DROPTHR_THR < r.2 → s.rateDecide g k ip .clean = (r.1, .drop)) ∧
    s.rateDecide g k ip .corrected = (s.bump FAB_ECC_CORR 1).rateDecide g k ip .clean ∧
    ∀ w, (s.rateDecide g k ip (.broken w)).2 = .answer ∧
      (s.ntp.rateErr = true → (s.rateDecide g k ip (.broken w)).1 =
        ((s.rateCall g (rateKey ip) 1 (.broken w)).onEng g fun x => { x with results := [] }).bump NTP_CNT_RATEERR 1)) ∧
  (∀ (s : State) (r : Req) (p : List Byte) (tx id : Nat), 48 ≤ p.length →
    (s.ntpHeader r p tx).length = 48 ∧ (s.kodHeader p id).length = 48) ∧
  (∀ (s : State) (r : Req) (p : List Byte) (tx : Nat), 48 ≤ p.length →
    slice (s.ntpHeader r p tx) 24 8 = slice p 40 8 ∧ beNat (slice (s.ntpHeader r p tx) 40 8) = tx % 2 ^ 64)

/-- NTS key generations, rotation, and NTS-protected requests. A generation is drawn only while the services run, the device
makes keys, none waits already, and once in the 60 s before each hour boundary: the next number's key fills its slot, to
become current at the boundary. A generation that waits becomes current once its second has come, and the slot of the
generation after it is zeroed; a pair member without the token, to which none came, moves its number on at the hour boundary.
A rotation request makes the draw and sets it for the next second, and is refused with status 2 where the device does not
make keys. Outside the services these commands do nothing. The routine of a protected request waits without a credit or
before its flow's turn. A request while NTS is off is dropped, one that is malformed or from a bad source is counted and
dropped; one whose cookie names no accepted generation, does not open, or whose authenticator fails gets a NAK with the
reason and its counter; a valid one is answered, or answered with RATE, with a reservation, or dropped by the rate decision.
(spec/09_ntp_and_nts.md (R260 to R263), spec/09_ntp_and_nts.md (R264 to R267), notes/assumptions/59.md) -/
def Obligations.NtsKeysAreDrawnRotatedAndUsed : Prop :=
  (∀ (s : State), let sec := instSec s.now
    s.serviceOn = false ∨ s.makesKeys = false ∨ s.ntp.next.isSome = true ∨ sec % 3600 < 3540 ∨ s.ntp.drawHour = some (sec / 3600) →
      exec .keyGenerationDraw s = .next s) ∧
  (∀ (s : State), let sec := instSec s.now
    s.serviceOn = true → s.makesKeys = true → s.ntp.next = none → 3540 ≤ sec % 3600 → s.ntp.drawHour ≠ some (sec / 3600) →
    let gen := (s.get NTS_KEYGEN_GEN + 1) % 2 ^ 32
    ∃ t key, exec .keyGenerationDraw s = .next t ∧ t.ntp.next = some gen ∧ SMap.get (0, 0) t.ntp.keys (gen % 4) = (gen, key) ∧
      key < 2 ^ 256 ∧ t.genKey gen = some key ∧ t.ntp.nextAt = (sec / 3600 + 1) * 3600 ∧ t.ntp.drawHour = some (sec / 3600) ∧
      t.get NTS_KEYGEN_GEN = s.get NTS_KEYGEN_GEN ∧ t.free = s.free + 1 ∧
      (s.is SYS_MODE_PAIR = true → t.lease.repl = s.lease.repl ++ [.nts gen]) ∧ t.tb = s.tb ∧ t.mac = s.mac) ∧
  (∀ (s : State), s.serviceOn = false → exec .keyGenerationCurrent s = .next s ∧ exec .ntsRotate s = .next s) ∧
  (∀ (s : State) (gen : Nat), s.serviceOn = true → s.ntp.next = some gen →
    (instSec s.now < s.ntp.nextAt → exec .keyGenerationCurrent s = .next s) ∧
    (s.ntp.nextAt ≤ instSec s.now → exec .keyGenerationCurrent s = .next (s.makeCurrent gen))) ∧
  (∀ (s : State), s.serviceOn = true → s.ntp.next = none →
    (s.makesKeys = true ∨ s.get NTS_KEYSTAT_VALID = 0 ∨ instSec s.now / 3600 ≤ s.ntp.hour → exec .keyGenerationCurrent s = .next s) ∧
    (s.makesKeys = false → s.get NTS_KEYSTAT_VALID ≠ 0 → s.ntp.hour < instSec s.now / 3600 →
      exec .keyGenerationCurrent s = .next (s.makeCurrent ((s.get NTS_KEYGEN_GEN + 1) % 2 ^ 32)))) ∧
  (∀ (s : State) (gen : Nat), gen < 2 ^ 32 → let t := s.makeCurrent gen
    t.get NTS_KEYGEN_GEN = gen ∧ t.get NTS_KEYSTAT_CURSLOT = gen % 4 ∧ t.ntp.next = none ∧ t.ntp.hour = instSec s.now / 3600 ∧
    t.keySlot ((gen + 1) % 4) = none ∧ SMap.get (0, 0) t.ntp.keys (gen % 4) = SMap.get (0, 0) s.ntp.keys (gen % 4) ∧
    t.get NTS_ROTATE_ROTATE = 0) ∧
  (∀ (s : State), s.serviceOn = true → s.makesKeys = false → exec .ntsRotate s = .next (s.set NTS_ROTATE_STATUS 2)) ∧
  (∀ (s : State), s.serviceOn = true → s.makesKeys = true →
    ∃ t, exec .ntsRotate s = .next t ∧ t.ntp.next.isSome = true ∧ t.get NTS_ROTATE_ROTATE = 1 ∧ t.get NTS_ROTATE_STATUS = 1 ∧
      t.get NTS_KEYGEN_GEN = s.get NTS_KEYGEN_GEN ∧ t.ntp.nextAt = instSec s.now + 1) ∧
  (∀ (s : State) (g : Eng) (e : Ecc) (tB : Nat), (s.eng g).req = none ∨ (∃ r, (s.eng g).req = some r ∧ r.part ≠ 3) →
    exec (.ntsRequest g e tB) s = .next s) ∧
  (∀ (s : State) (g : Eng) (e : Ecc) (tB : Nat) (r : Req), (s.eng g).req = some r → r.part = 3 →
    (s.credit g.c r.port = false ∨ s.inTurn r = false → exec (.ntsRequest g e tB) s = .next (s.onEng g fun x => { x with wait := 9 })) ∧
    (s.credit g.c r.port = true → s.inTurn r = true → s.is NTS_CFG_EN = false ∨ reqUdp r = none →
      exec (.ntsRequest g e tB) s = .next ((s.dropReq g).worked g 3))) ∧
  (∀ (s : State) (g : Eng) (e : Ecc) (tB : Nat) (r : Req) (ip : Ip) (p : List Byte), (s.eng g).req = some r → r.part = 3 →
    s.credit g.c r.port = true → s.inTurn r = true → s.is NTS_CFG_EN = true → reqUdp r = some (ip, p) →
    let u := s.bump NTS_CNT_REQ 1
    let b0 := beNat (p.take 1)
    (p.length < 48 ∨ (p.length - 48) % 4 ≠ 0 →
      exec (.ntsRequest g e tB) s = .next (((u.bump NTS_CNT_MALFORMED 1).dropReq g).worked g 3)) ∧
    (48 ≤ p.length → (p.length - 48) % 4 = 0 → badSource ip (beNat (slice r.bytes ip.l4 2)) = true →
      exec (.ntsRequest g e tB) s = .next (((u.bump NTS_CNT_BADSRC 1).dropReq g).worked g 3)) ∧
    (48 ≤ p.length → (p.length - 48) % 4 = 0 → badSource ip (beNat (slice r.bytes ip.l4 2)) = false → b0 / 8 % 8 ≠ 4 ∨ b0 % 8 ≠ 3 →
      exec (.ntsRequest g e tB) s = .next (((u.bump NTS_CNT_MALFORMED 1).dropReq g).worked g 3)) ∧
    (48 ≤ p.length → (p.length - 48) % 4 = 0 → badSource ip (beNat (slice r.bytes ip.l4 2)) = false → b0 / 8 % 8 = 4 → b0 % 8 = 3 →
      (ntsParts p = none → exec (.ntsRequest g e tB) s = .next (((u.bump NTS_CNT_MALFORMED 1).dropReq g).worked g 3)) ∧
      (∀ x, ntsParts p = some x →
        (x.cookie.length ≠ 104 ∨ u.accepted (beNat (x.cookie.take 4)) = false →
          exec (.ntsRequest g e tB) s = .next ((u.ntsNak g r p x.uid NTS_CNT_NAK_KEY 0).worked g 3)) ∧
        (x.cookie.length = 104 → u.accepted (beNat (x.cookie.take 4)) = true →
          (u.openCookie x.cookie = none →
            exec (.ntsRequest g e tB) s = .next ((u.ntsNak g r p x.uid NTS_CNT_NAK_COOKIE 1).worked g 3)) ∧
          (∀ k, u.openCookie x.cookie = some k →
            (Config.sivOpen k.1 [p.take x.authAt, x.nonce] x.ct = none →
              exec (.ntsRequest g e tB) s = .next ((u.ntsNak g r p x.uid NTS_CNT_NAK_AUTH 2).worked g 3)) ∧
            (∀ m v, Config.sivOpen k.1 [p.take x.authAt, x.nonce] x.ct = some m →
              (u.rateDecide g 3 ip e = (v, .drop) →
                exec (.ntsRequest g e tB) s = .next (((v.bump NTS_CNT_RATEDROP 1).dropReq g).worked g 3)) ∧
              (u.rateDecide g 3 ip e = (v, .kod) →
                exec (.ntsRequest g e tB) s = .next ((v.ntsAnswer g r p x k true tB).worked g 3)) ∧
              (u.rateDecide g 3 ip e = (v, .answer) →
                exec (.ntsRequest g e tB) s = .next ((v.ntsAnswer g r p x k false tB).worked g 3))))))))

/-- NTS-KE connections, handshakes, records and the certificate check. A SYN to a server address on a port that sends, whose
gate is open, opens a connection while fewer than MAXCONN stand, else it is reset and counted; any other SYN changes nothing.
A ClientHello without TLS 1.3, the protocol name, or a common suite, chain or group, or with a bad share, or that could not
be served, ends the connection with its alert; one with a common group but no share of it is retried once; a good one
completes the handshake with the chosen chain, which reads in use. The client's records are awaited up to End of Message; too
many bytes, an unknown critical record, records that do not follow the rules, and an internal failure are answered with an
error record; no common protocol or AEAD with an empty list; a good request with NTP, AEAD, port, the server's name where
configured, and eight cookies; the connection then ends. A timeout is reached at its instant and closes a standing
connection. The check raises the expiry warning of the chain in use once a day within the warning time. A command for a
connection that does not stand, or while NTS is off, changes nothing. (spec/09_ntp_and_nts.md (R255 to R259)) -/
def Obligations.NtsKeyEstablishmentAndCertificates : Prop :=
  (∀ (s : State) (p : Fin 32) (c : Nat) (x : Far), s.is NTS_CFG_EN = false ∨ s.serverAddr p x.vlan x.self = false ∨ s.portSends p = false ∨
    s.gateOpen p = false ∨ (s.keConn c).isSome = true → exec (.ntsKeSyn p ⟨c, x⟩) s = .next s) ∧
  (∀ (s : State) (p : Fin 32) (c : Nat) (x : Far), s.is NTS_CFG_EN = true → s.serverAddr p x.vlan x.self = true → s.portSends p = true →
    s.gateOpen p = true → s.keConn c = none →
    (s.get NTS_KECFG_MAXCONN ≤ s.ntp.conns.length →
      exec (.ntsKeSyn p ⟨c, x⟩) s = .next (((s.bump NTS_CNT_KE_REFUSED 1).emit (.keRst p c)).tcpSend p x 4460 0 0x14 [])) ∧
    (s.ntp.conns.length < s.get NTS_KECFG_MAXCONN → ∃ n, exec (.ntsKeSyn p ⟨c, x⟩) s =
      .next ((s.drawn.setConns (s.ntp.conns ++ [{ id := c, port := p, start := s.tb.ticks, peer := x, snd := (n + 1) % 2 ^ 32 }])).tcpSend p x
        4460 n 0x12 []))) ∧
  (∀ (s : State) (c : Nat) (h : Hello), s.keConn c = none ∨ (∃ k, s.keConn c = some k ∧ k.chain.isSome = true) →
    exec (.clientHello c h) s = .next s) ∧
  (∀ (s : State) (c : Nat) (h : Hello) (k : KeConn), s.keConn c = some k → k.chain = none →
    let alert (n : Nat) : State :=
      (((s.bump NTS_CNT_KE_ALERT 1).noteSec 0x4104 n).keSay k 0x11 (.keAlert c n) (beBytes 1 2 ++ beBytes 1 n)).dropConn c
    let suite := [0x1301, 0x1302].find? h.suites.contains
    let pick (l : List Nat) := [0x001D, 0x0017].find? l.contains
    (h.tls13 = false → exec (.clientHello c h) s = .next (alert 70)) ∧
    (h.tls13 = true → h.alpn = false → exec (.clientHello c h) s = .next (alert 120)) ∧
    (h.tls13 = true → h.alpn = true →
      (suite = none ∨ s.chooseChain h.schemes = none ∨ pick h.groups = none → exec (.clientHello c h) s = .next (alert 40)) ∧
      (∀ su n gr, suite = some su → s.chooseChain h.schemes = some n → pick h.groups = some gr →
        (pick h.shares = none → k.retried = true → exec (.clientHello c h) s = .next (alert 47)) ∧
        (pick h.shares = none → k.retried = false → exec (.clientHello c h) s = .next
          ((s.setConns (s.ntp.conns.map fun x => if x.id = c then { x with retried := true } else x)).keSay k 0x18 (.keRetry c gr) (beBytes 2 gr))) ∧
        (∀ sh, pick h.shares = some sh →
          (h.shareOk = false → exec (.clientHello c h) s = .next (alert 47)) ∧
          (h.shareOk = true → h.served = false → exec (.clientHello c h) s = .next (alert 80)) ∧
          (h.shareOk = true → h.served = true →
            let u := s.setConns (s.ntp.conns.map fun x => if x.id = c then { x with chain := some n } else x)
            let v := (((u.set (NTS_CERT_INUSE 0) 0).set (NTS_CERT_INUSE 1) 0).set (NTS_CERT_INUSE n) 1).freshCerts
            exec (.clientHello c h) s = .next (v.keSay k 0x18 (.keHandshake c n su sh (u.certScheme n))
              (beBytes 1 n ++ beBytes 2 su ++ beBytes 2 sh ++ beBytes 2 (u.certScheme n)))))))) ∧
  (∀ (s : State) (c : Nat) (x y z : List Byte) (ok : Bool), s.keConn c = none ∨ (∃ k, s.keConn c = some k ∧ k.chain = none) →
    exec (.ntsKeRequest c x y z ok) s = .next s) ∧
  (∀ (s : State) (c : Nat) (x y z : List Byte) (ok : Bool) (k : KeConn), s.keConn c = some k → k.chain.isSome = true →
    let u := s.keShaken k
    let err (code : Nat) : State := ((u.bump NTS_CNT_KE_ERRREC 1).noteSec 0x4104 (code + 256)).keEnd c (keRecord true 2 (beBytes 2 code))
    let none_ (b : List Byte) : State := ((u.bump NTS_CNT_KE_NOCOOKIE 1).noteSec 0x4104 0xFF).keEnd c b
    (keRecords 300 0 x = .waits → exec (.ntsKeRequest c x y z ok) s = .next u) ∧
    (keRecords 300 0 x = .tooLong → exec (.ntsKeRequest c x y z ok) s = .next (err 1)) ∧
    (∀ rs, keRecords 300 0 x = .whole rs →
      let of (n : Nat) := rs.filter fun r => r.2.1 == n
      (rs.any (fun r => r.1 && decide (8 ≤ r.2.1)) = true → exec (.ntsKeRequest c x y z ok) s = .next (err 0)) ∧
      (rs.any (fun r => r.1 && decide (8 ≤ r.2.1)) = false →
        ((rs.head?.map (·.2.1)) ≠ some 1 ∨ (of 1).length ≠ 1 ∨ of 4 = [] ∨ rs.any (fun r => [2, 3, 5, 6, 7].contains r.2.1) = true →
          exec (.ntsKeRequest c x y z ok) s = .next (err 1)) ∧
        ((rs.head?.map (·.2.1)) = some 1 → (of 1).length = 1 → of 4 ≠ [] → rs.any (fun r => [2, 3, 5, 6, 7].contains r.2.1) = false →
          (ok = false → exec (.ntsKeRequest c x y z ok) s = .next (err 2)) ∧
          (ok = true → (of 1).any (fun r => has16 r.2.2 0) = false → exec (.ntsKeRequest c x y z ok) s = .next (none_ (keRecord true 1 []))) ∧
          (ok = true → (of 1).any (fun r => has16 r.2.2 0) = true → (of 4).any (fun r => has16 r.2.2 0x000F) = false →
            exec (.ntsKeRequest c x y z ok) s = .next (none_ (keRecord true 1 [0, 0] ++ keRecord true 4 []))) ∧
          (ok = true → (of 1).any (fun r => has16 r.2.2 0) = true → (of 4).any (fun r => has16 r.2.2 0x000F) = true →
            let head := keRecord true 1 [0, 0] ++ keRecord true 4 [0, 0x0F] ++ keRecord false 7 (beBytes 2 (u.get NTS_CFG_NTPPORT)) ++
              (if u.is NTS_CFG_SRVNEG then keRecord false 6 u.ntp.srvName else [])
            let q := u.cookies (entryOf y) (entryOf z) (beBytes 2 5 ++ beBytes 2 104) 8
            exec (.ntsKeRequest c x y z ok) s = .next (((q.2.bump NTS_CNT_KE_OK 1).bump NTS_CNT_COOKIES 8).keEnd c (head ++ q.1))))))) ∧
  (∀ (s : State) (c : Nat) (k : KeConn) (b : List Byte), s.keConn c = some k →
    s.keEnd c b = (s.keSay k 0x11 (.keRecords c (b ++ keRecord true 0 [])) ((b ++ keRecord true 0 []) ++ [1, 0])).dropConn c ∧
    (s.dropConn c).keConn c = none) ∧
  (∀ (s : State) (k : KeConn), let u := s.keShaken k
    (k.shaken = true → u = s) ∧ (k.shaken = false → u.ntp.handshakes = s.ntp.handshakes + 1)) ∧
  (∀ (s : State) (c : Nat), s.keConn c = none → exec (.ntsKeTimeout c) s = .next s) ∧
  (∀ (s : State) (c : Nat) (k : KeConn), s.keConn c = some k → let n := 1000000000 * s.get NTS_KECFG_TIMEOUT + k.start
    (s.reachTick n = none → exec (.ntsKeTimeout c) s = .next s) ∧
    (∀ u v, s.reachTick n = some u → u.keConn c = some v →
      exec (.ntsKeTimeout c) s = .next (((u.bump NTS_CNT_KE_TIMEOUT 1).keSay v 0x11 (.keClose c) [1, 0]).dropConn c))) ∧
  (∀ (s : State), s.is NTS_CFG_EN = false ∨ s.serviceOn = false → exec .certExpiryCheck s = .next s) ∧
  (∀ (s : State), s.is NTS_CFG_EN = true → s.serviceOn = true → let u := s.freshCerts
    u.is (NTS_CERT_INUSE 0) = false → u.is (NTS_CERT_INUSE 1) = false → u.chooseChain [0x0807, 0x0403] = none →
    exec .certExpiryCheck s = .next u) ∧
  (∀ (s : State) (c : Nat), s.is NTS_CFG_EN = true → s.serviceOn = true →
    let u := s.freshCerts
    let left : Int := (u.get (NTS_CERT_NOTAFTER c) : Int) - u.utcNow
    (if u.is (NTS_CERT_INUSE 0) then some 0 else if u.is (NTS_CERT_INUSE 1) then some 1 else u.chooseChain [0x0807, 0x0403]) = some c →
    exec .certExpiryCheck s = .next (if left ≤ u.get NTS_KECFG_CERTWARN * 86400 ∧ u.ntp.warnDay ≠ some (instSec u.now / 86400) then
      (u.onNtp fun n => { n with warnDay := some (instSec u.now / 86400) }).event 0x4102 2 (c + min 255 (left / 86400).toNat * 2 ^ 8) else u))

/-- Received PTP messages: the checks, and the answers to Delay_Req, Pdelay_Req and their like. The routine of a PTP message
runs on an engine that holds a received request of partition 4, waits with code 9 without a credit or while an earlier
request of its flow still runs, and does nothing on an engine without such a request. A message that fails a check is counted
with that check's counter, noted and dropped. A Delay_Req that a master port serves is answered with Delay_Resp carrying the
receive stamp and requester, any other is dropped. A Pdelay_Req is answered in one step with the turnaround inserted at
launch, or in two steps with a link index; without a free index it is dropped; on a port INITIALIZING it is dropped. A
peer-delay response that is not for the open exchange is dropped without effect; a one-step one, and the follow-up of a
two-step one, gives a delay; a two-step one is kept for its follow-up. An Announce of a foreign clock is kept as the newest
of its sender, and the port is evaluated, or the client selects its master. A Sync, Follow_Up or Delay_Resp acts only for the
PTPIN client and its master: a one-step Sync measures, a two-step one waits for its Follow_Up, which measures, and a
Delay_Resp completes the exchange and gives the mean delay. (spec/10_ptp_grandmaster.md (R274 to R279),
spec/10_ptp_grandmaster.md (R294, R295), spec/08_response_fabric.md (R219)) -/
def Obligations.PtpMessagesAreCheckedAndAnswered : Prop :=
  (∀ (s : State) (g : Eng) (e : Ecc), (s.eng g).req = none ∨ (∃ r, (s.eng g).req = some r ∧ r.part ≠ 4) →
    ∀ i ∈ [Instr.announceRx g, .delayReqRx g, .pdelayReqRx g, .pdelayRespRx g, .signalingRx g e, .syncRx g, .followUpRx g, .delayRespRx g,
      .calendarMessage g], exec i s = .next s) ∧
  (∀ (s : State) (g : Eng) (e : Ecc) (r : Req), (s.eng g).req = some r → r.part = 4 →
    s.credit g.c r.port = false ∨ s.inTurn r = false →
    ∀ i ∈ [Instr.announceRx g, .delayReqRx g, .pdelayReqRx g, .pdelayRespRx g, .signalingRx g e, .syncRx g, .followUpRx g, .delayRespRx g,
      .calendarMessage g], exec i s = .next (s.onEng g fun x => { x with wait := 9 })) ∧
  (∀ (s : State) (g : Eng) (e : Ecc) (r : Req) (k : Nat), (s.eng g).req = some r → r.part = 4 → s.credit g.c r.port = true → s.inTurn r = true →
    r.src = 0 →
    s.ptpCheck r (ptpPayload r) (ptpParse (ptpPayload r)) = some k →
    ∀ i ∈ [Instr.announceRx g, .delayReqRx g, .pdelayReqRx g, .pdelayRespRx g, .signalingRx g e, .syncRx g, .followUpRx g, .delayRespRx g],
      exec i s = .next ((((s.bump (ptpCounter k) 1).noteSec 0x4204 k).dropReq g).worked g 4)) ∧
  (∀ (s : State) (g : Eng) (r : Req), (s.eng g).req = some r → r.part = 4 → s.credit g.c r.port = true → s.inTurn r = true →
    r.src = 0 →
    let m := ptpParse (ptpPayload r)
    let who := beBytes 10 m.src
    s.ptpCheck r (ptpPayload r) m = none →
    (m.type = 1 →
      (s.get (PTP_P_STATE r.port) ≠ 1 ∨ (s.is (PTP_P_MCAST r.port) = false ∧ (isMcast r = true ∨ s.drGranted r who = false)) →
        exec (.delayReqRx g) s = .next ((s.dropReq g).worked g 4)) ∧
      (s.get (PTP_P_STATE r.port) = 1 → s.is (PTP_P_MCAST r.port) = true ∨ (isMcast r = false ∧ s.drGranted r who = true) →
        let d := if isMcast r && !s.is (PTP_P_HYBRID r.port) then s.mcastDest r.port false else s.senderDest r
        let msg := s.ptpMessage 9 m.minor m.domain (flagHead d false) (satSigned 64 (m.corr - instSub r.stamp)) r.port m.seq
          (if d.mcast then s.get (PTP_P_LOGDREQ r.port) else 0x7F) (ptpStamp r.stamp ++ who)
        exec (.delayReqRx g) s =
          .next ((((s.sendPtp g r r.port d false msg 0 0 false 0).bump PTP_CNT_DRESP_TX 1).done g).worked g 4))) ∧
    (m.type = 2 →
      let d := if isMcast r then s.mcastDest r.port true else s.senderDest r
      (s.get (PTP_P_STATE r.port) = 0 → exec (.pdelayReqRx g) s = .next ((s.dropReq g).worked g 4)) ∧
      (s.get (PTP_P_STATE r.port) ≠ 0 → s.is (PTP_P_TWOSTEP r.port) = false →
        let a := s.ptpMessage 3 m.minor m.domain (flagHead d false) m.corr r.port m.seq 0x7F (beBytes 10 0 ++ who)
        exec (.pdelayReqRx g) s = .next
          ((((s.sendPtp g r r.port d true a 3 0 false (instFull r.stamp % 2 ^ 64)).bump PTP_CNT_PDRESP_TX 1).done g).worked g 4)) ∧
      (∀ u, s.get (PTP_P_STATE r.port) ≠ 0 → s.is (PTP_P_TWOSTEP r.port) = true → s.takeLink r.port = (u, none) →
        exec (.pdelayReqRx g) s = .next ((u.dropReq g).worked g 4)) ∧
      (∀ u i, s.get (PTP_P_STATE r.port) ≠ 0 → s.is (PTP_P_TWOSTEP r.port) = true → s.takeLink r.port = (u, some i) →
        let a := u.ptpMessage 3 m.minor m.domain (flagHead d true) (-(instSub r.stamp : Int)) r.port m.seq 0x7F (ptpStamp r.stamp ++ who)
        let b := u.ptpMessage 10 m.minor m.domain (flagHead d false) m.corr r.port m.seq 0x7F (beBytes 10 0 ++ who)
        exec (.pdelayReqRx g) s = .next ((((((u.sendPtp g r r.port d true a 0 i true 0).bump PTP_CNT_PDRESP_TX 1).sendPtp g r r.port d false b 4 i
          false 0).bump PTP_CNT_PDRFU_TX 1).done g).worked g 4))) ∧
    (m.type = 3 ∨ m.type = 10 →
      ((s.peer r.port).t1 = none ∨ slice m.body 44 10 ≠ s.portId r.port ∨ m.seq ≠ (s.peer r.port).seq →
        exec (.pdelayRespRx g) s = .next ((s.dropReq g).worked g 4)) ∧
      (∀ t1, m.type = 3 → (s.peer r.port).t1 = some t1 → slice m.body 44 10 = s.portId r.port → m.seq = (s.peer r.port).seq →
        m.flags / 512 % 2 = 0 → exec (.pdelayRespRx g) s =
          .next (((s.peerDone r.port (peerDelay t1 0 0 r.stamp m.corr)).dropReq g).worked g 4)) ∧
      (m.type = 3 → (s.peer r.port).t1.isSome = true → slice m.body 44 10 = s.portId r.port → m.seq = (s.peer r.port).seq →
        m.flags / 512 % 2 = 1 → exec (.pdelayRespRx g) s = .next (((s.setPeer r.port { s.peer r.port with
          half := some (ptpInstant (slice m.body 34 10), r.stamp, m.corr) }).dropReq g).worked g 4)) ∧
      (m.type = 10 → (s.peer r.port).half = none → exec (.pdelayRespRx g) s = .next ((s.dropReq g).worked g 4)) ∧
      (∀ t1 t2 t4 c, m.type = 10 → (s.peer r.port).t1 = some t1 → slice m.body 44 10 = s.portId r.port → m.seq = (s.peer r.port).seq →
        (s.peer r.port).half = some (t2, t4, c) → exec (.pdelayRespRx g) s =
          .next (((s.peerDone r.port (peerDelay t1 t2 (ptpInstant (slice m.body 34 10)) t4 (c + m.corr))).dropReq g).worked g 4))) ∧
    (m.type = 0 →
      (s.clientMsg r.port m.domain = false → exec (.syncRx g) s = .next ((s.dropReq g).worked g 4)) ∧
      (s.clientMsg r.port m.domain = true → s.ptp.master ≠ some m.src →
        exec (.syncRx g) s = .next (((s.bump PTP_CNT_PTPIN_SYNC_RX 1).dropReq g).worked g 4)) ∧
      (s.clientMsg r.port m.domain = true → s.ptp.master = some m.src → m.flags / 512 % 2 = 1 →
        exec (.syncRx g) s = .next ((((s.bump PTP_CNT_PTPIN_SYNC_RX 1).onPtp fun t =>
          { t with syncWait := some (m.seq, r.stamp, m.corr) }).dropReq g).worked g 4)) ∧
      (s.clientMsg r.port m.domain = true → s.ptp.master = some m.src → m.flags / 512 % 2 = 0 →
        exec (.syncRx g) s = .next ((((s.bump PTP_CNT_PTPIN_SYNC_RX 1).ptpinMeasure r.stamp
          ((r.stamp : Int) - ptpInstant (slice m.body 34 10) - m.corr)).dropReq g).worked g 4))) ∧
    (m.type = 8 →
      (s.ptp.syncWait = none ∨ s.clientMsg r.port m.domain = false ∨ s.ptp.master ≠ some m.src → exec (.followUpRx g) s = .next ((s.dropReq g).worked g 4)) ∧
      (∀ w, s.ptp.syncWait = some w → w.1 ≠ m.seq → exec (.followUpRx g) s = .next ((s.dropReq g).worked g 4)) ∧
      (∀ t2 c, s.ptp.syncWait = some (m.seq, t2, c) → s.clientMsg r.port m.domain = true → s.ptp.master = some m.src →
        exec (.followUpRx g) s = .next ((((s.onPtp fun t => { t with syncWait := none }).ptpinMeasure t2
          ((t2 : Int) - ptpInstant (slice m.body 34 10) - (c + m.corr))).dropReq g).worked g 4))) ∧
    (m.type = 9 →
      (s.ptp.dreqAt = none ∨ s.ptp.syncTerm = none ∨ s.clientMsg r.port m.domain = false ∨ s.ptp.master ≠ some m.src ∨
        m.seq ≠ s.ptp.dreqSeq ∨ slice m.body 44 10 ≠ s.portId r.port → exec (.delayRespRx g) s = .next ((s.dropReq g).worked g 4)) ∧
      (∀ t3 term, s.ptp.dreqAt = some t3 → s.ptp.syncTerm = some term → s.clientMsg r.port m.domain = true → s.ptp.master = some m.src →
        m.seq = s.ptp.dreqSeq → slice m.body 44 10 = s.portId r.port →
        let rtt := term + ((ptpInstant (slice m.body 34 10) : Int) - t3 - m.corr)
        let u := s.onPtp fun t => { t with dreqAt := none, exchanges := ((rtt, divRound rtt 2) :: t.exchanges).take 16,
                                           logDreq := if m.log = 0x7F then t.logDreq else logOf m.log }
        exec (.delayRespRx g) s = .next (((u.seti PTPIN_MEANDLY ((bestDelay u.ptp.exchanges).getD 0)).dropReq g).worked g 4))) ∧
    (m.type = 11 → s.clientMsg r.port m.domain = false → beNat (slice m.body 53 8) = s.clockId →
      exec (.announceRx g) s = .next ((s.dropReq g).worked g 4)) ∧
    (m.type = 11 → s.clientMsg r.port m.domain = true ∨ beNat (slice m.body 53 8) ≠ s.clockId →
      let client := s.clientMsg r.port m.domain
      let same (f : Foreign) : Bool := f.port == r.port && f.src == m.src && f.client == client
      let gm : GmData := { prio1 := beNat (slice m.body 47 1), cls := beNat (slice m.body 48 1), acc := beNat (slice m.body 49 1)
                           oslv := beNat (slice m.body 50 2), prio2 := beNat (slice m.body 52 1), id := beNat (slice m.body 53 8)
                           steps := beNat (slice m.body 61 2) }
      let f : Foreign := { port := r.port, src := m.src, client := client, gm := gm, logAnn := logOf m.log, last := s.tb.ticks
                           prev := (s.ptp.foreign.find? same).map (·.last), timescale := m.flags / 8 % 2 = 1
                           mac := (parseL2 r.bytes).sa }
      let u := s.onPtp fun t => { t with foreign := f :: t.foreign.filter fun x => !same x }
      exec (.announceRx g) s = .next (((if client then u.ptpinSelect else u.ptpEval r.port).dropReq g).worked g 4)))

/-- Unicast grants, the transmission calendar, receipt timeouts and the messages the device originates. A Signaling message
for another target is dropped, and so is one to a port INITIALIZING; one whose TLVs call for no answer is dropped after them;
else the answers go in one message. A grant that has expired, or whose three types are cancelled, is zeroed; a live one is
left as it is. The calendar issues a message once TB has reached its due instant less the lead: when it is on its grid, in
the calendar's order, not issued before, for a master port or a live grant. The calendar's routine sends Announce, one-step
Sync or two-step Sync and Follow_Up, without a free link index nothing, or counts a port that is no master or a grant that is
none any more. A receipt timeout is reached at its instant, forgets the masters of the port whose Announce is not current and
evaluates the port. A P2P port sends Pdelay_Req, at its interval, with the next sequence number, and the PTPIN client its
Delay_Req; the client asks for its grants on a port that is up, and renews them at half their duration. Outside these
conditions nothing else changes. (spec/10_ptp_grandmaster.md (R284 to R291), spec/10_ptp_grandmaster.md (R275, R279, R294,
R295), notes/assumptions/16.md, notes/assumptions/58.md) -/
def Obligations.PtpGrantsCalendarAndClientSends : Prop :=
  (∀ (s : State) (g : Eng) (e : Ecc) (r : Req), (s.eng g).req = some r → r.part = 4 → s.credit g.c r.port = true → s.inTurn r = true →
    r.src = 0 →
    let m := ptpParse (ptpPayload r)
    let x := State.tlvs r m e 400 s (m.body.drop 44)
    s.ptpCheck r (ptpPayload r) m = none → m.type = 12 →
    (slice m.body 34 10 ≠ List.replicate 10 0xFF → slice m.body 34 10 ≠ s.portId r.port →
      exec (.signalingRx g e) s = .next ((s.dropReq g).worked g 4)) ∧
    (s.clientMsg r.port m.domain = false → s.get (PTP_P_STATE r.port) = 0 →
      exec (.signalingRx g e) s = .next ((s.dropReq g).worked g 4)) ∧
    (slice m.body 34 10 = List.replicate 10 0xFF ∨ slice m.body 34 10 = s.portId r.port →
      s.clientMsg r.port m.domain = true ∨ s.get (PTP_P_STATE r.port) ≠ 0 → x.2 = [] → exec (.signalingRx g e) s = .next ((x.1.dropReq g).worked g 4)) ∧
    (slice m.body 34 10 = List.replicate 10 0xFF ∨ slice m.body 34 10 = s.portId r.port →
      s.clientMsg r.port m.domain = true ∨ s.get (PTP_P_STATE r.port) ≠ 0 → x.2 ≠ [] →
      let d := x.1.senderDest r
      let msg := x.1.ptpMessage 12 m.minor m.domain (flagHead d false) 0 r.port x.1.ptp.sigSeq 0x7F (beBytes 10 m.src ++ x.2)
      let u := x.1.onPtp fun t => { t with sigSeq := (t.sigSeq + 1) % 65536 }
      exec (.signalingRx g e) s =
        .next ((((u.sendPtp g r r.port d false msg 0 0 false 0).bump PTP_CNT_SIG_TX 1).done g).worked g 4))) ∧
  (∀ (s : State) (n : Fin 1048576), (s.grantEntry n).valid = false ∨
    (notExpired (s.grantEntry n).expiry (instSec s.now) = true ∧
      ((s.grantEntry n).sync ≠ 15 ∨ (s.grantEntry n).ann ≠ 15 ∨ (s.grantEntry n).dr ≠ 15)) → exec (.grantExpire n) s = .next s) ∧
  (∀ (s : State) (n : Fin 1048576), (s.grantEntry n).valid = true → notExpired (s.grantEntry n).expiry (instSec s.now) = false ∨
      ((s.grantEntry n).sync = 15 ∧ (s.grantEntry n).ann = 15 ∧ (s.grantEntry n).dr = 15) →
    ∃ t, exec (.grantExpire n) s = .next t ∧ t.entry n = List.replicate 32 0 ∧ (t.grantEntry n).valid = false ∧
      (∀ a, a < entryAddr n ∨ entryAddr n + 32 ≤ a → SMap.get 0 t.fab.store a = SMap.get 0 s.fab.store a) ∧
      t.mode = s.mode ∧ t.tb = s.tb ∧ t.mac = s.mac) ∧
  (∀ (s : State) (mc a : Bool) (n : Fin 1048576) (t : Nat), s.reach ((t - s.get PTP_CALCFG_CALLEAD * 1000) * ns1) = none →
    exec (.calendarIssue mc n a t) s = .next s) ∧
  (∀ (s u : State) (mc a : Bool) (n : Fin 1048576) (t : Nat), s.reach ((t - s.get PTP_CALCFG_CALLEAD * 1000) * ns1) = some u →
    (u.calLog mc n a = none → exec (.calendarIssue mc n a t) s = .next u) ∧
    (∀ log, u.calLog mc n a = some log →
      let due : Prop := (mc = true → (n : Nat) < 32 ∧ u.get (PTP_P_STATE (u.calPort mc n)) = 1) ∧ calPhase mc n log ≤ t ∧
        (t - calPhase mc n log) % interval log = 0 ∧ u.inOrder mc n t = true ∧ SMap.get 0 u.ptp.issued (calKey mc n a) < t ∧
        (mc = false → notExpired (u.grantEntry n).expiry (t / 10 ^ 9) = true ∧ SMap.get 0 u.ptp.grantAt (4 * n + if a then 3 else 0) ≤ t)
      let r : Req := { part := 4, src := 1, port := u.calPort mc n, bytes := [], stamp := t * ns1, index := n
                       kind := (if mc then 1 else 0) + if a then 2 else 0 }
      (¬due → exec (.calendarIssue mc n a t) s = .next u) ∧
      (due → exec (.calendarIssue mc n a t) s = .next ((u.onPtp fun y =>
        { y with issued := SMap.set 0 y.issued (calKey mc n a) t, walked := SMap.set (0, 0) y.walked (calTile mc n) (t, n) }).onFab fun f =>
        { f with intern := SMap.set [] f.intern 17 (SMap.get [] f.intern 17 ++ [r]) })))) ∧
  (∀ (s : State) (g : Eng) (r : Req), (s.eng g).req = some r → r.part = 4 → s.credit g.c r.port = true → s.inTurn r = true → r.src = 1 →
    let mc := decide (r.kind % 2 = 1)
    let ann := decide (2 ≤ r.kind)
    let e := s.grantEntry r.index
    (s.calLog mc r.index ann = none → exec (.calendarMessage g) s = .next (((s.bump PTP_CNT_CALNOTMASTER 1).dropReq g).worked g 4)) ∧
    (∀ log, s.calLog mc r.index ann = some log →
      let d := if mc then s.mcastDest r.port false else s.grantDest e
      let minor := if mc then s.get PTP_CFG_MINOR else e.minor
      let seq := (r.stamp / ns1 - calPhase mc r.index log) / interval log % 65536
      let msg (u : State) (type flags : Nat) (body : List Byte) : List Byte :=
        u.ptpMessage type minor (s.get PTP_CFG_DOMAIN) flags 0 r.port seq (ofSigned 8 log) body
      (s.get (PTP_P_STATE r.port) ≠ 1 ∨ (mc = false ∧ notExpired e.expiry (instSec r.stamp) = false) →
        exec (.calendarMessage g) s = .next (((s.bump PTP_CNT_CALNOTMASTER 1).dropReq g).worked g 4)) ∧
      (s.get (PTP_P_STATE r.port) = 1 → mc = true ∨ notExpired e.expiry (instSec r.stamp) = true →
        (ann = true → exec (.calendarMessage g) s = .next ((((s.sendPtp g r r.port d false
          (msg s 11 (flagHead d false + s.annFlags (instSec r.stamp)) (s.annBody r.stamp)) 0 0 false 0).bump PTP_CNT_ANN_TX 1).done g).worked g 4)) ∧
        (ann = false → s.is (PTP_P_TWOSTEP r.port) = false → exec (.calendarMessage g) s = .next ((((s.sendPtp g r r.port d true
          (msg s 0 (flagHead d false) (beBytes 10 0)) 2 0 false 0).bump PTP_CNT_SYNC_TX 1).done g).worked g 4)) ∧
        (∀ u, ann = false → s.is (PTP_P_TWOSTEP r.port) = true → s.takeLink r.port = (u, none) →
          exec (.calendarMessage g) s = .next ((u.dropReq g).worked g 4)) ∧
        (∀ u i, ann = false → s.is (PTP_P_TWOSTEP r.port) = true → s.takeLink r.port = (u, some i) →
          exec (.calendarMessage g) s = .next ((((((u.sendPtp g r r.port d true (msg u 0 (flagHead d true) (ptpStamp r.stamp)) 0 i true 0).bump
            PTP_CNT_SYNC_TX 1).sendPtp g r r.port d false (msg u 8 (flagHead d false) (beBytes 10 0)) 4 i false 0).bump
            PTP_CNT_FU_TX 1).done g).worked g 4))))) ∧
  (∀ (s : State) (p : Fin 32), s.reachTick (s.announceDue p) = none → exec (.announceReceiptTimeout p) s = .next s) ∧
  (∀ (s v : State) (p : Fin 32), s.reachTick (s.announceDue p) = some v →
    let u := v.onPtp fun t => { t with foreign := t.foreign.filter fun f => f.port ≠ p || v.current f }
    exec (.announceReceiptTimeout p) s = .next ((if u.is PTPIN_EN && u.get PTPIN_PORT == p then u.ptpinSelect else u).ptpEval p)) ∧
  (∀ (s : State) (p : Nat), p < 32 → (s.is PTP_CFG_EN = false ∨ s.is (PTP_P_EN p) = false ∨ s.portUp p = false) →
    (s.ptpEval p).get (PTP_P_STATE p) = 0) ∧
  (∀ (s : State) (p : Fin 32) (ph : Nat),
    let n := if (s.peer p).sentAt = 0 then 0 else (s.peer p).sentAt + interval (s.geti (PTP_P_LOGPDREQ p))
    (s.reachTick n = none → exec (.pdelayReqSend p ph) s = .next s) ∧
    (∀ u, s.reachTick n = some u →
      (u.is (PTP_P_P2P p) = false ∨ u.get (PTP_P_STATE p) = 0 → exec (.pdelayReqSend p ph) s = .next u) ∧
      (u.is (PTP_P_P2P p) = true → u.get (PTP_P_STATE p) ≠ 0 →
        let seq := ((s.peer p).seq + 1) % 65536
        let d := u.mcastDest p true
        let r := u.sendReserved p d ph fun t => u.ptpMessage 2 (u.get PTP_CFG_MINOR) (u.get PTP_CFG_DOMAIN) (flagHead d false) (instSub t) p seq
          (u.get (PTP_P_LOGPDREQ p)) (ptpStamp t ++ beBytes 10 0)
        exec (.pdelayReqSend p ph) s = .next ((r.1.setPeer p { s.peer p with
          seq := seq, t1 := some r.2, sentAt := u.tb.ticks, half := none
          done := if (s.peer p).t1.isSome then (false :: (s.peer p).done).take 3 else (s.peer p).done }).ptpEval p)))) ∧
  (∀ (s : State) (ph : Nat),
    let n := s.ptp.dreqTick.elim 0 (· + interval (max (s.geti PTPIN_LOGDREQ) s.ptp.logDreq))
    (s.reachTick n = none → exec (.ptpinDelayReqSend ph) s = .next s) ∧
    (∀ u, s.reachTick n = some u →
      (u.is PTPIN_EN = false ∨ u.ptp.master = none ∨ u.portUp (u.get PTPIN_PORT) = false → exec (.ptpinDelayReqSend ph) s = .next u) ∧
      (u.is PTPIN_EN = true → u.ptp.master.isSome = true → u.portUp (u.get PTPIN_PORT) = true →
        ∃ t, exec (.ptpinDelayReqSend ph) s = .next t ∧ t.ptp.dreqSeq = (u.ptp.dreqSeq + 1) % 65536 ∧ t.ptp.dreqAt.isSome = true ∧
          t.ptp.dreqTick = some u.tb.ticks ∧ t.ptp.master = u.ptp.master ∧
          t.get PTP_CNT_PTPIN_DREQ_TX = satU PTP_CNT_PTPIN_DREQ_TX.width (u.get PTP_CNT_PTPIN_DREQ_TX + 1)))) ∧
  (∀ (s : State),
    let n := s.ptp.renewAt.elim 0 (500000000 * s.ptp.grantDur + ·)
    (s.reachTick n = none → exec .ptpinGrantRenew s = .next s) ∧
    (∀ u, s.reachTick n = some u →
      (u.is PTPIN_EN = false ∨ u.is PTPIN_MODE = false ∨ u.portUp (u.get PTPIN_PORT) = false → exec .ptpinGrantRenew s = .next u) ∧
      (u.is PTPIN_EN = true → u.is PTPIN_MODE = true → u.portUp (u.get PTPIN_PORT) = true →
        ∃ t, exec .ptpinGrantRenew s = .next t ∧ t.ptp.sigSeq = (u.ptp.sigSeq + 1) % 65536 ∧ t.ptp.master = u.ptp.master ∧
          t.ptp.renewAt = some u.tb.ticks ∧ t.ptp.grantDur = 300 ∧
          t.get PTP_CNT_SIG_TX = satU PTP_CNT_SIG_TX.width (u.get PTP_CNT_SIG_TX + 1))))

/-- Roughtime requests, batches, signatures and online keys. The routine waits with code 9 without a credit or before its
flow's turn. A UDP request to the endpoint's port and a server address is checked in order: shorter than 1,024 bytes, a bad
source, a malformed message or list, no common version, another server, no key, no time, a full batch are each counted and
dropped, and one that passes joins the open batch of its version as a leaf. Other requests are dropped. A request of the
batch unit is answered, a leaf each while credits last. A batch closes at the end of its window when the backlog allows; it
is then no longer open and the batch number advances; with a bound and a valid key it joins the backlog, else its leaves are
counted. A released signature takes its batch off the backlog, counts it and hands the responses to the fabric; a failed one
counts its leaves with event 0x4304. The first online key is drawn once the error bound allows, and a replacement when one is
due; the daily key from KEYLEAD before D, at once in effect after D; at D it takes effect or, when none is ready, the late
condition is raised. Without the service, or outside these conditions, nothing changes. (spec/11_roughtime.md (R302 to R309),
spec/11_roughtime.md (R312, R313), spec/08_response_fabric.md (R217, R219, R234), notes/assumptions/60.md) -/
def Obligations.RoughtimeRequestsBatchesAndKeys : Prop :=
  (∀ (s : State) (g : Eng), (s.eng g).req = none ∨ (∃ r, (s.eng g).req = some r ∧ r.part ≠ 5) → exec (.roughtimeRequest g) s = .next s) ∧
  (∀ (s : State) (g : Eng) (r : Req), (s.eng g).req = some r → r.part = 5 →
    (s.credit g.c r.port = false ∨ s.inTurn r = false → exec (.roughtimeRequest g) s = .next (s.onEng g fun x => { x with wait := 9 })) ∧
    (s.credit g.c r.port = true → s.inTurn r = true →
      (r.src = 2 →
        let u := (r.resps.drop (s.eng g).emits).foldl (fun s f => if s.credit g.c f.port then s.rtEmit g r f else s) s
        exec (.roughtimeRequest g) s =
          .next ((if r.resps.length ≤ (u.eng g).emits then u.done g else u.onEng g fun x => { x with wait := 9 }).worked g 5)) ∧
      (r.src ≠ 2 → reqUdp r = none → exec (.roughtimeRequest g) s = .next ((s.dropReq g).worked g 5)) ∧
      (∀ ip p, r.src ≠ 2 → reqUdp r = some (ip, p) →
        (s.rtOn = false ∨ dstPort r.bytes ip ≠ s.get RT_NET_PORT ∨ s.serverAddr r.port r.vlan ip.dst = false →
          exec (.roughtimeRequest g) s = .next ((s.dropReq g).worked g 5)) ∧
        (s.rtOn = true → dstPort r.bytes ip = s.get RT_NET_PORT → s.serverAddr r.port r.vlan ip.dst = true →
          exec (.roughtimeRequest g) s = .next ((s.rtCheck g r ip p).worked g 5))))) ∧
  (∀ (s : State) (g : Eng) (r : Req) (ip : Ip) (p : List Byte),
    let u := s.bump RT_CNT_REQ 1
    let fail (F : Field) (k : Nat) : State := ((u.bump F 1).noteSec 0x4303 k).dropReq g
    let sport := beNat (slice r.bytes ip.l4 2)
    (p.length < 1024 → s.rtCheck g r ip p = fail RT_CNT_SHORT 1) ∧
    (1024 ≤ p.length → badSource ip sport = true → s.rtCheck g r ip p = fail RT_CNT_BADSRC 2) ∧
    (1024 ≤ p.length → badSource ip sport = false →
      (rtMessage p = none ∨ (∃ m, rtMessage p = some m ∧ rtParse m = none) → s.rtCheck g r ip p = fail RT_CNT_MALFORMED 3) ∧
      (∀ m t, rtMessage p = some m → rtParse m = some t →
        let ver := (rtTag t rtVER).getD []
        let nonce := (rtTag t rtNONC).getD []
        (ver = [] ∨ ver.length % 4 ≠ 0 ∨ 128 < ver.length ∨ nonce.length ≠ 32 → s.rtCheck g r ip p = fail RT_CNT_MALFORMED 4) ∧
        (ver ≠ [] → ver.length % 4 = 0 → ver.length ≤ 128 → nonce.length = 32 →
          (u.rtChoose ver = none → s.rtCheck g r ip p = fail RT_CNT_VERNONE 5) ∧
          (∀ v, u.rtChoose ver = some v →
            ((∃ b, rtTag t rtSRV = some b ∧ b ≠ u.rtServer) → s.rtCheck g r ip p = fail RT_CNT_SRVMISMATCH 6) ∧
            ((∀ b, rtTag t rtSRV = some b → b = u.rtServer) →
              (u.rt.cur = none → s.rtCheck g r ip p = fail RT_CNT_NOKEY 7) ∧
              (u.rt.cur.isSome = true → u.get SEL_TQR_TEB = 0xFFFFFFFF → s.rtCheck g r ip p = fail RT_CNT_NOTIME 8) ∧
              (u.rt.cur.isSome = true → u.get SEL_TQR_TEB ≠ 0xFFFFFFFF → u.rtFull v = true → s.rtCheck g r ip p = fail RT_CNT_BATCHFULL 9) ∧
              (u.rt.cur.isSome = true → u.get SEL_TQR_TEB ≠ 0xFFFFFFFF → u.rtFull v = false → s.rtCheck g r ip p = (u.rtAppend v
                { req := r, nonce := nonce, hash := rtHash (0 :: (if v = 0 then nonce else p.take (12 + m.length))) }).dropReq g))))))) ∧
  (∀ (s : State) (v : Nat) (l : RtLeaf), s.rtOpen v = none →
    s.rtAppend v l = s.setRtOpen v (some { from_ := s.now, leaves := [l] })) ∧
  (∀ (s : State) (v : Nat) (l : RtLeaf) (o : RtOpen), s.rtOpen v = some o → s.now ≤ s.rtEnd o → o.leaves.length + 1 < 65536 →
    s.rtAppend v l = s.setRtOpen v (some { o with leaves := o.leaves ++ [l] })) ∧
  (∀ (s : State) (v : Fin 2), s.rtOpen v = none → exec (.batchClose v) s = .next s) ∧
  (∀ (s : State) (v : Fin 2) (o : RtOpen), s.rtOpen v = some o → let n := us1 * s.get RT_CFG_WINDOW + o.from_
    (s.reach n = none → exec (.batchClose v) s = .next s) ∧
    (∀ u, s.reach n = some u → exec (.batchClose v) s = .next (if u.rtRoom then u.rtClose v o (us1 * u.get RT_CFG_WINDOW + o.from_) else u))) ∧
  (∀ (s : State) (v : Nat) (o : RtOpen) (t : Nat), let u := s.rtClose v o t
    u.rtOpen v = none ∧ u.mac = s.mac ∧ u.tb = s.tb ∧ u.mode = s.mode ∧ u.rt.nextNum = (s.rt.nextNum + 1) % 2 ^ 20 ∧
    (∀ k, s.rt.daily = none → s.get SEL_TQR_TEB ≠ 0xFFFFFFFF → s.rt.cur = some k → k.mint ≤ s.utcNs t → s.utcNs t ≤ k.maxt →
      ∃ b, u.rt.closed = s.rt.closed ++ [b] ∧ b.num = s.rt.nextNum ∧ b.ver = v ∧ b.leaves = o.leaves ∧ b.closed = t ∧ b.key = k.num)) ∧
  (∀ (s : State) (n : Nat) (ok : Bool), s.rt.closed.find? (·.num == n) = none → exec (.batchSignatureRelease n ok) s = .next s) ∧
  (∀ (s : State) (n : Nat) (b : RtBatch), s.rt.closed.find? (·.num == n) = some b → exec (.batchSignatureRelease n false) s = .next
    ((((s.setRtClosed (s.rt.closed.filter (·.num ≠ n))).bump RT_CNT_SIGFAIL b.leaves.length).event 0x4304 2 n).rtWipe.rtCatch)) ∧
  (∀ (s : State) (n : Nat) (b : RtBatch) (k : RtKey), s.rt.closed.find? (·.num == n) = some b →
    (s.rt.cur.toList ++ s.rt.old).find? (·.num == b.key) = some k →
    let u := ((s.setRtClosed (s.rt.closed.filter (·.num ≠ n))).bump RT_CNT_BATCHES 1).set RT_BATCHNUM_NUM n
    let sig := beBytes 64 (Config.ed25519 k.seed (rtContext "RoughTime v1 response signature" b.srep)).toNat
    let fs := ((List.range b.leaves.length).zip b.leaves).map fun x => u.rtFrame b sig (k.certs.getD b.ver []) x.1 x.2
    exec (.batchSignatureRelease n true) s = .next ((u.onFab fun f =>
      { f with intern := SMap.set [] f.intern 22 (SMap.get [] f.intern 22 ++ rtRequests b b.leaves.length fs) }).rtWipe.rtCatch)) ∧
  (∀ (s : State), s.rtOn = false → exec .onlineKeyGenerate s = .next s ∧ exec .dailyKeyGenerate s = .next s ∧ exec .dailyKeyEffect s = .next s) ∧
  (∀ (s : State), s.rtOn = true → s.rt.cur = none → s.get SEL_TQR_TEB ≤ s.get RT_KEYELIM_ELIM → s.rt.daily = none →
    ∃ t k, exec .onlineKeyGenerate s = .next t ∧ t.rt.cur = some k ∧ k.num = s.rt.keys ∧ k.mint = s.utcNs s.now - s.rtOverlap ∧
      k.maxt = nextMidnight (s.utcNs s.now) + s.rtOverlap ∧ k.seed < 2 ^ 256 ∧ t.get RT_KEYSTAT_ONLINE = 1 ∧ t.get RT_KEYSTAT_LATE = 0 ∧
      t.free = s.free + 1) ∧
  (∀ (s : State) (c : RtKey), s.rtOn = true → s.rt.cur = some c → s.rt.replace = true → s.rt.daily = none →
    ∃ t k, exec .onlineKeyGenerate s = .next t ∧ t.rt.cur = some k ∧ k.num = s.rt.keys ∧ k.mint = s.utcNs s.now - s.rtOverlap ∧
      k.maxt = nextMidnight (s.utcNs s.now) + s.rtOverlap ∧ t.rt.replace = false) ∧
  (∀ (s : State), s.rt.replace = false → (∃ k, s.rt.cur = some k) ∨ s.get RT_KEYELIM_ELIM < s.get SEL_TQR_TEB →
    exec .onlineKeyGenerate s = .next s) ∧
  (∀ (s : State) (c : RtKey), s.rt.cur = some c →
    (s.rt.daily.isSome = true ∨ s.utcNs s.now < s.rtD c - s.rtLead → exec .dailyKeyGenerate s = .next s) ∧
    (s.rtOn = true → s.rt.daily = none → s.rtD c - s.rtLead ≤ s.utcNs s.now →
      let r := s.rtDraw (s.rtD c - s.rtOverlap) (s.rtD c + 86400 * 10 ^ 9 + s.rtOverlap)
      r.1.mint = s.rtD c - s.rtOverlap ∧ r.1.maxt = s.rtD c + 86400 * 10 ^ 9 + s.rtOverlap ∧ r.1.num = s.rt.keys ∧
      (s.utcNs s.now < s.rtD c →
        exec .dailyKeyGenerate s = .next ((r.2.onRt fun x => { x with daily := some r.1 }).set RT_KEYSTAT_NEXTREADY 1)) ∧
      (s.rtD c ≤ s.utcNs s.now → exec .dailyKeyGenerate s = .next (r.2.rtInstall r.1)))) ∧
  (∀ (s : State), s.rt.cur = none → exec .dailyKeyGenerate s = .next s) ∧
  (∀ (s : State) (k : RtKey), s.rtOn = true → s.rt.daily = some k →
    (s.utcNs s.now < k.mint + s.rtOverlap → exec .dailyKeyEffect s = .next s) ∧
    (k.mint + s.rtOverlap ≤ s.utcNs s.now → ∃ t, exec .dailyKeyEffect s = .next t ∧ t.rt.cur = some k ∧ t.rt.daily = none ∧
      t.get RT_KEYSTAT_NEXTREADY = 0 ∧ t.get RT_KEYSTAT_LATE = 0)) ∧
  (∀ (s : State), s.rtOn = true → s.rt.daily = none →
    (s.rt.cur = none → exec .dailyKeyEffect s = .next s) ∧
    (∀ c, s.rt.cur = some c →
      (s.utcNs s.now < s.rtD c ∨ s.is RT_KEYSTAT_LATE = true → exec .dailyKeyEffect s = .next s) ∧
      (s.rtD c ≤ s.utcNs s.now → s.is RT_KEYSTAT_LATE = false →
        exec .dailyKeyEffect s = .next ((s.set RT_KEYSTAT_LATE 1).raiseCond 0x4302 2 0 0))))

/-- Teasel jobs: submission, start, companion, release, abort. A submission is taken only from its own control processor
while the device is awake, after what the processor has put into its memory: it reads back status 2 when the partition's
queue holds 64 jobs, else status 1, and the job joins the queue, or ends at once with NO_ENGINE when no engine serves. A free
engine that no companion waits for takes the oldest job it may run and starts it at the next slot boundary, its checks made;
any other starts nothing. A companion starts in the same way on the engine for it, a VERIFY job that reads the outputs of its
SIGN job. At its release instant a companion is judged with its SIGN job; a job discarded by supply is handled so, a refused
one ends with its code, one whose program is not finished is late, one that a shadow or its check finds wrong is rerun, a
SIGN job waits for its companion, and a clean one of another class ends with code 0: its engine holds no job any more and one
record is appended to its ring. An abort notes its mask and waits for the next slot boundary; there the jobs not yet at their
release end ABORTED; with none asked for nothing changes. Outside these conditions nothing changes.
(spec/12_teasel_engines.md (R321, R325, R327, R331, R335 to R338)) -/
def Obligations.TeaselJobsAreSubmittedStartedAndReleased : Prop :=
  (∀ (s : State) (path : Path) (c : Fin 5) (v : Nat) (m : List (Nat × Byte)), path ≠ .cp c ∨ s.awake = false →
    exec (.tslSubmit path c v m) s = .next s) ∧
  (∀ (s : State) (c : Fin 5) (v : Nat) (m : List (Nat × Byte)), s.awake = true →
    let k := v / 2 ^ 30 % 4
    let w := m.foldl (fun s x => s.setCpMem c (x.1 % 2 ^ 32) [x.2]) s
    let u := (w.set (TSL_SUBMIT_PART c) k).set (TSL_SUBMIT_ADDR c) (v / 8)
    let j : TslJob := { cp := c, ring := if s.pw.cpFailed.contains c || s.pw.cp4Carries == some c then 4 else c, addr := v / 8 % 2 ^ 17 * 8, part := k }
    (64 ≤ (s.tslQueue k).length → exec (.tslSubmit (.cp c) c v m) s = .next (u.set (TSL_SUBMIT_STATUS c) 2)) ∧
    ((s.tslQueue k).length < 64 → (u.set (TSL_SUBMIT_STATUS c) 1).tslServing k = [] →
      exec (.tslSubmit (.cp c) c v m) s = .next ((u.set (TSL_SUBMIT_STATUS c) 1).tslEndQueued j 0x13)) ∧
    ((s.tslQueue k).length < 64 → (u.set (TSL_SUBMIT_STATUS c) 1).tslServing k ≠ [] →
      ∃ t, exec (.tslSubmit (.cp c) c v m) s = .next t ∧ t.tslQueue k = s.tslQueue k ++ [j] ∧ t.get (TSL_SUBMIT_STATUS c) = 1 ∧
        t.tsl.mem = w.tsl.mem ∧ t.tsl.engs = s.tsl.engs ∧ t.mode = s.mode) ∧
    (m = [] → w = s) ∧ (∀ x y, (s.setCpMem c x y).tsl = { s.tsl with mem := SMap.setMany 0 s.tsl.mem (2 ^ 32 * c + x) y })) ∧
  (∀ (s : State) (e : Fin 16), s.tslPart e = none ∨ s.tslFree e = false → exec (.jobStart e) s = .next s) ∧
  (∀ (s : State) (e : Fin 16) (k : Nat), s.tslPart e = some k → s.takeJob k e (s.tslQueue k) = none ∨ s.reachTick s.nextSlot = none ∨
    ((List.range 16).any fun x => s.tslWaits x && s.companionFor x e) = true → exec (.jobStart e) s = .next s) ∧
  (∀ (s u : State) (e : Fin 16) (k : Nat) (j0 j : TslJob) (q0 q : List TslJob), s.tslPart e = some k → s.tslFree e = true →
    ((List.range 16).any fun x => s.tslWaits x && s.companionFor x e) = false → s.takeJob k e (s.tslQueue k) = some (j0, q0) →
    s.reachTick s.nextSlot = some u → u.takeJob k e (u.tslQueue k) = some (j, q) →
    let d := u.tslDesc j.cp j.addr
    let input := u.cpMem j.cp d.inBase (8 * min d.inLen 8192)
    let code := u.tslCheck d input
    let v := (u.setTslQueue k q).startRun e j d input code none
    exec (.jobStart e) s = .next (if code = 5 then v.keyFault d else v)) ∧
  (∀ (s : State) (e : Nat) (j : TslJob) (d : TslDesc) (b : List Byte) (c : Nat) (g : Option Nat), e < 16 → d.jobId < 2 ^ 32 →
    ∃ r, (s.startRun e j d b c g).tslRun e = some r ∧ r.job = j ∧ r.desc = d ∧ r.input = b ∧ r.code = c ∧ r.refused = decide (c ≠ 0) ∧ r.pc = 0 ∧
      r.start = s.tb.ticks ∧ r.dur = (if c = 0 then d.slots else tChk d.n) ∧ r.signer = g ∧
      (s.startRun e j d b c g).get (TSL_E_JOBID e) = d.jobId ∧ (s.startRun e j d b c g).bit TSL_STATUS_BUSY e = true) ∧
  (∀ (s : State) (e x : Fin 16), s.tslWaits e = false ∨ s.companionFor e x = false ∨ s.reachTick s.nextSlot = none → exec (.companionStart e x) s = .next s) ∧
  (∀ (s u : State) (e x : Fin 16) (r : TslRun), s.tslWaits e = true → s.companionFor e x = true → s.reachTick s.nextSlot = some u →
    u.tslRun e = some r →
    let d := u.tslDesc r.job.cp r.desc.vdesc
    let input := u.cpMem r.job.cp d.inBase (8 * min d.inLen 8192) ++ SMap.getMany 0 r.out 0 (8 * r.desc.outLen)
    let code := if d.cls ≠ 0 ∨ d.chkEn = false then 0x01 else u.tslCheck d input
    let v := u.startRun x r.job d input code (some e)
    exec (.companionStart e x) s = .next (if code = 5 then v.keyFault d else v)) ∧
  (∀ (s : State) (e : Fin 16) (b : Bool), s.tslRun e = none → exec (.jobRelease e b) s = .next s) ∧
  (∀ (s : State) (e : Fin 16) (b : Bool) (r : TslRun), s.tslRun e = some r →
    r.waiting = true ∨ s.reachTick (r.start + 128 * r.dur) = none → exec (.jobRelease e b) s = .next s) ∧
  (∀ (s u : State) (e : Fin 16) (b : Bool) (r : TslRun) (g : Nat), s.tslRun e = some r → r.waiting = false →
    s.reachTick (r.start + 128 * r.dur) = some u → r.signer = some g →
    (u.tslRun g = none → exec (.jobRelease e b) s = .next (u.tslWipe e)) ∧
    (∀ x, u.tslRun g = some x →
      let shadow := r.shadow || (b && r.desc.cls ≠ 2 && !r.refused)
      exec (.jobRelease e b) s = .next (u.companionOver e g r x shadow))) ∧
  (∀ (s : State) (x e : Nat) (c r : TslRun) (sh : Bool),
    (c.supply = true ∨ r.supply = true → s.companionOver x e c r sh = (s.tslWipe x).tslDiscard e r) ∧
    (c.supply = false → r.supply = false → c.refused = true ∨ (c.cmd = none ∧ sh = false ∧ c.code ≠ 0) →
      s.companionOver x e c r sh = (s.tslWipe x).tslEnd e r (c.code + 0x20) (r.job.faults + 1)) ∧
    (c.supply = false → r.supply = false → c.refused = false → c.cmd = none → sh = false → c.code = 0 →
      (c.slot c.desc.chkSlot ≠ 0 → s.companionOver x e c r sh =
        ((((s.bump TSL_CNT_VERIFYFAIL 1).event 0x5003 1 (e + x * 2 ^ 4)).tslClean x).tslWipe x).tslRerun e r) ∧
      (c.slot c.desc.chkSlot = 0 → s.companionOver x e c r sh = (((s.tslClean x).tslWipe x).tslClean e).tslEnd e r 0 (r.job.faults + 1)))) ∧
  (∀ (s u : State) (e : Fin 16) (b : Bool) (r : TslRun), s.tslRun e = some r → r.waiting = false → s.reachTick (r.start + 128 * r.dur) = some u →
    r.signer = none →
    (r.supply = true → exec (.jobRelease e b) s = .next (u.tslDiscard e r)) ∧
    (r.supply = false → r.refused = true → exec (.jobRelease e b) s = .next (u.tslEnd e r r.code (r.job.faults + 1))) ∧
    (r.supply = false → r.refused = false → r.cmd.isSome = true →
      exec (.jobRelease e b) s = .next (((u.bump TSL_CNT_LATE 1).event 0x5008 1 (e + r.desc.n * 2 ^ 16)).tslRerun e r)) ∧
    (r.supply = false → r.refused = false → r.cmd = none → r.shadow = true ∨ (b = true ∧ r.desc.cls ≠ 2) ∨
        (r.desc.chkEn = true ∧ r.code = 0 ∧ r.slot r.desc.chkSlot ≠ 0) →
      exec (.jobRelease e b) s = .next (((u.bump TSL_CNT_SHADOWFAIL 1).event 0x5002 1
        (e + r.desc.cls * 2 ^ 4 + min 3 (u.get (TSL_E_FAILS e) + 1) * 2 ^ 8)).tslRerun e r)) ∧
    (r.supply = false → r.refused = false → r.cmd = none → r.shadow = false → b = false ∨ r.desc.cls = 2 →
        r.desc.chkEn = false ∨ r.code ≠ 0 ∨ r.slot r.desc.chkSlot = 0 →
      (r.code ≠ 0 → exec (.jobRelease e b) s = .next ((u.tslClean e).tslEnd e r r.code (r.job.faults + 1))) ∧
      (r.code = 0 → r.desc.cls = 2 → exec (.jobRelease e b) s = .next (u.setTslRun e { r with waiting := true })) ∧
      (r.code = 0 → r.desc.cls ≠ 2 → exec (.jobRelease e b) s = .next ((u.tslClean e).tslEnd e r 0 (r.job.faults + 1))))) ∧
  (∀ (s : State) (e : Nat) (r : TslRun) (c a : Nat), e < 16 → (s.tslEng e).leaving = false →
    (s.tslEnd e r c a).tslRun e = none ∧ (s.tslEnd e r c a).bit TSL_STATUS_BUSY e = false ∧
    (∃ x, SMap.get [] (s.tslEnd e r c a).tsl.rings r.job.ring = SMap.get [] s.tsl.rings r.job.ring ++ [x] ∧ x.head? = some r.desc.jobId) ∧
    (c ≠ 0 → (s.tslEnd e r c a).tsl.mem = s.tsl.mem) ∧ (∀ f, f ≠ e → (s.tslEnd e r c a).tslEng f = s.tslEng f)) ∧
  (∀ (s : State) (v : Nat), s.awake = false → exec (.tslAbort v) s = .next s) ∧
  (∀ (s : State) (v : Nat), s.awake = true → ∃ t, exec (.tslAbort v) s = .next t ∧ t.tsl.aborts = s.tsl.aborts ||| v % 2 ^ 16 ∧
    t.get TSL_ABORT_MASK = v % 2 ^ 16 ∧ t.get TSL_ABORT_PENDING = 1 ∧ t.tsl.engs = s.tsl.engs ∧
    t.tsl.abortAt = if s.is TSL_ABORT_PENDING then s.tsl.abortAt else s.nextSlot) ∧
  (∀ (s : State), (s.tsl.aborts = 0 ∧ s.is TSL_ABORT_PENDING = false) ∨ s.reachTick s.tsl.abortAt = none →
    exec .abortEffect s = .next s) ∧
  (∀ (s u : State), s.tsl.aborts ≠ 0 ∨ s.is TSL_ABORT_PENDING = true → s.reachTick s.tsl.abortAt = some u →
    exec .abortEffect s = .next (((u.forEach 16 fun s e => if u.tsl.aborts.testBit e && !s.relBy e u.tsl.abortAt then s.abortEngine e else s).set
      TSL_ABORT_PENDING 0).onTsl fun x => { x with aborts := 0 }))

/-- The commands of a Teasel program: LOAD to UNLOAD, modular arithmetic and the frame of a command. A command of a row runs
when the engine's next command has that row's opcode and the job is neither refused nor waiting; it writes the slots it
names, then the program steps; otherwise nothing changes. LOAD takes the words of the input area, LOADKEY the key's value,
RAND a value from 1 to M less 1 for M of at least 2, MADD, MSUB and MMUL the sum, difference and product modulo M, MEXP the
power modulo M, MINV the inverse; an exponent or operand of 0, or a number without an inverse, leaves a free slot value and
the first such code of the job. An upset puts another value into the slot of an arithmetic command. MOVE copies, or exchanges
two slots on a bit of a third; UNLOAD writes the slot's bytes, least significant first, at its offset of the output. No
command changes the local memories, the queues or another engine. (spec/12_teasel_engines.md (R323, R324, R326)) -/
def Obligations.TeaselCommandsComputeModulo : Prop :=
  (∀ (s : State) (e : Fin 16), s.tslRun e = none →
    ∀ i ∈ [Instr.loadSlot e, .loadKeySlot e, .randSlot e, .madd e none, .msub e none, .mmul e none, .minv e none, .mexp e none, .moveSlot e,
      .unloadSlot e], exec i s = .next s) ∧
  (∀ (s : State) (e : Fin 16) (r : TslRun) (c : Nat), s.tslRun e = some r → r.cmd = some c →
    (r.refused = true ∨ r.waiting = true ∨ cmdOp c ≠ 1 → exec (.loadSlot e) s = .next s) ∧
    (r.refused = true ∨ r.waiting = true ∨ cmdOp c ≠ 2 → exec (.loadKeySlot e) s = .next s) ∧
    (r.refused = true ∨ r.waiting = true ∨ cmdOp c ≠ 3 → exec (.randSlot e) s = .next s) ∧
    (r.refused = true ∨ r.waiting = true ∨ cmdOp c ≠ 4 → exec (.madd e none) s = .next s) ∧
    (r.refused = true ∨ r.waiting = true ∨ cmdOp c ≠ 5 → exec (.msub e none) s = .next s) ∧
    (r.refused = true ∨ r.waiting = true ∨ cmdOp c ≠ 6 → exec (.mmul e none) s = .next s) ∧
    (r.refused = true ∨ r.waiting = true ∨ cmdOp c ≠ 7 → exec (.minv e none) s = .next s) ∧
    (r.refused = true ∨ r.waiting = true ∨ cmdOp c ≠ 8 → exec (.mexp e none) s = .next s) ∧
    (r.refused = true ∨ r.waiting = true ∨ cmdOp c ≠ 9 → exec (.moveSlot e) s = .next s) ∧
    (r.refused = true ∨ r.waiting = true ∨ cmdOp c ≠ 10 → exec (.unloadSlot e) s = .next s)) ∧
  (∀ (s : State) (e : Fin 16) (r : TslRun) (c : Nat), s.tslRun e = some r → r.cmd = some c → r.refused = false → r.waiting = false →
    let a := r.slot (cmdA c)
    let b := r.slot (cmdB c)
    let D := cmdD c
    let frame (t : State) : Prop := t.tsl.mem = s.tsl.mem ∧ t.tsl.queues = s.tsl.queues ∧ t.mac = s.mac ∧ t.tb = s.tb ∧ t.mode = s.mode ∧
      ∀ f, f ≠ (e : Nat) → t.tslEng f = s.tslEng f
    (cmdOp c = 1 → ∃ t, exec (.loadSlot e) s = .next t ∧ t.tslRun e = some (r.put D (areaWords r.input r.desc.n (cmdImm c))).step ∧ frame t) ∧
    (cmdOp c = 2 → ∃ t, exec (.loadKeySlot e) s = .next t ∧
      t.tslRun e = some (r.put D ((((s.keyAt (r.desc.keyOf c)).map (·.value)).getD 0) % 2 ^ (64 * r.desc.n))).step ∧ frame t) ∧
    (cmdOp c = 3 → 2 ≤ r.m → ∃ t v, exec (.randSlot e) s = .next t ∧ 1 ≤ v ∧ v < r.m ∧ t.tslRun e = some (r.put D v).step ∧ frame t) ∧
    (cmdOp c = 4 → ∃ t, exec (.madd e none) s = .next t ∧ t.tslRun e = some (r.put D ((a + b) % r.m)).step ∧ frame t) ∧
    (cmdOp c = 5 → 0 < r.m → ∃ t v, exec (.msub e none) s = .next t ∧ t.tslRun e = some (r.put D v).step ∧ (v : Int) = ((a : Int) - b) % r.m ∧
      frame t) ∧
    (cmdOp c = 6 → ∃ t, exec (.mmul e none) s = .next t ∧ t.tslRun e = some (r.put D (a * b % r.m)).step ∧ frame t) ∧
    (cmdOp c = 7 → a ≠ 0 → ∀ v, invMod a r.m = some v →
      ∃ t, exec (.minv e none) s = .next t ∧ t.tslRun e = some (r.put D v).step ∧ frame t) ∧
    (cmdOp c = 7 → a = 0 ∨ invMod a r.m = none →
      ∃ t v, exec (.minv e none) s = .next t ∧ t.tslRun e = some { (r.put D v) with code := if r.code ≠ 0 then r.code else if a = 0 then 0x09 else 0x0C }.step ∧ frame t) ∧
    (cmdOp c = 8 → b % 2 ^ (64 * cmdExp c) ≠ 0 → 2 ≤ a →
      ∃ t, exec (.mexp e none) s = .next t ∧ t.tslRun e = some (r.put D (a ^ (b % 2 ^ (64 * cmdExp c)) % r.m)).step ∧ frame t) ∧
    (cmdOp c = 8 → b % 2 ^ (64 * cmdExp c) = 0 ∨ a < 2 →
      ∃ t v, exec (.mexp e none) s = .next t ∧
        t.tslRun e = some { (r.put D v) with code := if r.code ≠ 0 then r.code else if b % 2 ^ (64 * cmdExp c) = 0 then 0x09 else 0x0A }.step ∧ frame t) ∧
    (∀ x, let upset (o : Out) : Prop := ∃ t, o = .next t ∧ (t.tslRun e).map (·.slot D) = some (x % 2 ^ (64 * r.desc.n)) ∧ frame t
      (cmdOp c = 4 → upset (exec (.madd e (some x)) s)) ∧ (cmdOp c = 5 → upset (exec (.msub e (some x)) s)) ∧
      (cmdOp c = 6 → upset (exec (.mmul e (some x)) s)) ∧ (cmdOp c = 7 → a ≠ 0 → invMod a r.m ≠ none → upset (exec (.minv e (some x)) s)) ∧
      (cmdOp c = 8 → b % 2 ^ (64 * cmdExp c) ≠ 0 → 2 ≤ a → upset (exec (.mexp e (some x)) s))) ∧
    (cmdOp c = 9 → ∃ t, exec (.moveSlot e) s = .next t ∧ frame t ∧ t.tslRun e = some (TslRun.step
      (if cmdSwap c = false then r.put D a
       else if b.testBit (cmdImm c % 2 ^ 12 - r.iter) then (r.put (cmdA c) (r.slot D)).put D a else r))) ∧
    (cmdOp c = 10 → ∃ t, exec (.unloadSlot e) s = .next t ∧ frame t ∧
      t.tslRun e = some { r with out := SMap.setMany 0 r.out (8 * cmdImm c) (leBytes (8 * r.desc.n) a) }.step)) ∧
  (∀ (r : TslRun), (r.desc.lcount = 0 ∨ r.pc ≠ r.desc.lend → r.step = { r with pc := r.pc + 1 }) ∧
    (r.desc.lcount ≠ 0 → r.pc = r.desc.lend → r.iter + 1 < r.desc.lcount → r.step = { r with pc := r.desc.lstart, iter := r.iter + 1 }) ∧
    (r.desc.lcount ≠ 0 → r.pc = r.desc.lend → r.desc.lcount ≤ r.iter + 1 → r.step = { r with pc := r.pc + 1, iter := 0 }))

/-- Retirement and return of Teasel engines, and the failure of a control processor. Retiring an engine already retired reads
status 3, the last one of a partition with users status 2, and one under test is asked for after its test; an idle engine is
retired at once with event 0x500A, and the jobs of a partition it leaves empty end; a busy one is retired at the end of its
job. A restore clears a retirement that has not yet taken effect, returns an engine retired by command with its failure count
cleared, and reads status 3 for any other. The failure of a control processor is noted; the spare's own failure needs nothing
more, the failure of a second one, or of CP4 while it is needed, is fatal, and with the spare ready no queued job of the
processor stays. In OFF and BACKUP, and for a processor already failed, nothing changes. (spec/12_teasel_engines.md (R339,
R340)) -/
def Obligations.TeaselEnginesAndProcessorsRetire : Prop :=
  (∀ (s : State) (e : Fin 16), s.awake = false → exec (.tslRetireEngine e) s = .next s ∧ exec (.tslRestoreEngine e) s = .next s) ∧
  (∀ (s : State) (e : Fin 16), s.awake = true →
    let show_ (action status : Nat) : State := ((s.set TSL_RETIRE_ENGINE e).set TSL_RETIRE_ACTION action).set TSL_RETIRE_STATUS status
    (s.bit TSL_STATUS_RETIRED e = true → exec (.tslRetireEngine e) s = .next (show_ 1 3)) ∧
    (s.bit TSL_STATUS_RETIRED e = false → s.underTest (32 + e) = true → exec (.tslRetireEngine e) s = .next (show_ 1 1).retireAfter) ∧
    (s.bit TSL_STATUS_RETIRED e = false → s.underTest (32 + e) = false → s.tslSole e = true →
      exec (.tslRetireEngine e) s = .next (show_ 1 2)) ∧
    (s.bit TSL_STATUS_RETIRED e = false → s.underTest (32 + e) = false → s.tslSole e = false → s.tslIdle e = false →
      ∃ t, exec (.tslRetireEngine e) s = .next t ∧ t.tslEng e = { s.tslEng e with leaving := true } ∧ t.get TSL_RETIRE_STATUS = 1 ∧
        t.bit TSL_STATUS_RETIRED e = false) ∧
    (s.bit TSL_STATUS_RETIRED e = false → s.underTest (32 + e) = false → s.tslSole e = false → s.tslIdle e = true → s.tslPart e = none →
      ∃ t, exec (.tslRetireEngine e) s = .next t ∧ t.bit TSL_STATUS_RETIRED e = true ∧ t.bit TSL_RETCMD_RETCMD e = true ∧
        t.get TSL_RETIRE_STATUS = 1 ∧ t.tsl = s.tsl) ∧
    (∀ k, s.bit TSL_STATUS_RETIRED e = false → s.underTest (32 + e) = false → s.tslSole e = false → s.tslIdle e = true →
      let u := (show_ 1 1).tslRetireNow e
      u.bit TSL_STATUS_RETIRED e = true ∧ u.bit TSL_RETCMD_RETCMD e = true ∧
      (u.tslPart e = some k → exec (.tslRetireEngine e) s = .next (u.tslEmpty k))) ∧
    ((s.tslEng e).leaving = true → ∃ t, exec (.tslRestoreEngine e) s = .next t ∧ (t.tslEng e).leaving = false ∧
      (t.tslEng e).run = (s.tslEng e).run ∧ t.get TSL_RETIRE_STATUS = 1) ∧
    ((s.tslEng e).leaving = false → s.bit TSL_RETCMD_RETCMD e = true →
      ∃ t, exec (.tslRestoreEngine e) s = .next t ∧ t.bit TSL_STATUS_RETIRED e = false ∧ t.bit TSL_RETCMD_RETCMD e = false ∧
        t.get (TSL_E_FAILS e) = 0 ∧ t.get TSL_RETIRE_STATUS = 1) ∧
    ((s.tslEng e).leaving = false → s.bit TSL_RETCMD_RETCMD e = false → exec (.tslRestoreEngine e) s = .next (show_ 0 3))) ∧
  (∀ (s : State) (c : Fin 5), s.awake = false ∨ s.pw.cpFailed.contains (c : Nat) = true → exec (.cpFailure c) s = .next s) ∧
  (∀ (s : State), s.awake = true → s.pw.cpFailed = [] → s.pw.cp4Carries = none →
    exec (.cpFailure 4) s = .next (s.onPw fun p => { p with cpFailed := [4] })) ∧
  (∀ (s : State) (d : Nat), s.awake = true → s.pw.cpFailed = [d] → d ≠ 4 → s.pw.cp4Carries = none →
    exec (.cpFailure 4) s = .next ((s.onPw fun p => { p with cpFailed := [4, d] }).fatal 0x02)) ∧
  (∀ (s : State) (c : Fin 5), s.awake = true → s.pw.cpFailed = [4] → s.pw.cp4Carries = none → s.underTest 53 = false → (c : Nat) ≠ 4 →
    exec (.cpFailure c) s = .next ((s.onPw fun p => { p with cpFailed := [(c : Nat), 4] }).fatal 0x02)) ∧
  (∀ (s : State) (c : Fin 5), s.awake = true → s.pw.cpFailed = [] → s.pw.cp4Carries = none → s.underTest 53 = false → (c : Nat) ≠ 4 →
    ∃ t, exec (.cpFailure c) s = .next t ∧ t.pw.cpFailed = [(c : Nat)] ∧ (∀ k < 4, ∀ j ∈ t.tslQueue k, j.cp ≠ c) ∧ t.mode = s.mode)

/-- Every pair message passes the same ordered checks before it has an effect. For each received message type the lease
engine first asks whether it runs and the path is configured, then checks trailer and length (violation 1), pair identity
(2), duplicate (counted apart), version (3), sender instant against the receive instant (4), sequence (5) and type (6,
answered by NAK with reason 1). A refused message changes nothing but what its violation or NAK says. A violation is counted
and logged at most once per second. HELLO passes the checks that apply to it and then re-evaluates the reclaim conditions.
Where one row is handed a message of another known type it does nothing: that row is another command.
(spec/13_pair_redundancy.md (R365), spec/13_pair_redundancy.md (R350 to R353), notes/assumptions/62.md) -/
def Obligations.LeaseMessagesAreCheckedInOrder : Prop :=
  (∀ (s : State) (code : Nat), s.violation code = (s.bump LEASE_CNT_VIOL 1).noteSec 0x5805 code) ∧
  (∀ (s : State) (inband : Bool) (b : List Byte) (ago mk : Nat), let trecv := s.now - ago
    ∀ x ∈ [(2, Instr.statusRx inband b ago, inband), (3, Instr.renewRx inband b ago, inband), (4, Instr.ackRx inband b ago, inband),
      (5, Instr.claimRx inband b ago, inband), (6, Instr.releaseRx inband b ago, inband), (7, Instr.nakRx inband b ago, inband),
      (0x10, Instr.ttRx b ago mk, false), (0x20, Instr.replNtsRx inband b ago, inband),
      (0x21, Instr.replGrantRx inband b ago, inband), (0x22, Instr.replDoneRx inband b ago, inband)],
    (s.leaseOn = false ∨ (x.2.2 = true ∧ s.is LEASE_CFG_INBAND = false) → exec x.2.1 s = .next s) ∧
    (s.leaseOn = true → (x.2.2 = true → s.is LEASE_CFG_INBAND = true) →
      (s.leaseFrame x.2.2 b = none → exec x.2.1 s = .next (s.violation 1)) ∧
      (∀ m : LeaseMsg, s.leaseFrame x.2.2 b = some m →
        (leaseType 0x12 m.type = true ∧ m.type ≠ x.1 → exec x.2.1 s = .next s) ∧
        (leaseType 0x12 m.type = false ∨ m.type = x.1 →
          let id := s.get LEASE_PAIRID_HI_ID * 2 ^ 32 + s.get LEASE_PAIRID_LO_ID
          let skew := ((m.tsend : Int) - trecv).natAbs
          let most := s.get LEASE_TTCFG_SKEWMAX * ms1
          (m.pairId ≠ id → exec x.2.1 s = .next (s.violation 2)) ∧
          (m.pairId = id → s.lease.pBoot = some m.bootId → m.seq ∈ s.lease.pSeen → exec x.2.1 s = .next (s.leaseDup x.2.2)) ∧
          (m.pairId = id → (s.lease.pBoot ≠ some m.bootId ∨ m.seq ∉ s.lease.pSeen) →
            (m.type ≠ 1 → m.ver ≠ s.get LEASE_STATUS_VER ∨ m.ver = 0 → exec x.2.1 s = .next (s.violation 3)) ∧
            (m.type ≠ 1 → m.ver = s.get LEASE_STATUS_VER → m.ver ≠ 0 → most < skew → exec x.2.1 s = .next (s.violation 4)) ∧
            (m.type ≠ 1 → m.ver = s.get LEASE_STATUS_VER → m.ver ≠ 0 → skew ≤ most →
              (s.lease.pBoot ≠ some m.bootId ∨ m.seq < s.lease.pSeq → exec x.2.1 s = .next (s.violation 5)) ∧
              (s.lease.pBoot = some m.bootId → s.lease.pSeq ≤ m.seq → leaseType (s.get LEASE_STATUS_VER) m.type = false →
                exec x.2.1 s = .next ((s.violation 6).nak 1 m)))))))) ∧
  (∀ (s : State) (inband : Bool) (b : List Byte) (ago : Nat), let trecv := s.now - ago
    (s.leaseOn = false ∨ (inband = true ∧ s.is LEASE_CFG_INBAND = false) → exec (.helloRx inband b ago) s = .next s.reclaimEval) ∧
    (∀ m : LeaseMsg, s.leaseOn = true → (inband = true → s.is LEASE_CFG_INBAND = true) → s.leaseFrame inband b = some m → m.type = 1 →
      m.pairId = s.get LEASE_PAIRID_HI_ID * 2 ^ 32 + s.get LEASE_PAIRID_LO_ID →
      (s.lease.pBoot = some m.bootId → m.seq ∉ s.lease.pSeen ∧ s.lease.pSeq ≤ m.seq) →
      ((m.tsend : Int) - trecv).natAbs ≤ s.get LEASE_TTCFG_SKEWMAX * ms1 →
      exec (.helloRx inband b ago) s = .next (s.helloBody inband m).reclaimEval) ∧
    (s.leaseOn = true → (inband = true → s.is LEASE_CFG_INBAND = true) →
      (s.leaseFrame inband b = none → exec (.helloRx inband b ago) s = .next (s.violation 1).reclaimEval) ∧
      (∀ m : LeaseMsg, s.leaseFrame inband b = some m → m.type = 1 →
        let id := s.get LEASE_PAIRID_HI_ID * 2 ^ 32 + s.get LEASE_PAIRID_LO_ID
        let late := s.get LEASE_TTCFG_SKEWMAX * ms1 < ((m.tsend : Int) - trecv).natAbs
        (m.pairId ≠ id → exec (.helloRx inband b ago) s = .next (s.violation 2).reclaimEval) ∧
        (m.pairId = id → s.lease.pBoot = some m.bootId → m.seq ∈ s.lease.pSeen →
          exec (.helloRx inband b ago) s = .next (s.leaseDup inband).reclaimEval) ∧
        (m.pairId = id → s.lease.pBoot ≠ some m.bootId ∨ m.seq ∉ s.lease.pSeen →
          (late → exec (.helloRx inband b ago) s = .next (s.violation 4).reclaimEval) ∧
          (¬late → s.lease.pBoot = some m.bootId → m.seq < s.lease.pSeq →
            exec (.helloRx inband b ago) s = .next (s.violation 5).reclaimEval))))) ∧
  (∀ (s : State) (inband : Bool), ∃ t : State, s.leaseDup inband = t.pathShow (if inband then 1 else 0) ∧
    t.get LEASE_CNT_DUP = min (s.get LEASE_CNT_DUP + 1) (2 ^ 32 - 1) ∧ t.lease.pSeq = s.lease.pSeq ∧ t.lease.xLocal = s.lease.xLocal)

/-- STATUS, RENEW, ACK, CLAIM, RELEASE, NAK, TT and replication messages that pass the checks. A message that passes the
checks has the effect of its type: STATUS sets the partner's bounds and state and recomputes the guard; RENEW raises x_local
to the converted expiry and a device that does not hold answers with ACK; ACK of an unknown renewal is violation 9 and
otherwise, at a non-home holder, x_eff becomes at least r + L; CLAIM is answered by RELEASE or, at a holder, chooses a
renewal point, and is violation 7 at the home device; RELEASE keeps the converted release instant or is violation 8; NAK is
accepted; TT measures source PARTNER; REPL_DONE marks the replicated state current; a replication message at a holder is
violation 10. (spec/13_pair_redundancy.md (R355, R357, R360 to R362), spec/13_pair_redundancy.md (R366),
spec/13_pair_redundancy.md (R367), spec/13_pair_redundancy.md (R365, codes 7 to 10)) -/
def Obligations.PairMessagesMoveTheLeaseInstants : Prop :=
  ∀ (s : State) (inband : Bool) (b : List Byte) (ago : Nat) (m : LeaseMsg), let trecv := s.now - ago
    s.leaseOn = true → (inband = true → s.is LEASE_CFG_INBAND = true) → s.leaseFrame inband b = some m → m.type ≠ 1 →
    m.pairId = s.get LEASE_PAIRID_HI_ID * 2 ^ 32 + s.get LEASE_PAIRID_LO_ID →
    s.lease.pBoot = some m.bootId → m.seq ∉ s.lease.pSeen → s.lease.pSeq ≤ m.seq →
    m.ver = s.get LEASE_STATUS_VER → m.ver ≠ 0 → ((m.tsend : Int) - trecv).natAbs ≤ s.get LEASE_TTCFG_SKEWMAX * ms1 →
    leaseType 0x12 m.type = true → leaseType m.ver m.type = true →
    let a := s.leaseAccept inband m
    (m.type = 2 →
      let t := (((a.set LEASE_PTEB_BOUND (beNat (slice m.body 4 4))).set LEASE_PFEB_BOUND (beNat (slice m.body 8 4))).partnerIs
        (statusState m) trecv).onLease fun l => { l with pStatus := true }
      exec (.statusRx inband b ago) s = .next (if m.flags.testBit 1 then t.guard.holdSeen trecv else t.guard)) ∧
    (m.type = 3 →
      let t := (a.onLease fun l => { l with xLocal := some (max (convert (msgInst (slice m.body 12 12)) trecv m.tsend) (l.xLocal.getD 0)) }).holdSeen trecv
      exec (.renewRx inband b ago) s =
        .next (if a.leaseSt = 5 then t else t.sendLease 4 (beBytes 4 m.seq ++ slice m.body 12 12 ++ instBytes trecv))) ∧
    (m.type = 4 →
      let r := s.lease.sent.find? fun y => y.seq == beNat (m.body.take 4) && instFull y.x == instFull (msgInst (slice m.body 4 12))
      (r = none → exec (.ackRx inband b ago) s = .next (s.violation 9)) ∧
      (∀ y, r = some y → ∃ t, exec (.ackRx inband b ago) s = .next t ∧
        (a.leaseSt = 5 → a.isHome = false →
          t.lease.xEff = max a.lease.xEff (y.r + a.leaseL)) ∧
        (a.leaseSt ≠ 5 ∨ a.isHome = true → t.lease.xEff = a.lease.xEff))) ∧
    (m.type = 5 →
      let home := if s.is LEASE_STATUS_ROLECONF then !s.isHome else m.flags.testBit 0
      (home = false ∨ s.isHome = true →
        exec (.claimRx inband b ago) s = .next ((s.violation 7).nak 2 m)) ∧
      (home = true → s.isHome = false →
        exec (.claimRx inband b ago) s = .next (if a.leaseSt = 5
          then a.onLease fun l => { l with chosen := some (l.chosen.getD (a.renewalAfter trecv)) }
          else a.sendLease 6 (instBytes (a.lease.lastRel.getD trecv))))) ∧
    (m.type = 6 →
      (s.lease.pHeld = false → s.leaseSt ≠ 4 → exec (.releaseRx inband b ago) s = .next (s.violation 8)) ∧
      (s.lease.pHeld = true ∨ s.leaseSt = 4 → ∃ t, exec (.releaseRx inband b ago) s = .next t ∧
        t.lease.relLocal = some (convert (msgInst m.body) trecv m.tsend))) ∧
    (m.type = 7 → exec (.nakRx inband b ago) s = .next a) ∧
    (∀ mk : Nat, inband = false → m.type = 0x10 →
      let t4 := s.now - mk
      let u := a.onLease fun l => { l with ttRecv := some t4 }
      let t3 := msgInst (m.body.take 12)
      let t2 := msgInst (m.body.drop 12)
      (u.lease.ttSent = none ∨ t2 = 0 → exec (.ttRx b ago mk) s = .next u) ∧
      (∀ t1, u.lease.ttSent = some t1 → t2 ≠ 0 → exec (.ttRx b ago mk) s = .next
        ((((u.addDelay (divRound (((t2 : Int) - t1) + ((t4 : Int) - t3)) (2 * ns1)).toNat).bump LEASE_CNT_TT_OK 1).measure 18 t4
          (divRound (((t4 : Int) - t3) - ((t2 : Int) - t1) + u.geti LEASE_ADNASYM_ASYM) 2)).onLease fun l => { l with ttSent := none }))) ∧
    (let v := (s.violation 10).nak 3 m
     let c := a.bump LEASE_CNT_REPL_RX 1
     (m.type = 0x20 →
       (s.leaseSt = 5 ∨ s.genNewer (beNat (m.body.take 4)) = false → exec (.replNtsRx inband b ago) s = .next v) ∧
       (s.leaseSt ≠ 5 → s.genNewer (beNat (m.body.take 4)) = true →
         (∀ k, c.keyValue 2 = some k → Config.keyUnwrap k (BitVec.ofNat 320 (beNat (m.body.drop 4))) = none) →
         exec (.replNtsRx inband b ago) s = .next c) ∧
       (∀ k x, s.leaseSt ≠ 5 → s.genNewer (beNat (m.body.take 4)) = true → c.keyValue 2 = some k →
         Config.keyUnwrap k (BitVec.ofNat 320 (beNat (m.body.drop 4))) = some x →
         exec (.replNtsRx inband b ago) s = .next (c.genReceived (beNat (m.body.take 4)) x.toNat))) ∧
     (m.type = 0x21 →
       (s.leaseSt = 5 ∨ s.owns 4 (beNat (m.body.take 4)) = false → exec (.replGrantRx inband b ago) s = .next v) ∧
       (s.leaseSt ≠ 5 → s.owns 4 (beNat (m.body.take 4)) = true →
         exec (.replGrantRx inband b ago) s = .next (c.putGrant (beNat (m.body.take 4)) (decodeGrant (m.body.drop 4))))) ∧
     (m.type = 0x22 →
       (s.leaseSt = 5 → exec (.replDoneRx inband b ago) s = .next v) ∧
       (s.leaseSt ≠ 5 → exec (.replDoneRx inband b ago) s = .next ((c.set LEASE_STATUS_REPLCUR 1).event 0x580B 0 (beNat m.body)))))

/-- Renewal points, expiry, takes, claims, heartbeat, paths and what the lease engine sends. Lanes align and are lost; a path
shows silence at its limit; pulses are classified by width, an invalid width is violation 11, and HB_OUT's width follows mode
and state, a pulse each 250 us; HELLO, STATUS, CLAIM, RELEASE, markers and replication items go out at their instants, which
the row reaches; at a renewal point the holder renews or releases at the chosen point; at x_eff - G_eff it releases; LISTEN
ends into WAIT; HOMEWTR ends into CLAIM; a token taken sets the instant of the take and x_eff = t + L; DUALHOLD clears after
L; LEASE_CMD is accepted or refused by the state. Where its conditions do not hold, or a second boundary comes before its
instant, a row changes nothing. (spec/13_pair_redundancy.md (R346, R347, R349), spec/13_pair_redundancy.md (R351),
spec/13_pair_redundancy.md (R355, R357, R359 to R363), spec/13_pair_redundancy.md (R366), spec/13_pair_redundancy.md (R367),
notes/assumptions/62.md) -/
def Obligations.LeaseIsRenewedTakenReleasedAndAnnounced : Prop :=
  (∀ (s : State) (lane : Fin 2), s.awake = false → exec (.adernLaneAlign lane) s = .next s ∧ exec (.adernLaneLoss lane) s = .next s) ∧
  (∀ (s : State), s.awake = true →
    exec (.adernLaneAlign 0) s = .next { s with lease := { s.lease with lane0 := true } } ∧
    exec (.adernLaneAlign 1) s = .next { s with lease := { s.lease with lane1 := true } } ∧
    exec (.adernLaneLoss 0) s = .next { s with lease := { s.lease with lane0 := false } } ∧
    exec (.adernLaneLoss 1) s = .next { s with lease := { s.lease with lane1 := false } }) ∧
  (∀ (s : State) (k : Fin 3), s.leaseOn = false → exec (.pathSilent k) s = .next s) ∧
  (∀ (s : State) (k : Fin 3), s.leaseOn = true → s.pathLast k = none → exec (.pathSilent k) s = .next (s.setSilent k true)) ∧
  (∀ (s : State) (k : Fin 3) (t : Nat), s.leaseOn = true → s.pathLast k = some t →
    (s.reachTick (t + s.pathLimit k) = none → exec (.pathSilent k) s = .next s) ∧
    (∀ u, s.reachTick (t + s.pathLimit k) = some u → exec (.pathSilent k) s =
      .next (u.setSilent k (!(u.pathLast k).any fun t => decide (u.tb.ticks < t + u.pathLimit k))))) ∧
  (∀ (s : State) (k : Nat), s.bit LEASE_STATUS_SILENT k = true → s.setSilent k true = s) ∧
  (∀ (s : State) (w : Nat), s.leaseOn = false → exec (.heartbeatPulseRx w) s = .next s) ∧
  (∀ (s : State) (w : Nat), s.leaseOn = true →
    (w < 750 ∨ (1250 < w ∧ w < 1500) ∨ (2500 < w ∧ w < 3000) ∨ (5000 < w ∧ w < 6000) ∨ 10000 < w →
      exec (.heartbeatPulseRx w) s = .next (s.violation 11)) ∧
    (let t := (s.onLease fun l => { l with hbAt := some s.tb.ticks }).pathShow 2
     (750 ≤ w → w ≤ 1250 → exec (.heartbeatPulseRx w) s = .next (t.partnerIs 1 s.now)) ∧
     (1500 ≤ w → w ≤ 2500 → exec (.heartbeatPulseRx w) s = .next (t.partnerIs 2 s.now)) ∧
     (3000 ≤ w → w ≤ 5000 → exec (.heartbeatPulseRx w) s = .next (t.partnerIs 3 s.now)) ∧
     (6000 ≤ w → w ≤ 10000 → exec (.heartbeatPulseRx w) s = .next ((t.partnerIs 4 s.now).holdSeen (t.partnerIs 4 s.now).now)))) ∧
  (∀ (s : State), s.pulseWidth = none → exec .heartbeatEmit s = .next s) ∧
  (∀ (s : State) (w : Nat), s.pulseWidth = some w →
    (s.tb.running = false → exec .heartbeatEmit s = .next (s.emit (.heartbeat w))) ∧
    (s.tb.running = true → s.reachTick s.lease.hbNext = none → exec .heartbeatEmit s = .next s) ∧
    (∀ u, s.tb.running = true → s.reachTick s.lease.hbNext = some u →
      exec .heartbeatEmit s = .next ((u.emit (.heartbeat w)).onLease fun l => { l with hbNext := u.tb.ticks + 250000 }))) ∧
  (∀ (s : State), (s.mode = .off → s.pulseWidth = none) ∧
    (s.mode = .backup ∨ s.mode = .boot ∨ s.mode = .safe → s.pulseWidth = some 1) ∧
    (s.mode ≠ .off → s.mode ≠ .backup → s.mode ≠ .boot → s.mode ≠ .safe →
      (s.leaseSt = 0 → s.pulseWidth = none) ∧ (s.leaseSt = 1 → s.pulseWidth = some 2) ∧ (s.leaseSt = 5 → s.pulseWidth = some 8) ∧
      (s.leaseSt = 2 ∨ s.leaseSt = 3 ∨ s.leaseSt = 4 → s.pulseWidth = some 4))) ∧
  (∀ (s : State), s.leaseOn = false ∨ s.get LEASE_STATUS_VER ≠ 0 ∨ s.reachTick s.lease.helloAt = none → exec .helloSend s = .next s) ∧
  (∀ (s u : State), s.leaseOn = true → s.get LEASE_STATUS_VER = 0 → s.reachTick s.lease.helloAt = some u →
    exec .helloSend s = .next (u.sendHello.onLease fun l => { l with helloAt := 1000000000 + u.tb.ticks })) ∧
  (∀ (s : State), s.leaseOn = false ∨ s.reachTick s.lease.statusAt = none → exec .statusSend s = .next s) ∧
  (∀ (s u : State), s.leaseOn = true → s.reachTick s.lease.statusAt = some u →
    let g := u.guard
    let t := g.sendLease 2 (beBytes 1 (g.get SEL_TQR_CLASS) ++ beBytes 1 (g.get SEL_TQR_TRACE) ++ [0, 0] ++ beBytes 4 (g.get SEL_TQR_TEB) ++
      beBytes 4 (g.get SEL_TQR_FEB) ++ beBytes 2 g.wtrLeft ++ [0, 0])
    exec .statusSend s = .next (t.onLease fun l => { l with statusAt := l.statusAt + g.get LEASE_LEN_LEFF * 250000 })) ∧
  (∀ (s : State), s.leaseSt ≠ 4 ∨ s.reachTick s.lease.claimAt = none → exec .claimSend s = .next s) ∧
  (∀ (s u : State), s.leaseSt = 4 → s.reachTick s.lease.claimAt = some u →
    exec .claimSend s = .next ((u.sendLease 5 []).onLease fun l => { l with claimAt := l.claimAt + u.get LEASE_LEN_LEFF * 250000 })) ∧
  (∀ (s : State), s.lease.lastRel = none ∨ s.lease.relLeft = 0 ∨ s.leaseSt = 5 ∨ s.leaseOn = false ∨ s.reachTick s.lease.relAt = none →
    exec .releaseRepeat s = .next s) ∧
  (∀ (s u : State) (t : Nat), s.lease.lastRel = some t → s.lease.relLeft ≠ 0 → s.leaseSt ≠ 5 → s.leaseOn = true →
    s.reachTick s.lease.relAt = some u →
    let v := u.sendLease 6 (instBytes t)
    exec .releaseRepeat s = .next (v.onLease fun l => { l with relLeft := l.relLeft - 1, relAt := l.relAt + u.get LEASE_LEN_LEFF * 250000 })) ∧
  (∀ (s : State), s.leaseSt ≠ 5 ∨ s.leaseQ = 0 → exec .renewalPoint s = .next s) ∧
  (∀ (s : State), s.leaseSt = 5 → s.leaseQ ≠ 0 →
    let r := s.lease.tTake + s.lease.k * s.leaseQ
    (∀ t, s.expiryAt = some t → t < r → exec .renewalPoint s = .next s) ∧
    ((∀ t, s.expiryAt = some t → r ≤ t) →
      (s.reach r = none → exec .renewalPoint s = .next s) ∧
      (∀ u, s.reach r = some u →
        (∀ c, u.lease.chosen = some c → c ≤ r → exec .renewalPoint s = .next (u.releaseBy 8 r)) ∧
        ((∀ c, u.lease.chosen = some c → r < c) →
          let alone := decide (u.lease.rPrev ≤ u.lease.pStateAt) && (u.get LEASE_STATUS_PSTATE == 1 || u.get LEASE_STATUS_PSTATE == 2)
          let v := u.sendRenew r
          exec .renewalPoint s = .next (((v.onLease fun l => { l with
            k := l.k + 1, rPrev := r, xEff := if v.isHome || alone then max l.xEff (r + v.leaseL) else l.xEff }).updateGates).showLease))))) ∧
  (∀ (s : State), s.leaseSt ≠ 5 ∨ s.expiryAt = none → exec .leaseExpiry s = .next s) ∧
  (∀ (s : State) (t : Nat), s.leaseSt = 5 → s.expiryAt = some t → (s.reach t = none → exec .leaseExpiry s = .next s) ∧
    (∀ u, s.reach t = some u → exec .leaseExpiry s = .next (u.releaseBy 7 t))) ∧
  (∀ (s : State), s.leaseSt ≠ 2 ∨ s.reach s.lease.listenEnd = none → exec .listenHoldoffEnd s = .next s) ∧
  (∀ (s u : State), s.leaseSt = 2 → s.reach s.lease.listenEnd = some u → exec .listenHoldoffEnd s = .next (u.leaseTo 3).reclaimEval) ∧
  (∀ (s : State), s.reclaimEval.leaseSt ≠ 3 ∨ s.reclaimEval.lease.wtrFrom = none → exec .homewtrExpire s = .next s.reclaimEval) ∧
  (∀ (s : State) (t : Nat), let u := s.reclaimEval
    u.leaseSt = 3 → u.lease.wtrFrom = some t →
    (u.reachTick (1000000000 * u.get LEASE_CFG_HOMEWTR + t) = none → exec .homewtrExpire s = .next u) ∧
    (∀ v, u.reachTick (1000000000 * u.get LEASE_CFG_HOMEWTR + t) = some v →
      exec .homewtrExpire s = .next ((v.leaseTo 4).onLease fun l => { l with claimAt := v.tb.ticks }))) ∧
  (∀ (s : State), (s.leaseSt ≠ 3 ∧ (s.leaseSt ≠ 4 ∨ s.isHome = false)) ∨ s.mayTake = false ∨ s.takeRow = none → exec .tokenTake s = .next s) ∧
  (∀ (s : State) (row t : Nat), s.leaseSt = 3 ∨ (s.leaseSt = 4 ∧ s.isHome = true) → s.mayTake = true → s.takeRow = some (row, t) →
    (s.reach t = none → exec .tokenTake s = .next s) ∧ (∀ u, s.reach t = some u → exec .tokenTake s = .next (u.takeToken row))) ∧
  (∀ (s : State) (row : Nat), (s.takeToken row).lease.tTake = s.now ∧ (s.takeToken row).lease.xEff = s.now + s.leaseL) ∧
  (∀ (s : State), s.lease.relLocal = none → s.isHome = false → s.is LEASE_STATUS_ISOLATED = true → s.takeRow = none) ∧
  (∀ (s : State), s.is LEASE_STATUS_DUALHOLD = false → exec .dualholdClear s = .next s) ∧
  (∀ (s : State), s.is LEASE_STATUS_DUALHOLD = true → let n := 1000000 * s.get LEASE_LEN_LEFF + s.lease.dualAt
    (s.reachTick n = none → exec .dualholdClear s = .next s) ∧
    (∀ u, s.reachTick n = some u → exec .dualholdClear s = .next (u.set LEASE_STATUS_DUALHOLD 0))) ∧
  (∀ (s : State), s.awake = false → exec .leaseReleaseCmd s = .next s ∧ exec .leaseResyncCmd s = .next s) ∧
  (∀ (s : State), s.awake = true →
    (let ok := s.leaseSt = 5 ∧ s.get LEASE_STATUS_PSTATE = 3 ∧ s.is LEASE_STATUS_ISOLATED = false
     (¬ ok → exec .leaseReleaseCmd s = .next ((s.set LEASE_CMD_CODE 1).set LEASE_CMD_STATUS 2)) ∧
     (ok → ∃ t n, exec .leaseReleaseCmd s = .next t ∧ t.get LEASE_CMD_STATUS = 1 ∧ t.lease.chosen = some n ∧
       (∀ c, s.lease.chosen = some c → n = c) ∧ t.lease.xEff = s.lease.xEff)) ∧
    (s.leaseSt ≠ 5 → exec .leaseResyncCmd s = .next ((s.set LEASE_CMD_CODE 2).set LEASE_CMD_STATUS 2)) ∧
    (s.leaseSt = 5 → exec .leaseResyncCmd s = .next ((s.set LEASE_CMD_CODE 2).set LEASE_CMD_STATUS 1).startResync)) ∧
  (∀ (s : State) (dev : Int), s.leaseOn = false ∨ s.get LEASE_TTCFG_RATE = 0 ∨ (s.lease.lane0 = false ∧ s.lease.lane1 = false) →
    exec (.ttMarkerSend dev) s = .next s) ∧
  (∀ (s : State) (dev : Int), s.leaseOn = true → s.get LEASE_TTCFG_RATE ≠ 0 → s.lease.lane0 = true ∨ s.lease.lane1 = true →
    let n0 := s.now * s.get LEASE_TTCFG_RATE / sec1
    let next := [n0 - 1, n0, n0 + 1, n0 + 2].find? fun n => decide (s.now ≤ s.markerDue n) && s.lease.ttDue.all fun d => decide (d < s.markerDue n)
    (next = none → exec (.ttMarkerSend dev) s = .next s) ∧
    (∀ n, next = some n →
      (s.reach (s.markerDue n) = none → exec (.ttMarkerSend dev) s = .next s) ∧
      (∀ u, s.reach (s.markerDue n) = some u →
        let t1 := ((u.now : Int) + dev).toNat
        let v := (u.emit (.marker (u.markLane - 1) (s.markerDue n))).onLease fun l => { l with ttSent := some t1, ttDue := some (s.markerDue n) }
        exec (.ttMarkerSend dev) s = .next (v.sendLease 0x10 (instBytes t1 ++ instBytes (v.lease.ttRecv.getD 0)))))) ∧
  (∀ (s : State), s.leaseSt ≠ 5 ∨ s.get LEASE_STATUS_VER = 0 ∨ s.lease.repl = [] → exec .replSend s = .next s) ∧
  (∀ (s : State) (x : ReplItem) (rest : List ReplItem), s.leaseSt = 5 → s.get LEASE_STATUS_VER ≠ 0 → s.lease.repl = x :: rest →
    let u := s.onLease fun l => { l with repl := rest }
    (∀ gen, x = .nts gen → u.genKey gen = none ∨ u.keyValue 2 = none → exec .replSend s = .next u) ∧
    (∀ gen k v, x = .nts gen → u.genKey gen = some v → u.keyValue 2 = some k →
      exec .replSend s = .next (u.sendLease 0x20 (beBytes 4 gen ++ beBytes 40 (Config.keyWrap k v).toNat))) ∧
    (∀ n, x = .grant n ∨ x = .full n → exec .replSend s = .next (u.sendLease 0x21 (beBytes 4 n ++ u.entry n))) ∧
    (∀ n, x = .done n → exec .replSend s = .next ((u.sendLease 0x22 (beBytes 4 n)).event 0x580B 0 n)))

/-- A read's side effects, the checks of a register write, and the write locks. A read in OFF, of a narrower size, or of a
register that does not live has no effect; elsewhere a word read zeroes the RC fields at its address, a field of PM_RAIL.LOW
restarting from the present sample, leaves every other address's registers, and reads a MAC counter or a live counter with
its snapshot. A write is ignored while its path may not write, discarded with an event while the path is locked, ignored in
BOOT above the SYS block, at an address that does not live or is misaligned; in the association store's window it is refused
as that window says; at a command register it is the command; otherwise it sets the writable fields under clamping (SYS_IRQEN
takes the word's low nine bits). A narrower write meets the same path, lock and BOOT rules, puts its bytes into the staging
buffer, is refused in the association store's window, and elsewhere does nothing. SYS_WLOCK unlocks by its two values and
locks by any other. Locked and ignored writes leave the registers they name. (spec/00_scope.md (R9 to R11),
spec/15_management_readback.md (R402 to R404, R417), spec/08_response_fabric.md (R231), notes/assumptions/1.md) -/
def Obligations.RegistersAreReadWrittenAndLocked : Prop :=
  (∀ (s : State) (path : Path) (a : Nat) (z : Size), s.mode = .off ∨ z ≠ .word ∨ s.lives a = false → exec (.rcRead path ⟨a, z⟩) s = .next s) ∧
  (∀ (s : State) (path : Path) (a : Nat), s.mode ≠ .off → s.lives a = true → a < 0x100000 → ∃ t, exec (.rcRead path ⟨a, .word⟩) s = .next t ∧
    (∀ f ∈ regAt a, f.access = .rc → a < 0x20020 ∨ 0x20040 ≤ a → t.get f.field = 0) ∧
    (∀ r < 8, a = 0x20020 + 4 * r → t.get (PM_RAIL_LOW r) = s.get (PM_RAIL_MEAS r) % 2 ^ 16) ∧
    OnlyRegs s t (((regAt a).filter fun f => decide (f.access = .rc)).map (·.field)) ∧ t.mode = s.mode ∧ t.tb = s.tb ∧ t.mg = s.mg ∧ t.fab = s.fab) ∧
  (∀ (s : State) (path : Path) (p c : Nat), s.mode ≠ .off → p < 32 → c < 48 →
    let a := 0x100000 + 0x8000 * p + 0x4000 + 8 * c
    s.lives a = true → exec (.rcRead path ⟨a, .word⟩) s = .next ((s.portNow p).readCounter p c)) ∧
  (∀ (s : State) (path : Path) (t i : Nat), s.mode ≠ .off → t < 4 → i < 96 → s.lives (PERF_LIVE_LO t i).addr = true →
    exec (.rcRead path ⟨(PERF_LIVE_LO t i).addr, .word⟩) s = .next (s.liveRead t i)) ∧
  (∀ (s : State) (v : Nat),
    (s.awake = false → exec (.sysWlockWrite v) s = .next s) ∧
    (s.awake = true →
      (v % 2 ^ 32 = 0xA5C3 → exec (.sysWlockWrite v) s = .next ((s.set SYS_WLOCK_OMP 0).set SYS_WLOCK_SPI 0)) ∧
      (v % 2 ^ 32 = 0xA5C1 → exec (.sysWlockWrite v) s = .next (s.set SYS_WLOCK_SPI 0)) ∧
      (v % 2 ^ 32 ≠ 0xA5C3 → v % 2 ^ 32 ≠ 0xA5C1 → exec (.sysWlockWrite v) s = .next ((s.set SYS_WLOCK_OMP 1).set SYS_WLOCK_SPI 1)))) ∧
  (∀ (s : State) (path : Path) (a v : Nat) (z : Size),
    (s.awake = false ∨ (path = .omp ∧ s.is SYS_OMPCFG_WRITE = false) → exec (.registerWrite path ⟨a, z⟩ v) s = .next s) ∧
    (s.awake = true → (path = .omp → s.is SYS_OMPCFG_WRITE = true) →
      (s.locked path = true → a ≠ 0x200 ∨ z ≠ .word → ∃ t, exec (.registerWrite path ⟨a, z⟩ v) s = .next t ∧ t.tb = s.tb ∧ t.mode = s.mode ∧
        OnlyRegs s t [SYS_SPISTAT_LOCKED, SYS_OMPSTAT_LOCKED]) ∧
      (s.locked path = false ∨ (a = 0x200 ∧ z = .word) →
        (s.mode = .boot → 0x1000 ≤ a ∨ z ≠ .word → exec (.registerWrite path ⟨a, z⟩ v) s = .next s) ∧
        (z = .word → s.mode ≠ .boot ∨ a < 0x1000 →
          (s.lives a = false → exec (.registerWrite path ⟨a, z⟩ v) s = .next s) ∧
          (s.lives a = true →
            (0x10000000 ≤ a → a < 0x13420000 → exec (.registerWrite path ⟨a, z⟩ v) s = .next (s.windowWrite a)) ∧
            (a < 0x10000000 ∨ 0x13420000 ≤ a →
              (a % 4 ≠ 0 → isWindow a = false → exec (.registerWrite path ⟨a, z⟩ v) s = .next s) ∧
              (a % 4 = 0 ∨ isWindow a = true →
                (∀ t, s.command path none a (v % 2 ^ 32) = some t → exec (.registerWrite path ⟨a, z⟩ v) s = .next t) ∧
                (s.command path none a (v % 2 ^ 32) = none →
                  exec (.registerWrite path ⟨a, z⟩ v) s = .next (s.fieldWrite path a (v % 2 ^ 32)) ∧
                  (writable (match path with | .cp _ => true | _ => false) a = [] → exec (.registerWrite path ⟨a, z⟩ v) s = .next s)))))) ∧
        (z ≠ .word → s.mode ≠ .boot →
          (a < 0x710000 ∨ (0x711000 ≤ a ∧ a < 0x10000000) ∨ 0x13420000 ≤ a → exec (.registerWrite path ⟨a, z⟩ v) s = .next s) ∧
          (0x10000000 ≤ a → a < 0x13420000 → exec (.registerWrite path ⟨a, z⟩ v) s = .next (s.windowWrite a)))))) ∧
  (∀ (s : State) (path : Path) (v : Nat), s.awake = true → s.mode ≠ .boot → (path = .omp → s.is SYS_OMPCFG_WRITE = true) → s.locked path = false →
    (∃ t, exec (.registerWrite path ⟨0x214, .word⟩ v) s = .next t ∧ t.get SYS_IRQEN_EN = v % 2 ^ 9) ∧
    (∀ o < 0x1000,
      exec (.registerWrite path ⟨0x710000 + o, .word⟩ v) s = .next { s with boot := { s.boot with
        staging := SMap.setMany 0 s.boot.staging o ((leBytes 4 (v % 2 ^ 32)).take (0x1000 - o)) } } ∧
      exec (.registerWrite path ⟨0x710000 + o, .half⟩ v) s = .next { s with boot := { s.boot with
        staging := SMap.setMany 0 s.boot.staging o (((leBytes 4 v).take 2).take (0x1000 - o)) } } ∧
      exec (.registerWrite path ⟨0x710000 + o, .byte⟩ v) s = .next { s with boot := { s.boot with
        staging := SMap.setMany 0 s.boot.staging o [BitVec.ofNat 8 v] } }))

/-- Snapshot TAKE, READY, RELEASE and expiry, alarm acknowledgement, and the event-log writer. TAKE from a path that may hold
the shadow latches a copy, and the instant it was taken, when the shadow is free or held ready by that path, and is refused
otherwise; READY announces it with a new number; RELEASE by the holder, and HOLDMAX seconds after READY, free it; anything
else leaves the shadow. SYS_ALARMACK clears every acknowledgeable alarm of the code and is refused when there is none. The
event-log writer takes the oldest event of one source, writes it to the slot of the next sequence number with the count of
events lost, leaves other sources' events waiting, and pushes the entry to each session subscribed at its severity.
(spec/15_management_readback.md (R418 to R420), spec/15_management_readback.md (R422 to R425)) -/
def Obligations.SnapshotsAlarmsAndTheEventLogFollowTheirCommands : Prop :=
  (∀ (s : State) (path : Path), s.awake = false ∨ (path = .omp ∧ s.is SYS_OMPCFG_WRITE = false) ∨ (∃ n, path = .cp n) →
    exec (.snapTake path) s = .next s ∧ exec (.snapRelease path) s = .next s) ∧
  (∀ (s : State) (path : Path) (h : Nat), s.awake = true → (path = .spi ∧ h = 1) ∨ (path = .omp ∧ h = 2 ∧ s.is SYS_OMPCFG_WRITE = true) →
    (s.get SYS_SNAP_STATE = 0 ∨ (s.get SYS_SNAP_STATE = 2 ∧ s.get SYS_SNAP_HOLDER = h) →
      let u := (s.set SYS_SNAP_CMD 1).tick
      ∃ t, exec (.snapTake path) s = .next t ∧ t.mg.shadow = some u.view ∧ t.get SYS_SNAP_STATUS = 1 ∧ t.get SYS_SNAP_STATE = 1 ∧
        t.get SYS_SNAP_HOLDER = h ∧ (∀ i < 3, t.get (SYS_SNAPTIME_TS i) = instWord u.now i) ∧ t.tb = u.tb ∧ t.mode = u.mode) ∧
    (s.get SYS_SNAP_STATE ≠ 0 → s.get SYS_SNAP_STATE ≠ 2 ∨ s.get SYS_SNAP_HOLDER ≠ h →
      exec (.snapTake path) s = .next ((s.set SYS_SNAP_CMD 1).set SYS_SNAP_STATUS 2)) ∧
    (s.get SYS_SNAP_STATE = 2 → s.get SYS_SNAP_HOLDER = h → ∃ t, exec (.snapRelease path) s = .next t ∧ t.mg.shadow = none ∧
      t.get SYS_SNAP_STATE = 0 ∧ t.get SYS_SNAP_HOLDER = 0 ∧ t.get SYS_SNAP_STATUS = 1 ∧ t.tb = s.tb ∧
      OnlyRegs s t [SYS_SNAP_CMD, SYS_SNAP_STATUS, SYS_SNAP_STATE, SYS_SNAP_HOLDER]) ∧
    (s.get SYS_SNAP_STATE ≠ 2 ∨ s.get SYS_SNAP_HOLDER ≠ h →
      exec (.snapRelease path) s = .next ((s.set SYS_SNAP_CMD 2).set SYS_SNAP_STATUS 2))) ∧
  (∀ (s : State), s.get SYS_SNAP_STATE ≠ 1 → exec .snapReady s = .next s) ∧
  (∀ (s : State), s.get SYS_SNAP_STATE = 1 → ∃ t, exec .snapReady s = .next t ∧ t.get SYS_SNAP_STATE = 2 ∧
    t.get SYS_SNAP_SEQ = (s.get SYS_SNAP_SEQ + 1) % 2 ^ 12 ∧ t.mg.snapReady = s.tb.ticks ∧ t.mg.shadow = s.mg.shadow ∧
    (t.get SYS_IRQSTAT_SRC).testBit 2 = true ∧ t.tb = s.tb) ∧
  (∀ (s : State), s.get SYS_SNAP_STATE ≠ 2 → exec .snapHoldExpire s = .next s) ∧
  (∀ (s : State), s.get SYS_SNAP_STATE = 2 → s.mg.snapReady + s.get SYS_SNAP_HOLDMAX * 1000000000 ≤ s.tb.ticks →
    exec .snapHoldExpire s = .next s.snapFree) ∧
  (∀ (s : State), s.get SYS_SNAP_STATE = 2 → s.tb.ticks < s.mg.snapReady + s.get SYS_SNAP_HOLDMAX * 1000000000 →
    let due := 1000000000 * s.get SYS_SNAP_HOLDMAX + s.mg.snapReady
    (s.reachTick due = none → exec .snapHoldExpire s = .next s) ∧
    (∀ u, s.reachTick due = some u → exec .snapHoldExpire s = .next u.snapFree)) ∧
  (∀ (s : State), s.snapFree.get SYS_SNAP_STATE = 0 ∧ s.snapFree.get SYS_SNAP_HOLDER = 0 ∧ s.snapFree.mg.shadow = none ∧
    OnlyRegs s s.snapFree [SYS_SNAP_STATE, SYS_SNAP_HOLDER] ∧ s.snapFree.tb = s.tb) ∧
  (∀ (s : State) (path : Path) (c : Nat), s.awake = false ∨ (path = .omp ∧ s.is SYS_OMPCFG_WRITE = false) →
    exec (.alarmAck path c) s = .next s) ∧
  (∀ (s : State) (path : Path) (c : Nat), s.awake = true → (path = .omp → s.is SYS_OMPCFG_WRITE = true) →
    ((∀ a ∈ s.mg.alarms, a.code ≠ c % 2 ^ 16 ∨ a.ackable = false) →
      exec (.alarmAck path c) s = .next ((s.set SYS_ALARMACK_CODE (c % 2 ^ 16)).set SYS_ALARMACK_STATUS 2)) ∧
    ((∃ a ∈ s.mg.alarms, a.code = c % 2 ^ 16 ∧ a.ackable = true) → ∃ t, exec (.alarmAck path c) s = .next t ∧
      t.get SYS_ALARMACK_STATUS = 1 ∧ (∀ a, a ∈ t.mg.alarms ↔ a ∈ s.mg.alarms ∧ (a.code ≠ c % 2 ^ 16 ∨ a.ackable = false)) ∧
      (t.get SYS_IRQSTAT_SRC).testBit 1 = true ∧ t.mode = s.mode)) ∧
  (∀ (s : State), s.nextLogSource = none → exec .eventLogWrite s = .next s) ∧
  (∀ (s : State) (src : Nat) (e : EventRec) (rest : List EventRec), s.nextLogSource = some (src, e :: rest) →
    let k := (s.get SYS_EVTSEQ_SEQ + 1) % 2 ^ 32
    ∃ u : State, exec .eventLogWrite s = .next (u.forEach 8 fun t n =>
        if 1 ≤ t.get (SYS_OMPSESS_SUBSEV n) ∧ t.get (SYS_OMPSESS_SUBSEV n) ≤ e.sev + 1 then t.ompPush n 0x0A (t.logEntry (k % 4096)) else t) ∧
      u.get SYS_EVTSEQ_SEQ = k ∧ u.get (EVLOG_SEQA (k % 4096)) = k ∧ u.get (EVLOG_SEQB (k % 4096)) = k ∧
      u.get (EVLOG_DROPN (k % 4096)) = min (SMap.get 0 s.mg.evLost src) (2 ^ 12 - 1) ∧
      u.mg.evPending = SMap.set [] s.mg.evPending src rest ∧ u.mg.evLost = SMap.set 0 s.mg.evLost src 0 ∧
      (s.get SYS_IRQCFG_MINSEV ≤ e.sev → (u.get SYS_IRQSTAT_SRC).testBit 0 = true) ∧
    ∃ t, exec .eventLogWrite s = .next t ∧ t.get SYS_EVTSEQ_SEQ = k ∧ t.get (EVLOG_SEQA (k % 4096)) = k ∧ t.get (EVLOG_SEQB (k % 4096)) = k ∧
      t.get (EVLOG_CODE (k % 4096)) = e.code % 2 ^ 16 ∧ t.get (EVLOG_ARG (k % 4096)) = e.arg % 2 ^ 32 ∧ t.get (EVLOG_SEV (k % 4096)) = e.sev % 4 ∧
      t.mg.evRot = src ∧ t.tb = s.tb ∧ t.mode = s.mode)

/-- SPI writes, reads, replays, bad opcodes and transactions cut short. The SPI target does nothing in OFF. A write whose CRC
fails is counted and answered with status bit 0 and writes nothing; one whose CRC holds writes its words in address order
from the header's address and is answered with the lock and unmapped bits. A read stores a response that SPI_REPLAY emits
again unchanged. A transaction cut short before its header is complete, or a write cut short, only marks the next status; a
read whose header is complete has fetched its words. An unknown opcode is counted. (spec/15_management_readback.md (R405 to
R408)) -/
def Obligations.SpiTransactionsAreCheckedAnsweredAndReplayed : Prop :=
  (∀ (s : State) (b : List Byte), s.mode = .off → exec (.spiWrite b) s = .next s ∧ exec (.spiRead b) s = .next s ∧
    exec (.spiCsEarlyRise b) s = .next s ∧ exec .spiReplay s = .next s ∧ exec .spiBadOpcode s = .next s) ∧
  (∀ (s : State) (b : List Byte), s.mode ≠ .off → writeOp b = true → b.length = 7 + 4 * spiWords b →
    (spiCrcOk b = false →
      let u := (s.bump SYS_SPISTAT_CRCERR 1).noteSec 0x0120 0
      exec (.spiWrite b) s = .next ({ u with mg := { u.mg with spiEarly := false } }.emit
        (.spi (spiResponse (1 + if u.mg.spiEarly then 8 else 0) [])))) ∧
    (spiCrcOk b = true →
      let a := spiAddr b
      let n := spiWords b
      let u := s.writeMany .spi none a (bytesWords n (b.drop 6))
      let lock := if s.meetsLock .spi none a (bytesWords n (b.drop 6)) then 2 else 0
      exec (.spiWrite b) s = .next ({ u with mg := { u.mg with spiEarly := false } }.emit
        (.spi (spiResponse (lock + (if holes a n then 4 else 0) + if u.mg.spiEarly then 8 else 0) []))))) ∧
  (∀ (s : State) (b : List Byte), writeOp b = false ∨ b.length ≠ 7 + 4 * spiWords b → exec (.spiWrite b) s = .next s) ∧
  (∀ (s : State) (path : Path) (port : Option (Fin 32)) (a v : Nat) (l : List Nat),
    s.writeMany path port a [] = s ∧ s.writeMany path port a (v :: l) = (s.regWrite path port a v).writeMany path port (a + 4) l) ∧
  (∀ (s : State) (path : Path) (port : Option (Fin 32)) (a v : Nat) (l : List Nat),
    s.meetsLock path port a [] = false ∧ s.meetsLock path port a (v :: l) =
      ((s.pathOpen path && s.locked path && decide (a ≠ 0x200)) || (s.regWrite path port a v).meetsLock path port (a + 4) l)) ∧
  (∀ (s : State) (b : List Byte), readOp b = false ∨ b.length ≠ 7 → exec (.spiRead b) s = .next s) ∧
  (∀ (s : State) (b : List Byte), s.mode ≠ .off → readOp b = true → b.length = 7 →
    (spiCrcOk b = false →
      let u := (s.bump SYS_SPISTAT_CRCERR 1).noteSec 0x0120 0
      let r := spiResponse (1 + if u.mg.spiEarly then 8 else 0) []
      exec (.spiRead b) s = .next ({ u with mg := { u.mg with spiEarly := false, spiStored := r } }.emit (.spi r))) ∧
    (spiCrcOk b = true →
      let u := (s.readMany (spiAddr b) (spiWords b)).2
      let r := spiResponse ((if holes (spiAddr b) (spiWords b) then 4 else 0) + if u.mg.spiEarly then 8 else 0)
        (wordBytes (s.readMany (spiAddr b) (spiWords b)).1)
      exec (.spiRead b) s = .next ({ u with mg := { u.mg with spiEarly := false, spiStored := r } }.emit (.spi r)))) ∧
  (∀ (s : State), s.mode ≠ .off → (s.mg.spiStored = [] → exec .spiReplay s = .next s) ∧
    (s.mg.spiStored ≠ [] → exec .spiReplay s = .next (s.emit (.spi s.mg.spiStored)))) ∧
  (∀ (s : State), s.mode ≠ .off → exec .spiBadOpcode s = .next (s.bump SYS_SPISTAT_BADOP 1)) ∧
  (∀ (s : State) (b : List Byte), s.mode ≠ .off →
    (readOp b = true → 7 ≤ b.length → exec (.spiCsEarlyRise b) s = .next (s.spiFetch (b.take 7))) ∧
    (readOp b = true → b.length < 7 → exec (.spiCsEarlyRise b) s = .next { s with mg := { s.mg with spiEarly := true } }) ∧
    (readOp b = false → writeOp b = true → b.length < 6 ∨ b.length < 7 + 4 * spiWords b →
      exec (.spiCsEarlyRise b) s = .next { s with mg := { s.mg with spiEarly := true } }) ∧
    (readOp b = false → writeOp b = false → exec (.spiCsEarlyRise b) s = .next s))

/-- OMP sessions open, serve reads, writes and frames, refuse by reason, and close. A message that does not reach the
management partition, or while no OMP key is held, changes nothing. OPEN with a bad HMAC is counted and dropped; a bad
length, version, transport or a full table is refused by its NAK reason, the transport's also by the end of the connection;
else a session opens in the lowest free slot. A session message with a bad HMAC is counted and dropped, an unknown session is
NAK 1, a repeated SEQ is answered again unchanged, a SEQ older than the 64 remembered is dropped; then an unknown type for
the version, a bad length and a forbidden write are NAK 3, 6 and 5, and the words of a WRITE that the lock keeps out are
counted. Otherwise READ, WRITE, READ_GROUP, SUBSCRIBE, FRAME_TX and CLOSE have their effects and answers. A message of no
type a host sends arrives as OMP_READ; a type of another row leaves a row idle. Idle time and the end of a TCP connection
close sessions. (spec/15_management_readback.md (R409 to R416), notes/assumptions/59.md, notes/assumptions/64.md) -/
def Obligations.OmpMessagesAreAcceptedAnsweredOrRefused : Prop :=
  (∀ (s : State) (m : OmpIn), s.ompReaches m = false ∨ m.type ≠ 1 ∨ s.ompKey = none → exec (.ompOpen m) s = .next s) ∧
  (∀ (s : State) (m : OmpIn) (key : List Byte), s.ompReaches m = true → m.type = 1 → s.ompKey = some key →
    (m.signed key = false → exec (.ompOpen m) s = .next ((s.bump SYS_OMPSTAT_AUTHFAIL 1).noteSec 0x0122 0)) ∧
    (m.signed key = true →
      let lo := beNat (slice m.body 16 1)
      let hi := beNat (slice m.body 17 1)
      (m.lenOk = false ∨ m.len ≠ 20 → exec (.ompOpen m) s = .next (s.ompNakOut key m 6)) ∧
      (m.lenOk = true → m.len = 20 →
        ((hi < 0x10 ∨ 0x21 < lo ∨ hi < lo ∨ (0x11 < lo ∧ hi < 0x20)) →
          exec (.ompOpen m) s = .next ((s.event 0x0124 1 (lo + hi * 2 ^ 8)).ompNakOut key m 2)) ∧
        (∀ v, ompVersion lo hi = some v →
          (m.transport = 1 → v < 0x20 → exec (.ompOpen m) s = .next ((s.ompNakOut key m 2).tcpSend m.port m.peer (s.get SYS_OMPCFG_PORT)
            ((s.draw % 2 ^ 32 + 60) % 2 ^ 32) 0x11 [])) ∧
          (m.transport ≠ 1 ∨ 0x20 ≤ v →
            ((∀ k < 8, s.is (SYS_OMPSESS_OPEN k) = true) ∨ s.connBusy m = true → exec (.ompOpen m) s = .next (s.ompNakOut key m 4)) ∧
            (∀ k < 8, s.is (SYS_OMPSESS_OPEN k) = false → (∀ j < k, s.is (SYS_OMPSESS_OPEN j) = true) → s.connBusy m = false →
              ∃ t, exec (.ompOpen m) s = .next t ∧ t.is (SYS_OMPSESS_OPEN k) = true ∧ t.get (SYS_OMPSESS_VER k) = v ∧
                t.get (SYS_OMPSESS_TRANSPORT k) = m.transport ∧ t.get (SYS_OMPSESS_ID k) ≠ 0 ∧ (t.ompSession k).isSome = true ∧
                t.free = s.free + (if m.transport = 1 then 4 else 3) ∧ (t.ompSession k).elim False fun o =>
                  o.seen = [m.seq] ∧ o.conn = m.conn ∧ o.lastActive = s.tb.ticks ∧ o.devSeq = 1)))))) ∧
  (∀ (s : State) (key : List Byte) (m : OmpIn) (r : Nat),
    s.ompNakOut key m r = (s.bump SYS_OMPSTAT_NAK 1).drawn.ompSend m.port m.transport m.peer (s.draw % 2 ^ 32)
      (ompMessage key 0 8 m.id 1 (beBytes 4 r ++ beBytes 1 m.type ++ beBytes 3 0 ++ beBytes 4 m.seq))) ∧
  (∀ (s : State) (p seq : Nat) (x : Far) (b : List Byte),
    s.ompSend p 0 x seq b = s.peerSend p x 17 (udpBytes x.self x.addr (s.get SYS_OMPCFG_PORT) x.port b) ∧
    s.ompSend p 1 x seq b = s.tcpStream p x (s.get SYS_OMPCFG_PORT) seq 0x18 (b.length / 1024) b ∧
    s.ompSend p 2 x seq b = s.originate p 6 (ethHeader x.mac (s.macAddr p) (s.vlanTags p x.vlan) (s.get SYS_OMPETYPE_ETYPE) ++ b) {} none) ∧
  (∀ (s : State) (m : OmpIn) (p : Fin 32) (cls : Fin 8) (d : TxDesc) (frame : List Byte),
    ∀ x ∈ [(3, Instr.ompRead m, fun k (s : State) => s.ompRead m k), (5, Instr.ompWrite m, fun k s => s.ompWrite m k),
      (0x0D, Instr.ompReadGroup m, fun k s => s.ompReadGroup m k), (9, Instr.ompSubscribe m, fun k s => s.ompSubscribe m k),
      (7, Instr.ompClose m, fun k s => s.ompCloseSlot k 0), (0x0C, Instr.ompFrameTx m p cls d frame, fun k s => s.ompFrameTx m p cls d frame k)],
    let mine := m.type = x.1 ∨ (x.1 = 3 ∧ m.type ≠ 1 ∧ typeVersion m.type = none)
    (¬ mine → exec x.2.1 s = .next s) ∧
    (mine → s.ompReaches m = false ∨ s.ompKey = none → exec x.2.1 s = .next s) ∧
    (∀ key, mine → s.ompReaches m = true → s.ompKey = some key →
      (s.ompSlot m.id = none →
        (m.signed key = false → exec x.2.1 s = .next s.ompAuthFail) ∧
        (m.signed key = true → exec x.2.1 s = .next (s.ompNakOut key m 1))) ∧
      (∀ k o, s.ompSlot m.id = some k → s.ompSession k = some o →
        (m.signed (beBytes 32 o.key.toNat) = false → exec x.2.1 s = .next s.ompAuthFail) ∧
        (m.signed (beBytes 32 o.key.toNat) = true →
          (m.seq ∈ o.seen →
            (∀ a, (o.answers.find? fun y => y.1 == m.seq) = some a → exec x.2.1 s = .next (s.ompOut k m.port m.transport m.peer a.2)) ∧
            ((∀ a ∈ o.answers, a.1 ≠ m.seq) → exec x.2.1 s = .next s)) ∧
          (m.seq ∉ o.seen → o.seen.length = 64 → (∀ q ∈ o.seen, m.seq < q) → exec x.2.1 s = .next s) ∧
          (m.seq ∉ o.seen → o.seen.length ≠ 64 ∨ (∃ q ∈ o.seen, q ≤ m.seq) →
            let u := s.setOmpSession k (some { o with seen := seenWith o.seen m.seq, lastActive := s.tb.ticks })
            let known := ∃ v, typeVersion m.type = some v ∧ v ≤ u.get (SYS_OMPSESS_VER k)
            (¬ known → exec x.2.1 s = .next (u.ompNak k m 3)) ∧
            (known → ompShape m = false → exec x.2.1 s = .next (u.ompNak k m 6)) ∧
            (known → ompShape m = true → m.type = 5 ∨ m.type = 0x0C → u.ompWrites = false → m.type ≠ 5 ∨ u.is SYS_WLOCK_OMP = false →
              exec x.2.1 s = .next (u.ompNak k m 5)) ∧
            (known → ompShape m = true → m.type = 5 → u.is SYS_WLOCK_OMP = true →
              exec x.2.1 s = .next ((u.forEach (beNat (slice m.body 4 4)) fun v _ => v.lockDiscard .omp).ompNak k m 5)) ∧
            (known → ompShape m = true → (m.type = 5 ∨ m.type = 0x0C → u.ompWrites = true) → exec x.2.1 s = .next (x.2.2 k u))))))) ∧
  (∀ (s : State) (k : Nat) (m : OmpIn) (o : OmpSession), s.ompSession k = some o →
    s.ompRead m k = (s.readMany (ompAddr m) (ompWords m)).2.ompAnswer k m 4
      (beBytes 4 (if holes (ompAddr m) (ompWords m) then 4 else 0) ++ wordBytes (s.readMany (ompAddr m) (ompWords m)).1) ∧
    s.ompWrite m k = (s.writeMany .omp (some m.port) (ompAddr m) (bytesWords (ompWords m) (m.body.drop 8))).ompAnswer k m 6
      (beBytes 4 (if holes (ompAddr m) (ompWords m) then 4 else 0) ++ beBytes 4 (ompWords m)) ∧
    (s.wordAt (ompAddr m) ≠ s.wordAt (ompAddr m + 4 * (ompWords m - 1)) →
      s.ompReadGroup m k = s.ompAnswer k m 4 (beBytes 4 ((if holes (ompAddr m) (ompWords m) then 4 else 0) + 8))) ∧
    (s.wordAt (ompAddr m) = s.wordAt (ompAddr m + 4 * (ompWords m - 1)) → s.ompReadGroup m k = s.ompRead m k) ∧
    (k < 8 → (s.ompSubscribe m k).get (SYS_OMPSESS_SUBSEV k) = min 4 (beNat (m.body.take 1))) ∧ (s.ompSubscribe m k).out = s.out ∧
    (s.ompSubscribe m k).fab = s.fab ∧
    (∀ (p cls : Nat) (d : TxDesc) (frame : List Byte),
      (s.frameRefused p d frame = true → s.ompFrameTx m p cls d frame k = s.ompAnswer k m 0x0E (beBytes 4 0x10 ++ beBytes 4 d.tag)) ∧
      (s.frameRefused p d frame = false → s.ompFrameTx m p cls d frame k =
        (s.submit { port := p, cls := cls, bytes := frame, desc := d, host := true }).ompAnswer k m 0x0E (beBytes 4 0 ++ beBytes 4 d.tag)) ∧
      (s.frameRefused p d frame = true ↔
        (d.op ≠ 0 ∧ d.op ≠ 5) ∨ s.portExists p = false ∨ s.get (MAC_CFG_MAXLEN p) < frame.length + 4))) ∧
  (∀ (s : State) (k : Nat), s.is (SYS_OMPSESS_OPEN k) = true → k < 8 → ∀ c, (s.ompCloseSlot k c).is (SYS_OMPSESS_OPEN k) = false ∧
    (s.ompCloseSlot k c).ompSession k = none ∧ ∀ j < 8, j ≠ k → (s.ompCloseSlot k c).is (SYS_OMPSESS_OPEN j) = s.is (SYS_OMPSESS_OPEN j)) ∧
  (∀ (s : State) (k : Fin 8), s.ompSession k = none → exec (.ompIdleTimeout k) s = .next s) ∧
  (∀ (s : State) (k : Fin 8) (o : OmpSession), s.ompSession k = some o →
    let due := 1000000000 * s.get SYS_OMPCFG_IDLE + o.lastActive
    (due ≤ s.tb.ticks → exec (.ompIdleTimeout k) s = .next (s.ompCloseSlot k 1)) ∧
    (s.reachTick due = none → exec (.ompIdleTimeout k) s = .next s) ∧
    (∀ u, s.reachTick due = some u → exec (.ompIdleTimeout k) s = .next (u.ompCloseSlot k 1))) ∧
  (∀ (s : State) (c : Nat), ∃ t, exec (.ompConnectionEnd c) s = .next t ∧ t.tb = s.tb ∧ t.mode = s.mode ∧
    ∀ k < 8, (s.get (SYS_OMPSESS_TRANSPORT k) = 1 ∧ (∃ o, s.ompSession k = some o ∧ o.conn = c) → s.is (SYS_OMPSESS_OPEN k) = true →
        t.is (SYS_OMPSESS_OPEN k) = false) ∧
      (s.get (SYS_OMPSESS_TRANSPORT k) ≠ 1 ∨ (∀ o, s.ompSession k = some o → o.conn ≠ c) → t.is (SYS_OMPSESS_OPEN k) = s.is (SYS_OMPSESS_OPEN k)))

/-- BIST_CTL START and STOP, and how a test ends. In OFF and BACKUP BIST_CTL does nothing. A START is refused for the first
reason that applies, with the reason, STATUS 2 and event 0x6005; otherwise STATUS is 1, the unit is under test, its result
block shows a run in progress and one more run. A unit that has no role to leave is tested in place. STOP of a unit not under
test is refusal 7; of a unit under test it ends with INCOMPLETE, CAUSE 1 and a pattern count below the programmed one, a free
value. A test ends when its unit is out of its role, a replica's when its 10 s are over: INCOMPLETE when its count differs
from the programmed one, else PASS by the unit's criterion with FAIL cleared, else FAIL with FAIL set; its kind is then free.
The criterion is the golden signature, of both voters for the vote checker, no calibration failure for a TDC channel, and no
mismatch with offsets of at most 20 ps for a replica. (spec/16_campion_self_test.md (R432, R433),
spec/16_campion_self_test.md (R435 to R437, R439), notes/assumptions/18.md (the count of a test cut short: DESIGN CHOICE)) -/
def Obligations.SelfTestsStartStopAndEndByTheirRows : Prop :=
  (∀ (s : State) (path : Path) (u : Fin 128) (port : Option (Fin 32)), s.awake = false →
    exec (.bistStart path u port) s = .next s ∧ exec (.bistStop u) s = .next s) ∧
  (∀ (s : State) (path : Path) (u : Fin 128) (port : Option (Fin 32)), s.awake = true →
    let w := (s.set BIST_CTL_UNIT u).set BIST_CTL_ACTION 1
    (∀ r, w.bistRefuse path u port = some r →
      exec (.bistStart path u port) s = .next (((w.set BIST_CTL_STATUS 2).set BIST_STATUS_REFUSE r).event 0x6005 1 (u + r * 2 ^ 8))) ∧
    (w.bistRefuse path u port = none → ∃ t, exec (.bistStart path u port) s = .next t ∧ t.get BIST_CTL_STATUS = 1 ∧ t.underTest u = true ∧
      t.get (BIST_RESULT_RESULT u) = 1 ∧ t.get (BIST_RESULT_CAUSE u) = 0 ∧ t.get (BIST_RESULT_COUNT u) = 0 ∧
      t.get (BIST_RESULT_RUNS u) = min (s.get (BIST_RESULT_RUNS u) + 1) 65535 ∧
      t.get (BIST_RESULT_PROG u) = s.progCount ((unitType u).getD 0) % 2 ^ 32 ∧ t.get (BIST_RESULT_FAIL u) = s.get (BIST_RESULT_FAIL u)) ∧
    (w.bistRefuse path u port = none → u.val = 48 ∨ (54 ≤ u.val ∧ u.val < 58) ∨ (96 ≤ u.val ∧ u.val < 101) →
      exec (.bistStart path u port) s = .next
        ((((w.set BIST_CTL_STATUS 1).bistBlock u).setRun (unitGated u) (some { u := u, startAt := s.tb.ticks })).event 0x6001 0 u))) ∧
  (∀ (s : State) (path : Path) (u : Nat) (port : Option (Fin 32)),
    let allowed := if unitGated u then s.gatedAllowed else s.openAllowed u
    (u = 62 ∨ u = 63 ∨ 101 ≤ u → s.bistRefuse path u port = some 1) ∧
    (u < 62 ∨ (64 ≤ u ∧ u < 101) →
      (allowed = false → s.bistRefuse path u port = some 2) ∧
      (allowed = true → (s.bistRun (unitGated u)).isSome = true → s.bistRefuse path u port = some 3) ∧
      (allowed = true → s.bistRun (unitGated u) = none → s.bistSole u = true → s.bistRefuse path u port = some 4) ∧
      (allowed = true → s.bistRun (unitGated u) = none → s.bistSole u = false →
        (∀ p : Fin 32, path = .omp → 58 ≤ u → u < 62 → port = some p → p.val / 8 = u - 58 → s.bistRefuse path u port = some 5) ∧
        (path ≠ .omp ∨ (∀ p : Fin 32, port = some p → p.val / 8 ≠ u - 58) ∨ u < 58 ∨ 62 ≤ u →
          (s.railLow = true → s.bistRefuse path u port = some 6) ∧ (s.railLow = false → s.bistRefuse path u port = none))))) ∧
  (∀ (s : State),
    (s.get SYS_LIFECYCLE_STATE = 1 → s.gatedAllowed = false) ∧
    (s.get SYS_LIFECYCLE_STATE = 2 → (s.gatedAllowed = true ↔ s.mode = .maintenance ∧ s.is CFG_SERVE_MAINTAUTH = true)) ∧
    (s.get SYS_LIFECYCLE_STATE = 0 ∨ s.get SYS_LIFECYCLE_STATE = 3 →
      (s.gatedAllowed = true ↔ s.mode ≠ .off ∧ s.mode ≠ .backup ∧ s.mode ≠ .boot))) ∧
  (∀ (s : State) (u : Fin 128), s.awake = true →
    let w := (s.set BIST_CTL_UNIT u).set BIST_CTL_ACTION 2
    (unitType u = none ∨ s.underTest u = false →
      exec (.bistStop u) s = .next (((w.set BIST_CTL_STATUS 2).set BIST_STATUS_REFUSE 7).event 0x6005 1 (u + 7 * 2 ^ 8))) ∧
    ((unitType u).isSome = true → s.underTest u = true → ∃ t, exec (.bistStop u) s = .next t ∧ t.get BIST_CTL_STATUS = 1 ∧
      t.get (BIST_RESULT_RESULT u) = 4 ∧ t.get (BIST_RESULT_CAUSE u) = 1 ∧ t.get (BIST_RESULT_COUNT u) < max 1 (s.get (BIST_RESULT_PROG u)) ∧
      t.get (BIST_RESULT_FAIL u) = s.get (BIST_RESULT_FAIL u) ∧ t.underTest u = false ∧ t.free = s.free + 2)) ∧
  (∀ (s : State) (gated : Bool) (n x y : Nat), s.bistRun gated = none → exec (.bistTestEnd gated n x y) s = .next s) ∧
  (∀ (s : State) (r : BistRun),
    (unitType r.u = some 8 → s.bistTime r = s.reachTick (10000000000 + r.startAt)) ∧ (unitType r.u ≠ some 8 → s.bistTime r = some s)) ∧
  (∀ (s : State) (gated : Bool) (n x y : Nat) (r : BistRun), s.bistRun gated = some r →
    (s.bistTime r = none → exec (.bistTestEnd gated n x y) s = .next s) ∧
    (∀ v, s.bistTime r = some v → v.bistReady r.u = false → exec (.bistTestEnd gated n x y) s = .next v)) ∧
  (∀ (s v : State) (gated : Bool) (n x y : Nat) (r : BistRun), s.bistRun gated = some r → s.bistTime r = some v → unitGated r.u = gated →
    r.u < 128 → v.bistReady r.u = true →
    let z := if unitType r.u = some 8 then r.worst else y % 2 ^ 64
    ∃ t, exec (.bistTestEnd gated n x y) s = .next t ∧ t.bistRun gated = none ∧ t.get (BIST_RESULT_COUNT r.u) = n % 2 ^ 32 ∧
      t.get (BIST_RESULT_CAUSE r.u) = 0 ∧
      (n ≠ v.get (BIST_RESULT_PROG r.u) → t.get (BIST_RESULT_RESULT r.u) = 4 ∧ t.get (BIST_RESULT_FAIL r.u) = v.get (BIST_RESULT_FAIL r.u)) ∧
      (n = v.get (BIST_RESULT_PROG r.u) → v.bistPass r.u (x % 2 ^ 64) z = true →
        t.get (BIST_RESULT_RESULT r.u) = 2 ∧ t.get (BIST_RESULT_FAIL r.u) = 0) ∧
      (n = v.get (BIST_RESULT_PROG r.u) → v.bistPass r.u (x % 2 ^ 64) z = false →
        t.get (BIST_RESULT_RESULT r.u) = 3 ∧ t.get (BIST_RESULT_FAIL r.u) = 1)) ∧
  (∀ (s : State) (u x y : Nat),
    (∀ ty, u < 62 → unitType u = some ty → (s.bistPass u x y = true ↔ x = s.goldenOf ty)) ∧
    (64 ≤ u → u < 96 → (s.bistPass u x y = true ↔ s.bit TDC_CALFAIL_FAIL (u - 64) = false)) ∧
    (u = 96 → (s.bistPass u x y = true ↔ x = s.goldenOf 7 ∧ y = s.goldenOf 7)) ∧
    (97 ≤ u → u < 101 → (s.bistPass u x y = true ↔ x = 0 ∧ y ≤ 20)))

/-- Staged selections, dump boundaries and records, and instruction samples. A write to PERF_SEL is staged: the selection in
force stays until a boundary, and an unlisted event code is clamped to 0; PERF_DUMPCFG clamps PERIOD to 1 to 60,000; other
addresses and a stopped time base change nothing. A boundary that is due latches every counter as one more record while EN is
1 and takes over what is staged; the next one is reached when it comes before the second boundary, which brings its own. The
oldest latched record takes its slot with both sequence words, leaves the others waiting, and with EN of PERF_TXCFG goes out
as four telemetry frames. A marked instruction's completion is recorded in the cluster's buffer of 16, or counted lost; the
collector moves one record, in rotating order, to the tile's ring. (spec/17_performance_telemetry.md (R442, R445, R446),
spec/17_performance_telemetry.md (R448 to R453), spec/17_performance_telemetry.md (R454 to R456),
spec/17_performance_telemetry.md (R459)) -/
def Obligations.CountersAreSelectedDumpedAndSampled : Prop :=
  (∀ (s : State) (path : Path) (a v : Nat), s.tb.running = false → exec (.perfSelWrite path a v) s = .next s) ∧
  (∀ (s : State) (path : Path) (a v : Nat), s.tb.running = true → a ≠ 0x680000 →
    a < 0x681000 ∨ 0x685000 ≤ a ∨ 0x100 ≤ (a - 0x681000) % 0x1000 ∨ a % 4 ≠ 0 → exec (.perfSelWrite path a v) s = .next s) ∧
  (∀ (s : State) (path : Path) (v : Nat), s.tb.running = true → ∃ t, exec (.perfSelWrite path 0x680000 v) s = .next t ∧
    t.get PERF_DUMPCFG_EN = v % 2 ^ 32 / 2 ^ 31 ∧ t.get PERF_DUMPCFG_PERIOD = max 1 (min (v % 2 ^ 16) 60000) ∧ t.perf = s.perf ∧ t.tb = s.tb) ∧
  (∀ (s : State) (path : Path) (t n v : Nat), s.tb.running = true → t < 4 → n < 64 →
    ∃ u, exec (.perfSelWrite path (0x681000 + 0x1000 * t + 4 * n) v) s = .next u ∧ u.get (PERF_SEL_PEND t n) = 1 ∧
      u.perfInForce t n = s.perfInForce t n ∧ u.perfSel t n = selOf (v % 2 ^ 32) ∧
      (∀ i < 4, ∀ j < 96, u.perfCount i j = s.perfCount i j) ∧ u.tb = s.tb) ∧
  (∀ v : Nat,
    let e := v / 2 ^ 16 % 256
    (selOf v).mask = v % 256 ∧ (selOf v).port = v / 2 ^ 27 % 8 ∧ (selOf v).portEv = v / 2 ^ 30 % 2 ∧
    ((selOf v).portEv = 1 → (selOf v).event = if e ≤ 0x14 then e else 0) ∧
    ((selOf v).portEv = 0 → e ≤ 0x0A ∨ e = 0x40 ∨ e = 0x50 ∨ e = 0x51 → (selOf v).event = e) ∧
    ((selOf v).portEv = 0 → 0x52 ≤ e → (selOf v).event = 0)) ∧
  (∀ (s : State), s.tb.running = false ∨ s.perf.period = 0 → exec .dumpBoundary s = .next s) ∧
  (∀ (s : State), s.tb.running = true → s.perf.period ≠ 0 →
    (s.dumpIndex s.perf.at_ < s.dumpIndex s.nowNs → exec .dumpBoundary s = .next s.dumpAt) ∧
    (s.dumpIndex s.nowNs ≤ s.dumpIndex s.perf.at_ →
      let next := (s.dumpIndex s.nowNs + 1) * s.perf.period * 1000000
      (next < (instSec s.now + 1) * 1000000000 → exec .dumpBoundary s = .next (s.runUntil (next * 2 ^ 40))) ∧
      ((instSec s.now + 1) * 1000000000 ≤ next → exec .dumpBoundary s = .next s))) ∧
  (∀ (s : State), s.fallDue = s.dumpWithin.takeIncr.takeGcomp.endSlew.sendSync.showIncr ∧
    (s.perf.period ≠ 0 → s.dumpIndex s.perf.at_ < s.dumpIndex s.nowNs → 1000 ≤ instNsec s.now → s.dumpWithin = s.dumpAt) ∧
    (s.dumpIndex s.nowNs ≤ s.dumpIndex s.perf.at_ → s.dumpWithin = s)) ∧
  (∀ (s : State), s.dumpAt.perf.period = s.get PERF_DUMPCFG_PERIOD ∧ s.dumpAt.perf.held = [] ∧ s.dumpAt.tb = s.tb ∧ s.dumpAt.mode = s.mode ∧
    s.dumpAt.perf.at_ = s.nowNs ∧
    (s.is PERF_DUMPCFG_EN = false → s.dumpAt.perf.banks = s.perf.banks) ∧
    (s.is PERF_DUMPCFG_EN = true → ∃ b, s.dumpAt.perf.banks = s.perf.banks ++ [b] ∧ b.num = s.perf.records + s.perf.banks.length + 1 ∧
      b.time = s.now ∧ b.period = s.perf.period ∧ b.words = s.perfWords) ∧
    (∀ t < 4, ∀ n < 64, s.dumpAt.perfInForce t n = s.perfSel t n)) ∧
  (∀ (s : State), s.perf.banks = [] → exec .dumpRecordPublish s = .next s) ∧
  (∀ (s : State) (b : DumpBank) (rest : List DumpBank), s.perf.banks = b :: rest → ∃ t, exec .dumpRecordPublish s = .next t ∧
    t.perf.banks = rest ∧ t.perf.records = b.num ∧
    t.get PERF_DUMPSTAT_SEQ = b.num % 2 ^ 32 ∧ t.get (DUMP_SEQA (b.num % 16)) = b.num % 2 ^ 32 ∧ t.get (DUMP_SEQB (b.num % 16)) = b.num % 2 ^ 32 ∧
    t.get (DUMP_PERIOD (b.num % 16)) = b.period % 2 ^ 16 ∧ t.tb = s.tb ∧ t.mode = s.mode ∧
    (s.is PERF_TXCFG_EN = false → t.fab = s.fab) ∧
    (s.is PERF_TXCFG_EN = true → (SMap.get [] t.fab.lanes (1024 + s.get PERF_TXCFG_PORT)).length =
      (SMap.get [] s.fab.lanes (1024 + s.get PERF_TXCFG_PORT)).length + 4)) ∧
  (∀ (s : State) (g : Eng) (low : Fin 16), (∀ m ∈ s.perf.marks, m.engine ≠ engId g) → exec (.sampleRecord g low) s = .next s) ∧
  (∀ (s : State) (g : Eng) (low : Fin 16) (m : Mark), (s.perf.marks.find? fun x => x.engine == engId g) = some m →
    let b := SMap.get [] s.perf.buffers g.c
    (16 ≤ b.length → ∃ t, exec (.sampleRecord g low) s = .next t ∧ t.perf.marks = s.perf.marks.erase m ∧ SMap.get [] t.perf.buffers g.c = b ∧
      SMap.get 0 t.perf.lost g.c = SMap.get 0 s.perf.lost g.c + 1 ∧ t.free = s.free + 1 ∧ t.tb = s.tb) ∧
    (b.length < 16 → ∃ t r, exec (.sampleRecord g low) s = .next t ∧ t.perf.marks = s.perf.marks.erase m ∧
      SMap.get [] t.perf.buffers g.c = b ++ [r] ∧ r.opcode = 16 * m.cls + low ∧ r.engine = m.engine ∧ r.time = s.now ∧
      r.lostN = min (SMap.get 0 s.perf.lost g.c) 65535 ∧ SMap.get 0 t.perf.lost g.c = 0 ∧ t.free = s.free + 1 ∧ t.tb = s.tb)) ∧
  (∀ (s : State) (t : Fin 4), (∀ j < 8, SMap.get [] s.perf.buffers (8 * t.val + j) = []) → exec (.sampleCollect t) s = .next s) ∧
  (∀ (s : State) (t : Fin 4) (j : Nat) (r : Sample) (rest : List Sample), j < 8 → SMap.get [] s.perf.buffers (8 * t.val + j) = r :: rest →
    (∀ i < 8, i ≠ j → SMap.get [] s.perf.buffers (8 * t.val + i) = []) →
    let k := (s.get (PERF_SAMPSTAT_SEQ t) + 1) % 2 ^ 32
    ∃ u, exec (.sampleCollect t) s = .next u ∧ SMap.get [] u.perf.buffers (8 * t.val + j) = rest ∧ u.get (PERF_SAMPSTAT_SEQ t) = k ∧
      u.get (SAMP_SEQ t (k % 65536)) = k ∧ u.get (SAMP_OPCODE t (k % 65536)) = r.opcode % 2 ^ 8 ∧ u.get (SAMP_LAT t (k % 65536)) = r.lat % 2 ^ 32)

/-- A step runs the command at the front of the queue; on an empty queue one clock tick passes. For every command c and state
s, a step of s with c at the front of its queue is exec of c on s with the queue's rest, and answers a next state. On an
empty queue the step answers the state one clock tick later, which is the model's choice (notes/assumptions/1.md): of the TB
clock while it runs, short of a tick that is a second boundary, which waits for its command; else of the backup oscillator
while the backup domain is powered, else nothing. No word of the opcode table spells a command, and every command answers a
next state. (spec/INDEX.md (the commands of the block), notes/assumptions/1.md (the tick: DESIGN CHOICE)) -/
def Obligations.StepRunsTheFrontCommandOrOneTick : Prop :=
  (∀ (c : Instr) (s : State) (rest : List Instr), step { s with pending := c :: rest } = exec c { s with pending := rest }) ∧
  (∀ s : State, s.pending = [] → step s = .next s.tick) ∧
  (∀ s : State, s.tb.running = false → s.bk.powered = false → s.tick = s) ∧
  (∀ s : State, s.tb.running = false → s.bk.powered = true →
    s.tick.bk.phase + 32768 * s.tick.bk.sec = s.bk.phase + 32768 * s.bk.sec + 1 ∧ { s.tick with bk := s.bk } = s) ∧
  (∀ (nbits w : Nat) (s : State), decodeTableWord nbits w = none ∧ s.withFetchWord nbits w = s) ∧
  (∀ (c : Instr) (s : State), ∃ t, exec c s = .next t) ∧
  (∀ (c : Instr) (s : State) (rest : List Instr), ∃ t, exec c { s with pending := rest } = .next t ∧ step { s with pending := c :: rest } = .next t) ∧
  (∀ s : State, s.tb.running = true → s.tick = (s.reachTick (s.tb.ticks + 1)).getD s) ∧
  (∀ s : State, s.safeStep)

/-- Right after reset: BACKUP, every register field at its table's reset value, nothing waiting. After reset the device is in
BACKUP (R24 row 2), every register field reads the reset value of its register table, SYS_ID.STEP reads 2, no time base runs,
no request, alarm, session or update is open, nothing has been sent and no command waits; the state is in its canonical form.
What the spec gives no reset value for (notes/assumptions) is not part of this statement. (spec/01_architecture.md (R24 row
2), spec/00_scope.md (R1), spec/15_management_readback.md (R427)) -/
def Obligations.ResetLeavesBackupAndTheTablesValues : Prop :=
  State.reset.mode = .backup ∧ (∀ F : Field, State.reset.get F = F.reset) ∧ State.reset.get SYS_ID_STEP = 2 ∧
  State.reset.tb.running = false ∧ State.reset.mg.alarms = [] ∧ State.reset.mg.sessions = [] ∧ State.reset.fab.engines = [] ∧
  State.reset.out = [] ∧ State.reset.pending = [] ∧ State.reset.wf = true

/-- Every step keeps the canonical form and takes exactly the front command. From every state in canonical form whose waiting
commands are well formed, a step that answers a next state answers one in canonical form whose waiting commands are those of
before without the front one: the register file lists only fields that differ from reset, in rising order without repeats;
the flash lists no erased byte; the staging buffer, the association store and the control processors' memories list no zero
byte; no command adds or removes a waiting command. (spec/08_response_fabric.md (R227), spec/12_teasel_engines.md (R321),
spec/14_boot_configuration_lifecycle.md (R372, R397)) -/
def Obligations.CanonicalFormIsKeptByEveryStep : Prop :=
  ∀ s t : State, s.wf = true → step s = .next t → t.wf = true ∧ t.pending = s.pending.tail

/-- Once import derivation is disabled it stays so, the device-unique key never changes, and what was sent stays sent. Over
any sequence of commands and idle ticks: a device whose import-key derivation has been disabled (RETURN) never enables it
again, the device-unique key is the one it had, what the part has sent is never taken back, only added to (the model's own
record), and the count of free values only grows (the model's own counter). (spec/14_boot_configuration_lifecycle.md (R389:
permanently disables derivation of the import key), spec/14_boot_configuration_lifecycle.md (R390: the device-unique key is
fixed at manufacture), notes/assumptions/2.md (the record of what is sent), notes/assumptions/3.md (the counter of free
values)) -/
def Obligations.ImportStaysDisabledAndTheDeviceKeyIsFixed : Prop :=
  ∀ (cs : List Instr) (s t : State), cs.foldlM (m := Option) (fun u c => match exec c u with | .next v => some v | _ => none) s = some t →
    (s.boot.importOff = true → t.boot.importOff = true) ∧ t.boot.duk = s.boot.duk ∧ (∃ l, t.out = l ++ s.out) ∧ s.free ≤ t.free ∧
    t.tick.boot.duk = s.boot.duk ∧ (s.boot.importOff = true → t.tick.boot.importOff = true) ∧ (∃ l, t.tick.out = l ++ s.out)

/-- EXIT_MAINT enters the resume mode, decided in the order of R26. In MAINTENANCE, EXIT_MAINT from any path ends in WARMUP
if TB_STATUS.WARM = 1; otherwise in STANDBY if the device is a pair member without the token; otherwise in SERVICE if a
reference is active; otherwise in HOLDOVER if the holdover model is valid; otherwise in WARMUP. (R26) -/
def Obligations.ResumeModeAfterMaintenance : Prop :=
  ∀ (s : State) (p : Path), s.mode = .maintenance → ∃ t, exec (.exitMaint p) s = .next t ∧
    (s.get TB_STATUS_WARM = 1 → t.mode = .warmup) ∧
    (s.get TB_STATUS_WARM ≠ 1 → s.get SYS_MODE_PAIR = 1 ∧ s.get LEASE_STATUS_STATE ≠ 5 → t.mode = .standby) ∧
    (s.get TB_STATUS_WARM ≠ 1 → s.get SYS_MODE_PAIR ≠ 1 ∨ s.get LEASE_STATUS_STATE = 5 →
      (s.active.isSome = true → t.mode = .service) ∧
      (s.active = none → s.get SYS_MODE_MODELVALID = 1 → t.mode = .holdover) ∧
      (s.active = none → s.get SYS_MODE_MODELVALID ≠ 1 → t.mode = .warmup)) ∧
    t.get SYS_MODE_CAUSE = 0x0D ∧ t.get SYS_MODE_PREV = 7

/-- A step below zero leaves the counter at zero and is logged; every lease instant moves by the step. When the step that a
second boundary applies would take the counter below zero, all three copies read (0, 0, 0) and event 0x0304 waits for the
log. At the same tick the lease engine adds the step to x_eff, x_local, h_last, the converted release instant and the end of
LISTEN. (R44, R358) -/
def Obligations.StepsBelowZeroAndLeaseInstants : Prop :=
  (∀ (s : State) (d : Int), s.tb.c1 = s.tb.c0 → s.tb.c2 = s.tb.c0 → s.is TB_STATUS_COPYFAIL = false →
    (s.tb.c0.total : Int) + d * 2 ^ 24 < 0 →
    (s.applyStep d).tb.c0 = ⟨0, 0, 0⟩ ∧ (s.applyStep d).tb.c1 = ⟨0, 0, 0⟩ ∧ (s.applyStep d).tb.c2 = ⟨0, 0, 0⟩ ∧
    (s.mode ≠ .off → s.mode ≠ .backup → (SMap.get [] s.mg.evPending 3).length < 16 →
      ∃ e ∈ SMap.get [] (s.applyStep d).mg.evPending 3, e.code = 0x0304)) ∧
  (∀ (s : State) (d : Int),
    (0 ≤ (s.lease.xEff : Int) + d → ((s.applyStep d).lease.xEff : Int) = s.lease.xEff + d) ∧
    (0 ≤ (s.lease.listenEnd : Int) + d → ((s.applyStep d).lease.listenEnd : Int) = s.lease.listenEnd + d) ∧
    (∀ x, s.lease.xLocal = some x → 0 ≤ (x : Int) + d → (s.applyStep d).lease.xLocal = some ((x : Int) + d).toNat) ∧
    (∀ x, s.lease.hLast = some x → 0 ≤ (x : Int) + d → (s.applyStep d).lease.hLast = some ((x : Int) + d).toNat) ∧
    (∀ x, s.lease.relLocal = some x → 0 ≤ (x : Int) + d → (s.applyStep d).lease.relLocal = some ((x : Int) + d).toNat)) ∧
  (∀ (s : State) (d : Int),
    let v := s.runUntil (2 ^ 40 * (1000000000 * (s.master.sec + 1)))
    let u : State := { v with tb := { v.tb with syncOut := false, secs := ((v.tb.ticks, v.tb.excess) :: v.tb.secs).take 101 } }
    (v.tb.frozen = some d → s.carry = (u.applyStep d).loadReplicas.applyLeap.loadBackup) ∧
    (v.tb.frozen = none → s.carry = u.loadReplicas.applyLeap.loadBackup))

/-- Timestamps in three words, the compact form, and the root dispersion. An instant written to three registers holds SEC,
NSEC and SUBNS as bits 95:48, 47:16 and 15:0 of one 96-bit value, lowest word first, and comparing two such values compares
the instants. The compact form is (SEC x 1,000,000,000 + NSEC) mod 2^32 and wraps every 2^32 ns. The root dispersion shown
after a publication is min(0xFFFF_FFFF, ceil(E x 65,536 / 10^9) + RDADD), and 0xFFFF_FFFF for an unknown bound. (R6, R250) -/
def Obligations.TimestampsAndRootDispersionFollowTheirFormulas : Prop :=
  (∀ (s : State) (F : Nat → Field) (t i : Nat), i < 3 → (∀ j k, j < 3 → k < 3 → j ≠ k → (F j).key ≠ (F k).key) →
    (∀ j < 3, (F j).width = 32) → (s.setTs F t).get (F i) = instFull t / 2 ^ (32 * i) % 2 ^ 32) ∧
  (∀ t : Nat, instFull t % 2 ^ 16 = t % 2 ^ 16 ∧ instFull t / 2 ^ 16 % 2 ^ 32 = t / 2 ^ 16 % 1000000000 ∧
    instFull t / 2 ^ 48 = t / (1000000000 * 2 ^ 16) % 2 ^ 48) ∧
  (∀ a b : Nat, a < 2 ^ 48 * (1000000000 * 2 ^ 16) → b < 2 ^ 48 * (1000000000 * 2 ^ 16) → (instFull a < instFull b ↔ a < b)) ∧
  (∀ t : Nat, instCompact t = (t / (1000000000 * 2 ^ 16) * 1000000000 + t / 2 ^ 16 % 1000000000) % 2 ^ 32 ∧
    instCompact (t + 2 ^ 32 * 2 ^ 16) = instCompact t) ∧
  (∀ s : State, (s.get SEL_TQR_TEB = 0xFFFFFFFF → s.showNtp.get NTP_RDNOW_RD = 0xFFFFFFFF) ∧
    (∀ n, s.get SEL_TQR_TEB < 0xFFFFFFFF → s.get SEL_TQR_TEB * 65536 ≤ n * 10 ^ 9 → n * 10 ^ 9 < s.get SEL_TQR_TEB * 65536 + 10 ^ 9 →
      s.showNtp.get NTP_RDNOW_RD = min 0xFFFFFFFF (n + s.get NTP_RDADD_RDADD)))
end

