-- ==== Sys2Proof/Laws/SMap.lean ====
section
/-! SUPPORT. The laws of sparse maps: reading after a write, and the canonical form. -/
namespace Sys2Proof.Machine

variable {α : Type}

theorem SMap.get_insert (d : α) (m : List (Nat × α)) (a : Nat) (x : α) (b : Nat) (h : ∀ p ∈ m, p.1 ≠ a) :
    SMap.get d (SMap.insert m a x) b = if b = a then x else SMap.get d m b := by
  induction m with
  | nil => simp [SMap.insert, SMap.get, eq_comm]
  | cons p t ih =>
    obtain ⟨k, v⟩ := p
    have hk : k ≠ a := h (k, v) (by simp)
    have ht : ∀ p ∈ t, p.1 ≠ a := fun p hp => h p (by simp [hp])
    unfold SMap.insert
    split
    · by_cases hb : b = a
      · subst hb; simp [SMap.get]
      · simp [SMap.get, hb, Ne.symm hb]
    · by_cases hkb : k = b
      · subst hkb; simp [SMap.get, hk]
      · simp [SMap.get, hkb, ih ht]

theorem SMap.get_filter_ne (d : α) (m : List (Nat × α)) (a b : Nat) (h : b ≠ a) :
    SMap.get d (m.filter fun p => p.1 ≠ a) b = SMap.get d m b := by
  induction m with
  | nil => rfl
  | cons p t ih =>
    obtain ⟨k, v⟩ := p
    by_cases hk : k = a
    · subst hk; simpa [SMap.get, Ne.symm h] using ih
    · simp only [ne_eq, hk, not_false_eq_true, decide_true, List.filter_cons_of_pos, SMap.get]
      split
      · rfl
      · exact ih

theorem SMap.get_filter_eq (d : α) (m : List (Nat × α)) (a : Nat) :
    SMap.get d (m.filter fun p => p.1 ≠ a) a = d := by
  induction m with
  | nil => rfl
  | cons p t ih =>
    obtain ⟨k, v⟩ := p
    by_cases hk : k = a
    · subst hk; simpa [SMap.get] using ih
    · simpa [SMap.get, hk] using ih

/-- Reading after a write: the written key holds the value, every other key what it held. -/
theorem SMap.get_set [DecidableEq α] (d : α) (m : List (Nat × α)) (a : Nat) (x : α) (b : Nat) :
    SMap.get d (SMap.set d m a x) b = if b = a then x else SMap.get d m b := by
  unfold SMap.set
  split
  · by_cases hb : b = a
    · subst hb; simp only [SMap.get_filter_eq, if_pos, *]
    · rw [SMap.get_filter_ne d m a b hb, if_neg hb]
  · rw [SMap.get_insert]
    · by_cases hb : b = a
      · simp [hb]
      · rw [if_neg hb, if_neg hb, SMap.get_filter_ne d m a b hb]
    · intro p hp; simpa using (List.mem_filter.mp hp).2

@[simp] theorem SMap.get_set_self [DecidableEq α] (d : α) (m : List (Nat × α)) (a : Nat) (x : α) :
    SMap.get d (SMap.set d m a x) a = x := by simp [SMap.get_set]

theorem SMap.get_set_ne [DecidableEq α] (d : α) (m : List (Nat × α)) (a : Nat) (x : α) (b : Nat) (h : b ≠ a) :
    SMap.get d (SMap.set d m a x) b = SMap.get d m b := by simp [SMap.get_set, h]

@[simp] theorem SMap.get_nil (d : α) (a : Nat) : SMap.get d [] a = d := rfl

theorem SMap.wf_filter [DecidableEq α] (d : α) (m : List (Nat × α)) (f : Nat × α → Bool) (h : SMap.wf d m = true) :
    SMap.wf d (m.filter f) = true := by
  induction m with
  | nil => rfl
  | cons p t ih =>
    obtain ⟨k, v⟩ := p
    simp only [SMap.wf, Bool.and_eq_true, decide_eq_true_eq, List.all_eq_true] at h
    obtain ⟨⟨hv, hk⟩, ht⟩ := h
    by_cases hf : f (k, v) = true
    · simp only [List.filter_cons, hf, if_true, SMap.wf, Bool.and_eq_true, decide_eq_true_eq, List.all_eq_true]
      exact ⟨⟨hv, fun p hp => hk p (List.mem_filter.mp hp).1⟩, ih ht⟩
    · simp only [List.filter_cons, hf]; exact ih ht

theorem SMap.mem_insert (m : List (Nat × α)) (a : Nat) (x : α) (p : Nat × α) :
    p ∈ SMap.insert m a x → p = (a, x) ∨ p ∈ m := by
  induction m with
  | nil => simp [SMap.insert]
  | cons q t ih =>
    obtain ⟨k, v⟩ := q
    unfold SMap.insert
    split
    · simp
    · intro h
      rcases List.mem_cons.mp h with h | h
      · simp [h]
      · rcases ih h with h | h <;> simp [h]

theorem SMap.wf_insert [DecidableEq α] (d : α) (m : List (Nat × α)) (a : Nat) (x : α) (h : SMap.wf d m = true)
    (hx : x ≠ d) (ha : ∀ p ∈ m, p.1 ≠ a) : SMap.wf d (SMap.insert m a x) = true := by
  induction m with
  | nil => simp [SMap.insert, SMap.wf, hx]
  | cons p t ih =>
    obtain ⟨k, v⟩ := p
    have hka : k ≠ a := ha (k, v) (by simp)
    have hta : ∀ p ∈ t, p.1 ≠ a := fun p hp => ha p (by simp [hp])
    simp only [SMap.wf, Bool.and_eq_true, decide_eq_true_eq, List.all_eq_true] at h
    obtain ⟨⟨hv, hk⟩, ht⟩ := h
    unfold SMap.insert
    split
    · rename_i hlt
      simp only [SMap.wf, Bool.and_eq_true, decide_eq_true_eq, List.all_eq_true]
      refine ⟨⟨hx, fun p hp => ?_⟩, ⟨hv, hk⟩, ht⟩
      rcases List.mem_cons.mp hp with rfl | hp
      · exact hlt
      · exact Nat.lt_trans hlt (hk p hp)
    · rename_i hlt
      simp only [SMap.wf, Bool.and_eq_true, decide_eq_true_eq, List.all_eq_true]
      refine ⟨⟨hv, fun p hp => ?_⟩, ih ht hta⟩
      rcases SMap.mem_insert t a x p hp with rfl | hp
      · simp only; omega
      · exact hk p hp

/-- A write keeps the canonical form. -/
theorem SMap.wf_set [DecidableEq α] (d : α) (m : List (Nat × α)) (a : Nat) (x : α) (h : SMap.wf d m = true) :
    SMap.wf d (SMap.set d m a x) = true := by
  unfold SMap.set
  split
  · exact SMap.wf_filter d m _ h
  · rename_i hx
    exact SMap.wf_insert d _ a x (SMap.wf_filter d m _ h) hx fun p hp => by simpa using (List.mem_filter.mp hp).2

/-- Writes in turn keep it. -/
theorem SMap.wf_setMany [DecidableEq α] (d : α) (xs : List α) (m : List (Nat × α)) (a : Nat) (h : SMap.wf d m = true) :
    SMap.wf d (SMap.setMany d m a xs) = true := by
  induction xs generalizing m a with
  | nil => exact h
  | cons x xs ih => exact ih _ _ (SMap.wf_set d m a x h)

/-- Clearing a range keeps it. -/
theorem SMap.wf_clearRange [DecidableEq α] (d : α) (m : List (Nat × α)) (a n : Nat) (h : SMap.wf d m = true) :
    SMap.wf d (SMap.clearRange m a n) = true := SMap.wf_filter d m _ h

/-- Reading after writes in turn: the keys written hold the values, every other key what it held. -/
theorem SMap.get_setMany [DecidableEq α] (d : α) (xs : List α) (m : List (Nat × α)) (a b : Nat) :
    SMap.get d (SMap.setMany d m a xs) b = if a ≤ b ∧ b < a + xs.length then xs.getD (b - a) d else SMap.get d m b := by
  induction xs generalizing m a with
  | nil =>
    have h : ¬(a ≤ b ∧ b < a + ([] : List α).length) := by simp only [List.length_nil]; omega
    rw [if_neg h, SMap.setMany]
  | cons x xs ih =>
    rw [SMap.setMany, ih]
    by_cases h : a = b
    · subst h
      have h1 : ¬(a + 1 ≤ a ∧ a < a + 1 + xs.length) := by omega
      have h2 : a ≤ a ∧ a < a + (x :: xs).length := by simp only [List.length_cons]; omega
      rw [if_neg h1, if_pos h2, SMap.get_set_self, Nat.sub_self, List.getD_cons_zero]
    · rw [SMap.get_set_ne d m a x b (Ne.symm h)]
      by_cases h1 : a + 1 ≤ b ∧ b < a + 1 + xs.length
      · have h2 : a ≤ b ∧ b < a + (x :: xs).length := by simp; omega
        obtain ⟨k, hk⟩ : ∃ k, b - a = k + 1 := ⟨b - a - 1, by omega⟩
        rw [if_pos h1, if_pos h2, hk, List.getD_cons_succ, show b - (a + 1) = k by omega]
      · have h2 : ¬(a ≤ b ∧ b < a + (x :: xs).length) := by simp; omega
        rw [if_neg h1, if_neg h2]

/-- Reading after clearing a range. -/
theorem SMap.get_clearRange (d : α) (m : List (Nat × α)) (a n b : Nat) :
    SMap.get d (SMap.clearRange m a n) b = if a ≤ b ∧ b < a + n then d else SMap.get d m b := by
  induction m with
  | nil => simp [SMap.clearRange, SMap.get]
  | cons p t ih =>
    obtain ⟨k, v⟩ := p
    unfold SMap.clearRange at ih ⊢
    by_cases hk : k < a ∨ a + n ≤ k
    · simp only [List.filter_cons, hk, decide_true, if_true, SMap.get]
      by_cases hkb : k = b
      · have : ¬(a ≤ b ∧ b < a + n) := by omega
        simp [hkb, this]
      · simp only [hkb, if_false]; exact ih
    · simp only [List.filter_cons, hk, decide_false, SMap.get]
      by_cases hkb : k = b
      · have : a ≤ b ∧ b < a + n := by omega
        simp only [this, and_self, if_true] at ih ⊢; exact ih
      · simp only [hkb, if_false]; exact ih

end Sys2Proof.Machine
end

