-- ==== Sys2Proof/Laws/State.lean ====
section
/-! SUPPORT. What each named update of the state leaves and sets: one lemma per field per update. -/
namespace Sys2Proof.Machine

section
variable (s : State)

@[simp] theorem State.onTb_mode (f : Tb → Tb) : (s.onTb f).mode = s.mode := (rfl)
@[simp] theorem State.onTb_safeFromBoot (f : Tb → Tb) : (s.onTb f).safeFromBoot = s.safeFromBoot := (rfl)
@[simp] theorem State.onTb_rf (f : Tb → Tb) : (s.onTb f).rf = s.rf := (rfl)
@[simp] theorem State.onTb_bk (f : Tb → Tb) : (s.onTb f).bk = s.bk := (rfl)
@[simp] theorem State.onTb_pw (f : Tb → Tb) : (s.onTb f).pw = s.pw := (rfl)
@[simp] theorem State.onTb_tb (f : Tb → Tb) : (s.onTb f).tb = f s.tb := (rfl)
@[simp] theorem State.onTb_tdc (f : Tb → Tb) : (s.onTb f).tdc = s.tdc := (rfl)
@[simp] theorem State.onTb_sel (f : Tb → Tb) : (s.onTb f).sel = s.sel := (rfl)
@[simp] theorem State.onTb_outs (f : Tb → Tb) : (s.onTb f).outs = s.outs := (rfl)
@[simp] theorem State.onTb_gn (f : Tb → Tb) : (s.onTb f).gn = s.gn := (rfl)
@[simp] theorem State.onTb_mac (f : Tb → Tb) : (s.onTb f).mac = s.mac := (rfl)
@[simp] theorem State.onTb_ts (f : Tb → Tb) : (s.onTb f).ts = s.ts := (rfl)
@[simp] theorem State.onTb_fab (f : Tb → Tb) : (s.onTb f).fab = s.fab := (rfl)
@[simp] theorem State.onTb_ntp (f : Tb → Tb) : (s.onTb f).ntp = s.ntp := (rfl)
@[simp] theorem State.onTb_ptp (f : Tb → Tb) : (s.onTb f).ptp = s.ptp := (rfl)
@[simp] theorem State.onTb_rt (f : Tb → Tb) : (s.onTb f).rt = s.rt := (rfl)
@[simp] theorem State.onTb_tsl (f : Tb → Tb) : (s.onTb f).tsl = s.tsl := (rfl)
@[simp] theorem State.onTb_bist (f : Tb → Tb) : (s.onTb f).bist = s.bist := (rfl)
@[simp] theorem State.onTb_perf (f : Tb → Tb) : (s.onTb f).perf = s.perf := (rfl)
@[simp] theorem State.onTb_jtag (f : Tb → Tb) : (s.onTb f).jtag = s.jtag := (rfl)
@[simp] theorem State.onTb_lease (f : Tb → Tb) : (s.onTb f).lease = s.lease := (rfl)
@[simp] theorem State.onTb_boot (f : Tb → Tb) : (s.onTb f).boot = s.boot := (rfl)
@[simp] theorem State.onTb_mg (f : Tb → Tb) : (s.onTb f).mg = s.mg := (rfl)
@[simp] theorem State.onTb_out (f : Tb → Tb) : (s.onTb f).out = s.out := (rfl)
@[simp] theorem State.onTb_free (f : Tb → Tb) : (s.onTb f).free = s.free := (rfl)
@[simp] theorem State.onTb_pending (f : Tb → Tb) : (s.onTb f).pending = s.pending := (rfl)
@[simp] theorem State.onTdc_mode (f : Tdc → Tdc) : (s.onTdc f).mode = s.mode := (rfl)
@[simp] theorem State.onTdc_safeFromBoot (f : Tdc → Tdc) : (s.onTdc f).safeFromBoot = s.safeFromBoot := (rfl)
@[simp] theorem State.onTdc_rf (f : Tdc → Tdc) : (s.onTdc f).rf = s.rf := (rfl)
@[simp] theorem State.onTdc_bk (f : Tdc → Tdc) : (s.onTdc f).bk = s.bk := (rfl)
@[simp] theorem State.onTdc_pw (f : Tdc → Tdc) : (s.onTdc f).pw = s.pw := (rfl)
@[simp] theorem State.onTdc_tb (f : Tdc → Tdc) : (s.onTdc f).tb = s.tb := (rfl)
@[simp] theorem State.onTdc_tdc (f : Tdc → Tdc) : (s.onTdc f).tdc = f s.tdc := (rfl)
@[simp] theorem State.onTdc_sel (f : Tdc → Tdc) : (s.onTdc f).sel = s.sel := (rfl)
@[simp] theorem State.onTdc_outs (f : Tdc → Tdc) : (s.onTdc f).outs = s.outs := (rfl)
@[simp] theorem State.onTdc_gn (f : Tdc → Tdc) : (s.onTdc f).gn = s.gn := (rfl)
@[simp] theorem State.onTdc_mac (f : Tdc → Tdc) : (s.onTdc f).mac = s.mac := (rfl)
@[simp] theorem State.onTdc_ts (f : Tdc → Tdc) : (s.onTdc f).ts = s.ts := (rfl)
@[simp] theorem State.onTdc_fab (f : Tdc → Tdc) : (s.onTdc f).fab = s.fab := (rfl)
@[simp] theorem State.onTdc_ntp (f : Tdc → Tdc) : (s.onTdc f).ntp = s.ntp := (rfl)
@[simp] theorem State.onTdc_ptp (f : Tdc → Tdc) : (s.onTdc f).ptp = s.ptp := (rfl)
@[simp] theorem State.onTdc_rt (f : Tdc → Tdc) : (s.onTdc f).rt = s.rt := (rfl)
@[simp] theorem State.onTdc_tsl (f : Tdc → Tdc) : (s.onTdc f).tsl = s.tsl := (rfl)
@[simp] theorem State.onTdc_bist (f : Tdc → Tdc) : (s.onTdc f).bist = s.bist := (rfl)
@[simp] theorem State.onTdc_perf (f : Tdc → Tdc) : (s.onTdc f).perf = s.perf := (rfl)
@[simp] theorem State.onTdc_jtag (f : Tdc → Tdc) : (s.onTdc f).jtag = s.jtag := (rfl)
@[simp] theorem State.onTdc_lease (f : Tdc → Tdc) : (s.onTdc f).lease = s.lease := (rfl)
@[simp] theorem State.onTdc_boot (f : Tdc → Tdc) : (s.onTdc f).boot = s.boot := (rfl)
@[simp] theorem State.onTdc_mg (f : Tdc → Tdc) : (s.onTdc f).mg = s.mg := (rfl)
@[simp] theorem State.onTdc_out (f : Tdc → Tdc) : (s.onTdc f).out = s.out := (rfl)
@[simp] theorem State.onTdc_free (f : Tdc → Tdc) : (s.onTdc f).free = s.free := (rfl)
@[simp] theorem State.onTdc_pending (f : Tdc → Tdc) : (s.onTdc f).pending = s.pending := (rfl)
@[simp] theorem State.onSel_mode (f : Sel → Sel) : (s.onSel f).mode = s.mode := (rfl)
@[simp] theorem State.onSel_safeFromBoot (f : Sel → Sel) : (s.onSel f).safeFromBoot = s.safeFromBoot := (rfl)
@[simp] theorem State.onSel_rf (f : Sel → Sel) : (s.onSel f).rf = s.rf := (rfl)
@[simp] theorem State.onSel_bk (f : Sel → Sel) : (s.onSel f).bk = s.bk := (rfl)
@[simp] theorem State.onSel_pw (f : Sel → Sel) : (s.onSel f).pw = s.pw := (rfl)
@[simp] theorem State.onSel_tb (f : Sel → Sel) : (s.onSel f).tb = s.tb := (rfl)
@[simp] theorem State.onSel_tdc (f : Sel → Sel) : (s.onSel f).tdc = s.tdc := (rfl)
@[simp] theorem State.onSel_sel (f : Sel → Sel) : (s.onSel f).sel = f s.sel := (rfl)
@[simp] theorem State.onSel_outs (f : Sel → Sel) : (s.onSel f).outs = s.outs := (rfl)
@[simp] theorem State.onSel_gn (f : Sel → Sel) : (s.onSel f).gn = s.gn := (rfl)
@[simp] theorem State.onSel_mac (f : Sel → Sel) : (s.onSel f).mac = s.mac := (rfl)
@[simp] theorem State.onSel_ts (f : Sel → Sel) : (s.onSel f).ts = s.ts := (rfl)
@[simp] theorem State.onSel_fab (f : Sel → Sel) : (s.onSel f).fab = s.fab := (rfl)
@[simp] theorem State.onSel_ntp (f : Sel → Sel) : (s.onSel f).ntp = s.ntp := (rfl)
@[simp] theorem State.onSel_ptp (f : Sel → Sel) : (s.onSel f).ptp = s.ptp := (rfl)
@[simp] theorem State.onSel_rt (f : Sel → Sel) : (s.onSel f).rt = s.rt := (rfl)
@[simp] theorem State.onSel_tsl (f : Sel → Sel) : (s.onSel f).tsl = s.tsl := (rfl)
@[simp] theorem State.onSel_bist (f : Sel → Sel) : (s.onSel f).bist = s.bist := (rfl)
@[simp] theorem State.onSel_perf (f : Sel → Sel) : (s.onSel f).perf = s.perf := (rfl)
@[simp] theorem State.onSel_jtag (f : Sel → Sel) : (s.onSel f).jtag = s.jtag := (rfl)
@[simp] theorem State.onSel_lease (f : Sel → Sel) : (s.onSel f).lease = s.lease := (rfl)
@[simp] theorem State.onSel_boot (f : Sel → Sel) : (s.onSel f).boot = s.boot := (rfl)
@[simp] theorem State.onSel_mg (f : Sel → Sel) : (s.onSel f).mg = s.mg := (rfl)
@[simp] theorem State.onSel_out (f : Sel → Sel) : (s.onSel f).out = s.out := (rfl)
@[simp] theorem State.onSel_free (f : Sel → Sel) : (s.onSel f).free = s.free := (rfl)
@[simp] theorem State.onSel_pending (f : Sel → Sel) : (s.onSel f).pending = s.pending := (rfl)
@[simp] theorem State.onOuts_mode (f : Outs → Outs) : (s.onOuts f).mode = s.mode := (rfl)
@[simp] theorem State.onOuts_safeFromBoot (f : Outs → Outs) : (s.onOuts f).safeFromBoot = s.safeFromBoot := (rfl)
@[simp] theorem State.onOuts_rf (f : Outs → Outs) : (s.onOuts f).rf = s.rf := (rfl)
@[simp] theorem State.onOuts_bk (f : Outs → Outs) : (s.onOuts f).bk = s.bk := (rfl)
@[simp] theorem State.onOuts_pw (f : Outs → Outs) : (s.onOuts f).pw = s.pw := (rfl)
@[simp] theorem State.onOuts_tb (f : Outs → Outs) : (s.onOuts f).tb = s.tb := (rfl)
@[simp] theorem State.onOuts_tdc (f : Outs → Outs) : (s.onOuts f).tdc = s.tdc := (rfl)
@[simp] theorem State.onOuts_sel (f : Outs → Outs) : (s.onOuts f).sel = s.sel := (rfl)
@[simp] theorem State.onOuts_outs (f : Outs → Outs) : (s.onOuts f).outs = f s.outs := (rfl)
@[simp] theorem State.onOuts_gn (f : Outs → Outs) : (s.onOuts f).gn = s.gn := (rfl)
@[simp] theorem State.onOuts_mac (f : Outs → Outs) : (s.onOuts f).mac = s.mac := (rfl)
@[simp] theorem State.onOuts_ts (f : Outs → Outs) : (s.onOuts f).ts = s.ts := (rfl)
@[simp] theorem State.onOuts_fab (f : Outs → Outs) : (s.onOuts f).fab = s.fab := (rfl)
@[simp] theorem State.onOuts_ntp (f : Outs → Outs) : (s.onOuts f).ntp = s.ntp := (rfl)
@[simp] theorem State.onOuts_ptp (f : Outs → Outs) : (s.onOuts f).ptp = s.ptp := (rfl)
@[simp] theorem State.onOuts_rt (f : Outs → Outs) : (s.onOuts f).rt = s.rt := (rfl)
@[simp] theorem State.onOuts_tsl (f : Outs → Outs) : (s.onOuts f).tsl = s.tsl := (rfl)
@[simp] theorem State.onOuts_bist (f : Outs → Outs) : (s.onOuts f).bist = s.bist := (rfl)
@[simp] theorem State.onOuts_perf (f : Outs → Outs) : (s.onOuts f).perf = s.perf := (rfl)
@[simp] theorem State.onOuts_jtag (f : Outs → Outs) : (s.onOuts f).jtag = s.jtag := (rfl)
@[simp] theorem State.onOuts_lease (f : Outs → Outs) : (s.onOuts f).lease = s.lease := (rfl)
@[simp] theorem State.onOuts_boot (f : Outs → Outs) : (s.onOuts f).boot = s.boot := (rfl)
@[simp] theorem State.onOuts_mg (f : Outs → Outs) : (s.onOuts f).mg = s.mg := (rfl)
@[simp] theorem State.onOuts_out (f : Outs → Outs) : (s.onOuts f).out = s.out := (rfl)
@[simp] theorem State.onOuts_free (f : Outs → Outs) : (s.onOuts f).free = s.free := (rfl)
@[simp] theorem State.onOuts_pending (f : Outs → Outs) : (s.onOuts f).pending = s.pending := (rfl)
@[simp] theorem State.onLease_mode (f : Lease → Lease) : (s.onLease f).mode = s.mode := (rfl)
@[simp] theorem State.onLease_safeFromBoot (f : Lease → Lease) : (s.onLease f).safeFromBoot = s.safeFromBoot := (rfl)
@[simp] theorem State.onLease_rf (f : Lease → Lease) : (s.onLease f).rf = s.rf := (rfl)
@[simp] theorem State.onLease_bk (f : Lease → Lease) : (s.onLease f).bk = s.bk := (rfl)
@[simp] theorem State.onLease_pw (f : Lease → Lease) : (s.onLease f).pw = s.pw := (rfl)
@[simp] theorem State.onLease_tb (f : Lease → Lease) : (s.onLease f).tb = s.tb := (rfl)
@[simp] theorem State.onLease_tdc (f : Lease → Lease) : (s.onLease f).tdc = s.tdc := (rfl)
@[simp] theorem State.onLease_sel (f : Lease → Lease) : (s.onLease f).sel = s.sel := (rfl)
@[simp] theorem State.onLease_outs (f : Lease → Lease) : (s.onLease f).outs = s.outs := (rfl)
@[simp] theorem State.onLease_gn (f : Lease → Lease) : (s.onLease f).gn = s.gn := (rfl)
@[simp] theorem State.onLease_mac (f : Lease → Lease) : (s.onLease f).mac = s.mac := (rfl)
@[simp] theorem State.onLease_ts (f : Lease → Lease) : (s.onLease f).ts = s.ts := (rfl)
@[simp] theorem State.onLease_fab (f : Lease → Lease) : (s.onLease f).fab = s.fab := (rfl)
@[simp] theorem State.onLease_ntp (f : Lease → Lease) : (s.onLease f).ntp = s.ntp := (rfl)
@[simp] theorem State.onLease_ptp (f : Lease → Lease) : (s.onLease f).ptp = s.ptp := (rfl)
@[simp] theorem State.onLease_rt (f : Lease → Lease) : (s.onLease f).rt = s.rt := (rfl)
@[simp] theorem State.onLease_tsl (f : Lease → Lease) : (s.onLease f).tsl = s.tsl := (rfl)
@[simp] theorem State.onLease_bist (f : Lease → Lease) : (s.onLease f).bist = s.bist := (rfl)
@[simp] theorem State.onLease_perf (f : Lease → Lease) : (s.onLease f).perf = s.perf := (rfl)
@[simp] theorem State.onLease_jtag (f : Lease → Lease) : (s.onLease f).jtag = s.jtag := (rfl)
@[simp] theorem State.onLease_lease (f : Lease → Lease) : (s.onLease f).lease = f s.lease := (rfl)
@[simp] theorem State.onLease_boot (f : Lease → Lease) : (s.onLease f).boot = s.boot := (rfl)
@[simp] theorem State.onLease_mg (f : Lease → Lease) : (s.onLease f).mg = s.mg := (rfl)
@[simp] theorem State.onLease_out (f : Lease → Lease) : (s.onLease f).out = s.out := (rfl)
@[simp] theorem State.onLease_free (f : Lease → Lease) : (s.onLease f).free = s.free := (rfl)
@[simp] theorem State.onLease_pending (f : Lease → Lease) : (s.onLease f).pending = s.pending := (rfl)
@[simp] theorem State.onBoot_mode (f : Boot → Boot) : (s.onBoot f).mode = s.mode := (rfl)
@[simp] theorem State.onBoot_safeFromBoot (f : Boot → Boot) : (s.onBoot f).safeFromBoot = s.safeFromBoot := (rfl)
@[simp] theorem State.onBoot_rf (f : Boot → Boot) : (s.onBoot f).rf = s.rf := (rfl)
@[simp] theorem State.onBoot_bk (f : Boot → Boot) : (s.onBoot f).bk = s.bk := (rfl)
@[simp] theorem State.onBoot_pw (f : Boot → Boot) : (s.onBoot f).pw = s.pw := (rfl)
@[simp] theorem State.onBoot_tb (f : Boot → Boot) : (s.onBoot f).tb = s.tb := (rfl)
@[simp] theorem State.onBoot_tdc (f : Boot → Boot) : (s.onBoot f).tdc = s.tdc := (rfl)
@[simp] theorem State.onBoot_sel (f : Boot → Boot) : (s.onBoot f).sel = s.sel := (rfl)
@[simp] theorem State.onBoot_outs (f : Boot → Boot) : (s.onBoot f).outs = s.outs := (rfl)
@[simp] theorem State.onBoot_gn (f : Boot → Boot) : (s.onBoot f).gn = s.gn := (rfl)
@[simp] theorem State.onBoot_mac (f : Boot → Boot) : (s.onBoot f).mac = s.mac := (rfl)
@[simp] theorem State.onBoot_ts (f : Boot → Boot) : (s.onBoot f).ts = s.ts := (rfl)
@[simp] theorem State.onBoot_fab (f : Boot → Boot) : (s.onBoot f).fab = s.fab := (rfl)
@[simp] theorem State.onBoot_ntp (f : Boot → Boot) : (s.onBoot f).ntp = s.ntp := (rfl)
@[simp] theorem State.onBoot_ptp (f : Boot → Boot) : (s.onBoot f).ptp = s.ptp := (rfl)
@[simp] theorem State.onBoot_rt (f : Boot → Boot) : (s.onBoot f).rt = s.rt := (rfl)
@[simp] theorem State.onBoot_tsl (f : Boot → Boot) : (s.onBoot f).tsl = s.tsl := (rfl)
@[simp] theorem State.onBoot_bist (f : Boot → Boot) : (s.onBoot f).bist = s.bist := (rfl)
@[simp] theorem State.onBoot_perf (f : Boot → Boot) : (s.onBoot f).perf = s.perf := (rfl)
@[simp] theorem State.onBoot_jtag (f : Boot → Boot) : (s.onBoot f).jtag = s.jtag := (rfl)
@[simp] theorem State.onBoot_lease (f : Boot → Boot) : (s.onBoot f).lease = s.lease := (rfl)
@[simp] theorem State.onBoot_boot (f : Boot → Boot) : (s.onBoot f).boot = f s.boot := (rfl)
@[simp] theorem State.onBoot_mg (f : Boot → Boot) : (s.onBoot f).mg = s.mg := (rfl)
@[simp] theorem State.onBoot_out (f : Boot → Boot) : (s.onBoot f).out = s.out := (rfl)
@[simp] theorem State.onBoot_free (f : Boot → Boot) : (s.onBoot f).free = s.free := (rfl)
@[simp] theorem State.onBoot_pending (f : Boot → Boot) : (s.onBoot f).pending = s.pending := (rfl)
@[simp] theorem State.onMg_mode (f : Mg → Mg) : (s.onMg f).mode = s.mode := (rfl)
@[simp] theorem State.onMg_safeFromBoot (f : Mg → Mg) : (s.onMg f).safeFromBoot = s.safeFromBoot := (rfl)
@[simp] theorem State.onMg_rf (f : Mg → Mg) : (s.onMg f).rf = s.rf := (rfl)
@[simp] theorem State.onMg_bk (f : Mg → Mg) : (s.onMg f).bk = s.bk := (rfl)
@[simp] theorem State.onMg_pw (f : Mg → Mg) : (s.onMg f).pw = s.pw := (rfl)
@[simp] theorem State.onMg_tb (f : Mg → Mg) : (s.onMg f).tb = s.tb := (rfl)
@[simp] theorem State.onMg_tdc (f : Mg → Mg) : (s.onMg f).tdc = s.tdc := (rfl)
@[simp] theorem State.onMg_sel (f : Mg → Mg) : (s.onMg f).sel = s.sel := (rfl)
@[simp] theorem State.onMg_outs (f : Mg → Mg) : (s.onMg f).outs = s.outs := (rfl)
@[simp] theorem State.onMg_gn (f : Mg → Mg) : (s.onMg f).gn = s.gn := (rfl)
@[simp] theorem State.onMg_mac (f : Mg → Mg) : (s.onMg f).mac = s.mac := (rfl)
@[simp] theorem State.onMg_ts (f : Mg → Mg) : (s.onMg f).ts = s.ts := (rfl)
@[simp] theorem State.onMg_fab (f : Mg → Mg) : (s.onMg f).fab = s.fab := (rfl)
@[simp] theorem State.onMg_ntp (f : Mg → Mg) : (s.onMg f).ntp = s.ntp := (rfl)
@[simp] theorem State.onMg_ptp (f : Mg → Mg) : (s.onMg f).ptp = s.ptp := (rfl)
@[simp] theorem State.onMg_rt (f : Mg → Mg) : (s.onMg f).rt = s.rt := (rfl)
@[simp] theorem State.onMg_tsl (f : Mg → Mg) : (s.onMg f).tsl = s.tsl := (rfl)
@[simp] theorem State.onMg_bist (f : Mg → Mg) : (s.onMg f).bist = s.bist := (rfl)
@[simp] theorem State.onMg_perf (f : Mg → Mg) : (s.onMg f).perf = s.perf := (rfl)
@[simp] theorem State.onMg_jtag (f : Mg → Mg) : (s.onMg f).jtag = s.jtag := (rfl)
@[simp] theorem State.onMg_lease (f : Mg → Mg) : (s.onMg f).lease = s.lease := (rfl)
@[simp] theorem State.onMg_boot (f : Mg → Mg) : (s.onMg f).boot = s.boot := (rfl)
@[simp] theorem State.onMg_mg (f : Mg → Mg) : (s.onMg f).mg = f s.mg := (rfl)
@[simp] theorem State.onMg_out (f : Mg → Mg) : (s.onMg f).out = s.out := (rfl)
@[simp] theorem State.onMg_free (f : Mg → Mg) : (s.onMg f).free = s.free := (rfl)
@[simp] theorem State.onMg_pending (f : Mg → Mg) : (s.onMg f).pending = s.pending := (rfl)
@[simp] theorem State.onPw_mode (f : Pw → Pw) : (s.onPw f).mode = s.mode := (rfl)
@[simp] theorem State.onPw_safeFromBoot (f : Pw → Pw) : (s.onPw f).safeFromBoot = s.safeFromBoot := (rfl)
@[simp] theorem State.onPw_rf (f : Pw → Pw) : (s.onPw f).rf = s.rf := (rfl)
@[simp] theorem State.onPw_bk (f : Pw → Pw) : (s.onPw f).bk = s.bk := (rfl)
@[simp] theorem State.onPw_pw (f : Pw → Pw) : (s.onPw f).pw = f s.pw := (rfl)
@[simp] theorem State.onPw_tb (f : Pw → Pw) : (s.onPw f).tb = s.tb := (rfl)
@[simp] theorem State.onPw_tdc (f : Pw → Pw) : (s.onPw f).tdc = s.tdc := (rfl)
@[simp] theorem State.onPw_sel (f : Pw → Pw) : (s.onPw f).sel = s.sel := (rfl)
@[simp] theorem State.onPw_outs (f : Pw → Pw) : (s.onPw f).outs = s.outs := (rfl)
@[simp] theorem State.onPw_gn (f : Pw → Pw) : (s.onPw f).gn = s.gn := (rfl)
@[simp] theorem State.onPw_mac (f : Pw → Pw) : (s.onPw f).mac = s.mac := (rfl)
@[simp] theorem State.onPw_ts (f : Pw → Pw) : (s.onPw f).ts = s.ts := (rfl)
@[simp] theorem State.onPw_fab (f : Pw → Pw) : (s.onPw f).fab = s.fab := (rfl)
@[simp] theorem State.onPw_ntp (f : Pw → Pw) : (s.onPw f).ntp = s.ntp := (rfl)
@[simp] theorem State.onPw_ptp (f : Pw → Pw) : (s.onPw f).ptp = s.ptp := (rfl)
@[simp] theorem State.onPw_rt (f : Pw → Pw) : (s.onPw f).rt = s.rt := (rfl)
@[simp] theorem State.onPw_tsl (f : Pw → Pw) : (s.onPw f).tsl = s.tsl := (rfl)
@[simp] theorem State.onPw_bist (f : Pw → Pw) : (s.onPw f).bist = s.bist := (rfl)
@[simp] theorem State.onPw_perf (f : Pw → Pw) : (s.onPw f).perf = s.perf := (rfl)
@[simp] theorem State.onPw_jtag (f : Pw → Pw) : (s.onPw f).jtag = s.jtag := (rfl)
@[simp] theorem State.onPw_lease (f : Pw → Pw) : (s.onPw f).lease = s.lease := (rfl)
@[simp] theorem State.onPw_boot (f : Pw → Pw) : (s.onPw f).boot = s.boot := (rfl)
@[simp] theorem State.onPw_mg (f : Pw → Pw) : (s.onPw f).mg = s.mg := (rfl)
@[simp] theorem State.onPw_out (f : Pw → Pw) : (s.onPw f).out = s.out := (rfl)
@[simp] theorem State.onPw_free (f : Pw → Pw) : (s.onPw f).free = s.free := (rfl)
@[simp] theorem State.onPw_pending (f : Pw → Pw) : (s.onPw f).pending = s.pending := (rfl)
@[simp] theorem State.onBk_mode (f : Backup → Backup) : (s.onBk f).mode = s.mode := (rfl)
@[simp] theorem State.onBk_safeFromBoot (f : Backup → Backup) : (s.onBk f).safeFromBoot = s.safeFromBoot := (rfl)
@[simp] theorem State.onBk_rf (f : Backup → Backup) : (s.onBk f).rf = s.rf := (rfl)
@[simp] theorem State.onBk_bk (f : Backup → Backup) : (s.onBk f).bk = f s.bk := (rfl)
@[simp] theorem State.onBk_pw (f : Backup → Backup) : (s.onBk f).pw = s.pw := (rfl)
@[simp] theorem State.onBk_tb (f : Backup → Backup) : (s.onBk f).tb = s.tb := (rfl)
@[simp] theorem State.onBk_tdc (f : Backup → Backup) : (s.onBk f).tdc = s.tdc := (rfl)
@[simp] theorem State.onBk_sel (f : Backup → Backup) : (s.onBk f).sel = s.sel := (rfl)
@[simp] theorem State.onBk_outs (f : Backup → Backup) : (s.onBk f).outs = s.outs := (rfl)
@[simp] theorem State.onBk_gn (f : Backup → Backup) : (s.onBk f).gn = s.gn := (rfl)
@[simp] theorem State.onBk_mac (f : Backup → Backup) : (s.onBk f).mac = s.mac := (rfl)
@[simp] theorem State.onBk_ts (f : Backup → Backup) : (s.onBk f).ts = s.ts := (rfl)
@[simp] theorem State.onBk_fab (f : Backup → Backup) : (s.onBk f).fab = s.fab := (rfl)
@[simp] theorem State.onBk_ntp (f : Backup → Backup) : (s.onBk f).ntp = s.ntp := (rfl)
@[simp] theorem State.onBk_ptp (f : Backup → Backup) : (s.onBk f).ptp = s.ptp := (rfl)
@[simp] theorem State.onBk_rt (f : Backup → Backup) : (s.onBk f).rt = s.rt := (rfl)
@[simp] theorem State.onBk_tsl (f : Backup → Backup) : (s.onBk f).tsl = s.tsl := (rfl)
@[simp] theorem State.onBk_bist (f : Backup → Backup) : (s.onBk f).bist = s.bist := (rfl)
@[simp] theorem State.onBk_perf (f : Backup → Backup) : (s.onBk f).perf = s.perf := (rfl)
@[simp] theorem State.onBk_jtag (f : Backup → Backup) : (s.onBk f).jtag = s.jtag := (rfl)
@[simp] theorem State.onBk_lease (f : Backup → Backup) : (s.onBk f).lease = s.lease := (rfl)
@[simp] theorem State.onBk_boot (f : Backup → Backup) : (s.onBk f).boot = s.boot := (rfl)
@[simp] theorem State.onBk_mg (f : Backup → Backup) : (s.onBk f).mg = s.mg := (rfl)
@[simp] theorem State.onBk_out (f : Backup → Backup) : (s.onBk f).out = s.out := (rfl)
@[simp] theorem State.onBk_free (f : Backup → Backup) : (s.onBk f).free = s.free := (rfl)
@[simp] theorem State.onBk_pending (f : Backup → Backup) : (s.onBk f).pending = s.pending := (rfl)
@[simp] theorem State.onMac_mode (f : Mac → Mac) : (s.onMac f).mode = s.mode := (rfl)
@[simp] theorem State.onMac_safeFromBoot (f : Mac → Mac) : (s.onMac f).safeFromBoot = s.safeFromBoot := (rfl)
@[simp] theorem State.onMac_rf (f : Mac → Mac) : (s.onMac f).rf = s.rf := (rfl)
@[simp] theorem State.onMac_bk (f : Mac → Mac) : (s.onMac f).bk = s.bk := (rfl)
@[simp] theorem State.onMac_pw (f : Mac → Mac) : (s.onMac f).pw = s.pw := (rfl)
@[simp] theorem State.onMac_tb (f : Mac → Mac) : (s.onMac f).tb = s.tb := (rfl)
@[simp] theorem State.onMac_tdc (f : Mac → Mac) : (s.onMac f).tdc = s.tdc := (rfl)
@[simp] theorem State.onMac_sel (f : Mac → Mac) : (s.onMac f).sel = s.sel := (rfl)
@[simp] theorem State.onMac_outs (f : Mac → Mac) : (s.onMac f).outs = s.outs := (rfl)
@[simp] theorem State.onMac_gn (f : Mac → Mac) : (s.onMac f).gn = s.gn := (rfl)
@[simp] theorem State.onMac_mac (f : Mac → Mac) : (s.onMac f).mac = f s.mac := (rfl)
@[simp] theorem State.onMac_ts (f : Mac → Mac) : (s.onMac f).ts = s.ts := (rfl)
@[simp] theorem State.onMac_fab (f : Mac → Mac) : (s.onMac f).fab = s.fab := (rfl)
@[simp] theorem State.onMac_ntp (f : Mac → Mac) : (s.onMac f).ntp = s.ntp := (rfl)
@[simp] theorem State.onMac_ptp (f : Mac → Mac) : (s.onMac f).ptp = s.ptp := (rfl)
@[simp] theorem State.onMac_rt (f : Mac → Mac) : (s.onMac f).rt = s.rt := (rfl)
@[simp] theorem State.onMac_tsl (f : Mac → Mac) : (s.onMac f).tsl = s.tsl := (rfl)
@[simp] theorem State.onMac_bist (f : Mac → Mac) : (s.onMac f).bist = s.bist := (rfl)
@[simp] theorem State.onMac_perf (f : Mac → Mac) : (s.onMac f).perf = s.perf := (rfl)
@[simp] theorem State.onMac_jtag (f : Mac → Mac) : (s.onMac f).jtag = s.jtag := (rfl)
@[simp] theorem State.onMac_lease (f : Mac → Mac) : (s.onMac f).lease = s.lease := (rfl)
@[simp] theorem State.onMac_boot (f : Mac → Mac) : (s.onMac f).boot = s.boot := (rfl)
@[simp] theorem State.onMac_mg (f : Mac → Mac) : (s.onMac f).mg = s.mg := (rfl)
@[simp] theorem State.onMac_out (f : Mac → Mac) : (s.onMac f).out = s.out := (rfl)
@[simp] theorem State.onMac_free (f : Mac → Mac) : (s.onMac f).free = s.free := (rfl)
@[simp] theorem State.onMac_pending (f : Mac → Mac) : (s.onMac f).pending = s.pending := (rfl)
@[simp] theorem State.onTs_mode (f : Stamps → Stamps) : (s.onTs f).mode = s.mode := (rfl)
@[simp] theorem State.onTs_safeFromBoot (f : Stamps → Stamps) : (s.onTs f).safeFromBoot = s.safeFromBoot := (rfl)
@[simp] theorem State.onTs_rf (f : Stamps → Stamps) : (s.onTs f).rf = s.rf := (rfl)
@[simp] theorem State.onTs_bk (f : Stamps → Stamps) : (s.onTs f).bk = s.bk := (rfl)
@[simp] theorem State.onTs_pw (f : Stamps → Stamps) : (s.onTs f).pw = s.pw := (rfl)
@[simp] theorem State.onTs_tb (f : Stamps → Stamps) : (s.onTs f).tb = s.tb := (rfl)
@[simp] theorem State.onTs_tdc (f : Stamps → Stamps) : (s.onTs f).tdc = s.tdc := (rfl)
@[simp] theorem State.onTs_sel (f : Stamps → Stamps) : (s.onTs f).sel = s.sel := (rfl)
@[simp] theorem State.onTs_outs (f : Stamps → Stamps) : (s.onTs f).outs = s.outs := (rfl)
@[simp] theorem State.onTs_gn (f : Stamps → Stamps) : (s.onTs f).gn = s.gn := (rfl)
@[simp] theorem State.onTs_mac (f : Stamps → Stamps) : (s.onTs f).mac = s.mac := (rfl)
@[simp] theorem State.onTs_ts (f : Stamps → Stamps) : (s.onTs f).ts = f s.ts := (rfl)
@[simp] theorem State.onTs_fab (f : Stamps → Stamps) : (s.onTs f).fab = s.fab := (rfl)
@[simp] theorem State.onTs_ntp (f : Stamps → Stamps) : (s.onTs f).ntp = s.ntp := (rfl)
@[simp] theorem State.onTs_ptp (f : Stamps → Stamps) : (s.onTs f).ptp = s.ptp := (rfl)
@[simp] theorem State.onTs_rt (f : Stamps → Stamps) : (s.onTs f).rt = s.rt := (rfl)
@[simp] theorem State.onTs_tsl (f : Stamps → Stamps) : (s.onTs f).tsl = s.tsl := (rfl)
@[simp] theorem State.onTs_bist (f : Stamps → Stamps) : (s.onTs f).bist = s.bist := (rfl)
@[simp] theorem State.onTs_perf (f : Stamps → Stamps) : (s.onTs f).perf = s.perf := (rfl)
@[simp] theorem State.onTs_jtag (f : Stamps → Stamps) : (s.onTs f).jtag = s.jtag := (rfl)
@[simp] theorem State.onTs_lease (f : Stamps → Stamps) : (s.onTs f).lease = s.lease := (rfl)
@[simp] theorem State.onTs_boot (f : Stamps → Stamps) : (s.onTs f).boot = s.boot := (rfl)
@[simp] theorem State.onTs_mg (f : Stamps → Stamps) : (s.onTs f).mg = s.mg := (rfl)
@[simp] theorem State.onTs_out (f : Stamps → Stamps) : (s.onTs f).out = s.out := (rfl)
@[simp] theorem State.onTs_free (f : Stamps → Stamps) : (s.onTs f).free = s.free := (rfl)
@[simp] theorem State.onTs_pending (f : Stamps → Stamps) : (s.onTs f).pending = s.pending := (rfl)
@[simp] theorem State.onGn_mode (f : Gn → Gn) : (s.onGn f).mode = s.mode := (rfl)
@[simp] theorem State.onGn_safeFromBoot (f : Gn → Gn) : (s.onGn f).safeFromBoot = s.safeFromBoot := (rfl)
@[simp] theorem State.onGn_rf (f : Gn → Gn) : (s.onGn f).rf = s.rf := (rfl)
@[simp] theorem State.onGn_bk (f : Gn → Gn) : (s.onGn f).bk = s.bk := (rfl)
@[simp] theorem State.onGn_pw (f : Gn → Gn) : (s.onGn f).pw = s.pw := (rfl)
@[simp] theorem State.onGn_tb (f : Gn → Gn) : (s.onGn f).tb = s.tb := (rfl)
@[simp] theorem State.onGn_tdc (f : Gn → Gn) : (s.onGn f).tdc = s.tdc := (rfl)
@[simp] theorem State.onGn_sel (f : Gn → Gn) : (s.onGn f).sel = s.sel := (rfl)
@[simp] theorem State.onGn_outs (f : Gn → Gn) : (s.onGn f).outs = s.outs := (rfl)
@[simp] theorem State.onGn_gn (f : Gn → Gn) : (s.onGn f).gn = f s.gn := (rfl)
@[simp] theorem State.onGn_mac (f : Gn → Gn) : (s.onGn f).mac = s.mac := (rfl)
@[simp] theorem State.onGn_ts (f : Gn → Gn) : (s.onGn f).ts = s.ts := (rfl)
@[simp] theorem State.onGn_fab (f : Gn → Gn) : (s.onGn f).fab = s.fab := (rfl)
@[simp] theorem State.onGn_ntp (f : Gn → Gn) : (s.onGn f).ntp = s.ntp := (rfl)
@[simp] theorem State.onGn_ptp (f : Gn → Gn) : (s.onGn f).ptp = s.ptp := (rfl)
@[simp] theorem State.onGn_rt (f : Gn → Gn) : (s.onGn f).rt = s.rt := (rfl)
@[simp] theorem State.onGn_tsl (f : Gn → Gn) : (s.onGn f).tsl = s.tsl := (rfl)
@[simp] theorem State.onGn_bist (f : Gn → Gn) : (s.onGn f).bist = s.bist := (rfl)
@[simp] theorem State.onGn_perf (f : Gn → Gn) : (s.onGn f).perf = s.perf := (rfl)
@[simp] theorem State.onGn_jtag (f : Gn → Gn) : (s.onGn f).jtag = s.jtag := (rfl)
@[simp] theorem State.onGn_lease (f : Gn → Gn) : (s.onGn f).lease = s.lease := (rfl)
@[simp] theorem State.onGn_boot (f : Gn → Gn) : (s.onGn f).boot = s.boot := (rfl)
@[simp] theorem State.onGn_mg (f : Gn → Gn) : (s.onGn f).mg = s.mg := (rfl)
@[simp] theorem State.onGn_out (f : Gn → Gn) : (s.onGn f).out = s.out := (rfl)
@[simp] theorem State.onGn_free (f : Gn → Gn) : (s.onGn f).free = s.free := (rfl)
@[simp] theorem State.onGn_pending (f : Gn → Gn) : (s.onGn f).pending = s.pending := (rfl)
@[simp] theorem State.onRt_mode (f : Rt → Rt) : (s.onRt f).mode = s.mode := (rfl)
@[simp] theorem State.onRt_safeFromBoot (f : Rt → Rt) : (s.onRt f).safeFromBoot = s.safeFromBoot := (rfl)
@[simp] theorem State.onRt_rf (f : Rt → Rt) : (s.onRt f).rf = s.rf := (rfl)
@[simp] theorem State.onRt_bk (f : Rt → Rt) : (s.onRt f).bk = s.bk := (rfl)
@[simp] theorem State.onRt_pw (f : Rt → Rt) : (s.onRt f).pw = s.pw := (rfl)
@[simp] theorem State.onRt_tb (f : Rt → Rt) : (s.onRt f).tb = s.tb := (rfl)
@[simp] theorem State.onRt_tdc (f : Rt → Rt) : (s.onRt f).tdc = s.tdc := (rfl)
@[simp] theorem State.onRt_sel (f : Rt → Rt) : (s.onRt f).sel = s.sel := (rfl)
@[simp] theorem State.onRt_outs (f : Rt → Rt) : (s.onRt f).outs = s.outs := (rfl)
@[simp] theorem State.onRt_gn (f : Rt → Rt) : (s.onRt f).gn = s.gn := (rfl)
@[simp] theorem State.onRt_mac (f : Rt → Rt) : (s.onRt f).mac = s.mac := (rfl)
@[simp] theorem State.onRt_ts (f : Rt → Rt) : (s.onRt f).ts = s.ts := (rfl)
@[simp] theorem State.onRt_fab (f : Rt → Rt) : (s.onRt f).fab = s.fab := (rfl)
@[simp] theorem State.onRt_ntp (f : Rt → Rt) : (s.onRt f).ntp = s.ntp := (rfl)
@[simp] theorem State.onRt_ptp (f : Rt → Rt) : (s.onRt f).ptp = s.ptp := (rfl)
@[simp] theorem State.onRt_rt (f : Rt → Rt) : (s.onRt f).rt = f s.rt := (rfl)
@[simp] theorem State.onRt_tsl (f : Rt → Rt) : (s.onRt f).tsl = s.tsl := (rfl)
@[simp] theorem State.onRt_bist (f : Rt → Rt) : (s.onRt f).bist = s.bist := (rfl)
@[simp] theorem State.onRt_perf (f : Rt → Rt) : (s.onRt f).perf = s.perf := (rfl)
@[simp] theorem State.onRt_jtag (f : Rt → Rt) : (s.onRt f).jtag = s.jtag := (rfl)
@[simp] theorem State.onRt_lease (f : Rt → Rt) : (s.onRt f).lease = s.lease := (rfl)
@[simp] theorem State.onRt_boot (f : Rt → Rt) : (s.onRt f).boot = s.boot := (rfl)
@[simp] theorem State.onRt_mg (f : Rt → Rt) : (s.onRt f).mg = s.mg := (rfl)
@[simp] theorem State.onRt_out (f : Rt → Rt) : (s.onRt f).out = s.out := (rfl)
@[simp] theorem State.onRt_free (f : Rt → Rt) : (s.onRt f).free = s.free := (rfl)
@[simp] theorem State.onRt_pending (f : Rt → Rt) : (s.onRt f).pending = s.pending := (rfl)
@[simp] theorem State.onTsl_mode (f : Tsl → Tsl) : (s.onTsl f).mode = s.mode := (rfl)
@[simp] theorem State.onTsl_safeFromBoot (f : Tsl → Tsl) : (s.onTsl f).safeFromBoot = s.safeFromBoot := (rfl)
@[simp] theorem State.onTsl_rf (f : Tsl → Tsl) : (s.onTsl f).rf = s.rf := (rfl)
@[simp] theorem State.onTsl_bk (f : Tsl → Tsl) : (s.onTsl f).bk = s.bk := (rfl)
@[simp] theorem State.onTsl_pw (f : Tsl → Tsl) : (s.onTsl f).pw = s.pw := (rfl)
@[simp] theorem State.onTsl_tb (f : Tsl → Tsl) : (s.onTsl f).tb = s.tb := (rfl)
@[simp] theorem State.onTsl_tdc (f : Tsl → Tsl) : (s.onTsl f).tdc = s.tdc := (rfl)
@[simp] theorem State.onTsl_sel (f : Tsl → Tsl) : (s.onTsl f).sel = s.sel := (rfl)
@[simp] theorem State.onTsl_outs (f : Tsl → Tsl) : (s.onTsl f).outs = s.outs := (rfl)
@[simp] theorem State.onTsl_gn (f : Tsl → Tsl) : (s.onTsl f).gn = s.gn := (rfl)
@[simp] theorem State.onTsl_mac (f : Tsl → Tsl) : (s.onTsl f).mac = s.mac := (rfl)
@[simp] theorem State.onTsl_ts (f : Tsl → Tsl) : (s.onTsl f).ts = s.ts := (rfl)
@[simp] theorem State.onTsl_fab (f : Tsl → Tsl) : (s.onTsl f).fab = s.fab := (rfl)
@[simp] theorem State.onTsl_ntp (f : Tsl → Tsl) : (s.onTsl f).ntp = s.ntp := (rfl)
@[simp] theorem State.onTsl_ptp (f : Tsl → Tsl) : (s.onTsl f).ptp = s.ptp := (rfl)
@[simp] theorem State.onTsl_rt (f : Tsl → Tsl) : (s.onTsl f).rt = s.rt := (rfl)
@[simp] theorem State.onTsl_tsl (f : Tsl → Tsl) : (s.onTsl f).tsl = f s.tsl := (rfl)
@[simp] theorem State.onTsl_bist (f : Tsl → Tsl) : (s.onTsl f).bist = s.bist := (rfl)
@[simp] theorem State.onTsl_perf (f : Tsl → Tsl) : (s.onTsl f).perf = s.perf := (rfl)
@[simp] theorem State.onTsl_jtag (f : Tsl → Tsl) : (s.onTsl f).jtag = s.jtag := (rfl)
@[simp] theorem State.onTsl_lease (f : Tsl → Tsl) : (s.onTsl f).lease = s.lease := (rfl)
@[simp] theorem State.onTsl_boot (f : Tsl → Tsl) : (s.onTsl f).boot = s.boot := (rfl)
@[simp] theorem State.onTsl_mg (f : Tsl → Tsl) : (s.onTsl f).mg = s.mg := (rfl)
@[simp] theorem State.onTsl_out (f : Tsl → Tsl) : (s.onTsl f).out = s.out := (rfl)
@[simp] theorem State.onTsl_free (f : Tsl → Tsl) : (s.onTsl f).free = s.free := (rfl)
@[simp] theorem State.onTsl_pending (f : Tsl → Tsl) : (s.onTsl f).pending = s.pending := (rfl)
@[simp] theorem State.onBist_mode (f : Bist → Bist) : (s.onBist f).mode = s.mode := (rfl)
@[simp] theorem State.onBist_safeFromBoot (f : Bist → Bist) : (s.onBist f).safeFromBoot = s.safeFromBoot := (rfl)
@[simp] theorem State.onBist_rf (f : Bist → Bist) : (s.onBist f).rf = s.rf := (rfl)
@[simp] theorem State.onBist_bk (f : Bist → Bist) : (s.onBist f).bk = s.bk := (rfl)
@[simp] theorem State.onBist_pw (f : Bist → Bist) : (s.onBist f).pw = s.pw := (rfl)
@[simp] theorem State.onBist_tb (f : Bist → Bist) : (s.onBist f).tb = s.tb := (rfl)
@[simp] theorem State.onBist_tdc (f : Bist → Bist) : (s.onBist f).tdc = s.tdc := (rfl)
@[simp] theorem State.onBist_sel (f : Bist → Bist) : (s.onBist f).sel = s.sel := (rfl)
@[simp] theorem State.onBist_outs (f : Bist → Bist) : (s.onBist f).outs = s.outs := (rfl)
@[simp] theorem State.onBist_gn (f : Bist → Bist) : (s.onBist f).gn = s.gn := (rfl)
@[simp] theorem State.onBist_mac (f : Bist → Bist) : (s.onBist f).mac = s.mac := (rfl)
@[simp] theorem State.onBist_ts (f : Bist → Bist) : (s.onBist f).ts = s.ts := (rfl)
@[simp] theorem State.onBist_fab (f : Bist → Bist) : (s.onBist f).fab = s.fab := (rfl)
@[simp] theorem State.onBist_ntp (f : Bist → Bist) : (s.onBist f).ntp = s.ntp := (rfl)
@[simp] theorem State.onBist_ptp (f : Bist → Bist) : (s.onBist f).ptp = s.ptp := (rfl)
@[simp] theorem State.onBist_rt (f : Bist → Bist) : (s.onBist f).rt = s.rt := (rfl)
@[simp] theorem State.onBist_tsl (f : Bist → Bist) : (s.onBist f).tsl = s.tsl := (rfl)
@[simp] theorem State.onBist_bist (f : Bist → Bist) : (s.onBist f).bist = f s.bist := (rfl)
@[simp] theorem State.onBist_perf (f : Bist → Bist) : (s.onBist f).perf = s.perf := (rfl)
@[simp] theorem State.onBist_jtag (f : Bist → Bist) : (s.onBist f).jtag = s.jtag := (rfl)
@[simp] theorem State.onBist_lease (f : Bist → Bist) : (s.onBist f).lease = s.lease := (rfl)
@[simp] theorem State.onBist_boot (f : Bist → Bist) : (s.onBist f).boot = s.boot := (rfl)
@[simp] theorem State.onBist_mg (f : Bist → Bist) : (s.onBist f).mg = s.mg := (rfl)
@[simp] theorem State.onBist_out (f : Bist → Bist) : (s.onBist f).out = s.out := (rfl)
@[simp] theorem State.onBist_free (f : Bist → Bist) : (s.onBist f).free = s.free := (rfl)
@[simp] theorem State.onBist_pending (f : Bist → Bist) : (s.onBist f).pending = s.pending := (rfl)
@[simp] theorem State.onPerf_mode (f : Perf → Perf) : (s.onPerf f).mode = s.mode := (rfl)
@[simp] theorem State.onPerf_safeFromBoot (f : Perf → Perf) : (s.onPerf f).safeFromBoot = s.safeFromBoot := (rfl)
@[simp] theorem State.onPerf_rf (f : Perf → Perf) : (s.onPerf f).rf = s.rf := (rfl)
@[simp] theorem State.onPerf_bk (f : Perf → Perf) : (s.onPerf f).bk = s.bk := (rfl)
@[simp] theorem State.onPerf_pw (f : Perf → Perf) : (s.onPerf f).pw = s.pw := (rfl)
@[simp] theorem State.onPerf_tb (f : Perf → Perf) : (s.onPerf f).tb = s.tb := (rfl)
@[simp] theorem State.onPerf_tdc (f : Perf → Perf) : (s.onPerf f).tdc = s.tdc := (rfl)
@[simp] theorem State.onPerf_sel (f : Perf → Perf) : (s.onPerf f).sel = s.sel := (rfl)
@[simp] theorem State.onPerf_outs (f : Perf → Perf) : (s.onPerf f).outs = s.outs := (rfl)
@[simp] theorem State.onPerf_gn (f : Perf → Perf) : (s.onPerf f).gn = s.gn := (rfl)
@[simp] theorem State.onPerf_mac (f : Perf → Perf) : (s.onPerf f).mac = s.mac := (rfl)
@[simp] theorem State.onPerf_ts (f : Perf → Perf) : (s.onPerf f).ts = s.ts := (rfl)
@[simp] theorem State.onPerf_fab (f : Perf → Perf) : (s.onPerf f).fab = s.fab := (rfl)
@[simp] theorem State.onPerf_ntp (f : Perf → Perf) : (s.onPerf f).ntp = s.ntp := (rfl)
@[simp] theorem State.onPerf_ptp (f : Perf → Perf) : (s.onPerf f).ptp = s.ptp := (rfl)
@[simp] theorem State.onPerf_rt (f : Perf → Perf) : (s.onPerf f).rt = s.rt := (rfl)
@[simp] theorem State.onPerf_tsl (f : Perf → Perf) : (s.onPerf f).tsl = s.tsl := (rfl)
@[simp] theorem State.onPerf_bist (f : Perf → Perf) : (s.onPerf f).bist = s.bist := (rfl)
@[simp] theorem State.onPerf_perf (f : Perf → Perf) : (s.onPerf f).perf = f s.perf := (rfl)
@[simp] theorem State.onPerf_jtag (f : Perf → Perf) : (s.onPerf f).jtag = s.jtag := (rfl)
@[simp] theorem State.onPerf_lease (f : Perf → Perf) : (s.onPerf f).lease = s.lease := (rfl)
@[simp] theorem State.onPerf_boot (f : Perf → Perf) : (s.onPerf f).boot = s.boot := (rfl)
@[simp] theorem State.onPerf_mg (f : Perf → Perf) : (s.onPerf f).mg = s.mg := (rfl)
@[simp] theorem State.onPerf_out (f : Perf → Perf) : (s.onPerf f).out = s.out := (rfl)
@[simp] theorem State.onPerf_free (f : Perf → Perf) : (s.onPerf f).free = s.free := (rfl)
@[simp] theorem State.onPerf_pending (f : Perf → Perf) : (s.onPerf f).pending = s.pending := (rfl)
@[simp] theorem State.onJtag_mode (f : Jtag → Jtag) : (s.onJtag f).mode = s.mode := (rfl)
@[simp] theorem State.onJtag_safeFromBoot (f : Jtag → Jtag) : (s.onJtag f).safeFromBoot = s.safeFromBoot := (rfl)
@[simp] theorem State.onJtag_rf (f : Jtag → Jtag) : (s.onJtag f).rf = s.rf := (rfl)
@[simp] theorem State.onJtag_bk (f : Jtag → Jtag) : (s.onJtag f).bk = s.bk := (rfl)
@[simp] theorem State.onJtag_pw (f : Jtag → Jtag) : (s.onJtag f).pw = s.pw := (rfl)
@[simp] theorem State.onJtag_tb (f : Jtag → Jtag) : (s.onJtag f).tb = s.tb := (rfl)
@[simp] theorem State.onJtag_tdc (f : Jtag → Jtag) : (s.onJtag f).tdc = s.tdc := (rfl)
@[simp] theorem State.onJtag_sel (f : Jtag → Jtag) : (s.onJtag f).sel = s.sel := (rfl)
@[simp] theorem State.onJtag_outs (f : Jtag → Jtag) : (s.onJtag f).outs = s.outs := (rfl)
@[simp] theorem State.onJtag_gn (f : Jtag → Jtag) : (s.onJtag f).gn = s.gn := (rfl)
@[simp] theorem State.onJtag_mac (f : Jtag → Jtag) : (s.onJtag f).mac = s.mac := (rfl)
@[simp] theorem State.onJtag_ts (f : Jtag → Jtag) : (s.onJtag f).ts = s.ts := (rfl)
@[simp] theorem State.onJtag_fab (f : Jtag → Jtag) : (s.onJtag f).fab = s.fab := (rfl)
@[simp] theorem State.onJtag_ntp (f : Jtag → Jtag) : (s.onJtag f).ntp = s.ntp := (rfl)
@[simp] theorem State.onJtag_ptp (f : Jtag → Jtag) : (s.onJtag f).ptp = s.ptp := (rfl)
@[simp] theorem State.onJtag_rt (f : Jtag → Jtag) : (s.onJtag f).rt = s.rt := (rfl)
@[simp] theorem State.onJtag_tsl (f : Jtag → Jtag) : (s.onJtag f).tsl = s.tsl := (rfl)
@[simp] theorem State.onJtag_bist (f : Jtag → Jtag) : (s.onJtag f).bist = s.bist := (rfl)
@[simp] theorem State.onJtag_perf (f : Jtag → Jtag) : (s.onJtag f).perf = s.perf := (rfl)
@[simp] theorem State.onJtag_jtag (f : Jtag → Jtag) : (s.onJtag f).jtag = f s.jtag := (rfl)
@[simp] theorem State.onJtag_lease (f : Jtag → Jtag) : (s.onJtag f).lease = s.lease := (rfl)
@[simp] theorem State.onJtag_boot (f : Jtag → Jtag) : (s.onJtag f).boot = s.boot := (rfl)
@[simp] theorem State.onJtag_mg (f : Jtag → Jtag) : (s.onJtag f).mg = s.mg := (rfl)
@[simp] theorem State.onJtag_out (f : Jtag → Jtag) : (s.onJtag f).out = s.out := (rfl)
@[simp] theorem State.onJtag_free (f : Jtag → Jtag) : (s.onJtag f).free = s.free := (rfl)
@[simp] theorem State.onJtag_pending (f : Jtag → Jtag) : (s.onJtag f).pending = s.pending := (rfl)
@[simp] theorem State.onFab_mode (f : Fab → Fab) : (s.onFab f).mode = s.mode := (rfl)
@[simp] theorem State.onFab_safeFromBoot (f : Fab → Fab) : (s.onFab f).safeFromBoot = s.safeFromBoot := (rfl)
@[simp] theorem State.onFab_rf (f : Fab → Fab) : (s.onFab f).rf = s.rf := (rfl)
@[simp] theorem State.onFab_bk (f : Fab → Fab) : (s.onFab f).bk = s.bk := (rfl)
@[simp] theorem State.onFab_pw (f : Fab → Fab) : (s.onFab f).pw = s.pw := (rfl)
@[simp] theorem State.onFab_tb (f : Fab → Fab) : (s.onFab f).tb = s.tb := (rfl)
@[simp] theorem State.onFab_tdc (f : Fab → Fab) : (s.onFab f).tdc = s.tdc := (rfl)
@[simp] theorem State.onFab_sel (f : Fab → Fab) : (s.onFab f).sel = s.sel := (rfl)
@[simp] theorem State.onFab_outs (f : Fab → Fab) : (s.onFab f).outs = s.outs := (rfl)
@[simp] theorem State.onFab_gn (f : Fab → Fab) : (s.onFab f).gn = s.gn := (rfl)
@[simp] theorem State.onFab_mac (f : Fab → Fab) : (s.onFab f).mac = s.mac := (rfl)
@[simp] theorem State.onFab_ts (f : Fab → Fab) : (s.onFab f).ts = s.ts := (rfl)
@[simp] theorem State.onFab_fab (f : Fab → Fab) : (s.onFab f).fab = f s.fab := (rfl)
@[simp] theorem State.onFab_ntp (f : Fab → Fab) : (s.onFab f).ntp = s.ntp := (rfl)
@[simp] theorem State.onFab_ptp (f : Fab → Fab) : (s.onFab f).ptp = s.ptp := (rfl)
@[simp] theorem State.onFab_rt (f : Fab → Fab) : (s.onFab f).rt = s.rt := (rfl)
@[simp] theorem State.onFab_tsl (f : Fab → Fab) : (s.onFab f).tsl = s.tsl := (rfl)
@[simp] theorem State.onFab_bist (f : Fab → Fab) : (s.onFab f).bist = s.bist := (rfl)
@[simp] theorem State.onFab_perf (f : Fab → Fab) : (s.onFab f).perf = s.perf := (rfl)
@[simp] theorem State.onFab_jtag (f : Fab → Fab) : (s.onFab f).jtag = s.jtag := (rfl)
@[simp] theorem State.onFab_lease (f : Fab → Fab) : (s.onFab f).lease = s.lease := (rfl)
@[simp] theorem State.onFab_boot (f : Fab → Fab) : (s.onFab f).boot = s.boot := (rfl)
@[simp] theorem State.onFab_mg (f : Fab → Fab) : (s.onFab f).mg = s.mg := (rfl)
@[simp] theorem State.onFab_out (f : Fab → Fab) : (s.onFab f).out = s.out := (rfl)
@[simp] theorem State.onFab_free (f : Fab → Fab) : (s.onFab f).free = s.free := (rfl)
@[simp] theorem State.onFab_pending (f : Fab → Fab) : (s.onFab f).pending = s.pending := (rfl)
@[simp] theorem State.onNtp_mode (f : Ntp → Ntp) : (s.onNtp f).mode = s.mode := (rfl)
@[simp] theorem State.onNtp_safeFromBoot (f : Ntp → Ntp) : (s.onNtp f).safeFromBoot = s.safeFromBoot := (rfl)
@[simp] theorem State.onNtp_rf (f : Ntp → Ntp) : (s.onNtp f).rf = s.rf := (rfl)
@[simp] theorem State.onNtp_bk (f : Ntp → Ntp) : (s.onNtp f).bk = s.bk := (rfl)
@[simp] theorem State.onNtp_pw (f : Ntp → Ntp) : (s.onNtp f).pw = s.pw := (rfl)
@[simp] theorem State.onNtp_tb (f : Ntp → Ntp) : (s.onNtp f).tb = s.tb := (rfl)
@[simp] theorem State.onNtp_tdc (f : Ntp → Ntp) : (s.onNtp f).tdc = s.tdc := (rfl)
@[simp] theorem State.onNtp_sel (f : Ntp → Ntp) : (s.onNtp f).sel = s.sel := (rfl)
@[simp] theorem State.onNtp_outs (f : Ntp → Ntp) : (s.onNtp f).outs = s.outs := (rfl)
@[simp] theorem State.onNtp_gn (f : Ntp → Ntp) : (s.onNtp f).gn = s.gn := (rfl)
@[simp] theorem State.onNtp_mac (f : Ntp → Ntp) : (s.onNtp f).mac = s.mac := (rfl)
@[simp] theorem State.onNtp_ts (f : Ntp → Ntp) : (s.onNtp f).ts = s.ts := (rfl)
@[simp] theorem State.onNtp_fab (f : Ntp → Ntp) : (s.onNtp f).fab = s.fab := (rfl)
@[simp] theorem State.onNtp_ntp (f : Ntp → Ntp) : (s.onNtp f).ntp = f s.ntp := (rfl)
@[simp] theorem State.onNtp_ptp (f : Ntp → Ntp) : (s.onNtp f).ptp = s.ptp := (rfl)
@[simp] theorem State.onNtp_rt (f : Ntp → Ntp) : (s.onNtp f).rt = s.rt := (rfl)
@[simp] theorem State.onNtp_tsl (f : Ntp → Ntp) : (s.onNtp f).tsl = s.tsl := (rfl)
@[simp] theorem State.onNtp_bist (f : Ntp → Ntp) : (s.onNtp f).bist = s.bist := (rfl)
@[simp] theorem State.onNtp_perf (f : Ntp → Ntp) : (s.onNtp f).perf = s.perf := (rfl)
@[simp] theorem State.onNtp_jtag (f : Ntp → Ntp) : (s.onNtp f).jtag = s.jtag := (rfl)
@[simp] theorem State.onNtp_lease (f : Ntp → Ntp) : (s.onNtp f).lease = s.lease := (rfl)
@[simp] theorem State.onNtp_boot (f : Ntp → Ntp) : (s.onNtp f).boot = s.boot := (rfl)
@[simp] theorem State.onNtp_mg (f : Ntp → Ntp) : (s.onNtp f).mg = s.mg := (rfl)
@[simp] theorem State.onNtp_out (f : Ntp → Ntp) : (s.onNtp f).out = s.out := (rfl)
@[simp] theorem State.onNtp_free (f : Ntp → Ntp) : (s.onNtp f).free = s.free := (rfl)
@[simp] theorem State.onNtp_pending (f : Ntp → Ntp) : (s.onNtp f).pending = s.pending := (rfl)
@[simp] theorem State.onPtp_mode (f : Ptp → Ptp) : (s.onPtp f).mode = s.mode := (rfl)
@[simp] theorem State.onPtp_safeFromBoot (f : Ptp → Ptp) : (s.onPtp f).safeFromBoot = s.safeFromBoot := (rfl)
@[simp] theorem State.onPtp_rf (f : Ptp → Ptp) : (s.onPtp f).rf = s.rf := (rfl)
@[simp] theorem State.onPtp_bk (f : Ptp → Ptp) : (s.onPtp f).bk = s.bk := (rfl)
@[simp] theorem State.onPtp_pw (f : Ptp → Ptp) : (s.onPtp f).pw = s.pw := (rfl)
@[simp] theorem State.onPtp_tb (f : Ptp → Ptp) : (s.onPtp f).tb = s.tb := (rfl)
@[simp] theorem State.onPtp_tdc (f : Ptp → Ptp) : (s.onPtp f).tdc = s.tdc := (rfl)
@[simp] theorem State.onPtp_sel (f : Ptp → Ptp) : (s.onPtp f).sel = s.sel := (rfl)
@[simp] theorem State.onPtp_outs (f : Ptp → Ptp) : (s.onPtp f).outs = s.outs := (rfl)
@[simp] theorem State.onPtp_gn (f : Ptp → Ptp) : (s.onPtp f).gn = s.gn := (rfl)
@[simp] theorem State.onPtp_mac (f : Ptp → Ptp) : (s.onPtp f).mac = s.mac := (rfl)
@[simp] theorem State.onPtp_ts (f : Ptp → Ptp) : (s.onPtp f).ts = s.ts := (rfl)
@[simp] theorem State.onPtp_fab (f : Ptp → Ptp) : (s.onPtp f).fab = s.fab := (rfl)
@[simp] theorem State.onPtp_ntp (f : Ptp → Ptp) : (s.onPtp f).ntp = s.ntp := (rfl)
@[simp] theorem State.onPtp_ptp (f : Ptp → Ptp) : (s.onPtp f).ptp = f s.ptp := (rfl)
@[simp] theorem State.onPtp_rt (f : Ptp → Ptp) : (s.onPtp f).rt = s.rt := (rfl)
@[simp] theorem State.onPtp_tsl (f : Ptp → Ptp) : (s.onPtp f).tsl = s.tsl := (rfl)
@[simp] theorem State.onPtp_bist (f : Ptp → Ptp) : (s.onPtp f).bist = s.bist := (rfl)
@[simp] theorem State.onPtp_perf (f : Ptp → Ptp) : (s.onPtp f).perf = s.perf := (rfl)
@[simp] theorem State.onPtp_jtag (f : Ptp → Ptp) : (s.onPtp f).jtag = s.jtag := (rfl)
@[simp] theorem State.onPtp_lease (f : Ptp → Ptp) : (s.onPtp f).lease = s.lease := (rfl)
@[simp] theorem State.onPtp_boot (f : Ptp → Ptp) : (s.onPtp f).boot = s.boot := (rfl)
@[simp] theorem State.onPtp_mg (f : Ptp → Ptp) : (s.onPtp f).mg = s.mg := (rfl)
@[simp] theorem State.onPtp_out (f : Ptp → Ptp) : (s.onPtp f).out = s.out := (rfl)
@[simp] theorem State.onPtp_free (f : Ptp → Ptp) : (s.onPtp f).free = s.free := (rfl)
@[simp] theorem State.onPtp_pending (f : Ptp → Ptp) : (s.onPtp f).pending = s.pending := (rfl)
@[simp] theorem State.set_mode (F : Field) (v : Nat) : (s.set F v).mode = s.mode := (rfl)
@[simp] theorem State.set_safeFromBoot (F : Field) (v : Nat) : (s.set F v).safeFromBoot = s.safeFromBoot := (rfl)
@[simp] theorem State.set_bk (F : Field) (v : Nat) : (s.set F v).bk = s.bk := (rfl)
@[simp] theorem State.set_pw (F : Field) (v : Nat) : (s.set F v).pw = s.pw := (rfl)
@[simp] theorem State.set_tb (F : Field) (v : Nat) : (s.set F v).tb = s.tb := (rfl)
@[simp] theorem State.set_tdc (F : Field) (v : Nat) : (s.set F v).tdc = s.tdc := (rfl)
@[simp] theorem State.set_sel (F : Field) (v : Nat) : (s.set F v).sel = s.sel := (rfl)
@[simp] theorem State.set_outs (F : Field) (v : Nat) : (s.set F v).outs = s.outs := (rfl)
@[simp] theorem State.set_gn (F : Field) (v : Nat) : (s.set F v).gn = s.gn := (rfl)
@[simp] theorem State.set_mac (F : Field) (v : Nat) : (s.set F v).mac = s.mac := (rfl)
@[simp] theorem State.set_ts (F : Field) (v : Nat) : (s.set F v).ts = s.ts := (rfl)
@[simp] theorem State.set_fab (F : Field) (v : Nat) : (s.set F v).fab = s.fab := (rfl)
@[simp] theorem State.set_ntp (F : Field) (v : Nat) : (s.set F v).ntp = s.ntp := (rfl)
@[simp] theorem State.set_ptp (F : Field) (v : Nat) : (s.set F v).ptp = s.ptp := (rfl)
@[simp] theorem State.set_rt (F : Field) (v : Nat) : (s.set F v).rt = s.rt := (rfl)
@[simp] theorem State.set_tsl (F : Field) (v : Nat) : (s.set F v).tsl = s.tsl := (rfl)
@[simp] theorem State.set_bist (F : Field) (v : Nat) : (s.set F v).bist = s.bist := (rfl)
@[simp] theorem State.set_perf (F : Field) (v : Nat) : (s.set F v).perf = s.perf := (rfl)
@[simp] theorem State.set_jtag (F : Field) (v : Nat) : (s.set F v).jtag = s.jtag := (rfl)
@[simp] theorem State.set_lease (F : Field) (v : Nat) : (s.set F v).lease = s.lease := (rfl)
@[simp] theorem State.set_boot (F : Field) (v : Nat) : (s.set F v).boot = s.boot := (rfl)
@[simp] theorem State.set_mg (F : Field) (v : Nat) : (s.set F v).mg = s.mg := (rfl)
@[simp] theorem State.set_out (F : Field) (v : Nat) : (s.set F v).out = s.out := (rfl)
@[simp] theorem State.set_free (F : Field) (v : Nat) : (s.set F v).free = s.free := (rfl)
@[simp] theorem State.set_pending (F : Field) (v : Nat) : (s.set F v).pending = s.pending := (rfl)
@[simp] theorem State.setb_mode (F : Field) (b : Bool) : (s.setb F b).mode = s.mode := by
  simp only [State.setb, State.set_mode]
@[simp] theorem State.setb_safeFromBoot (F : Field) (b : Bool) : (s.setb F b).safeFromBoot = s.safeFromBoot := by
  simp only [State.setb, State.set_safeFromBoot]
@[simp] theorem State.setb_bk (F : Field) (b : Bool) : (s.setb F b).bk = s.bk := by
  simp only [State.setb, State.set_bk]
@[simp] theorem State.setb_pw (F : Field) (b : Bool) : (s.setb F b).pw = s.pw := by
  simp only [State.setb, State.set_pw]
@[simp] theorem State.setb_tb (F : Field) (b : Bool) : (s.setb F b).tb = s.tb := by
  simp only [State.setb, State.set_tb]
@[simp] theorem State.setb_tdc (F : Field) (b : Bool) : (s.setb F b).tdc = s.tdc := by
  simp only [State.setb, State.set_tdc]
@[simp] theorem State.setb_sel (F : Field) (b : Bool) : (s.setb F b).sel = s.sel := by
  simp only [State.setb, State.set_sel]
@[simp] theorem State.setb_outs (F : Field) (b : Bool) : (s.setb F b).outs = s.outs := by
  simp only [State.setb, State.set_outs]
@[simp] theorem State.setb_gn (F : Field) (b : Bool) : (s.setb F b).gn = s.gn := by
  simp only [State.setb, State.set_gn]
@[simp] theorem State.setb_mac (F : Field) (b : Bool) : (s.setb F b).mac = s.mac := by
  simp only [State.setb, State.set_mac]
@[simp] theorem State.setb_ts (F : Field) (b : Bool) : (s.setb F b).ts = s.ts := by
  simp only [State.setb, State.set_ts]
@[simp] theorem State.setb_fab (F : Field) (b : Bool) : (s.setb F b).fab = s.fab := by
  simp only [State.setb, State.set_fab]
@[simp] theorem State.setb_ntp (F : Field) (b : Bool) : (s.setb F b).ntp = s.ntp := by
  simp only [State.setb, State.set_ntp]
@[simp] theorem State.setb_ptp (F : Field) (b : Bool) : (s.setb F b).ptp = s.ptp := by
  simp only [State.setb, State.set_ptp]
@[simp] theorem State.setb_rt (F : Field) (b : Bool) : (s.setb F b).rt = s.rt := by
  simp only [State.setb, State.set_rt]
@[simp] theorem State.setb_tsl (F : Field) (b : Bool) : (s.setb F b).tsl = s.tsl := by
  simp only [State.setb, State.set_tsl]
@[simp] theorem State.setb_bist (F : Field) (b : Bool) : (s.setb F b).bist = s.bist := by
  simp only [State.setb, State.set_bist]
@[simp] theorem State.setb_perf (F : Field) (b : Bool) : (s.setb F b).perf = s.perf := by
  simp only [State.setb, State.set_perf]
@[simp] theorem State.setb_jtag (F : Field) (b : Bool) : (s.setb F b).jtag = s.jtag := by
  simp only [State.setb, State.set_jtag]
@[simp] theorem State.setb_lease (F : Field) (b : Bool) : (s.setb F b).lease = s.lease := by
  simp only [State.setb, State.set_lease]
@[simp] theorem State.setb_boot (F : Field) (b : Bool) : (s.setb F b).boot = s.boot := by
  simp only [State.setb, State.set_boot]
@[simp] theorem State.setb_mg (F : Field) (b : Bool) : (s.setb F b).mg = s.mg := by
  simp only [State.setb, State.set_mg]
@[simp] theorem State.setb_out (F : Field) (b : Bool) : (s.setb F b).out = s.out := by
  simp only [State.setb, State.set_out]
@[simp] theorem State.setb_free (F : Field) (b : Bool) : (s.setb F b).free = s.free := by
  simp only [State.setb, State.set_free]
@[simp] theorem State.setb_pending (F : Field) (b : Bool) : (s.setb F b).pending = s.pending := by
  simp only [State.setb, State.set_pending]
@[simp] theorem State.seti_mode (F : Field) (i : Int) : (s.seti F i).mode = s.mode := by
  simp only [State.seti, State.set_mode]
@[simp] theorem State.seti_safeFromBoot (F : Field) (i : Int) : (s.seti F i).safeFromBoot = s.safeFromBoot := by
  simp only [State.seti, State.set_safeFromBoot]
@[simp] theorem State.seti_bk (F : Field) (i : Int) : (s.seti F i).bk = s.bk := by
  simp only [State.seti, State.set_bk]
@[simp] theorem State.seti_pw (F : Field) (i : Int) : (s.seti F i).pw = s.pw := by
  simp only [State.seti, State.set_pw]
@[simp] theorem State.seti_tb (F : Field) (i : Int) : (s.seti F i).tb = s.tb := by
  simp only [State.seti, State.set_tb]
@[simp] theorem State.seti_tdc (F : Field) (i : Int) : (s.seti F i).tdc = s.tdc := by
  simp only [State.seti, State.set_tdc]
@[simp] theorem State.seti_sel (F : Field) (i : Int) : (s.seti F i).sel = s.sel := by
  simp only [State.seti, State.set_sel]
@[simp] theorem State.seti_outs (F : Field) (i : Int) : (s.seti F i).outs = s.outs := by
  simp only [State.seti, State.set_outs]
@[simp] theorem State.seti_gn (F : Field) (i : Int) : (s.seti F i).gn = s.gn := by
  simp only [State.seti, State.set_gn]
@[simp] theorem State.seti_mac (F : Field) (i : Int) : (s.seti F i).mac = s.mac := by
  simp only [State.seti, State.set_mac]
@[simp] theorem State.seti_ts (F : Field) (i : Int) : (s.seti F i).ts = s.ts := by
  simp only [State.seti, State.set_ts]
@[simp] theorem State.seti_fab (F : Field) (i : Int) : (s.seti F i).fab = s.fab := by
  simp only [State.seti, State.set_fab]
@[simp] theorem State.seti_ntp (F : Field) (i : Int) : (s.seti F i).ntp = s.ntp := by
  simp only [State.seti, State.set_ntp]
@[simp] theorem State.seti_ptp (F : Field) (i : Int) : (s.seti F i).ptp = s.ptp := by
  simp only [State.seti, State.set_ptp]
@[simp] theorem State.seti_rt (F : Field) (i : Int) : (s.seti F i).rt = s.rt := by
  simp only [State.seti, State.set_rt]
@[simp] theorem State.seti_tsl (F : Field) (i : Int) : (s.seti F i).tsl = s.tsl := by
  simp only [State.seti, State.set_tsl]
@[simp] theorem State.seti_bist (F : Field) (i : Int) : (s.seti F i).bist = s.bist := by
  simp only [State.seti, State.set_bist]
@[simp] theorem State.seti_perf (F : Field) (i : Int) : (s.seti F i).perf = s.perf := by
  simp only [State.seti, State.set_perf]
@[simp] theorem State.seti_jtag (F : Field) (i : Int) : (s.seti F i).jtag = s.jtag := by
  simp only [State.seti, State.set_jtag]
@[simp] theorem State.seti_lease (F : Field) (i : Int) : (s.seti F i).lease = s.lease := by
  simp only [State.seti, State.set_lease]
@[simp] theorem State.seti_boot (F : Field) (i : Int) : (s.seti F i).boot = s.boot := by
  simp only [State.seti, State.set_boot]
@[simp] theorem State.seti_mg (F : Field) (i : Int) : (s.seti F i).mg = s.mg := by
  simp only [State.seti, State.set_mg]
@[simp] theorem State.seti_out (F : Field) (i : Int) : (s.seti F i).out = s.out := by
  simp only [State.seti, State.set_out]
@[simp] theorem State.seti_free (F : Field) (i : Int) : (s.seti F i).free = s.free := by
  simp only [State.seti, State.set_free]
@[simp] theorem State.seti_pending (F : Field) (i : Int) : (s.seti F i).pending = s.pending := by
  simp only [State.seti, State.set_pending]
@[simp] theorem State.setSat_mode (F : Field) (v : Nat) : (s.setSat F v).mode = s.mode := by
  simp only [State.setSat, State.set_mode]
@[simp] theorem State.setSat_safeFromBoot (F : Field) (v : Nat) : (s.setSat F v).safeFromBoot = s.safeFromBoot := by
  simp only [State.setSat, State.set_safeFromBoot]
@[simp] theorem State.setSat_bk (F : Field) (v : Nat) : (s.setSat F v).bk = s.bk := by
  simp only [State.setSat, State.set_bk]
@[simp] theorem State.setSat_pw (F : Field) (v : Nat) : (s.setSat F v).pw = s.pw := by
  simp only [State.setSat, State.set_pw]
@[simp] theorem State.setSat_tb (F : Field) (v : Nat) : (s.setSat F v).tb = s.tb := by
  simp only [State.setSat, State.set_tb]
@[simp] theorem State.setSat_tdc (F : Field) (v : Nat) : (s.setSat F v).tdc = s.tdc := by
  simp only [State.setSat, State.set_tdc]
@[simp] theorem State.setSat_sel (F : Field) (v : Nat) : (s.setSat F v).sel = s.sel := by
  simp only [State.setSat, State.set_sel]
@[simp] theorem State.setSat_outs (F : Field) (v : Nat) : (s.setSat F v).outs = s.outs := by
  simp only [State.setSat, State.set_outs]
@[simp] theorem State.setSat_gn (F : Field) (v : Nat) : (s.setSat F v).gn = s.gn := by
  simp only [State.setSat, State.set_gn]
@[simp] theorem State.setSat_mac (F : Field) (v : Nat) : (s.setSat F v).mac = s.mac := by
  simp only [State.setSat, State.set_mac]
@[simp] theorem State.setSat_ts (F : Field) (v : Nat) : (s.setSat F v).ts = s.ts := by
  simp only [State.setSat, State.set_ts]
@[simp] theorem State.setSat_fab (F : Field) (v : Nat) : (s.setSat F v).fab = s.fab := by
  simp only [State.setSat, State.set_fab]
@[simp] theorem State.setSat_ntp (F : Field) (v : Nat) : (s.setSat F v).ntp = s.ntp := by
  simp only [State.setSat, State.set_ntp]
@[simp] theorem State.setSat_ptp (F : Field) (v : Nat) : (s.setSat F v).ptp = s.ptp := by
  simp only [State.setSat, State.set_ptp]
@[simp] theorem State.setSat_rt (F : Field) (v : Nat) : (s.setSat F v).rt = s.rt := by
  simp only [State.setSat, State.set_rt]
@[simp] theorem State.setSat_tsl (F : Field) (v : Nat) : (s.setSat F v).tsl = s.tsl := by
  simp only [State.setSat, State.set_tsl]
@[simp] theorem State.setSat_bist (F : Field) (v : Nat) : (s.setSat F v).bist = s.bist := by
  simp only [State.setSat, State.set_bist]
@[simp] theorem State.setSat_perf (F : Field) (v : Nat) : (s.setSat F v).perf = s.perf := by
  simp only [State.setSat, State.set_perf]
@[simp] theorem State.setSat_jtag (F : Field) (v : Nat) : (s.setSat F v).jtag = s.jtag := by
  simp only [State.setSat, State.set_jtag]
@[simp] theorem State.setSat_lease (F : Field) (v : Nat) : (s.setSat F v).lease = s.lease := by
  simp only [State.setSat, State.set_lease]
@[simp] theorem State.setSat_boot (F : Field) (v : Nat) : (s.setSat F v).boot = s.boot := by
  simp only [State.setSat, State.set_boot]
@[simp] theorem State.setSat_mg (F : Field) (v : Nat) : (s.setSat F v).mg = s.mg := by
  simp only [State.setSat, State.set_mg]
@[simp] theorem State.setSat_out (F : Field) (v : Nat) : (s.setSat F v).out = s.out := by
  simp only [State.setSat, State.set_out]
@[simp] theorem State.setSat_free (F : Field) (v : Nat) : (s.setSat F v).free = s.free := by
  simp only [State.setSat, State.set_free]
@[simp] theorem State.setSat_pending (F : Field) (v : Nat) : (s.setSat F v).pending = s.pending := by
  simp only [State.setSat, State.set_pending]
@[simp] theorem State.bump_mode (F : Field) (n : Nat) : (s.bump F n).mode = s.mode := by
  simp only [State.bump, State.setSat, State.set_mode]
@[simp] theorem State.bump_safeFromBoot (F : Field) (n : Nat) : (s.bump F n).safeFromBoot = s.safeFromBoot := by
  simp only [State.bump, State.setSat, State.set_safeFromBoot]
@[simp] theorem State.bump_bk (F : Field) (n : Nat) : (s.bump F n).bk = s.bk := by
  simp only [State.bump, State.setSat, State.set_bk]
@[simp] theorem State.bump_pw (F : Field) (n : Nat) : (s.bump F n).pw = s.pw := by
  simp only [State.bump, State.setSat, State.set_pw]
@[simp] theorem State.bump_tb (F : Field) (n : Nat) : (s.bump F n).tb = s.tb := by
  simp only [State.bump, State.setSat, State.set_tb]
@[simp] theorem State.bump_tdc (F : Field) (n : Nat) : (s.bump F n).tdc = s.tdc := by
  simp only [State.bump, State.setSat, State.set_tdc]
@[simp] theorem State.bump_sel (F : Field) (n : Nat) : (s.bump F n).sel = s.sel := by
  simp only [State.bump, State.setSat, State.set_sel]
@[simp] theorem State.bump_outs (F : Field) (n : Nat) : (s.bump F n).outs = s.outs := by
  simp only [State.bump, State.setSat, State.set_outs]
@[simp] theorem State.bump_gn (F : Field) (n : Nat) : (s.bump F n).gn = s.gn := by
  simp only [State.bump, State.setSat, State.set_gn]
@[simp] theorem State.bump_mac (F : Field) (n : Nat) : (s.bump F n).mac = s.mac := by
  simp only [State.bump, State.setSat, State.set_mac]
@[simp] theorem State.bump_ts (F : Field) (n : Nat) : (s.bump F n).ts = s.ts := by
  simp only [State.bump, State.setSat, State.set_ts]
@[simp] theorem State.bump_fab (F : Field) (n : Nat) : (s.bump F n).fab = s.fab := by
  simp only [State.bump, State.setSat, State.set_fab]
@[simp] theorem State.bump_ntp (F : Field) (n : Nat) : (s.bump F n).ntp = s.ntp := by
  simp only [State.bump, State.setSat, State.set_ntp]
@[simp] theorem State.bump_ptp (F : Field) (n : Nat) : (s.bump F n).ptp = s.ptp := by
  simp only [State.bump, State.setSat, State.set_ptp]
@[simp] theorem State.bump_rt (F : Field) (n : Nat) : (s.bump F n).rt = s.rt := by
  simp only [State.bump, State.setSat, State.set_rt]
@[simp] theorem State.bump_tsl (F : Field) (n : Nat) : (s.bump F n).tsl = s.tsl := by
  simp only [State.bump, State.setSat, State.set_tsl]
@[simp] theorem State.bump_bist (F : Field) (n : Nat) : (s.bump F n).bist = s.bist := by
  simp only [State.bump, State.setSat, State.set_bist]
@[simp] theorem State.bump_perf (F : Field) (n : Nat) : (s.bump F n).perf = s.perf := by
  simp only [State.bump, State.setSat, State.set_perf]
@[simp] theorem State.bump_jtag (F : Field) (n : Nat) : (s.bump F n).jtag = s.jtag := by
  simp only [State.bump, State.setSat, State.set_jtag]
@[simp] theorem State.bump_lease (F : Field) (n : Nat) : (s.bump F n).lease = s.lease := by
  simp only [State.bump, State.setSat, State.set_lease]
@[simp] theorem State.bump_boot (F : Field) (n : Nat) : (s.bump F n).boot = s.boot := by
  simp only [State.bump, State.setSat, State.set_boot]
@[simp] theorem State.bump_mg (F : Field) (n : Nat) : (s.bump F n).mg = s.mg := by
  simp only [State.bump, State.setSat, State.set_mg]
@[simp] theorem State.bump_out (F : Field) (n : Nat) : (s.bump F n).out = s.out := by
  simp only [State.bump, State.setSat, State.set_out]
@[simp] theorem State.bump_free (F : Field) (n : Nat) : (s.bump F n).free = s.free := by
  simp only [State.bump, State.setSat, State.set_free]
@[simp] theorem State.bump_pending (F : Field) (n : Nat) : (s.bump F n).pending = s.pending := by
  simp only [State.bump, State.setSat, State.set_pending]
@[simp] theorem State.clr_mode (F : Field) : (s.clr F).mode = s.mode := by
  simp only [State.clr, State.set_mode]
@[simp] theorem State.clr_safeFromBoot (F : Field) : (s.clr F).safeFromBoot = s.safeFromBoot := by
  simp only [State.clr, State.set_safeFromBoot]
@[simp] theorem State.clr_bk (F : Field) : (s.clr F).bk = s.bk := by
  simp only [State.clr, State.set_bk]
@[simp] theorem State.clr_pw (F : Field) : (s.clr F).pw = s.pw := by
  simp only [State.clr, State.set_pw]
@[simp] theorem State.clr_tb (F : Field) : (s.clr F).tb = s.tb := by
  simp only [State.clr, State.set_tb]
@[simp] theorem State.clr_tdc (F : Field) : (s.clr F).tdc = s.tdc := by
  simp only [State.clr, State.set_tdc]
@[simp] theorem State.clr_sel (F : Field) : (s.clr F).sel = s.sel := by
  simp only [State.clr, State.set_sel]
@[simp] theorem State.clr_outs (F : Field) : (s.clr F).outs = s.outs := by
  simp only [State.clr, State.set_outs]
@[simp] theorem State.clr_gn (F : Field) : (s.clr F).gn = s.gn := by
  simp only [State.clr, State.set_gn]
@[simp] theorem State.clr_mac (F : Field) : (s.clr F).mac = s.mac := by
  simp only [State.clr, State.set_mac]
@[simp] theorem State.clr_ts (F : Field) : (s.clr F).ts = s.ts := by
  simp only [State.clr, State.set_ts]
@[simp] theorem State.clr_fab (F : Field) : (s.clr F).fab = s.fab := by
  simp only [State.clr, State.set_fab]
@[simp] theorem State.clr_ntp (F : Field) : (s.clr F).ntp = s.ntp := by
  simp only [State.clr, State.set_ntp]
@[simp] theorem State.clr_ptp (F : Field) : (s.clr F).ptp = s.ptp := by
  simp only [State.clr, State.set_ptp]
@[simp] theorem State.clr_rt (F : Field) : (s.clr F).rt = s.rt := by
  simp only [State.clr, State.set_rt]
@[simp] theorem State.clr_tsl (F : Field) : (s.clr F).tsl = s.tsl := by
  simp only [State.clr, State.set_tsl]
@[simp] theorem State.clr_bist (F : Field) : (s.clr F).bist = s.bist := by
  simp only [State.clr, State.set_bist]
@[simp] theorem State.clr_perf (F : Field) : (s.clr F).perf = s.perf := by
  simp only [State.clr, State.set_perf]
@[simp] theorem State.clr_jtag (F : Field) : (s.clr F).jtag = s.jtag := by
  simp only [State.clr, State.set_jtag]
@[simp] theorem State.clr_lease (F : Field) : (s.clr F).lease = s.lease := by
  simp only [State.clr, State.set_lease]
@[simp] theorem State.clr_boot (F : Field) : (s.clr F).boot = s.boot := by
  simp only [State.clr, State.set_boot]
@[simp] theorem State.clr_mg (F : Field) : (s.clr F).mg = s.mg := by
  simp only [State.clr, State.set_mg]
@[simp] theorem State.clr_out (F : Field) : (s.clr F).out = s.out := by
  simp only [State.clr, State.set_out]
@[simp] theorem State.clr_free (F : Field) : (s.clr F).free = s.free := by
  simp only [State.clr, State.set_free]
@[simp] theorem State.clr_pending (F : Field) : (s.clr F).pending = s.pending := by
  simp only [State.clr, State.set_pending]
@[simp] theorem State.setTs_mode (F : Nat → Field) (t : Nat) : (s.setTs F t).mode = s.mode := by
  simp only [State.setTs, State.set_mode]
@[simp] theorem State.setTs_safeFromBoot (F : Nat → Field) (t : Nat) : (s.setTs F t).safeFromBoot = s.safeFromBoot := by
  simp only [State.setTs, State.set_safeFromBoot]
@[simp] theorem State.setTs_bk (F : Nat → Field) (t : Nat) : (s.setTs F t).bk = s.bk := by
  simp only [State.setTs, State.set_bk]
@[simp] theorem State.setTs_pw (F : Nat → Field) (t : Nat) : (s.setTs F t).pw = s.pw := by
  simp only [State.setTs, State.set_pw]
@[simp] theorem State.setTs_tb (F : Nat → Field) (t : Nat) : (s.setTs F t).tb = s.tb := by
  simp only [State.setTs, State.set_tb]
@[simp] theorem State.setTs_tdc (F : Nat → Field) (t : Nat) : (s.setTs F t).tdc = s.tdc := by
  simp only [State.setTs, State.set_tdc]
@[simp] theorem State.setTs_sel (F : Nat → Field) (t : Nat) : (s.setTs F t).sel = s.sel := by
  simp only [State.setTs, State.set_sel]
@[simp] theorem State.setTs_outs (F : Nat → Field) (t : Nat) : (s.setTs F t).outs = s.outs := by
  simp only [State.setTs, State.set_outs]
@[simp] theorem State.setTs_gn (F : Nat → Field) (t : Nat) : (s.setTs F t).gn = s.gn := by
  simp only [State.setTs, State.set_gn]
@[simp] theorem State.setTs_mac (F : Nat → Field) (t : Nat) : (s.setTs F t).mac = s.mac := by
  simp only [State.setTs, State.set_mac]
@[simp] theorem State.setTs_ts (F : Nat → Field) (t : Nat) : (s.setTs F t).ts = s.ts := by
  simp only [State.setTs, State.set_ts]
@[simp] theorem State.setTs_fab (F : Nat → Field) (t : Nat) : (s.setTs F t).fab = s.fab := by
  simp only [State.setTs, State.set_fab]
@[simp] theorem State.setTs_ntp (F : Nat → Field) (t : Nat) : (s.setTs F t).ntp = s.ntp := by
  simp only [State.setTs, State.set_ntp]
@[simp] theorem State.setTs_ptp (F : Nat → Field) (t : Nat) : (s.setTs F t).ptp = s.ptp := by
  simp only [State.setTs, State.set_ptp]
@[simp] theorem State.setTs_rt (F : Nat → Field) (t : Nat) : (s.setTs F t).rt = s.rt := by
  simp only [State.setTs, State.set_rt]
@[simp] theorem State.setTs_tsl (F : Nat → Field) (t : Nat) : (s.setTs F t).tsl = s.tsl := by
  simp only [State.setTs, State.set_tsl]
@[simp] theorem State.setTs_bist (F : Nat → Field) (t : Nat) : (s.setTs F t).bist = s.bist := by
  simp only [State.setTs, State.set_bist]
@[simp] theorem State.setTs_perf (F : Nat → Field) (t : Nat) : (s.setTs F t).perf = s.perf := by
  simp only [State.setTs, State.set_perf]
@[simp] theorem State.setTs_jtag (F : Nat → Field) (t : Nat) : (s.setTs F t).jtag = s.jtag := by
  simp only [State.setTs, State.set_jtag]
@[simp] theorem State.setTs_lease (F : Nat → Field) (t : Nat) : (s.setTs F t).lease = s.lease := by
  simp only [State.setTs, State.set_lease]
@[simp] theorem State.setTs_boot (F : Nat → Field) (t : Nat) : (s.setTs F t).boot = s.boot := by
  simp only [State.setTs, State.set_boot]
@[simp] theorem State.setTs_mg (F : Nat → Field) (t : Nat) : (s.setTs F t).mg = s.mg := by
  simp only [State.setTs, State.set_mg]
@[simp] theorem State.setTs_out (F : Nat → Field) (t : Nat) : (s.setTs F t).out = s.out := by
  simp only [State.setTs, State.set_out]
@[simp] theorem State.setTs_free (F : Nat → Field) (t : Nat) : (s.setTs F t).free = s.free := by
  simp only [State.setTs, State.set_free]
@[simp] theorem State.setTs_pending (F : Nat → Field) (t : Nat) : (s.setTs F t).pending = s.pending := by
  simp only [State.setTs, State.set_pending]
@[simp] theorem State.set64_mode (F G : Field) (v : Nat) : (s.set64 F G v).mode = s.mode := by
  simp only [State.set64, State.set_mode]
@[simp] theorem State.set64_safeFromBoot (F G : Field) (v : Nat) : (s.set64 F G v).safeFromBoot = s.safeFromBoot := by
  simp only [State.set64, State.set_safeFromBoot]
@[simp] theorem State.set64_bk (F G : Field) (v : Nat) : (s.set64 F G v).bk = s.bk := by
  simp only [State.set64, State.set_bk]
@[simp] theorem State.set64_pw (F G : Field) (v : Nat) : (s.set64 F G v).pw = s.pw := by
  simp only [State.set64, State.set_pw]
@[simp] theorem State.set64_tb (F G : Field) (v : Nat) : (s.set64 F G v).tb = s.tb := by
  simp only [State.set64, State.set_tb]
@[simp] theorem State.set64_tdc (F G : Field) (v : Nat) : (s.set64 F G v).tdc = s.tdc := by
  simp only [State.set64, State.set_tdc]
@[simp] theorem State.set64_sel (F G : Field) (v : Nat) : (s.set64 F G v).sel = s.sel := by
  simp only [State.set64, State.set_sel]
@[simp] theorem State.set64_outs (F G : Field) (v : Nat) : (s.set64 F G v).outs = s.outs := by
  simp only [State.set64, State.set_outs]
@[simp] theorem State.set64_gn (F G : Field) (v : Nat) : (s.set64 F G v).gn = s.gn := by
  simp only [State.set64, State.set_gn]
@[simp] theorem State.set64_mac (F G : Field) (v : Nat) : (s.set64 F G v).mac = s.mac := by
  simp only [State.set64, State.set_mac]
@[simp] theorem State.set64_ts (F G : Field) (v : Nat) : (s.set64 F G v).ts = s.ts := by
  simp only [State.set64, State.set_ts]
@[simp] theorem State.set64_fab (F G : Field) (v : Nat) : (s.set64 F G v).fab = s.fab := by
  simp only [State.set64, State.set_fab]
@[simp] theorem State.set64_ntp (F G : Field) (v : Nat) : (s.set64 F G v).ntp = s.ntp := by
  simp only [State.set64, State.set_ntp]
@[simp] theorem State.set64_ptp (F G : Field) (v : Nat) : (s.set64 F G v).ptp = s.ptp := by
  simp only [State.set64, State.set_ptp]
@[simp] theorem State.set64_rt (F G : Field) (v : Nat) : (s.set64 F G v).rt = s.rt := by
  simp only [State.set64, State.set_rt]
@[simp] theorem State.set64_tsl (F G : Field) (v : Nat) : (s.set64 F G v).tsl = s.tsl := by
  simp only [State.set64, State.set_tsl]
@[simp] theorem State.set64_bist (F G : Field) (v : Nat) : (s.set64 F G v).bist = s.bist := by
  simp only [State.set64, State.set_bist]
@[simp] theorem State.set64_perf (F G : Field) (v : Nat) : (s.set64 F G v).perf = s.perf := by
  simp only [State.set64, State.set_perf]
@[simp] theorem State.set64_jtag (F G : Field) (v : Nat) : (s.set64 F G v).jtag = s.jtag := by
  simp only [State.set64, State.set_jtag]
@[simp] theorem State.set64_lease (F G : Field) (v : Nat) : (s.set64 F G v).lease = s.lease := by
  simp only [State.set64, State.set_lease]
@[simp] theorem State.set64_boot (F G : Field) (v : Nat) : (s.set64 F G v).boot = s.boot := by
  simp only [State.set64, State.set_boot]
@[simp] theorem State.set64_mg (F G : Field) (v : Nat) : (s.set64 F G v).mg = s.mg := by
  simp only [State.set64, State.set_mg]
@[simp] theorem State.set64_out (F G : Field) (v : Nat) : (s.set64 F G v).out = s.out := by
  simp only [State.set64, State.set_out]
@[simp] theorem State.set64_free (F G : Field) (v : Nat) : (s.set64 F G v).free = s.free := by
  simp only [State.set64, State.set_free]
@[simp] theorem State.set64_pending (F G : Field) (v : Nat) : (s.set64 F G v).pending = s.pending := by
  simp only [State.set64, State.set_pending]
@[simp] theorem State.irq_mode (b : Nat) : (s.irq b).mode = s.mode := by
  simp only [State.irq, State.set_mode]
@[simp] theorem State.irq_safeFromBoot (b : Nat) : (s.irq b).safeFromBoot = s.safeFromBoot := by
  simp only [State.irq, State.set_safeFromBoot]
@[simp] theorem State.irq_bk (b : Nat) : (s.irq b).bk = s.bk := by
  simp only [State.irq, State.set_bk]
@[simp] theorem State.irq_pw (b : Nat) : (s.irq b).pw = s.pw := by
  simp only [State.irq, State.set_pw]
@[simp] theorem State.irq_tb (b : Nat) : (s.irq b).tb = s.tb := by
  simp only [State.irq, State.set_tb]
@[simp] theorem State.irq_tdc (b : Nat) : (s.irq b).tdc = s.tdc := by
  simp only [State.irq, State.set_tdc]
@[simp] theorem State.irq_sel (b : Nat) : (s.irq b).sel = s.sel := by
  simp only [State.irq, State.set_sel]
@[simp] theorem State.irq_outs (b : Nat) : (s.irq b).outs = s.outs := by
  simp only [State.irq, State.set_outs]
@[simp] theorem State.irq_gn (b : Nat) : (s.irq b).gn = s.gn := by
  simp only [State.irq, State.set_gn]
@[simp] theorem State.irq_mac (b : Nat) : (s.irq b).mac = s.mac := by
  simp only [State.irq, State.set_mac]
@[simp] theorem State.irq_ts (b : Nat) : (s.irq b).ts = s.ts := by
  simp only [State.irq, State.set_ts]
@[simp] theorem State.irq_fab (b : Nat) : (s.irq b).fab = s.fab := by
  simp only [State.irq, State.set_fab]
@[simp] theorem State.irq_ntp (b : Nat) : (s.irq b).ntp = s.ntp := by
  simp only [State.irq, State.set_ntp]
@[simp] theorem State.irq_ptp (b : Nat) : (s.irq b).ptp = s.ptp := by
  simp only [State.irq, State.set_ptp]
@[simp] theorem State.irq_rt (b : Nat) : (s.irq b).rt = s.rt := by
  simp only [State.irq, State.set_rt]
@[simp] theorem State.irq_tsl (b : Nat) : (s.irq b).tsl = s.tsl := by
  simp only [State.irq, State.set_tsl]
@[simp] theorem State.irq_bist (b : Nat) : (s.irq b).bist = s.bist := by
  simp only [State.irq, State.set_bist]
@[simp] theorem State.irq_perf (b : Nat) : (s.irq b).perf = s.perf := by
  simp only [State.irq, State.set_perf]
@[simp] theorem State.irq_jtag (b : Nat) : (s.irq b).jtag = s.jtag := by
  simp only [State.irq, State.set_jtag]
@[simp] theorem State.irq_lease (b : Nat) : (s.irq b).lease = s.lease := by
  simp only [State.irq, State.set_lease]
@[simp] theorem State.irq_boot (b : Nat) : (s.irq b).boot = s.boot := by
  simp only [State.irq, State.set_boot]
@[simp] theorem State.irq_mg (b : Nat) : (s.irq b).mg = s.mg := by
  simp only [State.irq, State.set_mg]
@[simp] theorem State.irq_out (b : Nat) : (s.irq b).out = s.out := by
  simp only [State.irq, State.set_out]
@[simp] theorem State.irq_free (b : Nat) : (s.irq b).free = s.free := by
  simp only [State.irq, State.set_free]
@[simp] theorem State.irq_pending (b : Nat) : (s.irq b).pending = s.pending := by
  simp only [State.irq, State.set_pending]
@[simp] theorem State.drawn_mode : (s.drawn).mode = s.mode := (rfl)
@[simp] theorem State.drawn_safeFromBoot : (s.drawn).safeFromBoot = s.safeFromBoot := (rfl)
@[simp] theorem State.drawn_rf : (s.drawn).rf = s.rf := (rfl)
@[simp] theorem State.drawn_bk : (s.drawn).bk = s.bk := (rfl)
@[simp] theorem State.drawn_pw : (s.drawn).pw = s.pw := (rfl)
@[simp] theorem State.drawn_tb : (s.drawn).tb = s.tb := (rfl)
@[simp] theorem State.drawn_tdc : (s.drawn).tdc = s.tdc := (rfl)
@[simp] theorem State.drawn_sel : (s.drawn).sel = s.sel := (rfl)
@[simp] theorem State.drawn_outs : (s.drawn).outs = s.outs := (rfl)
@[simp] theorem State.drawn_gn : (s.drawn).gn = s.gn := (rfl)
@[simp] theorem State.drawn_mac : (s.drawn).mac = s.mac := (rfl)
@[simp] theorem State.drawn_ts : (s.drawn).ts = s.ts := (rfl)
@[simp] theorem State.drawn_fab : (s.drawn).fab = s.fab := (rfl)
@[simp] theorem State.drawn_ntp : (s.drawn).ntp = s.ntp := (rfl)
@[simp] theorem State.drawn_ptp : (s.drawn).ptp = s.ptp := (rfl)
@[simp] theorem State.drawn_rt : (s.drawn).rt = s.rt := (rfl)
@[simp] theorem State.drawn_tsl : (s.drawn).tsl = s.tsl := (rfl)
@[simp] theorem State.drawn_bist : (s.drawn).bist = s.bist := (rfl)
@[simp] theorem State.drawn_perf : (s.drawn).perf = s.perf := (rfl)
@[simp] theorem State.drawn_jtag : (s.drawn).jtag = s.jtag := (rfl)
@[simp] theorem State.drawn_lease : (s.drawn).lease = s.lease := (rfl)
@[simp] theorem State.drawn_boot : (s.drawn).boot = s.boot := (rfl)
@[simp] theorem State.drawn_mg : (s.drawn).mg = s.mg := (rfl)
@[simp] theorem State.drawn_out : (s.drawn).out = s.out := (rfl)
@[simp] theorem State.drawn_pending : (s.drawn).pending = s.pending := (rfl)
@[simp] theorem State.drawnBy_mode (n : Nat) : (s.drawnBy n).mode = s.mode := (rfl)
@[simp] theorem State.drawnBy_safeFromBoot (n : Nat) : (s.drawnBy n).safeFromBoot = s.safeFromBoot := (rfl)
@[simp] theorem State.drawnBy_rf (n : Nat) : (s.drawnBy n).rf = s.rf := (rfl)
@[simp] theorem State.drawnBy_bk (n : Nat) : (s.drawnBy n).bk = s.bk := (rfl)
@[simp] theorem State.drawnBy_pw (n : Nat) : (s.drawnBy n).pw = s.pw := (rfl)
@[simp] theorem State.drawnBy_tb (n : Nat) : (s.drawnBy n).tb = s.tb := (rfl)
@[simp] theorem State.drawnBy_tdc (n : Nat) : (s.drawnBy n).tdc = s.tdc := (rfl)
@[simp] theorem State.drawnBy_sel (n : Nat) : (s.drawnBy n).sel = s.sel := (rfl)
@[simp] theorem State.drawnBy_outs (n : Nat) : (s.drawnBy n).outs = s.outs := (rfl)
@[simp] theorem State.drawnBy_gn (n : Nat) : (s.drawnBy n).gn = s.gn := (rfl)
@[simp] theorem State.drawnBy_mac (n : Nat) : (s.drawnBy n).mac = s.mac := (rfl)
@[simp] theorem State.drawnBy_ts (n : Nat) : (s.drawnBy n).ts = s.ts := (rfl)
@[simp] theorem State.drawnBy_fab (n : Nat) : (s.drawnBy n).fab = s.fab := (rfl)
@[simp] theorem State.drawnBy_ntp (n : Nat) : (s.drawnBy n).ntp = s.ntp := (rfl)
@[simp] theorem State.drawnBy_ptp (n : Nat) : (s.drawnBy n).ptp = s.ptp := (rfl)
@[simp] theorem State.drawnBy_rt (n : Nat) : (s.drawnBy n).rt = s.rt := (rfl)
@[simp] theorem State.drawnBy_tsl (n : Nat) : (s.drawnBy n).tsl = s.tsl := (rfl)
@[simp] theorem State.drawnBy_bist (n : Nat) : (s.drawnBy n).bist = s.bist := (rfl)
@[simp] theorem State.drawnBy_perf (n : Nat) : (s.drawnBy n).perf = s.perf := (rfl)
@[simp] theorem State.drawnBy_jtag (n : Nat) : (s.drawnBy n).jtag = s.jtag := (rfl)
@[simp] theorem State.drawnBy_lease (n : Nat) : (s.drawnBy n).lease = s.lease := (rfl)
@[simp] theorem State.drawnBy_boot (n : Nat) : (s.drawnBy n).boot = s.boot := (rfl)
@[simp] theorem State.drawnBy_mg (n : Nat) : (s.drawnBy n).mg = s.mg := (rfl)
@[simp] theorem State.drawnBy_out (n : Nat) : (s.drawnBy n).out = s.out := (rfl)
@[simp] theorem State.drawnBy_pending (n : Nat) : (s.drawnBy n).pending = s.pending := (rfl)
@[simp] theorem State.onMode_safeFromBoot (m : Mode) : (s.onMode m).safeFromBoot = s.safeFromBoot := (rfl)
@[simp] theorem State.onMode_rf (m : Mode) : (s.onMode m).rf = s.rf := (rfl)
@[simp] theorem State.onMode_bk (m : Mode) : (s.onMode m).bk = s.bk := (rfl)
@[simp] theorem State.onMode_pw (m : Mode) : (s.onMode m).pw = s.pw := (rfl)
@[simp] theorem State.onMode_tb (m : Mode) : (s.onMode m).tb = s.tb := (rfl)
@[simp] theorem State.onMode_tdc (m : Mode) : (s.onMode m).tdc = s.tdc := (rfl)
@[simp] theorem State.onMode_sel (m : Mode) : (s.onMode m).sel = s.sel := (rfl)
@[simp] theorem State.onMode_outs (m : Mode) : (s.onMode m).outs = s.outs := (rfl)
@[simp] theorem State.onMode_gn (m : Mode) : (s.onMode m).gn = s.gn := (rfl)
@[simp] theorem State.onMode_mac (m : Mode) : (s.onMode m).mac = s.mac := (rfl)
@[simp] theorem State.onMode_ts (m : Mode) : (s.onMode m).ts = s.ts := (rfl)
@[simp] theorem State.onMode_fab (m : Mode) : (s.onMode m).fab = s.fab := (rfl)
@[simp] theorem State.onMode_ntp (m : Mode) : (s.onMode m).ntp = s.ntp := (rfl)
@[simp] theorem State.onMode_ptp (m : Mode) : (s.onMode m).ptp = s.ptp := (rfl)
@[simp] theorem State.onMode_rt (m : Mode) : (s.onMode m).rt = s.rt := (rfl)
@[simp] theorem State.onMode_tsl (m : Mode) : (s.onMode m).tsl = s.tsl := (rfl)
@[simp] theorem State.onMode_bist (m : Mode) : (s.onMode m).bist = s.bist := (rfl)
@[simp] theorem State.onMode_perf (m : Mode) : (s.onMode m).perf = s.perf := (rfl)
@[simp] theorem State.onMode_jtag (m : Mode) : (s.onMode m).jtag = s.jtag := (rfl)
@[simp] theorem State.onMode_lease (m : Mode) : (s.onMode m).lease = s.lease := (rfl)
@[simp] theorem State.onMode_boot (m : Mode) : (s.onMode m).boot = s.boot := (rfl)
@[simp] theorem State.onMode_mg (m : Mode) : (s.onMode m).mg = s.mg := (rfl)
@[simp] theorem State.onMode_out (m : Mode) : (s.onMode m).out = s.out := (rfl)
@[simp] theorem State.onMode_free (m : Mode) : (s.onMode m).free = s.free := (rfl)
@[simp] theorem State.onMode_pending (m : Mode) : (s.onMode m).pending = s.pending := (rfl)
@[simp] theorem State.onSafe_mode (b : Bool) : (s.onSafe b).mode = s.mode := (rfl)
@[simp] theorem State.onSafe_rf (b : Bool) : (s.onSafe b).rf = s.rf := (rfl)
@[simp] theorem State.onSafe_bk (b : Bool) : (s.onSafe b).bk = s.bk := (rfl)
@[simp] theorem State.onSafe_pw (b : Bool) : (s.onSafe b).pw = s.pw := (rfl)
@[simp] theorem State.onSafe_tb (b : Bool) : (s.onSafe b).tb = s.tb := (rfl)
@[simp] theorem State.onSafe_tdc (b : Bool) : (s.onSafe b).tdc = s.tdc := (rfl)
@[simp] theorem State.onSafe_sel (b : Bool) : (s.onSafe b).sel = s.sel := (rfl)
@[simp] theorem State.onSafe_outs (b : Bool) : (s.onSafe b).outs = s.outs := (rfl)
@[simp] theorem State.onSafe_gn (b : Bool) : (s.onSafe b).gn = s.gn := (rfl)
@[simp] theorem State.onSafe_mac (b : Bool) : (s.onSafe b).mac = s.mac := (rfl)
@[simp] theorem State.onSafe_ts (b : Bool) : (s.onSafe b).ts = s.ts := (rfl)
@[simp] theorem State.onSafe_fab (b : Bool) : (s.onSafe b).fab = s.fab := (rfl)
@[simp] theorem State.onSafe_ntp (b : Bool) : (s.onSafe b).ntp = s.ntp := (rfl)
@[simp] theorem State.onSafe_ptp (b : Bool) : (s.onSafe b).ptp = s.ptp := (rfl)
@[simp] theorem State.onSafe_rt (b : Bool) : (s.onSafe b).rt = s.rt := (rfl)
@[simp] theorem State.onSafe_tsl (b : Bool) : (s.onSafe b).tsl = s.tsl := (rfl)
@[simp] theorem State.onSafe_bist (b : Bool) : (s.onSafe b).bist = s.bist := (rfl)
@[simp] theorem State.onSafe_perf (b : Bool) : (s.onSafe b).perf = s.perf := (rfl)
@[simp] theorem State.onSafe_jtag (b : Bool) : (s.onSafe b).jtag = s.jtag := (rfl)
@[simp] theorem State.onSafe_lease (b : Bool) : (s.onSafe b).lease = s.lease := (rfl)
@[simp] theorem State.onSafe_boot (b : Bool) : (s.onSafe b).boot = s.boot := (rfl)
@[simp] theorem State.onSafe_mg (b : Bool) : (s.onSafe b).mg = s.mg := (rfl)
@[simp] theorem State.onSafe_out (b : Bool) : (s.onSafe b).out = s.out := (rfl)
@[simp] theorem State.onSafe_free (b : Bool) : (s.onSafe b).free = s.free := (rfl)
@[simp] theorem State.onSafe_pending (b : Bool) : (s.onSafe b).pending = s.pending := (rfl)
@[simp] theorem State.clearRegs_mode (a n : Nat) : (s.clearRegs a n).mode = s.mode := (rfl)
@[simp] theorem State.clearRegs_safeFromBoot (a n : Nat) : (s.clearRegs a n).safeFromBoot = s.safeFromBoot := (rfl)
@[simp] theorem State.clearRegs_bk (a n : Nat) : (s.clearRegs a n).bk = s.bk := (rfl)
@[simp] theorem State.clearRegs_pw (a n : Nat) : (s.clearRegs a n).pw = s.pw := (rfl)
@[simp] theorem State.clearRegs_tb (a n : Nat) : (s.clearRegs a n).tb = s.tb := (rfl)
@[simp] theorem State.clearRegs_tdc (a n : Nat) : (s.clearRegs a n).tdc = s.tdc := (rfl)
@[simp] theorem State.clearRegs_sel (a n : Nat) : (s.clearRegs a n).sel = s.sel := (rfl)
@[simp] theorem State.clearRegs_outs (a n : Nat) : (s.clearRegs a n).outs = s.outs := (rfl)
@[simp] theorem State.clearRegs_gn (a n : Nat) : (s.clearRegs a n).gn = s.gn := (rfl)
@[simp] theorem State.clearRegs_mac (a n : Nat) : (s.clearRegs a n).mac = s.mac := (rfl)
@[simp] theorem State.clearRegs_ts (a n : Nat) : (s.clearRegs a n).ts = s.ts := (rfl)
@[simp] theorem State.clearRegs_fab (a n : Nat) : (s.clearRegs a n).fab = s.fab := (rfl)
@[simp] theorem State.clearRegs_ntp (a n : Nat) : (s.clearRegs a n).ntp = s.ntp := (rfl)
@[simp] theorem State.clearRegs_ptp (a n : Nat) : (s.clearRegs a n).ptp = s.ptp := (rfl)
@[simp] theorem State.clearRegs_rt (a n : Nat) : (s.clearRegs a n).rt = s.rt := (rfl)
@[simp] theorem State.clearRegs_tsl (a n : Nat) : (s.clearRegs a n).tsl = s.tsl := (rfl)
@[simp] theorem State.clearRegs_bist (a n : Nat) : (s.clearRegs a n).bist = s.bist := (rfl)
@[simp] theorem State.clearRegs_perf (a n : Nat) : (s.clearRegs a n).perf = s.perf := (rfl)
@[simp] theorem State.clearRegs_jtag (a n : Nat) : (s.clearRegs a n).jtag = s.jtag := (rfl)
@[simp] theorem State.clearRegs_lease (a n : Nat) : (s.clearRegs a n).lease = s.lease := (rfl)
@[simp] theorem State.clearRegs_boot (a n : Nat) : (s.clearRegs a n).boot = s.boot := (rfl)
@[simp] theorem State.clearRegs_mg (a n : Nat) : (s.clearRegs a n).mg = s.mg := (rfl)
@[simp] theorem State.clearRegs_out (a n : Nat) : (s.clearRegs a n).out = s.out := (rfl)
@[simp] theorem State.clearRegs_free (a n : Nat) : (s.clearRegs a n).free = s.free := (rfl)
@[simp] theorem State.clearRegs_pending (a n : Nat) : (s.clearRegs a n).pending = s.pending := (rfl)
@[simp] theorem State.keepRegs_mode (p : Nat × Nat → Bool) : (s.keepRegs p).mode = s.mode := (rfl)
@[simp] theorem State.keepRegs_safeFromBoot (p : Nat × Nat → Bool) : (s.keepRegs p).safeFromBoot = s.safeFromBoot := (rfl)
@[simp] theorem State.keepRegs_bk (p : Nat × Nat → Bool) : (s.keepRegs p).bk = s.bk := (rfl)
@[simp] theorem State.keepRegs_pw (p : Nat × Nat → Bool) : (s.keepRegs p).pw = s.pw := (rfl)
@[simp] theorem State.keepRegs_tb (p : Nat × Nat → Bool) : (s.keepRegs p).tb = s.tb := (rfl)
@[simp] theorem State.keepRegs_tdc (p : Nat × Nat → Bool) : (s.keepRegs p).tdc = s.tdc := (rfl)
@[simp] theorem State.keepRegs_sel (p : Nat × Nat → Bool) : (s.keepRegs p).sel = s.sel := (rfl)
@[simp] theorem State.keepRegs_outs (p : Nat × Nat → Bool) : (s.keepRegs p).outs = s.outs := (rfl)
@[simp] theorem State.keepRegs_gn (p : Nat × Nat → Bool) : (s.keepRegs p).gn = s.gn := (rfl)
@[simp] theorem State.keepRegs_mac (p : Nat × Nat → Bool) : (s.keepRegs p).mac = s.mac := (rfl)
@[simp] theorem State.keepRegs_ts (p : Nat × Nat → Bool) : (s.keepRegs p).ts = s.ts := (rfl)
@[simp] theorem State.keepRegs_fab (p : Nat × Nat → Bool) : (s.keepRegs p).fab = s.fab := (rfl)
@[simp] theorem State.keepRegs_ntp (p : Nat × Nat → Bool) : (s.keepRegs p).ntp = s.ntp := (rfl)
@[simp] theorem State.keepRegs_ptp (p : Nat × Nat → Bool) : (s.keepRegs p).ptp = s.ptp := (rfl)
@[simp] theorem State.keepRegs_rt (p : Nat × Nat → Bool) : (s.keepRegs p).rt = s.rt := (rfl)
@[simp] theorem State.keepRegs_tsl (p : Nat × Nat → Bool) : (s.keepRegs p).tsl = s.tsl := (rfl)
@[simp] theorem State.keepRegs_bist (p : Nat × Nat → Bool) : (s.keepRegs p).bist = s.bist := (rfl)
@[simp] theorem State.keepRegs_perf (p : Nat × Nat → Bool) : (s.keepRegs p).perf = s.perf := (rfl)
@[simp] theorem State.keepRegs_jtag (p : Nat × Nat → Bool) : (s.keepRegs p).jtag = s.jtag := (rfl)
@[simp] theorem State.keepRegs_lease (p : Nat × Nat → Bool) : (s.keepRegs p).lease = s.lease := (rfl)
@[simp] theorem State.keepRegs_boot (p : Nat × Nat → Bool) : (s.keepRegs p).boot = s.boot := (rfl)
@[simp] theorem State.keepRegs_mg (p : Nat × Nat → Bool) : (s.keepRegs p).mg = s.mg := (rfl)
@[simp] theorem State.keepRegs_out (p : Nat × Nat → Bool) : (s.keepRegs p).out = s.out := (rfl)
@[simp] theorem State.keepRegs_free (p : Nat × Nat → Bool) : (s.keepRegs p).free = s.free := (rfl)
@[simp] theorem State.keepRegs_pending (p : Nat × Nat → Bool) : (s.keepRegs p).pending = s.pending := (rfl)
@[simp] theorem State.emit_mode (o : Output) : (s.emit o).mode = s.mode := (rfl)
@[simp] theorem State.emit_safeFromBoot (o : Output) : (s.emit o).safeFromBoot = s.safeFromBoot := (rfl)
@[simp] theorem State.emit_rf (o : Output) : (s.emit o).rf = s.rf := (rfl)
@[simp] theorem State.emit_bk (o : Output) : (s.emit o).bk = s.bk := (rfl)
@[simp] theorem State.emit_pw (o : Output) : (s.emit o).pw = s.pw := (rfl)
@[simp] theorem State.emit_tb (o : Output) : (s.emit o).tb = s.tb := (rfl)
@[simp] theorem State.emit_tdc (o : Output) : (s.emit o).tdc = s.tdc := (rfl)
@[simp] theorem State.emit_sel (o : Output) : (s.emit o).sel = s.sel := (rfl)
@[simp] theorem State.emit_outs (o : Output) : (s.emit o).outs = s.outs := (rfl)
@[simp] theorem State.emit_gn (o : Output) : (s.emit o).gn = s.gn := (rfl)
@[simp] theorem State.emit_mac (o : Output) : (s.emit o).mac = s.mac := (rfl)
@[simp] theorem State.emit_ts (o : Output) : (s.emit o).ts = s.ts := (rfl)
@[simp] theorem State.emit_fab (o : Output) : (s.emit o).fab = s.fab := (rfl)
@[simp] theorem State.emit_ntp (o : Output) : (s.emit o).ntp = s.ntp := (rfl)
@[simp] theorem State.emit_ptp (o : Output) : (s.emit o).ptp = s.ptp := (rfl)
@[simp] theorem State.emit_rt (o : Output) : (s.emit o).rt = s.rt := (rfl)
@[simp] theorem State.emit_tsl (o : Output) : (s.emit o).tsl = s.tsl := (rfl)
@[simp] theorem State.emit_bist (o : Output) : (s.emit o).bist = s.bist := (rfl)
@[simp] theorem State.emit_perf (o : Output) : (s.emit o).perf = s.perf := (rfl)
@[simp] theorem State.emit_jtag (o : Output) : (s.emit o).jtag = s.jtag := (rfl)
@[simp] theorem State.emit_lease (o : Output) : (s.emit o).lease = s.lease := (rfl)
@[simp] theorem State.emit_boot (o : Output) : (s.emit o).boot = s.boot := (rfl)
@[simp] theorem State.emit_mg (o : Output) : (s.emit o).mg = s.mg := (rfl)
@[simp] theorem State.emit_free (o : Output) : (s.emit o).free = s.free := (rfl)
@[simp] theorem State.emit_pending (o : Output) : (s.emit o).pending = s.pending := (rfl)
@[simp] theorem State.noteSec_mode (c a : Nat) : (s.noteSec c a).mode = s.mode := by
  simp only [State.noteSec, State.onMg_mode]
@[simp] theorem State.noteSec_safeFromBoot (c a : Nat) : (s.noteSec c a).safeFromBoot = s.safeFromBoot := by
  simp only [State.noteSec, State.onMg_safeFromBoot]
@[simp] theorem State.noteSec_rf (c a : Nat) : (s.noteSec c a).rf = s.rf := by
  simp only [State.noteSec, State.onMg_rf]
@[simp] theorem State.noteSec_bk (c a : Nat) : (s.noteSec c a).bk = s.bk := by
  simp only [State.noteSec, State.onMg_bk]
@[simp] theorem State.noteSec_pw (c a : Nat) : (s.noteSec c a).pw = s.pw := by
  simp only [State.noteSec, State.onMg_pw]
@[simp] theorem State.noteSec_tb (c a : Nat) : (s.noteSec c a).tb = s.tb := by
  simp only [State.noteSec, State.onMg_tb]
@[simp] theorem State.noteSec_tdc (c a : Nat) : (s.noteSec c a).tdc = s.tdc := by
  simp only [State.noteSec, State.onMg_tdc]
@[simp] theorem State.noteSec_sel (c a : Nat) : (s.noteSec c a).sel = s.sel := by
  simp only [State.noteSec, State.onMg_sel]
@[simp] theorem State.noteSec_outs (c a : Nat) : (s.noteSec c a).outs = s.outs := by
  simp only [State.noteSec, State.onMg_outs]
@[simp] theorem State.noteSec_gn (c a : Nat) : (s.noteSec c a).gn = s.gn := by
  simp only [State.noteSec, State.onMg_gn]
@[simp] theorem State.noteSec_mac (c a : Nat) : (s.noteSec c a).mac = s.mac := by
  simp only [State.noteSec, State.onMg_mac]
@[simp] theorem State.noteSec_ts (c a : Nat) : (s.noteSec c a).ts = s.ts := by
  simp only [State.noteSec, State.onMg_ts]
@[simp] theorem State.noteSec_fab (c a : Nat) : (s.noteSec c a).fab = s.fab := by
  simp only [State.noteSec, State.onMg_fab]
@[simp] theorem State.noteSec_ntp (c a : Nat) : (s.noteSec c a).ntp = s.ntp := by
  simp only [State.noteSec, State.onMg_ntp]
@[simp] theorem State.noteSec_ptp (c a : Nat) : (s.noteSec c a).ptp = s.ptp := by
  simp only [State.noteSec, State.onMg_ptp]
@[simp] theorem State.noteSec_rt (c a : Nat) : (s.noteSec c a).rt = s.rt := by
  simp only [State.noteSec, State.onMg_rt]
@[simp] theorem State.noteSec_tsl (c a : Nat) : (s.noteSec c a).tsl = s.tsl := by
  simp only [State.noteSec, State.onMg_tsl]
@[simp] theorem State.noteSec_bist (c a : Nat) : (s.noteSec c a).bist = s.bist := by
  simp only [State.noteSec, State.onMg_bist]
@[simp] theorem State.noteSec_perf (c a : Nat) : (s.noteSec c a).perf = s.perf := by
  simp only [State.noteSec, State.onMg_perf]
@[simp] theorem State.noteSec_jtag (c a : Nat) : (s.noteSec c a).jtag = s.jtag := by
  simp only [State.noteSec, State.onMg_jtag]
@[simp] theorem State.noteSec_lease (c a : Nat) : (s.noteSec c a).lease = s.lease := by
  simp only [State.noteSec, State.onMg_lease]
@[simp] theorem State.noteSec_boot (c a : Nat) : (s.noteSec c a).boot = s.boot := by
  simp only [State.noteSec, State.onMg_boot]
@[simp] theorem State.noteSec_out (c a : Nat) : (s.noteSec c a).out = s.out := by
  simp only [State.noteSec, State.onMg_out]
@[simp] theorem State.noteSec_free (c a : Nat) : (s.noteSec c a).free = s.free := by
  simp only [State.noteSec, State.onMg_free]
@[simp] theorem State.noteSec_pending (c a : Nat) : (s.noteSec c a).pending = s.pending := by
  simp only [State.noteSec, State.onMg_pending]
@[simp] theorem State.addAlarm_mode (c v k : Nat) (a : Bool) : (s.addAlarm c v k a).mode = s.mode := by
  simp only [State.addAlarm, State.irq_mode, State.onMg_mode]
@[simp] theorem State.addAlarm_safeFromBoot (c v k : Nat) (a : Bool) : (s.addAlarm c v k a).safeFromBoot = s.safeFromBoot := by
  simp only [State.addAlarm, State.irq_safeFromBoot, State.onMg_safeFromBoot]
@[simp] theorem State.addAlarm_bk (c v k : Nat) (a : Bool) : (s.addAlarm c v k a).bk = s.bk := by
  simp only [State.addAlarm, State.irq_bk, State.onMg_bk]
@[simp] theorem State.addAlarm_pw (c v k : Nat) (a : Bool) : (s.addAlarm c v k a).pw = s.pw := by
  simp only [State.addAlarm, State.irq_pw, State.onMg_pw]
@[simp] theorem State.addAlarm_tb (c v k : Nat) (a : Bool) : (s.addAlarm c v k a).tb = s.tb := by
  simp only [State.addAlarm, State.irq_tb, State.onMg_tb]
@[simp] theorem State.addAlarm_tdc (c v k : Nat) (a : Bool) : (s.addAlarm c v k a).tdc = s.tdc := by
  simp only [State.addAlarm, State.irq_tdc, State.onMg_tdc]
@[simp] theorem State.addAlarm_sel (c v k : Nat) (a : Bool) : (s.addAlarm c v k a).sel = s.sel := by
  simp only [State.addAlarm, State.irq_sel, State.onMg_sel]
@[simp] theorem State.addAlarm_outs (c v k : Nat) (a : Bool) : (s.addAlarm c v k a).outs = s.outs := by
  simp only [State.addAlarm, State.irq_outs, State.onMg_outs]
@[simp] theorem State.addAlarm_gn (c v k : Nat) (a : Bool) : (s.addAlarm c v k a).gn = s.gn := by
  simp only [State.addAlarm, State.irq_gn, State.onMg_gn]
@[simp] theorem State.addAlarm_mac (c v k : Nat) (a : Bool) : (s.addAlarm c v k a).mac = s.mac := by
  simp only [State.addAlarm, State.irq_mac, State.onMg_mac]
@[simp] theorem State.addAlarm_ts (c v k : Nat) (a : Bool) : (s.addAlarm c v k a).ts = s.ts := by
  simp only [State.addAlarm, State.irq_ts, State.onMg_ts]
@[simp] theorem State.addAlarm_fab (c v k : Nat) (a : Bool) : (s.addAlarm c v k a).fab = s.fab := by
  simp only [State.addAlarm, State.irq_fab, State.onMg_fab]
@[simp] theorem State.addAlarm_ntp (c v k : Nat) (a : Bool) : (s.addAlarm c v k a).ntp = s.ntp := by
  simp only [State.addAlarm, State.irq_ntp, State.onMg_ntp]
@[simp] theorem State.addAlarm_ptp (c v k : Nat) (a : Bool) : (s.addAlarm c v k a).ptp = s.ptp := by
  simp only [State.addAlarm, State.irq_ptp, State.onMg_ptp]
@[simp] theorem State.addAlarm_rt (c v k : Nat) (a : Bool) : (s.addAlarm c v k a).rt = s.rt := by
  simp only [State.addAlarm, State.irq_rt, State.onMg_rt]
@[simp] theorem State.addAlarm_tsl (c v k : Nat) (a : Bool) : (s.addAlarm c v k a).tsl = s.tsl := by
  simp only [State.addAlarm, State.irq_tsl, State.onMg_tsl]
@[simp] theorem State.addAlarm_bist (c v k : Nat) (a : Bool) : (s.addAlarm c v k a).bist = s.bist := by
  simp only [State.addAlarm, State.irq_bist, State.onMg_bist]
@[simp] theorem State.addAlarm_perf (c v k : Nat) (a : Bool) : (s.addAlarm c v k a).perf = s.perf := by
  simp only [State.addAlarm, State.irq_perf, State.onMg_perf]
@[simp] theorem State.addAlarm_jtag (c v k : Nat) (a : Bool) : (s.addAlarm c v k a).jtag = s.jtag := by
  simp only [State.addAlarm, State.irq_jtag, State.onMg_jtag]
@[simp] theorem State.addAlarm_lease (c v k : Nat) (a : Bool) : (s.addAlarm c v k a).lease = s.lease := by
  simp only [State.addAlarm, State.irq_lease, State.onMg_lease]
@[simp] theorem State.addAlarm_boot (c v k : Nat) (a : Bool) : (s.addAlarm c v k a).boot = s.boot := by
  simp only [State.addAlarm, State.irq_boot, State.onMg_boot]
@[simp] theorem State.addAlarm_out (c v k : Nat) (a : Bool) : (s.addAlarm c v k a).out = s.out := by
  simp only [State.addAlarm, State.irq_out, State.onMg_out]
@[simp] theorem State.addAlarm_free (c v k : Nat) (a : Bool) : (s.addAlarm c v k a).free = s.free := by
  simp only [State.addAlarm, State.irq_free, State.onMg_free]
@[simp] theorem State.addAlarm_pending (c v k : Nat) (a : Bool) : (s.addAlarm c v k a).pending = s.pending := by
  simp only [State.addAlarm, State.irq_pending, State.onMg_pending]
@[simp] theorem State.perfEv_mode (e c n : Nat) : (s.perfEv e c n).mode = s.mode := by
  simp only [State.perfEv, State.onPerf_mode]
@[simp] theorem State.perfEv_safeFromBoot (e c n : Nat) : (s.perfEv e c n).safeFromBoot = s.safeFromBoot := by
  simp only [State.perfEv, State.onPerf_safeFromBoot]
@[simp] theorem State.perfEv_rf (e c n : Nat) : (s.perfEv e c n).rf = s.rf := by
  simp only [State.perfEv, State.onPerf_rf]
@[simp] theorem State.perfEv_bk (e c n : Nat) : (s.perfEv e c n).bk = s.bk := by
  simp only [State.perfEv, State.onPerf_bk]
@[simp] theorem State.perfEv_pw (e c n : Nat) : (s.perfEv e c n).pw = s.pw := by
  simp only [State.perfEv, State.onPerf_pw]
@[simp] theorem State.perfEv_tb (e c n : Nat) : (s.perfEv e c n).tb = s.tb := by
  simp only [State.perfEv, State.onPerf_tb]
@[simp] theorem State.perfEv_tdc (e c n : Nat) : (s.perfEv e c n).tdc = s.tdc := by
  simp only [State.perfEv, State.onPerf_tdc]
@[simp] theorem State.perfEv_sel (e c n : Nat) : (s.perfEv e c n).sel = s.sel := by
  simp only [State.perfEv, State.onPerf_sel]
@[simp] theorem State.perfEv_outs (e c n : Nat) : (s.perfEv e c n).outs = s.outs := by
  simp only [State.perfEv, State.onPerf_outs]
@[simp] theorem State.perfEv_gn (e c n : Nat) : (s.perfEv e c n).gn = s.gn := by
  simp only [State.perfEv, State.onPerf_gn]
@[simp] theorem State.perfEv_mac (e c n : Nat) : (s.perfEv e c n).mac = s.mac := by
  simp only [State.perfEv, State.onPerf_mac]
@[simp] theorem State.perfEv_ts (e c n : Nat) : (s.perfEv e c n).ts = s.ts := by
  simp only [State.perfEv, State.onPerf_ts]
@[simp] theorem State.perfEv_fab (e c n : Nat) : (s.perfEv e c n).fab = s.fab := by
  simp only [State.perfEv, State.onPerf_fab]
@[simp] theorem State.perfEv_ntp (e c n : Nat) : (s.perfEv e c n).ntp = s.ntp := by
  simp only [State.perfEv, State.onPerf_ntp]
@[simp] theorem State.perfEv_ptp (e c n : Nat) : (s.perfEv e c n).ptp = s.ptp := by
  simp only [State.perfEv, State.onPerf_ptp]
@[simp] theorem State.perfEv_rt (e c n : Nat) : (s.perfEv e c n).rt = s.rt := by
  simp only [State.perfEv, State.onPerf_rt]
@[simp] theorem State.perfEv_tsl (e c n : Nat) : (s.perfEv e c n).tsl = s.tsl := by
  simp only [State.perfEv, State.onPerf_tsl]
@[simp] theorem State.perfEv_bist (e c n : Nat) : (s.perfEv e c n).bist = s.bist := by
  simp only [State.perfEv, State.onPerf_bist]
@[simp] theorem State.perfEv_jtag (e c n : Nat) : (s.perfEv e c n).jtag = s.jtag := by
  simp only [State.perfEv, State.onPerf_jtag]
@[simp] theorem State.perfEv_lease (e c n : Nat) : (s.perfEv e c n).lease = s.lease := by
  simp only [State.perfEv, State.onPerf_lease]
@[simp] theorem State.perfEv_boot (e c n : Nat) : (s.perfEv e c n).boot = s.boot := by
  simp only [State.perfEv, State.onPerf_boot]
@[simp] theorem State.perfEv_mg (e c n : Nat) : (s.perfEv e c n).mg = s.mg := by
  simp only [State.perfEv, State.onPerf_mg]
@[simp] theorem State.perfEv_out (e c n : Nat) : (s.perfEv e c n).out = s.out := by
  simp only [State.perfEv, State.onPerf_out]
@[simp] theorem State.perfEv_free (e c n : Nat) : (s.perfEv e c n).free = s.free := by
  simp only [State.perfEv, State.onPerf_free]
@[simp] theorem State.perfEv_pending (e c n : Nat) : (s.perfEv e c n).pending = s.pending := by
  simp only [State.perfEv, State.onPerf_pending]
@[simp] theorem State.portEv_mode (e c n : Nat) : (s.portEv e c n).mode = s.mode := by
  simp only [State.portEv, State.perfEv_mode]
@[simp] theorem State.portEv_safeFromBoot (e c n : Nat) : (s.portEv e c n).safeFromBoot = s.safeFromBoot := by
  simp only [State.portEv, State.perfEv_safeFromBoot]
@[simp] theorem State.portEv_rf (e c n : Nat) : (s.portEv e c n).rf = s.rf := by
  simp only [State.portEv, State.perfEv_rf]
@[simp] theorem State.portEv_bk (e c n : Nat) : (s.portEv e c n).bk = s.bk := by
  simp only [State.portEv, State.perfEv_bk]
@[simp] theorem State.portEv_pw (e c n : Nat) : (s.portEv e c n).pw = s.pw := by
  simp only [State.portEv, State.perfEv_pw]
@[simp] theorem State.portEv_tb (e c n : Nat) : (s.portEv e c n).tb = s.tb := by
  simp only [State.portEv, State.perfEv_tb]
@[simp] theorem State.portEv_tdc (e c n : Nat) : (s.portEv e c n).tdc = s.tdc := by
  simp only [State.portEv, State.perfEv_tdc]
@[simp] theorem State.portEv_sel (e c n : Nat) : (s.portEv e c n).sel = s.sel := by
  simp only [State.portEv, State.perfEv_sel]
@[simp] theorem State.portEv_outs (e c n : Nat) : (s.portEv e c n).outs = s.outs := by
  simp only [State.portEv, State.perfEv_outs]
@[simp] theorem State.portEv_gn (e c n : Nat) : (s.portEv e c n).gn = s.gn := by
  simp only [State.portEv, State.perfEv_gn]
@[simp] theorem State.portEv_mac (e c n : Nat) : (s.portEv e c n).mac = s.mac := by
  simp only [State.portEv, State.perfEv_mac]
@[simp] theorem State.portEv_ts (e c n : Nat) : (s.portEv e c n).ts = s.ts := by
  simp only [State.portEv, State.perfEv_ts]
@[simp] theorem State.portEv_fab (e c n : Nat) : (s.portEv e c n).fab = s.fab := by
  simp only [State.portEv, State.perfEv_fab]
@[simp] theorem State.portEv_ntp (e c n : Nat) : (s.portEv e c n).ntp = s.ntp := by
  simp only [State.portEv, State.perfEv_ntp]
@[simp] theorem State.portEv_ptp (e c n : Nat) : (s.portEv e c n).ptp = s.ptp := by
  simp only [State.portEv, State.perfEv_ptp]
@[simp] theorem State.portEv_rt (e c n : Nat) : (s.portEv e c n).rt = s.rt := by
  simp only [State.portEv, State.perfEv_rt]
@[simp] theorem State.portEv_tsl (e c n : Nat) : (s.portEv e c n).tsl = s.tsl := by
  simp only [State.portEv, State.perfEv_tsl]
@[simp] theorem State.portEv_bist (e c n : Nat) : (s.portEv e c n).bist = s.bist := by
  simp only [State.portEv, State.perfEv_bist]
@[simp] theorem State.portEv_jtag (e c n : Nat) : (s.portEv e c n).jtag = s.jtag := by
  simp only [State.portEv, State.perfEv_jtag]
@[simp] theorem State.portEv_lease (e c n : Nat) : (s.portEv e c n).lease = s.lease := by
  simp only [State.portEv, State.perfEv_lease]
@[simp] theorem State.portEv_boot (e c n : Nat) : (s.portEv e c n).boot = s.boot := by
  simp only [State.portEv, State.perfEv_boot]
@[simp] theorem State.portEv_mg (e c n : Nat) : (s.portEv e c n).mg = s.mg := by
  simp only [State.portEv, State.perfEv_mg]
@[simp] theorem State.portEv_out (e c n : Nat) : (s.portEv e c n).out = s.out := by
  simp only [State.portEv, State.perfEv_out]
@[simp] theorem State.portEv_free (e c n : Nat) : (s.portEv e c n).free = s.free := by
  simp only [State.portEv, State.perfEv_free]
@[simp] theorem State.portEv_pending (e c n : Nat) : (s.portEv e c n).pending = s.pending := by
  simp only [State.portEv, State.perfEv_pending]
@[simp] theorem State.queueEvent_mode (c v a : Nat) : (s.queueEvent c v a).mode = s.mode := by
  unfold State.queueEvent; dsimp only; split <;> simp
@[simp] theorem State.queueEvent_safeFromBoot (c v a : Nat) : (s.queueEvent c v a).safeFromBoot = s.safeFromBoot := by
  unfold State.queueEvent; dsimp only; split <;> simp
@[simp] theorem State.queueEvent_bk (c v a : Nat) : (s.queueEvent c v a).bk = s.bk := by
  unfold State.queueEvent; dsimp only; split <;> simp
@[simp] theorem State.queueEvent_pw (c v a : Nat) : (s.queueEvent c v a).pw = s.pw := by
  unfold State.queueEvent; dsimp only; split <;> simp
@[simp] theorem State.queueEvent_tb (c v a : Nat) : (s.queueEvent c v a).tb = s.tb := by
  unfold State.queueEvent; dsimp only; split <;> simp
@[simp] theorem State.queueEvent_tdc (c v a : Nat) : (s.queueEvent c v a).tdc = s.tdc := by
  unfold State.queueEvent; dsimp only; split <;> simp
@[simp] theorem State.queueEvent_sel (c v a : Nat) : (s.queueEvent c v a).sel = s.sel := by
  unfold State.queueEvent; dsimp only; split <;> simp
@[simp] theorem State.queueEvent_outs (c v a : Nat) : (s.queueEvent c v a).outs = s.outs := by
  unfold State.queueEvent; dsimp only; split <;> simp
@[simp] theorem State.queueEvent_gn (c v a : Nat) : (s.queueEvent c v a).gn = s.gn := by
  unfold State.queueEvent; dsimp only; split <;> simp
@[simp] theorem State.queueEvent_mac (c v a : Nat) : (s.queueEvent c v a).mac = s.mac := by
  unfold State.queueEvent; dsimp only; split <;> simp
@[simp] theorem State.queueEvent_ts (c v a : Nat) : (s.queueEvent c v a).ts = s.ts := by
  unfold State.queueEvent; dsimp only; split <;> simp
@[simp] theorem State.queueEvent_fab (c v a : Nat) : (s.queueEvent c v a).fab = s.fab := by
  unfold State.queueEvent; dsimp only; split <;> simp
@[simp] theorem State.queueEvent_ntp (c v a : Nat) : (s.queueEvent c v a).ntp = s.ntp := by
  unfold State.queueEvent; dsimp only; split <;> simp
@[simp] theorem State.queueEvent_ptp (c v a : Nat) : (s.queueEvent c v a).ptp = s.ptp := by
  unfold State.queueEvent; dsimp only; split <;> simp
@[simp] theorem State.queueEvent_rt (c v a : Nat) : (s.queueEvent c v a).rt = s.rt := by
  unfold State.queueEvent; dsimp only; split <;> simp
@[simp] theorem State.queueEvent_tsl (c v a : Nat) : (s.queueEvent c v a).tsl = s.tsl := by
  unfold State.queueEvent; dsimp only; split <;> simp
@[simp] theorem State.queueEvent_bist (c v a : Nat) : (s.queueEvent c v a).bist = s.bist := by
  unfold State.queueEvent; dsimp only; split <;> simp
@[simp] theorem State.queueEvent_perf (c v a : Nat) : (s.queueEvent c v a).perf = s.perf := by
  unfold State.queueEvent; dsimp only; split <;> simp
@[simp] theorem State.queueEvent_jtag (c v a : Nat) : (s.queueEvent c v a).jtag = s.jtag := by
  unfold State.queueEvent; dsimp only; split <;> simp
@[simp] theorem State.queueEvent_lease (c v a : Nat) : (s.queueEvent c v a).lease = s.lease := by
  unfold State.queueEvent; dsimp only; split <;> simp
@[simp] theorem State.queueEvent_boot (c v a : Nat) : (s.queueEvent c v a).boot = s.boot := by
  unfold State.queueEvent; dsimp only; split <;> simp
@[simp] theorem State.queueEvent_out (c v a : Nat) : (s.queueEvent c v a).out = s.out := by
  unfold State.queueEvent; dsimp only; split <;> simp
@[simp] theorem State.queueEvent_free (c v a : Nat) : (s.queueEvent c v a).free = s.free := by
  unfold State.queueEvent; dsimp only; split <;> simp
@[simp] theorem State.queueEvent_pending (c v a : Nat) : (s.queueEvent c v a).pending = s.pending := by
  unfold State.queueEvent; dsimp only; split <;> simp
@[simp] theorem State.clampLog_mode (a w e c : Nat) : (s.clampLog a w e c).mode = s.mode := by
  simp only [State.clampLog, State.set_mode, State.bump_mode, State.onMg_mode]
@[simp] theorem State.clampLog_safeFromBoot (a w e c : Nat) : (s.clampLog a w e c).safeFromBoot = s.safeFromBoot := by
  simp only [State.clampLog, State.set_safeFromBoot, State.bump_safeFromBoot, State.onMg_safeFromBoot]
@[simp] theorem State.clampLog_bk (a w e c : Nat) : (s.clampLog a w e c).bk = s.bk := by
  simp only [State.clampLog, State.set_bk, State.bump_bk, State.onMg_bk]
@[simp] theorem State.clampLog_pw (a w e c : Nat) : (s.clampLog a w e c).pw = s.pw := by
  simp only [State.clampLog, State.set_pw, State.bump_pw, State.onMg_pw]
@[simp] theorem State.clampLog_tb (a w e c : Nat) : (s.clampLog a w e c).tb = s.tb := by
  simp only [State.clampLog, State.set_tb, State.bump_tb, State.onMg_tb]
@[simp] theorem State.clampLog_tdc (a w e c : Nat) : (s.clampLog a w e c).tdc = s.tdc := by
  simp only [State.clampLog, State.set_tdc, State.bump_tdc, State.onMg_tdc]
@[simp] theorem State.clampLog_sel (a w e c : Nat) : (s.clampLog a w e c).sel = s.sel := by
  simp only [State.clampLog, State.set_sel, State.bump_sel, State.onMg_sel]
@[simp] theorem State.clampLog_outs (a w e c : Nat) : (s.clampLog a w e c).outs = s.outs := by
  simp only [State.clampLog, State.set_outs, State.bump_outs, State.onMg_outs]
@[simp] theorem State.clampLog_gn (a w e c : Nat) : (s.clampLog a w e c).gn = s.gn := by
  simp only [State.clampLog, State.set_gn, State.bump_gn, State.onMg_gn]
@[simp] theorem State.clampLog_mac (a w e c : Nat) : (s.clampLog a w e c).mac = s.mac := by
  simp only [State.clampLog, State.set_mac, State.bump_mac, State.onMg_mac]
@[simp] theorem State.clampLog_ts (a w e c : Nat) : (s.clampLog a w e c).ts = s.ts := by
  simp only [State.clampLog, State.set_ts, State.bump_ts, State.onMg_ts]
@[simp] theorem State.clampLog_fab (a w e c : Nat) : (s.clampLog a w e c).fab = s.fab := by
  simp only [State.clampLog, State.set_fab, State.bump_fab, State.onMg_fab]
@[simp] theorem State.clampLog_ntp (a w e c : Nat) : (s.clampLog a w e c).ntp = s.ntp := by
  simp only [State.clampLog, State.set_ntp, State.bump_ntp, State.onMg_ntp]
@[simp] theorem State.clampLog_ptp (a w e c : Nat) : (s.clampLog a w e c).ptp = s.ptp := by
  simp only [State.clampLog, State.set_ptp, State.bump_ptp, State.onMg_ptp]
@[simp] theorem State.clampLog_rt (a w e c : Nat) : (s.clampLog a w e c).rt = s.rt := by
  simp only [State.clampLog, State.set_rt, State.bump_rt, State.onMg_rt]
@[simp] theorem State.clampLog_tsl (a w e c : Nat) : (s.clampLog a w e c).tsl = s.tsl := by
  simp only [State.clampLog, State.set_tsl, State.bump_tsl, State.onMg_tsl]
@[simp] theorem State.clampLog_bist (a w e c : Nat) : (s.clampLog a w e c).bist = s.bist := by
  simp only [State.clampLog, State.set_bist, State.bump_bist, State.onMg_bist]
@[simp] theorem State.clampLog_perf (a w e c : Nat) : (s.clampLog a w e c).perf = s.perf := by
  simp only [State.clampLog, State.set_perf, State.bump_perf, State.onMg_perf]
@[simp] theorem State.clampLog_jtag (a w e c : Nat) : (s.clampLog a w e c).jtag = s.jtag := by
  simp only [State.clampLog, State.set_jtag, State.bump_jtag, State.onMg_jtag]
@[simp] theorem State.clampLog_lease (a w e c : Nat) : (s.clampLog a w e c).lease = s.lease := by
  simp only [State.clampLog, State.set_lease, State.bump_lease, State.onMg_lease]
@[simp] theorem State.clampLog_boot (a w e c : Nat) : (s.clampLog a w e c).boot = s.boot := by
  simp only [State.clampLog, State.set_boot, State.bump_boot, State.onMg_boot]
@[simp] theorem State.clampLog_out (a w e c : Nat) : (s.clampLog a w e c).out = s.out := by
  simp only [State.clampLog, State.set_out, State.bump_out, State.onMg_out]
@[simp] theorem State.clampLog_free (a w e c : Nat) : (s.clampLog a w e c).free = s.free := by
  simp only [State.clampLog, State.set_free, State.bump_free, State.onMg_free]
@[simp] theorem State.clampLog_pending (a w e c : Nat) : (s.clampLog a w e c).pending = s.pending := by
  simp only [State.clampLog, State.set_pending, State.bump_pending, State.onMg_pending]
@[simp] theorem State.event_mode (c v a : Nat) : (s.event c v a).mode = s.mode := by
  unfold State.event; split <;> (try dsimp only) <;> (try split) <;> simp
@[simp] theorem State.event_safeFromBoot (c v a : Nat) : (s.event c v a).safeFromBoot = s.safeFromBoot := by
  unfold State.event; split <;> (try dsimp only) <;> (try split) <;> simp
@[simp] theorem State.event_bk (c v a : Nat) : (s.event c v a).bk = s.bk := by
  unfold State.event; split <;> (try dsimp only) <;> (try split) <;> simp
@[simp] theorem State.event_pw (c v a : Nat) : (s.event c v a).pw = s.pw := by
  unfold State.event; split <;> (try dsimp only) <;> (try split) <;> simp
@[simp] theorem State.event_tb (c v a : Nat) : (s.event c v a).tb = s.tb := by
  unfold State.event; split <;> (try dsimp only) <;> (try split) <;> simp
@[simp] theorem State.event_tdc (c v a : Nat) : (s.event c v a).tdc = s.tdc := by
  unfold State.event; split <;> (try dsimp only) <;> (try split) <;> simp
@[simp] theorem State.event_sel (c v a : Nat) : (s.event c v a).sel = s.sel := by
  unfold State.event; split <;> (try dsimp only) <;> (try split) <;> simp
@[simp] theorem State.event_outs (c v a : Nat) : (s.event c v a).outs = s.outs := by
  unfold State.event; split <;> (try dsimp only) <;> (try split) <;> simp
@[simp] theorem State.event_gn (c v a : Nat) : (s.event c v a).gn = s.gn := by
  unfold State.event; split <;> (try dsimp only) <;> (try split) <;> simp
@[simp] theorem State.event_mac (c v a : Nat) : (s.event c v a).mac = s.mac := by
  unfold State.event; split <;> (try dsimp only) <;> (try split) <;> simp
@[simp] theorem State.event_ts (c v a : Nat) : (s.event c v a).ts = s.ts := by
  unfold State.event; split <;> (try dsimp only) <;> (try split) <;> simp
@[simp] theorem State.event_fab (c v a : Nat) : (s.event c v a).fab = s.fab := by
  unfold State.event; split <;> (try dsimp only) <;> (try split) <;> simp
@[simp] theorem State.event_ntp (c v a : Nat) : (s.event c v a).ntp = s.ntp := by
  unfold State.event; split <;> (try dsimp only) <;> (try split) <;> simp
@[simp] theorem State.event_ptp (c v a : Nat) : (s.event c v a).ptp = s.ptp := by
  unfold State.event; split <;> (try dsimp only) <;> (try split) <;> simp
@[simp] theorem State.event_rt (c v a : Nat) : (s.event c v a).rt = s.rt := by
  unfold State.event; split <;> (try dsimp only) <;> (try split) <;> simp
@[simp] theorem State.event_tsl (c v a : Nat) : (s.event c v a).tsl = s.tsl := by
  unfold State.event; split <;> (try dsimp only) <;> (try split) <;> simp
@[simp] theorem State.event_bist (c v a : Nat) : (s.event c v a).bist = s.bist := by
  unfold State.event; split <;> (try dsimp only) <;> (try split) <;> simp
@[simp] theorem State.event_perf (c v a : Nat) : (s.event c v a).perf = s.perf := by
  unfold State.event; split <;> (try dsimp only) <;> (try split) <;> simp
@[simp] theorem State.event_jtag (c v a : Nat) : (s.event c v a).jtag = s.jtag := by
  unfold State.event; split <;> (try dsimp only) <;> (try split) <;> simp
@[simp] theorem State.event_lease (c v a : Nat) : (s.event c v a).lease = s.lease := by
  unfold State.event; split <;> (try dsimp only) <;> (try split) <;> simp
@[simp] theorem State.event_boot (c v a : Nat) : (s.event c v a).boot = s.boot := by
  unfold State.event; split <;> (try dsimp only) <;> (try split) <;> simp
@[simp] theorem State.event_out (c v a : Nat) : (s.event c v a).out = s.out := by
  unfold State.event; split <;> (try dsimp only) <;> (try split) <;> simp
@[simp] theorem State.event_free (c v a : Nat) : (s.event c v a).free = s.free := by
  unfold State.event; split <;> (try dsimp only) <;> (try split) <;> simp
@[simp] theorem State.event_pending (c v a : Nat) : (s.event c v a).pending = s.pending := by
  unfold State.event; split <;> (try dsimp only) <;> (try split) <;> simp
@[simp] theorem State.raiseCond_mode (c v a k : Nat) : (s.raiseCond c v a k).mode = s.mode := by
  unfold State.raiseCond; split <;> (try dsimp only) <;> (try split) <;> simp
@[simp] theorem State.raiseCond_safeFromBoot (c v a k : Nat) : (s.raiseCond c v a k).safeFromBoot = s.safeFromBoot := by
  unfold State.raiseCond; split <;> (try dsimp only) <;> (try split) <;> simp
@[simp] theorem State.raiseCond_bk (c v a k : Nat) : (s.raiseCond c v a k).bk = s.bk := by
  unfold State.raiseCond; split <;> (try dsimp only) <;> (try split) <;> simp
@[simp] theorem State.raiseCond_pw (c v a k : Nat) : (s.raiseCond c v a k).pw = s.pw := by
  unfold State.raiseCond; split <;> (try dsimp only) <;> (try split) <;> simp
@[simp] theorem State.raiseCond_tb (c v a k : Nat) : (s.raiseCond c v a k).tb = s.tb := by
  unfold State.raiseCond; split <;> (try dsimp only) <;> (try split) <;> simp
@[simp] theorem State.raiseCond_tdc (c v a k : Nat) : (s.raiseCond c v a k).tdc = s.tdc := by
  unfold State.raiseCond; split <;> (try dsimp only) <;> (try split) <;> simp
@[simp] theorem State.raiseCond_sel (c v a k : Nat) : (s.raiseCond c v a k).sel = s.sel := by
  unfold State.raiseCond; split <;> (try dsimp only) <;> (try split) <;> simp
@[simp] theorem State.raiseCond_outs (c v a k : Nat) : (s.raiseCond c v a k).outs = s.outs := by
  unfold State.raiseCond; split <;> (try dsimp only) <;> (try split) <;> simp
@[simp] theorem State.raiseCond_gn (c v a k : Nat) : (s.raiseCond c v a k).gn = s.gn := by
  unfold State.raiseCond; split <;> (try dsimp only) <;> (try split) <;> simp
@[simp] theorem State.raiseCond_mac (c v a k : Nat) : (s.raiseCond c v a k).mac = s.mac := by
  unfold State.raiseCond; split <;> (try dsimp only) <;> (try split) <;> simp
@[simp] theorem State.raiseCond_ts (c v a k : Nat) : (s.raiseCond c v a k).ts = s.ts := by
  unfold State.raiseCond; split <;> (try dsimp only) <;> (try split) <;> simp
@[simp] theorem State.raiseCond_fab (c v a k : Nat) : (s.raiseCond c v a k).fab = s.fab := by
  unfold State.raiseCond; split <;> (try dsimp only) <;> (try split) <;> simp
@[simp] theorem State.raiseCond_ntp (c v a k : Nat) : (s.raiseCond c v a k).ntp = s.ntp := by
  unfold State.raiseCond; split <;> (try dsimp only) <;> (try split) <;> simp
@[simp] theorem State.raiseCond_ptp (c v a k : Nat) : (s.raiseCond c v a k).ptp = s.ptp := by
  unfold State.raiseCond; split <;> (try dsimp only) <;> (try split) <;> simp
@[simp] theorem State.raiseCond_rt (c v a k : Nat) : (s.raiseCond c v a k).rt = s.rt := by
  unfold State.raiseCond; split <;> (try dsimp only) <;> (try split) <;> simp
@[simp] theorem State.raiseCond_tsl (c v a k : Nat) : (s.raiseCond c v a k).tsl = s.tsl := by
  unfold State.raiseCond; split <;> (try dsimp only) <;> (try split) <;> simp
@[simp] theorem State.raiseCond_bist (c v a k : Nat) : (s.raiseCond c v a k).bist = s.bist := by
  unfold State.raiseCond; split <;> (try dsimp only) <;> (try split) <;> simp
@[simp] theorem State.raiseCond_perf (c v a k : Nat) : (s.raiseCond c v a k).perf = s.perf := by
  unfold State.raiseCond; split <;> (try dsimp only) <;> (try split) <;> simp
@[simp] theorem State.raiseCond_jtag (c v a k : Nat) : (s.raiseCond c v a k).jtag = s.jtag := by
  unfold State.raiseCond; split <;> (try dsimp only) <;> (try split) <;> simp
@[simp] theorem State.raiseCond_lease (c v a k : Nat) : (s.raiseCond c v a k).lease = s.lease := by
  unfold State.raiseCond; split <;> (try dsimp only) <;> (try split) <;> simp
@[simp] theorem State.raiseCond_boot (c v a k : Nat) : (s.raiseCond c v a k).boot = s.boot := by
  unfold State.raiseCond; split <;> (try dsimp only) <;> (try split) <;> simp
@[simp] theorem State.raiseCond_out (c v a k : Nat) : (s.raiseCond c v a k).out = s.out := by
  unfold State.raiseCond; split <;> (try dsimp only) <;> (try split) <;> simp
@[simp] theorem State.raiseCond_free (c v a k : Nat) : (s.raiseCond c v a k).free = s.free := by
  unfold State.raiseCond; split <;> (try dsimp only) <;> (try split) <;> simp
@[simp] theorem State.raiseCond_pending (c v a k : Nat) : (s.raiseCond c v a k).pending = s.pending := by
  unfold State.raiseCond; split <;> (try dsimp only) <;> (try split) <;> simp
@[simp] theorem State.clearCond_mode (c k : Nat) : (s.clearCond c k).mode = s.mode := by
  unfold State.clearCond; split <;> simp
@[simp] theorem State.clearCond_safeFromBoot (c k : Nat) : (s.clearCond c k).safeFromBoot = s.safeFromBoot := by
  unfold State.clearCond; split <;> simp
@[simp] theorem State.clearCond_bk (c k : Nat) : (s.clearCond c k).bk = s.bk := by
  unfold State.clearCond; split <;> simp
@[simp] theorem State.clearCond_pw (c k : Nat) : (s.clearCond c k).pw = s.pw := by
  unfold State.clearCond; split <;> simp
@[simp] theorem State.clearCond_tb (c k : Nat) : (s.clearCond c k).tb = s.tb := by
  unfold State.clearCond; split <;> simp
@[simp] theorem State.clearCond_tdc (c k : Nat) : (s.clearCond c k).tdc = s.tdc := by
  unfold State.clearCond; split <;> simp
@[simp] theorem State.clearCond_sel (c k : Nat) : (s.clearCond c k).sel = s.sel := by
  unfold State.clearCond; split <;> simp
@[simp] theorem State.clearCond_outs (c k : Nat) : (s.clearCond c k).outs = s.outs := by
  unfold State.clearCond; split <;> simp
@[simp] theorem State.clearCond_gn (c k : Nat) : (s.clearCond c k).gn = s.gn := by
  unfold State.clearCond; split <;> simp
@[simp] theorem State.clearCond_mac (c k : Nat) : (s.clearCond c k).mac = s.mac := by
  unfold State.clearCond; split <;> simp
@[simp] theorem State.clearCond_ts (c k : Nat) : (s.clearCond c k).ts = s.ts := by
  unfold State.clearCond; split <;> simp
@[simp] theorem State.clearCond_fab (c k : Nat) : (s.clearCond c k).fab = s.fab := by
  unfold State.clearCond; split <;> simp
@[simp] theorem State.clearCond_ntp (c k : Nat) : (s.clearCond c k).ntp = s.ntp := by
  unfold State.clearCond; split <;> simp
@[simp] theorem State.clearCond_ptp (c k : Nat) : (s.clearCond c k).ptp = s.ptp := by
  unfold State.clearCond; split <;> simp
@[simp] theorem State.clearCond_rt (c k : Nat) : (s.clearCond c k).rt = s.rt := by
  unfold State.clearCond; split <;> simp
@[simp] theorem State.clearCond_tsl (c k : Nat) : (s.clearCond c k).tsl = s.tsl := by
  unfold State.clearCond; split <;> simp
@[simp] theorem State.clearCond_bist (c k : Nat) : (s.clearCond c k).bist = s.bist := by
  unfold State.clearCond; split <;> simp
@[simp] theorem State.clearCond_perf (c k : Nat) : (s.clearCond c k).perf = s.perf := by
  unfold State.clearCond; split <;> simp
@[simp] theorem State.clearCond_jtag (c k : Nat) : (s.clearCond c k).jtag = s.jtag := by
  unfold State.clearCond; split <;> simp
@[simp] theorem State.clearCond_lease (c k : Nat) : (s.clearCond c k).lease = s.lease := by
  unfold State.clearCond; split <;> simp
@[simp] theorem State.clearCond_boot (c k : Nat) : (s.clearCond c k).boot = s.boot := by
  unfold State.clearCond; split <;> simp
@[simp] theorem State.clearCond_out (c k : Nat) : (s.clearCond c k).out = s.out := by
  unfold State.clearCond; split <;> simp
@[simp] theorem State.clearCond_free (c k : Nat) : (s.clearCond c k).free = s.free := by
  unfold State.clearCond; split <;> simp
@[simp] theorem State.clearCond_pending (c k : Nat) : (s.clearCond c k).pending = s.pending := by
  unfold State.clearCond; split <;> simp
@[simp] theorem State.onMode_mode (m : Mode) : (s.onMode m).mode = m := rfl
@[simp] theorem State.onSafe_safeFromBoot (b : Bool) : (s.onSafe b).safeFromBoot = b := rfl
@[simp] theorem State.drawn_free : s.drawn.free = s.free + 1 := rfl
@[simp] theorem State.emit_out (o : Output) : (s.emit o).out = o :: s.out := rfl
end

end Sys2Proof.Machine
end

