-- ==== Sys2Proof/Laws/Registers.lean ====
section
/-! SUPPORT. Reading a register field after each named update. -/
namespace Sys2Proof.Machine

/-- The value of a field is that of its key in the register file. -/
theorem State.get_eq (s : State) (F : Field) : s.get F = (SMap.get 0 s.rf F.key) ^^^ F.reset := rfl

/-- Only the register file matters. -/
theorem State.get_congr {s t : State} (h : t.rf = s.rf) (F : Field) : t.get F = s.get F := by
  rw [State.get_eq, State.get_eq, h]

/-- A field that is set holds the value, cut to its width. -/
@[simp] theorem State.get_set_self (s : State) (F : Field) (v : Nat) : (s.set F v).get F = v % 2 ^ F.width := by
  simp [State.get, State.set, Nat.xor_assoc]

/-- Every field at another place holds what it held. -/
theorem State.get_set_ne (s : State) (F G : Field) (v : Nat) (h : G.key ≠ F.key) : (s.set F v).get G = s.get G := by
  simp [State.get, State.set, SMap.get_set_ne _ _ _ _ _ h]

theorem State.get_setSat_self (s : State) (F : Field) (v : Nat) : (s.setSat F v).get F = min v (2 ^ F.width - 1) := by
  have h : 0 < 2 ^ F.width := Nat.two_pow_pos _
  rw [State.setSat, State.get_set_self, satU]
  exact Nat.mod_eq_of_lt (by omega)

theorem State.get_setSat_ne (s : State) (F G : Field) (v : Nat) (h : G.key ≠ F.key) : (s.setSat F v).get G = s.get G :=
  State.get_set_ne s F G _ h

/-- A counter that counts up stays at its largest value. -/
theorem State.get_bump_self (s : State) (F : Field) (n : Nat) : (s.bump F n).get F = min (s.get F + n) (2 ^ F.width - 1) :=
  State.get_setSat_self s F _

theorem State.get_bump_ne (s : State) (F G : Field) (n : Nat) (h : G.key ≠ F.key) : (s.bump F n).get G = s.get G :=
  State.get_set_ne s F G _ h

theorem State.get_setb_self (s : State) (F : Field) (b : Bool) :
    (s.setb F b).get F = if b then 1 else 0 := by
  have h : 1 < 2 ^ F.width := Nat.one_lt_two_pow (by unfold Field.width; omega)
  rw [State.setb, State.get_set_self]
  split
  · exact Nat.mod_eq_of_lt h
  · simp

theorem State.get_setb_ne (s : State) (F G : Field) (b : Bool) (h : G.key ≠ F.key) : (s.setb F b).get G = s.get G :=
  State.get_set_ne s F G _ h

theorem State.get_seti_ne (s : State) (F G : Field) (i : Int) (h : G.key ≠ F.key) : (s.seti F i).get G = s.get G :=
  State.get_set_ne s F G _ h

theorem State.get_clr_ne (s : State) (F G : Field) (h : G.key ≠ F.key) : (s.clr F).get G = s.get G :=
  State.get_set_ne s F G _ h

@[simp] theorem State.get_onTb (s : State) (f : Tb → Tb) (F : Field) : (s.onTb f).get F = s.get F := State.get_congr (State.onTb_rf s f) F
@[simp] theorem State.get_onTdc (s : State) (f : Tdc → Tdc) (F : Field) : (s.onTdc f).get F = s.get F := State.get_congr (State.onTdc_rf s f) F
@[simp] theorem State.get_onSel (s : State) (f : Sel → Sel) (F : Field) : (s.onSel f).get F = s.get F := State.get_congr (State.onSel_rf s f) F
@[simp] theorem State.get_onOuts (s : State) (f : Outs → Outs) (F : Field) : (s.onOuts f).get F = s.get F := State.get_congr (State.onOuts_rf s f) F
@[simp] theorem State.get_onLease (s : State) (f : Lease → Lease) (F : Field) : (s.onLease f).get F = s.get F := State.get_congr (State.onLease_rf s f) F
@[simp] theorem State.get_onBoot (s : State) (f : Boot → Boot) (F : Field) : (s.onBoot f).get F = s.get F := State.get_congr (State.onBoot_rf s f) F
@[simp] theorem State.get_onMg (s : State) (f : Mg → Mg) (F : Field) : (s.onMg f).get F = s.get F := State.get_congr (State.onMg_rf s f) F
@[simp] theorem State.get_onPw (s : State) (f : Pw → Pw) (F : Field) : (s.onPw f).get F = s.get F := State.get_congr (State.onPw_rf s f) F
@[simp] theorem State.get_onBk (s : State) (f : Backup → Backup) (F : Field) : (s.onBk f).get F = s.get F := State.get_congr (State.onBk_rf s f) F
@[simp] theorem State.get_onMac (s : State) (f : Mac → Mac) (F : Field) : (s.onMac f).get F = s.get F := State.get_congr (State.onMac_rf s f) F
@[simp] theorem State.get_onTs (s : State) (f : Stamps → Stamps) (F : Field) : (s.onTs f).get F = s.get F := State.get_congr (State.onTs_rf s f) F
@[simp] theorem State.get_onGn (s : State) (f : Gn → Gn) (F : Field) : (s.onGn f).get F = s.get F := State.get_congr (State.onGn_rf s f) F
@[simp] theorem State.get_onRt (s : State) (f : Rt → Rt) (F : Field) : (s.onRt f).get F = s.get F := State.get_congr (State.onRt_rf s f) F
@[simp] theorem State.get_onTsl (s : State) (f : Tsl → Tsl) (F : Field) : (s.onTsl f).get F = s.get F := State.get_congr (State.onTsl_rf s f) F
@[simp] theorem State.get_onBist (s : State) (f : Bist → Bist) (F : Field) : (s.onBist f).get F = s.get F := State.get_congr (State.onBist_rf s f) F
@[simp] theorem State.get_onPerf (s : State) (f : Perf → Perf) (F : Field) : (s.onPerf f).get F = s.get F := State.get_congr (State.onPerf_rf s f) F
@[simp] theorem State.get_onJtag (s : State) (f : Jtag → Jtag) (F : Field) : (s.onJtag f).get F = s.get F := State.get_congr (State.onJtag_rf s f) F
@[simp] theorem State.get_onFab (s : State) (f : Fab → Fab) (F : Field) : (s.onFab f).get F = s.get F := State.get_congr (State.onFab_rf s f) F
@[simp] theorem State.get_onNtp (s : State) (f : Ntp → Ntp) (F : Field) : (s.onNtp f).get F = s.get F := State.get_congr (State.onNtp_rf s f) F
@[simp] theorem State.get_onPtp (s : State) (f : Ptp → Ptp) (F : Field) : (s.onPtp f).get F = s.get F := State.get_congr (State.onPtp_rf s f) F
@[simp] theorem State.get_drawn (s : State) (F : Field) : s.drawn.get F = s.get F := State.get_congr (State.drawn_rf s) F
@[simp] theorem State.get_drawnBy (s : State) (n : Nat) (F : Field) : (s.drawnBy n).get F = s.get F := State.get_congr (State.drawnBy_rf s n) F
@[simp] theorem State.get_onMode (s : State) (m : Mode) (F : Field) : (s.onMode m).get F = s.get F := State.get_congr (State.onMode_rf s m) F
@[simp] theorem State.get_onSafe (s : State) (b : Bool) (F : Field) : (s.onSafe b).get F = s.get F := State.get_congr (State.onSafe_rf s b) F
@[simp] theorem State.get_emit (s : State) (o : Output) (F : Field) : (s.emit o).get F = s.get F := State.get_congr (State.emit_rf s o) F
@[simp] theorem State.get_perfEv (s : State) (e c n : Nat) (F : Field) : (s.perfEv e c n).get F = s.get F := State.get_congr (State.perfEv_rf s e c n) F
@[simp] theorem State.get_noteSec (s : State) (c a : Nat) (F : Field) : (s.noteSec c a).get F = s.get F := State.get_congr (State.noteSec_rf s c a) F

/-- A field that is not the interrupt status is not touched by a source of it. -/
theorem State.get_irq_ne (s : State) (b : Nat) (F : Field) (h : F.key ≠ SYS_IRQSTAT_SRC.key) : (s.irq b).get F = s.get F :=
  State.get_set_ne s _ F _ h

theorem State.get_addAlarm (s : State) (c v k : Nat) (a : Bool) (F : Field) (h : F.key ≠ SYS_IRQSTAT_SRC.key) :
    (s.addAlarm c v k a).get F = s.get F := (State.get_irq_ne _ _ F h).trans (State.get_onMg _ _ F)

theorem State.get_queueEvent (s : State) (c v a : Nat) (F : Field) (h : F.key ≠ SYS_EVTDROP_DROP.key) :
    (s.queueEvent c v a).get F = s.get F := by
  unfold State.queueEvent
  dsimp only
  split
  · exact State.get_onMg _ _ F
  · rw [State.get_onMg, State.get_noteSec, State.get_bump_ne s _ F _ h]

/-- An event touches the counter of lost events and the interrupt status, and no other register. -/
theorem State.get_event (s : State) (c v a : Nat) (F : Field) (h : F.key ≠ SYS_EVTDROP_DROP.key)
    (h' : F.key ≠ SYS_IRQSTAT_SRC.key) : (s.event c v a).get F = s.get F := by
  unfold State.event
  split
  · dsimp only
    split
    · rw [State.get_addAlarm _ _ _ _ _ F h', State.get_queueEvent _ _ _ _ F h]
    · exact State.get_queueEvent _ _ _ _ F h
  · rfl

theorem State.get_raiseCond (s : State) (c v a k : Nat) (F : Field) (h : F.key ≠ SYS_EVTDROP_DROP.key)
    (h' : F.key ≠ SYS_IRQSTAT_SRC.key) : (s.raiseCond c v a k).get F = s.get F := by
  unfold State.raiseCond
  split
  · dsimp only
    split
    · exact State.get_queueEvent _ _ _ _ F h
    · rw [State.get_addAlarm _ _ _ _ _ F h', State.get_queueEvent _ _ _ _ F h]
  · rfl

theorem State.get_clearCond (s : State) (c k : Nat) (F : Field) (h : F.key ≠ SYS_IRQSTAT_SRC.key) :
    (s.clearCond c k).get F = s.get F := by
  unfold State.clearCond
  split
  · exact (State.get_irq_ne _ _ F h).trans (State.get_onMg _ _ F)
  · rfl

/-- The present instant depends on the master copies and on the two fields that say which of them has failed. -/
theorem State.now_congr {s t : State} (h : t.tb = s.tb) (h1 : t.get TB_STATUS_COPYFAIL = s.get TB_STATUS_COPYFAIL)
    (h2 : t.get TB_STATUS_FAILEDCOPY = s.get TB_STATUS_FAILEDCOPY) : t.now = s.now := by
  have hc : t.is TB_STATUS_COPYFAIL = s.is TB_STATUS_COPYFAIL := by rw [State.is, State.is, h1]
  rw [State.now, State.now, State.master, State.master, hc, h2, h]

theorem State.now_set (s : State) (F : Field) (v : Nat) (h1 : TB_STATUS_COPYFAIL.key ≠ F.key)
    (h2 : TB_STATUS_FAILEDCOPY.key ≠ F.key) : (s.set F v).now = s.now :=
  State.now_congr (State.set_tb s F v) (State.get_set_ne s F _ v h1) (State.get_set_ne s F _ v h2)

/-- Setting a field keeps the canonical form of the register file. -/
theorem State.wf_set (s : State) (F : Field) (v : Nat) (h : SMap.wf 0 s.rf = true) : SMap.wf 0 (s.set F v).rf = true :=
  SMap.wf_set 0 s.rf _ _ h

end Sys2Proof.Machine
end

