-- ==== Sys2Proof/Laws/Keeps.lean ====
section
/-! SUPPORT. What no command ever does: it leaves the queue of waiting commands alone, and it keeps the register file
and the memories in their canonical form. `Keeps s t` says so of a change from `s` to `t`; the files after this one say it
of every function of the model, each by the functions it calls. -/
namespace Sys2Proof.Machine

/-- The queue is the same, canonical forms are kept, the device-unique key is as it was, and a disabled derivation of the import key stays disabled (R389); no free value is drawn twice, and what was sent stays sent. -/
structure Keeps (s t : State) : Prop where
  queue : t.pending = s.pending
  rf : SMap.wf 0 s.rf = true → SMap.wf 0 t.rf = true
  flash : SMap.wf 0xFF s.boot.flash = true → SMap.wf 0xFF t.boot.flash = true
  staging : SMap.wf 0 s.boot.staging = true → SMap.wf 0 t.boot.staging = true
  store : SMap.wf 0 s.fab.store = true → SMap.wf 0 t.fab.store = true
  mem : SMap.wf 0 s.tsl.mem = true → SMap.wf 0 t.tsl.mem = true
  duk : t.boot.duk = s.boot.duk
  importOff : s.boot.importOff = true → t.boot.importOff = true
  free : s.free ≤ t.free
  out : s.out <:+ t.out

theorem Keeps.refl (s : State) : Keeps s s := ⟨rfl, id, id, id, id, id, rfl, id, Nat.le_refl _, List.suffix_refl _⟩

theorem Keeps.trans {s t u : State} (a : Keeps s t) (b : Keeps t u) : Keeps s u :=
  ⟨b.queue.trans a.queue, b.rf ∘ a.rf, b.flash ∘ a.flash, b.staging ∘ a.staging, b.store ∘ a.store, b.mem ∘ a.mem,
    b.duk.trans a.duk, b.importOff ∘ a.importOff, Nat.le_trans a.free b.free, a.out.trans b.out⟩

theorem Keeps.foldl {z s : State} {β : Type} {f : State → β → State} {l : List β} (h : Keeps z s)
    (hf : ∀ u x, Keeps z u → Keeps z (f u x)) : Keeps z (l.foldl f s) := by
  induction l generalizing s with
  | nil => exact h
  | cons x l ih => exact ih (hf s x h)

theorem Keeps.foldl_fst {z : State} {β γ : Type} {f : State × γ → β → State × γ} {l : List β} {s : State × γ}
    (h : Keeps z s.1) (hf : ∀ u x, Keeps z u.1 → Keeps z (f u x).1) : Keeps z (l.foldl f s).1 := by
  induction l generalizing s with
  | nil => exact h
  | cons x l ih => exact ih (hf s x h)

theorem Keeps.forEach {z s : State} {n : Nat} {f : State → Nat → State} (h : Keeps z s)
    (hf : ∀ u x, Keeps z u → Keeps z (f u x)) : Keeps z (s.forEach n f) := Keeps.foldl h hf

theorem Keeps.getD {z s : State} {o : Option State} (h : Keeps z s) (ho : ∀ u, o = some u → Keeps z u) :
    Keeps z (o.getD s) := by
  cases o with
  | none => exact h
  | some u => exact ho u rfl

theorem Keeps.elim {z s : State} {o : Option State} {f : State → State} (h : Keeps z s) (ho : ∀ u, o = some u → Keeps z (f u)) :
    Keeps z (o.elim s f) := by
  cases o with
  | none => exact h
  | some u => exact ho u rfl

theorem Keeps.mk_fst {z a : State} {β : Type} {b : β} (h : Keeps z a) : Keeps z (a, b).1 := h
theorem Keeps.mk_snd {z a : State} {β : Type} {b : β} (h : Keeps z a) : Keeps z (b, a).2 := h

theorem Keeps.opt_ite {z t : State} {c : Prop} [Decidable c] {a b : Option State} (e : (if c then a else b) = some t)
    (h1 : c → a = some t → Keeps z t) (h2 : ¬c → b = some t → Keeps z t) : Keeps z t := by
  by_cases hc : c
  · rw [if_pos hc] at e; exact h1 hc e
  · rw [if_neg hc] at e; exact h2 hc e

theorem Keeps.ite {z a b : State} {c : Prop} [Decidable c] (h1 : c → Keeps z a) (h2 : ¬c → Keeps z b) :
    Keeps z (if c then a else b) := by
  split
  · exact h1 ‹_›
  · exact h2 ‹_›

section
variable {z s : State} (h : Keeps z s)
include h

theorem State.set_keeps (F : Field) (v : Nat) : Keeps z (s.set F v) :=
  h.trans ⟨rfl, State.wf_set s F v, id, id, id, id, rfl, id, Nat.le_refl _, List.suffix_refl _⟩

theorem State.onBoot_keeps (f : Boot → Boot)
    (hf : SMap.wf 0xFF s.boot.flash = true → SMap.wf 0xFF (f s.boot).flash = true)
    (hs : SMap.wf 0 s.boot.staging = true → SMap.wf 0 (f s.boot).staging = true)
    (hd : (f s.boot).duk = s.boot.duk) (hi : s.boot.importOff = true → (f s.boot).importOff = true) : Keeps z (s.onBoot f) :=
  h.trans ⟨rfl, id, hf, hs, id, id, hd, hi, Nat.le_refl _, List.suffix_refl _⟩

theorem State.onFab_keeps (f : Fab → Fab)
    (hf : SMap.wf 0 s.fab.store = true → SMap.wf 0 (f s.fab).store = true) : Keeps z (s.onFab f) :=
  h.trans ⟨rfl, id, id, id, hf, id, rfl, id, Nat.le_refl _, List.suffix_refl _⟩

theorem State.onTsl_keeps (f : Tsl → Tsl)
    (hf : SMap.wf 0 s.tsl.mem = true → SMap.wf 0 (f s.tsl).mem = true) : Keeps z (s.onTsl f) :=
  h.trans ⟨rfl, id, id, id, id, hf, rfl, id, Nat.le_refl _, List.suffix_refl _⟩

theorem State.emit_keeps (o : Output) : Keeps z (s.emit o) :=
  h.trans ⟨rfl, id, id, id, id, id, rfl, id, Nat.le_refl _, List.suffix_cons o s.out⟩
theorem State.drawn_keeps : Keeps z s.drawn :=
  h.trans ⟨rfl, id, id, id, id, id, rfl, id, Nat.le_add_right .., List.suffix_refl _⟩
theorem State.drawnBy_keeps (n : Nat) : Keeps z (s.drawnBy n) :=
  h.trans ⟨rfl, id, id, id, id, id, rfl, id, Nat.le_add_right .., List.suffix_refl _⟩
theorem State.onMode_keeps (m : Mode) : Keeps z (s.onMode m) := h.trans ⟨rfl, id, id, id, id, id, rfl, id, Nat.le_refl _, List.suffix_refl _⟩
theorem State.onSafe_keeps (b : Bool) : Keeps z (s.onSafe b) := h.trans ⟨rfl, id, id, id, id, id, rfl, id, Nat.le_refl _, List.suffix_refl _⟩
theorem State.clearRegs_keeps (a n : Nat) : Keeps z (s.clearRegs a n) :=
  h.trans ⟨rfl, SMap.wf_filter 0 s.rf _, id, id, id, id, rfl, id, Nat.le_refl _, List.suffix_refl _⟩
theorem State.keepRegs_keeps (p : Nat × Nat → Bool) : Keeps z (s.keepRegs p) :=
  h.trans ⟨rfl, SMap.wf_filter 0 s.rf _, id, id, id, id, rfl, id, Nat.le_refl _, List.suffix_refl _⟩
end

end Sys2Proof.Machine
end

