-- ==== Sys2Proof/Laws/Keep/Ops.lean ====
section
/-! SUPPORT. Sys2Proof/Machine/Ops.lean keeps the queue and the canonical forms. -/
namespace Sys2Proof.Machine

theorem State.onTb_keeps {z s : State} (h : Keeps z s) (f : Tb → Tb) : Keeps z (s.onTb f) :=
  h.trans ⟨rfl, id, id, id, id, id, rfl, id, Nat.le_refl _, List.suffix_refl _⟩

theorem State.onTdc_keeps {z s : State} (h : Keeps z s) (f : Tdc → Tdc) : Keeps z (s.onTdc f) :=
  h.trans ⟨rfl, id, id, id, id, id, rfl, id, Nat.le_refl _, List.suffix_refl _⟩

theorem State.onSel_keeps {z s : State} (h : Keeps z s) (f : Sel → Sel) : Keeps z (s.onSel f) :=
  h.trans ⟨rfl, id, id, id, id, id, rfl, id, Nat.le_refl _, List.suffix_refl _⟩

theorem State.onOuts_keeps {z s : State} (h : Keeps z s) (f : Outs → Outs) : Keeps z (s.onOuts f) :=
  h.trans ⟨rfl, id, id, id, id, id, rfl, id, Nat.le_refl _, List.suffix_refl _⟩

theorem State.onLease_keeps {z s : State} (h : Keeps z s) (f : Lease → Lease) : Keeps z (s.onLease f) :=
  h.trans ⟨rfl, id, id, id, id, id, rfl, id, Nat.le_refl _, List.suffix_refl _⟩

theorem State.onMg_keeps {z s : State} (h : Keeps z s) (f : Mg → Mg) : Keeps z (s.onMg f) :=
  h.trans ⟨rfl, id, id, id, id, id, rfl, id, Nat.le_refl _, List.suffix_refl _⟩

theorem State.onPw_keeps {z s : State} (h : Keeps z s) (f : Pw → Pw) : Keeps z (s.onPw f) :=
  h.trans ⟨rfl, id, id, id, id, id, rfl, id, Nat.le_refl _, List.suffix_refl _⟩

theorem State.onBk_keeps {z s : State} (h : Keeps z s) (f : Backup → Backup) : Keeps z (s.onBk f) :=
  h.trans ⟨rfl, id, id, id, id, id, rfl, id, Nat.le_refl _, List.suffix_refl _⟩

theorem State.onMac_keeps {z s : State} (h : Keeps z s) (f : Mac → Mac) : Keeps z (s.onMac f) :=
  h.trans ⟨rfl, id, id, id, id, id, rfl, id, Nat.le_refl _, List.suffix_refl _⟩

theorem State.onTs_keeps {z s : State} (h : Keeps z s) (f : Stamps → Stamps) : Keeps z (s.onTs f) :=
  h.trans ⟨rfl, id, id, id, id, id, rfl, id, Nat.le_refl _, List.suffix_refl _⟩

theorem State.onGn_keeps {z s : State} (h : Keeps z s) (f : Gn → Gn) : Keeps z (s.onGn f) :=
  h.trans ⟨rfl, id, id, id, id, id, rfl, id, Nat.le_refl _, List.suffix_refl _⟩

theorem State.onRt_keeps {z s : State} (h : Keeps z s) (f : Rt → Rt) : Keeps z (s.onRt f) :=
  h.trans ⟨rfl, id, id, id, id, id, rfl, id, Nat.le_refl _, List.suffix_refl _⟩

theorem State.onBist_keeps {z s : State} (h : Keeps z s) (f : Bist → Bist) : Keeps z (s.onBist f) :=
  h.trans ⟨rfl, id, id, id, id, id, rfl, id, Nat.le_refl _, List.suffix_refl _⟩

theorem State.onPerf_keeps {z s : State} (h : Keeps z s) (f : Perf → Perf) : Keeps z (s.onPerf f) :=
  h.trans ⟨rfl, id, id, id, id, id, rfl, id, Nat.le_refl _, List.suffix_refl _⟩

theorem State.onJtag_keeps {z s : State} (h : Keeps z s) (f : Jtag → Jtag) : Keeps z (s.onJtag f) :=
  h.trans ⟨rfl, id, id, id, id, id, rfl, id, Nat.le_refl _, List.suffix_refl _⟩

theorem State.onNtp_keeps {z s : State} (h : Keeps z s) (f : Ntp → Ntp) : Keeps z (s.onNtp f) :=
  h.trans ⟨rfl, id, id, id, id, id, rfl, id, Nat.le_refl _, List.suffix_refl _⟩

theorem State.onPtp_keeps {z s : State} (h : Keeps z s) (f : Ptp → Ptp) : Keeps z (s.onPtp f) :=
  h.trans ⟨rfl, id, id, id, id, id, rfl, id, Nat.le_refl _, List.suffix_refl _⟩

theorem State.setb_keeps {zz s : State} (h : Keeps zz s) (F : Field) (b : Bool) : Keeps zz (State.setb s F b) := by
  unfold State.setb
  repeat' first
    | (intro _; intros; try dsimp -zeta only)
    | with_reducible exact Keeps.refl _
    | with_reducible assumption
    | with_reducible apply State.set_keeps
    | with_reducible apply Keeps.ite
    | split

theorem State.seti_keeps {zz s : State} (h : Keeps zz s) (F : Field) (i : Int) : Keeps zz (State.seti s F i) := by
  unfold State.seti
  repeat' first
    | (intro _; intros; try dsimp -zeta only)
    | with_reducible exact Keeps.refl _
    | with_reducible assumption
    | with_reducible apply State.set_keeps
    | with_reducible apply Keeps.ite
    | split

theorem State.setSat_keeps {zz s : State} (h : Keeps zz s) (F : Field) (v : Nat) : Keeps zz (State.setSat s F v) := by
  unfold State.setSat
  repeat' first
    | (intro _; intros; try dsimp -zeta only)
    | with_reducible exact Keeps.refl _
    | with_reducible assumption
    | with_reducible apply State.set_keeps
    | with_reducible apply Keeps.ite
    | split

theorem State.bump_keeps {zz s : State} (h : Keeps zz s) (F : Field) (n : Nat) : Keeps zz (State.bump s F n) := by
  unfold State.bump
  repeat' first
    | (intro _; intros; try dsimp -zeta only)
    | with_reducible exact Keeps.refl _
    | with_reducible assumption
    | with_reducible apply State.setSat_keeps
    | with_reducible apply Keeps.ite
    | split

theorem State.clr_keeps {zz s : State} (h : Keeps zz s) (F : Field) : Keeps zz (State.clr s F) := by
  unfold State.clr
  repeat' first
    | (intro _; intros; try dsimp -zeta only)
    | with_reducible exact Keeps.refl _
    | with_reducible assumption
    | with_reducible apply State.set_keeps
    | with_reducible apply Keeps.ite
    | split

theorem State.perfEv_keeps {zz s : State} (h : Keeps zz s) (e c n : Nat) : Keeps zz (State.perfEv s e c n) := by
  unfold State.perfEv
  repeat' first
    | (intro _; intros; try dsimp -zeta only)
    | with_reducible exact Keeps.refl _
    | with_reducible assumption
    | with_reducible apply State.onPerf_keeps
    | with_reducible apply State.set_keeps
    | with_reducible apply Keeps.ite
    | split

theorem State.portEv_keeps {zz s : State} (h : Keeps zz s) (e p n : Nat) : Keeps zz (State.portEv s e p n) := by
  unfold State.portEv
  repeat' first
    | (intro _; intros; try dsimp -zeta only)
    | with_reducible exact Keeps.refl _
    | with_reducible assumption
    | with_reducible apply State.perfEv_keeps
    | with_reducible apply Keeps.ite
    | split

theorem State.setTs_keeps {zz s : State} (h : Keeps zz s) (F : Nat → Field) (t : Nat) : Keeps zz (State.setTs s F t) := by
  unfold State.setTs
  repeat' first
    | (intro _; intros; try dsimp -zeta only)
    | with_reducible exact Keeps.refl _
    | with_reducible assumption
    | with_reducible apply State.set_keeps
    | with_reducible apply Keeps.ite
    | split

theorem State.set64_keeps {zz s : State} (h : Keeps zz s) (lo hi : Field) (v : Nat) : Keeps zz (State.set64 s lo hi v) := by
  unfold State.set64
  repeat' first
    | (intro _; intros; try dsimp -zeta only)
    | with_reducible exact Keeps.refl _
    | with_reducible assumption
    | with_reducible apply State.set_keeps
    | with_reducible apply Keeps.ite
    | split

theorem State.irq_keeps {zz s : State} (h : Keeps zz s) (bit : Nat) : Keeps zz (State.irq s bit) := by
  unfold State.irq
  repeat' first
    | (intro _; intros; try dsimp -zeta only)
    | with_reducible exact Keeps.refl _
    | with_reducible assumption
    | with_reducible apply State.set_keeps
    | with_reducible apply Keeps.ite
    | split

theorem State.noteSec_keeps {zz s : State} (h : Keeps zz s) (code arg : Nat) : Keeps zz (State.noteSec s code arg) := by
  unfold State.noteSec
  repeat' first
    | (intro _; intros; try dsimp -zeta only)
    | with_reducible exact Keeps.refl _
    | with_reducible assumption
    | with_reducible apply State.onMg_keeps
    | with_reducible apply State.set_keeps
    | with_reducible apply Keeps.ite
    | (extract_lets +onlyGivenNames u; have hu : Keeps zz u := ?_; clear_value u)
    | (extract_lets +onlyGivenNames u; have hu : Keeps zz u.1 := ?_; clear_value u)
    | (extract_lets +onlyGivenNames u; have hu : Keeps zz u.2 := ?_; clear_value u)
    | (extract_lets +onlyGivenNames u; clear_value u)
    | dsimp only [u]
    | split

theorem State.queueEvent_keeps {zz s : State} (h : Keeps zz s) (code sev arg : Nat) : Keeps zz (State.queueEvent s code sev arg) := by
  unfold State.queueEvent
  repeat' first
    | (intro _; intros; try dsimp -zeta only)
    | with_reducible exact Keeps.refl _
    | with_reducible assumption
    | with_reducible apply State.onMg_keeps
    | with_reducible apply State.set_keeps
    | with_reducible apply State.bump_keeps
    | with_reducible apply State.noteSec_keeps
    | with_reducible apply Keeps.ite
    | (extract_lets +onlyGivenNames u; have hu : Keeps zz u := ?_; clear_value u)
    | (extract_lets +onlyGivenNames u; have hu : Keeps zz u.1 := ?_; clear_value u)
    | (extract_lets +onlyGivenNames u; have hu : Keeps zz u.2 := ?_; clear_value u)
    | (extract_lets +onlyGivenNames u; clear_value u)
    | dsimp only [u]
    | split

theorem State.addAlarm_keeps {zz s : State} (h : Keeps zz s) (code sev key : Nat) (ackable : Bool) : Keeps zz (State.addAlarm s code sev key ackable) := by
  unfold State.addAlarm
  repeat' first
    | (intro _; intros; try dsimp -zeta only)
    | with_reducible exact Keeps.refl _
    | with_reducible assumption
    | with_reducible apply State.onMg_keeps
    | with_reducible apply State.irq_keeps
    | with_reducible apply Keeps.ite
    | split

theorem State.event_keeps {zz s : State} (h : Keeps zz s) (code sev arg : Nat) : Keeps zz (State.event s code sev arg) := by
  unfold State.event
  repeat' first
    | (intro _; intros; try dsimp -zeta only)
    | with_reducible exact Keeps.refl _
    | with_reducible assumption
    | with_reducible apply State.queueEvent_keeps
    | with_reducible apply State.addAlarm_keeps
    | with_reducible apply Keeps.ite
    | (extract_lets +onlyGivenNames u; have hu : Keeps zz u := ?_; clear_value u)
    | (extract_lets +onlyGivenNames u; have hu : Keeps zz u.1 := ?_; clear_value u)
    | (extract_lets +onlyGivenNames u; have hu : Keeps zz u.2 := ?_; clear_value u)
    | (extract_lets +onlyGivenNames u; clear_value u)
    | dsimp only [u]
    | split

theorem State.raiseCond_keeps {zz s : State} (h : Keeps zz s) (code sev arg key : Nat) : Keeps zz (State.raiseCond s code sev arg key) := by
  unfold State.raiseCond
  repeat' first
    | (intro _; intros; try dsimp -zeta only)
    | with_reducible exact Keeps.refl _
    | with_reducible assumption
    | with_reducible apply State.queueEvent_keeps
    | with_reducible apply State.addAlarm_keeps
    | with_reducible apply Keeps.ite
    | (extract_lets +onlyGivenNames u; have hu : Keeps zz u := ?_; clear_value u)
    | (extract_lets +onlyGivenNames u; have hu : Keeps zz u.1 := ?_; clear_value u)
    | (extract_lets +onlyGivenNames u; have hu : Keeps zz u.2 := ?_; clear_value u)
    | (extract_lets +onlyGivenNames u; clear_value u)
    | dsimp only [u]
    | split

theorem State.clearCond_keeps {zz s : State} (h : Keeps zz s) (code key : Nat) : Keeps zz (State.clearCond s code key) := by
  unfold State.clearCond
  repeat' first
    | (intro _; intros; try dsimp -zeta only)
    | with_reducible exact Keeps.refl _
    | with_reducible assumption
    | with_reducible apply State.onMg_keeps
    | with_reducible apply State.irq_keeps
    | with_reducible apply Keeps.ite
    | split

theorem State.clampLog_keeps {zz s : State} (h : Keeps zz s) (addr written effective source : Nat) : Keeps zz (State.clampLog s addr written effective source) := by
  unfold State.clampLog
  repeat' first
    | (intro _; intros; try dsimp -zeta only)
    | with_reducible exact Keeps.refl _
    | with_reducible assumption
    | with_reducible apply State.onMg_keeps
    | with_reducible apply State.bump_keeps
    | with_reducible apply State.set_keeps
    | with_reducible apply Keeps.ite
    | (extract_lets +onlyGivenNames u; have hu : Keeps zz u := ?_; clear_value u)
    | (extract_lets +onlyGivenNames u; have hu : Keeps zz u.1 := ?_; clear_value u)
    | (extract_lets +onlyGivenNames u; have hu : Keeps zz u.2 := ?_; clear_value u)
    | (extract_lets +onlyGivenNames u; clear_value u)
    | dsimp only [u]
    | split

theorem State.tempTake_keeps {zz s : State} (h : Keeps zz s) (i : Nat) (t : Int) : Keeps zz (State.tempTake s i t) := by
  unfold State.tempTake
  repeat' first
    | (intro _; intros; try dsimp -zeta only)
    | with_reducible exact Keeps.refl _
    | with_reducible assumption
    | with_reducible apply State.seti_keeps
    | with_reducible apply Keeps.ite
    | split

end Sys2Proof.Machine
end

