-- ==== Sys2Proof/Laws/Keep/Count.lean ====
section
/-! SUPPORT. Sys2Proof/Machine/Count.lean keeps the queue and the canonical forms. -/
namespace Sys2Proof.Machine

theorem State.perfAdd_keeps {zz s : State} (h : Keeps zz s) (e c n : Nat) : Keeps zz (State.perfAdd s e c n) := by
  unfold State.perfAdd
  repeat' first
    | (intro _; intros; try dsimp -zeta only)
    | with_reducible exact Keeps.refl _
    | with_reducible assumption
    | with_reducible apply State.perfEv_keeps
    | with_reducible apply Keeps.ite
    | split

theorem State.countEngines_keeps {zz s : State} (h : Keeps zz s) (b : Nat) : Keeps zz (State.countEngines s b) := by
  unfold State.countEngines
  repeat' first
    | (intro _; intros; try dsimp -zeta only)
    | with_reducible exact Keeps.refl _
    | with_reducible assumption
    | with_reducible apply State.perfEv_keeps
    | with_reducible apply Keeps.forEach
    | with_reducible apply State.perfAdd_keeps
    | with_reducible apply Keeps.foldl
    | with_reducible apply Keeps.foldl_fst
    | with_reducible apply Keeps.ite
    | (extract_lets +onlyGivenNames u; have hu : Keeps zz u := ?_; clear_value u)
    | (extract_lets +onlyGivenNames u; have hu : Keeps zz u.1 := ?_; clear_value u)
    | (extract_lets +onlyGivenNames u; have hu : Keeps zz u.2 := ?_; clear_value u)
    | (extract_lets +onlyGivenNames u; clear_value u)
    | dsimp only [u]
    | split

theorem State.countPorts_keeps {zz s : State} (h : Keeps zz s) (n : Nat) : Keeps zz (State.countPorts s n) := by
  unfold State.countPorts
  repeat' first
    | (intro _; intros; try dsimp -zeta only)
    | with_reducible exact Keeps.refl _
    | with_reducible assumption
    | with_reducible apply State.perfAdd_keeps
    | with_reducible apply State.portEv_keeps
    | with_reducible apply Keeps.foldl
    | with_reducible apply Keeps.foldl_fst
    | with_reducible apply Keeps.ite
    | (extract_lets +onlyGivenNames u; have hu : Keeps zz u := ?_; clear_value u)
    | (extract_lets +onlyGivenNames u; have hu : Keeps zz u.1 := ?_; clear_value u)
    | (extract_lets +onlyGivenNames u; have hu : Keeps zz u.2 := ?_; clear_value u)
    | (extract_lets +onlyGivenNames u; clear_value u)
    | dsimp only [u]
    | split

theorem State.countSlots_keeps {zz s : State} (h : Keeps zz s) (n : Nat) : Keeps zz (State.countSlots s n) := by
  unfold State.countSlots
  repeat' first
    | (intro _; intros; try dsimp -zeta only)
    | with_reducible exact Keeps.refl _
    | with_reducible assumption
    | with_reducible apply Keeps.forEach
    | with_reducible apply State.perfEv_keeps
    | with_reducible apply Keeps.ite
    | (extract_lets +onlyGivenNames u; have hu : Keeps zz u := ?_; clear_value u)
    | (extract_lets +onlyGivenNames u; have hu : Keeps zz u.1 := ?_; clear_value u)
    | (extract_lets +onlyGivenNames u; have hu : Keeps zz u.2 := ?_; clear_value u)
    | (extract_lets +onlyGivenNames u; clear_value u)
    | dsimp only [u]
    | split

theorem State.countTicks_keeps {zz s : State} (h : Keeps zz s) (total d n : Nat) : Keeps zz (State.countTicks s total d n) := by
  unfold State.countTicks
  repeat' first
    | (intro _; intros; try dsimp -zeta only)
    | with_reducible exact Keeps.refl _
    | with_reducible assumption
    | with_reducible apply Keeps.forEach
    | with_reducible apply State.perfEv_keeps
    | with_reducible apply State.countEngines_keeps
    | with_reducible apply State.countPorts_keeps
    | with_reducible apply State.countSlots_keeps
    | with_reducible apply Keeps.ite
    | (extract_lets +onlyGivenNames u; have hu : Keeps zz u := ?_; clear_value u)
    | (extract_lets +onlyGivenNames u; have hu : Keeps zz u.1 := ?_; clear_value u)
    | (extract_lets +onlyGivenNames u; have hu : Keeps zz u.2 := ?_; clear_value u)
    | (extract_lets +onlyGivenNames u; clear_value u)
    | dsimp only [u]
    | split

end Sys2Proof.Machine
end

