-- ==== Sys2Proof/Laws/Keep/Dump.lean ====
section
/-! SUPPORT. Sys2Proof/Machine/Dump.lean keeps the queue and the canonical forms. -/
namespace Sys2Proof.Machine

theorem State.applySels_keeps {zz s : State} (h : Keeps zz s) : Keeps zz (State.applySels s) := by
  unfold State.applySels
  repeat' first
    | (intro _; intros; try dsimp -zeta only)
    | with_reducible exact Keeps.refl _
    | with_reducible assumption
    | with_reducible apply State.set_keeps
    | with_reducible apply State.onPerf_keeps
    | with_reducible apply State.event_keeps
    | with_reducible apply Keeps.foldl
    | with_reducible apply Keeps.foldl_fst
    | with_reducible apply Keeps.ite
    | (extract_lets +onlyGivenNames u; have hu : Keeps zz u := ?_; clear_value u)
    | (extract_lets +onlyGivenNames u; have hu : Keeps zz u.1 := ?_; clear_value u)
    | (extract_lets +onlyGivenNames u; have hu : Keeps zz u.2 := ?_; clear_value u)
    | (extract_lets +onlyGivenNames u; clear_value u)
    | dsimp only [u]
    | split

theorem State.keepCounts_keeps {zz s : State} (h : Keeps zz s) : Keeps zz (State.keepCounts s) := by
  unfold State.keepCounts
  repeat' first
    | (intro _; intros; try dsimp -zeta only)
    | with_reducible exact Keeps.refl _
    | with_reducible assumption
    | with_reducible apply Keeps.forEach
    | with_reducible apply State.onPerf_keeps
    | with_reducible apply State.set_keeps
    | with_reducible apply Keeps.ite
    | split

theorem State.applySampling_keeps {zz s : State} (h : Keeps zz s) : Keeps zz (State.applySampling s) := by
  unfold State.applySampling
  repeat' first
    | (intro _; intros; try dsimp -zeta only)
    | with_reducible exact Keeps.refl _
    | with_reducible assumption
    | with_reducible apply State.onPerf_keeps
    | with_reducible apply Keeps.ite
    | (extract_lets +onlyGivenNames u; have hu : Keeps zz u := ?_; clear_value u)
    | (extract_lets +onlyGivenNames u; have hu : Keeps zz u.1 := ?_; clear_value u)
    | (extract_lets +onlyGivenNames u; have hu : Keeps zz u.2 := ?_; clear_value u)
    | (extract_lets +onlyGivenNames u; clear_value u)
    | dsimp only [u]
    | split

theorem State.dropTelemetry_keeps {zz s : State} (h : Keeps zz s) : Keeps zz (State.dropTelemetry s) := by
  unfold State.dropTelemetry
  repeat' first
    | (intro _; intros; try dsimp -zeta only)
    | with_reducible exact Keeps.refl _
    | with_reducible assumption
    | with_reducible apply State.onFab_keeps
    | with_reducible apply State.bump_keeps
    | with_reducible apply Keeps.forEach
    | with_reducible apply State.noteSec_keeps
    | with_reducible apply Keeps.foldl
    | with_reducible apply Keeps.foldl_fst
    | (apply SMap.wf_setMany; assumption)
    | (apply SMap.wf_clearRange; assumption)
    | with_reducible apply Keeps.ite
    | (extract_lets +onlyGivenNames u; have hu : Keeps zz u := ?_; clear_value u)
    | (extract_lets +onlyGivenNames u; have hu : Keeps zz u.1 := ?_; clear_value u)
    | (extract_lets +onlyGivenNames u; have hu : Keeps zz u.2 := ?_; clear_value u)
    | (extract_lets +onlyGivenNames u; clear_value u)
    | dsimp only [u]
    | split

theorem State.dumpAt_keeps {zz s : State} (h : Keeps zz s) : Keeps zz (State.dumpAt s) := by
  unfold State.dumpAt
  repeat' first
    | (intro _; intros; try dsimp -zeta only)
    | with_reducible exact Keeps.refl _
    | with_reducible assumption
    | with_reducible apply State.fresh_keeps
    | with_reducible apply State.dropTelemetry_keeps
    | with_reducible apply State.onPerf_keeps
    | with_reducible apply State.applySels_keeps
    | with_reducible apply State.keepCounts_keeps
    | with_reducible apply State.applySampling_keeps
    | with_reducible apply Keeps.ite
    | (extract_lets +onlyGivenNames u; have hu : Keeps zz u := ?_; clear_value u)
    | (extract_lets +onlyGivenNames u; have hu : Keeps zz u.1 := ?_; clear_value u)
    | (extract_lets +onlyGivenNames u; have hu : Keeps zz u.2 := ?_; clear_value u)
    | (extract_lets +onlyGivenNames u; clear_value u)
    | dsimp only [u]
    | split

theorem State.dumpWithin_keeps {zz s : State} (h : Keeps zz s) : Keeps zz (State.dumpWithin s) := by
  unfold State.dumpWithin
  repeat' first
    | (intro _; intros; try dsimp -zeta only)
    | with_reducible exact Keeps.refl _
    | with_reducible assumption
    | with_reducible apply State.dumpAt_keeps
    | with_reducible apply Keeps.ite
    | split

theorem State.dumpSecond_keeps {zz s : State} (h : Keeps zz s) : Keeps zz (State.dumpSecond s) := by
  unfold State.dumpSecond
  repeat' first
    | (intro _; intros; try dsimp -zeta only)
    | with_reducible exact Keeps.refl _
    | with_reducible assumption
    | with_reducible apply State.dumpAt_keeps
    | with_reducible apply Keeps.ite
    | split

end Sys2Proof.Machine
end

