-- ==== Sys2Proof/Laws/Keep/SelfTest.lean ====
section
/-! SUPPORT. Sys2Proof/Machine/SelfTest.lean keeps the queue and the canonical forms. -/
namespace Sys2Proof.Machine

theorem State.setRun_keeps {zz s : State} (h : Keeps zz s) (gated : Bool) (r : Option BistRun) : Keeps zz (State.setRun s gated r) := by
  unfold State.setRun
  repeat' first
    | (intro _; intros; try dsimp -zeta only)
    | with_reducible exact Keeps.refl _
    | with_reducible assumption
    | with_reducible apply State.onBist_keeps
    | with_reducible apply State.setb_keeps
    | with_reducible apply State.set_keeps
    | with_reducible apply Keeps.ite
    | split

theorem State.bistOffset_keeps {zz s : State} (h : Keeps zz s) (n : Nat) (o : Int) : Keeps zz (State.bistOffset s n o) := by
  unfold State.bistOffset
  repeat' first
    | (intro _; intros; try dsimp -zeta only)
    | with_reducible exact Keeps.refl _
    | with_reducible assumption
    | with_reducible apply State.onBist_keeps
    | with_reducible apply Keeps.ite
    | split

theorem State.bistSeq_keeps {zz s : State} (h : Keeps zz s) (u : Nat) : Keeps zz (State.bistSeq s u) := by
  unfold State.bistSeq
  repeat' first
    | (intro _; intros; try dsimp -zeta only)
    | with_reducible exact Keeps.refl _
    | with_reducible assumption
    | with_reducible apply State.set_keeps
    | with_reducible apply Keeps.ite
    | (extract_lets +onlyGivenNames u; have hu : Keeps zz u := ?_; clear_value u)
    | (extract_lets +onlyGivenNames u; have hu : Keeps zz u.1 := ?_; clear_value u)
    | (extract_lets +onlyGivenNames u; have hu : Keeps zz u.2 := ?_; clear_value u)
    | (extract_lets +onlyGivenNames u; clear_value u)
    | dsimp only [u]
    | split

theorem State.setFailFlag_keeps {zz s : State} (h : Keeps zz s) (u : Nat) (b : Bool) : Keeps zz (State.setFailFlag s u b) := by
  unfold State.setFailFlag
  repeat' first
    | (intro _; intros; try dsimp -zeta only)
    | with_reducible exact Keeps.refl _
    | with_reducible assumption
    | with_reducible apply State.setb_keeps
    | with_reducible apply State.set_keeps
    | with_reducible apply Keeps.ite
    | (extract_lets +onlyGivenNames u; have hu : Keeps zz u := ?_; clear_value u)
    | (extract_lets +onlyGivenNames u; have hu : Keeps zz u.1 := ?_; clear_value u)
    | (extract_lets +onlyGivenNames u; have hu : Keeps zz u.2 := ?_; clear_value u)
    | (extract_lets +onlyGivenNames u; clear_value u)
    | dsimp only [u]
    | split

theorem State.bistResult_keeps {zz s : State} (h : Keeps zz s) (u result cause count sig : Nat) : Keeps zz (State.bistResult s u result cause count sig) := by
  unfold State.bistResult
  repeat' first
    | (intro _; intros; try dsimp -zeta only)
    | with_reducible exact Keeps.refl _
    | with_reducible assumption
    | with_reducible apply State.set_keeps
    | with_reducible apply State.set64_keeps
    | with_reducible apply State.setTs_keeps
    | with_reducible apply State.bistSeq_keeps
    | with_reducible apply State.setRun_keeps
    | with_reducible apply State.setFailFlag_keeps
    | with_reducible apply State.event_keeps
    | with_reducible apply Keeps.ite
    | (extract_lets +onlyGivenNames u; have hu : Keeps zz u := ?_; clear_value u)
    | (extract_lets +onlyGivenNames u; have hu : Keeps zz u.1 := ?_; clear_value u)
    | (extract_lets +onlyGivenNames u; have hu : Keeps zz u.2 := ?_; clear_value u)
    | (extract_lets +onlyGivenNames u; clear_value u)
    | dsimp only [u]
    | split

theorem State.bistCut_keeps {zz s : State} (h : Keeps zz s) (u cause : Nat) : Keeps zz (State.bistCut s u cause) := by
  unfold State.bistCut
  repeat' first
    | (intro _; intros; try dsimp -zeta only)
    | with_reducible exact Keeps.refl _
    | with_reducible assumption
    | with_reducible apply State.drawn_keeps
    | with_reducible apply State.bistResult_keeps
    | with_reducible apply Keeps.ite
    | (extract_lets +onlyGivenNames u; have hu : Keeps zz u := ?_; clear_value u)
    | (extract_lets +onlyGivenNames u; have hu : Keeps zz u.1 := ?_; clear_value u)
    | (extract_lets +onlyGivenNames u; have hu : Keeps zz u.2 := ?_; clear_value u)
    | (extract_lets +onlyGivenNames u; clear_value u)
    | dsimp only [u]
    | split

theorem State.retireAfter_keeps {zz s : State} (h : Keeps zz s) : Keeps zz (State.retireAfter s) := by
  unfold State.retireAfter
  repeat' first
    | (intro _; intros; try dsimp -zeta only)
    | with_reducible exact Keeps.refl _
    | with_reducible assumption
    | with_reducible apply State.onBist_keeps
    | with_reducible apply Keeps.ite
    | split

end Sys2Proof.Machine
end

