-- ==== Sys2Proof/Laws/Keep/Time.lean ====
section
/-! SUPPORT. Sys2Proof/Machine/Time.lean keeps the queue and the canonical forms. -/
namespace Sys2Proof.Machine

theorem State.steerRefused_keeps {zz s : State} (h : Keeps zz s) (path : Path) (offset : Nat) : Keeps zz (State.steerRefused s path offset) := by
  unfold State.steerRefused
  repeat' first
    | (intro _; intros; try dsimp -zeta only)
    | with_reducible exact Keeps.refl _
    | with_reducible assumption
    | with_reducible apply State.event_keeps
    | with_reducible apply Keeps.ite
    | split

theorem State.showIncr_keeps {zz s : State} (h : Keeps zz s) : Keeps zz (State.showIncr s) := by
  unfold State.showIncr
  repeat' first
    | (intro _; intros; try dsimp -zeta only)
    | with_reducible exact Keeps.refl _
    | with_reducible assumption
    | with_reducible apply State.set_keeps
    | with_reducible apply State.setb_keeps
    | with_reducible apply Keeps.ite
    | (extract_lets +onlyGivenNames u; have hu : Keeps zz u := ?_; clear_value u)
    | (extract_lets +onlyGivenNames u; have hu : Keeps zz u.1 := ?_; clear_value u)
    | (extract_lets +onlyGivenNames u; have hu : Keeps zz u.2 := ?_; clear_value u)
    | (extract_lets +onlyGivenNames u; clear_value u)
    | dsimp only [u]
    | split

theorem State.ticksPlain_keeps {zz s : State} (h : Keeps zz s) (n : Nat) : Keeps zz (State.ticksPlain s n) := by
  unfold State.ticksPlain
  repeat' first
    | (intro _; intros; try dsimp -zeta only)
    | with_reducible exact Keeps.refl _
    | with_reducible assumption
    | with_reducible apply State.countTicks_keeps
    | with_reducible apply State.onTb_keeps
    | with_reducible apply Keeps.ite
    | (extract_lets +onlyGivenNames u; have hu : Keeps zz u := ?_; clear_value u)
    | (extract_lets +onlyGivenNames u; have hu : Keeps zz u.1 := ?_; clear_value u)
    | (extract_lets +onlyGivenNames u; have hu : Keeps zz u.2 := ?_; clear_value u)
    | (extract_lets +onlyGivenNames u; clear_value u)
    | dsimp only [u]
    | split

theorem State.setI64_keeps {zz s : State} (h : Keeps zz s) (lo hi : Field) (v : Int) : Keeps zz (State.setI64 s lo hi v) := by
  unfold State.setI64
  repeat' first
    | (intro _; intros; try dsimp -zeta only)
    | with_reducible exact Keeps.refl _
    | with_reducible assumption
    | with_reducible apply State.set64_keeps
    | with_reducible apply Keeps.ite
    | split

theorem State.setMisalign_keeps {zz s : State} (h : Keeps zz s) (n : Nat) (m : Int) : Keeps zz (State.setMisalign s n m) := by
  unfold State.setMisalign
  repeat' first
    | (intro _; intros; try dsimp -zeta only)
    | with_reducible exact Keeps.refl _
    | with_reducible assumption
    | with_reducible apply State.setI64_keeps
    | with_reducible apply State.set_keeps
    | with_reducible apply Keeps.ite
    | (extract_lets +onlyGivenNames u; have hu : Keeps zz u := ?_; clear_value u)
    | (extract_lets +onlyGivenNames u; have hu : Keeps zz u.1 := ?_; clear_value u)
    | (extract_lets +onlyGivenNames u; have hu : Keeps zz u.2 := ?_; clear_value u)
    | (extract_lets +onlyGivenNames u; clear_value u)
    | dsimp only [u]
    | split

theorem State.addMisalign_keeps {zz s : State} (h : Keeps zz s) (d : Int) : Keeps zz (State.addMisalign s d) := by
  unfold State.addMisalign
  repeat' first
    | (intro _; intros; try dsimp -zeta only)
    | with_reducible exact Keeps.refl _
    | with_reducible assumption
    | with_reducible apply Keeps.forEach
    | with_reducible apply State.setMisalign_keeps
    | with_reducible apply State.event_keeps
    | with_reducible apply Keeps.foldl
    | with_reducible apply Keeps.foldl_fst
    | with_reducible apply Keeps.ite
    | (extract_lets +onlyGivenNames u; have hu : Keeps zz u := ?_; clear_value u)
    | (extract_lets +onlyGivenNames u; have hu : Keeps zz u.1 := ?_; clear_value u)
    | (extract_lets +onlyGivenNames u; have hu : Keeps zz u.2 := ?_; clear_value u)
    | (extract_lets +onlyGivenNames u; have ht := fun (x : State) => u x; clear ht; dsimp -zeta only [u]; clear u)
    | (extract_lets +onlyGivenNames u; have ht := fun y (x : State) => u y x; clear ht; dsimp -zeta only [u]; clear u)
    | (extract_lets +onlyGivenNames u; clear_value u)
    | dsimp only [u]
    | split

theorem State.commit_keeps {zz s : State} (h : Keeps zz s) (i : Nat) (r : Int) : Keeps zz (State.commit s i r) := by
  unfold State.commit
  repeat' first
    | (intro _; intros; try dsimp -zeta only)
    | with_reducible exact Keeps.refl _
    | with_reducible assumption
    | with_reducible apply State.onTb_keeps
    | with_reducible apply State.set_keeps
    | with_reducible apply Keeps.ite
    | split

theorem State.commitIncr_keeps {zz s : State} (h : Keeps zz s) (i : Nat) : Keeps zz (State.commitIncr s i) := by
  unfold State.commitIncr
  repeat' first
    | (intro _; intros; try dsimp -zeta only)
    | with_reducible exact Keeps.refl _
    | with_reducible assumption
    | with_reducible apply State.commit_keeps
    | with_reducible apply Keeps.ite
    | split

theorem State.slewed_keeps {zz s : State} (h : Keeps zz s) (n : Nat) : Keeps zz (State.slewed s n) := by
  unfold State.slewed
  repeat' first
    | (intro _; intros; try dsimp -zeta only)
    | with_reducible exact Keeps.refl _
    | with_reducible assumption
    | with_reducible apply State.onTb_keeps
    | with_reducible apply State.onSel_keeps
    | with_reducible apply State.transfer_keeps
    | with_reducible apply State.addMisalign_keeps
    | with_reducible apply Keeps.ite
    | (extract_lets +onlyGivenNames u; have hu : Keeps zz u := ?_; clear_value u)
    | (extract_lets +onlyGivenNames u; have hu : Keeps zz u.1 := ?_; clear_value u)
    | (extract_lets +onlyGivenNames u; have hu : Keeps zz u.2 := ?_; clear_value u)
    | (extract_lets +onlyGivenNames u; clear_value u)
    | dsimp only [u]
    | split

theorem State.takeIncr_keeps {zz s : State} (h : Keeps zz s) : Keeps zz (State.takeIncr s) := by
  unfold State.takeIncr
  repeat' first
    | (intro _; intros; try dsimp -zeta only)
    | with_reducible exact Keeps.refl _
    | with_reducible assumption
    | with_reducible apply State.onTb_keeps
    | with_reducible apply State.seti_keeps
    | with_reducible apply State.transfer_keeps
    | with_reducible apply State.onSel_keeps
    | with_reducible apply State.set_keeps
    | with_reducible apply Keeps.ite
    | (extract_lets +onlyGivenNames u; have hu : Keeps zz u := ?_; clear_value u)
    | (extract_lets +onlyGivenNames u; have hu : Keeps zz u.1 := ?_; clear_value u)
    | (extract_lets +onlyGivenNames u; have hu : Keeps zz u.2 := ?_; clear_value u)
    | (extract_lets +onlyGivenNames u; clear_value u)
    | dsimp only [u]
    | split

theorem State.takeGcomp_keeps {zz s : State} (h : Keeps zz s) : Keeps zz (State.takeGcomp s) := by
  unfold State.takeGcomp
  repeat' first
    | (intro _; intros; try dsimp -zeta only)
    | with_reducible exact Keeps.refl _
    | with_reducible assumption
    | with_reducible apply State.onTb_keeps
    | with_reducible apply Keeps.ite
    | split

theorem State.endSlew_keeps {zz s : State} (h : Keeps zz s) : Keeps zz (State.endSlew s) := by
  unfold State.endSlew
  repeat' first
    | (intro _; intros; try dsimp -zeta only)
    | with_reducible exact Keeps.refl _
    | with_reducible assumption
    | with_reducible apply State.transfer_keeps
    | with_reducible apply State.commit_keeps
    | with_reducible apply State.onSel_keeps
    | with_reducible apply Keeps.ite
    | split

theorem State.sendSync_keeps {zz s : State} (h : Keeps zz s) : Keeps zz (State.sendSync s) := by
  unfold State.sendSync
  repeat' first
    | (intro _; intros; try dsimp -zeta only)
    | with_reducible exact Keeps.refl _
    | with_reducible assumption
    | with_reducible apply State.onTb_keeps
    | with_reducible apply State.transfer_keeps
    | with_reducible apply Keeps.ite
    | (extract_lets +onlyGivenNames u; have hu : Keeps zz u := ?_; clear_value u)
    | (extract_lets +onlyGivenNames u; have hu : Keeps zz u.1 := ?_; clear_value u)
    | (extract_lets +onlyGivenNames u; have hu : Keeps zz u.2 := ?_; clear_value u)
    | (extract_lets +onlyGivenNames u; clear_value u)
    | dsimp only [u]
    | split

theorem State.fallDue_keeps {zz s : State} (h : Keeps zz s) : Keeps zz (State.fallDue s) := by
  unfold State.fallDue
  repeat' first
    | (intro _; intros; try dsimp -zeta only)
    | with_reducible exact Keeps.refl _
    | with_reducible assumption
    | with_reducible apply State.dumpWithin_keeps
    | with_reducible apply State.takeIncr_keeps
    | with_reducible apply State.takeGcomp_keeps
    | with_reducible apply State.endSlew_keeps
    | with_reducible apply State.sendSync_keeps
    | with_reducible apply State.showIncr_keeps
    | with_reducible apply Keeps.ite
    | split

theorem State.advanceBy_keeps {z s : State} (h : Keeps z s) (f n : Nat) : Keeps z (State.advanceBy f s n) := by
  induction f generalizing s n with
  | zero => exact State.ticksPlain_keeps h n
  | succ f ih =>
    unfold State.advanceBy
    extract_lets m u
    have hu : Keeps z u := State.fallDue_keeps (State.slewed_keeps (State.ticksPlain_keeps h _) _)
    split
    · exact hu
    · exact ih hu _

theorem State.advance_keeps {zz s : State} (h : Keeps zz s) (n : Nat) : Keeps zz (State.advance s n) := by
  unfold State.advance
  repeat' first
    | (intro _; intros; try dsimp -zeta only)
    | with_reducible exact Keeps.refl _
    | with_reducible assumption
    | with_reducible apply State.advanceBy_keeps
    | with_reducible apply Keeps.ite
    | split

theorem State.runTo_keeps {z s : State} (h : Keeps z s) (f c : Nat) : Keeps z (State.runTo f s c) := by
  induction f generalizing s with
  | zero => exact h
  | succ f ih =>
    unfold State.runTo
    split
    · exact h
    · exact ih (State.advance_keeps h _)

theorem State.runUntil_keeps {zz s : State} (h : Keeps zz s) (c : Nat) : Keeps zz (State.runUntil s c) := by
  unfold State.runUntil
  repeat' first
    | (intro _; intros; try dsimp -zeta only)
    | with_reducible exact Keeps.refl _
    | with_reducible assumption
    | with_reducible apply State.runTo_keeps
    | with_reducible apply Keeps.ite
    | split

theorem State.reach_keeps {z s : State} {t : Nat} {u} (h : Keeps z s) (e : s.reach t = some u) : Keeps z u := by
  unfold State.reach at e
  split at e
  · cases e; exact h
  · split at e
    · cases e
    · dsimp only at e
      split at e
      · cases e; exact State.runUntil_keeps h _
      · cases e

theorem State.reachTick_keeps {z s : State} {n : Nat} {u} (h : Keeps z s) (e : s.reachTick n = some u) : Keeps z u := by
  unfold State.reachTick at e
  split at e
  · cases e; exact h
  · split at e
    · cases e
    · dsimp only at e
      split at e
      · cases e; exact State.advance_keeps h _
      · cases e

theorem State.reachClocked_keeps {z s : State} {n : Nat} {u} (h : Keeps z s) (e : s.reachClocked n = some u) : Keeps z u := by
  unfold State.reachClocked at e
  split at e
  · exact State.reachTick_keeps h e
  · cases e; exact h

theorem State.tick_keeps {z s : State} (h : Keeps z s) : Keeps z s.tick := by
  unfold State.tick
  split
  · cases e : s.reachTick (s.tb.ticks + 1) with
    | none => exact h
    | some u => exact State.reachTick_keeps h e
  · split
    · dsimp only; exact State.onBk_keeps h _
    · exact h

theorem State.srcGroup_keeps {zz s : State} (h : Keeps zz s) (k : Nat) (f : State → State) (hf : ∀ (x0 : State), Keeps zz x0 → Keeps zz (f x0)) : Keeps zz (State.srcGroup s k f) := by
  unfold State.srcGroup
  repeat' first
    | (intro _; intros; try dsimp -zeta only)
    | with_reducible exact Keeps.refl _
    | with_reducible assumption
    | with_reducible apply State.set_keeps
    | with_reducible apply hf
    | with_reducible apply Keeps.ite
    | (extract_lets +onlyGivenNames u; have hu : Keeps zz u := ?_; clear_value u)
    | (extract_lets +onlyGivenNames u; have hu : Keeps zz u.1 := ?_; clear_value u)
    | (extract_lets +onlyGivenNames u; have hu : Keeps zz u.2 := ?_; clear_value u)
    | (extract_lets +onlyGivenNames u; clear_value u)
    | dsimp only [u]
    | split

theorem State.dpllMoved_keeps {zz s : State} (h : Keeps zz s) (d : Nat) (by_ : Int) : Keeps zz (State.dpllMoved s d by_) := by
  unfold State.dpllMoved
  repeat' first
    | (intro _; intros; try dsimp -zeta only)
    | with_reducible exact Keeps.refl _
    | with_reducible assumption
    | with_reducible apply State.onOuts_keeps
    | with_reducible apply State.set_keeps
    | with_reducible apply State.seti_keeps
    | with_reducible apply Keeps.ite
    | (extract_lets +onlyGivenNames u; have hu : Keeps zz u := ?_; clear_value u)
    | (extract_lets +onlyGivenNames u; have hu : Keeps zz u.1 := ?_; clear_value u)
    | (extract_lets +onlyGivenNames u; have hu : Keeps zz u.2 := ?_; clear_value u)
    | (extract_lets +onlyGivenNames u; clear_value u)
    | dsimp only [u]
    | split

theorem State.followStep_keeps {zz s : State} (h : Keeps zz s) (d : Int) (first : Bool) : Keeps zz (State.followStep s d first) := by
  unfold State.followStep
  repeat' first
    | (intro _; intros; try dsimp -zeta only)
    | with_reducible exact Keeps.refl _
    | with_reducible assumption
    | with_reducible apply Keeps.forEach
    | with_reducible apply State.srcGroup_keeps
    | with_reducible apply State.setI64_keeps
    | with_reducible apply State.onSel_keeps
    | with_reducible apply State.onTdc_keeps
    | with_reducible apply State.dpllMoved_keeps
    | with_reducible apply State.onOuts_keeps
    | with_reducible apply Keeps.ite
    | (extract_lets +onlyGivenNames u; have hu : Keeps zz u := ?_; clear_value u)
    | (extract_lets +onlyGivenNames u; have hu : Keeps zz u.1 := ?_; clear_value u)
    | (extract_lets +onlyGivenNames u; have hu : Keeps zz u.2 := ?_; clear_value u)
    | (extract_lets +onlyGivenNames u; clear_value u)
    | dsimp only [u]
    | split

theorem State.applyStep_keeps {zz s : State} (h : Keeps zz s) (d : Int) : Keeps zz (State.applyStep s d) := by
  unfold State.applyStep
  repeat' first
    | (intro _; intros; try dsimp -zeta only)
    | with_reducible exact Keeps.refl _
    | with_reducible assumption
    | with_reducible apply State.onTb_keeps
    | with_reducible apply State.onLease_keeps
    | with_reducible apply State.onPerf_keeps
    | with_reducible apply State.onPw_keeps
    | with_reducible apply State.onMac_keeps
    | with_reducible apply State.onTs_keeps
    | with_reducible apply State.event_keeps
    | with_reducible apply State.followStep_keeps
    | with_reducible apply State.onPtp_keeps
    | with_reducible apply State.onRt_keeps
    | with_reducible apply State.onSel_keeps
    | with_reducible apply State.addMisalign_keeps
    | with_reducible apply State.set_keeps
    | with_reducible apply State.transfer_keeps
    | with_reducible apply Keeps.getD
    | with_reducible apply Keeps.ite
    | (extract_lets +onlyGivenNames u; have hu : Keeps zz u := ?_; clear_value u)
    | (extract_lets +onlyGivenNames u; have hu : Keeps zz u.1 := ?_; clear_value u)
    | (extract_lets +onlyGivenNames u; have hu : Keeps zz u.2 := ?_; clear_value u)
    | (extract_lets +onlyGivenNames u; clear_value u)
    | dsimp only [u]
    | split

theorem State.armStep_keeps {zz s : State} (h : Keeps zz s) (d : Int) : Keeps zz (State.armStep s d) := by
  unfold State.armStep
  repeat' first
    | (intro _; intros; try dsimp -zeta only)
    | with_reducible exact Keeps.refl _
    | with_reducible assumption
    | with_reducible apply State.onTb_keeps
    | with_reducible apply State.set_keeps
    | with_reducible apply Keeps.ite
    | split

theorem State.dropStep_keeps {zz s : State} (h : Keeps zz s) : Keeps zz (State.dropStep s) := by
  unfold State.dropStep
  repeat' first
    | (intro _; intros; try dsimp -zeta only)
    | with_reducible exact Keeps.refl _
    | with_reducible assumption
    | with_reducible apply State.onTb_keeps
    | with_reducible apply State.set_keeps
    | with_reducible apply Keeps.ite
    | (extract_lets +onlyGivenNames u; have hu : Keeps zz u := ?_; clear_value u)
    | (extract_lets +onlyGivenNames u; have hu : Keeps zz u.1 := ?_; clear_value u)
    | (extract_lets +onlyGivenNames u; have hu : Keeps zz u.2 := ?_; clear_value u)
    | (extract_lets +onlyGivenNames u; clear_value u)
    | dsimp only [u]
    | split

theorem State.cutTransfer_keeps {zz s : State} (h : Keeps zz s) : Keeps zz (State.cutTransfer s) := by
  unfold State.cutTransfer
  repeat' first
    | (intro _; intros; try dsimp -zeta only)
    | with_reducible exact Keeps.refl _
    | with_reducible assumption
    | with_reducible apply State.dropStep_keeps
    | with_reducible apply State.transfer_keeps
    | with_reducible apply State.onSel_keeps
    | with_reducible apply State.set_keeps
    | with_reducible apply Keeps.ite
    | (extract_lets +onlyGivenNames u; have hu : Keeps zz u := ?_; clear_value u)
    | (extract_lets +onlyGivenNames u; have hu : Keeps zz u.1 := ?_; clear_value u)
    | (extract_lets +onlyGivenNames u; have hu : Keeps zz u.2 := ?_; clear_value u)
    | (extract_lets +onlyGivenNames u; clear_value u)
    | dsimp only [u]
    | split

theorem State.abandonTransfer_keeps {zz s : State} (h : Keeps zz s) : Keeps zz (State.abandonTransfer s) := by
  unfold State.abandonTransfer
  repeat' first
    | (intro _; intros; try dsimp -zeta only)
    | with_reducible exact Keeps.refl _
    | with_reducible assumption
    | with_reducible apply State.transfer_keeps
    | with_reducible apply State.cutTransfer_keeps
    | with_reducible apply State.commit_keeps
    | with_reducible apply Keeps.ite
    | (extract_lets +onlyGivenNames u; have hu : Keeps zz u := ?_; clear_value u)
    | (extract_lets +onlyGivenNames u; have hu : Keeps zz u.1 := ?_; clear_value u)
    | (extract_lets +onlyGivenNames u; have hu : Keeps zz u.2 := ?_; clear_value u)
    | (extract_lets +onlyGivenNames u; clear_value u)
    | dsimp only [u]
    | split

theorem State.clampStaged_keeps {zz s : State} (h : Keeps zz s) (src : Nat) : Keeps zz (State.clampStaged s src) := by
  unfold State.clampStaged
  repeat' first
    | (intro _; intros; try dsimp -zeta only)
    | with_reducible exact Keeps.refl _
    | with_reducible assumption
    | with_reducible apply State.set_keeps
    | with_reducible apply State.clampLog_keeps
    | with_reducible apply Keeps.ite
    | (extract_lets +onlyGivenNames u; have hu : Keeps zz u := ?_; clear_value u)
    | (extract_lets +onlyGivenNames u; have hu : Keeps zz u.1 := ?_; clear_value u)
    | (extract_lets +onlyGivenNames u; have hu : Keeps zz u.2 := ?_; clear_value u)
    | (extract_lets +onlyGivenNames u; clear_value u)
    | dsimp only [u]
    | split

theorem State.applyLeap_keeps {zz s : State} (h : Keeps zz s) : Keeps zz (State.applyLeap s) := by
  unfold State.applyLeap
  repeat' first
    | (intro _; intros; try dsimp -zeta only)
    | with_reducible exact Keeps.refl _
    | with_reducible assumption
    | with_reducible apply State.onTb_keeps
    | with_reducible apply State.seti_keeps
    | with_reducible apply State.set_keeps
    | with_reducible apply State.event_keeps
    | with_reducible apply Keeps.ite
    | (extract_lets +onlyGivenNames u; have hu : Keeps zz u := ?_; clear_value u)
    | (extract_lets +onlyGivenNames u; have hu : Keeps zz u.1 := ?_; clear_value u)
    | (extract_lets +onlyGivenNames u; have hu : Keeps zz u.2 := ?_; clear_value u)
    | (extract_lets +onlyGivenNames u; clear_value u)
    | dsimp only [u]
    | split

theorem State.setUtc_keeps {zz s : State} (h : Keeps zz s) (offset : Int) (leap leapTime source : Nat) : Keeps zz (State.setUtc s offset leap leapTime source) := by
  unfold State.setUtc
  repeat' first
    | (intro _; intros; try dsimp -zeta only)
    | with_reducible exact Keeps.refl _
    | with_reducible assumption
    | with_reducible apply State.seti_keeps
    | with_reducible apply State.set_keeps
    | with_reducible apply State.setb_keeps
    | with_reducible apply State.event_keeps
    | with_reducible apply Keeps.ite
    | (extract_lets +onlyGivenNames u; have hu : Keeps zz u := ?_; clear_value u)
    | (extract_lets +onlyGivenNames u; have hu : Keeps zz u.1 := ?_; clear_value u)
    | (extract_lets +onlyGivenNames u; have hu : Keeps zz u.2 := ?_; clear_value u)
    | (extract_lets +onlyGivenNames u; clear_value u)
    | dsimp only [u]
    | split

theorem State.failGcal_keeps {zz s : State} (h : Keeps zz s) : Keeps zz (State.failGcal s) := by
  unfold State.failGcal
  repeat' first
    | (intro _; intros; try dsimp -zeta only)
    | with_reducible exact Keeps.refl _
    | with_reducible assumption
    | with_reducible apply State.onTb_keeps
    | with_reducible apply State.set_keeps
    | with_reducible apply State.event_keeps
    | with_reducible apply Keeps.ite
    | split

theorem State.commitGcomp_keeps {zz s : State} (h : Keeps zz s) (c : Int) : Keeps zz (State.commitGcomp s c) := by
  unfold State.commitGcomp
  repeat' first
    | (intro _; intros; try dsimp -zeta only)
    | with_reducible exact Keeps.refl _
    | with_reducible assumption
    | with_reducible apply State.onTb_keeps
    | with_reducible apply State.seti_keeps
    | with_reducible apply Keeps.ite
    | split

theorem State.loadBackup_keeps {zz s : State} (h : Keeps zz s) : Keeps zz (State.loadBackup s) := by
  unfold State.loadBackup
  repeat' first
    | (intro _; intros; try dsimp -zeta only)
    | with_reducible exact Keeps.refl _
    | with_reducible assumption
    | with_reducible apply State.onBk_keeps
    | with_reducible apply Keeps.ite
    | split

theorem State.setCounter_keeps {zz s : State} (h : Keeps zz s) (c : TbCount) : Keeps zz (State.setCounter s c) := by
  unfold State.setCounter
  repeat' first
    | (intro _; intros; try dsimp -zeta only)
    | with_reducible exact Keeps.refl _
    | with_reducible assumption
    | with_reducible apply State.onPerf_keeps
    | with_reducible apply State.onPw_keeps
    | with_reducible apply State.onTb_keeps
    | with_reducible apply Keeps.ite
    | (extract_lets +onlyGivenNames u; have hu : Keeps zz u := ?_; clear_value u)
    | (extract_lets +onlyGivenNames u; have hu : Keeps zz u.1 := ?_; clear_value u)
    | (extract_lets +onlyGivenNames u; have hu : Keeps zz u.2 := ?_; clear_value u)
    | (extract_lets +onlyGivenNames u; clear_value u)
    | dsimp only [u]
    | split

theorem State.seedBound_keeps {zz s : State} (h : Keeps zz s) (e : Nat) : Keeps zz (State.seedBound s e) := by
  unfold State.seedBound
  repeat' first
    | (intro _; intros; try dsimp -zeta only)
    | with_reducible exact Keeps.refl _
    | with_reducible assumption
    | with_reducible apply State.onSel_keeps
    | with_reducible apply Keeps.ite
    | split

theorem State.seedTb_keeps {zz s : State} (h : Keeps zz s) (build : Nat) : Keeps zz (State.seedTb s build) := by
  unfold State.seedTb
  repeat' first
    | (intro _; intros; try dsimp -zeta only)
    | with_reducible exact Keeps.refl _
    | with_reducible assumption
    | with_reducible apply State.setCounter_keeps
    | with_reducible apply State.seedBound_keeps
    | with_reducible apply State.setSat_keeps
    | with_reducible apply State.set_keeps
    | with_reducible apply Keeps.ite
    | (extract_lets +onlyGivenNames u; have hu : Keeps zz u := ?_; clear_value u)
    | (extract_lets +onlyGivenNames u; have hu : Keeps zz u.1 := ?_; clear_value u)
    | (extract_lets +onlyGivenNames u; have hu : Keeps zz u.2 := ?_; clear_value u)
    | (extract_lets +onlyGivenNames u; clear_value u)
    | dsimp only [u]
    | split

end Sys2Proof.Machine
end

