-- ==== Sys2Proof/Laws/Keep/TqrUse.lean ====
section
/-! SUPPORT. Sys2Proof/Machine/TqrUse.lean keeps the queue and the canonical forms. -/
namespace Sys2Proof.Machine

theorem State.showNtp_keeps {zz s : State} (h : Keeps zz s) : Keeps zz (State.showNtp s) := by
  unfold State.showNtp
  repeat' first
    | (intro _; intros; try dsimp -zeta only)
    | with_reducible exact Keeps.refl _
    | with_reducible assumption
    | with_reducible apply State.set_keeps
    | with_reducible apply State.onNtp_keeps
    | with_reducible apply State.event_keeps
    | with_reducible apply Keeps.ite
    | (extract_lets +onlyGivenNames u; have hu : Keeps zz u := ?_; clear_value u)
    | (extract_lets +onlyGivenNames u; have hu : Keeps zz u.1 := ?_; clear_value u)
    | (extract_lets +onlyGivenNames u; have hu : Keeps zz u.2 := ?_; clear_value u)
    | (extract_lets +onlyGivenNames u; clear_value u)
    | dsimp only [u]
    | split

theorem State.showPtp_keeps {zz s : State} (h : Keeps zz s) : Keeps zz (State.showPtp s) := by
  unfold State.showPtp
  repeat' first
    | (intro _; intros; try dsimp -zeta only)
    | with_reducible exact Keeps.refl _
    | with_reducible assumption
    | with_reducible apply State.set_keeps
    | with_reducible apply State.setb_keeps
    | with_reducible apply State.event_keeps
    | with_reducible apply Keeps.ite
    | (extract_lets +onlyGivenNames u; have hu : Keeps zz u := ?_; clear_value u)
    | (extract_lets +onlyGivenNames u; have hu : Keeps zz u.1 := ?_; clear_value u)
    | (extract_lets +onlyGivenNames u; have hu : Keeps zz u.2 := ?_; clear_value u)
    | (extract_lets +onlyGivenNames u; clear_value u)
    | dsimp only [u]
    | split

end Sys2Proof.Machine
end

