-- ==== Sys2Proof/Laws/Keep/TimeBase.lean ====
section
/-! SUPPORT. Sys2Proof/Machine/TimeBase.lean keeps the queue and the canonical forms. -/
namespace Sys2Proof.Machine

theorem State.syncSend_keeps {zz s : State} (h : Keeps zz s) : Keeps zz (State.syncSend s) := by
  unfold State.syncSend
  repeat' first
    | (intro _; intros; try dsimp -zeta only)
    | with_reducible exact Keeps.refl _
    | with_reducible assumption
    | with_reducible apply State.runUntil_keeps
    | with_reducible apply State.sendSync_keeps
    | with_reducible apply Keeps.ite
    | split

theorem State.incrLo_keeps {zz s : State} (h : Keeps zz s) (path : Path) (v : Nat) : Keeps zz (State.incrLo s path v) := by
  unfold State.incrLo
  repeat' first
    | (intro _; intros; try dsimp -zeta only)
    | with_reducible exact Keeps.refl _
    | with_reducible assumption
    | with_reducible apply State.set_keeps
    | with_reducible apply State.steerRefused_keeps
    | with_reducible apply Keeps.ite
    | split

theorem State.incrHi_keeps {zz s : State} (h : Keeps zz s) (path : Path) (v : Nat) : Keeps zz (State.incrHi s path v) := by
  unfold State.incrHi
  repeat' first
    | (intro _; intros; try dsimp -zeta only)
    | with_reducible exact Keeps.refl _
    | with_reducible assumption
    | with_reducible apply State.commitIncr_keeps
    | with_reducible apply State.clampLog_keeps
    | with_reducible apply State.steerRefused_keeps
    | with_reducible apply Keeps.ite
    | (extract_lets +onlyGivenNames u; have hu : Keeps zz u := ?_; clear_value u)
    | (extract_lets +onlyGivenNames u; have hu : Keeps zz u.1 := ?_; clear_value u)
    | (extract_lets +onlyGivenNames u; have hu : Keeps zz u.2 := ?_; clear_value u)
    | (extract_lets +onlyGivenNames u; clear_value u)
    | dsimp only [u]
    | split

theorem State.incrEffect_keeps {zz s : State} (h : Keeps zz s) : Keeps zz (State.incrEffect s) := by
  unfold State.incrEffect
  repeat' first
    | (intro _; intros; try dsimp -zeta only)
    | with_reducible exact Keeps.refl _
    | with_reducible assumption
    | with_reducible refine State.reachTick_keeps ?_ (by assumption)
    | with_reducible apply Keeps.getD
    | with_reducible apply Keeps.ite
    | split

theorem State.stepArm_keeps {zz s : State} (h : Keeps zz s) (path : Path) : Keeps zz (State.stepArm s path) := by
  unfold State.stepArm
  repeat' first
    | (intro _; intros; try dsimp -zeta only)
    | with_reducible exact Keeps.refl _
    | with_reducible assumption
    | with_reducible apply State.clampStaged_keeps
    | with_reducible apply State.armStep_keeps
    | with_reducible apply State.set_keeps
    | with_reducible apply State.steerRefused_keeps
    | with_reducible apply Keeps.ite
    | split

theorem State.stepCancel_keeps {zz s : State} (h : Keeps zz s) (path : Path) : Keeps zz (State.stepCancel s path) := by
  unfold State.stepCancel
  repeat' first
    | (intro _; intros; try dsimp -zeta only)
    | with_reducible exact Keeps.refl _
    | with_reducible assumption
    | with_reducible apply State.dropStep_keeps
    | with_reducible apply State.set_keeps
    | with_reducible apply State.steerRefused_keeps
    | with_reducible apply Keeps.ite
    | split

theorem State.capture_keeps {zz s : State} (h : Keeps zz s) : Keeps zz (State.capture s) := by
  unfold State.capture
  repeat' first
    | (intro _; intros; try dsimp -zeta only)
    | with_reducible exact Keeps.refl _
    | with_reducible assumption
    | with_reducible apply State.setTs_keeps
    | with_reducible apply State.set_keeps
    | with_reducible apply Keeps.ite
    | split

theorem State.accFault_keeps {zz s : State} (h : Keeps zz s) (why : Nat) : Keeps zz (State.accFault s why) := by
  unfold State.accFault
  repeat' first
    | (intro _; intros; try dsimp -zeta only)
    | with_reducible exact Keeps.refl _
    | with_reducible assumption
    | with_reducible apply State.onTb_keeps
    | with_reducible apply State.set_keeps
    | with_reducible apply State.commitGcomp_keeps
    | with_reducible apply State.event_keeps
    | with_reducible apply State.failGcal_keeps
    | with_reducible apply Keeps.ite
    | (extract_lets +onlyGivenNames u; have hu : Keeps zz u := ?_; clear_value u)
    | (extract_lets +onlyGivenNames u; have hu : Keeps zz u.1 := ?_; clear_value u)
    | (extract_lets +onlyGivenNames u; have hu : Keeps zz u.2 := ?_; clear_value u)
    | (extract_lets +onlyGivenNames u; clear_value u)
    | dsimp only [u]
    | split

theorem State.accTake_keeps {zz s : State} (h : Keeps zz s) (x y z : Int) : Keeps zz (State.accTake s x y z) := by
  unfold State.accTake
  repeat' first
    | (intro _; intros; try dsimp -zeta only)
    | with_reducible exact Keeps.refl _
    | with_reducible assumption
    | with_reducible apply State.onTb_keeps
    | with_reducible apply State.accFault_keeps
    | with_reducible apply State.set_keeps
    | with_reducible apply State.event_keeps
    | with_reducible apply Keeps.getD
    | with_reducible apply Keeps.ite
    | (extract_lets +onlyGivenNames u; have hu : Keeps zz u := ?_; clear_value u)
    | (extract_lets +onlyGivenNames u; have hu : Keeps zz u.1 := ?_; clear_value u)
    | (extract_lets +onlyGivenNames u; have hu : Keeps zz u.2 := ?_; clear_value u)
    | (extract_lets +onlyGivenNames u; clear_value u)
    | dsimp only [u]
    | split

theorem State.accRead_keeps {zz s : State} (h : Keeps zz s) (read : Option (List Byte)) : Keeps zz (State.accRead s read) := by
  unfold State.accRead
  repeat' first
    | (intro _; intros; try dsimp -zeta only)
    | with_reducible exact Keeps.refl _
    | with_reducible assumption
    | with_reducible apply State.onTb_keeps
    | with_reducible apply State.emit_keeps
    | with_reducible apply State.accTake_keeps
    | with_reducible apply State.accFault_keeps
    | with_reducible apply Keeps.ite
    | (extract_lets +onlyGivenNames u; have hu : Keeps zz u := ?_; clear_value u)
    | (extract_lets +onlyGivenNames u; have hu : Keeps zz u.1 := ?_; clear_value u)
    | (extract_lets +onlyGivenNames u; have hu : Keeps zz u.2 := ?_; clear_value u)
    | (extract_lets +onlyGivenNames u; clear_value u)
    | dsimp only [u]
    | split

theorem State.accSample_keeps {zz s : State} (h : Keeps zz s) (read : Option (List Byte)) : Keeps zz (State.accSample s read) := by
  unfold State.accSample
  repeat' first
    | (intro _; intros; try dsimp -zeta only)
    | with_reducible exact Keeps.refl _
    | with_reducible assumption
    | with_reducible apply State.accRead_keeps
    | with_reducible refine State.reachTick_keeps ?_ (by assumption)
    | with_reducible apply Keeps.ite
    | split

theorem State.gcompNow_keeps {zz s : State} (h : Keeps zz s) : Keeps zz (State.gcompNow s) := by
  unfold State.gcompNow
  repeat' first
    | (intro _; intros; try dsimp -zeta only)
    | with_reducible exact Keeps.refl _
    | with_reducible assumption
    | with_reducible apply State.onTb_keeps
    | with_reducible apply State.commitGcomp_keeps
    | with_reducible apply Keeps.ite
    | (extract_lets +onlyGivenNames u; have hu : Keeps zz u := ?_; clear_value u)
    | (extract_lets +onlyGivenNames u; have hu : Keeps zz u.1 := ?_; clear_value u)
    | (extract_lets +onlyGivenNames u; have hu : Keeps zz u.2 := ?_; clear_value u)
    | (extract_lets +onlyGivenNames u; clear_value u)
    | dsimp only [u]
    | split

theorem State.gcompUpdate_keeps {zz s : State} (h : Keeps zz s) : Keeps zz (State.gcompUpdate s) := by
  unfold State.gcompUpdate
  repeat' first
    | (intro _; intros; try dsimp -zeta only)
    | with_reducible exact Keeps.refl _
    | with_reducible assumption
    | with_reducible apply State.gcompNow_keeps
    | with_reducible refine State.reachTick_keeps ?_ (by assumption)
    | with_reducible apply Keeps.ite
    | split

theorem State.gcalStart_keeps {zz s : State} (h : Keeps zz s) (path : Path) (v : Nat) : Keeps zz (State.gcalStart s path v) := by
  unfold State.gcalStart
  repeat' first
    | (intro _; intros; try dsimp -zeta only)
    | with_reducible exact Keeps.refl _
    | with_reducible assumption
    | with_reducible apply State.clampLog_keeps
    | with_reducible apply State.set_keeps
    | with_reducible apply State.onTb_keeps
    | with_reducible apply State.commitGcomp_keeps
    | with_reducible apply Keeps.ite
    | (extract_lets +onlyGivenNames u; have hu : Keeps zz u := ?_; clear_value u)
    | (extract_lets +onlyGivenNames u; have hu : Keeps zz u.1 := ?_; clear_value u)
    | (extract_lets +onlyGivenNames u; have hu : Keeps zz u.2 := ?_; clear_value u)
    | (extract_lets +onlyGivenNames u; clear_value u)
    | dsimp only [u]
    | split

theorem State.gcalDone_keeps {zz s : State} (h : Keeps zz s) (g : GcalRun) (xc : Int) (amp quality : Nat) : Keeps zz (State.gcalDone s g xc amp quality) := by
  unfold State.gcalDone
  repeat' first
    | (intro _; intros; try dsimp -zeta only)
    | with_reducible exact Keeps.refl _
    | with_reducible assumption
    | with_reducible apply State.onTb_keeps
    | with_reducible apply State.set_keeps
    | with_reducible apply State.seti_keeps
    | with_reducible apply State.event_keeps
    | with_reducible apply Keeps.ite
    | (extract_lets +onlyGivenNames u; have hu : Keeps zz u := ?_; clear_value u)
    | (extract_lets +onlyGivenNames u; have hu : Keeps zz u.1 := ?_; clear_value u)
    | (extract_lets +onlyGivenNames u; have hu : Keeps zz u.2 := ?_; clear_value u)
    | (extract_lets +onlyGivenNames u; clear_value u)
    | dsimp only [u]
    | split

theorem State.gcalEnd_keeps {zz s : State} (h : Keeps zz s) (xc : Int) (amp quality : Nat) : Keeps zz (State.gcalEnd s xc amp quality) := by
  unfold State.gcalEnd
  repeat' first
    | (intro _; intros; try dsimp -zeta only)
    | with_reducible exact Keeps.refl _
    | with_reducible assumption
    | with_reducible refine State.reachTick_keeps ?_ (by assumption)
    | with_reducible apply State.gcalDone_keeps
    | with_reducible apply Keeps.ite
    | split

end Sys2Proof.Machine
end

