-- ==== Sys2Proof/Laws/Keep/Tdc.lean ====
section
/-! SUPPORT. Sys2Proof/Machine/Tdc.lean keeps the queue and the canonical forms. -/
namespace Sys2Proof.Machine

theorem State.setCh_keeps {zz s : State} (h : Keeps zz s) (n : Nat) (c : TdcCh) : Keeps zz (State.setCh s n c) := by
  unfold State.setCh
  repeat' first
    | (intro _; intros; try dsimp -zeta only)
    | with_reducible exact Keeps.refl _
    | with_reducible assumption
    | with_reducible apply State.onTdc_keeps
    | with_reducible apply State.set_keeps
    | with_reducible apply Keeps.ite
    | split

theorem State.setEngine_keeps {zz s : State} (h : Keeps zz s) (e : Nat) (g : TdcEngine) : Keeps zz (State.setEngine s e g) := by
  unfold State.setEngine
  repeat' first
    | (intro _; intros; try dsimp -zeta only)
    | with_reducible exact Keeps.refl _
    | with_reducible assumption
    | with_reducible apply State.onTdc_keeps
    | with_reducible apply State.set_keeps
    | with_reducible apply Keeps.ite
    | split

theorem State.setUnit_keeps {zz s : State} (h : Keeps zz s) (m : Nat) (u : IvUnit) : Keeps zz (State.setUnit s m u) := by
  unfold State.setUnit
  repeat' first
    | (intro _; intros; try dsimp -zeta only)
    | with_reducible exact Keeps.refl _
    | with_reducible assumption
    | with_reducible apply State.onTdc_keeps
    | with_reducible apply State.set_keeps
    | with_reducible apply Keeps.ite
    | split

theorem State.holdCh_keeps {zz s : State} (h : Keeps zz s) (n : Nat) (c : ChCfg) : Keeps zz (State.holdCh s n c) := by
  unfold State.holdCh
  repeat' first
    | (intro _; intros; try dsimp -zeta only)
    | with_reducible exact Keeps.refl _
    | with_reducible assumption
    | with_reducible apply State.setCh_keeps
    | with_reducible apply Keeps.ite
    | split

theorem State.holdIv_keeps {zz s : State} (h : Keeps zz s) (m : Nat) (c : IvCfg) : Keeps zz (State.holdIv s m c) := by
  unfold State.holdIv
  repeat' first
    | (intro _; intros; try dsimp -zeta only)
    | with_reducible exact Keeps.refl _
    | with_reducible assumption
    | with_reducible apply State.setUnit_keeps
    | with_reducible apply Keeps.ite
    | split

theorem State.closeWin_keeps {zz s : State} (h : Keeps zz s) (e stop : Nat) (cut newRun : Bool) : Keeps zz (State.closeWin s e stop cut newRun) := by
  unfold State.closeWin
  repeat' first
    | (intro _; intros; try dsimp -zeta only)
    | with_reducible exact Keeps.refl _
    | with_reducible assumption
    | with_reducible apply State.setEngine_keeps
    | with_reducible apply Keeps.ite
    | (extract_lets +onlyGivenNames u; have hu : Keeps zz u := ?_; clear_value u)
    | (extract_lets +onlyGivenNames u; have hu : Keeps zz u.1 := ?_; clear_value u)
    | (extract_lets +onlyGivenNames u; have hu : Keeps zz u.2 := ?_; clear_value u)
    | (extract_lets +onlyGivenNames u; clear_value u)
    | dsimp only [u]
    | split

theorem State.closeDue_keeps {zz s : State} (h : Keeps zz s) (e : Nat) : Keeps zz (State.closeDue s e) := by
  unfold State.closeDue
  repeat' first
    | (intro _; intros; try dsimp -zeta only)
    | with_reducible exact Keeps.refl _
    | with_reducible assumption
    | with_reducible apply State.closeWin_keeps
    | with_reducible apply Keeps.ite
    | (extract_lets +onlyGivenNames u; have hu : Keeps zz u := ?_; clear_value u)
    | (extract_lets +onlyGivenNames u; have hu : Keeps zz u.1 := ?_; clear_value u)
    | (extract_lets +onlyGivenNames u; have hu : Keeps zz u.2 := ?_; clear_value u)
    | (extract_lets +onlyGivenNames u; clear_value u)
    | dsimp only [u]
    | split

theorem State.statTake_keeps {zz s : State} (h : Keeps zz s) (e : Nat) (v : StatEv) : Keeps zz (State.statTake s e v) := by
  unfold State.statTake
  repeat' first
    | (intro _; intros; try dsimp -zeta only)
    | with_reducible exact Keeps.refl _
    | with_reducible assumption
    | with_reducible apply State.closeDue_keeps
    | with_reducible apply State.setEngine_keeps
    | with_reducible apply Keeps.ite
    | (extract_lets +onlyGivenNames u; have hu : Keeps zz u := ?_; clear_value u)
    | (extract_lets +onlyGivenNames u; have hu : Keeps zz u.1 := ?_; clear_value u)
    | (extract_lets +onlyGivenNames u; have hu : Keeps zz u.2 := ?_; clear_value u)
    | (extract_lets +onlyGivenNames u; clear_value u)
    | dsimp only [u]
    | split

theorem State.statEvent_keeps {zz s : State} (h : Keeps zz s) (e : Nat) (v : StatEv) : Keeps zz (State.statEvent s e v) := by
  unfold State.statEvent
  repeat' first
    | (intro _; intros; try dsimp -zeta only)
    | with_reducible exact Keeps.refl _
    | with_reducible assumption
    | with_reducible apply State.setEngine_keeps
    | with_reducible apply State.statTake_keeps
    | with_reducible apply Keeps.ite
    | split

theorem State.colServe_keeps {zz s : State} (h : Keeps zz s) : Keeps zz (State.colServe s) := by
  unfold State.colServe
  repeat' first
    | (intro _; intros; try dsimp -zeta only)
    | with_reducible exact Keeps.refl _
    | with_reducible assumption
    | with_reducible apply State.setCh_keeps
    | with_reducible apply State.setUnit_keeps
    | with_reducible apply State.onTdc_keeps
    | with_reducible apply Keeps.ite
    | split

theorem State.collect_keeps {zz s : State} (h : Keeps zz s) : Keeps zz (State.collect s) := by
  unfold State.collect
  repeat' first
    | (intro _; intros; try dsimp -zeta only)
    | with_reducible exact Keeps.refl _
    | with_reducible assumption
    | with_reducible apply Keeps.forEach
    | with_reducible apply State.colServe_keeps
    | with_reducible apply State.onTdc_keeps
    | with_reducible apply Keeps.ite
    | (extract_lets +onlyGivenNames u; have hu : Keeps zz u := ?_; clear_value u)
    | (extract_lets +onlyGivenNames u; have hu : Keeps zz u.1 := ?_; clear_value u)
    | (extract_lets +onlyGivenNames u; have hu : Keeps zz u.2 := ?_; clear_value u)
    | (extract_lets +onlyGivenNames u; clear_value u)
    | dsimp only [u]
    | split

theorem State.setLast_keeps {zz s : State} (h : Keeps zz s) (n t : Nat) (rising uncal : Bool) : Keeps zz (State.setLast s n t rising uncal) := by
  unfold State.setLast
  repeat' first
    | (intro _; intros; try dsimp -zeta only)
    | with_reducible exact Keeps.refl _
    | with_reducible assumption
    | with_reducible apply State.setTs_keeps
    | with_reducible apply State.setb_keeps
    | with_reducible apply State.set_keeps
    | with_reducible apply Keeps.ite
    | (extract_lets +onlyGivenNames u; have hu : Keeps zz u := ?_; clear_value u)
    | (extract_lets +onlyGivenNames u; have hu : Keeps zz u.1 := ?_; clear_value u)
    | (extract_lets +onlyGivenNames u; have hu : Keeps zz u.2 := ?_; clear_value u)
    | (extract_lets +onlyGivenNames u; clear_value u)
    | dsimp only [u]
    | split

theorem State.missEvent_keeps {zz s : State} (h : Keeps zz s) (n t : Nat) (full : Bool) : Keeps zz (State.missEvent s n t full) := by
  unfold State.missEvent
  repeat' first
    | (intro _; intros; try dsimp -zeta only)
    | with_reducible exact Keeps.refl _
    | with_reducible assumption
    | with_reducible apply State.bump_keeps
    | with_reducible apply State.noteSec_keeps
    | with_reducible apply State.statEvent_keeps
    | with_reducible apply Keeps.forEach
    | with_reducible apply Keeps.ite
    | (extract_lets +onlyGivenNames u; have hu : Keeps zz u := ?_; clear_value u)
    | (extract_lets +onlyGivenNames u; have hu : Keeps zz u.1 := ?_; clear_value u)
    | (extract_lets +onlyGivenNames u; have hu : Keeps zz u.2 := ?_; clear_value u)
    | (extract_lets +onlyGivenNames u; clear_value u)
    | dsimp only [u]
    | split

theorem State.showQueue_keeps {zz s : State} (h : Keeps zz s) (k : Nat) : Keeps zz (State.showQueue s k) := by
  unfold State.showQueue
  repeat' first
    | (intro _; intros; try dsimp -zeta only)
    | with_reducible exact Keeps.refl _
    | with_reducible assumption
    | with_reducible apply State.set_keeps
    | with_reducible apply State.setTs_keeps
    | with_reducible apply State.setb_keeps
    | with_reducible apply State.edge_keeps
    | with_reducible apply Keeps.ite
    | (extract_lets +onlyGivenNames u; have hu : Keeps zz u := ?_; clear_value u)
    | (extract_lets +onlyGivenNames u; have hu : Keeps zz u.1 := ?_; clear_value u)
    | (extract_lets +onlyGivenNames u; have hu : Keeps zz u.2 := ?_; clear_value u)
    | (extract_lets +onlyGivenNames u; clear_value u)
    | dsimp only [u]
    | split

theorem State.queueWrite_keeps {zz s : State} (h : Keeps zz s) (k t : Nat) (edge uncal : Bool) : Keeps zz (State.queueWrite s k t edge uncal) := by
  unfold State.queueWrite
  repeat' first
    | (intro _; intros; try dsimp -zeta only)
    | with_reducible exact Keeps.refl _
    | with_reducible assumption
    | with_reducible apply State.onTdc_keeps
    | with_reducible apply State.set_keeps
    | with_reducible apply State.bump_keeps
    | with_reducible apply State.noteSec_keeps
    | with_reducible apply State.showQueue_keeps
    | with_reducible apply Keeps.ite
    | (extract_lets +onlyGivenNames u; have hu : Keeps zz u := ?_; clear_value u)
    | (extract_lets +onlyGivenNames u; have hu : Keeps zz u.1 := ?_; clear_value u)
    | (extract_lets +onlyGivenNames u; have hu : Keeps zz u.2 := ?_; clear_value u)
    | (extract_lets +onlyGivenNames u; clear_value u)
    | dsimp only [u]
    | split

theorem State.queuePop_keeps {zz s : State} (h : Keeps zz s) (k : Nat) : Keeps zz (State.queuePop s k) := by
  unfold State.queuePop
  repeat' first
    | (intro _; intros; try dsimp -zeta only)
    | with_reducible exact Keeps.refl _
    | with_reducible assumption
    | with_reducible apply State.onTdc_keeps
    | with_reducible apply State.set_keeps
    | with_reducible apply State.showQueue_keeps
    | with_reducible apply Keeps.ite
    | split

theorem State.ivResult_keeps {zz s : State} (h : Keeps zz s) (m t : Nat) (d : Int) (plain : Bool) : Keeps zz (State.ivResult s m t d plain) := by
  unfold State.ivResult
  repeat' first
    | (intro _; intros; try dsimp -zeta only)
    | with_reducible exact Keeps.refl _
    | with_reducible assumption
    | with_reducible apply State.setI64_keeps
    | with_reducible apply State.setb_keeps
    | with_reducible apply State.set_keeps
    | with_reducible apply State.setUnit_keeps
    | with_reducible apply State.statEvent_keeps
    | with_reducible apply Keeps.ite
    | (extract_lets +onlyGivenNames u; have hu : Keeps zz u := ?_; clear_value u)
    | (extract_lets +onlyGivenNames u; have hu : Keeps zz u.1 := ?_; clear_value u)
    | (extract_lets +onlyGivenNames u; have hu : Keeps zz u.2 := ?_; clear_value u)
    | (extract_lets +onlyGivenNames u; clear_value u)
    | dsimp only [u]
    | split

theorem State.ivEvent_keeps {zz s : State} (h : Keeps zz s) (m n t : Nat) : Keeps zz (State.ivEvent s m n t) := by
  unfold State.ivEvent
  repeat' first
    | (intro _; intros; try dsimp -zeta only)
    | with_reducible exact Keeps.refl _
    | with_reducible assumption
    | with_reducible apply State.setUnit_keeps
    | with_reducible apply State.ivResult_keeps
    | with_reducible apply Keeps.ite
    | (extract_lets +onlyGivenNames u; have hu : Keeps zz u := ?_; clear_value u)
    | (extract_lets +onlyGivenNames u; have hu : Keeps zz u.1 := ?_; clear_value u)
    | (extract_lets +onlyGivenNames u; have hu : Keeps zz u.2 := ?_; clear_value u)
    | (extract_lets +onlyGivenNames u; clear_value u)
    | dsimp only [u]
    | split

theorem State.pairStart_keeps {zz s : State} (h : Keeps zz s) (m t : Nat) (rest : List (Nat × Nat)) : Keeps zz (State.pairStart s m t rest) := by
  unfold State.pairStart
  repeat' first
    | (intro _; intros; try dsimp -zeta only)
    | with_reducible exact Keeps.refl _
    | with_reducible assumption
    | with_reducible apply State.setUnit_keeps
    | with_reducible apply State.bump_keeps
    | with_reducible apply State.ivResult_keeps
    | with_reducible apply Keeps.ite
    | (extract_lets +onlyGivenNames u; have hu : Keeps zz u := ?_; clear_value u)
    | (extract_lets +onlyGivenNames u; have hu : Keeps zz u.1 := ?_; clear_value u)
    | (extract_lets +onlyGivenNames u; have hu : Keeps zz u.2 := ?_; clear_value u)
    | (extract_lets +onlyGivenNames u; clear_value u)
    | dsimp only [u]
    | split

theorem State.intervalResult_keeps {zz s : State} (h : Keeps zz s) (m : Nat) : Keeps zz (State.intervalResult s m) := by
  unfold State.intervalResult
  repeat' first
    | (intro _; intros; try dsimp -zeta only)
    | with_reducible exact Keeps.refl _
    | with_reducible assumption
    | with_reducible refine State.reachTick_keeps ?_ (by assumption)
    | with_reducible apply State.pairStart_keeps
    | with_reducible apply Keeps.ite
    | (extract_lets +onlyGivenNames u; have hu : Keeps zz u := ?_; clear_value u)
    | (extract_lets +onlyGivenNames u; have hu : Keeps zz u.1 := ?_; clear_value u)
    | (extract_lets +onlyGivenNames u; have hu : Keeps zz u.2 := ?_; clear_value u)
    | (extract_lets +onlyGivenNames u; clear_value u)
    | dsimp only [u]
    | split

theorem State.acceptEvent_keeps {zz s : State} (h : Keeps zz s) (n t : Nat) (rising : Bool) : Keeps zz (State.acceptEvent s n t rising) := by
  unfold State.acceptEvent
  repeat' first
    | (intro _; intros; try dsimp -zeta only)
    | with_reducible exact Keeps.refl _
    | with_reducible assumption
    | with_reducible apply State.setLast_keeps
    | with_reducible apply State.setCh_keeps
    | with_reducible apply State.statEvent_keeps
    | with_reducible apply State.queueWrite_keeps
    | with_reducible apply Keeps.forEach
    | with_reducible apply State.ivEvent_keeps
    | with_reducible apply Keeps.ite
    | (extract_lets +onlyGivenNames u; have hu : Keeps zz u := ?_; clear_value u)
    | (extract_lets +onlyGivenNames u; have hu : Keeps zz u.1 := ?_; clear_value u)
    | (extract_lets +onlyGivenNames u; have hu : Keeps zz u.2 := ?_; clear_value u)
    | (extract_lets +onlyGivenNames u; clear_value u)
    | dsimp only [u]
    | split

theorem State.tdcEdge_keeps {zz s : State} (h : Keeps zz s) (n : Nat) (rising : Bool) (bin : Nat) : Keeps zz ((State.tdcEdge s n rising bin).1) := by
  unfold State.tdcEdge
  repeat' first
    | (intro _; intros; try dsimp -zeta only)
    | with_reducible exact Keeps.refl _
    | with_reducible assumption
    | with_reducible apply State.collect_keeps
    | with_reducible apply State.edge_keeps
    | with_reducible apply State.setCh_keeps
    | with_reducible apply State.missEvent_keeps
    | with_reducible apply State.acceptEvent_keeps
    | with_reducible apply Keeps.ite
    | (extract_lets +onlyGivenNames u; have hu : Keeps zz u := ?_; clear_value u)
    | (extract_lets +onlyGivenNames u; have hu : Keeps zz u.1 := ?_; clear_value u)
    | (extract_lets +onlyGivenNames u; have hu : Keeps zz u.2 := ?_; clear_value u)
    | (extract_lets +onlyGivenNames u; clear_value u)
    | dsimp only [u]
    | split

theorem State.engineBoundary_keeps {zz s : State} (h : Keeps zz s) (e : Nat) (step : Bool) : Keeps zz ((State.engineBoundary s e step).1) := by
  unfold State.engineBoundary
  repeat' first
    | (intro _; intros; try dsimp -zeta only)
    | with_reducible exact Keeps.refl _
    | with_reducible assumption
    | with_reducible apply State.setEngine_keeps
    | with_reducible apply State.closeDue_keeps
    | with_reducible apply State.statTake_keeps
    | with_reducible apply State.closeWin_keeps
    | with_reducible apply Keeps.foldl
    | with_reducible apply Keeps.foldl_fst
    | with_reducible apply Keeps.ite
    | (extract_lets +onlyGivenNames u; have hu : Keeps zz u := ?_; clear_value u)
    | (extract_lets +onlyGivenNames u; have hu : Keeps zz u.1 := ?_; clear_value u)
    | (extract_lets +onlyGivenNames u; have hu : Keeps zz u.2 := ?_; clear_value u)
    | (extract_lets +onlyGivenNames u; clear_value u)
    | dsimp only [u]
    | split

theorem State.windowsBoundary_keeps {zz s : State} (h : Keeps zz s) (step : Bool) : Keeps zz (State.windowsBoundary s step) := by
  unfold State.windowsBoundary
  repeat' first
    | (intro _; intros; try dsimp -zeta only)
    | with_reducible exact Keeps.refl _
    | with_reducible assumption
    | with_reducible apply State.engineBoundary_keeps
    | with_reducible apply Keeps.forEach
    | with_reducible apply State.setUnit_keeps
    | with_reducible apply State.event_keeps
    | with_reducible apply Keeps.foldl
    | with_reducible apply Keeps.foldl_fst
    | with_reducible apply Keeps.ite
    | (extract_lets +onlyGivenNames u; have hu : Keeps zz u := ?_; clear_value u)
    | (extract_lets +onlyGivenNames u; have hu : Keeps zz u.1 := ?_; clear_value u)
    | (extract_lets +onlyGivenNames u; have hu : Keeps zz u.2 := ?_; clear_value u)
    | (extract_lets +onlyGivenNames u; clear_value u)
    | dsimp only [u]
    | split

theorem State.releaseCfg_keeps {zz s : State} (h : Keeps zz s) : Keeps zz (State.releaseCfg s) := by
  unfold State.releaseCfg
  repeat' first
    | (intro _; intros; try dsimp -zeta only)
    | with_reducible exact Keeps.refl _
    | with_reducible assumption
    | with_reducible apply Keeps.forEach
    | with_reducible apply State.setCh_keeps
    | with_reducible apply State.setUnit_keeps
    | with_reducible apply Keeps.ite
    | (extract_lets +onlyGivenNames u; have hu : Keeps zz u := ?_; clear_value u)
    | (extract_lets +onlyGivenNames u; have hu : Keeps zz u.1 := ?_; clear_value u)
    | (extract_lets +onlyGivenNames u; have hu : Keeps zz u.2 := ?_; clear_value u)
    | (extract_lets +onlyGivenNames u; clear_value u)
    | dsimp only [u]
    | split

theorem State.publishWin_keeps {zz s : State} (h : Keeps zz s) (e : Nat) (r : WinResult) : Keeps zz (State.publishWin s e r) := by
  unfold State.publishWin
  repeat' first
    | (intro _; intros; try dsimp -zeta only)
    | with_reducible exact Keeps.refl _
    | with_reducible assumption
    | with_reducible apply State.set_keeps
    | with_reducible apply State.setb_keeps
    | with_reducible apply State.setTs_keeps
    | with_reducible apply State.setI64_keeps
    | with_reducible apply State.setSat_keeps
    | with_reducible apply Keeps.ite
    | (extract_lets +onlyGivenNames u; have hu : Keeps zz u := ?_; clear_value u)
    | (extract_lets +onlyGivenNames u; have hu : Keeps zz u.1 := ?_; clear_value u)
    | (extract_lets +onlyGivenNames u; have hu : Keeps zz u.2 := ?_; clear_value u)
    | (extract_lets +onlyGivenNames u; clear_value u)
    | dsimp only [u]
    | split

theorem State.publishNext_keeps {zz s : State} (h : Keeps zz s) : Keeps zz (State.publishNext s) := by
  unfold State.publishNext
  repeat' first
    | (intro _; intros; try dsimp -zeta only)
    | with_reducible exact Keeps.refl _
    | with_reducible assumption
    | with_reducible apply State.onTdc_keeps
    | with_reducible apply State.setEngine_keeps
    | with_reducible apply State.publishWin_keeps
    | with_reducible apply Keeps.ite
    | split

theorem State.nextRun_keeps {zz s : State} (h : Keeps zz s) : Keeps zz (State.nextRun s) := by
  unfold State.nextRun
  repeat' first
    | (intro _; intros; try dsimp -zeta only)
    | with_reducible exact Keeps.refl _
    | with_reducible assumption
    | with_reducible apply State.set_keeps
    | with_reducible apply State.onTdc_keeps
    | with_reducible apply Keeps.ite
    | (extract_lets +onlyGivenNames u; have hu : Keeps zz u := ?_; clear_value u)
    | (extract_lets +onlyGivenNames u; have hu : Keeps zz u.1 := ?_; clear_value u)
    | (extract_lets +onlyGivenNames u; have hu : Keeps zz u.2 := ?_; clear_value u)
    | (extract_lets +onlyGivenNames u; clear_value u)
    | dsimp only [u]
    | split

theorem State.calDue_keeps {zz s : State} (h : Keeps zz s) (n : Nat) : Keeps zz (State.calDue s n) := by
  unfold State.calDue
  repeat' first
    | (intro _; intros; try dsimp -zeta only)
    | with_reducible exact Keeps.refl _
    | with_reducible assumption
    | with_reducible apply State.setCh_keeps
    | with_reducible apply Keeps.ite
    | split

theorem State.calTrigger_keeps {zz s : State} (h : Keeps zz s) (f : State → State) (hf : ∀ (x0 : State), Keeps zz x0 → Keeps zz (f x0)) : Keeps zz (State.calTrigger s f) := by
  unfold State.calTrigger
  repeat' first
    | (intro _; intros; try dsimp -zeta only)
    | with_reducible exact Keeps.refl _
    | with_reducible assumption
    | with_reducible apply State.nextRun_keeps
    | with_reducible apply hf
    | with_reducible apply Keeps.ite
    | split

theorem State.endRun_keeps {zz s : State} (h : Keeps zz s) (n : Nat) (more : Bool) : Keeps zz (State.endRun s n more) := by
  unfold State.endRun
  repeat' first
    | (intro _; intros; try dsimp -zeta only)
    | with_reducible exact Keeps.refl _
    | with_reducible assumption
    | with_reducible apply State.setCh_keeps
    | with_reducible apply State.set_keeps
    | with_reducible apply Keeps.ite
    | (extract_lets +onlyGivenNames u; have hu : Keeps zz u := ?_; clear_value u)
    | (extract_lets +onlyGivenNames u; have hu : Keeps zz u.1 := ?_; clear_value u)
    | (extract_lets +onlyGivenNames u; have hu : Keeps zz u.2 := ?_; clear_value u)
    | (extract_lets +onlyGivenNames u; clear_value u)
    | dsimp only [u]
    | split

theorem State.failRun_keeps {zz s : State} (h : Keeps zz s) (n reason : Nat) : Keeps zz (State.failRun s n reason) := by
  unfold State.failRun
  repeat' first
    | (intro _; intros; try dsimp -zeta only)
    | with_reducible exact Keeps.refl _
    | with_reducible assumption
    | with_reducible apply State.set_keeps
    | with_reducible apply State.event_keeps
    | with_reducible apply State.endRun_keeps
    | with_reducible apply State.nextRun_keeps
    | with_reducible apply Keeps.ite
    | (extract_lets +onlyGivenNames u; have hu : Keeps zz u := ?_; clear_value u)
    | (extract_lets +onlyGivenNames u; have hu : Keeps zz u.1 := ?_; clear_value u)
    | (extract_lets +onlyGivenNames u; have hu : Keeps zz u.2 := ?_; clear_value u)
    | (extract_lets +onlyGivenNames u; clear_value u)
    | dsimp only [u]
    | split

theorem State.passRun_keeps {zz s : State} (h : Keeps zz s) (n : Nat) (noswap : Bool) : Keeps zz (State.passRun s n noswap) := by
  unfold State.passRun
  repeat' first
    | (intro _; intros; try dsimp -zeta only)
    | with_reducible exact Keeps.refl _
    | with_reducible assumption
    | with_reducible apply State.set_keeps
    | with_reducible apply State.setb_keeps
    | with_reducible apply State.event_keeps
    | with_reducible apply State.endRun_keeps
    | with_reducible apply State.nextRun_keeps
    | with_reducible apply Keeps.ite
    | (extract_lets +onlyGivenNames u; have hu : Keeps zz u := ?_; clear_value u)
    | (extract_lets +onlyGivenNames u; have hu : Keeps zz u.1 := ?_; clear_value u)
    | (extract_lets +onlyGivenNames u; have hu : Keeps zz u.2 := ?_; clear_value u)
    | (extract_lets +onlyGivenNames u; clear_value u)
    | dsimp only [u]
    | split

theorem State.codeDensity_keeps {zz s : State} (h : Keeps zz s) (n empty inlPeak : Nat) : Keeps zz (State.codeDensity s n empty inlPeak) := by
  unfold State.codeDensity
  repeat' first
    | (intro _; intros; try dsimp -zeta only)
    | with_reducible exact Keeps.refl _
    | with_reducible assumption
    | with_reducible apply State.setSat_keeps
    | with_reducible apply State.failRun_keeps
    | with_reducible apply State.setCh_keeps
    | with_reducible apply State.onTdc_keeps
    | with_reducible apply Keeps.ite
    | (extract_lets +onlyGivenNames u; have hu : Keeps zz u := ?_; clear_value u)
    | (extract_lets +onlyGivenNames u; have hu : Keeps zz u.1 := ?_; clear_value u)
    | (extract_lets +onlyGivenNames u; have hu : Keeps zz u.2 := ?_; clear_value u)
    | (extract_lets +onlyGivenNames u; clear_value u)
    | dsimp only [u]
    | split

theorem State.matchDone_keeps {zz s : State} (h : Keeps zz s) (n tab : Nat) (diff : Int) : Keeps zz (State.matchDone s n tab diff) := by
  unfold State.matchDone
  repeat' first
    | (intro _; intros; try dsimp -zeta only)
    | with_reducible exact Keeps.refl _
    | with_reducible assumption
    | with_reducible apply State.passRun_keeps
    | with_reducible apply State.failRun_keeps
    | with_reducible apply State.setCh_keeps
    | with_reducible apply Keeps.ite
    | (extract_lets +onlyGivenNames u; have hu : Keeps zz u := ?_; clear_value u)
    | (extract_lets +onlyGivenNames u; have hu : Keeps zz u.1 := ?_; clear_value u)
    | (extract_lets +onlyGivenNames u; have hu : Keeps zz u.2 := ?_; clear_value u)
    | (extract_lets +onlyGivenNames u; clear_value u)
    | dsimp only [u]
    | split

theorem State.offsetMatch_keeps {zz s : State} (h : Keeps zz s) (n : Nat) (diff : Int) : Keeps zz (State.offsetMatch s n diff) := by
  unfold State.offsetMatch
  repeat' first
    | (intro _; intros; try dsimp -zeta only)
    | with_reducible exact Keeps.refl _
    | with_reducible assumption
    | with_reducible apply State.matchDone_keeps
    | with_reducible refine State.reachTick_keeps ?_ (by assumption)
    | with_reducible apply Keeps.ite
    | split

theorem State.swapBoundary_keeps {zz s : State} (h : Keeps zz s) : Keeps zz (State.swapBoundary s) := by
  unfold State.swapBoundary
  repeat' first
    | (intro _; intros; try dsimp -zeta only)
    | with_reducible exact Keeps.refl _
    | with_reducible assumption
    | with_reducible apply Keeps.forEach
    | with_reducible apply State.setCh_keeps
    | with_reducible apply State.set_keeps
    | with_reducible apply State.nextRun_keeps
    | with_reducible apply Keeps.ite
    | split

theorem State.calFirst_keeps {zz s : State} (h : Keeps zz s) (n tab : Nat) (c : CalIn) : Keeps zz (State.calFirst s n tab c) := by
  unfold State.calFirst
  repeat' first
    | (intro _; intros; try dsimp -zeta only)
    | with_reducible exact Keeps.refl _
    | with_reducible assumption
    | with_reducible apply State.setCh_keeps
    | with_reducible apply State.set_keeps
    | with_reducible apply State.setSat_keeps
    | with_reducible apply State.event_keeps
    | with_reducible apply Keeps.ite
    | (extract_lets +onlyGivenNames u; have hu : Keeps zz u := ?_; clear_value u)
    | (extract_lets +onlyGivenNames u; have hu : Keeps zz u.1 := ?_; clear_value u)
    | (extract_lets +onlyGivenNames u; have hu : Keeps zz u.2 := ?_; clear_value u)
    | (extract_lets +onlyGivenNames u; have ht := fun (x : State) => u x; clear ht; dsimp -zeta only [u]; clear u)
    | (extract_lets +onlyGivenNames u; have ht := fun y (x : State) => u y x; clear ht; dsimp -zeta only [u]; clear u)
    | (extract_lets +onlyGivenNames u; clear_value u)
    | dsimp only [u]
    | split

theorem State.initialCal_keeps {zz s : State} (h : Keeps zz s) (cs : List CalIn) : Keeps zz (State.initialCal s cs) := by
  unfold State.initialCal
  repeat' first
    | (intro _; intros; try dsimp -zeta only)
    | with_reducible exact Keeps.refl _
    | with_reducible assumption
    | with_reducible apply Keeps.forEach
    | with_reducible apply State.calFirst_keeps
    | with_reducible apply State.onTdc_keeps
    | with_reducible apply State.set_keeps
    | with_reducible apply Keeps.getD
    | with_reducible apply Keeps.ite
    | (extract_lets +onlyGivenNames u; have hu : Keeps zz u := ?_; clear_value u)
    | (extract_lets +onlyGivenNames u; have hu : Keeps zz u.1 := ?_; clear_value u)
    | (extract_lets +onlyGivenNames u; have hu : Keeps zz u.2 := ?_; clear_value u)
    | (extract_lets +onlyGivenNames u; clear_value u)
    | dsimp only [u]
    | split

theorem State.initialCalDone_keeps {zz s : State} (h : Keeps zz s) : Keeps zz (State.initialCalDone s) := by
  unfold State.initialCalDone
  repeat' first
    | (intro _; intros; try dsimp -zeta only)
    | with_reducible exact Keeps.refl _
    | with_reducible assumption
    | with_reducible apply Keeps.forEach
    | with_reducible apply State.drawn_keeps
    | with_reducible apply State.initialCal_keeps
    | with_reducible apply Keeps.ite
    | split

theorem State.calTemp_keeps {zz s : State} (h : Keeps zz s) (temp : Int) : Keeps zz (State.calTemp s temp) := by
  unfold State.calTemp
  repeat' first
    | (intro _; intros; try dsimp -zeta only)
    | with_reducible exact Keeps.refl _
    | with_reducible assumption
    | with_reducible apply State.tempTake_keeps
    | with_reducible apply Keeps.forEach
    | with_reducible apply State.calDue_keeps
    | with_reducible apply State.nextRun_keeps
    | with_reducible apply Keeps.ite
    | (extract_lets +onlyGivenNames u; have hu : Keeps zz u := ?_; clear_value u)
    | (extract_lets +onlyGivenNames u; have hu : Keeps zz u.1 := ?_; clear_value u)
    | (extract_lets +onlyGivenNames u; have hu : Keeps zz u.2 := ?_; clear_value u)
    | (extract_lets +onlyGivenNames u; clear_value u)
    | dsimp only [u]
    | split

theorem State.calPeriod_keeps {zz s : State} (h : Keeps zz s) (n : Nat) : Keeps zz (State.calPeriod s n) := by
  unfold State.calPeriod
  repeat' first
    | (intro _; intros; try dsimp -zeta only)
    | with_reducible exact Keeps.refl _
    | with_reducible assumption
    | with_reducible refine State.reachTick_keeps ?_ (by assumption)
    | with_reducible apply State.calTrigger_keeps
    | with_reducible apply State.calDue_keeps
    | with_reducible apply Keeps.ite
    | split

theorem State.calRunAll_keeps {zz s : State} (h : Keeps zz s) : Keeps zz (State.calRunAll s) := by
  unfold State.calRunAll
  repeat' first
    | (intro _; intros; try dsimp -zeta only)
    | with_reducible exact Keeps.refl _
    | with_reducible assumption
    | with_reducible apply State.calTrigger_keeps
    | with_reducible apply Keeps.forEach
    | with_reducible apply State.calDue_keeps
    | with_reducible apply State.set_keeps
    | with_reducible apply Keeps.ite
    | split

theorem State.feedbackBoundary_keeps {zz s : State} (h : Keeps zz s) : Keeps zz (State.feedbackBoundary s) := by
  unfold State.feedbackBoundary
  repeat' first
    | (intro _; intros; try dsimp -zeta only)
    | with_reducible exact Keeps.refl _
    | with_reducible assumption
    | with_reducible apply State.onTdc_keeps
    | with_reducible apply Keeps.ite
    | split

end Sys2Proof.Machine
end

