-- ==== Sys2Proof/Laws/Keep/Quality.lean ====
section
/-! SUPPORT. Sys2Proof/Machine/Quality.lean keeps the queue and the canonical forms. -/
namespace Sys2Proof.Machine

theorem State.setSrc_keeps {zz s : State} (h : Keeps zz s) (k : Nat) (x : Src) : Keeps zz (State.setSrc s k x) := by
  unfold State.setSrc
  repeat' first
    | (intro _; intros; try dsimp -zeta only)
    | with_reducible exact Keeps.refl _
    | with_reducible assumption
    | with_reducible apply State.onSel_keeps
    | with_reducible apply State.set_keeps
    | with_reducible apply Keeps.ite
    | split

theorem State.showReason_keeps {zz s : State} (h : Keeps zz s) (k : Nat) : Keeps zz (State.showReason s k) := by
  unfold State.showReason
  repeat' first
    | (intro _; intros; try dsimp -zeta only)
    | with_reducible exact Keeps.refl _
    | with_reducible assumption
    | with_reducible apply State.srcGroup_keeps
    | with_reducible apply State.set_keeps
    | with_reducible apply Keeps.ite
    | split

theorem State.refitBy_keeps {zz s : State} (h : Keeps zz s) (w : List (Nat × Nat × Int × Int)) : Keeps zz (State.refitBy s w) := by
  unfold State.refitBy
  repeat' first
    | (intro _; intros; try dsimp -zeta only)
    | with_reducible exact Keeps.refl _
    | with_reducible assumption
    | with_reducible apply State.set_keeps
    | with_reducible apply State.seti_keeps
    | with_reducible apply State.setSat_keeps
    | with_reducible apply State.onSel_keeps
    | with_reducible apply State.event_keeps
    | with_reducible apply Keeps.ite
    | (extract_lets +onlyGivenNames u; have hu : Keeps zz u := ?_; clear_value u)
    | (extract_lets +onlyGivenNames u; have hu : Keeps zz u.1 := ?_; clear_value u)
    | (extract_lets +onlyGivenNames u; have hu : Keeps zz u.2 := ?_; clear_value u)
    | (extract_lets +onlyGivenNames u; clear_value u)
    | dsimp only [u]
    | split

theorem State.refit_keeps {zz s : State} (h : Keeps zz s) : Keeps zz (State.refit s) := by
  unfold State.refit
  repeat' first
    | (intro _; intros; try dsimp -zeta only)
    | with_reducible exact Keeps.refl _
    | with_reducible assumption
    | with_reducible apply State.refitBy_keeps
    | with_reducible apply Keeps.ite
    | split

theorem State.fitWindow_keeps {zz s : State} (h : Keeps zz s) (len : Nat) (y : Int) : Keeps zz (State.fitWindow s len y) := by
  unfold State.fitWindow
  repeat' first
    | (intro _; intros; try dsimp -zeta only)
    | with_reducible exact Keeps.refl _
    | with_reducible assumption
    | with_reducible apply State.onSel_keeps
    | with_reducible apply Keeps.ite
    | split

theorem State.publishTqr_keeps {zz s : State} (h : Keeps zz s) : Keeps zz (State.publishTqr s) := by
  unfold State.publishTqr
  repeat' first
    | (intro _; intros; try dsimp -zeta only)
    | with_reducible exact Keeps.refl _
    | with_reducible assumption
    | with_reducible apply State.onSel_keeps
    | with_reducible apply State.set_keeps
    | with_reducible apply State.setb_keeps
    | with_reducible apply State.setSat_keeps
    | with_reducible apply State.setTs_keeps
    | with_reducible apply State.showNtp_keeps
    | with_reducible apply State.showPtp_keeps
    | with_reducible apply Keeps.ite
    | (extract_lets +onlyGivenNames u; have hu : Keeps zz u := ?_; clear_value u)
    | (extract_lets +onlyGivenNames u; have hu : Keeps zz u.1 := ?_; clear_value u)
    | (extract_lets +onlyGivenNames u; have hu : Keeps zz u.2 := ?_; clear_value u)
    | (extract_lets +onlyGivenNames u; clear_value u)
    | dsimp only [u]
    | split

theorem State.classChanged_keeps {zz s : State} (h : Keeps zz s) : Keeps zz (State.classChanged s) := by
  unfold State.classChanged
  repeat' first
    | (intro _; intros; try dsimp -zeta only)
    | with_reducible exact Keeps.refl _
    | with_reducible assumption
    | with_reducible apply State.publishTqr_keeps
    | with_reducible apply Keeps.ite
    | split

theorem State.leaseTo_keeps {zz s : State} (h : Keeps zz s) (st : Nat) : Keeps zz (State.leaseTo s st) := by
  unfold State.leaseTo
  repeat' first
    | (intro _; intros; try dsimp -zeta only)
    | with_reducible exact Keeps.refl _
    | with_reducible assumption
    | with_reducible apply State.set_keeps
    | with_reducible apply State.event_keeps
    | with_reducible apply State.onLease_keeps
    | with_reducible apply Keeps.ite
    | (extract_lets +onlyGivenNames u; have hu : Keeps zz u := ?_; clear_value u)
    | (extract_lets +onlyGivenNames u; have hu : Keeps zz u.1 := ?_; clear_value u)
    | (extract_lets +onlyGivenNames u; have hu : Keeps zz u.2 := ?_; clear_value u)
    | (extract_lets +onlyGivenNames u; clear_value u)
    | dsimp only [u]
    | split

theorem State.reclaimEval_keeps {zz s : State} (h : Keeps zz s) : Keeps zz (State.reclaimEval s) := by
  unfold State.reclaimEval
  repeat' first
    | (intro _; intros; try dsimp -zeta only)
    | with_reducible exact Keeps.refl _
    | with_reducible assumption
    | with_reducible apply State.onLease_keeps
    | with_reducible apply State.set_keeps
    | with_reducible apply State.leaseTo_keeps
    | with_reducible apply Keeps.getD
    | with_reducible apply Keeps.ite
    | (extract_lets +onlyGivenNames u; have hu : Keeps zz u := ?_; clear_value u)
    | (extract_lets +onlyGivenNames u; have hu : Keeps zz u.1 := ?_; clear_value u)
    | (extract_lets +onlyGivenNames u; have hu : Keeps zz u.2 := ?_; clear_value u)
    | (extract_lets +onlyGivenNames u; clear_value u)
    | dsimp only [u]
    | split

theorem State.setDpll_keeps {zz s : State} (h : Keeps zz s) (d : Nat) (x : Dpll) : Keeps zz (State.setDpll s d x) := by
  unfold State.setDpll
  repeat' first
    | (intro _; intros; try dsimp -zeta only)
    | with_reducible exact Keeps.refl _
    | with_reducible assumption
    | with_reducible apply State.onOuts_keeps
    | with_reducible apply State.set_keeps
    | with_reducible apply Keeps.ite
    | split

theorem State.dpllTo_keeps {zz s : State} (h : Keeps zz s) (d st : Nat) : Keeps zz (State.dpllTo s d st) := by
  unfold State.dpllTo
  repeat' first
    | (intro _; intros; try dsimp -zeta only)
    | with_reducible exact Keeps.refl _
    | with_reducible assumption
    | with_reducible apply State.setDpll_keeps
    | with_reducible apply State.set_keeps
    | with_reducible apply State.event_keeps
    | with_reducible apply Keeps.ite
    | split

theorem State.dpllTrack_keeps {zz s : State} (h : Keeps zz s) (d i : Nat) : Keeps zz (State.dpllTrack s d i) := by
  unfold State.dpllTrack
  repeat' first
    | (intro _; intros; try dsimp -zeta only)
    | with_reducible exact Keeps.refl _
    | with_reducible assumption
    | with_reducible apply State.set_keeps
    | with_reducible apply State.setDpll_keeps
    | with_reducible apply State.drawn_keeps
    | with_reducible apply Keeps.ite
    | (extract_lets +onlyGivenNames u; have hu : Keeps zz u := ?_; clear_value u)
    | (extract_lets +onlyGivenNames u; have hu : Keeps zz u.1 := ?_; clear_value u)
    | (extract_lets +onlyGivenNames u; have hu : Keeps zz u.2 := ?_; clear_value u)
    | (extract_lets +onlyGivenNames u; clear_value u)
    | dsimp only [u]
    | split

theorem State.dpllRows_keeps {zz s : State} (h : Keeps zz s) (d : Nat) (left : Bool) : Keeps zz (State.dpllRows s d left) := by
  unfold State.dpllRows
  repeat' first
    | (intro _; intros; try dsimp -zeta only)
    | with_reducible exact Keeps.refl _
    | with_reducible assumption
    | with_reducible apply State.dpllTo_keeps
    | with_reducible apply State.dpllTrack_keeps
    | with_reducible apply State.seti_keeps
    | with_reducible apply State.raiseCond_keeps
    | with_reducible apply State.setDpll_keeps
    | with_reducible apply State.set_keeps
    | with_reducible apply State.clearCond_keeps
    | with_reducible apply State.event_keeps
    | with_reducible apply Keeps.ite
    | (extract_lets +onlyGivenNames u; have hu : Keeps zz u := ?_; clear_value u)
    | (extract_lets +onlyGivenNames u; have hu : Keeps zz u.1 := ?_; clear_value u)
    | (extract_lets +onlyGivenNames u; have hu : Keeps zz u.2 := ?_; clear_value u)
    | (extract_lets +onlyGivenNames u; clear_value u)
    | dsimp only [u]
    | split

theorem State.dpllFollow_keeps {zz s : State} (h : Keeps zz s) (k : Nat) (left : Bool) : Keeps zz (State.dpllFollow s k left) := by
  unfold State.dpllFollow
  repeat' first
    | (intro _; intros; try dsimp -zeta only)
    | with_reducible exact Keeps.refl _
    | with_reducible assumption
    | with_reducible apply Keeps.forEach
    | with_reducible apply State.dpllRows_keeps
    | with_reducible apply Keeps.ite
    | split

theorem State.fwStep_keeps {zz s : State} (h : Keeps zz s) (d : Int) : Keeps zz (State.fwStep s d) := by
  unfold State.fwStep
  repeat' first
    | (intro _; intros; try dsimp -zeta only)
    | with_reducible exact Keeps.refl _
    | with_reducible assumption
    | with_reducible apply State.set_keeps
    | with_reducible apply State.armStep_keeps
    | with_reducible apply Keeps.ite
    | (extract_lets +onlyGivenNames u; have hu : Keeps zz u := ?_; clear_value u)
    | (extract_lets +onlyGivenNames u; have hu : Keeps zz u.1 := ?_; clear_value u)
    | (extract_lets +onlyGivenNames u; have hu : Keeps zz u.2 := ?_; clear_value u)
    | (extract_lets +onlyGivenNames u; clear_value u)
    | dsimp only [u]
    | split

theorem State.takeFreq_keeps {zz s : State} (h : Keeps zz s) (k : Nat) : Keeps zz (State.takeFreq s k) := by
  unfold State.takeFreq
  repeat' first
    | (intro _; intros; try dsimp -zeta only)
    | with_reducible exact Keeps.refl _
    | with_reducible assumption
    | with_reducible apply State.commitIncr_keeps
    | with_reducible apply Keeps.ite
    | split

theorem State.startSlew_keeps {zz s : State} (h : Keeps zz s) (d : Int) (first : Bool) : Keeps zz (State.startSlew s d first) := by
  unfold State.startSlew
  repeat' first
    | (intro _; intros; try dsimp -zeta only)
    | with_reducible exact Keeps.refl _
    | with_reducible assumption
    | with_reducible apply State.commit_keeps
    | with_reducible apply State.onSel_keeps
    | with_reducible apply State.set_keeps
    | with_reducible apply Keeps.ite
    | (extract_lets +onlyGivenNames u; have hu : Keeps zz u := ?_; clear_value u)
    | (extract_lets +onlyGivenNames u; have hu : Keeps zz u.1 := ?_; clear_value u)
    | (extract_lets +onlyGivenNames u; have hu : Keeps zz u.2 := ?_; clear_value u)
    | (extract_lets +onlyGivenNames u; clear_value u)
    | dsimp only [u]
    | split

theorem State.transfer_keeps {zz s : State} (h : Keeps zz s) (k : Nat) (d : Int) (first : Bool) : Keeps zz ((State.transfer s k d first).1) := by
  unfold State.transfer
  repeat' first
    | (intro _; intros; try dsimp -zeta only)
    | with_reducible exact Keeps.refl _
    | with_reducible assumption
    | with_reducible apply State.takeFreq_keeps
    | with_reducible apply State.startSlew_keeps
    | with_reducible apply State.fwStep_keeps
    | with_reducible apply State.onSel_keeps
    | with_reducible apply State.set_keeps
    | with_reducible apply Keeps.ite
    | (extract_lets +onlyGivenNames u; have hu : Keeps zz u := ?_; clear_value u)
    | (extract_lets +onlyGivenNames u; have hu : Keeps zz u.1 := ?_; clear_value u)
    | (extract_lets +onlyGivenNames u; have hu : Keeps zz u.2 := ?_; clear_value u)
    | (extract_lets +onlyGivenNames u; clear_value u)
    | dsimp only [u]
    | split

theorem State.norefCheck_keeps {zz s : State} (h : Keeps zz s) : Keeps zz (State.norefCheck s) := by
  unfold State.norefCheck
  repeat' first
    | (intro _; intros; try dsimp -zeta only)
    | with_reducible exact Keeps.refl _
    | with_reducible assumption
    | with_reducible apply State.set_keeps
    | with_reducible apply State.raiseCond_keeps
    | with_reducible apply Keeps.ite
    | split

theorem State.conflictShow_keeps {zz s : State} (h : Keeps zz s) : Keeps zz (State.conflictShow s) := by
  unfold State.conflictShow
  repeat' first
    | (intro _; intros; try dsimp -zeta only)
    | with_reducible exact Keeps.refl _
    | with_reducible assumption
    | with_reducible apply State.onSel_keeps
    | with_reducible apply State.set_keeps
    | with_reducible apply State.clearCond_keeps
    | with_reducible apply State.event_keeps
    | with_reducible apply Keeps.foldl
    | with_reducible apply Keeps.foldl_fst
    | with_reducible apply Keeps.ite
    | (extract_lets +onlyGivenNames u; have hu : Keeps zz u := ?_; clear_value u)
    | (extract_lets +onlyGivenNames u; have hu : Keeps zz u.1 := ?_; clear_value u)
    | (extract_lets +onlyGivenNames u; have hu : Keeps zz u.2 := ?_; clear_value u)
    | (extract_lets +onlyGivenNames u; clear_value u)
    | dsimp only [u]
    | split

theorem State.leaveActive_keeps {zz s : State} (h : Keeps zz s) (k : Nat) : Keeps zz (State.leaveActive s k) := by
  unfold State.leaveActive
  repeat' first
    | (intro _; intros; try dsimp -zeta only)
    | with_reducible exact Keeps.refl _
    | with_reducible assumption
    | with_reducible apply State.onSel_keeps
    | with_reducible apply State.set_keeps
    | with_reducible apply State.abandonTransfer_keeps
    | with_reducible apply State.classChanged_keeps
    | with_reducible apply Keeps.ite
    | (extract_lets +onlyGivenNames u; have hu : Keeps zz u := ?_; clear_value u)
    | (extract_lets +onlyGivenNames u; have hu : Keeps zz u.1 := ?_; clear_value u)
    | (extract_lets +onlyGivenNames u; have hu : Keeps zz u.2 := ?_; clear_value u)
    | (extract_lets +onlyGivenNames u; clear_value u)
    | dsimp only [u]
    | split

theorem State.srcTo_keeps {zz s : State} (h : Keeps zz s) (k st : Nat) : Keeps zz (State.srcTo s k st) := by
  unfold State.srcTo
  repeat' first
    | (intro _; intros; try dsimp -zeta only)
    | with_reducible exact Keeps.refl _
    | with_reducible assumption
    | with_reducible apply State.srcGroup_keeps
    | with_reducible apply State.set_keeps
    | with_reducible apply State.event_keeps
    | with_reducible apply State.setSrc_keeps
    | with_reducible apply State.leaveActive_keeps
    | with_reducible apply State.failGcal_keeps
    | with_reducible apply State.norefCheck_keeps
    | with_reducible apply State.conflictShow_keeps
    | with_reducible apply State.dpllFollow_keeps
    | with_reducible apply State.reclaimEval_keeps
    | with_reducible apply Keeps.ite
    | (extract_lets +onlyGivenNames u; have hu : Keeps zz u := ?_; clear_value u)
    | (extract_lets +onlyGivenNames u; have hu : Keeps zz u.1 := ?_; clear_value u)
    | (extract_lets +onlyGivenNames u; have hu : Keeps zz u.2 := ?_; clear_value u)
    | (extract_lets +onlyGivenNames u; clear_value u)
    | dsimp only [u]
    | split

end Sys2Proof.Machine
end

