-- ==== Sys2Proof/Laws/Keep/Warm.lean ====
section
/-! SUPPORT. Sys2Proof/Machine/Warm.lean keeps the queue and the canonical forms. -/
namespace Sys2Proof.Machine

theorem State.clearWarm_keeps {zz s : State} (h : Keeps zz s) (rule : Nat) : Keeps zz (State.clearWarm s rule) := by
  unfold State.clearWarm
  repeat' first
    | (intro _; intros; try dsimp -zeta only)
    | with_reducible exact Keeps.refl _
    | with_reducible assumption
    | with_reducible apply State.set_keeps
    | with_reducible apply State.event_keeps
    | with_reducible apply State.classChanged_keeps
    | with_reducible apply Keeps.ite
    | split

theorem State.warmBegin_keeps {zz s : State} (h : Keeps zz s) (ref : Option Nat) : Keeps zz (State.warmBegin s ref) := by
  unfold State.warmBegin
  repeat' first
    | (intro _; intros; try dsimp -zeta only)
    | with_reducible exact Keeps.refl _
    | with_reducible assumption
    | with_reducible apply State.onTb_keeps
    | with_reducible apply State.set_keeps
    | with_reducible apply Keeps.ite
    | split

theorem State.setWarm_keeps {zz s : State} (h : Keeps zz s) : Keeps zz (State.setWarm s) := by
  unfold State.setWarm
  repeat' first
    | (intro _; intros; try dsimp -zeta only)
    | with_reducible exact Keeps.refl _
    | with_reducible assumption
    | with_reducible apply State.warmBegin_keeps
    | with_reducible apply State.set_keeps
    | with_reducible apply State.classChanged_keeps
    | with_reducible apply Keeps.ite
    | split

theorem State.warmRule_keeps {zz s : State} (h : Keeps zz s) : Keeps zz (State.warmRule s) := by
  unfold State.warmRule
  repeat' first
    | (intro _; intros; try dsimp -zeta only)
    | with_reducible exact Keeps.refl _
    | with_reducible assumption
    | with_reducible apply State.warmBegin_keeps
    | with_reducible apply State.set_keeps
    | with_reducible apply State.clearWarm_keeps
    | with_reducible apply State.setSat_keeps
    | with_reducible apply Keeps.ite
    | (extract_lets +onlyGivenNames u; have hu : Keeps zz u := ?_; clear_value u)
    | (extract_lets +onlyGivenNames u; have hu : Keeps zz u.1 := ?_; clear_value u)
    | (extract_lets +onlyGivenNames u; have hu : Keeps zz u.2 := ?_; clear_value u)
    | (extract_lets +onlyGivenNames u; clear_value u)
    | dsimp only [u]
    | split

theorem State.oscLost_keeps {zz s : State} (h : Keeps zz s) : Keeps zz (State.oscLost s) := by
  unfold State.oscLost
  repeat' first
    | (intro _; intros; try dsimp -zeta only)
    | with_reducible exact Keeps.refl _
    | with_reducible assumption
    | with_reducible apply State.set_keeps
    | with_reducible apply State.raiseCond_keeps
    | with_reducible apply State.cutTransfer_keeps
    | with_reducible apply State.commit_keeps
    | with_reducible apply State.onTb_keeps
    | with_reducible apply State.failGcal_keeps
    | with_reducible apply State.onSel_keeps
    | with_reducible apply State.setWarm_keeps
    | with_reducible apply Keeps.ite
    | (extract_lets +onlyGivenNames u; have hu : Keeps zz u := ?_; clear_value u)
    | (extract_lets +onlyGivenNames u; have hu : Keeps zz u.1 := ?_; clear_value u)
    | (extract_lets +onlyGivenNames u; have hu : Keeps zz u.2 := ?_; clear_value u)
    | (extract_lets +onlyGivenNames u; clear_value u)
    | dsimp only [u]
    | split

theorem State.oscRestored_keeps {zz s : State} (h : Keeps zz s) : Keeps zz (State.oscRestored s) := by
  unfold State.oscRestored
  repeat' first
    | (intro _; intros; try dsimp -zeta only)
    | with_reducible exact Keeps.refl _
    | with_reducible assumption
    | with_reducible apply State.set_keeps
    | with_reducible apply State.clearCond_keeps
    | with_reducible apply State.event_keeps
    | with_reducible apply State.onTb_keeps
    | with_reducible apply State.setWarm_keeps
    | with_reducible apply State.warmRule_keeps
    | with_reducible apply Keeps.ite
    | (extract_lets +onlyGivenNames u; have hu : Keeps zz u := ?_; clear_value u)
    | (extract_lets +onlyGivenNames u; have hu : Keeps zz u.1 := ?_; clear_value u)
    | (extract_lets +onlyGivenNames u; have hu : Keeps zz u.2 := ?_; clear_value u)
    | (extract_lets +onlyGivenNames u; clear_value u)
    | dsimp only [u]
    | split

theorem State.warmWindow_keeps {zz s : State} (h : Keeps zz s) (y : Option Int) : Keeps zz (State.warmWindow s y) := by
  unfold State.warmWindow
  repeat' first
    | (intro _; intros; try dsimp -zeta only)
    | with_reducible exact Keeps.refl _
    | with_reducible assumption
    | with_reducible apply State.warmRule_keeps
    | with_reducible apply State.onTb_keeps
    | with_reducible apply State.warmBegin_keeps
    | with_reducible apply State.setSat_keeps
    | with_reducible apply State.bump_keeps
    | with_reducible apply State.clearWarm_keeps
    | with_reducible apply State.set_keeps
    | with_reducible apply Keeps.ite
    | (extract_lets +onlyGivenNames u; have hu : Keeps zz u := ?_; clear_value u)
    | (extract_lets +onlyGivenNames u; have hu : Keeps zz u.1 := ?_; clear_value u)
    | (extract_lets +onlyGivenNames u; have hu : Keeps zz u.2 := ?_; clear_value u)
    | (extract_lets +onlyGivenNames u; clear_value u)
    | dsimp only [u]
    | split

theorem State.warmMin_keeps {zz s : State} (h : Keeps zz s) : Keeps zz (State.warmMin s) := by
  unfold State.warmMin
  repeat' first
    | (intro _; intros; try dsimp -zeta only)
    | with_reducible exact Keeps.refl _
    | with_reducible assumption
    | with_reducible refine State.reachTick_keeps ?_ (by assumption)
    | with_reducible apply State.clearWarm_keeps
    | with_reducible apply Keeps.ite
    | split

theorem State.ocxoChange_keeps {zz s : State} (h : Keeps zz s) (high : Bool) : Keeps zz (State.ocxoChange s high) := by
  unfold State.ocxoChange
  repeat' first
    | (intro _; intros; try dsimp -zeta only)
    | with_reducible exact Keeps.refl _
    | with_reducible assumption
    | with_reducible apply State.setb_keeps
    | with_reducible apply State.onTb_keeps
    | with_reducible apply State.set_keeps
    | with_reducible apply State.warmRule_keeps
    | with_reducible apply Keeps.ite
    | (extract_lets +onlyGivenNames u; have hu : Keeps zz u := ?_; clear_value u)
    | (extract_lets +onlyGivenNames u; have hu : Keeps zz u.1 := ?_; clear_value u)
    | (extract_lets +onlyGivenNames u; have hu : Keeps zz u.2 := ?_; clear_value u)
    | (extract_lets +onlyGivenNames u; clear_value u)
    | dsimp only [u]
    | split

theorem State.ocxoTimeout_keeps {zz s : State} (h : Keeps zz s) : Keeps zz (State.ocxoTimeout s) := by
  unfold State.ocxoTimeout
  repeat' first
    | (intro _; intros; try dsimp -zeta only)
    | with_reducible exact Keeps.refl _
    | with_reducible assumption
    | with_reducible refine State.reachTick_keeps ?_ (by assumption)
    | with_reducible apply State.setWarm_keeps
    | with_reducible apply State.warmRule_keeps
    | with_reducible apply Keeps.ite
    | split

end Sys2Proof.Machine
end

