-- ==== Sys2Proof/Laws/Keep/Select.lean ====
section
/-! SUPPORT. Sys2Proof/Machine/Select.lean keeps the queue and the canonical forms. -/
namespace Sys2Proof.Machine

theorem State.srcRow_keeps {zz s : State} (h : Keeps zz s) (k : Nat) (close : Bool) : Keeps zz (State.srcRow s k close) := by
  unfold State.srcRow
  repeat' first
    | (intro _; intros; try dsimp -zeta only)
    | with_reducible exact Keeps.refl _
    | with_reducible assumption
    | with_reducible apply State.srcTo_keeps
    | with_reducible apply State.setSrc_keeps
    | with_reducible apply State.srcGroup_keeps
    | with_reducible apply State.set_keeps
    | with_reducible apply Keeps.ite
    | (extract_lets +onlyGivenNames u; have hu : Keeps zz u := ?_; clear_value u)
    | (extract_lets +onlyGivenNames u; have hu : Keeps zz u.1 := ?_; clear_value u)
    | (extract_lets +onlyGivenNames u; have hu : Keeps zz u.2 := ?_; clear_value u)
    | (extract_lets +onlyGivenNames u; clear_value u)
    | dsimp only [u]
    | split

theorem State.srcRows_keeps {zz s : State} (h : Keeps zz s) (k : Nat) : Keeps zz (State.srcRows s k) := by
  unfold State.srcRows
  repeat' first
    | (intro _; intros; try dsimp -zeta only)
    | with_reducible exact Keeps.refl _
    | with_reducible assumption
    | with_reducible apply State.srcRow_keeps
    | with_reducible apply State.showReason_keeps
    | with_reducible apply Keeps.ite
    | split

theorem State.refEvent_keeps {zz s : State} (h : Keeps zz s) (k t : Nat) : Keeps zz (State.refEvent s k t) := by
  unfold State.refEvent
  repeat' first
    | (intro _; intros; try dsimp -zeta only)
    | with_reducible exact Keeps.refl _
    | with_reducible assumption
    | with_reducible apply State.setSrc_keeps
    | with_reducible apply State.srcGroup_keeps
    | with_reducible apply State.setI64_keeps
    | with_reducible apply State.srcRows_keeps
    | with_reducible apply State.warmRule_keeps
    | with_reducible apply Keeps.ite
    | (extract_lets +onlyGivenNames u; have hu : Keeps zz u := ?_; clear_value u)
    | (extract_lets +onlyGivenNames u; have hu : Keeps zz u.1 := ?_; clear_value u)
    | (extract_lets +onlyGivenNames u; have hu : Keeps zz u.2 := ?_; clear_value u)
    | (extract_lets +onlyGivenNames u; clear_value u)
    | dsimp only [u]
    | split

theorem State.measure_keeps {zz s : State} (h : Keeps zz s) (k t : Nat) (x : Int) : Keeps zz (State.measure s k t x) := by
  unfold State.measure
  repeat' first
    | (intro _; intros; try dsimp -zeta only)
    | with_reducible exact Keeps.refl _
    | with_reducible assumption
    | with_reducible apply State.setSrc_keeps
    | with_reducible apply State.srcGroup_keeps
    | with_reducible apply State.setI64_keeps
    | with_reducible apply Keeps.ite
    | (extract_lets +onlyGivenNames u; have hu : Keeps zz u := ?_; clear_value u)
    | (extract_lets +onlyGivenNames u; have hu : Keeps zz u.1 := ?_; clear_value u)
    | (extract_lets +onlyGivenNames u; have hu : Keeps zz u.2 := ?_; clear_value u)
    | (extract_lets +onlyGivenNames u; clear_value u)
    | dsimp only [u]
    | split

theorem State.driftGone_keeps {zz s : State} (h : Keeps zz s) : Keeps zz (State.driftGone s) := by
  unfold State.driftGone
  repeat' first
    | (intro _; intros; try dsimp -zeta only)
    | with_reducible exact Keeps.refl _
    | with_reducible assumption
    | with_reducible apply State.onSel_keeps
    | with_reducible apply State.set_keeps
    | with_reducible apply State.clearCond_keeps
    | with_reducible apply State.queueEvent_keeps
    | with_reducible apply Keeps.ite
    | split

theorem State.secondQualifiers_keeps {zz s : State} (h : Keeps zz s) : Keeps zz (State.secondQualifiers s) := by
  unfold State.secondQualifiers
  repeat' first
    | (intro _; intros; try dsimp -zeta only)
    | with_reducible exact Keeps.refl _
    | with_reducible assumption
    | with_reducible apply State.setSrc_keeps
    | with_reducible apply Keeps.forEach
    | with_reducible apply State.srcRows_keeps
    | with_reducible apply State.driftGone_keeps
    | with_reducible apply Keeps.ite
    | (extract_lets +onlyGivenNames u; have hu : Keeps zz u := ?_; clear_value u)
    | (extract_lets +onlyGivenNames u; have hu : Keeps zz u.1 := ?_; clear_value u)
    | (extract_lets +onlyGivenNames u; have hu : Keeps zz u.2 := ?_; clear_value u)
    | (extract_lets +onlyGivenNames u; have ht := fun (x : State) => u x; clear ht; dsimp -zeta only [u]; clear u)
    | (extract_lets +onlyGivenNames u; have ht := fun y (x : State) => u y x; clear ht; dsimp -zeta only [u]; clear u)
    | (extract_lets +onlyGivenNames u; clear_value u)
    | dsimp only [u]
    | split

theorem State.q1Fail_keeps {zz s : State} (h : Keeps zz s) (k : Nat) : Keeps zz (State.q1Fail s k) := by
  unfold State.q1Fail
  repeat' first
    | (intro _; intros; try dsimp -zeta only)
    | with_reducible exact Keeps.refl _
    | with_reducible assumption
    | with_reducible refine State.reach_keeps ?_ (by assumption)
    | with_reducible apply State.setSrc_keeps
    | with_reducible apply State.srcRows_keeps
    | with_reducible apply State.warmRule_keeps
    | with_reducible apply Keeps.ite
    | (extract_lets +onlyGivenNames u; have hu : Keeps zz u := ?_; clear_value u)
    | (extract_lets +onlyGivenNames u; have hu : Keeps zz u.1 := ?_; clear_value u)
    | (extract_lets +onlyGivenNames u; have hu : Keeps zz u.2 := ?_; clear_value u)
    | (extract_lets +onlyGivenNames u; clear_value u)
    | dsimp only [u]
    | split

theorem State.switchTo_keeps {zz s : State} (h : Keeps zz s) (b : Nat) : Keeps zz (State.switchTo s b) := by
  unfold State.switchTo
  repeat' first
    | (intro _; intros; try dsimp -zeta only)
    | with_reducible exact Keeps.refl _
    | with_reducible assumption
    | with_reducible apply State.transfer_keeps
    | with_reducible apply State.onSel_keeps
    | with_reducible apply State.abandonTransfer_keeps
    | with_reducible apply State.set_keeps
    | with_reducible apply State.setSrc_keeps
    | with_reducible apply State.srcTo_keeps
    | with_reducible apply State.setb_keeps
    | with_reducible apply State.clearCond_keeps
    | with_reducible apply State.onTb_keeps
    | with_reducible apply State.event_keeps
    | with_reducible apply State.publishTqr_keeps
    | with_reducible apply Keeps.getD
    | with_reducible apply Keeps.ite
    | (extract_lets +onlyGivenNames u; have hu : Keeps zz u := ?_; clear_value u)
    | (extract_lets +onlyGivenNames u; have hu : Keeps zz u.1 := ?_; clear_value u)
    | (extract_lets +onlyGivenNames u; have hu : Keeps zz u.2 := ?_; clear_value u)
    | (extract_lets +onlyGivenNames u; clear_value u)
    | dsimp only [u]
    | split

theorem State.select_keeps {zz s : State} (h : Keeps zz s) : Keeps zz (State.select s) := by
  unfold State.select
  repeat' first
    | (intro _; intros; try dsimp -zeta only)
    | with_reducible exact Keeps.refl _
    | with_reducible assumption
    | with_reducible apply State.srcTo_keeps
    | with_reducible apply State.switchTo_keeps
    | with_reducible apply Keeps.ite
    | (extract_lets +onlyGivenNames u; have hu : Keeps zz u := ?_; clear_value u)
    | (extract_lets +onlyGivenNames u; have hu : Keeps zz u.1 := ?_; clear_value u)
    | (extract_lets +onlyGivenNames u; have hu : Keeps zz u.2 := ?_; clear_value u)
    | (extract_lets +onlyGivenNames u; clear_value u)
    | dsimp only [u]
    | split

theorem State.wholeSecond_keeps {zz s : State} (h : Keeps zz s) : Keeps zz (State.wholeSecond s) := by
  unfold State.wholeSecond
  repeat' first
    | (intro _; intros; try dsimp -zeta only)
    | with_reducible exact Keeps.refl _
    | with_reducible assumption
    | with_reducible apply State.fwStep_keeps
    | with_reducible apply Keeps.getD
    | with_reducible apply Keeps.ite
    | (extract_lets +onlyGivenNames u; have hu : Keeps zz u := ?_; clear_value u)
    | (extract_lets +onlyGivenNames u; have hu : Keeps zz u.1 := ?_; clear_value u)
    | (extract_lets +onlyGivenNames u; have hu : Keeps zz u.2 := ?_; clear_value u)
    | (extract_lets +onlyGivenNames u; clear_value u)
    | dsimp only [u]
    | split

theorem State.wtrElapsed_keeps {zz s : State} (h : Keeps zz s) (k : Nat) : Keeps zz (State.wtrElapsed s k) := by
  unfold State.wtrElapsed
  repeat' first
    | (intro _; intros; try dsimp -zeta only)
    | with_reducible exact Keeps.refl _
    | with_reducible assumption
    | with_reducible refine State.reachTick_keeps ?_ (by assumption)
    | with_reducible apply State.srcTo_keeps
    | with_reducible apply State.wholeSecond_keeps
    | with_reducible apply Keeps.ite
    | split

theorem State.driftUnres_keeps {zz s : State} (h : Keeps zz s) (r : Nat) (now : Bool) : Keeps zz (State.driftUnres s r now) := by
  unfold State.driftUnres
  repeat' first
    | (intro _; intros; try dsimp -zeta only)
    | with_reducible exact Keeps.refl _
    | with_reducible assumption
    | with_reducible apply State.set_keeps
    | with_reducible apply State.clearCond_keeps
    | with_reducible apply State.queueEvent_keeps
    | with_reducible apply State.onSel_keeps
    | with_reducible apply State.raiseCond_keeps
    | with_reducible apply Keeps.ite
    | split

theorem State.driftEval_keeps {zz s : State} (h : Keeps zz s) (r : Nat) : Keeps zz (State.driftEval s r) := by
  unfold State.driftEval
  repeat' first
    | (intro _; intros; try dsimp -zeta only)
    | with_reducible exact Keeps.refl _
    | with_reducible assumption
    | with_reducible apply State.setSrc_keeps
    | with_reducible apply State.driftUnres_keeps
    | with_reducible apply State.event_keeps
    | with_reducible apply State.srcRows_keeps
    | with_reducible apply Keeps.getD
    | with_reducible apply Keeps.ite
    | (extract_lets +onlyGivenNames u; have hu : Keeps zz u := ?_; clear_value u)
    | (extract_lets +onlyGivenNames u; have hu : Keeps zz u.1 := ?_; clear_value u)
    | (extract_lets +onlyGivenNames u; have hu : Keeps zz u.2 := ?_; clear_value u)
    | (extract_lets +onlyGivenNames u; clear_value u)
    | dsimp only [u]
    | split

theorem State.loseTo_keeps {zz s : State} (h : Keeps zz s) (k to_ : Nat) (unresolved : Bool) : Keeps zz (State.loseTo s k to_ unresolved) := by
  unfold State.loseTo
  repeat' first
    | (intro _; intros; try dsimp -zeta only)
    | with_reducible exact Keeps.refl _
    | with_reducible assumption
    | with_reducible apply State.setSrc_keeps
    | with_reducible apply State.srcTo_keeps
    | with_reducible apply State.set_keeps
    | with_reducible apply State.raiseCond_keeps
    | with_reducible apply Keeps.ite
    | (extract_lets +onlyGivenNames u; have hu : Keeps zz u := ?_; clear_value u)
    | (extract_lets +onlyGivenNames u; have hu : Keeps zz u.1 := ?_; clear_value u)
    | (extract_lets +onlyGivenNames u; have hu : Keeps zz u.2 := ?_; clear_value u)
    | (extract_lets +onlyGivenNames u; clear_value u)
    | dsimp only [u]
    | split

theorem State.resolvePair_keeps {zz s : State} (h : Keeps zz s) (ps : List (Nat × Nat × Nat)) (gone : List Nat) (a b : Nat) : Keeps zz ((State.resolvePair s ps gone a b).1) := by
  unfold State.resolvePair
  repeat' first
    | (intro _; intros; try dsimp -zeta only)
    | with_reducible exact Keeps.refl _
    | with_reducible assumption
    | with_reducible apply State.loseTo_keeps
    | with_reducible apply Keeps.ite
    | (extract_lets +onlyGivenNames u; have hu : Keeps zz u := ?_; clear_value u)
    | (extract_lets +onlyGivenNames u; have hu : Keeps zz u.1 := ?_; clear_value u)
    | (extract_lets +onlyGivenNames u; have hu : Keeps zz u.2 := ?_; clear_value u)
    | (extract_lets +onlyGivenNames u; clear_value u)
    | dsimp only [u]
    | split

theorem State.conflicts_keeps {zz s : State} (h : Keeps zz s) (ps : List (Nat × Nat × Nat)) : Keeps zz (State.conflicts s ps) := by
  unfold State.conflicts
  repeat' first
    | (intro _; intros; try dsimp -zeta only)
    | with_reducible exact Keeps.refl _
    | with_reducible assumption
    | with_reducible apply State.resolvePair_keeps
    | with_reducible apply Keeps.foldl
    | with_reducible apply Keeps.foldl_fst
    | with_reducible apply Keeps.ite
    | split

theorem State.judgeWindow_keeps {zz s : State} (h : Keeps zz s) (k : Nat) (r : WinResult) (cand : Option Nat) : Keeps zz (State.judgeWindow s k r cand) := by
  unfold State.judgeWindow
  repeat' first
    | (intro _; intros; try dsimp -zeta only)
    | with_reducible exact Keeps.refl _
    | with_reducible assumption
    | with_reducible apply State.event_keeps
    | with_reducible apply State.setSrc_keeps
    | with_reducible apply State.srcGroup_keeps
    | with_reducible apply State.seti_keeps
    | with_reducible apply State.driftEval_keeps
    | with_reducible apply State.fitWindow_keeps
    | with_reducible apply Keeps.getD
    | with_reducible apply Keeps.ite
    | (extract_lets +onlyGivenNames u; have hu : Keeps zz u := ?_; clear_value u)
    | (extract_lets +onlyGivenNames u; have hu : Keeps zz u.1 := ?_; clear_value u)
    | (extract_lets +onlyGivenNames u; have hu : Keeps zz u.2 := ?_; clear_value u)
    | (extract_lets +onlyGivenNames u; clear_value u)
    | dsimp only [u]
    | split

theorem State.sourceWindow_keeps {zz s : State} (h : Keeps zz s) (k : Nat) : Keeps zz (State.sourceWindow s k) := by
  unfold State.sourceWindow
  repeat' first
    | (intro _; intros; try dsimp -zeta only)
    | with_reducible exact Keeps.refl _
    | with_reducible assumption
    | with_reducible apply State.setSrc_keeps
    | with_reducible apply State.showReason_keeps
    | with_reducible apply State.judgeWindow_keeps
    | with_reducible apply State.conflicts_keeps
    | with_reducible apply State.srcRow_keeps
    | with_reducible apply State.conflictShow_keeps
    | with_reducible apply State.set_keeps
    | with_reducible apply State.refit_keeps
    | with_reducible apply State.wholeSecond_keeps
    | with_reducible apply Keeps.foldl
    | with_reducible apply Keeps.foldl_fst
    | with_reducible apply Keeps.ite
    | (extract_lets +onlyGivenNames u; have hu : Keeps zz u := ?_; clear_value u)
    | (extract_lets +onlyGivenNames u; have hu : Keeps zz u.1 := ?_; clear_value u)
    | (extract_lets +onlyGivenNames u; have hu : Keeps zz u.2 := ?_; clear_value u)
    | (extract_lets +onlyGivenNames u; clear_value u)
    | dsimp only [u]
    | split

theorem State.cutVirtual_keeps {zz s : State} (h : Keeps zz s) : Keeps zz (State.cutVirtual s) := by
  unfold State.cutVirtual
  repeat' first
    | (intro _; intros; try dsimp -zeta only)
    | with_reducible exact Keeps.refl _
    | with_reducible assumption
    | with_reducible apply Keeps.forEach
    | with_reducible apply State.setSrc_keeps
    | with_reducible apply Keeps.ite
    | split

theorem State.zdaReject_keeps {zz s : State} (h : Keeps zz s) (why : Nat) : Keeps zz (State.zdaReject s why) := by
  unfold State.zdaReject
  repeat' first
    | (intro _; intros; try dsimp -zeta only)
    | with_reducible exact Keeps.refl _
    | with_reducible assumption
    | with_reducible apply State.event_keeps
    | with_reducible apply Keeps.ite
    | split

theorem State.labelPulse_keeps {zz s : State} (h : Keeps zz s) (t lab : Nat) : Keeps zz (State.labelPulse s t lab) := by
  unfold State.labelPulse
  repeat' first
    | (intro _; intros; try dsimp -zeta only)
    | with_reducible exact Keeps.refl _
    | with_reducible assumption
    | with_reducible apply State.setSrc_keeps
    | with_reducible apply State.measure_keeps
    | with_reducible apply Keeps.ite
    | (extract_lets +onlyGivenNames u; have hu : Keeps zz u := ?_; clear_value u)
    | (extract_lets +onlyGivenNames u; have hu : Keeps zz u.1 := ?_; clear_value u)
    | (extract_lets +onlyGivenNames u; have hu : Keeps zz u.2 := ?_; clear_value u)
    | (extract_lets +onlyGivenNames u; clear_value u)
    | dsimp only [u]
    | split

theorem State.zda_keeps {zz s : State} (h : Keeps zz s) (cs : List Byte) : Keeps zz (State.zda s cs) := by
  unfold State.zda
  repeat' first
    | (intro _; intros; try dsimp -zeta only)
    | with_reducible exact Keeps.refl _
    | with_reducible assumption
    | with_reducible apply State.zdaReject_keeps
    | with_reducible apply State.onSel_keeps
    | with_reducible apply State.setSrc_keeps
    | with_reducible apply State.labelPulse_keeps
    | with_reducible apply Keeps.ite
    | (extract_lets +onlyGivenNames u; have hu : Keeps zz u := ?_; clear_value u)
    | (extract_lets +onlyGivenNames u; have hu : Keeps zz u.1 := ?_; clear_value u)
    | (extract_lets +onlyGivenNames u; have hu : Keeps zz u.2 := ?_; clear_value u)
    | (extract_lets +onlyGivenNames u; clear_value u)
    | dsimp only [u]
    | split

theorem State.todPulse_keeps {zz s : State} (h : Keeps zz s) (t : Nat) : Keeps zz (State.todPulse s t) := by
  unfold State.todPulse
  repeat' first
    | (intro _; intros; try dsimp -zeta only)
    | with_reducible exact Keeps.refl _
    | with_reducible assumption
    | with_reducible apply State.setSrc_keeps
    | with_reducible apply State.onSel_keeps
    | with_reducible apply State.labelPulse_keeps
    | with_reducible apply Keeps.ite
    | (extract_lets +onlyGivenNames u; have hu : Keeps zz u := ?_; clear_value u)
    | (extract_lets +onlyGivenNames u; have hu : Keeps zz u.1 := ?_; clear_value u)
    | (extract_lets +onlyGivenNames u; have hu : Keeps zz u.2 := ?_; clear_value u)
    | (extract_lets +onlyGivenNames u; clear_value u)
    | dsimp only [u]
    | split

theorem State.edge_keeps {zz s : State} (h : Keeps zz s) (n : Nat) (rising : Bool) (bin : Nat) : Keeps zz (State.edge s n rising bin) := by
  unfold State.edge
  repeat' first
    | (intro _; intros; try dsimp -zeta only)
    | with_reducible exact Keeps.refl _
    | with_reducible assumption
    | with_reducible apply State.tdcEdge_keeps
    | with_reducible apply State.refEvent_keeps
    | with_reducible apply State.todPulse_keeps
    | with_reducible apply Keeps.ite
    | (extract_lets +onlyGivenNames u; have hu : Keeps zz u := ?_; clear_value u)
    | (extract_lets +onlyGivenNames u; have hu : Keeps zz u.1 := ?_; clear_value u)
    | (extract_lets +onlyGivenNames u; have hu : Keeps zz u.2 := ?_; clear_value u)
    | (extract_lets +onlyGivenNames u; clear_value u)
    | dsimp only [u]
    | split

theorem State.edgeIn_keeps {zz s : State} (h : Keeps zz s) (n : Nat) (rising : Bool) (bin wait : Nat) : Keeps zz (State.edgeIn s n rising bin wait) := by
  unfold State.edgeIn
  repeat' first
    | (intro _; intros; try dsimp -zeta only)
    | with_reducible exact Keeps.refl _
    | with_reducible assumption
    | with_reducible refine State.reachTick_keeps ?_ (by assumption)
    | with_reducible apply State.edge_keeps
    | with_reducible apply Keeps.ite
    | split

theorem State.dpllShow_keeps {zz s : State} (h : Keeps zz s) (d : Nat) (phase freq : Int) : Keeps zz (State.dpllShow s d phase freq) := by
  unfold State.dpllShow
  repeat' first
    | (intro _; intros; try dsimp -zeta only)
    | with_reducible exact Keeps.refl _
    | with_reducible assumption
    | with_reducible apply State.setDpll_keeps
    | with_reducible apply State.seti_keeps
    | with_reducible apply Keeps.ite
    | (extract_lets +onlyGivenNames u; have hu : Keeps zz u := ?_; clear_value u)
    | (extract_lets +onlyGivenNames u; have hu : Keeps zz u.1 := ?_; clear_value u)
    | (extract_lets +onlyGivenNames u; have hu : Keeps zz u.2 := ?_; clear_value u)
    | (extract_lets +onlyGivenNames u; clear_value u)
    | dsimp only [u]
    | split

theorem State.dpllLock_keeps {zz s : State} (h : Keeps zz s) (d : Nat) (phase freq : Int) : Keeps zz (State.dpllLock s d phase freq) := by
  unfold State.dpllLock
  repeat' first
    | (intro _; intros; try dsimp -zeta only)
    | with_reducible exact Keeps.refl _
    | with_reducible assumption
    | with_reducible refine State.reachTick_keeps ?_ (by assumption)
    | with_reducible apply State.dpllShow_keeps
    | with_reducible apply State.dpllTo_keeps
    | with_reducible apply Keeps.ite
    | (extract_lets +onlyGivenNames u; have hu : Keeps zz u := ?_; clear_value u)
    | (extract_lets +onlyGivenNames u; have hu : Keeps zz u.1 := ?_; clear_value u)
    | (extract_lets +onlyGivenNames u; have hu : Keeps zz u.2 := ?_; clear_value u)
    | (extract_lets +onlyGivenNames u; clear_value u)
    | dsimp only [u]
    | split

theorem State.dpllUnlock_keeps {zz s : State} (h : Keeps zz s) (d : Nat) (phase freq : Int) : Keeps zz (State.dpllUnlock s d phase freq) := by
  unfold State.dpllUnlock
  repeat' first
    | (intro _; intros; try dsimp -zeta only)
    | with_reducible exact Keeps.refl _
    | with_reducible assumption
    | with_reducible apply State.dpllShow_keeps
    | with_reducible apply State.dpllTo_keeps
    | with_reducible apply Keeps.ite
    | split

theorem State.dpllFallback_keeps {zz s : State} (h : Keeps zz s) (d : Nat) : Keeps zz (State.dpllFallback s d) := by
  unfold State.dpllFallback
  repeat' first
    | (intro _; intros; try dsimp -zeta only)
    | with_reducible exact Keeps.refl _
    | with_reducible assumption
    | with_reducible refine State.reachTick_keeps ?_ (by assumption)
    | with_reducible apply State.dpllTrack_keeps
    | with_reducible apply State.dpllTo_keeps
    | with_reducible apply State.event_keeps
    | with_reducible apply Keeps.ite
    | split

theorem State.dpllSecond_keeps {zz s : State} (h : Keeps zz s) : Keeps zz (State.dpllSecond s) := by
  unfold State.dpllSecond
  repeat' first
    | (intro _; intros; try dsimp -zeta only)
    | with_reducible exact Keeps.refl _
    | with_reducible assumption
    | with_reducible apply Keeps.forEach
    | with_reducible apply State.dpllRows_keeps
    | with_reducible apply State.seti_keeps
    | with_reducible apply State.dpllTo_keeps
    | with_reducible apply Keeps.ite
    | (extract_lets +onlyGivenNames u; have hu : Keeps zz u := ?_; clear_value u)
    | (extract_lets +onlyGivenNames u; have hu : Keeps zz u.1 := ?_; clear_value u)
    | (extract_lets +onlyGivenNames u; have hu : Keeps zz u.2 := ?_; clear_value u)
    | (extract_lets +onlyGivenNames u; clear_value u)
    | dsimp only [u]
    | split

end Sys2Proof.Machine
end

