-- ==== Sys2Proof/Laws/Keep/Outputs.lean ====
section
/-! SUPPORT. Sys2Proof/Machine/Outputs.lean keeps the queue and the canonical forms. -/
namespace Sys2Proof.Machine

theorem State.setOutp_keeps {zz s : State} (h : Keeps zz s) (n : Nat) (x : Outp) : Keeps zz (State.setOutp s n x) := by
  unfold State.setOutp
  repeat' first
    | (intro _; intros; try dsimp -zeta only)
    | with_reducible exact Keeps.refl _
    | with_reducible assumption
    | with_reducible apply State.onOuts_keeps
    | with_reducible apply State.set_keeps
    | with_reducible apply Keeps.ite
    | split

theorem State.placeEdge_keeps {zz s : State} (h : Keeps zz s) (n b : Nat) : Keeps zz (State.placeEdge s n b) := by
  unfold State.placeEdge
  repeat' first
    | (intro _; intros; try dsimp -zeta only)
    | with_reducible exact Keeps.refl _
    | with_reducible assumption
    | with_reducible apply State.setOutp_keeps
    | with_reducible apply State.bump_keeps
    | with_reducible apply State.event_keeps
    | with_reducible apply State.emit_keeps
    | with_reducible apply State.edge_keeps
    | with_reducible apply Keeps.ite
    | (extract_lets +onlyGivenNames u; have hu : Keeps zz u := ?_; clear_value u)
    | (extract_lets +onlyGivenNames u; have hu : Keeps zz u.1 := ?_; clear_value u)
    | (extract_lets +onlyGivenNames u; have hu : Keeps zz u.2 := ?_; clear_value u)
    | (extract_lets +onlyGivenNames u; clear_value u)
    | dsimp only [u]
    | split

theorem State.reachEdge_keeps {z : State} {f : Nat} {s : State} {n b : Nat} {t} (h : Keeps z s) (e : State.reachEdge f s n b = some t) :
    Keeps z t := by
  induction f generalizing s with
  | zero => cases e; exact h
  | succ f ih =>
    unfold State.reachEdge at e
    split at e
    · cases e; exact h
    · split at e
      · rename_i u hu; exact ih (State.reach_keeps h hu) e
      · cases e

theorem State.pulseEdge_keeps {zz s : State} (h : Keeps zz s) (n b : Nat) : Keeps zz (State.pulseEdge s n b) := by
  unfold State.pulseEdge
  repeat' first
    | (intro _; intros; try dsimp -zeta only)
    | with_reducible exact Keeps.refl _
    | with_reducible assumption
    | with_reducible refine State.reachEdge_keeps ?_ (by assumption)
    | with_reducible apply State.placeEdge_keeps
    | with_reducible apply Keeps.ite
    | split

theorem State.putClock_keeps {zz s : State} (h : Keeps zz s) (n b : Nat) : Keeps zz (State.putClock s n b) := by
  unfold State.putClock
  repeat' first
    | (intro _; intros; try dsimp -zeta only)
    | with_reducible exact Keeps.refl _
    | with_reducible assumption
    | with_reducible apply State.setOutp_keeps
    | with_reducible apply State.emit_keeps
    | with_reducible apply State.edge_keeps
    | with_reducible apply Keeps.ite
    | split

theorem State.clockEdge_keeps {zz s : State} (h : Keeps zz s) (n b : Nat) : Keeps zz (State.clockEdge s n b) := by
  unfold State.clockEdge
  repeat' first
    | (intro _; intros; try dsimp -zeta only)
    | with_reducible exact Keeps.refl _
    | with_reducible assumption
    | with_reducible refine State.reach_keeps ?_ (by assumption)
    | with_reducible apply State.putClock_keeps
    | with_reducible apply Keeps.ite
    | split

theorem State.clockBoundary_keeps {zz s : State} (h : Keeps zz s) : Keeps zz (State.clockBoundary s) := by
  unfold State.clockBoundary
  repeat' first
    | (intro _; intros; try dsimp -zeta only)
    | with_reducible exact Keeps.refl _
    | with_reducible assumption
    | with_reducible apply Keeps.forEach
    | with_reducible apply State.putClock_keeps
    | with_reducible apply Keeps.ite
    | split

theorem State.outEdge_keeps {zz s : State} (h : Keeps zz s) (n b : Nat) : Keeps zz (State.outEdge s n b) := by
  unfold State.outEdge
  repeat' first
    | (intro _; intros; try dsimp -zeta only)
    | with_reducible exact Keeps.refl _
    | with_reducible assumption
    | with_reducible apply State.pulseEdge_keeps
    | with_reducible apply State.clockEdge_keeps
    | with_reducible apply Keeps.ite
    | split

theorem State.outAlign_keeps {zz s : State} (h : Keeps zz s) (mask : Nat) : Keeps zz (State.outAlign s mask) := by
  unfold State.outAlign
  repeat' first
    | (intro _; intros; try dsimp -zeta only)
    | with_reducible exact Keeps.refl _
    | with_reducible assumption
    | with_reducible apply State.set_keeps
    | with_reducible apply State.onOuts_keeps
    | with_reducible apply Keeps.forEach
    | with_reducible apply Keeps.ite
    | (extract_lets +onlyGivenNames u; have hu : Keeps zz u := ?_; clear_value u)
    | (extract_lets +onlyGivenNames u; have hu : Keeps zz u.1 := ?_; clear_value u)
    | (extract_lets +onlyGivenNames u; have hu : Keeps zz u.2 := ?_; clear_value u)
    | (extract_lets +onlyGivenNames u; clear_value u)
    | dsimp only [u]
    | split

theorem State.alignBoundary_keeps {zz s : State} (h : Keeps zz s) : Keeps zz (State.alignBoundary s) := by
  unfold State.alignBoundary
  repeat' first
    | (intro _; intros; try dsimp -zeta only)
    | with_reducible exact Keeps.refl _
    | with_reducible assumption
    | with_reducible apply Keeps.forEach
    | with_reducible apply State.set_keeps
    | with_reducible apply State.setMisalign_keeps
    | with_reducible apply State.event_keeps
    | with_reducible apply Keeps.ite
    | (extract_lets +onlyGivenNames u; have hu : Keeps zz u := ?_; clear_value u)
    | (extract_lets +onlyGivenNames u; have hu : Keeps zz u.1 := ?_; clear_value u)
    | (extract_lets +onlyGivenNames u; have hu : Keeps zz u.2 := ?_; clear_value u)
    | (extract_lets +onlyGivenNames u; clear_value u)
    | dsimp only [u]
    | split

theorem State.outBoundary_keeps {zz s : State} (h : Keeps zz s) : Keeps zz (State.outBoundary s) := by
  unfold State.outBoundary
  repeat' first
    | (intro _; intros; try dsimp -zeta only)
    | with_reducible exact Keeps.refl _
    | with_reducible assumption
    | with_reducible apply Keeps.forEach
    | with_reducible apply State.setOutp_keeps
    | with_reducible apply Keeps.ite
    | (extract_lets +onlyGivenNames u; have hu : Keeps zz u := ?_; clear_value u)
    | (extract_lets +onlyGivenNames u; have hu : Keeps zz u.1 := ?_; clear_value u)
    | (extract_lets +onlyGivenNames u; have hu : Keeps zz u.2 := ?_; clear_value u)
    | (extract_lets +onlyGivenNames u; clear_value u)
    | dsimp only [u]
    | split

theorem State.stopOutputs_keeps {zz s : State} (h : Keeps zz s) : Keeps zz (State.stopOutputs s) := by
  unfold State.stopOutputs
  repeat' first
    | (intro _; intros; try dsimp -zeta only)
    | with_reducible exact Keeps.refl _
    | with_reducible assumption
    | with_reducible apply State.onOuts_keeps
    | with_reducible apply Keeps.ite
    | split

theorem State.showTod_keeps {zz s : State} (h : Keeps zz s) : Keeps zz (State.showTod s) := by
  unfold State.showTod
  repeat' first
    | (intro _; intros; try dsimp -zeta only)
    | with_reducible exact Keeps.refl _
    | with_reducible assumption
    | with_reducible apply Keeps.forEach
    | with_reducible apply State.setb_keeps
    | with_reducible apply Keeps.ite
    | split

theorem State.todMessage_keeps {zz s : State} (h : Keeps zz s) (k n sec : Nat) : Keeps zz (State.todMessage s k n sec) := by
  unfold State.todMessage
  repeat' first
    | (intro _; intros; try dsimp -zeta only)
    | with_reducible exact Keeps.refl _
    | with_reducible assumption
    | with_reducible apply State.onOuts_keeps
    | with_reducible apply State.set_keeps
    | with_reducible apply State.emit_keeps
    | with_reducible apply Keeps.ite
    | (extract_lets +onlyGivenNames u; have hu : Keeps zz u := ?_; clear_value u)
    | (extract_lets +onlyGivenNames u; have hu : Keeps zz u.1 := ?_; clear_value u)
    | (extract_lets +onlyGivenNames u; have hu : Keeps zz u.2 := ?_; clear_value u)
    | (extract_lets +onlyGivenNames u; clear_value u)
    | dsimp only [u]
    | split

theorem State.todSend_keeps {zz s : State} (h : Keeps zz s) (k : Nat) : Keeps zz (State.todSend s k) := by
  unfold State.todSend
  repeat' first
    | (intro _; intros; try dsimp -zeta only)
    | with_reducible exact Keeps.refl _
    | with_reducible assumption
    | with_reducible refine State.reachTick_keeps ?_ (by assumption)
    | with_reducible apply State.todMessage_keeps
    | with_reducible apply Keeps.ite
    | (extract_lets +onlyGivenNames u; have hu : Keeps zz u := ?_; clear_value u)
    | (extract_lets +onlyGivenNames u; have hu : Keeps zz u.1 := ?_; clear_value u)
    | (extract_lets +onlyGivenNames u; have hu : Keeps zz u.2 := ?_; clear_value u)
    | (extract_lets +onlyGivenNames u; clear_value u)
    | dsimp only [u]
    | split

end Sys2Proof.Machine
end

