-- ==== Sys2Proof/Laws/Keep/Mac.lean ====
section
/-! SUPPORT. Sys2Proof/Machine/Mac.lean keeps the queue and the canonical forms. -/
namespace Sys2Proof.Machine

theorem State.setPort_keeps {zz s : State} (h : Keeps zz s) (p : Nat) (x : Port) : Keeps zz (State.setPort s p x) := by
  unfold State.setPort
  repeat' first
    | (intro _; intros; try dsimp -zeta only)
    | with_reducible exact Keeps.refl _
    | with_reducible assumption
    | with_reducible apply State.onMac_keeps
    | with_reducible apply State.set_keeps
    | with_reducible apply Keeps.ite
    | split

theorem State.onPort_keeps {zz s : State} (h : Keeps zz s) (p : Nat) (f : Port → Port) : Keeps zz (State.onPort s p f) := by
  unfold State.onPort
  repeat' first
    | (intro _; intros; try dsimp -zeta only)
    | with_reducible exact Keeps.refl _
    | with_reducible assumption
    | with_reducible apply State.setPort_keeps
    | with_reducible apply Keeps.ite
    | split

theorem State.satBit_keeps {zz s : State} (h : Keeps zz s) (p c : Nat) : Keeps zz (State.satBit s p c) := by
  unfold State.satBit
  repeat' first
    | (intro _; intros; try dsimp -zeta only)
    | with_reducible exact Keeps.refl _
    | with_reducible assumption
    | with_reducible apply State.set_keeps
    | with_reducible apply State.event_keeps
    | with_reducible apply Keeps.ite
    | (extract_lets +onlyGivenNames u; have hu : Keeps zz u := ?_; clear_value u)
    | (extract_lets +onlyGivenNames u; have hu : Keeps zz u.1 := ?_; clear_value u)
    | (extract_lets +onlyGivenNames u; have hu : Keeps zz u.2 := ?_; clear_value u)
    | (extract_lets +onlyGivenNames u; clear_value u)
    | dsimp only [u]
    | split

theorem State.count_keeps {zz s : State} (h : Keeps zz s) (p c n : Nat) : Keeps zz (State.count s p c n) := by
  unfold State.count
  repeat' first
    | (intro _; intros; try dsimp -zeta only)
    | with_reducible exact Keeps.refl _
    | with_reducible assumption
    | with_reducible apply State.onMac_keeps
    | with_reducible apply State.set_keeps
    | with_reducible apply State.portEv_keeps
    | with_reducible apply State.satBit_keeps
    | with_reducible apply Keeps.ite
    | (extract_lets +onlyGivenNames u; have hu : Keeps zz u := ?_; clear_value u)
    | (extract_lets +onlyGivenNames u; have hu : Keeps zz u.1 := ?_; clear_value u)
    | (extract_lets +onlyGivenNames u; have hu : Keeps zz u.2 := ?_; clear_value u)
    | (extract_lets +onlyGivenNames u; clear_value u)
    | dsimp only [u]
    | split

theorem State.readCounter_keeps {zz s : State} (h : Keeps zz s) (p c : Nat) : Keeps zz (State.readCounter s p c) := by
  unfold State.readCounter
  repeat' first
    | (intro _; intros; try dsimp -zeta only)
    | with_reducible exact Keeps.refl _
    | with_reducible assumption
    | with_reducible apply State.set_keeps
    | with_reducible apply State.onMac_keeps
    | with_reducible apply Keeps.ite
    | (extract_lets +onlyGivenNames u; have hu : Keeps zz u := ?_; clear_value u)
    | (extract_lets +onlyGivenNames u; have hu : Keeps zz u.1 := ?_; clear_value u)
    | (extract_lets +onlyGivenNames u; have hu : Keeps zz u.2 := ?_; clear_value u)
    | (extract_lets +onlyGivenNames u; clear_value u)
    | dsimp only [u]
    | split

theorem State.dropKe_keeps {zz s : State} (h : Keeps zz s) (p : Nat) : Keeps zz (State.dropKe s p) := by
  unfold State.dropKe
  repeat' first
    | (intro _; intros; try dsimp -zeta only)
    | with_reducible exact Keeps.refl _
    | with_reducible assumption
    | with_reducible apply State.onNtp_keeps
    | with_reducible apply State.bump_keeps
    | with_reducible apply State.setSat_keeps
    | with_reducible apply Keeps.ite
    | (extract_lets +onlyGivenNames u; have hu : Keeps zz u := ?_; clear_value u)
    | (extract_lets +onlyGivenNames u; have hu : Keeps zz u.1 := ?_; clear_value u)
    | (extract_lets +onlyGivenNames u; have hu : Keeps zz u.2 := ?_; clear_value u)
    | (extract_lets +onlyGivenNames u; clear_value u)
    | dsimp only [u]
    | split

theorem State.updateGates_keeps {zz s : State} (h : Keeps zz s) : Keeps zz (State.updateGates s) := by
  unfold State.updateGates
  repeat' first
    | (intro _; intros; try dsimp -zeta only)
    | with_reducible exact Keeps.refl _
    | with_reducible assumption
    | with_reducible apply Keeps.forEach
    | with_reducible apply State.setb_keeps
    | with_reducible apply State.set_keeps
    | with_reducible apply State.onPort_keeps
    | with_reducible apply State.dropKe_keeps
    | with_reducible apply Keeps.ite
    | (extract_lets +onlyGivenNames u; have hu : Keeps zz u := ?_; clear_value u)
    | (extract_lets +onlyGivenNames u; have hu : Keeps zz u.1 := ?_; clear_value u)
    | (extract_lets +onlyGivenNames u; have hu : Keeps zz u.2 := ?_; clear_value u)
    | (extract_lets +onlyGivenNames u; clear_value u)
    | dsimp only [u]
    | split

theorem State.showTsHead_keeps {zz s : State} (h : Keeps zz s) (p : Nat) : Keeps zz (State.showTsHead s p) := by
  unfold State.showTsHead
  repeat' first
    | (intro _; intros; try dsimp -zeta only)
    | with_reducible exact Keeps.refl _
    | with_reducible assumption
    | with_reducible apply State.set_keeps
    | with_reducible apply State.setTs_keeps
    | with_reducible apply State.notSent_keeps
    | with_reducible apply State.underrun_keeps
    | with_reducible apply Keeps.ite
    | (extract_lets +onlyGivenNames u; have hu : Keeps zz u := ?_; clear_value u)
    | (extract_lets +onlyGivenNames u; have hu : Keeps zz u.1 := ?_; clear_value u)
    | (extract_lets +onlyGivenNames u; have hu : Keeps zz u.2 := ?_; clear_value u)
    | (extract_lets +onlyGivenNames u; clear_value u)
    | dsimp only [u]
    | split

theorem State.tsRecord_keeps {zz s : State} (h : Keeps zz s) (p : Nat) (r : TsRecord) : Keeps zz (State.tsRecord s p r) := by
  unfold State.tsRecord
  repeat' first
    | (intro _; intros; try dsimp -zeta only)
    | with_reducible exact Keeps.refl _
    | with_reducible assumption
    | with_reducible apply State.onTs_keeps
    | with_reducible apply State.set_keeps
    | with_reducible apply State.bump_keeps
    | with_reducible apply State.noteSec_keeps
    | with_reducible apply State.showTsHead_keeps
    | with_reducible apply Keeps.ite
    | (extract_lets +onlyGivenNames u; have hu : Keeps zz u := ?_; clear_value u)
    | (extract_lets +onlyGivenNames u; have hu : Keeps zz u.1 := ?_; clear_value u)
    | (extract_lets +onlyGivenNames u; have hu : Keeps zz u.2 := ?_; clear_value u)
    | (extract_lets +onlyGivenNames u; clear_value u)
    | dsimp only [u]
    | split

theorem State.tsPop_keeps {zz s : State} (h : Keeps zz s) (p : Nat) : Keeps zz (State.tsPop s p) := by
  unfold State.tsPop
  repeat' first
    | (intro _; intros; try dsimp -zeta only)
    | with_reducible exact Keeps.refl _
    | with_reducible assumption
    | with_reducible apply State.onTs_keeps
    | with_reducible apply State.set_keeps
    | with_reducible apply State.showTsHead_keeps
    | with_reducible apply Keeps.ite
    | split

theorem State.lpiExit_keeps {zz s : State} (h : Keeps zz s) (p : Nat) : Keeps zz (State.lpiExit s p) := by
  unfold State.lpiExit
  repeat' first
    | (intro _; intros; try dsimp -zeta only)
    | with_reducible exact Keeps.refl _
    | with_reducible assumption
    | with_reducible apply State.count_keeps
    | with_reducible apply State.set_keeps
    | with_reducible apply State.onPort_keeps
    | with_reducible apply Keeps.ite
    | (extract_lets +onlyGivenNames u; have hu : Keeps zz u := ?_; clear_value u)
    | (extract_lets +onlyGivenNames u; have hu : Keeps zz u.1 := ?_; clear_value u)
    | (extract_lets +onlyGivenNames u; have hu : Keeps zz u.2 := ?_; clear_value u)
    | (extract_lets +onlyGivenNames u; clear_value u)
    | dsimp only [u]
    | split

theorem State.rxLpiExit_keeps {zz s : State} (h : Keeps zz s) (p : Nat) : Keeps zz (State.rxLpiExit s p) := by
  unfold State.rxLpiExit
  repeat' first
    | (intro _; intros; try dsimp -zeta only)
    | with_reducible exact Keeps.refl _
    | with_reducible assumption
    | with_reducible apply State.count_keeps
    | with_reducible apply State.set_keeps
    | with_reducible apply Keeps.ite
    | split

theorem State.notSent_keeps {zz s : State} (h : Keeps zz s) (p : Nat) (f : TxFrame) : Keeps zz (State.notSent s p f) := by
  unfold State.notSent
  repeat' first
    | (intro _; intros; try dsimp -zeta only)
    | with_reducible exact Keeps.refl _
    | with_reducible assumption
    | with_reducible apply State.tsRecord_keeps
    | with_reducible apply Keeps.ite
    | split

theorem State.wasteRest_keeps {zz s : State} (h : Keeps zz s) (p : Nat) (f : TxFrame) : Keeps zz (State.wasteRest s p f) := by
  unfold State.wasteRest
  repeat' first
    | (intro _; intros; try dsimp -zeta only)
    | with_reducible exact Keeps.refl _
    | with_reducible assumption
    | with_reducible apply State.onMac_keeps
    | with_reducible apply Keeps.ite
    | split

theorem State.frameSent_keeps {zz s : State} (h : Keeps zz s) (p : Nat) (x : InTx) : Keeps zz (State.frameSent s p x) := by
  unfold State.frameSent
  repeat' first
    | (intro _; intros; try dsimp -zeta only)
    | with_reducible exact Keeps.refl _
    | with_reducible assumption
    | with_reducible apply State.count_keeps
    | with_reducible apply State.tsRecord_keeps
    | with_reducible apply State.emit_keeps
    | with_reducible apply Keeps.getD
    | with_reducible apply Keeps.ite
    | (extract_lets +onlyGivenNames u; have hu : Keeps zz u := ?_; clear_value u)
    | (extract_lets +onlyGivenNames u; have hu : Keeps zz u.1 := ?_; clear_value u)
    | (extract_lets +onlyGivenNames u; have hu : Keeps zz u.2 := ?_; clear_value u)
    | (extract_lets +onlyGivenNames u; clear_value u)
    | dsimp only [u]
    | split

theorem State.settle_keeps {zz s : State} (h : Keeps zz s) (p : Nat) : Keeps zz (State.settle s p) := by
  unfold State.settle
  repeat' first
    | (intro _; intros; try dsimp -zeta only)
    | with_reducible exact Keeps.refl _
    | with_reducible assumption
    | with_reducible apply State.frameSent_keeps
    | with_reducible apply State.onPort_keeps
    | with_reducible apply Keeps.foldl
    | with_reducible apply Keeps.foldl_fst
    | with_reducible apply Keeps.ite
    | (extract_lets +onlyGivenNames u; have hu : Keeps zz u := ?_; clear_value u)
    | (extract_lets +onlyGivenNames u; have hu : Keeps zz u.1 := ?_; clear_value u)
    | (extract_lets +onlyGivenNames u; have hu : Keeps zz u.2 := ?_; clear_value u)
    | (extract_lets +onlyGivenNames u; clear_value u)
    | dsimp only [u]
    | split

theorem State.cutFrame_keeps {zz s : State} (h : Keeps zz s) (p : Nat) (x : InTx) : Keeps zz (State.cutFrame s p x) := by
  unfold State.cutFrame
  repeat' first
    | (intro _; intros; try dsimp -zeta only)
    | with_reducible exact Keeps.refl _
    | with_reducible assumption
    | with_reducible apply State.count_keeps
    | with_reducible apply State.wasteRest_keeps
    | with_reducible apply State.tsRecord_keeps
    | with_reducible apply State.notSent_keeps
    | with_reducible apply Keeps.ite
    | (extract_lets +onlyGivenNames u; have hu : Keeps zz u := ?_; clear_value u)
    | (extract_lets +onlyGivenNames u; have hu : Keeps zz u.1 := ?_; clear_value u)
    | (extract_lets +onlyGivenNames u; have hu : Keeps zz u.2 := ?_; clear_value u)
    | (extract_lets +onlyGivenNames u; clear_value u)
    | dsimp only [u]
    | split

theorem State.cutInTx_keeps {zz s : State} (h : Keeps zz s) (p : Nat) : Keeps zz (State.cutInTx s p) := by
  unfold State.cutInTx
  repeat' first
    | (intro _; intros; try dsimp -zeta only)
    | with_reducible exact Keeps.refl _
    | with_reducible assumption
    | with_reducible apply State.settle_keeps
    | with_reducible apply State.cutFrame_keeps
    | with_reducible apply State.onPort_keeps
    | with_reducible apply Keeps.foldl
    | with_reducible apply Keeps.foldl_fst
    | with_reducible apply Keeps.ite
    | (extract_lets +onlyGivenNames u; have hu : Keeps zz u := ?_; clear_value u)
    | (extract_lets +onlyGivenNames u; have hu : Keeps zz u.1 := ?_; clear_value u)
    | (extract_lets +onlyGivenNames u; have hu : Keeps zz u.2 := ?_; clear_value u)
    | (extract_lets +onlyGivenNames u; clear_value u)
    | dsimp only [u]
    | split

theorem State.localFault_keeps {zz s : State} (h : Keeps zz s) (p : Nat) (on : Bool) : Keeps zz (State.localFault s p on) := by
  unfold State.localFault
  repeat' first
    | (intro _; intros; try dsimp -zeta only)
    | with_reducible exact Keeps.refl _
    | with_reducible assumption
    | with_reducible apply State.setb_keeps
    | with_reducible apply State.emit_keeps
    | with_reducible apply State.remoteFault_keeps
    | with_reducible apply Keeps.ite
    | split

theorem State.portDown_keeps {zz s : State} (h : Keeps zz s) (p reason : Nat) : Keeps zz (State.portDown s p reason) := by
  unfold State.portDown
  repeat' first
    | (intro _; intros; try dsimp -zeta only)
    | with_reducible exact Keeps.refl _
    | with_reducible assumption
    | with_reducible apply State.cutInTx_keeps
    | with_reducible apply State.lpiExit_keeps
    | with_reducible apply State.rxLpiExit_keeps
    | with_reducible apply State.set_keeps
    | with_reducible apply State.count_keeps
    | with_reducible apply State.onTs_keeps
    | with_reducible apply State.onPort_keeps
    | with_reducible apply State.raiseCond_keeps
    | (apply SMap.wf_setMany; assumption)
    | (apply SMap.wf_clearRange; assumption)
    | with_reducible apply Keeps.ite
    | (extract_lets +onlyGivenNames u; have hu : Keeps zz u := ?_; clear_value u)
    | (extract_lets +onlyGivenNames u; have hu : Keeps zz u.1 := ?_; clear_value u)
    | (extract_lets +onlyGivenNames u; have hu : Keeps zz u.2 := ?_; clear_value u)
    | (extract_lets +onlyGivenNames u; clear_value u)
    | dsimp only [u]
    | split

theorem State.signalDetect_keeps {zz s : State} (h : Keeps zz s) (p : Nat) : Keeps zz (State.signalDetect s p) := by
  unfold State.signalDetect
  repeat' first
    | (intro _; intros; try dsimp -zeta only)
    | with_reducible exact Keeps.refl _
    | with_reducible assumption
    | with_reducible apply State.localFault_keeps
    | with_reducible apply State.set_keeps
    | with_reducible apply State.onPort_keeps
    | with_reducible apply Keeps.ite
    | split

theorem State.portRise_keeps {zz s : State} (h : Keeps zz s) (p : Nat) : Keeps zz (State.portRise s p) := by
  unfold State.portRise
  repeat' first
    | (intro _; intros; try dsimp -zeta only)
    | with_reducible exact Keeps.refl _
    | with_reducible assumption
    | with_reducible refine State.reachTick_keeps ?_ (by assumption)
    | with_reducible apply State.onTs_keeps
    | with_reducible apply State.onPort_keeps
    | with_reducible apply State.set_keeps
    | with_reducible apply State.event_keeps
    | with_reducible apply State.clearCond_keeps
    | (apply SMap.wf_setMany; assumption)
    | (apply SMap.wf_clearRange; assumption)
    | with_reducible apply Keeps.ite
    | (extract_lets +onlyGivenNames u; have hu : Keeps zz u := ?_; clear_value u)
    | (extract_lets +onlyGivenNames u; have hu : Keeps zz u.1 := ?_; clear_value u)
    | (extract_lets +onlyGivenNames u; have hu : Keeps zz u.2 := ?_; clear_value u)
    | (extract_lets +onlyGivenNames u; clear_value u)
    | dsimp only [u]
    | split

theorem State.portFall_keeps {zz s : State} (h : Keeps zz s) (p reason : Nat) : Keeps zz (State.portFall s p reason) := by
  unfold State.portFall
  repeat' first
    | (intro _; intros; try dsimp -zeta only)
    | with_reducible exact Keeps.refl _
    | with_reducible assumption
    | with_reducible apply State.localFault_keeps
    | with_reducible apply State.portDown_keeps
    | with_reducible apply State.set_keeps
    | with_reducible apply Keeps.ite
    | (extract_lets +onlyGivenNames u; have hu : Keeps zz u := ?_; clear_value u)
    | (extract_lets +onlyGivenNames u; have hu : Keeps zz u.1 := ?_; clear_value u)
    | (extract_lets +onlyGivenNames u; have hu : Keeps zz u.2 := ?_; clear_value u)
    | (extract_lets +onlyGivenNames u; clear_value u)
    | dsimp only [u]
    | split

theorem State.remoteFault_keeps {zz s : State} (h : Keeps zz s) (p : Nat) (on : Bool) : Keeps zz (State.remoteFault s p on) := by
  unfold State.remoteFault
  repeat' first
    | (intro _; intros; try dsimp -zeta only)
    | with_reducible exact Keeps.refl _
    | with_reducible assumption
    | with_reducible apply State.setb_keeps
    | with_reducible apply Keeps.ite
    | split

theorem State.quadFault_keeps {zz s : State} (h : Keeps zz s) (q cause : Nat) : Keeps zz (State.quadFault s q cause) := by
  unfold State.quadFault
  repeat' first
    | (intro _; intros; try dsimp -zeta only)
    | with_reducible exact Keeps.refl _
    | with_reducible assumption
    | with_reducible apply State.set_keeps
    | with_reducible apply State.onMac_keeps
    | with_reducible apply Keeps.forEach
    | with_reducible apply State.portDown_keeps
    | with_reducible apply State.raiseCond_keeps
    | with_reducible apply Keeps.ite
    | (extract_lets +onlyGivenNames u; have hu : Keeps zz u := ?_; clear_value u)
    | (extract_lets +onlyGivenNames u; have hu : Keeps zz u.1 := ?_; clear_value u)
    | (extract_lets +onlyGivenNames u; have hu : Keeps zz u.2 := ?_; clear_value u)
    | (extract_lets +onlyGivenNames u; clear_value u)
    | dsimp only [u]
    | split

theorem State.quadRetry_keeps {zz s : State} (h : Keeps zz s) (q : Nat) (lock refclk : Bool) : Keeps zz (State.quadRetry s q lock refclk) := by
  unfold State.quadRetry
  repeat' first
    | (intro _; intros; try dsimp -zeta only)
    | with_reducible exact Keeps.refl _
    | with_reducible assumption
    | with_reducible refine State.reachTick_keeps ?_ (by assumption)
    | with_reducible apply State.setb_keeps
    | with_reducible apply State.onMac_keeps
    | with_reducible apply State.set_keeps
    | with_reducible apply Keeps.ite
    | (extract_lets +onlyGivenNames u; have hu : Keeps zz u := ?_; clear_value u)
    | (extract_lets +onlyGivenNames u; have hu : Keeps zz u.1 := ?_; clear_value u)
    | (extract_lets +onlyGivenNames u; have hu : Keeps zz u.2 := ?_; clear_value u)
    | (extract_lets +onlyGivenNames u; clear_value u)
    | dsimp only [u]
    | split

theorem State.quadClear_keeps {zz s : State} (h : Keeps zz s) (q : Nat) : Keeps zz (State.quadClear s q) := by
  unfold State.quadClear
  repeat' first
    | (intro _; intros; try dsimp -zeta only)
    | with_reducible exact Keeps.refl _
    | with_reducible assumption
    | with_reducible refine State.reachTick_keeps ?_ (by assumption)
    | with_reducible apply State.set_keeps
    | with_reducible apply State.queueEvent_keeps
    | with_reducible apply State.clearCond_keeps
    | with_reducible apply Keeps.ite
    | (extract_lets +onlyGivenNames u; have hu : Keeps zz u := ?_; clear_value u)
    | (extract_lets +onlyGivenNames u; have hu : Keeps zz u.1 := ?_; clear_value u)
    | (extract_lets +onlyGivenNames u; have hu : Keeps zz u.2 := ?_; clear_value u)
    | (extract_lets +onlyGivenNames u; clear_value u)
    | dsimp only [u]
    | split

theorem State.accountPause_keeps {zz s : State} (h : Keeps zz s) (p : Nat) (upto : Nat) : Keeps zz (State.accountPause s p upto) := by
  unfold State.accountPause
  repeat' first
    | (intro _; intros; try dsimp -zeta only)
    | with_reducible exact Keeps.refl _
    | with_reducible assumption
    | with_reducible apply State.count_keeps
    | with_reducible apply State.onPort_keeps
    | with_reducible apply Keeps.ite
    | (extract_lets +onlyGivenNames u; have hu : Keeps zz u := ?_; clear_value u)
    | (extract_lets +onlyGivenNames u; have hu : Keeps zz u.1 := ?_; clear_value u)
    | (extract_lets +onlyGivenNames u; have hu : Keeps zz u.2 := ?_; clear_value u)
    | (extract_lets +onlyGivenNames u; clear_value u)
    | dsimp only [u]
    | split

theorem State.pauseClear_keeps {zz s : State} (h : Keeps zz s) (p : Nat) : Keeps zz (State.pauseClear s p) := by
  unfold State.pauseClear
  repeat' first
    | (intro _; intros; try dsimp -zeta only)
    | with_reducible exact Keeps.refl _
    | with_reducible assumption
    | with_reducible apply State.set_keeps
    | with_reducible apply State.onPort_keeps
    | with_reducible apply Keeps.ite
    | split

theorem State.pauseOver_keeps {zz s : State} (h : Keeps zz s) (p : Nat) : Keeps zz (State.pauseOver s p) := by
  unfold State.pauseOver
  repeat' first
    | (intro _; intros; try dsimp -zeta only)
    | with_reducible exact Keeps.refl _
    | with_reducible assumption
    | with_reducible refine State.reachTick_keeps ?_ (by assumption)
    | with_reducible apply State.accountPause_keeps
    | with_reducible apply State.pauseClear_keeps
    | with_reducible apply Keeps.ite
    | split

theorem State.freshPause_keeps {zz s : State} (h : Keeps zz s) (p : Nat) : Keeps zz (State.freshPause s p) := by
  unfold State.freshPause
  repeat' first
    | (intro _; intros; try dsimp -zeta only)
    | with_reducible exact Keeps.refl _
    | with_reducible assumption
    | with_reducible apply State.accountPause_keeps
    | with_reducible apply State.setSat_keeps
    | with_reducible apply State.pauseClear_keeps
    | with_reducible apply Keeps.ite
    | (extract_lets +onlyGivenNames u; have hu : Keeps zz u := ?_; clear_value u)
    | (extract_lets +onlyGivenNames u; have hu : Keeps zz u.1 := ?_; clear_value u)
    | (extract_lets +onlyGivenNames u; have hu : Keeps zz u.2 := ?_; clear_value u)
    | (extract_lets +onlyGivenNames u; clear_value u)
    | dsimp only [u]
    | split

theorem State.freshLpi_keeps {zz s : State} (h : Keeps zz s) (p : Nat) : Keeps zz (State.freshLpi s p) := by
  unfold State.freshLpi
  repeat' first
    | (intro _; intros; try dsimp -zeta only)
    | with_reducible exact Keeps.refl _
    | with_reducible assumption
    | with_reducible apply State.lpiExit_keeps
    | with_reducible apply State.count_keeps
    | with_reducible apply State.onPort_keeps
    | with_reducible apply Keeps.ite
    | (extract_lets +onlyGivenNames u; have hu : Keeps zz u := ?_; clear_value u)
    | (extract_lets +onlyGivenNames u; have hu : Keeps zz u.1 := ?_; clear_value u)
    | (extract_lets +onlyGivenNames u; have hu : Keeps zz u.2 := ?_; clear_value u)
    | (extract_lets +onlyGivenNames u; clear_value u)
    | dsimp only [u]
    | split

theorem State.portNow_keeps {zz s : State} (h : Keeps zz s) (p : Nat) : Keeps zz (State.portNow s p) := by
  unfold State.portNow
  repeat' first
    | (intro _; intros; try dsimp -zeta only)
    | with_reducible exact Keeps.refl _
    | with_reducible assumption
    | with_reducible apply State.settle_keeps
    | with_reducible apply State.freshPause_keeps
    | with_reducible apply State.freshLpi_keeps
    | with_reducible apply Keeps.ite
    | split

theorem State.pause_keeps {zz s : State} (h : Keeps zz s) (p quanta : Nat) : Keeps zz (State.pause s p quanta) := by
  unfold State.pause
  repeat' first
    | (intro _; intros; try dsimp -zeta only)
    | with_reducible exact Keeps.refl _
    | with_reducible assumption
    | with_reducible apply State.count_keeps
    | with_reducible apply State.accountPause_keeps
    | with_reducible apply State.pauseClear_keeps
    | with_reducible apply State.set_keeps
    | with_reducible apply State.onPort_keeps
    | with_reducible apply Keeps.ite
    | (extract_lets +onlyGivenNames u; have hu : Keeps zz u := ?_; clear_value u)
    | (extract_lets +onlyGivenNames u; have hu : Keeps zz u.1 := ?_; clear_value u)
    | (extract_lets +onlyGivenNames u; have hu : Keeps zz u.2 := ?_; clear_value u)
    | (extract_lets +onlyGivenNames u; clear_value u)
    | dsimp only [u]
    | split

theorem State.macControl_keeps {zz s : State} (h : Keeps zz s) (p : Nat) (bs : List Byte) (h : L2) : Keeps zz (State.macControl s p bs h) := by
  unfold State.macControl
  repeat' first
    | (intro _; intros; try dsimp -zeta only)
    | with_reducible exact Keeps.refl _
    | with_reducible assumption
    | with_reducible apply State.pause_keeps
    | with_reducible apply State.count_keeps
    | with_reducible apply Keeps.ite
    | split

theorem State.rxQueue_keeps {zz s : State} (h : Keeps zz s) (p rq : Nat) (f : RxFrame) : Keeps zz (State.rxQueue s p rq f) := by
  unfold State.rxQueue
  repeat' first
    | (intro _; intros; try dsimp -zeta only)
    | with_reducible exact Keeps.refl _
    | with_reducible assumption
    | with_reducible apply State.count_keeps
    | with_reducible apply State.onMac_keeps
    | with_reducible apply State.set_keeps
    | with_reducible apply State.onPort_keeps
    | with_reducible apply Keeps.ite
    | (extract_lets +onlyGivenNames u; have hu : Keeps zz u := ?_; clear_value u)
    | (extract_lets +onlyGivenNames u; have hu : Keeps zz u.1 := ?_; clear_value u)
    | (extract_lets +onlyGivenNames u; have hu : Keeps zz u.2 := ?_; clear_value u)
    | (extract_lets +onlyGivenNames u; clear_value u)
    | dsimp only [u]
    | split

theorem State.rxAccept_keeps {zz s : State} (h : Keeps zz s) (p : Nat) (f : RxIn) (h : L2) : Keeps zz (State.rxAccept s p f h) := by
  unfold State.rxAccept
  repeat' first
    | (intro _; intros; try dsimp -zeta only)
    | with_reducible exact Keeps.refl _
    | with_reducible assumption
    | with_reducible apply State.count_keeps
    | with_reducible apply State.portEv_keeps
    | with_reducible apply State.rxQueue_keeps
    | with_reducible apply Keeps.getD
    | with_reducible apply Keeps.ite
    | (extract_lets +onlyGivenNames u; have hu : Keeps zz u := ?_; clear_value u)
    | (extract_lets +onlyGivenNames u; have hu : Keeps zz u.1 := ?_; clear_value u)
    | (extract_lets +onlyGivenNames u; have hu : Keeps zz u.2 := ?_; clear_value u)
    | (extract_lets +onlyGivenNames u; clear_value u)
    | dsimp only [u]
    | split

theorem State.rxFrame_keeps {zz s : State} (h : Keeps zz s) (p : Nat) (f : RxIn) : Keeps zz (State.rxFrame s p f) := by
  unfold State.rxFrame
  repeat' first
    | (intro _; intros; try dsimp -zeta only)
    | with_reducible exact Keeps.refl _
    | with_reducible assumption
    | with_reducible apply State.count_keeps
    | with_reducible apply State.macControl_keeps
    | with_reducible apply State.rxAccept_keeps
    | with_reducible apply Keeps.ite
    | (extract_lets +onlyGivenNames u; have hu : Keeps zz u := ?_; clear_value u)
    | (extract_lets +onlyGivenNames u; have hu : Keeps zz u.1 := ?_; clear_value u)
    | (extract_lets +onlyGivenNames u; have hu : Keeps zz u.2 := ?_; clear_value u)
    | (extract_lets +onlyGivenNames u; clear_value u)
    | dsimp only [u]
    | split

theorem State.thrReset_keeps {zz s : State} (h : Keeps zz s) (p : Nat) : Keeps zz (State.thrReset s p) := by
  unfold State.thrReset
  repeat' first
    | (intro _; intros; try dsimp -zeta only)
    | with_reducible exact Keeps.refl _
    | with_reducible assumption
    | with_reducible apply State.set_keeps
    | with_reducible apply State.event_keeps
    | with_reducible apply Keeps.ite
    | (extract_lets +onlyGivenNames u; have hu : Keeps zz u := ?_; clear_value u)
    | (extract_lets +onlyGivenNames u; have hu : Keeps zz u.1 := ?_; clear_value u)
    | (extract_lets +onlyGivenNames u; have hu : Keeps zz u.2 := ?_; clear_value u)
    | (extract_lets +onlyGivenNames u; clear_value u)
    | dsimp only [u]
    | split

theorem State.lpiNegotiated_keeps {zz s : State} (h : Keeps zz s) (p tw : Nat) : Keeps zz (State.lpiNegotiated s p tw) := by
  unfold State.lpiNegotiated
  repeat' first
    | (intro _; intros; try dsimp -zeta only)
    | with_reducible exact Keeps.refl _
    | with_reducible assumption
    | with_reducible apply State.set_keeps
    | with_reducible apply State.event_keeps
    | with_reducible apply State.onPort_keeps
    | with_reducible apply Keeps.ite
    | (extract_lets +onlyGivenNames u; have hu : Keeps zz u := ?_; clear_value u)
    | (extract_lets +onlyGivenNames u; have hu : Keeps zz u.1 := ?_; clear_value u)
    | (extract_lets +onlyGivenNames u; have hu : Keeps zz u.2 := ?_; clear_value u)
    | (extract_lets +onlyGivenNames u; clear_value u)
    | dsimp only [u]
    | split

theorem State.idleFor_keeps {z s : State} {p : Nat} {t} (h : Keeps z s) (e : s.idleFor p = some t) : Keeps z t := by
  unfold State.idleFor at e
  obtain ⟨u, hu, rfl⟩ := Option.map_eq_some_iff.mp e
  obtain ⟨v, hv, hu⟩ := Option.bind_eq_some_iff.mp hu
  exact State.portNow_keeps (State.reachTick_keeps (State.reach_keeps h hv) hu) _

theorem State.lpiEnterIf_keeps {zz s : State} (h : Keeps zz s) (p : Nat) (calendar : State → Bool) : Keeps zz (State.lpiEnterIf s p calendar) := by
  unfold State.lpiEnterIf
  repeat' first
    | (intro _; intros; try dsimp -zeta only)
    | with_reducible exact Keeps.refl _
    | with_reducible assumption
    | with_reducible refine State.idleFor_keeps ?_ (by assumption)
    | with_reducible apply State.set_keeps
    | with_reducible apply State.count_keeps
    | with_reducible apply State.onPort_keeps
    | with_reducible apply Keeps.ite
    | split

theorem State.startWake_keeps {zz s : State} (h : Keeps zz s) (p : Nat) : Keeps zz (State.startWake s p) := by
  unfold State.startWake
  repeat' first
    | (intro _; intros; try dsimp -zeta only)
    | with_reducible exact Keeps.refl _
    | with_reducible assumption
    | with_reducible apply State.onPort_keeps
    | with_reducible apply Keeps.ite
    | split

theorem State.lpiOff_keeps {zz s : State} (h : Keeps zz s) (p : Nat) : Keeps zz (State.lpiOff s p) := by
  unfold State.lpiOff
  repeat' first
    | (intro _; intros; try dsimp -zeta only)
    | with_reducible exact Keeps.refl _
    | with_reducible assumption
    | with_reducible apply State.startWake_keeps
    | with_reducible apply State.rxLpiExit_keeps
    | with_reducible apply State.set_keeps
    | with_reducible apply Keeps.ite
    | split

theorem State.rxLpi_keeps {zz s : State} (h : Keeps zz s) (p : Nat) (enter : Bool) : Keeps zz (State.rxLpi s p enter) := by
  unfold State.rxLpi
  repeat' first
    | (intro _; intros; try dsimp -zeta only)
    | with_reducible exact Keeps.refl _
    | with_reducible assumption
    | with_reducible apply State.set_keeps
    | with_reducible apply State.count_keeps
    | with_reducible apply State.onPort_keeps
    | with_reducible apply State.rxLpiExit_keeps
    | with_reducible apply Keeps.ite
    | split

end Sys2Proof.Machine
end

