-- ==== Sys2Proof/Laws/Keep/Launch.lean ====
section
/-! SUPPORT. Sys2Proof/Machine/Launch.lean keeps the queue and the canonical forms. -/
namespace Sys2Proof.Machine

theorem State.setTxq_keeps {zz s : State} (h : Keeps zz s) (p q : Nat) (l : List TxFrame) : Keeps zz (State.setTxq s p q l) := by
  unfold State.setTxq
  repeat' first
    | (intro _; intros; try dsimp -zeta only)
    | with_reducible exact Keeps.refl _
    | with_reducible assumption
    | with_reducible apply State.onMac_keeps
    | with_reducible apply State.set_keeps
    | with_reducible apply State.onPort_keeps
    | with_reducible apply Keeps.ite
    | split

theorem State.setLink_keeps {zz s : State} (h : Keeps zz s) (p l : Nat) (v : Nat × Nat) : Keeps zz (State.setLink s p l v) := by
  unfold State.setLink
  repeat' first
    | (intro _; intros; try dsimp -zeta only)
    | with_reducible exact Keeps.refl _
    | with_reducible assumption
    | with_reducible apply State.onTs_keeps
    | with_reducible apply State.set_keeps
    | with_reducible apply Keeps.ite
    | split

theorem State.neverSent_keeps {zz s : State} (h : Keeps zz s) (p : Nat) (f : TxFrame) : Keeps zz (State.neverSent s p f) := by
  unfold State.neverSent
  repeat' first
    | (intro _; intros; try dsimp -zeta only)
    | with_reducible exact Keeps.refl _
    | with_reducible assumption
    | with_reducible apply State.setLink_keeps
    | with_reducible apply State.notSent_keeps
    | with_reducible apply State.wasteRest_keeps
    | with_reducible apply Keeps.ite
    | (extract_lets +onlyGivenNames u; have hu : Keeps zz u := ?_; clear_value u)
    | (extract_lets +onlyGivenNames u; have hu : Keeps zz u.1 := ?_; clear_value u)
    | (extract_lets +onlyGivenNames u; have hu : Keeps zz u.2 := ?_; clear_value u)
    | (extract_lets +onlyGivenNames u; clear_value u)
    | dsimp only [u]
    | split

theorem State.queueAccept_keeps {zz s : State} (h : Keeps zz s) (src p : Nat) : Keeps zz (State.queueAccept s src p) := by
  unfold State.queueAccept
  repeat' first
    | (intro _; intros; try dsimp -zeta only)
    | with_reducible exact Keeps.refl _
    | with_reducible assumption
    | with_reducible apply State.onFab_keeps
    | with_reducible apply State.set_keeps
    | with_reducible apply State.onMac_keeps
    | with_reducible apply State.onPort_keeps
    | with_reducible apply State.neverSent_keeps
    | with_reducible apply State.setTxq_keeps
    | with_reducible apply State.bump_keeps
    | with_reducible apply State.setLink_keeps
    | with_reducible apply Keeps.ite
    | (extract_lets +onlyGivenNames u; have hu : Keeps zz u := ?_; clear_value u)
    | (extract_lets +onlyGivenNames u; have hu : Keeps zz u.1 := ?_; clear_value u)
    | (extract_lets +onlyGivenNames u; have hu : Keeps zz u.2 := ?_; clear_value u)
    | (extract_lets +onlyGivenNames u; clear_value u)
    | dsimp only [u]
    | split

theorem State.dropHead_keeps {zz s : State} (h : Keeps zz s) (p q : Nat) : Keeps zz (State.dropHead s p q) := by
  unfold State.dropHead
  repeat' first
    | (intro _; intros; try dsimp -zeta only)
    | with_reducible exact Keeps.refl _
    | with_reducible assumption
    | with_reducible apply State.setTxq_keeps
    | with_reducible apply Keeps.ite
    | split

theorem State.countGate_keeps {zz s : State} (h : Keeps zz s) (f : TxFrame) : Keeps zz (State.countGate s f) := by
  unfold State.countGate
  repeat' first
    | (intro _; intros; try dsimp -zeta only)
    | with_reducible exact Keeps.refl _
    | with_reducible assumption
    | with_reducible apply State.perfEv_keeps
    | with_reducible apply State.bump_keeps
    | with_reducible apply Keeps.getD
    | with_reducible apply Keeps.ite
    | split

theorem State.countInsert_keeps {zz s : State} (h : Keeps zz s) (p reason : Nat) : Keeps zz (State.countInsert s p reason) := by
  unfold State.countInsert
  repeat' first
    | (intro _; intros; try dsimp -zeta only)
    | with_reducible exact Keeps.refl _
    | with_reducible assumption
    | with_reducible apply State.portEv_keeps
    | with_reducible apply State.bump_keeps
    | with_reducible apply State.noteSec_keeps
    | with_reducible apply Keeps.ite
    | split

theorem State.commitFrame_keeps {zz s : State} (h : Keeps zz s) (p q : Nat) (f : TxFrame) (tB : Nat) : Keeps zz (State.commitFrame s p q f tB) := by
  unfold State.commitFrame
  repeat' first
    | (intro _; intros; try dsimp -zeta only)
    | with_reducible exact Keeps.refl _
    | with_reducible assumption
    | with_reducible apply State.portEv_keeps
    | with_reducible apply State.onPort_keeps
    | with_reducible apply Keeps.ite
    | (extract_lets +onlyGivenNames u; have hu : Keeps zz u := ?_; clear_value u)
    | (extract_lets +onlyGivenNames u; have hu : Keeps zz u.1 := ?_; clear_value u)
    | (extract_lets +onlyGivenNames u; have hu : Keeps zz u.2 := ?_; clear_value u)
    | (extract_lets +onlyGivenNames u; clear_value u)
    | dsimp only [u]
    | split

theorem State.purgeGrants_keeps {zz s : State} (h : Keeps zz s) (p : Nat) : Keeps zz (State.purgeGrants s p) := by
  unfold State.purgeGrants
  repeat' first
    | (intro _; intros; try dsimp -zeta only)
    | with_reducible exact Keeps.refl _
    | with_reducible assumption
    | with_reducible apply State.onTs_keeps
    | with_reducible apply Keeps.ite
    | split

theorem State.reserve_keeps {zz s : State} (h : Keeps zz s) (p len phase : Nat) : Keeps zz ((State.reserve s p len phase).1) := by
  unfold State.reserve
  repeat' first
    | (intro _; intros; try dsimp -zeta only)
    | with_reducible exact Keeps.refl _
    | with_reducible assumption
    | with_reducible apply State.portNow_keeps
    | with_reducible apply State.purgeGrants_keeps
    | with_reducible apply State.startWake_keeps
    | with_reducible apply State.portEv_keeps
    | with_reducible apply State.onTs_keeps
    | with_reducible apply Keeps.getD
    | with_reducible apply Keeps.ite
    | (extract_lets +onlyGivenNames u; have hu : Keeps zz u := ?_; clear_value u)
    | (extract_lets +onlyGivenNames u; have hu : Keeps zz u.1 := ?_; clear_value u)
    | (extract_lets +onlyGivenNames u; have hu : Keeps zz u.2 := ?_; clear_value u)
    | (extract_lets +onlyGivenNames u; clear_value u)
    | dsimp only [u]
    | split

theorem State.missSlot_keeps {zz s : State} (h : Keeps zz s) (p : Nat) (g : Grant) (found : Option (Nat × TxFrame × List TxFrame)) : Keeps zz (State.missSlot s p g found) := by
  unfold State.missSlot
  repeat' first
    | (intro _; intros; try dsimp -zeta only)
    | with_reducible exact Keeps.refl _
    | with_reducible assumption
    | with_reducible apply State.onTs_keeps
    | with_reducible apply State.setTxq_keeps
    | with_reducible apply State.neverSent_keeps
    | with_reducible apply Keeps.ite
    | (extract_lets +onlyGivenNames u; have hu : Keeps zz u := ?_; clear_value u)
    | (extract_lets +onlyGivenNames u; have hu : Keeps zz u.1 := ?_; clear_value u)
    | (extract_lets +onlyGivenNames u; have hu : Keeps zz u.2 := ?_; clear_value u)
    | (extract_lets +onlyGivenNames u; clear_value u)
    | dsimp only [u]
    | split

theorem State.resvTake_keeps {zz s : State} (h : Keeps zz s) (p : Nat) (g : Grant) : Keeps zz (State.resvTake s p g) := by
  unfold State.resvTake
  repeat' first
    | (intro _; intros; try dsimp -zeta only)
    | with_reducible exact Keeps.refl _
    | with_reducible assumption
    | with_reducible apply State.missSlot_keeps
    | with_reducible apply State.count_keeps
    | with_reducible apply State.countGate_keeps
    | with_reducible apply State.portEv_keeps
    | with_reducible apply State.bump_keeps
    | with_reducible apply State.noteSec_keeps
    | with_reducible apply State.countInsert_keeps
    | with_reducible apply State.setTxq_keeps
    | with_reducible apply State.commitFrame_keeps
    | with_reducible apply Keeps.ite
    | (extract_lets +onlyGivenNames u; have hu : Keeps zz u := ?_; clear_value u)
    | (extract_lets +onlyGivenNames u; have hu : Keeps zz u.1 := ?_; clear_value u)
    | (extract_lets +onlyGivenNames u; have hu : Keeps zz u.2 := ?_; clear_value u)
    | (extract_lets +onlyGivenNames u; clear_value u)
    | dsimp only [u]
    | split

theorem State.resvDue_keeps {zz s : State} (h : Keeps zz s) (p : Nat) : Keeps zz (State.resvDue s p) := by
  unfold State.resvDue
  repeat' first
    | (intro _; intros; try dsimp -zeta only)
    | with_reducible exact Keeps.refl _
    | with_reducible assumption
    | with_reducible apply State.resvTake_keeps
    | with_reducible apply State.purgeGrants_keeps
    | with_reducible apply Keeps.foldl
    | with_reducible apply Keeps.foldl_fst
    | with_reducible apply Keeps.ite
    | (extract_lets +onlyGivenNames u; have hu : Keeps zz u := ?_; clear_value u)
    | (extract_lets +onlyGivenNames u; have hu : Keeps zz u.1 := ?_; clear_value u)
    | (extract_lets +onlyGivenNames u; have hu : Keeps zz u.2 := ?_; clear_value u)
    | (extract_lets +onlyGivenNames u; clear_value u)
    | dsimp only [u]
    | split

theorem State.resvCommit_keeps {zz s : State} (h : Keeps zz s) (p : Nat) : Keeps zz (State.resvCommit s p) := by
  unfold State.resvCommit
  repeat' first
    | (intro _; intros; try dsimp -zeta only)
    | with_reducible exact Keeps.refl _
    | with_reducible assumption
    | with_reducible refine State.reach_keeps ?_ (by assumption)
    | with_reducible apply State.portNow_keeps
    | with_reducible apply State.resvDue_keeps
    | with_reducible apply Keeps.ite
    | split

theorem State.commitHead_keeps {zz s : State} (h : Keeps zz s) (p q : Nat) (f : TxFrame) (phase am : Nat) : Keeps zz (State.commitHead s p q f phase am) := by
  unfold State.commitHead
  repeat' first
    | (intro _; intros; try dsimp -zeta only)
    | with_reducible exact Keeps.refl _
    | with_reducible assumption
    | with_reducible apply State.startWake_keeps
    | with_reducible apply State.dropHead_keeps
    | with_reducible apply State.commitFrame_keeps
    | with_reducible apply State.onTs_keeps
    | with_reducible apply Keeps.ite
    | (extract_lets +onlyGivenNames u; have hu : Keeps zz u := ?_; clear_value u)
    | (extract_lets +onlyGivenNames u; have hu : Keeps zz u.1 := ?_; clear_value u)
    | (extract_lets +onlyGivenNames u; have hu : Keeps zz u.2 := ?_; clear_value u)
    | (extract_lets +onlyGivenNames u; clear_value u)
    | dsimp only [u]
    | split

theorem State.serveHead_keeps {zz s : State} (h : Keeps zz s) (p phase am : Nat) : Keeps zz (State.serveHead s p phase am) := by
  unfold State.serveHead
  repeat' first
    | (intro _; intros; try dsimp -zeta only)
    | with_reducible exact Keeps.refl _
    | with_reducible assumption
    | with_reducible apply State.dropHead_keeps
    | with_reducible apply State.count_keeps
    | with_reducible apply State.neverSent_keeps
    | with_reducible apply State.countGate_keeps
    | with_reducible apply State.countInsert_keeps
    | with_reducible apply State.commitHead_keeps
    | with_reducible apply Keeps.ite
    | (extract_lets +onlyGivenNames u; have hu : Keeps zz u := ?_; clear_value u)
    | (extract_lets +onlyGivenNames u; have hu : Keeps zz u.1 := ?_; clear_value u)
    | (extract_lets +onlyGivenNames u; have hu : Keeps zz u.2 := ?_; clear_value u)
    | (extract_lets +onlyGivenNames u; clear_value u)
    | dsimp only [u]
    | split

theorem State.txCommit_keeps {zz s : State} (h : Keeps zz s) (p phase am : Nat) : Keeps zz (State.txCommit s p phase am) := by
  unfold State.txCommit
  repeat' first
    | (intro _; intros; try dsimp -zeta only)
    | with_reducible exact Keeps.refl _
    | with_reducible assumption
    | with_reducible apply State.portNow_keeps
    | with_reducible apply State.resvDue_keeps
    | with_reducible apply State.serveHead_keeps
    | with_reducible apply Keeps.ite
    | (extract_lets +onlyGivenNames u; have hu : Keeps zz u := ?_; clear_value u)
    | (extract_lets +onlyGivenNames u; have hu : Keeps zz u.1 := ?_; clear_value u)
    | (extract_lets +onlyGivenNames u; have hu : Keeps zz u.2 := ?_; clear_value u)
    | (extract_lets +onlyGivenNames u; clear_value u)
    | dsimp only [u]
    | split

theorem State.linkDiscard_keeps {zz s : State} (h : Keeps zz s) (p q : Nat) : Keeps zz (State.linkDiscard s p q) := by
  unfold State.linkDiscard
  repeat' first
    | (intro _; intros; try dsimp -zeta only)
    | with_reducible exact Keeps.refl _
    | with_reducible assumption
    | with_reducible apply State.settle_keeps
    | with_reducible apply State.dropHead_keeps
    | with_reducible apply State.count_keeps
    | with_reducible apply State.neverSent_keeps
    | with_reducible apply Keeps.ite
    | (extract_lets +onlyGivenNames u; have hu : Keeps zz u := ?_; clear_value u)
    | (extract_lets +onlyGivenNames u; have hu : Keeps zz u.1 := ?_; clear_value u)
    | (extract_lets +onlyGivenNames u; have hu : Keeps zz u.2 := ?_; clear_value u)
    | (extract_lets +onlyGivenNames u; clear_value u)
    | dsimp only [u]
    | split

theorem State.auditCount_keeps {zz s : State} (h : Keeps zz s) (p : Nat) (stated : Nat) : Keeps zz (State.auditCount s p stated) := by
  unfold State.auditCount
  repeat' first
    | (intro _; intros; try dsimp -zeta only)
    | with_reducible exact Keeps.refl _
    | with_reducible assumption
    | with_reducible apply State.onTs_keeps
    | with_reducible apply State.portEv_keeps
    | with_reducible apply State.bump_keeps
    | with_reducible apply Keeps.ite
    | (extract_lets +onlyGivenNames u; have hu : Keeps zz u := ?_; clear_value u)
    | (extract_lets +onlyGivenNames u; have hu : Keeps zz u.1 := ?_; clear_value u)
    | (extract_lets +onlyGivenNames u; have hu : Keeps zz u.2 := ?_; clear_value u)
    | (extract_lets +onlyGivenNames u; clear_value u)
    | dsimp only [u]
    | split

theorem State.wakeOver_keeps {zz s : State} (h : Keeps zz s) (p : Nat) : Keeps zz (State.wakeOver s p) := by
  unfold State.wakeOver
  repeat' first
    | (intro _; intros; try dsimp -zeta only)
    | with_reducible exact Keeps.refl _
    | with_reducible assumption
    | with_reducible apply State.lpiExit_keeps
    | with_reducible apply Keeps.ite
    | split

theorem State.launchNow_keeps {zz s : State} (h : Keeps zz s) (p : Nat) (x : InTx) : Keeps zz (State.launchNow s p x) := by
  unfold State.launchNow
  repeat' first
    | (intro _; intros; try dsimp -zeta only)
    | with_reducible exact Keeps.refl _
    | with_reducible assumption
    | with_reducible apply State.tick_keeps
    | with_reducible apply State.wakeOver_keeps
    | with_reducible apply State.setLink_keeps
    | with_reducible apply State.auditCount_keeps
    | with_reducible apply State.onTs_keeps
    | with_reducible apply State.onPort_keeps
    | with_reducible apply Keeps.ite
    | (extract_lets +onlyGivenNames u; have hu : Keeps zz u := ?_; clear_value u)
    | (extract_lets +onlyGivenNames u; have hu : Keeps zz u.1 := ?_; clear_value u)
    | (extract_lets +onlyGivenNames u; have hu : Keeps zz u.2 := ?_; clear_value u)
    | (extract_lets +onlyGivenNames u; clear_value u)
    | dsimp only [u]
    | split

theorem State.launchFrame_keeps {zz s : State} (h : Keeps zz s) (p : Nat) : Keeps zz (State.launchFrame s p) := by
  unfold State.launchFrame
  repeat' first
    | (intro _; intros; try dsimp -zeta only)
    | with_reducible exact Keeps.refl _
    | with_reducible assumption
    | with_reducible apply State.settle_keeps
    | with_reducible refine State.reachTick_keeps ?_ (by assumption)
    | with_reducible apply State.tick_keeps
    | with_reducible apply State.launchNow_keeps
    | with_reducible apply Keeps.ite
    | split

theorem State.cutShort_keeps {zz s : State} (h : Keeps zz s) (p sent launch : Nat) (x : InTx) : Keeps zz (State.cutShort s p sent launch x) := by
  unfold State.cutShort
  repeat' first
    | (intro _; intros; try dsimp -zeta only)
    | with_reducible exact Keeps.refl _
    | with_reducible assumption
    | with_reducible apply State.count_keeps
    | with_reducible apply State.set_keeps
    | with_reducible apply State.noteSec_keeps
    | with_reducible apply State.onPort_keeps
    | with_reducible apply State.setLink_keeps
    | with_reducible apply State.tsRecord_keeps
    | with_reducible apply State.wasteRest_keeps
    | with_reducible apply State.emit_keeps
    | with_reducible apply Keeps.ite
    | (extract_lets +onlyGivenNames u; have hu : Keeps zz u := ?_; clear_value u)
    | (extract_lets +onlyGivenNames u; have hu : Keeps zz u.1 := ?_; clear_value u)
    | (extract_lets +onlyGivenNames u; have hu : Keeps zz u.2 := ?_; clear_value u)
    | (extract_lets +onlyGivenNames u; clear_value u)
    | dsimp only [u]
    | split

theorem State.underrun_keeps {zz s : State} (h : Keeps zz s) (p sent : Nat) : Keeps zz (State.underrun s p sent) := by
  unfold State.underrun
  repeat' first
    | (intro _; intros; try dsimp -zeta only)
    | with_reducible exact Keeps.refl _
    | with_reducible assumption
    | with_reducible apply State.settle_keeps
    | with_reducible refine State.reach_keeps ?_ (by assumption)
    | with_reducible apply State.cutShort_keeps
    | with_reducible apply Keeps.ite
    | split

theorem State.transfer64_keeps {zz s : State} (h : Keeps zz s) (src p : Nat) : Keeps zz (State.transfer64 s src p) := by
  unfold State.transfer64
  repeat' first
    | (intro _; intros; try dsimp -zeta only)
    | with_reducible exact Keeps.refl _
    | with_reducible assumption
    | with_reducible apply State.onMac_keeps
    | with_reducible apply State.set_keeps
    | with_reducible apply State.settle_keeps
    | with_reducible apply Keeps.ite
    | split

theorem State.auditResult_keeps {zz s : State} (h : Keeps zz s) (mark : Nat) : Keeps zz (State.auditResult s mark) := by
  unfold State.auditResult
  repeat' first
    | (intro _; intros; try dsimp -zeta only)
    | with_reducible exact Keeps.refl _
    | with_reducible assumption
    | with_reducible apply State.done_keeps
    | with_reducible apply State.onTs_keeps
    | with_reducible apply State.bump_keeps
    | with_reducible apply State.set_keeps
    | with_reducible apply State.seti_keeps
    | with_reducible apply State.noteSec_keeps
    | with_reducible apply Keeps.ite
    | (extract_lets +onlyGivenNames u; have hu : Keeps zz u := ?_; clear_value u)
    | (extract_lets +onlyGivenNames u; have hu : Keeps zz u.1 := ?_; clear_value u)
    | (extract_lets +onlyGivenNames u; have hu : Keeps zz u.2 := ?_; clear_value u)
    | (extract_lets +onlyGivenNames u; clear_value u)
    | dsimp only [u]
    | split

theorem State.auditClear_keeps {zz s : State} (h : Keeps zz s) : Keeps zz (State.auditClear s) := by
  unfold State.auditClear
  repeat' first
    | (intro _; intros; try dsimp -zeta only)
    | with_reducible exact Keeps.refl _
    | with_reducible assumption
    | with_reducible apply Keeps.forEach
    | with_reducible apply State.set_keeps
    | with_reducible apply Keeps.ite
    | (extract_lets +onlyGivenNames u; have hu : Keeps zz u := ?_; clear_value u)
    | (extract_lets +onlyGivenNames u; have hu : Keeps zz u.1 := ?_; clear_value u)
    | (extract_lets +onlyGivenNames u; have hu : Keeps zz u.2 := ?_; clear_value u)
    | (extract_lets +onlyGivenNames u; clear_value u)
    | dsimp only [u]
    | split

end Sys2Proof.Machine
end

