-- ==== Sys2Proof/Laws/Keep/Fabric.lean ====
section
/-! SUPPORT. Sys2Proof/Machine/Fabric.lean keeps the queue and the canonical forms. -/
namespace Sys2Proof.Machine

theorem State.setCluster_keeps {zz s : State} (h : Keeps zz s) (c : Nat) (x : Cluster) : Keeps zz (State.setCluster s c x) := by
  unfold State.setCluster
  repeat' first
    | (intro _; intros; try dsimp -zeta only)
    | with_reducible exact Keeps.refl _
    | with_reducible assumption
    | with_reducible apply State.onFab_keeps
    | with_reducible apply State.set_keeps
    | with_reducible apply Keeps.ite
    | split

theorem State.setEngineOf_keeps {zz s : State} (h : Keeps zz s) (id : Nat) (x : Engine) : Keeps zz (State.setEngineOf s id x) := by
  unfold State.setEngineOf
  repeat' first
    | (intro _; intros; try dsimp -zeta only)
    | with_reducible exact Keeps.refl _
    | with_reducible assumption
    | with_reducible apply State.onFab_keeps
    | with_reducible apply State.set_keeps
    | with_reducible apply Keeps.ite
    | split

theorem State.setEng_keeps {zz s : State} (h : Keeps zz s) (g : Eng) (x : Engine) : Keeps zz (State.setEng s g x) := by
  unfold State.setEng
  repeat' first
    | (intro _; intros; try dsimp -zeta only)
    | with_reducible exact Keeps.refl _
    | with_reducible assumption
    | with_reducible apply State.setEngineOf_keeps
    | with_reducible apply Keeps.ite
    | split

theorem State.onEng_keeps {zz s : State} (h : Keeps zz s) (g : Eng) (f : Engine → Engine) : Keeps zz (State.onEng s g f) := by
  unfold State.onEng
  repeat' first
    | (intro _; intros; try dsimp -zeta only)
    | with_reducible exact Keeps.refl _
    | with_reducible assumption
    | with_reducible apply State.setEng_keeps
    | with_reducible apply Keeps.ite
    | split

theorem State.setBit_keeps {zz s : State} (h : Keeps zz s) (F : Field) (i : Nat) (b : Bool) : Keeps zz (State.setBit s F i b) := by
  unfold State.setBit
  repeat' first
    | (intro _; intros; try dsimp -zeta only)
    | with_reducible exact Keeps.refl _
    | with_reducible assumption
    | with_reducible apply State.set_keeps
    | with_reducible apply Keeps.ite
    | split

theorem State.setEngBit_keeps {zz s : State} (h : Keeps zz s) (lo hi : Field) (e : Nat) (b : Bool) : Keeps zz (State.setEngBit s lo hi e b) := by
  unfold State.setEngBit
  repeat' first
    | (intro _; intros; try dsimp -zeta only)
    | with_reducible exact Keeps.refl _
    | with_reducible assumption
    | with_reducible apply State.setBit_keeps
    | with_reducible apply Keeps.ite
    | split

theorem State.setFail_keeps {zz s : State} (h : Keeps zz s) (c e n : Nat) : Keeps zz (State.setFail s c e n) := by
  unfold State.setFail
  repeat' first
    | (intro _; intros; try dsimp -zeta only)
    | with_reducible exact Keeps.refl _
    | with_reducible assumption
    | with_reducible apply State.set_keeps
    | with_reducible apply Keeps.ite
    | (extract_lets +onlyGivenNames u; have hu : Keeps zz u := ?_; clear_value u)
    | (extract_lets +onlyGivenNames u; have hu : Keeps zz u.1 := ?_; clear_value u)
    | (extract_lets +onlyGivenNames u; have hu : Keeps zz u.2 := ?_; clear_value u)
    | (extract_lets +onlyGivenNames u; clear_value u)
    | dsimp only [u]
    | split

theorem State.showEngines_keeps {zz s : State} (h : Keeps zz s) : Keeps zz (State.showEngines s) := by
  unfold State.showEngines
  repeat' first
    | (intro _; intros; try dsimp -zeta only)
    | with_reducible exact Keeps.refl _
    | with_reducible assumption
    | with_reducible apply Keeps.forEach
    | with_reducible apply State.set_keeps
    | with_reducible apply Keeps.foldl
    | with_reducible apply Keeps.foldl_fst
    | with_reducible apply Keeps.ite
    | (extract_lets +onlyGivenNames u; have hu : Keeps zz u := ?_; clear_value u)
    | (extract_lets +onlyGivenNames u; have hu : Keeps zz u.1 := ?_; clear_value u)
    | (extract_lets +onlyGivenNames u; have hu : Keeps zz u.2 := ?_; clear_value u)
    | (extract_lets +onlyGivenNames u; have ht := fun (x : State) => u x; clear ht; dsimp -zeta only [u]; clear u)
    | (extract_lets +onlyGivenNames u; have ht := fun y (x : State) => u y x; clear ht; dsimp -zeta only [u]; clear u)
    | (extract_lets +onlyGivenNames u; clear_value u)
    | dsimp only [u]
    | split

theorem State.clusterTo_keeps {zz s : State} (h : Keeps zz s) (c st : Nat) : Keeps zz (State.clusterTo s c st) := by
  unfold State.clusterTo
  repeat' first
    | (intro _; intros; try dsimp -zeta only)
    | with_reducible exact Keeps.refl _
    | with_reducible assumption
    | with_reducible apply State.set_keeps
    | with_reducible apply State.event_keeps
    | with_reducible apply State.showEngines_keeps
    | with_reducible apply Keeps.ite
    | (extract_lets +onlyGivenNames u; have hu : Keeps zz u := ?_; clear_value u)
    | (extract_lets +onlyGivenNames u; have hu : Keeps zz u.1 := ?_; clear_value u)
    | (extract_lets +onlyGivenNames u; have hu : Keeps zz u.2 := ?_; clear_value u)
    | (extract_lets +onlyGivenNames u; clear_value u)
    | dsimp only [u]
    | split

theorem State.toHome_keeps {zz s : State} {r : Req} {t} (h : Keeps zz s) (e : State.toHome s r = some t) : Keeps zz t := by
  unfold State.toHome at e
  try dsimp only at e
  repeat' first
    | (simp only [reduceCtorEq] at e; done)
    | (simp only [Option.some.injEq] at e; subst e)
    | (intro _; intros; try dsimp -zeta only)
    | with_reducible exact Keeps.refl _
    | with_reducible assumption
    | with_reducible apply State.setCluster_keeps
    | with_reducible apply State.set_keeps
    | split
    | with_reducible refine Keeps.opt_ite e (fun _ e => ?_) (fun _ e => ?_)
    | split at e

theorem State.takeSource_keeps {zz s : State} {k i : Nat} {t} (h : Keeps zz s) (e : State.takeSource s k i = some t) : Keeps zz t.2 := by
  unfold State.takeSource at e
  try dsimp only at e
  repeat' first
    | (simp only [reduceCtorEq] at e; done)
    | (simp only [Option.some.injEq] at e; subst e)
    | (intro _; intros; try dsimp -zeta only)
    | with_reducible exact Keeps.refl _
    | with_reducible assumption
    | with_reducible apply State.onMac_keeps
    | with_reducible apply State.set_keeps
    | with_reducible apply State.onFab_keeps
    | split
    | with_reducible refine Keeps.opt_ite e (fun _ e => ?_) (fun _ e => ?_)
    | split at e

theorem State.setStalled_keeps {zz s : State} (h : Keeps zz s) (k : Nat) (r : Option Req) : Keeps zz (State.setStalled s k r) := by
  unfold State.setStalled
  repeat' first
    | (intro _; intros; try dsimp -zeta only)
    | with_reducible exact Keeps.refl _
    | with_reducible assumption
    | with_reducible apply State.onFab_keeps
    | with_reducible apply State.set_keeps
    | with_reducible apply Keeps.ite
    | split

theorem State.moveQueue_keeps {zz s : State} (h : Keeps zz s) (c : Nat) : Keeps zz (State.moveQueue s c) := by
  unfold State.moveQueue
  repeat' first
    | (intro _; intros; try dsimp -zeta only)
    | with_reducible exact Keeps.refl _
    | with_reducible assumption
    | with_reducible apply State.setCluster_keeps
    | with_reducible refine State.toHome_keeps ?_ (by assumption)
    | with_reducible apply State.set_keeps
    | with_reducible apply Keeps.foldl
    | with_reducible apply Keeps.foldl_fst
    | with_reducible apply Keeps.ite
    | (extract_lets +onlyGivenNames u; have hu : Keeps zz u := ?_; clear_value u)
    | (extract_lets +onlyGivenNames u; have hu : Keeps zz u.1 := ?_; clear_value u)
    | (extract_lets +onlyGivenNames u; have hu : Keeps zz u.2 := ?_; clear_value u)
    | (extract_lets +onlyGivenNames u; clear_value u)
    | dsimp only [u]
    | split

theorem State.place_keeps {zz s : State} (h : Keeps zz s) (k : Nat) (r : Req) : Keeps zz (State.place s k r) := by
  unfold State.place
  repeat' first
    | (intro _; intros; try dsimp -zeta only)
    | with_reducible exact Keeps.refl _
    | with_reducible assumption
    | with_reducible apply State.perfEv_keeps
    | with_reducible apply State.bump_keeps
    | with_reducible refine State.toHome_keeps ?_ (by assumption)
    | with_reducible apply State.onFab_keeps
    | with_reducible apply State.setStalled_keeps
    | with_reducible apply Keeps.getD
    | with_reducible apply Keeps.ite
    | split

theorem State.dispatch_keeps {zz s : State} (h : Keeps zz s) (k : Nat) : Keeps zz (State.dispatch s k) := by
  unfold State.dispatch
  repeat' first
    | (intro _; intros; try dsimp -zeta only)
    | with_reducible exact Keeps.refl _
    | with_reducible assumption
    | with_reducible apply State.moveQueue_keeps
    | with_reducible apply State.setStalled_keeps
    | with_reducible apply State.place_keeps
    | with_reducible refine State.takeSource_keeps ?_ (by assumption)
    | with_reducible apply State.onFab_keeps
    | with_reducible apply State.set_keeps
    | with_reducible apply Keeps.foldl
    | with_reducible apply Keeps.foldl_fst
    | (obtain ⟨_, _, he⟩ := List.exists_of_findSome?_eq_some (by assumption); obtain ⟨_, hy, hz⟩ := Option.map_eq_some_iff.mp he; cases hz; with_reducible refine State.takeSource_keeps ?_ hy)
    | with_reducible apply Keeps.ite
    | (extract_lets +onlyGivenNames u; have hu : Keeps zz u := ?_; clear_value u)
    | (extract_lets +onlyGivenNames u; have hu : Keeps zz u.1 := ?_; clear_value u)
    | (extract_lets +onlyGivenNames u; have hu : Keeps zz u.2 := ?_; clear_value u)
    | (extract_lets +onlyGivenNames u; clear_value u)
    | dsimp only [u]
    | split

theorem State.steal_keeps {zz s : State} (h : Keeps zz s) (g : Eng) : Keeps zz (State.steal s g) := by
  unfold State.steal
  repeat' first
    | (intro _; intros; try dsimp -zeta only)
    | with_reducible exact Keeps.refl _
    | with_reducible assumption
    | with_reducible apply State.setCluster_keeps
    | with_reducible apply State.set_keeps
    | with_reducible apply State.bump_keeps
    | with_reducible apply Keeps.foldl
    | with_reducible apply Keeps.foldl_fst
    | with_reducible apply Keeps.ite
    | (extract_lets +onlyGivenNames u; have hu : Keeps zz u := ?_; clear_value u)
    | (extract_lets +onlyGivenNames u; have hu : Keeps zz u.1 := ?_; clear_value u)
    | (extract_lets +onlyGivenNames u; have hu : Keeps zz u.2 := ?_; clear_value u)
    | (extract_lets +onlyGivenNames u; clear_value u)
    | dsimp only [u]
    | split

theorem State.loadRequest_keeps {zz s : State} (h : Keeps zz s) (g : Eng) (r : Req) : Keeps zz (State.loadRequest s g r) := by
  unfold State.loadRequest
  repeat' first
    | (intro _; intros; try dsimp -zeta only)
    | with_reducible exact Keeps.refl _
    | with_reducible assumption
    | with_reducible apply State.set_keeps
    | with_reducible apply State.onEng_keeps
    | with_reducible apply Keeps.ite
    | (extract_lets +onlyGivenNames u; have hu : Keeps zz u := ?_; clear_value u)
    | (extract_lets +onlyGivenNames u; have hu : Keeps zz u.1 := ?_; clear_value u)
    | (extract_lets +onlyGivenNames u; have hu : Keeps zz u.2 := ?_; clear_value u)
    | (extract_lets +onlyGivenNames u; clear_value u)
    | dsimp only [u]
    | split

theorem State.requestStart_keeps {zz s : State} (h : Keeps zz s) (g : Eng) : Keeps zz (State.requestStart s g) := by
  unfold State.requestStart
  repeat' first
    | (intro _; intros; try dsimp -zeta only)
    | with_reducible exact Keeps.refl _
    | with_reducible assumption
    | with_reducible apply State.setCluster_keeps
    | with_reducible apply State.set_keeps
    | with_reducible apply State.perfEv_keeps
    | with_reducible apply State.bump_keeps
    | with_reducible apply State.loadRequest_keeps
    | with_reducible apply Keeps.ite
    | (extract_lets +onlyGivenNames u; have hu : Keeps zz u := ?_; clear_value u)
    | (extract_lets +onlyGivenNames u; have hu : Keeps zz u.1 := ?_; clear_value u)
    | (extract_lets +onlyGivenNames u; have hu : Keeps zz u.2 := ?_; clear_value u)
    | (extract_lets +onlyGivenNames u; clear_value u)
    | dsimp only [u]
    | split

theorem State.startDrain_keeps {zz s : State} (h : Keeps zz s) (c next : Nat) (byCommand : Bool) : Keeps zz (State.startDrain s c next byCommand) := by
  unfold State.startDrain
  repeat' first
    | (intro _; intros; try dsimp -zeta only)
    | with_reducible exact Keeps.refl _
    | with_reducible assumption
    | with_reducible apply State.set_keeps
    | with_reducible apply State.setCluster_keeps
    | with_reducible apply State.moveQueue_keeps
    | with_reducible apply State.showEngines_keeps
    | with_reducible apply Keeps.ite
    | (extract_lets +onlyGivenNames u; have hu : Keeps zz u := ?_; clear_value u)
    | (extract_lets +onlyGivenNames u; have hu : Keeps zz u.1 := ?_; clear_value u)
    | (extract_lets +onlyGivenNames u; have hu : Keeps zz u.2 := ?_; clear_value u)
    | (extract_lets +onlyGivenNames u; clear_value u)
    | dsimp only [u]
    | split

theorem State.dropMarks_keeps {zz s : State} (h : Keeps zz s) (id : Nat) : Keeps zz (State.dropMarks s id) := by
  unfold State.dropMarks
  repeat' first
    | (intro _; intros; try dsimp -zeta only)
    | with_reducible exact Keeps.refl _
    | with_reducible assumption
    | with_reducible apply State.onPerf_keeps
    | with_reducible apply Keeps.ite
    | split

theorem State.endRequest_keeps {zz s : State} (h : Keeps zz s) (g : Eng) : Keeps zz (State.endRequest s g) := by
  unfold State.endRequest
  repeat' first
    | (intro _; intros; try dsimp -zeta only)
    | with_reducible exact Keeps.refl _
    | with_reducible assumption
    | with_reducible apply State.setEng_keeps
    | with_reducible apply State.dropMarks_keeps
    | with_reducible apply State.setEngBit_keeps
    | with_reducible apply State.showEngines_keeps
    | with_reducible apply Keeps.ite
    | (extract_lets +onlyGivenNames u; have hu : Keeps zz u := ?_; clear_value u)
    | (extract_lets +onlyGivenNames u; have hu : Keeps zz u.1 := ?_; clear_value u)
    | (extract_lets +onlyGivenNames u; have hu : Keeps zz u.2 := ?_; clear_value u)
    | (extract_lets +onlyGivenNames u; clear_value u)
    | dsimp only [u]
    | split

theorem State.retireFailed_keeps {zz s : State} (h : Keeps zz s) (g : Eng) : Keeps zz (State.retireFailed s g) := by
  unfold State.retireFailed
  repeat' first
    | (intro _; intros; try dsimp -zeta only)
    | with_reducible exact Keeps.refl _
    | with_reducible assumption
    | with_reducible apply State.dropMarks_keeps
    | with_reducible apply State.setEngBit_keeps
    | with_reducible apply State.event_keeps
    | with_reducible apply State.showEngines_keeps
    | with_reducible apply State.raiseCond_keeps
    | with_reducible apply State.startDrain_keeps
    | with_reducible apply State.bistCut_keeps
    | with_reducible apply State.setCluster_keeps
    | with_reducible apply State.clusterTo_keeps
    | with_reducible apply Keeps.ite
    | (extract_lets +onlyGivenNames u; have hu : Keeps zz u := ?_; clear_value u)
    | (extract_lets +onlyGivenNames u; have hu : Keeps zz u.1 := ?_; clear_value u)
    | (extract_lets +onlyGivenNames u; have hu : Keeps zz u.2 := ?_; clear_value u)
    | (extract_lets +onlyGivenNames u; clear_value u)
    | dsimp only [u]
    | split

theorem State.ran_keeps {zz s : State} (h : Keeps zz s) (g : Eng) (cls : Nat) : Keeps zz (State.ran s g cls) := by
  unfold State.ran
  repeat' first
    | (intro _; intros; try dsimp -zeta only)
    | with_reducible exact Keeps.refl _
    | with_reducible assumption
    | with_reducible apply State.perfEv_keeps
    | with_reducible apply State.onPerf_keeps
    | with_reducible apply State.set_keeps
    | with_reducible apply Keeps.getD
    | with_reducible apply Keeps.ite
    | (extract_lets +onlyGivenNames u; have hu : Keeps zz u := ?_; clear_value u)
    | (extract_lets +onlyGivenNames u; have hu : Keeps zz u.1 := ?_; clear_value u)
    | (extract_lets +onlyGivenNames u; have hu : Keeps zz u.2 := ?_; clear_value u)
    | (extract_lets +onlyGivenNames u; clear_value u)
    | dsimp only [u]
    | split

theorem State.checkFailed_keeps {zz s : State} (h : Keeps zz s) (g : Eng) : Keeps zz (State.checkFailed s g) := by
  unfold State.checkFailed
  repeat' first
    | (intro _; intros; try dsimp -zeta only)
    | with_reducible exact Keeps.refl _
    | with_reducible assumption
    | with_reducible apply State.perfEv_keeps
    | with_reducible apply State.bump_keeps
    | with_reducible apply State.noteSec_keeps
    | with_reducible apply State.setFail_keeps
    | with_reducible apply State.endRequest_keeps
    | with_reducible apply State.setEng_keeps
    | with_reducible apply State.retireFailed_keeps
    | with_reducible apply Keeps.ite
    | (extract_lets +onlyGivenNames u; have hu : Keeps zz u := ?_; clear_value u)
    | (extract_lets +onlyGivenNames u; have hu : Keeps zz u.1 := ?_; clear_value u)
    | (extract_lets +onlyGivenNames u; have hu : Keeps zz u.2 := ?_; clear_value u)
    | (extract_lets +onlyGivenNames u; clear_value u)
    | dsimp only [u]
    | split

theorem State.check_keeps {zz s : State} (h : Keeps zz s) (g : Eng) (ok : Bool) : Keeps zz (State.check s g ok) := by
  unfold State.check
  repeat' first
    | (intro _; intros; try dsimp -zeta only)
    | with_reducible exact Keeps.refl _
    | with_reducible assumption
    | with_reducible apply State.onEng_keeps
    | with_reducible apply State.setFail_keeps
    | with_reducible apply State.checkFailed_keeps
    | with_reducible apply Keeps.ite
    | (extract_lets +onlyGivenNames u; have hu : Keeps zz u := ?_; clear_value u)
    | (extract_lets +onlyGivenNames u; have hu : Keeps zz u.1 := ?_; clear_value u)
    | (extract_lets +onlyGivenNames u; have hu : Keeps zz u.2 := ?_; clear_value u)
    | (extract_lets +onlyGivenNames u; clear_value u)
    | dsimp only [u]
    | split

theorem State.retireRefused_keeps {zz s : State} (h : Keeps zz s) (c e status : Nat) : Keeps zz (State.retireRefused s c e status) := by
  unfold State.retireRefused
  repeat' first
    | (intro _; intros; try dsimp -zeta only)
    | with_reducible exact Keeps.refl _
    | with_reducible assumption
    | with_reducible apply State.set_keeps
    | with_reducible apply State.event_keeps
    | with_reducible apply Keeps.ite
    | split

theorem State.retireCluster_keeps {zz s : State} (h : Keeps zz s) (c : Nat) : Keeps zz (State.retireCluster s c) := by
  unfold State.retireCluster
  repeat' first
    | (intro _; intros; try dsimp -zeta only)
    | with_reducible exact Keeps.refl _
    | with_reducible assumption
    | with_reducible apply State.set_keeps
    | with_reducible apply State.retireAfter_keeps
    | with_reducible apply State.retireRefused_keeps
    | with_reducible apply State.startDrain_keeps
    | with_reducible apply Keeps.ite
    | split

theorem State.restoreCluster_keeps {zz s : State} (h : Keeps zz s) (c : Nat) : Keeps zz (State.restoreCluster s c) := by
  unfold State.restoreCluster
  repeat' first
    | (intro _; intros; try dsimp -zeta only)
    | with_reducible exact Keeps.refl _
    | with_reducible assumption
    | with_reducible apply State.set_keeps
    | with_reducible apply State.setCluster_keeps
    | with_reducible apply State.clusterTo_keeps
    | with_reducible apply State.retireRefused_keeps
    | with_reducible apply Keeps.ite
    | split

theorem State.retireEngine_keeps {zz s : State} (h : Keeps zz s) (c e : Nat) : Keeps zz (State.retireEngine s c e) := by
  unfold State.retireEngine
  repeat' first
    | (intro _; intros; try dsimp -zeta only)
    | with_reducible exact Keeps.refl _
    | with_reducible assumption
    | with_reducible apply State.retireRefused_keeps
    | with_reducible apply State.set_keeps
    | with_reducible apply State.setEngBit_keeps
    | with_reducible apply State.setEngineOf_keeps
    | with_reducible apply State.showEngines_keeps
    | with_reducible apply State.startDrain_keeps
    | with_reducible apply Keeps.ite
    | (extract_lets +onlyGivenNames u; have hu : Keeps zz u := ?_; clear_value u)
    | (extract_lets +onlyGivenNames u; have hu : Keeps zz u.1 := ?_; clear_value u)
    | (extract_lets +onlyGivenNames u; have hu : Keeps zz u.2 := ?_; clear_value u)
    | (extract_lets +onlyGivenNames u; clear_value u)
    | dsimp only [u]
    | split

theorem State.restoreEngine_keeps {zz s : State} (h : Keeps zz s) (c e : Nat) : Keeps zz (State.restoreEngine s c e) := by
  unfold State.restoreEngine
  repeat' first
    | (intro _; intros; try dsimp -zeta only)
    | with_reducible exact Keeps.refl _
    | with_reducible assumption
    | with_reducible apply State.retireRefused_keeps
    | with_reducible apply State.setEngineOf_keeps
    | with_reducible apply State.set_keeps
    | with_reducible apply State.setEngBit_keeps
    | with_reducible apply State.setFail_keeps
    | with_reducible apply State.clearCond_keeps
    | with_reducible apply State.showEngines_keeps
    | with_reducible apply Keeps.ite
    | (extract_lets +onlyGivenNames u; have hu : Keeps zz u := ?_; clear_value u)
    | (extract_lets +onlyGivenNames u; have hu : Keeps zz u.1 := ?_; clear_value u)
    | (extract_lets +onlyGivenNames u; have hu : Keeps zz u.2 := ?_; clear_value u)
    | (extract_lets +onlyGivenNames u; clear_value u)
    | dsimp only [u]
    | split

theorem State.dropBusy_keeps {zz s : State} (h : Keeps zz s) (c : Nat) : Keeps zz (State.dropBusy s c) := by
  unfold State.dropBusy
  repeat' first
    | (intro _; intros; try dsimp -zeta only)
    | with_reducible exact Keeps.refl _
    | with_reducible assumption
    | with_reducible apply State.setEngineOf_keeps
    | with_reducible apply State.bump_keeps
    | with_reducible apply State.event_keeps
    | with_reducible apply Keeps.foldl
    | with_reducible apply Keeps.foldl_fst
    | with_reducible apply Keeps.ite
    | (extract_lets +onlyGivenNames u; have hu : Keeps zz u := ?_; clear_value u)
    | (extract_lets +onlyGivenNames u; have hu : Keeps zz u.1 := ?_; clear_value u)
    | (extract_lets +onlyGivenNames u; have hu : Keeps zz u.2 := ?_; clear_value u)
    | (extract_lets +onlyGivenNames u; clear_value u)
    | dsimp only [u]
    | split

theorem State.drainEnd_keeps {zz s : State} (h : Keeps zz s) (c : Nat) : Keeps zz (State.drainEnd s c) := by
  unfold State.drainEnd
  repeat' first
    | (intro _; intros; try dsimp -zeta only)
    | with_reducible exact Keeps.refl _
    | with_reducible assumption
    | with_reducible refine State.reachTick_keeps ?_ (by assumption)
    | with_reducible apply State.moveQueue_keeps
    | with_reducible apply State.dropBusy_keeps
    | with_reducible apply State.clusterTo_keeps
    | with_reducible apply Keeps.ite
    | (extract_lets +onlyGivenNames u; have hu : Keeps zz u := ?_; clear_value u)
    | (extract_lets +onlyGivenNames u; have hu : Keeps zz u.1 := ?_; clear_value u)
    | (extract_lets +onlyGivenNames u; have hu : Keeps zz u.2 := ?_; clear_value u)
    | (extract_lets +onlyGivenNames u; clear_value u)
    | dsimp only [u]
    | split

theorem State.onRun_keeps {zz s : State} (h : Keeps zz s) (g : Eng) (f : Engine → Req → State) (hf : ∀ (x0 : Engine) (x1 : Req), Keeps zz (f x0 x1)) : Keeps zz (State.onRun s g f) := by
  unfold State.onRun
  repeat' first
    | (intro _; intros; try dsimp -zeta only)
    | with_reducible exact Keeps.refl _
    | with_reducible assumption
    | with_reducible apply hf
    | with_reducible apply Keeps.ite
    | split

theorem State.alu_keeps {zz s : State} (h : Keeps zz s) (g : Eng) (op : AluOp) (rd : Nat) (a b : Nat) (x : Engine) : Keeps zz (State.alu s g op rd a b x) := by
  unfold State.alu
  repeat' first
    | (intro _; intros; try dsimp -zeta only)
    | with_reducible exact Keeps.refl _
    | with_reducible assumption
    | with_reducible apply State.setEng_keeps
    | with_reducible apply State.drawn_keeps
    | with_reducible apply Keeps.ite
    | (extract_lets +onlyGivenNames u; have hu : Keeps zz u := ?_; clear_value u)
    | (extract_lets +onlyGivenNames u; have hu : Keeps zz u.1 := ?_; clear_value u)
    | (extract_lets +onlyGivenNames u; have hu : Keeps zz u.2 := ?_; clear_value u)
    | (extract_lets +onlyGivenNames u; clear_value u)
    | dsimp only [u]
    | split

theorem State.aluRegister_keeps {zz s : State} (h : Keeps zz s) (g : Eng) (op : AluOp) (rd ra rb : Nat) : Keeps zz (State.aluRegister s g op rd ra rb) := by
  unfold State.aluRegister
  repeat' first
    | (intro _; intros; try dsimp -zeta only)
    | with_reducible exact Keeps.refl _
    | with_reducible assumption
    | with_reducible apply State.onRun_keeps
    | with_reducible apply State.alu_keeps
    | with_reducible apply Keeps.ite
    | split

theorem State.aluImmediate_keeps {zz s : State} (h : Keeps zz s) (g : Eng) (op : AluOp) (rd ra imm : Nat) : Keeps zz (State.aluImmediate s g op rd ra imm) := by
  unfold State.aluImmediate
  repeat' first
    | (intro _; intros; try dsimp -zeta only)
    | with_reducible exact Keeps.refl _
    | with_reducible assumption
    | with_reducible apply State.onRun_keeps
    | with_reducible apply State.alu_keeps
    | with_reducible apply State.drawn_keeps
    | with_reducible apply Keeps.ite
    | split

theorem State.branch_keeps {zz s : State} (h : Keeps zz s) (g : Eng) (cond : Bool) (target : Nat) : Keeps zz (State.branch s g cond target) := by
  unfold State.branch
  repeat' first
    | (intro _; intros; try dsimp -zeta only)
    | with_reducible exact Keeps.refl _
    | with_reducible assumption
    | with_reducible apply State.onRun_keeps
    | with_reducible apply State.setEng_keeps
    | with_reducible apply Keeps.ite
    | split

theorem State.window_keeps {zz s : State} (h : Keeps zz s) (g : Eng) (store : Bool) (r o n : Nat) : Keeps zz (State.window s g store r o n) := by
  unfold State.window
  repeat' first
    | (intro _; intros; try dsimp -zeta only)
    | with_reducible exact Keeps.refl _
    | with_reducible assumption
    | with_reducible apply State.onRun_keeps
    | with_reducible apply State.setEng_keeps
    | with_reducible apply Keeps.ite
    | (extract_lets +onlyGivenNames u; have hu : Keeps zz u := ?_; clear_value u)
    | (extract_lets +onlyGivenNames u; have hu : Keeps zz u.1 := ?_; clear_value u)
    | (extract_lets +onlyGivenNames u; have hu : Keeps zz u.2 := ?_; clear_value u)
    | (extract_lets +onlyGivenNames u; clear_value u)
    | dsimp only [u]
    | split

theorem State.stream_keeps {zz s : State} (h : Keeps zz s) (g : Eng) (out : Option (List Byte)) : Keeps zz (State.stream s g out) := by
  unfold State.stream
  repeat' first
    | (intro _; intros; try dsimp -zeta only)
    | with_reducible exact Keeps.refl _
    | with_reducible assumption
    | with_reducible apply State.onRun_keeps
    | with_reducible apply State.setEng_keeps
    | with_reducible apply Keeps.ite
    | split

theorem State.unitWait_keeps {zz s : State} (h : Keeps zz s) (g : Eng) (u rd : Nat) : Keeps zz (State.unitWait s g u rd) := by
  unfold State.unitWait
  repeat' first
    | (intro _; intros; try dsimp -zeta only)
    | with_reducible exact Keeps.refl _
    | with_reducible assumption
    | with_reducible apply State.onRun_keeps
    | with_reducible apply State.ran_keeps
    | with_reducible apply State.setEng_keeps
    | with_reducible apply Keeps.getD
    | with_reducible apply Keeps.ite
    | (extract_lets +onlyGivenNames u; have hu : Keeps zz u := ?_; clear_value u)
    | (extract_lets +onlyGivenNames u; have hu : Keeps zz u.1 := ?_; clear_value u)
    | (extract_lets +onlyGivenNames u; have hu : Keeps zz u.2 := ?_; clear_value u)
    | (extract_lets +onlyGivenNames u; clear_value u)
    | dsimp only [u]
    | split

theorem State.pushLane_keeps {zz s : State} (h : Keeps zz s) (f : TxFrame) : Keeps zz (State.pushLane s f) := by
  unfold State.pushLane
  repeat' first
    | (intro _; intros; try dsimp -zeta only)
    | with_reducible exact Keeps.refl _
    | with_reducible assumption
    | with_reducible apply State.onFab_keeps
    | with_reducible apply State.set_keeps
    | with_reducible apply Keeps.ite
    | (extract_lets +onlyGivenNames u; have hu : Keeps zz u := ?_; clear_value u)
    | (extract_lets +onlyGivenNames u; have hu : Keeps zz u.1 := ?_; clear_value u)
    | (extract_lets +onlyGivenNames u; have hu : Keeps zz u.2 := ?_; clear_value u)
    | (extract_lets +onlyGivenNames u; clear_value u)
    | dsimp only [u]
    | split

theorem State.emitTo_keeps {zz s : State} (h : Keeps zz s) (g : Eng) (p cls : Nat) (d : TxDesc) : Keeps zz (State.emitTo s g p cls d) := by
  unfold State.emitTo
  repeat' first
    | (intro _; intros; try dsimp -zeta only)
    | with_reducible exact Keeps.refl _
    | with_reducible assumption
    | with_reducible apply State.onRun_keeps
    | with_reducible apply State.setEng_keeps
    | with_reducible apply State.ran_keeps
    | with_reducible apply State.perfEv_keeps
    | with_reducible apply State.pushLane_keeps
    | with_reducible apply State.bump_keeps
    | with_reducible apply Keeps.getD
    | with_reducible apply Keeps.ite
    | (extract_lets +onlyGivenNames u; have hu : Keeps zz u := ?_; clear_value u)
    | (extract_lets +onlyGivenNames u; have hu : Keeps zz u.1 := ?_; clear_value u)
    | (extract_lets +onlyGivenNames u; have hu : Keeps zz u.2 := ?_; clear_value u)
    | (extract_lets +onlyGivenNames u; clear_value u)
    | dsimp only [u]
    | split

theorem State.finish_keeps {zz s : State} (h : Keeps zz s) (g : Eng) : Keeps zz (State.finish s g) := by
  unfold State.finish
  repeat' first
    | (intro _; intros; try dsimp -zeta only)
    | with_reducible exact Keeps.refl _
    | with_reducible assumption
    | with_reducible apply State.onRun_keeps
    | with_reducible apply State.endRequest_keeps
    | with_reducible apply Keeps.ite
    | split

theorem State.dropReq_keeps {zz s : State} (h : Keeps zz s) (g : Eng) : Keeps zz (State.dropReq s g) := by
  unfold State.dropReq
  repeat' first
    | (intro _; intros; try dsimp -zeta only)
    | with_reducible exact Keeps.refl _
    | with_reducible assumption
    | with_reducible apply State.onRun_keeps
    | with_reducible apply State.perfEv_keeps
    | with_reducible apply State.endRequest_keeps
    | with_reducible apply Keeps.ite
    | split

theorem State.answer_keeps {zz s : State} (h : Keeps zz s) (g : Eng) (u : Nat) (ok : Bool) (data : List Byte) : Keeps zz (State.answer s g u ok data) := by
  unfold State.answer
  repeat' first
    | (intro _; intros; try dsimp -zeta only)
    | with_reducible exact Keeps.refl _
    | with_reducible assumption
    | with_reducible apply State.setEng_keeps
    | with_reducible apply Keeps.ite
    | split

theorem State.onCall_keeps {zz s : State} (h : Keeps zz s) (g : Eng) (u : Nat) (f : State → State) (hf : ∀ (x0 : State), Keeps zz x0 → Keeps zz (f x0)) : Keeps zz (State.onCall s g u f) := by
  unfold State.onCall
  repeat' first
    | (intro _; intros; try dsimp -zeta only)
    | with_reducible exact Keeps.refl _
    | with_reducible assumption
    | with_reducible apply State.onRun_keeps
    | with_reducible apply State.setEng_keeps
    | with_reducible apply State.ran_keeps
    | with_reducible apply Keeps.getD
    | with_reducible apply hf
    | with_reducible apply Keeps.ite
    | split

theorem State.aesCall_keeps {zz s : State} (h : Keeps zz s) (g : Eng) (op : AesOp) (slot : Nat) (ad : List (List Byte)) (data : List Byte) : Keeps zz (State.aesCall s g op slot ad data) := by
  unfold State.aesCall
  repeat' first
    | (intro _; intros; try dsimp -zeta only)
    | with_reducible exact Keeps.refl _
    | with_reducible assumption
    | with_reducible apply State.onCall_keeps
    | with_reducible apply State.drawn_keeps
    | with_reducible apply State.perfEv_keeps
    | with_reducible apply State.answer_keeps
    | with_reducible apply Keeps.ite
    | (extract_lets +onlyGivenNames u; have hu : Keeps zz u := ?_; clear_value u)
    | (extract_lets +onlyGivenNames u; have hu : Keeps zz u.1 := ?_; clear_value u)
    | (extract_lets +onlyGivenNames u; have hu : Keeps zz u.2 := ?_; clear_value u)
    | (extract_lets +onlyGivenNames u; clear_value u)
    | dsimp only [u]
    | split

theorem State.shaCall_keeps {zz s : State} (h : Keeps zz s) (g : Eng) (op : ShaOp) (key data : List Byte) : Keeps zz (State.shaCall s g op key data) := by
  unfold State.shaCall
  repeat' first
    | (intro _; intros; try dsimp -zeta only)
    | with_reducible exact Keeps.refl _
    | with_reducible assumption
    | with_reducible apply State.onCall_keeps
    | with_reducible apply State.perfEv_keeps
    | with_reducible apply State.answer_keeps
    | with_reducible apply Keeps.ite
    | (extract_lets +onlyGivenNames u; have hu : Keeps zz u := ?_; clear_value u)
    | (extract_lets +onlyGivenNames u; have hu : Keeps zz u.1 := ?_; clear_value u)
    | (extract_lets +onlyGivenNames u; have hu : Keeps zz u.2 := ?_; clear_value u)
    | (extract_lets +onlyGivenNames u; clear_value u)
    | dsimp only [u]
    | split

theorem State.tqrRead_keeps {zz s : State} (h : Keeps zz s) (g : Eng) : Keeps zz (State.tqrRead s g) := by
  unfold State.tqrRead
  repeat' first
    | (intro _; intros; try dsimp -zeta only)
    | with_reducible exact Keeps.refl _
    | with_reducible assumption
    | with_reducible apply State.onCall_keeps
    | with_reducible apply State.answer_keeps
    | with_reducible apply Keeps.ite
    | split

theorem State.randomUnit_keeps {zz s : State} (h : Keeps zz s) (g : Eng) (bits : Nat) : Keeps zz (State.randomUnit s g bits) := by
  unfold State.randomUnit
  repeat' first
    | (intro _; intros; try dsimp -zeta only)
    | with_reducible exact Keeps.refl _
    | with_reducible assumption
    | with_reducible apply State.onCall_keeps
    | with_reducible apply State.drawn_keeps
    | with_reducible apply State.answer_keeps
    | with_reducible apply State.onBoot_keeps
    | with_reducible apply Eq.refl
    | with_reducible apply Keeps.ite
    | (extract_lets +onlyGivenNames u; have hu : Keeps zz u := ?_; clear_value u)
    | (extract_lets +onlyGivenNames u; have hu : Keeps zz u.1 := ?_; clear_value u)
    | (extract_lets +onlyGivenNames u; have hu : Keeps zz u.2 := ?_; clear_value u)
    | (extract_lets +onlyGivenNames u; clear_value u)
    | dsimp only [u]
    | split

theorem State.reservationCall_keeps {zz s : State} (h : Keeps zz s) (g : Eng) (p len phase : Nat) : Keeps zz (State.reservationCall s g p len phase) := by
  unfold State.reservationCall
  repeat' first
    | (intro _; intros; try dsimp -zeta only)
    | with_reducible exact Keeps.refl _
    | with_reducible assumption
    | with_reducible apply State.onCall_keeps
    | with_reducible apply State.reserve_keeps
    | with_reducible apply State.perfEv_keeps
    | with_reducible apply State.answer_keeps
    | with_reducible apply State.onEng_keeps
    | with_reducible apply Keeps.ite
    | (extract_lets +onlyGivenNames u; have hu : Keeps zz u := ?_; clear_value u)
    | (extract_lets +onlyGivenNames u; have hu : Keeps zz u.1 := ?_; clear_value u)
    | (extract_lets +onlyGivenNames u; have hu : Keeps zz u.2 := ?_; clear_value u)
    | (extract_lets +onlyGivenNames u; clear_value u)
    | dsimp only [u]
    | split

theorem State.writeEntry_keeps {zz s : State} (h : Keeps zz s) (n o : Nat) (bs : List Byte) : Keeps zz (State.writeEntry s n o bs) := by
  unfold State.writeEntry
  repeat' first
    | (intro _; intros; try dsimp -zeta only)
    | with_reducible exact Keeps.refl _
    | with_reducible assumption
    | with_reducible apply State.onFab_keeps
    | with_reducible apply State.set_keeps
    | (apply SMap.wf_setMany; assumption)
    | (apply SMap.wf_clearRange; assumption)
    | with_reducible apply Keeps.ite
    | split

theorem State.eccEntry_keeps {zz s : State} (h : Keeps zz s) (n : Nat) (ecc : Ecc) : Keeps zz (s.eccEntry n ecc).1 := by
  unfold State.eccEntry
  split
  · exact h
  · exact State.bump_keeps h _ _
  · exact State.event_keeps (State.bump_keeps (State.onFab_keeps h _ fun w => SMap.wf_setMany _ _ _ _ w) _ _) _ _ _

theorem State.storeCall_keeps {zz s : State} (h : Keeps zz s) (g : Eng) (n : Nat) (ecc : Ecc) (f : State → State) (hf : ∀ (x0 : State), Keeps zz x0 → Keeps zz (f x0)) : Keeps zz (State.storeCall s g n ecc f) := by
  unfold State.storeCall
  repeat' first
    | (intro _; intros; try dsimp -zeta only)
    | with_reducible exact Keeps.refl _
    | with_reducible assumption
    | with_reducible apply State.onCall_keeps
    | with_reducible apply State.perfEv_keeps
    | with_reducible apply State.answer_keeps
    | with_reducible apply State.eccEntry_keeps
    | with_reducible apply hf
    | with_reducible apply Keeps.ite
    | (extract_lets +onlyGivenNames u; have hu : Keeps zz u := ?_; clear_value u)
    | (extract_lets +onlyGivenNames u; have hu : Keeps zz u.1 := ?_; clear_value u)
    | (extract_lets +onlyGivenNames u; have hu : Keeps zz u.2 := ?_; clear_value u)
    | (extract_lets +onlyGivenNames u; clear_value u)
    | dsimp only [u]
    | split

theorem State.assocRead_keeps {zz s : State} (h : Keeps zz s) (g : Eng) (n : Nat) (ecc : Ecc) : Keeps zz (State.assocRead s g n ecc) := by
  unfold State.assocRead
  repeat' first
    | (intro _; intros; try dsimp -zeta only)
    | with_reducible exact Keeps.refl _
    | with_reducible assumption
    | with_reducible apply State.storeCall_keeps
    | with_reducible apply State.answer_keeps
    | with_reducible apply Keeps.ite
    | split

theorem State.assocWrite_keeps {zz s : State} (h : Keeps zz s) (g : Eng) (n : Nat) (data : List Byte) (ecc : Ecc) : Keeps zz (State.assocWrite s g n data ecc) := by
  unfold State.assocWrite
  repeat' first
    | (intro _; intros; try dsimp -zeta only)
    | with_reducible exact Keeps.refl _
    | with_reducible assumption
    | with_reducible apply State.storeCall_keeps
    | with_reducible apply State.writeEntry_keeps
    | with_reducible apply State.answer_keeps
    | with_reducible apply Keeps.ite
    | split

theorem State.cas64_keeps {zz s : State} (h : Keeps zz s) (g : Eng) (n w old new : Nat) (ecc : Ecc) : Keeps zz (State.cas64 s g n w old new ecc) := by
  unfold State.cas64
  repeat' first
    | (intro _; intros; try dsimp -zeta only)
    | with_reducible exact Keeps.refl _
    | with_reducible assumption
    | with_reducible apply State.storeCall_keeps
    | with_reducible apply State.writeEntry_keeps
    | with_reducible apply State.answer_keeps
    | with_reducible apply Keeps.ite
    | (extract_lets +onlyGivenNames u; have hu : Keeps zz u := ?_; clear_value u)
    | (extract_lets +onlyGivenNames u; have hu : Keeps zz u.1 := ?_; clear_value u)
    | (extract_lets +onlyGivenNames u; have hu : Keeps zz u.2 := ?_; clear_value u)
    | (extract_lets +onlyGivenNames u; clear_value u)
    | dsimp only [u]
    | split

theorem State.add64_keeps {zz s : State} (h : Keeps zz s) (g : Eng) (n w d : Nat) (ecc : Ecc) : Keeps zz (State.add64 s g n w d ecc) := by
  unfold State.add64
  repeat' first
    | (intro _; intros; try dsimp -zeta only)
    | with_reducible exact Keeps.refl _
    | with_reducible assumption
    | with_reducible apply State.storeCall_keeps
    | with_reducible apply State.writeEntry_keeps
    | with_reducible apply State.answer_keeps
    | with_reducible apply Keeps.ite
    | (extract_lets +onlyGivenNames u; have hu : Keeps zz u := ?_; clear_value u)
    | (extract_lets +onlyGivenNames u; have hu : Keeps zz u.1 := ?_; clear_value u)
    | (extract_lets +onlyGivenNames u; have hu : Keeps zz u.2 := ?_; clear_value u)
    | (extract_lets +onlyGivenNames u; clear_value u)
    | dsimp only [u]
    | split

theorem State.dirtySwap_keeps {zz s : State} (h : Keeps zz s) : Keeps zz (State.dirtySwap s) := by
  unfold State.dirtySwap
  repeat' first
    | (intro _; intros; try dsimp -zeta only)
    | with_reducible exact Keeps.refl _
    | with_reducible assumption
    | with_reducible apply State.onFab_keeps
    | with_reducible apply State.setTs_keeps
    | with_reducible apply State.setSat_keeps
    | with_reducible apply State.event_keeps
    | with_reducible apply Keeps.ite
    | (extract_lets +onlyGivenNames u; have hu : Keeps zz u := ?_; clear_value u)
    | (extract_lets +onlyGivenNames u; have hu : Keeps zz u.1 := ?_; clear_value u)
    | (extract_lets +onlyGivenNames u; have hu : Keeps zz u.2 := ?_; clear_value u)
    | (extract_lets +onlyGivenNames u; clear_value u)
    | dsimp only [u]
    | split

theorem State.windowWrite_keeps {zz s : State} (h : Keeps zz s) (addr : Nat) : Keeps zz (State.windowWrite s addr) := by
  unfold State.windowWrite
  repeat' first
    | (intro _; intros; try dsimp -zeta only)
    | with_reducible exact Keeps.refl _
    | with_reducible assumption
    | with_reducible apply State.noteSec_keeps
    | with_reducible apply Keeps.ite
    | split

theorem State.setSketch_keeps {zz s : State} (h : Keeps zz s) (r i n : Nat) : Keeps zz (State.setSketch s r i n) := by
  unfold State.setSketch
  repeat' first
    | (intro _; intros; try dsimp -zeta only)
    | with_reducible exact Keeps.refl _
    | with_reducible assumption
    | with_reducible apply State.onFab_keeps
    | with_reducible apply State.set_keeps
    | with_reducible apply Keeps.ite
    | split

theorem State.rate_keeps {zz s : State} (h : Keeps zz s) (key w : Nat) : Keeps zz ((State.rate s key w).1) := by
  unfold State.rate
  repeat' first
    | (intro _; intros; try dsimp -zeta only)
    | with_reducible exact Keeps.refl _
    | with_reducible assumption
    | with_reducible apply State.setSketch_keeps
    | with_reducible apply Keeps.foldl
    | with_reducible apply Keeps.foldl_fst
    | with_reducible apply Keeps.ite
    | (extract_lets +onlyGivenNames u; have hu : Keeps zz u := ?_; clear_value u)
    | (extract_lets +onlyGivenNames u; have hu : Keeps zz u.1 := ?_; clear_value u)
    | (extract_lets +onlyGivenNames u; have hu : Keeps zz u.2 := ?_; clear_value u)
    | (extract_lets +onlyGivenNames u; clear_value u)
    | dsimp only [u]
    | split

theorem State.rateCall_keeps {zz s : State} (h : Keeps zz s) (g : Eng) (key w : Nat) (ecc : Ecc) : Keeps zz (State.rateCall s g key w ecc) := by
  unfold State.rateCall
  repeat' first
    | (intro _; intros; try dsimp -zeta only)
    | with_reducible exact Keeps.refl _
    | with_reducible assumption
    | with_reducible apply State.onCall_keeps
    | with_reducible apply State.perfEv_keeps
    | with_reducible apply State.answer_keeps
    | with_reducible apply State.set_keeps
    | with_reducible apply State.onFab_keeps
    | with_reducible apply State.bump_keeps
    | with_reducible apply State.event_keeps
    | with_reducible apply State.rate_keeps
    | with_reducible apply Keeps.ite
    | (extract_lets +onlyGivenNames u; have hu : Keeps zz u := ?_; clear_value u)
    | (extract_lets +onlyGivenNames u; have hu : Keeps zz u.1 := ?_; clear_value u)
    | (extract_lets +onlyGivenNames u; have hu : Keeps zz u.2 := ?_; clear_value u)
    | (extract_lets +onlyGivenNames u; clear_value u)
    | dsimp only [u]
    | split

theorem State.showEpoch_keeps {zz s : State} (h : Keeps zz s) : Keeps zz (State.showEpoch s) := by
  unfold State.showEpoch
  repeat' first
    | (intro _; intros; try dsimp -zeta only)
    | with_reducible exact Keeps.refl _
    | with_reducible assumption
    | with_reducible apply State.set_keeps
    | with_reducible apply Keeps.ite
    | split

theorem State.epochAdvance_keeps {zz s : State} (h : Keeps zz s) : Keeps zz (State.epochAdvance s) := by
  unfold State.epochAdvance
  repeat' first
    | (intro _; intros; try dsimp -zeta only)
    | with_reducible exact Keeps.refl _
    | with_reducible assumption
    | with_reducible refine State.reachTick_keeps ?_ (by assumption)
    | with_reducible apply State.showEpoch_keeps
    | with_reducible apply Keeps.elim
    | with_reducible apply Keeps.ite
    | split

theorem State.scrub_keeps {zz s : State} (h : Keeps zz s) (r i : Nat) : Keeps zz (State.scrub s r i) := by
  unfold State.scrub
  repeat' first
    | (intro _; intros; try dsimp -zeta only)
    | with_reducible exact Keeps.refl _
    | with_reducible assumption
    | with_reducible apply State.setSketch_keeps
    | with_reducible apply Keeps.ite
    | (extract_lets +onlyGivenNames u; have hu : Keeps zz u := ?_; clear_value u)
    | (extract_lets +onlyGivenNames u; have hu : Keeps zz u.1 := ?_; clear_value u)
    | (extract_lets +onlyGivenNames u; have hu : Keeps zz u.2 := ?_; clear_value u)
    | (extract_lets +onlyGivenNames u; clear_value u)
    | dsimp only [u]
    | split

theorem State.showOcc_keeps {zz s : State} (h : Keeps zz s) (occ : List Nat) : Keeps zz (State.showOcc s occ) := by
  unfold State.showOcc
  repeat' first
    | (intro _; intros; try dsimp -zeta only)
    | with_reducible exact Keeps.refl _
    | with_reducible assumption
    | with_reducible apply Keeps.forEach
    | with_reducible apply State.set_keeps
    | with_reducible apply State.onPw_keeps
    | with_reducible apply Keeps.getD
    | with_reducible apply Keeps.foldl
    | with_reducible apply Keeps.foldl_fst
    | with_reducible apply Keeps.ite
    | (extract_lets +onlyGivenNames u; have hu : Keeps zz u := ?_; clear_value u)
    | (extract_lets +onlyGivenNames u; have hu : Keeps zz u.1 := ?_; clear_value u)
    | (extract_lets +onlyGivenNames u; have hu : Keeps zz u.2 := ?_; clear_value u)
    | (extract_lets +onlyGivenNames u; clear_value u)
    | dsimp only [u]
    | split

theorem State.occupancy_keeps {zz s : State} (h : Keeps zz s) (occ : List Nat) : Keeps zz (State.occupancy s occ) := by
  unfold State.occupancy
  repeat' first
    | (intro _; intros; try dsimp -zeta only)
    | with_reducible exact Keeps.refl _
    | with_reducible assumption
    | with_reducible apply State.onFab_keeps
    | with_reducible apply State.showOcc_keeps
    | with_reducible refine State.reach_keeps ?_ (by assumption)
    | with_reducible apply Keeps.ite
    | (extract_lets +onlyGivenNames u; have hu : Keeps zz u := ?_; clear_value u)
    | (extract_lets +onlyGivenNames u; have hu : Keeps zz u.1 := ?_; clear_value u)
    | (extract_lets +onlyGivenNames u; have hu : Keeps zz u.2 := ?_; clear_value u)
    | (extract_lets +onlyGivenNames u; clear_value u)
    | dsimp only [u]
    | split

end Sys2Proof.Machine
end

