-- ==== Sys2Proof/Laws/Keep/Respond.lean ====
section
/-! SUPPORT. Sys2Proof/Machine/Respond.lean keeps the queue and the canonical forms. -/
namespace Sys2Proof.Machine

theorem State.worked_keeps {zz s : State} (h : Keeps zz s) (g : Eng) (k : Nat) : Keeps zz (State.worked s g k) := by
  unfold State.worked
  repeat' first
    | (intro _; intros; try dsimp -zeta only)
    | with_reducible exact Keeps.refl _
    | with_reducible assumption
    | with_reducible apply State.drawnBy_keeps
    | with_reducible apply State.perfEv_keeps
    | with_reducible apply State.onPerf_keeps
    | with_reducible apply State.set_keeps
    | with_reducible apply Keeps.foldl
    | with_reducible apply Keeps.foldl_fst
    | with_reducible apply Keeps.ite
    | (extract_lets +onlyGivenNames u; have hu : Keeps zz u := ?_; clear_value u)
    | (extract_lets +onlyGivenNames u; have hu : Keeps zz u.1 := ?_; clear_value u)
    | (extract_lets +onlyGivenNames u; have hu : Keeps zz u.2 := ?_; clear_value u)
    | (extract_lets +onlyGivenNames u; clear_value u)
    | dsimp only [u]
    | split

theorem State.routine_keeps {zz s : State} (h : Keeps zz s) (g : Eng) (k : Nat) (f : Req → State) (hf : ∀ (x0 : Req), Keeps zz (f x0)) : Keeps zz (State.routine s g k f) := by
  unfold State.routine
  repeat' first
    | (intro _; intros; try dsimp -zeta only)
    | with_reducible exact Keeps.refl _
    | with_reducible assumption
    | with_reducible apply State.worked_keeps
    | with_reducible apply State.onEng_keeps
    | with_reducible apply hf
    | with_reducible apply Keeps.ite
    | split

theorem State.sendFrame_keeps {zz s : State} (h : Keeps zz s) (g : Eng) (r : Req) (p cls : Nat) (bytes : List Byte) (d : TxDesc) (resv : Option Nat) : Keeps zz (State.sendFrame s g r p cls bytes d resv) := by
  unfold State.sendFrame
  repeat' first
    | (intro _; intros; try dsimp -zeta only)
    | with_reducible exact Keeps.refl _
    | with_reducible assumption
    | with_reducible apply State.pushLane_keeps
    | with_reducible apply State.perfEv_keeps
    | with_reducible apply State.bump_keeps
    | with_reducible apply State.onEng_keeps
    | with_reducible apply Keeps.ite
    | (extract_lets +onlyGivenNames u; have hu : Keeps zz u := ?_; clear_value u)
    | (extract_lets +onlyGivenNames u; have hu : Keeps zz u.1 := ?_; clear_value u)
    | (extract_lets +onlyGivenNames u; have hu : Keeps zz u.2 := ?_; clear_value u)
    | (extract_lets +onlyGivenNames u; clear_value u)
    | dsimp only [u]
    | split

theorem State.done_keeps {zz s : State} (h : Keeps zz s) (g : Eng) : Keeps zz (State.done s g) := by
  unfold State.done
  repeat' first
    | (intro _; intros; try dsimp -zeta only)
    | with_reducible exact Keeps.refl _
    | with_reducible assumption
    | with_reducible apply State.check_keeps
    | with_reducible apply State.finish_keeps
    | with_reducible apply Keeps.ite
    | split

theorem State.submit_keeps {zz s : State} (h : Keeps zz s) (f : TxFrame) : Keeps zz (State.submit s f) := by
  unfold State.submit
  repeat' first
    | (intro _; intros; try dsimp -zeta only)
    | with_reducible exact Keeps.refl _
    | with_reducible assumption
    | with_reducible apply State.onFab_keeps
    | with_reducible apply State.set_keeps
    | with_reducible apply Keeps.ite
    | (extract_lets +onlyGivenNames u; have hu : Keeps zz u := ?_; clear_value u)
    | (extract_lets +onlyGivenNames u; have hu : Keeps zz u.1 := ?_; clear_value u)
    | (extract_lets +onlyGivenNames u; have hu : Keeps zz u.2 := ?_; clear_value u)
    | (extract_lets +onlyGivenNames u; clear_value u)
    | dsimp only [u]
    | split

theorem State.originate_keeps {zz s : State} (h : Keeps zz s) (p cls : Nat) (bytes : List Byte) (d : TxDesc) (resv : Option Nat) : Keeps zz (State.originate s p cls bytes d resv) := by
  unfold State.originate
  repeat' first
    | (intro _; intros; try dsimp -zeta only)
    | with_reducible exact Keeps.refl _
    | with_reducible assumption
    | with_reducible apply State.submit_keeps
    | with_reducible apply Keeps.ite
    | split

theorem State.peerSend_keeps {zz s : State} (h : Keeps zz s) (p : Nat) (x : Far) (proto : Nat) (b : List Byte) : Keeps zz (State.peerSend s p x proto b) := by
  unfold State.peerSend
  repeat' first
    | (intro _; intros; try dsimp -zeta only)
    | with_reducible exact Keeps.refl _
    | with_reducible assumption
    | with_reducible apply State.originate_keeps
    | with_reducible apply Keeps.ite
    | (extract_lets +onlyGivenNames u; have hu : Keeps zz u := ?_; clear_value u)
    | (extract_lets +onlyGivenNames u; have hu : Keeps zz u.1 := ?_; clear_value u)
    | (extract_lets +onlyGivenNames u; have hu : Keeps zz u.2 := ?_; clear_value u)
    | (extract_lets +onlyGivenNames u; clear_value u)
    | dsimp only [u]
    | split

theorem State.tcpSend_keeps {zz s : State} (h : Keeps zz s) (p : Nat) (x : Far) (sport seq flags : Nat) (b : List Byte) : Keeps zz (State.tcpSend s p x sport seq flags b) := by
  unfold State.tcpSend
  repeat' first
    | (intro _; intros; try dsimp -zeta only)
    | with_reducible exact Keeps.refl _
    | with_reducible assumption
    | with_reducible apply State.drawn_keeps
    | with_reducible apply State.peerSend_keeps
    | with_reducible apply Keeps.ite
    | split

theorem State.tcpStream_keeps {z s : State} (h : Keeps z s) (p : Nat) (x : Far) (sport seq flags n : Nat) (b : List Byte) :
    Keeps z (s.tcpStream p x sport seq flags n b) := by
  induction n generalizing s seq b with
  | zero => exact State.tcpSend_keeps h ..
  | succ n ih =>
    unfold State.tcpStream
    split
    · exact State.tcpSend_keeps h ..
    · exact ih (State.tcpSend_keeps h ..) _ _

theorem State.lldpSend_keeps {zz s : State} (h : Keeps zz s) (p : Nat) : Keeps zz (State.lldpSend s p) := by
  unfold State.lldpSend
  repeat' first
    | (intro _; intros; try dsimp -zeta only)
    | with_reducible exact Keeps.refl _
    | with_reducible assumption
    | with_reducible apply State.originate_keeps
    | with_reducible apply Keeps.ite
    | split

theorem State.lpiWritten_keeps {zz s : State} (h : Keeps zz s) (p : Nat) : Keeps zz (State.lpiWritten s p) := by
  unfold State.lpiWritten
  repeat' first
    | (intro _; intros; try dsimp -zeta only)
    | with_reducible exact Keeps.refl _
    | with_reducible assumption
    | with_reducible apply State.lldpSend_keeps
    | with_reducible apply State.lpiOff_keeps
    | with_reducible apply Keeps.ite
    | split

theorem State.rand_keeps {zz s : State} (h : Keeps zz s) (bits : Nat) : Keeps zz ((State.rand s bits).2) := by
  unfold State.rand
  repeat' first
    | (intro _; intros; try dsimp -zeta only)
    | with_reducible exact Keeps.refl _
    | with_reducible assumption
    | with_reducible apply State.drawn_keeps
    | with_reducible apply State.onBoot_keeps
    | with_reducible apply Eq.refl
    | with_reducible apply Keeps.ite
    | split

end Sys2Proof.Machine
end

