-- ==== Sys2Proof/Laws/Keep/Keys.lean ====
section
/-! SUPPORT. Sys2Proof/Machine/Keys.lean keeps the queue and the canonical forms. -/
namespace Sys2Proof.Machine

theorem State.putKey_keeps {zz s : State} (h : Keeps zz s) (i type cls users value : Nat) : Keeps zz (State.putKey s i type cls users value) := by
  unfold State.putKey
  repeat' first
    | (intro _; intros; try dsimp -zeta only)
    | with_reducible exact Keeps.refl _
    | with_reducible assumption
    | with_reducible apply State.onBoot_keeps
    | with_reducible apply State.set_keeps
    | with_reducible apply Eq.refl
    | with_reducible apply Keeps.ite
    | (extract_lets +onlyGivenNames u; have hu : Keeps zz u := ?_; clear_value u)
    | (extract_lets +onlyGivenNames u; have hu : Keeps zz u.1 := ?_; clear_value u)
    | (extract_lets +onlyGivenNames u; have hu : Keeps zz u.2 := ?_; clear_value u)
    | (extract_lets +onlyGivenNames u; clear_value u)
    | dsimp only [u]
    | split

theorem State.dropKey_keeps {zz s : State} (h : Keeps zz s) (i : Nat) : Keeps zz (State.dropKey s i) := by
  unfold State.dropKey
  repeat' first
    | (intro _; intros; try dsimp -zeta only)
    | with_reducible exact Keeps.refl _
    | with_reducible assumption
    | with_reducible apply State.onBoot_keeps
    | with_reducible apply State.set_keeps
    | with_reducible apply Eq.refl
    | with_reducible apply Keeps.ite
    | (extract_lets +onlyGivenNames u; have hu : Keeps zz u := ?_; clear_value u)
    | (extract_lets +onlyGivenNames u; have hu : Keeps zz u.1 := ?_; clear_value u)
    | (extract_lets +onlyGivenNames u; have hu : Keeps zz u.2 := ?_; clear_value u)
    | (extract_lets +onlyGivenNames u; clear_value u)
    | dsimp only [u]
    | split

end Sys2Proof.Machine
end

