-- ==== Sys2Proof/Laws/Keep/Ntp.lean ====
section
/-! SUPPORT. Sys2Proof/Machine/Ntp.lean keeps the queue and the canonical forms. -/
namespace Sys2Proof.Machine

theorem State.rateDecide_keeps {zz s : State} (h : Keeps zz s) (g : Eng) (k : Nat) (ip : Ip) (ecc : Ecc) : Keeps zz ((State.rateDecide s g k ip ecc).1) := by
  unfold State.rateDecide
  repeat' first
    | (intro _; intros; try dsimp -zeta only)
    | with_reducible exact Keeps.refl _
    | with_reducible assumption
    | with_reducible apply State.answer_keeps
    | with_reducible apply State.rateCall_keeps
    | with_reducible apply State.onEng_keeps
    | with_reducible apply State.bump_keeps
    | with_reducible apply State.onNtp_keeps
    | with_reducible apply State.event_keeps
    | with_reducible apply State.rate_keeps
    | with_reducible apply Keeps.ite
    | (extract_lets +onlyGivenNames u; have hu : Keeps zz u := ?_; clear_value u)
    | (extract_lets +onlyGivenNames u; have hu : Keeps zz u.1 := ?_; clear_value u)
    | (extract_lets +onlyGivenNames u; have hu : Keeps zz u.2 := ?_; clear_value u)
    | (extract_lets +onlyGivenNames u; clear_value u)
    | dsimp only [u]
    | split

theorem State.ntpRequest_keeps {zz s : State} (h : Keeps zz s) (g : Eng) (ecc : Ecc) : Keeps zz (State.ntpRequest s g ecc) := by
  unfold State.ntpRequest
  repeat' first
    | (intro _; intros; try dsimp -zeta only)
    | with_reducible exact Keeps.refl _
    | with_reducible assumption
    | with_reducible apply State.routine_keeps
    | with_reducible apply State.dropReq_keeps
    | with_reducible apply State.bump_keeps
    | with_reducible apply State.noteSec_keeps
    | with_reducible apply State.rateDecide_keeps
    | with_reducible apply State.sendFrame_keeps
    | with_reducible apply State.done_keeps
    | with_reducible apply State.answer_keeps
    | with_reducible apply Keeps.ite
    | (extract_lets +onlyGivenNames u; have hu : Keeps zz u := ?_; clear_value u)
    | (extract_lets +onlyGivenNames u; have hu : Keeps zz u.1 := ?_; clear_value u)
    | (extract_lets +onlyGivenNames u; have hu : Keeps zz u.2 := ?_; clear_value u)
    | (extract_lets +onlyGivenNames u; clear_value u)
    | dsimp only [u]
    | split

theorem State.fillSlots_keeps {zz s : State} (h : Keeps zz s) (slot key : Nat) : Keeps zz (State.fillSlots s slot key) := by
  unfold State.fillSlots
  repeat' first
    | (intro _; intros; try dsimp -zeta only)
    | with_reducible exact Keeps.refl _
    | with_reducible assumption
    | with_reducible apply Keeps.forEach
    | with_reducible apply State.setCluster_keeps
    | with_reducible apply State.set_keeps
    | with_reducible apply Keeps.ite
    | split

theorem State.installGen_keeps {zz s : State} (h : Keeps zz s) (gen key : Nat) (fromPartner : Bool) : Keeps zz (State.installGen s gen key fromPartner) := by
  unfold State.installGen
  repeat' first
    | (intro _; intros; try dsimp -zeta only)
    | with_reducible exact Keeps.refl _
    | with_reducible assumption
    | with_reducible apply State.onNtp_keeps
    | with_reducible apply State.set_keeps
    | with_reducible apply State.setBit_keeps
    | with_reducible apply State.putKey_keeps
    | with_reducible apply State.fillSlots_keeps
    | with_reducible apply Keeps.ite
    | (extract_lets +onlyGivenNames u; have hu : Keeps zz u := ?_; clear_value u)
    | (extract_lets +onlyGivenNames u; have hu : Keeps zz u.1 := ?_; clear_value u)
    | (extract_lets +onlyGivenNames u; have hu : Keeps zz u.2 := ?_; clear_value u)
    | (extract_lets +onlyGivenNames u; clear_value u)
    | dsimp only [u]
    | split

theorem State.zeroSlot_keeps {zz s : State} (h : Keeps zz s) (slot : Nat) : Keeps zz (State.zeroSlot s slot) := by
  unfold State.zeroSlot
  repeat' first
    | (intro _; intros; try dsimp -zeta only)
    | with_reducible exact Keeps.refl _
    | with_reducible assumption
    | with_reducible apply State.onNtp_keeps
    | with_reducible apply State.set_keeps
    | with_reducible apply State.setBit_keeps
    | with_reducible apply State.fillSlots_keeps
    | with_reducible apply State.dropKey_keeps
    | with_reducible apply Keeps.ite
    | split

theorem State.adoptGen_keeps {zz s : State} (h : Keeps zz s) (gen : Nat) : Keeps zz (State.adoptGen s gen) := by
  unfold State.adoptGen
  repeat' first
    | (intro _; intros; try dsimp -zeta only)
    | with_reducible exact Keeps.refl _
    | with_reducible assumption
    | with_reducible apply State.set_keeps
    | with_reducible apply State.onNtp_keeps
    | with_reducible apply State.zeroSlot_keeps
    | with_reducible apply Keeps.ite
    | (extract_lets +onlyGivenNames u; have hu : Keeps zz u := ?_; clear_value u)
    | (extract_lets +onlyGivenNames u; have hu : Keeps zz u.1 := ?_; clear_value u)
    | (extract_lets +onlyGivenNames u; have hu : Keeps zz u.2 := ?_; clear_value u)
    | (extract_lets +onlyGivenNames u; clear_value u)
    | dsimp only [u]
    | split

theorem State.makeCurrent_keeps {zz s : State} (h : Keeps zz s) (gen : Nat) : Keeps zz (State.makeCurrent s gen) := by
  unfold State.makeCurrent
  repeat' first
    | (intro _; intros; try dsimp -zeta only)
    | with_reducible exact Keeps.refl _
    | with_reducible assumption
    | with_reducible apply State.adoptGen_keeps
    | with_reducible apply State.event_keeps
    | with_reducible apply Keeps.ite
    | split

theorem State.drawGen_keeps {zz s : State} (h : Keeps zz s) (gen sec : Nat) : Keeps zz (State.drawGen s gen sec) := by
  unfold State.drawGen
  repeat' first
    | (intro _; intros; try dsimp -zeta only)
    | with_reducible exact Keeps.refl _
    | with_reducible assumption
    | with_reducible apply State.rand_keeps
    | with_reducible apply State.installGen_keeps
    | with_reducible apply State.onNtp_keeps
    | with_reducible apply State.onLease_keeps
    | with_reducible apply Keeps.ite
    | (extract_lets +onlyGivenNames u; have hu : Keeps zz u := ?_; clear_value u)
    | (extract_lets +onlyGivenNames u; have hu : Keeps zz u.1 := ?_; clear_value u)
    | (extract_lets +onlyGivenNames u; have hu : Keeps zz u.2 := ?_; clear_value u)
    | (extract_lets +onlyGivenNames u; clear_value u)
    | dsimp only [u]
    | split

theorem State.firstGen_keeps {zz s : State} (h : Keeps zz s) : Keeps zz (State.firstGen s) := by
  unfold State.firstGen
  repeat' first
    | (intro _; intros; try dsimp -zeta only)
    | with_reducible exact Keeps.refl _
    | with_reducible assumption
    | with_reducible apply State.rand_keeps
    | with_reducible apply State.drawGen_keeps
    | with_reducible apply State.set_keeps
    | with_reducible apply State.onNtp_keeps
    | with_reducible apply Keeps.ite
    | (extract_lets +onlyGivenNames u; have hu : Keeps zz u := ?_; clear_value u)
    | (extract_lets +onlyGivenNames u; have hu : Keeps zz u.1 := ?_; clear_value u)
    | (extract_lets +onlyGivenNames u; have hu : Keeps zz u.2 := ?_; clear_value u)
    | (extract_lets +onlyGivenNames u; clear_value u)
    | dsimp only [u]
    | split

theorem State.genDraw_keeps {zz s : State} (h : Keeps zz s) : Keeps zz (State.genDraw s) := by
  unfold State.genDraw
  repeat' first
    | (intro _; intros; try dsimp -zeta only)
    | with_reducible exact Keeps.refl _
    | with_reducible assumption
    | with_reducible apply State.drawGen_keeps
    | with_reducible apply State.onNtp_keeps
    | with_reducible apply Keeps.ite
    | (extract_lets +onlyGivenNames u; have hu : Keeps zz u := ?_; clear_value u)
    | (extract_lets +onlyGivenNames u; have hu : Keeps zz u.1 := ?_; clear_value u)
    | (extract_lets +onlyGivenNames u; have hu : Keeps zz u.2 := ?_; clear_value u)
    | (extract_lets +onlyGivenNames u; clear_value u)
    | dsimp only [u]
    | split

theorem State.genCurrent_keeps {zz s : State} (h : Keeps zz s) : Keeps zz (State.genCurrent s) := by
  unfold State.genCurrent
  repeat' first
    | (intro _; intros; try dsimp -zeta only)
    | with_reducible exact Keeps.refl _
    | with_reducible assumption
    | with_reducible apply State.makeCurrent_keeps
    | with_reducible apply Keeps.ite
    | (extract_lets +onlyGivenNames u; have hu : Keeps zz u := ?_; clear_value u)
    | (extract_lets +onlyGivenNames u; have hu : Keeps zz u.1 := ?_; clear_value u)
    | (extract_lets +onlyGivenNames u; have hu : Keeps zz u.2 := ?_; clear_value u)
    | (extract_lets +onlyGivenNames u; clear_value u)
    | dsimp only [u]
    | split

theorem State.ntsRotate_keeps {zz s : State} (h : Keeps zz s) : Keeps zz (State.ntsRotate s) := by
  unfold State.ntsRotate
  repeat' first
    | (intro _; intros; try dsimp -zeta only)
    | with_reducible exact Keeps.refl _
    | with_reducible assumption
    | with_reducible apply State.set_keeps
    | with_reducible apply State.drawGen_keeps
    | with_reducible apply State.onNtp_keeps
    | with_reducible apply Keeps.ite
    | (extract_lets +onlyGivenNames u; have hu : Keeps zz u := ?_; clear_value u)
    | (extract_lets +onlyGivenNames u; have hu : Keeps zz u.1 := ?_; clear_value u)
    | (extract_lets +onlyGivenNames u; have hu : Keeps zz u.2 := ?_; clear_value u)
    | (extract_lets +onlyGivenNames u; clear_value u)
    | dsimp only [u]
    | split

theorem State.ntsBoundary_keeps {zz s : State} (h : Keeps zz s) : Keeps zz (State.ntsBoundary s) := by
  unfold State.ntsBoundary
  repeat' first
    | (intro _; intros; try dsimp -zeta only)
    | with_reducible exact Keeps.refl _
    | with_reducible assumption
    | with_reducible apply State.makeCurrent_keeps
    | with_reducible apply State.set_keeps
    | with_reducible apply State.setSat_keeps
    | with_reducible apply State.onNtp_keeps
    | with_reducible apply Keeps.ite
    | (extract_lets +onlyGivenNames u; have hu : Keeps zz u := ?_; clear_value u)
    | (extract_lets +onlyGivenNames u; have hu : Keeps zz u.1 := ?_; clear_value u)
    | (extract_lets +onlyGivenNames u; have hu : Keeps zz u.2 := ?_; clear_value u)
    | (extract_lets +onlyGivenNames u; clear_value u)
    | dsimp only [u]
    | split

theorem State.genReceived_keeps {zz s : State} (h : Keeps zz s) (gen key : Nat) : Keeps zz (State.genReceived s gen key) := by
  unfold State.genReceived
  repeat' first
    | (intro _; intros; try dsimp -zeta only)
    | with_reducible exact Keeps.refl _
    | with_reducible assumption
    | with_reducible apply State.installGen_keeps
    | with_reducible apply State.event_keeps
    | with_reducible apply State.onNtp_keeps
    | with_reducible apply State.adoptGen_keeps
    | with_reducible apply Keeps.ite
    | (extract_lets +onlyGivenNames u; have hu : Keeps zz u := ?_; clear_value u)
    | (extract_lets +onlyGivenNames u; have hu : Keeps zz u.1 := ?_; clear_value u)
    | (extract_lets +onlyGivenNames u; have hu : Keeps zz u.2 := ?_; clear_value u)
    | (extract_lets +onlyGivenNames u; clear_value u)
    | dsimp only [u]
    | split

theorem State.ntsTake_keeps {zz s : State} (h : Keeps zz s) : Keeps zz (State.ntsTake s) := by
  unfold State.ntsTake
  repeat' first
    | (intro _; intros; try dsimp -zeta only)
    | with_reducible exact Keeps.refl _
    | with_reducible assumption
    | with_reducible apply State.rand_keeps
    | with_reducible apply State.drawGen_keeps
    | with_reducible apply State.set_keeps
    | with_reducible apply State.event_keeps
    | with_reducible apply Keeps.ite
    | (extract_lets +onlyGivenNames u; have hu : Keeps zz u := ?_; clear_value u)
    | (extract_lets +onlyGivenNames u; have hu : Keeps zz u.1 := ?_; clear_value u)
    | (extract_lets +onlyGivenNames u; have hu : Keeps zz u.2 := ?_; clear_value u)
    | (extract_lets +onlyGivenNames u; clear_value u)
    | dsimp only [u]
    | split

theorem State.keyLoad_keeps {zz s : State} (h : Keeps zz s) (g : Eng) (gen slot : Nat) : Keeps zz (State.keyLoad s g gen slot) := by
  unfold State.keyLoad
  repeat' first
    | (intro _; intros; try dsimp -zeta only)
    | with_reducible exact Keeps.refl _
    | with_reducible assumption
    | with_reducible apply State.onCall_keeps
    | with_reducible apply State.setCluster_keeps
    | with_reducible apply State.set_keeps
    | with_reducible apply State.answer_keeps
    | with_reducible apply Keeps.ite
    | split

theorem State.cookie_keeps {zz s : State} (h : Keeps zz s) (c2s s2c : List Byte) : Keeps zz ((State.cookie s c2s s2c).2) := by
  unfold State.cookie
  repeat' first
    | (intro _; intros; try dsimp -zeta only)
    | with_reducible exact Keeps.refl _
    | with_reducible assumption
    | with_reducible apply State.rand_keeps
    | with_reducible apply Keeps.getD
    | with_reducible apply Keeps.ite
    | (extract_lets +onlyGivenNames u; have hu : Keeps zz u := ?_; clear_value u)
    | (extract_lets +onlyGivenNames u; have hu : Keeps zz u.1 := ?_; clear_value u)
    | (extract_lets +onlyGivenNames u; have hu : Keeps zz u.2 := ?_; clear_value u)
    | (extract_lets +onlyGivenNames u; clear_value u)
    | dsimp only [u]
    | split

theorem State.cookies_keeps {zz s : State} (h : Keeps zz s) (c2s s2c head : List Byte) (n : Nat) :
    Keeps zz (s.cookies c2s s2c head n).2 := by
  induction n generalizing s with
  | zero => exact h
  | succ n ih => exact ih (State.cookie_keeps h _ _)

theorem State.ntsNak_keeps {zz s : State} (h : Keeps zz s) (g : Eng) (r : Req) (p uid : List Byte) (F : Field) (reason : Nat) : Keeps zz (State.ntsNak s g r p uid F reason) := by
  unfold State.ntsNak
  repeat' first
    | (intro _; intros; try dsimp -zeta only)
    | with_reducible exact Keeps.refl _
    | with_reducible assumption
    | with_reducible apply State.sendFrame_keeps
    | with_reducible apply State.bump_keeps
    | with_reducible apply State.noteSec_keeps
    | with_reducible apply State.done_keeps
    | with_reducible apply Keeps.ite
    | (extract_lets +onlyGivenNames u; have hu : Keeps zz u := ?_; clear_value u)
    | (extract_lets +onlyGivenNames u; have hu : Keeps zz u.1 := ?_; clear_value u)
    | (extract_lets +onlyGivenNames u; have hu : Keeps zz u.2 := ?_; clear_value u)
    | (extract_lets +onlyGivenNames u; clear_value u)
    | dsimp only [u]
    | split

theorem State.ntsAnswer_keeps {zz s : State} (h : Keeps zz s) (g : Eng) (r : Req) (p : List Byte) (x : NtsParts) (keys : List Byte × List Byte) (kod : Bool) (phase : Nat) : Keeps zz (State.ntsAnswer s g r p x keys kod phase) := by
  unfold State.ntsAnswer
  repeat' first
    | (intro _; intros; try dsimp -zeta only)
    | with_reducible exact Keeps.refl _
    | with_reducible assumption
    | with_reducible apply State.reserve_keeps
    | with_reducible apply State.cookies_keeps
    | with_reducible apply State.rand_keeps
    | with_reducible apply State.sendFrame_keeps
    | with_reducible apply State.bump_keeps
    | with_reducible apply State.done_keeps
    | with_reducible apply Keeps.ite
    | (extract_lets +onlyGivenNames u; have hu : Keeps zz u := ?_; clear_value u)
    | (extract_lets +onlyGivenNames u; have hu : Keeps zz u.1 := ?_; clear_value u)
    | (extract_lets +onlyGivenNames u; have hu : Keeps zz u.2 := ?_; clear_value u)
    | (extract_lets +onlyGivenNames u; clear_value u)
    | dsimp only [u]
    | split

theorem State.ntsRequest_keeps {zz s : State} (h : Keeps zz s) (g : Eng) (ecc : Ecc) (phase : Nat) : Keeps zz (State.ntsRequest s g ecc phase) := by
  unfold State.ntsRequest
  repeat' first
    | (intro _; intros; try dsimp -zeta only)
    | with_reducible exact Keeps.refl _
    | with_reducible assumption
    | with_reducible apply State.routine_keeps
    | with_reducible apply State.dropReq_keeps
    | with_reducible apply State.bump_keeps
    | with_reducible apply State.cookie_keeps
    | with_reducible apply State.ntsNak_keeps
    | with_reducible apply State.rateDecide_keeps
    | with_reducible apply State.ntsAnswer_keeps
    | with_reducible apply State.answer_keeps
    | with_reducible apply Keeps.ite
    | (extract_lets +onlyGivenNames u; have hu : Keeps zz u := ?_; clear_value u)
    | (extract_lets +onlyGivenNames u; have hu : Keeps zz u.1 := ?_; clear_value u)
    | (extract_lets +onlyGivenNames u; have hu : Keeps zz u.2 := ?_; clear_value u)
    | (extract_lets +onlyGivenNames u; have ht := fun (x : State) => u x; clear ht; dsimp -zeta only [u]; clear u)
    | (extract_lets +onlyGivenNames u; have ht := fun y (x : State) => u y x; clear ht; dsimp -zeta only [u]; clear u)
    | (extract_lets +onlyGivenNames u; clear_value u)
    | dsimp only [u]
    | split

theorem State.freshCerts_keeps {zz s : State} (h : Keeps zz s) : Keeps zz (State.freshCerts s) := by
  unfold State.freshCerts
  repeat' first
    | (intro _; intros; try dsimp -zeta only)
    | with_reducible exact Keeps.refl _
    | with_reducible assumption
    | with_reducible apply Keeps.forEach
    | with_reducible apply State.setb_keeps
    | with_reducible apply State.clearCond_keeps
    | with_reducible apply State.raiseCond_keeps
    | with_reducible apply Keeps.ite
    | (extract_lets +onlyGivenNames u; have hu : Keeps zz u := ?_; clear_value u)
    | (extract_lets +onlyGivenNames u; have hu : Keeps zz u.1 := ?_; clear_value u)
    | (extract_lets +onlyGivenNames u; have hu : Keeps zz u.2 := ?_; clear_value u)
    | (extract_lets +onlyGivenNames u; clear_value u)
    | dsimp only [u]
    | split

theorem State.setConns_keeps {zz s : State} (h : Keeps zz s) (l : List KeConn) : Keeps zz (State.setConns s l) := by
  unfold State.setConns
  repeat' first
    | (intro _; intros; try dsimp -zeta only)
    | with_reducible exact Keeps.refl _
    | with_reducible assumption
    | with_reducible apply State.onNtp_keeps
    | with_reducible apply State.setSat_keeps
    | with_reducible apply Keeps.ite
    | split

theorem State.dropConn_keeps {zz s : State} (h : Keeps zz s) (id : Nat) : Keeps zz (State.dropConn s id) := by
  unfold State.dropConn
  repeat' first
    | (intro _; intros; try dsimp -zeta only)
    | with_reducible exact Keeps.refl _
    | with_reducible assumption
    | with_reducible apply State.setConns_keeps
    | with_reducible apply Keeps.ite
    | split

theorem State.keSend_keeps {zz s : State} (h : Keeps zz s) (k : KeConn) (flags : Nat) (b : List Byte) : Keeps zz (State.keSend s k flags b) := by
  unfold State.keSend
  repeat' first
    | (intro _; intros; try dsimp -zeta only)
    | with_reducible exact Keeps.refl _
    | with_reducible assumption
    | with_reducible apply State.setConns_keeps
    | with_reducible apply State.tcpStream_keeps
    | with_reducible apply Keeps.ite
    | split

theorem State.keSay_keeps {zz s : State} (h : Keeps zz s) (k : KeConn) (flags : Nat) (what : Output) (content : List Byte) : Keeps zz (State.keSay s k flags what content) := by
  unfold State.keSay
  repeat' first
    | (intro _; intros; try dsimp -zeta only)
    | with_reducible exact Keeps.refl _
    | with_reducible assumption
    | with_reducible apply State.emit_keeps
    | with_reducible apply State.drawn_keeps
    | with_reducible apply State.keSend_keeps
    | with_reducible apply Keeps.ite
    | split

theorem State.keSyn_keeps {zz s : State} (h : Keeps zz s) (p conn : Nat) (x : Far) : Keeps zz (State.keSyn s p conn x) := by
  unfold State.keSyn
  repeat' first
    | (intro _; intros; try dsimp -zeta only)
    | with_reducible exact Keeps.refl _
    | with_reducible assumption
    | with_reducible apply State.bump_keeps
    | with_reducible apply State.emit_keeps
    | with_reducible apply State.tcpSend_keeps
    | with_reducible apply State.drawn_keeps
    | with_reducible apply State.setConns_keeps
    | with_reducible apply Keeps.ite
    | (extract_lets +onlyGivenNames u; have hu : Keeps zz u := ?_; clear_value u)
    | (extract_lets +onlyGivenNames u; have hu : Keeps zz u.1 := ?_; clear_value u)
    | (extract_lets +onlyGivenNames u; have hu : Keeps zz u.2 := ?_; clear_value u)
    | (extract_lets +onlyGivenNames u; clear_value u)
    | dsimp only [u]
    | split

theorem State.keAlert_keeps {zz s : State} (h : Keeps zz s) (conn code : Nat) : Keeps zz (State.keAlert s conn code) := by
  unfold State.keAlert
  repeat' first
    | (intro _; intros; try dsimp -zeta only)
    | with_reducible exact Keeps.refl _
    | with_reducible assumption
    | with_reducible apply State.bump_keeps
    | with_reducible apply State.noteSec_keeps
    | with_reducible apply State.keSay_keeps
    | with_reducible apply State.dropConn_keeps
    | with_reducible apply Keeps.ite
    | split

theorem State.clientHello_keeps {zz s : State} (h : Keeps zz s) (conn : Nat) (h : Hello) : Keeps zz (State.clientHello s conn h) := by
  unfold State.clientHello
  repeat' first
    | (intro _; intros; try dsimp -zeta only)
    | with_reducible exact Keeps.refl _
    | with_reducible assumption
    | with_reducible apply State.keAlert_keeps
    | with_reducible apply State.setConns_keeps
    | with_reducible apply State.keSay_keeps
    | with_reducible apply State.set_keeps
    | with_reducible apply State.freshCerts_keeps
    | with_reducible apply Keeps.ite
    | (extract_lets +onlyGivenNames u; have hu : Keeps zz u := ?_; clear_value u)
    | (extract_lets +onlyGivenNames u; have hu : Keeps zz u.1 := ?_; clear_value u)
    | (extract_lets +onlyGivenNames u; have hu : Keeps zz u.2 := ?_; clear_value u)
    | (extract_lets +onlyGivenNames u; clear_value u)
    | dsimp only [u]
    | split

theorem State.keEnd_keeps {zz s : State} (h : Keeps zz s) (conn : Nat) (bytes : List Byte) : Keeps zz (State.keEnd s conn bytes) := by
  unfold State.keEnd
  repeat' first
    | (intro _; intros; try dsimp -zeta only)
    | with_reducible exact Keeps.refl _
    | with_reducible assumption
    | with_reducible apply State.keSay_keeps
    | with_reducible apply State.dropConn_keeps
    | with_reducible apply Keeps.ite
    | (extract_lets +onlyGivenNames u; have hu : Keeps zz u := ?_; clear_value u)
    | (extract_lets +onlyGivenNames u; have hu : Keeps zz u.1 := ?_; clear_value u)
    | (extract_lets +onlyGivenNames u; have hu : Keeps zz u.2 := ?_; clear_value u)
    | (extract_lets +onlyGivenNames u; clear_value u)
    | dsimp only [u]
    | split

theorem State.keShaken_keeps {zz s : State} (h : Keeps zz s) (k : KeConn) : Keeps zz (State.keShaken s k) := by
  unfold State.keShaken
  repeat' first
    | (intro _; intros; try dsimp -zeta only)
    | with_reducible exact Keeps.refl _
    | with_reducible assumption
    | with_reducible apply State.setConns_keeps
    | with_reducible apply State.onNtp_keeps
    | with_reducible apply Keeps.ite
    | split

theorem State.keRequest_keeps {zz s : State} (h : Keeps zz s) (conn : Nat) (records c2s s2c : List Byte) (ok : Bool) : Keeps zz (State.keRequest s conn records c2s s2c ok) := by
  unfold State.keRequest
  repeat' first
    | (intro _; intros; try dsimp -zeta only)
    | with_reducible exact Keeps.refl _
    | with_reducible assumption
    | with_reducible apply State.keShaken_keeps
    | with_reducible apply State.bump_keeps
    | with_reducible apply State.noteSec_keeps
    | with_reducible apply State.keEnd_keeps
    | with_reducible apply State.cookies_keeps
    | with_reducible apply Keeps.ite
    | (extract_lets +onlyGivenNames u; have hu : Keeps zz u := ?_; clear_value u)
    | (extract_lets +onlyGivenNames u; have hu : Keeps zz u.1 := ?_; clear_value u)
    | (extract_lets +onlyGivenNames u; have hu : Keeps zz u.2 := ?_; clear_value u)
    | (extract_lets +onlyGivenNames u; have ht := fun (x : State) => u x; clear ht; dsimp -zeta only [u]; clear u)
    | (extract_lets +onlyGivenNames u; have ht := fun y (x : State) => u y x; clear ht; dsimp -zeta only [u]; clear u)
    | (extract_lets +onlyGivenNames u; clear_value u)
    | dsimp only [u]
    | split

theorem State.keTimeout_keeps {zz s : State} (h : Keeps zz s) (conn : Nat) : Keeps zz (State.keTimeout s conn) := by
  unfold State.keTimeout
  repeat' first
    | (intro _; intros; try dsimp -zeta only)
    | with_reducible exact Keeps.refl _
    | with_reducible assumption
    | with_reducible refine State.reachTick_keeps ?_ (by assumption)
    | with_reducible apply State.bump_keeps
    | with_reducible apply State.keSay_keeps
    | with_reducible apply State.dropConn_keeps
    | with_reducible apply Keeps.ite
    | split

theorem State.certCheck_keeps {zz s : State} (h : Keeps zz s) : Keeps zz (State.certCheck s) := by
  unfold State.certCheck
  repeat' first
    | (intro _; intros; try dsimp -zeta only)
    | with_reducible exact Keeps.refl _
    | with_reducible assumption
    | with_reducible apply State.freshCerts_keeps
    | with_reducible apply State.onNtp_keeps
    | with_reducible apply State.event_keeps
    | with_reducible apply Keeps.ite
    | (extract_lets +onlyGivenNames u; have hu : Keeps zz u := ?_; clear_value u)
    | (extract_lets +onlyGivenNames u; have hu : Keeps zz u.1 := ?_; clear_value u)
    | (extract_lets +onlyGivenNames u; have hu : Keeps zz u.2 := ?_; clear_value u)
    | (extract_lets +onlyGivenNames u; clear_value u)
    | dsimp only [u]
    | split

end Sys2Proof.Machine
end

