-- ==== Sys2Proof/Laws/Keep/Ptp.lean ====
section
/-! SUPPORT. Sys2Proof/Machine/Ptp.lean keeps the queue and the canonical forms. -/
namespace Sys2Proof.Machine

theorem State.ptpTo_keeps {zz s : State} (h : Keeps zz s) (p st : Nat) : Keeps zz (State.ptpTo s p st) := by
  unfold State.ptpTo
  repeat' first
    | (intro _; intros; try dsimp -zeta only)
    | with_reducible exact Keeps.refl _
    | with_reducible assumption
    | with_reducible apply State.set_keeps
    | with_reducible apply State.event_keeps
    | with_reducible apply Keeps.ite
    | split

theorem State.setPeer_keeps {zz s : State} (h : Keeps zz s) (p : Nat) (x : Peer) : Keeps zz (State.setPeer s p x) := by
  unfold State.setPeer
  repeat' first
    | (intro _; intros; try dsimp -zeta only)
    | with_reducible exact Keeps.refl _
    | with_reducible assumption
    | with_reducible apply State.onPtp_keeps
    | with_reducible apply State.set_keeps
    | with_reducible apply Keeps.ite
    | split

theorem State.ptpEval_keeps {zz s : State} (h : Keeps zz s) (p : Nat) : Keeps zz (State.ptpEval s p) := by
  unfold State.ptpEval
  repeat' first
    | (intro _; intros; try dsimp -zeta only)
    | with_reducible exact Keeps.refl _
    | with_reducible assumption
    | with_reducible apply State.onPtp_keeps
    | with_reducible apply State.set_keeps
    | with_reducible apply State.ptpTo_keeps
    | with_reducible apply Keeps.ite
    | (extract_lets +onlyGivenNames u; have hu : Keeps zz u := ?_; clear_value u)
    | (extract_lets +onlyGivenNames u; have hu : Keeps zz u.1 := ?_; clear_value u)
    | (extract_lets +onlyGivenNames u; have hu : Keeps zz u.2 := ?_; clear_value u)
    | (extract_lets +onlyGivenNames u; clear_value u)
    | dsimp only [u]
    | split

theorem State.linkUp_keeps {zz s : State} (h : Keeps zz s) (p : Nat) : Keeps zz (State.linkUp s p) := by
  unfold State.linkUp
  repeat' first
    | (intro _; intros; try dsimp -zeta only)
    | with_reducible exact Keeps.refl _
    | with_reducible assumption
    | with_reducible apply State.portRise_keeps
    | with_reducible apply State.lldpSend_keeps
    | with_reducible apply State.ptpEval_keeps
    | with_reducible apply Keeps.ite
    | (extract_lets +onlyGivenNames u; have hu : Keeps zz u := ?_; clear_value u)
    | (extract_lets +onlyGivenNames u; have hu : Keeps zz u.1 := ?_; clear_value u)
    | (extract_lets +onlyGivenNames u; have hu : Keeps zz u.2 := ?_; clear_value u)
    | (extract_lets +onlyGivenNames u; clear_value u)
    | dsimp only [u]
    | split

theorem State.linkDown_keeps {zz s : State} (h : Keeps zz s) (p reason : Nat) : Keeps zz (State.linkDown s p reason) := by
  unfold State.linkDown
  repeat' first
    | (intro _; intros; try dsimp -zeta only)
    | with_reducible exact Keeps.refl _
    | with_reducible assumption
    | with_reducible apply State.portFall_keeps
    | with_reducible apply State.ptpEval_keeps
    | with_reducible apply Keeps.ite
    | split

theorem State.dropPort_keeps {zz s : State} (h : Keeps zz s) (p reason : Nat) : Keeps zz (State.dropPort s p reason) := by
  unfold State.dropPort
  repeat' first
    | (intro _; intros; try dsimp -zeta only)
    | with_reducible exact Keeps.refl _
    | with_reducible assumption
    | with_reducible apply State.portDown_keeps
    | with_reducible apply State.ptpEval_keeps
    | with_reducible apply Keeps.ite
    | split

theorem State.ptpRx_keeps {zz s : State} (h : Keeps zz s) (g : Eng) (types : List Nat) (f : State → Req → PtpMsg → State) (hf : ∀ (x0 : State) (x1 : Req) (x2 : PtpMsg), Keeps zz x0 → Keeps zz (f x0 x1 x2)) : Keeps zz (State.ptpRx s g types f) := by
  unfold State.ptpRx
  repeat' first
    | (intro _; intros; try dsimp -zeta only)
    | with_reducible exact Keeps.refl _
    | with_reducible assumption
    | with_reducible apply State.routine_keeps
    | with_reducible apply State.bump_keeps
    | with_reducible apply State.noteSec_keeps
    | with_reducible apply State.dropReq_keeps
    | with_reducible apply hf
    | with_reducible apply Keeps.ite
    | (extract_lets +onlyGivenNames u; have hu : Keeps zz u := ?_; clear_value u)
    | (extract_lets +onlyGivenNames u; have hu : Keeps zz u.1 := ?_; clear_value u)
    | (extract_lets +onlyGivenNames u; have hu : Keeps zz u.2 := ?_; clear_value u)
    | (extract_lets +onlyGivenNames u; clear_value u)
    | dsimp only [u]
    | split

theorem State.sendPtp_keeps {zz s : State} (h : Keeps zz s) (g : Eng) (r : Req) (p : Nat) (d : PtpDest) (event : Bool) (m : List Byte) (op link : Nat) (rec : Bool) (base : Nat) : Keeps zz (State.sendPtp s g r p d event m op link rec base) := by
  unfold State.sendPtp
  repeat' first
    | (intro _; intros; try dsimp -zeta only)
    | with_reducible exact Keeps.refl _
    | with_reducible assumption
    | with_reducible apply State.sendFrame_keeps
    | with_reducible apply Keeps.ite
    | (extract_lets +onlyGivenNames u; have hu : Keeps zz u := ?_; clear_value u)
    | (extract_lets +onlyGivenNames u; have hu : Keeps zz u.1 := ?_; clear_value u)
    | (extract_lets +onlyGivenNames u; have hu : Keeps zz u.2 := ?_; clear_value u)
    | (extract_lets +onlyGivenNames u; clear_value u)
    | dsimp only [u]
    | split

theorem State.takeLink_keeps {zz s : State} (h : Keeps zz s) (p : Nat) : Keeps zz ((State.takeLink s p).1) := by
  unfold State.takeLink
  repeat' first
    | (intro _; intros; try dsimp -zeta only)
    | with_reducible exact Keeps.refl _
    | with_reducible assumption
    | with_reducible apply State.bump_keeps
    | with_reducible apply State.noteSec_keeps
    | with_reducible apply State.onPtp_keeps
    | with_reducible apply State.set_keeps
    | with_reducible apply Keeps.ite
    | (extract_lets +onlyGivenNames u; have hu : Keeps zz u := ?_; clear_value u)
    | (extract_lets +onlyGivenNames u; have hu : Keeps zz u.1 := ?_; clear_value u)
    | (extract_lets +onlyGivenNames u; have hu : Keeps zz u.2 := ?_; clear_value u)
    | (extract_lets +onlyGivenNames u; clear_value u)
    | dsimp only [u]
    | split

theorem State.delayReq_keeps {zz s : State} (h : Keeps zz s) (g : Eng) : Keeps zz (State.delayReq s g) := by
  unfold State.delayReq
  repeat' first
    | (intro _; intros; try dsimp -zeta only)
    | with_reducible exact Keeps.refl _
    | with_reducible assumption
    | with_reducible apply State.ptpRx_keeps
    | with_reducible apply State.dropReq_keeps
    | with_reducible apply State.sendPtp_keeps
    | with_reducible apply State.bump_keeps
    | with_reducible apply State.done_keeps
    | with_reducible apply Keeps.ite
    | (extract_lets +onlyGivenNames u; have hu : Keeps zz u := ?_; clear_value u)
    | (extract_lets +onlyGivenNames u; have hu : Keeps zz u.1 := ?_; clear_value u)
    | (extract_lets +onlyGivenNames u; have hu : Keeps zz u.2 := ?_; clear_value u)
    | (extract_lets +onlyGivenNames u; clear_value u)
    | dsimp only [u]
    | split

theorem State.pdelayReq_keeps {zz s : State} (h : Keeps zz s) (g : Eng) : Keeps zz (State.pdelayReq s g) := by
  unfold State.pdelayReq
  repeat' first
    | (intro _; intros; try dsimp -zeta only)
    | with_reducible exact Keeps.refl _
    | with_reducible assumption
    | with_reducible apply State.ptpRx_keeps
    | with_reducible apply State.dropReq_keeps
    | with_reducible apply State.takeLink_keeps
    | with_reducible apply State.sendPtp_keeps
    | with_reducible apply State.bump_keeps
    | with_reducible apply State.done_keeps
    | with_reducible apply Keeps.ite
    | (extract_lets +onlyGivenNames u; have hu : Keeps zz u := ?_; clear_value u)
    | (extract_lets +onlyGivenNames u; have hu : Keeps zz u.1 := ?_; clear_value u)
    | (extract_lets +onlyGivenNames u; have hu : Keeps zz u.2 := ?_; clear_value u)
    | (extract_lets +onlyGivenNames u; clear_value u)
    | dsimp only [u]
    | split

theorem State.peerDone_keeps {zz s : State} (h : Keeps zz s) (p : Nat) (d : Int) : Keeps zz (State.peerDone s p d) := by
  unfold State.peerDone
  repeat' first
    | (intro _; intros; try dsimp -zeta only)
    | with_reducible exact Keeps.refl _
    | with_reducible assumption
    | with_reducible apply State.setPeer_keeps
    | with_reducible apply State.done_keeps
    | with_reducible apply State.seti_keeps
    | with_reducible apply State.ptpEval_keeps
    | with_reducible apply Keeps.foldl
    | with_reducible apply Keeps.foldl_fst
    | with_reducible apply Keeps.ite
    | (extract_lets +onlyGivenNames u; have hu : Keeps zz u := ?_; clear_value u)
    | (extract_lets +onlyGivenNames u; have hu : Keeps zz u.1 := ?_; clear_value u)
    | (extract_lets +onlyGivenNames u; have hu : Keeps zz u.2 := ?_; clear_value u)
    | (extract_lets +onlyGivenNames u; clear_value u)
    | dsimp only [u]
    | split

theorem State.pdelayResp_keeps {zz s : State} (h : Keeps zz s) (g : Eng) : Keeps zz (State.pdelayResp s g) := by
  unfold State.pdelayResp
  repeat' first
    | (intro _; intros; try dsimp -zeta only)
    | with_reducible exact Keeps.refl _
    | with_reducible assumption
    | with_reducible apply State.ptpRx_keeps
    | with_reducible apply State.setPeer_keeps
    | with_reducible apply State.peerDone_keeps
    | with_reducible apply State.dropReq_keeps
    | with_reducible apply Keeps.ite
    | (extract_lets +onlyGivenNames u; have hu : Keeps zz u := ?_; clear_value u)
    | (extract_lets +onlyGivenNames u; have hu : Keeps zz u.1 := ?_; clear_value u)
    | (extract_lets +onlyGivenNames u; have hu : Keeps zz u.2 := ?_; clear_value u)
    | (extract_lets +onlyGivenNames u; clear_value u)
    | dsimp only [u]
    | split

theorem State.sendReserved_keeps {zz s : State} (h : Keeps zz s) (p : Nat) (d : PtpDest) (phase : Nat) (build : Nat → List Byte) : Keeps zz ((State.sendReserved s p d phase build).1) := by
  unfold State.sendReserved
  repeat' first
    | (intro _; intros; try dsimp -zeta only)
    | with_reducible exact Keeps.refl _
    | with_reducible assumption
    | with_reducible apply State.reserve_keeps
    | with_reducible apply State.originate_keeps
    | with_reducible apply Keeps.ite
    | (extract_lets +onlyGivenNames u; have hu : Keeps zz u := ?_; clear_value u)
    | (extract_lets +onlyGivenNames u; have hu : Keeps zz u.1 := ?_; clear_value u)
    | (extract_lets +onlyGivenNames u; have hu : Keeps zz u.2 := ?_; clear_value u)
    | (extract_lets +onlyGivenNames u; clear_value u)
    | dsimp only [u]
    | split

theorem State.pdelaySend_keeps {zz s : State} (h : Keeps zz s) (p phase : Nat) : Keeps zz (State.pdelaySend s p phase) := by
  unfold State.pdelaySend
  repeat' first
    | (intro _; intros; try dsimp -zeta only)
    | with_reducible exact Keeps.refl _
    | with_reducible assumption
    | with_reducible refine State.reachTick_keeps ?_ (by assumption)
    | with_reducible apply State.sendReserved_keeps
    | with_reducible apply State.done_keeps
    | with_reducible apply State.setPeer_keeps
    | with_reducible apply State.ptpEval_keeps
    | with_reducible apply Keeps.ite
    | (extract_lets +onlyGivenNames u; have hu : Keeps zz u := ?_; clear_value u)
    | (extract_lets +onlyGivenNames u; have hu : Keeps zz u.1 := ?_; clear_value u)
    | (extract_lets +onlyGivenNames u; have hu : Keeps zz u.2 := ?_; clear_value u)
    | (extract_lets +onlyGivenNames u; clear_value u)
    | dsimp only [u]
    | split

theorem State.ptpinQ1_keeps {zz s : State} (h : Keeps zz s) : Keeps zz (State.ptpinQ1 s) := by
  unfold State.ptpinQ1
  repeat' first
    | (intro _; intros; try dsimp -zeta only)
    | with_reducible exact Keeps.refl _
    | with_reducible assumption
    | with_reducible apply State.setb_keeps
    | with_reducible apply Keeps.ite
    | (extract_lets +onlyGivenNames u; have hu : Keeps zz u := ?_; clear_value u)
    | (extract_lets +onlyGivenNames u; have hu : Keeps zz u.1 := ?_; clear_value u)
    | (extract_lets +onlyGivenNames u; have hu : Keeps zz u.2 := ?_; clear_value u)
    | (extract_lets +onlyGivenNames u; clear_value u)
    | dsimp only [u]
    | split

theorem State.ptpinSelect_keeps {zz s : State} (h : Keeps zz s) : Keeps zz (State.ptpinSelect s) := by
  unfold State.ptpinSelect
  repeat' first
    | (intro _; intros; try dsimp -zeta only)
    | with_reducible exact Keeps.refl _
    | with_reducible assumption
    | with_reducible apply State.onPtp_keeps
    | with_reducible apply State.set_keeps
    | with_reducible apply State.event_keeps
    | with_reducible apply State.ptpinQ1_keeps
    | with_reducible apply Keeps.foldl
    | with_reducible apply Keeps.foldl_fst
    | with_reducible apply Keeps.ite
    | (extract_lets +onlyGivenNames u; have hu : Keeps zz u := ?_; clear_value u)
    | (extract_lets +onlyGivenNames u; have hu : Keeps zz u.1 := ?_; clear_value u)
    | (extract_lets +onlyGivenNames u; have hu : Keeps zz u.2 := ?_; clear_value u)
    | (extract_lets +onlyGivenNames u; have ht := fun (x : State) => u x; clear ht; dsimp -zeta only [u]; clear u)
    | (extract_lets +onlyGivenNames u; have ht := fun y (x : State) => u y x; clear ht; dsimp -zeta only [u]; clear u)
    | (extract_lets +onlyGivenNames u; clear_value u)
    | dsimp only [u]
    | split

theorem State.announceRx_keeps {zz s : State} (h : Keeps zz s) (g : Eng) : Keeps zz (State.announceRx s g) := by
  unfold State.announceRx
  repeat' first
    | (intro _; intros; try dsimp -zeta only)
    | with_reducible exact Keeps.refl _
    | with_reducible assumption
    | with_reducible apply State.ptpRx_keeps
    | with_reducible apply State.dropReq_keeps
    | with_reducible apply State.onPtp_keeps
    | with_reducible apply State.ptpinSelect_keeps
    | with_reducible apply State.ptpEval_keeps
    | with_reducible apply Keeps.ite
    | (extract_lets +onlyGivenNames u; have hu : Keeps zz u := ?_; clear_value u)
    | (extract_lets +onlyGivenNames u; have hu : Keeps zz u.1 := ?_; clear_value u)
    | (extract_lets +onlyGivenNames u; have hu : Keeps zz u.2 := ?_; clear_value u)
    | (extract_lets +onlyGivenNames u; clear_value u)
    | dsimp only [u]
    | split

theorem State.announceTimeout_keeps {zz s : State} (h : Keeps zz s) (p : Nat) : Keeps zz (State.announceTimeout s p) := by
  unfold State.announceTimeout
  repeat' first
    | (intro _; intros; try dsimp -zeta only)
    | with_reducible exact Keeps.refl _
    | with_reducible assumption
    | with_reducible refine State.reachTick_keeps ?_ (by assumption)
    | with_reducible apply State.onPtp_keeps
    | with_reducible apply State.ptpinSelect_keeps
    | with_reducible apply State.ptpEval_keeps
    | with_reducible apply Keeps.ite
    | (extract_lets +onlyGivenNames u; have hu : Keeps zz u := ?_; clear_value u)
    | (extract_lets +onlyGivenNames u; have hu : Keeps zz u.1 := ?_; clear_value u)
    | (extract_lets +onlyGivenNames u; have hu : Keeps zz u.2 := ?_; clear_value u)
    | (extract_lets +onlyGivenNames u; clear_value u)
    | dsimp only [u]
    | split

theorem State.showAdmit_keeps {zz s : State} (h : Keeps zz s) (p old new : Nat) : Keeps zz (State.showAdmit s p old new) := by
  unfold State.showAdmit
  repeat' first
    | (intro _; intros; try dsimp -zeta only)
    | with_reducible exact Keeps.refl _
    | with_reducible assumption
    | with_reducible apply State.onPtp_keeps
    | with_reducible apply State.set_keeps
    | with_reducible apply State.setSat_keeps
    | with_reducible apply Keeps.foldl
    | with_reducible apply Keeps.foldl_fst
    | with_reducible apply Keeps.ite
    | (extract_lets +onlyGivenNames u; have hu : Keeps zz u := ?_; clear_value u)
    | (extract_lets +onlyGivenNames u; have hu : Keeps zz u.1 := ?_; clear_value u)
    | (extract_lets +onlyGivenNames u; have hu : Keeps zz u.2 := ?_; clear_value u)
    | (extract_lets +onlyGivenNames u; clear_value u)
    | dsimp only [u]
    | split

theorem State.startResync_keeps {zz s : State} (h : Keeps zz s) : Keeps zz (State.startResync s) := by
  unfold State.startResync
  repeat' first
    | (intro _; intros; try dsimp -zeta only)
    | with_reducible exact Keeps.refl _
    | with_reducible assumption
    | with_reducible apply State.onLease_keeps
    | with_reducible apply State.done_keeps
    | with_reducible apply State.bump_keeps
    | with_reducible apply Keeps.ite
    | (extract_lets +onlyGivenNames u; have hu : Keeps zz u := ?_; clear_value u)
    | (extract_lets +onlyGivenNames u; have hu : Keeps zz u.1 := ?_; clear_value u)
    | (extract_lets +onlyGivenNames u; have hu : Keeps zz u.2 := ?_; clear_value u)
    | (extract_lets +onlyGivenNames u; clear_value u)
    | dsimp only [u]
    | split

theorem State.replGrant_keeps {zz s : State} (h : Keeps zz s) (n : Nat) : Keeps zz (State.replGrant s n) := by
  unfold State.replGrant
  repeat' first
    | (intro _; intros; try dsimp -zeta only)
    | with_reducible exact Keeps.refl _
    | with_reducible assumption
    | with_reducible apply State.onLease_keeps
    | with_reducible apply State.startResync_keeps
    | with_reducible apply State.event_keeps
    | with_reducible apply Keeps.ite
    | (extract_lets +onlyGivenNames u; have hu : Keeps zz u := ?_; clear_value u)
    | (extract_lets +onlyGivenNames u; have hu : Keeps zz u.1 := ?_; clear_value u)
    | (extract_lets +onlyGivenNames u; have hu : Keeps zz u.2 := ?_; clear_value u)
    | (extract_lets +onlyGivenNames u; clear_value u)
    | dsimp only [u]
    | split

theorem State.putGrant_keeps {zz s : State} (h : Keeps zz s) (n : Nat) (e : GrantEntry) : Keeps zz (State.putGrant s n e) := by
  unfold State.putGrant
  repeat' first
    | (intro _; intros; try dsimp -zeta only)
    | with_reducible exact Keeps.refl _
    | with_reducible assumption
    | with_reducible apply State.writeEntry_keeps
    | with_reducible apply State.showAdmit_keeps
    | with_reducible apply State.set_keeps
    | with_reducible apply State.replGrant_keeps
    | with_reducible apply Keeps.ite
    | (extract_lets +onlyGivenNames u; have hu : Keeps zz u := ?_; clear_value u)
    | (extract_lets +onlyGivenNames u; have hu : Keeps zz u.1 := ?_; clear_value u)
    | (extract_lets +onlyGivenNames u; have hu : Keeps zz u.2 := ?_; clear_value u)
    | (extract_lets +onlyGivenNames u; clear_value u)
    | dsimp only [u]
    | split

theorem State.unicastRequest_keeps {zz s : State} (h : Keeps zz s) (r : Req) (m : PtpMsg) (t log dur : Nat) (ecc : Ecc) : Keeps zz ((State.unicastRequest s r m t log dur ecc).1) := by
  unfold State.unicastRequest
  repeat' first
    | (intro _; intros; try dsimp -zeta only)
    | with_reducible exact Keeps.refl _
    | with_reducible assumption
    | with_reducible apply State.bump_keeps
    | with_reducible apply State.noteSec_keeps
    | with_reducible apply State.eccEntry_keeps
    | with_reducible apply State.putGrant_keeps
    | with_reducible apply State.onPtp_keeps
    | with_reducible apply State.set_keeps
    | with_reducible apply Keeps.foldl
    | with_reducible apply Keeps.foldl_fst
    | with_reducible apply Keeps.ite
    | (extract_lets +onlyGivenNames u; have hu : Keeps zz u := ?_; clear_value u)
    | (extract_lets +onlyGivenNames u; have hu : Keeps zz u.1 := ?_; clear_value u)
    | (extract_lets +onlyGivenNames u; have hu : Keeps zz u.2 := ?_; clear_value u)
    | (extract_lets +onlyGivenNames u; have ht := fun (x : State) => u x; clear ht; dsimp -zeta only [u]; clear u)
    | (extract_lets +onlyGivenNames u; have ht := fun y (x : State) => u y x; clear ht; dsimp -zeta only [u]; clear u)
    | (extract_lets +onlyGivenNames u; clear_value u)
    | dsimp only [u]
    | split

theorem State.unicastCancel_keeps {zz s : State} (h : Keeps zz s) (r : Req) (m : PtpMsg) (t : Nat) : Keeps zz ((State.unicastCancel s r m t).1) := by
  unfold State.unicastCancel
  repeat' first
    | (intro _; intros; try dsimp -zeta only)
    | with_reducible exact Keeps.refl _
    | with_reducible assumption
    | with_reducible apply State.bump_keeps
    | with_reducible apply State.putGrant_keeps
    | with_reducible apply Keeps.ite
    | (extract_lets +onlyGivenNames u; have hu : Keeps zz u := ?_; clear_value u)
    | (extract_lets +onlyGivenNames u; have hu : Keeps zz u.1 := ?_; clear_value u)
    | (extract_lets +onlyGivenNames u; have hu : Keeps zz u.2 := ?_; clear_value u)
    | (extract_lets +onlyGivenNames u; clear_value u)
    | dsimp only [u]
    | split

theorem State.grantedTo_keeps {zz s : State} (h : Keeps zz s) (dur : Nat) : Keeps zz (State.grantedTo s dur) := by
  unfold State.grantedTo
  repeat' first
    | (intro _; intros; try dsimp -zeta only)
    | with_reducible exact Keeps.refl _
    | with_reducible assumption
    | with_reducible apply State.onPtp_keeps
    | with_reducible apply Keeps.ite
    | split

theorem State.tlvs_keeps {zz s : State} (h : Keeps zz s) (r : Req) (m : PtpMsg) (ecc : Ecc) (k : Nat) (b : List Byte) :
    Keeps zz (State.tlvs r m ecc k s b).1 := by
  induction k generalizing s b with
  | zero => exact h
  | succ k ih =>
    unfold State.tlvs
    split
    · exact h
    · dsimp only
      split
      · exact h
      · refine ih ?_ _
        split
        · split
          · exact State.grantedTo_keeps h _
          · exact h
        · split
          · exact State.unicastRequest_keeps h ..
          · split
            · exact State.unicastCancel_keeps h ..
            · exact h

theorem State.signaling_keeps {zz s : State} (h : Keeps zz s) (g : Eng) (ecc : Ecc) : Keeps zz (State.signaling s g ecc) := by
  unfold State.signaling
  repeat' first
    | (intro _; intros; try dsimp -zeta only)
    | with_reducible exact Keeps.refl _
    | with_reducible assumption
    | with_reducible apply State.ptpRx_keeps
    | with_reducible apply State.dropReq_keeps
    | with_reducible apply State.tlvs_keeps
    | with_reducible apply State.onPtp_keeps
    | with_reducible apply State.sendPtp_keeps
    | with_reducible apply State.bump_keeps
    | with_reducible apply State.done_keeps
    | with_reducible apply Keeps.ite
    | (extract_lets +onlyGivenNames u; have hu : Keeps zz u := ?_; clear_value u)
    | (extract_lets +onlyGivenNames u; have hu : Keeps zz u.1 := ?_; clear_value u)
    | (extract_lets +onlyGivenNames u; have hu : Keeps zz u.2 := ?_; clear_value u)
    | (extract_lets +onlyGivenNames u; clear_value u)
    | dsimp only [u]
    | split

theorem State.grantExpire_keeps {zz s : State} (h : Keeps zz s) (n : Nat) : Keeps zz (State.grantExpire s n) := by
  unfold State.grantExpire
  repeat' first
    | (intro _; intros; try dsimp -zeta only)
    | with_reducible exact Keeps.refl _
    | with_reducible assumption
    | with_reducible apply State.putGrant_keeps
    | with_reducible apply Keeps.ite
    | (extract_lets +onlyGivenNames u; have hu : Keeps zz u := ?_; clear_value u)
    | (extract_lets +onlyGivenNames u; have hu : Keeps zz u.1 := ?_; clear_value u)
    | (extract_lets +onlyGivenNames u; have hu : Keeps zz u.2 := ?_; clear_value u)
    | (extract_lets +onlyGivenNames u; clear_value u)
    | dsimp only [u]
    | split

theorem State.calIssue_keeps {zz s : State} (h : Keeps zz s) (mcast : Bool) (n : Nat) (ann : Bool) (t : Nat) : Keeps zz (State.calIssue s mcast n ann t) := by
  unfold State.calIssue
  repeat' first
    | (intro _; intros; try dsimp -zeta only)
    | with_reducible exact Keeps.refl _
    | with_reducible assumption
    | with_reducible refine State.reach_keeps ?_ (by assumption)
    | with_reducible apply State.onPtp_keeps
    | with_reducible apply State.set_keeps
    | with_reducible apply State.onFab_keeps
    | with_reducible apply Keeps.ite
    | (extract_lets +onlyGivenNames u; have hu : Keeps zz u := ?_; clear_value u)
    | (extract_lets +onlyGivenNames u; have hu : Keeps zz u.1 := ?_; clear_value u)
    | (extract_lets +onlyGivenNames u; have hu : Keeps zz u.2 := ?_; clear_value u)
    | (extract_lets +onlyGivenNames u; clear_value u)
    | dsimp only [u]
    | split

theorem State.calMessage_keeps {zz s : State} (h : Keeps zz s) (g : Eng) : Keeps zz (State.calMessage s g) := by
  unfold State.calMessage
  repeat' first
    | (intro _; intros; try dsimp -zeta only)
    | with_reducible exact Keeps.refl _
    | with_reducible assumption
    | with_reducible apply State.routine_keeps
    | with_reducible apply State.bump_keeps
    | with_reducible apply State.dropReq_keeps
    | with_reducible apply State.sendPtp_keeps
    | with_reducible apply State.done_keeps
    | with_reducible apply State.takeLink_keeps
    | with_reducible apply Keeps.ite
    | (extract_lets +onlyGivenNames u; have hu : Keeps zz u := ?_; clear_value u)
    | (extract_lets +onlyGivenNames u; have hu : Keeps zz u.1 := ?_; clear_value u)
    | (extract_lets +onlyGivenNames u; have hu : Keeps zz u.2 := ?_; clear_value u)
    | (extract_lets +onlyGivenNames u; clear_value u)
    | dsimp only [u]
    | split

theorem State.lpiEnter_keeps {zz s : State} (h : Keeps zz s) (p : Nat) : Keeps zz (State.lpiEnter s p) := by
  unfold State.lpiEnter
  repeat' first
    | (intro _; intros; try dsimp -zeta only)
    | with_reducible exact Keeps.refl _
    | with_reducible assumption
    | with_reducible apply State.lpiEnterIf_keeps
    | with_reducible apply Keeps.ite
    | split

theorem State.ptpinMeasure_keeps {zz s : State} (h : Keeps zz s) (t2 : Nat) (term : Int) : Keeps zz (State.ptpinMeasure s t2 term) := by
  unfold State.ptpinMeasure
  repeat' first
    | (intro _; intros; try dsimp -zeta only)
    | with_reducible exact Keeps.refl _
    | with_reducible assumption
    | with_reducible apply State.onPtp_keeps
    | with_reducible apply State.measure_keeps
    | with_reducible apply State.ptpinQ1_keeps
    | with_reducible apply Keeps.ite
    | (extract_lets +onlyGivenNames u; have hu : Keeps zz u := ?_; clear_value u)
    | (extract_lets +onlyGivenNames u; have hu : Keeps zz u.1 := ?_; clear_value u)
    | (extract_lets +onlyGivenNames u; have hu : Keeps zz u.2 := ?_; clear_value u)
    | (extract_lets +onlyGivenNames u; clear_value u)
    | dsimp only [u]
    | split

theorem State.syncRx_keeps {zz s : State} (h : Keeps zz s) (g : Eng) : Keeps zz (State.syncRx s g) := by
  unfold State.syncRx
  repeat' first
    | (intro _; intros; try dsimp -zeta only)
    | with_reducible exact Keeps.refl _
    | with_reducible assumption
    | with_reducible apply State.ptpRx_keeps
    | with_reducible apply State.bump_keeps
    | with_reducible apply State.onPtp_keeps
    | with_reducible apply State.ptpinMeasure_keeps
    | with_reducible apply State.dropReq_keeps
    | with_reducible apply Keeps.ite
    | (extract_lets +onlyGivenNames u; have hu : Keeps zz u := ?_; clear_value u)
    | (extract_lets +onlyGivenNames u; have hu : Keeps zz u.1 := ?_; clear_value u)
    | (extract_lets +onlyGivenNames u; have hu : Keeps zz u.2 := ?_; clear_value u)
    | (extract_lets +onlyGivenNames u; clear_value u)
    | dsimp only [u]
    | split

theorem State.followUpRx_keeps {zz s : State} (h : Keeps zz s) (g : Eng) : Keeps zz (State.followUpRx s g) := by
  unfold State.followUpRx
  repeat' first
    | (intro _; intros; try dsimp -zeta only)
    | with_reducible exact Keeps.refl _
    | with_reducible assumption
    | with_reducible apply State.ptpRx_keeps
    | with_reducible apply State.onPtp_keeps
    | with_reducible apply State.ptpinMeasure_keeps
    | with_reducible apply State.dropReq_keeps
    | with_reducible apply Keeps.ite
    | (extract_lets +onlyGivenNames u; have hu : Keeps zz u := ?_; clear_value u)
    | (extract_lets +onlyGivenNames u; have hu : Keeps zz u.1 := ?_; clear_value u)
    | (extract_lets +onlyGivenNames u; have hu : Keeps zz u.2 := ?_; clear_value u)
    | (extract_lets +onlyGivenNames u; clear_value u)
    | dsimp only [u]
    | split

theorem State.delayRespRx_keeps {zz s : State} (h : Keeps zz s) (g : Eng) : Keeps zz (State.delayRespRx s g) := by
  unfold State.delayRespRx
  repeat' first
    | (intro _; intros; try dsimp -zeta only)
    | with_reducible exact Keeps.refl _
    | with_reducible assumption
    | with_reducible apply State.ptpRx_keeps
    | with_reducible apply State.onPtp_keeps
    | with_reducible apply State.seti_keeps
    | with_reducible apply State.dropReq_keeps
    | with_reducible apply Keeps.getD
    | with_reducible apply Keeps.ite
    | (extract_lets +onlyGivenNames u; have hu : Keeps zz u := ?_; clear_value u)
    | (extract_lets +onlyGivenNames u; have hu : Keeps zz u.1 := ?_; clear_value u)
    | (extract_lets +onlyGivenNames u; have hu : Keeps zz u.2 := ?_; clear_value u)
    | (extract_lets +onlyGivenNames u; clear_value u)
    | dsimp only [u]
    | split

theorem State.masterMac_keeps {zz s : State} (h : Keeps zz s) : Keeps zz ((State.masterMac s).2) := by
  unfold State.masterMac
  repeat' first
    | (intro _; intros; try dsimp -zeta only)
    | with_reducible exact Keeps.refl _
    | with_reducible assumption
    | with_reducible apply State.drawn_keeps
    | with_reducible apply Keeps.ite
    | split

theorem State.ptpinDest_keeps {zz s : State} (h : Keeps zz s) : Keeps zz ((State.ptpinDest s).2) := by
  unfold State.ptpinDest
  repeat' first
    | (intro _; intros; try dsimp -zeta only)
    | with_reducible exact Keeps.refl _
    | with_reducible assumption
    | with_reducible apply State.masterMac_keeps
    | with_reducible apply Keeps.ite
    | (extract_lets +onlyGivenNames u; have hu : Keeps zz u := ?_; clear_value u)
    | (extract_lets +onlyGivenNames u; have hu : Keeps zz u.1 := ?_; clear_value u)
    | (extract_lets +onlyGivenNames u; have hu : Keeps zz u.2 := ?_; clear_value u)
    | (extract_lets +onlyGivenNames u; clear_value u)
    | dsimp only [u]
    | split

theorem State.ptpinSend_keeps {zz s : State} (h : Keeps zz s) (phase : Nat) : Keeps zz (State.ptpinSend s phase) := by
  unfold State.ptpinSend
  repeat' first
    | (intro _; intros; try dsimp -zeta only)
    | with_reducible exact Keeps.refl _
    | with_reducible assumption
    | with_reducible refine State.reachTick_keeps ?_ (by assumption)
    | with_reducible apply State.ptpinDest_keeps
    | with_reducible apply State.sendReserved_keeps
    | with_reducible apply State.onPtp_keeps
    | with_reducible apply State.bump_keeps
    | with_reducible apply Keeps.ite
    | (extract_lets +onlyGivenNames u; have hu : Keeps zz u := ?_; clear_value u)
    | (extract_lets +onlyGivenNames u; have hu : Keeps zz u.1 := ?_; clear_value u)
    | (extract_lets +onlyGivenNames u; have hu : Keeps zz u.2 := ?_; clear_value u)
    | (extract_lets +onlyGivenNames u; clear_value u)
    | dsimp only [u]
    | split

theorem State.ptpinRenew_keeps {zz s : State} (h : Keeps zz s) : Keeps zz (State.ptpinRenew s) := by
  unfold State.ptpinRenew
  repeat' first
    | (intro _; intros; try dsimp -zeta only)
    | with_reducible exact Keeps.refl _
    | with_reducible assumption
    | with_reducible refine State.reachTick_keeps ?_ (by assumption)
    | with_reducible apply State.ptpinDest_keeps
    | with_reducible apply State.drawn_keeps
    | with_reducible apply State.onPtp_keeps
    | with_reducible apply State.originate_keeps
    | with_reducible apply State.bump_keeps
    | with_reducible apply Keeps.ite
    | (extract_lets +onlyGivenNames u; have hu : Keeps zz u := ?_; clear_value u)
    | (extract_lets +onlyGivenNames u; have hu : Keeps zz u.1 := ?_; clear_value u)
    | (extract_lets +onlyGivenNames u; have hu : Keeps zz u.2 := ?_; clear_value u)
    | (extract_lets +onlyGivenNames u; clear_value u)
    | dsimp only [u]
    | split

end Sys2Proof.Machine
end

