-- ==== Sys2Proof/Laws/Keep/Perf.lean ====
section
/-! SUPPORT. Sys2Proof/Machine/Perf.lean keeps the queue and the canonical forms. -/
namespace Sys2Proof.Machine

theorem State.liveRead_keeps {zz s : State} (h : Keeps zz s) (t i : Nat) : Keeps zz (State.liveRead s t i) := by
  unfold State.liveRead
  repeat' first
    | (intro _; intros; try dsimp -zeta only)
    | with_reducible exact Keeps.refl _
    | with_reducible assumption
    | with_reducible apply State.set_keeps
    | with_reducible apply Keeps.ite
    | (extract_lets +onlyGivenNames u; have hu : Keeps zz u := ?_; clear_value u)
    | (extract_lets +onlyGivenNames u; have hu : Keeps zz u.1 := ?_; clear_value u)
    | (extract_lets +onlyGivenNames u; have hu : Keeps zz u.2 := ?_; clear_value u)
    | (extract_lets +onlyGivenNames u; clear_value u)
    | dsimp only [u]
    | split

theorem State.selWrite_keeps {zz s : State} (h : Keeps zz s) (src t n v : Nat) : Keeps zz (State.selWrite s src t n v) := by
  unfold State.selWrite
  repeat' first
    | (intro _; intros; try dsimp -zeta only)
    | with_reducible exact Keeps.refl _
    | with_reducible assumption
    | with_reducible apply State.onPerf_keeps
    | with_reducible apply State.set_keeps
    | with_reducible apply State.portEv_keeps
    | with_reducible apply State.event_keeps
    | with_reducible apply State.clampLog_keeps
    | with_reducible apply Keeps.ite
    | (extract_lets +onlyGivenNames u; have hu : Keeps zz u := ?_; clear_value u)
    | (extract_lets +onlyGivenNames u; have hu : Keeps zz u.1 := ?_; clear_value u)
    | (extract_lets +onlyGivenNames u; have hu : Keeps zz u.2 := ?_; clear_value u)
    | (extract_lets +onlyGivenNames u; clear_value u)
    | dsimp only [u]
    | split

theorem State.dumpCfgWrite_keeps {zz s : State} (h : Keeps zz s) (src v : Nat) : Keeps zz (State.dumpCfgWrite s src v) := by
  unfold State.dumpCfgWrite
  repeat' first
    | (intro _; intros; try dsimp -zeta only)
    | with_reducible exact Keeps.refl _
    | with_reducible assumption
    | with_reducible apply State.set_keeps
    | with_reducible apply State.clampLog_keeps
    | with_reducible apply Keeps.ite
    | (extract_lets +onlyGivenNames u; have hu : Keeps zz u := ?_; clear_value u)
    | (extract_lets +onlyGivenNames u; have hu : Keeps zz u.1 := ?_; clear_value u)
    | (extract_lets +onlyGivenNames u; have hu : Keeps zz u.2 := ?_; clear_value u)
    | (extract_lets +onlyGivenNames u; clear_value u)
    | dsimp only [u]
    | split

theorem State.perfSelWrite_keeps {zz s : State} (h : Keeps zz s) (path : Path) (addr v : Nat) : Keeps zz (State.perfSelWrite s path addr v) := by
  unfold State.perfSelWrite
  repeat' first
    | (intro _; intros; try dsimp -zeta only)
    | with_reducible exact Keeps.refl _
    | with_reducible assumption
    | with_reducible apply State.dumpCfgWrite_keeps
    | with_reducible apply State.selWrite_keeps
    | with_reducible apply Keeps.ite
    | (extract_lets +onlyGivenNames u; have hu : Keeps zz u := ?_; clear_value u)
    | (extract_lets +onlyGivenNames u; have hu : Keeps zz u.1 := ?_; clear_value u)
    | (extract_lets +onlyGivenNames u; have hu : Keeps zz u.2 := ?_; clear_value u)
    | (extract_lets +onlyGivenNames u; clear_value u)
    | dsimp only [u]
    | split

theorem State.dumpBoundary_keeps {zz s : State} (h : Keeps zz s) : Keeps zz (State.dumpBoundary s) := by
  unfold State.dumpBoundary
  repeat' first
    | (intro _; intros; try dsimp -zeta only)
    | with_reducible exact Keeps.refl _
    | with_reducible assumption
    | with_reducible apply State.dumpAt_keeps
    | with_reducible apply State.runUntil_keeps
    | with_reducible apply Keeps.ite
    | split

theorem State.setTsFmt_keeps {zz s : State} (h : Keeps zz s) (F : Nat → Field) (t : Nat) : Keeps zz (State.setTsFmt s F t) := by
  unfold State.setTsFmt
  repeat' first
    | (intro _; intros; try dsimp -zeta only)
    | with_reducible exact Keeps.refl _
    | with_reducible assumption
    | with_reducible apply State.set_keeps
    | with_reducible apply State.setTs_keeps
    | with_reducible apply Keeps.ite
    | split

theorem State.putEntry_keeps {zz s : State} (h : Keeps zz s) (slot i lo hi : Nat) : Keeps zz (State.putEntry s slot i lo hi) := by
  unfold State.putEntry
  repeat' first
    | (intro _; intros; try dsimp -zeta only)
    | with_reducible exact Keeps.refl _
    | with_reducible assumption
    | with_reducible apply State.set_keeps
    | with_reducible apply Keeps.ite
    | split

theorem State.putRecord_keeps {zz s : State} (h : Keeps zz s) (b : DumpBank) : Keeps zz (State.putRecord s b) := by
  unfold State.putRecord
  repeat' first
    | (intro _; intros; try dsimp -zeta only)
    | with_reducible exact Keeps.refl _
    | with_reducible assumption
    | with_reducible apply State.setTsFmt_keeps
    | with_reducible apply State.setb_keeps
    | with_reducible apply State.set_keeps
    | with_reducible apply Keeps.forEach
    | with_reducible apply State.putEntry_keeps
    | with_reducible apply Keeps.getD
    | with_reducible apply Keeps.ite
    | (extract_lets +onlyGivenNames u; have hu : Keeps zz u := ?_; clear_value u)
    | (extract_lets +onlyGivenNames u; have hu : Keeps zz u.1 := ?_; clear_value u)
    | (extract_lets +onlyGivenNames u; have hu : Keeps zz u.2 := ?_; clear_value u)
    | (extract_lets +onlyGivenNames u; clear_value u)
    | dsimp only [u]
    | split

theorem State.dumpPublish_keeps {zz s : State} (h : Keeps zz s) : Keeps zz (State.dumpPublish s) := by
  unfold State.dumpPublish
  repeat' first
    | (intro _; intros; try dsimp -zeta only)
    | with_reducible exact Keeps.refl _
    | with_reducible assumption
    | with_reducible apply State.putRecord_keeps
    | with_reducible apply State.onPerf_keeps
    | with_reducible apply Keeps.forEach
    | with_reducible apply State.pushLane_keeps
    | with_reducible apply Keeps.ite
    | (extract_lets +onlyGivenNames u; have hu : Keeps zz u := ?_; clear_value u)
    | (extract_lets +onlyGivenNames u; have hu : Keeps zz u.1 := ?_; clear_value u)
    | (extract_lets +onlyGivenNames u; have hu : Keeps zz u.2 := ?_; clear_value u)
    | (extract_lets +onlyGivenNames u; clear_value u)
    | dsimp only [u]
    | split

theorem State.sampleRecord_keeps {zz s : State} (h : Keeps zz s) (g : Eng) (low : Nat) : Keeps zz (State.sampleRecord s g low) := by
  unfold State.sampleRecord
  repeat' first
    | (intro _; intros; try dsimp -zeta only)
    | with_reducible exact Keeps.refl _
    | with_reducible assumption
    | with_reducible apply State.onPerf_keeps
    | with_reducible apply State.drawn_keeps
    | with_reducible apply State.set_keeps
    | with_reducible apply State.bump_keeps
    | with_reducible apply State.noteSec_keeps
    | with_reducible apply Keeps.ite
    | (extract_lets +onlyGivenNames u; have hu : Keeps zz u := ?_; clear_value u)
    | (extract_lets +onlyGivenNames u; have hu : Keeps zz u.1 := ?_; clear_value u)
    | (extract_lets +onlyGivenNames u; have hu : Keeps zz u.2 := ?_; clear_value u)
    | (extract_lets +onlyGivenNames u; clear_value u)
    | dsimp only [u]
    | split

theorem State.putSample_keeps {zz s : State} (h : Keeps zz s) (t : Nat) (r : Sample) : Keeps zz (State.putSample s t r) := by
  unfold State.putSample
  repeat' first
    | (intro _; intros; try dsimp -zeta only)
    | with_reducible exact Keeps.refl _
    | with_reducible assumption
    | with_reducible apply State.setTsFmt_keeps
    | with_reducible apply State.set_keeps
    | with_reducible apply State.setb_keeps
    | with_reducible apply Keeps.ite
    | (extract_lets +onlyGivenNames u; have hu : Keeps zz u := ?_; clear_value u)
    | (extract_lets +onlyGivenNames u; have hu : Keeps zz u.1 := ?_; clear_value u)
    | (extract_lets +onlyGivenNames u; have hu : Keeps zz u.2 := ?_; clear_value u)
    | (extract_lets +onlyGivenNames u; clear_value u)
    | dsimp only [u]
    | split

theorem State.sampleCollect_keeps {zz s : State} (h : Keeps zz s) (t : Nat) : Keeps zz (State.sampleCollect s t) := by
  unfold State.sampleCollect
  repeat' first
    | (intro _; intros; try dsimp -zeta only)
    | with_reducible exact Keeps.refl _
    | with_reducible assumption
    | with_reducible apply State.onPerf_keeps
    | with_reducible apply State.set_keeps
    | with_reducible apply State.putSample_keeps
    | with_reducible apply Keeps.ite
    | (extract_lets +onlyGivenNames u; have hu : Keeps zz u := ?_; clear_value u)
    | (extract_lets +onlyGivenNames u; have hu : Keeps zz u.1 := ?_; clear_value u)
    | (extract_lets +onlyGivenNames u; have hu : Keeps zz u.2 := ?_; clear_value u)
    | (extract_lets +onlyGivenNames u; clear_value u)
    | dsimp only [u]
    | split

end Sys2Proof.Machine
end

