-- ==== Sys2Proof/Laws/Keep/Bist.lean ====
section
/-! SUPPORT. Sys2Proof/Machine/Bist.lean keeps the queue and the canonical forms. -/
namespace Sys2Proof.Machine

theorem State.showTsl_keeps {zz s : State} (h : Keeps zz s) : Keeps zz (State.showTsl s) := by
  unfold State.showTsl
  repeat' first
    | (intro _; intros; try dsimp -zeta only)
    | with_reducible exact Keeps.refl _
    | with_reducible assumption
    | with_reducible apply Keeps.forEach
    | with_reducible apply State.set_keeps
    | with_reducible apply Keeps.getD
    | with_reducible apply Keeps.ite
    | (extract_lets +onlyGivenNames u; have hu : Keeps zz u := ?_; clear_value u)
    | (extract_lets +onlyGivenNames u; have hu : Keeps zz u.1 := ?_; clear_value u)
    | (extract_lets +onlyGivenNames u; have hu : Keeps zz u.2 := ?_; clear_value u)
    | (extract_lets +onlyGivenNames u; clear_value u)
    | dsimp only [u]
    | split

theorem State.tslSettle_keeps {zz s : State} (h : Keeps zz s) (e : Nat) : Keeps zz (State.tslSettle s e) := by
  unfold State.tslSettle
  repeat' first
    | (intro _; intros; try dsimp -zeta only)
    | with_reducible exact Keeps.refl _
    | with_reducible assumption
    | with_reducible apply State.set_keeps
    | with_reducible apply State.showTsl_keeps
    | with_reducible apply Keeps.ite
    | split

theorem State.tslRetireNow_keeps {zz s : State} (h : Keeps zz s) (e : Nat) : Keeps zz (State.tslRetireNow s e) := by
  unfold State.tslRetireNow
  repeat' first
    | (intro _; intros; try dsimp -zeta only)
    | with_reducible exact Keeps.refl _
    | with_reducible assumption
    | with_reducible apply State.setBit_keeps
    | with_reducible apply State.event_keeps
    | with_reducible apply State.tslSettle_keeps
    | with_reducible apply Keeps.ite
    | split

theorem State.ringsTo4_keeps {zz s : State} (h : Keeps zz s) (c : Nat) : Keeps zz (State.ringsTo4 s c) := by
  unfold State.ringsTo4
  repeat' first
    | (intro _; intros; try dsimp -zeta only)
    | with_reducible exact Keeps.refl _
    | with_reducible assumption
    | with_reducible apply State.onTsl_keeps
    | with_reducible apply Keeps.ite
    | (extract_lets +onlyGivenNames u; have hu : Keeps zz u := ?_; clear_value u)
    | (extract_lets +onlyGivenNames u; have hu : Keeps zz u.1 := ?_; clear_value u)
    | (extract_lets +onlyGivenNames u; have hu : Keeps zz u.2 := ?_; clear_value u)
    | (extract_lets +onlyGivenNames u; clear_value u)
    | dsimp only [u]
    | split

theorem State.bistRefused_keeps {zz s : State} (h : Keeps zz s) (u r : Nat) : Keeps zz (State.bistRefused s u r) := by
  unfold State.bistRefused
  repeat' first
    | (intro _; intros; try dsimp -zeta only)
    | with_reducible exact Keeps.refl _
    | with_reducible assumption
    | with_reducible apply State.set_keeps
    | with_reducible apply State.event_keeps
    | with_reducible apply Keeps.ite
    | split

theorem State.bistBlock_keeps {zz s : State} (h : Keeps zz s) (u : Nat) : Keeps zz (State.bistBlock s u) := by
  unfold State.bistBlock
  repeat' first
    | (intro _; intros; try dsimp -zeta only)
    | with_reducible exact Keeps.refl _
    | with_reducible assumption
    | with_reducible apply State.set_keeps
    | with_reducible apply State.bump_keeps
    | with_reducible apply State.setb_keeps
    | with_reducible apply State.set64_keeps
    | with_reducible apply State.bistSeq_keeps
    | with_reducible apply Keeps.getD
    | with_reducible apply Keeps.ite
    | (extract_lets +onlyGivenNames u; have hu : Keeps zz u := ?_; clear_value u)
    | (extract_lets +onlyGivenNames u; have hu : Keeps zz u.1 := ?_; clear_value u)
    | (extract_lets +onlyGivenNames u; have hu : Keeps zz u.2 := ?_; clear_value u)
    | (extract_lets +onlyGivenNames u; clear_value u)
    | dsimp only [u]
    | split

theorem State.bistLeave_keeps {zz s : State} (h : Keeps zz s) (u : Nat) : Keeps zz (State.bistLeave s u) := by
  unfold State.bistLeave
  repeat' first
    | (intro _; intros; try dsimp -zeta only)
    | with_reducible exact Keeps.refl _
    | with_reducible assumption
    | with_reducible apply State.startDrain_keeps
    | with_reducible apply State.tslSettle_keeps
    | with_reducible apply State.onPw_keeps
    | with_reducible apply State.ringsTo4_keeps
    | with_reducible apply Keeps.forEach
    | with_reducible apply State.dropPort_keeps
    | with_reducible apply State.setCh_keeps
    | with_reducible apply State.nextRun_keeps
    | with_reducible apply Keeps.ite
    | split

theorem State.bistStart_keeps {zz s : State} (h : Keeps zz s) (path : Path) (u : Nat) (port : Option (Fin 32)) : Keeps zz (State.bistStart s path u port) := by
  unfold State.bistStart
  repeat' first
    | (intro _; intros; try dsimp -zeta only)
    | with_reducible exact Keeps.refl _
    | with_reducible assumption
    | with_reducible apply State.set_keeps
    | with_reducible apply State.bistRefused_keeps
    | with_reducible apply State.bistBlock_keeps
    | with_reducible apply State.setRun_keeps
    | with_reducible apply State.event_keeps
    | with_reducible apply State.bistLeave_keeps
    | with_reducible apply Keeps.ite
    | (extract_lets +onlyGivenNames u; have hu : Keeps zz u := ?_; clear_value u)
    | (extract_lets +onlyGivenNames u; have hu : Keeps zz u.1 := ?_; clear_value u)
    | (extract_lets +onlyGivenNames u; have hu : Keeps zz u.2 := ?_; clear_value u)
    | (extract_lets +onlyGivenNames u; clear_value u)
    | dsimp only [u]
    | split

theorem State.bistReturn_keeps {zz s : State} (h : Keeps zz s) (u : Nat) (retire : Bool) : Keeps zz (State.bistReturn s u retire) := by
  unfold State.bistReturn
  repeat' first
    | (intro _; intros; try dsimp -zeta only)
    | with_reducible exact Keeps.refl _
    | with_reducible assumption
    | with_reducible apply State.setCluster_keeps
    | with_reducible apply State.clusterTo_keeps
    | with_reducible apply State.tslRetireNow_keeps
    | with_reducible apply State.tslSettle_keeps
    | with_reducible apply State.onPw_keeps
    | with_reducible apply Keeps.ite
    | split

theorem State.bistCutReturn_keeps {zz s : State} (h : Keeps zz s) (gated : Bool) (cause : Nat) : Keeps zz (State.bistCutReturn s gated cause) := by
  unfold State.bistCutReturn
  repeat' first
    | (intro _; intros; try dsimp -zeta only)
    | with_reducible exact Keeps.refl _
    | with_reducible assumption
    | with_reducible apply State.bistCut_keeps
    | with_reducible apply State.bistReturn_keeps
    | with_reducible apply Keeps.ite
    | split

theorem State.bistStop_keeps {zz s : State} (h : Keeps zz s) (u : Nat) : Keeps zz (State.bistStop s u) := by
  unfold State.bistStop
  repeat' first
    | (intro _; intros; try dsimp -zeta only)
    | with_reducible exact Keeps.refl _
    | with_reducible assumption
    | with_reducible apply State.set_keeps
    | with_reducible apply State.bistCutReturn_keeps
    | with_reducible apply State.bistRefused_keeps
    | with_reducible apply Keeps.ite
    | (extract_lets +onlyGivenNames u; have hu : Keeps zz u := ?_; clear_value u)
    | (extract_lets +onlyGivenNames u; have hu : Keeps zz u.1 := ?_; clear_value u)
    | (extract_lets +onlyGivenNames u; have hu : Keeps zz u.2 := ?_; clear_value u)
    | (extract_lets +onlyGivenNames u; clear_value u)
    | dsimp only [u]
    | split

theorem State.bistTime_keeps {zz s : State} {r : BistRun} {t} (h : Keeps zz s) (e : State.bistTime s r = some t) : Keeps zz t := by
  unfold State.bistTime at e
  try dsimp only at e
  repeat' first
    | (simp only [reduceCtorEq] at e; done)
    | (simp only [Option.some.injEq] at e; subst e)
    | (intro _; intros; try dsimp -zeta only)
    | with_reducible exact Keeps.refl _
    | with_reducible assumption
    | with_reducible refine State.reachTick_keeps ?_ (by assumption)
    | split
    | with_reducible refine Keeps.opt_ite e (fun _ e => ?_) (fun _ e => ?_)
    | split at e

theorem State.bistEnd_keeps {zz s : State} (h : Keeps zz s) (gated : Bool) (count sig0 sig1 : Nat) : Keeps zz (State.bistEnd s gated count sig0 sig1) := by
  unfold State.bistEnd
  repeat' first
    | (intro _; intros; try dsimp -zeta only)
    | with_reducible exact Keeps.refl _
    | with_reducible assumption
    | with_reducible refine State.bistTime_keeps ?_ (by assumption)
    | with_reducible apply State.set64_keeps
    | with_reducible apply State.bistResult_keeps
    | with_reducible apply State.bistReturn_keeps
    | with_reducible apply Keeps.ite
    | (extract_lets +onlyGivenNames u; have hu : Keeps zz u := ?_; clear_value u)
    | (extract_lets +onlyGivenNames u; have hu : Keeps zz u.1 := ?_; clear_value u)
    | (extract_lets +onlyGivenNames u; have hu : Keeps zz u.2 := ?_; clear_value u)
    | (extract_lets +onlyGivenNames u; clear_value u)
    | dsimp only [u]
    | split

end Sys2Proof.Machine
end

