-- ==== Sys2Proof/Laws/Keep/LeaseCore.lean ====
section
/-! SUPPORT. Sys2Proof/Machine/LeaseCore.lean keeps the queue and the canonical forms. -/
namespace Sys2Proof.Machine

theorem State.showLease_keeps {zz s : State} (h : Keeps zz s) : Keeps zz (State.showLease s) := by
  unfold State.showLease
  repeat' first
    | (intro _; intros; try dsimp -zeta only)
    | with_reducible exact Keeps.refl _
    | with_reducible assumption
    | with_reducible apply State.setTs_keeps
    | with_reducible apply State.set_keeps
    | with_reducible apply State.setb_keeps
    | with_reducible apply Keeps.getD
    | with_reducible apply Keeps.ite
    | (extract_lets +onlyGivenNames u; have hu : Keeps zz u := ?_; clear_value u)
    | (extract_lets +onlyGivenNames u; have hu : Keeps zz u.1 := ?_; clear_value u)
    | (extract_lets +onlyGivenNames u; have hu : Keeps zz u.2 := ?_; clear_value u)
    | (extract_lets +onlyGivenNames u; clear_value u)
    | dsimp only [u]
    | split

theorem State.toListen_keeps {zz s : State} (h : Keeps zz s) : Keeps zz (State.toListen s) := by
  unfold State.toListen
  repeat' first
    | (intro _; intros; try dsimp -zeta only)
    | with_reducible exact Keeps.refl _
    | with_reducible assumption
    | with_reducible apply State.onLease_keeps
    | with_reducible apply State.leaseTo_keeps
    | with_reducible apply Keeps.ite
    | split

theorem State.sendInband_keeps {zz s : State} (h : Keeps zz s) (m : List Byte) : Keeps zz (State.sendInband s m) := by
  unfold State.sendInband
  repeat' first
    | (intro _; intros; try dsimp -zeta only)
    | with_reducible exact Keeps.refl _
    | with_reducible assumption
    | with_reducible apply State.originate_keeps
    | with_reducible apply Keeps.ite
    | (extract_lets +onlyGivenNames u; have hu : Keeps zz u := ?_; clear_value u)
    | (extract_lets +onlyGivenNames u; have hu : Keeps zz u.1 := ?_; clear_value u)
    | (extract_lets +onlyGivenNames u; have hu : Keeps zz u.2 := ?_; clear_value u)
    | (extract_lets +onlyGivenNames u; clear_value u)
    | dsimp only [u]
    | split

theorem State.sendAdern_keeps {zz s : State} (h : Keeps zz s) (lanes : Nat) (m : List Byte) : Keeps zz (State.sendAdern s lanes m) := by
  unfold State.sendAdern
  repeat' first
    | (intro _; intros; try dsimp -zeta only)
    | with_reducible exact Keeps.refl _
    | with_reducible assumption
    | with_reducible apply State.emit_keeps
    | with_reducible apply Keeps.ite
    | (extract_lets +onlyGivenNames u; have hu : Keeps zz u := ?_; clear_value u)
    | (extract_lets +onlyGivenNames u; have hu : Keeps zz u.1 := ?_; clear_value u)
    | (extract_lets +onlyGivenNames u; have hu : Keeps zz u.2 := ?_; clear_value u)
    | (extract_lets +onlyGivenNames u; clear_value u)
    | dsimp only [u]
    | split

theorem State.sendLease_keeps {zz s : State} (h : Keeps zz s) (type : Nat) (body : List Byte) : Keeps zz (State.sendLease s type body) := by
  unfold State.sendLease
  repeat' first
    | (intro _; intros; try dsimp -zeta only)
    | with_reducible exact Keeps.refl _
    | with_reducible assumption
    | with_reducible apply State.onLease_keeps
    | with_reducible apply State.bump_keeps
    | with_reducible apply State.sendInband_keeps
    | with_reducible apply State.sendAdern_keeps
    | with_reducible apply Keeps.ite
    | (extract_lets +onlyGivenNames u; have hu : Keeps zz u := ?_; clear_value u)
    | (extract_lets +onlyGivenNames u; have hu : Keeps zz u.1 := ?_; clear_value u)
    | (extract_lets +onlyGivenNames u; have hu : Keeps zz u.2 := ?_; clear_value u)
    | (extract_lets +onlyGivenNames u; clear_value u)
    | dsimp only [u]
    | split

theorem State.sendHello_keeps {zz s : State} (h : Keeps zz s) : Keeps zz (State.sendHello s) := by
  unfold State.sendHello
  repeat' first
    | (intro _; intros; try dsimp -zeta only)
    | with_reducible exact Keeps.refl _
    | with_reducible assumption
    | with_reducible apply State.sendLease_keeps
    | with_reducible apply Keeps.ite
    | split

theorem State.leaseRelease_keeps {zz s : State} (h : Keeps zz s) (row tRel : Nat) : Keeps zz (State.leaseRelease s row tRel) := by
  unfold State.leaseRelease
  repeat' first
    | (intro _; intros; try dsimp -zeta only)
    | with_reducible exact Keeps.refl _
    | with_reducible assumption
    | with_reducible apply State.onLease_keeps
    | with_reducible apply State.leaseTo_keeps
    | with_reducible apply State.toListen_keeps
    | with_reducible apply State.updateGates_keeps
    | with_reducible apply State.event_keeps
    | with_reducible apply State.sendLease_keeps
    | with_reducible apply State.showLease_keeps
    | with_reducible apply Keeps.ite
    | (extract_lets +onlyGivenNames u; have hu : Keeps zz u := ?_; clear_value u)
    | (extract_lets +onlyGivenNames u; have hu : Keeps zz u.1 := ?_; clear_value u)
    | (extract_lets +onlyGivenNames u; have hu : Keeps zz u.2 := ?_; clear_value u)
    | (extract_lets +onlyGivenNames u; clear_value u)
    | dsimp only [u]
    | split

theorem State.leaseMode_keeps {zz s : State} (h : Keeps zz s) : Keeps zz (State.leaseMode s) := by
  unfold State.leaseMode
  repeat' first
    | (intro _; intros; try dsimp -zeta only)
    | with_reducible exact Keeps.refl _
    | with_reducible assumption
    | with_reducible apply State.leaseRelease_keeps
    | with_reducible apply State.leaseTo_keeps
    | with_reducible apply State.showLease_keeps
    | with_reducible apply State.toListen_keeps
    | with_reducible apply Keeps.ite
    | (extract_lets +onlyGivenNames u; have hu : Keeps zz u := ?_; clear_value u)
    | (extract_lets +onlyGivenNames u; have hu : Keeps zz u.1 := ?_; clear_value u)
    | (extract_lets +onlyGivenNames u; have hu : Keeps zz u.2 := ?_; clear_value u)
    | (extract_lets +onlyGivenNames u; clear_value u)
    | dsimp only [u]
    | split

end Sys2Proof.Machine
end

