-- ==== Sys2Proof/Laws/Keep/Modes.lean ====
section
/-! SUPPORT. Sys2Proof/Machine/Modes.lean keeps the queue and the canonical forms. -/
namespace Sys2Proof.Machine

theorem State.safeStops_keeps {zz s : State} (h : Keeps zz s) : Keeps zz (State.safeStops s) := by
  unfold State.safeStops
  repeat' first
    | (intro _; intros; try dsimp -zeta only)
    | with_reducible exact Keeps.refl _
    | with_reducible assumption
    | with_reducible apply Keeps.forEach
    | with_reducible apply State.dropPort_keeps
    | with_reducible apply State.stopOutputs_keeps
    | with_reducible apply State.failGcal_keeps
    | with_reducible apply State.set_keeps
    | with_reducible apply Keeps.ite
    | (extract_lets +onlyGivenNames u; have hu : Keeps zz u := ?_; clear_value u)
    | (extract_lets +onlyGivenNames u; have hu : Keeps zz u.1 := ?_; clear_value u)
    | (extract_lets +onlyGivenNames u; have hu : Keeps zz u.2 := ?_; clear_value u)
    | (extract_lets +onlyGivenNames u; clear_value u)
    | dsimp only [u]
    | split

theorem State.scanRelease_keeps {zz s : State} (h : Keeps zz s) : Keeps zz (State.scanRelease s) := by
  unfold State.scanRelease
  repeat' first
    | (intro _; intros; try dsimp -zeta only)
    | with_reducible exact Keeps.refl _
    | with_reducible assumption
    | with_reducible apply State.onJtag_keeps
    | with_reducible apply Keeps.ite
    | split

theorem State.enterMode_keeps {zz s : State} (h : Keeps zz s) (m : Mode) (cause : Nat) : Keeps zz (State.enterMode s m cause) := by
  unfold State.enterMode
  repeat' first
    | (intro _; intros; try dsimp -zeta only)
    | with_reducible exact Keeps.refl _
    | with_reducible assumption
    | with_reducible apply State.onMode_keeps
    | with_reducible apply State.set_keeps
    | with_reducible apply State.setTs_keeps
    | with_reducible apply State.event_keeps
    | with_reducible apply State.irq_keeps
    | with_reducible apply State.failGcal_keeps
    | with_reducible apply State.onSafe_keeps
    | with_reducible apply State.safeStops_keeps
    | with_reducible apply State.scanRelease_keeps
    | with_reducible apply State.leaseMode_keeps
    | with_reducible apply State.updateGates_keeps
    | with_reducible apply State.bistCutReturn_keeps
    | with_reducible apply Keeps.ite
    | (extract_lets +onlyGivenNames u; have hu : Keeps zz u := ?_; clear_value u)
    | (extract_lets +onlyGivenNames u; have hu : Keeps zz u.1 := ?_; clear_value u)
    | (extract_lets +onlyGivenNames u; have hu : Keeps zz u.2 := ?_; clear_value u)
    | (extract_lets +onlyGivenNames u; clear_value u)
    | dsimp only [u]
    | split

theorem State.fatal_keeps {zz s : State} (h : Keeps zz s) (code : Nat) : Keeps zz (State.fatal s code) := by
  unfold State.fatal
  repeat' first
    | (intro _; intros; try dsimp -zeta only)
    | with_reducible exact Keeps.refl _
    | with_reducible assumption
    | with_reducible apply State.event_keeps
    | with_reducible apply State.enterMode_keeps
    | with_reducible apply State.set_keeps
    | with_reducible apply Keeps.ite
    | split

theorem State.d2dLoss_keeps {zz s : State} (h : Keeps zz s) : Keeps zz (State.d2dLoss s) := by
  unfold State.d2dLoss
  repeat' first
    | (intro _; intros; try dsimp -zeta only)
    | with_reducible exact Keeps.refl _
    | with_reducible assumption
    | with_reducible apply State.onPw_keeps
    | with_reducible apply Keeps.ite
    | split

theorem State.d2dTimeout_keeps {zz s : State} (h : Keeps zz s) : Keeps zz (State.d2dTimeout s) := by
  unfold State.d2dTimeout
  repeat' first
    | (intro _; intros; try dsimp -zeta only)
    | with_reducible exact Keeps.refl _
    | with_reducible assumption
    | with_reducible refine State.reachTick_keeps ?_ (by assumption)
    | with_reducible apply State.onPw_keeps
    | with_reducible apply State.fatal_keeps
    | with_reducible apply Keeps.ite
    | split

theorem State.d2dRetrain_keeps {zz s : State} (h : Keeps zz s) : Keeps zz (State.d2dRetrain s) := by
  unfold State.d2dRetrain
  repeat' first
    | (intro _; intros; try dsimp -zeta only)
    | with_reducible exact Keeps.refl _
    | with_reducible assumption
    | with_reducible apply State.onPw_keeps
    | with_reducible apply Keeps.ite
    | split

theorem State.resyncCopy_keeps {zz s : State} (h : Keeps zz s) (k d : Nat) : Keeps zz (State.resyncCopy s k d) := by
  unfold State.resyncCopy
  repeat' first
    | (intro _; intros; try dsimp -zeta only)
    | with_reducible exact Keeps.refl _
    | with_reducible assumption
    | with_reducible apply State.onTb_keeps
    | with_reducible apply State.set_keeps
    | with_reducible apply State.bump_keeps
    | with_reducible apply State.event_keeps
    | with_reducible apply Keeps.getD
    | with_reducible apply Keeps.ite
    | (extract_lets +onlyGivenNames u; have hu : Keeps zz u := ?_; clear_value u)
    | (extract_lets +onlyGivenNames u; have hu : Keeps zz u.1 := ?_; clear_value u)
    | (extract_lets +onlyGivenNames u; have hu : Keeps zz u.2 := ?_; clear_value u)
    | (extract_lets +onlyGivenNames u; clear_value u)
    | dsimp only [u]
    | split

theorem State.upset_keeps {zz s : State} (h : Keeps zz s) (m0 m1 m2 : Nat) : Keeps zz (State.upset s m0 m1 m2) := by
  unfold State.upset
  repeat' first
    | (intro _; intros; try dsimp -zeta only)
    | with_reducible exact Keeps.refl _
    | with_reducible assumption
    | with_reducible apply State.onTb_keeps
    | with_reducible apply Keeps.ite
    | split

theorem State.putCopy_keeps {zz s : State} (h : Keeps zz s) (v : TbCount) (k : Nat) (c : TbCount) : Keeps zz (State.putCopy s v k c) := by
  unfold State.putCopy
  repeat' first
    | (intro _; intros; try dsimp -zeta only)
    | with_reducible exact Keeps.refl _
    | with_reducible assumption
    | with_reducible apply State.resyncCopy_keeps
    | with_reducible apply Keeps.ite
    | split

theorem State.takeVote_keeps {zz s : State} (h : Keeps zz s) : Keeps zz (State.takeVote s) := by
  unfold State.takeVote
  repeat' first
    | (intro _; intros; try dsimp -zeta only)
    | with_reducible exact Keeps.refl _
    | with_reducible assumption
    | with_reducible apply State.onTb_keeps
    | with_reducible apply State.putCopy_keeps
    | with_reducible apply Keeps.ite
    | (extract_lets +onlyGivenNames u; have hu : Keeps zz u := ?_; clear_value u)
    | (extract_lets +onlyGivenNames u; have hu : Keeps zz u.1 := ?_; clear_value u)
    | (extract_lets +onlyGivenNames u; have hu : Keeps zz u.2 := ?_; clear_value u)
    | (extract_lets +onlyGivenNames u; clear_value u)
    | dsimp only [u]
    | split

theorem State.vote_keeps {zz s : State} (h : Keeps zz s) : Keeps zz (State.vote s) := by
  unfold State.vote
  repeat' first
    | (intro _; intros; try dsimp -zeta only)
    | with_reducible exact Keeps.refl _
    | with_reducible assumption
    | with_reducible apply State.fatal_keeps
    | with_reducible apply State.takeVote_keeps
    | with_reducible apply Keeps.ite
    | (extract_lets +onlyGivenNames u; have hu : Keeps zz u := ?_; clear_value u)
    | (extract_lets +onlyGivenNames u; have hu : Keeps zz u.1 := ?_; clear_value u)
    | (extract_lets +onlyGivenNames u; have hu : Keeps zz u.2 := ?_; clear_value u)
    | (extract_lets +onlyGivenNames u; clear_value u)
    | dsimp only [u]
    | split

theorem State.copyUpset_keeps {zz s : State} (h : Keeps zz s) (m0 m1 m2 : Nat) : Keeps zz (State.copyUpset s m0 m1 m2) := by
  unfold State.copyUpset
  repeat' first
    | (intro _; intros; try dsimp -zeta only)
    | with_reducible exact Keeps.refl _
    | with_reducible assumption
    | with_reducible apply State.upset_keeps
    | with_reducible apply State.vote_keeps
    | with_reducible apply Keeps.ite
    | split

theorem State.evalModes_keeps {zz s : State} (h : Keeps zz s) : Keeps zz (State.evalModes s) := by
  unfold State.evalModes
  repeat' first
    | (intro _; intros; try dsimp -zeta only)
    | with_reducible exact Keeps.refl _
    | with_reducible assumption
    | with_reducible apply State.enterMode_keeps
    | with_reducible apply Keeps.ite
    | split

theorem State.modeRefused_keeps {zz s : State} (h : Keeps zz s) (code : Nat) : Keeps zz (State.modeRefused s code) := by
  unfold State.modeRefused
  repeat' first
    | (intro _; intros; try dsimp -zeta only)
    | with_reducible exact Keeps.refl _
    | with_reducible assumption
    | with_reducible apply State.set_keeps
    | with_reducible apply State.event_keeps
    | with_reducible apply Keeps.ite
    | split

theorem State.enterMaint_keeps {zz s : State} (h : Keeps zz s) : Keeps zz (State.enterMaint s) := by
  unfold State.enterMaint
  repeat' first
    | (intro _; intros; try dsimp -zeta only)
    | with_reducible exact Keeps.refl _
    | with_reducible assumption
    | with_reducible apply State.set_keeps
    | with_reducible apply State.leaseRelease_keeps
    | with_reducible apply State.enterMode_keeps
    | with_reducible apply State.modeRefused_keeps
    | with_reducible apply Keeps.ite
    | (extract_lets +onlyGivenNames u; have hu : Keeps zz u := ?_; clear_value u)
    | (extract_lets +onlyGivenNames u; have hu : Keeps zz u.1 := ?_; clear_value u)
    | (extract_lets +onlyGivenNames u; have hu : Keeps zz u.2 := ?_; clear_value u)
    | (extract_lets +onlyGivenNames u; clear_value u)
    | dsimp only [u]
    | split

theorem State.exitMaint_keeps {zz s : State} (h : Keeps zz s) : Keeps zz (State.exitMaint s) := by
  unfold State.exitMaint
  repeat' first
    | (intro _; intros; try dsimp -zeta only)
    | with_reducible exact Keeps.refl _
    | with_reducible assumption
    | with_reducible apply State.set_keeps
    | with_reducible apply State.enterMode_keeps
    | with_reducible apply State.modeRefused_keeps
    | with_reducible apply Keeps.ite
    | split

end Sys2Proof.Machine
end

