-- ==== Sys2Proof/Laws/Keep/Jtag.lean ====
section
/-! SUPPORT. Sys2Proof/Machine/Jtag.lean keeps the queue and the canonical forms. -/
namespace Sys2Proof.Machine

theorem State.tap_keeps {zz s : State} (h : Keeps zz s) (ir drive : Nat) : Keeps zz (State.tap s ir drive) := by
  unfold State.tap
  repeat' first
    | (intro _; intros; try dsimp -zeta only)
    | with_reducible exact Keeps.refl _
    | with_reducible assumption
    | with_reducible apply State.onJtag_keeps
    | with_reducible apply Keeps.ite
    | split

theorem State.tapDrive_keeps {zz s : State} (h : Keeps zz s) (ir drive : Nat) : Keeps zz (State.tapDrive s ir drive) := by
  unfold State.tapDrive
  repeat' first
    | (intro _; intros; try dsimp -zeta only)
    | with_reducible exact Keeps.refl _
    | with_reducible assumption
    | with_reducible apply State.tap_keeps
    | with_reducible apply Keeps.ite
    | split

theorem State.tapPreload_keeps {zz s : State} (h : Keeps zz s) (cells : List Bool) : Keeps zz (State.tapPreload s cells) := by
  unfold State.tapPreload
  repeat' first
    | (intro _; intros; try dsimp -zeta only)
    | with_reducible exact Keeps.refl _
    | with_reducible assumption
    | with_reducible apply State.tap_keeps
    | with_reducible apply State.onJtag_keeps
    | with_reducible apply Keeps.ite
    | split

end Sys2Proof.Machine
end

