-- ==== Sys2Proof/Laws/Keep/Housekeeping.lean ====
section
/-! SUPPORT. Sys2Proof/Machine/Housekeeping.lean keeps the queue and the canonical forms. -/
namespace Sys2Proof.Machine

theorem State.hkAnswer_keeps {zz s : State} (h : Keeps zz s) (g : Eng) (r : Req) (o : Option (List Byte)) :
    Keeps zz (s.hkAnswer g r o) := by
  unfold State.hkAnswer
  split
  · exact State.done_keeps (State.sendFrame_keeps h ..) _
  · exact State.dropReq_keeps h _

theorem State.arpRequest_keeps {zz s : State} (h : Keeps zz s) (g : Eng) : Keeps zz (State.arpRequest s g) := by
  unfold State.arpRequest
  repeat' first
    | (intro _; intros; try dsimp -zeta only)
    | with_reducible exact Keeps.refl _
    | with_reducible assumption
    | with_reducible apply State.routine_keeps
    | with_reducible apply State.hkAnswer_keeps
    | with_reducible apply Keeps.ite
    | split

theorem State.neighborSolicitation_keeps {zz s : State} (h : Keeps zz s) (g : Eng) : Keeps zz (State.neighborSolicitation s g) := by
  unfold State.neighborSolicitation
  repeat' first
    | (intro _; intros; try dsimp -zeta only)
    | with_reducible exact Keeps.refl _
    | with_reducible assumption
    | with_reducible apply State.routine_keeps
    | with_reducible apply State.hkAnswer_keeps
    | with_reducible apply Keeps.ite
    | split

theorem State.icmpEcho_keeps {zz s : State} (h : Keeps zz s) (g : Eng) : Keeps zz (State.icmpEcho s g) := by
  unfold State.icmpEcho
  repeat' first
    | (intro _; intros; try dsimp -zeta only)
    | with_reducible exact Keeps.refl _
    | with_reducible assumption
    | with_reducible apply State.routine_keeps
    | with_reducible apply State.hkAnswer_keeps
    | with_reducible apply Keeps.ite
    | split

theorem State.announceAll_keeps {zz s : State} (h : Keeps zz s) : Keeps zz (State.announceAll s) := by
  unfold State.announceAll
  repeat' first
    | (intro _; intros; try dsimp -zeta only)
    | with_reducible exact Keeps.refl _
    | with_reducible assumption
    | with_reducible apply Keeps.forEach
    | with_reducible apply State.originate_keeps
    | with_reducible apply Keeps.ite
    | split

theorem State.vaddrAnnounce_keeps {zz s : State} (h : Keeps zz s) : Keeps zz (State.vaddrAnnounce s) := by
  unfold State.vaddrAnnounce
  repeat' first
    | (intro _; intros; try dsimp -zeta only)
    | with_reducible exact Keeps.refl _
    | with_reducible assumption
    | with_reducible refine State.reachTick_keeps ?_ (by assumption)
    | with_reducible apply State.onLease_keeps
    | with_reducible apply State.announceAll_keeps
    | with_reducible apply Keeps.ite
    | split

end Sys2Proof.Machine
end

