-- ==== Sys2Proof/Laws/Keep/Lease.lean ====
section
/-! SUPPORT. Sys2Proof/Machine/Lease.lean keeps the queue and the canonical forms. -/
namespace Sys2Proof.Machine

theorem State.isolation_keeps {zz s : State} (h : Keeps zz s) : Keeps zz (State.isolation s) := by
  unfold State.isolation
  repeat' first
    | (intro _; intros; try dsimp -zeta only)
    | with_reducible exact Keeps.refl _
    | with_reducible assumption
    | with_reducible apply State.setb_keeps
    | with_reducible apply State.raiseCond_keeps
    | with_reducible apply State.clearCond_keeps
    | with_reducible apply State.reclaimEval_keeps
    | with_reducible apply Keeps.ite
    | (extract_lets +onlyGivenNames u; have hu : Keeps zz u := ?_; clear_value u)
    | (extract_lets +onlyGivenNames u; have hu : Keeps zz u.1 := ?_; clear_value u)
    | (extract_lets +onlyGivenNames u; have hu : Keeps zz u.2 := ?_; clear_value u)
    | (extract_lets +onlyGivenNames u; clear_value u)
    | dsimp only [u]
    | split

theorem State.setSilent_keeps {zz s : State} (h : Keeps zz s) (k : Nat) (silent : Bool) : Keeps zz (State.setSilent s k silent) := by
  unfold State.setSilent
  repeat' first
    | (intro _; intros; try dsimp -zeta only)
    | with_reducible exact Keeps.refl _
    | with_reducible assumption
    | with_reducible apply State.setBit_keeps
    | with_reducible apply State.isolation_keeps
    | with_reducible apply State.raiseCond_keeps
    | with_reducible apply State.queueEvent_keeps
    | with_reducible apply State.clearCond_keeps
    | with_reducible apply State.sendHello_keeps
    | with_reducible apply Keeps.ite
    | (extract_lets +onlyGivenNames u; have hu : Keeps zz u := ?_; clear_value u)
    | (extract_lets +onlyGivenNames u; have hu : Keeps zz u.1 := ?_; clear_value u)
    | (extract_lets +onlyGivenNames u; have hu : Keeps zz u.2 := ?_; clear_value u)
    | (extract_lets +onlyGivenNames u; clear_value u)
    | dsimp only [u]
    | split

theorem State.pathShow_keeps {zz s : State} (h : Keeps zz s) (k : Nat) : Keeps zz (State.pathShow s k) := by
  unfold State.pathShow
  repeat' first
    | (intro _; intros; try dsimp -zeta only)
    | with_reducible exact Keeps.refl _
    | with_reducible assumption
    | with_reducible apply State.setSilent_keeps
    | with_reducible apply Keeps.ite
    | split

theorem State.pathSilent_keeps {zz s : State} (h : Keeps zz s) (k : Nat) : Keeps zz (State.pathSilent s k) := by
  unfold State.pathSilent
  repeat' first
    | (intro _; intros; try dsimp -zeta only)
    | with_reducible exact Keeps.refl _
    | with_reducible assumption
    | with_reducible apply State.pathShow_keeps
    | with_reducible refine State.reachTick_keeps ?_ (by assumption)
    | with_reducible apply Keeps.ite
    | split

theorem State.laneSet_keeps {zz s : State} (h : Keeps zz s) (lane : Nat) (up : Bool) : Keeps zz (State.laneSet s lane up) := by
  unfold State.laneSet
  repeat' first
    | (intro _; intros; try dsimp -zeta only)
    | with_reducible exact Keeps.refl _
    | with_reducible assumption
    | with_reducible apply State.onLease_keeps
    | with_reducible apply Keeps.ite
    | split

theorem State.addDelay_keeps {zz s : State} (h : Keeps zz s) (ns : Nat) : Keeps zz (State.addDelay s ns) := by
  unfold State.addDelay
  repeat' first
    | (intro _; intros; try dsimp -zeta only)
    | with_reducible exact Keeps.refl _
    | with_reducible assumption
    | with_reducible apply State.onLease_keeps
    | with_reducible apply Keeps.ite
    | split

theorem State.guard_keeps {zz s : State} (h : Keeps zz s) : Keeps zz (State.guard s) := by
  unfold State.guard
  repeat' first
    | (intro _; intros; try dsimp -zeta only)
    | with_reducible exact Keeps.refl _
    | with_reducible assumption
    | with_reducible apply State.onLease_keeps
    | with_reducible apply State.setSat_keeps
    | with_reducible apply State.set_keeps
    | with_reducible apply State.event_keeps
    | with_reducible apply State.setb_keeps
    | with_reducible apply State.updateGates_keeps
    | with_reducible apply State.showLease_keeps
    | with_reducible apply Keeps.foldl
    | with_reducible apply Keeps.foldl_fst
    | with_reducible apply Keeps.ite
    | (extract_lets +onlyGivenNames u; have hu : Keeps zz u := ?_; clear_value u)
    | (extract_lets +onlyGivenNames u; have hu : Keeps zz u.1 := ?_; clear_value u)
    | (extract_lets +onlyGivenNames u; have hu : Keeps zz u.2 := ?_; clear_value u)
    | (extract_lets +onlyGivenNames u; clear_value u)
    | dsimp only [u]
    | split

theorem State.releaseBy_keeps {zz s : State} (h : Keeps zz s) (row tRel : Nat) : Keeps zz (State.releaseBy s row tRel) := by
  unfold State.releaseBy
  repeat' first
    | (intro _; intros; try dsimp -zeta only)
    | with_reducible exact Keeps.refl _
    | with_reducible assumption
    | with_reducible apply State.leaseRelease_keeps
    | with_reducible apply State.enterMode_keeps
    | with_reducible apply Keeps.ite
    | (extract_lets +onlyGivenNames u; have hu : Keeps zz u := ?_; clear_value u)
    | (extract_lets +onlyGivenNames u; have hu : Keeps zz u.1 := ?_; clear_value u)
    | (extract_lets +onlyGivenNames u; have hu : Keeps zz u.2 := ?_; clear_value u)
    | (extract_lets +onlyGivenNames u; clear_value u)
    | dsimp only [u]
    | split

theorem State.holdSeen_keeps {zz s : State} (h : Keeps zz s) (t : Nat) : Keeps zz (State.holdSeen s t) := by
  unfold State.holdSeen
  repeat' first
    | (intro _; intros; try dsimp -zeta only)
    | with_reducible exact Keeps.refl _
    | with_reducible assumption
    | with_reducible apply State.onLease_keeps
    | with_reducible apply State.showLease_keeps
    | with_reducible apply State.set_keeps
    | with_reducible apply State.event_keeps
    | with_reducible apply State.releaseBy_keeps
    | with_reducible apply Keeps.getD
    | with_reducible apply Keeps.ite
    | (extract_lets +onlyGivenNames u; have hu : Keeps zz u := ?_; clear_value u)
    | (extract_lets +onlyGivenNames u; have hu : Keeps zz u.1 := ?_; clear_value u)
    | (extract_lets +onlyGivenNames u; have hu : Keeps zz u.2 := ?_; clear_value u)
    | (extract_lets +onlyGivenNames u; clear_value u)
    | dsimp only [u]
    | split

theorem State.partnerIs_keeps {zz s : State} (h : Keeps zz s) (st t : Nat) : Keeps zz (State.partnerIs s st t) := by
  unfold State.partnerIs
  repeat' first
    | (intro _; intros; try dsimp -zeta only)
    | with_reducible exact Keeps.refl _
    | with_reducible assumption
    | with_reducible apply State.set_keeps
    | with_reducible apply State.onLease_keeps
    | with_reducible apply State.reclaimEval_keeps
    | with_reducible apply Keeps.ite
    | split

theorem State.violation_keeps {zz s : State} (h : Keeps zz s) (code : Nat) : Keeps zz (State.violation s code) := by
  unfold State.violation
  repeat' first
    | (intro _; intros; try dsimp -zeta only)
    | with_reducible exact Keeps.refl _
    | with_reducible assumption
    | with_reducible apply State.bump_keeps
    | with_reducible apply State.noteSec_keeps
    | with_reducible apply Keeps.ite
    | split

theorem State.nak_keeps {zz s : State} (h : Keeps zz s) (reason : Nat) (m : LeaseMsg) : Keeps zz (State.nak s reason m) := by
  unfold State.nak
  repeat' first
    | (intro _; intros; try dsimp -zeta only)
    | with_reducible exact Keeps.refl _
    | with_reducible assumption
    | with_reducible apply State.sendLease_keeps
    | with_reducible apply Keeps.ite
    | split

theorem State.leaseAccept_keeps {zz s : State} (h : Keeps zz s) (inband : Bool) (m : LeaseMsg) : Keeps zz (State.leaseAccept s inband m) := by
  unfold State.leaseAccept
  repeat' first
    | (intro _; intros; try dsimp -zeta only)
    | with_reducible exact Keeps.refl _
    | with_reducible assumption
    | with_reducible apply State.onLease_keeps
    | with_reducible apply State.guard_keeps
    | with_reducible apply State.pathShow_keeps
    | with_reducible apply Keeps.ite
    | (extract_lets +onlyGivenNames u; have hu : Keeps zz u := ?_; clear_value u)
    | (extract_lets +onlyGivenNames u; have hu : Keeps zz u.1 := ?_; clear_value u)
    | (extract_lets +onlyGivenNames u; have hu : Keeps zz u.2 := ?_; clear_value u)
    | (extract_lets +onlyGivenNames u; clear_value u)
    | dsimp only [u]
    | split

theorem State.leaseDup_keeps {zz s : State} (h : Keeps zz s) (inband : Bool) : Keeps zz (State.leaseDup s inband) := by
  unfold State.leaseDup
  repeat' first
    | (intro _; intros; try dsimp -zeta only)
    | with_reducible exact Keeps.refl _
    | with_reducible assumption
    | with_reducible apply State.bump_keeps
    | with_reducible apply State.onLease_keeps
    | with_reducible apply State.pathShow_keeps
    | with_reducible apply Keeps.ite
    | (extract_lets +onlyGivenNames u; have hu : Keeps zz u := ?_; clear_value u)
    | (extract_lets +onlyGivenNames u; have hu : Keeps zz u.1 := ?_; clear_value u)
    | (extract_lets +onlyGivenNames u; have hu : Keeps zz u.2 := ?_; clear_value u)
    | (extract_lets +onlyGivenNames u; clear_value u)
    | dsimp only [u]
    | split

theorem State.leaseRx_keeps {zz s : State} (h : Keeps zz s) (type : Nat) (inband : Bool) (b : List Byte) (trecv : Nat) (f : State → LeaseMsg → State) (hf : ∀ (x0 : State) (x1 : LeaseMsg), Keeps zz x0 → Keeps zz (f x0 x1)) : Keeps zz (State.leaseRx s type inband b trecv f) := by
  unfold State.leaseRx
  repeat' first
    | (intro _; intros; try dsimp -zeta only)
    | with_reducible exact Keeps.refl _
    | with_reducible assumption
    | with_reducible apply State.violation_keeps
    | with_reducible apply State.leaseDup_keeps
    | with_reducible apply State.nak_keeps
    | with_reducible apply hf
    | with_reducible apply Keeps.ite
    | split

theorem State.helloBody_keeps {zz s : State} (h : Keeps zz s) (inband : Bool) (m : LeaseMsg) : Keeps zz (State.helloBody s inband m) := by
  unfold State.helloBody
  repeat' first
    | (intro _; intros; try dsimp -zeta only)
    | with_reducible exact Keeps.refl _
    | with_reducible assumption
    | with_reducible apply State.set_keeps
    | with_reducible apply State.violation_keeps
    | with_reducible apply State.event_keeps
    | with_reducible apply State.leaseAccept_keeps
    | with_reducible apply State.pathShow_keeps
    | with_reducible apply State.sendHello_keeps
    | with_reducible apply State.setSat_keeps
    | with_reducible apply State.onLease_keeps
    | with_reducible apply State.startResync_keeps
    | with_reducible apply State.putGrant_keeps
    | with_reducible apply Keeps.foldl
    | with_reducible apply Keeps.foldl_fst
    | with_reducible apply Keeps.ite
    | (extract_lets +onlyGivenNames u; have hu : Keeps zz u := ?_; clear_value u)
    | (extract_lets +onlyGivenNames u; have hu : Keeps zz u.1 := ?_; clear_value u)
    | (extract_lets +onlyGivenNames u; have hu : Keeps zz u.2 := ?_; clear_value u)
    | (extract_lets +onlyGivenNames u; clear_value u)
    | dsimp only [u]
    | split

theorem State.helloRx_keeps {zz s : State} (h : Keeps zz s) (inband : Bool) (b : List Byte) (trecv : Nat) : Keeps zz (State.helloRx s inband b trecv) := by
  unfold State.helloRx
  repeat' first
    | (intro _; intros; try dsimp -zeta only)
    | with_reducible exact Keeps.refl _
    | with_reducible assumption
    | with_reducible apply State.leaseRx_keeps
    | with_reducible apply State.helloBody_keeps
    | with_reducible apply State.reclaimEval_keeps
    | with_reducible apply Keeps.ite
    | split

theorem State.statusRx_keeps {zz s : State} (h : Keeps zz s) (inband : Bool) (b : List Byte) (trecv : Nat) : Keeps zz (State.statusRx s inband b trecv) := by
  unfold State.statusRx
  repeat' first
    | (intro _; intros; try dsimp -zeta only)
    | with_reducible exact Keeps.refl _
    | with_reducible assumption
    | with_reducible apply State.leaseRx_keeps
    | with_reducible apply State.leaseAccept_keeps
    | with_reducible apply State.set_keeps
    | with_reducible apply State.partnerIs_keeps
    | with_reducible apply State.onLease_keeps
    | with_reducible apply State.guard_keeps
    | with_reducible apply State.holdSeen_keeps
    | with_reducible apply Keeps.ite
    | (extract_lets +onlyGivenNames u; have hu : Keeps zz u := ?_; clear_value u)
    | (extract_lets +onlyGivenNames u; have hu : Keeps zz u.1 := ?_; clear_value u)
    | (extract_lets +onlyGivenNames u; have hu : Keeps zz u.2 := ?_; clear_value u)
    | (extract_lets +onlyGivenNames u; clear_value u)
    | dsimp only [u]
    | split

theorem State.renewRx_keeps {zz s : State} (h : Keeps zz s) (inband : Bool) (b : List Byte) (trecv : Nat) : Keeps zz (State.renewRx s inband b trecv) := by
  unfold State.renewRx
  repeat' first
    | (intro _; intros; try dsimp -zeta only)
    | with_reducible exact Keeps.refl _
    | with_reducible assumption
    | with_reducible apply State.leaseRx_keeps
    | with_reducible apply State.leaseAccept_keeps
    | with_reducible apply State.onLease_keeps
    | with_reducible apply State.holdSeen_keeps
    | with_reducible apply State.sendLease_keeps
    | with_reducible apply Keeps.getD
    | with_reducible apply Keeps.ite
    | (extract_lets +onlyGivenNames u; have hu : Keeps zz u := ?_; clear_value u)
    | (extract_lets +onlyGivenNames u; have hu : Keeps zz u.1 := ?_; clear_value u)
    | (extract_lets +onlyGivenNames u; have hu : Keeps zz u.2 := ?_; clear_value u)
    | (extract_lets +onlyGivenNames u; clear_value u)
    | dsimp only [u]
    | split

theorem State.ackRx_keeps {zz s : State} (h : Keeps zz s) (inband : Bool) (b : List Byte) (trecv : Nat) : Keeps zz (State.ackRx s inband b trecv) := by
  unfold State.ackRx
  repeat' first
    | (intro _; intros; try dsimp -zeta only)
    | with_reducible exact Keeps.refl _
    | with_reducible assumption
    | with_reducible apply State.leaseRx_keeps
    | with_reducible apply State.violation_keeps
    | with_reducible apply State.leaseAccept_keeps
    | with_reducible apply State.bump_keeps
    | with_reducible apply State.addDelay_keeps
    | with_reducible apply State.onLease_keeps
    | with_reducible apply State.updateGates_keeps
    | with_reducible apply State.showLease_keeps
    | with_reducible apply Keeps.ite
    | (extract_lets +onlyGivenNames u; have hu : Keeps zz u := ?_; clear_value u)
    | (extract_lets +onlyGivenNames u; have hu : Keeps zz u.1 := ?_; clear_value u)
    | (extract_lets +onlyGivenNames u; have hu : Keeps zz u.2 := ?_; clear_value u)
    | (extract_lets +onlyGivenNames u; clear_value u)
    | dsimp only [u]
    | split

theorem State.chooseRelease_keeps {zz s : State} (h : Keeps zz s) (t : Nat) : Keeps zz (State.chooseRelease s t) := by
  unfold State.chooseRelease
  repeat' first
    | (intro _; intros; try dsimp -zeta only)
    | with_reducible exact Keeps.refl _
    | with_reducible assumption
    | with_reducible apply State.onLease_keeps
    | with_reducible apply Keeps.getD
    | with_reducible apply Keeps.ite
    | split

theorem State.claimRx_keeps {zz s : State} (h : Keeps zz s) (inband : Bool) (b : List Byte) (trecv : Nat) : Keeps zz (State.claimRx s inband b trecv) := by
  unfold State.claimRx
  repeat' first
    | (intro _; intros; try dsimp -zeta only)
    | with_reducible exact Keeps.refl _
    | with_reducible assumption
    | with_reducible apply State.leaseRx_keeps
    | with_reducible apply State.violation_keeps
    | with_reducible apply State.nak_keeps
    | with_reducible apply State.leaseAccept_keeps
    | with_reducible apply State.chooseRelease_keeps
    | with_reducible apply State.sendLease_keeps
    | with_reducible apply Keeps.getD
    | with_reducible apply Keeps.ite
    | (extract_lets +onlyGivenNames u; have hu : Keeps zz u := ?_; clear_value u)
    | (extract_lets +onlyGivenNames u; have hu : Keeps zz u.1 := ?_; clear_value u)
    | (extract_lets +onlyGivenNames u; have hu : Keeps zz u.2 := ?_; clear_value u)
    | (extract_lets +onlyGivenNames u; clear_value u)
    | dsimp only [u]
    | split

theorem State.releaseRx_keeps {zz s : State} (h : Keeps zz s) (inband : Bool) (b : List Byte) (trecv : Nat) : Keeps zz (State.releaseRx s inband b trecv) := by
  unfold State.releaseRx
  repeat' first
    | (intro _; intros; try dsimp -zeta only)
    | with_reducible exact Keeps.refl _
    | with_reducible assumption
    | with_reducible apply State.leaseRx_keeps
    | with_reducible apply State.violation_keeps
    | with_reducible apply State.leaseAccept_keeps
    | with_reducible apply State.bump_keeps
    | with_reducible apply State.onLease_keeps
    | with_reducible apply Keeps.ite
    | split

theorem State.nakRx_keeps {zz s : State} (h : Keeps zz s) (inband : Bool) (b : List Byte) (trecv : Nat) : Keeps zz (State.nakRx s inband b trecv) := by
  unfold State.nakRx
  repeat' first
    | (intro _; intros; try dsimp -zeta only)
    | with_reducible exact Keeps.refl _
    | with_reducible assumption
    | with_reducible apply State.leaseRx_keeps
    | with_reducible apply State.leaseAccept_keeps
    | with_reducible apply Keeps.ite
    | split

theorem State.pulseRx_keeps {zz s : State} (h : Keeps zz s) (w : Nat) : Keeps zz (State.pulseRx s w) := by
  unfold State.pulseRx
  repeat' first
    | (intro _; intros; try dsimp -zeta only)
    | with_reducible exact Keeps.refl _
    | with_reducible assumption
    | with_reducible apply State.violation_keeps
    | with_reducible apply State.onLease_keeps
    | with_reducible apply State.pathShow_keeps
    | with_reducible apply State.partnerIs_keeps
    | with_reducible apply State.holdSeen_keeps
    | with_reducible apply Keeps.ite
    | (extract_lets +onlyGivenNames u; have hu : Keeps zz u := ?_; clear_value u)
    | (extract_lets +onlyGivenNames u; have hu : Keeps zz u.1 := ?_; clear_value u)
    | (extract_lets +onlyGivenNames u; have hu : Keeps zz u.2 := ?_; clear_value u)
    | (extract_lets +onlyGivenNames u; clear_value u)
    | dsimp only [u]
    | split

theorem State.heartbeat_keeps {zz s : State} (h : Keeps zz s) : Keeps zz (State.heartbeat s) := by
  unfold State.heartbeat
  repeat' first
    | (intro _; intros; try dsimp -zeta only)
    | with_reducible exact Keeps.refl _
    | with_reducible assumption
    | with_reducible apply State.emit_keeps
    | with_reducible refine State.reachTick_keeps ?_ (by assumption)
    | with_reducible apply State.onLease_keeps
    | with_reducible apply Keeps.ite
    | split

theorem State.helloSend_keeps {zz s : State} (h : Keeps zz s) : Keeps zz (State.helloSend s) := by
  unfold State.helloSend
  repeat' first
    | (intro _; intros; try dsimp -zeta only)
    | with_reducible exact Keeps.refl _
    | with_reducible assumption
    | with_reducible refine State.reachTick_keeps ?_ (by assumption)
    | with_reducible apply State.sendHello_keeps
    | with_reducible apply State.onLease_keeps
    | with_reducible apply Keeps.ite
    | split

theorem State.statusSend_keeps {zz s : State} (h : Keeps zz s) : Keeps zz (State.statusSend s) := by
  unfold State.statusSend
  repeat' first
    | (intro _; intros; try dsimp -zeta only)
    | with_reducible exact Keeps.refl _
    | with_reducible assumption
    | with_reducible refine State.reachTick_keeps ?_ (by assumption)
    | with_reducible apply State.guard_keeps
    | with_reducible apply State.sendLease_keeps
    | with_reducible apply State.onLease_keeps
    | with_reducible apply Keeps.ite
    | (extract_lets +onlyGivenNames u; have hu : Keeps zz u := ?_; clear_value u)
    | (extract_lets +onlyGivenNames u; have hu : Keeps zz u.1 := ?_; clear_value u)
    | (extract_lets +onlyGivenNames u; have hu : Keeps zz u.2 := ?_; clear_value u)
    | (extract_lets +onlyGivenNames u; clear_value u)
    | dsimp only [u]
    | split

theorem State.claimSend_keeps {zz s : State} (h : Keeps zz s) : Keeps zz (State.claimSend s) := by
  unfold State.claimSend
  repeat' first
    | (intro _; intros; try dsimp -zeta only)
    | with_reducible exact Keeps.refl _
    | with_reducible assumption
    | with_reducible refine State.reachTick_keeps ?_ (by assumption)
    | with_reducible apply State.sendLease_keeps
    | with_reducible apply State.onLease_keeps
    | with_reducible apply Keeps.ite
    | split

theorem State.releaseRepeat_keeps {zz s : State} (h : Keeps zz s) : Keeps zz (State.releaseRepeat s) := by
  unfold State.releaseRepeat
  repeat' first
    | (intro _; intros; try dsimp -zeta only)
    | with_reducible exact Keeps.refl _
    | with_reducible assumption
    | with_reducible refine State.reachTick_keeps ?_ (by assumption)
    | with_reducible apply State.sendLease_keeps
    | with_reducible apply State.onLease_keeps
    | with_reducible apply Keeps.ite
    | split

theorem State.sendRenew_keeps {zz s : State} (h : Keeps zz s) (r : Nat) : Keeps zz (State.sendRenew s r) := by
  unfold State.sendRenew
  repeat' first
    | (intro _; intros; try dsimp -zeta only)
    | with_reducible exact Keeps.refl _
    | with_reducible assumption
    | with_reducible apply State.sendLease_keeps
    | with_reducible apply State.onLease_keeps
    | with_reducible apply Keeps.ite
    | (extract_lets +onlyGivenNames u; have hu : Keeps zz u := ?_; clear_value u)
    | (extract_lets +onlyGivenNames u; have hu : Keeps zz u.1 := ?_; clear_value u)
    | (extract_lets +onlyGivenNames u; have hu : Keeps zz u.2 := ?_; clear_value u)
    | (extract_lets +onlyGivenNames u; clear_value u)
    | dsimp only [u]
    | split

theorem State.renewalPoint_keeps {zz s : State} (h : Keeps zz s) : Keeps zz (State.renewalPoint s) := by
  unfold State.renewalPoint
  repeat' first
    | (intro _; intros; try dsimp -zeta only)
    | with_reducible exact Keeps.refl _
    | with_reducible assumption
    | with_reducible refine State.reach_keeps ?_ (by assumption)
    | with_reducible apply State.releaseBy_keeps
    | with_reducible apply State.sendRenew_keeps
    | with_reducible apply State.onLease_keeps
    | with_reducible apply State.updateGates_keeps
    | with_reducible apply State.showLease_keeps
    | with_reducible apply Keeps.ite
    | (extract_lets +onlyGivenNames u; have hu : Keeps zz u := ?_; clear_value u)
    | (extract_lets +onlyGivenNames u; have hu : Keeps zz u.1 := ?_; clear_value u)
    | (extract_lets +onlyGivenNames u; have hu : Keeps zz u.2 := ?_; clear_value u)
    | (extract_lets +onlyGivenNames u; clear_value u)
    | dsimp only [u]
    | split

theorem State.leaseExpiry_keeps {zz s : State} (h : Keeps zz s) : Keeps zz (State.leaseExpiry s) := by
  unfold State.leaseExpiry
  repeat' first
    | (intro _; intros; try dsimp -zeta only)
    | with_reducible exact Keeps.refl _
    | with_reducible assumption
    | with_reducible refine State.reach_keeps ?_ (by assumption)
    | with_reducible apply State.releaseBy_keeps
    | with_reducible apply Keeps.ite
    | split

theorem State.listenOver_keeps {zz s : State} (h : Keeps zz s) : Keeps zz (State.listenOver s) := by
  unfold State.listenOver
  repeat' first
    | (intro _; intros; try dsimp -zeta only)
    | with_reducible exact Keeps.refl _
    | with_reducible assumption
    | with_reducible refine State.reach_keeps ?_ (by assumption)
    | with_reducible apply State.leaseTo_keeps
    | with_reducible apply State.reclaimEval_keeps
    | with_reducible apply Keeps.ite
    | split

theorem State.homewtr_keeps {zz s : State} (h : Keeps zz s) : Keeps zz (State.homewtr s) := by
  unfold State.homewtr
  repeat' first
    | (intro _; intros; try dsimp -zeta only)
    | with_reducible exact Keeps.refl _
    | with_reducible assumption
    | with_reducible apply State.reclaimEval_keeps
    | with_reducible refine State.reachTick_keeps ?_ (by assumption)
    | with_reducible apply State.leaseTo_keeps
    | with_reducible apply State.onLease_keeps
    | with_reducible apply Keeps.ite
    | (extract_lets +onlyGivenNames u; have hu : Keeps zz u := ?_; clear_value u)
    | (extract_lets +onlyGivenNames u; have hu : Keeps zz u.1 := ?_; clear_value u)
    | (extract_lets +onlyGivenNames u; have hu : Keeps zz u.2 := ?_; clear_value u)
    | (extract_lets +onlyGivenNames u; clear_value u)
    | dsimp only [u]
    | split

theorem State.takeToken_keeps {zz s : State} (h : Keeps zz s) (row : Nat) : Keeps zz (State.takeToken s row) := by
  unfold State.takeToken
  repeat' first
    | (intro _; intros; try dsimp -zeta only)
    | with_reducible exact Keeps.refl _
    | with_reducible assumption
    | with_reducible apply State.leaseTo_keeps
    | with_reducible apply State.onLease_keeps
    | with_reducible apply State.bump_keeps
    | with_reducible apply State.sendRenew_keeps
    | with_reducible apply State.updateGates_keeps
    | with_reducible apply State.event_keeps
    | with_reducible apply State.evalModes_keeps
    | with_reducible apply State.ntsTake_keeps
    | with_reducible apply State.showLease_keeps
    | with_reducible apply Keeps.ite
    | (extract_lets +onlyGivenNames u; have hu : Keeps zz u := ?_; clear_value u)
    | (extract_lets +onlyGivenNames u; have hu : Keeps zz u.1 := ?_; clear_value u)
    | (extract_lets +onlyGivenNames u; have hu : Keeps zz u.2 := ?_; clear_value u)
    | (extract_lets +onlyGivenNames u; clear_value u)
    | dsimp only [u]
    | split

theorem State.tokenTake_keeps {zz s : State} (h : Keeps zz s) : Keeps zz (State.tokenTake s) := by
  unfold State.tokenTake
  repeat' first
    | (intro _; intros; try dsimp -zeta only)
    | with_reducible exact Keeps.refl _
    | with_reducible assumption
    | with_reducible refine State.reach_keeps ?_ (by assumption)
    | with_reducible apply State.takeToken_keeps
    | with_reducible apply Keeps.ite
    | split

theorem State.dualClear_keeps {zz s : State} (h : Keeps zz s) : Keeps zz (State.dualClear s) := by
  unfold State.dualClear
  repeat' first
    | (intro _; intros; try dsimp -zeta only)
    | with_reducible exact Keeps.refl _
    | with_reducible assumption
    | with_reducible refine State.reachTick_keeps ?_ (by assumption)
    | with_reducible apply State.set_keeps
    | with_reducible apply Keeps.ite
    | split

theorem State.leaseCmd_keeps {zz s : State} (h : Keeps zz s) (code : Nat) (ok : Bool) : Keeps zz (State.leaseCmd s code ok) := by
  unfold State.leaseCmd
  repeat' first
    | (intro _; intros; try dsimp -zeta only)
    | with_reducible exact Keeps.refl _
    | with_reducible assumption
    | with_reducible apply State.set_keeps
    | with_reducible apply Keeps.ite
    | split

theorem State.leaseReleaseCmd_keeps {zz s : State} (h : Keeps zz s) : Keeps zz (State.leaseReleaseCmd s) := by
  unfold State.leaseReleaseCmd
  repeat' first
    | (intro _; intros; try dsimp -zeta only)
    | with_reducible exact Keeps.refl _
    | with_reducible assumption
    | with_reducible apply State.leaseCmd_keeps
    | with_reducible apply State.chooseRelease_keeps
    | with_reducible apply Keeps.ite
    | (extract_lets +onlyGivenNames u; have hu : Keeps zz u := ?_; clear_value u)
    | (extract_lets +onlyGivenNames u; have hu : Keeps zz u.1 := ?_; clear_value u)
    | (extract_lets +onlyGivenNames u; have hu : Keeps zz u.2 := ?_; clear_value u)
    | (extract_lets +onlyGivenNames u; clear_value u)
    | dsimp only [u]
    | split

theorem State.leaseResyncCmd_keeps {zz s : State} (h : Keeps zz s) : Keeps zz (State.leaseResyncCmd s) := by
  unfold State.leaseResyncCmd
  repeat' first
    | (intro _; intros; try dsimp -zeta only)
    | with_reducible exact Keeps.refl _
    | with_reducible assumption
    | with_reducible apply State.leaseCmd_keeps
    | with_reducible apply State.startResync_keeps
    | with_reducible apply Keeps.ite
    | (extract_lets +onlyGivenNames u; have hu : Keeps zz u := ?_; clear_value u)
    | (extract_lets +onlyGivenNames u; have hu : Keeps zz u.1 := ?_; clear_value u)
    | (extract_lets +onlyGivenNames u; have hu : Keeps zz u.2 := ?_; clear_value u)
    | (extract_lets +onlyGivenNames u; clear_value u)
    | dsimp only [u]
    | split

theorem State.markerSend_keeps {zz s : State} (h : Keeps zz s) (dev : Int) : Keeps zz (State.markerSend s dev) := by
  unfold State.markerSend
  repeat' first
    | (intro _; intros; try dsimp -zeta only)
    | with_reducible exact Keeps.refl _
    | with_reducible assumption
    | with_reducible refine State.reach_keeps ?_ (by assumption)
    | with_reducible apply State.emit_keeps
    | with_reducible apply State.onLease_keeps
    | with_reducible apply State.sendLease_keeps
    | with_reducible apply Keeps.getD
    | with_reducible apply Keeps.ite
    | (extract_lets +onlyGivenNames u; have hu : Keeps zz u := ?_; clear_value u)
    | (extract_lets +onlyGivenNames u; have hu : Keeps zz u.1 := ?_; clear_value u)
    | (extract_lets +onlyGivenNames u; have hu : Keeps zz u.2 := ?_; clear_value u)
    | (extract_lets +onlyGivenNames u; clear_value u)
    | dsimp only [u]
    | split

theorem State.ttRx_keeps {zz s : State} (h : Keeps zz s) (b : List Byte) (trecv t4 : Nat) : Keeps zz (State.ttRx s b trecv t4) := by
  unfold State.ttRx
  repeat' first
    | (intro _; intros; try dsimp -zeta only)
    | with_reducible exact Keeps.refl _
    | with_reducible assumption
    | with_reducible apply State.leaseRx_keeps
    | with_reducible apply State.leaseAccept_keeps
    | with_reducible apply State.onLease_keeps
    | with_reducible apply State.addDelay_keeps
    | with_reducible apply State.bump_keeps
    | with_reducible apply State.measure_keeps
    | with_reducible apply Keeps.ite
    | (extract_lets +onlyGivenNames u; have hu : Keeps zz u := ?_; clear_value u)
    | (extract_lets +onlyGivenNames u; have hu : Keeps zz u.1 := ?_; clear_value u)
    | (extract_lets +onlyGivenNames u; have hu : Keeps zz u.2 := ?_; clear_value u)
    | (extract_lets +onlyGivenNames u; clear_value u)
    | dsimp only [u]
    | split

theorem State.replRx_keeps {zz s : State} (h : Keeps zz s) (type : Nat) (inband : Bool) (b : List Byte) (trecv : Nat) (bad : LeaseMsg → Bool) (f : State → LeaseMsg → State) (hf : ∀ (x0 : State) (x1 : LeaseMsg), Keeps zz x0 → Keeps zz (f x0 x1)) : Keeps zz (State.replRx s type inband b trecv bad f) := by
  unfold State.replRx
  repeat' first
    | (intro _; intros; try dsimp -zeta only)
    | with_reducible exact Keeps.refl _
    | with_reducible assumption
    | with_reducible apply State.leaseRx_keeps
    | with_reducible apply State.violation_keeps
    | with_reducible apply State.nak_keeps
    | with_reducible apply State.leaseAccept_keeps
    | with_reducible apply State.bump_keeps
    | with_reducible apply hf
    | with_reducible apply Keeps.ite
    | split

theorem State.replNts_keeps {zz s : State} (h : Keeps zz s) (inband : Bool) (b : List Byte) (trecv : Nat) : Keeps zz (State.replNts s inband b trecv) := by
  unfold State.replNts
  repeat' first
    | (intro _; intros; try dsimp -zeta only)
    | with_reducible exact Keeps.refl _
    | with_reducible assumption
    | with_reducible apply State.replRx_keeps
    | with_reducible apply State.genReceived_keeps
    | with_reducible apply Keeps.ite
    | split

theorem State.replGrantRx_keeps {zz s : State} (h : Keeps zz s) (inband : Bool) (b : List Byte) (trecv : Nat) : Keeps zz (State.replGrantRx s inband b trecv) := by
  unfold State.replGrantRx
  repeat' first
    | (intro _; intros; try dsimp -zeta only)
    | with_reducible exact Keeps.refl _
    | with_reducible assumption
    | with_reducible apply State.replRx_keeps
    | with_reducible apply State.putGrant_keeps
    | with_reducible apply Keeps.ite
    | split

theorem State.replDone_keeps {zz s : State} (h : Keeps zz s) (inband : Bool) (b : List Byte) (trecv : Nat) : Keeps zz (State.replDone s inband b trecv) := by
  unfold State.replDone
  repeat' first
    | (intro _; intros; try dsimp -zeta only)
    | with_reducible exact Keeps.refl _
    | with_reducible assumption
    | with_reducible apply State.replRx_keeps
    | with_reducible apply State.set_keeps
    | with_reducible apply State.event_keeps
    | with_reducible apply Keeps.ite
    | split

theorem State.replSend_keeps {zz s : State} (h : Keeps zz s) : Keeps zz (State.replSend s) := by
  unfold State.replSend
  repeat' first
    | (intro _; intros; try dsimp -zeta only)
    | with_reducible exact Keeps.refl _
    | with_reducible assumption
    | with_reducible apply State.onLease_keeps
    | with_reducible apply State.sendLease_keeps
    | with_reducible apply State.done_keeps
    | with_reducible apply State.event_keeps
    | with_reducible apply Keeps.ite
    | (extract_lets +onlyGivenNames u; have hu : Keeps zz u := ?_; clear_value u)
    | (extract_lets +onlyGivenNames u; have hu : Keeps zz u.1 := ?_; clear_value u)
    | (extract_lets +onlyGivenNames u; have hu : Keeps zz u.2 := ?_; clear_value u)
    | (extract_lets +onlyGivenNames u; clear_value u)
    | dsimp only [u]
    | split

end Sys2Proof.Machine
end

