-- ==== Sys2Proof/Laws/Keep/Teasel.lean ====
section
/-! SUPPORT. Sys2Proof/Machine/Teasel.lean keeps the queue and the canonical forms. -/
namespace Sys2Proof.Machine

theorem State.setTslEng_keeps {zz s : State} (h : Keeps zz s) (e : Nat) (x : TslEng) : Keeps zz (State.setTslEng s e x) := by
  unfold State.setTslEng
  repeat' first
    | (intro _; intros; try dsimp -zeta only)
    | with_reducible exact Keeps.refl _
    | with_reducible assumption
    | with_reducible apply State.onTsl_keeps
    | with_reducible apply State.set_keeps
    | with_reducible apply Keeps.ite
    | split

theorem State.setTslRun_keeps {zz s : State} (h : Keeps zz s) (e : Nat) (r : TslRun) : Keeps zz (State.setTslRun s e r) := by
  unfold State.setTslRun
  repeat' first
    | (intro _; intros; try dsimp -zeta only)
    | with_reducible exact Keeps.refl _
    | with_reducible assumption
    | with_reducible apply State.setTslEng_keeps
    | with_reducible apply Keeps.ite
    | split

theorem State.setCpMem_keeps {zz s : State} (h : Keeps zz s) (c a : Nat) (bs : List Byte) : Keeps zz (State.setCpMem s c a bs) := by
  unfold State.setCpMem
  repeat' first
    | (intro _; intros; try dsimp -zeta only)
    | with_reducible exact Keeps.refl _
    | with_reducible assumption
    | with_reducible apply State.onTsl_keeps
    | (apply SMap.wf_setMany; assumption)
    | (apply SMap.wf_clearRange; assumption)
    | with_reducible apply Keeps.ite
    | split

theorem State.tslRecord_keeps {zz s : State} (h : Keeps zz s) (ring jobId code e attempts supply d : Nat) : Keeps zz (State.tslRecord s ring jobId code e attempts supply d) := by
  unfold State.tslRecord
  repeat' first
    | (intro _; intros; try dsimp -zeta only)
    | with_reducible exact Keeps.refl _
    | with_reducible assumption
    | with_reducible apply State.onTsl_keeps
    | with_reducible apply State.set_keeps
    | with_reducible apply Keeps.ite
    | (extract_lets +onlyGivenNames u; have hu : Keeps zz u := ?_; clear_value u)
    | (extract_lets +onlyGivenNames u; have hu : Keeps zz u.1 := ?_; clear_value u)
    | (extract_lets +onlyGivenNames u; have hu : Keeps zz u.2 := ?_; clear_value u)
    | (extract_lets +onlyGivenNames u; clear_value u)
    | dsimp only [u]
    | split

theorem State.tslEndQueued_keeps {zz s : State} (h : Keeps zz s) (j : TslJob) (code : Nat) : Keeps zz (State.tslEndQueued s j code) := by
  unfold State.tslEndQueued
  repeat' first
    | (intro _; intros; try dsimp -zeta only)
    | with_reducible exact Keeps.refl _
    | with_reducible assumption
    | with_reducible apply State.bump_keeps
    | with_reducible apply State.tslRecord_keeps
    | with_reducible apply Keeps.ite
    | split

theorem State.setTslQueue_keeps {zz s : State} (h : Keeps zz s) (k : Nat) (l : List TslJob) : Keeps zz (State.setTslQueue s k l) := by
  unfold State.setTslQueue
  repeat' first
    | (intro _; intros; try dsimp -zeta only)
    | with_reducible exact Keeps.refl _
    | with_reducible assumption
    | with_reducible apply State.onTsl_keeps
    | with_reducible apply State.set_keeps
    | with_reducible apply State.showTsl_keeps
    | with_reducible apply Keeps.ite
    | split

theorem State.tslSubmit_keeps {zz s : State} (h : Keeps zz s) (path : Path) (c v : Nat) (mem : List (Nat × Byte)) : Keeps zz (State.tslSubmit s path c v mem) := by
  unfold State.tslSubmit
  repeat' first
    | (intro _; intros; try dsimp -zeta only)
    | with_reducible exact Keeps.refl _
    | with_reducible assumption
    | with_reducible apply State.setCpMem_keeps
    | with_reducible apply State.set_keeps
    | with_reducible apply State.tslEndQueued_keeps
    | with_reducible apply State.setTslQueue_keeps
    | with_reducible apply Keeps.foldl
    | with_reducible apply Keeps.foldl_fst
    | with_reducible apply Keeps.ite
    | (extract_lets +onlyGivenNames u; have hu : Keeps zz u := ?_; clear_value u)
    | (extract_lets +onlyGivenNames u; have hu : Keeps zz u.1 := ?_; clear_value u)
    | (extract_lets +onlyGivenNames u; have hu : Keeps zz u.2 := ?_; clear_value u)
    | (extract_lets +onlyGivenNames u; clear_value u)
    | dsimp only [u]
    | split

theorem State.startRun_keeps {zz s : State} (h : Keeps zz s) (e : Nat) (j : TslJob) (d : TslDesc) (input : List Byte) (code : Nat) (signer : Option Nat) : Keeps zz (State.startRun s e j d input code signer) := by
  unfold State.startRun
  repeat' first
    | (intro _; intros; try dsimp -zeta only)
    | with_reducible exact Keeps.refl _
    | with_reducible assumption
    | with_reducible apply State.rand_keeps
    | with_reducible apply State.setTslRun_keeps
    | with_reducible apply State.set_keeps
    | with_reducible apply State.setTs_keeps
    | with_reducible apply State.setBit_keeps
    | with_reducible apply Keeps.ite
    | (extract_lets +onlyGivenNames u; have hu : Keeps zz u := ?_; clear_value u)
    | (extract_lets +onlyGivenNames u; have hu : Keeps zz u.1 := ?_; clear_value u)
    | (extract_lets +onlyGivenNames u; have hu : Keeps zz u.2 := ?_; clear_value u)
    | (extract_lets +onlyGivenNames u; clear_value u)
    | dsimp only [u]
    | split

theorem State.keyFault_keeps {zz s : State} (h : Keeps zz s) (d : TslDesc) : Keeps zz (State.keyFault s d) := by
  unfold State.keyFault
  repeat' first
    | (intro _; intros; try dsimp -zeta only)
    | with_reducible exact Keeps.refl _
    | with_reducible assumption
    | with_reducible apply State.fatal_keeps
    | with_reducible apply Keeps.ite
    | split

theorem State.jobStart_keeps {zz s : State} (h : Keeps zz s) (e : Nat) : Keeps zz (State.jobStart s e) := by
  unfold State.jobStart
  repeat' first
    | (intro _; intros; try dsimp -zeta only)
    | with_reducible exact Keeps.refl _
    | with_reducible assumption
    | with_reducible refine State.reachTick_keeps ?_ (by assumption)
    | with_reducible apply State.setTslQueue_keeps
    | with_reducible apply State.startRun_keeps
    | with_reducible apply State.keyFault_keeps
    | with_reducible apply Keeps.ite
    | (extract_lets +onlyGivenNames u; have hu : Keeps zz u := ?_; clear_value u)
    | (extract_lets +onlyGivenNames u; have hu : Keeps zz u.1 := ?_; clear_value u)
    | (extract_lets +onlyGivenNames u; have hu : Keeps zz u.2 := ?_; clear_value u)
    | (extract_lets +onlyGivenNames u; clear_value u)
    | dsimp only [u]
    | split

theorem State.companionStart_keeps {zz s : State} (h : Keeps zz s) (e x : Nat) : Keeps zz (State.companionStart s e x) := by
  unfold State.companionStart
  repeat' first
    | (intro _; intros; try dsimp -zeta only)
    | with_reducible exact Keeps.refl _
    | with_reducible assumption
    | with_reducible refine State.reachTick_keeps ?_ (by assumption)
    | with_reducible apply State.startRun_keeps
    | with_reducible apply State.keyFault_keeps
    | with_reducible apply Keeps.ite
    | (extract_lets +onlyGivenNames u; have hu : Keeps zz u := ?_; clear_value u)
    | (extract_lets +onlyGivenNames u; have hu : Keeps zz u.1 := ?_; clear_value u)
    | (extract_lets +onlyGivenNames u; have hu : Keeps zz u.2 := ?_; clear_value u)
    | (extract_lets +onlyGivenNames u; clear_value u)
    | dsimp only [u]
    | split

theorem State.showSlot_keeps {zz s : State} (h : Keeps zz s) (e n i : Nat) : Keeps zz (State.showSlot s e n i) := by
  unfold State.showSlot
  repeat' first
    | (intro _; intros; try dsimp -zeta only)
    | with_reducible exact Keeps.refl _
    | with_reducible assumption
    | with_reducible apply State.setBit_keeps
    | with_reducible apply State.set_keeps
    | with_reducible apply Keeps.ite
    | (extract_lets +onlyGivenNames u; have hu : Keeps zz u := ?_; clear_value u)
    | (extract_lets +onlyGivenNames u; have hu : Keeps zz u.1 := ?_; clear_value u)
    | (extract_lets +onlyGivenNames u; have hu : Keeps zz u.2 := ?_; clear_value u)
    | (extract_lets +onlyGivenNames u; clear_value u)
    | dsimp only [u]
    | split

theorem State.tslCmd_keeps {zz s : State} (h : Keeps zz s) (e op : Nat) (f : State → TslRun → Nat → State × TslRun) (hf : ∀ (x0 : State) (x1 : TslRun) (x2 : Nat), Keeps zz x0 → Keeps zz ((f x0 x1 x2).1)) : Keeps zz (State.tslCmd s e op f) := by
  unfold State.tslCmd
  repeat' first
    | (intro _; intros; try dsimp -zeta only)
    | with_reducible exact Keeps.refl _
    | with_reducible assumption
    | with_reducible apply State.setTslRun_keeps
    | with_reducible apply State.showSlot_keeps
    | with_reducible apply Keeps.foldl
    | with_reducible apply Keeps.foldl_fst
    | with_reducible apply hf
    | with_reducible apply Keeps.ite
    | (extract_lets +onlyGivenNames u; have hu : Keeps zz u := ?_; clear_value u)
    | (extract_lets +onlyGivenNames u; have hu : Keeps zz u.1 := ?_; clear_value u)
    | (extract_lets +onlyGivenNames u; have hu : Keeps zz u.2 := ?_; clear_value u)
    | (extract_lets +onlyGivenNames u; clear_value u)
    | dsimp only [u]
    | split

theorem State.tslOpen_keeps {zz s : State} (h : Keeps zz s) (r : TslRun) (i code : Nat) : Keeps zz ((State.tslOpen s r i code).1) := by
  unfold State.tslOpen
  repeat' first
    | (intro _; intros; try dsimp -zeta only)
    | with_reducible exact Keeps.refl _
    | with_reducible assumption
    | with_reducible apply State.drawn_keeps
    | with_reducible apply Keeps.ite
    | split

theorem State.tslLoad_keeps {zz s : State} (h : Keeps zz s) (e : Nat) : Keeps zz (State.tslLoad s e) := by
  unfold State.tslLoad
  repeat' first
    | (intro _; intros; try dsimp -zeta only)
    | with_reducible exact Keeps.refl _
    | with_reducible assumption
    | with_reducible apply State.tslCmd_keeps
    | with_reducible apply Keeps.ite
    | split

theorem State.tslLoadKey_keeps {zz s : State} (h : Keeps zz s) (e : Nat) : Keeps zz (State.tslLoadKey s e) := by
  unfold State.tslLoadKey
  repeat' first
    | (intro _; intros; try dsimp -zeta only)
    | with_reducible exact Keeps.refl _
    | with_reducible assumption
    | with_reducible apply State.tslCmd_keeps
    | with_reducible apply Keeps.ite
    | split

theorem State.tslRand_keeps {zz s : State} (h : Keeps zz s) (e : Nat) : Keeps zz (State.tslRand s e) := by
  unfold State.tslRand
  repeat' first
    | (intro _; intros; try dsimp -zeta only)
    | with_reducible exact Keeps.refl _
    | with_reducible assumption
    | with_reducible apply State.tslCmd_keeps
    | with_reducible apply State.rand_keeps
    | with_reducible apply Keeps.ite
    | (extract_lets +onlyGivenNames u; have hu : Keeps zz u := ?_; clear_value u)
    | (extract_lets +onlyGivenNames u; have hu : Keeps zz u.1 := ?_; clear_value u)
    | (extract_lets +onlyGivenNames u; have hu : Keeps zz u.2 := ?_; clear_value u)
    | (extract_lets +onlyGivenNames u; clear_value u)
    | dsimp only [u]
    | split

theorem State.tslArith_keeps {zz s : State} (h : Keeps zz s) (e op : Nat) (upset : Option Nat) (f : Nat → Nat → Nat → Nat) : Keeps zz (State.tslArith s e op upset f) := by
  unfold State.tslArith
  repeat' first
    | (intro _; intros; try dsimp -zeta only)
    | with_reducible exact Keeps.refl _
    | with_reducible assumption
    | with_reducible apply State.tslCmd_keeps
    | with_reducible apply Keeps.ite
    | (extract_lets +onlyGivenNames u; have hu : Keeps zz u := ?_; clear_value u)
    | (extract_lets +onlyGivenNames u; have hu : Keeps zz u.1 := ?_; clear_value u)
    | (extract_lets +onlyGivenNames u; have hu : Keeps zz u.2 := ?_; clear_value u)
    | (extract_lets +onlyGivenNames u; clear_value u)
    | dsimp only [u]
    | split

theorem State.tslInv_keeps {zz s : State} (h : Keeps zz s) (e : Nat) (upset : Option Nat) : Keeps zz (State.tslInv s e upset) := by
  unfold State.tslInv
  repeat' first
    | (intro _; intros; try dsimp -zeta only)
    | with_reducible exact Keeps.refl _
    | with_reducible assumption
    | with_reducible apply State.tslCmd_keeps
    | with_reducible apply State.tslOpen_keeps
    | with_reducible apply Keeps.ite
    | (extract_lets +onlyGivenNames u; have hu : Keeps zz u := ?_; clear_value u)
    | (extract_lets +onlyGivenNames u; have hu : Keeps zz u.1 := ?_; clear_value u)
    | (extract_lets +onlyGivenNames u; have hu : Keeps zz u.2 := ?_; clear_value u)
    | (extract_lets +onlyGivenNames u; clear_value u)
    | dsimp only [u]
    | split

theorem State.tslExp_keeps {zz s : State} (h : Keeps zz s) (e : Nat) (upset : Option Nat) : Keeps zz (State.tslExp s e upset) := by
  unfold State.tslExp
  repeat' first
    | (intro _; intros; try dsimp -zeta only)
    | with_reducible exact Keeps.refl _
    | with_reducible assumption
    | with_reducible apply State.tslCmd_keeps
    | with_reducible apply State.tslOpen_keeps
    | with_reducible apply Keeps.ite
    | (extract_lets +onlyGivenNames u; have hu : Keeps zz u := ?_; clear_value u)
    | (extract_lets +onlyGivenNames u; have hu : Keeps zz u.1 := ?_; clear_value u)
    | (extract_lets +onlyGivenNames u; have hu : Keeps zz u.2 := ?_; clear_value u)
    | (extract_lets +onlyGivenNames u; clear_value u)
    | dsimp only [u]
    | split

theorem State.tslMove_keeps {zz s : State} (h : Keeps zz s) (e : Nat) : Keeps zz (State.tslMove s e) := by
  unfold State.tslMove
  repeat' first
    | (intro _; intros; try dsimp -zeta only)
    | with_reducible exact Keeps.refl _
    | with_reducible assumption
    | with_reducible apply State.tslCmd_keeps
    | with_reducible apply Keeps.ite
    | (extract_lets +onlyGivenNames u; have hu : Keeps zz u := ?_; clear_value u)
    | (extract_lets +onlyGivenNames u; have hu : Keeps zz u.1 := ?_; clear_value u)
    | (extract_lets +onlyGivenNames u; have hu : Keeps zz u.2 := ?_; clear_value u)
    | (extract_lets +onlyGivenNames u; clear_value u)
    | dsimp only [u]
    | split

theorem State.tslUnload_keeps {zz s : State} (h : Keeps zz s) (e : Nat) : Keeps zz (State.tslUnload s e) := by
  unfold State.tslUnload
  repeat' first
    | (intro _; intros; try dsimp -zeta only)
    | with_reducible exact Keeps.refl _
    | with_reducible assumption
    | with_reducible apply State.tslCmd_keeps
    | (apply SMap.wf_setMany; assumption)
    | (apply SMap.wf_clearRange; assumption)
    | with_reducible apply Keeps.ite
    | split

theorem State.tslEmpty_keeps {zz s : State} (h : Keeps zz s) (k : Nat) : Keeps zz (State.tslEmpty s k) := by
  unfold State.tslEmpty
  repeat' first
    | (intro _; intros; try dsimp -zeta only)
    | with_reducible exact Keeps.refl _
    | with_reducible assumption
    | with_reducible apply State.bistCutReturn_keeps
    | with_reducible apply State.tslEndQueued_keeps
    | with_reducible apply State.event_keeps
    | with_reducible apply State.setTslQueue_keeps
    | with_reducible apply Keeps.foldl
    | with_reducible apply Keeps.foldl_fst
    | with_reducible apply Keeps.ite
    | (extract_lets +onlyGivenNames u; have hu : Keeps zz u := ?_; clear_value u)
    | (extract_lets +onlyGivenNames u; have hu : Keeps zz u.1 := ?_; clear_value u)
    | (extract_lets +onlyGivenNames u; have hu : Keeps zz u.2 := ?_; clear_value u)
    | (extract_lets +onlyGivenNames u; clear_value u)
    | dsimp only [u]
    | split

theorem State.tslFault_keeps {zz s : State} (h : Keeps zz s) (e : Nat) : Keeps zz (State.tslFault s e) := by
  unfold State.tslFault
  repeat' first
    | (intro _; intros; try dsimp -zeta only)
    | with_reducible exact Keeps.refl _
    | with_reducible assumption
    | with_reducible apply State.set_keeps
    | with_reducible apply State.setBit_keeps
    | with_reducible apply State.raiseCond_keeps
    | with_reducible apply State.tslSettle_keeps
    | with_reducible apply State.tslEmpty_keeps
    | with_reducible apply Keeps.ite
    | (extract_lets +onlyGivenNames u; have hu : Keeps zz u := ?_; clear_value u)
    | (extract_lets +onlyGivenNames u; have hu : Keeps zz u.1 := ?_; clear_value u)
    | (extract_lets +onlyGivenNames u; have hu : Keeps zz u.2 := ?_; clear_value u)
    | (extract_lets +onlyGivenNames u; clear_value u)
    | dsimp only [u]
    | split

theorem State.tslWipe_keeps {zz s : State} (h : Keeps zz s) (e : Nat) : Keeps zz (State.tslWipe s e) := by
  unfold State.tslWipe
  repeat' first
    | (intro _; intros; try dsimp -zeta only)
    | with_reducible exact Keeps.refl _
    | with_reducible assumption
    | with_reducible apply State.setTslEng_keeps
    | with_reducible apply State.set_keeps
    | with_reducible apply Keeps.forEach
    | with_reducible apply State.setBit_keeps
    | with_reducible apply State.perfEv_keeps
    | with_reducible apply State.tslSettle_keeps
    | with_reducible apply State.tslRetireNow_keeps
    | with_reducible apply State.tslEmpty_keeps
    | with_reducible apply Keeps.ite
    | (extract_lets +onlyGivenNames u; have hu : Keeps zz u := ?_; clear_value u)
    | (extract_lets +onlyGivenNames u; have hu : Keeps zz u.1 := ?_; clear_value u)
    | (extract_lets +onlyGivenNames u; have hu : Keeps zz u.2 := ?_; clear_value u)
    | (extract_lets +onlyGivenNames u; clear_value u)
    | dsimp only [u]
    | split

theorem State.tslOutput_keeps {zz s : State} (h : Keeps zz s) (r : TslRun) : Keeps zz (State.tslOutput s r) := by
  unfold State.tslOutput
  repeat' first
    | (intro _; intros; try dsimp -zeta only)
    | with_reducible exact Keeps.refl _
    | with_reducible assumption
    | with_reducible apply State.setCpMem_keeps
    | with_reducible apply Keeps.foldl
    | with_reducible apply Keeps.foldl_fst
    | with_reducible apply Keeps.ite
    | split

theorem State.tslEnd_keeps {zz s : State} (h : Keeps zz s) (e : Nat) (r : TslRun) (code attempts : Nat) : Keeps zz (State.tslEnd s e r code attempts) := by
  unfold State.tslEnd
  repeat' first
    | (intro _; intros; try dsimp -zeta only)
    | with_reducible exact Keeps.refl _
    | with_reducible assumption
    | with_reducible apply State.bump_keeps
    | with_reducible apply State.noteSec_keeps
    | with_reducible apply State.tslOutput_keeps
    | with_reducible apply State.tslRecord_keeps
    | with_reducible apply State.tslWipe_keeps
    | with_reducible apply Keeps.ite
    | (extract_lets +onlyGivenNames u; have hu : Keeps zz u := ?_; clear_value u)
    | (extract_lets +onlyGivenNames u; have hu : Keeps zz u.1 := ?_; clear_value u)
    | (extract_lets +onlyGivenNames u; have hu : Keeps zz u.2 := ?_; clear_value u)
    | (extract_lets +onlyGivenNames u; clear_value u)
    | dsimp only [u]
    | split

theorem State.tslRequeue_keeps {zz s : State} (h : Keeps zz s) (j : TslJob) : Keeps zz (State.tslRequeue s j) := by
  unfold State.tslRequeue
  repeat' first
    | (intro _; intros; try dsimp -zeta only)
    | with_reducible exact Keeps.refl _
    | with_reducible assumption
    | with_reducible apply State.tslEndQueued_keeps
    | with_reducible apply State.setTslQueue_keeps
    | with_reducible apply Keeps.ite
    | split

theorem State.tslRerun_keeps {zz s : State} (h : Keeps zz s) (e : Nat) (r : TslRun) : Keeps zz (State.tslRerun s e r) := by
  unfold State.tslRerun
  repeat' first
    | (intro _; intros; try dsimp -zeta only)
    | with_reducible exact Keeps.refl _
    | with_reducible assumption
    | with_reducible apply State.event_keeps
    | with_reducible apply State.tslEnd_keeps
    | with_reducible apply State.tslFault_keeps
    | with_reducible apply State.tslWipe_keeps
    | with_reducible apply State.tslRequeue_keeps
    | with_reducible apply Keeps.ite
    | (extract_lets +onlyGivenNames u; have hu : Keeps zz u := ?_; clear_value u)
    | (extract_lets +onlyGivenNames u; have hu : Keeps zz u.1 := ?_; clear_value u)
    | (extract_lets +onlyGivenNames u; have hu : Keeps zz u.2 := ?_; clear_value u)
    | (extract_lets +onlyGivenNames u; clear_value u)
    | dsimp only [u]
    | split

theorem State.tslDiscard_keeps {zz s : State} (h : Keeps zz s) (e : Nat) (r : TslRun) : Keeps zz (State.tslDiscard s e r) := by
  unfold State.tslDiscard
  repeat' first
    | (intro _; intros; try dsimp -zeta only)
    | with_reducible exact Keeps.refl _
    | with_reducible assumption
    | with_reducible apply State.bump_keeps
    | with_reducible apply State.tslEnd_keeps
    | with_reducible apply State.tslWipe_keeps
    | with_reducible apply State.tslRequeue_keeps
    | with_reducible apply Keeps.ite
    | (extract_lets +onlyGivenNames u; have hu : Keeps zz u := ?_; clear_value u)
    | (extract_lets +onlyGivenNames u; have hu : Keeps zz u.1 := ?_; clear_value u)
    | (extract_lets +onlyGivenNames u; have hu : Keeps zz u.2 := ?_; clear_value u)
    | (extract_lets +onlyGivenNames u; clear_value u)
    | dsimp only [u]
    | split

theorem State.tslClean_keeps {zz s : State} (h : Keeps zz s) (e : Nat) : Keeps zz (State.tslClean s e) := by
  unfold State.tslClean
  repeat' first
    | (intro _; intros; try dsimp -zeta only)
    | with_reducible exact Keeps.refl _
    | with_reducible assumption
    | with_reducible apply State.set_keeps
    | with_reducible apply Keeps.ite
    | split

theorem State.companionOver_keeps {zz s : State} (h : Keeps zz s) (x e : Nat) (c r : TslRun) (shadow : Bool) : Keeps zz (State.companionOver s x e c r shadow) := by
  unfold State.companionOver
  repeat' first
    | (intro _; intros; try dsimp -zeta only)
    | with_reducible exact Keeps.refl _
    | with_reducible assumption
    | with_reducible apply State.tslWipe_keeps
    | with_reducible apply State.tslDiscard_keeps
    | with_reducible apply State.tslEnd_keeps
    | with_reducible apply State.bump_keeps
    | with_reducible apply State.event_keeps
    | with_reducible apply State.tslFault_keeps
    | with_reducible apply State.setTslRun_keeps
    | with_reducible apply State.tslClean_keeps
    | with_reducible apply State.tslRerun_keeps
    | with_reducible apply Keeps.ite
    | (extract_lets +onlyGivenNames u; have hu : Keeps zz u := ?_; clear_value u)
    | (extract_lets +onlyGivenNames u; have hu : Keeps zz u.1 := ?_; clear_value u)
    | (extract_lets +onlyGivenNames u; have hu : Keeps zz u.2 := ?_; clear_value u)
    | (extract_lets +onlyGivenNames u; clear_value u)
    | dsimp only [u]
    | split

theorem State.jobRelease_keeps {zz s : State} (h : Keeps zz s) (e : Nat) (differs : Bool) : Keeps zz (State.jobRelease s e differs) := by
  unfold State.jobRelease
  repeat' first
    | (intro _; intros; try dsimp -zeta only)
    | with_reducible exact Keeps.refl _
    | with_reducible assumption
    | with_reducible refine State.reachTick_keeps ?_ (by assumption)
    | with_reducible apply State.companionOver_keeps
    | with_reducible apply State.tslWipe_keeps
    | with_reducible apply State.tslDiscard_keeps
    | with_reducible apply State.tslEnd_keeps
    | with_reducible apply State.bump_keeps
    | with_reducible apply State.event_keeps
    | with_reducible apply State.tslRerun_keeps
    | with_reducible apply State.tslClean_keeps
    | with_reducible apply State.setTslRun_keeps
    | with_reducible apply Keeps.ite
    | (extract_lets +onlyGivenNames u; have hu : Keeps zz u := ?_; clear_value u)
    | (extract_lets +onlyGivenNames u; have hu : Keeps zz u.1 := ?_; clear_value u)
    | (extract_lets +onlyGivenNames u; have hu : Keeps zz u.2 := ?_; clear_value u)
    | (extract_lets +onlyGivenNames u; clear_value u)
    | dsimp only [u]
    | split

theorem State.tslSupply_keeps {zz s : State} (h : Keeps zz s) : Keeps zz (State.tslSupply s) := by
  unfold State.tslSupply
  repeat' first
    | (intro _; intros; try dsimp -zeta only)
    | with_reducible exact Keeps.refl _
    | with_reducible assumption
    | with_reducible apply Keeps.forEach
    | with_reducible apply State.setTslRun_keeps
    | with_reducible apply State.onTsl_keeps
    | with_reducible apply Keeps.ite
    | split

theorem State.tslSupplyOver_keeps {zz s : State} (h : Keeps zz s) : Keeps zz (State.tslSupplyOver s) := by
  unfold State.tslSupplyOver
  repeat' first
    | (intro _; intros; try dsimp -zeta only)
    | with_reducible exact Keeps.refl _
    | with_reducible assumption
    | with_reducible apply State.event_keeps
    | with_reducible apply State.onTsl_keeps
    | with_reducible apply Keeps.ite
    | split

theorem State.markAbort_keeps {zz s : State} (h : Keeps zz s) (m : Nat) : Keeps zz (State.markAbort s m) := by
  unfold State.markAbort
  repeat' first
    | (intro _; intros; try dsimp -zeta only)
    | with_reducible exact Keeps.refl _
    | with_reducible assumption
    | with_reducible apply State.onTsl_keeps
    | with_reducible apply Keeps.ite
    | split

theorem State.tslAbort_keeps {zz s : State} (h : Keeps zz s) (v : Nat) : Keeps zz (State.tslAbort s v) := by
  unfold State.tslAbort
  repeat' first
    | (intro _; intros; try dsimp -zeta only)
    | with_reducible exact Keeps.refl _
    | with_reducible assumption
    | with_reducible apply State.set_keeps
    | with_reducible apply State.event_keeps
    | with_reducible apply State.onTsl_keeps
    | with_reducible apply Keeps.ite
    | (extract_lets +onlyGivenNames u; have hu : Keeps zz u := ?_; clear_value u)
    | (extract_lets +onlyGivenNames u; have hu : Keeps zz u.1 := ?_; clear_value u)
    | (extract_lets +onlyGivenNames u; have hu : Keeps zz u.2 := ?_; clear_value u)
    | (extract_lets +onlyGivenNames u; clear_value u)
    | dsimp only [u]
    | split

theorem State.abortEngine_keeps {zz s : State} (h : Keeps zz s) (e : Nat) : Keeps zz (State.abortEngine s e) := by
  unfold State.abortEngine
  repeat' first
    | (intro _; intros; try dsimp -zeta only)
    | with_reducible exact Keeps.refl _
    | with_reducible assumption
    | with_reducible apply State.tslWipe_keeps
    | with_reducible apply State.tslEnd_keeps
    | with_reducible apply Keeps.foldl
    | with_reducible apply Keeps.foldl_fst
    | with_reducible apply Keeps.ite
    | (extract_lets +onlyGivenNames u; have hu : Keeps zz u := ?_; clear_value u)
    | (extract_lets +onlyGivenNames u; have hu : Keeps zz u.1 := ?_; clear_value u)
    | (extract_lets +onlyGivenNames u; have hu : Keeps zz u.2 := ?_; clear_value u)
    | (extract_lets +onlyGivenNames u; clear_value u)
    | dsimp only [u]
    | split

theorem State.abortEffect_keeps {zz s : State} (h : Keeps zz s) : Keeps zz (State.abortEffect s) := by
  unfold State.abortEffect
  repeat' first
    | (intro _; intros; try dsimp -zeta only)
    | with_reducible exact Keeps.refl _
    | with_reducible assumption
    | with_reducible refine State.reachTick_keeps ?_ (by assumption)
    | with_reducible apply Keeps.forEach
    | with_reducible apply State.abortEngine_keeps
    | with_reducible apply State.set_keeps
    | with_reducible apply State.onTsl_keeps
    | with_reducible apply Keeps.ite
    | (extract_lets +onlyGivenNames u; have hu : Keeps zz u := ?_; clear_value u)
    | (extract_lets +onlyGivenNames u; have hu : Keeps zz u.1 := ?_; clear_value u)
    | (extract_lets +onlyGivenNames u; have hu : Keeps zz u.2 := ?_; clear_value u)
    | (extract_lets +onlyGivenNames u; clear_value u)
    | dsimp only [u]
    | split

theorem State.cpFail_keeps {zz s : State} (h : Keeps zz s) (c : Nat) : Keeps zz (State.cpFail s c) := by
  unfold State.cpFail
  repeat' first
    | (intro _; intros; try dsimp -zeta only)
    | with_reducible exact Keeps.refl _
    | with_reducible assumption
    | with_reducible apply State.bistCutReturn_keeps
    | with_reducible apply State.onPw_keeps
    | with_reducible apply State.fatal_keeps
    | with_reducible apply State.ringsTo4_keeps
    | with_reducible apply Keeps.forEach
    | with_reducible apply State.tslEndQueued_keeps
    | with_reducible apply State.setTslQueue_keeps
    | with_reducible apply State.markAbort_keeps
    | with_reducible apply Keeps.foldl
    | with_reducible apply Keeps.foldl_fst
    | with_reducible apply Keeps.ite
    | (extract_lets +onlyGivenNames u; have hu : Keeps zz u := ?_; clear_value u)
    | (extract_lets +onlyGivenNames u; have hu : Keeps zz u.1 := ?_; clear_value u)
    | (extract_lets +onlyGivenNames u; have hu : Keeps zz u.2 := ?_; clear_value u)
    | (extract_lets +onlyGivenNames u; clear_value u)
    | dsimp only [u]
    | split

theorem State.tslRetShow_keeps {zz s : State} (h : Keeps zz s) (e action status : Nat) : Keeps zz (State.tslRetShow s e action status) := by
  unfold State.tslRetShow
  repeat' first
    | (intro _; intros; try dsimp -zeta only)
    | with_reducible exact Keeps.refl _
    | with_reducible assumption
    | with_reducible apply State.set_keeps
    | with_reducible apply Keeps.ite
    | split

theorem State.tslRetire_keeps {zz s : State} (h : Keeps zz s) (e : Nat) : Keeps zz (State.tslRetire s e) := by
  unfold State.tslRetire
  repeat' first
    | (intro _; intros; try dsimp -zeta only)
    | with_reducible exact Keeps.refl _
    | with_reducible assumption
    | with_reducible apply State.tslRetShow_keeps
    | with_reducible apply State.retireAfter_keeps
    | with_reducible apply State.tslRetireNow_keeps
    | with_reducible apply State.tslEmpty_keeps
    | with_reducible apply State.setTslEng_keeps
    | with_reducible apply Keeps.ite
    | (extract_lets +onlyGivenNames u; have hu : Keeps zz u := ?_; clear_value u)
    | (extract_lets +onlyGivenNames u; have hu : Keeps zz u.1 := ?_; clear_value u)
    | (extract_lets +onlyGivenNames u; have hu : Keeps zz u.2 := ?_; clear_value u)
    | (extract_lets +onlyGivenNames u; clear_value u)
    | dsimp only [u]
    | split

theorem State.tslRestore_keeps {zz s : State} (h : Keeps zz s) (e : Nat) : Keeps zz (State.tslRestore s e) := by
  unfold State.tslRestore
  repeat' first
    | (intro _; intros; try dsimp -zeta only)
    | with_reducible exact Keeps.refl _
    | with_reducible assumption
    | with_reducible apply State.tslRetShow_keeps
    | with_reducible apply State.setTslEng_keeps
    | with_reducible apply State.setBit_keeps
    | with_reducible apply State.set_keeps
    | with_reducible apply State.event_keeps
    | with_reducible apply State.tslSettle_keeps
    | with_reducible apply Keeps.ite
    | split

end Sys2Proof.Machine
end

