-- ==== Sys2Proof/Laws/Keep/Roughtime.lean ====
section
/-! SUPPORT. Sys2Proof/Machine/Roughtime.lean keeps the queue and the canonical forms. -/
namespace Sys2Proof.Machine

theorem State.rtShowKey_keeps {zz s : State} (h : Keeps zz s) (F : Nat → Field) (pub : List Byte) : Keeps zz (State.rtShowKey s F pub) := by
  unfold State.rtShowKey
  repeat' first
    | (intro _; intros; try dsimp -zeta only)
    | with_reducible exact Keeps.refl _
    | with_reducible assumption
    | with_reducible apply Keeps.forEach
    | with_reducible apply State.set_keeps
    | with_reducible apply Keeps.ite
    | split

theorem State.rtBoot_keeps {zz s : State} (h : Keeps zz s) : Keeps zz (State.rtBoot s) := by
  unfold State.rtBoot
  repeat' first
    | (intro _; intros; try dsimp -zeta only)
    | with_reducible exact Keeps.refl _
    | with_reducible assumption
    | with_reducible apply State.setb_keeps
    | with_reducible apply State.rtShowKey_keeps
    | with_reducible apply State.event_keeps
    | with_reducible apply Keeps.ite
    | split

theorem State.rtDraw_keeps {zz s : State} (h : Keeps zz s) (mint maxt : Int) : Keeps zz ((State.rtDraw s mint maxt).2) := by
  unfold State.rtDraw
  repeat' first
    | (intro _; intros; try dsimp -zeta only)
    | with_reducible exact Keeps.refl _
    | with_reducible assumption
    | with_reducible apply State.rand_keeps
    | with_reducible apply State.putKey_keeps
    | with_reducible apply State.onRt_keeps
    | with_reducible apply Keeps.getD
    | with_reducible apply Keeps.ite
    | (extract_lets +onlyGivenNames u; have hu : Keeps zz u := ?_; clear_value u)
    | (extract_lets +onlyGivenNames u; have hu : Keeps zz u.1 := ?_; clear_value u)
    | (extract_lets +onlyGivenNames u; have hu : Keeps zz u.2 := ?_; clear_value u)
    | (extract_lets +onlyGivenNames u; clear_value u)
    | dsimp only [u]
    | split

theorem State.rtWipe_keeps {zz s : State} (h : Keeps zz s) : Keeps zz (State.rtWipe s) := by
  unfold State.rtWipe
  repeat' first
    | (intro _; intros; try dsimp -zeta only)
    | with_reducible exact Keeps.refl _
    | with_reducible assumption
    | with_reducible apply State.dropKey_keeps
    | with_reducible apply State.onRt_keeps
    | with_reducible apply Keeps.foldl
    | with_reducible apply Keeps.foldl_fst
    | with_reducible apply Keeps.ite
    | (extract_lets +onlyGivenNames u; have hu : Keeps zz u := ?_; clear_value u)
    | (extract_lets +onlyGivenNames u; have hu : Keeps zz u.1 := ?_; clear_value u)
    | (extract_lets +onlyGivenNames u; have hu : Keeps zz u.2 := ?_; clear_value u)
    | (extract_lets +onlyGivenNames u; clear_value u)
    | dsimp only [u]
    | split

theorem State.rtInstall_keeps {zz s : State} (h : Keeps zz s) (k : RtKey) : Keeps zz (State.rtInstall s k) := by
  unfold State.rtInstall
  repeat' first
    | (intro _; intros; try dsimp -zeta only)
    | with_reducible exact Keeps.refl _
    | with_reducible assumption
    | with_reducible apply State.onRt_keeps
    | with_reducible apply State.bump_keeps
    | with_reducible apply State.set_keeps
    | with_reducible apply State.rtShowKey_keeps
    | with_reducible apply State.clearCond_keeps
    | with_reducible apply State.event_keeps
    | with_reducible apply State.rtWipe_keeps
    | with_reducible apply Keeps.ite
    | (extract_lets +onlyGivenNames u; have hu : Keeps zz u := ?_; clear_value u)
    | (extract_lets +onlyGivenNames u; have hu : Keeps zz u.1 := ?_; clear_value u)
    | (extract_lets +onlyGivenNames u; have hu : Keeps zz u.2 := ?_; clear_value u)
    | (extract_lets +onlyGivenNames u; clear_value u)
    | dsimp only [u]
    | split

theorem State.rtGenerate_keeps {zz s : State} (h : Keeps zz s) : Keeps zz (State.rtGenerate s) := by
  unfold State.rtGenerate
  repeat' first
    | (intro _; intros; try dsimp -zeta only)
    | with_reducible exact Keeps.refl _
    | with_reducible assumption
    | with_reducible apply State.rtDraw_keeps
    | with_reducible apply State.rtInstall_keeps
    | with_reducible apply State.onRt_keeps
    | with_reducible apply State.set_keeps
    | with_reducible apply State.dropKey_keeps
    | with_reducible apply State.event_keeps
    | with_reducible apply Keeps.ite
    | (extract_lets +onlyGivenNames u; have hu : Keeps zz u := ?_; clear_value u)
    | (extract_lets +onlyGivenNames u; have hu : Keeps zz u.1 := ?_; clear_value u)
    | (extract_lets +onlyGivenNames u; have hu : Keeps zz u.2 := ?_; clear_value u)
    | (extract_lets +onlyGivenNames u; clear_value u)
    | dsimp only [u]
    | split

theorem State.rtDaily_keeps {zz s : State} (h : Keeps zz s) : Keeps zz (State.rtDaily s) := by
  unfold State.rtDaily
  repeat' first
    | (intro _; intros; try dsimp -zeta only)
    | with_reducible exact Keeps.refl _
    | with_reducible assumption
    | with_reducible apply State.rtDraw_keeps
    | with_reducible apply State.rtInstall_keeps
    | with_reducible apply State.onRt_keeps
    | with_reducible apply State.set_keeps
    | with_reducible apply Keeps.ite
    | (extract_lets +onlyGivenNames u; have hu : Keeps zz u := ?_; clear_value u)
    | (extract_lets +onlyGivenNames u; have hu : Keeps zz u.1 := ?_; clear_value u)
    | (extract_lets +onlyGivenNames u; have hu : Keeps zz u.2 := ?_; clear_value u)
    | (extract_lets +onlyGivenNames u; clear_value u)
    | dsimp only [u]
    | split

theorem State.rtDue_keeps {zz s : State} (h : Keeps zz s) (u : Int) : Keeps zz (State.rtDue s u) := by
  unfold State.rtDue
  repeat' first
    | (intro _; intros; try dsimp -zeta only)
    | with_reducible exact Keeps.refl _
    | with_reducible assumption
    | with_reducible apply State.onRt_keeps
    | with_reducible apply State.set_keeps
    | with_reducible apply State.rtInstall_keeps
    | with_reducible apply Keeps.ite
    | split

theorem State.rtEffect_keeps {zz s : State} (h : Keeps zz s) : Keeps zz (State.rtEffect s) := by
  unfold State.rtEffect
  repeat' first
    | (intro _; intros; try dsimp -zeta only)
    | with_reducible exact Keeps.refl _
    | with_reducible assumption
    | with_reducible apply State.rtDue_keeps
    | with_reducible apply State.set_keeps
    | with_reducible apply State.raiseCond_keeps
    | with_reducible apply Keeps.ite
    | split

theorem State.setRtOpen_keeps {zz s : State} (h : Keeps zz s) (v : Nat) (o : Option RtOpen) : Keeps zz (State.setRtOpen s v o) := by
  unfold State.setRtOpen
  repeat' first
    | (intro _; intros; try dsimp -zeta only)
    | with_reducible exact Keeps.refl _
    | with_reducible assumption
    | with_reducible apply State.onRt_keeps
    | with_reducible apply State.set_keeps
    | with_reducible apply Keeps.ite
    | split

theorem State.setRtClosed_keeps {zz s : State} (h : Keeps zz s) (l : List RtBatch) : Keeps zz (State.setRtClosed s l) := by
  unfold State.setRtClosed
  repeat' first
    | (intro _; intros; try dsimp -zeta only)
    | with_reducible exact Keeps.refl _
    | with_reducible assumption
    | with_reducible apply State.onRt_keeps
    | with_reducible apply State.set_keeps
    | with_reducible apply Keeps.ite
    | split

theorem State.rtClose_keeps {zz s : State} (h : Keeps zz s) (v : Nat) (o : RtOpen) (t : Nat) : Keeps zz (State.rtClose s v o t) := by
  unfold State.rtClose
  repeat' first
    | (intro _; intros; try dsimp -zeta only)
    | with_reducible exact Keeps.refl _
    | with_reducible assumption
    | with_reducible apply State.setRtOpen_keeps
    | with_reducible apply State.rtDue_keeps
    | with_reducible apply State.onRt_keeps
    | with_reducible apply State.set_keeps
    | with_reducible apply State.bump_keeps
    | with_reducible apply State.setRtClosed_keeps
    | with_reducible apply Keeps.ite
    | (extract_lets +onlyGivenNames u; have hu : Keeps zz u := ?_; clear_value u)
    | (extract_lets +onlyGivenNames u; have hu : Keeps zz u.1 := ?_; clear_value u)
    | (extract_lets +onlyGivenNames u; have hu : Keeps zz u.2 := ?_; clear_value u)
    | (extract_lets +onlyGivenNames u; clear_value u)
    | dsimp only [u]
    | split

theorem State.rtWindow_keeps {zz s : State} (h : Keeps zz s) (v : Nat) : Keeps zz (State.rtWindow s v) := by
  unfold State.rtWindow
  repeat' first
    | (intro _; intros; try dsimp -zeta only)
    | with_reducible exact Keeps.refl _
    | with_reducible assumption
    | with_reducible refine State.reach_keeps ?_ (by assumption)
    | with_reducible apply State.rtClose_keeps
    | with_reducible apply Keeps.ite
    | split

theorem State.rtCatch_keeps {zz s : State} (h : Keeps zz s) : Keeps zz (State.rtCatch s) := by
  unfold State.rtCatch
  repeat' first
    | (intro _; intros; try dsimp -zeta only)
    | with_reducible exact Keeps.refl _
    | with_reducible assumption
    | with_reducible apply Keeps.forEach
    | with_reducible apply State.rtClose_keeps
    | with_reducible apply Keeps.ite
    | split

theorem State.rtFail_keeps {zz s : State} (h : Keeps zz s) (g : Eng) (F : Field) (check : Nat) : Keeps zz (State.rtFail s g F check) := by
  unfold State.rtFail
  repeat' first
    | (intro _; intros; try dsimp -zeta only)
    | with_reducible exact Keeps.refl _
    | with_reducible assumption
    | with_reducible apply State.bump_keeps
    | with_reducible apply State.noteSec_keeps
    | with_reducible apply State.dropReq_keeps
    | with_reducible apply Keeps.ite
    | split

theorem State.rtOver_keeps {zz s : State} (h : Keeps zz s) (v : Nat) : Keeps zz (State.rtOver s v) := by
  unfold State.rtOver
  repeat' first
    | (intro _; intros; try dsimp -zeta only)
    | with_reducible exact Keeps.refl _
    | with_reducible assumption
    | with_reducible apply State.rtClose_keeps
    | with_reducible apply Keeps.ite
    | split

theorem State.rtAppend_keeps {zz s : State} (h : Keeps zz s) (v : Nat) (l : RtLeaf) : Keeps zz (State.rtAppend s v l) := by
  unfold State.rtAppend
  repeat' first
    | (intro _; intros; try dsimp -zeta only)
    | with_reducible exact Keeps.refl _
    | with_reducible assumption
    | with_reducible apply State.rtOver_keeps
    | with_reducible apply State.setRtOpen_keeps
    | with_reducible apply State.rtClose_keeps
    | with_reducible apply Keeps.ite
    | (extract_lets +onlyGivenNames u; have hu : Keeps zz u := ?_; clear_value u)
    | (extract_lets +onlyGivenNames u; have hu : Keeps zz u.1 := ?_; clear_value u)
    | (extract_lets +onlyGivenNames u; have hu : Keeps zz u.2 := ?_; clear_value u)
    | (extract_lets +onlyGivenNames u; clear_value u)
    | dsimp only [u]
    | split

theorem State.rtCheck_keeps {zz s : State} (h : Keeps zz s) (g : Eng) (r : Req) (ip : Ip) (p : List Byte) : Keeps zz (State.rtCheck s g r ip p) := by
  unfold State.rtCheck
  repeat' first
    | (intro _; intros; try dsimp -zeta only)
    | with_reducible exact Keeps.refl _
    | with_reducible assumption
    | with_reducible apply State.bump_keeps
    | with_reducible apply State.rtFail_keeps
    | with_reducible apply State.rtAppend_keeps
    | with_reducible apply State.dropReq_keeps
    | with_reducible apply Keeps.getD
    | with_reducible apply Keeps.ite
    | (extract_lets +onlyGivenNames u; have hu : Keeps zz u := ?_; clear_value u)
    | (extract_lets +onlyGivenNames u; have hu : Keeps zz u.1 := ?_; clear_value u)
    | (extract_lets +onlyGivenNames u; have hu : Keeps zz u.2 := ?_; clear_value u)
    | (extract_lets +onlyGivenNames u; clear_value u)
    | dsimp only [u]
    | split

theorem State.rtEmit_keeps {zz s : State} (h : Keeps zz s) (g : Eng) (r : Req) (f : TxFrame) : Keeps zz (State.rtEmit s g r f) := by
  unfold State.rtEmit
  repeat' first
    | (intro _; intros; try dsimp -zeta only)
    | with_reducible exact Keeps.refl _
    | with_reducible assumption
    | with_reducible apply State.pushLane_keeps
    | with_reducible apply State.perfEv_keeps
    | with_reducible apply State.onEng_keeps
    | with_reducible apply State.bump_keeps
    | with_reducible apply Keeps.ite
    | (extract_lets +onlyGivenNames u; have hu : Keeps zz u := ?_; clear_value u)
    | (extract_lets +onlyGivenNames u; have hu : Keeps zz u.1 := ?_; clear_value u)
    | (extract_lets +onlyGivenNames u; have hu : Keeps zz u.2 := ?_; clear_value u)
    | (extract_lets +onlyGivenNames u; clear_value u)
    | dsimp only [u]
    | split

theorem State.rtAnswer_keeps {zz s : State} (h : Keeps zz s) (g : Eng) (r : Req) : Keeps zz (State.rtAnswer s g r) := by
  unfold State.rtAnswer
  repeat' first
    | (intro _; intros; try dsimp -zeta only)
    | with_reducible exact Keeps.refl _
    | with_reducible assumption
    | with_reducible apply State.rtEmit_keeps
    | with_reducible apply State.done_keeps
    | with_reducible apply State.onEng_keeps
    | with_reducible apply Keeps.foldl
    | with_reducible apply Keeps.foldl_fst
    | with_reducible apply Keeps.ite
    | (extract_lets +onlyGivenNames u; have hu : Keeps zz u := ?_; clear_value u)
    | (extract_lets +onlyGivenNames u; have hu : Keeps zz u.1 := ?_; clear_value u)
    | (extract_lets +onlyGivenNames u; have hu : Keeps zz u.2 := ?_; clear_value u)
    | (extract_lets +onlyGivenNames u; clear_value u)
    | dsimp only [u]
    | split

theorem State.rtRequest_keeps {zz s : State} (h : Keeps zz s) (g : Eng) : Keeps zz (State.rtRequest s g) := by
  unfold State.rtRequest
  repeat' first
    | (intro _; intros; try dsimp -zeta only)
    | with_reducible exact Keeps.refl _
    | with_reducible assumption
    | with_reducible apply State.routine_keeps
    | with_reducible apply State.rtAnswer_keeps
    | with_reducible apply State.dropReq_keeps
    | with_reducible apply State.rtCheck_keeps
    | with_reducible apply Keeps.ite
    | split

theorem State.rtRelease_keeps {zz s : State} (h : Keeps zz s) (num : Nat) (ok : Bool) : Keeps zz (State.rtRelease s num ok) := by
  unfold State.rtRelease
  repeat' first
    | (intro _; intros; try dsimp -zeta only)
    | with_reducible exact Keeps.refl _
    | with_reducible assumption
    | with_reducible apply State.setRtClosed_keeps
    | with_reducible apply State.bump_keeps
    | with_reducible apply State.set_keeps
    | with_reducible apply State.onFab_keeps
    | with_reducible apply State.rtWipe_keeps
    | with_reducible apply State.rtCatch_keeps
    | with_reducible apply State.event_keeps
    | with_reducible apply Keeps.getD
    | with_reducible apply Keeps.ite
    | (extract_lets +onlyGivenNames u; have hu : Keeps zz u := ?_; clear_value u)
    | (extract_lets +onlyGivenNames u; have hu : Keeps zz u.1 := ?_; clear_value u)
    | (extract_lets +onlyGivenNames u; have hu : Keeps zz u.2 := ?_; clear_value u)
    | (extract_lets +onlyGivenNames u; clear_value u)
    | dsimp only [u]
    | split

end Sys2Proof.Machine
end

