-- ==== Sys2Proof/Laws/Keep/Gnss.lean ====
section
/-! SUPPORT. Sys2Proof/Machine/Gnss.lean keeps the queue and the canonical forms. -/
namespace Sys2Proof.Machine

theorem State.feSend_keeps {zz s : State} (h : Keeps zz s) (n : Nat) : Keeps zz (State.feSend s n) := by
  unfold State.feSend
  repeat' first
    | (intro _; intros; try dsimp -zeta only)
    | with_reducible exact Keeps.refl _
    | with_reducible assumption
    | with_reducible apply State.emit_keeps
    | with_reducible apply Keeps.foldl
    | with_reducible apply Keeps.foldl_fst
    | with_reducible apply Keeps.ite
    | split

theorem State.feRun_keeps {zz s : State} (h : Keeps zz s) (reads : List (List Byte)) (wait : Nat) (clkA clkB : Bool) : Keeps zz (State.feRun s reads wait clkA clkB) := by
  unfold State.feRun
  repeat' first
    | (intro _; intros; try dsimp -zeta only)
    | with_reducible exact Keeps.refl _
    | with_reducible assumption
    | with_reducible refine State.reachTick_keeps ?_ (by assumption)
    | with_reducible apply State.feSend_keeps
    | with_reducible apply State.set_keeps
    | with_reducible apply State.event_keeps
    | with_reducible apply State.onGn_keeps
    | with_reducible apply Keeps.ite
    | (extract_lets +onlyGivenNames u; have hu : Keeps zz u := ?_; clear_value u)
    | (extract_lets +onlyGivenNames u; have hu : Keeps zz u.1 := ?_; clear_value u)
    | (extract_lets +onlyGivenNames u; have hu : Keeps zz u.2 := ?_; clear_value u)
    | (extract_lets +onlyGivenNames u; clear_value u)
    | dsimp only [u]
    | split

theorem State.gnShow_keeps {zz s : State} (h : Keeps zz s) : Keeps zz (State.gnShow s) := by
  unfold State.gnShow
  repeat' first
    | (intro _; intros; try dsimp -zeta only)
    | with_reducible exact Keeps.refl _
    | with_reducible assumption
    | with_reducible apply State.set_keeps
    | with_reducible apply Keeps.ite
    | split

theorem State.gnIdle_keeps {zz s : State} (h : Keeps zz s) (c : Nat) : Keeps zz (State.gnIdle s c) := by
  unfold State.gnIdle
  repeat' first
    | (intro _; intros; try dsimp -zeta only)
    | with_reducible exact Keeps.refl _
    | with_reducible assumption
    | with_reducible apply State.clearRegs_keeps
    | with_reducible apply State.onGn_keeps
    | with_reducible apply State.set_keeps
    | with_reducible apply Keeps.ite
    | split

theorem State.gnDeal_keeps {zz s : State} (h : Keeps zz s) : Keeps zz (State.gnDeal s) := by
  unfold State.gnDeal
  repeat' first
    | (intro _; intros; try dsimp -zeta only)
    | with_reducible exact Keeps.refl _
    | with_reducible assumption
    | with_reducible apply State.onGn_keeps
    | with_reducible apply Keeps.ite
    | (extract_lets +onlyGivenNames u; have hu : Keeps zz u := ?_; clear_value u)
    | (extract_lets +onlyGivenNames u; have hu : Keeps zz u.1 := ?_; clear_value u)
    | (extract_lets +onlyGivenNames u; have hu : Keeps zz u.2 := ?_; clear_value u)
    | (extract_lets +onlyGivenNames u; clear_value u)
    | dsimp only [u]
    | split

theorem State.gnClockLost_keeps {zz s : State} (h : Keeps zz s) (path : Nat) : Keeps zz (State.gnClockLost s path) := by
  unfold State.gnClockLost
  repeat' first
    | (intro _; intros; try dsimp -zeta only)
    | with_reducible exact Keeps.refl _
    | with_reducible assumption
    | with_reducible refine State.reachTick_keeps ?_ (by assumption)
    | with_reducible apply State.onGn_keeps
    | with_reducible apply State.set_keeps
    | with_reducible apply State.event_keeps
    | with_reducible apply Keeps.forEach
    | with_reducible apply State.gnIdle_keeps
    | with_reducible apply State.gnShow_keeps
    | with_reducible apply State.gnDeal_keeps
    | with_reducible apply Keeps.ite
    | (extract_lets +onlyGivenNames u; have hu : Keeps zz u := ?_; clear_value u)
    | (extract_lets +onlyGivenNames u; have hu : Keeps zz u.1 := ?_; clear_value u)
    | (extract_lets +onlyGivenNames u; have hu : Keeps zz u.2 := ?_; clear_value u)
    | (extract_lets +onlyGivenNames u; clear_value u)
    | dsimp only [u]
    | split

theorem State.gnTake_keeps {zz s : State} (h : Keeps zz s) (c : Nat) (x : GnSig) : Keeps zz (State.gnTake s c x) := by
  unfold State.gnTake
  repeat' first
    | (intro _; intros; try dsimp -zeta only)
    | with_reducible exact Keeps.refl _
    | with_reducible assumption
    | with_reducible apply State.gnIdle_keeps
    | with_reducible apply State.set_keeps
    | with_reducible apply State.setSat_keeps
    | with_reducible apply Keeps.ite
    | (extract_lets +onlyGivenNames u; have hu : Keeps zz u := ?_; clear_value u)
    | (extract_lets +onlyGivenNames u; have hu : Keeps zz u.1 := ?_; clear_value u)
    | (extract_lets +onlyGivenNames u; have hu : Keeps zz u.2 := ?_; clear_value u)
    | (extract_lets +onlyGivenNames u; clear_value u)
    | dsimp only [u]
    | split

theorem State.gnAssign_keeps {zz s : State} (h : Keeps zz s) (sigs : List GnSig) : Keeps zz (State.gnAssign s sigs) := by
  unfold State.gnAssign
  repeat' first
    | (intro _; intros; try dsimp -zeta only)
    | with_reducible exact Keeps.refl _
    | with_reducible assumption
    | with_reducible apply State.onGn_keeps
    | with_reducible apply Keeps.forEach
    | with_reducible apply State.gnIdle_keeps
    | with_reducible apply State.setSat_keeps
    | with_reducible apply State.gnTake_keeps
    | with_reducible apply State.setb_keeps
    | with_reducible apply State.event_keeps
    | with_reducible apply State.gnShow_keeps
    | with_reducible apply State.gnDeal_keeps
    | with_reducible apply Keeps.foldl
    | with_reducible apply Keeps.foldl_fst
    | with_reducible apply Keeps.ite
    | (extract_lets +onlyGivenNames u; have hu : Keeps zz u := ?_; clear_value u)
    | (extract_lets +onlyGivenNames u; have hu : Keeps zz u.1 := ?_; clear_value u)
    | (extract_lets +onlyGivenNames u; have hu : Keeps zz u.2 := ?_; clear_value u)
    | (extract_lets +onlyGivenNames u; clear_value u)
    | dsimp only [u]
    | split

theorem State.gnClockRestored_keeps {zz s : State} (h : Keeps zz s) (path : Nat) : Keeps zz (State.gnClockRestored s path) := by
  unfold State.gnClockRestored
  repeat' first
    | (intro _; intros; try dsimp -zeta only)
    | with_reducible exact Keeps.refl _
    | with_reducible assumption
    | with_reducible apply State.onGn_keeps
    | with_reducible refine State.reachTick_keeps ?_ (by assumption)
    | with_reducible apply State.set_keeps
    | with_reducible apply State.event_keeps
    | with_reducible apply State.gnAssign_keeps
    | with_reducible apply Keeps.ite
    | split

theorem State.dutyCount_keeps {zz s : State} (h : Keeps zz s) (m : Nat) : Keeps zz (State.dutyCount s m) := by
  unfold State.dutyCount
  repeat' first
    | (intro _; intros; try dsimp -zeta only)
    | with_reducible exact Keeps.refl _
    | with_reducible assumption
    | with_reducible apply State.onGn_keeps
    | with_reducible apply State.set_keeps
    | with_reducible apply Keeps.ite
    | (extract_lets +onlyGivenNames u; have hu : Keeps zz u := ?_; clear_value u)
    | (extract_lets +onlyGivenNames u; have hu : Keeps zz u.1 := ?_; clear_value u)
    | (extract_lets +onlyGivenNames u; have hu : Keeps zz u.2 := ?_; clear_value u)
    | (extract_lets +onlyGivenNames u; clear_value u)
    | dsimp only [u]
    | split

theorem State.agcStep_keeps {zz s : State} (h : Keeps zz s) (m : Nat) (samples : List Nat) : Keeps zz (State.agcStep s m samples) := by
  unfold State.agcStep
  repeat' first
    | (intro _; intros; try dsimp -zeta only)
    | with_reducible exact Keeps.refl _
    | with_reducible assumption
    | with_reducible refine State.reachTick_keeps ?_ (by assumption)
    | with_reducible apply State.dutyCount_keeps
    | with_reducible apply State.onGn_keeps
    | with_reducible apply State.set_keeps
    | with_reducible apply State.drawn_keeps
    | with_reducible apply State.emit_keeps
    | with_reducible apply Keeps.ite
    | (extract_lets +onlyGivenNames u; have hu : Keeps zz u := ?_; clear_value u)
    | (extract_lets +onlyGivenNames u; have hu : Keeps zz u.1 := ?_; clear_value u)
    | (extract_lets +onlyGivenNames u; have hu : Keeps zz u.2 := ?_; clear_value u)
    | (extract_lets +onlyGivenNames u; clear_value u)
    | dsimp only [u]
    | split

theorem State.gnDetect_keeps {zz s : State} (h : Keeps zz s) (c : Nat) : Keeps zz (State.gnDetect s c) := by
  unfold State.gnDetect
  repeat' first
    | (intro _; intros; try dsimp -zeta only)
    | with_reducible exact Keeps.refl _
    | with_reducible assumption
    | with_reducible apply State.gnDeal_keeps
    | with_reducible apply State.set_keeps
    | with_reducible apply Keeps.ite
    | split

theorem State.gnPulledIn_keeps {zz s : State} (h : Keeps zz s) (c : Nat) : Keeps zz (State.gnPulledIn s c) := by
  unfold State.gnPulledIn
  repeat' first
    | (intro _; intros; try dsimp -zeta only)
    | with_reducible exact Keeps.refl _
    | with_reducible assumption
    | with_reducible apply State.set_keeps
    | with_reducible apply Keeps.forEach
    | with_reducible apply State.gnShow_keeps
    | with_reducible apply State.gnDeal_keeps
    | with_reducible apply Keeps.ite
    | (extract_lets +onlyGivenNames u; have hu : Keeps zz u := ?_; clear_value u)
    | (extract_lets +onlyGivenNames u; have hu : Keeps zz u.1 := ?_; clear_value u)
    | (extract_lets +onlyGivenNames u; have hu : Keeps zz u.2 := ?_; clear_value u)
    | (extract_lets +onlyGivenNames u; clear_value u)
    | dsimp only [u]
    | split

theorem State.gnUtc_keeps {zz s : State} (h : Keeps zz s) (code sv check : Nat) (r : NavRec) : Keeps zz (State.gnUtc s code sv check r) := by
  unfold State.gnUtc
  repeat' first
    | (intro _; intros; try dsimp -zeta only)
    | with_reducible exact Keeps.refl _
    | with_reducible assumption
    | with_reducible apply State.onTb_keeps
    | with_reducible apply State.setUtc_keeps
    | with_reducible apply State.onGn_keeps
    | with_reducible apply Keeps.ite
    | (extract_lets +onlyGivenNames u; have hu : Keeps zz u := ?_; clear_value u)
    | (extract_lets +onlyGivenNames u; have hu : Keeps zz u.1 := ?_; clear_value u)
    | (extract_lets +onlyGivenNames u; have hu : Keeps zz u.2 := ?_; clear_value u)
    | (extract_lets +onlyGivenNames u; clear_value u)
    | dsimp only [u]
    | split

theorem State.gnOrbit_keeps {zz s : State} (h : Keeps zz s) (code sv check : Nat) (r : NavRec) : Keeps zz (State.gnOrbit s code sv check r) := by
  unfold State.gnOrbit
  repeat' first
    | (intro _; intros; try dsimp -zeta only)
    | with_reducible exact Keeps.refl _
    | with_reducible assumption
    | with_reducible apply State.onGn_keeps
    | with_reducible apply Keeps.ite
    | (extract_lets +onlyGivenNames u; have hu : Keeps zz u := ?_; clear_value u)
    | (extract_lets +onlyGivenNames u; have hu : Keeps zz u.1 := ?_; clear_value u)
    | (extract_lets +onlyGivenNames u; have hu : Keeps zz u.2 := ?_; clear_value u)
    | (extract_lets +onlyGivenNames u; clear_value u)
    | dsimp only [u]
    | split

theorem State.navWrite_keeps {zz s : State} (h : Keeps zz s) (c : Nat) (r : NavRec) (read : Nat) : Keeps zz (State.navWrite s c r read) := by
  unfold State.navWrite
  repeat' first
    | (intro _; intros; try dsimp -zeta only)
    | with_reducible exact Keeps.refl _
    | with_reducible assumption
    | with_reducible apply State.onGn_keeps
    | with_reducible apply State.set_keeps
    | with_reducible apply State.noteSec_keeps
    | with_reducible apply State.clearRegs_keeps
    | with_reducible apply State.setTs_keeps
    | with_reducible apply Keeps.forEach
    | with_reducible apply State.gnOrbit_keeps
    | with_reducible apply State.gnUtc_keeps
    | with_reducible apply Keeps.ite
    | (extract_lets +onlyGivenNames u; have hu : Keeps zz u := ?_; clear_value u)
    | (extract_lets +onlyGivenNames u; have hu : Keeps zz u.1 := ?_; clear_value u)
    | (extract_lets +onlyGivenNames u; have hu : Keeps zz u.2 := ?_; clear_value u)
    | (extract_lets +onlyGivenNames u; clear_value u)
    | dsimp only [u]
    | split

theorem State.gnPublish_keeps {zz s : State} (h : Keeps zz s) : Keeps zz (State.gnPublish s) := by
  unfold State.gnPublish
  repeat' first
    | (intro _; intros; try dsimp -zeta only)
    | with_reducible exact Keeps.refl _
    | with_reducible assumption
    | with_reducible apply State.onGn_keeps
    | with_reducible apply State.clearRegs_keeps
    | with_reducible apply State.set_keeps
    | with_reducible apply State.setb_keeps
    | with_reducible apply State.setSat_keeps
    | with_reducible apply State.seti_keeps
    | with_reducible apply State.setTs_keeps
    | with_reducible apply Keeps.foldl
    | with_reducible apply Keeps.foldl_fst
    | with_reducible apply Keeps.ite
    | (extract_lets +onlyGivenNames u; have hu : Keeps zz u := ?_; clear_value u)
    | (extract_lets +onlyGivenNames u; have hu : Keeps zz u.1 := ?_; clear_value u)
    | (extract_lets +onlyGivenNames u; have hu : Keeps zz u.2 := ?_; clear_value u)
    | (extract_lets +onlyGivenNames u; clear_value u)
    | dsimp only [u]
    | split

theorem State.gnLoops_keeps {zz s : State} (h : Keeps zz s) (recs : List GnCapture) : Keeps zz (State.gnLoops s recs) := by
  unfold State.gnLoops
  repeat' first
    | (intro _; intros; try dsimp -zeta only)
    | with_reducible exact Keeps.refl _
    | with_reducible assumption
    | with_reducible apply State.onGn_keeps
    | with_reducible apply State.set_keeps
    | with_reducible apply Keeps.foldl
    | with_reducible apply Keeps.foldl_fst
    | with_reducible apply Keeps.ite
    | (extract_lets +onlyGivenNames u; have hu : Keeps zz u := ?_; clear_value u)
    | (extract_lets +onlyGivenNames u; have hu : Keeps zz u.1 := ?_; clear_value u)
    | (extract_lets +onlyGivenNames u; have hu : Keeps zz u.2 := ?_; clear_value u)
    | (extract_lets +onlyGivenNames u; clear_value u)
    | dsimp only [u]
    | split

theorem State.gnCorr_keeps {zz s : State} (h : Keeps zz s) (sums : List (Nat × List (Int × Int))) : Keeps zz (State.gnCorr s sums) := by
  unfold State.gnCorr
  repeat' first
    | (intro _; intros; try dsimp -zeta only)
    | with_reducible exact Keeps.refl _
    | with_reducible assumption
    | with_reducible apply State.set_keeps
    | with_reducible apply Keeps.forEach
    | with_reducible apply State.seti_keeps
    | with_reducible apply Keeps.getD
    | with_reducible apply Keeps.ite
    | (extract_lets +onlyGivenNames u; have hu : Keeps zz u := ?_; clear_value u)
    | (extract_lets +onlyGivenNames u; have hu : Keeps zz u.1 := ?_; clear_value u)
    | (extract_lets +onlyGivenNames u; have hu : Keeps zz u.2 := ?_; clear_value u)
    | (extract_lets +onlyGivenNames u; clear_value u)
    | dsimp only [u]
    | split

theorem State.gnLatch_keeps {zz s : State} (h : Keeps zz s) (j : Nat) (obs : List (Nat × GnObs)) (corr : List (Nat × List (Int × Int))) : Keeps zz (State.gnLatch s j obs corr) := by
  unfold State.gnLatch
  repeat' first
    | (intro _; intros; try dsimp -zeta only)
    | with_reducible exact Keeps.refl _
    | with_reducible assumption
    | with_reducible refine State.reach_keeps ?_ (by assumption)
    | with_reducible apply State.gnPublish_keeps
    | with_reducible apply State.setSat_keeps
    | with_reducible apply State.seti_keeps
    | with_reducible apply State.bump_keeps
    | with_reducible apply State.onGn_keeps
    | with_reducible apply State.gnLoops_keeps
    | with_reducible apply State.gnCorr_keeps
    | with_reducible apply Keeps.foldl
    | with_reducible apply Keeps.foldl_fst
    | with_reducible apply Keeps.ite
    | (extract_lets +onlyGivenNames u; have hu : Keeps zz u := ?_; clear_value u)
    | (extract_lets +onlyGivenNames u; have hu : Keeps zz u.1 := ?_; clear_value u)
    | (extract_lets +onlyGivenNames u; have hu : Keeps zz u.2 := ?_; clear_value u)
    | (extract_lets +onlyGivenNames u; clear_value u)
    | dsimp only [u]
    | split

theorem State.gnDrained_keeps {zz s : State} (h : Keeps zz s) : Keeps zz (State.gnDrained s) := by
  unfold State.gnDrained
  repeat' first
    | (intro _; intros; try dsimp -zeta only)
    | with_reducible exact Keeps.refl _
    | with_reducible assumption
    | with_reducible refine State.reach_keeps ?_ (by assumption)
    | with_reducible apply State.gnPublish_keeps
    | with_reducible apply Keeps.elim
    | with_reducible apply Keeps.ite
    | split

theorem State.notchOn_keeps {zz s : State} (h : Keeps zz s) (m k : Nat) (f : Int) : Keeps zz (State.notchOn s m k f) := by
  unfold State.notchOn
  repeat' first
    | (intro _; intros; try dsimp -zeta only)
    | with_reducible exact Keeps.refl _
    | with_reducible assumption
    | with_reducible apply State.set_keeps
    | with_reducible apply State.seti_keeps
    | with_reducible apply State.setBit_keeps
    | with_reducible apply State.onGn_keeps
    | with_reducible apply State.event_keeps
    | with_reducible apply Keeps.ite
    | split

theorem State.notchOff_keeps {zz s : State} (h : Keeps zz s) (m k : Nat) : Keeps zz (State.notchOff s m k) := by
  unfold State.notchOff
  repeat' first
    | (intro _; intros; try dsimp -zeta only)
    | with_reducible exact Keeps.refl _
    | with_reducible assumption
    | with_reducible apply State.set_keeps
    | with_reducible apply State.setBit_keeps
    | with_reducible apply State.event_keeps
    | with_reducible apply Keeps.ite
    | split

theorem State.notches_keeps {zz s : State} (h : Keeps zz s) (m : Nat) (b : GnBand) : Keeps zz (State.notches s m b) := by
  unfold State.notches
  repeat' first
    | (intro _; intros; try dsimp -zeta only)
    | with_reducible exact Keeps.refl _
    | with_reducible assumption
    | with_reducible apply Keeps.forEach
    | with_reducible apply State.onGn_keeps
    | with_reducible apply State.set_keeps
    | with_reducible apply State.notchOff_keeps
    | with_reducible apply State.seti_keeps
    | with_reducible apply State.setSat_keeps
    | with_reducible apply State.notchOn_keeps
    | with_reducible apply Keeps.getD
    | with_reducible apply Keeps.foldl
    | with_reducible apply Keeps.foldl_fst
    | with_reducible apply Keeps.ite
    | (extract_lets +onlyGivenNames u; have hu : Keeps zz u := ?_; clear_value u)
    | (extract_lets +onlyGivenNames u; have hu : Keeps zz u.1 := ?_; clear_value u)
    | (extract_lets +onlyGivenNames u; have hu : Keeps zz u.2 := ?_; clear_value u)
    | (extract_lets +onlyGivenNames u; clear_value u)
    | dsimp only [u]
    | split

theorem State.streamSecond_keeps {zz s : State} (h : Keeps zz s) (m : Nat) (b : GnBand) : Keeps zz (State.streamSecond s m b) := by
  unfold State.streamSecond
  repeat' first
    | (intro _; intros; try dsimp -zeta only)
    | with_reducible exact Keeps.refl _
    | with_reducible assumption
    | with_reducible apply State.notches_keeps
    | with_reducible apply State.dutyCount_keeps
    | with_reducible apply State.set_keeps
    | with_reducible apply State.setSat_keeps
    | with_reducible apply State.onGn_keeps
    | with_reducible apply State.event_keeps
    | with_reducible apply Keeps.ite
    | (extract_lets +onlyGivenNames u; have hu : Keeps zz u := ?_; clear_value u)
    | (extract_lets +onlyGivenNames u; have hu : Keeps zz u.1 := ?_; clear_value u)
    | (extract_lets +onlyGivenNames u; have hu : Keeps zz u.2 := ?_; clear_value u)
    | (extract_lets +onlyGivenNames u; clear_value u)
    | dsimp only [u]
    | split

theorem State.jamFlag_keeps {zz s : State} (h : Keeps zz s) : Keeps zz (State.jamFlag s) := by
  unfold State.jamFlag
  repeat' first
    | (intro _; intros; try dsimp -zeta only)
    | with_reducible exact Keeps.refl _
    | with_reducible assumption
    | with_reducible apply State.onGn_keeps
    | with_reducible apply State.set_keeps
    | with_reducible apply State.event_keeps
    | with_reducible apply Keeps.foldl
    | with_reducible apply Keeps.foldl_fst
    | with_reducible apply Keeps.ite
    | (extract_lets +onlyGivenNames u; have hu : Keeps zz u := ?_; clear_value u)
    | (extract_lets +onlyGivenNames u; have hu : Keeps zz u.1 := ?_; clear_value u)
    | (extract_lets +onlyGivenNames u; have hu : Keeps zz u.2 := ?_; clear_value u)
    | (extract_lets +onlyGivenNames u; clear_value u)
    | dsimp only [u]
    | split

theorem State.interference_keeps {zz s : State} (h : Keeps zz s) (bands : List GnBand) : Keeps zz (State.interference s bands) := by
  unfold State.interference
  repeat' first
    | (intro _; intros; try dsimp -zeta only)
    | with_reducible exact Keeps.refl _
    | with_reducible assumption
    | with_reducible apply State.onGn_keeps
    | with_reducible apply Keeps.forEach
    | with_reducible apply State.streamSecond_keeps
    | with_reducible apply State.jamFlag_keeps
    | with_reducible apply Keeps.getD
    | with_reducible apply Keeps.ite
    | split

theorem State.spoofEval_keeps {zz s : State} (h : Keeps zz s) : Keeps zz (State.spoofEval s) := by
  unfold State.spoofEval
  repeat' first
    | (intro _; intros; try dsimp -zeta only)
    | with_reducible exact Keeps.refl _
    | with_reducible assumption
    | with_reducible apply State.onGn_keeps
    | with_reducible apply State.setb_keeps
    | with_reducible apply State.set_keeps
    | with_reducible apply State.setSat_keeps
    | with_reducible apply State.event_keeps
    | with_reducible apply Keeps.getD
    | with_reducible apply Keeps.ite
    | (extract_lets +onlyGivenNames u; have hu : Keeps zz u := ?_; clear_value u)
    | (extract_lets +onlyGivenNames u; have hu : Keeps zz u.1 := ?_; clear_value u)
    | (extract_lets +onlyGivenNames u; have hu : Keeps zz u.2 := ?_; clear_value u)
    | (extract_lets +onlyGivenNames u; clear_value u)
    | dsimp only [u]
    | split

theorem State.burstBoundary_keeps {zz s : State} (h : Keeps zz s) : Keeps zz (State.burstBoundary s) := by
  unfold State.burstBoundary
  repeat' first
    | (intro _; intros; try dsimp -zeta only)
    | with_reducible exact Keeps.refl _
    | with_reducible assumption
    | with_reducible apply State.onGn_keeps
    | with_reducible apply State.set_keeps
    | with_reducible apply State.event_keeps
    | with_reducible apply Keeps.ite
    | (extract_lets +onlyGivenNames u; have hu : Keeps zz u := ?_; clear_value u)
    | (extract_lets +onlyGivenNames u; have hu : Keeps zz u.1 := ?_; clear_value u)
    | (extract_lets +onlyGivenNames u; have hu : Keeps zz u.2 := ?_; clear_value u)
    | (extract_lets +onlyGivenNames u; clear_value u)
    | dsimp only [u]
    | split

theorem State.gnBoundary_keeps {zz s : State} (h : Keeps zz s) (step : Option Int) : Keeps zz (State.gnBoundary s step) := by
  unfold State.gnBoundary
  repeat' first
    | (intro _; intros; try dsimp -zeta only)
    | with_reducible exact Keeps.refl _
    | with_reducible assumption
    | with_reducible apply State.onGn_keeps
    | with_reducible apply Keeps.getD
    | with_reducible apply Keeps.ite
    | (extract_lets +onlyGivenNames u; have hu : Keeps zz u := ?_; clear_value u)
    | (extract_lets +onlyGivenNames u; have hu : Keeps zz u.1 := ?_; clear_value u)
    | (extract_lets +onlyGivenNames u; have hu : Keeps zz u.2 := ?_; clear_value u)
    | (extract_lets +onlyGivenNames u; clear_value u)
    | dsimp only [u]
    | split

theorem State.windowOpen_keeps {zz s : State} (h : Keeps zz s) : Keeps zz (State.windowOpen s) := by
  unfold State.windowOpen
  repeat' first
    | (intro _; intros; try dsimp -zeta only)
    | with_reducible exact Keeps.refl _
    | with_reducible assumption
    | with_reducible apply State.window_keeps
    | with_reducible refine State.reach_keeps ?_ (by assumption)
    | with_reducible apply State.onGn_keeps
    | with_reducible apply Keeps.ite
    | split

theorem State.windowClose_keeps {zz s : State} (h : Keeps zz s) : Keeps zz (State.windowClose s) := by
  unfold State.windowClose
  repeat' first
    | (intro _; intros; try dsimp -zeta only)
    | with_reducible exact Keeps.refl _
    | with_reducible assumption
    | with_reducible apply State.window_keeps
    | with_reducible refine State.reach_keeps ?_ (by assumption)
    | with_reducible apply State.onGn_keeps
    | with_reducible apply Keeps.ite
    | split

theorem State.setPos_keeps {zz s : State} (h : Keeps zz s) (p : Int × Int × Int) : Keeps zz (State.setPos s p) := by
  unfold State.setPos
  repeat' first
    | (intro _; intros; try dsimp -zeta only)
    | with_reducible exact Keeps.refl _
    | with_reducible assumption
    | with_reducible apply State.seti_keeps
    | with_reducible apply Keeps.ite
    | split

theorem State.solState_keeps {zz s : State} (h : Keeps zz s) (x : GnSol) : Keeps zz ((State.solState s x).2) := by
  unfold State.solState
  repeat' first
    | (intro _; intros; try dsimp -zeta only)
    | with_reducible exact Keeps.refl _
    | with_reducible assumption
    | with_reducible apply State.onGn_keeps
    | with_reducible apply State.setPos_keeps
    | with_reducible apply Keeps.ite
    | (extract_lets +onlyGivenNames u; have hu : Keeps zz u := ?_; clear_value u)
    | (extract_lets +onlyGivenNames u; have hu : Keeps zz u.1 := ?_; clear_value u)
    | (extract_lets +onlyGivenNames u; have hu : Keeps zz u.2 := ?_; clear_value u)
    | (extract_lets +onlyGivenNames u; clear_value u)
    | dsimp only [u]
    | split

theorem State.solIntegrity_keeps {zz s : State} (h : Keeps zz s) (x : GnSol) : Keeps zz (State.solIntegrity s x) := by
  unfold State.solIntegrity
  repeat' first
    | (intro _; intros; try dsimp -zeta only)
    | with_reducible exact Keeps.refl _
    | with_reducible assumption
    | with_reducible apply State.onGn_keeps
    | with_reducible apply State.set_keeps
    | with_reducible apply State.event_keeps
    | with_reducible apply Keeps.ite
    | (extract_lets +onlyGivenNames u; have hu : Keeps zz u := ?_; clear_value u)
    | (extract_lets +onlyGivenNames u; have hu : Keeps zz u.1 := ?_; clear_value u)
    | (extract_lets +onlyGivenNames u; have hu : Keeps zz u.2 := ?_; clear_value u)
    | (extract_lets +onlyGivenNames u; clear_value u)
    | dsimp only [u]
    | split

theorem State.solFirst_keeps {zz s : State} (h : Keeps zz s) : Keeps zz (State.solFirst s) := by
  unfold State.solFirst
  repeat' first
    | (intro _; intros; try dsimp -zeta only)
    | with_reducible exact Keeps.refl _
    | with_reducible assumption
    | with_reducible apply State.onGn_keeps
    | with_reducible apply State.set_keeps
    | with_reducible apply State.event_keeps
    | with_reducible apply Keeps.ite
    | (extract_lets +onlyGivenNames u; have hu : Keeps zz u := ?_; clear_value u)
    | (extract_lets +onlyGivenNames u; have hu : Keeps zz u.1 := ?_; clear_value u)
    | (extract_lets +onlyGivenNames u; have hu : Keeps zz u.2 := ?_; clear_value u)
    | (extract_lets +onlyGivenNames u; clear_value u)
    | dsimp only [u]
    | split

theorem State.solPublish_keeps {zz s : State} (h : Keeps zz s) (x : GnSol) : Keeps zz (State.solPublish s x) := by
  unfold State.solPublish
  repeat' first
    | (intro _; intros; try dsimp -zeta only)
    | with_reducible exact Keeps.refl _
    | with_reducible assumption
    | with_reducible apply State.onGn_keeps
    | with_reducible apply State.solIntegrity_keeps
    | with_reducible apply State.solState_keeps
    | with_reducible apply State.set_keeps
    | with_reducible apply State.setb_keeps
    | with_reducible apply State.setSat_keeps
    | with_reducible apply State.setI64_keeps
    | with_reducible apply State.measure_keeps
    | with_reducible apply State.solFirst_keeps
    | with_reducible apply Keeps.ite
    | (extract_lets +onlyGivenNames u; have hu : Keeps zz u := ?_; clear_value u)
    | (extract_lets +onlyGivenNames u; have hu : Keeps zz u.1 := ?_; clear_value u)
    | (extract_lets +onlyGivenNames u; have hu : Keeps zz u.2 := ?_; clear_value u)
    | (extract_lets +onlyGivenNames u; clear_value u)
    | dsimp only [u]
    | split

theorem State.surveyEnd_keeps {zz s : State} (h : Keeps zz s) (x y z : Int) : Keeps zz (State.surveyEnd s x y z) := by
  unfold State.surveyEnd
  repeat' first
    | (intro _; intros; try dsimp -zeta only)
    | with_reducible exact Keeps.refl _
    | with_reducible assumption
    | with_reducible apply State.onGn_keeps
    | with_reducible apply State.setPos_keeps
    | with_reducible apply State.set_keeps
    | with_reducible apply State.event_keeps
    | with_reducible apply Keeps.ite
    | (extract_lets +onlyGivenNames u; have hu : Keeps zz u := ?_; clear_value u)
    | (extract_lets +onlyGivenNames u; have hu : Keeps zz u.1 := ?_; clear_value u)
    | (extract_lets +onlyGivenNames u; have hu : Keeps zz u.2 := ?_; clear_value u)
    | (extract_lets +onlyGivenNames u; clear_value u)
    | dsimp only [u]
    | split

end Sys2Proof.Machine
end

