-- ==== Sys2Proof/Laws/Keep/Flash.lean ====
section
/-! SUPPORT. Sys2Proof/Machine/Flash.lean keeps the queue and the canonical forms. -/
namespace Sys2Proof.Machine

theorem State.flashErase_keeps {zz s : State} (h : Keeps zz s) (a n : Nat) : Keeps zz (State.flashErase s a n) := by
  unfold State.flashErase
  repeat' first
    | (intro _; intros; try dsimp -zeta only)
    | with_reducible exact Keeps.refl _
    | with_reducible assumption
    | with_reducible apply State.onBoot_keeps
    | with_reducible apply Eq.refl
    | (apply SMap.wf_setMany; assumption)
    | (apply SMap.wf_clearRange; assumption)
    | with_reducible apply Keeps.ite
    | split

theorem State.flashPut_keeps {zz s : State} (h : Keeps zz s) (a : Nat) (bs : List Byte) : Keeps zz (State.flashPut s a bs) := by
  unfold State.flashPut
  repeat' first
    | (intro _; intros; try dsimp -zeta only)
    | with_reducible exact Keeps.refl _
    | with_reducible assumption
    | with_reducible apply State.onBoot_keeps
    | with_reducible apply Eq.refl
    | (apply SMap.wf_setMany; assumption)
    | (apply SMap.wf_clearRange; assumption)
    | with_reducible apply Keeps.ite
    | split

theorem State.flashProgram_keeps {zz s : State} (h : Keeps zz s) (a : Nat) (bs : List Byte) : Keeps zz (State.flashProgram s a bs) := by
  unfold State.flashProgram
  repeat' first
    | (intro _; intros; try dsimp -zeta only)
    | with_reducible exact Keeps.refl _
    | with_reducible assumption
    | with_reducible apply State.flashPut_keeps
    | with_reducible apply Keeps.ite
    | split

theorem State.setMarker_keeps {zz s : State} (h : Keeps zz s) (k i : Nat) : Keeps zz (State.setMarker s k i) := by
  unfold State.setMarker
  repeat' first
    | (intro _; intros; try dsimp -zeta only)
    | with_reducible exact Keeps.refl _
    | with_reducible assumption
    | with_reducible apply State.flashPut_keeps
    | with_reducible apply State.set_keeps
    | with_reducible apply Keeps.ite
    | split

theorem State.flashTorn_keeps {zz s : State} (h : Keeps zz s) : Keeps zz (State.flashTorn s) := by
  unfold State.flashTorn
  repeat' first
    | (intro _; intros; try dsimp -zeta only)
    | with_reducible exact Keeps.refl _
    | with_reducible assumption
    | with_reducible apply State.drawn_keeps
    | with_reducible apply State.flashPut_keeps
    | with_reducible apply State.flashErase_keeps
    | with_reducible apply State.onBoot_keeps
    | with_reducible apply Eq.refl
    | with_reducible apply Keeps.ite
    | (extract_lets +onlyGivenNames u; have hu : Keeps zz u := ?_; clear_value u)
    | (extract_lets +onlyGivenNames u; have hu : Keeps zz u.1 := ?_; clear_value u)
    | (extract_lets +onlyGivenNames u; have hu : Keeps zz u.2 := ?_; clear_value u)
    | (extract_lets +onlyGivenNames u; clear_value u)
    | dsimp only [u]
    | split

end Sys2Proof.Machine
end

