-- ==== Sys2Proof/Laws/Keep/Power.lean ====
section
/-! SUPPORT. Sys2Proof/Machine/Power.lean keeps the queue and the canonical forms. -/
namespace Sys2Proof.Machine

theorem State.powerOff_keeps {zz s : State} (h : Keeps zz s) : Keeps zz s.powerOff := by
  unfold State.powerOff
  extract_lets u t bk
  have hu : Keeps zz u := State.flashTorn_keeps h
  exact hu.trans ⟨rfl, SMap.wf_filter 0 u.rf _, id, fun _ => rfl, fun _ => rfl, fun _ => rfl, rfl, id, Nat.le_refl _,
    List.suffix_refl _⟩

theorem State.lowerPin_keeps {zz s : State} (h : Keeps zz s) (c : PowerCause) : Keeps zz (s.lowerPin c) := by
  unfold State.lowerPin
  split
  · exact State.onPw_keeps h _
  · exact State.onPw_keeps h _
  · exact State.onPw_keeps h _
  · exact h

theorem State.powerFail_keeps {zz s : State} (h : Keeps zz s) (c : PowerCause) : Keeps zz (State.powerFail s c) := by
  unfold State.powerFail
  repeat' first
    | (intro _; intros; try dsimp -zeta only)
    | with_reducible exact Keeps.refl _
    | with_reducible assumption
    | with_reducible apply State.lowerPin_keeps
    | with_reducible apply State.onPw_keeps
    | with_reducible apply State.scanRelease_keeps
    | with_reducible apply State.powerOff_keeps
    | with_reducible apply State.set_keeps
    | with_reducible apply State.setTs_keeps
    | with_reducible apply Keeps.ite
    | (extract_lets +onlyGivenNames u; have hu : Keeps zz u := ?_; clear_value u)
    | (extract_lets +onlyGivenNames u; have hu : Keeps zz u.1 := ?_; clear_value u)
    | (extract_lets +onlyGivenNames u; have hu : Keeps zz u.2 := ?_; clear_value u)
    | (extract_lets +onlyGivenNames u; clear_value u)
    | dsimp only [u]
    | split

theorem State.vbatLost_keeps {zz s : State} (h : Keeps zz s) : Keeps zz (State.vbatLost s) := by
  unfold State.vbatLost
  repeat' first
    | (intro _; intros; try dsimp -zeta only)
    | with_reducible exact Keeps.refl _
    | with_reducible assumption
    | with_reducible apply State.onBk_keeps
    | with_reducible apply State.set_keeps
    | with_reducible apply Keeps.ite
    | split

theorem State.aonLoss_keeps {zz s : State} (h : Keeps zz s) (vbatMv : Nat) : Keeps zz (State.aonLoss s vbatMv) := by
  unfold State.aonLoss
  repeat' first
    | (intro _; intros; try dsimp -zeta only)
    | with_reducible exact Keeps.refl _
    | with_reducible assumption
    | with_reducible apply State.powerOff_keeps
    | with_reducible apply State.onMode_keeps
    | with_reducible apply State.keepRegs_keeps
    | with_reducible apply State.onPw_keeps
    | with_reducible apply State.onJtag_keeps
    | with_reducible apply State.onMg_keeps
    | with_reducible apply State.vbatLost_keeps
    | with_reducible apply Keeps.ite
    | (extract_lets +onlyGivenNames u; have hu : Keeps zz u := ?_; clear_value u)
    | (extract_lets +onlyGivenNames u; have hu : Keeps zz u.1 := ?_; clear_value u)
    | (extract_lets +onlyGivenNames u; have hu : Keeps zz u.2 := ?_; clear_value u)
    | (extract_lets +onlyGivenNames u; clear_value u)
    | dsimp only [u]
    | split

theorem State.aonOn_keeps {zz s : State} (h : Keeps zz s) : Keeps zz (State.aonOn s) := by
  unfold State.aonOn
  repeat' first
    | (intro _; intros; try dsimp -zeta only)
    | with_reducible exact Keeps.refl _
    | with_reducible assumption
    | with_reducible apply State.onMode_keeps
    | with_reducible apply State.onBk_keeps
    | with_reducible apply State.set_keeps
    | with_reducible apply Keeps.ite
    | (extract_lets +onlyGivenNames u; have hu : Keeps zz u := ?_; clear_value u)
    | (extract_lets +onlyGivenNames u; have hu : Keeps zz u.1 := ?_; clear_value u)
    | (extract_lets +onlyGivenNames u; have hu : Keeps zz u.2 := ?_; clear_value u)
    | (extract_lets +onlyGivenNames u; clear_value u)
    | dsimp only [u]
    | split

theorem State.vbatSwitch_keeps {zz s : State} (h : Keeps zz s) (toVbat : Bool) : Keeps zz (State.vbatSwitch s toVbat) := by
  unfold State.vbatSwitch
  repeat' first
    | (intro _; intros; try dsimp -zeta only)
    | with_reducible exact Keeps.refl _
    | with_reducible assumption
    | with_reducible apply State.onBk_keeps
    | with_reducible apply Keeps.ite
    | split

theorem State.vbatLoss_keeps {zz s : State} (h : Keeps zz s) : Keeps zz (State.vbatLoss s) := by
  unfold State.vbatLoss
  repeat' first
    | (intro _; intros; try dsimp -zeta only)
    | with_reducible exact Keeps.refl _
    | with_reducible assumption
    | with_reducible apply State.vbatLost_keeps
    | with_reducible apply Keeps.ite
    | split

theorem State.vbatBack_keeps {zz s : State} (h : Keeps zz s) : Keeps zz (State.vbatBack s) := by
  unfold State.vbatBack
  repeat' first
    | (intro _; intros; try dsimp -zeta only)
    | with_reducible exact Keeps.refl _
    | with_reducible assumption
    | with_reducible apply State.onBk_keeps
    | with_reducible apply Keeps.ite
    | split

theorem State.powerUpStart_keeps {zz s : State} (h : Keeps zz s) (pwrEn porstN pgood railsUp : Bool) : Keeps zz (State.powerUpStart s pwrEn porstN pgood railsUp) := by
  unfold State.powerUpStart
  repeat' first
    | (intro _; intros; try dsimp -zeta only)
    | with_reducible exact Keeps.refl _
    | with_reducible assumption
    | with_reducible apply State.onPw_keeps
    | with_reducible apply Keeps.ite
    | split

theorem State.showLf_keeps {zz s : State} (h : Keeps zz s) : Keeps zz (State.showLf s) := by
  unfold State.showLf
  repeat' first
    | (intro _; intros; try dsimp -zeta only)
    | with_reducible exact Keeps.refl _
    | with_reducible assumption
    | with_reducible apply State.setb_keeps
    | with_reducible apply Keeps.ite
    | split

theorem State.avsTarget_keeps {zz s : State} (h : Keeps zz s) (v : Nat) : Keeps zz (State.avsTarget s v) := by
  unfold State.avsTarget
  repeat' first
    | (intro _; intros; try dsimp -zeta only)
    | with_reducible exact Keeps.refl _
    | with_reducible assumption
    | with_reducible apply State.onPw_keeps
    | with_reducible apply State.set_keeps
    | with_reducible apply State.emit_keeps
    | with_reducible apply Keeps.ite
    | (extract_lets +onlyGivenNames u; have hu : Keeps zz u := ?_; clear_value u)
    | (extract_lets +onlyGivenNames u; have hu : Keeps zz u.1 := ?_; clear_value u)
    | (extract_lets +onlyGivenNames u; have hu : Keeps zz u.2 := ?_; clear_value u)
    | (extract_lets +onlyGivenNames u; clear_value u)
    | dsimp only [u]
    | split

theorem State.railSample_keeps {zz s : State} (h : Keeps zz s) (r mv : Nat) : Keeps zz (State.railSample s r mv) := by
  unfold State.railSample
  repeat' first
    | (intro _; intros; try dsimp -zeta only)
    | with_reducible exact Keeps.refl _
    | with_reducible assumption
    | with_reducible apply State.setSat_keeps
    | with_reducible apply Keeps.ite
    | (extract_lets +onlyGivenNames u; have hu : Keeps zz u := ?_; clear_value u)
    | (extract_lets +onlyGivenNames u; have hu : Keeps zz u.1 := ?_; clear_value u)
    | (extract_lets +onlyGivenNames u; have hu : Keeps zz u.2 := ?_; clear_value u)
    | (extract_lets +onlyGivenNames u; clear_value u)
    | dsimp only [u]
    | split

theorem State.evalInstant_keeps {zz s : State} {t} (h : Keeps zz s) (e : State.evalInstant s = some t) : Keeps zz t := by
  unfold State.evalInstant at e
  try dsimp only at e
  repeat' first
    | (simp only [reduceCtorEq] at e; done)
    | (simp only [Option.some.injEq] at e; subst e)
    | (intro _; intros; try dsimp -zeta only)
    | with_reducible exact Keeps.refl _
    | with_reducible assumption
    | with_reducible refine State.reach_keeps ?_ (by assumption)
    | split
    | with_reducible refine Keeps.opt_ite e (fun _ e => ?_) (fun _ e => ?_)
    | split at e

theorem State.vcoreDecide_keeps {zz s : State} (h : Keeps zz s) (n : Nat) : Keeps zz (State.vcoreDecide s n) := by
  unfold State.vcoreDecide
  repeat' first
    | (intro _; intros; try dsimp -zeta only)
    | with_reducible exact Keeps.refl _
    | with_reducible assumption
    | with_reducible apply State.avsTarget_keeps
    | with_reducible apply State.onPw_keeps
    | with_reducible apply Keeps.ite
    | (extract_lets +onlyGivenNames u; have hu : Keeps zz u := ?_; clear_value u)
    | (extract_lets +onlyGivenNames u; have hu : Keeps zz u.1 := ?_; clear_value u)
    | (extract_lets +onlyGivenNames u; have hu : Keeps zz u.2 := ?_; clear_value u)
    | (extract_lets +onlyGivenNames u; clear_value u)
    | dsimp only [u]
    | split

theorem State.vcoreEvaluate_keeps {zz s : State} (h : Keeps zz s) (rails : List Nat) : Keeps zz (State.vcoreEvaluate s rails) := by
  unfold State.vcoreEvaluate
  repeat' first
    | (intro _; intros; try dsimp -zeta only)
    | with_reducible exact Keeps.refl _
    | with_reducible assumption
    | with_reducible refine State.evalInstant_keeps ?_ (by assumption)
    | with_reducible apply State.onPw_keeps
    | with_reducible apply Keeps.forEach
    | with_reducible apply State.railSample_keeps
    | with_reducible apply State.showLf_keeps
    | with_reducible apply State.vcoreDecide_keeps
    | with_reducible apply Keeps.ite
    | (extract_lets +onlyGivenNames u; have hu : Keeps zz u := ?_; clear_value u)
    | (extract_lets +onlyGivenNames u; have hu : Keeps zz u.1 := ?_; clear_value u)
    | (extract_lets +onlyGivenNames u; have hu : Keeps zz u.2 := ?_; clear_value u)
    | (extract_lets +onlyGivenNames u; clear_value u)
    | dsimp only [u]
    | split

theorem State.avsFailed_keeps {zz s : State} (h : Keeps zz s) (why : Nat) : Keeps zz (State.avsFailed s why) := by
  unfold State.avsFailed
  repeat' first
    | (intro _; intros; try dsimp -zeta only)
    | with_reducible exact Keeps.refl _
    | with_reducible assumption
    | with_reducible refine State.reachClocked_keeps ?_ (by assumption)
    | with_reducible apply State.onPw_keeps
    | with_reducible apply State.emit_keeps
    | with_reducible apply State.set_keeps
    | with_reducible apply State.raiseCond_keeps
    | with_reducible apply State.showLf_keeps
    | with_reducible apply Keeps.ite
    | (extract_lets +onlyGivenNames u; have hu : Keeps zz u := ?_; clear_value u)
    | (extract_lets +onlyGivenNames u; have hu : Keeps zz u.1 := ?_; clear_value u)
    | (extract_lets +onlyGivenNames u; have hu : Keeps zz u.2 := ?_; clear_value u)
    | (extract_lets +onlyGivenNames u; clear_value u)
    | dsimp only [u]
    | split

theorem State.avsRead_keeps {zz s : State} (h : Keeps zz s) (ok : Bool) : Keeps zz (State.avsRead s ok) := by
  unfold State.avsRead
  repeat' first
    | (intro _; intros; try dsimp -zeta only)
    | with_reducible exact Keeps.refl _
    | with_reducible assumption
    | with_reducible apply State.emit_keeps
    | with_reducible apply State.avsStatus_keeps
    | with_reducible apply State.set_keeps
    | with_reducible apply State.clearCond_keeps
    | with_reducible apply State.showLf_keeps
    | with_reducible apply Keeps.ite
    | (extract_lets +onlyGivenNames u; have hu : Keeps zz u := ?_; clear_value u)
    | (extract_lets +onlyGivenNames u; have hu : Keeps zz u.1 := ?_; clear_value u)
    | (extract_lets +onlyGivenNames u; have hu : Keeps zz u.2 := ?_; clear_value u)
    | (extract_lets +onlyGivenNames u; clear_value u)
    | dsimp only [u]
    | split

theorem State.avsStatus_keeps {zz s : State} (h : Keeps zz s) (ok : Bool) : Keeps zz (State.avsStatus s ok) := by
  unfold State.avsStatus
  repeat' first
    | (intro _; intros; try dsimp -zeta only)
    | with_reducible exact Keeps.refl _
    | with_reducible assumption
    | with_reducible refine State.reachClocked_keeps ?_ (by assumption)
    | with_reducible apply State.onPw_keeps
    | with_reducible apply State.avsRead_keeps
    | with_reducible apply Keeps.ite
    | split

theorem State.pmAvsRetry_keeps {zz s : State} (h : Keeps zz s) (ok : Bool) : Keeps zz (State.pmAvsRetry s ok) := by
  unfold State.pmAvsRetry
  repeat' first
    | (intro _; intros; try dsimp -zeta only)
    | with_reducible exact Keeps.refl _
    | with_reducible assumption
    | with_reducible apply State.set_keeps
    | with_reducible apply State.avsRead_keeps
    | with_reducible apply Keeps.ite
    | (extract_lets +onlyGivenNames u; have hu : Keeps zz u := ?_; clear_value u)
    | (extract_lets +onlyGivenNames u; have hu : Keeps zz u.1 := ?_; clear_value u)
    | (extract_lets +onlyGivenNames u; have hu : Keeps zz u.2 := ?_; clear_value u)
    | (extract_lets +onlyGivenNames u; clear_value u)
    | dsimp only [u]
    | split

theorem State.boost_keeps {zz s : State} (h : Keeps zz s) : Keeps zz (State.boost s) := by
  unfold State.boost
  repeat' first
    | (intro _; intros; try dsimp -zeta only)
    | with_reducible exact Keeps.refl _
    | with_reducible assumption
    | with_reducible apply State.onPw_keeps
    | with_reducible apply State.set_keeps
    | with_reducible apply State.event_keeps
    | with_reducible apply State.avsTarget_keeps
    | with_reducible apply Keeps.ite
    | (extract_lets +onlyGivenNames u; have hu : Keeps zz u := ?_; clear_value u)
    | (extract_lets +onlyGivenNames u; have hu : Keeps zz u.1 := ?_; clear_value u)
    | (extract_lets +onlyGivenNames u; have hu : Keeps zz u.2 := ?_; clear_value u)
    | (extract_lets +onlyGivenNames u; clear_value u)
    | dsimp only [u]
    | split

theorem State.pmRaise_keeps {zz s : State} (h : Keeps zz s) : Keeps zz (State.pmRaise s) := by
  unfold State.pmRaise
  repeat' first
    | (intro _; intros; try dsimp -zeta only)
    | with_reducible exact Keeps.refl _
    | with_reducible assumption
    | with_reducible apply State.set_keeps
    | with_reducible apply State.boost_keeps
    | with_reducible apply Keeps.ite
    | (extract_lets +onlyGivenNames u; have hu : Keeps zz u := ?_; clear_value u)
    | (extract_lets +onlyGivenNames u; have hu : Keeps zz u.1 := ?_; clear_value u)
    | (extract_lets +onlyGivenNames u; have hu : Keeps zz u.2 := ?_; clear_value u)
    | (extract_lets +onlyGivenNames u; clear_value u)
    | dsimp only [u]
    | split

theorem State.boostOver_keeps {zz s : State} (h : Keeps zz s) : Keeps zz (State.boostOver s) := by
  unfold State.boostOver
  repeat' first
    | (intro _; intros; try dsimp -zeta only)
    | with_reducible exact Keeps.refl _
    | with_reducible assumption
    | with_reducible refine State.reachTick_keeps ?_ (by assumption)
    | with_reducible apply State.set_keeps
    | with_reducible apply Keeps.ite
    | split

theorem State.railFall_keeps {zz s : State} (h : Keeps zz s) (r mv : Nat) : Keeps zz (State.railFall s r mv) := by
  unfold State.railFall
  repeat' first
    | (intro _; intros; try dsimp -zeta only)
    | with_reducible exact Keeps.refl _
    | with_reducible assumption
    | with_reducible apply State.railSample_keeps
    | with_reducible apply State.onPw_keeps
    | with_reducible apply State.bistCutReturn_keeps
    | with_reducible apply State.tslSupply_keeps
    | with_reducible apply Keeps.ite
    | (extract_lets +onlyGivenNames u; have hu : Keeps zz u := ?_; clear_value u)
    | (extract_lets +onlyGivenNames u; have hu : Keeps zz u.1 := ?_; clear_value u)
    | (extract_lets +onlyGivenNames u; have hu : Keeps zz u.2 := ?_; clear_value u)
    | (extract_lets +onlyGivenNames u; clear_value u)
    | dsimp only [u]
    | split

theorem State.railRecover_keeps {zz s : State} (h : Keeps zz s) (r lowest mv : Nat) : Keeps zz (State.railRecover s r lowest mv) := by
  unfold State.railRecover
  repeat' first
    | (intro _; intros; try dsimp -zeta only)
    | with_reducible exact Keeps.refl _
    | with_reducible assumption
    | with_reducible apply State.onPw_keeps
    | with_reducible apply State.railSample_keeps
    | with_reducible apply State.bump_keeps
    | with_reducible apply State.event_keeps
    | with_reducible apply State.tslSupplyOver_keeps
    | with_reducible apply State.showLf_keeps
    | with_reducible apply State.boost_keeps
    | with_reducible apply Keeps.ite
    | (extract_lets +onlyGivenNames u; have hu : Keeps zz u := ?_; clear_value u)
    | (extract_lets +onlyGivenNames u; have hu : Keeps zz u.1 := ?_; clear_value u)
    | (extract_lets +onlyGivenNames u; have hu : Keeps zz u.2 := ?_; clear_value u)
    | (extract_lets +onlyGivenNames u; clear_value u)
    | dsimp only [u]
    | split

theorem State.vbatMeasure_keeps {zz s : State} (h : Keeps zz s) (mv : Nat) : Keeps zz (State.vbatMeasure s mv) := by
  unfold State.vbatMeasure
  repeat' first
    | (intro _; intros; try dsimp -zeta only)
    | with_reducible exact Keeps.refl _
    | with_reducible assumption
    | with_reducible apply State.setSat_keeps
    | with_reducible apply State.set_keeps
    | with_reducible apply State.clearCond_keeps
    | with_reducible apply State.raiseCond_keeps
    | with_reducible apply Keeps.ite
    | (extract_lets +onlyGivenNames u; have hu : Keeps zz u := ?_; clear_value u)
    | (extract_lets +onlyGivenNames u; have hu : Keeps zz u.1 := ?_; clear_value u)
    | (extract_lets +onlyGivenNames u; have hu : Keeps zz u.2 := ?_; clear_value u)
    | (extract_lets +onlyGivenNames u; clear_value u)
    | dsimp only [u]
    | split

theorem State.thermal_keeps {zz s : State} (h : Keeps zz s) (F : Field) (code sev : Nat) (limit : Int) (h : Nat × Int) : Keeps zz (State.thermal s F code sev limit h) := by
  unfold State.thermal
  repeat' first
    | (intro _; intros; try dsimp -zeta only)
    | with_reducible exact Keeps.refl _
    | with_reducible assumption
    | with_reducible apply State.set_keeps
    | with_reducible apply State.clearCond_keeps
    | with_reducible apply State.raiseCond_keeps
    | with_reducible apply Keeps.ite
    | split

theorem State.tempSample_keeps {zz s : State} (h : Keeps zz s) (ts : List Int) : Keeps zz (State.tempSample s ts) := by
  unfold State.tempSample
  repeat' first
    | (intro _; intros; try dsimp -zeta only)
    | with_reducible exact Keeps.refl _
    | with_reducible assumption
    | with_reducible apply Keeps.forEach
    | with_reducible apply State.tempTake_keeps
    | with_reducible apply State.setb_keeps
    | with_reducible apply State.thermal_keeps
    | with_reducible apply Keeps.ite
    | (extract_lets +onlyGivenNames u; have hu : Keeps zz u := ?_; clear_value u)
    | (extract_lets +onlyGivenNames u; have hu : Keeps zz u.1 := ?_; clear_value u)
    | (extract_lets +onlyGivenNames u; have hu : Keeps zz u.2 := ?_; clear_value u)
    | (extract_lets +onlyGivenNames u; clear_value u)
    | dsimp only [u]
    | split

theorem State.thermSample_keeps {zz s : State} (h : Keeps zz s) (code : Nat) : Keeps zz (State.thermSample s code) := by
  unfold State.thermSample
  repeat' first
    | (intro _; intros; try dsimp -zeta only)
    | with_reducible exact Keeps.refl _
    | with_reducible assumption
    | with_reducible apply State.onPw_keeps
    | with_reducible apply Keeps.ite
    | split

end Sys2Proof.Machine
end

