-- ==== Sys2Proof/Laws/Keep/Image.lean ====
section
/-! SUPPORT. Sys2Proof/Machine/Image.lean keeps the queue and the canonical forms. -/
namespace Sys2Proof.Machine

theorem State.mergeField_keeps {zz s : State} (h : Keeps zz s) (F : Field) (m v : Nat) : Keeps zz ((State.mergeField s F m v).1) := by
  unfold State.mergeField
  repeat' first
    | (intro _; intros; try dsimp -zeta only)
    | with_reducible exact Keeps.refl _
    | with_reducible assumption
    | with_reducible apply State.set_keeps
    | with_reducible apply Keeps.ite
    | (extract_lets +onlyGivenNames u; have hu : Keeps zz u := ?_; clear_value u)
    | (extract_lets +onlyGivenNames u; have hu : Keeps zz u.1 := ?_; clear_value u)
    | (extract_lets +onlyGivenNames u; have hu : Keeps zz u.2 := ?_; clear_value u)
    | (extract_lets +onlyGivenNames u; clear_value u)
    | dsimp only [u]
    | split

theorem State.applyEntry_keeps {zz s : State} (h : Keeps zz s) (e : CfgEntry) : Keeps zz ((State.applyEntry s e).1) := by
  unfold State.applyEntry
  repeat' first
    | (intro _; intros; try dsimp -zeta only)
    | with_reducible exact Keeps.refl _
    | with_reducible assumption
    | with_reducible apply State.access_keeps
    | with_reducible apply State.bump_keeps
    | with_reducible apply State.mergeField_keeps
    | with_reducible apply Keeps.foldl
    | with_reducible apply Keeps.foldl_fst
    | with_reducible apply Keeps.ite
    | (extract_lets +onlyGivenNames u; have hu : Keeps zz u := ?_; clear_value u)
    | (extract_lets +onlyGivenNames u; have hu : Keeps zz u.1 := ?_; clear_value u)
    | (extract_lets +onlyGivenNames u; have hu : Keeps zz u.2 := ?_; clear_value u)
    | (extract_lets +onlyGivenNames u; clear_value u)
    | dsimp only [u]
    | split

theorem State.clampFreq_keeps {zz s : State} (h : Keeps zz s) (n : Nat) : Keeps zz ((State.clampFreq s n).1) := by
  unfold State.clampFreq
  repeat' first
    | (intro _; intros; try dsimp -zeta only)
    | with_reducible exact Keeps.refl _
    | with_reducible assumption
    | with_reducible apply State.set64_keeps
    | with_reducible apply Keeps.ite
    | (extract_lets +onlyGivenNames u; have hu : Keeps zz u := ?_; clear_value u)
    | (extract_lets +onlyGivenNames u; have hu : Keeps zz u.1 := ?_; clear_value u)
    | (extract_lets +onlyGivenNames u; have hu : Keeps zz u.2 := ?_; clear_value u)
    | (extract_lets +onlyGivenNames u; clear_value u)
    | dsimp only [u]
    | split

theorem State.secondPass_keeps {zz s : State} (h : Keeps zz s) (l : List CfgEntry) : Keeps zz (s.secondPass l).1 := by
  unfold State.secondPass
  generalize depsImage ++ depsLive = d
  refine Keeps.foldl_fst (State.reclamp_keeps h d) fun u n hu => ?_
  split
  · exact Keeps.mk_fst (State.clampFreq_keeps hu n)
  · exact hu

theorem State.profileDefaults_keeps {zz s : State} (h : Keeps zz s) (m : State) : Keeps zz (State.profileDefaults s m) := by
  unfold State.profileDefaults
  repeat' first
    | (intro _; intros; try dsimp -zeta only)
    | with_reducible exact Keeps.refl _
    | with_reducible assumption
    | with_reducible apply State.set_keeps
    | with_reducible apply Keeps.forEach
    | with_reducible apply State.setb_keeps
    | with_reducible apply State.seti_keeps
    | with_reducible apply Keeps.getD
    | with_reducible apply Keeps.ite
    | (extract_lets +onlyGivenNames u; have hu : Keeps zz u := ?_; clear_value u)
    | (extract_lets +onlyGivenNames u; have hu : Keeps zz u.1 := ?_; clear_value u)
    | (extract_lets +onlyGivenNames u; have hu : Keeps zz u.2 := ?_; clear_value u)
    | (extract_lets +onlyGivenNames u; clear_value u)
    | dsimp only [u]
    | split

theorem State.configure_keeps {zz s : State} (h : Keeps zz s) (cfg : List Byte) : Keeps zz (State.configure s cfg) := by
  unfold State.configure
  repeat' first
    | (intro _; intros; try dsimp -zeta only)
    | with_reducible exact Keeps.refl _
    | with_reducible assumption
    | with_reducible apply State.applyEntry_keeps
    | with_reducible apply State.profileDefaults_keeps
    | with_reducible apply Keeps.forEach
    | with_reducible apply State.set_keeps
    | with_reducible apply State.secondPass_keeps
    | with_reducible apply State.clampLog_keeps
    | with_reducible apply State.logReclamp_keeps
    | with_reducible apply Keeps.foldl
    | with_reducible apply Keeps.foldl_fst
    | with_reducible apply Keeps.ite
    | (extract_lets +onlyGivenNames u; have hu : Keeps zz u := ?_; clear_value u)
    | (extract_lets +onlyGivenNames u; have hu : Keeps zz u.1 := ?_; clear_value u)
    | (extract_lets +onlyGivenNames u; have hu : Keeps zz u.2 := ?_; clear_value u)
    | (extract_lets +onlyGivenNames u; clear_value u)
    | dsimp only [u]
    | split

end Sys2Proof.Machine
end

