-- ==== Sys2Proof/Laws/Keep/Boot.lean ====
section
/-! SUPPORT. Sys2Proof/Machine/Boot.lean keeps the queue and the canonical forms. -/
namespace Sys2Proof.Machine

theorem State.drawKek_keeps {zz s : State} (h : Keeps zz s) : Keeps zz (State.drawKek s) := by
  unfold State.drawKek
  repeat' first
    | (intro _; intros; try dsimp -zeta only)
    | with_reducible exact Keeps.refl _
    | with_reducible assumption
    | with_reducible apply State.rand_keeps
    | with_reducible apply State.onBk_keeps
    | with_reducible apply State.set_keeps
    | with_reducible apply Keeps.ite
    | (extract_lets +onlyGivenNames u; have hu : Keeps zz u := ?_; clear_value u)
    | (extract_lets +onlyGivenNames u; have hu : Keeps zz u.1 := ?_; clear_value u)
    | (extract_lets +onlyGivenNames u; have hu : Keeps zz u.2 := ?_; clear_value u)
    | (extract_lets +onlyGivenNames u; clear_value u)
    | dsimp only [u]
    | split

theorem State.zeroKek_keeps {zz s : State} (h : Keeps zz s) : Keeps zz (State.zeroKek s) := by
  unfold State.zeroKek
  repeat' first
    | (intro _; intros; try dsimp -zeta only)
    | with_reducible exact Keeps.refl _
    | with_reducible assumption
    | with_reducible apply State.onBk_keeps
    | with_reducible apply State.set_keeps
    | with_reducible apply Keeps.ite
    | split

theorem State.latch_keeps {zz s : State} (h : Keeps zz s) (cause : Nat) : Keeps zz (State.latch s cause) := by
  unfold State.latch
  repeat' first
    | (intro _; intros; try dsimp -zeta only)
    | with_reducible exact Keeps.refl _
    | with_reducible assumption
    | with_reducible apply State.set_keeps
    | with_reducible apply Keeps.ite
    | split

theorem State.latchShow_keeps {zz s : State} (h : Keeps zz s) : Keeps zz (State.latchShow s) := by
  unfold State.latchShow
  repeat' first
    | (intro _; intros; try dsimp -zeta only)
    | with_reducible exact Keeps.refl _
    | with_reducible assumption
    | with_reducible apply State.raiseCond_keeps
    | with_reducible apply Keeps.ite
    | split

theorem State.bootSafe_keeps {zz s : State} (h : Keeps zz s) : Keeps zz (State.bootSafe s) := by
  unfold State.bootSafe
  repeat' first
    | (intro _; intros; try dsimp -zeta only)
    | with_reducible exact Keeps.refl _
    | with_reducible assumption
    | with_reducible apply State.onBoot_keeps
    | with_reducible apply State.enterMode_keeps
    | with_reducible apply State.set_keeps
    | with_reducible apply Eq.refl
    | with_reducible apply Keeps.ite
    | split

theorem State.slotReject_keeps {zz s : State} (h : Keeps zz s) (k reason : Nat) : Keeps zz (State.slotReject s k reason) := by
  unfold State.slotReject
  repeat' first
    | (intro _; intros; try dsimp -zeta only)
    | with_reducible exact Keeps.refl _
    | with_reducible assumption
    | with_reducible apply State.set_keeps
    | with_reducible apply State.event_keeps
    | with_reducible apply Keeps.ite
    | split

theorem State.showHead_keeps {zz s : State} (h : Keeps zz s) (k : Nat) (ok : Bool) : Keeps zz (State.showHead s k ok) := by
  unfold State.showHead
  repeat' first
    | (intro _; intros; try dsimp -zeta only)
    | with_reducible exact Keeps.refl _
    | with_reducible assumption
    | with_reducible apply State.set_keeps
    | with_reducible apply State.setb_keeps
    | with_reducible apply Keeps.ite
    | (extract_lets +onlyGivenNames u; have hu : Keeps zz u := ?_; clear_value u)
    | (extract_lets +onlyGivenNames u; have hu : Keeps zz u.1 := ?_; clear_value u)
    | (extract_lets +onlyGivenNames u; have hu : Keeps zz u.2 := ?_; clear_value u)
    | (extract_lets +onlyGivenNames u; clear_value u)
    | dsimp only [u]
    | split

theorem State.slotHead_keeps {zz s : State} (h : Keeps zz s) (k : Nat) : Keeps zz (State.slotHead s k) := by
  unfold State.slotHead
  repeat' first
    | (intro _; intros; try dsimp -zeta only)
    | with_reducible exact Keeps.refl _
    | with_reducible assumption
    | with_reducible apply State.showHead_keeps
    | with_reducible apply State.onBoot_keeps
    | with_reducible apply State.slotReject_keeps
    | with_reducible apply Eq.refl
    | with_reducible apply Keeps.ite
    | (extract_lets +onlyGivenNames u; have hu : Keeps zz u := ?_; clear_value u)
    | (extract_lets +onlyGivenNames u; have hu : Keeps zz u.1 := ?_; clear_value u)
    | (extract_lets +onlyGivenNames u; have hu : Keeps zz u.2 := ?_; clear_value u)
    | (extract_lets +onlyGivenNames u; clear_value u)
    | dsimp only [u]
    | split

theorem State.showOrbit_keeps {zz s : State} (h : Keeps zz s) : Keeps zz (State.showOrbit s) := by
  unfold State.showOrbit
  repeat' first
    | (intro _; intros; try dsimp -zeta only)
    | with_reducible exact Keeps.refl _
    | with_reducible assumption
    | with_reducible apply State.setb_keeps
    | with_reducible apply State.set_keeps
    | with_reducible apply Keeps.ite
    | split

theorem State.readSlot_keeps {zz s : State} (h : Keeps zz s) (k : Nat) : Keeps zz (State.readSlot s k) := by
  unfold State.readSlot
  repeat' first
    | (intro _; intros; try dsimp -zeta only)
    | with_reducible exact Keeps.refl _
    | with_reducible assumption
    | with_reducible apply State.onBoot_keeps
    | with_reducible apply Eq.refl
    | with_reducible apply Keeps.ite
    | (extract_lets +onlyGivenNames u; have hu : Keeps zz u := ?_; clear_value u)
    | (extract_lets +onlyGivenNames u; have hu : Keeps zz u.1 := ?_; clear_value u)
    | (extract_lets +onlyGivenNames u; have hu : Keeps zz u.2 := ?_; clear_value u)
    | (extract_lets +onlyGivenNames u; clear_value u)
    | dsimp only [u]
    | split

theorem State.chooseSlot_keeps {zz s : State} (h : Keeps zz s) : Keeps zz (State.chooseSlot s) := by
  unfold State.chooseSlot
  repeat' first
    | (intro _; intros; try dsimp -zeta only)
    | with_reducible exact Keeps.refl _
    | with_reducible assumption
    | with_reducible apply State.readSlot_keeps
    | with_reducible apply State.bootSafe_keeps
    | with_reducible apply State.event_keeps
    | with_reducible apply Keeps.ite
    | (extract_lets +onlyGivenNames u; have hu : Keeps zz u := ?_; clear_value u)
    | (extract_lets +onlyGivenNames u; have hu : Keeps zz u.1 := ?_; clear_value u)
    | (extract_lets +onlyGivenNames u; have hu : Keeps zz u.2 := ?_; clear_value u)
    | (extract_lets +onlyGivenNames u; clear_value u)
    | dsimp only [u]
    | split

theorem State.slotFails_keeps {zz s : State} (h : Keeps zz s) (reason : Nat) : Keeps zz (State.slotFails s reason) := by
  unfold State.slotFails
  repeat' first
    | (intro _; intros; try dsimp -zeta only)
    | with_reducible exact Keeps.refl _
    | with_reducible assumption
    | with_reducible apply State.slotReject_keeps
    | with_reducible apply State.readSlot_keeps
    | with_reducible apply State.bootSafe_keeps
    | with_reducible apply Keeps.ite
    | (extract_lets +onlyGivenNames u; have hu : Keeps zz u := ?_; clear_value u)
    | (extract_lets +onlyGivenNames u; have hu : Keeps zz u.1 := ?_; clear_value u)
    | (extract_lets +onlyGivenNames u; have hu : Keeps zz u.2 := ?_; clear_value u)
    | (extract_lets +onlyGivenNames u; clear_value u)
    | dsimp only [u]
    | split

theorem State.identified_keeps {zz s : State} (h : Keeps zz s) : Keeps zz (State.identified s) := by
  unfold State.identified
  repeat' first
    | (intro _; intros; try dsimp -zeta only)
    | with_reducible exact Keeps.refl _
    | with_reducible assumption
    | with_reducible apply State.set_keeps
    | with_reducible apply State.slotHead_keeps
    | with_reducible apply State.showOrbit_keeps
    | with_reducible apply State.chooseSlot_keeps
    | with_reducible apply Keeps.ite
    | split

theorem State.identify_keeps {zz s : State} (h : Keeps zz s) (ok : Bool) : Keeps zz (State.identify s ok) := by
  unfold State.identify
  repeat' first
    | (intro _; intros; try dsimp -zeta only)
    | with_reducible exact Keeps.refl _
    | with_reducible assumption
    | with_reducible apply State.onBoot_keeps
    | with_reducible apply State.identified_keeps
    | with_reducible apply State.slotReject_keeps
    | with_reducible apply State.bootSafe_keeps
    | with_reducible apply Eq.refl
    | with_reducible apply Keeps.ite
    | (extract_lets +onlyGivenNames u; have hu : Keeps zz u := ?_; clear_value u)
    | (extract_lets +onlyGivenNames u; have hu : Keeps zz u.1 := ?_; clear_value u)
    | (extract_lets +onlyGivenNames u; have hu : Keeps zz u.2 := ?_; clear_value u)
    | (extract_lets +onlyGivenNames u; clear_value u)
    | dsimp only [u]
    | split

theorem State.showProvPub_keeps {zz s : State} (h : Keeps zz s) : Keeps zz (State.showProvPub s) := by
  unfold State.showProvPub
  repeat' first
    | (intro _; intros; try dsimp -zeta only)
    | with_reducible exact Keeps.refl _
    | with_reducible assumption
    | with_reducible apply State.rtShowKey_keeps
    | with_reducible apply Keeps.ite
    | split

theorem State.bootStart_keeps {zz s : State} (h : Keeps zz s) : Keeps zz (State.bootStart s) := by
  unfold State.bootStart
  repeat' first
    | (intro _; intros; try dsimp -zeta only)
    | with_reducible exact Keeps.refl _
    | with_reducible assumption
    | with_reducible apply State.set_keeps
    | with_reducible apply State.onFab_keeps
    | with_reducible apply State.latch_keeps
    | with_reducible apply State.onBk_keeps
    | with_reducible apply State.latchShow_keeps
    | with_reducible apply State.showProvPub_keeps
    | with_reducible apply Keeps.ite
    | (extract_lets +onlyGivenNames u; have hu : Keeps zz u := ?_; clear_value u)
    | (extract_lets +onlyGivenNames u; have hu : Keeps zz u.1 := ?_; clear_value u)
    | (extract_lets +onlyGivenNames u; have hu : Keeps zz u.2 := ?_; clear_value u)
    | (extract_lets +onlyGivenNames u; clear_value u)
    | dsimp only [u]
    | split

theorem State.powerUp_keeps {zz s : State} (h : Keeps zz s) (flashId : Bool) : Keeps zz (State.powerUp s flashId) := by
  unfold State.powerUp
  repeat' first
    | (intro _; intros; try dsimp -zeta only)
    | with_reducible exact Keeps.refl _
    | with_reducible assumption
    | with_reducible apply State.onPw_keeps
    | with_reducible apply State.seedTb_keeps
    | with_reducible apply State.enterMode_keeps
    | with_reducible apply State.event_keeps
    | with_reducible apply State.bootStart_keeps
    | with_reducible apply State.identify_keeps
    | with_reducible apply Keeps.ite
    | (extract_lets +onlyGivenNames u; have hu : Keeps zz u := ?_; clear_value u)
    | (extract_lets +onlyGivenNames u; have hu : Keeps zz u.1 := ?_; clear_value u)
    | (extract_lets +onlyGivenNames u; have hu : Keeps zz u.2 := ?_; clear_value u)
    | (extract_lets +onlyGivenNames u; clear_value u)
    | dsimp only [u]
    | split

theorem State.flashRetry_keeps {zz s : State} (h : Keeps zz s) (flashId : Bool) : Keeps zz (State.flashRetry s flashId) := by
  unfold State.flashRetry
  repeat' first
    | (intro _; intros; try dsimp -zeta only)
    | with_reducible exact Keeps.refl _
    | with_reducible assumption
    | with_reducible apply State.identify_keeps
    | with_reducible refine State.reachClocked_keeps ?_ (by assumption)
    | with_reducible apply Keeps.ite
    | split

theorem State.synLock_keeps {zz s : State} (h : Keeps zz s) : Keeps zz (State.synLock s) := by
  unfold State.synLock
  repeat' first
    | (intro _; intros; try dsimp -zeta only)
    | with_reducible exact Keeps.refl _
    | with_reducible assumption
    | with_reducible apply State.onTb_keeps
    | with_reducible apply State.set_keeps
    | with_reducible apply State.seedTb_keeps
    | with_reducible apply Keeps.ite
    | split

theorem State.rebooted_keeps {zz s : State} (h : Keeps zz s) (slot : Nat) : Keeps zz (s.rebooted slot) := by
  unfold State.rebooted
  extract_lets m e gn id t u z z'
  have hu : Keeps zz u := State.avsTarget_keeps (State.flashTorn_keeps h) _
  have hz : Keeps u z := ⟨rfl, SMap.wf_filter 0 u.rf _, fun w => w, fun _ => rfl, SMap.wf_filter 0 u.fab.store _, fun _ => rfl,
    rfl, fun w => w, Nat.le_refl _, List.suffix_refl _⟩
  have hz' : Keeps zz z' := State.showIncr_keeps (State.seedBound_keeps (hu.trans hz) _)
  split
  · exact State.set_keeps hz' _ _
  · exact hz'

theorem State.sysReboot_keeps {zz s : State} (h : Keeps zz s) (slot : Nat) : Keeps zz (State.sysReboot s slot) := by
  unfold State.sysReboot
  repeat' first
    | (intro _; intros; try dsimp -zeta only)
    | with_reducible exact Keeps.refl _
    | with_reducible assumption
    | with_reducible apply State.leaseRelease_keeps
    | with_reducible apply State.event_keeps
    | with_reducible apply State.irq_keeps
    | with_reducible apply State.rebooted_keeps
    | with_reducible apply State.enterMode_keeps
    | with_reducible apply State.bootStart_keeps
    | with_reducible apply State.set_keeps
    | with_reducible apply State.identified_keeps
    | with_reducible apply State.onBoot_keeps
    | with_reducible apply State.identify_keeps
    | with_reducible apply Eq.refl
    | with_reducible apply Keeps.foldl
    | with_reducible apply Keeps.foldl_fst
    | with_reducible apply Keeps.ite
    | (extract_lets +onlyGivenNames u; have hu : Keeps zz u := ?_; clear_value u)
    | (extract_lets +onlyGivenNames u; have hu : Keeps zz u.1 := ?_; clear_value u)
    | (extract_lets +onlyGivenNames u; have hu : Keeps zz u.2 := ?_; clear_value u)
    | (extract_lets +onlyGivenNames u; clear_value u)
    | dsimp only [u]
    | split

theorem State.entropyDone_keeps {zz s : State} (h : Keeps zz s) (ok0 ok1 : Bool) : Keeps zz (State.entropyDone s ok0 ok1) := by
  unfold State.entropyDone
  repeat' first
    | (intro _; intros; try dsimp -zeta only)
    | with_reducible exact Keeps.refl _
    | with_reducible assumption
    | with_reducible apply State.set_keeps
    | with_reducible apply State.slotReject_keeps
    | with_reducible apply State.bootSafe_keeps
    | with_reducible apply State.onBoot_keeps
    | with_reducible apply State.onBk_keeps
    | with_reducible apply State.clearCond_keeps
    | with_reducible apply State.event_keeps
    | with_reducible apply State.drawKek_keeps
    | with_reducible apply Eq.refl
    | with_reducible apply Keeps.ite
    | (extract_lets +onlyGivenNames u; have hu : Keeps zz u := ?_; clear_value u)
    | (extract_lets +onlyGivenNames u; have hu : Keeps zz u.1 := ?_; clear_value u)
    | (extract_lets +onlyGivenNames u; have hu : Keeps zz u.2 := ?_; clear_value u)
    | (extract_lets +onlyGivenNames u; clear_value u)
    | dsimp only [u]
    | split

theorem State.slotRead_keeps {zz s : State} (h : Keeps zz s) (readError : Bool) : Keeps zz (State.slotRead s readError) := by
  unfold State.slotRead
  repeat' first
    | (intro _; intros; try dsimp -zeta only)
    | with_reducible exact Keeps.refl _
    | with_reducible assumption
    | with_reducible apply State.readSlot_keeps
    | with_reducible apply State.slotFails_keeps
    | with_reducible refine State.reachTick_keeps ?_ (by assumption)
    | with_reducible apply State.set_keeps
    | with_reducible apply State.onBoot_keeps
    | with_reducible apply Eq.refl
    | with_reducible apply Keeps.ite
    | (extract_lets +onlyGivenNames u; have hu : Keeps zz u := ?_; clear_value u)
    | (extract_lets +onlyGivenNames u; have hu : Keeps zz u.1 := ?_; clear_value u)
    | (extract_lets +onlyGivenNames u; have hu : Keeps zz u.2 := ?_; clear_value u)
    | (extract_lets +onlyGivenNames u; clear_value u)
    | dsimp only [u]
    | split

theorem State.importOne_keeps {zz s : State} (h : Keeps zz s) (e : Nat × Nat × Nat × Nat × List Byte) : Keeps zz (State.importOne s e) := by
  unfold State.importOne
  repeat' first
    | (intro _; intros; try dsimp -zeta only)
    | with_reducible exact Keeps.refl _
    | with_reducible assumption
    | with_reducible apply State.putKey_keeps
    | with_reducible apply State.bump_keeps
    | with_reducible apply State.event_keeps
    | with_reducible apply Keeps.ite
    | split

theorem State.importKeys_keeps {zz s : State} (h : Keeps zz s) (k : Nat) : Keeps zz (State.importKeys s k) := by
  unfold State.importKeys
  repeat' first
    | (intro _; intros; try dsimp -zeta only)
    | with_reducible exact Keeps.refl _
    | with_reducible assumption
    | with_reducible apply State.putKey_keeps
    | with_reducible apply State.importOne_keeps
    | with_reducible apply Keeps.foldl
    | with_reducible apply Keeps.foldl_fst
    | with_reducible apply Keeps.ite
    | (extract_lets +onlyGivenNames u; have hu : Keeps zz u := ?_; clear_value u)
    | (extract_lets +onlyGivenNames u; have hu : Keeps zz u.1 := ?_; clear_value u)
    | (extract_lets +onlyGivenNames u; have hu : Keeps zz u.2 := ?_; clear_value u)
    | (extract_lets +onlyGivenNames u; clear_value u)
    | dsimp only [u]
    | split

theorem State.loadCerts_keeps {zz s : State} (h : Keeps zz s) (b : List Byte) : Keeps zz (State.loadCerts s b) := by
  unfold State.loadCerts
  repeat' first
    | (intro _; intros; try dsimp -zeta only)
    | with_reducible exact Keeps.refl _
    | with_reducible assumption
    | with_reducible apply State.onNtp_keeps
    | with_reducible apply Keeps.forEach
    | with_reducible apply State.set_keeps
    | with_reducible apply Keeps.ite
    | (extract_lets +onlyGivenNames u; have hu : Keeps zz u := ?_; clear_value u)
    | (extract_lets +onlyGivenNames u; have hu : Keeps zz u.1 := ?_; clear_value u)
    | (extract_lets +onlyGivenNames u; have hu : Keeps zz u.2 := ?_; clear_value u)
    | (extract_lets +onlyGivenNames u; clear_value u)
    | dsimp only [u]
    | split

theorem State.loadOrbit_keeps {zz s : State} (h : Keeps zz s) (k : Nat) : Keeps zz (s.loadOrbit k) := by
  unfold State.loadOrbit
  extract_lets o u v
  have hu : Keeps zz u := State.onGn_keeps h _
  have hv : Keeps zz v := by
    refine Keeps.ite (fun _ => ?_) (fun _ => hu)
    split
    · exact State.setPos_keeps hu ..
    · exact hu
  clear_value v
  split
  · exact State.setUtc_keeps hv ..
  · exact hv

theorem State.loadFabric_keeps {zz s : State} (h : Keeps zz s) (k : Nat) : Keeps zz (State.loadFabric s k) := by
  unfold State.loadFabric
  repeat' first
    | (intro _; intros; try dsimp -zeta only)
    | with_reducible exact Keeps.refl _
    | with_reducible assumption
    | with_reducible apply Keeps.forEach
    | with_reducible apply State.set_keeps
    | with_reducible apply State.rand_keeps
    | with_reducible apply State.onFab_keeps
    | with_reducible apply State.showEngines_keeps
    | with_reducible apply Keeps.ite
    | (extract_lets +onlyGivenNames u; have hu : Keeps zz u := ?_; clear_value u)
    | (extract_lets +onlyGivenNames u; have hu : Keeps zz u.1 := ?_; clear_value u)
    | (extract_lets +onlyGivenNames u; have hu : Keeps zz u.2 := ?_; clear_value u)
    | (extract_lets +onlyGivenNames u; clear_value u)
    | dsimp only [u]
    | split

theorem State.loadPorts_keeps {zz s : State} (h : Keeps zz s) : Keeps zz (State.loadPorts s) := by
  unfold State.loadPorts
  repeat' first
    | (intro _; intros; try dsimp -zeta only)
    | with_reducible exact Keeps.refl _
    | with_reducible assumption
    | with_reducible apply Keeps.forEach
    | with_reducible apply State.set_keeps
    | with_reducible apply State.seti_keeps
    | with_reducible apply Keeps.ite
    | split

theorem State.loadLease_keeps {zz s : State} (h : Keeps zz s) : Keeps zz (State.loadLease s) := by
  unfold State.loadLease
  repeat' first
    | (intro _; intros; try dsimp -zeta only)
    | with_reducible exact Keeps.refl _
    | with_reducible assumption
    | with_reducible apply State.rand_keeps
    | with_reducible apply State.setb_keeps
    | with_reducible apply State.set_keeps
    | with_reducible apply State.onLease_keeps
    | with_reducible apply Keeps.ite
    | (extract_lets +onlyGivenNames u; have hu : Keeps zz u := ?_; clear_value u)
    | (extract_lets +onlyGivenNames u; have hu : Keeps zz u.1 := ?_; clear_value u)
    | (extract_lets +onlyGivenNames u; have hu : Keeps zz u.2 := ?_; clear_value u)
    | (extract_lets +onlyGivenNames u; clear_value u)
    | dsimp only [u]
    | split

theorem State.showImage_keeps {zz s : State} (h : Keeps zz s) (k : Nat) : Keeps zz (State.showImage s k) := by
  unfold State.showImage
  repeat' first
    | (intro _; intros; try dsimp -zeta only)
    | with_reducible exact Keeps.refl _
    | with_reducible assumption
    | with_reducible apply State.set_keeps
    | with_reducible apply State.setb_keeps
    | with_reducible apply Keeps.ite
    | (extract_lets +onlyGivenNames u; have hu : Keeps zz u := ?_; clear_value u)
    | (extract_lets +onlyGivenNames u; have hu : Keeps zz u.1 := ?_; clear_value u)
    | (extract_lets +onlyGivenNames u; have hu : Keeps zz u.2 := ?_; clear_value u)
    | (extract_lets +onlyGivenNames u; clear_value u)
    | dsimp only [u]
    | split

theorem State.loadSections_keeps {zz s : State} (h : Keeps zz s) (k : Nat) : Keeps zz (State.loadSections s k) := by
  unfold State.loadSections
  repeat' first
    | (intro _; intros; try dsimp -zeta only)
    | with_reducible exact Keeps.refl _
    | with_reducible assumption
    | with_reducible apply State.loadCerts_keeps
    | with_reducible apply State.onBist_keeps
    | with_reducible apply State.onGn_keeps
    | with_reducible apply State.set_keeps
    | with_reducible apply Keeps.ite
    | (extract_lets +onlyGivenNames u; have hu : Keeps zz u := ?_; clear_value u)
    | (extract_lets +onlyGivenNames u; have hu : Keeps zz u.1 := ?_; clear_value u)
    | (extract_lets +onlyGivenNames u; have hu : Keeps zz u.2 := ?_; clear_value u)
    | (extract_lets +onlyGivenNames u; clear_value u)
    | dsimp only [u]
    | split

theorem State.loadChiplet_keeps {zz s : State} (h : Keeps zz s) (cfg : List CfgEntry) : Keeps zz (State.loadChiplet s cfg) := by
  unfold State.loadChiplet
  repeat' first
    | (intro _; intros; try dsimp -zeta only)
    | with_reducible exact Keeps.refl _
    | with_reducible assumption
    | with_reducible apply State.set_keeps
    | with_reducible apply State.commitIncr_keeps
    | with_reducible apply State.avsTarget_keeps
    | with_reducible apply State.onPerf_keeps
    | with_reducible apply State.applySampling_keeps
    | with_reducible apply Keeps.getD
    | with_reducible apply Keeps.ite
    | (extract_lets +onlyGivenNames u; have hu : Keeps zz u := ?_; clear_value u)
    | (extract_lets +onlyGivenNames u; have hu : Keeps zz u.1 := ?_; clear_value u)
    | (extract_lets +onlyGivenNames u; have hu : Keeps zz u.2 := ?_; clear_value u)
    | (extract_lets +onlyGivenNames u; clear_value u)
    | dsimp only [u]
    | split

theorem State.install_keeps {zz s : State} (h : Keeps zz s) (k : Nat) (cfg : List CfgEntry) : Keeps zz (State.install s k cfg) := by
  unfold State.install
  repeat' first
    | (intro _; intros; try dsimp -zeta only)
    | with_reducible exact Keeps.refl _
    | with_reducible assumption
    | with_reducible apply State.showImage_keeps
    | with_reducible apply State.set_keeps
    | with_reducible apply State.onBk_keeps
    | with_reducible apply State.loadLease_keeps
    | with_reducible apply State.loadPorts_keeps
    | with_reducible apply State.loadFabric_keeps
    | with_reducible apply State.loadOrbit_keeps
    | with_reducible apply State.loadSections_keeps
    | with_reducible apply State.loadChiplet_keeps
    | with_reducible apply State.importKeys_keeps
    | with_reducible apply State.firstGen_keeps
    | with_reducible apply State.rtBoot_keeps
    | with_reducible apply State.showTsl_keeps
    | with_reducible apply State.showNtp_keeps
    | with_reducible apply State.showPtp_keeps
    | with_reducible apply State.onBoot_keeps
    | with_reducible apply Eq.refl
    | with_reducible apply Keeps.ite
    | (extract_lets +onlyGivenNames u; have hu : Keeps zz u := ?_; clear_value u)
    | (extract_lets +onlyGivenNames u; have hu : Keeps zz u.1 := ?_; clear_value u)
    | (extract_lets +onlyGivenNames u; have hu : Keeps zz u.2 := ?_; clear_value u)
    | (extract_lets +onlyGivenNames u; clear_value u)
    | dsimp only [u]
    | split

theorem State.imageVerify_keeps {zz s : State} (h : Keeps zz s) (engineFault : Bool) : Keeps zz (State.imageVerify s engineFault) := by
  unfold State.imageVerify
  repeat' first
    | (intro _; intros; try dsimp -zeta only)
    | with_reducible exact Keeps.refl _
    | with_reducible assumption
    | with_reducible apply State.entropyDone_keeps
    | with_reducible refine State.reachTick_keeps ?_ (by assumption)
    | with_reducible apply State.onBoot_keeps
    | with_reducible apply State.slotFails_keeps
    | with_reducible apply State.setMarker_keeps
    | with_reducible apply State.configure_keeps
    | with_reducible apply State.set_keeps
    | with_reducible apply State.event_keeps
    | with_reducible apply State.install_keeps
    | with_reducible apply Eq.refl
    | with_reducible apply Keeps.getD
    | with_reducible apply Keeps.ite
    | (extract_lets +onlyGivenNames u; have hu : Keeps zz u := ?_; clear_value u)
    | (extract_lets +onlyGivenNames u; have hu : Keeps zz u.1 := ?_; clear_value u)
    | (extract_lets +onlyGivenNames u; have hu : Keeps zz u.2 := ?_; clear_value u)
    | (extract_lets +onlyGivenNames u; clear_value u)
    | dsimp only [u]
    | split

theorem State.bootComplete_keeps {zz s : State} (h : Keeps zz s) : Keeps zz (State.bootComplete s) := by
  unfold State.bootComplete
  repeat' first
    | (intro _; intros; try dsimp -zeta only)
    | with_reducible exact Keeps.refl _
    | with_reducible assumption
    | with_reducible apply State.onBoot_keeps
    | with_reducible apply State.done_keeps
    | with_reducible apply State.onTb_keeps
    | with_reducible apply State.warmBegin_keeps
    | with_reducible apply State.set_keeps
    | with_reducible apply State.onLease_keeps
    | with_reducible apply State.leaseTo_keeps
    | with_reducible apply State.raiseCond_keeps
    | with_reducible apply State.enterMode_keeps
    | with_reducible apply Keeps.forEach
    | with_reducible apply State.srcRows_keeps
    | with_reducible apply State.dpllSecond_keeps
    | with_reducible apply State.showTod_keeps
    | with_reducible apply State.warmRule_keeps
    | with_reducible apply State.publishTqr_keeps
    | with_reducible apply Eq.refl
    | with_reducible apply Keeps.ite
    | (extract_lets +onlyGivenNames u; have hu : Keeps zz u := ?_; clear_value u)
    | (extract_lets +onlyGivenNames u; have hu : Keeps zz u.1 := ?_; clear_value u)
    | (extract_lets +onlyGivenNames u; have hu : Keeps zz u.2 := ?_; clear_value u)
    | (extract_lets +onlyGivenNames u; clear_value u)
    | dsimp only [u]
    | split

theorem State.orbitWrite_keeps {zz s : State} (h : Keeps zz s) (erased programmed : Bool) : Keeps zz (State.orbitWrite s erased programmed) := by
  unfold State.orbitWrite
  repeat' first
    | (intro _; intros; try dsimp -zeta only)
    | with_reducible exact Keeps.refl _
    | with_reducible assumption
    | with_reducible apply State.flashErase_keeps
    | with_reducible apply State.onGn_keeps
    | with_reducible apply State.flashPut_keeps
    | with_reducible apply State.showOrbit_keeps
    | with_reducible apply State.drawn_keeps
    | with_reducible apply State.event_keeps
    | with_reducible apply Keeps.ite
    | (extract_lets +onlyGivenNames u; have hu : Keeps zz u := ?_; clear_value u)
    | (extract_lets +onlyGivenNames u; have hu : Keeps zz u.1 := ?_; clear_value u)
    | (extract_lets +onlyGivenNames u; have hu : Keeps zz u.2 := ?_; clear_value u)
    | (extract_lets +onlyGivenNames u; clear_value u)
    | dsimp only [u]
    | split

end Sys2Proof.Machine
end

