-- ==== Sys2Proof/Laws/Keep/Lifecycle.lean ====
section
/-! SUPPORT. Sys2Proof/Machine/Lifecycle.lean keeps the queue and the canonical forms. -/
namespace Sys2Proof.Machine

theorem State.zeroStore_keeps {zz s : State} (h : Keeps zz s) : Keeps zz (State.zeroStore s) := by
  unfold State.zeroStore
  repeat' first
    | (intro _; intros; try dsimp -zeta only)
    | with_reducible exact Keeps.refl _
    | with_reducible assumption
    | with_reducible apply Keeps.forEach
    | with_reducible apply State.zeroSlot_keeps
    | with_reducible apply State.dropKey_keeps
    | with_reducible apply State.onNtp_keeps
    | with_reducible apply State.onRt_keeps
    | with_reducible apply State.set_keeps
    | with_reducible apply Keeps.ite
    | (extract_lets +onlyGivenNames u; have hu : Keeps zz u := ?_; clear_value u)
    | (extract_lets +onlyGivenNames u; have hu : Keeps zz u.1 := ?_; clear_value u)
    | (extract_lets +onlyGivenNames u; have hu : Keeps zz u.2 := ?_; clear_value u)
    | (extract_lets +onlyGivenNames u; clear_value u)
    | dsimp only [u]
    | split

theorem State.lcDone_keeps {zz s : State} (h : Keeps zz s) (code : Nat) : Keeps zz (State.lcDone s code) := by
  unfold State.lcDone
  repeat' first
    | (intro _; intros; try dsimp -zeta only)
    | with_reducible exact Keeps.refl _
    | with_reducible assumption
    | with_reducible apply State.set_keeps
    | with_reducible apply State.event_keeps
    | with_reducible apply Keeps.ite
    | split

theorem State.lcProvision_keeps {zz s : State} {t} (h : Keeps zz s) (e : State.lcProvision s = some t) : Keeps zz t := by
  unfold State.lcProvision at e
  try dsimp only at e
  repeat' first
    | (simp only [reduceCtorEq] at e; done)
    | (simp only [Option.some.injEq] at e; subst e)
    | (intro _; intros; try dsimp -zeta only)
    | with_reducible exact Keeps.refl _
    | with_reducible assumption
    | with_reducible apply State.onBoot_keeps
    | with_reducible apply State.set_keeps
    | with_reducible apply State.drawKek_keeps
    | with_reducible apply Eq.refl
    | split
    | with_reducible refine Keeps.opt_ite e (fun _ e => ?_) (fun _ e => ?_)
    | split at e

theorem State.lcDeploy_keeps {zz s : State} {t} (h : Keeps zz s) (e : State.lcDeploy s = some t) : Keeps zz t := by
  unfold State.lcDeploy at e
  try dsimp only at e
  repeat' first
    | (simp only [reduceCtorEq] at e; done)
    | (simp only [Option.some.injEq] at e; subst e)
    | (intro _; intros; try dsimp -zeta only)
    | with_reducible exact Keeps.refl _
    | with_reducible assumption
    | with_reducible apply State.set_keeps
    | split
    | with_reducible refine Keeps.opt_ite e (fun _ e => ?_) (fun _ e => ?_)
    | split at e

theorem State.lcReturn_keeps {zz s : State} {t} (h : Keeps zz s) (e : State.lcReturn s = some t) : Keeps zz t := by
  unfold State.lcReturn at e
  try dsimp only at e
  repeat' first
    | (simp only [reduceCtorEq] at e; done)
    | (simp only [Option.some.injEq] at e; subst e)
    | (intro _; intros; try dsimp -zeta only)
    | with_reducible exact Keeps.refl _
    | with_reducible assumption
    | with_reducible apply State.zeroStore_keeps
    | with_reducible apply State.zeroKek_keeps
    | with_reducible apply State.onBoot_keeps
    | with_reducible apply State.set_keeps
    | with_reducible apply State.showProvPub_keeps
    | with_reducible apply Eq.refl
    | split
    | with_reducible refine Keeps.opt_ite e (fun _ e => ?_) (fun _ e => ?_)
    | split at e

theorem State.lcFuseRoot1_keeps {zz s : State} {t} (h : Keeps zz s) (e : State.lcFuseRoot1 s = some t) : Keeps zz t := by
  unfold State.lcFuseRoot1 at e
  try dsimp only at e
  repeat' first
    | (simp only [reduceCtorEq] at e; done)
    | (simp only [Option.some.injEq] at e; subst e)
    | (intro _; intros; try dsimp -zeta only)
    | with_reducible exact Keeps.refl _
    | with_reducible assumption
    | with_reducible apply State.onBoot_keeps
    | with_reducible apply State.set_keeps
    | with_reducible apply Eq.refl
    | split
    | with_reducible refine Keeps.opt_ite e (fun _ e => ?_) (fun _ e => ?_)
    | split at e

theorem State.lcRevoke_keeps {zz s : State} {r : Nat} {t} (h : Keeps zz s) (e : State.lcRevoke s r = some t) : Keeps zz t := by
  unfold State.lcRevoke at e
  try dsimp only at e
  repeat' first
    | (simp only [reduceCtorEq] at e; done)
    | (simp only [Option.some.injEq] at e; subst e)
    | (intro _; intros; try dsimp -zeta only)
    | with_reducible exact Keeps.refl _
    | with_reducible assumption
    | with_reducible apply State.set_keeps
    | split
    | with_reducible refine Keeps.opt_ite e (fun _ e => ?_) (fun _ e => ?_)
    | split at e

theorem State.lcSvn_keeps {zz s : State} {t} (h : Keeps zz s) (e : State.lcSvn s = some t) : Keeps zz t := by
  unfold State.lcSvn at e
  try dsimp only at e
  repeat' first
    | (simp only [reduceCtorEq] at e; done)
    | (simp only [Option.some.injEq] at e; subst e)
    | (intro _; intros; try dsimp -zeta only)
    | with_reducible exact Keeps.refl _
    | with_reducible assumption
    | with_reducible apply State.set_keeps
    | split
    | with_reducible refine Keeps.opt_ite e (fun _ e => ?_) (fun _ e => ?_)
    | split at e

theorem State.lcTamper_keeps {zz s : State} {t} (h : Keeps zz s) (e : State.lcTamper s = some t) : Keeps zz t := by
  unfold State.lcTamper at e
  try dsimp only at e
  repeat' first
    | (simp only [reduceCtorEq] at e; done)
    | (simp only [Option.some.injEq] at e; subst e)
    | (intro _; intros; try dsimp -zeta only)
    | with_reducible exact Keeps.refl _
    | with_reducible assumption
    | with_reducible apply State.onBk_keeps
    | split
    | with_reducible refine Keeps.opt_ite e (fun _ e => ?_) (fun _ e => ?_)
    | split at e

theorem State.lcEffect_keeps {zz s : State} {v : Nat} {t} (h : Keeps zz s) (e : State.lcEffect s v = some t) : Keeps zz t := by
  unfold State.lcEffect at e
  try dsimp only at e
  repeat' first
    | (simp only [reduceCtorEq] at e; done)
    | (simp only [Option.some.injEq] at e; subst e)
    | (intro _; intros; try dsimp -zeta only)
    | with_reducible exact Keeps.refl _
    | with_reducible assumption
    | with_reducible refine State.lcProvision_keeps ?_ (by assumption)
    | with_reducible refine State.lcDeploy_keeps ?_ (by assumption)
    | with_reducible refine State.lcReturn_keeps ?_ (by assumption)
    | with_reducible refine State.lcFuseRoot1_keeps ?_ (by assumption)
    | with_reducible refine State.lcRevoke_keeps ?_ (by assumption)
    | with_reducible refine State.lcSvn_keeps ?_ (by assumption)
    | with_reducible refine State.lcTamper_keeps ?_ (by assumption)
    | split
    | with_reducible refine Keeps.opt_ite e (fun _ e => ?_) (fun _ e => ?_)
    | split at e

theorem State.lcWrite_keeps {zz s : State} (h : Keeps zz s) (path : Path) (v : Nat) : Keeps zz (State.lcWrite s path v) := by
  unfold State.lcWrite
  repeat' first
    | (intro _; intros; try dsimp -zeta only)
    | with_reducible exact Keeps.refl _
    | with_reducible assumption
    | with_reducible apply State.onBoot_keeps
    | with_reducible apply State.set_keeps
    | with_reducible refine State.lcEffect_keeps ?_ (by assumption)
    | with_reducible apply State.lcDone_keeps
    | with_reducible apply Eq.refl
    | with_reducible apply Keeps.ite
    | (extract_lets +onlyGivenNames u; have hu : Keeps zz u := ?_; clear_value u)
    | (extract_lets +onlyGivenNames u; have hu : Keeps zz u.1 := ?_; clear_value u)
    | (extract_lets +onlyGivenNames u; have hu : Keeps zz u.2 := ?_; clear_value u)
    | (extract_lets +onlyGivenNames u; clear_value u)
    | dsimp only [u]
    | split

theorem State.tamperInput_keeps {zz s : State} (h : Keeps zz s) (n : Nat) (high : Bool) : Keeps zz (State.tamperInput s n high) := by
  unfold State.tamperInput
  repeat' first
    | (intro _; intros; try dsimp -zeta only)
    | with_reducible exact Keeps.refl _
    | with_reducible assumption
    | with_reducible apply State.zeroKek_keeps
    | with_reducible apply State.latch_keeps
    | with_reducible apply State.zeroStore_keeps
    | with_reducible apply State.latchShow_keeps
    | with_reducible apply Keeps.ite
    | (extract_lets +onlyGivenNames u; have hu : Keeps zz u := ?_; clear_value u)
    | (extract_lets +onlyGivenNames u; have hu : Keeps zz u.1 := ?_; clear_value u)
    | (extract_lets +onlyGivenNames u; have hu : Keeps zz u.2 := ?_; clear_value u)
    | (extract_lets +onlyGivenNames u; clear_value u)
    | dsimp only [u]
    | split

theorem State.keyScrub_keeps {zz s : State} (h : Keeps zz s) (failed : List Nat) : Keeps zz (State.keyScrub s failed) := by
  unfold State.keyScrub
  repeat' first
    | (intro _; intros; try dsimp -zeta only)
    | with_reducible exact Keeps.refl _
    | with_reducible assumption
    | with_reducible apply State.onBoot_keeps
    | with_reducible apply State.set_keeps
    | with_reducible apply State.fatal_keeps
    | with_reducible apply Eq.refl
    | with_reducible apply Keeps.foldl
    | with_reducible apply Keeps.foldl_fst
    | with_reducible apply Keeps.ite
    | (extract_lets +onlyGivenNames u; have hu : Keeps zz u := ?_; clear_value u)
    | (extract_lets +onlyGivenNames u; have hu : Keeps zz u.1 := ?_; clear_value u)
    | (extract_lets +onlyGivenNames u; have hu : Keeps zz u.2 := ?_; clear_value u)
    | (extract_lets +onlyGivenNames u; clear_value u)
    | dsimp only [u]
    | split

theorem State.entropyBlock_keeps {zz s : State} (h : Keeps zz s) (k : Nat) (failed : Option Bool) : Keeps zz (State.entropyBlock s k failed) := by
  unfold State.entropyBlock
  repeat' first
    | (intro _; intros; try dsimp -zeta only)
    | with_reducible exact Keeps.refl _
    | with_reducible assumption
    | with_reducible apply State.onBoot_keeps
    | with_reducible apply State.bump_keeps
    | with_reducible apply State.event_keeps
    | with_reducible apply State.setBit_keeps
    | with_reducible apply State.raiseCond_keeps
    | with_reducible apply Eq.refl
    | with_reducible apply Keeps.ite
    | (extract_lets +onlyGivenNames u; have hu : Keeps zz u := ?_; clear_value u)
    | (extract_lets +onlyGivenNames u; have hu : Keeps zz u.1 := ?_; clear_value u)
    | (extract_lets +onlyGivenNames u; have hu : Keeps zz u.2 := ?_; clear_value u)
    | (extract_lets +onlyGivenNames u; have ht := fun (x : State) => u x; clear ht; dsimp -zeta only [u]; clear u)
    | (extract_lets +onlyGivenNames u; have ht := fun y (x : State) => u y x; clear ht; dsimp -zeta only [u]; clear u)
    | (extract_lets +onlyGivenNames u; clear_value u)
    | dsimp only [u]
    | split

theorem State.reseedDue_keeps {zz s : State} {t} (h : Keeps zz s) (e : State.reseedDue s = some t) : Keeps zz t := by
  unfold State.reseedDue at e
  try dsimp only at e
  repeat' first
    | (simp only [reduceCtorEq] at e; done)
    | (simp only [Option.some.injEq] at e; subst e)
    | (intro _; intros; try dsimp -zeta only)
    | with_reducible exact Keeps.refl _
    | with_reducible assumption
    | with_reducible refine State.reachTick_keeps ?_ (by assumption)
    | split
    | with_reducible refine Keeps.opt_ite e (fun _ e => ?_) (fun _ e => ?_)
    | split at e

theorem State.reseed_keeps {zz s : State} (h : Keeps zz s) : Keeps zz (State.reseed s) := by
  unfold State.reseed
  repeat' first
    | (intro _; intros; try dsimp -zeta only)
    | with_reducible exact Keeps.refl _
    | with_reducible assumption
    | with_reducible refine State.reseedDue_keeps ?_ (by assumption)
    | with_reducible apply State.onBoot_keeps
    | with_reducible apply Eq.refl
    | with_reducible apply Keeps.ite
    | split

theorem State.confirm_keeps {zz s : State} (h : Keeps zz s) (auto : Bool) : Keeps zz (State.confirm s auto) := by
  unfold State.confirm
  repeat' first
    | (intro _; intros; try dsimp -zeta only)
    | with_reducible exact Keeps.refl _
    | with_reducible assumption
    | with_reducible apply State.setMarker_keeps
    | with_reducible apply State.set_keeps
    | with_reducible apply State.event_keeps
    | with_reducible apply Keeps.ite
    | (extract_lets +onlyGivenNames u; have hu : Keeps zz u := ?_; clear_value u)
    | (extract_lets +onlyGivenNames u; have hu : Keeps zz u.1 := ?_; clear_value u)
    | (extract_lets +onlyGivenNames u; have hu : Keeps zz u.2 := ?_; clear_value u)
    | (extract_lets +onlyGivenNames u; clear_value u)
    | dsimp only [u]
    | split

theorem State.autoconfirm_keeps {zz s : State} (h : Keeps zz s) : Keeps zz (State.autoconfirm s) := by
  unfold State.autoconfirm
  repeat' first
    | (intro _; intros; try dsimp -zeta only)
    | with_reducible exact Keeps.refl _
    | with_reducible assumption
    | with_reducible refine State.reachTick_keeps ?_ (by assumption)
    | with_reducible apply State.confirm_keeps
    | with_reducible apply Keeps.ite
    | split

end Sys2Proof.Machine
end

