-- ==== Sys2Proof/Laws/Keep/Update.lean ====
section
/-! SUPPORT. Sys2Proof/Machine/Update.lean keeps the queue and the canonical forms. -/
namespace Sys2Proof.Machine

theorem State.updCmd_keeps {zz s : State} (h : Keeps zz s) (path : Path) (code : Nat) (ok : Bool) (f : State → State) (hf : ∀ (x0 : State), Keeps zz x0 → Keeps zz (f x0)) : Keeps zz (State.updCmd s path code ok f) := by
  unfold State.updCmd
  repeat' first
    | (intro _; intros; try dsimp -zeta only)
    | with_reducible exact Keeps.refl _
    | with_reducible assumption
    | with_reducible apply State.set_keeps
    | with_reducible apply hf
    | with_reducible apply Keeps.ite
    | (extract_lets +onlyGivenNames u; have hu : Keeps zz u := ?_; clear_value u)
    | (extract_lets +onlyGivenNames u; have hu : Keeps zz u.1 := ?_; clear_value u)
    | (extract_lets +onlyGivenNames u; have hu : Keeps zz u.2 := ?_; clear_value u)
    | (extract_lets +onlyGivenNames u; clear_value u)
    | dsimp only [u]
    | split

theorem State.startOp_keeps {zz s : State} (h : Keeps zz s) (o : FlashOp) : Keeps zz (State.startOp s o) := by
  unfold State.startOp
  repeat' first
    | (intro _; intros; try dsimp -zeta only)
    | with_reducible exact Keeps.refl _
    | with_reducible assumption
    | with_reducible apply State.onBoot_keeps
    | with_reducible apply Eq.refl
    | with_reducible apply Keeps.ite
    | split

theorem State.slotEmpty_keeps {zz s : State} (h : Keeps zz s) (k : Nat) : Keeps zz (State.slotEmpty s k) := by
  unfold State.slotEmpty
  repeat' first
    | (intro _; intros; try dsimp -zeta only)
    | with_reducible exact Keeps.refl _
    | with_reducible assumption
    | with_reducible apply State.showHead_keeps
    | with_reducible apply State.set_keeps
    | with_reducible apply Keeps.ite
    | (extract_lets +onlyGivenNames u; have hu : Keeps zz u := ?_; clear_value u)
    | (extract_lets +onlyGivenNames u; have hu : Keeps zz u.1 := ?_; clear_value u)
    | (extract_lets +onlyGivenNames u; have hu : Keeps zz u.2 := ?_; clear_value u)
    | (extract_lets +onlyGivenNames u; clear_value u)
    | dsimp only [u]
    | split

theorem State.updOpen_keeps {zz s : State} (h : Keeps zz s) (path : Path) (k : Nat) : Keeps zz (State.updOpen s path k) := by
  unfold State.updOpen
  repeat' first
    | (intro _; intros; try dsimp -zeta only)
    | with_reducible exact Keeps.refl _
    | with_reducible assumption
    | with_reducible apply State.updCmd_keeps
    | with_reducible apply State.set_keeps
    | with_reducible apply State.setb_keeps
    | with_reducible apply State.event_keeps
    | with_reducible apply State.flashErase_keeps
    | with_reducible apply State.slotEmpty_keeps
    | with_reducible apply State.startOp_keeps
    | with_reducible apply Keeps.ite
    | (extract_lets +onlyGivenNames u; have hu : Keeps zz u := ?_; clear_value u)
    | (extract_lets +onlyGivenNames u; have hu : Keeps zz u.1 := ?_; clear_value u)
    | (extract_lets +onlyGivenNames u; have hu : Keeps zz u.2 := ?_; clear_value u)
    | (extract_lets +onlyGivenNames u; clear_value u)
    | dsimp only [u]
    | split

theorem State.updProgram_keeps {zz s : State} (h : Keeps zz s) (path : Path) : Keeps zz (State.updProgram s path) := by
  unfold State.updProgram
  repeat' first
    | (intro _; intros; try dsimp -zeta only)
    | with_reducible exact Keeps.refl _
    | with_reducible assumption
    | with_reducible apply State.updCmd_keeps
    | with_reducible apply State.flashProgram_keeps
    | with_reducible apply State.startOp_keeps
    | with_reducible apply Keeps.ite
    | split

theorem State.fillStaging_keeps {zz s : State} (h : Keeps zz s) (bs : List Byte) : Keeps zz (State.fillStaging s bs) := by
  unfold State.fillStaging
  repeat' first
    | (intro _; intros; try dsimp -zeta only)
    | with_reducible exact Keeps.refl _
    | with_reducible assumption
    | with_reducible apply State.onBoot_keeps
    | with_reducible apply Eq.refl
    | (apply SMap.wf_setMany; assumption)
    | (apply SMap.wf_clearRange; assumption)
    | exact SMap.wf_setMany _ _ _ _ rfl
    | with_reducible apply Keeps.ite
    | split

theorem State.updRead_keeps {zz s : State} (h : Keeps zz s) (path : Path) : Keeps zz (State.updRead s path) := by
  unfold State.updRead
  repeat' first
    | (intro _; intros; try dsimp -zeta only)
    | with_reducible exact Keeps.refl _
    | with_reducible assumption
    | with_reducible apply State.updCmd_keeps
    | with_reducible apply State.startOp_keeps
    | with_reducible apply State.read_keeps
    | with_reducible apply Keeps.ite
    | split

theorem State.updVerify_keeps {zz s : State} (h : Keeps zz s) (path : Path) : Keeps zz (State.updVerify s path) := by
  unfold State.updVerify
  repeat' first
    | (intro _; intros; try dsimp -zeta only)
    | with_reducible exact Keeps.refl _
    | with_reducible assumption
    | with_reducible apply State.updCmd_keeps
    | with_reducible apply State.startOp_keeps
    | with_reducible apply Keeps.ite
    | split

theorem State.verified_keeps {zz s : State} (h : Keeps zz s) (k : Nat) : Keeps zz (State.verified s k) := by
  unfold State.verified
  repeat' first
    | (intro _; intros; try dsimp -zeta only)
    | with_reducible exact Keeps.refl _
    | with_reducible assumption
    | with_reducible apply State.showHead_keeps
    | with_reducible apply State.set_keeps
    | with_reducible apply State.slotReject_keeps
    | with_reducible apply State.event_keeps
    | with_reducible apply Keeps.ite
    | (extract_lets +onlyGivenNames u; have hu : Keeps zz u := ?_; clear_value u)
    | (extract_lets +onlyGivenNames u; have hu : Keeps zz u.1 := ?_; clear_value u)
    | (extract_lets +onlyGivenNames u; have hu : Keeps zz u.2 := ?_; clear_value u)
    | (extract_lets +onlyGivenNames u; clear_value u)
    | dsimp only [u]
    | split

theorem State.updClose_keeps {zz s : State} (h : Keeps zz s) (path : Path) : Keeps zz (State.updClose s path) := by
  unfold State.updClose
  repeat' first
    | (intro _; intros; try dsimp -zeta only)
    | with_reducible exact Keeps.refl _
    | with_reducible assumption
    | with_reducible apply State.updCmd_keeps
    | with_reducible apply State.event_keeps
    | with_reducible apply State.set_keeps
    | with_reducible apply State.irq_keeps
    | with_reducible apply Keeps.ite
    | (extract_lets +onlyGivenNames u; have hu : Keeps zz u := ?_; clear_value u)
    | (extract_lets +onlyGivenNames u; have hu : Keeps zz u.1 := ?_; clear_value u)
    | (extract_lets +onlyGivenNames u; have hu : Keeps zz u.2 := ?_; clear_value u)
    | (extract_lets +onlyGivenNames u; clear_value u)
    | dsimp only [u]
    | split

theorem State.opFails_keeps {zz s : State} (h : Keeps zz s) (o : FlashOp) (a : Nat) : Keeps zz (State.opFails s o a) := by
  unfold State.opFails
  repeat' first
    | (intro _; intros; try dsimp -zeta only)
    | with_reducible exact Keeps.refl _
    | with_reducible assumption
    | with_reducible apply State.flashErase_keeps
    | with_reducible apply State.drawn_keeps
    | with_reducible apply State.flashPut_keeps
    | with_reducible apply State.read_keeps
    | with_reducible apply State.fillStaging_keeps
    | with_reducible apply State.slotReject_keeps
    | with_reducible apply State.event_keeps
    | with_reducible apply Keeps.ite
    | (extract_lets +onlyGivenNames u; have hu : Keeps zz u := ?_; clear_value u)
    | (extract_lets +onlyGivenNames u; have hu : Keeps zz u.1 := ?_; clear_value u)
    | (extract_lets +onlyGivenNames u; have hu : Keeps zz u.2 := ?_; clear_value u)
    | (extract_lets +onlyGivenNames u; clear_value u)
    | dsimp only [u]
    | split

theorem State.opComplete_keeps {zz s : State} (h : Keeps zz s) (failed : Option Nat) : Keeps zz (State.opComplete s failed) := by
  unfold State.opComplete
  repeat' first
    | (intro _; intros; try dsimp -zeta only)
    | with_reducible exact Keeps.refl _
    | with_reducible assumption
    | with_reducible apply State.onBoot_keeps
    | with_reducible apply State.opFails_keeps
    | with_reducible apply State.set_keeps
    | with_reducible apply State.event_keeps
    | with_reducible apply State.flashErase_keeps
    | with_reducible apply State.read_keeps
    | with_reducible apply State.fillStaging_keeps
    | with_reducible apply State.verified_keeps
    | with_reducible apply State.irq_keeps
    | with_reducible apply Eq.refl
    | with_reducible apply Keeps.ite
    | (extract_lets +onlyGivenNames u; have hu : Keeps zz u := ?_; clear_value u)
    | (extract_lets +onlyGivenNames u; have hu : Keeps zz u.1 := ?_; clear_value u)
    | (extract_lets +onlyGivenNames u; have hu : Keeps zz u.2 := ?_; clear_value u)
    | (extract_lets +onlyGivenNames u; clear_value u)
    | dsimp only [u]
    | split

theorem State.updWrite_keeps {zz s : State} (h : Keeps zz s) (path : Path) (v : Nat) : Keeps zz (State.updWrite s path v) := by
  unfold State.updWrite
  repeat' first
    | (intro _; intros; try dsimp -zeta only)
    | with_reducible exact Keeps.refl _
    | with_reducible assumption
    | with_reducible apply State.updOpen_keeps
    | with_reducible apply State.updProgram_keeps
    | with_reducible apply State.updRead_keeps
    | with_reducible apply State.updVerify_keeps
    | with_reducible apply State.updClose_keeps
    | with_reducible apply State.updCmd_keeps
    | (simp only [id]; assumption)
    | with_reducible apply Keeps.ite
    | split

end Sys2Proof.Machine
end

