-- ==== Sys2Proof/Laws/Keep/Access.lean ====
section
/-! SUPPORT. Sys2Proof/Machine/Access.lean keeps the queue and the canonical forms. -/
namespace Sys2Proof.Machine

theorem State.freshAlarms_keeps {zz s : State} (h : Keeps zz s) : Keeps zz (State.freshAlarms s) := by
  unfold State.freshAlarms
  repeat' first
    | (intro _; intros; try dsimp -zeta only)
    | with_reducible exact Keeps.refl _
    | with_reducible assumption
    | with_reducible apply State.setSat_keeps
    | with_reducible apply Keeps.forEach
    | with_reducible apply State.set_keeps
    | with_reducible apply State.setb_keeps
    | with_reducible apply State.setTs_keeps
    | with_reducible apply Keeps.ite
    | (extract_lets +onlyGivenNames u; have hu : Keeps zz u := ?_; clear_value u)
    | (extract_lets +onlyGivenNames u; have hu : Keeps zz u.1 := ?_; clear_value u)
    | (extract_lets +onlyGivenNames u; have hu : Keeps zz u.2 := ?_; clear_value u)
    | (extract_lets +onlyGivenNames u; clear_value u)
    | dsimp only [u]
    | split

theorem State.fresh_keeps {zz s : State} (h : Keeps zz s) : Keeps zz (State.fresh s) := by
  unfold State.fresh
  repeat' first
    | (intro _; intros; try dsimp -zeta only)
    | with_reducible exact Keeps.refl _
    | with_reducible assumption
    | with_reducible apply State.set_keeps
    | with_reducible apply State.freshAlarms_keeps
    | with_reducible apply State.setb_keeps
    | with_reducible apply State.showEpoch_keeps
    | with_reducible apply State.setSat_keeps
    | with_reducible apply Keeps.forEach
    | with_reducible apply State.portNow_keeps
    | with_reducible apply Keeps.ite
    | (extract_lets +onlyGivenNames u; have hu : Keeps zz u := ?_; clear_value u)
    | (extract_lets +onlyGivenNames u; have hu : Keeps zz u.1 := ?_; clear_value u)
    | (extract_lets +onlyGivenNames u; have hu : Keeps zz u.2 := ?_; clear_value u)
    | (extract_lets +onlyGivenNames u; clear_value u)
    | dsimp only [u]
    | split

theorem State.readEffect_keeps {zz s : State} (h : Keeps zz s) (a : Nat) : Keeps zz (State.readEffect s a) := by
  unfold State.readEffect
  repeat' first
    | (intro _; intros; try dsimp -zeta only)
    | with_reducible exact Keeps.refl _
    | with_reducible assumption
    | with_reducible apply State.portNow_keeps
    | with_reducible apply State.readCounter_keeps
    | with_reducible apply State.liveRead_keeps
    | with_reducible apply State.access_keeps
    | with_reducible apply State.set_keeps
    | with_reducible apply Keeps.foldl
    | with_reducible apply Keeps.foldl_fst
    | with_reducible apply Keeps.ite
    | split

theorem State.read_keeps {zz s : State} (h : Keeps zz s) (a : Nat) : Keeps zz ((State.read s a).2) := by
  unfold State.read
  repeat' first
    | (intro _; intros; try dsimp -zeta only)
    | with_reducible exact Keeps.refl _
    | with_reducible assumption
    | with_reducible apply State.readEffect_keeps
    | with_reducible apply Keeps.ite
    | split

theorem State.access_keeps {zz s : State} (h : Keeps zz s) (a : Nat) (size : Size) : Keeps zz ((State.access s a size).2) := by
  unfold State.access
  repeat' first
    | (intro _; intros; try dsimp -zeta only)
    | with_reducible exact Keeps.refl _
    | with_reducible assumption
    | with_reducible apply State.read_keeps
    | with_reducible apply Keeps.ite
    | split

theorem State.readMany_keeps {zz s : State} (h : Keeps zz s) (a n : Nat) : Keeps zz (s.readMany a n).2 := by
  induction n generalizing s a with
  | zero => exact h
  | succ n ih => exact ih (State.read_keeps h a) _

theorem State.lockDiscard_keeps {zz s : State} (h : Keeps zz s) (path : Path) : Keeps zz (State.lockDiscard s path) := by
  unfold State.lockDiscard
  repeat' first
    | (intro _; intros; try dsimp -zeta only)
    | with_reducible exact Keeps.refl _
    | with_reducible assumption
    | with_reducible apply State.bump_keeps
    | with_reducible apply State.noteSec_keeps
    | with_reducible apply Keeps.ite
    | split

theorem State.wlockWrite_keeps {zz s : State} (h : Keeps zz s) (v : Nat) : Keeps zz (State.wlockWrite s v) := by
  unfold State.wlockWrite
  repeat' first
    | (intro _; intros; try dsimp -zeta only)
    | with_reducible exact Keeps.refl _
    | with_reducible assumption
    | with_reducible apply State.set_keeps
    | with_reducible apply Keeps.ite
    | split

theorem State.snapTake_keeps {zz s : State} (h : Keeps zz s) (path : Path) : Keeps zz (State.snapTake s path) := by
  unfold State.snapTake
  repeat' first
    | (intro _; intros; try dsimp -zeta only)
    | with_reducible exact Keeps.refl _
    | with_reducible assumption
    | with_reducible apply State.set_keeps
    | with_reducible apply State.tick_keeps
    | with_reducible apply State.setTs_keeps
    | with_reducible apply State.onMg_keeps
    | with_reducible apply Keeps.ite
    | (extract_lets +onlyGivenNames u; have hu : Keeps zz u := ?_; clear_value u)
    | (extract_lets +onlyGivenNames u; have hu : Keeps zz u.1 := ?_; clear_value u)
    | (extract_lets +onlyGivenNames u; have hu : Keeps zz u.2 := ?_; clear_value u)
    | (extract_lets +onlyGivenNames u; clear_value u)
    | dsimp only [u]
    | split

theorem State.snapFree_keeps {zz s : State} (h : Keeps zz s) : Keeps zz (State.snapFree s) := by
  unfold State.snapFree
  repeat' first
    | (intro _; intros; try dsimp -zeta only)
    | with_reducible exact Keeps.refl _
    | with_reducible assumption
    | with_reducible apply State.set_keeps
    | with_reducible apply State.onMg_keeps
    | with_reducible apply Keeps.ite
    | split

theorem State.snapRelease_keeps {zz s : State} (h : Keeps zz s) (path : Path) : Keeps zz (State.snapRelease s path) := by
  unfold State.snapRelease
  repeat' first
    | (intro _; intros; try dsimp -zeta only)
    | with_reducible exact Keeps.refl _
    | with_reducible assumption
    | with_reducible apply State.set_keeps
    | with_reducible apply State.snapFree_keeps
    | with_reducible apply Keeps.ite
    | (extract_lets +onlyGivenNames u; have hu : Keeps zz u := ?_; clear_value u)
    | (extract_lets +onlyGivenNames u; have hu : Keeps zz u.1 := ?_; clear_value u)
    | (extract_lets +onlyGivenNames u; have hu : Keeps zz u.2 := ?_; clear_value u)
    | (extract_lets +onlyGivenNames u; clear_value u)
    | dsimp only [u]
    | split

theorem State.snapReady_keeps {zz s : State} (h : Keeps zz s) : Keeps zz (State.snapReady s) := by
  unfold State.snapReady
  repeat' first
    | (intro _; intros; try dsimp -zeta only)
    | with_reducible exact Keeps.refl _
    | with_reducible assumption
    | with_reducible apply State.set_keeps
    | with_reducible apply State.event_keeps
    | with_reducible apply State.irq_keeps
    | with_reducible apply State.onMg_keeps
    | with_reducible apply Keeps.ite
    | (extract_lets +onlyGivenNames u; have hu : Keeps zz u := ?_; clear_value u)
    | (extract_lets +onlyGivenNames u; have hu : Keeps zz u.1 := ?_; clear_value u)
    | (extract_lets +onlyGivenNames u; have hu : Keeps zz u.2 := ?_; clear_value u)
    | (extract_lets +onlyGivenNames u; clear_value u)
    | dsimp only [u]
    | split

theorem State.snapExpire_keeps {zz s : State} (h : Keeps zz s) : Keeps zz (State.snapExpire s) := by
  unfold State.snapExpire
  repeat' first
    | (intro _; intros; try dsimp -zeta only)
    | with_reducible exact Keeps.refl _
    | with_reducible assumption
    | with_reducible apply State.snapReady_keeps
    | with_reducible apply State.snapFree_keeps
    | with_reducible refine State.reachTick_keeps ?_ (by assumption)
    | with_reducible apply Keeps.ite
    | split

theorem State.alarmAck_keeps {zz s : State} (h : Keeps zz s) (path : Path) (code : Nat) : Keeps zz (State.alarmAck s path code) := by
  unfold State.alarmAck
  repeat' first
    | (intro _; intros; try dsimp -zeta only)
    | with_reducible exact Keeps.refl _
    | with_reducible assumption
    | with_reducible apply State.set_keeps
    | with_reducible apply State.onMg_keeps
    | with_reducible apply State.irq_keeps
    | with_reducible apply State.event_keeps
    | with_reducible apply Keeps.ite
    | (extract_lets +onlyGivenNames u; have hu : Keeps zz u := ?_; clear_value u)
    | (extract_lets +onlyGivenNames u; have hu : Keeps zz u.1 := ?_; clear_value u)
    | (extract_lets +onlyGivenNames u; have hu : Keeps zz u.2 := ?_; clear_value u)
    | (extract_lets +onlyGivenNames u; clear_value u)
    | dsimp only [u]
    | split

theorem State.afterWrite_keeps {zz s : State} (h : Keeps zz s) (a : Nat) : Keeps zz (State.afterWrite s a) := by
  unfold State.afterWrite
  repeat' first
    | (intro _; intros; try dsimp -zeta only)
    | with_reducible exact Keeps.refl _
    | with_reducible assumption
    | with_reducible apply Keeps.forEach
    | with_reducible apply State.srcRows_keeps
    | with_reducible apply State.reclaimEval_keeps
    | with_reducible apply State.showLf_keeps
    | with_reducible apply State.rtCatch_keeps
    | with_reducible apply State.lpiWritten_keeps
    | with_reducible apply Keeps.ite
    | split

theorem State.holdOld_keeps {zz s : State} (h : Keeps zz s) (old : State) (a : Nat) : Keeps zz (State.holdOld s old a) := by
  unfold State.holdOld
  repeat' first
    | (intro _; intros; try dsimp -zeta only)
    | with_reducible exact Keeps.refl _
    | with_reducible assumption
    | with_reducible apply State.holdCh_keeps
    | with_reducible apply State.holdIv_keeps
    | with_reducible apply Keeps.ite
    | split

theorem State.fieldWrite_keeps {zz s : State} (h : Keeps zz s) (path : Path) (a v : Nat) : Keeps zz (State.fieldWrite s path a v) := by
  unfold State.fieldWrite
  repeat' first
    | (intro _; intros; try dsimp -zeta only)
    | with_reducible exact Keeps.refl _
    | with_reducible assumption
    | with_reducible apply State.mergeField_keeps
    | with_reducible apply State.reclamp_keeps
    | with_reducible apply State.clampLog_keeps
    | with_reducible apply State.logReclamp_keeps
    | with_reducible apply State.holdOld_keeps
    | with_reducible apply State.afterWrite_keeps
    | with_reducible apply Keeps.foldl
    | with_reducible apply Keeps.foldl_fst
    | with_reducible apply Keeps.ite
    | (extract_lets +onlyGivenNames u; have hu : Keeps zz u := ?_; clear_value u)
    | (extract_lets +onlyGivenNames u; have hu : Keeps zz u.1 := ?_; clear_value u)
    | (extract_lets +onlyGivenNames u; have hu : Keeps zz u.2 := ?_; clear_value u)
    | (extract_lets +onlyGivenNames u; clear_value u)
    | dsimp only [u]
    | split

theorem State.stage_keeps {zz s : State} (h : Keeps zz s) (o n v : Nat) : Keeps zz (State.stage s o n v) := by
  unfold State.stage
  repeat' first
    | (intro _; intros; try dsimp -zeta only)
    | with_reducible exact Keeps.refl _
    | with_reducible assumption
    | with_reducible apply State.onBoot_keeps
    | with_reducible apply Eq.refl
    | (apply SMap.wf_setMany; assumption)
    | (apply SMap.wf_clearRange; assumption)
    | with_reducible apply Keeps.ite
    | split

theorem State.sysCommand_keeps {zz s : State} {path : Path} {a v : Nat} {t} (h : Keeps zz s) (e : State.sysCommand s path a v = some t) : Keeps zz t := by
  unfold State.sysCommand at e
  try dsimp only at e
  repeat' first
    | (simp only [reduceCtorEq] at e; done)
    | (simp only [Option.some.injEq] at e; subst e)
    | (intro _; intros; try dsimp -zeta only)
    | with_reducible exact Keeps.refl _
    | with_reducible assumption
    | with_reducible apply State.enterMaint_keeps
    | with_reducible apply State.exitMaint_keeps
    | with_reducible apply State.modeRefused_keeps
    | with_reducible apply State.sysReboot_keeps
    | with_reducible apply State.lcWrite_keeps
    | with_reducible apply State.wlockWrite_keeps
    | with_reducible apply State.set_keeps
    | with_reducible apply State.fieldWrite_keeps
    | with_reducible apply State.snapTake_keeps
    | with_reducible apply State.snapRelease_keeps
    | with_reducible apply State.alarmAck_keeps
    | with_reducible apply State.updWrite_keeps
    | with_reducible apply State.confirm_keeps
    | with_reducible apply State.stage_keeps
    | split
    | with_reducible refine Keeps.opt_ite e (fun _ e => ?_) (fun _ e => ?_)
    | split at e

theorem State.stepWord_keeps {zz s : State} (h : Keeps zz s) (path : Path) (a v : Nat) : Keeps zz (State.stepWord s path a v) := by
  unfold State.stepWord
  repeat' first
    | (intro _; intros; try dsimp -zeta only)
    | with_reducible exact Keeps.refl _
    | with_reducible assumption
    | with_reducible apply State.set_keeps
    | with_reducible apply State.steerRefused_keeps
    | with_reducible apply Keeps.ite
    | split

theorem State.timeCommand_keeps {zz s : State} {path : Path} {a v : Nat} {t} (h : Keeps zz s) (e : State.timeCommand s path a v = some t) : Keeps zz t := by
  unfold State.timeCommand at e
  try dsimp only at e
  repeat' first
    | (simp only [reduceCtorEq] at e; done)
    | (simp only [Option.some.injEq] at e; subst e)
    | (intro _; intros; try dsimp -zeta only)
    | with_reducible exact Keeps.refl _
    | with_reducible assumption
    | with_reducible apply State.capture_keeps
    | with_reducible apply State.incrLo_keeps
    | with_reducible apply State.incrHi_keeps
    | with_reducible apply State.stepWord_keeps
    | with_reducible apply State.stepArm_keeps
    | with_reducible apply State.stepCancel_keeps
    | with_reducible apply State.steerRefused_keeps
    | with_reducible apply State.gcalStart_keeps
    | with_reducible apply State.fieldWrite_keeps
    | with_reducible apply State.calRunAll_keeps
    | with_reducible apply State.queuePop_keeps
    | with_reducible apply State.outAlign_keeps
    | split
    | with_reducible refine Keeps.opt_ite e (fun _ e => ?_) (fun _ e => ?_)
    | split at e

theorem State.portCommand_keeps {zz s : State} {a v : Nat} {t} (h : Keeps zz s) (e : State.portCommand s a v = some t) : Keeps zz t := by
  unfold State.portCommand at e
  try dsimp only at e
  repeat' first
    | (simp only [reduceCtorEq] at e; done)
    | (simp only [Option.some.injEq] at e; subst e)
    | (intro _; intros; try dsimp -zeta only)
    | with_reducible exact Keeps.refl _
    | with_reducible assumption
    | with_reducible apply State.thrReset_keeps
    | with_reducible apply State.set_keeps
    | with_reducible apply State.tsPop_keeps
    | split
    | with_reducible refine Keeps.opt_ite e (fun _ e => ?_) (fun _ e => ?_)
    | split at e

theorem State.fabRetire_keeps {zz s : State} (h : Keeps zz s) (v : Nat) : Keeps zz (State.fabRetire s v) := by
  unfold State.fabRetire
  repeat' first
    | (intro _; intros; try dsimp -zeta only)
    | with_reducible exact Keeps.refl _
    | with_reducible assumption
    | with_reducible apply State.restoreCluster_keeps
    | with_reducible apply State.retireCluster_keeps
    | with_reducible apply State.retireEngine_keeps
    | with_reducible apply State.restoreEngine_keeps
    | with_reducible apply Keeps.ite
    | (extract_lets +onlyGivenNames u; have hu : Keeps zz u := ?_; clear_value u)
    | (extract_lets +onlyGivenNames u; have hu : Keeps zz u.1 := ?_; clear_value u)
    | (extract_lets +onlyGivenNames u; have hu : Keeps zz u.2 := ?_; clear_value u)
    | (extract_lets +onlyGivenNames u; clear_value u)
    | dsimp only [u]
    | split

theorem State.serviceCommand_keeps {zz s : State} {path : Path} {a v : Nat} {t} (h : Keeps zz s) (e : State.serviceCommand s path a v = some t) : Keeps zz t := by
  unfold State.serviceCommand at e
  try dsimp only at e
  repeat' first
    | (simp only [reduceCtorEq] at e; done)
    | (simp only [Option.some.injEq] at e; subst e)
    | (intro _; intros; try dsimp -zeta only)
    | with_reducible exact Keeps.refl _
    | with_reducible assumption
    | with_reducible apply State.fieldWrite_keeps
    | with_reducible apply State.auditClear_keeps
    | with_reducible apply State.fabRetire_keeps
    | with_reducible apply State.dirtySwap_keeps
    | with_reducible apply State.ntsRotate_keeps
    | with_reducible apply State.tslAbort_keeps
    | with_reducible apply State.tslRetire_keeps
    | with_reducible apply State.tslRestore_keeps
    | with_reducible apply State.leaseReleaseCmd_keeps
    | with_reducible apply State.leaseResyncCmd_keeps
    | with_reducible apply State.leaseCmd_keeps
    | with_reducible apply State.tslSubmit_keeps
    | split
    | with_reducible refine Keeps.opt_ite e (fun _ e => ?_) (fun _ e => ?_)
    | split at e

theorem State.pmCommand_keeps {zz s : State} (h : Keeps zz s) (v : Nat) : Keeps zz (State.pmCommand s v) := by
  unfold State.pmCommand
  repeat' first
    | (intro _; intros; try dsimp -zeta only)
    | with_reducible exact Keeps.refl _
    | with_reducible assumption
    | with_reducible apply State.pmRaise_keeps
    | with_reducible apply State.drawn_keeps
    | with_reducible apply State.pmAvsRetry_keeps
    | with_reducible apply Keeps.ite
    | split

theorem State.testCommand_keeps {zz s : State} {path : Path} {port : Option (Fin 32)} {a v : Nat} {t} (h : Keeps zz s) (e : State.testCommand s path port a v = some t) : Keeps zz t := by
  unfold State.testCommand at e
  try dsimp only at e
  repeat' first
    | (simp only [reduceCtorEq] at e; done)
    | (simp only [Option.some.injEq] at e; subst e)
    | (intro _; intros; try dsimp -zeta only)
    | with_reducible exact Keeps.refl _
    | with_reducible assumption
    | with_reducible apply State.bistStart_keeps
    | with_reducible apply State.bistStop_keeps
    | with_reducible apply State.perfSelWrite_keeps
    | with_reducible apply State.pmCommand_keeps
    | split
    | with_reducible refine Keeps.opt_ite e (fun _ e => ?_) (fun _ e => ?_)
    | split at e

theorem State.command_keeps {zz s : State} {path : Path} {port : Option (Fin 32)} {a v : Nat} {t} (h : Keeps zz s) (e : State.command s path port a v = some t) : Keeps zz t := by
  unfold State.command at e
  try dsimp only at e
  repeat' first
    | (simp only [reduceCtorEq] at e; done)
    | (simp only [Option.some.injEq] at e; subst e)
    | (intro _; intros; try dsimp -zeta only)
    | with_reducible exact Keeps.refl _
    | with_reducible assumption
    | with_reducible refine State.sysCommand_keeps ?_ (by assumption)
    | with_reducible refine State.timeCommand_keeps ?_ (by assumption)
    | with_reducible refine State.portCommand_keeps ?_ (by assumption)
    | with_reducible refine State.serviceCommand_keeps ?_ (by assumption)
    | with_reducible refine State.testCommand_keeps ?_ (by assumption)
    | split
    | with_reducible refine Keeps.opt_ite e (fun _ e => ?_) (fun _ e => ?_)
    | split at e

theorem State.regWrite_keeps {zz s : State} (h : Keeps zz s) (path : Path) (port : Option (Fin 32)) (a v : Nat) : Keeps zz (State.regWrite s path port a v) := by
  unfold State.regWrite
  repeat' first
    | (intro _; intros; try dsimp -zeta only)
    | with_reducible exact Keeps.refl _
    | with_reducible assumption
    | with_reducible apply State.lockDiscard_keeps
    | with_reducible apply State.windowWrite_keeps
    | with_reducible refine State.command_keeps ?_ (by assumption)
    | with_reducible apply State.fieldWrite_keeps
    | with_reducible apply Keeps.ite
    | (extract_lets +onlyGivenNames u; have hu : Keeps zz u := ?_; clear_value u)
    | (extract_lets +onlyGivenNames u; have hu : Keeps zz u.1 := ?_; clear_value u)
    | (extract_lets +onlyGivenNames u; have hu : Keeps zz u.2 := ?_; clear_value u)
    | (extract_lets +onlyGivenNames u; clear_value u)
    | dsimp only [u]
    | split

theorem State.narrowWrite_keeps {zz s : State} (h : Keeps zz s) (path : Path) (a n v : Nat) : Keeps zz (State.narrowWrite s path a n v) := by
  unfold State.narrowWrite
  repeat' first
    | (intro _; intros; try dsimp -zeta only)
    | with_reducible exact Keeps.refl _
    | with_reducible assumption
    | with_reducible apply State.lockDiscard_keeps
    | with_reducible apply State.stage_keeps
    | with_reducible apply State.windowWrite_keeps
    | with_reducible apply Keeps.ite
    | split

theorem State.writeAs_keeps {zz s : State} (h : Keeps zz s) (path : Path) (a v : Nat) (size : Size) : Keeps zz (State.writeAs s path a v size) := by
  unfold State.writeAs
  repeat' first
    | (intro _; intros; try dsimp -zeta only)
    | with_reducible exact Keeps.refl _
    | with_reducible assumption
    | with_reducible apply State.regWrite_keeps
    | with_reducible apply State.narrowWrite_keeps
    | with_reducible apply Keeps.ite
    | split

end Sys2Proof.Machine
end

