-- ==== Sys2Proof/Laws/Keep/Host.lean ====
section
/-! SUPPORT. Sys2Proof/Machine/Host.lean keeps the queue and the canonical forms. -/
namespace Sys2Proof.Machine

theorem State.spiStatus_keeps {zz s : State} (h : Keeps zz s) (crc lock hole : Bool) : Keeps zz ((State.spiStatus s crc lock hole).2) := by
  unfold State.spiStatus
  repeat' first
    | (intro _; intros; try dsimp -zeta only)
    | with_reducible exact Keeps.refl _
    | with_reducible assumption
    | with_reducible apply State.onMg_keeps
    | with_reducible apply Keeps.ite
    | split

theorem State.spiCrcError_keeps {zz s : State} (h : Keeps zz s) : Keeps zz (State.spiCrcError s) := by
  unfold State.spiCrcError
  repeat' first
    | (intro _; intros; try dsimp -zeta only)
    | with_reducible exact Keeps.refl _
    | with_reducible assumption
    | with_reducible apply State.bump_keeps
    | with_reducible apply State.noteSec_keeps
    | with_reducible apply Keeps.ite
    | split

theorem State.writeMany_keeps {zz s : State} (h : Keeps zz s) (path : Path) (port : Option (Fin 32)) (a : Nat) (vs : List Nat) :
    Keeps zz (s.writeMany path port a vs) := by
  induction vs generalizing s a with
  | nil => exact h
  | cons v t ih => exact ih (State.regWrite_keeps h ..) _

theorem State.spiWrite_keeps {zz s : State} (h : Keeps zz s) (b : List Byte) : Keeps zz (State.spiWrite s b) := by
  unfold State.spiWrite
  repeat' first
    | (intro _; intros; try dsimp -zeta only)
    | with_reducible exact Keeps.refl _
    | with_reducible assumption
    | with_reducible apply State.spiCrcError_keeps
    | with_reducible apply State.spiStatus_keeps
    | with_reducible apply State.emit_keeps
    | with_reducible apply State.writeMany_keeps
    | with_reducible apply Keeps.ite
    | (extract_lets +onlyGivenNames u; have hu : Keeps zz u := ?_; clear_value u)
    | (extract_lets +onlyGivenNames u; have hu : Keeps zz u.1 := ?_; clear_value u)
    | (extract_lets +onlyGivenNames u; have hu : Keeps zz u.2 := ?_; clear_value u)
    | (extract_lets +onlyGivenNames u; clear_value u)
    | dsimp only [u]
    | split

theorem State.spiFetch_keeps {zz s : State} (h : Keeps zz s) (b : List Byte) : Keeps zz (State.spiFetch s b) := by
  unfold State.spiFetch
  repeat' first
    | (intro _; intros; try dsimp -zeta only)
    | with_reducible exact Keeps.refl _
    | with_reducible assumption
    | with_reducible apply State.spiCrcError_keeps
    | with_reducible apply State.spiStatus_keeps
    | with_reducible apply State.onMg_keeps
    | with_reducible apply State.readMany_keeps
    | with_reducible apply Keeps.ite
    | (extract_lets +onlyGivenNames u; have hu : Keeps zz u := ?_; clear_value u)
    | (extract_lets +onlyGivenNames u; have hu : Keeps zz u.1 := ?_; clear_value u)
    | (extract_lets +onlyGivenNames u; have hu : Keeps zz u.2 := ?_; clear_value u)
    | (extract_lets +onlyGivenNames u; clear_value u)
    | dsimp only [u]
    | split

theorem State.spiReplay_keeps {zz s : State} (h : Keeps zz s) : Keeps zz (State.spiReplay s) := by
  unfold State.spiReplay
  repeat' first
    | (intro _; intros; try dsimp -zeta only)
    | with_reducible exact Keeps.refl _
    | with_reducible assumption
    | with_reducible apply State.emit_keeps
    | with_reducible apply Keeps.ite
    | split

theorem State.spiRead_keeps {zz s : State} (h : Keeps zz s) (b : List Byte) : Keeps zz (State.spiRead s b) := by
  unfold State.spiRead
  repeat' first
    | (intro _; intros; try dsimp -zeta only)
    | with_reducible exact Keeps.refl _
    | with_reducible assumption
    | with_reducible apply State.spiFetch_keeps
    | with_reducible apply State.spiReplay_keeps
    | with_reducible apply Keeps.ite
    | split

theorem State.spiEarlyRise_keeps {zz s : State} (h : Keeps zz s) (b : List Byte) : Keeps zz (State.spiEarlyRise s b) := by
  unfold State.spiEarlyRise
  repeat' first
    | (intro _; intros; try dsimp -zeta only)
    | with_reducible exact Keeps.refl _
    | with_reducible assumption
    | with_reducible apply State.spiFetch_keeps
    | with_reducible apply State.onMg_keeps
    | with_reducible apply Keeps.ite
    | split

theorem State.spiBad_keeps {zz s : State} (h : Keeps zz s) : Keeps zz (State.spiBad s) := by
  unfold State.spiBad
  repeat' first
    | (intro _; intros; try dsimp -zeta only)
    | with_reducible exact Keeps.refl _
    | with_reducible assumption
    | with_reducible apply State.bump_keeps
    | with_reducible apply Keeps.ite
    | split

theorem State.setOmpSession_keeps {zz s : State} (h : Keeps zz s) (k : Nat) (x : Option OmpSession) : Keeps zz (State.setOmpSession s k x) := by
  unfold State.setOmpSession
  repeat' first
    | (intro _; intros; try dsimp -zeta only)
    | with_reducible exact Keeps.refl _
    | with_reducible assumption
    | with_reducible apply State.onMg_keeps
    | with_reducible apply State.set_keeps
    | with_reducible apply Keeps.ite
    | split

theorem State.showFrames_keeps {zz s : State} (h : Keeps zz s) : Keeps zz (State.showFrames s) := by
  unfold State.showFrames
  repeat' first
    | (intro _; intros; try dsimp -zeta only)
    | with_reducible exact Keeps.refl _
    | with_reducible assumption
    | with_reducible apply Keeps.forEach
    | with_reducible apply State.setb_keeps
    | with_reducible apply Keeps.ite
    | (extract_lets +onlyGivenNames u; have hu : Keeps zz u := ?_; clear_value u)
    | (extract_lets +onlyGivenNames u; have hu : Keeps zz u.1 := ?_; clear_value u)
    | (extract_lets +onlyGivenNames u; have hu : Keeps zz u.2 := ?_; clear_value u)
    | (extract_lets +onlyGivenNames u; clear_value u)
    | dsimp only [u]
    | split

theorem State.ompCloseSlot_keeps {zz s : State} (h : Keeps zz s) (k cause : Nat) : Keeps zz (State.ompCloseSlot s k cause) := by
  unfold State.ompCloseSlot
  repeat' first
    | (intro _; intros; try dsimp -zeta only)
    | with_reducible exact Keeps.refl _
    | with_reducible assumption
    | with_reducible apply State.setOmpSession_keeps
    | with_reducible apply State.event_keeps
    | with_reducible apply State.irq_keeps
    | with_reducible apply State.set_keeps
    | with_reducible apply State.showFrames_keeps
    | with_reducible apply Keeps.ite
    | (extract_lets +onlyGivenNames u; have hu : Keeps zz u := ?_; clear_value u)
    | (extract_lets +onlyGivenNames u; have hu : Keeps zz u.1 := ?_; clear_value u)
    | (extract_lets +onlyGivenNames u; have hu : Keeps zz u.2 := ?_; clear_value u)
    | (extract_lets +onlyGivenNames u; clear_value u)
    | dsimp only [u]
    | split

theorem State.ompBuild_keeps {zz s : State} (h : Keeps zz s) (k type : Nat) (body : List Byte) : Keeps zz ((State.ompBuild s k type body).2) := by
  unfold State.ompBuild
  repeat' first
    | (intro _; intros; try dsimp -zeta only)
    | with_reducible exact Keeps.refl _
    | with_reducible assumption
    | with_reducible apply State.setOmpSession_keeps
    | with_reducible apply Keeps.ite
    | split

theorem State.ompSend_keeps {zz s : State} (h : Keeps zz s) (p transport : Nat) (x : Far) (seq : Nat) (b : List Byte) : Keeps zz (State.ompSend s p transport x seq b) := by
  unfold State.ompSend
  repeat' first
    | (intro _; intros; try dsimp -zeta only)
    | with_reducible exact Keeps.refl _
    | with_reducible assumption
    | with_reducible apply State.peerSend_keeps
    | with_reducible apply State.tcpStream_keeps
    | with_reducible apply State.originate_keeps
    | with_reducible apply Keeps.ite
    | split

theorem State.ompOut_keeps {zz s : State} (h : Keeps zz s) (k p transport : Nat) (x : Far) (b : List Byte) : Keeps zz (State.ompOut s k p transport x b) := by
  unfold State.ompOut
  repeat' first
    | (intro _; intros; try dsimp -zeta only)
    | with_reducible exact Keeps.refl _
    | with_reducible assumption
    | with_reducible apply State.setOmpSession_keeps
    | with_reducible apply State.ompSend_keeps
    | with_reducible apply Keeps.ite
    | split

theorem State.ompSingle_keeps {zz s : State} (h : Keeps zz s) (m : OmpIn) (b : List Byte) : Keeps zz (State.ompSingle s m b) := by
  unfold State.ompSingle
  repeat' first
    | (intro _; intros; try dsimp -zeta only)
    | with_reducible exact Keeps.refl _
    | with_reducible assumption
    | with_reducible apply State.drawn_keeps
    | with_reducible apply State.ompSend_keeps
    | with_reducible apply Keeps.ite
    | split

theorem State.ompPush_keeps {zz s : State} (h : Keeps zz s) (k type : Nat) (body : List Byte) : Keeps zz (State.ompPush s k type body) := by
  unfold State.ompPush
  repeat' first
    | (intro _; intros; try dsimp -zeta only)
    | with_reducible exact Keeps.refl _
    | with_reducible assumption
    | with_reducible apply State.ompBuild_keeps
    | with_reducible apply State.ompOut_keeps
    | with_reducible apply Keeps.ite
    | (extract_lets +onlyGivenNames u; have hu : Keeps zz u := ?_; clear_value u)
    | (extract_lets +onlyGivenNames u; have hu : Keeps zz u.1 := ?_; clear_value u)
    | (extract_lets +onlyGivenNames u; have hu : Keeps zz u.2 := ?_; clear_value u)
    | (extract_lets +onlyGivenNames u; clear_value u)
    | dsimp only [u]
    | split

theorem State.ompAnswer_keeps {zz s : State} (h : Keeps zz s) (k : Nat) (m : OmpIn) (type : Nat) (body : List Byte) : Keeps zz (State.ompAnswer s k m type body) := by
  unfold State.ompAnswer
  repeat' first
    | (intro _; intros; try dsimp -zeta only)
    | with_reducible exact Keeps.refl _
    | with_reducible assumption
    | with_reducible apply State.ompBuild_keeps
    | with_reducible apply State.setOmpSession_keeps
    | with_reducible apply State.ompOut_keeps
    | with_reducible apply Keeps.ite
    | (extract_lets +onlyGivenNames u; have hu : Keeps zz u := ?_; clear_value u)
    | (extract_lets +onlyGivenNames u; have hu : Keeps zz u.1 := ?_; clear_value u)
    | (extract_lets +onlyGivenNames u; have hu : Keeps zz u.2 := ?_; clear_value u)
    | (extract_lets +onlyGivenNames u; clear_value u)
    | dsimp only [u]
    | split

theorem State.ompNak_keeps {zz s : State} (h : Keeps zz s) (k : Nat) (m : OmpIn) (reason : Nat) : Keeps zz (State.ompNak s k m reason) := by
  unfold State.ompNak
  repeat' first
    | (intro _; intros; try dsimp -zeta only)
    | with_reducible exact Keeps.refl _
    | with_reducible assumption
    | with_reducible apply State.bump_keeps
    | with_reducible apply State.ompAnswer_keeps
    | with_reducible apply Keeps.ite
    | split

theorem State.ompNakOut_keeps {zz s : State} (h : Keeps zz s) (key : List Byte) (m : OmpIn) (reason : Nat) : Keeps zz (State.ompNakOut s key m reason) := by
  unfold State.ompNakOut
  repeat' first
    | (intro _; intros; try dsimp -zeta only)
    | with_reducible exact Keeps.refl _
    | with_reducible assumption
    | with_reducible apply State.bump_keeps
    | with_reducible apply State.ompSingle_keeps
    | with_reducible apply Keeps.ite
    | split

theorem State.ompAuthFail_keeps {zz s : State} (h : Keeps zz s) : Keeps zz (State.ompAuthFail s) := by
  unfold State.ompAuthFail
  repeat' first
    | (intro _; intros; try dsimp -zeta only)
    | with_reducible exact Keeps.refl _
    | with_reducible assumption
    | with_reducible apply State.bump_keeps
    | with_reducible apply State.noteSec_keeps
    | with_reducible apply Keeps.ite
    | split

theorem State.ompOpenSlot_keeps {zz s : State} (h : Keeps zz s) (k ver : Nat) (m : OmpIn) (key : List Byte) : Keeps zz (State.ompOpenSlot s k ver m key) := by
  unfold State.ompOpenSlot
  repeat' first
    | (intro _; intros; try dsimp -zeta only)
    | with_reducible exact Keeps.refl _
    | with_reducible assumption
    | with_reducible apply State.rand_keeps
    | with_reducible apply State.setOmpSession_keeps
    | with_reducible apply State.set_keeps
    | with_reducible apply State.event_keeps
    | with_reducible apply State.irq_keeps
    | with_reducible apply State.drawn_keeps
    | with_reducible apply State.ompOut_keeps
    | with_reducible apply Keeps.ite
    | (extract_lets +onlyGivenNames u; have hu : Keeps zz u := ?_; clear_value u)
    | (extract_lets +onlyGivenNames u; have hu : Keeps zz u.1 := ?_; clear_value u)
    | (extract_lets +onlyGivenNames u; have hu : Keeps zz u.2 := ?_; clear_value u)
    | (extract_lets +onlyGivenNames u; clear_value u)
    | dsimp only [u]
    | split

theorem State.ompOpen_keeps {zz s : State} (h : Keeps zz s) (m : OmpIn) : Keeps zz (State.ompOpen s m) := by
  unfold State.ompOpen
  repeat' first
    | (intro _; intros; try dsimp -zeta only)
    | with_reducible exact Keeps.refl _
    | with_reducible assumption
    | with_reducible apply State.ompAuthFail_keeps
    | with_reducible apply State.ompNakOut_keeps
    | with_reducible apply State.event_keeps
    | with_reducible apply State.tcpSend_keeps
    | with_reducible apply State.ompOpenSlot_keeps
    | with_reducible apply Keeps.ite
    | (extract_lets +onlyGivenNames u; have hu : Keeps zz u := ?_; clear_value u)
    | (extract_lets +onlyGivenNames u; have hu : Keeps zz u.1 := ?_; clear_value u)
    | (extract_lets +onlyGivenNames u; have hu : Keeps zz u.2 := ?_; clear_value u)
    | (extract_lets +onlyGivenNames u; clear_value u)
    | dsimp only [u]
    | split

theorem State.ompServe_keeps {zz s : State} (h : Keeps zz s) (k : Nat) (m : OmpIn) (f : State → State) (hf : ∀ (x0 : State), Keeps zz x0 → Keeps zz (f x0)) : Keeps zz (State.ompServe s k m f) := by
  unfold State.ompServe
  repeat' first
    | (intro _; intros; try dsimp -zeta only)
    | with_reducible exact Keeps.refl _
    | with_reducible assumption
    | with_reducible apply State.ompNak_keeps
    | with_reducible apply Keeps.forEach
    | with_reducible apply State.lockDiscard_keeps
    | with_reducible apply hf
    | with_reducible apply Keeps.ite
    | (extract_lets +onlyGivenNames u; have hu : Keeps zz u := ?_; clear_value u)
    | (extract_lets +onlyGivenNames u; have hu : Keeps zz u.1 := ?_; clear_value u)
    | (extract_lets +onlyGivenNames u; have hu : Keeps zz u.2 := ?_; clear_value u)
    | (extract_lets +onlyGivenNames u; clear_value u)
    | dsimp only [u]
    | split

theorem State.ompAccept_keeps {zz s : State} (h : Keeps zz s) (m : OmpIn) (f : Nat → State → State) (hf : ∀ (x0 : Nat) (x1 : State), Keeps zz x1 → Keeps zz (f x0 x1)) : Keeps zz (State.ompAccept s m f) := by
  unfold State.ompAccept
  repeat' first
    | (intro _; intros; try dsimp -zeta only)
    | with_reducible exact Keeps.refl _
    | with_reducible assumption
    | with_reducible apply State.ompNakOut_keeps
    | with_reducible apply State.ompAuthFail_keeps
    | with_reducible apply State.ompOut_keeps
    | with_reducible apply State.setOmpSession_keeps
    | with_reducible apply State.ompServe_keeps
    | with_reducible apply hf
    | with_reducible apply Keeps.ite
    | (extract_lets +onlyGivenNames u; have hu : Keeps zz u := ?_; clear_value u)
    | (extract_lets +onlyGivenNames u; have hu : Keeps zz u.1 := ?_; clear_value u)
    | (extract_lets +onlyGivenNames u; have hu : Keeps zz u.2 := ?_; clear_value u)
    | (extract_lets +onlyGivenNames u; clear_value u)
    | dsimp only [u]
    | split

theorem State.ompRx_keeps {zz s : State} (h : Keeps zz s) (type : Nat) (m : OmpIn) (f : Nat → State → State) (hf : ∀ (x0 : Nat) (x1 : State), Keeps zz x1 → Keeps zz (f x0 x1)) : Keeps zz (State.ompRx s type m f) := by
  unfold State.ompRx
  repeat' first
    | (intro _; intros; try dsimp -zeta only)
    | with_reducible exact Keeps.refl _
    | with_reducible assumption
    | with_reducible apply State.ompAccept_keeps
    | with_reducible apply hf
    | with_reducible apply Keeps.ite
    | split

theorem State.ompRead_keeps {zz s : State} (h : Keeps zz s) (m : OmpIn) (k : Nat) : Keeps zz (State.ompRead s m k) := by
  unfold State.ompRead
  repeat' first
    | (intro _; intros; try dsimp -zeta only)
    | with_reducible exact Keeps.refl _
    | with_reducible assumption
    | with_reducible apply State.readMany_keeps
    | with_reducible apply State.ompAnswer_keeps
    | with_reducible apply Keeps.ite
    | (extract_lets +onlyGivenNames u; have hu : Keeps zz u := ?_; clear_value u)
    | (extract_lets +onlyGivenNames u; have hu : Keeps zz u.1 := ?_; clear_value u)
    | (extract_lets +onlyGivenNames u; have hu : Keeps zz u.2 := ?_; clear_value u)
    | (extract_lets +onlyGivenNames u; clear_value u)
    | dsimp only [u]
    | split

theorem State.ompWrite_keeps {zz s : State} (h : Keeps zz s) (m : OmpIn) (k : Nat) : Keeps zz (State.ompWrite s m k) := by
  unfold State.ompWrite
  repeat' first
    | (intro _; intros; try dsimp -zeta only)
    | with_reducible exact Keeps.refl _
    | with_reducible assumption
    | with_reducible apply State.writeMany_keeps
    | with_reducible apply State.ompAnswer_keeps
    | with_reducible apply Keeps.ite
    | (extract_lets +onlyGivenNames u; have hu : Keeps zz u := ?_; clear_value u)
    | (extract_lets +onlyGivenNames u; have hu : Keeps zz u.1 := ?_; clear_value u)
    | (extract_lets +onlyGivenNames u; have hu : Keeps zz u.2 := ?_; clear_value u)
    | (extract_lets +onlyGivenNames u; clear_value u)
    | dsimp only [u]
    | split

theorem State.ompReadGroup_keeps {zz s : State} (h : Keeps zz s) (m : OmpIn) (k : Nat) : Keeps zz (State.ompReadGroup s m k) := by
  unfold State.ompReadGroup
  repeat' first
    | (intro _; intros; try dsimp -zeta only)
    | with_reducible exact Keeps.refl _
    | with_reducible assumption
    | with_reducible apply State.readMany_keeps
    | with_reducible apply State.ompAnswer_keeps
    | with_reducible apply Keeps.ite
    | (extract_lets +onlyGivenNames u; have hu : Keeps zz u := ?_; clear_value u)
    | (extract_lets +onlyGivenNames u; have hu : Keeps zz u.1 := ?_; clear_value u)
    | (extract_lets +onlyGivenNames u; have hu : Keeps zz u.2 := ?_; clear_value u)
    | (extract_lets +onlyGivenNames u; clear_value u)
    | dsimp only [u]
    | split

theorem State.ompSubscribe_keeps {zz s : State} (h : Keeps zz s) (m : OmpIn) (k : Nat) : Keeps zz (State.ompSubscribe s m k) := by
  unfold State.ompSubscribe
  repeat' first
    | (intro _; intros; try dsimp -zeta only)
    | with_reducible exact Keeps.refl _
    | with_reducible assumption
    | with_reducible apply State.onMg_keeps
    | with_reducible apply State.setOmpSession_keeps
    | with_reducible apply State.set_keeps
    | with_reducible apply State.showFrames_keeps
    | with_reducible apply Keeps.ite
    | (extract_lets +onlyGivenNames u; have hu : Keeps zz u := ?_; clear_value u)
    | (extract_lets +onlyGivenNames u; have hu : Keeps zz u.1 := ?_; clear_value u)
    | (extract_lets +onlyGivenNames u; have hu : Keeps zz u.2 := ?_; clear_value u)
    | (extract_lets +onlyGivenNames u; clear_value u)
    | dsimp only [u]
    | split

theorem State.ompFrameTx_keeps {zz s : State} (h : Keeps zz s) (m : OmpIn) (p cls : Nat) (d : TxDesc) (frame : List Byte) (k : Nat) : Keeps zz (State.ompFrameTx s m p cls d frame k) := by
  unfold State.ompFrameTx
  repeat' first
    | (intro _; intros; try dsimp -zeta only)
    | with_reducible exact Keeps.refl _
    | with_reducible assumption
    | with_reducible apply State.ompAnswer_keeps
    | with_reducible apply State.submit_keeps
    | with_reducible apply Keeps.ite
    | split

theorem State.ompReadRx_keeps {zz s : State} (h : Keeps zz s) (m : OmpIn) : Keeps zz (State.ompReadRx s m) := by
  unfold State.ompReadRx
  repeat' first
    | (intro _; intros; try dsimp -zeta only)
    | with_reducible exact Keeps.refl _
    | with_reducible assumption
    | with_reducible apply State.ompAccept_keeps
    | with_reducible apply State.ompRead_keeps
    | with_reducible apply Keeps.ite
    | split

theorem State.ompIdle_keeps {zz s : State} (h : Keeps zz s) (k : Nat) : Keeps zz (State.ompIdle s k) := by
  unfold State.ompIdle
  repeat' first
    | (intro _; intros; try dsimp -zeta only)
    | with_reducible exact Keeps.refl _
    | with_reducible assumption
    | with_reducible refine State.reachTick_keeps ?_ (by assumption)
    | with_reducible apply State.ompCloseSlot_keeps
    | with_reducible apply Keeps.ite
    | split

theorem State.ompConnEnd_keeps {zz s : State} (h : Keeps zz s) (conn : Nat) : Keeps zz (State.ompConnEnd s conn) := by
  unfold State.ompConnEnd
  repeat' first
    | (intro _; intros; try dsimp -zeta only)
    | with_reducible exact Keeps.refl _
    | with_reducible assumption
    | with_reducible apply Keeps.forEach
    | with_reducible apply State.ompCloseSlot_keeps
    | with_reducible apply Keeps.ite
    | split

theorem State.forward_keeps {zz s : State} (h : Keeps zz s) (g : Eng) : Keeps zz (State.forward s g) := by
  unfold State.forward
  repeat' first
    | (intro _; intros; try dsimp -zeta only)
    | with_reducible exact Keeps.refl _
    | with_reducible assumption
    | with_reducible apply State.onRun_keeps
    | with_reducible apply State.perfEv_keeps
    | with_reducible apply State.tsRecord_keeps
    | with_reducible apply State.ompPush_keeps
    | with_reducible apply State.endRequest_keeps
    | with_reducible apply Keeps.ite
    | (extract_lets +onlyGivenNames u; have hu : Keeps zz u := ?_; clear_value u)
    | (extract_lets +onlyGivenNames u; have hu : Keeps zz u.1 := ?_; clear_value u)
    | (extract_lets +onlyGivenNames u; have hu : Keeps zz u.2 := ?_; clear_value u)
    | (extract_lets +onlyGivenNames u; clear_value u)
    | dsimp only [u]
    | split

theorem State.writeEntryLog_keeps {zz s : State} (h : Keeps zz s) (e : EventRec) (drop : Nat) : Keeps zz (State.writeEntryLog s e drop) := by
  unfold State.writeEntryLog
  repeat' first
    | (intro _; intros; try dsimp -zeta only)
    | with_reducible exact Keeps.refl _
    | with_reducible assumption
    | with_reducible apply State.set_keeps
    | with_reducible apply State.setTs_keeps
    | with_reducible apply State.irq_keeps
    | with_reducible apply Keeps.forEach
    | with_reducible apply State.ompPush_keeps
    | with_reducible apply Keeps.ite
    | (extract_lets +onlyGivenNames u; have hu : Keeps zz u := ?_; clear_value u)
    | (extract_lets +onlyGivenNames u; have hu : Keeps zz u.1 := ?_; clear_value u)
    | (extract_lets +onlyGivenNames u; have hu : Keeps zz u.2 := ?_; clear_value u)
    | (extract_lets +onlyGivenNames u; clear_value u)
    | dsimp only [u]
    | split

theorem State.logWrite_keeps {zz s : State} (h : Keeps zz s) : Keeps zz (State.logWrite s) := by
  unfold State.logWrite
  repeat' first
    | (intro _; intros; try dsimp -zeta only)
    | with_reducible exact Keeps.refl _
    | with_reducible assumption
    | with_reducible apply State.onMg_keeps
    | with_reducible apply State.set_keeps
    | with_reducible apply State.writeEntryLog_keeps
    | with_reducible apply Keeps.ite
    | (extract_lets +onlyGivenNames u; have hu : Keeps zz u := ?_; clear_value u)
    | (extract_lets +onlyGivenNames u; have hu : Keeps zz u.1 := ?_; clear_value u)
    | (extract_lets +onlyGivenNames u; have hu : Keeps zz u.2 := ?_; clear_value u)
    | (extract_lets +onlyGivenNames u; clear_value u)
    | dsimp only [u]
    | split

end Sys2Proof.Machine
end

