-- ==== Sys2Proof/Laws/Keep/Boundary.lean ====
section
/-! SUPPORT. Sys2Proof/Machine/Boundary.lean keeps the queue and the canonical forms. -/
namespace Sys2Proof.Machine

theorem State.loadReplicas_keeps {zz s : State} (h : Keeps zz s) : Keeps zz (State.loadReplicas s) := by
  unfold State.loadReplicas
  repeat' first
    | (intro _; intros; try dsimp -zeta only)
    | with_reducible exact Keeps.refl _
    | with_reducible assumption
    | with_reducible apply State.onTb_keeps
    | with_reducible apply Keeps.getD
    | with_reducible apply Keeps.ite
    | (extract_lets +onlyGivenNames u; have hu : Keeps zz u := ?_; clear_value u)
    | (extract_lets +onlyGivenNames u; have hu : Keeps zz u.1 := ?_; clear_value u)
    | (extract_lets +onlyGivenNames u; have hu : Keeps zz u.2 := ?_; clear_value u)
    | (extract_lets +onlyGivenNames u; clear_value u)
    | dsimp only [u]
    | split

theorem State.judgeReplica_keeps {zz s : State} (h : Keeps zz s) (n : Nat) (o : Int) : Keeps zz (State.judgeReplica s n o) := by
  unfold State.judgeReplica
  repeat' first
    | (intro _; intros; try dsimp -zeta only)
    | with_reducible exact Keeps.refl _
    | with_reducible assumption
    | with_reducible apply State.seti_keeps
    | with_reducible apply State.bistOffset_keeps
    | with_reducible apply State.set_keeps
    | with_reducible apply State.setBit_keeps
    | with_reducible apply State.event_keeps
    | with_reducible apply State.onTb_keeps
    | with_reducible apply State.drawn_keeps
    | with_reducible apply Keeps.getD
    | with_reducible apply Keeps.ite
    | (extract_lets +onlyGivenNames u; have hu : Keeps zz u := ?_; clear_value u)
    | (extract_lets +onlyGivenNames u; have hu : Keeps zz u.1 := ?_; clear_value u)
    | (extract_lets +onlyGivenNames u; have hu : Keeps zz u.2 := ?_; clear_value u)
    | (extract_lets +onlyGivenNames u; clear_value u)
    | dsimp only [u]
    | split

theorem State.replicas_keeps {zz s : State} (h : Keeps zz s) (os : List Int) : Keeps zz (State.replicas s os) := by
  unfold State.replicas
  repeat' first
    | (intro _; intros; try dsimp -zeta only)
    | with_reducible exact Keeps.refl _
    | with_reducible assumption
    | with_reducible apply Keeps.forEach
    | with_reducible apply State.judgeReplica_keeps
    | with_reducible apply Keeps.ite
    | split

theorem State.showWtr_keeps {zz s : State} (h : Keeps zz s) : Keeps zz (State.showWtr s) := by
  unfold State.showWtr
  repeat' first
    | (intro _; intros; try dsimp -zeta only)
    | with_reducible exact Keeps.refl _
    | with_reducible assumption
    | with_reducible apply Keeps.forEach
    | with_reducible apply State.srcGroup_keeps
    | with_reducible apply State.set_keeps
    | with_reducible apply Keeps.ite
    | (extract_lets +onlyGivenNames u; have hu : Keeps zz u := ?_; clear_value u)
    | (extract_lets +onlyGivenNames u; have hu : Keeps zz u.1 := ?_; clear_value u)
    | (extract_lets +onlyGivenNames u; have hu : Keeps zz u.2 := ?_; clear_value u)
    | (extract_lets +onlyGivenNames u; clear_value u)
    | dsimp only [u]
    | split

theorem State.sumTherm_keeps {zz s : State} (h : Keeps zz s) : Keeps zz (State.sumTherm s) := by
  unfold State.sumTherm
  repeat' first
    | (intro _; intros; try dsimp -zeta only)
    | with_reducible exact Keeps.refl _
    | with_reducible assumption
    | with_reducible apply State.onSel_keeps
    | with_reducible apply Keeps.ite
    | (extract_lets +onlyGivenNames u; have hu : Keeps zz u := ?_; clear_value u)
    | (extract_lets +onlyGivenNames u; have hu : Keeps zz u.1 := ?_; clear_value u)
    | (extract_lets +onlyGivenNames u; have hu : Keeps zz u.2 := ?_; clear_value u)
    | (extract_lets +onlyGivenNames u; clear_value u)
    | dsimp only [u]
    | split

theorem State.holdoverSteer_keeps {zz s : State} (h : Keeps zz s) : Keeps zz (State.holdoverSteer s) := by
  unfold State.holdoverSteer
  repeat' first
    | (intro _; intros; try dsimp -zeta only)
    | with_reducible exact Keeps.refl _
    | with_reducible assumption
    | with_reducible apply State.commitIncr_keeps
    | with_reducible apply Keeps.ite
    | split

theorem State.flushOne_keeps {zz s : State} (h : Keeps zz s) (l : List (Nat × (Nat × Nat))) (x : Nat × (Nat × Nat)) : Keeps zz (State.flushOne s l x) := by
  unfold State.flushOne
  repeat' first
    | (intro _; intros; try dsimp -zeta only)
    | with_reducible exact Keeps.refl _
    | with_reducible assumption
    | with_reducible apply State.queueEvent_keeps
    | with_reducible apply Keeps.ite
    | (extract_lets +onlyGivenNames u; have hu : Keeps zz u := ?_; clear_value u)
    | (extract_lets +onlyGivenNames u; have hu : Keeps zz u.1 := ?_; clear_value u)
    | (extract_lets +onlyGivenNames u; have hu : Keeps zz u.2 := ?_; clear_value u)
    | (extract_lets +onlyGivenNames u; clear_value u)
    | dsimp only [u]
    | split

theorem State.flushEvents_keeps {zz s : State} (h : Keeps zz s) : Keeps zz (State.flushEvents s) := by
  unfold State.flushEvents
  repeat' first
    | (intro _; intros; try dsimp -zeta only)
    | with_reducible exact Keeps.refl _
    | with_reducible assumption
    | with_reducible apply State.flushOne_keeps
    | with_reducible apply State.onMg_keeps
    | with_reducible apply Keeps.foldl
    | with_reducible apply Keeps.foldl_fst
    | with_reducible apply Keeps.ite
    | (extract_lets +onlyGivenNames u; have hu : Keeps zz u := ?_; clear_value u)
    | (extract_lets +onlyGivenNames u; have hu : Keeps zz u.1 := ?_; clear_value u)
    | (extract_lets +onlyGivenNames u; have hu : Keeps zz u.2 := ?_; clear_value u)
    | (extract_lets +onlyGivenNames u; clear_value u)
    | dsimp only [u]
    | split

theorem State.carry_keeps {zz s : State} (h : Keeps zz s) : Keeps zz (State.carry s) := by
  unfold State.carry
  repeat' first
    | (intro _; intros; try dsimp -zeta only)
    | with_reducible exact Keeps.refl _
    | with_reducible assumption
    | with_reducible apply State.runUntil_keeps
    | with_reducible apply State.onTb_keeps
    | with_reducible apply State.applyStep_keeps
    | with_reducible apply State.loadReplicas_keeps
    | with_reducible apply State.applyLeap_keeps
    | with_reducible apply State.loadBackup_keeps
    | with_reducible apply Keeps.ite
    | (extract_lets +onlyGivenNames u; have hu : Keeps zz u := ?_; clear_value u)
    | (extract_lets +onlyGivenNames u; have hu : Keeps zz u.1 := ?_; clear_value u)
    | (extract_lets +onlyGivenNames u; have hu : Keeps zz u.2 := ?_; clear_value u)
    | (extract_lets +onlyGivenNames u; clear_value u)
    | dsimp only [u]
    | split

theorem State.measureBoundary_keeps {zz s : State} (h : Keeps zz s) (step : Bool) : Keeps zz (State.measureBoundary s step) := by
  unfold State.measureBoundary
  repeat' first
    | (intro _; intros; try dsimp -zeta only)
    | with_reducible exact Keeps.refl _
    | with_reducible assumption
    | with_reducible apply State.windowsBoundary_keeps
    | with_reducible apply State.releaseCfg_keeps
    | with_reducible apply State.swapBoundary_keeps
    | with_reducible apply State.feedbackBoundary_keeps
    | with_reducible apply State.cutVirtual_keeps
    | with_reducible apply Keeps.ite
    | (extract_lets +onlyGivenNames u; have hu : Keeps zz u := ?_; clear_value u)
    | (extract_lets +onlyGivenNames u; have hu : Keeps zz u.1 := ?_; clear_value u)
    | (extract_lets +onlyGivenNames u; have hu : Keeps zz u.2 := ?_; clear_value u)
    | (extract_lets +onlyGivenNames u; clear_value u)
    | dsimp only [u]
    | split

theorem State.sourceBoundary_keeps {zz s : State} (h : Keeps zz s) : Keeps zz (State.sourceBoundary s) := by
  unfold State.sourceBoundary
  repeat' first
    | (intro _; intros; try dsimp -zeta only)
    | with_reducible exact Keeps.refl _
    | with_reducible assumption
    | with_reducible apply State.ptpinQ1_keeps
    | with_reducible apply State.secondQualifiers_keeps
    | with_reducible apply State.showWtr_keeps
    | with_reducible apply State.reclaimEval_keeps
    | with_reducible apply State.sumTherm_keeps
    | with_reducible apply State.holdoverSteer_keeps
    | with_reducible apply State.select_keeps
    | with_reducible apply State.alignBoundary_keeps
    | with_reducible apply State.outBoundary_keeps
    | with_reducible apply State.dpllSecond_keeps
    | with_reducible apply State.clockBoundary_keeps
    | with_reducible apply State.warmRule_keeps
    | with_reducible apply Keeps.ite
    | (extract_lets +onlyGivenNames u; have hu : Keeps zz u := ?_; clear_value u)
    | (extract_lets +onlyGivenNames u; have hu : Keeps zz u.1 := ?_; clear_value u)
    | (extract_lets +onlyGivenNames u; have hu : Keeps zz u.2 := ?_; clear_value u)
    | (extract_lets +onlyGivenNames u; clear_value u)
    | dsimp only [u]
    | split

theorem State.serviceBoundary_keeps {zz s : State} (h : Keeps zz s) (step : Option Int) : Keeps zz (State.serviceBoundary s step) := by
  unfold State.serviceBoundary
  repeat' first
    | (intro _; intros; try dsimp -zeta only)
    | with_reducible exact Keeps.refl _
    | with_reducible assumption
    | with_reducible apply State.publishTqr_keeps
    | with_reducible apply State.ntsBoundary_keeps
    | with_reducible apply State.freshCerts_keeps
    | with_reducible apply State.gnBoundary_keeps
    | with_reducible apply State.burstBoundary_keeps
    | with_reducible apply State.updateGates_keeps
    | with_reducible apply Keeps.ite
    | (extract_lets +onlyGivenNames u; have hu : Keeps zz u := ?_; clear_value u)
    | (extract_lets +onlyGivenNames u; have hu : Keeps zz u.1 := ?_; clear_value u)
    | (extract_lets +onlyGivenNames u; have hu : Keeps zz u.2 := ?_; clear_value u)
    | (extract_lets +onlyGivenNames u; clear_value u)
    | dsimp only [u]
    | split

theorem State.newSecond_keeps {zz s : State} (h : Keeps zz s) : Keeps zz (State.newSecond s) := by
  unfold State.newSecond
  repeat' first
    | (intro _; intros; try dsimp -zeta only)
    | with_reducible exact Keeps.refl _
    | with_reducible assumption
    | with_reducible apply State.onTb_keeps
    | with_reducible apply State.flushEvents_keeps
    | with_reducible apply Keeps.ite
    | split

theorem State.warmOpens_keeps {zz s : State} (h : Keeps zz s) : Keeps zz (State.warmOpens s) := by
  unfold State.warmOpens
  repeat' first
    | (intro _; intros; try dsimp -zeta only)
    | with_reducible exact Keeps.refl _
    | with_reducible assumption
    | with_reducible apply State.onTb_keeps
    | with_reducible apply Keeps.ite
    | split

theorem State.boundary_keeps {zz s : State} (h : Keeps zz s) (b : BoundaryIn) : Keeps zz (State.boundary s b) := by
  unfold State.boundary
  repeat' first
    | (intro _; intros; try dsimp -zeta only)
    | with_reducible exact Keeps.refl _
    | with_reducible assumption
    | with_reducible apply State.carry_keeps
    | with_reducible apply State.dumpSecond_keeps
    | with_reducible apply State.replicas_keeps
    | with_reducible apply State.measureBoundary_keeps
    | with_reducible apply State.sourceBoundary_keeps
    | with_reducible apply State.serviceBoundary_keeps
    | with_reducible apply State.newSecond_keeps
    | with_reducible apply State.warmOpens_keeps
    | with_reducible apply Keeps.ite
    | (extract_lets +onlyGivenNames u; have hu : Keeps zz u := ?_; clear_value u)
    | (extract_lets +onlyGivenNames u; have hu : Keeps zz u.1 := ?_; clear_value u)
    | (extract_lets +onlyGivenNames u; have hu : Keeps zz u.2 := ?_; clear_value u)
    | (extract_lets +onlyGivenNames u; clear_value u)
    | dsimp only [u]
    | split

end Sys2Proof.Machine
end

