-- ==== Sys2Proof/Laws/Meanings.lean ====
section
/-! SUPPORT. Every meaning answers a next state, and keeps the queue and the canonical forms. -/
namespace Sys2Proof.Machine

theorem execSyncWordSend_keeps (s : State) : ∃ s1, execSyncWordSend s = .next s1 ∧ Keeps s s1 := ⟨_, rfl, State.syncSend_keeps (Keeps.refl s)⟩

theorem execTbIncrLoWrite_keeps (path : Path) (v : Nat) (s : State) : ∃ s1, execTbIncrLoWrite path v s = .next s1 ∧ Keeps s s1 := ⟨_, rfl, State.incrLo_keeps (Keeps.refl s) ..⟩

theorem execTbIncrHiCommit_keeps (path : Path) (v : Nat) (s : State) : ∃ s1, execTbIncrHiCommit path v s = .next s1 ∧ Keeps s s1 := ⟨_, rfl, State.incrHi_keeps (Keeps.refl s) ..⟩

theorem execIncrementTakeEffect_keeps (s : State) : ∃ s1, execIncrementTakeEffect s = .next s1 ∧ Keeps s s1 := ⟨_, rfl, State.incrEffect_keeps (Keeps.refl s)⟩

theorem execStepArm_keeps (path : Path) (s : State) : ∃ s1, execStepArm path s = .next s1 ∧ Keeps s s1 := ⟨_, rfl, State.stepArm_keeps (Keeps.refl s) ..⟩

theorem execStepCancel_keeps (path : Path) (s : State) : ∃ s1, execStepCancel path s = .next s1 ∧ Keeps s s1 := ⟨_, rfl, State.stepCancel_keeps (Keeps.refl s) ..⟩

theorem execTbCapture_keeps (s : State) : ∃ s1, execTbCapture s = .next s1 ∧ Keeps s s1 := ⟨_, rfl, State.capture_keeps (Keeps.refl s)⟩

theorem execAccSample_keeps (read : Option (List Byte)) (s : State) : ∃ s1, execAccSample read s = .next s1 ∧ Keeps s s1 := ⟨_, rfl, State.accSample_keeps (Keeps.refl s) ..⟩

theorem execGcompUpdate_keeps (s : State) : ∃ s1, execGcompUpdate s = .next s1 ∧ Keeps s s1 := ⟨_, rfl, State.gcompUpdate_keeps (Keeps.refl s)⟩

theorem execGcalStart_keeps (path : Path) (v : Nat) (s : State) : ∃ s1, execGcalStart path v s = .next s1 ∧ Keeps s s1 := ⟨_, rfl, State.gcalStart_keeps (Keeps.refl s) ..⟩

theorem execGcalRunEnd_keeps (xc : Int) (amp quality : Nat) (s : State) : ∃ s1, execGcalRunEnd xc amp quality s = .next s1 ∧ Keeps s s1 := ⟨_, rfl, State.gcalEnd_keeps (Keeps.refl s) ..⟩

theorem execEventQueuePop_keeps (k : Fin 8) (s : State) : ∃ s1, execEventQueuePop k s = .next s1 ∧ Keeps s s1 := ⟨_, rfl, State.queuePop_keeps (Keeps.refl s) ..⟩

theorem execIntervalResult_keeps (m : Fin 8) (s : State) : ∃ s1, execIntervalResult m s = .next s1 ∧ Keeps s s1 := ⟨_, rfl, State.intervalResult_keeps (Keeps.refl s) ..⟩

theorem execStatsWindowClose_keeps (e : Fin 40) (s : State) : ∃ s1, execStatsWindowClose e s = .next s1 ∧ Keeps s s1 := ⟨_, rfl, State.closeDue_keeps (Keeps.refl s) ..⟩

theorem execResultPublish_keeps (s : State) : ∃ s1, execResultPublish s = .next s1 ∧ Keeps s s1 := ⟨_, rfl, State.publishNext_keeps (Keeps.refl s)⟩

theorem execTdcCalPeriodDue_keeps (ch : Fin 32) (s : State) : ∃ s1, execTdcCalPeriodDue ch s = .next s1 ∧ Keeps s s1 := ⟨_, rfl, State.calPeriod_keeps (Keeps.refl s) ..⟩

theorem execTdcCalTempStep_keeps (temp : Int) (s : State) : ∃ s1, execTdcCalTempStep temp s = .next s1 ∧ Keeps s s1 := ⟨_, rfl, State.calTemp_keeps (Keeps.refl s) ..⟩

theorem execTdcCalRunall_keeps (s : State) : ∃ s1, execTdcCalRunall s = .next s1 ∧ Keeps s s1 := ⟨_, rfl, State.calRunAll_keeps (Keeps.refl s)⟩

theorem execTdcInitialCalDone_keeps (s : State) : ∃ s1, execTdcInitialCalDone s = .next s1 ∧ Keeps s s1 := ⟨_, rfl, State.initialCalDone_keeps (Keeps.refl s)⟩

theorem execCodeDensityDone_keeps (ch : Fin 32) (empty inlPeak : Nat) (s : State) : ∃ s1, execCodeDensityDone ch empty inlPeak s = .next s1 ∧ Keeps s s1 := ⟨_, rfl, State.codeDensity_keeps (Keeps.refl s) ..⟩

theorem execOffsetMatchDone_keeps (ch : Fin 32) (active spare : Int) (s : State) : ∃ s1, execOffsetMatchDone ch active spare s = .next s1 ∧ Keeps s s1 := ⟨_, rfl, State.offsetMatch_keeps (Keeps.refl s) ..⟩

theorem execOscInLoss_keeps (s : State) : ∃ s1, execOscInLoss s = .next s1 ∧ Keeps s s1 := ⟨_, rfl, State.oscLost_keeps (Keeps.refl s)⟩

theorem execOscInRestored_keeps (s : State) : ∃ s1, execOscInRestored s = .next s1 ∧ Keeps s s1 := ⟨_, rfl, State.oscRestored_keeps (Keeps.refl s)⟩

theorem execWarmWindowClose_keeps (y : Option Int) (s : State) : ∃ s1, execWarmWindowClose y s = .next s1 ∧ Keeps s s1 := ⟨_, rfl, State.warmWindow_keeps (Keeps.refl s) ..⟩

theorem execWarmminElapsed_keeps (s : State) : ∃ s1, execWarmminElapsed s = .next s1 ∧ Keeps s s1 := ⟨_, rfl, State.warmMin_keeps (Keeps.refl s)⟩

theorem execOcxoWarmChange_keeps (high : Bool) (s : State) : ∃ s1, execOcxoWarmChange high s = .next s1 ∧ Keeps s s1 := ⟨_, rfl, State.ocxoChange_keeps (Keeps.refl s) ..⟩

theorem execOcxoWarmLowTimeout_keeps (s : State) : ∃ s1, execOcxoWarmLowTimeout s = .next s1 ∧ Keeps s s1 := ⟨_, rfl, State.ocxoTimeout_keeps (Keeps.refl s)⟩

theorem execQ1ActivityFail_keeps (src : Fin 16) (s : State) : ∃ s1, execQ1ActivityFail src s = .next s1 ∧ Keeps s s1 := ⟨_, rfl, State.q1Fail_keeps (Keeps.refl s) ..⟩

theorem execSelection_keeps (s : State) : ∃ s1, execSelection s = .next s1 ∧ Keeps s s1 := ⟨_, rfl, State.select_keeps (Keeps.refl s)⟩

theorem execWtrElapsed_keeps (src : Fin 20) (s : State) : ∃ s1, execWtrElapsed src s = .next s1 ∧ Keeps s s1 := ⟨_, rfl, State.wtrElapsed_keeps (Keeps.refl s) ..⟩

theorem execSourceWindowClose_keeps (src : Fin 20) (s : State) : ∃ s1, execSourceWindowClose src s = .next s1 ∧ Keeps s s1 := ⟨_, rfl, State.sourceWindow_keeps (Keeps.refl s) ..⟩

theorem execZdaSentence_keeps (chars : List Byte) (s : State) : ∃ s1, execZdaSentence chars s = .next s1 ∧ Keeps s s1 := ⟨_, rfl, State.zda_keeps (Keeps.refl s) ..⟩

theorem execTdcEdge_keeps (ch : Fin 32) (rising : Bool) (bin : Fin 2048) (wait : Nat) (s : State) : ∃ s1, execTdcEdge ch rising bin wait s = .next s1 ∧ Keeps s s1 := ⟨_, rfl, State.edgeIn_keeps (Keeps.refl s) ..⟩

theorem execDpllLock_keeps (d : Fin 4) (phase freq : Int) (s : State) : ∃ s1, execDpllLock d phase freq s = .next s1 ∧ Keeps s s1 := ⟨_, rfl, State.dpllLock_keeps (Keeps.refl s) ..⟩

theorem execDpllLockLoss_keeps (d : Fin 4) (phase freq : Int) (s : State) : ∃ s1, execDpllLockLoss d phase freq s = .next s1 ∧ Keeps s s1 := ⟨_, rfl, State.dpllUnlock_keeps (Keeps.refl s) ..⟩

theorem execDpllFallback_keeps (d : Fin 4) (s : State) : ∃ s1, execDpllFallback d s = .next s1 ∧ Keeps s s1 := ⟨_, rfl, State.dpllFallback_keeps (Keeps.refl s) ..⟩

theorem execOutputEdge_keeps (n : Fin 16) (b : Nat) (s : State) : ∃ s1, execOutputEdge n b s = .next s1 ∧ Keeps s s1 := ⟨_, rfl, State.outEdge_keeps (Keeps.refl s) ..⟩

theorem execOutAlign_keeps (mask : Nat) (s : State) : ∃ s1, execOutAlign mask s = .next s1 ∧ Keeps s s1 := ⟨_, rfl, State.outAlign_keeps (Keeps.refl s) ..⟩

theorem execTodMessageSend_keeps (k : Fin 2) (s : State) : ∃ s1, execTodMessageSend k s = .next s1 ∧ Keeps s s1 := ⟨_, rfl, State.todSend_keeps (Keeps.refl s) ..⟩

theorem execTsqPop_keeps (p : Fin 32) (s : State) : ∃ s1, execTsqPop p s = .next s1 ∧ Keeps s s1 := ⟨_, rfl, State.tsPop_keeps (Keeps.refl s) ..⟩

theorem execLinkSignalDetect_keeps (p : Fin 32) (s : State) : ∃ s1, execLinkSignalDetect p s = .next s1 ∧ Keeps s s1 := ⟨_, rfl, State.signalDetect_keeps (Keeps.refl s) ..⟩

theorem execRemoteFaultChange_keeps (p : Fin 32) (on : Bool) (s : State) : ∃ s1, execRemoteFaultChange p on s = .next s1 ∧ Keeps s s1 := ⟨_, rfl, State.remoteFault_keeps (Keeps.refl s) ..⟩

theorem execQuadInitRetry_keeps (q : Fin 4) (lock refclk : Bool) (s : State) : ∃ s1, execQuadInitRetry q lock refclk s = .next s1 ∧ Keeps s s1 := ⟨_, rfl, State.quadRetry_keeps (Keeps.refl s) ..⟩

theorem execQuadFaultClear_keeps (q : Fin 4) (s : State) : ∃ s1, execQuadFaultClear q s = .next s1 ∧ Keeps s s1 := ⟨_, rfl, State.quadClear_keeps (Keeps.refl s) ..⟩

theorem execMacCounterRead_keeps (p : Fin 32) (c : Fin 48) (s : State) : ∃ s1, execMacCounterRead p c s = .next s1 ∧ Keeps s s1 := by
  refine ⟨_, rfl, ?_⟩
  repeat first
    | with_reducible exact Keeps.refl _
    | with_reducible assumption
    | (intro _; intros; try dsimp -zeta only)
    | with_reducible apply State.portNow_keeps
    | with_reducible apply State.readCounter_keeps
    | with_reducible apply Keeps.ite

theorem execPauseExpire_keeps (p : Fin 32) (s : State) : ∃ s1, execPauseExpire p s = .next s1 ∧ Keeps s s1 := ⟨_, rfl, State.pauseOver_keeps (Keeps.refl s) ..⟩

theorem execRxFrame_keeps (p : Fin 32) (f : RxIn) (s : State) : ∃ s1, execRxFrame p f s = .next s1 ∧ Keeps s s1 := ⟨_, rfl, State.rxFrame_keeps (Keeps.refl s) ..⟩

theorem execMacThrrst_keeps (p : Fin 32) (s : State) : ∃ s1, execMacThrrst p s = .next s1 ∧ Keeps s s1 := ⟨_, rfl, State.thrReset_keeps (Keeps.refl s) ..⟩

theorem execRxLpi_keeps (p : Fin 32) (enter : Bool) (s : State) : ∃ s1, execRxLpi p enter s = .next s1 ∧ Keeps s s1 := ⟨_, rfl, State.rxLpi_keeps (Keeps.refl s) ..⟩

theorem execTxQueueAccept_keeps (src : Fin 33) (p : Fin 32) (s : State) : ∃ s1, execTxQueueAccept src p s = .next s1 ∧ Keeps s s1 := ⟨_, rfl, State.queueAccept_keeps (Keeps.refl s) ..⟩

theorem execReservedCommit_keeps (p : Fin 32) (s : State) : ∃ s1, execReservedCommit p s = .next s1 ∧ Keeps s s1 := ⟨_, rfl, State.resvCommit_keeps (Keeps.refl s) ..⟩

theorem execTxCommit_keeps (p : Fin 32) (b : TxBlock) (s : State) : ∃ s1, execTxCommit p b s = .next s1 ∧ Keeps s s1 := ⟨_, rfl, State.txCommit_keeps (Keeps.refl s) ..⟩

theorem execTxLinkdownDiscard_keeps (p : Fin 32) (tq : Fin 8) (s : State) : ∃ s1, execTxLinkdownDiscard p tq s = .next s1 ∧ Keeps s s1 := ⟨_, rfl, State.linkDiscard_keeps (Keeps.refl s) ..⟩

theorem execStartBlockLaunch_keeps (p : Fin 32) (s : State) : ∃ s1, execStartBlockLaunch p s = .next s1 ∧ Keeps s s1 := ⟨_, rfl, State.launchFrame_keeps (Keeps.refl s) ..⟩

theorem execTxUnderrun_keeps (p : Fin 32) (sent : Nat) (s : State) : ∃ s1, execTxUnderrun p sent s = .next s1 ∧ Keeps s s1 := ⟨_, rfl, State.underrun_keeps (Keeps.refl s) ..⟩

theorem execCollectorTransfer_keeps (src : Fin 33) (p : Fin 32) (s : State) : ∃ s1, execCollectorTransfer src p s = .next s1 ∧ Keeps s s1 := ⟨_, rfl, State.transfer64_keeps (Keeps.refl s) ..⟩

theorem execAuditResult_keeps (mark : Nat) (s : State) : ∃ s1, execAuditResult mark s = .next s1 ∧ Keeps s s1 := ⟨_, rfl, State.auditResult_keeps (Keeps.refl s) ..⟩

theorem execAuditClear_keeps (s : State) : ∃ s1, execAuditClear s = .next s1 ∧ Keeps s s1 := ⟨_, rfl, State.auditClear_keeps (Keeps.refl s)⟩

theorem execDispatch_keeps (k : Fin 6) (s : State) : ∃ s1, execDispatch k s = .next s1 ∧ Keeps s s1 := ⟨_, rfl, State.dispatch_keeps (Keeps.refl s) ..⟩

theorem execEngineSteal_keeps (g : Eng) (s : State) : ∃ s1, execEngineSteal g s = .next s1 ∧ Keeps s s1 := ⟨_, rfl, State.steal_keeps (Keeps.refl s) ..⟩

theorem execRequestStart_keeps (g : Eng) (s : State) : ∃ s1, execRequestStart g s = .next s1 ∧ Keeps s s1 := ⟨_, rfl, State.requestStart_keeps (Keeps.refl s) ..⟩

theorem execCheckResponse_keeps (g : Eng) (ok : Bool) (s : State) : ∃ s1, execCheckResponse g ok s = .next s1 ∧ Keeps s s1 := by
  refine ⟨_, rfl, ?_⟩
  repeat first
    | with_reducible exact Keeps.refl _
    | with_reducible assumption
    | (intro _; intros; try dsimp -zeta only)
    | with_reducible apply State.ran_keeps
    | with_reducible apply State.check_keeps
    | with_reducible apply Keeps.ite

theorem execReservedClassExecute_keeps (g : Eng) (s : State) : ∃ s1, execReservedClassExecute g s = .next s1 ∧ Keeps s s1 := ⟨_, rfl, State.checkFailed_keeps (Keeps.refl s) ..⟩

theorem execRetireCluster_keeps (c : Fin 32) (s : State) : ∃ s1, execRetireCluster c s = .next s1 ∧ Keeps s s1 := ⟨_, rfl, State.retireCluster_keeps (Keeps.refl s) ..⟩

theorem execRestoreCluster_keeps (c : Fin 32) (s : State) : ∃ s1, execRestoreCluster c s = .next s1 ∧ Keeps s s1 := ⟨_, rfl, State.restoreCluster_keeps (Keeps.refl s) ..⟩

theorem execRetireEngine_keeps (c : Fin 32) (e : Fin 64) (s : State) : ∃ s1, execRetireEngine c e s = .next s1 ∧ Keeps s s1 := ⟨_, rfl, State.retireEngine_keeps (Keeps.refl s) ..⟩

theorem execRestoreEngine_keeps (c : Fin 32) (e : Fin 64) (s : State) : ∃ s1, execRestoreEngine c e s = .next s1 ∧ Keeps s s1 := ⟨_, rfl, State.restoreEngine_keeps (Keeps.refl s) ..⟩

theorem execClusterDrainEnd_keeps (c : Fin 32) (s : State) : ∃ s1, execClusterDrainEnd c s = .next s1 ∧ Keeps s s1 := ⟨_, rfl, State.drainEnd_keeps (Keeps.refl s) ..⟩

theorem execAluRegister_keeps (g : Eng) (op : AluOp) (rd ra rb : Fin 64) (s : State) : ∃ s1, execAluRegister g op rd ra rb s = .next s1 ∧ Keeps s s1 := by
  refine ⟨_, rfl, ?_⟩
  repeat first
    | with_reducible exact Keeps.refl _
    | with_reducible assumption
    | (intro _; intros; try dsimp -zeta only)
    | with_reducible apply State.ran_keeps
    | with_reducible apply State.aluRegister_keeps
    | with_reducible apply Keeps.ite

theorem execAluImmediate_keeps (g : Eng) (op : AluOp) (rd ra : Fin 64) (imm : BitVec 16) (s : State) : ∃ s1, execAluImmediate g op rd ra imm s = .next s1 ∧ Keeps s s1 := by
  refine ⟨_, rfl, ?_⟩
  repeat first
    | with_reducible exact Keeps.refl _
    | with_reducible assumption
    | (intro _; intros; try dsimp -zeta only)
    | with_reducible apply State.ran_keeps
    | with_reducible apply State.aluImmediate_keeps
    | with_reducible apply Keeps.ite

theorem execBranchTo_keeps (g : Eng) (cond : Bool) (target : Fin 16384) (s : State) : ∃ s1, execBranchTo g cond target s = .next s1 ∧ Keeps s s1 := by
  refine ⟨_, rfl, ?_⟩
  repeat first
    | with_reducible exact Keeps.refl _
    | with_reducible assumption
    | (intro _; intros; try dsimp -zeta only)
    | with_reducible apply State.ran_keeps
    | with_reducible apply State.branch_keeps
    | with_reducible apply Keeps.ite

theorem execWindowLoadStore_keeps (g : Eng) (store : Bool) (r : Fin 64) (ofs : Fin 256) (n : Fin 9) (s : State) : ∃ s1, execWindowLoadStore g store r ofs n s = .next s1 ∧ Keeps s s1 := by
  refine ⟨_, rfl, ?_⟩
  repeat first
    | with_reducible exact Keeps.refl _
    | with_reducible assumption
    | (intro _; intros; try dsimp -zeta only)
    | with_reducible apply State.ran_keeps
    | with_reducible apply State.window_keeps
    | with_reducible apply Keeps.ite

theorem execStreamChunk_keeps (g : Eng) (out : Option (List Byte)) (s : State) : ∃ s1, execStreamChunk g out s = .next s1 ∧ Keeps s s1 := by
  refine ⟨_, rfl, ?_⟩
  repeat first
    | with_reducible exact Keeps.refl _
    | with_reducible assumption
    | (intro _; intros; try dsimp -zeta only)
    | with_reducible apply State.ran_keeps
    | with_reducible apply State.stream_keeps
    | with_reducible apply Keeps.ite

theorem execUnitWait_keeps (g : Eng) (u : Fin 12) (rd : Fin 64) (s : State) : ∃ s1, execUnitWait g u rd s = .next s1 ∧ Keeps s s1 := ⟨_, rfl, State.unitWait_keeps (Keeps.refl s) ..⟩

theorem execEmitFrame_keeps (g : Eng) (p : Fin 32) (cls : Fin 8) (d : TxDesc) (s : State) : ∃ s1, execEmitFrame g p cls d s = .next s1 ∧ Keeps s s1 := ⟨_, rfl, State.emitTo_keeps (Keeps.refl s) ..⟩

theorem execEndRoutine_keeps (g : Eng) (s : State) : ∃ s1, execEndRoutine g s = .next s1 ∧ Keeps s s1 := by
  refine ⟨_, rfl, ?_⟩
  repeat first
    | with_reducible exact Keeps.refl _
    | with_reducible assumption
    | (intro _; intros; try dsimp -zeta only)
    | with_reducible apply State.ran_keeps
    | with_reducible apply State.finish_keeps
    | with_reducible apply Keeps.ite

theorem execDropRequest_keeps (g : Eng) (s : State) : ∃ s1, execDropRequest g s = .next s1 ∧ Keeps s s1 := by
  refine ⟨_, rfl, ?_⟩
  repeat first
    | with_reducible exact Keeps.refl _
    | with_reducible assumption
    | (intro _; intros; try dsimp -zeta only)
    | with_reducible apply State.ran_keeps
    | with_reducible apply State.dropReq_keeps
    | with_reducible apply Keeps.ite

theorem execAesCall_keeps (g : Eng) (op : AesOp) (slot : Nat) (ad : List (List Byte)) (data : List Byte) (s : State) : ∃ s1, execAesCall g op slot ad data s = .next s1 ∧ Keeps s s1 := ⟨_, rfl, State.aesCall_keeps (Keeps.refl s) ..⟩

theorem execSha2Call_keeps (g : Eng) (op : ShaOp) (key data : List Byte) (s : State) : ∃ s1, execSha2Call g op key data s = .next s1 ∧ Keeps s s1 := ⟨_, rfl, State.shaCall_keeps (Keeps.refl s) ..⟩

theorem execTqrRead_keeps (g : Eng) (s : State) : ∃ s1, execTqrRead g s = .next s1 ∧ Keeps s s1 := ⟨_, rfl, State.tqrRead_keeps (Keeps.refl s) ..⟩

theorem execRandomCall_keeps (g : Eng) (bits : Nat) (s : State) : ∃ s1, execRandomCall g bits s = .next s1 ∧ Keeps s s1 := ⟨_, rfl, State.randomUnit_keeps (Keeps.refl s) ..⟩

theorem execReservationRequest_keeps (g : Eng) (p : Fin 32) (len : Nat) (_cls : Fin 8) (phase : Nat) (s : State) : ∃ s1, execReservationRequest g p len _cls phase s = .next s1 ∧ Keeps s s1 := ⟨_, rfl, State.reservationCall_keeps (Keeps.refl s) ..⟩

theorem execAssocRead_keeps (g : Eng) (n : Nat) (ecc : Ecc) (s : State) : ∃ s1, execAssocRead g n ecc s = .next s1 ∧ Keeps s s1 := ⟨_, rfl, State.assocRead_keeps (Keeps.refl s) ..⟩

theorem execAssocWrite_keeps (g : Eng) (n : Nat) (data : List Byte) (ecc : Ecc) (s : State) : ∃ s1, execAssocWrite g n data ecc s = .next s1 ∧ Keeps s s1 := ⟨_, rfl, State.assocWrite_keeps (Keeps.refl s) ..⟩

theorem execCas64_keeps (g : Eng) (n : Nat) (w : Fin 4) (old new : Nat) (ecc : Ecc) (s : State) : ∃ s1, execCas64 g n w old new ecc s = .next s1 ∧ Keeps s s1 := ⟨_, rfl, State.cas64_keeps (Keeps.refl s) ..⟩

theorem execAdd64_keeps (g : Eng) (n : Nat) (w : Fin 4) (d : Nat) (ecc : Ecc) (s : State) : ∃ s1, execAdd64 g n w d ecc s = .next s1 ∧ Keeps s s1 := ⟨_, rfl, State.add64_keeps (Keeps.refl s) ..⟩

theorem execDirtySwap_keeps (s : State) : ∃ s1, execDirtySwap s = .next s1 ∧ Keeps s s1 := ⟨_, rfl, State.dirtySwap_keeps (Keeps.refl s)⟩

theorem execAssocWindowWrite_keeps (addr : Nat) (s : State) : ∃ s1, execAssocWindowWrite addr s = .next s1 ∧ Keeps s s1 := ⟨_, rfl, State.windowWrite_keeps (Keeps.refl s) ..⟩

theorem execRateCall_keeps (g : Eng) (key w : Nat) (ecc : Ecc) (s : State) : ∃ s1, execRateCall g key w ecc s = .next s1 ∧ Keeps s s1 := ⟨_, rfl, State.rateCall_keeps (Keeps.refl s) ..⟩

theorem execRateEpochAdvance_keeps (s : State) : ∃ s1, execRateEpochAdvance s = .next s1 ∧ Keeps s s1 := ⟨_, rfl, State.epochAdvance_keeps (Keeps.refl s)⟩

theorem execSketchScrub_keeps (row : Fin 4) (i : Fin 524288) (s : State) : ∃ s1, execSketchScrub row i s = .next s1 ∧ Keeps s s1 := ⟨_, rfl, State.scrub_keeps (Keeps.refl s) ..⟩

theorem execOccupancyWindow_keeps (occ : List Nat) (s : State) : ∃ s1, execOccupancyWindow occ s = .next s1 ∧ Keeps s s1 := ⟨_, rfl, State.occupancy_keeps (Keeps.refl s) ..⟩

theorem execLpiNegotiated_keeps (p : Fin 32) (tw : Nat) (s : State) : ∃ s1, execLpiNegotiated p tw s = .next s1 ∧ Keeps s s1 := by
  refine ⟨_, rfl, ?_⟩
  repeat first
    | with_reducible exact Keeps.refl _
    | with_reducible assumption
    | (intro _; intros; try dsimp -zeta only)
    | with_reducible apply State.lpiNegotiated_keeps
    | with_reducible apply State.lldpSend_keeps
    | with_reducible apply Keeps.ite

theorem execNtpRequest_keeps (g : Eng) (ecc : Ecc) (s : State) : ∃ s1, execNtpRequest g ecc s = .next s1 ∧ Keeps s s1 := ⟨_, rfl, State.ntpRequest_keeps (Keeps.refl s) ..⟩

theorem execKeyGenerationDraw_keeps (s : State) : ∃ s1, execKeyGenerationDraw s = .next s1 ∧ Keeps s s1 := ⟨_, rfl, State.genDraw_keeps (Keeps.refl s)⟩

theorem execKeyGenerationCurrent_keeps (s : State) : ∃ s1, execKeyGenerationCurrent s = .next s1 ∧ Keeps s s1 := ⟨_, rfl, State.genCurrent_keeps (Keeps.refl s)⟩

theorem execNtsRotate_keeps (s : State) : ∃ s1, execNtsRotate s = .next s1 ∧ Keeps s s1 := ⟨_, rfl, State.ntsRotate_keeps (Keeps.refl s)⟩

theorem execKeyLoad_keeps (g : Eng) (gen slot : Nat) (s : State) : ∃ s1, execKeyLoad g gen slot s = .next s1 ∧ Keeps s s1 := ⟨_, rfl, State.keyLoad_keeps (Keeps.refl s) ..⟩

theorem execNtsRequest_keeps (g : Eng) (ecc : Ecc) (phase : Nat) (s : State) : ∃ s1, execNtsRequest g ecc phase s = .next s1 ∧ Keeps s s1 := ⟨_, rfl, State.ntsRequest_keeps (Keeps.refl s) ..⟩

theorem execNtsKeSyn_keeps (p : Fin 32) (x : KeSyn) (s : State) : ∃ s1, execNtsKeSyn p x s = .next s1 ∧ Keeps s s1 := ⟨_, rfl, State.keSyn_keeps (Keeps.refl s) ..⟩

theorem execClientHello_keeps (conn : Nat) (h : Hello) (s : State) : ∃ s1, execClientHello conn h s = .next s1 ∧ Keeps s s1 := ⟨_, rfl, State.clientHello_keeps (Keeps.refl s) ..⟩

theorem execNtsKeRequest_keeps (conn : Nat) (records c2s s2c : List Byte) (ok : Bool) (s : State) : ∃ s1, execNtsKeRequest conn records c2s s2c ok s = .next s1 ∧ Keeps s s1 := ⟨_, rfl, State.keRequest_keeps (Keeps.refl s) ..⟩

theorem execNtsKeTimeout_keeps (conn : Nat) (s : State) : ∃ s1, execNtsKeTimeout conn s = .next s1 ∧ Keeps s s1 := ⟨_, rfl, State.keTimeout_keeps (Keeps.refl s) ..⟩

theorem execCertExpiryCheck_keeps (s : State) : ∃ s1, execCertExpiryCheck s = .next s1 ∧ Keeps s s1 := ⟨_, rfl, State.certCheck_keeps (Keeps.refl s)⟩

theorem execLinkUp_keeps (p : Fin 32) (s : State) : ∃ s1, execLinkUp p s = .next s1 ∧ Keeps s s1 := ⟨_, rfl, State.linkUp_keeps (Keeps.refl s) ..⟩

theorem execLinkDown_keeps (p : Fin 32) (reason : Fin 4) (s : State) : ∃ s1, execLinkDown p reason s = .next s1 ∧ Keeps s s1 := ⟨_, rfl, State.linkDown_keeps (Keeps.refl s) ..⟩

theorem execQuadFault_keeps (q cause : Fin 4) (s : State) : ∃ s1, execQuadFault q cause s = .next s1 ∧ Keeps s s1 := by
  refine ⟨_, rfl, ?_⟩
  repeat first
    | with_reducible exact Keeps.refl _
    | with_reducible assumption
    | (intro _; intros; try dsimp -zeta only)
    | with_reducible apply State.quadFault_keeps
    | with_reducible apply Keeps.forEach
    | with_reducible apply State.ptpEval_keeps
    | with_reducible apply Keeps.ite

theorem execDelayReqRx_keeps (g : Eng) (s : State) : ∃ s1, execDelayReqRx g s = .next s1 ∧ Keeps s s1 := ⟨_, rfl, State.delayReq_keeps (Keeps.refl s) ..⟩

theorem execPdelayReqRx_keeps (g : Eng) (s : State) : ∃ s1, execPdelayReqRx g s = .next s1 ∧ Keeps s s1 := ⟨_, rfl, State.pdelayReq_keeps (Keeps.refl s) ..⟩

theorem execPdelayRespRx_keeps (g : Eng) (s : State) : ∃ s1, execPdelayRespRx g s = .next s1 ∧ Keeps s s1 := ⟨_, rfl, State.pdelayResp_keeps (Keeps.refl s) ..⟩

theorem execPdelayReqSend_keeps (p : Fin 32) (phase : Nat) (s : State) : ∃ s1, execPdelayReqSend p phase s = .next s1 ∧ Keeps s s1 := ⟨_, rfl, State.pdelaySend_keeps (Keeps.refl s) ..⟩

theorem execAnnounceRx_keeps (g : Eng) (s : State) : ∃ s1, execAnnounceRx g s = .next s1 ∧ Keeps s s1 := ⟨_, rfl, State.announceRx_keeps (Keeps.refl s) ..⟩

theorem execAnnounceReceiptTimeout_keeps (p : Fin 32) (s : State) : ∃ s1, execAnnounceReceiptTimeout p s = .next s1 ∧ Keeps s s1 := ⟨_, rfl, State.announceTimeout_keeps (Keeps.refl s) ..⟩

theorem execSignalingRx_keeps (g : Eng) (ecc : Ecc) (s : State) : ∃ s1, execSignalingRx g ecc s = .next s1 ∧ Keeps s s1 := ⟨_, rfl, State.signaling_keeps (Keeps.refl s) ..⟩

theorem execGrantExpire_keeps (n : Fin 1048576) (s : State) : ∃ s1, execGrantExpire n s = .next s1 ∧ Keeps s s1 := ⟨_, rfl, State.grantExpire_keeps (Keeps.refl s) ..⟩

theorem execCalendarIssue_keeps (mcast : Bool) (n : Fin 1048576) (ann : Bool) (t : Nat) (s : State) : ∃ s1, execCalendarIssue mcast n ann t s = .next s1 ∧ Keeps s s1 := ⟨_, rfl, State.calIssue_keeps (Keeps.refl s) ..⟩

theorem execCalendarMessage_keeps (g : Eng) (s : State) : ∃ s1, execCalendarMessage g s = .next s1 ∧ Keeps s s1 := ⟨_, rfl, State.calMessage_keeps (Keeps.refl s) ..⟩

theorem execLpiEnter_keeps (p : Fin 32) (s : State) : ∃ s1, execLpiEnter p s = .next s1 ∧ Keeps s s1 := ⟨_, rfl, State.lpiEnter_keeps (Keeps.refl s) ..⟩

theorem execSyncRx_keeps (g : Eng) (s : State) : ∃ s1, execSyncRx g s = .next s1 ∧ Keeps s s1 := ⟨_, rfl, State.syncRx_keeps (Keeps.refl s) ..⟩

theorem execFollowUpRx_keeps (g : Eng) (s : State) : ∃ s1, execFollowUpRx g s = .next s1 ∧ Keeps s s1 := ⟨_, rfl, State.followUpRx_keeps (Keeps.refl s) ..⟩

theorem execDelayRespRx_keeps (g : Eng) (s : State) : ∃ s1, execDelayRespRx g s = .next s1 ∧ Keeps s s1 := ⟨_, rfl, State.delayRespRx_keeps (Keeps.refl s) ..⟩

theorem execPtpinDelayReqSend_keeps (phase : Nat) (s : State) : ∃ s1, execPtpinDelayReqSend phase s = .next s1 ∧ Keeps s s1 := ⟨_, rfl, State.ptpinSend_keeps (Keeps.refl s) ..⟩

theorem execPtpinGrantRenew_keeps (s : State) : ∃ s1, execPtpinGrantRenew s = .next s1 ∧ Keeps s s1 := ⟨_, rfl, State.ptpinRenew_keeps (Keeps.refl s)⟩

theorem execDumpBoundary_keeps (s : State) : ∃ s1, execDumpBoundary s = .next s1 ∧ Keeps s s1 := ⟨_, rfl, State.dumpBoundary_keeps (Keeps.refl s)⟩

theorem execDumpRecordPublish_keeps (s : State) : ∃ s1, execDumpRecordPublish s = .next s1 ∧ Keeps s s1 := ⟨_, rfl, State.dumpPublish_keeps (Keeps.refl s)⟩

theorem execPerfSelWrite_keeps (path : Path) (addr v : Nat) (s : State) : ∃ s1, execPerfSelWrite path addr v s = .next s1 ∧ Keeps s s1 := ⟨_, rfl, State.perfSelWrite_keeps (Keeps.refl s) ..⟩

theorem execSampleRecord_keeps (g : Eng) (low : Fin 16) (s : State) : ∃ s1, execSampleRecord g low s = .next s1 ∧ Keeps s s1 := ⟨_, rfl, State.sampleRecord_keeps (Keeps.refl s) ..⟩

theorem execSampleCollect_keeps (t : Fin 4) (s : State) : ∃ s1, execSampleCollect t s = .next s1 ∧ Keeps s s1 := ⟨_, rfl, State.sampleCollect_keeps (Keeps.refl s) ..⟩

theorem execBistStart_keeps (path : Path) (u : Fin 128) (port : Option (Fin 32)) (s : State) : ∃ s1, execBistStart path u port s = .next s1 ∧ Keeps s s1 := ⟨_, rfl, State.bistStart_keeps (Keeps.refl s) ..⟩

theorem execBistStop_keeps (u : Fin 128) (s : State) : ∃ s1, execBistStop u s = .next s1 ∧ Keeps s s1 := ⟨_, rfl, State.bistStop_keeps (Keeps.refl s) ..⟩

theorem execBistTestEnd_keeps (gated : Bool) (count sig0 sig1 : Nat) (s : State) : ∃ s1, execBistTestEnd gated count sig0 sig1 s = .next s1 ∧ Keeps s s1 := ⟨_, rfl, State.bistEnd_keeps (Keeps.refl s) ..⟩

theorem execFatalError_keeps (code : FatalCode) (s : State) : ∃ s1, execFatalError code s = .next s1 ∧ Keeps s s1 := ⟨_, rfl, State.fatal_keeps (Keeps.refl s) ..⟩

theorem execD2dLinkLoss_keeps (s : State) : ∃ s1, execD2dLinkLoss s = .next s1 ∧ Keeps s s1 := ⟨_, rfl, State.d2dLoss_keeps (Keeps.refl s)⟩

theorem execD2dRetrainTimeout_keeps (s : State) : ∃ s1, execD2dRetrainTimeout s = .next s1 ∧ Keeps s s1 := ⟨_, rfl, State.d2dTimeout_keeps (Keeps.refl s)⟩

theorem execD2dLinkRetrain_keeps (s : State) : ∃ s1, execD2dLinkRetrain s = .next s1 ∧ Keeps s s1 := ⟨_, rfl, State.d2dRetrain_keeps (Keeps.refl s)⟩

theorem execMasterCopyResync_keeps (m0 m1 m2 : Nat) (s : State) : ∃ s1, execMasterCopyResync m0 m1 m2 s = .next s1 ∧ Keeps s s1 := ⟨_, rfl, State.copyUpset_keeps (Keeps.refl s) ..⟩

theorem execModeEvaluation_keeps (s : State) : ∃ s1, execModeEvaluation s = .next s1 ∧ Keeps s s1 := ⟨_, rfl, State.evalModes_keeps (Keeps.refl s)⟩

theorem execEnterMaint_keeps (path : Path) (s : State) : ∃ s1, execEnterMaint path s = .next s1 ∧ Keeps s s1 := ⟨_, rfl, State.enterMaint_keeps (Keeps.refl s)⟩

theorem execExitMaint_keeps (path : Path) (s : State) : ∃ s1, execExitMaint path s = .next s1 ∧ Keeps s s1 := ⟨_, rfl, State.exitMaint_keeps (Keeps.refl s)⟩

theorem execJtagBypass_keeps (s : State) : ∃ s1, execJtagBypass s = .next s1 ∧ Keeps s s1 := ⟨_, rfl, State.tap_keeps (Keeps.refl s) ..⟩

theorem execJtagIdcode_keeps (s : State) : ∃ s1, execJtagIdcode s = .next s1 ∧ Keeps s s1 := ⟨_, rfl, State.tap_keeps (Keeps.refl s) ..⟩

theorem execJtagSamplePreload_keeps (cells : List Bool) (s : State) : ∃ s1, execJtagSamplePreload cells s = .next s1 ∧ Keeps s s1 := ⟨_, rfl, State.tapPreload_keeps (Keeps.refl s) ..⟩

theorem execJtagExtest_keeps (s : State) : ∃ s1, execJtagExtest s = .next s1 ∧ Keeps s s1 := ⟨_, rfl, State.tapDrive_keeps (Keeps.refl s) ..⟩

theorem execJtagClamp_keeps (s : State) : ∃ s1, execJtagClamp s = .next s1 ∧ Keeps s s1 := ⟨_, rfl, State.tapDrive_keeps (Keeps.refl s) ..⟩

theorem execJtagHighz_keeps (s : State) : ∃ s1, execJtagHighz s = .next s1 ∧ Keeps s s1 := ⟨_, rfl, State.tapDrive_keeps (Keeps.refl s) ..⟩

theorem execArpRequest_keeps (g : Eng) (s : State) : ∃ s1, execArpRequest g s = .next s1 ∧ Keeps s s1 := ⟨_, rfl, State.arpRequest_keeps (Keeps.refl s) ..⟩

theorem execNeighborSolicitation_keeps (g : Eng) (s : State) : ∃ s1, execNeighborSolicitation g s = .next s1 ∧ Keeps s s1 := ⟨_, rfl, State.neighborSolicitation_keeps (Keeps.refl s) ..⟩

theorem execIcmpEcho_keeps (g : Eng) (s : State) : ∃ s1, execIcmpEcho g s = .next s1 ∧ Keeps s s1 := ⟨_, rfl, State.icmpEcho_keeps (Keeps.refl s) ..⟩

theorem execVaddrAnnounce_keeps (s : State) : ∃ s1, execVaddrAnnounce s = .next s1 ∧ Keeps s s1 := ⟨_, rfl, State.vaddrAnnounce_keeps (Keeps.refl s)⟩

theorem execPathSilent_keeps (path : Fin 3) (s : State) : ∃ s1, execPathSilent path s = .next s1 ∧ Keeps s s1 := ⟨_, rfl, State.pathSilent_keeps (Keeps.refl s) ..⟩

theorem execAdernLaneAlign_keeps (lane : Fin 2) (s : State) : ∃ s1, execAdernLaneAlign lane s = .next s1 ∧ Keeps s s1 := ⟨_, rfl, State.laneSet_keeps (Keeps.refl s) ..⟩

theorem execAdernLaneLoss_keeps (lane : Fin 2) (s : State) : ∃ s1, execAdernLaneLoss lane s = .next s1 ∧ Keeps s s1 := ⟨_, rfl, State.laneSet_keeps (Keeps.refl s) ..⟩

theorem execHelloRx_keeps (inband : Bool) (msg : List Byte) (ago : Nat) (s : State) : ∃ s1, execHelloRx inband msg ago s = .next s1 ∧ Keeps s s1 := ⟨_, rfl, State.helloRx_keeps (Keeps.refl s) ..⟩

theorem execStatusRx_keeps (inband : Bool) (msg : List Byte) (ago : Nat) (s : State) : ∃ s1, execStatusRx inband msg ago s = .next s1 ∧ Keeps s s1 := ⟨_, rfl, State.statusRx_keeps (Keeps.refl s) ..⟩

theorem execRenewRx_keeps (inband : Bool) (msg : List Byte) (ago : Nat) (s : State) : ∃ s1, execRenewRx inband msg ago s = .next s1 ∧ Keeps s s1 := ⟨_, rfl, State.renewRx_keeps (Keeps.refl s) ..⟩

theorem execAckRx_keeps (inband : Bool) (msg : List Byte) (ago : Nat) (s : State) : ∃ s1, execAckRx inband msg ago s = .next s1 ∧ Keeps s s1 := ⟨_, rfl, State.ackRx_keeps (Keeps.refl s) ..⟩

theorem execClaimRx_keeps (inband : Bool) (msg : List Byte) (ago : Nat) (s : State) : ∃ s1, execClaimRx inband msg ago s = .next s1 ∧ Keeps s s1 := ⟨_, rfl, State.claimRx_keeps (Keeps.refl s) ..⟩

theorem execReleaseRx_keeps (inband : Bool) (msg : List Byte) (ago : Nat) (s : State) : ∃ s1, execReleaseRx inband msg ago s = .next s1 ∧ Keeps s s1 := ⟨_, rfl, State.releaseRx_keeps (Keeps.refl s) ..⟩

theorem execNakRx_keeps (inband : Bool) (msg : List Byte) (ago : Nat) (s : State) : ∃ s1, execNakRx inband msg ago s = .next s1 ∧ Keeps s s1 := ⟨_, rfl, State.nakRx_keeps (Keeps.refl s) ..⟩

theorem execHeartbeatPulseRx_keeps (width : Nat) (s : State) : ∃ s1, execHeartbeatPulseRx width s = .next s1 ∧ Keeps s s1 := ⟨_, rfl, State.pulseRx_keeps (Keeps.refl s) ..⟩

theorem execHeartbeatEmit_keeps (s : State) : ∃ s1, execHeartbeatEmit s = .next s1 ∧ Keeps s s1 := ⟨_, rfl, State.heartbeat_keeps (Keeps.refl s)⟩

theorem execHelloSend_keeps (s : State) : ∃ s1, execHelloSend s = .next s1 ∧ Keeps s s1 := ⟨_, rfl, State.helloSend_keeps (Keeps.refl s)⟩

theorem execStatusSend_keeps (s : State) : ∃ s1, execStatusSend s = .next s1 ∧ Keeps s s1 := ⟨_, rfl, State.statusSend_keeps (Keeps.refl s)⟩

theorem execClaimSend_keeps (s : State) : ∃ s1, execClaimSend s = .next s1 ∧ Keeps s s1 := ⟨_, rfl, State.claimSend_keeps (Keeps.refl s)⟩

theorem execReleaseRepeat_keeps (s : State) : ∃ s1, execReleaseRepeat s = .next s1 ∧ Keeps s s1 := ⟨_, rfl, State.releaseRepeat_keeps (Keeps.refl s)⟩

theorem execRenewalPoint_keeps (s : State) : ∃ s1, execRenewalPoint s = .next s1 ∧ Keeps s s1 := ⟨_, rfl, State.renewalPoint_keeps (Keeps.refl s)⟩

theorem execLeaseExpiry_keeps (s : State) : ∃ s1, execLeaseExpiry s = .next s1 ∧ Keeps s s1 := ⟨_, rfl, State.leaseExpiry_keeps (Keeps.refl s)⟩

theorem execListenHoldoffEnd_keeps (s : State) : ∃ s1, execListenHoldoffEnd s = .next s1 ∧ Keeps s s1 := ⟨_, rfl, State.listenOver_keeps (Keeps.refl s)⟩

theorem execHomewtrExpire_keeps (s : State) : ∃ s1, execHomewtrExpire s = .next s1 ∧ Keeps s s1 := ⟨_, rfl, State.homewtr_keeps (Keeps.refl s)⟩

theorem execTokenTake_keeps (s : State) : ∃ s1, execTokenTake s = .next s1 ∧ Keeps s s1 := ⟨_, rfl, State.tokenTake_keeps (Keeps.refl s)⟩

theorem execDualholdClear_keeps (s : State) : ∃ s1, execDualholdClear s = .next s1 ∧ Keeps s s1 := ⟨_, rfl, State.dualClear_keeps (Keeps.refl s)⟩

theorem execLeaseReleaseCmd_keeps (s : State) : ∃ s1, execLeaseReleaseCmd s = .next s1 ∧ Keeps s s1 := ⟨_, rfl, State.leaseReleaseCmd_keeps (Keeps.refl s)⟩

theorem execLeaseResyncCmd_keeps (s : State) : ∃ s1, execLeaseResyncCmd s = .next s1 ∧ Keeps s s1 := ⟨_, rfl, State.leaseResyncCmd_keeps (Keeps.refl s)⟩

theorem execTtMarkerSend_keeps (dev : Int) (s : State) : ∃ s1, execTtMarkerSend dev s = .next s1 ∧ Keeps s s1 := ⟨_, rfl, State.markerSend_keeps (Keeps.refl s) ..⟩

theorem execTtRx_keeps (msg : List Byte) (ago marker : Nat) (s : State) : ∃ s1, execTtRx msg ago marker s = .next s1 ∧ Keeps s s1 := ⟨_, rfl, State.ttRx_keeps (Keeps.refl s) ..⟩

theorem execReplNtsRx_keeps (inband : Bool) (msg : List Byte) (ago : Nat) (s : State) : ∃ s1, execReplNtsRx inband msg ago s = .next s1 ∧ Keeps s s1 := ⟨_, rfl, State.replNts_keeps (Keeps.refl s) ..⟩

theorem execReplGrantRx_keeps (inband : Bool) (msg : List Byte) (ago : Nat) (s : State) : ∃ s1, execReplGrantRx inband msg ago s = .next s1 ∧ Keeps s s1 := ⟨_, rfl, State.replGrantRx_keeps (Keeps.refl s) ..⟩

theorem execReplDoneRx_keeps (inband : Bool) (msg : List Byte) (ago : Nat) (s : State) : ∃ s1, execReplDoneRx inband msg ago s = .next s1 ∧ Keeps s s1 := ⟨_, rfl, State.replDone_keeps (Keeps.refl s) ..⟩

theorem execReplSend_keeps (s : State) : ∃ s1, execReplSend s = .next s1 ∧ Keeps s s1 := ⟨_, rfl, State.replSend_keeps (Keeps.refl s)⟩

theorem execTslSubmit_keeps (path : Path) (c : Fin 5) (v : Nat) (mem : List (Nat × Byte)) (s : State) : ∃ s1, execTslSubmit path c v mem s = .next s1 ∧ Keeps s s1 := ⟨_, rfl, State.tslSubmit_keeps (Keeps.refl s) ..⟩

theorem execJobStart_keeps (e : Fin 16) (s : State) : ∃ s1, execJobStart e s = .next s1 ∧ Keeps s s1 := ⟨_, rfl, State.jobStart_keeps (Keeps.refl s) ..⟩

theorem execCompanionStart_keeps (sign comp : Fin 16) (s : State) : ∃ s1, execCompanionStart sign comp s = .next s1 ∧ Keeps s s1 := ⟨_, rfl, State.companionStart_keeps (Keeps.refl s) ..⟩

theorem execLoadSlot_keeps (e : Fin 16) (s : State) : ∃ s1, execLoadSlot e s = .next s1 ∧ Keeps s s1 := ⟨_, rfl, State.tslLoad_keeps (Keeps.refl s) ..⟩

theorem execLoadKeySlot_keeps (e : Fin 16) (s : State) : ∃ s1, execLoadKeySlot e s = .next s1 ∧ Keeps s s1 := ⟨_, rfl, State.tslLoadKey_keeps (Keeps.refl s) ..⟩

theorem execRandSlot_keeps (e : Fin 16) (s : State) : ∃ s1, execRandSlot e s = .next s1 ∧ Keeps s s1 := ⟨_, rfl, State.tslRand_keeps (Keeps.refl s) ..⟩

theorem execMadd_keeps (e : Fin 16) (upset : Option Nat) (s : State) : ∃ s1, execMadd e upset s = .next s1 ∧ Keeps s s1 := by
  refine ⟨_, rfl, ?_⟩
  repeat first
    | with_reducible exact Keeps.refl _
    | with_reducible assumption
    | (intro _; intros; try dsimp -zeta only)
    | with_reducible apply State.tslArith_keeps
    | with_reducible apply Keeps.ite

theorem execMsub_keeps (e : Fin 16) (upset : Option Nat) (s : State) : ∃ s1, execMsub e upset s = .next s1 ∧ Keeps s s1 := by
  refine ⟨_, rfl, ?_⟩
  repeat first
    | with_reducible exact Keeps.refl _
    | with_reducible assumption
    | (intro _; intros; try dsimp -zeta only)
    | with_reducible apply State.tslArith_keeps
    | with_reducible apply Keeps.ite

theorem execMmul_keeps (e : Fin 16) (upset : Option Nat) (s : State) : ∃ s1, execMmul e upset s = .next s1 ∧ Keeps s s1 := by
  refine ⟨_, rfl, ?_⟩
  repeat first
    | with_reducible exact Keeps.refl _
    | with_reducible assumption
    | (intro _; intros; try dsimp -zeta only)
    | with_reducible apply State.tslArith_keeps
    | with_reducible apply Keeps.ite

theorem execMinv_keeps (e : Fin 16) (upset : Option Nat) (s : State) : ∃ s1, execMinv e upset s = .next s1 ∧ Keeps s s1 := ⟨_, rfl, State.tslInv_keeps (Keeps.refl s) ..⟩

theorem execMexp_keeps (e : Fin 16) (upset : Option Nat) (s : State) : ∃ s1, execMexp e upset s = .next s1 ∧ Keeps s s1 := ⟨_, rfl, State.tslExp_keeps (Keeps.refl s) ..⟩

theorem execMoveSlot_keeps (e : Fin 16) (s : State) : ∃ s1, execMoveSlot e s = .next s1 ∧ Keeps s s1 := ⟨_, rfl, State.tslMove_keeps (Keeps.refl s) ..⟩

theorem execUnloadSlot_keeps (e : Fin 16) (s : State) : ∃ s1, execUnloadSlot e s = .next s1 ∧ Keeps s s1 := ⟨_, rfl, State.tslUnload_keeps (Keeps.refl s) ..⟩

theorem execJobRelease_keeps (e : Fin 16) (differs : Bool) (s : State) : ∃ s1, execJobRelease e differs s = .next s1 ∧ Keeps s s1 := ⟨_, rfl, State.jobRelease_keeps (Keeps.refl s) ..⟩

theorem execTslAbort_keeps (v : Nat) (s : State) : ∃ s1, execTslAbort v s = .next s1 ∧ Keeps s s1 := ⟨_, rfl, State.tslAbort_keeps (Keeps.refl s) ..⟩

theorem execAbortEffect_keeps (s : State) : ∃ s1, execAbortEffect s = .next s1 ∧ Keeps s s1 := ⟨_, rfl, State.abortEffect_keeps (Keeps.refl s)⟩

theorem execCpFailure_keeps (c : Fin 5) (s : State) : ∃ s1, execCpFailure c s = .next s1 ∧ Keeps s s1 := ⟨_, rfl, State.cpFail_keeps (Keeps.refl s) ..⟩

theorem execTslRetireEngine_keeps (e : Fin 16) (s : State) : ∃ s1, execTslRetireEngine e s = .next s1 ∧ Keeps s s1 := ⟨_, rfl, State.tslRetire_keeps (Keeps.refl s) ..⟩

theorem execTslRestoreEngine_keeps (e : Fin 16) (s : State) : ∃ s1, execTslRestoreEngine e s = .next s1 ∧ Keeps s s1 := ⟨_, rfl, State.tslRestore_keeps (Keeps.refl s) ..⟩

theorem execOnlineKeyGenerate_keeps (s : State) : ∃ s1, execOnlineKeyGenerate s = .next s1 ∧ Keeps s s1 := ⟨_, rfl, State.rtGenerate_keeps (Keeps.refl s)⟩

theorem execDailyKeyGenerate_keeps (s : State) : ∃ s1, execDailyKeyGenerate s = .next s1 ∧ Keeps s s1 := ⟨_, rfl, State.rtDaily_keeps (Keeps.refl s)⟩

theorem execDailyKeyEffect_keeps (s : State) : ∃ s1, execDailyKeyEffect s = .next s1 ∧ Keeps s s1 := ⟨_, rfl, State.rtEffect_keeps (Keeps.refl s)⟩

theorem execBatchClose_keeps (v : Fin 2) (s : State) : ∃ s1, execBatchClose v s = .next s1 ∧ Keeps s s1 := ⟨_, rfl, State.rtWindow_keeps (Keeps.refl s) ..⟩

theorem execRoughtimeRequest_keeps (g : Eng) (s : State) : ∃ s1, execRoughtimeRequest g s = .next s1 ∧ Keeps s s1 := ⟨_, rfl, State.rtRequest_keeps (Keeps.refl s) ..⟩

theorem execBatchSignatureRelease_keeps (num : Nat) (ok : Bool) (s : State) : ∃ s1, execBatchSignatureRelease num ok s = .next s1 ∧ Keeps s s1 := ⟨_, rfl, State.rtRelease_keeps (Keeps.refl s) ..⟩

theorem execFeListRun_keeps (reads : List (List Byte)) (wait : Nat) (clkA clkB : Bool) (s : State) : ∃ s1, execFeListRun reads wait clkA clkB s = .next s1 ∧ Keeps s s1 := ⟨_, rfl, State.feRun_keeps (Keeps.refl s) ..⟩

theorem execGnPathClockLoss_keeps (path : Fin 2) (s : State) : ∃ s1, execGnPathClockLoss path s = .next s1 ∧ Keeps s s1 := ⟨_, rfl, State.gnClockLost_keeps (Keeps.refl s) ..⟩

theorem execGnPathClockRestore_keeps (path : Fin 2) (s : State) : ∃ s1, execGnPathClockRestore path s = .next s1 ∧ Keeps s s1 := ⟨_, rfl, State.gnClockRestored_keeps (Keeps.refl s) ..⟩

theorem execChannelAssign_keeps (sigs : List GnSig) (s : State) : ∃ s1, execChannelAssign sigs s = .next s1 ∧ Keeps s s1 := ⟨_, rfl, State.gnAssign_keeps (Keeps.refl s) ..⟩

theorem execAgcAdjust_keeps (m : Fin 4) (samples : List Nat) (s : State) : ∃ s1, execAgcAdjust m samples s = .next s1 ∧ Keeps s s1 := ⟨_, rfl, State.agcStep_keeps (Keeps.refl s) ..⟩

theorem execAcquisitionDetect_keeps (c : Fin 256) (s : State) : ∃ s1, execAcquisitionDetect c s = .next s1 ∧ Keeps s s1 := ⟨_, rfl, State.gnDetect_keeps (Keeps.refl s) ..⟩

theorem execPullinComplete_keeps (c : Fin 256) (s : State) : ∃ s1, execPullinComplete c s = .next s1 ∧ Keeps s s1 := ⟨_, rfl, State.gnPulledIn_keeps (Keeps.refl s) ..⟩

theorem execNavRecordWrite_keeps (c : Fin 256) (r : NavRec) (read : Nat) (s : State) : ∃ s1, execNavRecordWrite c r read s = .next s1 ∧ Keeps s s1 := ⟨_, rfl, State.navWrite_keeps (Keeps.refl s) ..⟩

theorem execMeasurementLatch_keeps (j : Fin 50) (obs : List (Nat × GnObs)) (corr : List (Nat × List (Int × Int))) (s : State) : ∃ s1, execMeasurementLatch j obs corr s = .next s1 ∧ Keeps s s1 := ⟨_, rfl, State.gnLatch_keeps (Keeps.refl s) ..⟩

theorem execMeasurementSetPublish_keeps (s : State) : ∃ s1, execMeasurementSetPublish s = .next s1 ∧ Keeps s s1 := ⟨_, rfl, State.gnDrained_keeps (Keeps.refl s)⟩

theorem execInterferenceSecond_keeps (bands : List GnBand) (s : State) : ∃ s1, execInterferenceSecond bands s = .next s1 ∧ Keeps s s1 := ⟨_, rfl, State.interference_keeps (Keeps.refl s) ..⟩

theorem execSpoofEval_keeps (s : State) : ∃ s1, execSpoofEval s = .next s1 ∧ Keeps s s1 := ⟨_, rfl, State.spoofEval_keeps (Keeps.refl s)⟩

theorem execBurstWindowOpen_keeps (s : State) : ∃ s1, execBurstWindowOpen s = .next s1 ∧ Keeps s s1 := ⟨_, rfl, State.windowOpen_keeps (Keeps.refl s)⟩

theorem execBurstWindowClose_keeps (s : State) : ∃ s1, execBurstWindowClose s = .next s1 ∧ Keeps s s1 := ⟨_, rfl, State.windowClose_keeps (Keeps.refl s)⟩

theorem execSolutionPublish_keeps (sol : GnSol) (s : State) : ∃ s1, execSolutionPublish sol s = .next s1 ∧ Keeps s s1 := ⟨_, rfl, State.solPublish_keeps (Keeps.refl s) ..⟩

theorem execSurveyComplete_keeps (x y z : Int) (s : State) : ∃ s1, execSurveyComplete x y z s = .next s1 ∧ Keeps s s1 := ⟨_, rfl, State.surveyEnd_keeps (Keeps.refl s) ..⟩

theorem execAonPowerLoss_keeps (vbatMv : Nat) (s : State) : ∃ s1, execAonPowerLoss vbatMv s = .next s1 ∧ Keeps s s1 := ⟨_, rfl, State.aonLoss_keeps (Keeps.refl s) ..⟩

theorem execAonPowerOn_keeps (s : State) : ∃ s1, execAonPowerOn s = .next s1 ∧ Keeps s s1 := ⟨_, rfl, State.aonOn_keeps (Keeps.refl s)⟩

theorem execPowerFailToBackup_keeps (cause : PowerCause) (s : State) : ∃ s1, execPowerFailToBackup cause s = .next s1 ∧ Keeps s s1 := ⟨_, rfl, State.powerFail_keeps (Keeps.refl s) ..⟩

theorem execVbatSwitchover_keeps (toVbat : Bool) (s : State) : ∃ s1, execVbatSwitchover toVbat s = .next s1 ∧ Keeps s s1 := ⟨_, rfl, State.vbatSwitch_keeps (Keeps.refl s) ..⟩

theorem execVbatLoss_keeps (s : State) : ∃ s1, execVbatLoss s = .next s1 ∧ Keeps s s1 := ⟨_, rfl, State.vbatLoss_keeps (Keeps.refl s)⟩

theorem execVbatReturn_keeps (s : State) : ∃ s1, execVbatReturn s = .next s1 ∧ Keeps s s1 := ⟨_, rfl, State.vbatBack_keeps (Keeps.refl s)⟩

theorem execPowerUpStart_keeps (pwrEn porstN pgood railsUp : Bool) (s : State) : ∃ s1, execPowerUpStart pwrEn porstN pgood railsUp s = .next s1 ∧ Keeps s s1 := ⟨_, rfl, State.powerUpStart_keeps (Keeps.refl s) ..⟩

theorem execVcoreEvaluate_keeps (rails : List Nat) (s : State) : ∃ s1, execVcoreEvaluate rails s = .next s1 ∧ Keeps s s1 := ⟨_, rfl, State.vcoreEvaluate_keeps (Keeps.refl s) ..⟩

theorem execAvsWriteRetry_keeps (why : Fin 3) (s : State) : ∃ s1, execAvsWriteRetry why s = .next s1 ∧ Keeps s s1 := ⟨_, rfl, State.avsFailed_keeps (Keeps.refl s) ..⟩

theorem execAvsStatusRead_keeps (ok : Bool) (s : State) : ∃ s1, execAvsStatusRead ok s = .next s1 ∧ Keeps s s1 := ⟨_, rfl, State.avsStatus_keeps (Keeps.refl s) ..⟩

theorem execPmAvsRetry_keeps (path : Path) (ok : Bool) (s : State) : ∃ s1, execPmAvsRetry path ok s = .next s1 ∧ Keeps s s1 := ⟨_, rfl, State.pmAvsRetry_keeps (Keeps.refl s) ..⟩

theorem execRailWarningFall_keeps (r : Fin 8) (mv : Nat) (s : State) : ∃ s1, execRailWarningFall r mv s = .next s1 ∧ Keeps s s1 := ⟨_, rfl, State.railFall_keeps (Keeps.refl s) ..⟩

theorem execRailWarningRecover_keeps (r : Fin 8) (lowest mv : Nat) (s : State) : ∃ s1, execRailWarningRecover r lowest mv s = .next s1 ∧ Keeps s s1 := ⟨_, rfl, State.railRecover_keeps (Keeps.refl s) ..⟩

theorem execBoostEnd_keeps (s : State) : ∃ s1, execBoostEnd s = .next s1 ∧ Keeps s s1 := ⟨_, rfl, State.boostOver_keeps (Keeps.refl s)⟩

theorem execPmRaise_keeps (path : Path) (s : State) : ∃ s1, execPmRaise path s = .next s1 ∧ Keeps s s1 := ⟨_, rfl, State.pmRaise_keeps (Keeps.refl s)⟩

theorem execVbatMeasure_keeps (mv : Nat) (s : State) : ∃ s1, execVbatMeasure mv s = .next s1 ∧ Keeps s s1 := ⟨_, rfl, State.vbatMeasure_keeps (Keeps.refl s) ..⟩

theorem execTempSample_keeps (ts : List Int) (s : State) : ∃ s1, execTempSample ts s = .next s1 ∧ Keeps s s1 := ⟨_, rfl, State.tempSample_keeps (Keeps.refl s) ..⟩

theorem execThermSample_keeps (code : Fin 4096) (s : State) : ∃ s1, execThermSample code s = .next s1 ∧ Keeps s s1 := ⟨_, rfl, State.thermSample_keeps (Keeps.refl s) ..⟩

theorem execPowerUpComplete_keeps (flashId : Bool) (s : State) : ∃ s1, execPowerUpComplete flashId s = .next s1 ∧ Keeps s s1 := ⟨_, rfl, State.powerUp_keeps (Keeps.refl s) ..⟩

theorem execFlashIdentificationRetry_keeps (flashId : Bool) (s : State) : ∃ s1, execFlashIdentificationRetry flashId s = .next s1 ∧ Keeps s s1 := ⟨_, rfl, State.flashRetry_keeps (Keeps.refl s) ..⟩

theorem execTbSynthesizerLock_keeps (s : State) : ∃ s1, execTbSynthesizerLock s = .next s1 ∧ Keeps s s1 := ⟨_, rfl, State.synLock_keeps (Keeps.refl s)⟩

theorem execSysReboot_keeps (path : Path) (slot : Nat) (s : State) : ∃ s1, execSysReboot path slot s = .next s1 ∧ Keeps s s1 := ⟨_, rfl, State.sysReboot_keeps (Keeps.refl s) ..⟩

theorem execEntropyStartupDone_keeps (ok0 ok1 : Bool) (s : State) : ∃ s1, execEntropyStartupDone ok0 ok1 s = .next s1 ∧ Keeps s s1 := ⟨_, rfl, State.entropyDone_keeps (Keeps.refl s) ..⟩

theorem execSlotReadComplete_keeps (readError : Bool) (s : State) : ∃ s1, execSlotReadComplete readError s = .next s1 ∧ Keeps s s1 := ⟨_, rfl, State.slotRead_keeps (Keeps.refl s) ..⟩

theorem execImageVerifyDone_keeps (engineFault : Bool) (s : State) : ∃ s1, execImageVerifyDone engineFault s = .next s1 ∧ Keeps s s1 := ⟨_, rfl, State.imageVerify_keeps (Keeps.refl s) ..⟩

theorem execBootComplete_keeps (s : State) : ∃ s1, execBootComplete s = .next s1 ∧ Keeps s s1 := ⟨_, rfl, State.bootComplete_keeps (Keeps.refl s)⟩

theorem execOrbitDataWrite_keeps (erased programmed : Bool) (s : State) : ∃ s1, execOrbitDataWrite erased programmed s = .next s1 ∧ Keeps s s1 := ⟨_, rfl, State.orbitWrite_keeps (Keeps.refl s) ..⟩

theorem execProvision_keeps (path : Path) (s : State) : ∃ s1, execProvision path s = .next s1 ∧ Keeps s s1 := ⟨_, rfl, State.lcWrite_keeps (Keeps.refl s) ..⟩

theorem execDeploy_keeps (path : Path) (s : State) : ∃ s1, execDeploy path s = .next s1 ∧ Keeps s s1 := ⟨_, rfl, State.lcWrite_keeps (Keeps.refl s) ..⟩

theorem execReturnDevice_keeps (path : Path) (s : State) : ∃ s1, execReturnDevice path s = .next s1 ∧ Keeps s s1 := ⟨_, rfl, State.lcWrite_keeps (Keeps.refl s) ..⟩

theorem execFuseRoot1_keeps (path : Path) (s : State) : ∃ s1, execFuseRoot1 path s = .next s1 ∧ Keeps s s1 := ⟨_, rfl, State.lcWrite_keeps (Keeps.refl s) ..⟩

theorem execRevoke_keeps (path : Path) (r : Fin 4) (s : State) : ∃ s1, execRevoke path r s = .next s1 ∧ Keeps s s1 := ⟨_, rfl, State.lcWrite_keeps (Keeps.refl s) ..⟩

theorem execSvnAdvance_keeps (path : Path) (s : State) : ∃ s1, execSvnAdvance path s = .next s1 ∧ Keeps s s1 := ⟨_, rfl, State.lcWrite_keeps (Keeps.refl s) ..⟩

theorem execTamperClear_keeps (path : Path) (s : State) : ∃ s1, execTamperClear path s = .next s1 ∧ Keeps s s1 := ⟨_, rfl, State.lcWrite_keeps (Keeps.refl s) ..⟩

theorem execTamperInput_keeps (n : Fin 2) (high : Bool) (s : State) : ∃ s1, execTamperInput n high s = .next s1 ∧ Keeps s s1 := ⟨_, rfl, State.tamperInput_keeps (Keeps.refl s) ..⟩

theorem execKeyScrub_keeps (failed : List (Fin 256)) (s : State) : ∃ s1, execKeyScrub failed s = .next s1 ∧ Keeps s s1 := ⟨_, rfl, State.keyScrub_keeps (Keeps.refl s) ..⟩

theorem execEntropyBlock_keeps (src : Fin 2) (failed : Option Bool) (s : State) : ∃ s1, execEntropyBlock src failed s = .next s1 ∧ Keeps s s1 := ⟨_, rfl, State.entropyBlock_keeps (Keeps.refl s) ..⟩

theorem execDrbgReseed_keeps (s : State) : ∃ s1, execDrbgReseed s = .next s1 ∧ Keeps s s1 := ⟨_, rfl, State.reseed_keeps (Keeps.refl s)⟩

theorem execAutoconfirm_keeps (s : State) : ∃ s1, execAutoconfirm s = .next s1 ∧ Keeps s s1 := ⟨_, rfl, State.autoconfirm_keeps (Keeps.refl s)⟩

theorem execNvmConfirm_keeps (path : Path) (s : State) : ∃ s1, execNvmConfirm path s = .next s1 ∧ Keeps s s1 := by
  refine ⟨_, rfl, ?_⟩
  repeat first
    | with_reducible exact Keeps.refl _
    | with_reducible assumption
    | (intro _; intros; try dsimp -zeta only)
    | with_reducible apply State.confirm_keeps
    | with_reducible apply Keeps.ite

theorem execUpdateOpen_keeps (path : Path) (slot : Fin 2) (s : State) : ∃ s1, execUpdateOpen path slot s = .next s1 ∧ Keeps s s1 := ⟨_, rfl, State.updOpen_keeps (Keeps.refl s) ..⟩

theorem execUpdateProgram_keeps (path : Path) (s : State) : ∃ s1, execUpdateProgram path s = .next s1 ∧ Keeps s s1 := ⟨_, rfl, State.updProgram_keeps (Keeps.refl s) ..⟩

theorem execUpdateRead_keeps (path : Path) (s : State) : ∃ s1, execUpdateRead path s = .next s1 ∧ Keeps s s1 := ⟨_, rfl, State.updRead_keeps (Keeps.refl s) ..⟩

theorem execUpdateVerify_keeps (path : Path) (s : State) : ∃ s1, execUpdateVerify path s = .next s1 ∧ Keeps s s1 := ⟨_, rfl, State.updVerify_keeps (Keeps.refl s) ..⟩

theorem execUpdateClose_keeps (path : Path) (s : State) : ∃ s1, execUpdateClose path s = .next s1 ∧ Keeps s s1 := ⟨_, rfl, State.updClose_keeps (Keeps.refl s) ..⟩

theorem execNvmOperationComplete_keeps (failed : Option Nat) (s : State) : ∃ s1, execNvmOperationComplete failed s = .next s1 ∧ Keeps s s1 := ⟨_, rfl, State.opComplete_keeps (Keeps.refl s) ..⟩

theorem execRcRead_keeps (path : Path) (a : Place) (s : State) : ∃ s1, execRcRead path a s = .next s1 ∧ Keeps s s1 := by
  refine ⟨_, rfl, ?_⟩
  repeat first
    | with_reducible exact Keeps.refl _
    | with_reducible assumption
    | (intro _; intros; try dsimp -zeta only)
    | with_reducible apply State.access_keeps
    | with_reducible apply Keeps.ite

theorem execSysWlockWrite_keeps (v : Nat) (s : State) : ∃ s1, execSysWlockWrite v s = .next s1 ∧ Keeps s s1 := ⟨_, rfl, State.wlockWrite_keeps (Keeps.refl s) ..⟩

theorem execSnapTake_keeps (path : Path) (s : State) : ∃ s1, execSnapTake path s = .next s1 ∧ Keeps s s1 := ⟨_, rfl, State.snapTake_keeps (Keeps.refl s) ..⟩

theorem execSnapRelease_keeps (path : Path) (s : State) : ∃ s1, execSnapRelease path s = .next s1 ∧ Keeps s s1 := ⟨_, rfl, State.snapRelease_keeps (Keeps.refl s) ..⟩

theorem execSnapReady_keeps (s : State) : ∃ s1, execSnapReady s = .next s1 ∧ Keeps s s1 := ⟨_, rfl, State.snapReady_keeps (Keeps.refl s)⟩

theorem execSnapHoldExpire_keeps (s : State) : ∃ s1, execSnapHoldExpire s = .next s1 ∧ Keeps s s1 := ⟨_, rfl, State.snapExpire_keeps (Keeps.refl s)⟩

theorem execAlarmAck_keeps (path : Path) (code : Nat) (s : State) : ∃ s1, execAlarmAck path code s = .next s1 ∧ Keeps s s1 := ⟨_, rfl, State.alarmAck_keeps (Keeps.refl s) ..⟩

theorem execRegisterWrite_keeps (path : Path) (a : Place) (v : Nat) (s : State) : ∃ s1, execRegisterWrite path a v s = .next s1 ∧ Keeps s s1 := ⟨_, rfl, State.writeAs_keeps (Keeps.refl s) ..⟩

theorem execSpiWrite_keeps (b : List Byte) (s : State) : ∃ s1, execSpiWrite b s = .next s1 ∧ Keeps s s1 := ⟨_, rfl, State.spiWrite_keeps (Keeps.refl s) ..⟩

theorem execSpiRead_keeps (b : List Byte) (s : State) : ∃ s1, execSpiRead b s = .next s1 ∧ Keeps s s1 := ⟨_, rfl, State.spiRead_keeps (Keeps.refl s) ..⟩

theorem execSpiCsEarlyRise_keeps (b : List Byte) (s : State) : ∃ s1, execSpiCsEarlyRise b s = .next s1 ∧ Keeps s s1 := ⟨_, rfl, State.spiEarlyRise_keeps (Keeps.refl s) ..⟩

theorem execSpiReplay_keeps (s : State) : ∃ s1, execSpiReplay s = .next s1 ∧ Keeps s s1 := ⟨_, rfl, State.spiReplay_keeps (Keeps.refl s)⟩

theorem execSpiBadOpcode_keeps (s : State) : ∃ s1, execSpiBadOpcode s = .next s1 ∧ Keeps s s1 := ⟨_, rfl, State.spiBad_keeps (Keeps.refl s)⟩

theorem execOmpOpen_keeps (m : OmpIn) (s : State) : ∃ s1, execOmpOpen m s = .next s1 ∧ Keeps s s1 := ⟨_, rfl, State.ompOpen_keeps (Keeps.refl s) ..⟩

theorem execOmpRead_keeps (m : OmpIn) (s : State) : ∃ s1, execOmpRead m s = .next s1 ∧ Keeps s s1 := ⟨_, rfl, State.ompReadRx_keeps (Keeps.refl s) ..⟩

theorem execOmpWrite_keeps (m : OmpIn) (s : State) : ∃ s1, execOmpWrite m s = .next s1 ∧ Keeps s s1 := by
  refine ⟨_, rfl, ?_⟩
  repeat first
    | with_reducible exact Keeps.refl _
    | with_reducible assumption
    | (intro _; intros; try dsimp -zeta only)
    | with_reducible apply State.ompRx_keeps
    | with_reducible apply State.ompWrite_keeps
    | with_reducible apply Keeps.ite

theorem execOmpReadGroup_keeps (m : OmpIn) (s : State) : ∃ s1, execOmpReadGroup m s = .next s1 ∧ Keeps s s1 := by
  refine ⟨_, rfl, ?_⟩
  repeat first
    | with_reducible exact Keeps.refl _
    | with_reducible assumption
    | (intro _; intros; try dsimp -zeta only)
    | with_reducible apply State.ompRx_keeps
    | with_reducible apply State.ompReadGroup_keeps
    | with_reducible apply Keeps.ite

theorem execOmpSubscribe_keeps (m : OmpIn) (s : State) : ∃ s1, execOmpSubscribe m s = .next s1 ∧ Keeps s s1 := by
  refine ⟨_, rfl, ?_⟩
  repeat first
    | with_reducible exact Keeps.refl _
    | with_reducible assumption
    | (intro _; intros; try dsimp -zeta only)
    | with_reducible apply State.ompRx_keeps
    | with_reducible apply State.ompSubscribe_keeps
    | with_reducible apply Keeps.ite

theorem execOmpClose_keeps (m : OmpIn) (s : State) : ∃ s1, execOmpClose m s = .next s1 ∧ Keeps s s1 := by
  refine ⟨_, rfl, ?_⟩
  repeat first
    | with_reducible exact Keeps.refl _
    | with_reducible assumption
    | (intro _; intros; try dsimp -zeta only)
    | with_reducible apply State.ompRx_keeps
    | with_reducible apply State.ompCloseSlot_keeps
    | with_reducible apply Keeps.ite

theorem execOmpFrameTx_keeps (m : OmpIn) (p : Fin 32) (cls : Fin 8) (d : TxDesc) (frame : List Byte) (s : State) : ∃ s1, execOmpFrameTx m p cls d frame s = .next s1 ∧ Keeps s s1 := by
  refine ⟨_, rfl, ?_⟩
  repeat first
    | with_reducible exact Keeps.refl _
    | with_reducible assumption
    | (intro _; intros; try dsimp -zeta only)
    | with_reducible apply State.ompRx_keeps
    | with_reducible apply State.ompFrameTx_keeps
    | with_reducible apply Keeps.ite

theorem execOmpIdleTimeout_keeps (k : Fin 8) (s : State) : ∃ s1, execOmpIdleTimeout k s = .next s1 ∧ Keeps s s1 := ⟨_, rfl, State.ompIdle_keeps (Keeps.refl s) ..⟩

theorem execOmpConnectionEnd_keeps (conn : Nat) (s : State) : ∃ s1, execOmpConnectionEnd conn s = .next s1 ∧ Keeps s s1 := ⟨_, rfl, State.ompConnEnd_keeps (Keeps.refl s) ..⟩

theorem execForwardFrame_keeps (g : Eng) (s : State) : ∃ s1, execForwardFrame g s = .next s1 ∧ Keeps s s1 := by
  refine ⟨_, rfl, ?_⟩
  repeat first
    | with_reducible exact Keeps.refl _
    | with_reducible assumption
    | (intro _; intros; try dsimp -zeta only)
    | with_reducible apply State.ran_keeps
    | with_reducible apply State.forward_keeps
    | with_reducible apply Keeps.ite

theorem execEventLogWrite_keeps (s : State) : ∃ s1, execEventLogWrite s = .next s1 ∧ Keeps s s1 := ⟨_, rfl, State.logWrite_keeps (Keeps.refl s)⟩

theorem execSecondBoundary_keeps (b : BoundaryIn) (s : State) : ∃ s1, execSecondBoundary b s = .next s1 ∧ Keeps s s1 := ⟨_, rfl, State.boundary_keeps (Keeps.refl s) ..⟩

end Sys2Proof.Machine
end

