-- ==== Sys2Proof/Tests/Slice0.lean ====
section
/-! SUPPORT. Tests: for every obligation with hypotheses a state and operands that meet the hypotheses of its clauses; the
worked examples of the specification; an ill-formed operand for each check. -/
open Sys2Proof Sys2Proof.Machine

/-- The state after a command. -/
def Sys2Proof.Machine.State.after (s : State) (c : Instr) : State := match exec c s with | .next t => t | _ => s

namespace Sys2Proof.Tests

set_option Elab.async false

/-! ### States -/

/-- A device in a mode, its time base standing still and running. -/
def inMode (m : Mode) : State := { State.reset with mode := m }
def running (m : Mode) : State := { inMode m with tb := { running := true } }

/-- An engine, a state in which it runs a request, and a frame of UDP over IPv6 or of PTP over Ethernet. -/
def eng : Eng := ⟨31, 33⟩
def running_ (r : Req) : State := (inMode .service).setEng eng { req := some r }
def reqOf (part src : Nat) (bytes : List Byte) : Req := { part := part, src := src, port := 31, bytes := bytes, stamp := 0 }
def udp6 (sport : Nat) (p : List Byte) : List Byte :=
  List.replicate 12 0 ++ [0x86, 0xDD, 0x60, 0, 0, 0] ++ beBytes 2 (p.length + 8) ++ [17, 64, 0xFD] ++ List.replicate 14 0 ++ [5, 0xFD] ++
    List.replicate 15 0 ++ beBytes 2 sport ++ beBytes 2 123 ++ beBytes 2 (p.length + 8) ++ [0, 0] ++ p ++ [0, 0, 0, 0]
def ptpFrame (da type flags : Nat) (src : Nat) (rest : List Byte) : List Byte :=
  beBytes 6 da ++ List.replicate 6 0 ++ [0x88, 0xF7] ++ beBytes 1 type ++ [2] ++ beBytes 2 (34 + rest.length) ++ [0, 0] ++ beBytes 2 flags ++
    List.replicate 12 0 ++ beBytes 10 src ++ [0, 0, 0, 0] ++ rest ++ [0, 0, 0, 0]

/-- A Teasel descriptor of given commands, a job and a run of it. -/
def tslDesc (prog : List Nat) : TslDesc :=
  { cls := 0, n := 1, modSlot := 31, chkSlot := 0, chkEn := false, jobId := 7, lstart := 0, lend := 0, lcount := 0, keys := [0, 0, 0, 0]
    inBase := 0, outBase := 0, inLen := 0, outLen := 0, vdesc := 0, resv := false, prog := prog }
def tslJob : TslJob := { cp := 4, ring := 4, addr := 0, part := 3 }
def tslRunOf (prog : List Nat) : TslRun :=
  { job := tslJob, desc := tslDesc prog, input := [], slots := [(0, 3), (1, 5), (31, 7)], start := 0, dur := 0, q := 3 }
def command (op d a b imm : Nat) : Nat := op * 2 ^ 28 + d * 2 ^ 23 + a * 2 ^ 18 + b * 2 ^ 13 + imm

/-- A member of a pair with its lease state, and a message of its partner on the Adern link with its CRC. -/
def paired (st : Nat) : State :=
  ((((inMode .service).set SYS_MODE_PAIR 1).set LEASE_STATUS_STATE st).set LEASE_STATUS_VER 0x12).onLease fun l =>
    { l with pBoot := some 9, pSeen := [3], pSeq := 3 }
def leaseBytes (ver type boot seq : Nat) (body : List Byte) : List Byte :=
  beBytes 1 ver ++ beBytes 1 type ++ beBytes 2 body.length ++ beBytes 4 boot ++ beBytes 4 seq ++ beBytes 8 0 ++ List.replicate 20 0 ++ body
def withCrc (m : List Byte) : List Byte := m ++ beBytes 4 (crc32c m)

/-- An OMP message on port 0 over layer 2 with a trailer of zeros, and a device that it reaches. -/
def ompIn (type session seq : Nat) (body : List Byte) : OmpIn :=
  { port := 0, transport := 2, peer := { vlan := 0, mac := 0 }
    bytes := [0x4F, 0x4D, 0x10] ++ beBytes 1 type ++ beBytes 4 body.length ++ beBytes 4 session ++ beBytes 4 seq ++ body ++ List.replicate 32 0 }
def ompDevice : State :=
  ((((inMode .service).set SYS_OMPCFG_L2 1).set (MAC_STATUS_LINK 0) 2).set (FAB_PART_EN 1) 1).onBoot fun b =>
    { b with keys := SMap.set none b.keys 1 (some { type := 1, cls := 0, value := 5 }) }
/-- A session in slot 7, with the 64 highest values received. -/
def ompSession7 : State :=
  ((ompDevice.set (SYS_OMPSESS_OPEN 7) 1).set (SYS_OMPSESS_ID 7) 9).set (SYS_OMPSESS_VER 7) 0x21 |>.setOmpSession 7
    (some { key := 5, seen := (List.range 64).map (73 - ·), peer := { vlan := 0, mac := 0 } })

/-- A device whose slot 0 holds an image of a version with two empty sections, whose CRC entry does not check. -/
def imageOf (ver : Nat) : State :=
  let h : List Byte := leBytes 4 0x4F525247 ++ leBytes 2 ver ++ leBytes 2 0x9620 ++ leBytes 4 (2 ^ 32 - 1) ++ leBytes 4 4096 ++
    List.replicate 22 0 ++ leBytes 2 2 ++ List.replicate 212 0
  let sec (t : Nat) : List Byte := leBytes 4 t ++ leBytes 4 512 ++ leBytes 4 0 ++ leBytes 4 1 ++ List.replicate 16 0
  (inMode .service).onBoot fun b => { b with flash := SMap.setMany 0xFF [] 0 (h ++ leBytes 4 (crc32c h) ++ sec 1 ++ sec 2) }
/-- A device whose boot slot holds two bytes that make its CRC entry check or not, and is at a step of its boot. -/
def slotHolds (s : State) (a b : Byte) (step : BootStep) (entropy : Bool) : State :=
  let put (f : List (Nat × Byte)) (k : Nat) (l : List Byte) : List (Nat × Byte) := SMap.setMany 0xFF f (slotBase s.boot.slot + k) l
  s.onBoot fun x => { x with step := step, entropyDone := entropy, flash := put (put x.flash 0 (List.replicate 38 0 ++ [a, 0])) 256 (List.replicate 12 0 ++ [b, 0, 0, 0]) }

/-! ### Witnesses -/

/-- O1. -/
theorem witness_IncrementWritesStageCommitAndRefuse :
  ((inMode .service).awake = true ∧ (inMode .service).steers (.cp 0) = true) ∧
  (((inMode .service).set TB_CTL_HOSTSTEER 1).awake = true ∧ ((inMode .service).set TB_CTL_HOSTSTEER 1).steers (.cp 0) = false) ∧
  ((inMode .service).awake = true ∧ (inMode .service).steers .spi = false ∧ (inMode .service).steers .omp = false) :=
  by
  refine ⟨?_, ?_, ?_⟩ <;> decide +kernel

/-- O2. -/
theorem witness_StepCommandsArmCancelAndFreeze :
  (let s := (inMode .service).set (TB_STEP_STEP 1) (999999999 / 2 ^ 16) |>.set (TB_STEP_STEP 0) (999999999 % 2 ^ 16 * 2 ^ 16);
    s.awake = true ∧ s.steers (.cp 0) = true ∧ s.get (TB_STEP_STEP 0) / 2 ^ 16 + s.get (TB_STEP_STEP 1) % 2 ^ 16 * 2 ^ 16 = 999999999) ∧
  (let s := (inMode .service).set (TB_STEP_STEP 1) (1000000000 / 2 ^ 16) |>.set (TB_STEP_STEP 0) (1000000000 % 2 ^ 16 * 2 ^ 16);
    s.awake = true ∧ s.steers (.cp 0) = true ∧ s.get (TB_STEP_STEP 0) / 2 ^ 16 + s.get (TB_STEP_STEP 1) % 2 ^ 16 * 2 ^ 16 = 1000000000) ∧
  ((inMode .service).awake = true ∧ (inMode .service).steers (.cp 0) = true ∧ (inMode .service).tb.frozen = none) ∧
  (let s := (inMode .service).onTb fun b => { b with frozen := some 1 }; s.awake = true ∧ s.steers (.cp 0) = true ∧
    s.tb.frozen = some 1) ∧
  ((inMode .service).awake = true ∧ (inMode .service).steers .spi = false ∧ (inMode .service).steers .omp = false) ∧
  ((running .service).tb.running = true ∧ (running .service).tb.syncOut = false ∧
    ((running .service).onTb fun b => { b with syncOut := true }).tb.syncOut = true) ∧
  (let s := (running .service).onTb fun b => { b with c0 := ⟨0, 999995000, 0⟩, c1 := ⟨0, 999995000, 0⟩, c2 := ⟨0, 999995000, 0⟩ };
    s.tb.syncOut = false ∧ (s.master.sec * 1000000000 + 999995000) * 2 ^ 40 ≤ s.master.total ∧ s.tb.step = none) ∧
  (let s := (running .service).onTb fun b => { b with c0 := ⟨0, 999995000, 0⟩, c1 := ⟨0, 999995000, 0⟩, c2 := ⟨0, 999995000, 0⟩, step := some (-5), stepArmed := 999990000 * ns1 };
    s.tb.syncOut = false ∧ (s.master.sec * 1000000000 + 999995000) * 2 ^ 40 ≤ s.master.total ∧ s.tb.step = some (-5) ∧
    s.tb.stepArmed + 10 * us1 = (instSec s.now + 1) * sec1) ∧
  (let s := (running .service).onTb fun b => { b with c0 := ⟨0, 999995000, 0⟩, c1 := ⟨0, 999995000, 0⟩, c2 := ⟨0, 999995000, 0⟩, step := some 5, stepArmed := 999990000 * ns1 + 1 };
    s.tb.syncOut = false ∧ (s.master.sec * 1000000000 + 999995000) * 2 ^ 40 ≤ s.master.total ∧ s.tb.step = some 5 ∧
    s.tb.stepArmed + 10 * us1 = (instSec s.now + 1) * sec1 + 1) :=
  by
  refine ⟨?_, ?_, ?_, ?_, ?_, ?_, ?_, ?_, ?_⟩ <;> decide +kernel

/-- O3. -/
theorem witness_IncrementTakesEffectAfterItsTicks :
  (let s := (running .service).onTb fun b => { b with incrQ := [⟨2 ^ 40 + 1, 0, 64⟩] }; s.tb.incrQ = ⟨2 ^ 40 + 1, 0, 64⟩ :: [] ∧
    s.tb.gcompQ = [] ∧ (s.reachTick 64).isSome = true) ∧
  (let s := (running .service).onTb fun b => { b with gcompQ := [(-1, 64)] }; s.tb.incrQ = [] ∧ s.tb.gcompQ = (-1, 64) :: []) ∧
  (let s := (running .service).onTb fun b => { b with incrQ := [⟨2 ^ 40 + 1, 0, 64⟩], gcompQ := [(-1, 32)] };
    s.tb.incrQ = ⟨2 ^ 40 + 1, 0, 64⟩ :: [] ∧ s.tb.gcompQ = (-1, 32) :: [] ∧ (s.reachTick 32).isSome = true) ∧
  ((inMode .service).tb.incrQ = [] ∧ (inMode .service).tb.gcompQ = []) ∧
  (let s := (running .service).onTb fun b => { b with incrQ := [⟨2 ^ 40 + 1, -7, 64⟩], syncOut := true }; s.tb.running = true ∧
    s.tb.incrQ = [⟨2 ^ 40 + 1, -7, s.tb.ticks + 64⟩] ∧ s.tb.gcompQ = [] ∧ s.sel.transfer = none ∧
    (s.onPerf fun p => { p with period := 0 }).perf.period = 0 ∧ s.tb.syncOut = true ∧ instSec (s.ticksPlain 64).now = instSec s.now) ∧
  ((running .service).awake = true ∧ (running .service).tb.running = true) :=
  by
  refine ⟨?_, ?_, ?_, ?_, ?_, ?_⟩ <;> decide +kernel

/-- O4. -/
theorem witness_OscillatorLossSuspendsSteering :
  ((running .service).awake = true ∧ (running .service).is TB_STATUS_OSCLOSS = false) ∧
  (((running .service).set TB_STATUS_OSCLOSS 1).is TB_STATUS_OSCLOSS = true ∧
    (((running .service).set TB_STATUS_OSCLOSS 1).set TB_STATUS_OCXOWARM 0).is TB_STATUS_OCXOWARM = false) :=
  by
  refine ⟨?_, ?_⟩ <;> decide +kernel

/-- O5, part 1. -/
theorem witness_VibrationCorrectionCommands :
  ((inMode .service).awake = true ∧ (inMode .service).tb.accAt = none) ∧
  (let s := (running .service).onTb fun b => { b with accAt := some 0, ticks := 4000000 }; s.awake = true ∧ s.tb.accAt = some 0 ∧
    (s.reachTick (0 + 4000000 / 2 ^ min 4 (s.get TB_GCTL_RATE))).isSome = true) ∧
  (let s := (inMode .service).onTb fun b => { b with accAt := some 0 }; s.awake = true ∧ s.tb.accAt = some 0 ∧
    s.reachTick (0 + 4000000 / 2 ^ min 4 (s.get TB_GCTL_RATE)) = none) ∧
  (((inMode .service).set TB_ACCCMD_ORDER 1).is TB_ACCCMD_ORDER = true ∧
    ((inMode .service).set TB_ACCCMD_ORDER 0).is TB_ACCCMD_ORDER = false) ∧
  ((inMode .service).is TB_STATUS_ACCFAULT = false ∧ ((inMode .service).set TB_STATUS_ACCFAULT 1).is TB_STATUS_ACCFAULT = true) ∧
  ((inMode .service).awake = true ∧ (inMode .service).tb.gcompAt = none) ∧
  (let s := (running .service).onTb fun b => { b with gcompAt := some 0, ticks := 250000 }; s.awake = true ∧ s.tb.gcompAt = some 0 ∧
    s.reachTick (250000 + 0) = some s) ∧
  (let s := (inMode .service).set TB_GCTL_EN 1; s.is TB_GCTL_EN = true ∧ s.is TB_STATUS_ACCFAULT = false ∧ s.tb.gcal = none) ∧
  (((inMode .service).set TB_GCTL_EN 0).is TB_GCTL_EN = false ∧
    ((running .maintenance).onTb fun b => { b with gcal := some ⟨0, 10, 10, 0, 0⟩, ticks := 0 }).tb.gcal ≠ none) ∧
  (let s := ((inMode .maintenance).set (SEL_SRC_STATE 15) 6).set (SEL_SRC_TYPE 15) 2; s.tb.gcal = none ∧ s.mode = .maintenance ∧
    s.srcGood 15 = true ∧ 1000000 ≤ s.srcHz 15 ∧ s.srcHz 15 ≤ 50000000 ∧ s.is TB_STATUS_ACCFAULT = false ∧
    s.is TB_STATUS_OSCLOSS = false) ∧
  ((inMode .service).awake = true ∧ (inMode .service).tb.gcal = none ∧ (inMode .service).mode ≠ .maintenance) ∧
  (let s := (running .maintenance).onTb fun b => { b with gcal := some ⟨0, 10, 10, 0, 0⟩, ticks := 10000000000 };
    s.tb.gcal = some ⟨0, 10, 10, 0, 0⟩ ∧ s.reachTick (1000000000 * 10 + 0) = some s) :=
  by
  refine ⟨?_, ?_, ?_, ?_, ?_, ?_, ?_, ?_, ?_, ?_, ?_, ?_⟩ <;> decide +kernel

/-- O5, part 2. -/
theorem witness_VibrationCorrectionCommands_2 :
  (let s := (running .maintenance).onTb fun b => { b with gcal := some ⟨0, 10, 10, 0, 0⟩, ticks := 0 };
    s.tb.gcal = some ⟨0, 10, 10, 0, 0⟩ ∧ s.reachTick (1000000000 * 10 + 0) = none) :=
  by decide +kernel

/-- O6. -/
theorem witness_WarmUpRulesClearAndReturn :
  (let s := ((((running .warmup).set (SEL_PRIO_RANK 0) 1).set (SEL_PRIO_SOURCE 0) 2).onSel fun x => { x with srcs := SMap.set {} x.srcs 2 { q1 := true } }).onTb fun b => { b with warmOpenPrev := 4, warmBegan := 4, warmTaken := false, ticks := 5 };
    s.is TB_STATUS_WARM = true ∧ s.warmRuns = true ∧ s.is TB_STATUS_OSCLOSS = false ∧ s.anyQ1 = true ∧
    s.is TB_STATUS_WARMRULE = false ∧ instSec s.now % 10 = 0 ∧ s.tb.warmTaken = false ∧ s.warmReference = some 2 ∧
    s.tb.warmRef ≠ some 2 ∧ s.tb.warmOpenPrev < s.tb.ticks) ∧
  (let s := ((((running .warmup).set (SEL_PRIO_RANK 0) 1).set (SEL_PRIO_SOURCE 0) 2).onSel fun x => { x with srcs := SMap.set {} x.srcs 2 { q1 := true } }).onTb fun b => { b with warmOpenPrev := 4, warmBegan := 4, warmTaken := false, ticks := 5, warmRef := some 2 };
    s.is TB_STATUS_WARM = true ∧ s.warmRuns = true ∧ s.is TB_STATUS_OSCLOSS = false ∧ s.anyQ1 = true ∧
    s.is TB_STATUS_WARMRULE = false ∧ instSec s.now % 10 = 0 ∧ s.tb.warmTaken = false ∧ s.warmReference = some 2 ∧
    s.tb.warmRef = some 2 ∧ s.tb.warmBegan ≤ s.tb.warmOpenPrev ∧ s.tb.warmPrev = none) ∧
  (let s := ((((((running .warmup).set (SEL_PRIO_RANK 0) 1).set (SEL_PRIO_SOURCE 0) 2).onSel fun x => { x with srcs := SMap.set {} x.srcs 2 { q1 := true } }).onTb fun b => { b with warmOpenPrev := 4, warmBegan := 4, warmTaken := false, ticks := 5, warmRef := some 2, warmPrev := some 0 }).set TB_STATUS_OCXOWARM 1).set TB_WARMLIM_LIM 5 |>.set TB_WARMN_N 2;
    s.is TB_STATUS_WARM = true ∧ s.warmRuns = true ∧ s.is TB_STATUS_OSCLOSS = false ∧ s.anyQ1 = true ∧
    s.is TB_STATUS_WARMRULE = false ∧ instSec s.now % 10 = 0 ∧ s.tb.warmTaken = false ∧ s.warmReference = some 2 ∧
    s.tb.warmRef = some 2 ∧ s.tb.warmBegan ≤ s.tb.warmOpenPrev ∧ s.tb.warmPrev = some 0 ∧
    s.get TB_WARMLIM_LIM * 1000 ≤ ((5000 : Int) - 0).natAbs) ∧
  (let s := ((((((running .warmup).set (SEL_PRIO_RANK 0) 1).set (SEL_PRIO_SOURCE 0) 2).onSel fun x => { x with srcs := SMap.set {} x.srcs 2 { q1 := true } }).onTb fun b => { b with warmOpenPrev := 4, warmBegan := 4, warmTaken := false, ticks := 5, warmRef := some 2, warmPrev := some 0 }).set TB_STATUS_OCXOWARM 1).set TB_WARMLIM_LIM 5 |>.set TB_WARMN_N 2;
    s.is TB_STATUS_WARM = true ∧ s.warmRuns = true ∧ s.is TB_STATUS_OSCLOSS = false ∧ s.anyQ1 = true ∧
    s.is TB_STATUS_WARMRULE = false ∧ instSec s.now % 10 = 0 ∧ s.tb.warmTaken = false ∧ s.warmReference = some 2 ∧
    s.tb.warmRef = some 2 ∧ s.tb.warmBegan ≤ s.tb.warmOpenPrev ∧ s.tb.warmPrev = some 0 ∧
    ((4999 : Int) - 0).natAbs < s.get TB_WARMLIM_LIM * 1000 ∧ s.is TB_STATUS_OCXOWARM = true ∧
    min (s.get TB_WARMDRIFT_COUNT + 1) (2 ^ TB_WARMDRIFT_COUNT.width - 1) < s.get TB_WARMN_N) ∧
  (let s := ((((((running .warmup).set (SEL_PRIO_RANK 0) 1).set (SEL_PRIO_SOURCE 0) 2).onSel fun x => { x with srcs := SMap.set {} x.srcs 2 { q1 := true } }).onTb fun b => { b with warmOpenPrev := 4, warmBegan := 4, warmTaken := false, ticks := 5, warmRef := some 2, warmPrev := some 0 }).set TB_STATUS_OCXOWARM 1).set TB_WARMLIM_LIM 5 |>.set TB_WARMN_N 1;
    s.is TB_STATUS_WARM = true ∧ s.warmRuns = true ∧ s.is TB_STATUS_OSCLOSS = false ∧ s.anyQ1 = true ∧
    s.is TB_STATUS_WARMRULE = false ∧ instSec s.now % 10 = 0 ∧ s.tb.warmTaken = false ∧ s.warmReference = some 2 ∧
    s.tb.warmRef = some 2 ∧ s.tb.warmBegan ≤ s.tb.warmOpenPrev ∧ s.tb.warmPrev = some 0 ∧
    ((4999 : Int) - 0).natAbs < s.get TB_WARMLIM_LIM * 1000 ∧ s.is TB_STATUS_OCXOWARM = true ∧
    s.get TB_WARMN_N ≤ min (s.get TB_WARMDRIFT_COUNT + 1) (2 ^ TB_WARMDRIFT_COUNT.width - 1)) ∧
  (let s := ((running .warmup).set TB_STATUS_OCXOWARM 1).onTb fun b => { b with ticks := 1000000000 * 65535 };
    s.is TB_STATUS_WARM = true ∧ s.warmRuns = true ∧ s.is TB_STATUS_OSCLOSS = false ∧ s.anyQ1 = false ∧
    s.is TB_STATUS_OCXOWARM = true ∧ s.reachTick (1000000000 * s.get TB_WARMMIN_SEC + max s.tb.warmFrom s.tb.ocxoRise) = some s) ∧
  (let s := ((running .service).set TB_STATUS_OCXOWARM 1).set TB_STATUS_WARM 0; s.awake = true ∧ s.is TB_STATUS_OCXOWARM = true ∧
    s.is TB_STATUS_WARM = false) ∧
  (let s := ((running .warmup).set TB_STATUS_OCXOWARM 1).set TB_STATUS_WARM 1; s.awake = true ∧ s.is TB_STATUS_OCXOWARM = true ∧
    s.is TB_STATUS_WARM = true) ∧
  (let s := ((running .warmup).set TB_STATUS_OCXOWARM 0).set TB_STATUS_WARM 1; s.awake = true ∧ s.is TB_STATUS_OCXOWARM = false ∧
    s.is TB_STATUS_WARM = true) ∧
  (let s := (((running .service).set TB_STATUS_OCXOWARM 0).set TB_STATUS_WARM 0).onTb fun b => { b with ticks := 1000000000 };
    s.warmRuns = true ∧ s.is TB_STATUS_OCXOWARM = false ∧ s.is TB_STATUS_WARM = false ∧
    s.reachTick (1000000000 + s.tb.ocxoFall) = some s) ∧
  ((running .warmup).warmRuns = true ∧ (running .warmup).is TB_STATUS_WARM = true) :=
  by
  refine ⟨?_, ?_, ?_, ?_, ?_, ?_, ?_, ?_, ?_, ?_, ?_⟩ <;> decide +kernel

/-- O7. -/
theorem witness_PowerRowsOfTheModeTable :
  ((running .service).mode ≠ .off ∧ (running .service).boot.op = none ∧ (running .service).tb.running = true ∧
    (inMode .backup).tb.running = false) ∧
  ((inMode .off).mode = .off) ∧
  ((running .holdover).awake = true ∧ (running .holdover).boot.op = none ∧ (running .holdover).mode ≠ .safe ∧
    (running .holdover).tb.running = true) ∧
  ((inMode .boot).awake = true ∧ (inMode .boot).tb.running = false) ∧
  ((inMode .backup).mode = .backup ∧ (inMode .service).mode ≠ .backup) ∧
  (let s := { inMode .off with bk := { powered := true } }; s.mode = .off ∧ s.bk.powered = true) :=
  by
  refine ⟨?_, ?_, ?_, ?_, ?_, ?_⟩ <;> decide +kernel

/-- O8. -/
theorem witness_FatalErrorsAndLinkLoss :
  ((inMode .boot).awake = true ∧ (inMode .boot).mode ≠ .safe) ∧
  ((inMode .safe).mode = .safe ∧ (inMode .backup).awake = false) ∧
  ((inMode .service).awake = true ∧ (inMode .service).pw.d2dLost = none) ∧
  (let s := ((running .service).onPw fun p => { p with d2dLost := some 0 }).onTb fun b => { b with ticks := 10000000 };
    s.pw.d2dLost = some 0 ∧ s.tb.ticks ≤ 10000000 + 0 ∧ s.reachTick (10000000 + 0) = some s) ∧
  (let s := (inMode .service).onPw fun p => { p with d2dLost := some 0 }; s.pw.d2dLost = some 0 ∧ s.reachTick (10000000 + 0) = none) ∧
  ((inMode .service).tb.running = false ∧ (running .service).tb.running = true) ∧
  (let up := fun (x : TbCount) (m : Nat) => TbCount.ofBits ((x.bits ^^^ m) % 2 ^ 120);
    let u := (running .service).onTb fun t => { t with c0 := up t.c0 1, c1 := up t.c1 2, c2 := up t.c2 4 };
    u.is TB_STATUS_COPYFAIL = false ∧ u.tb.c0.bits ≠ u.tb.c1.bits ∧ u.tb.c0.bits ≠ u.tb.c2.bits ∧ u.tb.c1.bits ≠ u.tb.c2.bits) ∧
  (let u := running .service; u.is TB_STATUS_COPYFAIL = false ∧ u.tb.c1 = u.tb.c0 ∧ u.tb.c2 = u.tb.c0 ∧ u.master = u.tb.c0) ∧
  (let up := fun (x : TbCount) (m : Nat) => TbCount.ofBits ((x.bits ^^^ m) % 2 ^ 120);
    let u := (running .service).onTb fun t => { t with c0 := up t.c0 1, c1 := up t.c1 0, c2 := up t.c2 0 };
    u.is TB_STATUS_COPYFAIL = false ∧ u.tb.c1 = u.tb.c2 ∧ u.master = u.tb.c1 ∧ u.tb.c0 ≠ u.tb.c1) ∧
  (let up := fun (x : TbCount) (m : Nat) => TbCount.ofBits ((x.bits ^^^ m) % 2 ^ 120);
    let u := ((running .service).set TB_STATUS_COPYFAIL 1).set TB_STATUS_FAILEDCOPY 2; u.is TB_STATUS_COPYFAIL = true ∧
    u.get TB_STATUS_FAILEDCOPY = 2 ∧ u.tb.c0 = u.tb.c1 ∧
    (u.onTb fun t => { t with c0 := up t.c0 1 }).tb.c0 ≠ (u.onTb fun t => { t with c0 := up t.c0 1 }).tb.c1) :=
  by
  refine ⟨?_, ?_, ?_, ?_, ?_, ?_, ?_, ?_, ?_, ?_⟩ <;> decide +kernel

/-- O9, part 1. -/
theorem witness_ModeCommandsAndEvaluation :
  ((inMode .service).awake = true) ∧
  (let s := ((inMode .warmup).set TB_STATUS_WARM 0).set SYS_MODE_PAIR 1; s.mode = .warmup ∧ s.is TB_STATUS_WARM = false ∧
    s.noToken = true) ∧
  (let s := ((inMode .warmup).set TB_STATUS_WARM 0).set SEL_STATUS_ACTIVE 19; s.mode = .warmup ∧ s.is TB_STATUS_WARM = false ∧
    s.noToken = false ∧ s.active.isSome = true) ∧
  (let s := (inMode .warmup).set TB_STATUS_WARM 0; s.mode = .warmup ∧ s.is TB_STATUS_WARM = false ∧ s.noToken = false ∧
    s.active.isSome = false) ∧
  (let s := inMode .warmup; s.mode = .warmup ∧ s.is TB_STATUS_WARM = true) ∧
  (let s := (inMode .service).set SYS_MODE_PAIR 1; s.mode = .service ∧ s.noToken = true) ∧
  (let s := inMode .service; s.mode = .service ∧ s.noToken = false ∧ s.is TB_STATUS_WARM = true) ∧
  (let s := (inMode .service).set TB_STATUS_WARM 0; s.mode = .service ∧ s.noToken = false ∧ s.is TB_STATUS_WARM = false ∧
    (List.range 20).all (fun k => s.good k = false) = true) ∧
  (let s := ((inMode .service).set TB_STATUS_WARM 0).set (SEL_SRC_STATE 19) 6; s.mode = .service ∧ s.noToken = false ∧
    s.is TB_STATUS_WARM = false ∧ s.good 19 = true) ∧
  (let s := (inMode .holdover).set SYS_MODE_PAIR 1; s.mode = .holdover ∧ s.noToken = true) ∧
  (let s := inMode .holdover; s.mode = .holdover ∧ s.noToken = false ∧ s.is TB_STATUS_WARM = true) ∧
  (let s := ((inMode .holdover).set TB_STATUS_WARM 0).set SEL_STATUS_ACTIVE 0; s.mode = .holdover ∧ s.noToken = false ∧
    s.is TB_STATUS_WARM = false ∧ s.active.isSome = true) :=
  by
  refine ⟨?_, ?_, ?_, ?_, ?_, ?_, ?_, ?_, ?_, ?_, ?_, ?_⟩ <;> decide +kernel

/-- O9, part 2. -/
theorem witness_ModeCommandsAndEvaluation_2 :
  (let s := (inMode .holdover).set TB_STATUS_WARM 0; s.mode = .holdover ∧ s.noToken = false ∧ s.is TB_STATUS_WARM = false ∧
    s.active.isSome = false) ∧
  (let s := ((inMode .standby).set LEASE_STATUS_STATE 5).set (SEL_SRC_STATE 0) 4; s.mode = .standby ∧ s.holds = true ∧
    s.otherGood = true) ∧
  (let s := ((inMode .standby).set LEASE_STATUS_STATE 5).set SEL_STATUS_EVERACTIVE 1; s.mode = .standby ∧ s.holds = true ∧
    s.otherGood = false ∧ s.is SEL_STATUS_EVERACTIVE = true) ∧
  (let s := (inMode .standby).set LEASE_STATUS_STATE 5; s.mode = .standby ∧ s.holds = true ∧ s.otherGood = false ∧
    s.is SEL_STATUS_EVERACTIVE = false) ∧
  (let s := inMode .standby; s.mode = .standby ∧ s.holds = false ∧ s.is TB_STATUS_WARM = true ∧
    (s.set TB_STATUS_WARM 0).holds = false ∧ (s.set TB_STATUS_WARM 0).is TB_STATUS_WARM = false) ∧
  (let s := inMode .safe; s.mode = .safe ∧ s.awake = true ∧ (inMode .boot).mode = .boot) ∧
  (let s := inMode .standby; s.mode = .standby ∧ s.leaseSt ≠ 5) ∧
  (let s := (inMode .service).set LEASE_STATUS_STATE 5; s.mode = .service ∧ s.leaseSt = 5 ∧ s.is CFG_SERVE_MAINT_SERVE = false) ∧
  (let s := inMode .maintenance; s.mode = .maintenance ∧ (if s.is TB_STATUS_WARM = true then Mode.warmup else .service) = .warmup) ∧
  (let s := inMode .boot; s.mode = .boot ∧ s.awake = true ∧ s.mode ≠ .maintenance) :=
  by
  refine ⟨?_, ?_, ?_, ?_, ?_, ?_, ?_, ?_, ?_, ?_⟩ <;> decide +kernel

/-- O10, part 1. -/
theorem witness_BootRunsItsSequence :
  (let s := (inMode .backup).onPw fun p => { p with sequencing := true }; s.mode = .backup ∧ s.pw.sequencing = true ∧
    (inMode .backup).pw.sequencing = false) ∧
  (let s := ((running .boot).onBoot fun b => { b with step := .identify, flashTries := 2 }).onTb fun b => { b with ticks := 10000000 };
    s.mode = .boot ∧ s.boot.step = .identify ∧ s.reachClocked (10000000 + s.boot.stepAt) = some s ∧ 2 ≤ s.boot.flashTries ∧
    (inMode .boot).boot.flashTries < 2) ∧
  (let s := (running .boot).onBoot fun b => { b with step := .identify, stepAt := 1999999999 };
    s.reachClocked (10000000 + s.boot.stepAt) = none) ∧
  ((inMode .boot).mode = .boot ∧ (inMode .boot).tb.running = false ∧ (inMode .boot).bk.valid = false ∧
    ((inMode .boot).onBk fun b => { b with valid := true }).bk.valid = true) ∧
  ((running .boot).tb.running = true ∧ (inMode .service).mode ≠ .boot ∧ (inMode .service).mode ≠ .safe) ∧
  ((inMode .boot).mode = .boot ∧ (inMode .boot).boot.entropyDone = false ∧ (true || false) = true ∧
    (inMode .boot).bk.clearAsked = false) ∧
  (let s := (inMode .boot).onBk fun b => { b with clearAsked := true }; s.mode = .boot ∧ s.boot.entropyDone = false ∧
    (false || true) = true ∧ s.bk.clearAsked = true ∧ s.boot.importOff = false) ∧
  (let s := (inMode .boot).onBoot fun b => { b with step := .readSlot }; s.mode = .boot ∧ s.boot.step = .readSlot) ∧
  (let s := slotHolds (running .boot) 1 1 .readSlot false; s.mode = .boot ∧ s.boot.step = .readSlot ∧
    s.reachTick (20 * s.imgLen s.boot.slot + s.boot.stepAt) = some s ∧ s.crcOk s.boot.slot = false) ∧
  (let s := slotHolds ((running .boot).set SYS_LIFECYCLE_STATE 1) 0 0 .readSlot false; s.mode = .boot ∧ s.boot.step = .readSlot ∧
    s.reachTick (20 * s.imgLen s.boot.slot + s.boot.stepAt) = some s ∧ s.crcOk s.boot.slot = true ∧ s.rootOk s.boot.slot = false) ∧
  (let s := slotHolds (running .boot) 0 0 .readSlot false; s.mode = .boot ∧ s.boot.step = .readSlot ∧
    s.reachTick (20 * s.imgLen s.boot.slot + s.boot.stepAt) = some s ∧ s.crcOk s.boot.slot = true ∧ s.rootOk s.boot.slot = true) ∧
  (let s := ((running .boot).onBoot fun b => { b with step := .verify, entropyDone := true }).onTb fun b => { b with ticks := 8279296 };
    s.mode = .boot ∧ s.boot.step = .verify ∧ s.boot.entropyDone = true ∧ s.reachTick (8279296 + s.boot.stepAt) = some s ∧
    s.boot.verifyFaults = 0) :=
  by
  refine ⟨?_, ?_, ?_, ?_, ?_, ?_, ?_, ?_, ?_, ?_, ?_, ?_⟩ <;> decide +kernel

/-- O10, part 2. -/
theorem witness_BootRunsItsSequence_2 :
  (let s := ((running .boot).onBoot fun b => { b with step := .verify, entropyDone := true, verifyFaults := 1 }).onTb fun b => { b with ticks := 8279296 };
    s.mode = .boot ∧ s.boot.step = .verify ∧ s.boot.entropyDone = true ∧ s.reachTick (8279296 + s.boot.stepAt) = some s ∧
    s.boot.verifyFaults ≠ 0) ∧
  (let s := slotHolds ((((running .boot).set SYS_LIFECYCLE_STATE 2).set SYS_LIFECYCLE_SVNCNT 1).onTb fun b => { b with ticks := 8279296 }) 0 0 .verify true;
    s.boot.step = .verify ∧ s.reachTick (8279296 + s.boot.stepAt) = some s ∧ s.svnOk s.boot.slot = false) ∧
  (let s := slotHolds ((running .boot).onTb fun b => { b with ticks := 8279296 }) 0 0 .verify true; s.boot.step = .verify ∧
    s.reachTick (8279296 + s.boot.stepAt) = some s ∧ s.svnOk s.boot.slot = true) ∧
  (let s := (running .boot).onBoot fun b => { b with step := .apply }; s.mode = .boot ∧ s.boot.step = .apply ∧ s.tb.running = true ∧
    s.is LEASE_CFG_EN = false) ∧
  ((inMode .service).mode ≠ .boot) :=
  by
  refine ⟨?_, ?_, ?_, ?_, ?_⟩ <;> decide +kernel

/-- O11. -/
theorem witness_RebootKeepsTheCountAndTheSlotChoice :
  ((running .service).awake = true ∧ (running .service).leaseSt ≠ 5 ∧ (running .service).is NVM_STATUS_FLASHOK = false ∧
    (running .service).boot.op = none) ∧
  (let s := ((running .service).set LEASE_STATUS_STATE 5).set NVM_STATUS_FLASHOK 1; s.awake = true ∧ s.leaseSt = 5 ∧
    s.is NVM_STATUS_FLASHOK = true) ∧
  ((inMode .backup).awake = false) :=
  by
  refine ⟨?_, ?_, ?_⟩ <;> decide +kernel

/-- O12. -/
theorem witness_LifecycleCommandsArmThenExecute :
  ((inMode .maintenance).mode = .maintenance ∧ (inMode .maintenance).boot.lcArmed = none ∧
    (Instr.revoke .spi 3, 5, 3) ∈ [(Instr.revoke .spi 2, 5, 2), (.revoke .spi 3, 5, 3)]) ∧
  ((inMode .service).awake = true ∧ (inMode .service).mode ≠ .maintenance ∧
    (Instr.deploy .omp, 2, 0) ∈ [(Instr.provision .omp, 1, 0), (.deploy .omp, 2, 0)]) ∧
  (let s := (inMode .maintenance).onBoot fun b => { b with slot := 0, lcArmed := some (1 + 0 * 256, 0) }; s.mode = .maintenance ∧
    s.boot.lcArmed = some (1 + 0 * 256, 0) ∧ s.tb.ticks ≤ 1000000000 + 0 ∧ s.get SYS_LIFECYCLE_STATE = 0 ∧
    s.get SYS_LIFECYCLE_STATE ≠ 1) ∧
  (let s := ((inMode .maintenance).set SYS_LIFECYCLE_STATE 1).onBoot fun b => { b with slot := 0, lcArmed := some (2 + 0 * 256, 0) };
    s.mode = .maintenance ∧ s.boot.lcArmed = some (2 + 0 * 256, 0) ∧ s.tb.ticks ≤ 1000000000 + 0 ∧ s.get SYS_LIFECYCLE_STATE = 1 ∧
    s.get SYS_LIFECYCLE_STATE ≠ 0) ∧
  (let s := ((inMode .maintenance).set SYS_LIFECYCLE_STATE 2).onBoot fun b => { b with slot := 0, lcArmed := some (3 + 0 * 256, 0) };
    s.mode = .maintenance ∧ s.boot.lcArmed = some (3 + 0 * 256, 0) ∧ s.tb.ticks ≤ 1000000000 + 0 ∧ s.get SYS_LIFECYCLE_STATE = 2) ∧
  (let s := (((inMode .maintenance).set SYS_LIFECYCLE_STATE 1).set (NVM_SLOT_VALID 1) 1).onBoot fun b => { b with slot := 0, lcArmed := some (4 + 0 * 256, 0) };
    s.mode = .maintenance ∧ s.boot.lcArmed = some (4 + 0 * 256, 0) ∧ s.tb.ticks ≤ 1000000000 + 0 ∧ s.get SYS_LIFECYCLE_STATE = 1 ∧
    s.is SYS_LIFECYCLE_ROOT1 = false ∧ s.is (NVM_SLOT_VALID (1 - s.boot.slot)) = true) ∧
  (let s := (((inMode .maintenance).set SYS_LIFECYCLE_STATE 2).set SYS_LIFECYCLE_ROOT1 1).onBoot fun b => { b with slot := 0, lcArmed := some (4 + 0 * 256, 0) };
    s.mode = .maintenance ∧ s.boot.lcArmed = some (4 + 0 * 256, 0) ∧ s.tb.ticks ≤ 1000000000 + 0 ∧ s.is SYS_LIFECYCLE_ROOT1 = true) ∧
  (let s := ((inMode .maintenance).set SYS_LIFECYCLE_ROOT1 1).onBoot fun b => { b with slot := 0, root1 := (inMode .maintenance).keyHash 0, lcArmed := some (5 + 0 * 256, 0) };
    s.mode = .maintenance ∧ s.boot.lcArmed = some (5 + 0 * 256, 0) ∧ s.tb.ticks ≤ 1000000000 + 0 ∧ s.rootLive 1 = true ∧
    s.keyHash s.boot.slot = s.rootDigest 1) ∧
  (let s := ((inMode .maintenance).set SYS_LIFECYCLE_ROOT0 1).onBoot fun b => { b with slot := 0, root0 := (inMode .maintenance).keyHash 0, lcArmed := some (5 + 1 * 256, 0) };
    s.mode = .maintenance ∧ s.boot.lcArmed = some (5 + 1 * 256, 0) ∧ s.tb.ticks ≤ 1000000000 + 0 ∧ s.rootLive 0 = true ∧
    s.keyHash s.boot.slot = s.rootDigest 0) ∧
  (let s := (inMode .maintenance).onBoot fun b => { b with slot := 0, lcArmed := some (5 + 0 * 256, 0) }; s.mode = .maintenance ∧
    s.boot.lcArmed = some (5 + 0 * 256, 0) ∧ s.tb.ticks ≤ 1000000000 + 0 ∧ s.rootLive 1 = false ∧ s.rootLive 0 = false) ∧
  (let s := ((inMode .maintenance).set SYS_LIFECYCLE_STATE 2).onBoot fun b => { b with slot := 0, lcArmed := some (6 + 0 * 256, 0) };
    s.mode = .maintenance ∧ s.boot.lcArmed = some (6 + 0 * 256, 0) ∧ s.tb.ticks ≤ 1000000000 + 0 ∧ s.get SYS_LIFECYCLE_STATE = 2 ∧
    (inMode .maintenance).get SYS_LIFECYCLE_STATE ≠ 2) ∧
  (let s := ((inMode .maintenance).set SYS_TAMPER_LATCH 1).onBoot fun b => { b with slot := 0, lcArmed := some (7 + 0 * 256, 0) };
    s.mode = .maintenance ∧ s.boot.lcArmed = some (7 + 0 * 256, 0) ∧ s.tb.ticks ≤ 1000000000 + 0 ∧ s.is SYS_TAMPER_LATCH = true ∧
    (inMode .maintenance).is SYS_TAMPER_LATCH = false) :=
  by
  refine ⟨?_, ?_, ?_, ?_, ?_, ?_, ?_, ?_, ?_, ?_, ?_, ?_⟩ <;> first | decide +kernel | rfl | trivial

/-- O13, part 1. -/
theorem witness_TamperScrubEntropyAndConfirmation :
  (let s := (inMode .service).onBk fun b => { b with powered := true, tamperEn := 2, tamperPol := 2 }; s.bk.powered = true ∧
    s.bk.tamperEn.testBit 1 = true ∧ s.bk.tamperPol.testBit 1 = true ∧ s.awake = true) ∧
  (let s := (inMode .backup).onBk fun b => { b with powered := true, tamperEn := 2, tamperPol := 2 }; s.bk.powered = true ∧
    s.bk.tamperEn.testBit 1 = true ∧ s.bk.tamperPol.testBit 1 = true ∧ s.awake = false) ∧
  (let s := (inMode .backup).onBk fun b => { b with powered := true, tamperEn := 2, tamperPol := 2 };
    s.bk.tamperEn.testBit 0 = false ∧ s.bk.tamperPol.testBit 1 = !false ∧
    ((inMode .off).onBk fun b => { b with powered := false }).bk.powered = false) ∧
  ((inMode .service).is SYS_TAMPER_LATCH = false ∧ ((inMode .service).set SYS_TAMPER_LATCH 1).is SYS_TAMPER_LATCH = true) ∧
  (let s := (inMode .service).onBoot fun b => { b with keys := SMap.set none b.keys 255 (some { type := 1, cls := 0, value := 5 }) };
    s.awake = true ∧ s.entryAt 255 = some { type := 1, cls := 0, value := 5 } ∧ s.entryAt 0 = none) ∧
  (let s := (((inMode .service).set SYS_ENTROPY_DRBGOK 1).set SYS_ENTROPY_FAILED 0).onBoot fun b => { b with srcFails := (1, 0) };
    s.awake = true ∧ s.is SYS_ENTROPY_DRBGOK = true ∧ s.bit SYS_ENTROPY_FAILED 0 = false ∧ s.boot.srcFails.1 + 1 < 3) ∧
  (let s := (((inMode .service).set SYS_ENTROPY_DRBGOK 1).set SYS_ENTROPY_FAILED 0).onBoot fun b => { b with srcFails := (2, 0) };
    s.awake = true ∧ s.is SYS_ENTROPY_DRBGOK = true ∧ s.bit SYS_ENTROPY_FAILED 0 = false ∧ 3 ≤ s.boot.srcFails.1 + 1 ∧
    (s.setBit SYS_ENTROPY_FAILED 0 true).get SYS_ENTROPY_FAILED ≠ 3) ∧
  (let s := (((inMode .service).set SYS_ENTROPY_DRBGOK 1).set SYS_ENTROPY_FAILED 2).onBoot fun b => { b with srcFails := (2, 0) };
    s.awake = true ∧ s.is SYS_ENTROPY_DRBGOK = true ∧ s.bit SYS_ENTROPY_FAILED 0 = false ∧ 3 ≤ s.boot.srcFails.1 + 1 ∧
    (s.setBit SYS_ENTROPY_FAILED 0 true).get SYS_ENTROPY_FAILED = 3) ∧
  (let s := (inMode .service).set SYS_ENTROPY_FAILED 3; s.bit SYS_ENTROPY_FAILED 1 = true ∧ s.get SYS_ENTROPY_FAILED = 3) ∧
  (let s := (((running .service).set SYS_ENTROPY_DRBGOK 1).onBoot fun b => { b with drbgReqs := 2 ^ 20 }); s.awake = true ∧
    s.is SYS_ENTROPY_DRBGOK = true ∧ s.get SYS_ENTROPY_FAILED ≠ 3 ∧ 2 ^ 20 ≤ s.boot.drbgReqs) ∧
  (let s := (((running .service).set SYS_ENTROPY_DRBGOK 1).onBoot fun b => { b with drbgReqs := 2 ^ 20 - 1 }).onTb fun b => { b with ticks := 1000000000 };
    s.awake = true ∧ s.is SYS_ENTROPY_DRBGOK = true ∧ s.get SYS_ENTROPY_FAILED ≠ 3 ∧ s.boot.drbgReqs < 2 ^ 20 ∧
    s.reachTick (1000000000 + s.boot.seededAt) = some s) ∧
  ((inMode .standby).mode = .standby ∧ (inMode .standby).is NVM_CONFIRM_CONFIRM = false ∧
    ((inMode .service).set NVM_CONFIRM_CONFIRM 1).is NVM_CONFIRM_CONFIRM = true) :=
  by
  refine ⟨?_, ?_, ?_, ?_, ?_, ?_, ?_, ?_, ?_, ?_, ?_, ?_⟩ <;> decide +kernel

/-- O13, part 2. -/
theorem witness_TamperScrubEntropyAndConfirmation_2 :
  (let s := ((running .service).set CFG_IMAGE_AUTOCONF 1).onTb fun b => { b with ticks := 600000000000 };
    s.is CFG_IMAGE_AUTOCONF = true ∧ s.is NVM_CONFIRM_CONFIRM = false ∧ s.reachTick (600 * 1000000000 + s.boot.upSince) = some s) :=
  by decide +kernel

set_option maxRecDepth 100000 in
/-- O14. -/
theorem witness_UpdateSessionsRunTheirCommands :
  (let s := inMode .safe; s.awake = true ∧ s.mode ≠ .boot ∧ s.is NVM_STATUS_SESSION = false ∧ s.boot.op = none ∧
    ((1 : Fin 2) : Nat) ≠ s.get NVM_STATUS_BOOTSLOT) ∧
  (let s := (inMode .service).set NVM_STATUS_SESSION 1; s.awake = true ∧ s.mode ≠ .boot ∧ s.is NVM_STATUS_SESSION = true ∧
    s.boot.op = none ∧ s.is NVM_STATUS_SESSIONOMP = false) ∧
  (let s := ((inMode .service).set NVM_STATUS_SESSION 1).set NVM_STATUS_SESSIONOMP 1; s.awake = true ∧ s.mode ≠ .boot ∧
    s.boot.op = none ∧ s.is NVM_STATUS_SESSION = true ∧ s.is NVM_STATUS_SESSIONOMP = true) ∧
  (((inMode .service).onBoot fun b => { b with op := some .program }).boot.op = some .program) ∧
  (((inMode .service).onBoot fun b => { b with op := some .erase }).boot.op = some .erase) ∧
  (((inMode .service).onBoot fun b => { b with op := some .read }).boot.op = some .read) ∧
  (((inMode .service).onBoot fun b => { b with op := some .verify }).boot.op = some .verify) ∧
  ((imageOf 2).slotReason 0 = 5) ∧
  ((imageOf 1).slotReason 0 = 9) ∧
  ((inMode .service).slotReason 0 ≠ 0 ∧ (inMode .service).slotReason 0 < 5) ∧
  ((inMode .service).boot.op = none) :=
  by
  refine ⟨?_, ?_, ?_, ?_, ?_, ?_, ?_, ?_, ?_, ?_, ?_⟩ <;> decide +kernel

/-- O15, part 1. -/
theorem witness_SuppliesBatteryAndSensorsFollowTheirRows :
  ((inMode .backup).awake = false ∧ (inMode .boot).warmedUp = false ∧ (inMode .service).evalInstant = none) ∧
  (let s := (running .service).onTb fun b => { b with c0 := ⟨0, 1000000, 0⟩, c1 := ⟨0, 1000000, 0⟩, c2 := ⟨0, 1000000, 0⟩ };
    s.awake = true ∧ s.pw.evalAt / 1000000 < s.nowNs / 1000000 ∧ s.evalInstant = some s) ∧
  ((running .service).nowNs / 1000000 ≤ (running .service).pw.evalAt / 1000000 ∧
    ((running .service).set PM_STATUS_AVSFAULT 1).is PM_STATUS_AVSFAULT = true) ∧
  (let s := inMode .service; s.warmedUp = true ∧ s.is PM_STATUS_AVSFAULT = false ∧ (s.set PM_AVSCFG_EN 0).is PM_AVSCFG_EN = false) ∧
  (let s := ((inMode .service).set PM_AVSCFG_EN 1).set PM_AVSCTL_DOWNMS 1; s.warmedUp = true ∧ s.is PM_STATUS_AVSFAULT = false ∧
    s.is PM_AVSCFG_EN = true ∧ (s.onPw fun p => { p with vreqSeen := true }).pw.vreqSeen = true ∧
    (s.set FAB_STATUS_VREQ 1).is FAB_STATUS_VREQ = true) ∧
  (let s := ((inMode .service).set PM_AVSCFG_EN 1).set PM_AVSCTL_DOWNMS 1; s.warmedUp = true ∧ s.is PM_STATUS_AVSFAULT = false ∧
    s.is PM_AVSCFG_EN = true ∧ s.pw.vreqSeen = false ∧ s.is FAB_STATUS_VREQ = false ∧ s.pw.occSeen = false ∧
    s.get PM_AVSCTL_DOWNMS ≤ s.pw.lowMs + 1) ∧
  (let s := ((inMode .service).set PM_AVSCFG_EN 1).set PM_AVSCTL_DOWNMS 1; s.warmedUp = true ∧ s.is PM_STATUS_AVSFAULT = false ∧
    s.is PM_AVSCFG_EN = true ∧ s.pw.vreqSeen = false ∧ s.is FAB_STATUS_VREQ = false ∧
    (s.onPw fun p => { p with occSeen := true }).pw.occSeen = true ∧ 0 < s.get PM_AVSCTL_DOWNMS) ∧
  (let s := ((inMode .service).set PM_AVSCFG_EN 1).set PM_AVSCTL_DOWNMS 2; s.warmedUp = true ∧ s.is PM_STATUS_AVSFAULT = false ∧
    s.is PM_AVSCFG_EN = true ∧ s.pw.vreqSeen = false ∧ s.is FAB_STATUS_VREQ = false ∧ s.pw.occSeen = false ∧
    s.pw.lowMs + 1 < s.get PM_AVSCTL_DOWNMS) ∧
  (let s := (inMode .service).set PM_VCORE_TARGET 800; 804 - 804 % 5 = s.get PM_VCORE_TARGET ∧ 805 - 805 % 5 ≠ s.get PM_VCORE_TARGET) ∧
  (let s := ((inMode .service).set PM_VCORE_TARGET 800).onPw fun p => { p with avsAcked := 700, avsTries := 2 }; s.awake = true ∧
    s.get PM_VCORE_TARGET ≠ s.pw.avsAcked ∧ s.is PM_STATUS_AVSFAULT = false ∧ s.pw.avsTries < 3 ∧
    s.reachClocked (10000 + s.pw.avsAt) = some s) ∧
  (let s := ((inMode .service).set PM_VCORE_TARGET 800).onPw fun p => { p with avsAcked := 700, avsTries := 3 }; s.awake = true ∧
    s.get PM_VCORE_TARGET ≠ s.pw.avsAcked ∧ s.is PM_STATUS_AVSFAULT = false ∧ 3 ≤ s.pw.avsTries) ∧
  (let s := ((inMode .service).set PM_VCORE_TARGET 800).onPw fun p => { p with avsAcked := 800 };
    s.get PM_VCORE_TARGET = s.pw.avsAcked) :=
  by
  refine ⟨?_, ?_, ?_, ?_, ?_, ?_, ?_, ?_, ?_, ?_, ?_, ?_⟩ <;> decide +kernel

/-- O15, part 2. -/
theorem witness_SuppliesBatteryAndSensorsFollowTheirRows_2 :
  (let s := (running .service).onTb fun b => { b with ticks := 1000000000 }; s.awake = true ∧
    s.reachClocked (1000000000 + s.pw.statusAt) = some s) ∧
  ((inMode .backup).awake = false ∧
    ((running .service).onPw fun p => { p with statusAt := 1000000000 }).reachClocked (1000000000 + 1000000000) = none) ∧
  ((inMode .service).is PM_STATUS_AVSFAULT = false ∧ ((inMode .service).set PM_STATUS_AVSFAULT 1).is PM_STATUS_AVSFAULT = true) ∧
  ((inMode .boot).awake = true ∧ (inMode .boot).warmedUp = false) ∧
  (let s := (inMode .service).set PM_AVSCFG_EN 1; s.is PM_AVSCFG_EN = true ∧ s.warmedUp = true ∧ s.is PM_STATUS_BOOST = false ∧
    (s.set PM_STATUS_BOOST 1).is PM_STATUS_BOOST = true) ∧
  (let s := (inMode .service).set PM_STATUS_BOOST 1; s.is PM_STATUS_BOOST = true ∧ s.reachTick s.pw.boostEnd = some s) ∧
  (let s := inMode .service; s.awake = true ∧ (∀ d ∈ s.pw.dips, d.rail ≠ 7) ∧
    ((s.onPw fun p => { p with dips := s.pw.dips ++ [⟨7, s.tb.ticks, 0⟩] }).railSample 7 0).railLow = false ∧
    ((s.onPw fun p => { p with dips := s.pw.dips ++ [⟨0, s.tb.ticks, 0⟩] }).railSample 0 0).railLow = true) ∧
  (let s := (inMode .service).onPw fun p => { p with dips := [⟨0, 0, 700⟩] }; s.mode ≠ .backup ∧ ⟨0, 0, 700⟩ ∈ s.pw.dips ∧
    (inMode .backup).mode = .backup) ∧
  (let s := (inMode .service).onPw fun p => { p with dips := [⟨0, 0, 700⟩] }; s.awake = true ∧
    (s.pw.dips.find? fun d => d.rail == (0 : Fin 8).val) = some ⟨0, 0, 700⟩) ∧
  ((inMode .off).mode = .off ∧ (inMode .backup).awake = false ∧ (inMode .service).pw.dips = []) ∧
  ((inMode .service).awake = true ∧ (inMode .service).is PM_VBAT_LOW = false) ∧
  (((inMode .service).set PM_VBAT_LOW 1).awake = true ∧ ((inMode .service).set PM_VBAT_LOW 1).is PM_VBAT_LOW = true) :=
  by
  refine ⟨?_, ?_, ?_, ?_, ?_, ?_, ?_, ?_, ?_, ?_, ?_, ?_⟩ <;> decide +kernel

/-- O15, part 3. -/
theorem witness_SuppliesBatteryAndSensorsFollowTheirRows_3 :
  ((inMode .service).is PM_STATUS_HOT = false ∧ ((inMode .service).set PM_STATUS_HOT 1).is PM_STATUS_HOT = true) ∧
  ((inMode .service).awake = true ∧ (List.replicate 10 (1250 : Int)).length = 10) ∧
  ((inMode .backup).mode ≠ .off ∧ (inMode .safe).mode = .safe ∧ (inMode .service).mode ≠ .backup ∧ (inMode .service).mode ≠ .safe ∧
    (inMode .off).mode = .off) :=
  by
  refine ⟨?_, ?_, ?_⟩ <;> decide +kernel

/-- O16. -/
theorem witness_TdcEdgesAreCountedOrStamped :
  ((inMode .service).reachTick (1 + (inMode .service).tb.ticks) = none ∧
    (running .service).reachTick (0 + (running .service).tb.ticks) = some (running .service) ∧ (inMode .backup).awake = false ∧
    (inMode .service).tb.running = false ∧ ((running .service).chCfg 0).en = false) ∧
  (let s := ((running .service).set (TDC_CH_EN 31) 1); s.awake = true ∧ s.tb.running = true ∧ (s.chCfg 31).en = true ∧
    (s.chCfg 31).edge = 0) ∧
  (let s := ((running .service).set (TDC_CH_EN 31) 1).set (TDC_CH_EDGE 31) 1; s.awake = true ∧ s.tb.running = true ∧
    (s.chCfg 31).en = true ∧ (s.chCfg 31).edge = 1) ∧
  (let s := ((running .service).set (TDC_CH_EN 31) 1).set (TDC_CH_DIV 31) 2; s.awake = true ∧ s.tb.running = true ∧
    (s.chCfg 31).en = true ∧ (s.chCfg 31).edge = 0 ∧ (s.collect.ch 31).divCount + 1 < (s.chCfg 31).div) ∧
  (let s := ((running .service).set (TDC_CH_EN 31) 1).set (TDC_CH_STEN 31) 1 |>.setCh 31 { fifo := 64 }; s.awake = true ∧
    s.tb.running = true ∧ (s.chCfg 31).en = true ∧ (s.chCfg 31).div ≤ (s.collect.ch 31).divCount + 1 ∧
    (s.collect.ch 31).lastAt = none ∧ (s.chCfg 31).sten = true) ∧
  (let s := ((running .service).set (TDC_CH_EN 31) 1); s.awake = true ∧ s.tb.running = true ∧ (s.chCfg 31).en = true ∧
    (s.chCfg 31).div ≤ (s.collect.ch 31).divCount + 1 ∧ (s.collect.ch 31).lastAt = none ∧ (s.chCfg 31).sten = false ∧
    s.is SEL_TODIN_EN = false) :=
  by
  refine ⟨?_, ?_, ?_, ?_, ?_, ?_⟩ <;> decide +kernel

/-- O17. -/
theorem witness_IntervalWindowsAndQueues :
  (SMap.get [] (inMode .service).tdc.queues 7 = []) ∧
  (let s := (inMode .service).onTdc fun t => { t with queues := SMap.set [] t.queues 7 [⟨5, true, false, false, 0⟩, ⟨6, true, false, false, 0⟩] };
    SMap.get [] s.tdc.queues 7 = ⟨5, true, false, false, 0⟩ :: [⟨6, true, false, false, 0⟩] ∧
    [(⟨6, true, false, false, 0⟩ : EqRecord)].length < 256) ∧
  (let s := (((running .service).set (TDC_IV_STOP 7) 1).setUnit 7 { starts := [(10, 0), (20, 0)], stops := [10 + 1000000 * ns1] }).onTb fun b => { b with ticks := 1000000100 };
    (s.ivCfg 7).start ≠ (s.ivCfg 7).stop ∧ (s.unit 7).starts = (10, 0) :: [(20, 0)] ∧
    s.reachTick (0 + (s.ivCfg 7).win + 100) = some s ∧
    nearestStop 10 ((s.ivCfg 7).win * ns1) (s.unit 7).stops = some (10 + 1000000 * ns1)) ∧
  (let s := (((running .service).set (TDC_IV_STOP 7) 1).setUnit 7 { starts := [(10, 0), (20, 0)], stops := [] }).onTb fun b => { b with ticks := 1000000100 };
    (s.ivCfg 7).start ≠ (s.ivCfg 7).stop ∧ (s.unit 7).starts = (10, 0) :: [(20, 0)] ∧
    s.reachTick (0 + (s.ivCfg 7).win + 100) = some s ∧ nearestStop 10 ((s.ivCfg 7).win * ns1) (s.unit 7).stops = none) ∧
  (((inMode .service).ivCfg 0).start = ((inMode .service).ivCfg 0).stop) ∧
  (((inMode .service).ivCfg 7).sten = false ∧ (63 : Int).natAbs < 64 ∧ 64 ≤ (-64 : Int).natAbs ∧ (-64 : Int).natAbs < 2 ^ 63) ∧
  (let s := (inMode .service).setEngine 39 { acc := {}, due := some 5, closed := [] }; (s.engine 39).due = some 5) ∧
  (let s := (((inMode .service).set (TDC_CH_STEN 0) 1).set (TDC_CH_EN 0) 1).setEngine 0 { acc := { n := 1000000 }, due := none, closed := [] };
    (s.engine 0).due = none ∧ s.engCfg 0 = (true, 0, (s.engCfg 0).2.2) ∧ (s.engCfg 0).2.2 ≤ (s.engine 0).acc.n ∧
    0 < (s.engine 0).acc.n) ∧
  (let s := ((inMode .service).set (TDC_CH_STEN 0) 1).set (TDC_CH_EN 0) 1; (s.engine 0).due = none ∧
    s.engCfg 0 = (true, 0, (s.engCfg 0).2.2) ∧ (s.engine 0).acc.n < (s.engCfg 0).2.2) ∧
  ((List.range 40).all (fun e => ((inMode .service).engine e).closed = []) = true) ∧
  (let s := (inMode .service).setEngine 39 { acc := {}, due := none, closed := [StatAcc.result {} 5 false] };
    (s.engine 39).closed = StatAcc.result {} 5 false :: [] ∧ (List.range 39).all (fun e => (s.engine e).closed = []) = true) :=
  by
  refine ⟨?_, ?_, ?_, ?_, ?_, ?_, ?_, ?_, ?_, ?_, ?_⟩ <;> decide +kernel

/-- O18, part 1. -/
theorem witness_TdcCalibrationRunsAndJudges :
  (let s := (inMode .service).set TDC_STATUS_CALDONE 1; s.awake = true ∧ s.is TDC_STATUS_CALDONE = true ∧
    10 * s.get TDC_CAL_TEMPSTEP ≤ ((-10 * s.get TDC_CAL_TEMPSTEP : Int) - s.tdc.calTemp).natAbs ∧
    ((10 * s.get TDC_CAL_TEMPSTEP - 1 : Int) - s.tdc.calTemp).natAbs < 10 * s.get TDC_CAL_TEMPSTEP) ∧
  (let s := ((running .service).set TDC_STATUS_CALDONE 1).onTb fun b => { b with ticks := 1000000000 * 65535 };
    s.reachTick (1000000000 * s.get TDC_CAL_PERIOD + (s.ch 31).lastCal) = some s ∧ s.awake = true ∧ s.is TDC_STATUS_CALDONE = true) ∧
  (let s := (running .service).onTb fun b => { b with ticks := 1000000000 * 65535 };
    s.reachTick (1000000000 * s.get TDC_CAL_PERIOD + (s.ch 31).lastCal) = some s ∧ s.is TDC_STATUS_CALDONE = false ∧
    (inMode .off).awake = false) ∧
  (let s := (((inMode .service).set TDC_STATUS_CALRUN 1).set TDC_STATUS_CALCH 31); s.is TDC_STATUS_CALRUN = true ∧
    s.get TDC_STATUS_CALCH = (31 : Fin 32).val ∧ (s.ch 31).runTable = none) ∧
  ((inMode .service).is TDC_STATUS_CALRUN = false ∧ (inMode .service).get TDC_STATUS_CALCH ≠ (31 : Fin 32).val) ∧
  (let s := (((inMode .service).set TDC_STATUS_CALRUN 1).set TDC_STATUS_CALCH 31).set (TDC_CH_EN 31) 1 |>.setCh 31 { runTable := some 64, matched := 4096 };
    s.is TDC_STATUS_CALRUN = true ∧ s.get TDC_STATUS_CALCH = (31 : Fin 32).val ∧ (s.ch 31).runTable = some 64 ∧
    (s.chCfg 31).en = true ∧ 4096 ≤ (s.ch 31).matched) ∧
  (let s := (((inMode .service).set TDC_STATUS_CALRUN 1).set TDC_STATUS_CALCH 31).set (TDC_CH_EN 31) 1 |>.setCh 31 { runTable := some 64, matched := 4095 } |>.onTb fun b => { b with ticks := 64000000000 };
    s.is TDC_STATUS_CALRUN = true ∧ s.get TDC_STATUS_CALCH = (31 : Fin 32).val ∧ (s.ch 31).runTable = some 64 ∧
    (s.chCfg 31).en = true ∧ (s.ch 31).matched < 4096 ∧ s.reachTick (64000000000 + (s.ch 31).matchFrom) = some s) ∧
  (let s := (((inMode .service).set TDC_STATUS_CALRUN 1).set TDC_STATUS_CALCH 31).setCh 31 { runTable := some 64 } |>.onTb fun b => { b with ticks := 4100000 };
    s.is TDC_STATUS_CALRUN = true ∧ s.get TDC_STATUS_CALCH = (31 : Fin 32).val ∧ (s.ch 31).runTable = some 64 ∧
    (s.chCfg 31).en = false ∧ s.reachTick (4100000 + (s.ch 31).matchFrom) = some s) ∧
  (let s := ((inMode .service).set (TDC_CH_EN 31) 1).setCh 31 { matched := 15 }; (s.ch 31).matched < 16 ∧ (s.chCfg 31).en = true) ∧
  (let s := ((inMode .service).set TDC_STATUS_CALIP 1).setCh 31 { matched := 16 }; 16 ≤ (s.ch 31).matched ∧
    50 * ns1 < (3277 : Int).natAbs * 1000 ∧ (3276 : Int).natAbs * 1000 ≤ 50 * ns1 ∧ s.get TDC_STATUS_CALIP = 1 ∧
    (inMode .service).get TDC_STATUS_CALIP = 0) ∧
  ((inMode .safe).awake = true ∧ (inMode .safe).mode ≠ .boot ∧ (inMode .safe).is TDC_STATUS_CALDONE = false) ∧
  ((31 : Nat) < 32 ∧ (([] : List CalIn).getD 31 {}).empty = (0, 0) ∧
    ((List.replicate 32 ({ peak := (16, 16), diff := 3276 } : CalIn)).getD 31 {}).diff.natAbs * 1000 ≤ 50 * ns1 ∧
    0 < (([{ empty := (1, 0), diff := -3277 }] : List CalIn).getD 0 {}).empty.1 ∧
    50 * ns1 < (([{ empty := (1, 0), diff := -3277 }] : List CalIn).getD 0 {}).diff.natAbs * 1000) :=
  by
  refine ⟨?_, ?_, ?_, ?_, ?_, ?_, ?_, ?_, ?_, ?_, ?_, ?_⟩ <;> decide +kernel

/-- O18, part 2. -/
theorem witness_TdcCalibrationRunsAndJudges_2 :
  ((inMode .boot).mode = .boot ∧ ((inMode .service).set TDC_STATUS_CALDONE 1).is TDC_STATUS_CALDONE = true) :=
  by decide +kernel

/-- O19, part 1. -/
theorem witness_SourcesQualifyAndAreSelected :
  (let s := ((((running .service).set (SEL_SRC_EN 15) 1).set (SEL_PRIO_RANK 0) 1).set (SEL_PRIO_SOURCE 0) 15).set (SEL_SRC_STATE 15) 2 |>.setSrc 15 { q1 := true, edges := [0] } |>.onTb fun b => { b with c0 := ⟨9, 0, 0⟩, c1 := ⟨9, 0, 0⟩, c2 := ⟨9, 0, 0⟩ };
    (s.src 15).q1 = true ∧ s.reach ((s.src 15).edges.headD 0 + edgeLimit (s.period 15)) = some s ∧ s.warmRuns = true ∧
    s.is (SEL_SRC_EN 15) = true ∧ (s.rowOf 15).isSome = true ∧ 2 ≤ s.srcState 15) ∧
  (((inMode .service).src 15).q1 = false ∧
    (inMode .service).reach (((inMode .service).src 15).edges.headD 0 + edgeLimit ((inMode .service).period 15)) = none) ∧
  (let s := (running .service).set (SEL_SRC_STATE 19) 3; s.srcState 19 = 3 ∧
    s.reachTick (1000000000 * (s.src 19).wtrLen + (s.src 19).wtrFrom) = some s) ∧
  ((inMode .service).srcState 19 ≠ 3 ∧
    ((running .service).setSrc 19 { wtrLen := 5 }).reachTick (1000000000 * (((running .service).setSrc 19 { wtrLen := 5 }).src 19).wtrLen + (((running .service).setSrc 19 { wtrLen := 5 }).src 19).wtrFrom) = none) ∧
  ((inMode .safe).warmRuns = false ∧ ((inMode .service).set (SEL_SRC_EN 15) 0).is (SEL_SRC_EN 15) = false) ∧
  (let s := (((running .service).set (SEL_SRC_EN 19) 1).set (SEL_SRC_STATE 19) 0).setSrc 19 { acc := { n := 2, uncal := true } };
    let r := s.windowOf 19; s.warmRuns = true ∧ s.is (SEL_SRC_EN 19) = true ∧ r.uncal = true) ∧
  (let s := (((running .service).set (SEL_SRC_EN 19) 1).set (SEL_SRC_STATE 19) 0).setSrc 19 { acc := { n := 2, uncal := false } };
    let r := s.windowOf 19; s.warmRuns = true ∧ s.is (SEL_SRC_EN 19) = true ∧
    (let c := s.setSrc 19 { s.src 19 with acc := (s.src 19).acc.next false }; let u := c.setSrc 19 { c.src 19 with uncal := false }; let v := u.judgeWindow 19 r u.acqSource; let x := ((v.setSrc 19 { v.src 19 with confWith := 0 }).srcRow 19 true).conflictShow; r.uncal = false ∧
    v.conflictPairs = [] ∧ v.srcState 19 ≠ 5 ∧ 2 ≤ r.n ∧ r.gap = false ∧ r.overflow = false ∧ r.cut = false ∧ x.srcState 19 ≠ 6)) ∧
  (let s := (((running .service).set (SEL_SRC_EN 19) 1).set (SEL_SRC_STATE 19) 0).setSrc 19 { acc := { n := 1, uncal := false } };
    let r := s.windowOf 19; s.warmRuns = true ∧ s.is (SEL_SRC_EN 19) = true ∧
    (let c := s.setSrc 19 { s.src 19 with acc := (s.src 19).acc.next false }; let u := c.setSrc 19 { c.src 19 with uncal := false }; let v := u.setSrc 19 { u.src 19 with prev := none, prevEnd := r.stop }; let x := ((v.setSrc 19 { v.src 19 with confWith := 0 }).srcRow 19 true).conflictShow; r.uncal = false ∧
    v.conflictPairs = [] ∧ v.srcState 19 ≠ 5 ∧ r.n < 2 ∧ x.srcState 19 ≠ 6)) ∧
  (let s := (((running .service).set (SEL_SRC_EN 19) 1).set (SEL_SRC_STATE 19) 0).setSrc 19 { acc := { n := 2, uncal := false } };
    let r := s.windowOf 19; s.warmRuns = true ∧ s.is (SEL_SRC_EN 19) = true ∧ (s.judgeWindow 19 r none).srcState 19 ≠ 5) ∧
  ((inMode .service).agreeing [] 3 3 7 [] = 0 ∧ 3 ∉ ([] : List Nat) ∧ 3 ≤ ((inMode .service).set (SEL_SRC_STATE 3) 3).srcState 3) ∧
  (let s := (((running .service).set (SEL_PRIO_RANK 0) 1).set (SEL_PRIO_SOURCE 0) 2).set (SEL_SRC_STATE 2) 0 |>.set SEL_STATUS_ACTIVE 31;
    s.warmRuns = true ∧ s.active = none ∧ s.chosenSource = none) ∧
  (let s := (((running .service).set (SEL_PRIO_RANK 0) 1).set (SEL_PRIO_SOURCE 0) 2).set (SEL_SRC_STATE 2) 6 |>.set SEL_STATUS_ACTIVE 18;
    s.warmRuns = true ∧ s.active = some 18 ∧ s.eligible 18 = false) :=
  by
  refine ⟨?_, ?_, ?_, ?_, ?_, ?_, ?_, ?_, ?_, ?_, ?_, ?_⟩ <;> decide +kernel

/-- O19, part 2. -/
theorem witness_SourcesQualifyAndAreSelected_2 :
  (let s := (((running .service).set (SEL_PRIO_RANK 0) 1).set (SEL_PRIO_SOURCE 0) 2).set (SEL_SRC_STATE 2) 4 |>.set SEL_STATUS_ACTIVE 31;
    s.warmRuns = true ∧ s.active = none ∧ s.chosenSource = some 2) :=
  by decide +kernel

/-- O20, part 1. -/
theorem witness_TodInputAndDpllCommands :
  ((inMode .safe).warmRuns = false ∧ (inMode .service).is SEL_TODIN_EN = false) ∧
  (((inMode .service).set SEL_TODIN_EN 1).warmRuns = true ∧ ((inMode .service).set SEL_TODIN_EN 1).is SEL_TODIN_EN = true ∧
    zdaParse [] = .inr 1) ∧
  (zdaParse (chars "$GPZDA,123519,15,03,2026,00,00*44" ++ [13, 10]) = .inl ⟨12, 35, 19, 15, 3, 2026⟩) ∧
  (zdaParse (chars "$GPZDA,235960,31,12,2026,00,00*44" ++ [13, 10]) = .inl ⟨23, 59, 60, 31, 12, 2026⟩ ∧
    (inMode .service).get TB_UTC_LEAP ≠ 1) ∧
  (let s := (((running .service).set SEL_TODIN_EN 1).set SEL_TODIN_PHASE 1); s.warmRuns = true ∧ s.is SEL_TODIN_EN = true ∧
    0 ≤ ((daysOf 2026 3 15 * 86400 + 12 * 3600 + 35 * 60 + 19 : Nat) : Int) + s.geti TB_UTC_OFFSET ∧ s.is SEL_TODIN_PHASE = true ∧
    (s.src 19).labels = []) ∧
  (let s := (((running .service).set SEL_TODIN_EN 1).set SEL_TODIN_PHASE 1).setSrc 19 { labels := [some (1773578119 - 1)] };
    s.warmRuns = true ∧ s.is SEL_TODIN_EN = true ∧
    0 ≤ ((daysOf 2026 3 15 * 86400 + 12 * 3600 + 35 * 60 + 19 : Nat) : Int) + s.geti TB_UTC_OFFSET ∧ s.is SEL_TODIN_PHASE = true ∧
    (s.src 19).labels = some (1773578119 - 1) :: [] ∧
    (((daysOf 2026 3 15 * 86400 + 12 * 3600 + 35 * 60 + 19 : Nat) : Int) + s.geti TB_UTC_OFFSET).toNat = 1773578119 - 1 + 1) ∧
  (let s := (((running .service).set SEL_TODIN_EN 1).set SEL_TODIN_PHASE 1).setSrc 19 { labels := [some 1773578119] };
    s.warmRuns = true ∧ s.is SEL_TODIN_EN = true ∧
    0 ≤ ((daysOf 2026 3 15 * 86400 + 12 * 3600 + 35 * 60 + 19 : Nat) : Int) + s.geti TB_UTC_OFFSET ∧ s.is SEL_TODIN_PHASE = true ∧
    (s.src 19).labels = some 1773578119 :: [] ∧
    (((daysOf 2026 3 15 * 86400 + 12 * 3600 + 35 * 60 + 19 : Nat) : Int) + s.geti TB_UTC_OFFSET).toNat ≠ 1773578119 + 1) ∧
  (let s := (((running .service).set SEL_TODIN_EN 1).set SEL_TODIN_PHASE 0); s.warmRuns = true ∧ s.is SEL_TODIN_EN = true ∧
    0 ≤ ((daysOf 2026 3 15 * 86400 + 12 * 3600 + 35 * 60 + 19 : Nat) : Int) + s.geti TB_UTC_OFFSET ∧ s.is SEL_TODIN_PHASE = false ∧
    (s.src 19).edges = []) ∧
  (let s := (((running .service).set SEL_TODIN_EN 1).set SEL_TODIN_PHASE 0).setSrc 19 { edges := [0], labels := [some 3] };
    s.warmRuns = true ∧ s.is SEL_TODIN_EN = true ∧
    0 ≤ ((daysOf 2026 3 15 * 86400 + 12 * 3600 + 35 * 60 + 19 : Nat) : Int) + s.geti TB_UTC_OFFSET ∧ s.is SEL_TODIN_PHASE = false ∧
    (s.src 19).edges = 0 :: [] ∧ (s.src 19).labels = some 3 :: []) ∧
  (let s := (((running .service).set SEL_TODIN_EN 1).set SEL_TODIN_PHASE 0).setSrc 19 { edges := [0], labels := [none] };
    s.warmRuns = true ∧ s.is SEL_TODIN_EN = true ∧
    0 ≤ ((daysOf 2026 3 15 * 86400 + 12 * 3600 + 35 * 60 + 19 : Nat) : Int) + s.geti TB_UTC_OFFSET ∧ s.is SEL_TODIN_PHASE = false ∧
    (s.src 19).edges = 0 :: [] ∧ s.now - 0 ≤ sec1 ∧ (s.src 19).labels = [none]) ∧
  (let s := (((running .service).set SEL_TODIN_EN 1).set SEL_TODIN_PHASE 0).setSrc 19 { edges := [0], labels := [none, some (1773578119 - 1)] };
    s.warmRuns = true ∧ s.is SEL_TODIN_EN = true ∧
    0 ≤ ((daysOf 2026 3 15 * 86400 + 12 * 3600 + 35 * 60 + 19 : Nat) : Int) + s.geti TB_UTC_OFFSET ∧ s.is SEL_TODIN_PHASE = false ∧
    s.now - 0 ≤ sec1 ∧ (s.src 19).labels = none :: some (1773578119 - 1) :: [] ∧
    (((daysOf 2026 3 15 * 86400 + 12 * 3600 + 35 * 60 + 19 : Nat) : Int) + s.geti TB_UTC_OFFSET).toNat = 1773578119 - 1 + 1) ∧
  (let s := (((running .service).set SEL_TODIN_EN 1).set SEL_TODIN_PHASE 0).setSrc 19 { edges := [0], labels := [none, some 1773578119] };
    s.warmRuns = true ∧ s.is SEL_TODIN_EN = true ∧
    0 ≤ ((daysOf 2026 3 15 * 86400 + 12 * 3600 + 35 * 60 + 19 : Nat) : Int) + s.geti TB_UTC_OFFSET ∧ s.is SEL_TODIN_PHASE = false ∧
    s.now - 0 ≤ sec1 ∧ (s.src 19).labels = none :: some 1773578119 :: [] ∧
    (((daysOf 2026 3 15 * 86400 + 12 * 3600 + 35 * 60 + 19 : Nat) : Int) + s.geti TB_UTC_OFFSET).toNat ≠ 1773578119 + 1) :=
  by
  refine ⟨?_, ?_, ?_, ?_, ?_, ?_, ?_, ?_, ?_, ?_, ?_, ?_⟩ <;> decide +kernel

/-- O20, part 2. -/
theorem witness_TodInputAndDpllCommands_2 :
  (let s := ((running .service).set (DPLL_STATE 3) 1).onTb fun b => { b with ticks := 1000000000 }; s.awake = true ∧
    s.get (DPLL_STATE 3) = 1 ∧
    s.reachTick (1000000000 + max (s.dpll 3).since (if s.get (DPLL_INPUTNOW 3) = 16 then (s.dpll 3).errAt else 0)) = some s ∧
    (s.dpllPhase 3 0).natAbs ≤ s.get (DPLL_LOCKTHR 3)) ∧
  (let s := ((running .service).set (DPLL_STATE 3) 1).set (DPLL_INPUTNOW 3) 0 |>.onTb fun b => { b with ticks := 1000000000 };
    s.awake = true ∧ s.get (DPLL_STATE 3) = 1 ∧ s.get (DPLL_LOCKTHR 3) < (s.dpllPhase 3 (10 ^ 8)).natAbs ∧
    s.reachTick (1000000000 + max (s.dpll 3).since 0) = some s) ∧
  (let s := ((running .service).set (DPLL_STATE 3) 2).set (DPLL_INPUTNOW 3) 0; s.awake = true ∧ s.get (DPLL_STATE 3) = 2 ∧
    4 * s.get (DPLL_LOCKTHR 3) < (s.dpllPhase 3 (10 ^ 8)).natAbs ∧ (s.dpllPhase 3 0).natAbs ≤ 4 * s.get (DPLL_LOCKTHR 3)) ∧
  (let s := ((running .service).set (DPLL_STATE 3) 3).set (DPLL_FALLBACK 3) 1 |>.onTb fun b => { b with ticks := 100000000 };
    s.awake = true ∧ s.get (DPLL_STATE 3) = 3 ∧ s.is (DPLL_FALLBACK 3) = true ∧ s.reachTick (100000000 + (s.dpll 3).since) = some s) ∧
  ((inMode .off).awake = false ∧ (inMode .service).get (DPLL_STATE 0) = 0) :=
  by
  refine ⟨?_, ?_, ?_, ?_, ?_⟩ <;> decide +kernel

/-- O21. -/
theorem witness_OutputsEmitAlignAndReport :
  (let s := (((running .service).set (OUT_EN 15) 1).set (OUT_KIND 15) 1).setOutp 15 { from_ := some 0 } |>.onTb fun b => { b with c0 := ⟨2, 0, 0⟩, c1 := ⟨2, 0, 0⟩, c2 := ⟨2, 0, 0⟩ };
    s.outsRun = true ∧ s.is (OUT_EN 15) = true ∧ s.get (OUT_KIND 15) ≠ 0 ∧ s.nominal 15 sec1 = true ∧ (s.outp 15).lastB = none ∧
    State.reachEdge 4 s 15 sec1 = some s) ∧
  (let s := (((running .service).set (OUT_EN 15) 1).set (OUT_KIND 15) 1).setOutp 15 { from_ := some 0 } |>.onTb fun b => { b with c0 := ⟨2, 0, 0⟩, c1 := ⟨2, 0, 0⟩, c2 := ⟨2, 0, 0⟩ };
    let t : Int := (sec1 : Int) + (s.outp 15).ofs * ns1 + nearestDiv ((s.outp 15).dly * 65536) 1000 + s.misalign 15;
    (s.outp 15).from_ = some 0 ∧ ((0 : Nat) : Int) ≤ t ∧ ((s.outp 15).ofsFrom : Int) ≤ t ∧ (s.outp 15).lastStart = none) ∧
  (let s := (((running .service).set (OUT_EN 15) 1).set (OUT_KIND 15) 1).setOutp 15 { from_ := some 0, ofsFrom := 2 * sec1 } |>.onTb fun b => { b with c0 := ⟨2, 0, 0⟩, c1 := ⟨2, 0, 0⟩, c2 := ⟨2, 0, 0⟩ };
    let t : Int := (sec1 : Int) + (s.outp 15).ofs * ns1 + nearestDiv ((s.outp 15).dly * 65536) 1000 + s.misalign 15;
    (s.outp 15).from_ = some 0 ∧ t < (s.outp 15).ofsFrom) ∧
  (let s := (((running .service).set (OUT_EN 15) 1).set (OUT_KIND 15) 1).setOutp 15 { from_ := some 0, lastStart := some sec1 } |>.onTb fun b => { b with c0 := ⟨2, 0, 0⟩, c1 := ⟨2, 0, 0⟩, c2 := ⟨2, 0, 0⟩ };
    let t : Int := (sec1 : Int) + (s.outp 15).ofs * ns1 + nearestDiv ((s.outp 15).dly * 65536) 1000 + s.misalign 15;
    ((0 : Nat) : Int) ≤ t ∧ t < ((sec1 + (s.outWidth 15 + 10) * ns1 : Nat) : Int)) ∧
  (let s := (((((running .service).set (OUT_EN 15) 1).set (OUT_KIND 15) 0).set (OUT_FREQ_LO 15) 65536).set (DPLL_INPUT 0) 16).set (DPLL_STATE 0) 2 |>.onTb fun b => { b with c0 := ⟨2, 0, 0⟩, c1 := ⟨2, 0, 0⟩, c2 := ⟨2, 0, 0⟩ };
    s.outsRun = true ∧ s.is (OUT_EN 15) = true ∧ s.get (OUT_KIND 15) = 0 ∧ (s.outp 15).lastStart = none ∧ s.clockOnTb 15 = true ∧
    s.clockNominal 15 sec1 = true ∧ s.reach sec1 = some s) ∧
  ((inMode .safe).outsRun = false ∧ (inMode .service).is (OUT_EN 15) = false ∧
    ((inMode .service).set (OUT_KIND 15) 1).nominal 15 1 = false) ∧
  ((inMode .service).awake = true ∧ 65535 % 65536 ≠ 0 ∧ (inMode .off).awake = false ∧ 65536 % 65536 = 0) ∧
  (let s := ((inMode .service).set OUT_ALIGN_PENDING 1).set OUT_ALIGN_MASK 32768 |>.onTb fun b => { b with c0 := ⟨0, 10000, 0⟩, c1 := ⟨0, 10000, 0⟩, c2 := ⟨0, 10000, 0⟩ };
    s.is OUT_ALIGN_PENDING = true ∧ s.outs.alignAt + 10 * us1 = s.now ∧ (s.get OUT_ALIGN_MASK).testBit 15 = true) ∧
  (let s := ((inMode .service).set OUT_ALIGN_PENDING 1).set OUT_ALIGN_MASK 32768 |>.onTb fun b => { b with c0 := ⟨0, 9999, 0⟩, c1 := ⟨0, 9999, 0⟩, c2 := ⟨0, 9999, 0⟩ };
    s.is OUT_ALIGN_PENDING = true ∧ s.now < s.outs.alignAt + 10 * us1) ∧
  (let s := ((((running .service).set (TOD_EN 1) 1).set (OUT_EN 0) 1).set (OUT_KIND 0) 1).setOutp 0 { msg := none, pulses := 0 } |>.onTb fun b => { b with ticks := 10000000 };
    s.outsRun = true ∧ s.is (TOD_EN 1) = true ∧ s.todOk 1 = true ∧ s.get (TOD_PULSE 1) = 0 ∧ s.is (OUT_EN 0) = true ∧
    (s.outp 0).msg = none) ∧
  (let s := ((((running .service).set (TOD_EN 1) 1).set (OUT_EN 0) 1).set (OUT_KIND 0) 1).setOutp 0 { msg := some (sec1, 10000000), pulses := 1 } |>.onTb fun b => { b with ticks := 10000000 };
    s.outsRun = true ∧ s.is (TOD_EN 1) = true ∧ s.todOk 1 = true ∧ s.get (TOD_PULSE 1) = 0 ∧ s.is (OUT_EN 0) = true ∧
    (s.outp 0).msg = some (sec1, 10000000) ∧ SMap.get 0 s.outs.todSent 1 ≠ (s.outp 0).pulses ∧ s.reachTick 10000000 = some s) :=
  by
  refine ⟨?_, ?_, ?_, ?_, ?_, ?_, ?_, ?_, ?_, ?_, ?_⟩ <;> decide +kernel

/-- O22. -/
theorem witness_SecondBoundaryRunsItsRules :
  ((inMode .service).tb.running = false ∧ (running .service).tb.running = true) ∧
  (let s := running .service; s.tb.running = true ∧ s.tb.c1 = s.tb.c0 ∧ s.tb.c2 = s.tb.c0 ∧ s.is TB_STATUS_COPYFAIL = false ∧
    s.tb.c0.frac < 2 ^ 40 ∧ s.tb.c0.nsec < 1000000000 ∧ s.tb.c0.sec + 1 < 2 ^ 48 ∧ s.tb.incrQ = [] ∧ s.tb.gcompQ = [] ∧
    s.sel.transfer = none ∧ s.tb.step = none ∧ s.tb.frozen = none ∧ (s.onPerf fun p => { p with period := 0 }).perf.period = 0) ∧
  (let s := (running .service).onTb fun b => { b with frozen := some (-1) }; s.tb.c1 = s.tb.c0 ∧ s.tb.c2 = s.tb.c0 ∧
    s.is TB_STATUS_COPYFAIL = false ∧ s.tb.frozen = some (-1)) ∧
  (((⟨0, 0, 0⟩ : TbCount).total : Int) + (-1) * 2 ^ 24 < 0 ∧ 0 ≤ ((⟨0, 0, 0⟩ : TbCount).total : Int) + 0 * 2 ^ 24) ∧
  (let s := (running .service).onTb fun b => { b with repAdd := [0, 0, 0, 7] }; s.tb.reps[3]? = some ⟨0, 0, 0⟩ ∧
    s.tb.repAdd.getD 3 0 ≠ 0 ∧ s.tb.reps[0]? = some ⟨0, 0, 0⟩ ∧ s.tb.repAdd.getD 0 0 = 0) ∧
  (200 < (201 : Int).natAbs) ∧
  (let s := ((running .service).set TB_UTC_PENDING 1).set TB_UTC_LEAP 1; s.is TB_UTC_PENDING = true ∧ s.leapTime ≤ instSec s.now) ∧
  ((running .service).is TB_UTC_PENDING = false) :=
  by
  refine ⟨?_, ?_, ?_, ?_, ?_, ?_, ?_, ?_⟩ <;> decide +kernel

/-- O23. -/
theorem witness_GnssFrontEndAndChannels :
  ((inMode .safe).gnOn = false ∧ ((inMode .service).set GN_FESTAT_DONE 1).is GN_FESTAT_DONE = true) ∧
  (let s := ((running .service).set GN_CTL_EN 1).set GN_CTL_ANTB 1; let s := s.onGn fun g => { g with feList := [⟨[1], none⟩] };
    s.gnOn = true ∧ s.is GN_FESTAT_DONE = false ∧ s.gn.feList.length = 1 ∧
    feBad (s.gn.feList.getD 0 ⟨[], none⟩) ((([] : List (List Byte))).getD 0 []) = false ∧
    (s.reachTick (s.tb.ticks + (800 * (s.gn.feList.map (·.bytes.length)).sum + 0))).isSome = true ∧
    (inMode .service).reachTick ((inMode .service).tb.ticks + (800 * 1 + 0)) = none) ∧
  (let s := ((running .service).set GN_CTL_EN 1).set GN_CTL_ANTB 1; let s := s.onGn fun g => { g with feList := [⟨[1], some [2]⟩] };
    s.gnOn = true ∧ s.is GN_FESTAT_DONE = false ∧ 0 < s.gn.feList.length ∧
    feBad (s.gn.feList.getD 0 ⟨[], none⟩) ([[3]].getD 0 []) = true ∧
    (s.reachTick (s.tb.ticks + (800 * ((s.gn.feList.take (0 + 1)).map (·.bytes.length)).sum + 0))).isSome = true) ∧
  (let s := ((running .service).set GN_CTL_EN 1).set GN_CTL_ANTB 1; let s := s.set GN_FESTAT_DONE 1;
    let s := (s.set (GN_CHST_ANT 255) 1).set (GN_CHST_STATE 255) 3; s.gnOn = true ∧ s.is GN_FESTAT_DONE = true ∧
    s.gnPath ((1 : Fin 2) : Nat) = true ∧ s.reachTick (if s.gn.clkWait.contains 1 then 10 ^ 8 + s.gn.feDone else 0) = some s) ∧
  (let s := ((running .service).set GN_CTL_EN 1).set GN_CTL_ANTB 1;
    let s := (s.set (gnLoss 1) 1).onTb fun b => { b with ticks := 10 ^ 8 }; s.gnOn = true ∧ s.is (gnLoss 1) = true ∧
    s.reachTick (10 ^ 8 + SMap.get 0 s.gn.clkLost 1) = some s) ∧
  (let s := ((running .service).set GN_CTL_EN 1).set GN_CTL_ANTB 1; s.gnOn = true ∧ s.is (gnLoss 1) = false ∧
    (inMode .safe).gnOn = false ∧ s.is GN_FESTAT_DONE = false ∧ (inMode .service).gnPath 1 = false) ∧
  (let s := ((running .service).set GN_CTL_EN 1).set GN_CTL_ANTB 1; let s := s.set GN_FESTAT_DONE 1;
    let s := ((s.set (GN_STR_CFG_EN 2) 1).set GN_CTL_FSB 60).onGn fun g => { g with sigen := [(1, 5)] };
    let x : GnSig := { signal := 5, sv := 63, ant := 1, elev := 90, usable := true }; s.gnOn = true ∧ s.is GN_FESTAT_DONE = true ∧
    ((List.range 256).all fun c => s.gnCh c == 0) = true ∧ s.is GN_STATUS_CHOVER = false ∧
    s.gn.sigen.contains (x.ant, x.signal) = true ∧ gnSvOk x.signal x.sv = true ∧ s.gnPath x.ant = true ∧
    s.is (GN_STR_CFG_EN (gnStream x.ant x.signal)) = true ∧ s.gnFits x.ant x.signal = true ∧ s.get GN_SOLCFG_MASK < x.elev ∧
    x.ant < 2 ∧ x.signal < 16 ∧ x.sv < 256) ∧
  ((inMode .service).is (GN_STR_CFG_EN 3) = false ∧ (inMode .safe).gnOn = false) ∧
  (let s := ((running .service).set GN_CTL_EN 1).set GN_CTL_ANTB 1;
    let s := (s.set (GN_STR_CFG_EN 3) 1).onGn (fun g => { g with duty := [(3, 100)] }) |>.onTb fun b => { b with ticks := 1000000 };
    s.gnOn = true ∧ s.is (GN_STR_CFG_EN 3) = true ∧ s.gnPath ((3 : Fin 4) / 2 : Fin 4) = true ∧
    s.reachTick (1000000 + SMap.get 0 s.gn.agcAt 3) = some s ∧
    (gnLevel (s.is (GN_STR_CFG_BITS 3)) [0]).1 < (gnLevel (s.is (GN_STR_CFG_BITS 3)) [0]).2 ∧ SMap.get 0 s.gn.duty 3 < 255 ∧
    0 < SMap.get 0 s.gn.duty 3 ∧ (gnLevel (s.is (GN_STR_CFG_BITS 3)) [1]).2 < (gnLevel (s.is (GN_STR_CFG_BITS 3)) [1]).1 ∧
    (gnLevel (s.is (GN_STR_CFG_BITS 3)) []).1 = (gnLevel (s.is (GN_STR_CFG_BITS 3)) []).2) ∧
  (let s := ((running .service).set GN_CTL_EN 1).set GN_CTL_ANTB 1;
    let s := (s.set (GN_CHST_STATE 255) 1).onGn fun g => { g with search := [⟨255, 1, 1, 1⟩] }; s.gnRuns = true ∧ s.gnCh 255 = 1 ∧
    s.gnDeal.gn.search.any (·.ch == 255) = true) ∧
  ((inMode .service).gnRuns = false) ∧
  (let s := ((running .service).set GN_CTL_EN 1).set GN_CTL_ANTB 1; let s := s.set (GN_CHST_STATE 0) 2; s.gnRuns = true ∧
    s.gnCh 0 = 2 ∧ s.gnCh 1 ≠ 2) :=
  by
  refine ⟨?_, ?_, ?_, ?_, ?_, ?_, ?_, ?_, ?_, ?_, ?_, ?_⟩ <;> decide +kernel

/-- O24. -/
theorem witness_GnssMeasurementsAreLatchedAndPublished :
  ((inMode .service).gnCh 0 ≠ 3 ∧ (inMode .safe).gnChRuns 255 = false ∧ navLength 2 1 = false) ∧
  (let s := ((running .service).set GN_CTL_EN 1).set GN_CTL_ANTB 1;
    let s := (s.set (GN_CHST_STATE 255) 3).set (GN_CHST_SIGNAL 255) 1;
    let r : NavRec := { kind := 2, bits := List.replicate 600 true, time := 7 }; s.gnChRuns 255 = true ∧ s.gnCh 255 = 3 ∧
    (r.kind = gnKind (s.get (GN_CHST_SIGNAL 255)) ∨ r.kind = 8) ∧ navLength r.kind r.bits.length = true ∧
    s.get GN_NAVSEQ_SEQ + 1 < 2 ^ 32 ∧ r.utc = none) ∧
  (let s := ((running .service).set GN_CTL_EN 1).set GN_CTL_ANTB 1; let s := s.set (GN_CHST_STATE 255) 3;
    navCheck { kind := 4, bits := List.replicate 244 false, time := 0, eph := true } (SMap.get [] s.gn.navPrev 255) = 0) ∧
  ((inMode .safe).gnOn = false ∧ ((inMode .service).set GN_LATCH_RATE 0).gnLatches ≤ ((1 : Fin 50) : Nat)) ∧
  (let s := ((running .service).set GN_CTL_EN 1).set GN_CTL_ANTB 1;
    let s := s.set GN_LATCH_RATE 9 |>.onTb fun b => { b with c0 := ⟨0, 980000000, 0⟩, c1 := ⟨0, 980000000, 0⟩, c2 := ⟨0, 980000000, 0⟩ };
    s.gnOn = true ∧ ((49 : Fin 50) : Nat) < s.gnLatches ∧ s.reach (sec1 / s.gnLatches * 49 + s.gn.lastB) = some s ∧ s.gnRuns = true) ∧
  (let s := ((running .service).set GN_CTL_EN 1).set GN_CTL_ANTB 1; let s := s.set GN_STATUS_BURST 1; s.gnOn = true ∧
    ((0 : Fin 50) : Nat) < s.gnLatches ∧ s.reach (sec1 / s.gnLatches * 0 + s.gn.lastB) = some s ∧ s.gnRuns = false) ∧
  ((inMode .service).gn.pending = none) ∧
  (let x : GnSet := ⟨0, 1, true, false, []⟩; let s := ((running .service).set GN_CTL_EN 1).set GN_CTL_ANTB 1;
    let s := s.onGn (fun g => { g with pending := some x }) |>.onTb fun b => { b with c0 := ⟨0, 256000, 0⟩, c1 := ⟨0, 256000, 0⟩, c2 := ⟨0, 256000, 0⟩ };
    s.gn.pending = some x ∧ s.reach (x.time + ceilDiv (256 * us1) (s.gnRate (if s.gnPath 0 then 0 else 1))) = some s) ∧
  (let x : GnSet := ⟨0, 1, true, false, [⟨255, 0, 1, 0, {}, 0, 0⟩]⟩;
    let s := (inMode .service).onGn fun g => { g with pending := some x }; s.gn.pending = some x ∧ s.gn.setNum + 1 < 2 ^ 32 ∧
    x.recs.length ≤ 256 ∧ x.index < 256 ∧ (∀ r ∈ x.recs, r.ch < 256)) :=
  by
  refine ⟨?_, ?_, ?_, ?_, ?_, ?_, ?_, ?_, ?_⟩ <;> decide +kernel

/-- O25. -/
theorem witness_InterferenceSpoofAndBurstRules :
  ((inMode .safe).gnOn = false) ∧
  (let s := ((running .service).set GN_CTL_EN 1).set GN_CTL_ANTB 1; s.gnOn = true ∧ s.gn.jamDone = false ∧ s.gn.spoofDone = false) ∧
  ((inMode .service).is GN_STATUS_JAMFLAG = false ∧ ((inMode .service).set GN_STATUS_JAMFLAG 1).is GN_STATUS_JAMFLAG = true) ∧
  (let s := ((running .service).set GN_CTL_EN 1).set GN_CTL_ANTB 1; s.gnOn = true ∧ s.gn.spoofDone = false ∧
    s.is GN_SPOOF_FLAG = false ∧ (s.set GN_SPOOF_FLAG 1).is GN_SPOOF_FLAG = true) ∧
  ((inMode .service).is GN_STATUS_BURST = false ∧ (inMode .service).gn.window = false ∧ (inMode .safe).gnOn = false) ∧
  (let s := ((running .service).set GN_CTL_EN 1).set GN_CTL_ANTB 1;
    let s := s.set GN_STATUS_BURST 1 |>.onTb fun b => { b with c0 := ⟨0, 990000000, 0⟩, c1 := ⟨0, 990000000, 0⟩, c2 := ⟨0, 990000000, 0⟩ };
    s.gnOn = true ∧ s.is GN_STATUS_BURST = true ∧ s.gn.window = false ∧ s.reach (sec1 * (instSec s.now + 1) - s.halfWindow) = some s) ∧
  (let s := ((running .service).set GN_CTL_EN 1).set GN_CTL_ANTB 1;
    let s := (s.set GN_STATUS_BURST 1).set GN_BURST_LEN 0 |>.onGn fun g => { g with window := true }; s.gnOn = true ∧
    s.is GN_STATUS_BURST = true ∧ s.gn.window = true ∧ s.reach (s.gn.lastB + s.halfWindow) = some s) ∧
  (let s := ((running .service).set GN_CTL_EN 1).set GN_CTL_ANTB 1;
    let s := ((s.set GN_BURST_EN 1).set GN_SOL_STATE 3).set SEL_TQR_TEB 0; s.gnOn = true ∧ s.burstOk = true ∧
    s.is GN_STATUS_BURST = false) ∧
  (let s := ((running .service).set GN_CTL_EN 1).set GN_CTL_ANTB 1; let s := s.set GN_STATUS_BURST 1; s.gnOn = true ∧
    s.burstOk = false ∧ s.is GN_STATUS_BURST = true) :=
  by
  refine ⟨?_, ?_, ?_, ?_, ?_, ?_, ?_, ?_, ?_⟩ <;> decide +kernel

/-- O26. -/
theorem witness_GnssSolutionSurveyAndOrbitData :
  (let s := ((running .service).set GN_CTL_EN 1).set GN_CTL_ANTB 1; s.is GN_FESTAT_DONE = false ∧ (inMode .safe).gnOn = false) ∧
  (let s := ((running .service).set GN_CTL_EN 1).set GN_CTL_ANTB 1; let s := s.set GN_FESTAT_DONE 1;
    let x : GnSol := ⟨false, 31, 31, true, false, false, 0, 0, [], 0, (0, 0, 0), 0⟩; s.gnOn = true ∧ s.is GN_FESTAT_DONE = true ∧
    s.gn.solDone = false ∧ s.now ≤ s.gn.lastB + 200 * ms1 ∧ (s.solLimit x).have_ = false ∧
    (s.set GN_STATUS_INTFLAG 1).is GN_STATUS_INTFLAG = true) ∧
  (let s := ((running .service).set GN_CTL_EN 1).set GN_CTL_ANTB 1; let s := s.set GN_FESTAT_DONE 1;
    let c (v : Nat) : GnCapture := ⟨0, 0, v, 0, { towKnown := true }, 0, 0⟩;
    let s := (s.set GN_SOLCFG_TIMESYS 3).onGn fun g => { g with lastSec := (List.range 8).map c, orbit := { ephs := (List.range 8).map fun v => (0, v, 0) } };
    let x : GnSol := ⟨true, 31, 31, true, false, false, 0, 0, [], 0, (0, 0, 0), 0⟩; let y := s.solLimit x; s.gnOn = true ∧
    s.is GN_FESTAT_DONE = true ∧ s.gn.solDone = false ∧ s.now ≤ s.gn.lastB + 200 * ms1 ∧ y.have_ = true ∧
    (y.residOk = true ∨ y.exclOk = true) ∧ s.is GN_STATUS_INTFLAG = false ∧ s.get GN_SOLCFG_MINSV ≤ y.usable ∧
    s.get GN_SOLCFG_MINSV ≤ y.used) ∧
  (let s := ((running .service).set GN_CTL_EN 1).set GN_CTL_ANTB 1; let s := s.onGn fun g => { g with survey := true, survN := 1 };
    s.gnOn = true ∧ s.gn.survey = true ∧ s.gn.survLeft = 0 ∧ s.gn.survN ≠ 0) ∧
  ((inMode .service).gn.survey = false) ∧
  ((inMode .service).gn.orbitDue = false ∧ (inMode .service).tb.ticks < 86400000000000 + (inMode .service).gn.orbitAt) ∧
  (let s := (inMode .service).onTb fun b => { b with ticks := 86400000000000 }; s.serviceOn = true ∧
    86400000000000 + s.gn.orbitAt ≤ s.tb.ticks) :=
  by
  refine ⟨?_, ?_, ?_, ?_, ?_, ?_, ?_⟩ <;> decide +kernel

/-- O27. -/
theorem witness_LinksQuadsAndPauses :
  (let s := (((running .service).set (MAC_QMODE_EN 3) 1).set (MAC_QMODE_MODE 3) 3).set (MAC_CFG_EN 31) 1; s.portMay 31 = true ∧
    s.get (MAC_STATUS_LINK 31) = 0) ∧
  (let s := (((running .service).set (MAC_QMODE_EN 3) 1).set (MAC_QMODE_MODE 3) 3).set (MAC_CFG_EN 31) 1;
    let s := s.set (MAC_STATUS_LINK 31) 2; s.get (MAC_STATUS_LINK 31) ≠ 0 ∧ (inMode .off).portMay 31 = false) ∧
  (let s := (((running .service).set (MAC_QMODE_EN 3) 1).set (MAC_QMODE_MODE 3) 3).set (MAC_CFG_EN 31) 1;
    let s := (s.set (MAC_STATUS_LINK 31) 1).onTb fun b => { b with ticks := 2000000000 }; s.get (MAC_STATUS_LINK 31) = 1 ∧
    s.is (MAC_STATUS_LFAULT 31) = false ∧ s.reachTick (1000000 * s.get (MAC_CFG_UPHOLD 31) + (s.port 31).lockFrom) = some s) ∧
  (let s := (((running .service).set (MAC_QMODE_EN 3) 1).set (MAC_QMODE_MODE 3) 3).set (MAC_CFG_EN 31) 1;
    let s := s.set (MAC_STATUS_LINK 31) 2; s.get (MAC_STATUS_LINK 31) ≠ 1 ∧
    (s.set (MAC_STATUS_LFAULT 31) 1).is (MAC_STATUS_LFAULT 31) = true ∧
    (s.onPort 31 fun x => { x with lockFrom := 2 ^ 40 }).reachTick (1000000 * s.get (MAC_CFG_UPHOLD 31) + ((s.onPort 31 fun x => { x with lockFrom := 2 ^ 40 }).port 31).lockFrom) = none) ∧
  (let s := (((running .service).set (MAC_QMODE_EN 3) 1).set (MAC_QMODE_MODE 3) 3).set (MAC_CFG_EN 31) 1;
    let s := s.set (MAC_STATUS_LINK 31) 2; s.portMay 31 = true ∧ s.is (MAC_STATUS_LFAULT 31) ≠ true ∧
    s.get (MAC_STATUS_LINK 31) ≠ 0 ∧ s.portUp 31 = true) ∧
  (let s := (((running .service).set (MAC_QMODE_EN 3) 1).set (MAC_QMODE_MODE 3) 3).set (MAC_CFG_EN 31) 1;
    s.is (MAC_QMODE_EN 3) = true ∧ s.mode ≠ .off ∧ s.mode ≠ .backup ∧ s.mode ≠ .boot ∧
    (inMode .service).is (MAC_QMODE_EN 0) = false ∧
    s.reachTick (if s.is (MAC_QSTATUS_FAULT 3) then SMap.get 0 s.mac.retryAt 3 + 10 ^ 9 else 0) = some s) ∧
  (let s := (((running .service).set (MAC_QMODE_EN 3) 1).set (MAC_QMODE_MODE 3) 3).set (MAC_CFG_EN 31) 1;
    let s := ((s.set (MAC_QSTATUS_FAULT 3) 1).set (MAC_QSTATUS_PLLLOCK 3) 1).onTb fun b => { b with ticks := 10 ^ 8 };
    s.is (MAC_QSTATUS_FAULT 3) = true ∧ s.is (MAC_QSTATUS_PLLLOCK 3) = true ∧
    s.reachTick (SMap.get 0 s.mac.pllFrom 3 + 10 ^ 8) = some s) ∧
  (let s := (((running .service).set (MAC_QMODE_EN 3) 1).set (MAC_QMODE_MODE 3) 3).set (MAC_CFG_EN 31) 1;
    s.is (MAC_QSTATUS_FAULT 3) = false ∧ s.is (MAC_STATUS_PAUSED 31) = false) ∧
  (let s := (((running .service).set (MAC_QMODE_EN 3) 1).set (MAC_QMODE_MODE 3) 3).set (MAC_CFG_EN 31) 1;
    let s := s.set (MAC_STATUS_LINK 31) 2; let s := s.set (MAC_STATUS_PAUSED 31) 1; s.is (MAC_STATUS_PAUSED 31) = true ∧
    s.reachTick (ceilDiv (s.port 31).pauseEnd 100) = some s) ∧
  (let s := (((running .service).set (MAC_QMODE_EN 3) 1).set (MAC_QMODE_MODE 3) 3).set (MAC_CFG_EN 31) 1;
    let s := s.set (MAC_STATUS_LINK 31) 2; let s := s.onTb fun b => { b with ticks := 10 ^ 9 }; (s.idleFor 31).isSome = true ∧
    (inMode .service).idleFor 31 = none) ∧
  (let s := (((running .service).set (MAC_QMODE_EN 3) 1).set (MAC_QMODE_MODE 3) 3).set (MAC_CFG_EN 31) 1;
    let s := s.set (MAC_STATUS_LINK 31) 2; (s.portNow 31).cnt 31 47 < 2 ^ 64) :=
  by
  refine ⟨?_, ?_, ?_, ?_, ?_, ?_, ?_, ?_, ?_, ?_, ?_⟩ <;> decide +kernel

/-- O28. -/
theorem witness_ReceivedFramesAreCheckedSteeredAndQueued :
  ((inMode .service).portUp 0 = false) ∧
  (let s := (((running .service).set (MAC_QMODE_EN 3) 1).set (MAC_QMODE_MODE 3) 3).set (MAC_CFG_EN 31) 1;
    let s := s.set (MAC_STATUS_LINK 31) 2; s.portUp 31 = true ∧ ({ bytes := [], codeErr := true } : RxIn).codeErr = true ∧
    ([] : List Byte).length < 64 ∧ s.get (MAC_CFG_MAXLEN 31) < (List.replicate (s.get (MAC_CFG_MAXLEN 31) + 1) (0 : Byte)).length) ∧
  (let s := (((running .service).set (MAC_QMODE_EN 3) 1).set (MAC_QMODE_MODE 3) 3).set (MAC_CFG_EN 31) 1;
    let s := s.set (MAC_STATUS_LINK 31) 2; let b : List Byte := List.replicate 64 0; s.portUp 31 = true ∧ 64 ≤ b.length ∧
    b.length ≤ s.get (MAC_CFG_MAXLEN 31) ∧ fcsOf (b.take (b.length - 4)) ≠ b.drop (b.length - 4)) ∧
  (let s := (((running .service).set (MAC_QMODE_EN 3) 1).set (MAC_QMODE_MODE 3) 3).set (MAC_CFG_EN 31) 1;
    let s := s.set (MAC_STATUS_LINK 31) 2; let b : List Byte := List.replicate 60 0 ++ fcsOf (List.replicate 60 0);
    s.portUp 31 = true ∧ 64 ≤ b.length ∧ b.length ≤ s.get (MAC_CFG_MAXLEN 31) ∧ fcsOf (b.take (b.length - 4)) = b.drop (b.length - 4)) ∧
  (let s := (((running .service).set (MAC_QMODE_EN 3) 1).set (MAC_QMODE_MODE 3) 3).set (MAC_CFG_EN 31) 1;
    let s := s.set (MAC_STATUS_LINK 31) 2; 2 < (⟨0, 0, [(0, 0), (0, 0), (0, 0)], 0, 26⟩ : L2).tags.length ∧
    s.vlanIndex 31 [(0x8100, 7)] = none) ∧
  (let s := (((running .service).set (MAC_QMODE_EN 3) 1).set (MAC_QMODE_MODE 3) 3).set (MAC_CFG_EN 31) 1;
    let s := s.set (MAC_STATUS_LINK 31) 2;
    let s := (s.set (MAC_VLAN_EN 31 63) 1).set (MAC_VLAN_TAGS 31 63) 0 |>.set (MAC_VLAN_EN 31 0) 0;
    let b : List Byte := List.replicate 60 0; let h := parseL2 b; h.tags.length ≤ 2 ∧ s.vlanIndex 31 h.tags = some 63 ∧
    ipShort b h = false ∧ (s.set (MAC_ADDR_LO_ADDRLO 31) 1).daClass 31 63 h.da (ipVer h.etype ≠ 0) (dstBytes b h) = none) ∧
  (let s := (((running .service).set (MAC_QMODE_EN 3) 1).set (MAC_QMODE_MODE 3) 3).set (MAC_CFG_EN 31) 1;
    let s := s.set (MAC_STATUS_LINK 31) 2;
    let s := (s.set (MAC_VLAN_EN 31 63) 1).set (MAC_VLAN_TAGS 31 63) 0 |>.set (MAC_VLAN_EN 31 0) 0;
    let b : List Byte := ([0x33, 0x33, 0, 0, 0, 1] ++ List.replicate 6 0 ++ [0x86, 0xDD, 0x60, 0, 0, 0, 0, 0, 59] ++ List.replicate 37 0);
    let h := parseL2 b; h.tags.length ≤ 2 ∧ s.vlanIndex 31 h.tags = some 63 ∧ ipShort b h = false ∧
    s.daClass 31 63 h.da (ipVer h.etype ≠ 0) (dstBytes b h) = some 3 ∧ ((parseIp b h).any fun ip => !ip.frag && l4Ok b ip) = true) ∧
  (let s := (((running .service).set (MAC_QMODE_EN 3) 1).set (MAC_QMODE_MODE 3) 3).set (MAC_CFG_EN 31) 1;
    let s := s.set (MAC_STATUS_LINK 31) 2;
    let s := (s.set (MAC_VLAN_EN 31 63) 1).set (MAC_VLAN_TAGS 31 63) 0 |>.set (MAC_VLAN_EN 31 0) 0;
    let b : List Byte := ([0x33, 0x33, 0, 0, 0, 1] ++ List.replicate 6 0 ++ [0x86, 0xDD, 0x60, 0, 0, 0, 0, 0, 44] ++ List.replicate 37 0);
    let h := parseL2 b; ipShort b h = false ∧ (s.daClass 31 63 h.da (ipVer h.etype ≠ 0) (dstBytes b h)).isSome = true ∧
    ((parseIp b h).any fun ip => ip.frag) = true) ∧
  (let s := (((running .service).set (MAC_QMODE_EN 3) 1).set (MAC_QMODE_MODE 3) 3).set (MAC_CFG_EN 31) 1;
    let s := s.set (MAC_STATUS_LINK 31) 2; 2048 ≤ (List.replicate 2048 (⟨31, 15, 0, 0, 0, [], 0, 0, 0⟩ : RxFrame)).length ∧
    SMap.get [] s.mac.rxq (16 * 31 + 15) = [] ∧ s.rxBytes 31 + 64 ≤ 1048576 / s.quadPorts 31) ∧
  (let s := (((running .service).set (MAC_QMODE_EN 3) 1).set (MAC_QMODE_MODE 3) 3).set (MAC_CFG_EN 31) 1;
    let s := s.set (MAC_STATUS_LINK 31) 2; s.gn.stepB = false ∧ (s.set (MAC_CFG_PAUSEEN 31) 1).is (MAC_CFG_PAUSEEN 31) = true ∧
    (s.set (MAC_CFG_PAUSEEN 31) 0).is (MAC_CFG_PAUSEEN 31) = false) :=
  by
  refine ⟨?_, ?_, ?_, ?_, ?_, ?_, ?_, ?_, ?_, ?_⟩ <;> decide +kernel

/-- O29, part 1. -/
theorem witness_FramesAreQueuedCommittedAndLaunched :
  (let s := ((((running .service).set (MAC_QMODE_EN 3) 1).set (MAC_QMODE_MODE 3) 3).set (MAC_CFG_EN 31) 1).set (MAC_STATUS_LINK 31) 2;
    let f : TxFrame := { port := 31, cls := 7, bytes := List.replicate 60 0, arrived := 60 };
    let s := s.onFab fun b => { b with lanes := [(32 * 32 + 31, [f])] }; s.nextSource 31 = some ((32 : Fin 33) : Nat) ∧
    SMap.get [] s.fab.lanes (32 * 32 + 31) = f :: [] ∧ s.slotGone f = false ∧ SMap.get [] s.fab.lanes (32 * 0 + 0) = []) ∧
  (let s := ((((running .service).set (MAC_QMODE_EN 3) 1).set (MAC_QMODE_MODE 3) 3).set (MAC_CFG_EN 31) 1).set (MAC_STATUS_LINK 31) 2;
    let f : TxFrame := { port := 31, cls := 7, bytes := List.replicate 60 0, arrived := 60, resv := some 3 };
    let s := s.onFab fun b => { b with lanes := [(32 * 32 + 31, [f])] }; s.nextSource 31 = some ((32 : Fin 33) : Nat) ∧
    s.slotGone f = true) ∧
  (let s := ((((running .service).set (MAC_QMODE_EN 3) 1).set (MAC_QMODE_MODE 3) 3).set (MAC_CFG_EN 31) 1).set (MAC_STATUS_LINK 31) 2;
    s.nextHead 31 = none ∧ s.mayCommit 31 = true) ∧
  (let s := ((((running .service).set (MAC_QMODE_EN 3) 1).set (MAC_QMODE_MODE 3) 3).set (MAC_CFG_EN 31) 1).set (MAC_STATUS_LINK 31) 2;
    let f : TxFrame := { port := 31, cls := 7, bytes := List.replicate 60 0, arrived := 60, caught := true, downs := 1 };
    let s := s.setTxq 31 7 [f]; s.nextHead 31 = some (7, f) ∧ s.caughtBefore 31 f = true) ∧
  (let s := ((((running .service).set (MAC_QMODE_EN 3) 1).set (MAC_QMODE_MODE 3) 3).set (MAC_CFG_EN 31) 1).set (MAC_STATUS_LINK 31) 2;
    let f : TxFrame := { port := 31, cls := 7, bytes := List.replicate 60 0, arrived := 60, part := some 2 };
    let s := s.setTxq 31 7 [f]; s.nextHead 31 = some (7, f) ∧ s.caughtBefore 31 f = false ∧ s.gateDrops 31 f = true) ∧
  (let s := ((((running .service).set (MAC_QMODE_EN 3) 1).set (MAC_QMODE_MODE 3) 3).set (MAC_CFG_EN 31) 1).set (MAC_STATUS_LINK 31) 2;
    let f : TxFrame := { port := 31, cls := 7, bytes := List.replicate 60 0, arrived := 60 }; let s := s.set (MAC_CFG_MAXLEN 31) 63;
    let s := s.setTxq 31 7 [f]; s.nextHead 31 = some (7, f) ∧ s.caughtBefore 31 f = false ∧ s.gateDrops 31 f = false ∧
    s.get (MAC_CFG_MAXLEN 31) < wireLen f) ∧
  (let s := ((((running .service).set (MAC_QMODE_EN 3) 1).set (MAC_QMODE_MODE 3) 3).set (MAC_CFG_EN 31) 1).set (MAC_STATUS_LINK 31) 2;
    let f : TxFrame := { port := 31, cls := 7, bytes := List.replicate 60 0, arrived := 60, desc := { op := 6 } };
    let s := s.setTxq 31 7 [f]; s.nextHead 31 = some (7, f) ∧ s.caughtBefore 31 f = false ∧ s.gateDrops 31 f = false ∧
    wireLen f ≤ s.get (MAC_CFG_MAXLEN 31) ∧ s.insertError 31 f = some 4) ∧
  (let s := ((((running .service).set (MAC_QMODE_EN 3) 1).set (MAC_QMODE_MODE 3) 3).set (MAC_CFG_EN 31) 1).set (MAC_STATUS_LINK 31) 2;
    let f : TxFrame := { port := 31, cls := 7, bytes := List.replicate 60 0, arrived := 60, desc := { op := 4, ofs := 40, corr := 20, link := 63 } };
    let s := s.setLink 31 63 (1, 0); let s := s.setTxq 31 7 [f]; s.nextHead 31 = some (7, f) ∧ s.caughtBefore 31 f = false ∧
    s.gateDrops 31 f = false ∧ wireLen f ≤ s.get (MAC_CFG_MAXLEN 31) ∧ s.insertError 31 f = none ∧ f.desc.op = 4 ∧
    (s.link 31 f.desc.link).1 = 1) ∧
  (let s := ((((running .service).set (MAC_QMODE_EN 3) 1).set (MAC_QMODE_MODE 3) 3).set (MAC_CFG_EN 31) 1).set (MAC_STATUS_LINK 31) 2;
    let f : TxFrame := { port := 31, cls := 7, bytes := List.replicate 60 0, arrived := 60, desc := { op := 4, ofs := 40, corr := 20, link := 63 } };
    let s := s.setLink 31 63 (3, 0); let s := s.setTxq 31 7 [f]; s.nextHead 31 = some (7, f) ∧ s.caughtBefore 31 f = false ∧
    s.gateDrops 31 f = false ∧ wireLen f ≤ s.get (MAC_CFG_MAXLEN 31) ∧ s.insertError 31 f = none ∧ f.desc.op = 4 ∧
    3 ≤ (s.link 31 f.desc.link).1) ∧
  (let s := ((((running .service).set (MAC_QMODE_EN 3) 1).set (MAC_QMODE_MODE 3) 3).set (MAC_CFG_EN 31) 1).set (MAC_STATUS_LINK 31) 2;
    let f : TxFrame := { port := 31, cls := 7, bytes := List.replicate 60 0, arrived := 0 }; let s := s.setTxq 31 7 [f];
    s.nextHead 31 = some (7, f) ∧ s.caughtBefore 31 f = false ∧ s.gateDrops 31 f = false ∧ wireLen f ≤ s.get (MAC_CFG_MAXLEN 31) ∧
    s.insertError 31 f = none ∧ f.desc.op ≠ 4 ∧ f.arrived < s.neededBytes 31 f) ∧
  (let s := ((((running .service).set (MAC_QMODE_EN 3) 1).set (MAC_QMODE_MODE 3) 3).set (MAC_CFG_EN 31) 1).set (MAC_STATUS_LINK 31) 2;
    let f : TxFrame := { port := 31, cls := 7, bytes := List.replicate 60 0, arrived := 60 }; let s := s.setTxq 31 7 [f];
    s.nextHead 31 = some (7, f) ∧ s.caughtBefore 31 f = false ∧ s.gateDrops 31 f = false ∧ wireLen f ≤ s.get (MAC_CFG_MAXLEN 31) ∧
    s.insertError 31 f = none ∧ f.desc.op ≠ 4 ∧ s.neededBytes 31 f ≤ f.arrived ∧ s.ts.grants = []) ∧
  (let s := ((((running .service).set (MAC_QMODE_EN 3) 1).set (MAC_QMODE_MODE 3) 3).set (MAC_CFG_EN 31) 1).set (MAC_STATUS_LINK 31) 2;
    let f : TxFrame := { port := 31, cls := 7, bytes := List.replicate 60 0, arrived := 60 };
    let s := s.onTs fun t => { t with grants := [(⟨3, 31, 0, 0, 64, none, 0, false, false⟩ : Grant)] }; let s := s.setTxq 31 7 [f];
    s.nextHead 31 = some (7, f) ∧ s.caughtBefore 31 f = false ∧ s.gateDrops 31 f = false ∧ wireLen f ≤ s.get (MAC_CFG_MAXLEN 31) ∧
    s.insertError 31 f = none ∧ s.neededBytes 31 f ≤ f.arrived ∧ (⟨3, 31, 0, 0, 64, none, 0, false, false⟩ : Grant) ∈ s.ts.grants ∧
    s.clears 31 f ((s.startWake 31).blockAt 31 ((s.startWake 31).earliest 31 (s.startWake 31).now) 0 0) (⟨3, 31, 0, 0, 64, none, 0, false, false⟩ : Grant) = false) :=
  by
  refine ⟨?_, ?_, ?_, ?_, ?_, ?_, ?_, ?_, ?_, ?_, ?_, ?_⟩ <;> decide +kernel

/-- O29, part 2. -/
theorem witness_FramesAreQueuedCommittedAndLaunched_2 :
  (let s := ((((running .service).set (MAC_QMODE_EN 3) 1).set (MAC_QMODE_MODE 3) 3).set (MAC_CFG_EN 31) 1).set (MAC_STATUS_LINK 31) 2;
    let f : TxFrame := { port := 31, cls := 7, bytes := List.replicate 60 0, arrived := 60 };
    ((s.settle 31).txq 31 0).find? TxFrame.ordinary = none ∧
    (((s.setTxq 31 7 [f]).settle 31).txq 31 7).find? TxFrame.ordinary = some f) ∧
  (let s := ((((running .service).set (MAC_QMODE_EN 3) 1).set (MAC_QMODE_MODE 3) 3).set (MAC_CFG_EN 31) 1).set (MAC_STATUS_LINK 31) 2;
    let f : TxFrame := { port := 31, cls := 7, bytes := List.replicate 60 0, arrived := 60 };
    (s.port 31).tx.find? (·.launch.isNone) = none) ∧
  (let s := ((((running .service).set (MAC_QMODE_EN 3) 1).set (MAC_QMODE_MODE 3) 3).set (MAC_CFG_EN 31) 1).set (MAC_STATUS_LINK 31) 2;
    let f : TxFrame := { port := 31, cls := 7, bytes := List.replicate 60 0, arrived := 60 };
    let x : InTx := { frame := f, queue := 7, tB := 5, tick := 0, ofs := 0, fin := 9 }; let s := s.setPort 31 { tx := [x] };
    (s.port 31).tx.find? (·.launch.isNone) = some x ∧ s.reachTick x.tick = some s) ∧
  (let s := ((((running .service).set (MAC_QMODE_EN 3) 1).set (MAC_QMODE_MODE 3) 3).set (MAC_CFG_EN 31) 1).set (MAC_STATUS_LINK 31) 2;
    let f : TxFrame := { port := 31, cls := 7, bytes := List.replicate 60 0, arrived := 60, desc := { linkRec := true, link := 63 }, resv := some 3 };
    let x : InTx := { frame := f, queue := 7, tB := 5, tick := 0, ofs := 0, fin := 9 }; let s := s.setPort 31 { tx := [x] };
    x.frame.desc.linkRec = true ∧ x.frame.resv = some 3) ∧
  (let s := ((((running .service).set (MAC_QMODE_EN 3) 1).set (MAC_QMODE_MODE 3) 3).set (MAC_CFG_EN 31) 1).set (MAC_STATUS_LINK 31) 2;
    let f : TxFrame := { port := 31, cls := 7, bytes := List.replicate 60 0, arrived := 60 };
    let x : InTx := { frame := f, queue := 7, tB := 5, tick := 0, ofs := 0, fin := 9, launch := some 9 };
    let s := s.setPort 31 { tx := [x] }; (s.port 31).tx = x :: [] ∧ x.over s.now = false) ∧
  (let s := ((((running .service).set (MAC_QMODE_EN 3) 1).set (MAC_QMODE_MODE 3) 3).set (MAC_CFG_EN 31) 1).set (MAC_STATUS_LINK 31) 2;
    let f : TxFrame := { port := 31, cls := 7, bytes := List.replicate 60 0, arrived := 60 };
    let x : InTx := { frame := f, queue := 7, tB := 5, tick := 0, ofs := 0, fin := 9, launch := some 9 };
    let s := s.setPort 31 { tx := [x] }; let s := s.onTb fun b => { b with c0 := ⟨1, 0, 0⟩, c1 := ⟨1, 0, 0⟩, c2 := ⟨1, 0, 0⟩ };
    (s.port 31).tx = x :: [] ∧ x.launch = some 9 ∧ x.frame.whole = true ∧ x.fin ≤ s.now) ∧
  (let s := ((((running .service).set (MAC_QMODE_EN 3) 1).set (MAC_QMODE_MODE 3) 3).set (MAC_CFG_EN 31) 1).set (MAC_STATUS_LINK 31) 2;
    let f : TxFrame := { port := 31, cls := 7, bytes := List.replicate 60 0, arrived := 60 };
    let x : InTx := { frame := f, queue := 7, tB := 5, tick := 0, ofs := 0, fin := 9 }; let s := s.setPort 31 { tx := [x] };
    ((inMode .service).settle 31).port 31 = { } ∧ ((s.settle 31).port 31).tx = x :: [] ∧ x.launch = none) ∧
  (let s := ((((running .service).set (MAC_QMODE_EN 3) 1).set (MAC_QMODE_MODE 3) 3).set (MAC_CFG_EN 31) 1).set (MAC_STATUS_LINK 31) 2;
    let f : TxFrame := { port := 31, cls := 7, bytes := List.replicate 60 0, arrived := 0 };
    let x : InTx := { frame := f, queue := 7, tB := 5, tick := 0, ofs := 0, fin := 9, launch := some 9 };
    let s := s.setPort 31 { tx := [x] }; let s := s.onTb fun b => { b with c0 := ⟨0, 100, 0⟩, c1 := ⟨0, 100, 0⟩, c2 := ⟨0, 100, 0⟩ };
    ((s.settle 31).port 31).tx = x :: [] ∧ x.frame.whole = false ∧ x.launch = some 9 ∧
    (s.settle 31).reach (x.tB + s.lineTime 31 (x.frame.arrived + 8)) = some s) ∧
  (let s := ((((running .service).set (MAC_QMODE_EN 3) 1).set (MAC_QMODE_MODE 3) 3).set (MAC_CFG_EN 31) 1).set (MAC_STATUS_LINK 31) 2;
    s.oldest 32 31 = none) ∧
  (let s := ((((running .service).set (MAC_QMODE_EN 3) 1).set (MAC_QMODE_MODE 3) 3).set (MAC_CFG_EN 31) 1).set (MAC_STATUS_LINK 31) 2;
    let f : TxFrame := { port := 31, cls := 7, bytes := List.replicate 60 0, arrived := 0, src := 32, ord := 4 };
    let x : InTx := { frame := f, queue := 7, tB := 5, tick := 0, ofs := 0, fin := 9, launch := some 9 };
    let s := s.setPort 31 { tx := [x] }; s.oldest 32 31 = some 4 ∧ f.ord = 4 ∧ f.arrived < f.bytes.length ∧ f.ord ≠ 5) :=
  by
  refine ⟨?_, ?_, ?_, ?_, ?_, ?_, ?_, ?_, ?_, ?_⟩ <;> decide +kernel

/-- O30. -/
theorem witness_ReservationsQueueReadsAndTheAudit :
  (let s := ((((running .service).set (MAC_QMODE_EN 3) 1).set (MAC_QMODE_MODE 3) 3).set (MAC_CFG_EN 31) 1).set (MAC_STATUS_LINK 31) 2;
    s.openGrants 31 = [] ∧ SMap.get [] s.ts.queues 31 = [] ∧ s.ts.audit = none) ∧
  (let s := ((((running .service).set (MAC_QMODE_EN 3) 1).set (MAC_QMODE_MODE 3) 3).set (MAC_CFG_EN 31) 1).set (MAC_STATUS_LINK 31) 2;
    let f : TxFrame := { port := 31, cls := 7, bytes := List.replicate 60 0, arrived := 60, resv := some 3 };
    let g : Grant := (⟨3, 31, 0, 0, 64, none, 0, false, false⟩ : Grant);
    let s := (s.setTxq 31 7 [f]).onTs fun t => { t with grants := [g] }; s.openGrants 31 = g :: [] ∧
    s.reach (g.tB - (s.portRow 31).pipe * ns1) = some s ∧ g.tB ≤ s.now + (s.portRow 31).pipe * ns1) ∧
  (let s := ((((running .service).set (MAC_QMODE_EN 3) 1).set (MAC_QMODE_MODE 3) 3).set (MAC_CFG_EN 31) 1).set (MAC_STATUS_LINK 31) 2;
    let f : TxFrame := { port := 31, cls := 7, bytes := List.replicate 60 0, arrived := 60, resv := some 3 };
    let g : Grant := (⟨3, 31, 0, 0, 64, none, 0, false, false⟩ : Grant);
    let s := (s.setTxq 31 7 [f]).onTs fun t => { t with grants := [g] };
    ((List.range 8).findSome? fun q => (takeFirst (fun f => f.resv == some g.id) (s.txq 31 q)).map fun x => (q, x.1, x.2)) = some (7, f, []) ∧
    s.resvMiss 31 g (some f) = none ∧ s.caughtBefore 31 f = false ∧ wireLen f ≤ s.get (MAC_CFG_MAXLEN 31) ∧ s.insertError 31 f = none) ∧
  (let s := ((((running .service).set (MAC_QMODE_EN 3) 1).set (MAC_QMODE_MODE 3) 3).set (MAC_CFG_EN 31) 1).set (MAC_STATUS_LINK 31) 2;
    let f : TxFrame := { port := 31, cls := 7, bytes := List.replicate 60 0, arrived := 60, resv := some 3 };
    let g : Grant := (⟨3, 31, 0, 0, 64, none, 0, false, false⟩ : Grant);
    let s := (s.setTxq 31 7 [f]).onTs fun t => { t with grants := [g] }; let s := s.set (MAC_STATUS_LINK 31) 0;
    ((List.range 8).findSome? fun q => (takeFirst (fun f => f.resv == some g.id) (s.txq 31 q)).map fun x => (q, x.1, x.2)) = some (7, f, []) ∧
    s.resvMiss 31 g (some f) = some 3) ∧
  (let s := ((((running .service).set (MAC_QMODE_EN 3) 1).set (MAC_QMODE_MODE 3) 3).set (MAC_CFG_EN 31) 1).set (MAC_STATUS_LINK 31) 2;
    let f : TxFrame := { port := 31, cls := 7, bytes := List.replicate 60 0, arrived := 60, resv := some 3, part := some 2 };
    let g : Grant := (⟨3, 31, 0, 0, 64, none, 0, false, false⟩ : Grant);
    let s := (s.setTxq 31 7 [f]).onTs fun t => { t with grants := [g] };
    ((List.range 8).findSome? fun q => (takeFirst (fun f => f.resv == some g.id) (s.txq 31 q)).map fun x => (q, x.1, x.2)) = some (7, f, []) ∧
    s.resvMiss 31 g (some f) = some 5) ∧
  (let s := ((((running .service).set (MAC_QMODE_EN 3) 1).set (MAC_QMODE_MODE 3) 3).set (MAC_CFG_EN 31) 1).set (MAC_STATUS_LINK 31) 2;
    let g : Grant := (⟨3, 31, 0, 0, 64, none, 0, false, false⟩ : Grant);
    ((List.range 8).findSome? fun q => (takeFirst (fun f => f.resv == some g.id) (s.txq 31 q)).map fun x => (q, x.1, x.2)) = none) ∧
  (let s := ((((running .service).set (MAC_QMODE_EN 3) 1).set (MAC_QMODE_MODE 3) 3).set (MAC_CFG_EN 31) 1).set (MAC_STATUS_LINK 31) 2;
    let r : TsRecord := { t := 5, tag := 1, launch := true };
    let s := s.onTs fun t => { t with queues := [(31, [r])], audit := some { port := 31, stated := 7, ends := 9 } };
    SMap.get [] s.ts.queues 31 = r :: [] ∧ ([] : List TsRecord).length < 8192 ∧
    s.ts.audit = some { port := 31, stated := 7, ends := 9 } ∧ ({ port := 31, stated := 7, ends := 9 } : Audit).done = false ∧
    ({ port := 31, stated := 7, ends := 9 } : Audit).port < 32) :=
  by
  refine ⟨?_, ?_, ?_, ?_, ?_, ?_, ?_⟩ <;> decide +kernel

/-- O31. -/
theorem witness_HousekeepingAnswersForTheDevice :
  (((inMode .service).eng eng).req = none ∧ ((running_ (reqOf 2 1 [])).eng eng).req = some (reqOf 2 1 []) ∧ (reqOf 2 1 []).part ≠ 0) ∧
  (let r := reqOf 0 1 []; let s := (running_ r).onFab fun b => { b with credits := [(32 * 31 + 31, 4)] }; (s.eng eng).req = some r ∧
    r.part = 0 ∧ s.credit eng.c r.port = false) ∧
  (let r := reqOf 0 1 []; let s := running_ r; (s.eng eng).req = some r ∧ r.part = 0 ∧ s.credit eng.c r.port = true ∧
    s.inTurn r = true) ∧
  ((inMode .service).mode ≠ .safe ∧ (inMode .service).is SYS_MODE_PAIR = false) ∧
  (let s := (((inMode .safe).set SYS_OMPETYPE_MGMTEN 1).set SYS_OMPETYPE_MGMTPORT 24).set (MAC_QMODE_EN 3) 1 |>.set (MAC_CFG_EN 24) 1;
    s.mode = .safe ∧ s.answersKind 24 1 = true) ∧
  (let s := ((running .service).set LEASE_STATUS_STATE 5).onLease fun l => { l with announce := 3 }; s.lease.announce ≠ 0 ∧
    s.leaseSt = 5 ∧ s.reachTick s.lease.announceAt = some s ∧ (inMode .service).leaseSt ≠ 5) :=
  by
  refine ⟨?_, ?_, ?_, ?_, ?_, ?_⟩ <;> decide +kernel

/-- O32. -/
theorem witness_EnginesExecuteTheirInstructions :
  (((inMode .service).eng eng).req = none) ∧
  (let r := reqOf 0 1 []; let s := running_ r; (s.eng eng).req = some r ∧ ((s.eng eng).setReg 63 63).reg 63 < 64 ∧
    64 ≤ ((s.eng eng).setReg 63 64).reg 63 ∧ (0x7FFF : BitVec 16).toNat < 32768 ∧ 32768 ≤ (0x8000 : BitVec 16).toNat) ∧
  (let r := reqOf 0 1 []; let s := running_ r; (s.eng eng).req = some r ∧
    (s.eng eng).results.find? (·.unit == ((11 : Fin 12) : Nat)) = none ∧
    (({ s.eng eng with results := [⟨11, true, []⟩] } : Engine).results.find? (·.unit == 11)) = some ⟨11, true, []⟩ ∧
    (s.eng eng).results.any (·.unit == 1) = false ∧
    ({ s.eng eng with results := [⟨11, true, []⟩] } : Engine).results.any (·.unit == 11) = true) ∧
  (let r := reqOf 0 1 []; let s := running_ r; (s.eng eng).req = some r ∧
    let s := s.onFab fun b => { b with credits := [(32 * 31 + 30, 4)] }; 4 ≤ SMap.get 0 s.fab.credits (32 * 31 + 30) ∧
    SMap.get 0 s.fab.credits (32 * 31 + 31) < 4 ∧ s.inTurn r = true) ∧
  ((reqOf 0 1 []).tx = none ∧
    ({ reqOf 0 3 [] with tx := some { port := 31, cls := 7, bytes := [] } } : Req).tx = some { port := 31, cls := 7, bytes := [] } ∧
    ({} : Engine).outLen = 0) ∧
  ((inMode .service).genKey 5 = none ∧
    (((inMode .service).set NTS_KEYSTAT_VALID 2).onNtp fun n => { n with keys := [(1, (5, 77))] }).genKey 5 = some 77) :=
  by
  refine ⟨?_, ?_, ?_, ?_, ?_, ?_⟩ <;> decide +kernel

/-- O33, part 1. -/
theorem witness_RequestsAreDispatchedStartedCheckedAndEnded :
  ((inMode .service).serving 5 = []) ∧
  (let s := ((inMode .service).set (FAB_PART_EN 4) 1).set (FAB_PART_CLMASK 4) (2 ^ 31); s.serving 4 ≠ [] ∧ s.leftBehind 4 = [] ∧
    s.stalledOn 4 = none ∧ ((List.range 516).all fun i => (s.takeSource 4 i).isNone) = true) ∧
  (let s := ((inMode .service).set (FAB_PART_EN 4) 1).set (FAB_PART_CLMASK 4) (2 ^ 31);
    let s := s.onFab fun f => { f with intern := [(17, [reqOf 4 1 []])] }; s.serving 4 ≠ [] ∧ s.leftBehind 4 = [] ∧
    s.stalledOn 4 = none ∧ (s.takeSource 4 513).map (·.1) = some (reqOf 4 1 []) ∧
    ((List.range 513).all fun i => (s.takeSource 4 i).isNone) = true ∧
    (List.range 516).map (fun i => (SMap.get 515 s.fab.rot 4 + 1 + i) % 516) = List.range 513 ++ 513 :: [514, 515]) ∧
  (let s := ((inMode .service).set (FAB_PART_EN 4) 1).set (FAB_PART_CLMASK 4) (2 ^ 31);
    let s := s.setStalled 4 (some (reqOf 4 1 [])); s.serving 4 ≠ [] ∧ s.leftBehind 4 = [] ∧ s.stalledOn 4 = some (reqOf 4 1 [])) ∧
  (let s := ((inMode .service).set (FAB_PART_EN 4) 1).set (FAB_PART_CLMASK 4) (2 ^ 31);
    let s := ((s.set (FAB_PART_CLMASK 4) (2 ^ 31 + 1)).setCluster 0 { queue := [reqOf 4 1 []] }).set (FAB_CL_STATE 0) 3;
    s.serving 4 ≠ [] ∧ s.leftBehind 4 ≠ []) ∧
  ((2 : Nat) ≤ 4 ∧ (inMode .service).gateOpen 31 = false ∧ ((inMode .service).set (MAC_STATUS_GATE 31) 1).gateOpen 31 = true) ∧
  (let s := ((inMode .service).set (FAB_PART_EN 4) 1).set (FAB_PART_CLMASK 4) (2 ^ 31); (s.cluster 31).queue.length < 256 ∧
    (inMode .service).serving 4 = []) ∧
  (let s := ((inMode .service).set (FAB_PART_EN 4) 1).set (FAB_PART_CLMASK 4) (2 ^ 31); let r := reqOf 4 1 [];
    let s := s.setCluster 31 { queue := List.replicate 256 r }; 256 ≤ (s.cluster 31).queue.length) ∧
  (let s := (inMode .service).setEngBit (FAB_CL_ENGMAP_LO 31) (FAB_CL_ENGMAP_HI 31) 33 true; s.engFree eng = true ∧
    (inMode .service).engFree eng = false ∧ (s.set (FAB_CL_STATE 31) 2).get (FAB_CL_STATE 31) ≠ 0 ∧
    (running_ (reqOf 2 1 [])).engFree eng = false) ∧
  (let s := ((((inMode .service).set (FAB_CL_PART 31) 2).set (FAB_PART_EN 2) 1).set (FAB_PART_CLMASK 2) (2 ^ 31 + 1)).set (FAB_PART_STEALMIN 2) 1;
    let r := reqOf 2 1 []; let s := (s.setCluster 0 { queue := [r] }).setEngBit (FAB_CL_ENGMAP_LO 31) (FAB_CL_ENGMAP_HI 31) 33 true;
    s.engFree eng = true ∧ (s.cluster 31).queue = [] ∧ s.get (FAB_CL_STATE 31) = 0 ∧ (0 : Fin 32) ≠ eng.c ∧
    s.serving (s.get (FAB_CL_PART 31)) = [0, 31] ∧ (s.cluster 31).queue.length < (s.cluster 0).queue.length ∧
    takeLoose (s.cluster 0).queue = some (r, []) ∧ s.get (FAB_PART_STEALMIN (s.get (FAB_CL_PART 31))) ≤ (s.cluster 0).queue.length) ∧
  (let s := (inMode .service).set (FAB_CL_PART 31) 2 |>.set (FAB_PART_STEALMIN 2) 1; s.serving (s.get (FAB_CL_PART 31)) = []) ∧
  (let r := reqOf 2 1 [];
    let s := ((inMode .service).setCluster 31 { queue := [r] }).setEngBit (FAB_CL_ENGMAP_LO 31) (FAB_CL_ENGMAP_HI 31) 33 true |>.set (FAB_PART_MAXAGE 2) 0;
    (s.cluster eng.c).queue = r :: [] ∧ s.engFree eng = true ∧ s.get (FAB_PART_MAXAGE 2) = 0) :=
  by
  refine ⟨?_, ?_, ?_, ?_, ?_, ?_, ?_, ?_, ?_, ?_, ?_, ?_⟩ <;> decide +kernel

/-- O33, part 2. -/
theorem witness_RequestsAreDispatchedStartedCheckedAndEnded_2 :
  (let r := reqOf 2 1 [];
    let s := ((inMode .service).setCluster 31 { queue := [r] }).setEngBit (FAB_CL_ENGMAP_LO 31) (FAB_CL_ENGMAP_HI 31) 33 true |>.set (FAB_PART_MAXAGE 2) 1000 |>.onTb fun b => { b with c0 := ⟨1, 0, 0⟩, c1 := ⟨1, 0, 0⟩, c2 := ⟨1, 0, 0⟩ };
    let u := (s.setCluster 31 { s.cluster 31 with queue := [] }).set (FAB_CL_DQLEVEL 31) 0; (s.cluster eng.c).queue = r :: [] ∧
    s.engFree eng = true ∧ u.get (FAB_PART_MAXAGE r.part) ≠ 0 ∧ u.get (FAB_PART_MAXAGE r.part) * us1 < s.now - r.stamp) ∧
  (((inMode .service).eng eng).req = none) ∧
  (let r := reqOf 2 1 []; let s := running_ r; (s.eng eng).req = some r ∧ (s.eng eng).leaving = false ∧ (s.eng eng).emits = 0 ∧
    r.part ≠ 1 ∧ s.failCount eng.c eng.e < 2 ∧ (s.eng eng).passes + 1 < 65536) ∧
  (let r := reqOf 1 0 []; let s := ((running_ r).setEng eng { req := some r, emits := 8 }).setFail 31 33 2;
    (s.eng eng).req = some r ∧ (s.eng eng).leaving = false ∧ 1 ≤ (s.eng eng).emits ∧ (s.eng eng).emits ≤ 8 ∧ r.part = 1 ∧
    2 ≤ s.failCount eng.c eng.e ∧ ((List.range 8).all fun k => !s.is (SYS_OMPSESS_FRAMES k)) = true) ∧
  (let r := reqOf 1 0 []; let s := ((running_ r).setEng eng { req := some r, emits := 9 }).set (SYS_OMPSESS_FRAMES 0) 1;
    (s.eng eng).req = some r ∧ (s.eng eng).leaving = false ∧ 8 < (s.eng eng).emits ∧ r.part = 1 ∧
    s.is (SYS_OMPSESS_FRAMES ((0 : Fin 8) : Nat)) = true) :=
  by
  refine ⟨?_, ?_, ?_, ?_, ?_⟩ <;> decide +kernel

/-- O34. -/
theorem witness_AssociationStoreAndRateSketchCalls :
  (((inMode .service).eng eng).req = none) ∧
  (let r := reqOf 4 1 []; let s := (inMode .service).setEng eng { req := some r, results := [⟨3, true, []⟩, ⟨4, true, []⟩] };
    (s.eng eng).req = some r ∧ (s.eng eng).results.any (·.unit == 3) = true ∧ (s.eng eng).results.any (·.unit == 4) = true) ∧
  (let r := reqOf 4 1 []; let s := ((running_ r).set (FAB_PART_EN 4) 1); (s.eng eng).req = some r ∧
    (s.eng eng).results.any (·.unit == 3) = false ∧ s.owns r.part 1048576 = false) ∧
  (let r := reqOf 4 1 []; let s := ((running_ r).set (FAB_PART_EN 4) 1); (s.eng eng).req = some r ∧
    (s.eng eng).results.any (·.unit == 3) = false ∧ s.owns r.part 1048575 = true ∧ (List.replicate 32 (7 : Byte)).length = 32 ∧
    s.entryWord 1048575 3 = 0 % 2 ^ 64 ∧ s.entryWord 1048575 3 ≠ 1 % 2 ^ 64) ∧
  (let r := reqOf 4 1 []; let s := ((running_ r).set (FAB_PART_EN 4) 1); (s.eng eng).req = some r ∧
    (s.eng eng).results.any (·.unit == 4) = false ∧ r.part ≠ (s.set FAB_RATE_OWNER 2).get FAB_RATE_OWNER ∧
    r.part = (s.set FAB_RATE_OWNER 4).get FAB_RATE_OWNER ∧ (3 : Nat) < 4) ∧
  (let s := running .service; let n := s.fab.bootTicks + (s.epoch + 1) * (max 1 (s.get FAB_RATE_HALFLIFE) * 1000000);
    (2000000000 ≤ n → s.reachTick n = none)) ∧
  (let s := running .service; s.fab.occAt = s.now / (100 * us1) ∧
    ((s.onFab fun f => { f with occAt := 9 }).fab.occAt ≠ s.now / (100 * us1)) ∧ (inMode .service).reach (100 * us1 + 0) = none) :=
  by
  refine ⟨?_, ?_, ?_, ?_, ?_, ?_, ?_⟩ <;> decide +kernel

/-- O35. -/
theorem witness_ClustersAndEnginesLeaveAndReturn :
  ((inMode .service).get (FAB_CL_STATE 31) ≠ 1) ∧
  (let s := (inMode .service).set (FAB_CL_STATE 31) 1; s.get (FAB_CL_STATE 31) = 1 ∧ s.busyEngines 31 = [] ∧
    (((s.moveQueue 31).dropBusy 31).cluster 31).drainTo < 8) ∧
  (let s := (running_ (reqOf 2 1 [])).set (FAB_CL_STATE 31) 1; s.get (FAB_CL_STATE 31) = 1 ∧ s.busyEngines 31 ≠ [] ∧
    s.reachTick (100000 + (s.cluster 31).drainFrom) = none ∧
    (s.onTb fun b => { b with ticks := 100000 }).reachTick (100000 + (s.cluster 31).drainFrom) = some (s.onTb fun b => { b with ticks := 100000 })) ∧
  (let s := (inMode .service).set (FAB_CL_STATE 31) 3; s.underTest 31 = false ∧ s.get (FAB_CL_STATE 31) ≠ 0 ∧
    (s.cluster 31).byCommand = false) ∧
  (let s : State := { inMode .service with bist := { open_ := some { u := 31 }, gated := some { u := 31 } } };
    s.underTest 31 = true ∧ s.get (FAB_CL_STATE 31) ≠ 3 ∧ s.get (FAB_CL_STATE 31) ≠ 4) ∧
  (let s := ((inMode .service).set (FAB_CL_PART 31) 3).set (FAB_PART_EN 3) 1; s.underTest 31 = false ∧ s.get (FAB_CL_STATE 31) = 0 ∧
    (s.set (FAB_PART_CLMASK 3) (2 ^ 31)).notSole 31 = false ∧ (s.set (FAB_PART_CLMASK 3) (2 ^ 31 + 1)).notSole 31 = true) ∧
  (let s := ((inMode .service).set (FAB_CL_STATE 31) 3).setCluster 31 { byCommand := true }; s.get (FAB_CL_STATE 31) = 3 ∧
    (s.cluster 31).byCommand = true) ∧
  (34 ≤ ((34 : Fin 64) : Nat)) ∧
  (let s := (inMode .service).setEngBit (FAB_CL_ENGMAP_LO 31) (FAB_CL_ENGMAP_HI 31) 33 true; ((33 : Fin 64) : Nat) < 34 ∧
    s.engIn 31 33 = true ∧ s.engRetired 31 33 = false ∧ 1 < s.engines 31 ∧ (s.engineOf (64 * 31 + 33)).req = none) ∧
  (let s := (running_ (reqOf 2 1 [])).setEngBit (FAB_CL_ENGMAP_LO 31) (FAB_CL_ENGMAP_HI 31) 33 true; s.engIn 31 33 = true ∧
    s.engRetired 31 33 = false ∧ 1 < s.engines 31 ∧ (s.engineOf (64 * 31 + 33)).req.isSome = true) ∧
  (let s := (((inMode .service).set (FAB_CL_ENGMAP_LO 31) 0).set (FAB_CL_ENGMAP_HI 31) 0).setEngBit (FAB_CL_ENGMAP_LO 31) (FAB_CL_ENGMAP_HI 31) 33 true;
    ((33 : Fin 64) : Nat) < 34 ∧ s.engIn 31 33 = true ∧ s.engRetired 31 33 = false ∧ s.engines 31 = 1 ∧
    (s.set (FAB_CL_PART 31) 5).notSole 31 = false) ∧
  (let s := (inMode .service).setEngBit (FAB_CL_RETCMDMAP 31) (FAB_CL_RETCMD 31) 33 true; s.engByCmd 31 33 = true ∧
    s.engByCmd 31 0 = false ∧ s.get (FAB_CL_FAIL2 31) < 16 ∧ s.get (FAB_CL_FAIL0 31) < 2 ^ 32 ∧ s.get (FAB_CL_FAIL1 31) < 2 ^ 32) :=
  by
  refine ⟨?_, ?_, ?_, ?_, ?_, ?_, ?_, ?_, ?_, ?_, ?_, ?_⟩ <;> decide +kernel

/-- O36. -/
theorem witness_NtpRequestsAreAnswered :
  (((inMode .service).eng eng).req = none) ∧
  (let r := reqOf 2 1 ([]); let s := running_ r |>.onFab fun b => { b with credits := [(32 * 31 + 31, 4)] };
    (s.eng eng).req = some r ∧ r.part = 2 ∧ s.credit eng.c r.port = false) ∧
  (let r := reqOf 2 1 ([]); let s := running_ r; (s.eng eng).req = some r ∧ r.part = 2 ∧ s.credit eng.c r.port = true ∧
    s.inTurn r = true ∧ reqUdp r = none ∧ (s.set NTP_CFG_EN 0).is NTP_CFG_EN = false) ∧
  (let p : List Byte := 0x23 :: List.replicate 47 0; let r := reqOf 2 0 (udp6 123 p); let s := running_ r |>.set NTP_CFG_EN 1;
    (s.eng eng).req = some r ∧ r.part = 2 ∧ s.credit eng.c r.port = true ∧ s.inTurn r = true ∧ s.is NTP_CFG_EN = true ∧
    ((reqUdp r).any fun x => ntpCheck x.1 (beNat (slice r.bytes x.1.l4 2)) x.2 == none) = true) ∧
  (let p : List Byte := 0x26 :: List.replicate 47 0; let r := reqOf 2 0 (udp6 123 p); let s := running_ r |>.set NTP_CFG_EN 1;
    (s.eng eng).req = some r ∧ r.part = 2 ∧ s.credit eng.c r.port = true ∧ s.inTurn r = true ∧ s.is NTP_CFG_EN = true ∧
    ((reqUdp r).any fun x => ntpCheck x.1 (beNat (slice r.bytes x.1.l4 2)) x.2 == some NTP_CNT_MODE6) = true) ∧
  (let p : List Byte := 0x27 :: List.replicate 47 0; let r := reqOf 2 0 (udp6 123 p); let s := running_ r |>.set NTP_CFG_EN 1;
    (s.eng eng).req = some r ∧ r.part = 2 ∧ s.credit eng.c r.port = true ∧ s.inTurn r = true ∧ s.is NTP_CFG_EN = true ∧
    ((reqUdp r).any fun x => ntpCheck x.1 (beNat (slice r.bytes x.1.l4 2)) x.2 == some NTP_CNT_MODE7) = true) ∧
  (let p : List Byte := List.replicate 47 0x23; let r := reqOf 2 0 (udp6 123 p); let s := running_ r |>.set NTP_CFG_EN 1;
    (s.eng eng).req = some r ∧ r.part = 2 ∧ s.credit eng.c r.port = true ∧ s.inTurn r = true ∧ s.is NTP_CFG_EN = true ∧
    ((reqUdp r).any fun x => ntpCheck x.1 (beNat (slice r.bytes x.1.l4 2)) x.2 == some NTP_CNT_SHORT) = true ∧
    NTP_CNT_SHORT ≠ NTP_CNT_MODE6 ∧ NTP_CNT_SHORT ≠ NTP_CNT_MODE7) ∧
  (((inMode .service).set NTP_RATE_EN 0).is NTP_RATE_EN = false ∧ ((inMode .service).set NTP_RATE_EN 1).is NTP_RATE_EN = true ∧
    ((inMode .service).set FAB_RATE_OWNER 3).get FAB_RATE_OWNER = 3 ∧ (List.replicate 48 (0 : Byte)).length = 48) :=
  by
  refine ⟨?_, ?_, ?_, ?_, ?_, ?_, ?_, ?_⟩ <;> decide +kernel

/-- O37, part 1. -/
theorem witness_NtsKeysAreDrawnRotatedAndUsed :
  ((inMode .safe).serviceOn = false ∧ (((inMode .service).set SYS_MODE_PAIR 1).set LEASE_STATUS_STATE 2).makesKeys = false) ∧
  (let s := (running .service).onTb (fun b => { b with c0 := ⟨3540, 0, 0⟩, c1 := ⟨3540, 0, 0⟩, c2 := ⟨3540, 0, 0⟩ });
    s.serviceOn = true ∧ s.makesKeys = true ∧ s.ntp.next = none ∧ 3540 ≤ instSec s.now % 3600 ∧
    s.ntp.drawHour ≠ some (instSec s.now / 3600)) ∧
  (let s := (running .service).onTb (fun b => { b with c0 := ⟨3539, 0, 0⟩, c1 := ⟨3539, 0, 0⟩, c2 := ⟨3539, 0, 0⟩ });
    instSec s.now % 3600 < 3540) ∧
  (let s := (running .service).onTb (fun b => { b with c0 := ⟨3540, 0, 0⟩, c1 := ⟨3540, 0, 0⟩, c2 := ⟨3540, 0, 0⟩ }) |>.onNtp fun n => { n with next := some 5, nextAt := 3541 };
    s.serviceOn = true ∧ s.ntp.next = some 5 ∧ instSec s.now < s.ntp.nextAt) ∧
  (let s := (running .service).onTb (fun b => { b with c0 := ⟨3600, 0, 0⟩, c1 := ⟨3600, 0, 0⟩, c2 := ⟨3600, 0, 0⟩ }) |>.onNtp fun n => { n with next := some (2 ^ 32 - 1), nextAt := 3600 };
    s.serviceOn = true ∧ s.ntp.next = some (2 ^ 32 - 1) ∧ s.ntp.nextAt ≤ instSec s.now ∧ 2 ^ 32 - 1 < 2 ^ 32) ∧
  (let s := (running .service).onTb (fun b => { b with c0 := ⟨3600, 0, 0⟩, c1 := ⟨3600, 0, 0⟩, c2 := ⟨3600, 0, 0⟩ }) |>.set SYS_MODE_PAIR 1 |>.set LEASE_STATUS_STATE 2 |>.set NTS_KEYSTAT_VALID 1;
    s.serviceOn = true ∧ s.ntp.next = none ∧ s.makesKeys = false ∧ s.get NTS_KEYSTAT_VALID ≠ 0 ∧ s.ntp.hour < instSec s.now / 3600) ∧
  (((inMode .service).eng eng).req = none) ∧
  (let r := reqOf 3 1 ([]); let s := running_ r |>.onFab fun b => { b with credits := [(32 * 31 + 31, 4)] };
    (s.eng eng).req = some r ∧ r.part = 3 ∧ s.credit eng.c r.port = false) ∧
  (let r := reqOf 3 1 ([]); let s := running_ r; (s.eng eng).req = some r ∧ r.part = 3 ∧ s.credit eng.c r.port = true ∧
    s.inTurn r = true ∧ reqUdp r = none) ∧
  (let p : List Byte := 0x23 :: List.replicate 46 0; let r := reqOf 3 0 (udp6 123 p); let s := running_ r |>.set NTS_CFG_EN 1;
    (s.eng eng).req = some r ∧ r.part = 3 ∧ s.credit eng.c r.port = true ∧ s.inTurn r = true ∧ s.is NTS_CFG_EN = true ∧
    ((reqUdp r).any fun x => x.2.length < 48) = true) ∧
  (let p : List Byte := 0x23 :: List.replicate 47 0; let r := reqOf 3 0 (udp6 0 p); let s := running_ r |>.set NTS_CFG_EN 1;
    (s.eng eng).req = some r ∧ r.part = 3 ∧ s.credit eng.c r.port = true ∧ s.inTurn r = true ∧ s.is NTS_CFG_EN = true ∧
    ((reqUdp r).any fun x => 48 ≤ x.2.length && (x.2.length - 48) % 4 == 0 && badSource x.1 (beNat (slice r.bytes x.1.l4 2))) = true) ∧
  (let p : List Byte := 0x24 :: List.replicate 47 0; let r := reqOf 3 0 (udp6 123 p); let s := running_ r |>.set NTS_CFG_EN 1;
    (s.eng eng).req = some r ∧ r.part = 3 ∧ s.credit eng.c r.port = true ∧ s.inTurn r = true ∧ s.is NTS_CFG_EN = true ∧
    ((reqUdp r).any fun x => 48 ≤ x.2.length && (x.2.length - 48) % 4 == 0 && !badSource x.1 (beNat (slice r.bytes x.1.l4 2)) && beNat (x.2.take 1) % 8 != 3) = true) :=
  by
  refine ⟨?_, ?_, ?_, ?_, ?_, ?_, ?_, ?_, ?_, ?_, ?_, ?_⟩ <;> decide +kernel

/-- O37, part 2. -/
theorem witness_NtsKeysAreDrawnRotatedAndUsed_2 :
  (let p : List Byte := 0x23 :: List.replicate 47 0; let r := reqOf 3 0 (udp6 123 p); let s := running_ r |>.set NTS_CFG_EN 1;
    (s.eng eng).req = some r ∧ r.part = 3 ∧ s.credit eng.c r.port = true ∧ s.inTurn r = true ∧ s.is NTS_CFG_EN = true ∧
    ((reqUdp r).any fun x => 48 ≤ x.2.length && (x.2.length - 48) % 4 == 0 && !badSource x.1 (beNat (slice r.bytes x.1.l4 2)) && (beNat (x.2.take 1) / 8 % 8 == 4) && (beNat (x.2.take 1) % 8 == 3) && ntsParts x.2 == none) = true) ∧
  (let p : List Byte := 0x23 :: List.replicate 47 0 ++ [1, 4, 0, 36] ++ List.replicate 32 9 ++ [2, 4, 0, 108, 0, 0, 0, 5] ++ List.replicate 100 8 ++ [4, 4, 0, 40, 0, 16, 0, 16] ++ List.replicate 32 7;
    let r := reqOf 3 0 (udp6 123 p);
    let s := running_ r |>.set NTS_CFG_EN 1 |>.set NTS_KEYSTAT_VALID 2 |>.set NTS_KEYGEN_GEN 5 |>.onNtp fun n => { n with keys := [(1, (5, 77))] };
    (s.eng eng).req = some r ∧ r.part = 3 ∧ s.credit eng.c r.port = true ∧ s.inTurn r = true ∧ s.is NTS_CFG_EN = true ∧
    ((reqUdp r).any fun x => 48 ≤ x.2.length && (x.2.length - 48) % 4 == 0 && !badSource x.1 (beNat (slice r.bytes x.1.l4 2)) && (beNat (x.2.take 1) / 8 % 8 == 4) && (beNat (x.2.take 1) % 8 == 3) && (ntsParts x.2).any fun y => y.cookie.length == 104 && s.accepted (beNat (y.cookie.take 4)) && !(inMode .service).accepted (beNat (y.cookie.take 4))) = true) :=
  by
  refine ⟨?_, ?_⟩ <;> decide +kernel

/-- O38, part 1. -/
theorem witness_NtsKeyEstablishmentAndCertificates :
  (((inMode .service).set NTS_CFG_EN 0).is NTS_CFG_EN = false ∧ (inMode .service).portSends 31 = false) ∧
  (let s := (((inMode .service).set NTS_CFG_EN 1).set (MAC_STATUS_LINK 31) 2).set (MAC_STATUS_GATE 31) 1;
    let x : Far := { vlan := 0, mac := 7, self := [0xFD] ++ List.replicate 15 0 };
    let s := (((s.set (MAC_IP_EN 31 0) 1).set (MAC_IP_V6 31 0) 1).set (MAC_IP_ADDR 31 0 0) 0xFD000000).set (MAC_IP_KIND 31 0) 0;
    s.is NTS_CFG_EN = true ∧ s.serverAddr 31 x.vlan x.self = true ∧ s.portSends 31 = true ∧ s.gateOpen 31 = true ∧
    s.keConn 7 = none ∧ (s.set NTS_KECFG_MAXCONN 0).get NTS_KECFG_MAXCONN ≤ s.ntp.conns.length ∧
    s.ntp.conns.length < (s.set NTS_KECFG_MAXCONN 1).get NTS_KECFG_MAXCONN) ∧
  (let k : KeConn := { id := 7, port := 31, start := 0, peer := { vlan := 0, mac := 0 }, snd := 0 };
    let s := (running .service).setConns [k]; s.keConn 8 = none ∧ s.keConn 7 = some k ∧ k.chain = none) ∧
  (let k : KeConn := { id := 7, port := 31, start := 0, peer := { vlan := 0, mac := 0 }, snd := 0 };
    let s := (running .service).setConns [k]; let h : Hello := ⟨false, true, [0x1301], [0x001D], [0x001D], [0x0807], true, true⟩;
    let s := ((s.set (NTS_CERT_PRESENT 1) 1).set (NTS_CERT_ALG 1) 0); s.keConn 7 = some k ∧ k.chain = none ∧ h.tls13 = false) ∧
  (let k : KeConn := { id := 7, port := 31, start := 0, peer := { vlan := 0, mac := 0 }, snd := 0 };
    let s := (running .service).setConns [k]; let h : Hello := ⟨true, false, [0x1301], [0x001D], [0x001D], [0x0807], true, true⟩;
    let s := ((s.set (NTS_CERT_PRESENT 1) 1).set (NTS_CERT_ALG 1) 0); s.keConn 7 = some k ∧ k.chain = none ∧ h.tls13 = true ∧
    h.alpn = false) ∧
  (let k : KeConn := { id := 7, port := 31, start := 0, peer := { vlan := 0, mac := 0 }, snd := 0 };
    let s := (running .service).setConns [k]; let h : Hello := ⟨true, true, [], [0x001D], [0x001D], [0x0807], true, true⟩;
    let s := ((s.set (NTS_CERT_PRESENT 1) 1).set (NTS_CERT_ALG 1) 0); s.keConn 7 = some k ∧ k.chain = none ∧ h.tls13 = true ∧
    h.alpn = true ∧ [0x1301, 0x1302].find? h.suites.contains = none) ∧
  (let k : KeConn := { id := 7, port := 31, start := 0, peer := { vlan := 0, mac := 0 }, snd := 0 };
    let s := (running .service).setConns [k]; let h : Hello := ⟨true, true, [0x1301], [0x001D], [], [0x0807], true, true⟩;
    let s := ((s.set (NTS_CERT_PRESENT 1) 1).set (NTS_CERT_ALG 1) 0); s.keConn 7 = some k ∧ k.chain = none ∧ h.tls13 = true ∧
    h.alpn = true ∧ [0x1301, 0x1302].find? h.suites.contains = some 0x1301 ∧ s.chooseChain h.schemes = some 1 ∧
    [0x001D, 0x0017].find? h.groups.contains = some 0x001D ∧ [0x001D, 0x0017].find? h.shares.contains = none ∧ k.retried = false) ∧
  (let k : KeConn := { id := 7, port := 31, start := 0, peer := { vlan := 0, mac := 0 }, snd := 0 };
    let s := (running .service).setConns [k]; let h : Hello := ⟨true, true, [0x1301], [0x001D], [0x001D], [0x0807], true, true⟩;
    let s := ((s.set (NTS_CERT_PRESENT 1) 1).set (NTS_CERT_ALG 1) 0); s.keConn 7 = some k ∧ k.chain = none ∧ h.tls13 = true ∧
    h.alpn = true ∧ [0x1301, 0x1302].find? h.suites.contains = some 0x1301 ∧ s.chooseChain h.schemes = some 1 ∧
    [0x001D, 0x0017].find? h.groups.contains = some 0x001D ∧ [0x001D, 0x0017].find? h.shares.contains = some 0x001D ∧
    h.shareOk = true ∧ h.served = true ∧ ({ h with served := false } : Hello).served = false ∧
    ({ h with shareOk := false } : Hello).shareOk = false) ∧
  (let k : KeConn := { id := 7, port := 31, start := 0, peer := { vlan := 0, mac := 0 }, snd := 0, chain := some 1 };
    let s := (running .service).setConns [k]; s.keConn 7 = some k ∧ k.chain.isSome = true ∧ keRecords 300 0 [1] = .waits ∧
    keRecords 300 0 (List.replicate 1025 0) = .whole []) ∧
  (let k : KeConn := { id := 7, port := 31, start := 0, peer := { vlan := 0, mac := 0 }, snd := 0, chain := some 1 };
    let s := (running .service).setConns [k]; s.keConn 7 = some k ∧ k.chain.isSome = true ∧
    keRecords 300 0 (keRecord true 9 (List.replicate 1021 0)) = .tooLong) ∧
  (let k : KeConn := { id := 7, port := 31, start := 0, peer := { vlan := 0, mac := 0 }, snd := 0, chain := some 1 };
    let s := (running .service).setConns [k]; s.keConn 7 = some k ∧ k.chain.isSome = true ∧
    (match keRecords 300 0 (keRecord true 9 [] ++ keRecord true 0 []) with | .whole rs => rs.any (fun r => r.1 && decide (8 ≤ r.2.1)) | _ => false) = true) ∧
  (let k : KeConn := { id := 7, port := 31, start := 0, peer := { vlan := 0, mac := 0 }, snd := 0, chain := some 1 };
    let s := (running .service).setConns [k]; s.keConn 7 = some k ∧ k.chain.isSome = true ∧
    (match keRecords 300 0 (keRecord true 4 [] ++ keRecord true 0 []) with | .whole rs => !rs.any (fun r => r.1 && decide (8 ≤ r.2.1)) && (rs.head?.map (·.2.1) != some 1) | _ => false) = true) :=
  by
  refine ⟨?_, ?_, ?_, ?_, ?_, ?_, ?_, ?_, ?_, ?_, ?_, ?_⟩ <;> decide +kernel

/-- O38, part 2. -/
theorem witness_NtsKeyEstablishmentAndCertificates_2 :
  (let k : KeConn := { id := 7, port := 31, start := 0, peer := { vlan := 0, mac := 0 }, snd := 0, chain := some 1 };
    let s := (running .service).setConns [k]; s.keConn 7 = some k ∧ k.chain.isSome = true ∧
    (match keRecords 300 0 (keRecord true 1 [0, 1] ++ keRecord true 4 [] ++ keRecord true 0 []) with | .whole rs => !rs.any (fun r => r.1 && decide (8 ≤ r.2.1)) && (rs.head?.map (·.2.1) == some 1) && ((rs.filter fun r => r.2.1 == 1).length == 1) && ((rs.filter fun r => r.2.1 == 4) != []) && !(rs.filter fun r => r.2.1 == 1).any (fun r => has16 r.2.2 0) | _ => false) = true) ∧
  (let k : KeConn := { id := 7, port := 31, start := 0, peer := { vlan := 0, mac := 0 }, snd := 0, chain := some 1 };
    let s := (running .service).setConns [k]; s.keConn 7 = some k ∧ k.chain.isSome = true ∧
    (match keRecords 300 0 (keRecord true 1 [0, 0] ++ keRecord true 4 [0, 1] ++ keRecord true 0 []) with | .whole rs => !rs.any (fun r => r.1 && decide (8 ≤ r.2.1)) && (rs.head?.map (·.2.1) == some 1) && ((rs.filter fun r => r.2.1 == 1).length == 1) && ((rs.filter fun r => r.2.1 == 4) != []) && (rs.filter fun r => r.2.1 == 1).any (fun r => has16 r.2.2 0) && !(rs.filter fun r => r.2.1 == 4).any (fun r => has16 r.2.2 0x000F) | _ => false) = true) ∧
  (let k : KeConn := { id := 7, port := 31, start := 0, peer := { vlan := 0, mac := 0 }, snd := 0, chain := some 1 };
    let s := (running .service).setConns [k]; s.keConn 7 = some k ∧ k.chain.isSome = true ∧
    (match keRecords 300 0 (keRecord true 1 [0, 0] ++ keRecord true 4 [0, 0x0F] ++ keRecord true 0 []) with | .whole rs => !rs.any (fun r => r.1 && decide (8 ≤ r.2.1)) && (rs.head?.map (·.2.1) == some 1) && ((rs.filter fun r => r.2.1 == 1).length == 1) && ((rs.filter fun r => r.2.1 == 4) != []) && (rs.filter fun r => r.2.1 == 1).any (fun r => has16 r.2.2 0) && (rs.filter fun r => r.2.1 == 4).any (fun r => has16 r.2.2 0x000F) | _ => false) = true) ∧
  (let k : KeConn := { id := 7, port := 31, start := 0, peer := { vlan := 0, mac := 0 }, snd := 0, shaken := true };
    let s := (running .service).setConns [k]; k.shaken = true ∧ ({ k with shaken := false } : KeConn).shaken = false) ∧
  (let k : KeConn := { id := 7, port := 31, start := 0, peer := { vlan := 0, mac := 0 }, snd := 0 };
    let s := (running .service).setConns [k]; let s := s.onTb fun b => { b with ticks := 1000000000 * s.get NTS_KECFG_TIMEOUT };
    s.keConn 7 = some k ∧ s.reachTick (1000000000 * s.get NTS_KECFG_TIMEOUT + k.start) = some s) ∧
  (let k : KeConn := { id := 7, port := 31, start := 0, peer := { vlan := 0, mac := 0 }, snd := 0 };
    let s := (running .service).setConns [k]; let k : KeConn := { k with start := 2 ^ 40 }; let s := s.setConns [k];
    s.keConn 7 = some k ∧ s.reachTick (1000000000 * s.get NTS_KECFG_TIMEOUT + k.start) = none) ∧
  (let s := (inMode .service).set NTS_CFG_EN 1; let u := s.freshCerts; s.is NTS_CFG_EN = true ∧ s.serviceOn = true ∧
    u.is (NTS_CERT_INUSE 0) = false ∧ u.is (NTS_CERT_INUSE 1) = false ∧ u.chooseChain [0x0807, 0x0403] = none) ∧
  (let s := (((inMode .service).set NTS_CFG_EN 1).set (NTS_CERT_PRESENT 1) 1).set (NTS_CERT_INUSE 1) 1; let u := s.freshCerts;
    s.is NTS_CFG_EN = true ∧ s.serviceOn = true ∧
    (if u.is (NTS_CERT_INUSE 0) then some 0 else if u.is (NTS_CERT_INUSE 1) then some 1 else u.chooseChain [0x0807, 0x0403]) = some 1) :=
  by
  refine ⟨?_, ?_, ?_, ?_, ?_, ?_, ?_, ?_⟩ <;> decide +kernel

/-- O39, part 1. -/
theorem witness_PtpMessagesAreCheckedAndAnswered :
  (((inMode .service).eng eng).req = none) ∧
  (let r := reqOf 4 1 []; let s := (running_ r).set (FAB_PART_EN 4) 1; (s.eng eng).req = some r ∧ r.part = 4 ∧
    s.credit eng.c r.port = true ∧ ((s.onFab fun b => { b with credits := [(32 * 31 + 31, 4)] }).credit eng.c r.port) = false) ∧
  (let r := reqOf 4 0 (ptpFrame 0 13 0 327681 (List.replicate 10 0));
    (inMode .service).ptpCheck r (ptpPayload r) (ptpParse (ptpPayload r)) = some 5) ∧
  (let r := reqOf 4 0 (ptpFrame 0x011B19000000 1 0 327681 (List.replicate 10 0));
    let s := ((running_ r).set (PTP_P_EN 31) 1).set (PTP_P_STATE 31) 1 |>.set (PTP_P_MCAST 31) 1; let m := ptpParse (ptpPayload r);
    (s.eng eng).req = some r ∧ r.part = 4 ∧ s.credit eng.c r.port = true ∧ s.inTurn r = true ∧ r.src = 0 ∧
    s.ptpCheck r (ptpPayload r) m = none ∧ m.type = 1 ∧ s.get (PTP_P_STATE r.port) = 1 ∧ s.is (PTP_P_MCAST r.port) = true ∧
    (s.set (PTP_P_STATE r.port) 0).get (PTP_P_STATE r.port) ≠ 1) ∧
  (let r := reqOf 4 0 (ptpFrame 0x011B19000000 2 0 327681 (List.replicate 20 0));
    let s := ((running_ r).set (PTP_P_EN 31) 1).set (PTP_P_STATE 31) 1 |>.set (PTP_P_P2P 31) 1; let m := ptpParse (ptpPayload r);
    (s.eng eng).req = some r ∧ r.part = 4 ∧ s.credit eng.c r.port = true ∧ s.inTurn r = true ∧ r.src = 0 ∧
    s.ptpCheck r (ptpPayload r) m = none ∧ m.type = 2 ∧ s.get (PTP_P_STATE r.port) ≠ 0 ∧
    (s.set (PTP_P_TWOSTEP r.port) 0).is (PTP_P_TWOSTEP r.port) = false ∧
    (s.set (PTP_P_TWOSTEP r.port) 1).is (PTP_P_TWOSTEP r.port) = true ∧ (s.takeLink r.port).2 = some 0 ∧
    ((s.setTxq 31 0 [{ port := 31, cls := 0, bytes := [], desc := { op := 4 } }]).takeLink r.port).2 = none) ∧
  (let r := reqOf 4 0 (ptpFrame 0x011B19000000 3 0 327681 (List.replicate 18 0 ++ [0, 32]));
    let s := ((running_ r).set (PTP_P_EN 31) 1).set (PTP_P_STATE 31) 1 |>.set (PTP_P_P2P 31) 1 |>.setPeer 31 { t1 := some 5 };
    let m := ptpParse (ptpPayload r); (s.eng eng).req = some r ∧ r.part = 4 ∧ s.credit eng.c r.port = true ∧ s.inTurn r = true ∧
    r.src = 0 ∧ s.ptpCheck r (ptpPayload r) m = none ∧ m.type = 3 ∧ (s.peer r.port).t1 = some 5 ∧
    slice m.body 44 10 = s.portId r.port ∧ m.seq = (s.peer r.port).seq ∧ m.flags / 512 % 2 = 0 ∧ ((inMode .service).peer 31).t1 = none) ∧
  (let r := reqOf 4 0 (ptpFrame 0x011B19000000 10 0 327681 (List.replicate 20 0));
    let s := ((running_ r).set (PTP_P_EN 31) 1).set (PTP_P_STATE 31) 1 |>.set (PTP_P_P2P 31) 1; let m := ptpParse (ptpPayload r);
    (s.eng eng).req = some r ∧ r.part = 4 ∧ s.credit eng.c r.port = true ∧ s.inTurn r = true ∧ r.src = 0 ∧
    s.ptpCheck r (ptpPayload r) m = none ∧ m.type = 10 ∧ (s.peer r.port).t1 = none) ∧
  (let r := reqOf 4 0 (ptpFrame 0x011B19000000 0 512 327681 (List.replicate 10 0));
    let s := ((running_ r).set (PTP_P_EN 31) 1).set (PTP_P_STATE 31) 1 |>.set PTPIN_EN 1 |>.set PTPIN_PORT 31 |>.set PTPIN_DOMAIN 0 |>.onPtp fun t => { t with master := some 327681 };
    let m := ptpParse (ptpPayload r); (s.eng eng).req = some r ∧ r.part = 4 ∧ s.credit eng.c r.port = true ∧ s.inTurn r = true ∧
    r.src = 0 ∧ s.ptpCheck r (ptpPayload r) m = none ∧ m.type = 0 ∧ s.clientMsg r.port m.domain = true ∧ s.ptp.master = some m.src ∧
    m.flags / 512 % 2 = 1) ∧
  (let r := reqOf 4 0 (ptpFrame 0x011B19000000 0 0 327681 (List.replicate 10 0));
    let s := ((running_ r).set (PTP_P_EN 31) 1).set (PTP_P_STATE 31) 1 |>.set PTPIN_EN 1 |>.set PTPIN_PORT 31 |>.set PTPIN_DOMAIN 0 |>.onPtp fun t => { t with master := some 327681 };
    let m := ptpParse (ptpPayload r); (s.eng eng).req = some r ∧ r.part = 4 ∧ s.credit eng.c r.port = true ∧ s.inTurn r = true ∧
    r.src = 0 ∧ s.ptpCheck r (ptpPayload r) m = none ∧ m.type = 0 ∧ s.clientMsg r.port m.domain = true ∧ s.ptp.master = some m.src ∧
    m.flags / 512 % 2 = 0 ∧ (s.onPtp fun t => { t with master := none }).ptp.master ≠ some m.src) ∧
  (let r := reqOf 4 0 (ptpFrame 0x011B19000000 0 0 327681 (List.replicate 10 0));
    let s := ((running_ r).set (PTP_P_EN 31) 1).set (PTP_P_STATE 31) 1 |>.set (PTP_P_EN 31) 0; let m := ptpParse (ptpPayload r);
    (s.eng eng).req = some r ∧ r.part = 4 ∧ s.credit eng.c r.port = true ∧ s.inTurn r = true ∧ r.src = 0 ∧
    s.ptpCheck r (ptpPayload r) m = none ∧ m.type = 0 ∧ s.clientMsg r.port m.domain = false) ∧
  (let r := reqOf 4 0 (ptpFrame 0x011B19000000 8 0 327681 (List.replicate 10 0));
    let s := ((running_ r).set (PTP_P_EN 31) 1).set (PTP_P_STATE 31) 1 |>.set PTPIN_EN 1 |>.set PTPIN_PORT 31 |>.set PTPIN_DOMAIN 0 |>.onPtp fun t => { t with master := some 327681, syncWait := some (0, 5, 6) };
    let m := ptpParse (ptpPayload r); (s.eng eng).req = some r ∧ r.part = 4 ∧ s.credit eng.c r.port = true ∧ s.inTurn r = true ∧
    r.src = 0 ∧ s.ptpCheck r (ptpPayload r) m = none ∧ m.type = 8 ∧ s.ptp.syncWait = some (m.seq, 5, 6) ∧
    s.clientMsg r.port m.domain = true ∧ s.ptp.master = some m.src ∧ (inMode .service).ptp.syncWait = none) ∧
  (let r := reqOf 4 0 (ptpFrame 0x011B19000000 9 0 327681 (List.replicate 18 0 ++ [0, 32]));
    let s := ((running_ r).set (PTP_P_EN 31) 1).set (PTP_P_STATE 31) 1 |>.set PTPIN_EN 1 |>.set PTPIN_PORT 31 |>.set PTPIN_DOMAIN 0 |>.onPtp fun t => { t with master := some 327681, dreqAt := some 5, syncTerm := some 6 };
    let m := ptpParse (ptpPayload r); (s.eng eng).req = some r ∧ r.part = 4 ∧ s.credit eng.c r.port = true ∧ s.inTurn r = true ∧
    r.src = 0 ∧ s.ptpCheck r (ptpPayload r) m = none ∧ m.type = 9 ∧ s.ptp.dreqAt = some 5 ∧ s.ptp.syncTerm = some 6 ∧
    s.clientMsg r.port m.domain = true ∧ s.ptp.master = some m.src ∧ m.seq = s.ptp.dreqSeq ∧ slice m.body 44 10 = s.portId r.port ∧
    (inMode .service).ptp.dreqAt = none) :=
  by
  refine ⟨?_, ?_, ?_, ?_, ?_, ?_, ?_, ?_, ?_, ?_, ?_, ?_⟩ <;> decide +kernel

/-- O39, part 2. -/
theorem witness_PtpMessagesAreCheckedAndAnswered_2 :
  (let r := reqOf 4 0 (ptpFrame 0x011B19000000 11 0 327681 (List.replicate 30 0));
    let s := ((running_ r).set (PTP_P_EN 31) 1).set (PTP_P_STATE 31) 1; let m := ptpParse (ptpPayload r); (s.eng eng).req = some r ∧
    r.part = 4 ∧ s.credit eng.c r.port = true ∧ s.inTurn r = true ∧ r.src = 0 ∧ s.ptpCheck r (ptpPayload r) m = none ∧ m.type = 11 ∧
    s.clientMsg r.port m.domain = false ∧ beNat (slice m.body 53 8) = s.clockId ∧
    beNat (slice m.body 53 8) ≠ (s.set PTP_CLOCKID_LO_ID 9).clockId) :=
  by decide +kernel

/-- O40, part 1. -/
theorem witness_PtpGrantsCalendarAndClientSends :
  (let r := reqOf 4 0 (ptpFrame 0x011B19000000 12 0 327681 (List.replicate 9 0 ++ [32]));
    let s := ((running_ r).set (PTP_P_EN 31) 1).set (PTP_P_STATE 31) 1; let m := ptpParse (ptpPayload r); (s.eng eng).req = some r ∧
    r.part = 4 ∧ s.credit eng.c r.port = true ∧ s.inTurn r = true ∧ r.src = 0 ∧ s.ptpCheck r (ptpPayload r) m = none ∧ m.type = 12 ∧
    slice m.body 34 10 = s.portId r.port ∧ (State.tlvs r m .clean 400 s (m.body.drop 44)).2 = []) ∧
  (let r := reqOf 4 0 (ptpFrame 0x011B19000000 12 0 327681 (List.replicate 9 0 ++ [33]));
    let s := ((running_ r).set (PTP_P_EN 31) 1).set (PTP_P_STATE 31) 1; let m := ptpParse (ptpPayload r); (s.eng eng).req = some r ∧
    r.part = 4 ∧ s.credit eng.c r.port = true ∧ s.inTurn r = true ∧ r.src = 0 ∧ s.ptpCheck r (ptpPayload r) m = none ∧ m.type = 12 ∧
    slice m.body 34 10 ≠ List.replicate 10 0xFF ∧ slice m.body 34 10 ≠ s.portId r.port) ∧
  (let r := reqOf 4 0 (ptpFrame 0x011B19000000 12 0 327681 (List.replicate 9 0 ++ [32, 0, 4, 0, 6, 0xB0, 0, 0, 0, 0, 60]));
    let s := ((running_ r).set (PTP_P_EN 31) 1).set (PTP_P_STATE 31) 1; let m := ptpParse (ptpPayload r); (s.eng eng).req = some r ∧
    r.part = 4 ∧ s.credit eng.c r.port = true ∧ s.inTurn r = true ∧ r.src = 0 ∧ s.ptpCheck r (ptpPayload r) m = none ∧ m.type = 12 ∧
    slice m.body 34 10 = s.portId r.port ∧ (State.tlvs r m .clean 400 s (m.body.drop 44)).2 ≠ []) ∧
  (((inMode .service).grantEntry 1048575).valid = false ∧ notExpired 5 0 = true ∧ notExpired 0 0 = false) ∧
  (let s := (inMode .service).onFab fun f => { f with store := SMap.setMany 0 f.store (entryAddr 1048575) (encodeGrant { valid := true, portId := List.replicate 10 0, addr := List.replicate 8 0, expiry := 5 }) };
    (s.grantEntry 1048575).valid = true ∧ (s.grantEntry 1048575).sync = 15 ∧ (s.grantEntry 1048575).ann = 15 ∧
    (s.grantEntry 1048575).dr = 15 ∧ notExpired (s.grantEntry 1048575).expiry (instSec s.now) = true) ∧
  ((inMode .service).calLog false 1048575 true = none ∧ (((inMode .service).set (PTP_P_MCAST 31) 0).calLog true 31 true) = none) ∧
  (let s := ((((running .service).set (PTP_P_MCAST 31) 1).set (PTP_P_STATE 31) 1).seti (PTP_P_LOGANN 31) 1).onTb fun b => { b with c0 := ⟨1, 937500000, 0⟩, c1 := ⟨1, 937500000, 0⟩, c2 := ⟨1, 937500000, 0⟩ };
    ((31 : Fin 1048576) : Nat) < 32 ∧ s.calLog true 31 true = some 1 ∧ s.get (PTP_P_STATE 31) = 1 ∧ calPhase true 31 1 ≤ 1937500000 ∧
    (1937500000 - calPhase true 31 1) % interval 1 = 0 ∧ s.reach ((1937500000 - s.get PTP_CALCFG_CALLEAD * 1000) * ns1) = some s ∧
    s.inOrder true ((31 : Fin 1048576) : Nat) 1937500000 = true ∧ SMap.get 0 s.ptp.issued (calKey true 31 true) < 1937500000) ∧
  (let r := ({ reqOf 4 1 [] with index := 31, kind := 3 } : Req);
    let s := ((running_ r).set (PTP_P_MCAST 31) 1).seti (PTP_P_LOGANN 31) 1; (s.eng eng).req = some r ∧ r.part = 4 ∧
    s.credit eng.c r.port = true ∧ s.inTurn r = true ∧ r.src = 1 ∧ r.kind = 3 ∧ s.calLog true r.index true = some 1 ∧
    (s.set (PTP_P_STATE 31) 1).get (PTP_P_STATE r.port) = 1 ∧ (s.set (PTP_P_STATE 31) 0).get (PTP_P_STATE r.port) ≠ 1 ∧
    (s.set (PTP_P_MCAST 31) 0).calLog true r.index true = none) ∧
  (let r := ({ reqOf 4 1 [] with index := 31, kind := 1 } : Req);
    let s := (((running_ r).set (PTP_P_MCAST 31) 1).set (PTP_P_STATE 31) 1).seti (PTP_P_LOGSYNC 31) (-3) |>.set (PTP_P_TWOSTEP 31) 0;
    (s.eng eng).req = some r ∧ r.part = 4 ∧ s.credit eng.c r.port = true ∧ s.inTurn r = true ∧ r.src = 1 ∧ r.kind = 1 ∧
    s.calLog true r.index false = some (-3) ∧ s.get (PTP_P_STATE r.port) = 1 ∧ s.is (PTP_P_TWOSTEP r.port) = false) ∧
  ((31 : Nat) < 32 ∧ ((inMode .service).set PTP_CFG_EN 0).is PTP_CFG_EN = false ∧ (inMode .service).is (PTP_P_P2P 31) = false) ∧
  (let s := (running .service).onPtp fun t => { t with foreign := [{ port := 31, src := 1, client := false, gm := ⟨0, 0, 0, 0, 0, 0, 0⟩, logAnn := 0, last := 2 ^ 40 }] };
    (inMode .service).reachTick ((inMode .service).announceDue 31) = some (inMode .service) ∧ s.reachTick (s.announceDue 31) = none) ∧
  (let s := ((inMode .service).set (PTP_P_P2P 31) 1).set (PTP_P_STATE 31) 2; s.is (PTP_P_P2P 31) = true ∧
    s.get (PTP_P_STATE 31) ≠ 0 ∧ (s.peer 31).sentAt = 0 ∧ s.reachTick 0 = some s) :=
  by
  refine ⟨?_, ?_, ?_, ?_, ?_, ?_, ?_, ?_, ?_, ?_, ?_, ?_⟩ <;> decide +kernel

/-- O40, part 2. -/
theorem witness_PtpGrantsCalendarAndClientSends_2 :
  (let s := (((inMode .service).set PTPIN_EN 1).set PTPIN_PORT 31).set (MAC_STATUS_LINK 31) 2 |>.set PTPIN_MODE 1 |>.onPtp fun t => { t with master := some 5 };
    s.is PTPIN_EN = true ∧ s.is PTPIN_MODE = true ∧ s.ptp.master.isSome = true ∧ s.portUp (s.get PTPIN_PORT) = true ∧
    (s.set PTPIN_EN 0).is PTPIN_EN = false ∧ s.ptp.dreqTick = none ∧ s.ptp.renewAt = none ∧ s.reachTick 0 = some s) ∧
  ((let s := (inMode .service).onPtp fun t => { t with dreqTick := some 1, renewAt := some 1 }; s.reachTick (s.ptp.dreqTick.elim 0 (· + interval (max (s.geti PTPIN_LOGDREQ) s.ptp.logDreq))) = none ∧
    s.reachTick (s.ptp.renewAt.elim 0 (500000000 * s.ptp.grantDur + ·)) = none)) ∧
  ((inMode .service).reach ((1937500000 - (inMode .service).get PTP_CALCFG_CALLEAD * 1000) * ns1) = none) :=
  by
  refine ⟨?_, ?_, ?_⟩ <;> decide +kernel

/-- O41, part 1. -/
theorem witness_RoughtimeRequestsBatchesAndKeys :
  (((inMode .service).eng eng).req = none) ∧
  (let r := reqOf 5 0 ([]); let s := running_ r |>.onFab fun b => { b with credits := [(32 * 31 + 31, 4)] };
    (s.eng eng).req = some r ∧ r.part = 5 ∧ s.credit eng.c r.port = false) ∧
  (let r : Req := { reqOf 5 2 [] with resps := [{ port := 31, cls := 3, bytes := [] }] }; let s := running_ r;
    (s.eng eng).req = some r ∧ r.part = 5 ∧ s.credit eng.c r.port = true ∧ s.inTurn r = true ∧ r.src = 2) ∧
  (let r := reqOf 5 0 ([]); let s := running_ r; (s.eng eng).req = some r ∧ r.part = 5 ∧ s.credit eng.c r.port = true ∧
    s.inTurn r = true ∧ r.src ≠ 2 ∧ reqUdp r = none) ∧
  (let p : List Byte := List.replicate 40 0; let r := reqOf 5 0 (udp6 123 p); let s := running_ r |>.set RT_CFG_EN 0;
    (s.eng eng).req = some r ∧ r.part = 5 ∧ s.credit eng.c r.port = true ∧ s.inTurn r = true ∧ r.src ≠ 2 ∧
    ((reqUdp r).any fun x => x.2 == p) = true ∧ s.rtOn = false) ∧
  (let p : List Byte := List.replicate 40 0; let r := reqOf 5 0 (udp6 123 p);
    let s := running_ r |>.set RT_CFG_EN 1 |>.set RT_KEYSTAT_LTOK 1 |>.set RT_NET_PORT 123 |>.set (MAC_IP_EN 31 255) 1 |>.set (MAC_IP_V6 31 255) 1 |>.set (MAC_IP_ADDR 31 255 0) 0xFD000000;
    (s.eng eng).req = some r ∧ r.part = 5 ∧ s.credit eng.c r.port = true ∧ s.inTurn r = true ∧ r.src ≠ 2 ∧
    ((reqUdp r).any fun x => x.2 == p && dstPort r.bytes x.1 == s.get RT_NET_PORT && (s.set (MAC_IP_ADDR 31 255 0) (beNat (x.1.dst.take 4)) |>.set (MAC_IP_ADDR 31 255 1) (beNat (slice x.1.dst 4 4)) |>.set (MAC_IP_ADDR 31 255 2) (beNat (slice x.1.dst 8 4)) |>.set (MAC_IP_ADDR 31 255 3) (beNat (slice x.1.dst 12 4))).serverAddr 31 r.vlan x.1.dst) = true ∧
    s.rtOn = true) ∧
  ((List.replicate 1023 (0 : Byte)).length < 1024 ∧ 1024 ≤ (List.replicate 1024 (0 : Byte)).length ∧
    rtMessage (List.replicate 1024 0) = none) ∧
  (let ip : Ip := { ver := 2, src := 0xFD :: List.replicate 15 0, dst := [], proto := 17, frag := false, l4 := 54, len := 8 };
    badSource ip 0 = true ∧ badSource ip 123 = false) ∧
  (let m := rtBuild [(rtVER, leBytes 4 (rtVersion 1)), (rtNONC, List.replicate 32 5)]; let p := rtPacket m ++ List.replicate 980 0;
    let t := [(rtVER, leBytes 4 (rtVersion 1)), (rtNONC, List.replicate 32 5)]; 1024 ≤ p.length ∧ rtMessage p = some m ∧
    rtParse m = some t ∧ (inMode .service).rt.cur = none) ∧
  (let ver := leBytes 4 (rtVersion 1); let nonce := List.replicate 32 5; ver ≠ [] ∧ ver.length % 4 = 0 ∧ ver.length ≤ 128 ∧
    nonce.length = 32 ∧ ((inMode .service).set RT_CFG_VERMASK 0).rtChoose ver = none) ∧
  (let s := ((inMode .service).set RT_CFG_VERMASK 3).set SEL_TQR_TEB 5 |>.onRt fun x => { x with cur := some ({ num := 2, seed := 5, mint := 0, maxt := 86400000000000, certs := [] } : RtKey) };
    let ver := leBytes 4 (rtVersion 1); let nonce := List.replicate 32 5; let t := [(rtVER, ver), (rtNONC, nonce)];
    rtTag t rtVER = some ver ∧ rtTag t rtNONC = some nonce ∧ rtTag t rtSRV = none ∧ ver ≠ [] ∧ ver.length % 4 = 0 ∧
    ver.length ≤ 128 ∧ nonce.length = 32 ∧ s.rtChoose ver = some 1 ∧ s.rt.cur.isSome = true ∧ s.get SEL_TQR_TEB ≠ 0xFFFFFFFF ∧
    (s.set SEL_TQR_TEB (2 ^ 32 - 1)).get SEL_TQR_TEB = 0xFFFFFFFF ∧ s.rtFull 1 = false) ∧
  ((inMode .service).rtOpen 0 = none) :=
  by
  refine ⟨?_, ?_, ?_, ?_, ?_, ?_, ?_, ?_, ?_, ?_, ?_, ?_⟩ <;> decide +kernel

/-- O41, part 2. -/
theorem witness_RoughtimeRequestsBatchesAndKeys_2 :
  (let o : RtOpen := { from_ := 0, leaves := [] }; let s := (inMode .service).setRtOpen 1 (some o); s.rtOpen 1 = some o ∧
    s.now ≤ s.rtEnd o ∧ o.leaves.length + 1 < 65536) ∧
  (let o : RtOpen := { from_ := 0, leaves := [] }; let s := ((inMode .service).set RT_CFG_WINDOW 0).setRtOpen 1 (some o);
    s.rtOpen 1 = some o ∧ s.reach (us1 * s.get RT_CFG_WINDOW + o.from_) = some s ∧
    (s.setRtOpen 1 (some { o with from_ := 5 })).reach (us1 * s.get RT_CFG_WINDOW + 5) = none) ∧
  (let s := (((((running .service).set RT_CFG_EN 1).set RT_KEYSTAT_LTOK 1).set RT_KEYCFG_OVERLAP 0).set RT_KEYCFG_KEYLEAD 1).seti TB_UTC_OFFSET 0;
    let k := ({ num := 2, seed := 5, mint := 0, maxt := 86400000000000, certs := [] } : RtKey);
    let s := (s.set SEL_TQR_TEB 5).onRt fun x => { x with cur := some k }; s.rt.daily = none ∧ s.get SEL_TQR_TEB ≠ 0xFFFFFFFF ∧
    s.rt.cur = some k ∧ k.mint ≤ s.utcNs s.now ∧ s.utcNs s.now ≤ k.maxt) ∧
  (let b : RtBatch := ⟨2 ^ 20 - 1, 1, 0, [], [], [], 2⟩;
    let k := ({ num := 2, seed := 5, mint := 0, maxt := 86400000000000, certs := [] } : RtKey);
    let s := (inMode .service).onRt fun x => { x with closed := [b], cur := some k };
    s.rt.closed.find? (·.num == 2 ^ 20 - 1) = some b ∧ s.rt.closed.find? (·.num == 0) = none ∧
    (s.rt.cur.toList ++ s.rt.old).find? (·.num == b.key) = some k) ∧
  (let s := (((((running .service).set RT_CFG_EN 1).set RT_KEYSTAT_LTOK 1).set RT_KEYCFG_OVERLAP 0).set RT_KEYCFG_KEYLEAD 1).seti TB_UTC_OFFSET 0;
    let s := (s.set SEL_TQR_TEB 5).set RT_KEYELIM_ELIM 5; s.rtOn = true ∧ s.rt.cur = none ∧
    s.get SEL_TQR_TEB ≤ s.get RT_KEYELIM_ELIM ∧ s.rt.daily = none ∧ s.rt.replace = false ∧
    (s.set SEL_TQR_TEB 6).get RT_KEYELIM_ELIM < (s.set SEL_TQR_TEB 6).get SEL_TQR_TEB ∧ (inMode .safe).rtOn = false) ∧
  (let s := (((((running .service).set RT_CFG_EN 1).set RT_KEYSTAT_LTOK 1).set RT_KEYCFG_OVERLAP 0).set RT_KEYCFG_KEYLEAD 1).seti TB_UTC_OFFSET 0;
    let k := ({ num := 2, seed := 5, mint := 0, maxt := 86400000000000, certs := [] } : RtKey);
    let s := s.onRt fun x => { x with cur := some k, replace := true }; s.rtOn = true ∧ s.rt.cur = some k ∧ s.rt.replace = true ∧
    s.rt.daily = none) ∧
  (let s := (((((running .service).set RT_CFG_EN 1).set RT_KEYSTAT_LTOK 1).set RT_KEYCFG_OVERLAP 0).set RT_KEYCFG_KEYLEAD 1).seti TB_UTC_OFFSET 0;
    let k := ({ num := 2, seed := 5, mint := 0, maxt := 1000000000, certs := [] } : RtKey);
    let s := s.onRt fun x => { x with cur := some k }; s.rtOn = true ∧ s.rt.cur = some k ∧ s.rt.daily = none ∧
    s.rtD k - s.rtLead ≤ s.utcNs s.now ∧ s.utcNs s.now < s.rtD k) ∧
  (let s := (((((running .service).set RT_CFG_EN 1).set RT_KEYSTAT_LTOK 1).set RT_KEYCFG_OVERLAP 0).set RT_KEYCFG_KEYLEAD 1).seti TB_UTC_OFFSET 0;
    let k := ({ num := 2, seed := 5, mint := 0, maxt := 1000000001, certs := [] } : RtKey);
    let s := s.onRt fun x => { x with cur := some k }; s.rt.cur = some k ∧ s.utcNs s.now < s.rtD k - s.rtLead) ∧
  (let s := (((((running .service).set RT_CFG_EN 1).set RT_KEYSTAT_LTOK 1).set RT_KEYCFG_OVERLAP 0).set RT_KEYCFG_KEYLEAD 1).seti TB_UTC_OFFSET 0;
    let k := ({ num := 2, seed := 5, mint := 0, maxt := 86400000000000, certs := [] } : RtKey);
    let s := s.onRt fun x => { x with daily := some k }; s.rtOn = true ∧ s.rt.daily = some k ∧ k.mint + s.rtOverlap ≤ s.utcNs s.now ∧
    s.utcNs s.now < ({ k with mint := 1 } : RtKey).mint + s.rtOverlap) ∧
  (let s := (((((running .service).set RT_CFG_EN 1).set RT_KEYSTAT_LTOK 1).set RT_KEYCFG_OVERLAP 0).set RT_KEYCFG_KEYLEAD 1).seti TB_UTC_OFFSET 0;
    let k := ({ num := 2, seed := 5, mint := 0, maxt := 0, certs := [] } : RtKey);
    let s := (s.set RT_KEYSTAT_LATE 0).onRt fun x => { x with cur := some k }; s.rtOn = true ∧ s.rt.daily = none ∧
    s.rt.cur = some k ∧ s.rtD k ≤ s.utcNs s.now ∧ s.is RT_KEYSTAT_LATE = false ∧ (s.set RT_KEYSTAT_LATE 1).is RT_KEYSTAT_LATE = true) :=
  by
  refine ⟨?_, ?_, ?_, ?_, ?_, ?_, ?_, ?_, ?_, ?_⟩ <;> decide +kernel

/-- O42, part 1. -/
theorem witness_TeaselJobsAreSubmittedStartedAndReleased :
  ((inMode .backup).awake = false ∧ (Path.spi) ≠ .cp 4) ∧
  (let s := ((inMode .service).set (TSL_PART_EN 3) 1).set (TSL_PART_ENGMASK 3) (2 ^ 15 + 1); let v := 3 * 2 ^ 30;
    let u := (s.set (TSL_SUBMIT_PART 4) 3).set (TSL_SUBMIT_ADDR 4) (v / 8); v / 2 ^ 30 % 4 = 3 ∧ (u.tslQueue 3).length < 64 ∧
    (u.set (TSL_SUBMIT_STATUS 4) 1).tslServing 3 ≠ [] ∧ 64 ≤ ((u.setTslQueue 3 (List.replicate 64 tslJob)).tslQueue 3).length) ∧
  (((inMode .service).set (TSL_PART_EN 0) 0).tslServing 0 = [] ∧
    (((((inMode .service).set (TSL_PART_EN 0) 0).set (TSL_PART_EN 1) 0).set (TSL_PART_EN 2) 0).set (TSL_PART_EN 3) 0).tslPart 15 = none) ∧
  (let s := ((inMode .service).set (TSL_PART_EN 3) 1).set (TSL_PART_ENGMASK 3) (2 ^ 15 + 1);
    let s := (s.setTslQueue 3 [tslJob]).set (TSL_PART_EN 0) 0; let u := s.onTb fun b => { b with running := true };
    s.tslPart 15 = some 3 ∧ s.tslFree 15 = true ∧ ((List.range 16).any fun x => s.tslWaits x && s.companionFor x 15) = false ∧
    s.takeJob 3 15 (s.tslQueue 3) = some (tslJob, []) ∧
    ((u.reachTick u.nextSlot).any fun v => v.takeJob 3 15 (v.tslQueue 3) == some (tslJob, [])) = true ∧ s.takeJob 3 15 [] = none) ∧
  (15 < 16 ∧ (tslDesc []).jobId < 2 ^ 32) ∧
  ((inMode .service).tslWaits 15 = false ∧ (inMode .service).tslRun 15 = none) ∧
  (let s := ((inMode .service).set (TSL_PART_EN 3) 1).set (TSL_PART_ENGMASK 3) (2 ^ 15 + 1);
    let s := (s.set (TSL_PART_EN 0) 0 |>.onTb fun b => { b with running := true }).setTslRun 0 { tslRunOf [] with waiting := true };
    s.tslWaits 0 = true ∧ s.companionFor 0 15 = true ∧
    ((s.reachTick s.nextSlot).any fun u => u.tslRun 0 == some { tslRunOf [] with waiting := true }) = true) ∧
  (let r := tslRunOf []; let s := (inMode .service).setTslRun 15 r; s.tslRun 15 = some r ∧ r.waiting = false ∧
    s.reachTick (r.start + 128 * r.dur) = some s ∧ r.signer = none ∧ r.supply = false ∧ r.refused = false ∧ r.cmd = none ∧
    r.shadow = false ∧ r.desc.chkEn = false ∧ r.code = 0 ∧ r.desc.cls ≠ 2 ∧ (tslRunOf [5]).cmd.isSome = true ∧
    (s.tslEng 15).leaving = false) ∧
  (let r := { tslRunOf [] with start := 5, dur := 1 }; (inMode .service).reachTick (r.start + 128 * r.dur) = none) ∧
  (let s := (inMode .service).onTsl fun t => { t with aborts := 2 ^ 15 }; s.awake = true ∧ s.tsl.aborts ≠ 0 ∧
    s.reachTick s.tsl.abortAt = some s ∧ (inMode .service).tsl.aborts = 0 ∧ (inMode .service).is TSL_ABORT_PENDING = false) ∧
  (let r := { tslRunOf [] with signer := some 0 }; let s := (inMode .service).setTslRun 15 r; s.tslRun 15 = some r ∧
    r.waiting = false ∧ s.reachTick (r.start + 128 * r.dur) = some s ∧ r.signer = some 0 ∧ s.tslRun 0 = none ∧
    (s.setTslRun 0 (tslRunOf [])).tslRun 0 = some (tslRunOf [])) ∧
  (let c := tslRunOf []; c.supply = false ∧ c.refused = false ∧ c.cmd = none ∧ c.code = 0 ∧ c.slot c.desc.chkSlot = 3 ∧
    ({ c with desc := { c.desc with chkSlot := 9 } } : TslRun).slot 9 = 0 ∧ ({ c with refused := true } : TslRun).refused = true ∧
    ({ c with supply := true } : TslRun).supply = true) :=
  by
  refine ⟨?_, ?_, ?_, ?_, ?_, ?_, ?_, ?_, ?_, ?_, ?_, ?_⟩ <;> decide +kernel

/-- O42, part 2. -/
theorem witness_TeaselJobsAreSubmittedStartedAndReleased_2 :
  (let r := { tslRunOf [] with supply := true }; let s := (inMode .service).setTslRun 15 r; s.tslRun 15 = some r ∧
    r.waiting = false ∧ s.reachTick (r.start + 128 * r.dur) = some s ∧ r.signer = none ∧ r.supply = true) ∧
  (let r := { tslRunOf [] with refused := true }; let s := (inMode .service).setTslRun 15 r; s.tslRun 15 = some r ∧
    r.waiting = false ∧ s.reachTick (r.start + 128 * r.dur) = some s ∧ r.signer = none ∧ r.supply = false ∧ r.refused = true) ∧
  (let r := tslRunOf [5]; let s := (inMode .service).setTslRun 15 r; s.tslRun 15 = some r ∧ r.waiting = false ∧
    s.reachTick (r.start + 128 * r.dur) = some s ∧ r.signer = none ∧ r.supply = false ∧ r.refused = false ∧ r.cmd.isSome = true) ∧
  (let r := { tslRunOf [] with desc := { tslDesc [] with chkEn := true } }; let s := (inMode .service).setTslRun 15 r;
    s.tslRun 15 = some r ∧ r.waiting = false ∧ s.reachTick (r.start + 128 * r.dur) = some s ∧ r.signer = none ∧ r.supply = false ∧
    r.refused = false ∧ r.cmd = none ∧ r.desc.chkEn = true ∧ r.code = 0 ∧ r.slot r.desc.chkSlot ≠ 0) ∧
  (let r := { tslRunOf [] with desc := { tslDesc [] with cls := 2 } }; let s := (inMode .service).setTslRun 15 r;
    s.tslRun 15 = some r ∧ r.waiting = false ∧ s.reachTick (r.start + 128 * r.dur) = some s ∧ r.signer = none ∧ r.supply = false ∧
    r.refused = false ∧ r.cmd = none ∧ r.shadow = false ∧ r.desc.cls = 2 ∧ r.desc.chkEn = false ∧ r.code = 0 ∧
    ({ r with code := 9 } : TslRun).code ≠ 0) :=
  by
  refine ⟨?_, ?_, ?_, ?_, ?_⟩ <;> decide +kernel

/-- O43, part 1. -/
theorem witness_TeaselCommandsComputeModulo :
  ((inMode .service).tslRun 15 = none) ∧
  (let c := command 1 2 0 0 0; let r := tslRunOf [c]; let s := (inMode .service).setTslRun 15 r; s.tslRun 15 = some r ∧
    r.cmd = some c ∧ r.refused = false ∧ r.waiting = false ∧ cmdOp c = 1 ∧ cmdOp c ≠ 2) ∧
  (let c := command 2 2 0 0 0; let r := tslRunOf [c]; let s := (inMode .service).setTslRun 15 r; s.tslRun 15 = some r ∧
    r.cmd = some c ∧ r.refused = false ∧ r.waiting = false ∧ cmdOp c = 2 ∧ cmdOp c ≠ 1) ∧
  (let c := command 3 2 0 0 0; let r := tslRunOf [c]; let s := (inMode .service).setTslRun 15 r; s.tslRun 15 = some r ∧
    r.cmd = some c ∧ r.refused = false ∧ r.waiting = false ∧ cmdOp c = 3 ∧ 2 ≤ r.m) ∧
  (let c := command 4 2 0 1 0; let r := tslRunOf [c]; let s := (inMode .service).setTslRun 15 r; s.tslRun 15 = some r ∧
    r.cmd = some c ∧ r.refused = false ∧ r.waiting = false ∧ cmdOp c = 4 ∧ r.slot (cmdA c) + r.slot (cmdB c) = 8) ∧
  (let c := command 5 2 0 1 0; let r := tslRunOf [c]; let s := (inMode .service).setTslRun 15 r; s.tslRun 15 = some r ∧
    r.cmd = some c ∧ r.refused = false ∧ r.waiting = false ∧ cmdOp c = 5 ∧ 0 < r.m) ∧
  (let c := command 6 2 0 1 0; let r := tslRunOf [c]; let s := (inMode .service).setTslRun 15 r; s.tslRun 15 = some r ∧
    r.cmd = some c ∧ r.refused = false ∧ r.waiting = false ∧ cmdOp c = 6 ∧ r.m = 7) ∧
  (let c := command 7 2 0 0 0; let r := tslRunOf [c]; let s := (inMode .service).setTslRun 15 r; s.tslRun 15 = some r ∧
    r.cmd = some c ∧ r.refused = false ∧ r.waiting = false ∧ cmdOp c = 7 ∧ r.slot (cmdA c) ≠ 0 ∧ invMod (r.slot (cmdA c)) r.m = some 5) ∧
  (let c := command 7 2 4 0 0; let r := tslRunOf [c]; let s := (inMode .service).setTslRun 15 r; s.tslRun 15 = some r ∧
    r.cmd = some c ∧ r.refused = false ∧ r.waiting = false ∧ cmdOp c = 7 ∧ r.code = 0 ∧ r.slot (cmdA c) = 0) ∧
  (let c := command 8 2 0 1 0; let r := tslRunOf [c]; let s := (inMode .service).setTslRun 15 r; s.tslRun 15 = some r ∧
    r.cmd = some c ∧ r.refused = false ∧ r.waiting = false ∧ cmdOp c = 8 ∧ r.slot (cmdB c) % 2 ^ (64 * cmdExp c) ≠ 0 ∧
    2 ≤ r.slot (cmdA c)) ∧
  (let c := command 8 2 0 4 0; let r := tslRunOf [c]; let s := (inMode .service).setTslRun 15 r; s.tslRun 15 = some r ∧
    r.cmd = some c ∧ r.refused = false ∧ r.waiting = false ∧ cmdOp c = 8 ∧ r.code = 0 ∧ r.slot (cmdB c) % 2 ^ (64 * cmdExp c) = 0) ∧
  (let c := command 9 2 0 1 4096; let r := tslRunOf [c]; let s := (inMode .service).setTslRun 15 r; s.tslRun 15 = some r ∧
    r.cmd = some c ∧ r.refused = false ∧ r.waiting = false ∧ cmdOp c = 9 ∧ cmdSwap c = true ∧
    (r.slot (cmdB c)).testBit (cmdImm c % 2 ^ 12 - r.iter) = true) :=
  by
  refine ⟨?_, ?_, ?_, ?_, ?_, ?_, ?_, ?_, ?_, ?_, ?_, ?_⟩ <;> decide +kernel

/-- O43, part 2. -/
theorem witness_TeaselCommandsComputeModulo_2 :
  (let c := command 9 2 0 1 0; let r := tslRunOf [c]; let s := (inMode .service).setTslRun 15 r; s.tslRun 15 = some r ∧
    r.cmd = some c ∧ r.refused = false ∧ r.waiting = false ∧ cmdOp c = 9 ∧ cmdSwap c = false) ∧
  (let c := command 10 0 1 0 0; let r := tslRunOf [c]; let s := (inMode .service).setTslRun 15 r; s.tslRun 15 = some r ∧
    r.cmd = some c ∧ r.refused = false ∧ r.waiting = false ∧ cmdOp c = 10 ∧ r.slot (cmdA c) = 5) ∧
  (let r := { tslRunOf [] with desc := { tslDesc [] with lcount := 2, lend := 0 } }; r.desc.lcount ≠ 0 ∧ r.pc = r.desc.lend ∧
    r.iter + 1 < r.desc.lcount ∧ r.desc.lcount ≤ { r with iter := 1 }.iter + 1 ∧ (tslDesc []).lcount = 0) :=
  by
  refine ⟨?_, ?_, ?_⟩ <;> decide +kernel

/-- O44. -/
theorem witness_TeaselEnginesAndProcessorsRetire :
  ((inMode .backup).awake = false ∧ (inMode .service).awake = true) ∧
  (((inMode .service).setBit TSL_STATUS_RETIRED 15 true).bit TSL_STATUS_RETIRED 15 = true ∧
    (inMode .service).bit TSL_STATUS_RETIRED 15 = false ∧ (inMode .service).underTest 47 = false ∧
    ((inMode .service).onBist fun b => { b with gated := some { u := 47 }, open_ := some { u := 47 } }).underTest 47 = true) ∧
  (let s := (((inMode .service).set (TSL_PART_EN 3) 1).set (TSL_PART_ENGMASK 3) (2 ^ 15)).set (TSL_PART_USERS 3) 1 |>.set (TSL_PART_EN 0) 0;
    s.tslSole 15 = true ∧ (s.set (TSL_PART_USERS 3) 0).tslSole 15 = false ∧ (s.setBit TSL_STATUS_BUSY 15 true).tslIdle 15 = false ∧
    s.tslIdle 15 = true ∧ (s.set (TSL_PART_EN 3) 0).tslPart 15 = none) ∧
  (((inMode .service).setTslEng 15 { leaving := true }).tslEng 15 = { leaving := true } ∧
    ((inMode .service).setBit TSL_RETCMD_RETCMD 15 true).bit TSL_RETCMD_RETCMD 15 = true ∧
    (inMode .service).bit TSL_RETCMD_RETCMD 15 = false ∧ ((inMode .service).tslEng 15).leaving = false) ∧
  ((inMode .service).pw.cpFailed = [] ∧ (inMode .service).pw.cp4Carries = none ∧ (inMode .service).underTest 53 = false ∧
    ((3 : Fin 5) : Nat) ≠ 4) ∧
  (((inMode .service).onPw fun p => { p with cpFailed := [4] }).pw.cpFailed = [4] ∧
    ((inMode .service).onPw fun p => { p with cpFailed := [4] }).pw.cpFailed.contains ((4 : Fin 5) : Nat) = true) ∧
  (((inMode .service).onPw fun p => { p with cpFailed := [3] }).pw.cpFailed = [3] ∧ (3 : Nat) ≠ 4 ∧
    ((inMode .service).onPw fun p => { p with cpFailed := [3] }).pw.cp4Carries = none) :=
  by
  refine ⟨?_, ?_, ?_, ?_, ?_, ?_, ?_⟩ <;> decide +kernel

/-- O45. -/
theorem witness_LeaseMessagesAreCheckedInOrder :
  ((paired 0).leaseOn = false ∧ (paired 3).leaseOn = true ∧ (((paired 3).set LEASE_CFG_INBAND 0).is LEASE_CFG_INBAND) = false ∧
    (paired 3).leaseFrame false [] = none) ∧
  (let b := withCrc (leaseBytes 18 3 9 4 (List.replicate 24 0)); let s := paired 3; s.leaseOn = true ∧
    ((s.leaseFrame false b).any fun m => m.type == 3 && m.pairId == s.get LEASE_PAIRID_HI_ID * 2 ^ 32 + s.get LEASE_PAIRID_LO_ID && leaseType 0x12 m.type && m.type != 2) = true) ∧
  (let b := withCrc (leaseBytes 18 2 9 3 (List.replicate 16 0)); let s := paired 3; s.leaseOn = true ∧
    ((s.leaseFrame false b).any fun m => m.type == 2 && m.pairId == s.get LEASE_PAIRID_HI_ID * 2 ^ 32 + s.get LEASE_PAIRID_LO_ID && s.lease.pBoot == some m.bootId && s.lease.pSeen.contains m.seq) = true) ∧
  (let b := withCrc (leaseBytes 17 2 9 4 (List.replicate 16 0)); let s := paired 3; s.leaseOn = true ∧
    ((s.leaseFrame false b).any fun m => m.type == 2 && m.pairId == s.get LEASE_PAIRID_HI_ID * 2 ^ 32 + s.get LEASE_PAIRID_LO_ID && m.ver != s.get LEASE_STATUS_VER) = true) ∧
  (let b := withCrc (leaseBytes 18 2 9 4 (List.replicate 16 0)); let s := paired 3; s.leaseOn = true ∧
    ((s.leaseFrame false b).any fun m => m.type == 2 && m.pairId == s.get LEASE_PAIRID_HI_ID * 2 ^ 32 + s.get LEASE_PAIRID_LO_ID && m.ver == s.get LEASE_STATUS_VER && m.ver != 0 && decide (((m.tsend : Int) - (0 : Nat)).natAbs ≤ s.get LEASE_TTCFG_SKEWMAX * ms1) && decide (s.get LEASE_TTCFG_SKEWMAX * ms1 < ((m.tsend : Int) - (10 * sec1 : Nat)).natAbs) && s.lease.pBoot == some m.bootId && decide (s.lease.pSeq ≤ m.seq)) = true) ∧
  (let b := withCrc (leaseBytes 18 2 9 2 (List.replicate 16 0)); let s := paired 3; s.leaseOn = true ∧
    ((s.leaseFrame false b).any fun m => m.type == 2 && m.pairId == s.get LEASE_PAIRID_HI_ID * 2 ^ 32 + s.get LEASE_PAIRID_LO_ID && decide (m.seq < s.lease.pSeq)) = true) ∧
  (let b := withCrc (leaseBytes 18 48 9 4 (List.replicate 0 0)); let s := paired 3; s.leaseOn = true ∧
    ((s.leaseFrame false b).any fun m => m.type == 48 && m.pairId == s.get LEASE_PAIRID_HI_ID * 2 ^ 32 + s.get LEASE_PAIRID_LO_ID && !leaseType (s.get LEASE_STATUS_VER) m.type && decide (s.lease.pSeq ≤ m.seq)) = true) ∧
  (let b := withCrc (leaseBytes 0x12 1 9 4 (List.replicate 12 0)); let s := paired 3; s.leaseOn = true ∧
    ((s.leaseFrame false b).any fun m => m.type == 1 && m.pairId == s.get LEASE_PAIRID_HI_ID * 2 ^ 32 + s.get LEASE_PAIRID_LO_ID && !s.lease.pSeen.contains m.seq && decide (s.lease.pSeq ≤ m.seq) && decide (((m.tsend : Int) - (0 : Nat)).natAbs ≤ s.get LEASE_TTCFG_SKEWMAX * ms1)) = true) :=
  by
  refine ⟨?_, ?_, ?_, ?_, ?_, ?_, ?_, ?_⟩ <;> decide +kernel

/-- O46, part 1. -/
theorem witness_PairMessagesMoveTheLeaseInstants :
  (let b := withCrc (leaseBytes 18 2 9 4 (List.replicate 16 0)); let s := paired 3; s.leaseOn = true ∧
    ((s.leaseFrame false b).any fun m => m.type == 2 && m.pairId == s.get LEASE_PAIRID_HI_ID * 2 ^ 32 + s.get LEASE_PAIRID_LO_ID && s.lease.pBoot == some m.bootId && !s.lease.pSeen.contains m.seq && decide (s.lease.pSeq ≤ m.seq) && m.ver == s.get LEASE_STATUS_VER && m.ver != 0 && decide (((m.tsend : Int) - (0 : Nat)).natAbs ≤ s.get LEASE_TTCFG_SKEWMAX * ms1) && leaseType 0x12 m.type && leaseType m.ver m.type) = true) ∧
  (let b := withCrc (leaseBytes 18 3 9 4 (List.replicate 24 0)); let s := paired 3; s.leaseOn = true ∧
    ((s.leaseFrame false b).any fun m => m.type == 3 && m.pairId == s.get LEASE_PAIRID_HI_ID * 2 ^ 32 + s.get LEASE_PAIRID_LO_ID && s.lease.pBoot == some m.bootId && !s.lease.pSeen.contains m.seq && decide (s.lease.pSeq ≤ m.seq) && m.ver == s.get LEASE_STATUS_VER && m.ver != 0 && decide (((m.tsend : Int) - (0 : Nat)).natAbs ≤ s.get LEASE_TTCFG_SKEWMAX * ms1) && leaseType 0x12 m.type && leaseType m.ver m.type) = true) ∧
  (let b := withCrc (leaseBytes 18 4 9 4 (List.replicate 28 0)); let s := paired 3; s.leaseOn = true ∧
    ((s.leaseFrame false b).any fun m => m.type == 4 && m.pairId == s.get LEASE_PAIRID_HI_ID * 2 ^ 32 + s.get LEASE_PAIRID_LO_ID && s.lease.pBoot == some m.bootId && !s.lease.pSeen.contains m.seq && decide (s.lease.pSeq ≤ m.seq) && m.ver == s.get LEASE_STATUS_VER && m.ver != 0 && decide (((m.tsend : Int) - (0 : Nat)).natAbs ≤ s.get LEASE_TTCFG_SKEWMAX * ms1) && leaseType 0x12 m.type && leaseType m.ver m.type) = true) ∧
  (let b := withCrc (leaseBytes 18 5 9 4 (List.replicate 0 0)); let s := paired 3; s.leaseOn = true ∧
    ((s.leaseFrame false b).any fun m => m.type == 5 && m.pairId == s.get LEASE_PAIRID_HI_ID * 2 ^ 32 + s.get LEASE_PAIRID_LO_ID && s.lease.pBoot == some m.bootId && !s.lease.pSeen.contains m.seq && decide (s.lease.pSeq ≤ m.seq) && m.ver == s.get LEASE_STATUS_VER && m.ver != 0 && decide (((m.tsend : Int) - (0 : Nat)).natAbs ≤ s.get LEASE_TTCFG_SKEWMAX * ms1) && leaseType 0x12 m.type && leaseType m.ver m.type) = true) ∧
  (let b := withCrc (leaseBytes 18 6 9 4 (List.replicate 12 0)); let s := paired 3; s.leaseOn = true ∧
    ((s.leaseFrame false b).any fun m => m.type == 6 && m.pairId == s.get LEASE_PAIRID_HI_ID * 2 ^ 32 + s.get LEASE_PAIRID_LO_ID && s.lease.pBoot == some m.bootId && !s.lease.pSeen.contains m.seq && decide (s.lease.pSeq ≤ m.seq) && m.ver == s.get LEASE_STATUS_VER && m.ver != 0 && decide (((m.tsend : Int) - (0 : Nat)).natAbs ≤ s.get LEASE_TTCFG_SKEWMAX * ms1) && leaseType 0x12 m.type && leaseType m.ver m.type) = true) ∧
  (let b := withCrc (leaseBytes 18 7 9 4 (List.replicate 12 0)); let s := paired 3; s.leaseOn = true ∧
    ((s.leaseFrame false b).any fun m => m.type == 7 && m.pairId == s.get LEASE_PAIRID_HI_ID * 2 ^ 32 + s.get LEASE_PAIRID_LO_ID && s.lease.pBoot == some m.bootId && !s.lease.pSeen.contains m.seq && decide (s.lease.pSeq ≤ m.seq) && m.ver == s.get LEASE_STATUS_VER && m.ver != 0 && decide (((m.tsend : Int) - (0 : Nat)).natAbs ≤ s.get LEASE_TTCFG_SKEWMAX * ms1) && leaseType 0x12 m.type && leaseType m.ver m.type) = true) ∧
  (let b := withCrc (leaseBytes 18 16 9 4 (List.replicate 24 0)); let s := paired 3; s.leaseOn = true ∧
    ((s.leaseFrame false b).any fun m => m.type == 16 && m.pairId == s.get LEASE_PAIRID_HI_ID * 2 ^ 32 + s.get LEASE_PAIRID_LO_ID && s.lease.pBoot == some m.bootId && !s.lease.pSeen.contains m.seq && decide (s.lease.pSeq ≤ m.seq) && m.ver == s.get LEASE_STATUS_VER && m.ver != 0 && decide (((m.tsend : Int) - (0 : Nat)).natAbs ≤ s.get LEASE_TTCFG_SKEWMAX * ms1) && leaseType 0x12 m.type && leaseType m.ver m.type) = true) ∧
  (let b := withCrc (leaseBytes 18 32 9 4 (List.replicate 44 0)); let s := paired 3; s.leaseOn = true ∧
    ((s.leaseFrame false b).any fun m => m.type == 32 && m.pairId == s.get LEASE_PAIRID_HI_ID * 2 ^ 32 + s.get LEASE_PAIRID_LO_ID && s.lease.pBoot == some m.bootId && !s.lease.pSeen.contains m.seq && decide (s.lease.pSeq ≤ m.seq) && m.ver == s.get LEASE_STATUS_VER && m.ver != 0 && decide (((m.tsend : Int) - (0 : Nat)).natAbs ≤ s.get LEASE_TTCFG_SKEWMAX * ms1) && leaseType 0x12 m.type && leaseType m.ver m.type) = true) ∧
  (let b := withCrc (leaseBytes 18 33 9 4 (List.replicate 36 0)); let s := paired 3; s.leaseOn = true ∧
    ((s.leaseFrame false b).any fun m => m.type == 33 && m.pairId == s.get LEASE_PAIRID_HI_ID * 2 ^ 32 + s.get LEASE_PAIRID_LO_ID && s.lease.pBoot == some m.bootId && !s.lease.pSeen.contains m.seq && decide (s.lease.pSeq ≤ m.seq) && m.ver == s.get LEASE_STATUS_VER && m.ver != 0 && decide (((m.tsend : Int) - (0 : Nat)).natAbs ≤ s.get LEASE_TTCFG_SKEWMAX * ms1) && leaseType 0x12 m.type && leaseType m.ver m.type) = true) ∧
  (let b := withCrc (leaseBytes 18 34 9 4 (List.replicate 4 0)); let s := paired 3; s.leaseOn = true ∧
    ((s.leaseFrame false b).any fun m => m.type == 34 && m.pairId == s.get LEASE_PAIRID_HI_ID * 2 ^ 32 + s.get LEASE_PAIRID_LO_ID && s.lease.pBoot == some m.bootId && !s.lease.pSeen.contains m.seq && decide (s.lease.pSeq ≤ m.seq) && m.ver == s.get LEASE_STATUS_VER && m.ver != 0 && decide (((m.tsend : Int) - (0 : Nat)).natAbs ≤ s.get LEASE_TTCFG_SKEWMAX * ms1) && leaseType 0x12 m.type && leaseType m.ver m.type) = true) ∧
  ((paired 3).leaseOn = true ∧ (paired 5).leaseSt = 5 ∧ (paired 3).leaseSt ≠ 5 ∧
    (((paired 3).set LEASE_CFG_HOME 0).set LEASE_STATUS_ROLECONF 0).isHome = false ∧
    (((paired 3).set LEASE_CFG_HOME 1).set LEASE_STATUS_ROLECONF 0).isHome = true ∧ (paired 4).leaseSt = 4 ∧
    (paired 3).lease.pHeld = false) ∧
  (let y : RenewSent := ⟨0, 0, 0, 0⟩; let s := (paired 5).onLease fun l => { l with sent := [y] };
    (s.lease.sent.find? fun z => z.seq == 0 && instFull z.x == instFull (msgInst (List.replicate 12 0))) = some y ∧
    ((paired 5).lease.sent.find? fun z => z.seq == 0) = none) :=
  by
  refine ⟨?_, ?_, ?_, ?_, ?_, ?_, ?_, ?_, ?_, ?_, ?_, ?_⟩ <;> decide +kernel

/-- O46, part 2. -/
theorem witness_PairMessagesMoveTheLeaseInstants_2 :
  (((paired 3).onLease fun l => { l with ttSent := some 5 }).lease.ttSent = some 5 ∧ msgInst (List.replicate 11 0 ++ [1]) ≠ 0 ∧
    (paired 3).genNewer 5 = true ∧ ((paired 3).set NTS_KEYSTAT_VALID 1).genNewer 0 = false ∧
    ((paired 3).set (FAB_PART_EN 4) 1).owns 4 1048575 = true ∧ (paired 3).owns 4 1048576 = false) :=
  by decide +kernel

/-- O47, part 1. -/
theorem witness_LeaseIsRenewedTakenReleasedAndAnnounced :
  ((inMode .backup).awake = false ∧ (inMode .service).awake = true ∧ (paired 0).leaseOn = false) ∧
  (let s := { paired 3 with tb := { running := true } }; s.leaseOn = true ∧ s.pathLast 2 = none) ∧
  (let s := { paired 3 with tb := { running := true } }; let s := s.onLease fun l => { l with hbAt := some 0 };
    let u := s.onTb fun b => { b with ticks := 1000000 }; s.leaseOn = true ∧ s.pathLast 2 = some 0 ∧ u.pathLast 2 = some 0 ∧
    u.reachTick (0 + u.pathLimit 2) = some u ∧
    (s.onLease fun l => { l with hbAt := some (2 ^ 40) }).reachTick (2 ^ 40 + s.pathLimit 2) = none ∧
    (s.set LEASE_STATUS_SILENT 7).bit LEASE_STATUS_SILENT 2 = true) ∧
  ((paired 3).leaseOn = true ∧ (749 : Nat) < 750 ∧ (1250 : Nat) < 1251 ∧ (1499 : Nat) < 1500 ∧ (2500 : Nat) < 2501 ∧
    (2999 : Nat) < 3000 ∧ (5000 : Nat) < 5001 ∧ (5999 : Nat) < 6000 ∧ (10000 : Nat) < 10001) ∧
  ((inMode .off).pulseWidth = none ∧ (inMode .safe).pulseWidth = some 1 ∧ (paired 1).pulseWidth = some 2 ∧
    (paired 4).pulseWidth = some 4 ∧ (paired 5).pulseWidth = some 8 ∧ (paired 5).tb.running = false) ∧
  (let s := { paired 5 with tb := { running := true } }; s.pulseWidth = some 8 ∧ s.tb.running = true ∧
    s.reachTick s.lease.hbNext = some s ∧ (s.onLease fun l => { l with hbNext := 2 ^ 40 }).reachTick (2 ^ 40) = none) ∧
  (let s := { paired 3 with tb := { running := true } }; let s := s.set LEASE_STATUS_VER 0; s.leaseOn = true ∧
    s.get LEASE_STATUS_VER = 0 ∧ s.reachTick s.lease.helloAt = some s ∧ s.reachTick s.lease.statusAt = some s) ∧
  (let s := { paired 3 with tb := { running := true } }; s.leaseOn = true ∧ s.get LEASE_STATUS_VER ≠ 0 ∧
    (s.onLease fun l => { l with statusAt := 2 ^ 40 }).reachTick (2 ^ 40) = none ∧ s.leaseSt ≠ 4) ∧
  (let s := { paired 4 with tb := { running := true } }; s.leaseSt = 4 ∧ s.reachTick s.lease.claimAt = some s) ∧
  (let s := { paired 3 with tb := { running := true } }; let s := s.onLease fun l => { l with lastRel := some 7, relLeft := 2 };
    s.lease.lastRel = some 7 ∧ s.lease.relLeft ≠ 0 ∧ s.leaseSt ≠ 5 ∧ s.leaseOn = true ∧ s.reachTick s.lease.relAt = some s ∧
    (paired 3).lease.lastRel = none) ∧
  (let s := { paired 5 with tb := { running := true } };
    let s := (s.set LEASE_LEN_LEFF 1000).set LEASE_GUARD_GEFF 0 |>.onLease fun l => { l with xEff := 1000 * ms1 };
    let r := s.lease.tTake + s.lease.k * s.leaseQ; s.leaseSt = 5 ∧ s.leaseQ ≠ 0 ∧ s.expiryAt = some (1000 * ms1) ∧ r ≤ 1000 * ms1 ∧
    s.reach r = some s ∧ s.lease.chosen = none ∧
    (s.onLease fun l => { l with chosen := some 0 }).reach r = some (s.onLease fun l => { l with chosen := some 0 }) ∧ 0 ≤ r) ∧
  (let s := { paired 5 with tb := { running := true } }; let s := (s.set LEASE_LEN_LEFF 1000).set LEASE_GUARD_GEFF 0;
    let u := s.onLease fun l => { l with k := 1 }; s.leaseSt = 5 ∧ s.expiryAt = some 0 ∧ s.reach 0 = some s ∧ u.leaseQ ≠ 0 ∧
    u.expiryAt = some 0 ∧ 0 < u.lease.tTake + u.lease.k * u.leaseQ) :=
  by
  refine ⟨?_, ?_, ?_, ?_, ?_, ?_, ?_, ?_, ?_, ?_, ?_, ?_⟩ <;> decide +kernel

/-- O47, part 2. -/
theorem witness_LeaseIsRenewedTakenReleasedAndAnnounced_2 :
  (let s := { paired 5 with tb := { running := true } };
    let s := (s.set LEASE_LEN_LEFF 1000).set LEASE_GUARD_GEFF 0 |>.onLease fun l => { l with xEff := 3000 * ms1, tTake := 2000 * ms1 };
    s.leaseSt = 5 ∧ s.leaseQ ≠ 0 ∧ s.expiryAt = some (3000 * ms1) ∧ s.lease.tTake + s.lease.k * s.leaseQ ≤ 3000 * ms1 ∧
    s.reach (s.lease.tTake + s.lease.k * s.leaseQ) = none ∧ s.reach (3000 * ms1) = none) ∧
  (let s := { paired 2 with tb := { running := true } }; s.leaseSt = 2 ∧ s.reach s.lease.listenEnd = some s ∧ (paired 3).leaseSt ≠ 2) ∧
  (let s := { paired 3 with tb := { running := true } }; let s := s.set LEASE_CFG_HOMEWTR 0; s.reclaimEval.lease.wtrFrom = none) ∧
  (let s := { paired 3 with tb := { running := true } };
    let s := ((((s.set LEASE_CFG_RECLAIM 1).set LEASE_CFG_HOME 1).set LEASE_STATUS_PSTATE 4).set (SEL_SRC_STATE 0) 4).set LEASE_CFG_HOMEWTR 0;
    let u := s.reclaimEval; u.leaseSt = 3 ∧ u.lease.wtrFrom = some 0 ∧
    u.reachTick (1000000000 * u.get LEASE_CFG_HOMEWTR + 0) = some u ∧
    (u.set LEASE_CFG_HOMEWTR 9).reachTick (1000000000 * (u.set LEASE_CFG_HOMEWTR 9).get LEASE_CFG_HOMEWTR + 0) = none) ∧
  (let s := { paired 3 with tb := { running := true } };
    let s := ((s.set LEASE_GUARD_GEFF 0).set CFG_SERVE_WARMUP_SERVE 1).onLease fun l => { l with relLocal := some 0 };
    s.leaseSt = 3 ∧ s.mayTake = true ∧ s.takeRow = some (1, 0) ∧ s.reach 0 = some s ∧ (paired 2).leaseSt ≠ 3 ∧ (paired 2).leaseSt ≠ 4) ∧
  (let s := (paired 3).set LEASE_STATUS_ISOLATED 1; s.lease.relLocal = none ∧ s.isHome = false ∧ s.is LEASE_STATUS_ISOLATED = true) ∧
  (let s := { paired 5 with tb := { running := true } }; let s := (s.set LEASE_STATUS_DUALHOLD 1).set LEASE_LEN_LEFF 0;
    s.is LEASE_STATUS_DUALHOLD = true ∧ s.reachTick (1000000 * s.get LEASE_LEN_LEFF + s.lease.dualAt) = some s ∧
    (paired 5).is LEASE_STATUS_DUALHOLD = false ∧
    (s.onLease fun l => { l with dualAt := 2 ^ 40 }).reachTick (1000000 * s.get LEASE_LEN_LEFF + 2 ^ 40) = none) ∧
  (let s := { paired 5 with tb := { running := true } }; let s := (s.set LEASE_STATUS_PSTATE 3).set LEASE_STATUS_ISOLATED 0;
    s.awake = true ∧ s.leaseSt = 5 ∧ s.get LEASE_STATUS_PSTATE = 3 ∧ s.is LEASE_STATUS_ISOLATED = false) ∧
  ((paired 3).awake = true ∧ (paired 3).leaseSt ≠ 5 ∧ ((paired 5).set LEASE_TTCFG_RATE 0).get LEASE_TTCFG_RATE = 0 ∧
    (paired 5).lease.lane0 = false ∧ (paired 5).lease.lane1 = false) ∧
  (let s := { paired 5 with tb := { running := true } };
    let s := ((s.set LEASE_TTCFG_RATE 1).set LEASE_CFG_HOME 1).onLease (fun l => { l with lane0 := true }) |>.onTb fun b => { b with c0 := ⟨1, 0, 0⟩, c1 := ⟨1, 0, 0⟩, c2 := ⟨1, 0, 0⟩ };
    let n0 := s.now * s.get LEASE_TTCFG_RATE / sec1; s.leaseOn = true ∧ s.get LEASE_TTCFG_RATE ≠ 0 ∧ s.lease.lane0 = true ∧
    ([n0 - 1, n0, n0 + 1, n0 + 2].find? fun n => decide (s.now ≤ s.markerDue n) && s.lease.ttDue.all fun d => decide (d < s.markerDue n)) = some 1 ∧
    s.reach (s.markerDue 1) = some s) ∧
  (let s := { paired 5 with tb := { running := true } }; let s := s.onLease fun l => { l with repl := [.grant 1048575] };
    s.leaseSt = 5 ∧ s.get LEASE_STATUS_VER ≠ 0 ∧ s.lease.repl = .grant 1048575 :: [] ∧ (paired 5).lease.repl = []) ∧
  (let s := ((paired 5).onLease fun l => { l with repl := [.nts 5, .done 3] }); s.leaseSt = 5 ∧ s.get LEASE_STATUS_VER ≠ 0 ∧
    s.lease.repl = .nts 5 :: [.done 3] ∧ (s.onLease fun l => { l with repl := [.done 3] }).genKey 5 = none) :=
  by
  refine ⟨?_, ?_, ?_, ?_, ?_, ?_, ?_, ?_, ?_, ?_, ?_, ?_⟩ <;> decide +kernel

/-- O47, part 3. -/
theorem witness_LeaseIsRenewedTakenReleasedAndAnnounced_3 :
  (let s := (((paired 5).set NTS_KEYSTAT_VALID 2).onNtp fun n => { n with keys := [(1, (5, 77))] }).onBoot fun b => { b with keys := SMap.set none b.keys 2 (some { type := 1, cls := 0, value := 5 }) };
    s.genKey 5 = some 77 ∧ s.keyValue 2 = some 5) :=
  by decide +kernel

/-- O48, part 1. -/
theorem witness_RegistersAreReadWrittenAndLocked :
  ((inMode .off).mode = .off ∧ ((inMode .service).set PM_STATUS_DOMAINS 0).lives 0x80000 = false ∧ Size.half ≠ .word) ∧
  ((inMode .service).mode ≠ .off ∧ (inMode .service).lives 0x20020 = true ∧ 0x20020 < 0x100000 ∧ (0x20020 : Nat) = 0x20020 + 4 * 0) ∧
  (let s := ((inMode .service).set PM_STATUS_DOMAINS 0x1FFF).set (MAC_QMODE_EN 3) 1; s.mode ≠ .off ∧
    s.lives (0x100000 + 0x8000 * 31 + 0x4000 + 8 * 47) = true) ∧
  (let s := (inMode .service).set PM_STATUS_DOMAINS 0x1FFF; s.mode ≠ .off ∧ s.lives (PERF_LIVE_LO 3 95).addr = true) ∧
  ((inMode .backup).awake = false ∧ (inMode .service).awake = true ∧ 0x1A5C3 % 2 ^ 32 ≠ 0xA5C3 ∧
    (2 ^ 32 + 0xA5C3) % 2 ^ 32 = 0xA5C3 ∧ 0xA5C1 % 2 ^ 32 = 0xA5C1) ∧
  ((inMode .backup).awake = false ∧ ((inMode .service).set SYS_OMPCFG_WRITE 0).is SYS_OMPCFG_WRITE = false) ∧
  (let s := (inMode .service).set SYS_WLOCK_SPI 1; s.awake = true ∧ s.locked .spi = true ∧ (0x204 : Nat) ≠ 0x200) ∧
  (let s := inMode .boot; s.awake = true ∧ (s.set SYS_WLOCK_SPI 0).locked .spi = false ∧ s.mode = .boot ∧ 0x1000 ≤ 0x1000) ∧
  (let s := (inMode .service).set SYS_WLOCK_SPI 0; s.awake = true ∧ s.locked .spi = false ∧ s.mode ≠ .boot ∧
    (s.set PM_STATUS_DOMAINS 0).lives 0x80000 = false) ∧
  (let s := (inMode .service).set SYS_WLOCK_SPI 0; s.awake = true ∧ s.locked .spi = false ∧ s.mode ≠ .boot ∧
    s.lives 0x10000000 = true ∧ s.lives 0x1341FFFC = true ∧ isWindow 0x1341FFFC = true) ∧
  (let s := (inMode .service).set SYS_WLOCK_SPI 0; s.awake = true ∧ s.locked .spi = false ∧ s.mode ≠ .boot ∧
    s.lives 0x30001 = true ∧ (0x30001 : Nat) % 4 ≠ 0 ∧ isWindow 0x30001 = false) ∧
  (let s := (inMode .service).set SYS_WLOCK_SPI 0; s.awake = true ∧ s.locked .spi = false ∧ s.mode ≠ .boot ∧ s.lives 0x200 = true ∧
    s.lives 0 = true ∧ (s.command .spi none 0x200 0xA5C3).isSome = true ∧ (s.command .spi none 0 0).isNone = true ∧
    writable false 0 = []) :=
  by
  refine ⟨?_, ?_, ?_, ?_, ?_, ?_, ?_, ?_, ?_, ?_, ?_, ?_⟩ <;> decide +kernel

/-- O48, part 2. -/
theorem witness_RegistersAreReadWrittenAndLocked_2 :
  (let s := (inMode .service).set SYS_WLOCK_SPI 0; s.awake = true ∧ s.locked .spi = false ∧ s.mode ≠ .boot ∧ Size.byte ≠ .word ∧
    0x70FFFF < 0x710000 ∧ 0xFFF < 0x1000) :=
  by decide +kernel

/-- O49. -/
theorem witness_SnapshotsAlarmsAndTheEventLogFollowTheirCommands :
  ((inMode .backup).awake = false) ∧
  (let s := (inMode .service).set SYS_SNAP_STATE 0; s.awake = true ∧ s.get SYS_SNAP_STATE = 0 ∧
    (s.set SYS_OMPCFG_WRITE 1).is SYS_OMPCFG_WRITE = true) ∧
  (let s := ((inMode .service).set SYS_SNAP_STATE 2).set SYS_SNAP_HOLDER 1; s.awake = true ∧ s.get SYS_SNAP_STATE = 2 ∧
    s.get SYS_SNAP_HOLDER = 1 ∧ s.get SYS_SNAP_HOLDER ≠ 2) ∧
  (let s := (inMode .service).set SYS_SNAP_STATE 1; s.get SYS_SNAP_STATE = 1 ∧ s.get SYS_SNAP_STATE ≠ 0 ∧ s.get SYS_SNAP_STATE ≠ 2) ∧
  (let s := ((inMode .service).set SYS_SNAP_STATE 2).set SYS_SNAP_HOLDMAX 0; s.get SYS_SNAP_STATE = 2 ∧
    s.mg.snapReady + s.get SYS_SNAP_HOLDMAX * 1000000000 ≤ s.tb.ticks) ∧
  (let s := ((inMode .service).set SYS_SNAP_STATE 2).set SYS_SNAP_HOLDMAX 9; s.get SYS_SNAP_STATE = 2 ∧
    s.tb.ticks < s.mg.snapReady + s.get SYS_SNAP_HOLDMAX * 1000000000 ∧
    s.reachTick (1000000000 * s.get SYS_SNAP_HOLDMAX + s.mg.snapReady) = none) ∧
  (let s := ((running .service).set SYS_SNAP_STATE 2).set SYS_SNAP_HOLDMAX 0 |>.onMg fun m => { m with snapReady := 1 };
    s.get SYS_SNAP_STATE = 2 ∧ s.tb.ticks < s.mg.snapReady + s.get SYS_SNAP_HOLDMAX * 1000000000 ∧
    (s.reachTick (1000000000 * s.get SYS_SNAP_HOLDMAX + s.mg.snapReady)).isSome = true) ∧
  (let a : Alarm := ⟨2, 0xFFFF, true, 0, 0⟩; let s := (inMode .service).onMg fun m => { m with alarms := [a] }; a ∈ s.mg.alarms ∧
    a.code = 0x1FFFF % 2 ^ 16 ∧ a.ackable = true ∧ (inMode .service).mg.alarms = []) ∧
  (let e : EventRec := ⟨0x304, 1, 5, 0⟩; let s := (inMode .service).onMg fun m => { m with evPending := [(3, [e])], evRot := 3 };
    s.nextLogSource = some (3, e :: []) ∧ (inMode .service).nextLogSource = none) :=
  by
  refine ⟨?_, ?_, ?_, ?_, ?_, ?_, ?_, ?_, ?_⟩ <;> decide +kernel

/-- O50. -/
theorem witness_SpiTransactionsAreCheckedAnsweredAndReplayed :
  ((inMode .off).mode = .off ∧ (inMode .service).mode ≠ .off) ∧
  (let m : List Byte := [2, 0, 0, 2, 0, 0, 0xC3, 0xA5, 0, 0]; let b := m ++ beBytes 1 (crc8 m); writeOp b = true ∧
    b.length = 7 + 4 * spiWords b ∧ spiCrcOk b = true ∧ spiCrcOk (m ++ beBytes 1 (crc8 m + 1)) = false ∧ readOp b = false) ∧
  (let m : List Byte := [0x0B, 0, 0, 0, 0, 0]; let b := m ++ beBytes 1 (crc8 m); readOp b = true ∧ b.length = 7 ∧
    spiCrcOk b = true ∧ spiCrcOk (m ++ beBytes 1 (crc8 m + 1)) = false ∧ writeOp b = false) ∧
  ((inMode .service).mg.spiStored = [] ∧ ((inMode .service).onMg fun m => { m with spiStored := [0] }).mg.spiStored ≠ []) ∧
  (readOp [0x6B] = true ∧ ([0x6B] : List Byte).length < 7 ∧ writeOp [0x32] = true ∧ ([0x32] : List Byte).length < 6 ∧
    readOp [] = false ∧ writeOp [] = false) :=
  by
  refine ⟨?_, ?_, ?_, ?_, ?_⟩ <;> decide +kernel

/-- O51, part 1. -/
theorem witness_OmpMessagesAreAcceptedAnsweredOrRefused :
  ((inMode .service).ompReaches (ompIn 1 0 1 []) = false ∧ (inMode .service).ompKey = none) ∧
  (let m := ompIn 1 0 1 (List.replicate 16 0 ++ [0x10, 0x21, 0, 0]); ompDevice.ompReaches m = true ∧ m.type = 1 ∧
    ompDevice.ompKey = some (beBytes 32 5) ∧ m.lenOk = true ∧ m.len = 20 ∧
    ompVersion (beNat (slice m.body 16 1)) (beNat (slice m.body 17 1)) = some 0x21 ∧ (m.transport ≠ 1) ∧
    ompDevice.connBusy m = false ∧ ompDevice.is (SYS_OMPSESS_OPEN 0) = false) ∧
  ((ompIn 1 0 1 []).len ≠ 20 ∧ (0x0F : Nat) < 0x10 ∧ ompVersion 0x10 0x1F = some 0x11) ∧
  (let m := ompIn 3 9 74 (beBytes 4 0 ++ beBytes 4 1); ompSession7.ompReaches m = true ∧ ompSession7.ompKey = some (beBytes 32 5) ∧
    ompSession7.ompSlot m.id = some 7 ∧
    ((ompSession7.ompSession 7).any fun o => !o.seen.contains m.seq && o.seen.length == 64 && o.seen.any fun q => decide (q ≤ m.seq)) = true ∧
    typeVersion m.type = some 0x10 ∧ 0x10 ≤ ompSession7.get (SYS_OMPSESS_VER 7) ∧ ompShape m = true ∧
    (typeVersion m.type).isSome = true ∧ m.type ≠ 5) ∧
  (let m := ompIn 3 9 73 []; ompSession7.ompSlot m.id = some 7 ∧
    ((ompSession7.ompSession 7).any fun o => o.seen.contains m.seq && o.answers.isEmpty) = true ∧ ompShape m = false ∧
    ompSession7.ompSlot 8 = none) ∧
  (let m := ompIn 3 9 9 [];
    ((ompSession7.ompSession 7).any fun o => !o.seen.contains m.seq && o.seen.length == 64 && o.seen.all fun q => decide (m.seq < q)) = true) ∧
  (let s := ompSession7.set SYS_WLOCK_OMP 1; let m := ompIn 5 9 74 (beBytes 4 0 ++ beBytes 4 1 ++ beBytes 4 7);
    s.ompReaches m = true ∧ s.ompKey = some (beBytes 32 5) ∧ s.ompSlot m.id = some 7 ∧
    ((s.ompSession 7).any fun o => !o.seen.contains m.seq && o.seen.length == 64 && o.seen.any fun q => decide (q ≤ m.seq)) = true ∧
    typeVersion m.type = some 0x10 ∧ 0x10 ≤ s.get (SYS_OMPSESS_VER 7) ∧ ompShape m = true ∧ m.type = 5 ∧ s.is SYS_WLOCK_OMP = true) ∧
  ((ompIn 0x70 9 74 []).type ≠ 1 ∧ typeVersion (ompIn 0x70 9 74 []).type = none ∧
    ((inMode .service).set (SYS_OMPSESS_TRANSPORT 7) 1).get (SYS_OMPSESS_TRANSPORT 7) = 1) ∧
  (let d : TxDesc := { op := 1 }; ompDevice.frameRefused 0 d [] = true ∧
    (((ompDevice.set (MAC_QMODE_EN 0) 1).set (MAC_CFG_EN 0) 1).frameRefused 0 {} (List.replicate 60 0)) = false) ∧
  (let s := ompSession7.onTb fun b => { b with running := true }; let t := s.set SYS_OMPCFG_IDLE 0;
    t.reachTick (1000000000 * t.get SYS_OMPCFG_IDLE + 0) = some t ∧
    (s.set SYS_OMPCFG_IDLE 9).reachTick (1000000000 * (s.set SYS_OMPCFG_IDLE 9).get SYS_OMPCFG_IDLE + 0) = none) ∧
  ((ompSession7.set (SYS_OMPSESS_VER 7) 0).get (SYS_OMPSESS_VER 7) < 0x10 ∧ (ompSession7.set SYS_OMPCFG_WRITE 0).ompWrites = false ∧
    ((ompSession7.set SYS_OMPCFG_WRITE 1).set SYS_WLOCK_OMP 0).ompWrites = true ∧
    ompShape (ompIn 5 9 74 (beBytes 4 0 ++ beBytes 4 1 ++ beBytes 4 7)) = true) ∧
  (ompSession7.is (SYS_OMPSESS_OPEN 7) = true ∧ ((ompSession7.set SYS_OMPCFG_IDLE 0).ompSession 7).isSome = true ∧
    1000000000 * (ompSession7.set SYS_OMPCFG_IDLE 0).get SYS_OMPCFG_IDLE + 0 ≤ ompSession7.tb.ticks ∧ ompSession7.ompSession 0 = none) :=
  by
  refine ⟨?_, ?_, ?_, ?_, ?_, ?_, ?_, ?_, ?_, ?_, ?_, ?_⟩ <;> decide +kernel

/-- O51, part 2. -/
theorem witness_OmpMessagesAreAcceptedAnsweredOrRefused_2 :
  (((ompSession7.set (SYS_OMPSESS_TRANSPORT 7) 1).get (SYS_OMPSESS_TRANSPORT 7)) = 1 ∧
    ((ompSession7.ompSession 7).any fun o => o.conn == 0) = true ∧ ompSession7.wordAt 0 ≠ ompSession7.wordAt 4) :=
  by decide +kernel

/-- O52. -/
theorem witness_SelfTestsStartStopAndEndByTheirRows :
  ((inMode .backup).awake = false) ∧
  (let s := (inMode .service).set SYS_LIFECYCLE_STATE 0; let w := (s.set BIST_CTL_UNIT 48).set BIST_CTL_ACTION 1; s.awake = true ∧
    w.bistRefuse .spi 48 none = none) ∧
  (let s := (inMode .service).set SYS_LIFECYCLE_STATE 1; let w := (s.set BIST_CTL_UNIT 0).set BIST_CTL_ACTION 1;
    w.bistRefuse .spi 0 none = some 2 ∧ s.gatedAllowed = false) ∧
  (let s := (inMode .service).set SYS_LIFECYCLE_STATE 0; s.gatedAllowed = true ∧ s.bistRun true = none ∧ s.bistSole 48 = false ∧
    ((s.onBist fun b => { b with gated := some { u := 48 } }).bistRun true).isSome = true ∧ s.railLow = false ∧
    ((24 : Fin 32).val / 8 = 61 - 58)) ∧
  (let s := (((inMode .service).set (FAB_CL_PART 31) 3).set (FAB_PART_EN 3) 1).set (FAB_PART_CLMASK 3) (2 ^ 31);
    s.bistSole 31 = true ∧ (s.onPw fun p => { p with dips := [⟨0, 0, 0⟩] }).railLow = true) ∧
  (let s := (inMode .maintenance).set SYS_LIFECYCLE_STATE 2; s.get SYS_LIFECYCLE_STATE = 2 ∧
    (s.set CFG_SERVE_MAINTAUTH 1).gatedAllowed = true ∧ (s.set CFG_SERVE_MAINTAUTH 0).gatedAllowed = false ∧
    (s.set SYS_LIFECYCLE_STATE 3).get SYS_LIFECYCLE_STATE = 3) ∧
  (let s := (inMode .service).onBist fun b => { b with gated := some { u := 48 } }; unitType 48 ≠ none ∧ s.underTest 48 = true ∧
    unitType 63 = none ∧ (inMode .service).underTest 48 = false ∧ s.bistRun true = some { u := 48 } ∧
    s.bistTime { u := 48 } = some s ∧ unitGated 48 = true ∧ s.bistReady 48 = true ∧ s.bistRun false = none) ∧
  (let s := (inMode .service).set (FAB_CL_STATE 31) 1; s.bistReady 31 = false) ∧
  (let r : BistRun := { u := 97, startAt := 0 }; let s := (running .service).onTb fun b => { b with ticks := 10000000000 };
    let s := s.onBist fun b => { b with open_ := some r }; unitType r.u = some 8 ∧ s.bistRun false = some r ∧ s.bistTime r = some s ∧
    unitGated r.u = false ∧ s.bistReady r.u = true ∧ r.u < 128 ∧ (running .service).bistTime { u := 97, startAt := 1 } = none) ∧
  (let s := (inMode .service).onBist fun b => { b with golden := [(2, (5, 77))] }; s.bistPass 48 77 0 = true ∧
    s.bistPass 48 78 0 = false) :=
  by
  refine ⟨?_, ?_, ?_, ?_, ?_, ?_, ?_, ?_, ?_, ?_⟩ <;> decide +kernel

/-- O53. -/
theorem witness_CountersAreSelectedDumpedAndSampled :
  ((inMode .service).tb.running = false ∧ (running .service).tb.running = true ∧ (0x685000 : Nat) ≠ 0x680000 ∧ 0x685000 ≤ 0x685000) ∧
  ((3 : Nat) < 4 ∧ (63 : Nat) < 64) ∧
  (let s := (running .service).onPerf fun p => { p with period := 1000 }; s.tb.running = true ∧ s.perf.period ≠ 0 ∧
    s.dumpIndex s.nowNs ≤ s.dumpIndex s.perf.at_ ∧
    (instSec s.now + 1) * 1000000000 ≤ (s.dumpIndex s.nowNs + 1) * s.perf.period * 1000000) ∧
  (let s := ((running .service).onPerf fun p => { p with period := 1000 }).onTb fun b => { b with c0 := ⟨1, 0, 0⟩, c1 := ⟨1, 0, 0⟩, c2 := ⟨1, 0, 0⟩ };
    s.tb.running = true ∧ s.perf.period ≠ 0 ∧ s.dumpIndex s.perf.at_ < s.dumpIndex s.nowNs ∧
    (s.set PERF_DUMPCFG_EN 1).is PERF_DUMPCFG_EN = true ∧ (s.set PERF_DUMPCFG_EN 0).is PERF_DUMPCFG_EN = false) ∧
  (let s := (running .service).onPerf fun p => { p with period := 500 }; s.tb.running = true ∧ s.perf.period ≠ 0 ∧
    s.dumpIndex s.nowNs ≤ s.dumpIndex s.perf.at_ ∧
    (s.dumpIndex s.nowNs + 1) * s.perf.period * 1000000 < (instSec s.now + 1) * 1000000000) ∧
  (let s := ((running .service).onPerf fun p => { p with period := 1 }).onTb fun b => { b with c0 := ⟨0, 1000000, 0⟩, c1 := ⟨0, 1000000, 0⟩, c2 := ⟨0, 1000000, 0⟩ };
    s.perf.period ≠ 0 ∧ s.dumpIndex s.perf.at_ < s.dumpIndex s.nowNs ∧ 1000 ≤ instNsec s.now) ∧
  ((selOf (2 ^ 30)).portEv = 1 ∧ (selOf 0).portEv = 0) ∧
  (let b : DumpBank := { num := 1, time := 0, step := false, selChg := false, period := 1000, words := [] };
    let s := (inMode .service).onPerf fun p => { p with banks := [b] }; s.perf.banks = b :: [] ∧ (inMode .service).perf.banks = [] ∧
    (s.set PERF_TXCFG_EN 0).is PERF_TXCFG_EN = false ∧ (s.set PERF_TXCFG_EN 1).is PERF_TXCFG_EN = true) ∧
  (let m : Mark := ⟨engId eng, 3, 0, 0, 2, 0, 0⟩; let s := (inMode .service).onPerf fun p => { p with marks := [m] };
    (s.perf.marks.find? fun x => x.engine == engId eng) = some m ∧ (SMap.get [] s.perf.buffers eng.c).length < 16 ∧
    (inMode .service).perf.marks = []) ∧
  (let r : Sample := ⟨16, 0, 0, 0, 2, 0, 0, 0, 0⟩; let s := (inMode .service).onPerf fun p => { p with buffers := [(31, [r])] };
    SMap.get [] s.perf.buffers (8 * 3 + 7) = r :: [] ∧
    ((List.range 8).all fun i => i == 7 || SMap.get [] s.perf.buffers (8 * 3 + i) == []) = true ∧ 16 ≤ (List.replicate 16 r).length ∧
    ((List.range 8).all fun j => SMap.get [] (inMode .service).perf.buffers (8 * 3 + j) == []) = true) :=
  by
  refine ⟨?_, ?_, ?_, ?_, ?_, ?_, ?_, ?_, ?_, ?_⟩ <;> decide +kernel

/-- O54. -/
theorem witness_StepRunsTheFrontCommandOrOneTick :
  (State.reset.pending = [] ∧ State.reset.tb.running = false ∧
    (State.reset.onBk fun b => { b with powered := false }).bk.powered = false ∧
    (State.reset.onBk fun b => { b with powered := true }).bk.powered = true) :=
  by decide +kernel

/-- O56. -/
theorem witness_CanonicalFormIsKeptByEveryStep :
  (State.reset.wf = true) :=
  by decide +kernel

/-- O57. -/
theorem witness_ImportStaysDisabledAndTheDeviceKeyIsFixed :
  ((State.reset.onBoot fun b => { b with importOff := true }).boot.importOff = true ∧
    ([] : List Instr).foldlM (m := Option) (fun u c => match exec c u with | .next v => some v | _ => none) State.reset = some State.reset) :=
  by decide +kernel

/-- O58. -/
theorem witness_ResumeModeAfterMaintenance :
  (let s := inMode .maintenance; s.mode = .maintenance ∧ (s.set TB_STATUS_WARM 1).get TB_STATUS_WARM = 1 ∧
    (s.set TB_STATUS_WARM 0).get TB_STATUS_WARM ≠ 1 ∧ (s.set SYS_MODE_PAIR 1).get SYS_MODE_PAIR = 1 ∧
    (s.set LEASE_STATUS_STATE 4).get LEASE_STATUS_STATE ≠ 5 ∧ (s.set LEASE_STATUS_STATE 5).get LEASE_STATUS_STATE = 5 ∧
    s.get SYS_MODE_PAIR ≠ 1) ∧
  (let s := inMode .maintenance; s.active = none ∧ (s.set SEL_STATUS_ACTIVE 19).active.isSome = true ∧
    (s.set SYS_MODE_MODELVALID 1).get SYS_MODE_MODELVALID = 1 ∧ (s.set SYS_MODE_MODELVALID 0).get SYS_MODE_MODELVALID ≠ 1) :=
  by
  refine ⟨?_, ?_⟩ <;> decide +kernel

/-- O59. -/
theorem witness_StepsBelowZeroAndLeaseInstants :
  (let s := inMode .service; s.tb.c1 = s.tb.c0 ∧ s.tb.c2 = s.tb.c0 ∧ s.is TB_STATUS_COPYFAIL = false ∧
    (s.tb.c0.total : Int) + (-1) * 2 ^ 24 < 0 ∧ s.mode ≠ .off ∧ s.mode ≠ .backup ∧ (SMap.get [] s.mg.evPending 3).length < 16) ∧
  (let s := (inMode .service).onLease fun l => { l with xEff := 5, xLocal := some 5, hLast := some 5, relLocal := some 5, listenEnd := 5 };
    0 ≤ (s.lease.xEff : Int) + (-5) ∧ 0 ≤ (s.lease.listenEnd : Int) + (-5) ∧ s.lease.xLocal = some 5 ∧ s.lease.hLast = some 5 ∧
    s.lease.relLocal = some 5) ∧
  (let s := (running .service).onTb fun b => { b with c0 := ⟨0, 999999999, 0⟩, c1 := ⟨0, 999999999, 0⟩, c2 := ⟨0, 999999999, 0⟩, frozen := some 7, syncOut := true };
    (s.runUntil (2 ^ 40 * (1000000000 * (s.master.sec + 1)))).tb.frozen = some 7) ∧
  (let s := (running .service).onTb fun b => { b with c0 := ⟨0, 999999999, 0⟩, c1 := ⟨0, 999999999, 0⟩, c2 := ⟨0, 999999999, 0⟩ };
    (s.runUntil (2 ^ 40 * (1000000000 * (s.master.sec + 1)))).tb.frozen = none) :=
  by
  refine ⟨?_, ?_, ?_, ?_⟩ <;> decide +kernel

/-- O60. -/
theorem witness_TimestampsAndRootDispersionFollowTheirFormulas :
  (((List.range 3).map fun j => (SYS_MODETIME_TS j).key).Nodup ∧ ((List.range 3).all fun j => (SYS_MODETIME_TS j).width == 32) = true) ∧
  (let s := inMode .service; (s.set SEL_TQR_TEB 0xFFFFFFFF).get SEL_TQR_TEB = 0xFFFFFFFF ∧
    (s.set SEL_TQR_TEB 1).get SEL_TQR_TEB * 65536 ≤ 1 * 10 ^ 9 ∧
    1 * 10 ^ 9 < (s.set SEL_TQR_TEB 1).get SEL_TQR_TEB * 65536 + 10 ^ 9 ∧ (0 : Nat) < 2 ^ 48 * (1000000000 * 2 ^ 16)) :=
  by
  refine ⟨?_, ?_⟩ <;> decide +kernel

/-! ### Witnesses that an opaque value of Config passes through -/

/-- The first RATE call of weight 1 on an empty sketch estimates 1, whatever the hash. -/
theorem rate_of_empty (s : State) (key : Nat) (h : s.fab.sketch = []) : (s.rate key 1).2 = 1 := by
  have one (s : State) (v : Nat) : 1 ≤ min (2 ^ 24 - 1) (s.decayed v + 1) := by omega
  have first : s.decayed (s.sketchAt 0 (s.sketchIndex 0 key)) = 0 := by simp [State.decayed, State.sketchAt, h]
  simp only [State.rate, List.range_succ, List.range_zero, List.nil_append, List.cons_append, List.foldl_cons, List.foldl_nil, first]
  have a := one
  simp only [Nat.le_min] at a
  omega

/-- The three decisions of R253 on the first request of a client, at thresholds of 1 and 0. -/
theorem witness_rateDecide (ip : Ip) :
    let s := ((inMode .service).set NTP_RATE_EN 1).set FAB_RATE_OWNER 2
    let a := (s.set NTP_KODTHR_THR 1)
    let k := (s.set NTP_KODTHR_THR 0).set NTP_DROPTHR_THR 1
    let d := (s.set NTP_KODTHR_THR 0).set NTP_DROPTHR_THR 0
    (s.is NTP_RATE_EN = true ∧ s.get FAB_RATE_OWNER = 2) ∧ (a.rate (rateKey ip) 1).2 ≤ a.get NTP_KODTHR_THR ∧
    (k.get NTP_KODTHR_THR < (k.rate (rateKey ip) 1).2 ∧ (k.rate (rateKey ip) 1).2 ≤ k.get NTP_DROPTHR_THR) ∧
    (d.get NTP_KODTHR_THR < (d.rate (rateKey ip) 1).2 ∧ d.get NTP_DROPTHR_THR < (d.rate (rateKey ip) 1).2) := by
  intro s a k d
  rw [rate_of_empty a _ rfl, rate_of_empty k _ rfl, rate_of_empty d _ rfl]
  decide +kernel

/-- A request's home cluster, when one cluster serves its partition. -/
theorem witness_home (b : Nat) :
    ((((inMode .service).set (FAB_PART_EN 2) 1).set (FAB_PART_CLMASK 2) 2147483648)).home 2 b = some 31 := by
  have h : ((((inMode .service).set (FAB_PART_EN 2) 1).set (FAB_PART_CLMASK 2) 2147483648)).serving 2 = [31] := by decide +kernel
  simp [State.home, h, Nat.mod_one]

/-- A request goes to its home cluster where that has room; where no cluster serves its partition it goes nowhere. -/
theorem witness_toHome (r : Req) (h : r.part = 2) :
    (((((inMode .service).set (FAB_PART_EN 2) 1).set (FAB_PART_CLMASK 2) 2147483648)).toHome r).isSome = true ∧
    (inMode .service).toHome r = none := by
  have e : (inMode .service).serving 2 = [] := by decide +kernel
  have v : ((((inMode .service).set (FAB_PART_EN 2) 1).set (FAB_PART_CLMASK 2) 2147483648)).serving 2 = [31] := by decide +kernel
  have n : ((((inMode .service).set (FAB_PART_EN 2) 1).set (FAB_PART_CLMASK 2) 2147483648).cluster 31).queue.length = 0 := by decide +kernel
  constructor
  · simp only [State.toHome, State.home, h, v, List.length_singleton, Nat.mod_one, List.getElem?_cons_zero, n]
    rfl
  · simp [State.toHome, h, State.home, e]

/-- A message with its trailer under a key is signed under that key. -/
theorem signed_of_trailer (key w : List Byte) (p : Fin 32) (t : Fin 3) (c : Nat) (x : Far) :
    ({ port := p, transport := t, conn := c, peer := x, bytes := w ++ hmacBytes key w } : OmpIn).signed key = true := by
  have n : (hmacBytes key w).length = 32 := by simp [hmacBytes, beBytes]
  simp [OmpIn.signed, n]

set_option maxRecDepth 100000 in
/-- The empty configuration breaks a rule of R382, whatever signals the firmware serves: no Teasel partition stands. -/
theorem witness_configRules (secs : List Section) (fw : List Byte) : ((running .boot).configure []).configRules secs fw = false := by
  have h : ((running .boot).configure []).ruleTeasel = false := by decide +kernel
  simp [State.configRules, h]

/-- An event stamped at the last accepted event's own instant lies within its 20 ns, whatever the table says. -/
theorem witness_deadTime (b : Fin 2048) : ∃ l : Nat,
    let s := ((running .service).set (TDC_CH_EN 31) 1).setCh 31 { lastAt := some l }
    (s.collect.ch 31).lastAt = some l ∧ s.collect.edgeStamp 31 b (s.chCfg 31).dly = l := by
  refine ⟨(Config.interp 62 b).toNat, ?_⟩
  intro s
  have ch (i : Nat) : s.ch i = if i = 31 then { lastAt := some (Config.interp 62 b).toNat } else {} := by
    have e : SMap.get ({} : TdcCh) ((running .service).set (TDC_CH_EN 31) 1).tdc.chans i = {} := rfl
    simp only [State.ch, s, State.setCh, State.onTdc, SMap.get_set, e]
  have w : ((List.range 40).map s.colLevel).sum = 0 := by
    have l (i : Nat) : s.colLevel i = 0 := by
      simp only [State.colLevel, ch]
      split
      · split <;> rfl
      · rfl
    have z : s.colLevel = fun _ => 0 := funext l
    rw [z]; rfl
  have c : s.collect = s.onTdc fun t => { t with colFree := 0 } := by
    simp only [State.collect, w, Nat.zero_min]; rfl
  have cc (i : Nat) : s.collect.ch i = s.ch i := by rw [c]; rfl
  have g : s.collect.get (TDC_CH_ACTIVEIP 31) = 0 := by
    rw [c]; show ((running .service).set (TDC_CH_EN 31) 1).get (TDC_CH_ACTIVEIP 31) = 0; decide +kernel
  have d : (s.chCfg 31).dly = 0 := by
    simp only [State.chCfg, ch, if_pos, Option.getD_none, State.chRegs]
    show ((running .service).set (TDC_CH_EN 31) 1).geti (TDC_CH_DLY 31) = 0; decide +kernel
  have p : s.collect.ipCount = 0 := by
    rw [c]; show (running .service).ipCount = 0; decide +kernel
  refine ⟨by simp [cc, ch], ?_⟩
  simp [State.edgeStamp, State.ipTable, cc, ch, g, d, p]

/-! ### Worked examples of the specification -/

/-- The instant of the example under R8 of spec/00_scope.md. -/
def t2026 : Nat := 1767225637 * sec1 + 250000000 * ns1
/-- A device whose counter stands at an instant. -/
def atInstant (s : State) (t : Nat) : State :=
  let c : TbCount := ⟨t / sec1, t % sec1 / ns1, t % ns1 * 2 ^ 24⟩
  s.onTb fun b => { b with c0 := c, c1 := c, c2 := c }

/-- spec/00_scope.md, example of the timestamp formats. -/
theorem test_timestamp_words : let t := t2026 + 0x4000
    (List.range 3).map (fun i => instFull t / 2 ^ (32 * i) % 2 ^ 32) = [0xB2804000, 0xB9250EE6, 0x00006955] ∧
    instCompact t = 0x9A3FE480 := by decide +kernel

/-- spec/02_time_base.md, example under R39: the effective increment less 1 ns. -/
theorem test_effective_increment : ((running .service).onTb fun b => { b with incr := 2 ^ 40 + 10991598, gcomp := -660 }).effIncr =
    2 ^ 40 + 0xA7B55A := by decide +kernel

/-- spec/07_timestamping.md, example under R198: the inserted NTP timestamp and the updated checksum. -/
theorem test_inserted_ntp_stamp : beBytes 8 (ntpStamp (t2026 + 455 * ns1 + 18022) 37) = [0xED, 0, 0x37, 0x80, 0x40, 0, 0x07, 0xA3] ∧
    nonZeroSum (updateSum 0x1A2B 0 0x6C24) = 0xAE06 := by decide +kernel

/-- The same example: the launch instant of a start block in 100GBASE-R on one lane pair, its trims and its delay. -/
theorem test_launch_instant :
    let s := ((inMode .service).set (MAC_QMODE_MODE 0) 2).seti (TSQ_LANETRIM_TXTRIM 0 2) 125 |>.seti (TSQ_P_TXDLY 2) 55706
    let f : TxFrame := { port := 2, cls := 2, bytes := List.replicate 60 0, arrived := 60, desc := { linkRec := true, link := 3 } }
    let s := s.setPort 2 { tx := [{ frame := f, queue := 2, tB := t2026 + 380 * ns1 + 19660, tick := 0, ofs := t2026 + 380 * ns1 + 19660, fin := 0 }] }
    (s.after (.startBlockLaunch 2)).link 2 3 = (2, t2026 + 455 * ns1 + 18022) := by decide +kernel

/-- A port in 4 x 100GBASE-R with PAUSE enabled, at 2.000 us of device time, paused for 1,000 quanta since 0. -/
def pausedPort : State :=
  ((((inMode .service).set (MAC_QMODE_MODE 0) 2).set (MAC_CFG_PAUSEEN 2) 1).pause 2 1000).onTb fun b => { b with ticks := 2000 }

/-- spec/06_ports_and_mac.md, example under R175: the timer, and a PAUSE that replaces it. -/
theorem test_pause_replaced : (pausedPort.port 2).pauseEnd = 512000 ∧ ((pausedPort.pause 2 200).port 2).pauseEnd = 302400 ∧
    (pausedPort.pause 2 200).cnt 2 5 = 2 ∧ (pausedPort.pause 2 200).cnt 2 27 = 2000 := by decide +kernel

/-- The same example: the timer runs out at 3.024 us. -/
theorem test_pause_expires : let t := ((pausedPort.pause 2 200).onTb fun b => { b with ticks := 3024 }).after (.pauseExpire 2)
    t.is (MAC_STATUS_PAUSED 2) = false ∧ t.cnt 2 27 = 3024 := by decide +kernel

/-- The holdover of the example under R105 of spec/04_references_holdover_outputs.md, `tau` seconds after its entry. -/
def holdover (tau : Nat) : State :=
  let s := ((((inMode .holdover).set SEL_HOMODEL_VALID 1).set SEL_HO_HOAGEB 100).set SEL_HO_TRACELIM 1000).set SEL_STATUS_EVERACTIVE 1
  let s := (((s.set SEL_HO_HOTEMPB 0).set (SEL_SRC_TRACE 16) 1).set SEL_STATUS_ACTIVE 31).set PTP_HOSPEC_NS 1000
  (s.onSel fun x => { x with cls := 5, eh := 20 * scaleE, fh := 50 * scaleF, lastActive := some 16 }).onTb fun b => { b with ticks := tau * 10 ^ 9 }

theorem test_holdover_bounds : let t := (holdover 14400).publishTqr
    t.get SEL_TQR_TEB = 0x35C ∧ t.get SEL_TQR_FEB = 0x43 ∧ t.get SEL_TQR_HOSEC = 0x3840 ∧ t.is SEL_TQR_TRACE = true := by decide +kernel

theorem test_holdover_trace_ends : (holdover 16463).teb = 1000 ∧ (holdover 16463).traceable = true ∧ (holdover 16464).teb = 1001 ∧
    (holdover 16464).traceable = false := by decide +kernel

/-- spec/09_ntp_and_nts.md, example under R252: root dispersion in HOLDOVER and after a seed of 2 s. -/
theorem test_root_dispersion : ((inMode .service).set SEL_TQR_TEB 860).rootDisp = 1 ∧
    ((inMode .service).set SEL_TQR_TEB 2000000000).rootDisp = 0x20000 := by decide +kernel

/-- The same example: the start of the header for a request of version 4 with poll 6. -/
theorem test_ntp_header : let s := (holdover 14400).publishTqr
    (s.ntpHeader (reqOf 2 0 []) ([0x23, 0, 6] ++ List.replicate 45 0) 0).take 16 =
      [0x24, 1, 6, 0xE2, 0, 0, 0, 0, 0, 0, 0, 1, 0x47, 0x4E, 0x53, 0x53] := by decide +kernel

/-- spec/10_ptp_grandmaster.md, example under R283, its figures under profile 0. -/
theorem test_ptp_quality : let s := ((holdover 14400).set PTP_CFG_PROFILE 0).publishTqr
    let t := ((holdover 16464).set PTP_CFG_PROFILE 0).publishTqr
    s.ptpState = 2 ∧ s.clockAcc = 0x23 ∧ t.ptpState = 3 ∧ t.clockAcc = 0x24 ∧ timeSource (s.get SEL_TQR_CLASS) = 0xA0 := by decide +kernel

/-- spec/11_roughtime.md, example under R313: MIDP and RADI. -/
theorem test_roughtime_instant : rtMidp 1 1767225600251000000 = 0x6955B900 ∧ ((inMode .service).set RT_RADIMIN_MIN 1).rtRadi 1 20 0 = 1 := by
  decide +kernel

/-- spec/13_pair_redundancy.md, example under R357: the computed guard and the guard in force. -/
theorem test_lease_guard :
    let s := ((((paired 5).set LEASE_LEN_LEFF 50).set LEASE_GUARDCFG_GIMG 5000000).set SEL_TQR_FEB 67).set LEASE_PFEB_BOUND 50
    let t := (s.onLease fun l => { l with delays := [(0, 30), (0, 2400)], pStatus := true }).guard
    t.get LEASE_GCALC_GC = 2401 ∧ t.get LEASE_GUARD_GEFF = 5000000 := by decide +kernel

/-- The example under R367 there: row 3 of R360 lets the non-home device take at 54.8 ms. -/
theorem test_take_instant :
    let s := (((paired 3).set LEASE_LEN_LEFF 50).set LEASE_GUARD_GEFF 5000000).set LEASE_STATUS_PSTATE 1
    (s.onLease fun l => { l with xLocal := some (sec1 + 47500030 * ns1), hLast := some (sec1 - 200 * us1) }).takeRow =
      some (3, sec1 + 54800 * us1) := by decide +kernel

/-- spec/16_campion_self_test.md, example under R439: the failing end of a test of C9. -/
theorem test_campion_fail :
    let s := (((inMode .maintenance).set (BIST_RESULT_PROG 9) 1310720).set (FAB_CL_STATE 9) 2).onBist fun b =>
      { b with gated := some { u := 9 }, golden := [(0, (1310720, 5))] }
    let t := s.after (.bistTestEnd true 1310720 6 0)
    t.get (BIST_RESULT_COUNT 9) = 1310720 ∧ t.get (BIST_RESULT_RESULT 9) = 3 ∧ t.get (BIST_FAILMAP_FAIL 0) = 2 ^ 9 := by decide +kernel

/-- spec/18_power_management.md, example under R466: a raise by one step, and the fall after 100 ms of low load. -/
theorem test_vcore_steps :
    let s := (((inMode .service).set PM_VCORE_TARGET 700).set PM_AVSCFG_EN 1).set FAB_STATUS_VREQ 1
    let t := (((inMode .service).set PM_VCORE_TARGET 800).set PM_AVSCFG_EN 1).onPw fun p => { p with lowMs := 99 }
    let later (u : State) : State := atInstant u (1000000 * ns1)
    ((later s).after (.vcoreEvaluate [])).get PM_VCORE_TARGET = 710 ∧ ((later t).after (.vcoreEvaluate [])).get PM_VCORE_TARGET = 790 := by decide +kernel

/-- The example under R467 there: the argument of event 0x0201 and the boost of the floor. -/
theorem test_supply_event :
    let s := (((inMode .service).set PM_VCORE_TARGET 720).set PM_AVSCFG_EN 1).onPw fun p => { p with dips := [⟨0, 0, 620⟩] }
    let t := (s.onTb fun b => { b with ticks := 18000 }).after (.railWarningRecover 0 612 700)
    (t.mg.evPending.any fun x => x.2.any fun e => e.code == 0x0201 && e.arg == 0x00122640) = true ∧ t.get PM_VCORE_TARGET = 730 ∧
      t.get PM_BOOST_FLOOR = 730 := by decide +kernel

/-- spec/19_package_electrical.md, example under R484: MAIN yields to PRE and POST. -/
theorem test_equalizer_clamp :
    (((inMode .service).set (MAC_LANE_PRE 0 0) 0xF8).set (MAC_LANE_POST 0 0) 0xEC |>.set (MAC_LANE_MAIN 0 0) 100).legalMain 0 0 = 0x63 := by
  decide +kernel

/-- spec/15_management_readback.md R403, R406: the unlock word over SPI, with its CRC byte. -/
theorem test_spi_unlocks :
    let m : List Byte := [2, 0, 0, 2, 0, 0, 0xC3, 0xA5, 0, 0]
    let t := (((inMode .service).set SYS_WLOCK_SPI 1).set SYS_WLOCK_OMP 1).after (.spiWrite (m ++ beBytes 1 (crc8 m)))
    t.is SYS_WLOCK_SPI = false ∧ t.is SYS_WLOCK_OMP = false := by decide +kernel

/-- The published check value of CRC-32C over the digits 1 to 9. -/
theorem test_crc32c : crc32c (chars "123456789") = 0xE3069283 := by decide +kernel

/-! ### Ill-formed operands -/

/-- Each check of spec/15_management_readback.md R402, R406 and R410, spec/00_scope.md R9, spec/02_time_base.md R48 and
spec/06_ports_and_mac.md R164 refuses an operand. -/
theorem test_ill_formed : pathOk (.cp 5) = false ∧ wordOk (2 ^ 32) = false ∧ (Instr.sysReboot (.cp 5) 0).wf = false ∧
    (Instr.gcalStart .spi (2 ^ 32)).wf = false ∧ (Instr.rxFrame 0 { bytes := List.replicate 17 0 }).wf = false ∧
    (Instr.spiWrite [2, 0, 0, 0, 0, 0]).wf = false ∧ (Instr.spiWrite (3 :: List.replicate 10 0)).wf = false ∧
    (Instr.spiRead (0x0B :: List.replicate 7 0)).wf = false ∧ (Instr.spiRead (2 :: List.replicate 6 0)).wf = false ∧
    (Instr.ompOpen { port := 0, transport := 0, peer := { vlan := 0, mac := 0 }, bytes := List.replicate 47 0 }).wf = false := by decide +kernel

/-- Their neighbours are well formed. -/
theorem test_well_formed : (Instr.sysReboot (.cp 4) 0).wf = true ∧ (Instr.gcalStart .spi (2 ^ 32 - 1)).wf = true ∧
    (Instr.rxFrame 0 { bytes := List.replicate 18 0 }).wf = true ∧ (Instr.spiWrite (2 :: List.replicate 10 0)).wf = true ∧
    (Instr.spiRead (0x0B :: List.replicate 6 0)).wf = true := by decide +kernel

end Sys2Proof.Tests
end

section
/-! PROOF. Timestamps in three words, the compact form and the root dispersion (R5, R6, R7, R250). -/
namespace Sys2Proof.Machine

/-! ### The fields of a full timestamp (R5) -/

theorem ns1_eq : ns1 = 2 ^ 16 := rfl
theorem sec1_eq : sec1 = ns1 * 1000000000 := rfl

/-- SEC counts the whole seconds of the instant. -/
theorem instSec_eq (t : Nat) : instSec t = t / (1000000000 * 2 ^ 16) := rfl

/-- SEC fits `w` bits at every instant before second 2^w. -/
theorem instSec_lt {t w : Nat} (h : t < 2 ^ w * (1000000000 * 2 ^ 16)) : instSec t < 2 ^ w := by
  rw [instSec_eq]
  exact (Nat.div_lt_iff_lt_mul (by decide)).mpr h

/-- NSEC counts the whole nanoseconds of the instant within its second. -/
theorem instNsec_eq (t : Nat) : instNsec t = t / 2 ^ 16 % 1000000000 := by
  rw [instNsec, sec1_eq, Nat.mod_mul_right_div_self, ns1_eq]

theorem instNsec_lt (t : Nat) : instNsec t < 1000000000 := by
  rw [instNsec_eq]
  exact Nat.mod_lt _ (by decide)

theorem instSub_lt (t : Nat) : instSub t < 2 ^ 16 := Nat.mod_lt t (by decide)

/-- SEC, NSEC and SUBNS are the digits of the instant. -/
theorem instSec_instNsec_instSub (t : Nat) : instSec t * sec1 + instNsec t * ns1 + instSub t = t := by
  have hsec : t / sec1 * sec1 + t % sec1 = t := Nat.div_add_mod' t sec1
  have hns : t % sec1 / ns1 * ns1 + t % sec1 % ns1 = t % sec1 := Nat.div_add_mod' _ ns1
  have hsub : t % sec1 % ns1 = t % ns1 := by rw [sec1_eq, Nat.mod_mul_right_mod]
  rw [instSec, instNsec, instSub]
  omega

/-- Bits 15:0 are SUBNS. -/
theorem instFull_sub (t : Nat) : instFull t % 2 ^ 16 = instSub t := by
  have := instSub_lt t
  rw [instFull]
  omega

/-- Bits 47:16 are NSEC. -/
theorem instFull_nsec (t : Nat) : instFull t / 2 ^ 16 % 2 ^ 32 = instNsec t := by
  have := instSub_lt t
  have := instNsec_lt t
  rw [instFull]
  omega

/-- Bits 95:48 are SEC. -/
theorem instFull_sec (t : Nat) : instFull t / 2 ^ 48 = instSec t % 2 ^ 48 := by
  have := instSub_lt t
  have := instNsec_lt t
  rw [instFull]
  omega

/-- A later instant has a greater full timestamp where SEC fits its 48 bits. -/
theorem instFull_lt_of_lt {a b : Nat} (ha : instSec a < 2 ^ 48) (hb : instSec b < 2 ^ 48) (hab : a < b) :
    instFull a < instFull b := by
  have hsa : instSec a % 2 ^ 48 = instSec a := Nat.mod_eq_of_lt ha
  have hsb : instSec b % 2 ^ 48 = instSec b := Nat.mod_eq_of_lt hb
  have da := instSec_instNsec_instSub a
  have db := instSec_instNsec_instSub b
  have := instNsec_lt a
  have := instNsec_lt b
  have := instSub_lt a
  have := instSub_lt b
  rw [sec1_eq, ns1_eq] at da db
  rw [instFull, instFull, hsa, hsb]
  omega

/-- Full timestamps order the instants whose SEC fits its 48 bits. -/
theorem instFull_lt_iff {a b : Nat} (ha : instSec a < 2 ^ 48) (hb : instSec b < 2 ^ 48) : instFull a < instFull b ↔ a < b := by
  constructor
  · intro hab
    rcases Nat.lt_trichotomy a b with h | h | h
    · exact h
    · exact absurd (h ▸ hab) (Nat.lt_irrefl _)
    · exact absurd (instFull_lt_of_lt hb ha h) (Nat.lt_asymm hab)
  · exact instFull_lt_of_lt ha hb

/-! ### Three words (R6) and the compact form (R7) -/

/-- Three registers at different places hold the three words. -/
theorem State.get_setTs (s : State) (F : Nat → Field) (t : Nat) {i : Nat} (hi : i < 3)
    (hkey : ∀ j k, j < 3 → k < 3 → j ≠ k → (F j).key ≠ (F k).key) :
    (s.setTs F t).get (F i) = instWord t i % 2 ^ (F i).width := by
  have h01 := hkey 0 1 (by decide) (by decide) (by decide)
  have h02 := hkey 0 2 (by decide) (by decide) (by decide)
  have h12 := hkey 1 2 (by decide) (by decide) (by decide)
  rw [State.setTs]
  match i, hi with
  | 0, _ => rw [State.get_set_ne _ _ _ _ h02, State.get_set_ne _ _ _ _ h01, State.get_set_self]
  | 1, _ => rw [State.get_set_ne _ _ _ _ h12, State.get_set_self]
  | 2, _ => rw [State.get_set_self]

/-- The compact form counts whole nanoseconds. -/
theorem instCompact_eq (t : Nat) : instCompact t = t / 2 ^ 16 % 2 ^ 32 := by
  have d := instSec_instNsec_instSub t
  have := instSub_lt t
  rw [sec1_eq, ns1_eq] at d
  rw [instCompact]
  omega

/-- The compact form wraps every 2^32 ns. -/
theorem instCompact_wraps (t : Nat) : instCompact (t + 2 ^ 32 * 2 ^ 16) = instCompact t := by
  rw [instCompact_eq, instCompact_eq, Nat.add_mul_div_right _ _ (by decide), Nat.add_mod_right]

/-! ### The root dispersion (R250) -/

/-- The quotient rounded up is the least one whose product reaches the dividend. -/
theorem ceilDiv_eq {n d q : Nat} (hle : n ≤ q * d) (hlt : q * d < n + d) : ceilDiv n d = q := by
  have hd : d ≠ 0 := by omega
  rw [ceilDiv, if_neg hd]
  apply Nat.div_eq_of_lt_le
  · omega
  · rw [Nat.succ_mul]; omega

theorem State.rootDisp_of_unknown {s : State} (h : s.get SEL_TQR_TEB = 0xFFFFFFFF) : s.rootDisp = 0xFFFFFFFF := if_pos h

theorem State.rootDisp_of_known {s : State} (h : s.get SEL_TQR_TEB ≠ 0xFFFFFFFF) :
    s.rootDisp = min 0xFFFFFFFF (ceilDiv (s.get SEL_TQR_TEB * 65536) (10 ^ 9) + s.get NTP_RDADD_RDADD) := if_neg h

/-- The root dispersion fits its register. -/
theorem State.rootDisp_lt (s : State) : s.rootDisp < 2 ^ 32 := by
  by_cases h : s.get SEL_TQR_TEB = 0xFFFFFFFF
  · rw [State.rootDisp_of_unknown h]; decide
  · rw [State.rootDisp_of_known h]; omega

/-- A publication shows the root dispersion; the event of a change leaves it. -/
theorem State.get_showNtp_rd (s : State) : s.showNtp.get NTP_RDNOW_RD = s.rootDisp := by
  have hw : s.rootDisp % 2 ^ NTP_RDNOW_RD.width = s.rootDisp := Nat.mod_eq_of_lt s.rootDisp_lt
  unfold State.showNtp
  dsimp only
  split
  · rw [State.get_event _ _ _ _ _ (by decide) (by decide), State.get_onNtp, State.get_set_self, hw]
  · rw [State.get_set_self, hw]

/-- Settles O60: the bits of a full timestamp and its order, its three words, the compact form, and the two cases of
the root dispersion. -/
theorem timestampsAndRootDispersionFollowTheirFormulas : Obligations.TimestampsAndRootDispersionFollowTheirFormulas := by
  refine ⟨?words, ?fields, ?order, ?compact, ?dispersion⟩
  case words =>
    intro s F t i hi hkey hwidth
    rw [State.get_setTs s F t hi hkey, hwidth i hi, instWord, Nat.mod_mod]
  case fields => exact fun t => ⟨instFull_sub t, (instFull_nsec t).trans (instNsec_eq t), instSec_eq t ▸ instFull_sec t⟩
  case order =>
    intro a b ha hb
    exact instFull_lt_iff (instSec_lt ha) (instSec_lt hb)
  case compact => exact fun t => ⟨by rw [instCompact, instSec_eq, instNsec_eq], instCompact_wraps t⟩
  case dispersion =>
    intro s
    rw [State.get_showNtp_rd]
    refine ⟨State.rootDisp_of_unknown, fun n hknown hle hlt => ?_⟩
    rw [State.rootDisp_of_known (Nat.ne_of_lt hknown), ceilDiv_eq hle hlt]

end Sys2Proof.Machine
end

section
/-! PROOF. An edge on a TDC channel (R62 to R64, R74, R75): the cases of `State.tdcEdge`, what `State.edge` makes of
each, and the LAST group. -/
namespace Sys2Proof.Machine

/-! ### The row: the ticks before the edge, then the edge -/

theorem exec_tdcEdge (s : State) (n : Fin 32) (r : Bool) (b : Fin 2048) (w : Nat) :
    exec (.tdcEdge n r b w) s = .next (s.edgeIn n r b w) := by rfl

theorem State.edgeIn_of_boundary {s : State} {w : Nat} (h : s.reachTick (w + s.tb.ticks) = none) (n : Nat) (r : Bool)
    (b : Nat) : s.edgeIn n r b w = s := by
  rw [State.edgeIn, h]

theorem State.edgeIn_of_reached {o s : State} {w : Nat} (h : o.reachTick (w + o.tb.ticks) = some s) (n : Nat) (r : Bool)
    (b : Nat) : o.edgeIn n r b w = s.edge n r b := by
  rw [State.edgeIn, h]

/-- An edge that is not stamped ends with what the channel makes of it. -/
theorem State.edge_of_unstamped {s u : State} {n b : Nat} {r : Bool} (h : s.tdcEdge n r b = (u, none)) :
    s.edge n r b = u := by
  rw [State.edge, h]

/-- A stamped edge goes on to the source and to the time-of-day input of its channel. -/
theorem State.edge_of_stamped {s a : State} {n b t : Nat} {r : Bool} (h : s.tdcEdge n r b = (a, some t)) :
    s.edge n r b =
      let x := if n < 16 ∧ a.is (SEL_SRC_EN n) = true then a.refEvent n t else a
      if x.is SEL_TODIN_EN = true ∧ n = 16 + x.get SEL_TODIN_EVT then x.todPulse t else x := by
  rw [State.edge, h]

/-! ### The cases of an edge (R62, R63) -/

/-- Nothing is captured on a channel that is off, while the counter stands still, or in OFF and BACKUP. -/
theorem State.tdcEdge_of_off {s : State} {n : Nat} (h : s.awake = false ∨ s.tb.running = false ∨ (s.chCfg n).en = false)
    (r : Bool) (b : Nat) : s.tdcEdge n r b = (s, none) := by
  rw [State.tdcEdge, if_pos (by rcases h with h | h | h <;> simp [h])]

section
variable {s : State} {n b : Nat} {r : Bool} (hon : s.awake = true ∧ s.tb.running = true ∧ (s.chCfg n).en = true)
include hon

theorem State.not_off_of_on : ¬(!s.awake || !s.tb.running || !(s.chCfg n).en) = true := by simp [hon]

/-- An edge of the unselected polarity leaves only what the collector has served. -/
theorem State.tdcEdge_of_unselected (h : ((s.chCfg n).edge = 0 ∧ r = false) ∨ ((s.chCfg n).edge = 1 ∧ r = true)) :
    s.tdcEdge n r b = (s.collect, none) := by
  rw [State.tdcEdge, if_neg (State.not_off_of_on hon), if_pos (by simpa using h)]

variable {u : State} (hu : s.collect = u)
include hu

variable (hsel : ¬(((s.chCfg n).edge = 0 ∧ r = false) ∨ ((s.chCfg n).edge = 1 ∧ r = true)))
include hsel

/-- An edge that the divider does not pass moves it. -/
theorem State.tdcEdge_of_divided (h : (u.ch n).divCount + 1 < (s.chCfg n).div) :
    s.tdcEdge n r b =
      (u.setCh n { u.ch n with divCount := (u.ch n).divCount + 1 }, none) := by
  rw [State.tdcEdge, hu, if_neg (State.not_off_of_on hon), if_neg (by simpa using hsel), if_pos h]

variable (hdiv : (s.chCfg n).div ≤ (u.ch n).divCount + 1)
include hdiv

/-- What an edge that passes the divider comes to: missed for its rate, missed for a full FIFO, or accepted. -/
theorem State.tdcEdge_of_passed : s.tdcEdge n r b =
    let t := u.edgeStamp n b (s.chCfg n).dly
    if (u.ch n).lastAt.any (fun l => decide (t < l + 20 * ns1 ∧ l ≤ t)) = true then
      ((u.setCh n { u.ch n with divCount := 0 }).missEvent n t false, none)
    else if (s.chCfg n).sten = true ∧ 64 ≤ (u.ch n).fifo then
      ((u.setCh n { u.ch n with divCount := 0 }).missEvent n t true, none)
    else ((u.setCh n { u.ch n with divCount := 0, lastAt := some t }).acceptEvent n t r, some t) := by
  rw [State.tdcEdge, hu, if_neg (State.not_off_of_on hon), if_neg (by simpa using hsel), if_neg (Nat.not_lt.mpr hdiv)]

/-- An edge within 20 ns after the last accepted event is missed for its rate. -/
theorem State.tdcEdge_of_rate {l : Nat} (hl : (u.ch n).lastAt = some l)
    (hlt : u.edgeStamp n b (s.chCfg n).dly < l + 20 * ns1) (hle : l ≤ u.edgeStamp n b (s.chCfg n).dly) :
    s.tdcEdge n r b = ((u.setCh n { u.ch n with divCount := 0 }).missEvent n
      (u.edgeStamp n b (s.chCfg n).dly) false, none) := by
  have hnear : (u.ch n).lastAt.any (fun l => decide (u.edgeStamp n b (s.chCfg n).dly < l + 20 * ns1 ∧
      l ≤ u.edgeStamp n b (s.chCfg n).dly)) = true := by
    rw [hl, Option.any_some]
    exact decide_eq_true ⟨hlt, hle⟩
  rw [State.tdcEdge_of_passed hon hu hsel hdiv, if_pos hnear]

variable (hrate : ∀ l, (u.ch n).lastAt = some l →
  l + 20 * ns1 ≤ u.edgeStamp n b (s.chCfg n).dly ∨ u.edgeStamp n b (s.chCfg n).dly < l)
include hrate

omit hon hu hsel hdiv in
/-- The rate test passes an edge that comes 20 ns or more after the last accepted event, or before it. -/
theorem State.not_near_last : ¬(u.ch n).lastAt.any (fun l =>
    decide (u.edgeStamp n b (s.chCfg n).dly < l + 20 * ns1 ∧ l ≤ u.edgeStamp n b (s.chCfg n).dly)) = true := by
  rw [Option.any_eq_true]
  rintro ⟨l, hl, hnear⟩
  obtain ⟨hlt, hle⟩ := of_decide_eq_true hnear
  exact (hrate l hl).elim (Nat.not_le_of_lt hlt) (Nat.not_lt_of_le hle)

/-- An edge of a statistics channel whose FIFO is full is missed. -/
theorem State.tdcEdge_of_full (hst : (s.chCfg n).sten = true) (hfull : 64 ≤ (u.ch n).fifo) :
    s.tdcEdge n r b = ((u.setCh n { u.ch n with divCount := 0 }).missEvent n
      (u.edgeStamp n b (s.chCfg n).dly) true, none) := by
  rw [State.tdcEdge_of_passed hon hu hsel hdiv, if_neg (State.not_near_last hrate), if_pos ⟨hst, hfull⟩]

/-- Every other edge is accepted and stamped. -/
theorem State.tdcEdge_of_accepted (h : (s.chCfg n).sten = false ∨ (u.ch n).fifo < 64) :
    s.tdcEdge n r b = ((u.setCh n { u.ch n with
      divCount := 0, lastAt := some (u.edgeStamp n b (s.chCfg n).dly) }).acceptEvent n
        (u.edgeStamp n b (s.chCfg n).dly) r, some (u.edgeStamp n b (s.chCfg n).dly)) := by
  have hroom : ¬((s.chCfg n).sten = true ∧ 64 ≤ (u.ch n).fifo) := by
    rintro ⟨hst, hfull⟩
    exact h.elim (by simp [hst]) (Nat.not_lt_of_le hfull)
  rw [State.tdcEdge_of_passed hon hu hsel hdiv, if_neg (State.not_near_last hrate), if_neg hroom]
end

/-! ### The LAST group (R74) -/

/-- Every word of a full timestamp fits 32 bits. -/
theorem instWord_lt (t i : Nat) : instWord t i < 2 ^ 32 := Nat.mod_lt _ (by decide)

section
variable (s : State) (n t : Nat) (r u : Bool)

theorem State.get_setLast_last {i : Nat} (hi : i < 3) : (s.setLast n t r u).get (TDC_CH_LAST n i) = instWord t i := by
  have hkey : ∀ j k, j < 3 → k < 3 → j ≠ k → (TDC_CH_LAST n j).key ≠ (TDC_CH_LAST n k).key := by
    intro j k _ _ hjk
    simp only [Field.key, TDC_CH_LAST]
    omega
  have hts : (s.setTs (TDC_CH_LAST n) t).get (TDC_CH_LAST n i) = instWord t i := by
    rw [State.get_setTs s _ t hi hkey]
    exact Nat.mod_eq_of_lt (instWord_lt t i)
  rw [← hts]
  simp (disch := simp only [Field.key, TDC_CH_LAST, TDC_CH_LASTSEQA, TDC_CH_LASTSEQB, TDC_CH_LASTEDGE, TDC_CH_LASTUNCAL, ne_eq]; omega) only
    [State.setLast, State.get_set_ne, State.get_setb_ne]

theorem State.get_setLast_edge : (s.setLast n t r u).get (TDC_CH_LASTEDGE n) = (if r then 1 else 0) := by
  simp (disch := simp only [Field.key, TDC_CH_LASTSEQA, TDC_CH_LASTSEQB, TDC_CH_LASTEDGE]; omega) only
    [State.setLast, State.get_set_ne, State.get_setb_self]

theorem State.get_setLast_uncal : (s.setLast n t r u).get (TDC_CH_LASTUNCAL n) = (if u then 1 else 0) := by
  simp (disch := simp only [Field.key, TDC_CH_LASTSEQA, TDC_CH_LASTSEQB, TDC_CH_LASTEDGE, TDC_CH_LASTUNCAL]; omega) only
    [State.setLast, State.get_set_ne, State.get_setb_ne, State.get_setb_self]

/-- The two sequence words of the group are equal. -/
theorem State.get_setLast_seq :
    (s.setLast n t r u).get (TDC_CH_LASTSEQA n) = (s.setLast n t r u).get (TDC_CH_LASTSEQB n) := by
  have hw : (TDC_CH_LASTSEQA n).width = (TDC_CH_LASTSEQB n).width := rfl
  simp (disch := simp only [Field.key, TDC_CH_LASTSEQA, TDC_CH_LASTSEQB]; omega) only
    [State.setLast, State.get_set_ne, State.get_set_self, hw]
end

/-- Settles O16: the row by the ticks it waits for, the cases of the edge, its timestamp and the LAST group. -/
theorem tdcEdgesAreCountedOrStamped : Obligations.TdcEdgesAreCountedOrStamped := by
  refine ⟨?boundary, ?off, ?unselected, ?selected, fun s n bin dly => rfl, ?last⟩
  case boundary =>
    intro s w n r b h
    rw [exec_tdcEdge, State.edgeIn_of_boundary h]
  case off =>
    intro o s w n r b h hoff
    rw [exec_tdcEdge, State.edgeIn_of_reached h, State.edge_of_unstamped (State.tdcEdge_of_off hoff r b)]
  case unselected =>
    intro o s w n r b h haw hrun hen
    have hskip (hpol : ((s.chCfg n).edge = 0 ∧ r = false) ∨ ((s.chCfg n).edge = 1 ∧ r = true)) :
        exec (.tdcEdge n r b w) o = .next s.collect := by
      rw [exec_tdcEdge, State.edgeIn_of_reached h, State.edge_of_unstamped (State.tdcEdge_of_unselected ⟨haw, hrun, hen⟩ hpol)]
    exact ⟨fun hr he => hskip (.inl ⟨he, hr⟩), fun hr he => hskip (.inr ⟨he, hr⟩)⟩
  case selected =>
    intro o s w n r b h haw hrun hen hrise hfall
    have hon := And.intro haw (And.intro hrun hen)
    have hsel := not_or.mpr ⟨hrise, hfall⟩
    rw [exec_tdcEdge, State.edgeIn_of_reached h]
    generalize hu : s.collect = u
    intro v c x t
    refine ⟨fun hdiv => ?_, fun hdiv => ⟨fun l hl hlt hle => ?_, fun hrate => ⟨fun hst hfull => ?_, fun hroom => ?_⟩⟩⟩
    · rw [State.edge_of_unstamped (State.tdcEdge_of_divided hon hu hsel hdiv)]
    · rw [State.edge_of_unstamped (State.tdcEdge_of_rate hon hu hsel hdiv hl hlt hle)]
    · rw [State.edge_of_unstamped (State.tdcEdge_of_full hon hu hsel hdiv hrate hst hfull)]
    · rw [State.edge_of_stamped (State.tdcEdge_of_accepted hon hu hsel hdiv hrate hroom)]
  case last =>
    intro s n t r u _
    exact ⟨fun i hi => State.get_setLast_last s n t r u hi, State.get_setLast_edge s n t r u,
      State.get_setLast_uncal s n t r u, State.get_setLast_seq s n t r u⟩

end Sys2Proof.Machine
end

section
/-! PROOF. Event queues, interval results, the close of statistics windows and the publication collector (R66 to R68,
R71, R74, R75). -/
namespace Sys2Proof.Machine

/-! ### Event queues (R66) -/

theorem exec_eventQueuePop (s : State) (k : Fin 8) : exec (.eventQueuePop k) s = .next (s.queuePop k) := by rfl

theorem State.queuePop_of_nil {s : State} {k : Nat} (h : SMap.get [] s.tdc.queues k = []) : s.queuePop k = s := by
  rw [State.queuePop, State.queue, h]

/-- Queue `k` holds the records `q`. -/
def State.setQueue (s : State) (k : Nat) (q : List EqRecord) : State :=
  s.onTdc fun b => { b with queues := SMap.set [] s.tdc.queues k q }

theorem State.queue_setQueue (s : State) (k : Nat) (q : List EqRecord) : (s.setQueue k q).queue k = q :=
  SMap.get_set_self _ _ _ _

/-- POP leaves the rest of the queue and shows it. -/
theorem State.queuePop_of_cons {s : State} {k : Nat} {r : EqRecord} {q : List EqRecord}
    (h : SMap.get [] s.tdc.queues k = r :: q) :
    s.queuePop k = (s.setQueue k q).showQueue k := by
  rw [State.queuePop, State.queue, h]
  rfl

/-- `t` is `s` but for its registers. -/
def State.RegistersOnly (s t : State) : Prop := ∃ f, t = { s with rf := f }

theorem State.RegistersOnly.set {s t : State} (h : s.RegistersOnly t) (F : Field) (v : Nat) : s.RegistersOnly (t.set F v) := by
  obtain ⟨f, rfl⟩ := h
  exact ⟨_, rfl⟩

theorem State.RegistersOnly.setb {s t : State} (h : s.RegistersOnly t) (F : Field) (b : Bool) :
    s.RegistersOnly (t.setb F b) := h.set F _

theorem State.RegistersOnly.setTs {s t : State} (h : s.RegistersOnly t) (F : Nat → Field) (i : Nat) :
    s.RegistersOnly (t.setTs F i) := ((h.set _ _).set _ _).set _ _

section
variable (s : State) (k : Nat)

/-- The head group and LEVEL are registers only. -/
theorem State.showQueue_registers : s.RegistersOnly (s.showQueue k) := by
  have hlevel : s.RegistersOnly (s.set (TDC_EQ_LEVEL k) (s.queue k).length) := ⟨_, rfl⟩
  unfold State.showQueue
  refine (State.RegistersOnly.set ?_ _ _).set _ _
  split
  · exact ((((hlevel.setTs _ _).set _ _).set _ _).set _ _).set _ _
  · exact ((((hlevel.setTs _ _).setb _ _).setb _ _).setb _ _).set _ _

theorem State.showQueue_tdc : (s.showQueue k).tdc = s.tdc := by
  obtain ⟨f, hf⟩ := s.showQueue_registers k
  rw [hf]

/-- LEVEL reads the length of the queue. -/
theorem State.get_showQueue_level (h : (s.queue k).length < 512) :
    (s.showQueue k).get (TDC_EQ_LEVEL k) = (s.queue k).length := by
  have hfit : (s.queue k).length % 2 ^ (TDC_EQ_LEVEL k).width = (s.queue k).length := Nat.mod_eq_of_lt h
  unfold State.showQueue
  dsimp only
  split <;>
  simp (disch := simp only [Field.key, TDC_EQ_LEVEL, TDC_EQ_HEADSEQA, TDC_EQ_HEADSEQB, TDC_EQ_HEAD, TDC_EQ_GAP, TDC_EQ_EDGE,
      TDC_EQ_UNCAL, TDC_EQ_LOSTN]; omega) only
    [State.get_set_ne, State.get_setb_ne, State.setTs, State.get_set_self, hfit]

/-- The two sequence words of the head group are equal. -/
theorem State.get_showQueue_seq :
    (s.showQueue k).get (TDC_EQ_HEADSEQA k) = (s.showQueue k).get (TDC_EQ_HEADSEQB k) := by
  have hw : (TDC_EQ_HEADSEQA k).width = (TDC_EQ_HEADSEQB k).width := rfl
  unfold State.showQueue
  dsimp only
  simp (disch := simp only [Field.key, TDC_EQ_HEADSEQA, TDC_EQ_HEADSEQB]; omega) only
    [State.get_set_ne, State.get_set_self, hw]

/-- The head group shows the timestamp of the oldest record. -/
theorem State.get_showQueue_head {r : EqRecord} {q : List EqRecord} (h : s.queue k = r :: q) {i : Nat} (hi : i < 3) :
    (s.showQueue k).get (TDC_EQ_HEAD k i) = instWord r.t i := by
  have hkey : ∀ j l, j < 3 → l < 3 → j ≠ l → (TDC_EQ_HEAD k j).key ≠ (TDC_EQ_HEAD k l).key := by
    intro j l _ _ hjl
    simp only [Field.key, TDC_EQ_HEAD]
    omega
  have hfit : instWord r.t i % 2 ^ (TDC_EQ_HEAD k i).width = instWord r.t i := Nat.mod_eq_of_lt (instWord_lt r.t i)
  unfold State.showQueue
  dsimp only
  rw [h]
  simp (disch := simp only [Field.key, TDC_EQ_HEADSEQA, TDC_EQ_HEADSEQB, TDC_EQ_HEAD, TDC_EQ_GAP, TDC_EQ_EDGE, TDC_EQ_UNCAL,
      TDC_EQ_LOSTN]; omega) only
    [State.get_set_ne, State.get_setb_ne, State.get_setTs _ _ _ hi hkey, hfit]
end

/-! ### Interval results (R67, R68) -/

theorem exec_intervalResult (s : State) (m : Fin 8) : exec (.intervalResult m) s = .next (s.intervalResult m) := by rfl

/-- A unit of one channel and one without a start have no result to form. -/
theorem State.intervalResult_of_none {s : State} {m : Nat} (h : (s.ivCfg m).start = (s.ivCfg m).stop ∨ (s.unit m).starts = []) :
    s.intervalResult m = s := by
  unfold State.intervalResult
  dsimp only
  by_cases hsame : (s.ivCfg m).start = (s.ivCfg m).stop
  · rw [if_pos hsame]
  · rw [if_neg hsame, h.resolve_left hsame]

/-- The oldest start is paired at the instant at which its stops are all known. -/
theorem State.intervalResult_of_start {s u : State} {m t k : Nat} {ts : List (Nat × Nat)}
    (hch : (s.ivCfg m).start ≠ (s.ivCfg m).stop) (hstart : (s.unit m).starts = (t, k) :: ts)
    (hreach : s.reachTick (k + (s.ivCfg m).win + 100) = some u) : s.intervalResult m = u.pairStart m t ts := by
  simp only [State.intervalResult, if_neg hch, hstart, hreach]

theorem State.pairStart_of_unpaired {s : State} {m t : Nat} (ts : List (Nat × Nat))
    (h : nearestStop t ((s.ivCfg m).win * ns1) (s.unit m).stops = none) :
    s.pairStart m t ts = (s.setUnit m { s.unit m with
      starts := ts, stops := (s.unit m).stops.filter fun p => decide (t ≤ p + (s.ivCfg m).win * ns1) }).bump (TDC_IV_UNPAIRED m) 1 := by
  rw [State.pairStart, h]

theorem State.pairStart_of_paired {s : State} {m t p : Nat} (ts : List (Nat × Nat))
    (h : nearestStop t ((s.ivCfg m).win * ns1) (s.unit m).stops = some p) :
    s.pairStart m t ts = (s.setUnit m { s.unit m with
      starts := ts
      stops := ((s.unit m).stops.erase p).filter fun p => decide (t ≤ p + (s.ivCfg m).win * ns1) }).ivResult m t
        ((p : Int) - t) true := by
  rw [State.pairStart, h]

/-- A signed value as 64 bits, saturated. -/
def bits64 (v : Int) : Nat := ofSigned 64 (satSigned 64 v)

theorem bits64_zero : bits64 0 = 0 := by decide

theorem bits64_lt (v : Int) : bits64 v < 2 ^ 64 := by
  rw [bits64, ofSigned]
  omega

/-- A value that fits is its two's complement. -/
theorem bits64_of_fits {v : Int} (h : v.natAbs < 2 ^ 63) : bits64 v = (v % 2 ^ 64).toNat := by
  have hsat : satSigned 64 v = v := by
    rw [satSigned]
    omega
  rw [bits64, hsat, ofSigned]

/-- The result group of unit `m` (R68, R74). -/
def State.showInterval (s : State) (m : Nat) (v : Int) (ord sub : Bool) : State :=
  ((((s.setI64 (TDC_IV_RES_LO m) (TDC_IV_RES_HI m) v).setb (TDC_IV_ORDER m) ord).setb (TDC_IV_SUBRES m) sub).set
    (TDC_IV_RESSEQB m) (s.get (TDC_IV_RESSEQA m) + 1)).set (TDC_IV_RESSEQA m) (s.get (TDC_IV_RESSEQA m) + 1)

section
variable (s : State) (m : Nat) (v : Int) (ord sub : Bool)

theorem State.get_showInterval_subres : (s.showInterval m v ord sub).get (TDC_IV_SUBRES m) = if sub then 1 else 0 := by
  simp (disch := simp only [Field.key, TDC_IV_SUBRES, TDC_IV_RESSEQA, TDC_IV_RESSEQB]; omega) only
    [State.showInterval, State.get_set_ne, State.get_setb_self]

theorem State.get_showInterval_order : (s.showInterval m v ord sub).get (TDC_IV_ORDER m) = if ord then 1 else 0 := by
  simp (disch := simp only [Field.key, TDC_IV_ORDER, TDC_IV_SUBRES, TDC_IV_RESSEQA, TDC_IV_RESSEQB]; omega) only
    [State.showInterval, State.get_set_ne, State.get_setb_ne, State.get_setb_self]

theorem State.get_showInterval_lo : (s.showInterval m v ord sub).get (TDC_IV_RES_LO m) = bits64 v % 2 ^ 32 := by
  simp (disch := simp only [Field.key, TDC_IV_RES_LO, TDC_IV_RES_HI, TDC_IV_ORDER, TDC_IV_SUBRES, TDC_IV_RESSEQA,
      TDC_IV_RESSEQB]; omega) only
    [State.showInterval, State.setI64, State.set64, State.get_set_ne, State.get_setb_ne, State.get_set_self]
  rfl

theorem State.get_showInterval_hi : (s.showInterval m v ord sub).get (TDC_IV_RES_HI m) = bits64 v / 2 ^ 32 := by
  have hfit : bits64 v / 2 ^ 32 % 2 ^ (TDC_IV_RES_HI m).width = bits64 v / 2 ^ 32 := by
    have := bits64_lt v
    have hw : (TDC_IV_RES_HI m).width = 32 := rfl
    rw [hw]
    omega
  rw [← hfit]
  simp (disch := simp only [Field.key, TDC_IV_RES_LO, TDC_IV_RES_HI, TDC_IV_ORDER, TDC_IV_SUBRES, TDC_IV_RESSEQA,
      TDC_IV_RESSEQB]; omega) only
    [State.showInterval, State.setI64, State.set64, State.get_set_ne, State.get_setb_ne, State.get_set_self]
  rfl

/-- The statistics flag of a unit is not in its result group. -/
theorem State.sten_showInterval : ((s.showInterval m v ord sub).ivCfg m).sten = (s.ivCfg m).sten := by
  have hunit : (s.showInterval m v ord sub).unit m = s.unit m := rfl
  have hget : (s.showInterval m v ord sub).get (TDC_IV_STEN m) = s.get (TDC_IV_STEN m) := by
    simp (disch := simp only [Field.key, TDC_IV_STEN, TDC_IV_RES_LO, TDC_IV_RES_HI, TDC_IV_ORDER, TDC_IV_SUBRES, TDC_IV_RESSEQA,
        TDC_IV_RESSEQB]; omega) only
      [State.showInterval, State.setI64, State.set64, State.get_set_ne, State.get_setb_ne]
  rw [State.ivCfg, State.ivCfg, hunit]
  cases (s.unit m).held with
  | some c => rfl
  | none => simp only [Option.getD_none, State.ivRegs, State.is, hget]
end

/-- The result of a start and a stop of a unit without statistics: 0 with SUBRES below 64, ORDER for a negative one. -/
theorem State.ivResult_eq_showInterval {s : State} {m : Nat} (h : (s.ivCfg m).sten = false) (t : Nat) (d : Int) :
    s.ivResult m t d true =
      s.showInterval m (if d.natAbs < 64 then 0 else d) (decide (64 ≤ d.natAbs ∧ d < 0)) (decide (d.natAbs < 64)) := by
  have hord : (true && !(true && decide (d.natAbs < 64)) && decide (d < 0)) = decide (64 ≤ d.natAbs ∧ d < 0) := by
    by_cases hsub : d.natAbs < 64
    · simp [hsub, Nat.not_le.mpr hsub]
    · simp [hsub, Nat.not_lt.mp hsub]
  have hshow := s.sten_showInterval m (if d.natAbs < 64 then 0 else d) (decide (64 ≤ d.natAbs ∧ d < 0)) (decide (d.natAbs < 64))
  unfold State.ivResult
  dsimp only
  rw [hord]
  simp only [Bool.true_and, decide_eq_true_eq]
  exact if_neg (by rw [← State.showInterval, hshow, h]; decide)

/-! ### The close of a statistics window (R71) -/

theorem exec_statsWindowClose (s : State) (e : Fin 40) : exec (.statsWindowClose e) s = .next (s.closeDue e) := by rfl

/-- A close within a run keeps the run and leaves the result for publication. -/
theorem State.closeWin_within_run (s : State) (e stop : Nat) :
    s.closeWin e stop false false = s.setEngine e { s.engine e with
      acc := { run := (s.engine e).acc.run }, due := none, closed := (s.engine e).closed ++ [(s.engine e).acc.result stop false] } := by
  rfl

theorem State.closeDue_of_due {s : State} {e b : Nat} (h : (s.engine e).due = some b) :
    s.closeDue e = s.closeWin e b false false := by
  rw [State.closeDue, h]

section
variable {s : State} {e win : Nat} (hdue : (s.engine e).due = none) (hcfg : s.engCfg e = (true, 0, win))
include hdue hcfg

/-- An engine that counts events closes its window when it holds its number. -/
theorem State.closeDue_of_full (hfull : win ≤ (s.engine e).acc.n) (hsome : 0 < (s.engine e).acc.n) :
    s.closeDue e = s.closeWin e (s.engine e).acc.tLast false false := by
  simp [State.closeDue, hdue, hcfg, hfull, hsome]

theorem State.closeDue_of_short (hshort : (s.engine e).acc.n < win) : s.closeDue e = s := by
  simp [State.closeDue, hdue, hcfg, Nat.not_le.mpr hshort]
end

/-! ### The publication collector (R75) -/

theorem exec_resultPublish (s : State) : exec .resultPublish s = .next s.publishNext := by rfl

/-- The order in which the publication collector looks at the engines. -/
def State.pubOrder (s : State) : List Nat := (List.range 40).map fun i => (s.tdc.pubRot + 1 + i) % 40

/-- The rotation meets each of the 40 engines. -/
theorem State.mem_pubOrder (s : State) (e : Nat) : e ∈ s.pubOrder ↔ e < 40 := by
  rw [State.pubOrder, List.mem_map]
  constructor
  · rintro ⟨i, -, rfl⟩
    exact Nat.mod_lt _ (by decide)
  · intro he
    refine ⟨(e + 39 * (s.tdc.pubRot + 1)) % 40, List.mem_range.mpr (Nat.mod_lt _ (by decide)), ?_⟩
    omega

/-- With nothing waiting the collector publishes nothing. -/
theorem State.publishNext_of_none {s : State} (h : ∀ e, e < 40 → (s.engine e).closed = []) : s.publishNext = s := by
  have hfind : s.pubOrder.find? (fun e => decide ((s.engine e).closed ≠ [])) = none := by
    rw [List.find?_eq_none]
    intro e he
    simp [h e ((s.mem_pubOrder e).mp he)]
  rw [State.publishNext, ← State.pubOrder, hfind]

/-- The only engine that waits is the next one of the rotation. -/
theorem State.next_waiting_of_only {s : State} {e : Nat} (he : e < 40) (hwait : (s.engine e).closed ≠ [])
    (honly : ∀ e', e' < 40 → e' ≠ e → (s.engine e').closed = []) :
    s.pubOrder.find? (fun e => decide ((s.engine e).closed ≠ [])) = some e := by
  have hsome : (s.pubOrder.find? fun e => decide ((s.engine e).closed ≠ [])).isSome := by
    rw [List.find?_isSome]
    exact ⟨e, (s.mem_pubOrder e).mpr he, decide_eq_true hwait⟩
  obtain ⟨x, hx⟩ := Option.isSome_iff_exists.mp hsome
  have hlt : x < 40 := (s.mem_pubOrder x).mp (List.mem_of_find?_eq_some hx)
  have hxw : (s.engine x).closed ≠ [] := by simpa using List.find?_some hx
  have hxe : x = e := Decidable.byContradiction fun hne => hxw (honly x hlt hne)
  rw [hx, hxe]

/-- The collector publishes the oldest result of the engine it comes to. -/
theorem State.publishNext_of_next {s : State} {e : Nat} {r : WinResult} {rs : List WinResult}
    (hnext : s.pubOrder.find? (fun e => decide ((s.engine e).closed ≠ [])) = some e) (hclosed : (s.engine e).closed = r :: rs) :
    s.publishNext = ((s.onTdc fun b => { b with pubRot := e }).setEngine e { s.engine e with closed := rs }).publishWin e r := by
  rw [State.publishNext, ← State.pubOrder, hnext]
  dsimp only
  rw [hclosed]

/-- Settles O17: POP, the interval result and its group, the closes of a window, and the publication collector. -/
theorem intervalWindowsAndQueues : Obligations.IntervalWindowsAndQueues := by
  refine ⟨?popEmpty, ?pop, ?pair, ?noStart, ?result, ?due, ?counted, ?nothing, ?publish⟩
  case popEmpty =>
    intro s k h
    rw [exec_eventQueuePop, State.queuePop_of_nil h]
  case pop =>
    intro s k r q h hlen
    have hq := s.queue_setQueue k q
    refine ⟨(s.setQueue k q).showQueue k, ?_, ?_, ?_, (s.setQueue k q).get_showQueue_seq k, ?_, ?_⟩
    · rw [exec_eventQueuePop, State.queuePop_of_cons h]
    · rw [State.showQueue_tdc]
      exact hq
    · rw [State.get_showQueue_level _ _ (by rw [hq]; omega), hq]
    · obtain ⟨f, hf⟩ := (s.setQueue k q).showQueue_registers k
      rw [hf]
      rfl
    · rintro h' q' rfl i hi
      exact State.get_showQueue_head _ _ hq hi
  case pair =>
    intro s u m t k ts hch hstart hreach w
    rw [exec_intervalResult, State.intervalResult_of_start hch hstart hreach]
    exact ⟨fun h => congrArg _ (State.pairStart_of_unpaired ts h), fun p h => congrArg _ (State.pairStart_of_paired ts h)⟩
  case noStart =>
    intro s m h
    rw [exec_intervalResult, State.intervalResult_of_none h]
  case result =>
    intro s m t d _ hsten
    rw [State.ivResult_eq_showInterval hsten, State.get_showInterval_subres, State.get_showInterval_order,
      State.get_showInterval_lo, State.get_showInterval_hi]
    refine ⟨by simp, by simp, fun hsub => ?_, fun hres hfit => ?_⟩
    · rw [if_pos hsub, bits64_zero]
      decide
    · rw [if_neg (Nat.not_lt.mpr hres), bits64_of_fits hfit]
      omega
  case due =>
    intro s e b h
    rw [exec_statsWindowClose, State.closeDue_of_due h, State.closeWin_within_run]
  case counted =>
    intro s e win hdue hcfg
    rw [exec_statsWindowClose]
    refine ⟨fun hfull hsome => ?_, fun hshort => ?_⟩
    · rw [State.closeDue_of_full hdue hcfg hfull hsome, State.closeWin_within_run]
    · rw [State.closeDue_of_short hdue hcfg hshort]
  case nothing =>
    intro s h
    rw [exec_resultPublish, State.publishNext_of_none h]
  case publish =>
    intro s e r rs he hclosed honly
    have hwait : (s.engine e).closed ≠ [] := by simp [hclosed]
    rw [exec_resultPublish, State.publishNext_of_next (State.next_waiting_of_only he hwait honly) hclosed]

end Sys2Proof.Machine
end

section
/-! PROOF. TDC self-calibration (R76 to R78): its triggers, the two tests of a run and the initial calibration. -/
namespace Sys2Proof.Machine

/-! ### Repeated actions -/

theorem State.forEach_zero (s : State) (f : State → Nat → State) : s.forEach 0 f = s := by rfl

theorem State.forEach_succ (s : State) (n : Nat) (f : State → Nat → State) : s.forEach (n + 1) f = f (s.forEach n f) n := by
  simp only [State.forEach, List.range_succ, List.foldl_append, List.foldl_cons, List.foldl_nil]

/-- What no round of a repeated action changes, the whole leaves. -/
theorem State.forEach_same {β : Type} (g : State → β) (s : State) (n : Nat) {f : State → Nat → State}
    (h : ∀ u i, i < n → g (f u i) = g u) : g (s.forEach n f) = g s := by
  induction n with
  | zero => rw [State.forEach_zero]
  | succ n ih => rw [State.forEach_succ, h _ _ (Nat.lt_succ_self n), ih fun u i hi => h u i (Nat.lt_succ_of_lt hi)]

/-- What only round `i` changes is what that round makes of it. -/
theorem State.forEach_at {β : Type} (g : State → β) (s : State) {i n : Nat} (hi : i < n) {f : State → Nat → State}
    (h : ∀ u j, j ≠ i → g (f u j) = g u) : g (s.forEach n f) = g (f (s.forEach i f) i) := by
  induction n with
  | zero => exact absurd hi (Nat.not_lt_zero i)
  | succ n ih =>
    rw [State.forEach_succ]
    by_cases hin : i = n
    · rw [hin]
    · rw [h _ _ (Ne.symm hin), ih (by omega)]

theorem State.forEach_drawn (s : State) (n : Nat) : (s.forEach n fun s _ => s.drawn) = { s with free := s.free + n } := by
  induction n with
  | zero => rfl
  | succ n ih => rw [State.forEach_succ, ih]; rfl

/-! ### The temperature of a sensor (R470) -/

/-- A number in the signed range of `k + 1` bits is what its two's complement reads as. -/
theorem toSigned_ofSigned {k : Nat} {i : Int} (hlo : -2 ^ k ≤ i) (hhi : i < 2 ^ k) :
    toSigned (k + 1) (ofSigned (k + 1) i % 2 ^ (k + 1)) = i := by
  have hpow : (2 : Int) ^ (k + 1) = 2 * 2 ^ k := by rw [Int.pow_succ, Int.mul_comm]
  have hpos : (0 : Int) < 2 ^ k := Int.pow_pos (by decide)
  have hmod : ((ofSigned (k + 1) i % 2 ^ (k + 1) : Nat) : Int) = i % (2 * 2 ^ k) := by
    have hnn : 0 ≤ i % (2 * 2 ^ k : Int) := Int.emod_nonneg _ (by omega)
    rw [ofSigned]
    push_cast
    rw [hpow, Int.toNat_of_nonneg hnn, Int.emod_emod]
  have hlt : ofSigned (k + 1) i % 2 ^ (k + 1) < 2 ^ k ↔ i % (2 * 2 ^ k) < 2 ^ k := by
    rw [← hmod]
    norm_cast
  rw [toSigned, Nat.add_sub_cancel, hmod, hpow]
  rcases Int.lt_or_le i 0 with hneg | hnn
  · have hrem : i % (2 * 2 ^ k : Int) = i + 2 * 2 ^ k := by
      rw [← Int.add_emod_right, Int.emod_eq_of_lt (by omega) (by omega)]
    rw [if_neg (by rw [hlt, hrem]; omega), hrem]
    omega
  · have hrem : i % (2 * 2 ^ k : Int) = i := Int.emod_eq_of_lt hnn (by omega)
    rw [if_pos (by rw [hlt, hrem]; exact hhi), hrem]

/-- A saturated number is in the signed range. -/
theorem satSigned_bounds (k : Nat) (i : Int) : -2 ^ k ≤ satSigned (k + 1) i ∧ satSigned (k + 1) i < 2 ^ k := by
  have hpos : (0 : Int) < 2 ^ k := Int.pow_pos (by decide)
  rw [satSigned, Nat.add_sub_cancel]
  omega

/-- A field set to a signed value reads it, saturated. -/
theorem State.geti_seti_self (s : State) (F : Field) (i : Int) : (s.seti F i).geti F = satSigned F.width i := by
  obtain ⟨hlo, hhi⟩ := satSigned_bounds (F.hi - F.lo) i
  rw [State.geti, State.seti, State.get_set_self]
  exact toSigned_ofSigned hlo hhi

section
variable (s : State) (d : Int)

theorem State.tempTake_tdc (i : Nat) : (s.tempTake i d).tdc = s.tdc := by
  rw [State.tempTake, State.seti_tdc, State.seti_tdc]

/-- The sensor's register reads the temperature. -/
theorem State.geti_tempTake (i : Nat) : (s.tempTake i d).geti (PM_TEMP_NOW i) = satSigned 16 d := by
  have hkey : (PM_TEMP_NOW i).key ≠ (PM_TEMP_MAX i).key := by
    simp only [Field.key, PM_TEMP_NOW, PM_TEMP_MAX]
    omega
  rw [State.tempTake, State.geti, State.get_seti_ne _ _ _ _ hkey, ← State.geti, State.geti_seti_self]
  rfl

/-- A field that is neither the sensor's reading nor its maximum stays. -/
theorem State.get_tempTake_ne {i : Nat} {F : Field} (hnow : F.key ≠ (PM_TEMP_NOW i).key) (hmax : F.key ≠ (PM_TEMP_MAX i).key) :
    (s.tempTake i d).get F = s.get F := by
  rw [State.tempTake, State.get_seti_ne _ _ _ _ hmax, State.get_seti_ne _ _ _ _ hnow]
end

/-! ### Triggers (R78) -/

theorem exec_tdcCalRunall (s : State) : exec .tdcCalRunall s = .next s.calRunAll := by rfl
theorem exec_tdcCalTempStep (s : State) (d : Int) : exec (.tdcCalTempStep d) s = .next (s.calTemp d) := by rfl
theorem exec_tdcCalPeriodDue (s : State) (n : Fin 32) : exec (.tdcCalPeriodDue n) s = .next (s.calPeriod n) := by rfl

theorem State.calPeriod_of_reached {s u : State} {n : Nat}
    (h : s.reachTick (1000000000 * s.get TDC_CAL_PERIOD + (s.ch n).lastCal) = some u) :
    s.calPeriod n = u.calTrigger fun u => u.calDue n := by
  rw [State.calPeriod, h]

section
variable {s : State} (h : s.awake = true ∧ s.is TDC_STATUS_CALDONE = true)
include h

theorem State.calTrigger_of_ready (f : State → State) : s.calTrigger f = (f s).nextRun := by
  simp [State.calTrigger, h]

theorem State.calRunAll_of_ready : s.calRunAll = ((s.forEach 32 State.calDue).set TDC_CAL_RUNALL 1).nextRun := by
  rw [State.calRunAll, if_pos h.1, State.calTrigger_of_ready h]

/-- A temperature is judged against TEMPSTEP and that of the last run, neither of which its own register touches. -/
theorem State.calTemp_of_ready (d : Int) : s.calTemp d =
    if 10 * s.get TDC_CAL_TEMPSTEP ≤ (d - s.tdc.calTemp).natAbs then ((s.tempTake 9 d).forEach 32 State.calDue).nextRun
    else s.tempTake 9 d := by
  have hstep : (s.tempTake 9 d).get TDC_CAL_TEMPSTEP = s.get TDC_CAL_TEMPSTEP := s.get_tempTake_ne d (by decide) (by decide)
  rw [State.calTemp, if_pos (by simp [h])]
  dsimp only
  rw [hstep, State.tempTake_tdc]
end

section
variable {s : State} (h : s.awake = false ∨ s.is TDC_STATUS_CALDONE = false)
include h

theorem State.calTrigger_of_not_ready (f : State → State) : s.calTrigger f = s := by
  rw [State.calTrigger, if_neg (by rcases h with h | h <;> simp [h])]

theorem State.calRunAll_of_not_ready : s.calRunAll = s := by
  rw [State.calRunAll, State.calTrigger_of_not_ready h, ite_self]

theorem State.calTemp_of_not_ready (d : Int) : s.calTemp d = s := by
  rw [State.calTemp, if_neg (by rcases h with h | h <;> simp [h])]
end

/-! ### The run in hand and its two tests (R76, R77) -/

theorem exec_codeDensityDone (s : State) (n : Fin 32) (e p : Nat) :
    exec (.codeDensityDone n e p) s = .next (s.codeDensity n e p) := by rfl
theorem exec_offsetMatchDone (s : State) (n : Fin 32) (x y : Int) :
    exec (.offsetMatchDone n x y) s = .next (s.offsetMatch n (x - y)) := by rfl

theorem State.running_of_run {s : State} {n : Nat} (hrun : s.is TDC_STATUS_CALRUN = true) (hch : s.get TDC_STATUS_CALCH = n) :
    s.running n = true := by
  simp [State.running, hrun, hch]

theorem State.running_of_no_run {s : State} {n : Nat} (h : s.is TDC_STATUS_CALRUN = false ∨ s.get TDC_STATUS_CALCH ≠ n) :
    s.running n = false := by
  rcases h with h | h <;> simp [State.running, h]

theorem State.codeDensity_of_no_run {s : State} {n : Nat} (h : s.running n = false) (e p : Nat) : s.codeDensity n e p = s := by
  rw [State.codeDensity, if_neg (by simp [h])]

theorem State.offsetMatch_of_no_run {s : State} {n : Nat} (h : s.running n = false) (d : Int) : s.offsetMatch n d = s := by
  cases htab : (s.ch n).runTable with
  | none => simp only [State.offsetMatch, htab]
  | some tab => simp [State.offsetMatch, htab, h]

section
variable {s : State} {n : Nat} (hrun : s.running n = true)
include hrun

section
variable (htab : (s.ch n).runTable = none) (e p : Nat)
include htab

/-- The code-density test judges the empty bins first and the INL peak second; one that passes yields a table. -/
theorem State.codeDensity_of_run : s.codeDensity n e p =
    let u := (s.setSat (TDC_CH_EMPTY n) e).setSat (TDC_CH_INLPEAK n) p
    if 0 < e then u.failRun n 1
    else if 16 < p then u.failRun n 2
    else (u.setCh n { s.ch n with runTable := some s.tdc.nextTable, matchFrom := s.tb.ticks, matched := 0 }).onTdc
      fun t => { t with nextTable := t.nextTable + 1 } := by
  rw [State.codeDensity, if_pos (by simp [hrun, htab])]
  rfl
end

section
variable {tab : Nat} (htab : (s.ch n).runTable = some tab) (d : Int)
include htab

theorem State.offsetMatch_of_events (hen : (s.chCfg n).en = true) (hm : 4096 ≤ (s.ch n).matched) :
    s.offsetMatch n d = s.matchDone n tab d := by
  simp [State.offsetMatch, htab, hrun, hen, hm]

/-- Short of 4,096 events of an enabled channel, offset matching ends at its time. -/
theorem State.offsetMatch_of_time {u : State} (hm : (s.chCfg n).en = true → (s.ch n).matched < 4096)
    (hreach : s.reachTick ((if (s.chCfg n).en = true then 64000000000 else 4100000) + (s.ch n).matchFrom) = some u) :
    s.offsetMatch n d = u.matchDone n tab d := by
  have hmore : ¬((s.chCfg n).en = true ∧ 4096 ≤ (s.ch n).matched) := fun h => Nat.not_le.mpr (hm h.1) h.2
  rw [State.offsetMatch, htab]
  dsimp only
  rw [if_neg (by simp [hrun]), if_neg hmore, hreach]
end
end

section
variable {s : State} {n tab : Nat} {d : Int}

theorem State.matchDone_of_few (hm : (s.ch n).matched < 16) (hen : (s.chCfg n).en = true) :
    s.matchDone n tab d = s.passRun n true := by
  rw [State.matchDone, if_pos ⟨hm, hen⟩]

section
variable (hm : 16 ≤ (s.ch n).matched ∨ (s.chCfg n).en = false)
include hm

theorem State.not_few_events : ¬((s.ch n).matched < 16 ∧ (s.chCfg n).en = true) := by
  rintro ⟨hfew, hen⟩
  rcases hm with hm | hm
  · omega
  · simp [hm] at hen

theorem State.matchDone_of_apart (hd : 50 * ns1 < d.natAbs * 1000) : s.matchDone n tab d = s.failRun n 3 := by
  rw [State.matchDone, if_neg (State.not_few_events hm), if_pos hd]

/-- A match that holds stores the run's table and the difference for the spare, and asks for the swap. -/
theorem State.matchDone_of_match (hd : d.natAbs * 1000 ≤ 50 * ns1) : s.matchDone n tab d =
    (s.setCh n (if s.get TDC_STATUS_CALIP = 0 then
        { s.ch n with tables := (tab, (s.ch n).tables.2), offsets := (d, (s.ch n).offsets.2), swap := true }
      else { s.ch n with tables := ((s.ch n).tables.1, tab), offsets := ((s.ch n).offsets.1, d), swap := true })).passRun n false := by
  rw [State.matchDone, if_neg (State.not_few_events hm), if_neg (Nat.not_lt.mpr hd)]
end
end

/-! ### The initial calibration (R78) -/

theorem exec_tdcInitialCalDone (s : State) : exec .tdcInitialCalDone s = .next s.initialCalDone := by rfl

theorem State.initialCalDone_of_due {s : State} (haw : s.awake = true) (hmode : s.mode ≠ .boot)
    (hdone : s.is TDC_STATUS_CALDONE = false) :
    s.initialCalDone = State.initialCal { s with free := s.free + 192 } s.calDraws := by
  rw [State.initialCalDone, if_pos (by simp [haw, hmode, hdone]), State.forEach_drawn]

theorem State.initialCalDone_of_not_due {s : State}
    (h : s.mode = .boot ∨ s.awake = false ∨ s.is TDC_STATUS_CALDONE = true) : s.initialCalDone = s := by
  rw [State.initialCalDone, if_neg (by rcases h with h | h | h <;> simp [h])]

/-- The reason of a code-density test that fails (R77), or 0. -/
def densityFault (empty peak : Nat) : Nat := if 0 < empty then 1 else if 16 < peak then 2 else 0

/-- The reason for which the interpolators IP0 and IP1 of a channel fail, or 0; offset matching is that of IP1. -/
def CalIn.fault0 (c : CalIn) : Nat := densityFault c.empty.1 c.peak.1
def CalIn.fault1 (c : CalIn) : Nat :=
  if densityFault c.empty.2 c.peak.2 ≠ 0 then densityFault c.empty.2 c.peak.2
  else if 50 * ns1 < c.diff.natAbs * 1000 then 3 else 0

/-- A channel after its initial calibration: an interpolator without a fault has its new table. -/
def TdcCh.calibratedBy (h : TdcCh) (c : CalIn) (tab ticks : Nat) : TdcCh :=
  { h with
    tables := (if c.fault0 = 0 then tab else h.tables.1, if c.fault1 = 0 then tab + 1 else h.tables.2)
    offsets := (0, if c.fault1 = 0 then c.diff else 0), calibrated := true, lastCal := ticks }

/-- The report of a fault of interpolator `ip`. -/
def State.reportFault (s : State) (n ip why peak : Nat) : State :=
  if why = 0 then s
  else (s.set TDC_CALFAIL_FAIL (s.get TDC_CALFAIL_FAIL ||| 2 ^ n)).event 0x0402 2 (n + ip * 32 + why * 256 + satU 16 peak * 65536)

/-- The initial calibration of one channel: its tables and offsets, its registers, then the reports of its faults. -/
theorem State.calFirst_eq (s : State) (n tab : Nat) (c : CalIn) : s.calFirst n tab c =
    (((((s.setCh n ((s.ch n).calibratedBy c tab s.tb.ticks)).set (TDC_CH_ACTIVEIP n) 0).setSat (TDC_CH_EMPTY n) c.empty.2).setSat
      (TDC_CH_INLPEAK n) c.peak.2).reportFault n 0 c.fault0 c.peak.1).reportFault n 1 c.fault1 c.peak.2 := by rfl

section
variable (s : State) (n ip why peak : Nat)

theorem State.reportFault_tdc : (s.reportFault n ip why peak).tdc = s.tdc := by
  unfold State.reportFault
  split
  · rfl
  · rw [State.event_tdc, State.set_tdc]

theorem State.reportFault_tb : (s.reportFault n ip why peak).tb = s.tb := by
  unfold State.reportFault
  split
  · rfl
  · rw [State.event_tb, State.set_tb]

/-- A report touches the fail flags and the registers of events. -/
theorem State.get_reportFault {F : Field} (hfail : F.key ≠ TDC_CALFAIL_FAIL.key) (hdrop : F.key ≠ SYS_EVTDROP_DROP.key)
    (hirq : F.key ≠ SYS_IRQSTAT_SRC.key) : (s.reportFault n ip why peak).get F = s.get F := by
  unfold State.reportFault
  split
  · rfl
  · rw [State.get_event _ _ _ _ _ hdrop hirq, State.get_set_ne _ _ _ _ hfail]
end

theorem State.ch_setCh_self (s : State) (n : Nat) (h : TdcCh) : (s.setCh n h).ch n = h := SMap.get_set_self _ _ _ _

theorem State.ch_setCh_ne (s : State) {n m : Nat} (h : TdcCh) (hne : m ≠ n) : (s.setCh n h).ch m = s.ch m :=
  SMap.get_set_ne _ _ _ _ _ hne

section
variable (s : State) (n tab : Nat) (c : CalIn)

theorem State.calFirst_tdc : (s.calFirst n tab c).tdc = (s.setCh n ((s.ch n).calibratedBy c tab s.tb.ticks)).tdc := by
  rw [State.calFirst_eq, State.reportFault_tdc, State.reportFault_tdc, State.setSat_tdc, State.setSat_tdc, State.set_tdc]

theorem State.calFirst_tb : (s.calFirst n tab c).tb = s.tb := by
  rw [State.calFirst_eq, State.reportFault_tb, State.reportFault_tb, State.setSat_tb, State.setSat_tb, State.set_tb]
  rfl

theorem State.ch_calFirst_self : (s.calFirst n tab c).ch n = (s.ch n).calibratedBy c tab s.tb.ticks := by
  rw [State.ch, State.calFirst_tdc, ← State.ch, State.ch_setCh_self]

theorem State.ch_calFirst_ne {m : Nat} (hne : m ≠ n) : (s.calFirst n tab c).ch m = s.ch m := by
  rw [State.ch, State.calFirst_tdc, ← State.ch, State.ch_setCh_ne _ _ hne]

/-- A register that is none of the channel's calibration registers, the fail flags and the registers of events stays. -/
theorem State.get_calFirst_ne {F : Field} (hip : F.key ≠ (TDC_CH_ACTIVEIP n).key) (hempty : F.key ≠ (TDC_CH_EMPTY n).key)
    (hpeak : F.key ≠ (TDC_CH_INLPEAK n).key) (hfail : F.key ≠ TDC_CALFAIL_FAIL.key) (hdrop : F.key ≠ SYS_EVTDROP_DROP.key)
    (hirq : F.key ≠ SYS_IRQSTAT_SRC.key) : (s.calFirst n tab c).get F = s.get F := by
  rw [State.calFirst_eq, State.get_reportFault _ _ _ _ _ hfail hdrop hirq, State.get_reportFault _ _ _ _ _ hfail hdrop hirq,
    State.get_setSat_ne _ _ _ _ hpeak, State.get_setSat_ne _ _ _ _ hempty, State.get_set_ne _ _ _ _ hip]
  rfl

/-- IP0 is active after it. -/
theorem State.get_calFirst_activeip (hn : n < 32) : (s.calFirst n tab c).get (TDC_CH_ACTIVEIP n) = 0 := by
  have hfail : (TDC_CH_ACTIVEIP n).key ≠ TDC_CALFAIL_FAIL.key := by
    simp only [Field.key, TDC_CH_ACTIVEIP, TDC_CALFAIL_FAIL]
    omega
  have hdrop : (TDC_CH_ACTIVEIP n).key ≠ SYS_EVTDROP_DROP.key := by
    simp only [Field.key, TDC_CH_ACTIVEIP, SYS_EVTDROP_DROP]
    omega
  have hirq : (TDC_CH_ACTIVEIP n).key ≠ SYS_IRQSTAT_SRC.key := by
    simp only [Field.key, TDC_CH_ACTIVEIP, SYS_IRQSTAT_SRC]
    omega
  rw [State.calFirst_eq, State.get_reportFault _ _ _ _ _ hfail hdrop hirq, State.get_reportFault _ _ _ _ _ hfail hdrop hirq]
  simp (disch := simp only [Field.key, TDC_CH_ACTIVEIP, TDC_CH_EMPTY, TDC_CH_INLPEAK]; omega) only
    [State.get_setSat_ne, State.get_set_self, Nat.zero_mod]
end

/-- The initial calibration of the channels below `k`. -/
def State.calChannels (s : State) (cs : List CalIn) (k : Nat) : State :=
  s.forEach k fun u n => u.calFirst n (s.tdc.nextTable + 2 * n) (cs.getD n {})

theorem State.initialCal_eq (s : State) (cs : List CalIn) : s.initialCal cs =
    ((s.calChannels cs 32).onTdc fun t => { t with
      nextTable := s.tdc.nextTable + 64, calTemp := (s.calChannels cs 32).geti (PM_TEMP_NOW 9) }).set TDC_STATUS_CALDONE 1 := by
  rfl

section
variable (s : State) (cs : List CalIn)

theorem State.calChannels_tb (k : Nat) : (s.calChannels cs k).tb = s.tb :=
  State.forEach_same (fun u => u.tb) s k fun u i _ => u.calFirst_tb i _ _

/-- The chiplet's temperature is not touched. -/
theorem State.get_calChannels_temp (k : Nat) : (s.calChannels cs k).get (PM_TEMP_NOW 9) = s.get (PM_TEMP_NOW 9) := by
  apply State.forEach_same (fun u => u.get (PM_TEMP_NOW 9))
  intro u i _
  apply State.get_calFirst_ne <;>
  · simp only [Field.key, PM_TEMP_NOW, TDC_CH_ACTIVEIP, TDC_CH_EMPTY, TDC_CH_INLPEAK, TDC_CALFAIL_FAIL, SYS_EVTDROP_DROP,
      SYS_IRQSTAT_SRC]
    omega

/-- A channel is not touched before its turn. -/
theorem State.ch_calChannels_before (n : Nat) : (s.calChannels cs n).ch n = s.ch n :=
  State.forEach_same (fun u => u.ch n) s n fun u i hi => u.ch_calFirst_ne i _ _ (Nat.ne_of_gt hi)

variable {n : Nat} (hn : n < 32)
include hn

/-- Each channel is calibrated once, with its own measurement and tables. -/
theorem State.ch_calChannels : (s.calChannels cs 32).ch n =
    (s.ch n).calibratedBy (cs.getD n {}) (s.tdc.nextTable + 2 * n) s.tb.ticks := by
  rw [State.calChannels, State.forEach_at (fun u => u.ch n) s hn fun u i hi => u.ch_calFirst_ne i _ _ hi.symm,
    ← State.calChannels, State.ch_calFirst_self, State.ch_calChannels_before, State.calChannels_tb]

theorem State.get_calChannels_activeip : (s.calChannels cs 32).get (TDC_CH_ACTIVEIP n) = 0 := by
  rw [State.calChannels, State.forEach_at (fun u => u.get (TDC_CH_ACTIVEIP n)) s hn]
  · exact State.get_calFirst_activeip _ _ _ _ hn
  · intro u i hi
    apply State.get_calFirst_ne <;>
    · simp only [Field.key, TDC_CH_ACTIVEIP, TDC_CH_EMPTY, TDC_CH_INLPEAK, TDC_CALFAIL_FAIL, SYS_EVTDROP_DROP,
        SYS_IRQSTAT_SRC]
      omega
end

/-! ### What the calibration makes of a channel -/

section
variable (h : TdcCh) {c : CalIn} (tab ticks : Nat)

/-- Both interpolators of a channel without a fault take their new tables, IP1 with the matched offset. -/
theorem TdcCh.calibratedBy_of_no_fault (hempty : c.empty = (0, 0)) (hpeak0 : c.peak.1 ≤ 16) (hpeak1 : c.peak.2 ≤ 16)
    (hdiff : c.diff.natAbs * 1000 ≤ 50 * ns1) :
    (h.calibratedBy c tab ticks).tables = (tab, tab + 1) ∧ (h.calibratedBy c tab ticks).offsets = (0, c.diff) := by
  have h0 : c.fault0 = 0 := by simp [CalIn.fault0, densityFault, hempty, hpeak0]
  have h1 : c.fault1 = 0 := by
    rw [CalIn.fault1, densityFault, hempty, if_neg (Nat.lt_irrefl 0), if_neg (Nat.not_lt.mpr hpeak1), if_neg (by decide),
      if_neg (Nat.not_lt.mpr hdiff)]
  simp [TdcCh.calibratedBy, h0, h1]

/-- An empty bin of IP0 leaves its table. -/
theorem TdcCh.calibratedBy_of_empty (hempty : 0 < c.empty.1) : (h.calibratedBy c tab ticks).tables.1 = h.tables.1 := by
  have h0 : c.fault0 ≠ 0 := by simp [CalIn.fault0, densityFault, hempty]
  exact if_neg h0

/-- A difference above 50 ps leaves the table and the offset of IP1. -/
theorem TdcCh.calibratedBy_of_apart (hdiff : 50 * ns1 < c.diff.natAbs * 1000) :
    (h.calibratedBy c tab ticks).tables.2 = h.tables.2 ∧ (h.calibratedBy c tab ticks).offsets = (0, 0) := by
  have h1 : c.fault1 ≠ 0 := by
    rw [CalIn.fault1, if_pos hdiff]
    split
    · assumption
    · decide
  exact ⟨if_neg h1, congrArg _ (if_neg h1)⟩
end

section
variable (s : State) (cs : List CalIn)

theorem State.get_initialCal_caldone : (s.initialCal cs).get TDC_STATUS_CALDONE = 1 := by
  rw [State.initialCal_eq, State.get_set_self]
  rfl

theorem State.nextTable_initialCal : (s.initialCal cs).tdc.nextTable = s.tdc.nextTable + 64 := by
  rw [State.initialCal_eq, State.set_tdc, State.onTdc_tdc]

theorem State.calTemp_initialCal : (s.initialCal cs).tdc.calTemp = s.geti (PM_TEMP_NOW 9) := by
  rw [State.initialCal_eq, State.set_tdc, State.onTdc_tdc, State.geti, State.get_calChannels_temp, ← State.geti]

variable {n : Nat} (hn : n < 32)
include hn

theorem State.ch_initialCal : (s.initialCal cs).ch n =
    (s.ch n).calibratedBy (cs.getD n {}) (s.tdc.nextTable + 2 * n) s.tb.ticks := by
  rw [← s.ch_calChannels cs hn, State.initialCal_eq, State.ch, State.set_tdc, State.onTdc_tdc, State.ch]

theorem State.get_initialCal_activeip : (s.initialCal cs).get (TDC_CH_ACTIVEIP n) = 0 := by
  have hdone : (TDC_CH_ACTIVEIP n).key ≠ TDC_STATUS_CALDONE.key := by
    simp only [Field.key, TDC_CH_ACTIVEIP, TDC_STATUS_CALDONE]
    omega
  rw [State.initialCal_eq, State.get_set_ne _ _ _ _ hdone, State.get_onTdc, s.get_calChannels_activeip cs hn]
end

/-- Settles O18: the triggers, the two tests of a run, and the initial calibration channel by channel. -/
theorem tdcCalibrationRunsAndJudges : Obligations.TdcCalibrationRunsAndJudges := by
  unfold Obligations.TdcCalibrationRunsAndJudges
  intro due
  refine ⟨?ready, ?temperature, ?period, ?notReady, ?density, ?noRun, ?offsets, ?judged, ?initial, ?channels, ?notInitial⟩
  case ready =>
    intro s haw hdone
    refine ⟨?_, fun d => ⟨fun hd => ?_, fun hd => ?_⟩⟩
    · rw [exec_tdcCalRunall, State.calRunAll_of_ready ⟨haw, hdone⟩]
      rfl
    · rw [exec_tdcCalTempStep, State.calTemp_of_ready ⟨haw, hdone⟩, if_pos hd]
      rfl
    · rw [exec_tdcCalTempStep, State.calTemp_of_ready ⟨haw, hdone⟩, if_neg (Nat.not_le.mpr hd)]
  case temperature =>
    intro s d
    refine ⟨s.geti_tempTake d 9, fun i hi => s.get_tempTake_ne d ?_ ?_, s.tempTake_tdc d 9⟩ <;>
    · simp only [Field.key, PM_TEMP_NOW, PM_TEMP_MAX]
      omega
  case period =>
    intro s u n h
    rw [exec_tdcCalPeriodDue, State.calPeriod_of_reached h]
    exact ⟨fun haw hdone => congrArg _ (State.calTrigger_of_ready ⟨haw, hdone⟩ _),
      fun hoff => congrArg _ (State.calTrigger_of_not_ready hoff _)⟩
  case notReady =>
    intro s h
    rw [exec_tdcCalRunall, State.calRunAll_of_not_ready h]
    refine ⟨rfl, fun d => ?_⟩
    rw [exec_tdcCalTempStep, State.calTemp_of_not_ready h]
  case density =>
    intro s n e p hrun hch htab u
    rw [exec_codeDensityDone, State.codeDensity_of_run (State.running_of_run hrun hch) htab]
    refine ⟨fun he => ?_, fun he hp => ?_, fun he hp => ?_⟩
    · rw [if_pos he]
    · rw [if_neg (by omega), if_pos hp]
    · rw [if_neg (by omega), if_neg (by omega)]
  case noRun =>
    intro s n e p h
    have hno := State.running_of_no_run h
    rw [exec_codeDensityDone, State.codeDensity_of_no_run hno]
    refine ⟨rfl, fun x y => ?_⟩
    rw [exec_offsetMatchDone, State.offsetMatch_of_no_run hno]
  case offsets =>
    intro s n tab x y hrun hch htab
    have hr := State.running_of_run hrun hch
    rw [exec_offsetMatchDone]
    refine ⟨fun hen hm => ?_, fun u hen hm hreach => ?_, fun u hen hreach => ?_⟩
    · rw [State.offsetMatch_of_events hr htab _ hen hm]
    · rw [State.offsetMatch_of_time hr htab _ (fun _ => hm) (by rw [if_pos hen, hreach])]
    · rw [State.offsetMatch_of_time hr htab _ (by simp [hen]) (by rw [hen, if_neg (by decide), hreach])]
  case judged =>
    intro s n tab d
    refine ⟨State.matchDone_of_few, State.matchDone_of_apart, fun hm hd hip => ?_, fun hm hd hip => ?_⟩
    · rw [State.matchDone_of_match hm hd, if_pos hip]
    · rw [State.matchDone_of_match hm hd, if_neg (by omega)]
  case initial =>
    intro s haw hmode hdone
    rw [exec_tdcInitialCalDone, State.initialCalDone_of_due haw hmode hdone]
  case channels =>
    intro s cs t
    refine ⟨s.get_initialCal_caldone cs, s.nextTable_initialCal cs, s.calTemp_initialCal cs, fun n hn => ?_⟩
    rw [s.ch_initialCal cs hn]
    refine ⟨rfl, rfl, s.get_initialCal_activeip cs hn, ?_, ?_, ?_⟩
    · exact TdcCh.calibratedBy_of_no_fault _ _ _
    · exact TdcCh.calibratedBy_of_empty _ _ _
    · exact TdcCh.calibratedBy_of_apart _ _ _
  case notInitial =>
    intro s h
    rw [exec_tdcInitialCalDone, State.initialCalDone_of_not_due h]

end Sys2Proof.Machine
end

section
/-! PROOF. The bytes of a number, and the routine of a service engine (R219, R234): it waits, or it runs in its turn. -/
namespace Sys2Proof.Machine

/-! ### Bytes of a number -/

@[simp] theorem length_beBytes (n v : Nat) : (beBytes n v).length = n := by
  induction n generalizing v with
  | zero => rfl
  | succ n ih => rw [beBytes, List.length_append, ih, List.length_singleton]

theorem beNat_snoc (l : List Byte) (b : Byte) : beNat (l ++ [b]) = beNat l * 256 + b.toNat := by
  rw [beNat, List.foldl_append, List.foldl_cons, List.foldl_nil, beNat]

/-- Reading `n` bytes of a number gives the number modulo 2^(8 n). -/
theorem beNat_beBytes (n v : Nat) : beNat (beBytes n v) = v % 256 ^ n := by
  induction n generalizing v with
  | zero => rw [Nat.pow_zero, Nat.mod_one]; rfl
  | succ n ih => 
    rw [beBytes, beNat_snoc, ih, Nat.pow_succ', Nat.mod_mul, BitVec.toNat_ofNat]
    omega

theorem length_slice {p : List Byte} {o n : Nat} (h : o + n ≤ p.length) : (slice p o n).length = n := by
  rw [slice, List.length_take, List.length_drop]
  omega

/-- A request of at least 48 bytes has a transmit timestamp. -/
theorem length_transmit {p : List Byte} (h : 48 ≤ p.length) : (slice p 40 8).length = 8 := length_slice h

/-- The part between two others starts where the first ends. -/
theorem slice_of_append {a b c : List Byte} {o n : Nat} (ha : a.length = o) (hb : b.length = n) :
    slice (a ++ b ++ c) o n = b := by
  rw [slice, List.append_assoc, ← ha, List.drop_left, ← hb, List.take_left]

/-! ### The routine of an engine (R219, R234) -/

section
variable {s : State} {g : Eng} {k : Nat}

theorem State.routine_of_no_request (f : Req → State) (h : (s.eng g).req = none ∨ ∃ r, (s.eng g).req = some r ∧ r.part ≠ k) :
    s.routine g k f = s := by
  rcases h with hreq | ⟨r, hreq, hpart⟩
  · rw [State.routine, hreq]
  · simp [State.routine, hreq, hpart]

variable {r : Req} (hreq : (s.eng g).req = some r) (hpart : r.part = k)
include hreq hpart

theorem State.routine_of_waiting (f : Req → State) (h : s.credit g.c r.port = false ∨ s.inTurn r = false) :
    s.routine g k f = s.onEng g fun x => { x with wait := 9 } := by
  have hwait : ¬(s.credit g.c r.port && s.inTurn r) = true := by rcases h with h | h <;> simp [h]
  simp only [State.routine, hreq, if_neg (not_not_intro hpart), if_neg hwait]

theorem State.routine_of_turn (f : Req → State) (hcredit : s.credit g.c r.port = true) (hturn : s.inTurn r = true) :
    s.routine g k f = (f r).worked g k := by
  simp [State.routine, hreq, hpart, hcredit, hturn]
end

end Sys2Proof.Machine
end

section
/-! PROOF. The NTP server (R246, R247, R253, R254): the checks of a request, the rate decision, and the two headers. -/
namespace Sys2Proof.Machine

/-! ### An NTP request (R246, R253) -/

theorem exec_ntpRequest (s : State) (g : Eng) (e : Ecc) : exec (.ntpRequest g e) s = .next (s.ntpRequest g e) := by rfl

section
variable {s : State} {g : Eng} {e : Ecc} {r : Req} (hreq : (s.eng g).req = some r) (hpart : r.part = 2)
  (hcredit : s.credit g.c r.port = true) (hturn : s.inTurn r = true)
include hreq hpart hcredit hturn

/-- A request is dropped uncounted while NTP is off, or when it is not UDP. -/
theorem State.ntpRequest_of_dropped (h : s.is NTP_CFG_EN = false ∨ reqUdp r = none) :
    s.ntpRequest g e = (s.dropReq g).worked g 2 := by
  rw [State.ntpRequest, State.routine_of_turn hreq hpart _ hcredit hturn]
  rcases h with hen | hudp
  · simp [hen]
  · simp [hudp]

variable {ip : Ip} {p : List Byte} (hen : s.is NTP_CFG_EN = true) (hudp : reqUdp r = some (ip, p))
include hen hudp

/-- A request that fails a check counts it; that of a control mode is noted as well. -/
theorem State.ntpRequest_of_failed {F : Field} (hcheck : ntpCheck ip (beNat (slice r.bytes ip.l4 2)) p = some F) :
    s.ntpRequest g e =
      let t := (s.bump NTP_CNT_REQ 1).bump F 1
      ((if F = NTP_CNT_MODE6 then t.noteSec 0x4003 0 else if F = NTP_CNT_MODE7 then t.noteSec (0x4003 + 65536) 0 else t).dropReq
        g).worked g 2 := by
  rw [State.ntpRequest, State.routine_of_turn hreq hpart _ hcredit hturn]
  simp [hen, hudp, hcheck]

variable {v : State} (hcheck : ntpCheck ip (beNat (slice r.bytes ip.l4 2)) p = none)
include hcheck

theorem State.ntpRequest_of_drop (hrate : (s.bump NTP_CNT_REQ 1).rateDecide g 2 ip e = (v, .drop)) :
    s.ntpRequest g e = (((v.bump NTP_CNT_RATEDROP 1).noteSec (0x4002 + 65536) 0).dropReq g).worked g 2 := by
  rw [State.ntpRequest, State.routine_of_turn hreq hpart _ hcredit hturn]
  simp [hen, hudp, hcheck, hrate]

theorem State.ntpRequest_of_kod (hrate : (s.bump NTP_CNT_REQ 1).rateDecide g 2 ip e = (v, .kod)) :
    s.ntpRequest g e =
      let f := v.udpReply r (v.get NTP_CFG_TTL) (v.get NTP_IPCFG_DSCP) (v.kodHeader p 0x52415445)
      ((((v.sendFrame g r r.port 2 f.1 {} none).bump NTP_CNT_KOD 1).noteSec 0x4002 0).done g).worked g 2 := by
  rw [State.ntpRequest, State.routine_of_turn hreq hpart _ hcredit hturn]
  simp [hen, hudp, hcheck, hrate]

theorem State.ntpRequest_of_answer (hrate : (s.bump NTP_CNT_REQ 1).rateDecide g 2 ip e = (v, .answer)) :
    s.ntpRequest g e =
      let f := v.udpReply r (v.get NTP_CFG_TTL) (v.get NTP_IPCFG_DSCP) (v.ntpHeader r p 0)
      let w := v.sendFrame g r r.port 2 f.1 { op := 1, ofs := f.2 + 40, csum := true } none
      let w := if 48 < p.length then w.bump NTP_CNT_EXTIGN 1 else w
      (((w.bump NTP_CNT_RESP 1).bump (versionCount (beNat (p.take 1) / 8 % 8)) 1).done g).worked g 2 := by
  rw [State.ntpRequest, State.routine_of_turn hreq hpart _ hcredit hturn]
  simp [hen, hudp, hcheck, hrate]
end

/-! ### The rate decision (R253) -/

theorem State.rateDecide_of_unlimited {s : State} {k : Nat} (h : s.is NTP_RATE_EN = false ∨ s.get FAB_RATE_OWNER ≠ k) (g : Eng)
    (ip : Ip) (e : Ecc) : s.rateDecide g k ip e = (s, .answer) := by
  unfold State.rateDecide
  rw [if_pos (by rcases h with h | h <;> simp [h])]

section
variable {s : State} {k : Nat} (hen : s.is NTP_RATE_EN = true) (howner : s.get FAB_RATE_OWNER = k)
include hen howner

theorem State.rate_limited_of_owner : ¬(!s.is NTP_RATE_EN || decide (s.get FAB_RATE_OWNER ≠ k)) = true := by
  simp [hen, howner]

/-- A clean call compares the estimate with the two thresholds. -/
theorem State.rateDecide_clean (g : Eng) (ip : Ip) : s.rateDecide g k ip .clean =
    let r := s.rate (rateKey ip) 1
    if r.2 ≤ s.get NTP_KODTHR_THR then (r.1, .answer)
    else if r.2 ≤ s.get NTP_DROPTHR_THR then (r.1, .kod)
    else (r.1, .drop) := by
  unfold State.rateDecide
  rw [if_neg (State.rate_limited_of_owner hen howner)]
  rfl

/-- A corrected error is counted before the call, which then counts as a clean one. -/
theorem State.rateDecide_corrected (g : Eng) (ip : Ip) :
    s.rateDecide g k ip .corrected = (s.bump FAB_ECC_CORR 1).rateDecide g k ip .clean := by
  have hen' : (s.bump FAB_ECC_CORR 1).is NTP_RATE_EN = true := by
    rw [State.is, State.get_bump_ne _ _ _ _ (by decide)]
    exact hen
  have howner' : (s.bump FAB_ECC_CORR 1).get FAB_RATE_OWNER = k := by
    rw [State.get_bump_ne _ _ _ _ (by decide), howner]
  rw [State.rateDecide_clean hen' howner']
  unfold State.rateDecide
  rw [if_neg (State.rate_limited_of_owner hen howner)]
  rfl

/-- A call that meets an uncorrectable error is counted and answered; the first one of the partition also raises an event. -/
theorem State.rateDecide_broken (g : Eng) (ip : Ip) (w : Fin 4) : s.rateDecide g k ip (.broken w) =
    let t := ((s.rateCall g (rateKey ip) 1 (.broken w)).onEng g fun x => { x with results := [] }).bump NTP_CNT_RATEERR 1
    if t.ntp.rateErr then (t, .answer) else ((t.onNtp fun n => { n with rateErr := true }).event 0x4004 2 0, .answer) := by
  rw [State.rateDecide, if_neg (State.rate_limited_of_owner hen howner)]
end

/-! ### The RATE call leaves the services' own state -/

theorem State.setEng_ntp (s : State) (g : Eng) (x : Engine) : (s.setEng g x).ntp = s.ntp := by rfl
theorem State.onEng_ntp (s : State) (g : Eng) (f : Engine → Engine) : (s.onEng g f).ntp = s.ntp := by rfl
theorem State.answer_ntp (s : State) (g : Eng) (u : Nat) (ok : Bool) (d : List Byte) : (s.answer g u ok d).ntp = s.ntp := by rfl

theorem State.ran_ntp (s : State) (g : Eng) (c : Nat) : (s.ran g c).ntp = s.ntp := by
  unfold State.ran
  split
  · rfl
  · dsimp only
    split <;> simp only [State.onPerf_ntp, State.perfEv_ntp]

/-- A call of a unit leaves that state where the unit does. -/
theorem State.onCall_ntp (s : State) (g : Eng) (u : Nat) {f : State → State} (hf : ∀ t, (f t).ntp = t.ntp) :
    (s.onCall g u f).ntp = s.ntp := by
  unfold State.onCall State.onRun
  split
  · dsimp only
    split
    · exact State.setEng_ntp _ _ _
    · rw [hf, State.ran_ntp]
  · rfl

theorem State.rateCall_broken_ntp (s : State) (g : Eng) (key w : Nat) (r : Fin 4) :
    (s.rateCall g key w (.broken r)).ntp = s.ntp := by
  refine State.onCall_ntp s g 4 fun t => ?_
  dsimp only
  split
  · rw [State.answer_ntp, State.perfEv_ntp]
  · rw [State.answer_ntp, State.event_ntp, State.bump_ntp, State.onFab_ntp, State.perfEv_ntp]

/-! ### The headers (R247, R254) -/

/-- The server header: 24 bytes of quality fields, the client's transmit timestamp, the receive and the transmit timestamp. -/
theorem State.ntpHeader_parts (s : State) (r : Req) (p : List Byte) (tx : Nat) : ∃ quality rx : List Byte,
    s.ntpHeader r p tx = quality ++ slice p 40 8 ++ (rx ++ beBytes 8 tx) ∧ quality.length = 24 ∧ rx.length = 8 := by
  refine ⟨_, _, List.append_assoc _ _ _, ?_, length_beBytes 8 _⟩
  simp only [List.length_append, length_beBytes]

theorem State.length_ntpHeader (s : State) (r : Req) {p : List Byte} (tx : Nat) (h : 48 ≤ p.length) :
    (s.ntpHeader r p tx).length = 48 := by
  obtain ⟨quality, rx, heq, hquality, hrx⟩ := s.ntpHeader_parts r p tx
  simp only [heq, List.length_append, length_beBytes, hquality, hrx, length_transmit h]

theorem State.length_kodHeader (s : State) {p : List Byte} (id : Nat) (h : 48 ≤ p.length) : (s.kodHeader p id).length = 48 := by
  simp only [State.kodHeader, List.length_append, List.length_singleton, length_beBytes, length_transmit h]

/-- Origin is the client's transmit timestamp. -/
theorem State.slice_ntpHeader_origin (s : State) (r : Req) {p : List Byte} (tx : Nat) (h : 48 ≤ p.length) :
    slice (s.ntpHeader r p tx) 24 8 = slice p 40 8 := by
  obtain ⟨quality, rx, heq, hquality, -⟩ := s.ntpHeader_parts r p tx
  rw [heq, slice_of_append hquality (length_transmit h)]

theorem State.slice_ntpHeader_transmit (s : State) (r : Req) {p : List Byte} (tx : Nat) (h : 48 ≤ p.length) :
    slice (s.ntpHeader r p tx) 40 8 = beBytes 8 tx := by
  obtain ⟨quality, rx, heq, hquality, hrx⟩ := s.ntpHeader_parts r p tx
  have hlen : (quality ++ slice p 40 8 ++ rx).length = 40 := by
    simp only [List.length_append, hquality, hrx, length_transmit h]
  have hlast := slice_of_append (c := []) hlen (length_beBytes 8 tx)
  rwa [List.append_nil, List.append_assoc, ← heq] at hlast

/-- Settles O36: the routine's waits and drops, the checks, the three rate decisions and what they send, and the headers. -/
theorem ntpRequestsAreAnswered : Obligations.NtpRequestsAreAnswered := by
  refine ⟨?noRequest, ?waits, ?dropped, ?served, ?unlimited, ?limited, ?lengths, ?stamps⟩
  case noRequest =>
    intro s g e h
    rw [exec_ntpRequest, State.ntpRequest, State.routine_of_no_request _ h]
  case waits =>
    intro s g e r hreq hpart h
    rw [exec_ntpRequest, State.ntpRequest, State.routine_of_waiting hreq hpart _ h]
  case dropped =>
    intro s g e r hreq hpart hcredit hturn h
    rw [exec_ntpRequest, State.ntpRequest_of_dropped hreq hpart hcredit hturn h]
  case served =>
    intro s g e r ip p hreq hpart hcredit hturn hen hudp u
    rw [exec_ntpRequest]
    refine ⟨fun F hcheck h6 h7 => ?_, fun hcheck => ?_, fun hcheck => ?_, fun hcheck v => ⟨fun h => ?_, fun h => ?_, fun h => ?_⟩⟩
    · rw [State.ntpRequest_of_failed hreq hpart hcredit hturn hen hudp hcheck]
      dsimp only
      rw [if_neg h6, if_neg h7]
    · rw [State.ntpRequest_of_failed hreq hpart hcredit hturn hen hudp hcheck]
      dsimp only
      rw [if_pos rfl]
    · rw [State.ntpRequest_of_failed hreq hpart hcredit hturn hen hudp hcheck]
      dsimp only
      rw [if_neg (by decide), if_pos rfl]
    · rw [State.ntpRequest_of_drop hreq hpart hcredit hturn hen hudp hcheck h]
    · rw [State.ntpRequest_of_kod hreq hpart hcredit hturn hen hudp hcheck h]
    · rw [State.ntpRequest_of_answer hreq hpart hcredit hturn hen hudp hcheck h]
  case unlimited => exact fun s g k ip e h => State.rateDecide_of_unlimited h g ip e
  case limited =>
    intro s g k ip hen howner r
    rw [State.rateDecide_clean hen howner]
    refine ⟨fun h => if_pos h, fun hkod hdrop => ?_, fun hkod hdrop => ?_, State.rateDecide_corrected hen howner g ip, fun w => ?_⟩
    · rw [if_neg (Nat.not_le.mpr hkod), if_pos hdrop]
    · rw [if_neg (Nat.not_le.mpr hkod), if_neg (Nat.not_le.mpr hdrop)]
    · rw [State.rateDecide_broken hen howner]
      dsimp only
      rw [State.bump_ntp, State.onEng_ntp, State.rateCall_broken_ntp]
      exact ⟨by split <;> rfl, fun herr => by rw [if_pos herr]⟩
  case lengths => exact fun s r p tx id h => ⟨s.length_ntpHeader r tx h, s.length_kodHeader id h⟩
  case stamps =>
    intro s r p tx h
    rw [s.slice_ntpHeader_origin r tx h, s.slice_ntpHeader_transmit r tx h, beNat_beBytes]
    exact ⟨rfl, rfl⟩

end Sys2Proof.Machine
end

section
/-! PROOF. The master keys of NTS (R260 to R263) and NTS-protected requests (R264 to R267): what loading and emptying a
slot leave, the draw of a generation, its adoption, rotation, and the cases of a request. -/
namespace Sys2Proof.Machine

/-! ### One bit of a field -/

theorem State.bit_setBit_true (s : State) {F : Field} {i : Nat} (hi : i < F.width) : (s.setBit F i true).bit F i = true := by
  simp [State.bit, State.setBit, Nat.testBit_mod_two_pow, hi]

theorem State.bit_setBit_false (s : State) (F : Field) (i : Nat) : (s.setBit F i false).bit F i = false := by
  by_cases hi : i < F.width <;> simp [State.bit, State.setBit, Nat.testBit_mod_two_pow, Nat.testBit_two_pow_sub_one, hi]

theorem State.get_setBit_ne (s : State) {F G : Field} (i : Nat) (b : Bool) (h : G.key ≠ F.key) :
    (s.setBit F i b).get G = s.get G := State.get_set_ne s F G _ h

/-! ### Loading and emptying a slot (R261) -/

/-- A field that belongs neither to the key-store entries of the master keys nor to what shows their slots, but for VALID. -/
def Field.OffSlots (F : Field) : Prop :=
  F.key ≠ NTS_KEYSTAT_REPL.key ∧ ∀ slot < 4, F.key ≠ (NTS_KEYDIG_DIGEST slot).key ∧ F.key ≠ (SYS_KEY_TYPE (16 + slot)).key ∧
    F.key ≠ (SYS_KEY_CLASS (16 + slot)).key ∧ F.key ≠ (SYS_KEY_USERS (16 + slot)).key ∧ F.key ≠ (SYS_KEY_DIGEST (16 + slot)).key

theorem Field.offSlots_valid : NTS_KEYSTAT_VALID.OffSlots := by unfold Field.OffSlots; decide
theorem Field.offSlots_gen : NTS_KEYGEN_GEN.OffSlots := by unfold Field.OffSlots; decide
theorem Field.offSlots_curslot : NTS_KEYSTAT_CURSLOT.OffSlots := by unfold Field.OffSlots; decide
theorem Field.offSlots_pair : SYS_MODE_PAIR.OffSlots := by unfold Field.OffSlots; decide
theorem Field.offSlots_copyfail : TB_STATUS_COPYFAIL.OffSlots := by unfold Field.OffSlots; decide
theorem Field.offSlots_failedcopy : TB_STATUS_FAILEDCOPY.OffSlots := by unfold Field.OffSlots; decide

/-- The clusters' slots are a matter of the fabric alone. -/
theorem State.fillSlots_same {β : Type} (v : State → β) (hfab : ∀ u f, v (State.onFab u f) = v u) (s : State) (slot key : Nat) :
    v (s.fillSlots slot key) = v s := by
  refine State.forEach_same v s 32 fun u c _ => ?_
  split
  · exact hfab u _
  · rfl

theorem State.get_putKey {F : Field} (h : F.OffSlots) (s : State) {slot : Nat} (hslot : slot < 4) (type cls users value : Nat) :
    (s.putKey (16 + slot) type cls users value).get F = s.get F := by
  obtain ⟨-, htype, hcls, husers, hdigest⟩ := h.2 slot hslot
  rw [State.putKey, State.get_set_ne _ _ _ _ hdigest, State.get_set_ne _ _ _ _ husers, State.get_set_ne _ _ _ _ hcls,
    State.get_set_ne _ _ _ _ htype, State.get_onBoot]

theorem State.dropKey_ntp (s : State) (i : Nat) : (s.dropKey i).ntp = s.ntp := by
  simp only [State.dropKey, State.set_ntp, State.onBoot_ntp]

theorem State.get_dropKey {F : Field} (h : F.OffSlots) (s : State) {slot : Nat} (hslot : slot < 4) :
    (s.dropKey (16 + slot)).get F = s.get F := by
  obtain ⟨-, htype, hcls, husers, hdigest⟩ := h.2 slot hslot
  rw [State.dropKey, State.get_set_ne _ _ _ _ hdigest, State.get_set_ne _ _ _ _ husers, State.get_set_ne _ _ _ _ hcls,
    State.get_set_ne _ _ _ _ htype, State.get_onBoot]

section
variable (s : State) (gen key : Nat) (b : Bool)

/-- Of the other registers a load changes the slot's VALID bit alone. -/
theorem State.get_installGen {F : Field} (h : F.OffSlots) :
    (s.installGen gen key b).get F = (s.setBit NTS_KEYSTAT_VALID (gen % 4) true).get F := by
  have hslot : gen % 4 < 4 := Nat.mod_lt _ (by decide)
  rw [State.installGen, State.fillSlots_same (·.get F) fun u f => State.get_onFab u f F, State.get_set_ne _ _ _ _ (h.2 _ hslot).1,
    State.get_putKey h _ hslot, State.get_setBit_ne _ _ _ h.1]
  exact State.get_congr (by rfl) F

theorem State.installGen_ntp : (s.installGen gen key b).ntp =
    { s.ntp with keys := SMap.set (0, 0) s.ntp.keys (gen % 4) (gen, key), next := some gen } := by
  rw [State.installGen, State.fillSlots_same State.ntp State.onFab_ntp]
  rfl

/-- A load concerns the registers, the services' state, the key store and the fabric alone. -/
theorem State.installGen_same {β : Type} (v : State → β) (hset : ∀ u F n, v (State.set u F n) = v u)
    (hntp : ∀ u f, v (State.onNtp u f) = v u) (hboot : ∀ u f, v (State.onBoot u f) = v u)
    (hfab : ∀ u f, v (State.onFab u f) = v u) : v (s.installGen gen key b) = v s := by
  rw [State.installGen, State.fillSlots_same v hfab]
  simp only [State.putKey, State.setBit, hset, hntp, hboot]

/-- The slot holds the generation, and its key is found there. -/
theorem State.genKey_eq_of_slot {t : State} (hvalid : t.bit NTS_KEYSTAT_VALID (gen % 4) = true)
    (hkeys : SMap.get (0, 0) t.ntp.keys (gen % 4) = (gen, key)) : t.genKey gen = some key := by
  simp [State.genKey, State.keySlot, hvalid, hkeys]

variable {slot : Nat} (hslot : slot < 4)
include hslot

theorem State.get_zeroSlot {F : Field} (h : F.OffSlots) :
    (s.zeroSlot slot).get F = (s.setBit NTS_KEYSTAT_VALID slot false).get F := by
  rw [State.zeroSlot, State.get_dropKey h _ hslot, State.fillSlots_same (·.get F) fun u f => State.get_onFab u f F,
    State.get_set_ne _ _ _ _ (h.2 _ hslot).1, State.get_setBit_ne _ _ _ h.1]
  exact State.get_congr (by rfl) F

theorem State.get_zeroSlot_ne {F : Field} (h : F.OffSlots) (hvalid : F.key ≠ NTS_KEYSTAT_VALID.key) :
    (s.zeroSlot slot).get F = s.get F := by
  rw [State.get_zeroSlot s hslot h, State.get_setBit_ne _ _ _ hvalid]

/-- An emptied slot holds no generation. -/
theorem State.bit_zeroSlot : (s.zeroSlot slot).bit NTS_KEYSTAT_VALID slot = false := by
  rw [State.bit, State.get_zeroSlot s hslot Field.offSlots_valid]
  exact State.bit_setBit_false s _ _

omit hslot in
theorem State.zeroSlot_ntp : (s.zeroSlot slot).ntp = { s.ntp with keys := SMap.set (0, 0) s.ntp.keys slot (0, 0) } := by
  rw [State.zeroSlot, State.dropKey_ntp, State.fillSlots_same State.ntp State.onFab_ntp]
  rfl
end

/-! ### The draw of a generation (R261) -/

theorem exec_keyGenerationDraw (s : State) : exec .keyGenerationDraw s = .next s.genDraw := by rfl

section
variable (s : State) (gen sec : Nat)

/-- A draw is a load of the random key, with its second; in a pair it is also queued for the partner. -/
theorem State.drawGen_same {β : Type} (v : State → β) (hlease : ∀ u f, v (State.onLease u f) = v u) :
    v (s.drawGen gen sec) =
      v (((s.rand 256).2.installGen gen (s.random 256) false).onNtp fun n => { n with nextAt := sec }) := by
  unfold State.drawGen
  dsimp only
  split
  · exact hlease _ _
  · rfl

theorem State.get_drawGen {F : Field} (h : F.OffSlots) :
    (s.drawGen gen sec).get F = (s.setBit NTS_KEYSTAT_VALID (gen % 4) true).get F := by
  rw [State.drawGen_same s gen sec (·.get F) fun u f => State.get_onLease u f F, State.get_onNtp, State.get_installGen _ _ _ _ h]
  exact State.get_congr (by rfl) F

theorem State.get_drawGen_ne {F : Field} (h : F.OffSlots) (hvalid : F.key ≠ NTS_KEYSTAT_VALID.key) :
    (s.drawGen gen sec).get F = s.get F := by
  rw [State.get_drawGen s gen sec h, State.get_setBit_ne _ _ _ hvalid]

theorem State.bit_drawGen : (s.drawGen gen sec).bit NTS_KEYSTAT_VALID (gen % 4) = true := by
  rw [State.bit, State.get_drawGen s gen sec Field.offSlots_valid]
  exact State.bit_setBit_true s (Nat.mod_lt _ (by decide))

theorem State.drawGen_ntp : (s.drawGen gen sec).ntp =
    { s.ntp with keys := SMap.set (0, 0) s.ntp.keys (gen % 4) (gen, s.random 256), next := some gen, nextAt := sec } := by
  rw [State.drawGen_same s gen sec State.ntp State.onLease_ntp, State.onNtp_ntp, State.installGen_ntp]
  rfl

theorem State.drawGen_tb : (s.drawGen gen sec).tb = s.tb := by
  rw [State.drawGen_same s gen sec State.tb State.onLease_tb, State.onNtp_tb,
    State.installGen_same _ _ _ _ State.tb State.set_tb State.onNtp_tb State.onBoot_tb State.onFab_tb]
  rfl

theorem State.drawGen_mac : (s.drawGen gen sec).mac = s.mac := by
  rw [State.drawGen_same s gen sec State.mac State.onLease_mac, State.onNtp_mac,
    State.installGen_same _ _ _ _ State.mac State.set_mac State.onNtp_mac State.onBoot_mac State.onFab_mac]
  rfl

theorem State.drawGen_free : (s.drawGen gen sec).free = s.free + 1 := by
  rw [State.drawGen_same s gen sec State.free State.onLease_free, State.onNtp_free,
    State.installGen_same _ _ _ _ State.free State.set_free State.onNtp_free State.onBoot_free State.onFab_free]
  rfl

theorem State.drawGen_now : (s.drawGen gen sec).now = s.now :=
  State.now_congr (s.drawGen_tb gen sec) (s.get_drawGen_ne gen sec Field.offSlots_copyfail (by decide))
    (s.get_drawGen_ne gen sec Field.offSlots_failedcopy (by decide))

/-- In a pair the generation is queued for the partner. -/
theorem State.drawGen_repl (h : s.is SYS_MODE_PAIR = true) : (s.drawGen gen sec).lease.repl = s.lease.repl ++ [.nts gen] := by
  have hpair : (((s.rand 256).2.installGen gen (s.rand 256).1 false).onNtp fun n => { n with nextAt := sec }).is SYS_MODE_PAIR = true := by
    rw [State.is, State.get_onNtp, State.get_installGen _ _ _ _ Field.offSlots_pair, State.get_setBit_ne _ _ _ (by decide)]
    exact h
  rw [State.drawGen, if_pos hpair, State.onLease_lease]
  dsimp only
  rw [State.onNtp_lease, State.installGen_same _ _ _ _ State.lease State.set_lease State.onNtp_lease State.onBoot_lease State.onFab_lease]
  rfl
end

theorem State.genDraw_of_not_due {s : State} (h : s.serviceOn = false ∨ s.makesKeys = false ∨ s.ntp.next.isSome = true ∨
    instSec s.now % 3600 < 3540 ∨ s.ntp.drawHour = some (instSec s.now / 3600)) : s.genDraw = s := by
  unfold State.genDraw
  dsimp only
  rw [if_neg]
  rcases h with h | h | h | h | h
  · simp [h]
  · simp [h]
  · obtain ⟨gen, hgen⟩ := Option.isSome_iff_exists.mp h
    simp [hgen]
  · simp [Nat.not_le.mpr h]
  · simp [h]

theorem State.genDraw_of_due {s : State} (hon : s.serviceOn = true) (hmakes : s.makesKeys = true) (hnext : s.ntp.next = none)
    (hlast : 3540 ≤ instSec s.now % 3600) (hhour : s.ntp.drawHour ≠ some (instSec s.now / 3600)) : s.genDraw =
      (s.drawGen ((s.get NTS_KEYGEN_GEN + 1) % 2 ^ 32) ((instSec s.now / 3600 + 1) * 3600)).onNtp fun n =>
        { n with drawHour := some (instSec s.now / 3600) } := by
  unfold State.genDraw
  dsimp only
  rw [if_pos]
  simp [hon, hmakes, hnext, hlast, hhour]

/-! ### A generation becomes current (R261, R263) -/

theorem exec_keyGenerationCurrent (s : State) : exec .keyGenerationCurrent s = .next s.genCurrent := by rfl

theorem State.genCurrent_of_off {s : State} (h : s.serviceOn = false) : s.genCurrent = s := by
  simp [State.genCurrent, h]

section
variable {s : State} (hon : s.serviceOn = true)
include hon

theorem State.genCurrent_of_waiting {gen : Nat} (hnext : s.ntp.next = some gen) :
    s.genCurrent = if s.ntp.nextAt ≤ instSec s.now then s.makeCurrent gen else s := by
  simp [State.genCurrent, hon, hnext]

theorem State.genCurrent_of_none (hnext : s.ntp.next = none) : s.genCurrent =
    if s.makesKeys = false ∧ s.get NTS_KEYSTAT_VALID ≠ 0 ∧ s.ntp.hour < instSec s.now / 3600 then
      s.makeCurrent ((s.get NTS_KEYGEN_GEN + 1) % 2 ^ 32)
    else s := by
  simp [State.genCurrent, hon, hnext]
end

section
variable (s : State) (gen : Nat)

/-- The new generation shows, and the slot of the one after it is empty. -/
theorem State.get_adoptGen {F : Field} (h : F.OffSlots) (hvalid : F.key ≠ NTS_KEYSTAT_VALID.key)
    (hrotate : F.key ≠ NTS_ROTATE_ROTATE.key) :
    (s.adoptGen gen).get F = ((s.set NTS_KEYGEN_GEN gen).set NTS_KEYSTAT_CURSLOT (gen % 4)).get F := by
  rw [State.adoptGen, State.get_set_ne _ _ _ _ hrotate, State.get_zeroSlot_ne _ (Nat.mod_lt _ (by decide)) h hvalid, State.get_onNtp]

theorem State.makeCurrent_ntp : (s.makeCurrent gen).ntp =
    { s.ntp with next := none, hour := instSec s.now / 3600, keys := SMap.set (0, 0) s.ntp.keys ((gen + 1) % 4) (0, 0) } := by
  rw [State.makeCurrent, State.event_ntp, State.adoptGen, State.set_ntp, State.zeroSlot_ntp, State.onNtp_ntp,
    State.now_set _ _ _ (by decide) (by decide), State.now_set _ _ _ (by decide) (by decide)]
  rfl

theorem State.keySlot_makeCurrent : (s.makeCurrent gen).keySlot ((gen + 1) % 4) = none := by
  have hempty : (s.makeCurrent gen).bit NTS_KEYSTAT_VALID ((gen + 1) % 4) = false := by
    rw [State.makeCurrent, State.bit, State.get_event _ _ _ _ _ (by decide) (by decide), State.adoptGen,
      State.get_set_ne _ _ _ _ (by decide)]
    exact State.bit_zeroSlot _ (Nat.mod_lt _ (by decide))
  simp [State.keySlot, hempty]

theorem State.get_makeCurrent_rotate : (s.makeCurrent gen).get NTS_ROTATE_ROTATE = 0 := by
  rw [State.makeCurrent, State.get_event _ _ _ _ _ (by decide) (by decide), State.adoptGen, State.get_set_self]
  rfl

theorem State.get_makeCurrent_curslot : (s.makeCurrent gen).get NTS_KEYSTAT_CURSLOT = gen % 4 := by
  rw [State.makeCurrent, State.get_event _ _ _ _ _ (by decide) (by decide),
    State.get_adoptGen _ _ Field.offSlots_curslot (by decide) (by decide), State.get_set_self]
  exact Nat.mod_eq_of_lt (Nat.mod_lt _ (by decide))

theorem State.get_makeCurrent_gen {gen : Nat} (h : gen < 2 ^ 32) : (s.makeCurrent gen).get NTS_KEYGEN_GEN = gen := by
  rw [State.makeCurrent, State.get_event _ _ _ _ _ (by decide) (by decide),
    State.get_adoptGen _ _ Field.offSlots_gen (by decide) (by decide), State.get_set_ne _ _ _ _ (by decide), State.get_set_self]
  exact Nat.mod_eq_of_lt h
end

/-! ### Rotation (R262) -/

theorem exec_ntsRotate (s : State) : exec .ntsRotate s = .next s.ntsRotate := by rfl

theorem State.ntsRotate_of_off {s : State} (h : s.serviceOn = false) : s.ntsRotate = s := by
  simp [State.ntsRotate, h]

theorem State.ntsRotate_of_refused {s : State} (hon : s.serviceOn = true) (h : s.makesKeys = false) :
    s.ntsRotate = s.set NTS_ROTATE_STATUS 2 := by
  simp [State.ntsRotate, hon, h]

/-- The state with the generation that a rotation makes current: the one that waits, or one drawn for it. -/
def State.rotateGen (s : State) : State := if s.ntp.next.isSome then s else s.drawGen ((s.get NTS_KEYGEN_GEN + 1) % 2 ^ 32) 0

theorem State.ntsRotate_of_made {s : State} (hon : s.serviceOn = true) (h : s.makesKeys = true) : s.ntsRotate =
    ((s.rotateGen.onNtp fun n => { n with nextAt := instSec s.rotateGen.now + 1 }).set NTS_ROTATE_STATUS 1).set NTS_ROTATE_ROTATE 1 := by
  simp [State.ntsRotate, State.rotateGen, hon, h]

theorem State.rotateGen_next (s : State) : s.rotateGen.ntp.next.isSome = true := by
  unfold State.rotateGen
  split
  · assumption
  · rw [State.drawGen_ntp]; rfl

theorem State.rotateGen_now (s : State) : s.rotateGen.now = s.now := by
  unfold State.rotateGen
  split
  · rfl
  · exact s.drawGen_now _ _

theorem State.get_rotateGen_gen (s : State) : s.rotateGen.get NTS_KEYGEN_GEN = s.get NTS_KEYGEN_GEN := by
  unfold State.rotateGen
  split
  · rfl
  · exact s.get_drawGen_ne _ _ Field.offSlots_gen (by decide)

/-! ### An NTS-protected request (R264 to R267) -/

theorem exec_ntsRequest (s : State) (g : Eng) (e : Ecc) (phase : Nat) :
    exec (.ntsRequest g e phase) s = .next (s.ntsRequest g e phase) := by rfl

section
variable {s : State} {g : Eng} {e : Ecc} {phase : Nat} {r : Req} (hreq : (s.eng g).req = some r) (hpart : r.part = 3)
  (hcredit : s.credit g.c r.port = true) (hturn : s.inTurn r = true)
include hreq hpart hcredit hturn

/-- A request is dropped uncounted while NTS is off, or when it is not UDP. -/
theorem State.ntsRequest_of_dropped (h : s.is NTS_CFG_EN = false ∨ reqUdp r = none) :
    s.ntsRequest g e phase = (s.dropReq g).worked g 3 := by
  rw [State.ntsRequest, State.routine_of_turn hreq hpart _ hcredit hturn]
  rcases h with hen | hudp
  · simp [hen]
  · simp [hudp]

variable {ip : Ip} {p : List Byte} (hen : s.is NTS_CFG_EN = true) (hudp : reqUdp r = some (ip, p))
include hen hudp

theorem State.ntsRequest_of_length (h : p.length < 48 ∨ (p.length - 48) % 4 ≠ 0) :
    s.ntsRequest g e phase = (((s.bump NTS_CNT_REQ 1).bump NTS_CNT_MALFORMED 1).dropReq g).worked g 3 := by
  rw [State.ntsRequest, State.routine_of_turn hreq hpart _ hcredit hturn]
  simp only [hen, hudp, if_pos h, Bool.not_true, Bool.false_eq_true, if_false]

variable (hlong : 48 ≤ p.length) (hfour : (p.length - 48) % 4 = 0)
include hlong hfour

omit hreq hpart hcredit hturn hen hudp in
theorem not_bad_nts_length : ¬(p.length < 48 ∨ (p.length - 48) % 4 ≠ 0) := by omega

theorem State.ntsRequest_of_badSource (h : badSource ip (beNat (slice r.bytes ip.l4 2)) = true) :
    s.ntsRequest g e phase = (((s.bump NTS_CNT_REQ 1).bump NTS_CNT_BADSRC 1).dropReq g).worked g 3 := by
  rw [State.ntsRequest, State.routine_of_turn hreq hpart _ hcredit hturn]
  simp [hen, hudp, not_bad_nts_length hlong hfour, h]

variable (hsrc : badSource ip (beNat (slice r.bytes ip.l4 2)) = false)
include hsrc

/-- Only a client request of version 4 goes on. -/
theorem State.ntsRequest_of_header (h : beNat (p.take 1) / 8 % 8 ≠ 4 ∨ beNat (p.take 1) % 8 ≠ 3) :
    s.ntsRequest g e phase = (((s.bump NTS_CNT_REQ 1).bump NTS_CNT_MALFORMED 1).dropReq g).worked g 3 := by
  rw [State.ntsRequest, State.routine_of_turn hreq hpart _ hcredit hturn]
  simp only [hen, hudp, if_neg (not_bad_nts_length hlong hfour), hsrc, if_pos h, Bool.not_true, Bool.false_eq_true, if_false]

variable (hversion : beNat (p.take 1) / 8 % 8 = 4) (hmode : beNat (p.take 1) % 8 = 3)
include hversion hmode

theorem State.ntsRequest_of_no_parts (h : ntsParts p = none) :
    s.ntsRequest g e phase = (((s.bump NTS_CNT_REQ 1).bump NTS_CNT_MALFORMED 1).dropReq g).worked g 3 := by
  rw [State.ntsRequest, State.routine_of_turn hreq hpart _ hcredit hturn]
  simp [hen, hudp, not_bad_nts_length hlong hfour, hsrc, hversion, hmode, h]

variable {x : NtsParts} (hparts : ntsParts p = some x)
include hparts

/-- A cookie that names no accepted generation gets a NAK. -/
theorem State.ntsRequest_of_unaccepted
    (h : x.cookie.length ≠ 104 ∨ (s.bump NTS_CNT_REQ 1).accepted (beNat (x.cookie.take 4)) = false) :
    s.ntsRequest g e phase = ((s.bump NTS_CNT_REQ 1).ntsNak g r p x.uid NTS_CNT_NAK_KEY 0).worked g 3 := by
  rw [State.ntsRequest, State.routine_of_turn hreq hpart _ hcredit hturn]
  simp [hen, hudp, not_bad_nts_length hlong hfour, hsrc, hversion, hmode, hparts, h]

variable (hcookie : x.cookie.length = 104) (haccepted : (s.bump NTS_CNT_REQ 1).accepted (beNat (x.cookie.take 4)) = true)
include hcookie haccepted

/-- A cookie that does not open gets a NAK. -/
theorem State.ntsRequest_of_unopened (h : (s.bump NTS_CNT_REQ 1).openCookie x.cookie = none) :
    s.ntsRequest g e phase = ((s.bump NTS_CNT_REQ 1).ntsNak g r p x.uid NTS_CNT_NAK_COOKIE 1).worked g 3 := by
  rw [State.ntsRequest, State.routine_of_turn hreq hpart _ hcredit hturn]
  simp [hen, hudp, not_bad_nts_length hlong hfour, hsrc, hversion, hmode, hparts, hcookie, haccepted, h]

variable {keys : List Byte × List Byte} (hopen : (s.bump NTS_CNT_REQ 1).openCookie x.cookie = some keys)
include hopen

/-- A request whose authenticator fails gets a NAK. -/
theorem State.ntsRequest_of_unauthentic (h : Config.sivOpen keys.1 [p.take x.authAt, x.nonce] x.ct = none) :
    s.ntsRequest g e phase = ((s.bump NTS_CNT_REQ 1).ntsNak g r p x.uid NTS_CNT_NAK_AUTH 2).worked g 3 := by
  rw [State.ntsRequest, State.routine_of_turn hreq hpart _ hcredit hturn]
  simp [hen, hudp, not_bad_nts_length hlong hfour, hsrc, hversion, hmode, hparts, hcookie, haccepted, hopen, h]

variable {m : List Byte} (hauth : Config.sivOpen keys.1 [p.take x.authAt, x.nonce] x.ct = some m) {v : State}
include hauth

theorem State.ntsRequest_of_drop (h : (s.bump NTS_CNT_REQ 1).rateDecide g 3 ip e = (v, .drop)) :
    s.ntsRequest g e phase = ((v.bump NTS_CNT_RATEDROP 1).dropReq g).worked g 3 := by
  rw [State.ntsRequest, State.routine_of_turn hreq hpart _ hcredit hturn]
  simp [hen, hudp, not_bad_nts_length hlong hfour, hsrc, hversion, hmode, hparts, hcookie, haccepted, hopen, hauth, h]

/-- A request that the rate decision lets through is answered, with RATE where it says so. -/
theorem State.ntsRequest_of_served {d : RateDecision} (hd : d ≠ .drop)
    (h : (s.bump NTS_CNT_REQ 1).rateDecide g 3 ip e = (v, d)) :
    s.ntsRequest g e phase = (v.ntsAnswer g r p x keys (decide (d = .kod)) phase).worked g 3 := by
  rw [State.ntsRequest, State.routine_of_turn hreq hpart _ hcredit hturn]
  cases d with
  | drop => exact absurd rfl hd
  | kod => simp [hen, hudp, not_bad_nts_length hlong hfour, hsrc, hversion, hmode, hparts, hcookie, haccepted, hopen, hauth, h]
  | answer => simp [hen, hudp, not_bad_nts_length hlong hfour, hsrc, hversion, hmode, hparts, hcookie, haccepted, hopen, hauth, h]
end

/-- Settles O37: the draw, the change of the current generation, rotation, and the cases of a protected request. -/
theorem ntsKeysAreDrawnRotatedAndUsed : Obligations.NtsKeysAreDrawnRotatedAndUsed := by
  refine ⟨?notDue, ?draw, ?off, ?waiting, ?schedule, ?current, ?refused, ?rotate, ?noRequest, ?waits, ?served⟩
  case notDue =>
    intro s sec h
    rw [exec_keyGenerationDraw, State.genDraw_of_not_due h]
  case draw =>
    intro s sec hon hmakes hnext hlast hhour gen
    refine ⟨_, s.random 256, by rw [exec_keyGenerationDraw, State.genDraw_of_due hon hmakes hnext hlast hhour], ?_⟩
    have hkeys : SMap.get (0, 0) (s.drawGen gen ((sec / 3600 + 1) * 3600)).ntp.keys (gen % 4) = (gen, s.random 256) := by
      rw [State.drawGen_ntp]
      exact SMap.get_set_self _ _ _ _
    have hgen := State.genKey_eq_of_slot gen (s.random 256) (s.bit_drawGen gen ((sec / 3600 + 1) * 3600)) hkeys
    refine ⟨?_, hkeys, Nat.mod_lt _ (Nat.two_pow_pos _), hgen, ?_, rfl, ?_, s.drawGen_free _ _, fun hpair => s.drawGen_repl _ _ hpair,
      s.drawGen_tb _ _, s.drawGen_mac _ _⟩
    · rw [State.onNtp_ntp, State.drawGen_ntp]
    · rw [State.onNtp_ntp, State.drawGen_ntp]
    · rw [State.get_onNtp, s.get_drawGen_ne _ _ Field.offSlots_gen (by decide)]
  case off =>
    intro s h
    rw [exec_keyGenerationCurrent, exec_ntsRotate, State.genCurrent_of_off h, State.ntsRotate_of_off h]
    exact ⟨rfl, rfl⟩
  case waiting =>
    intro s gen hon hnext
    rw [exec_keyGenerationCurrent, State.genCurrent_of_waiting hon hnext]
    exact ⟨fun h => by rw [if_neg (Nat.not_le.mpr h)], fun h => by rw [if_pos h]⟩
  case schedule =>
    intro s hon hnext
    rw [exec_keyGenerationCurrent, State.genCurrent_of_none hon hnext]
    refine ⟨fun h => ?_, fun hmakes hvalid hhour => by rw [if_pos ⟨hmakes, hvalid, hhour⟩]⟩
    rw [if_neg]
    rintro ⟨hmakes, hvalid, hhour⟩
    rcases h with h | h | h
    · simp [hmakes] at h
    · exact hvalid h
    · omega
  case current =>
    intro s gen hgen t
    have hne : gen % 4 ≠ (gen + 1) % 4 := by omega
    refine ⟨s.get_makeCurrent_gen hgen, s.get_makeCurrent_curslot gen, ?_, ?_, s.keySlot_makeCurrent gen, ?_,
      s.get_makeCurrent_rotate gen⟩
    · rw [State.makeCurrent_ntp]
    · rw [State.makeCurrent_ntp]
    · rw [State.makeCurrent_ntp]
      exact SMap.get_set_ne (0, 0) s.ntp.keys _ (0, 0) _ hne
  case refused =>
    intro s hon h
    rw [exec_ntsRotate, State.ntsRotate_of_refused hon h]
  case rotate =>
    intro s hon h
    rw [exec_ntsRotate, State.ntsRotate_of_made hon h]
    refine ⟨_, rfl, ?_, ?_, ?_, ?_, ?_⟩
    · rw [State.set_ntp, State.set_ntp, State.onNtp_ntp]
      exact s.rotateGen_next
    · rw [State.get_set_self]; rfl
    · rw [State.get_set_ne _ _ _ _ (by decide), State.get_set_self]; rfl
    · rw [State.get_set_ne _ _ _ _ (by decide), State.get_set_ne _ _ _ _ (by decide), State.get_onNtp, s.get_rotateGen_gen]
    · rw [State.set_ntp, State.set_ntp, State.onNtp_ntp, s.rotateGen_now]
  case noRequest =>
    intro s g e tB h
    rw [exec_ntsRequest, State.ntsRequest, State.routine_of_no_request _ h]
  case waits =>
    intro s g e tB r hreq hpart
    rw [exec_ntsRequest]
    refine ⟨fun h => ?_, fun hcredit hturn h => ?_⟩
    · rw [State.ntsRequest, State.routine_of_waiting hreq hpart _ h]
    · rw [State.ntsRequest_of_dropped hreq hpart hcredit hturn h]
  case served =>
    intro s g e tB r ip p hreq hpart hcredit hturn hen hudp u b0
    rw [exec_ntsRequest]
    refine ⟨fun h => ?length, fun hlong hfour hsrc => ?source, fun hlong hfour hsrc h => ?header,
      fun hlong hfour hsrc hversion hmode => ⟨fun h => ?parts, fun x hparts => ⟨fun h => ?key, fun hcookie hacc =>
        ⟨fun h => ?cookie, fun keys hopen => ⟨fun h => ?auth, fun m v hauth =>
          ⟨fun h => ?drop, fun h => ?kod, fun h => ?answer⟩⟩⟩⟩⟩⟩
    case length => rw [State.ntsRequest_of_length hreq hpart hcredit hturn hen hudp h]
    case source => rw [State.ntsRequest_of_badSource hreq hpart hcredit hturn hen hudp hlong hfour hsrc]
    case header => rw [State.ntsRequest_of_header hreq hpart hcredit hturn hen hudp hlong hfour hsrc h]
    case parts => rw [State.ntsRequest_of_no_parts hreq hpart hcredit hturn hen hudp hlong hfour hsrc hversion hmode h]
    case key => rw [State.ntsRequest_of_unaccepted hreq hpart hcredit hturn hen hudp hlong hfour hsrc hversion hmode hparts h]
    case cookie =>
      rw [State.ntsRequest_of_unopened hreq hpart hcredit hturn hen hudp hlong hfour hsrc hversion hmode hparts hcookie hacc h]
    case auth =>
      rw [State.ntsRequest_of_unauthentic hreq hpart hcredit hturn hen hudp hlong hfour hsrc hversion hmode hparts hcookie hacc hopen h]
    case drop =>
      rw [State.ntsRequest_of_drop hreq hpart hcredit hturn hen hudp hlong hfour hsrc hversion hmode hparts hcookie hacc hopen hauth h]
    case kod =>
      rw [State.ntsRequest_of_served hreq hpart hcredit hturn hen hudp hlong hfour hsrc hversion hmode hparts hcookie hacc hopen hauth
        (by decide) h]
      rfl
    case answer =>
      rw [State.ntsRequest_of_served hreq hpart hcredit hturn hen hudp hlong hfour hsrc hversion hmode hparts hcookie hacc hopen hauth
        (by decide) h]
      rfl

end Sys2Proof.Machine
end

section
/-! PROOF. NTS key establishment (R255 to R259): the SYN, the ClientHello, the client's records, the timeout, and the
check of the certificate chain in use. -/
namespace Sys2Proof.Machine

/-! ### Connections -/

theorem State.setConns_ntp (s : State) (l : List KeConn) : (s.setConns l).ntp = { s.ntp with conns := l } := by
  rw [State.setConns, State.setSat_ntp, State.onNtp_ntp]

/-- A dropped connection does not stand. -/
theorem State.keConn_dropConn (s : State) (c : Nat) : (s.dropConn c).keConn c = none := by
  rw [State.keConn, State.dropConn, State.setConns_ntp, List.find?_eq_none]
  intro k hk
  simpa using (List.mem_filter.mp hk).2

theorem State.keEnd_of_standing {s : State} {c : Nat} {k : KeConn} (h : s.keConn c = some k) (b : List Byte) : s.keEnd c b =
    (s.keSay k 0x11 (.keRecords c (b ++ keRecord true 0 [])) ((b ++ keRecord true 0 []) ++ [1, 0])).dropConn c := by
  rw [State.keEnd, h]

theorem State.keShaken_of_shaken (s : State) {k : KeConn} (h : k.shaken = true) : s.keShaken k = s := if_pos h

/-- A handshake is counted when its connection has not been marked. -/
theorem State.keShaken_handshakes (s : State) {k : KeConn} (h : k.shaken = false) :
    (s.keShaken k).ntp.handshakes = s.ntp.handshakes + 1 := by
  rw [State.keShaken, if_neg (by simp [h]), State.onNtp_ntp, State.setConns_ntp]

/-! ### The SYN (R258, R259) -/

theorem exec_ntsKeSyn (s : State) (p : Fin 32) (x : KeSyn) : exec (.ntsKeSyn p x) s = .next (s.keSyn p x.conn x.peer) := by rfl

theorem State.keSyn_of_ignored {s : State} {p c : Nat} {x : Far} (h : s.is NTS_CFG_EN = false ∨ s.serverAddr p x.vlan x.self = false ∨
    s.portSends p = false ∨ s.gateOpen p = false ∨ (s.keConn c).isSome = true) : s.keSyn p c x = s := by
  rw [State.keSyn, if_pos]
  rcases h with h | h | h | h | h <;> simp [h]

section
variable {s : State} {p c : Nat} {x : Far} (hen : s.is NTS_CFG_EN = true) (haddr : s.serverAddr p x.vlan x.self = true)
  (hsends : s.portSends p = true) (hgate : s.gateOpen p = true) (hnew : s.keConn c = none)
include hen haddr hsends hgate hnew

theorem State.keSyn_of_full (h : s.get NTS_KECFG_MAXCONN ≤ s.ntp.conns.length) : s.keSyn p c x =
    ((s.bump NTS_CNT_KE_REFUSED 1).emit (.keRst p c)).tcpSend p x 4460 0 0x14 [] := by
  rw [State.keSyn, if_neg (by simp [hen, haddr, hsends, hgate, hnew]), if_pos h]

theorem State.keSyn_of_room (h : s.ntp.conns.length < s.get NTS_KECFG_MAXCONN) : s.keSyn p c x =
    (s.drawn.setConns (s.ntp.conns ++
      [{ id := c, port := p, start := s.tb.ticks, peer := x, snd := (s.draw % 2 ^ 32 + 1) % 2 ^ 32 }])).tcpSend p x 4460
        (s.draw % 2 ^ 32) 0x12 [] := by
  rw [State.keSyn, if_neg (by simp [hen, haddr, hsends, hgate, hnew]), if_neg (Nat.not_le.mpr h)]
end

/-! ### The ClientHello (R255, R256, R258) -/

theorem exec_clientHello (s : State) (c : Nat) (h : Hello) : exec (.clientHello c h) s = .next (s.clientHello c h) := by rfl

/-- The first of two values that a list offers. -/
theorem find?_pair_contains (a b : Nat) (l : List Nat) :
    [a, b].find? l.contains = if l.contains a then some a else if l.contains b then some b else none := by
  cases ha : l.contains a <;> cases hb : l.contains b <;> simp only [List.find?, ha, hb] <;> rfl

theorem State.clientHello_of_ignored {s : State} {c : Nat} (h : s.keConn c = none ∨ ∃ k, s.keConn c = some k ∧ k.chain.isSome = true)
    (x : Hello) : s.clientHello c x = s := by
  rcases h with h | ⟨k, h, hchain⟩
  · rw [State.clientHello, h]
  · simp only [State.clientHello, h, hchain, if_true]

section
variable {s : State} {c : Nat} {h : Hello} {k : KeConn} (hconn : s.keConn c = some k)
include hconn

theorem State.keAlert_of_standing (n : Nat) : s.keAlert c n =
    (((s.bump NTS_CNT_KE_ALERT 1).noteSec 0x4104 n).keSay k 0x11 (.keAlert c n) (beBytes 1 2 ++ beBytes 1 n)).dropConn c := by
  rw [State.keAlert, hconn]

variable (hchain : k.chain = none)
include hchain

theorem State.clientHello_of_no_tls13 (htls : h.tls13 = false) : s.clientHello c h = s.keAlert c 70 := by
  simp [State.clientHello, hconn, hchain, htls]

variable (htls : h.tls13 = true)
include htls

theorem State.clientHello_of_no_alpn (halpn : h.alpn = false) : s.clientHello c h = s.keAlert c 120 := by
  simp [State.clientHello, hconn, hchain, htls, halpn]

variable (halpn : h.alpn = true)
include halpn

/-- Without a common suite, chain or group there is no handshake. -/
theorem State.clientHello_of_nothing_common (hnone : [0x1301, 0x1302].find? h.suites.contains = none ∨
    s.chooseChain h.schemes = none ∨ [0x001D, 0x0017].find? h.groups.contains = none) : s.clientHello c h = s.keAlert c 40 := by
  simp only [State.clientHello, hconn, hchain, htls, halpn, ← find?_pair_contains, Option.isSome_none, Bool.not_true,
    Bool.false_eq_true, if_false]
  rcases hnone with hnone | hnone | hnone
  · rw [hnone]
  · rw [hnone]
    cases [0x1301, 0x1302].find? h.suites.contains <;> rfl
  · rw [hnone]
    cases [0x1301, 0x1302].find? h.suites.contains <;> cases s.chooseChain h.schemes <;> rfl

variable {su n gr : Nat} (hsuite : [0x1301, 0x1302].find? h.suites.contains = some su) (hcert : s.chooseChain h.schemes = some n)
  (hgroup : [0x001D, 0x0017].find? h.groups.contains = some gr)
include hsuite hcert hgroup

/-- Without a share of a common group the client is asked for one, once. -/
theorem State.clientHello_of_no_share (hshare : [0x001D, 0x0017].find? h.shares.contains = none) : s.clientHello c h =
    if k.retried then s.keAlert c 47
    else (s.setConns (s.ntp.conns.map fun x => if x.id = c then { x with retried := true } else x)).keSay k 0x18 (.keRetry c gr)
      (beBytes 2 gr) := by
  simp only [State.clientHello, hconn, hchain, htls, halpn, ← find?_pair_contains, Option.isSome_none, Bool.not_true,
    Bool.false_eq_true, if_false, hsuite, hcert, hgroup, hshare]

variable {sh : Nat} (hshare : [0x001D, 0x0017].find? h.shares.contains = some sh)
include hshare

/-- A share that passes validation, once served, completes the handshake with the chosen chain. -/
theorem State.clientHello_of_share : s.clientHello c h =
    if h.shareOk = false then s.keAlert c 47
    else if h.served = false then s.keAlert c 80
    else
      let u := s.setConns (s.ntp.conns.map fun x => if x.id = c then { x with chain := some n } else x)
      ((((u.set (NTS_CERT_INUSE 0) 0).set (NTS_CERT_INUSE 1) 0).set (NTS_CERT_INUSE n) 1).freshCerts).keSay k 0x18
        (.keHandshake c n su sh (u.certScheme n))
        (beBytes 1 n ++ beBytes 2 su ++ beBytes 2 sh ++ beBytes 2 (u.certScheme n)) := by
  simp only [State.clientHello, hconn, hchain, htls, halpn, ← find?_pair_contains, Option.isSome_none, Bool.not_true,
    Bool.false_eq_true, if_false, hsuite, hcert, hgroup, hshare, Bool.not_eq_true']
end

/-! ### The client's records (R257, R258) -/

theorem exec_ntsKeRequest (s : State) (c : Nat) (x y z : List Byte) (ok : Bool) :
    exec (.ntsKeRequest c x y z ok) s = .next (s.keRequest c x y z ok) := by rfl

theorem State.keRequest_of_ignored {s : State} {c : Nat} (h : s.keConn c = none ∨ ∃ k, s.keConn c = some k ∧ k.chain = none)
    (x y z : List Byte) (ok : Bool) : s.keRequest c x y z ok = s := by
  rcases h with h | ⟨k, h, hchain⟩
  · rw [State.keRequest, h]
  · simp [State.keRequest, h, hchain]

/-- An error record is counted and noted, and ends the connection (R258). -/
def State.keErrRecord (s : State) (c code : Nat) : State :=
  ((s.bump NTS_CNT_KE_ERRREC 1).noteSec 0x4104 (code + 256)).keEnd c (keRecord true 2 (beBytes 2 code))

/-- An answer without cookies is counted and noted, and ends the connection (R257). -/
def State.keNoCookie (s : State) (c : Nat) (b : List Byte) : State :=
  ((s.bump NTS_CNT_KE_NOCOOKIE 1).noteSec 0x4104 0xFF).keEnd c b

section
variable {s : State} {c : Nat} {x y z : List Byte} {ok : Bool} {k : KeConn} (hconn : s.keConn c = some k) (hchain : k.chain.isSome = true)
include hconn hchain

theorem State.keRequest_of_waits (h : keRecords 300 0 x = .waits) : s.keRequest c x y z ok = s.keShaken k := by
  simp only [State.keRequest, hconn, Option.isNone_eq_false_iff.mpr hchain, Bool.false_eq_true, if_false, h]

theorem State.keRequest_of_tooLong (h : keRecords 300 0 x = .tooLong) : s.keRequest c x y z ok = (s.keShaken k).keErrRecord c 1 := by
  simp only [State.keRequest, hconn, Option.isNone_eq_false_iff.mpr hchain, Bool.false_eq_true, if_false, h, State.keErrRecord]

variable {rs : List (Bool × Nat × List Byte)} (hwhole : keRecords 300 0 x = .whole rs)
include hwhole

theorem State.keRequest_of_unknown (h : rs.any (fun r => r.1 && decide (8 ≤ r.2.1)) = true) :
    s.keRequest c x y z ok = (s.keShaken k).keErrRecord c 0 := by
  simp only [State.keRequest, hconn, Option.isNone_eq_false_iff.mpr hchain, Bool.false_eq_true, if_false, hwhole, h, if_true,
    State.keErrRecord]

variable (hknown : rs.any (fun r => r.1 && decide (8 ≤ r.2.1)) = false)
include hknown

/-- Next Protocol comes first and once, AEAD comes, and nothing that only a server sends. -/
theorem State.keRequest_of_rules (h : rs.head?.map (·.2.1) ≠ some 1 ∨ (rs.filter fun r => r.2.1 == 1).length ≠ 1 ∨
    (rs.filter fun r => r.2.1 == 4) = [] ∨ rs.any (fun r => [2, 3, 5, 6, 7].contains r.2.1) = true) :
    s.keRequest c x y z ok = (s.keShaken k).keErrRecord c 1 := by
  simp only [State.keRequest, hconn, Option.isNone_eq_false_iff.mpr hchain, Bool.false_eq_true, if_false, hwhole, hknown, if_pos h,
    State.keErrRecord]

variable (hhead : rs.head?.map (·.2.1) = some 1) (hone : (rs.filter fun r => r.2.1 == 1).length = 1)
  (haead : (rs.filter fun r => r.2.1 == 4) ≠ []) (hclient : rs.any (fun r => [2, 3, 5, 6, 7].contains r.2.1) = false)
include hhead hone haead hclient

omit hconn hchain hwhole hknown in
theorem not_ke_rules_broken : ¬(rs.head?.map (·.2.1) ≠ some 1 ∨ (rs.filter fun r => r.2.1 == 1).length ≠ 1 ∨
    (rs.filter fun r => r.2.1 == 4) = [] ∨ rs.any (fun r => [2, 3, 5, 6, 7].contains r.2.1) = true) := by
  simp only [hhead, hone, hclient, ne_eq, not_true_eq_false, Bool.false_eq_true, false_or, or_false]
  exact haead

/-- Records that follow the rules are answered by what they offer: NTP, and AES-SIV-CMAC-256. -/
theorem State.keRequest_of_good : s.keRequest c x y z ok =
    let u := s.keShaken k
    if ok = false then u.keErrRecord c 2
    else if (rs.filter fun r => r.2.1 == 1).any (fun r => has16 r.2.2 0) = false then u.keNoCookie c (keRecord true 1 [])
    else if (rs.filter fun r => r.2.1 == 4).any (fun r => has16 r.2.2 0x000F) = false then
      u.keNoCookie c (keRecord true 1 [0, 0] ++ keRecord true 4 [])
    else
      let q := u.cookies (entryOf y) (entryOf z) (beBytes 2 5 ++ beBytes 2 104) 8
      ((q.2.bump NTS_CNT_KE_OK 1).bump NTS_CNT_COOKIES 8).keEnd c
        (keRecord true 1 [0, 0] ++ keRecord true 4 [0, 0x0F] ++ keRecord false 7 (beBytes 2 (u.get NTS_CFG_NTPPORT)) ++
          (if u.is NTS_CFG_SRVNEG then keRecord false 6 u.ntp.srvName else []) ++ q.1) := by
  simp only [State.keRequest, hconn, Option.isNone_eq_false_iff.mpr hchain, Bool.false_eq_true, if_false, hwhole, hknown,
    if_neg (not_ke_rules_broken hhead hone haead hclient), Bool.not_eq_true', State.keErrRecord, State.keNoCookie]
end

/-! ### The timeout (R258) -/

theorem exec_ntsKeTimeout (s : State) (c : Nat) : exec (.ntsKeTimeout c) s = .next (s.keTimeout c) := by rfl

theorem State.keTimeout_of_none {s : State} {c : Nat} (h : s.keConn c = none) : s.keTimeout c = s := by
  rw [State.keTimeout, h]

theorem State.keTimeout_of_boundary {s : State} {c : Nat} {k : KeConn} (h : s.keConn c = some k)
    (hreach : s.reachTick (1000000000 * s.get NTS_KECFG_TIMEOUT + k.start) = none) : s.keTimeout c = s := by
  simp only [State.keTimeout, h, hreach]

theorem State.keTimeout_of_reached {s u : State} {c : Nat} {k v : KeConn} (h : s.keConn c = some k)
    (hreach : s.reachTick (1000000000 * s.get NTS_KECFG_TIMEOUT + k.start) = some u) (hstands : u.keConn c = some v) :
    s.keTimeout c = ((u.bump NTS_CNT_KE_TIMEOUT 1).keSay v 0x11 (.keClose c) [1, 0]).dropConn c := by
  simp only [State.keTimeout, h, hreach, hstands]

/-! ### The certificate check (R256) -/

theorem exec_certExpiryCheck (s : State) : exec .certExpiryCheck s = .next s.certCheck := by rfl

theorem State.certCheck_of_off {s : State} (h : s.is NTS_CFG_EN = false ∨ s.serviceOn = false) : s.certCheck = s := by
  rw [State.certCheck, if_pos (by rcases h with h | h <;> simp [h])]

/-- The chain in use: that of the last handshake, else the one for a client that offers both schemes. -/
def State.usedChain (s : State) : Option Nat :=
  if s.is (NTS_CERT_INUSE 0) then some 0 else if s.is (NTS_CERT_INUSE 1) then some 1 else s.chooseChain [0x0807, 0x0403]

section
variable {s : State} (hen : s.is NTS_CFG_EN = true) (hon : s.serviceOn = true)
include hen hon

theorem State.certCheck_of_no_chain (h : s.freshCerts.usedChain = none) : s.certCheck = s.freshCerts := by
  rw [State.usedChain] at h
  simp only [State.certCheck, hen, hon, Bool.not_true, Bool.or_self, Bool.false_eq_true, if_false, h]

theorem State.certCheck_of_chain {c : Nat} (h : s.freshCerts.usedChain = some c) : s.certCheck =
    let u := s.freshCerts
    let left : Int := (u.get (NTS_CERT_NOTAFTER c) : Int) - u.utcNow
    if left ≤ u.get NTS_KECFG_CERTWARN * 86400 ∧ u.ntp.warnDay ≠ some (instSec u.now / 86400) then
      (u.onNtp fun n => { n with warnDay := some (instSec u.now / 86400) }).event 0x4102 2 (c + min 255 (left / 86400).toNat * 2 ^ 8)
    else u := by
  rw [State.usedChain] at h
  simp only [State.certCheck, hen, hon, Bool.not_true, Bool.or_self, Bool.false_eq_true, if_false, h]
end

/-- Settles O38: the SYN, the ClientHello, the records, the end of a connection, its timeout, and the certificate check. -/
theorem ntsKeyEstablishmentAndCertificates : Obligations.NtsKeyEstablishmentAndCertificates := by
  refine ⟨?synIgnored, ?syn, ?helloIgnored, ?hello, ?recordsIgnored, ?records, ?ends, ?shaken, ?noTimeout, ?timeout, ?certOff,
    ?certNone, ?cert⟩
  case synIgnored =>
    intro s p c x h
    rw [exec_ntsKeSyn, State.keSyn_of_ignored h]
  case syn =>
    intro s p c x hen haddr hsends hgate hnew
    rw [exec_ntsKeSyn]
    exact ⟨fun h => congrArg _ (State.keSyn_of_full hen haddr hsends hgate hnew h),
      fun h => ⟨s.draw % 2 ^ 32, congrArg _ (State.keSyn_of_room hen haddr hsends hgate hnew h)⟩⟩
  case helloIgnored =>
    intro s c h hc
    rw [exec_clientHello, State.clientHello_of_ignored hc]
  case hello =>
    intro s c h k hconn hchain alert suite pick
    have halert (n : Nat) : s.keAlert c n = alert n := State.keAlert_of_standing hconn n
    rw [exec_clientHello]
    refine ⟨fun htls => ?_, fun htls halpn => ?_, fun htls halpn => ⟨fun hnone => ?_, fun su n gr hsuite hcert hgroup =>
      ⟨fun hshare hretried => ?_, fun hshare hretried => ?_, fun sh hshare => ⟨fun hbad => ?_, fun hok hserved => ?_,
        fun hok hserved => ?_⟩⟩⟩⟩
    · rw [State.clientHello_of_no_tls13 hconn hchain htls, halert]
    · rw [State.clientHello_of_no_alpn hconn hchain htls halpn, halert]
    · rw [State.clientHello_of_nothing_common hconn hchain htls halpn hnone, halert]
    · rw [State.clientHello_of_no_share hconn hchain htls halpn hsuite hcert hgroup hshare, if_pos hretried, halert]
    · rw [State.clientHello_of_no_share hconn hchain htls halpn hsuite hcert hgroup hshare, if_neg (by simp [hretried])]
    · rw [State.clientHello_of_share hconn hchain htls halpn hsuite hcert hgroup hshare, if_pos hbad, halert]
    · rw [State.clientHello_of_share hconn hchain htls halpn hsuite hcert hgroup hshare, if_neg (by simp [hok]), if_pos hserved, halert]
    · rw [State.clientHello_of_share hconn hchain htls halpn hsuite hcert hgroup hshare, if_neg (by simp [hok]),
        if_neg (by simp [hserved])]
  case recordsIgnored =>
    intro s c x y z ok h
    rw [exec_ntsKeRequest, State.keRequest_of_ignored h]
  case records =>
    intro s c x y z ok k hconn hchain u err none_
    rw [exec_ntsKeRequest]
    refine ⟨fun h => ?_, fun h => ?_, fun rs hwhole => ⟨fun h => ?_, fun hknown => ⟨fun h => ?_,
      fun hhead hone haead hclient => ?_⟩⟩⟩
    · rw [State.keRequest_of_waits hconn hchain h]
    · rw [State.keRequest_of_tooLong hconn hchain h]
      rfl
    · rw [State.keRequest_of_unknown hconn hchain hwhole h]
      rfl
    · rw [State.keRequest_of_rules hconn hchain hwhole hknown h]
      rfl
    · rw [State.keRequest_of_good hconn hchain hwhole hknown hhead hone haead hclient]
      dsimp only
      refine ⟨fun hok => ?_, fun hok hntp => ?_, fun hok hntp hsiv => ?_, fun hok hntp hsiv => ?_⟩
      · rw [if_pos hok]
        rfl
      · rw [if_neg (by simp [hok]), if_pos hntp]
        rfl
      · rw [if_neg (by simp [hok]), if_neg (by simp [hntp]), if_pos hsiv]
        rfl
      · rw [if_neg (by simp [hok]), if_neg (by simp [hntp]), if_neg (by simp [hsiv])]
  case ends => exact fun s c k b h => ⟨State.keEnd_of_standing h b, s.keConn_dropConn c⟩
  case shaken => exact fun s k => ⟨s.keShaken_of_shaken, s.keShaken_handshakes⟩
  case noTimeout =>
    intro s c h
    rw [exec_ntsKeTimeout, State.keTimeout_of_none h]
  case timeout =>
    intro s c k h n
    rw [exec_ntsKeTimeout]
    exact ⟨fun hreach => congrArg _ (State.keTimeout_of_boundary h hreach),
      fun u v hreach hstands => congrArg _ (State.keTimeout_of_reached h hreach hstands)⟩
  case certOff =>
    intro s h
    rw [exec_certExpiryCheck, State.certCheck_of_off h]
  case certNone =>
    intro s hen hon u h0 h1 hnone
    have hused : u.usedChain = none := by rw [State.usedChain, if_neg (by simp [h0]), if_neg (by simp [h1]), hnone]
    rw [exec_certExpiryCheck, State.certCheck_of_no_chain hen hon hused]
  case cert =>
    intro s c hen hon u left hused
    rw [exec_certExpiryCheck, State.certCheck_of_chain hen hon hused]

end Sys2Proof.Machine
end

section
/-! PROOF. Roughtime (R302 to R309, R312, R313): the checks of a request, the batches and their close, the release of a
signature, and the online keys. -/
namespace Sys2Proof.Machine

/-! ### A request (R302, R308) -/

theorem exec_roughtimeRequest (s : State) (g : Eng) : exec (.roughtimeRequest g) s = .next (s.rtRequest g) := by rfl

section
variable {s : State} {g : Eng} {r : Req} (hreq : (s.eng g).req = some r) (hpart : r.part = 5)
  (hcredit : s.credit g.c r.port = true) (hturn : s.inTurn r = true)
include hreq hpart hcredit hturn

theorem State.rtRequest_of_unit (hsrc : r.src = 2) : s.rtRequest g = (s.rtAnswer g r).worked g 5 := by
  rw [State.rtRequest, State.routine_of_turn hreq hpart _ hcredit hturn, if_pos hsrc]

variable (hsrc : r.src ≠ 2)
include hsrc

theorem State.rtRequest_of_not_udp (hudp : reqUdp r = none) : s.rtRequest g = (s.dropReq g).worked g 5 := by
  simp only [State.rtRequest, State.routine_of_turn hreq hpart _ hcredit hturn, if_neg hsrc, hudp]

variable {ip : Ip} {p : List Byte} (hudp : reqUdp r = some (ip, p))
include hudp

theorem State.rtRequest_of_elsewhere (h : s.rtOn = false ∨ dstPort r.bytes ip ≠ s.get RT_NET_PORT ∨
    s.serverAddr r.port r.vlan ip.dst = false) : s.rtRequest g = (s.dropReq g).worked g 5 := by
  simp only [State.rtRequest, State.routine_of_turn hreq hpart _ hcredit hturn, if_neg hsrc, hudp]
  rw [if_neg (by rcases h with h | h | h <;> simp [h])]

theorem State.rtRequest_of_endpoint (hon : s.rtOn = true) (hport : dstPort r.bytes ip = s.get RT_NET_PORT)
    (haddr : s.serverAddr r.port r.vlan ip.dst = true) : s.rtRequest g = (s.rtCheck g r ip p).worked g 5 := by
  simp only [State.rtRequest, State.routine_of_turn hreq hpart _ hcredit hturn, if_neg hsrc, hudp]
  rw [if_pos (by simp [hon, hport, haddr])]
end

/-! ### The checks of a request (R302) -/

theorem State.rtCheck_of_short {p : List Byte} (h : p.length < 1024) (s : State) (g : Eng) (r : Req) (ip : Ip) :
    s.rtCheck g r ip p = (s.bump RT_CNT_REQ 1).rtFail g RT_CNT_SHORT 1 := by
  rw [State.rtCheck, if_pos h]

section
variable (s : State) (g : Eng) {r : Req} {ip : Ip} {p : List Byte} (hlen : 1024 ≤ p.length)
include hlen

theorem State.rtCheck_of_badSource (h : badSource ip (beNat (slice r.bytes ip.l4 2)) = true) :
    s.rtCheck g r ip p = (s.bump RT_CNT_REQ 1).rtFail g RT_CNT_BADSRC 2 := by
  rw [State.rtCheck, if_neg (Nat.not_lt.mpr hlen), if_pos h]

variable (hsrc : badSource ip (beNat (slice r.bytes ip.l4 2)) = false)
include hsrc

/-- A packet without a message, or whose message breaks R300. -/
theorem State.rtCheck_of_malformed (h : rtMessage p = none ∨ ∃ m, rtMessage p = some m ∧ rtParse m = none) :
    s.rtCheck g r ip p = (s.bump RT_CNT_REQ 1).rtFail g RT_CNT_MALFORMED 3 := by
  have hnone : ((rtMessage p).bind fun m => (rtParse m).map fun t => (m, t)) = none := by
    rcases h with h | ⟨m, h, hparse⟩
    · rw [h, Option.bind_none]
    · rw [h, Option.bind_some, hparse, Option.map_none]
  simp only [State.rtCheck, if_neg (Nat.not_lt.mpr hlen), hsrc, Bool.false_eq_true, if_false, hnone]

variable {m : List Byte} {t : List (Nat × List Byte)} (hmessage : rtMessage p = some m) (hparse : rtParse m = some t)
include hmessage hparse

theorem State.rtCheck_of_bad_list (h : (rtTag t rtVER).getD [] = [] ∨ ((rtTag t rtVER).getD []).length % 4 ≠ 0 ∨
    128 < ((rtTag t rtVER).getD []).length ∨ ((rtTag t rtNONC).getD []).length ≠ 32) :
    s.rtCheck g r ip p = (s.bump RT_CNT_REQ 1).rtFail g RT_CNT_MALFORMED 4 := by
  simp only [State.rtCheck, if_neg (Nat.not_lt.mpr hlen), hsrc, Bool.false_eq_true, if_false, hmessage, hparse, Option.bind_some,
    Option.map_some]
  rw [if_pos h]

omit hlen hsrc hmessage hparse in
/-- A version list of 1 to 32 entries and a nonce of 32 bytes pass check 4. -/
theorem not_bad_rt_list {ver nonce : List Byte} (hne : ver ≠ []) (hfour : ver.length % 4 = 0) (hmax : ver.length ≤ 128)
    (hnonce : nonce.length = 32) : ¬(ver = [] ∨ ver.length % 4 ≠ 0 ∨ 128 < ver.length ∨ nonce.length ≠ 32) := by
  rintro (h | h | h | h)
  · exact hne h
  · exact h hfour
  · omega
  · exact h hnonce

variable (hlist : ¬((rtTag t rtVER).getD [] = [] ∨ ((rtTag t rtVER).getD []).length % 4 ≠ 0 ∨
    128 < ((rtTag t rtVER).getD []).length ∨ ((rtTag t rtNONC).getD []).length ≠ 32))
include hlist

theorem State.rtCheck_of_no_version (h : (s.bump RT_CNT_REQ 1).rtChoose ((rtTag t rtVER).getD []) = none) :
    s.rtCheck g r ip p = (s.bump RT_CNT_REQ 1).rtFail g RT_CNT_VERNONE 5 := by
  simp only [State.rtCheck, if_neg (Nat.not_lt.mpr hlen), hsrc, Bool.false_eq_true, if_false, hmessage, hparse, Option.bind_some,
    Option.map_some, if_neg hlist, h]

variable {v : Nat} (hchoose : (s.bump RT_CNT_REQ 1).rtChoose ((rtTag t rtVER).getD []) = some v)
include hchoose

/-- Checks 6 to 9 and the leaf, for a request with a version in common. -/
theorem State.rtCheck_of_version : s.rtCheck g r ip p =
    let u := s.bump RT_CNT_REQ 1
    let nonce := (rtTag t rtNONC).getD []
    if (rtTag t rtSRV).any fun b => decide (b ≠ u.rtServer) then u.rtFail g RT_CNT_SRVMISMATCH 6
    else if u.rt.cur.isNone then u.rtFail g RT_CNT_NOKEY 7
    else if u.get SEL_TQR_TEB = 0xFFFFFFFF then u.rtFail g RT_CNT_NOTIME 8
    else if u.rtFull v then u.rtFail g RT_CNT_BATCHFULL 9
    else (u.rtAppend v
      { req := r, nonce := nonce, hash := rtHash (0 :: (if v = 0 then nonce else p.take (12 + m.length))) }).dropReq g := by
  simp only [State.rtCheck, if_neg (Nat.not_lt.mpr hlen), hsrc, Bool.false_eq_true, if_false, hmessage, hparse, Option.bind_some,
    Option.map_some, if_neg hlist, hchoose]
end

/-! ### The online keys' registers and the key store (R312, R313) -/

/-- What no step of a fold changes, the fold leaves. -/
theorem State.foldl_same {α β : Type} (v : State → β) {f : State → α → State} (h : ∀ u a, v (f u a) = v u) (l : List α) (s : State) :
    v (l.foldl f s) = v s :=
  List.foldlRecOn (motive := fun u => v u = v s) l f rfl fun u hu a _ => (h u a).trans hu

/-- A batch not yet signed still needs the key. -/
def Rt.awaits (x : Rt) (k : RtKey) : Bool := x.closed.any fun b => b.key == k.num

/-- Wiping is a matter of the old keys, and of the registers and the key store. -/
theorem State.rtWipe_same {β : Type} (v : State → β) (hset : ∀ u F n, v (State.set u F n) = v u)
    (hboot : ∀ u f, v (State.onBoot u f) = v u) (s : State) :
    v s.rtWipe = v (s.onRt fun x => { x with old := x.old.filter s.rt.awaits }) := by
  unfold State.rtWipe
  exact State.foldl_same v (fun u k => by simp only [State.dropKey, hset, hboot]) _ _

theorem State.rtWipe_rt (s : State) : s.rtWipe.rt = { s.rt with old := s.rt.old.filter s.rt.awaits } := by
  rw [State.rtWipe_same State.rt State.set_rt State.onBoot_rt, State.onRt_rt]

/-- The state in which an online key shows in the registers (R317). -/
def State.rtShown (s : State) (k : RtKey) : State :=
  let u := s.onRt fun x => { x with old := x.old ++ x.cur.toList, cur := some k, replace := false }
  (((((u.bump RT_KEYSTAT_KEYNUM 1).set RT_KEYSTAT_ONLINE 1).set RT_ONMINT_UTC (ofSigned 32 (rtTime 1 k.mint))).set RT_ONMAXT_UTC
    (ofSigned 32 (rtTime 1 k.maxt))).rtShowKey RT_ONPUB_PUB (rtPublic k.seed)).set RT_KEYSTAT_LATE 0

/-- An install shows the key, ends the late condition, logs the event and wipes the old keys. -/
theorem State.rtInstall_eq (s : State) (k : RtKey) : s.rtInstall k =
    let u := (s.rtShown k).clearCond 0x4302 0
    (u.event 0x4301 0 (u.get RT_KEYSTAT_KEYNUM)).rtWipe := by rfl

/-- Showing a key concerns the registers and Roughtime's own state alone. -/
theorem State.rtShown_same {β : Type} (v : State → β) (hset : ∀ u F n, v (State.set u F n) = v u) (s : State) (k : RtKey) :
    v (s.rtShown k) = v (s.onRt fun x => { x with old := x.old ++ x.cur.toList, cur := some k, replace := false }) := by
  have hshow (u : State) (F : Nat → Field) (pub : List Byte) : v (u.rtShowKey F pub) = v u :=
    State.forEach_same v u 8 fun u i _ => hset u _ _
  simp only [State.rtShown, hset, hshow, State.bump, State.setSat]

/-- An installed key is the current one; the key before it is kept while a batch awaits it. -/
theorem State.rtInstall_rt (s : State) (k : RtKey) : (s.rtInstall k).rt =
    { s.rt with old := (s.rt.old ++ s.rt.cur.toList).filter s.rt.awaits, cur := some k, replace := false } := by
  rw [State.rtInstall_eq, State.rtWipe_rt, State.event_rt, State.clearCond_rt, State.rtShown_same State.rt State.set_rt, State.onRt_rt]
  rfl

/-- An install concerns the registers, the events, the key store and Roughtime's own state alone. -/
theorem State.rtInstall_same {β : Type} (v : State → β) (hset : ∀ u F n, v (State.set u F n) = v u)
    (hboot : ∀ u f, v (State.onBoot u f) = v u) (hrt : ∀ u f, v (State.onRt u f) = v u)
    (hclear : ∀ u c k, v (State.clearCond u c k) = v u) (hevent : ∀ u c n a, v (State.event u c n a) = v u) (s : State) (k : RtKey) :
    v (s.rtInstall k) = v s := by
  rw [State.rtInstall_eq, State.rtWipe_same v hset hboot, hrt, hevent, hclear, State.rtShown_same v hset, hrt]

/-- A field that is none of the key's words, of the key store's entries of online keys and of the registers of events. -/
def Field.OffOnlineKeys (F : Field) : Prop :=
  F.key ≠ SYS_EVTDROP_DROP.key ∧ F.key ≠ SYS_IRQSTAT_SRC.key ∧ ∀ i < 8, F.key ≠ (RT_ONPUB_PUB i).key ∧ F.key ≠ (SYS_KEY_TYPE (8 + i)).key ∧
    F.key ≠ (SYS_KEY_CLASS (8 + i)).key ∧ F.key ≠ (SYS_KEY_USERS (8 + i)).key ∧ F.key ≠ (SYS_KEY_DIGEST (8 + i)).key

theorem Field.offOnlineKeys_online : RT_KEYSTAT_ONLINE.OffOnlineKeys := by unfold Field.OffOnlineKeys; decide
theorem Field.offOnlineKeys_late : RT_KEYSTAT_LATE.OffOnlineKeys := by unfold Field.OffOnlineKeys; decide
theorem Field.offOnlineKeys_nextready : RT_KEYSTAT_NEXTREADY.OffOnlineKeys := by unfold Field.OffOnlineKeys; decide

section
variable {F : Field} (h : F.OffOnlineKeys) (s : State)
include h

theorem State.get_dropOnlineKey (n : Nat) : (s.dropKey (8 + n % 8)).get F = s.get F := by
  obtain ⟨-, htype, hcls, husers, hdigest⟩ := h.2.2 (n % 8) (Nat.mod_lt _ (by decide))
  rw [State.dropKey, State.get_set_ne _ _ _ _ hdigest, State.get_set_ne _ _ _ _ husers, State.get_set_ne _ _ _ _ hcls,
    State.get_set_ne _ _ _ _ htype, State.get_onBoot]

theorem State.get_rtWipe : s.rtWipe.get F = s.get F := by
  unfold State.rtWipe
  refine (State.foldl_same (fun u => u.get F) (fun u k => ?_) _ _).trans (State.get_onRt _ _ F)
  exact State.get_dropOnlineKey h u k.num

theorem State.get_rtShowKey (pub : List Byte) : (s.rtShowKey RT_ONPUB_PUB pub).get F = s.get F := by
  unfold State.rtShowKey
  apply State.forEach_same (fun u => u.get F)
  intro u i hi
  exact State.get_set_ne _ _ _ _ (h.2.2 i hi).1

/-- Of such fields an install writes those that show the key. -/
theorem State.get_rtInstall (k : RtKey) : (s.rtInstall k).get F = (s.rtShown k).get F := by
  rw [State.rtInstall_eq, State.get_rtWipe h, State.get_event _ _ _ _ _ h.1 h.2.1, State.get_clearCond _ _ _ _ h.2.1]
end

section
variable (s : State) (k : RtKey)

/-- No key is late after an install. -/
theorem State.get_rtInstall_late : (s.rtInstall k).get RT_KEYSTAT_LATE = 0 := by
  rw [State.get_rtInstall Field.offOnlineKeys_late, State.rtShown, State.get_set_self, Nat.zero_mod]

theorem State.get_rtInstall_online : (s.rtInstall k).get RT_KEYSTAT_ONLINE = 1 := by
  rw [State.get_rtInstall Field.offOnlineKeys_online, State.rtShown, State.get_set_ne _ _ _ _ (by decide),
    State.get_rtShowKey Field.offOnlineKeys_online, State.get_set_ne _ _ _ _ (by decide), State.get_set_ne _ _ _ _ (by decide),
    State.get_set_self]
  rfl

theorem State.get_rtInstall_nextready : (s.rtInstall k).get RT_KEYSTAT_NEXTREADY = s.get RT_KEYSTAT_NEXTREADY := by
  rw [State.get_rtInstall Field.offOnlineKeys_nextready, State.rtShown, State.get_set_ne _ _ _ _ (by decide),
    State.get_rtShowKey Field.offOnlineKeys_nextready, State.get_set_ne _ _ _ _ (by decide), State.get_set_ne _ _ _ _ (by decide),
    State.get_set_ne _ _ _ _ (by decide), State.get_bump_ne _ _ _ _ (by decide), State.get_onRt]
end

/-! ### The daily key's effect (R312) -/

theorem State.rtDue_of_none {s : State} (h : s.rt.daily = none) (u : Int) : s.rtDue u = s := by rw [State.rtDue, h]

theorem State.rtDue_of_key {s : State} {k : RtKey} (h : s.rt.daily = some k) (u : Int) : s.rtDue u =
    if k.mint + s.rtOverlap ≤ u then ((s.onRt fun x => { x with daily := none }).set RT_KEYSTAT_NEXTREADY 0).rtInstall k else s := by
  rw [State.rtDue, h]

/-- What neither giving up the waiting key nor an install changes stays at D. -/
theorem State.rtDue_same {β : Type} (v : State → β) (hset : ∀ u F n, v (State.set u F n) = v u)
    (hdaily : ∀ u, v (State.onRt u fun x => { x with daily := none }) = v u) (hinstall : ∀ u k, v (State.rtInstall u k) = v u)
    (s : State) (u : Int) : v (s.rtDue u) = v s := by
  unfold State.rtDue
  split
  · split
    · rw [hinstall, hset, hdaily]
    · rfl
  · rfl

/-! ### The close of a batch (R304, R306, R309) -/

theorem State.setRtOpen_rt (s : State) (v : Nat) (o : Option RtOpen) :
    (s.setRtOpen v o).rt = { s.rt with opens := SMap.set none s.rt.opens v o } := by rfl

/-- The state in which a closing batch has got its number. -/
def State.rtNumbered (s : State) (v : Nat) (t : Nat) : State :=
  ((s.setRtOpen v none).rtDue (s.utcNs t)).onRt fun x => { x with nextNum := (x.nextNum + 1) % 2 ^ 20 }

section
variable (s : State) (v : Nat) (o : RtOpen) (t : Nat)

/-- Past its number a close concerns the registers, the backlog and the call for a replacement. -/
theorem State.rtClose_same {β : Type} (f : State → β) (hset : ∀ u F n, f (State.set u F n) = f u)
    (hreplace : ∀ u, f (State.onRt u fun x => { x with replace := true }) = f u)
    (hclosed : ∀ u l, f (State.onRt u fun x => { x with closed := l }) = f u) : f (s.rtClose v o t) = f (s.rtNumbered v t) := by
  have hbump (u : State) (F : Field) (n : Nat) : f (u.bump F n) = f u := hset u F _
  unfold State.rtClose
  extract_lets u s1 num n s2 key s3 e
  have hs3 : f s3 = f (s.rtNumbered v t) := by
    have hs2 : f s2 = f (s.rtNumbered v t) := hset _ _ _
    unfold s3
    split
    · rw [hreplace, hs2]
    · exact hs2
  generalize key = key'
  split
  · rw [hbump, hs3]
  · split
    · rw [hbump, hs3]
    · rw [State.setRtClosed, hset, hclosed, hset, hs3]

/-- A close leaves what an install leaves. -/
theorem State.rtClose_frame {β : Type} (f : State → β) (hset : ∀ u F n, f (State.set u F n) = f u)
    (hboot : ∀ u g, f (State.onBoot u g) = f u) (hrt : ∀ u g, f (State.onRt u g) = f u)
    (hclear : ∀ u c k, f (State.clearCond u c k) = f u) (hevent : ∀ u c n a, f (State.event u c n a) = f u) :
    f (s.rtClose v o t) = f s := by
  rw [s.rtClose_same v o t f hset (fun u => hrt u _) (fun u l => hrt u _), State.rtNumbered, hrt,
    State.rtDue_same f hset (fun u => hrt u _) (State.rtInstall_same f hset hboot hrt hclear hevent), State.setRtOpen, hrt]

theorem State.rtClose_tb : (s.rtClose v o t).tb = s.tb :=
  s.rtClose_frame v o t State.tb State.set_tb State.onBoot_tb State.onRt_tb State.clearCond_tb State.event_tb

theorem State.rtClose_mac : (s.rtClose v o t).mac = s.mac :=
  s.rtClose_frame v o t State.mac State.set_mac State.onBoot_mac State.onRt_mac State.clearCond_mac State.event_mac

theorem State.rtClose_mode : (s.rtClose v o t).mode = s.mode :=
  s.rtClose_frame v o t State.mode State.set_mode State.onBoot_mode State.onRt_mode State.clearCond_mode State.event_mode

/-- The batch is no longer open, no other batch's leaves are touched, and the next number is taken (R304). -/
theorem State.rtClose_opens_nextNum : ((s.rtClose v o t).rt.opens, (s.rtClose v o t).rt.nextNum) =
    (SMap.set none s.rt.opens v none, (s.rt.nextNum + 1) % 2 ^ 20) := by
  have hdue := State.rtDue_same (fun u => (u.rt.opens, u.rt.nextNum)) (fun u F n => by rw [State.set_rt]) (fun u => by rw [State.onRt_rt])
    (fun u k => by rw [State.rtInstall_rt]) (s.setRtOpen v none) (s.utcNs t)
  obtain ⟨hopens, hnum⟩ := Prod.mk.inj hdue
  rw [s.rtClose_same v o t (fun u => (u.rt.opens, u.rt.nextNum)) (fun u F n => by rw [State.set_rt]) (fun u => by rw [State.onRt_rt])
    (fun u l => by rw [State.onRt_rt]), State.rtNumbered, State.onRt_rt]
  dsimp only
  rw [hopens, hnum, State.setRtOpen_rt]

theorem State.rtOpen_rtClose : (s.rtClose v o t).rtOpen v = none := by
  rw [State.rtOpen, (Prod.mk.inj (s.rtClose_opens_nextNum v o t)).1, SMap.get_set_self]

/-- Batches are numbered in order of closing (R304). -/
theorem State.rtClose_nextNum : (s.rtClose v o t).rt.nextNum = (s.rt.nextNum + 1) % 2 ^ 20 :=
  (Prod.mk.inj (s.rtClose_opens_nextNum v o t)).2

/-- With a bound and a valid key the batch joins the backlog, under that key. -/
theorem State.rtClose_closed {k : RtKey} (hdaily : s.rt.daily = none) (hbound : s.get SEL_TQR_TEB ≠ 0xFFFFFFFF) (hcur : s.rt.cur = some k)
    (hmint : k.mint ≤ s.utcNs t) (hmaxt : s.utcNs t ≤ k.maxt) :
    ∃ b, (s.rtClose v o t).rt.closed = s.rt.closed ++ [b] ∧ b.num = s.rt.nextNum ∧ b.ver = v ∧ b.leaves = o.leaves ∧ b.closed = t ∧
      b.key = k.num := by
  have hdue : (s.setRtOpen v none).rtDue (s.utcNs t) = s.setRtOpen v none := State.rtDue_of_none (by rw [State.setRtOpen_rt, hdaily]) _
  have hkey : (s.rt.cur.bind fun k => if k.mint ≤ s.utcNs t ∧ s.utcNs t ≤ k.maxt then some k else none) = some k := by
    rw [hcur, Option.bind_some, if_pos ⟨hmint, hmaxt⟩]
  have hget (f : Rt → Rt) : (((s.setRtOpen v none).onRt f).set RT_BATCH_LASTN o.leaves.length).get SEL_TQR_TEB = s.get SEL_TQR_TEB := by
    rw [State.get_set_ne _ _ _ _ (by decide), State.get_onRt, State.setRtOpen, State.get_onRt]
  simp only [State.rtClose, hdue, State.set_rt, State.onRt_rt, State.setRtOpen_rt, hkey, Option.isNone_some, Bool.false_eq_true,
    false_and, if_false, hget, if_neg hbound, State.setRtClosed]
  exact ⟨_, rfl, rfl, rfl, rfl, rfl, rfl⟩
end

/-! ### Windows and leaves (R303, R304) -/

theorem exec_batchClose (s : State) (v : Fin 2) : exec (.batchClose v) s = .next (s.rtWindow v) := by rfl

theorem State.rtWindow_of_none {s : State} {v : Nat} (h : s.rtOpen v = none) : s.rtWindow v = s := by rw [State.rtWindow, h]

section
variable {s : State} {v : Nat} {o : RtOpen} (hopen : s.rtOpen v = some o)
include hopen

theorem State.rtWindow_of_boundary (h : s.reach (s.rtEnd o) = none) : s.rtWindow v = s := by
  simp only [State.rtWindow, hopen, h]

theorem State.rtWindow_of_reached {u : State} (h : s.reach (s.rtEnd o) = some u) :
    s.rtWindow v = if u.rtRoom then u.rtClose v o (u.rtEnd o) else u := by
  simp only [State.rtWindow, hopen, h]

/-- A leaf short of the 65,536th joins the batch that is open, within its window. -/
theorem State.rtAppend_of_open (hend : s.now ≤ s.rtEnd o) (hfull : o.leaves.length + 1 < 65536) (l : RtLeaf) :
    s.rtAppend v l = s.setRtOpen v (some { o with leaves := o.leaves ++ [l] }) := by
  have hover : s.rtOver v = s := by
    simp only [State.rtOver, hopen]
    rw [if_neg fun h => Nat.not_lt.mpr hend h.1]
  have hlen : (o.leaves ++ [l]).length ≠ 65536 := by
    rw [List.length_append, List.length_singleton]
    omega
  simp only [State.rtAppend, hover, hopen]
  rw [if_neg fun h => hlen h.1]
end

/-- The first leaf opens a batch. -/
theorem State.rtAppend_of_none {s : State} {v : Nat} (h : s.rtOpen v = none) (l : RtLeaf) :
    s.rtAppend v l = s.setRtOpen v (some { from_ := s.now, leaves := [l] }) := by
  have hover : s.rtOver v = s := by simp only [State.rtOver, h]
  simp only [State.rtAppend, hover, h]
  rw [if_neg (by simp)]

/-! ### The release of a signature (R308, R313) -/

theorem exec_batchSignatureRelease (s : State) (n : Nat) (ok : Bool) :
    exec (.batchSignatureRelease n ok) s = .next (s.rtRelease n ok) := by rfl

theorem State.rtRelease_of_none {s : State} {n : Nat} (h : s.rt.closed.find? (·.num == n) = none) (ok : Bool) :
    s.rtRelease n ok = s := by
  rw [State.rtRelease, h]

section
variable {s : State} {n : Nat} {b : RtBatch} (hbatch : s.rt.closed.find? (·.num == n) = some b)
include hbatch

theorem State.rtRelease_of_failed : s.rtRelease n false =
    (((s.setRtClosed (s.rt.closed.filter (·.num ≠ n))).bump RT_CNT_SIGFAIL b.leaves.length).event 0x4304 2 n).rtWipe.rtCatch := by
  simp only [State.rtRelease, hbatch]
  split
  · contradiction
  · rfl

theorem State.rtRelease_of_signed {k : RtKey} (hkey : (s.rt.cur.toList ++ s.rt.old).find? (·.num == b.key) = some k) :
    s.rtRelease n true =
      let u := ((s.setRtClosed (s.rt.closed.filter (·.num ≠ n))).bump RT_CNT_BATCHES 1).set RT_BATCHNUM_NUM n
      let sig := beBytes 64 (Config.ed25519 k.seed (rtContext "RoughTime v1 response signature" b.srep)).toNat
      let fs := ((List.range b.leaves.length).zip b.leaves).map fun x => u.rtFrame b sig (k.certs.getD b.ver []) x.1 x.2
      (u.onFab fun f =>
        { f with intern := SMap.set [] f.intern 22 (SMap.get [] f.intern 22 ++ rtRequests b b.leaves.length fs) }).rtWipe.rtCatch := by
  have hcur : (s.setRtClosed (s.rt.closed.filter (·.num ≠ n))).rt.cur = s.rt.cur := by rfl
  have hold : (s.setRtClosed (s.rt.closed.filter (·.num ≠ n))).rt.old = s.rt.old := by rfl
  simp only [State.rtRelease, hbatch, hcur, hold, hkey]
end

/-! ### Online keys (R312) -/

theorem exec_onlineKeyGenerate (s : State) : exec .onlineKeyGenerate s = .next s.rtGenerate := by rfl
theorem exec_dailyKeyGenerate (s : State) : exec .dailyKeyGenerate s = .next s.rtDaily := by rfl
theorem exec_dailyKeyEffect (s : State) : exec .dailyKeyEffect s = .next s.rtEffect := by rfl

theorem State.rtDraw_rt (s : State) (mint maxt : Int) : (s.rtDraw mint maxt).2.rt = { s.rt with keys := s.rt.keys + 1 } := by rfl
theorem State.rtDraw_free (s : State) (mint maxt : Int) : (s.rtDraw mint maxt).2.free = s.free + 1 := by rfl

theorem State.rtDraw_seed (s : State) (mint maxt : Int) : (s.rtDraw mint maxt).1.seed < 2 ^ 256 := Nat.mod_lt _ (Nat.two_pow_pos _)

/-- The key drawn now, for a first key or a replacement. -/
def State.rtDrawNow (s : State) : RtKey × State :=
  s.rtDraw (s.utcNs s.now - s.rtOverlap) (nextMidnight (s.utcNs s.now) + s.rtOverlap)

theorem State.rtGenerate_of_off {s : State} (h : s.rtOn = false) : s.rtGenerate = s := by
  simp only [State.rtGenerate, h, Bool.false_and, Bool.false_eq_true, if_false]

/-- Nothing is drawn without a call for a replacement, for a key that stands or a bound above KEYELIM. -/
theorem State.rtGenerate_of_not_due {s : State} (hreplace : s.rt.replace = false)
    (h : (∃ k, s.rt.cur = some k) ∨ s.get RT_KEYELIM_ELIM < s.get SEL_TQR_TEB) : s.rtGenerate = s := by
  have hfirst : (s.rt.cur.isNone && decide (s.get SEL_TQR_TEB ≤ s.get RT_KEYELIM_ELIM)) = false := by
    rcases h with ⟨k, h⟩ | h
    · rw [h, Option.isNone_some, Bool.false_and]
    · rw [decide_eq_false (Nat.not_le.mpr h), Bool.and_false]
  simp only [State.rtGenerate, hfirst, hreplace, Bool.or_false, Bool.and_false, Bool.false_eq_true, if_false]

section
variable {s : State} (hon : s.rtOn = true) (hdaily : s.rt.daily = none)
include hon hdaily

omit hon in
/-- The drawn key's install leaves no daily key waiting. -/
theorem State.rtInstall_rtDrawNow_daily : (s.rtDrawNow.2.rtInstall s.rtDrawNow.1).rt.daily = none := by
  rw [State.rtInstall_rt, State.rtDrawNow, State.rtDraw_rt]
  exact hdaily

theorem State.rtGenerate_of_first (hcur : s.rt.cur = none) (hbound : s.get SEL_TQR_TEB ≤ s.get RT_KEYELIM_ELIM) :
    s.rtGenerate = s.rtDrawNow.2.rtInstall s.rtDrawNow.1 := by
  have hnone := State.rtInstall_rtDrawNow_daily hdaily
  rw [State.rtDrawNow] at hnone ⊢
  simp only [State.rtGenerate, hon, hcur, hbound, Option.isNone_none, decide_true, Bool.and_self, Bool.true_or, if_true, hnone]

/-- A replacement is drawn and installed likewise, with event 0x4306. -/
theorem State.rtGenerate_of_replace {c : RtKey} (hcur : s.rt.cur = some c) (hreplace : s.rt.replace = true) : s.rtGenerate =
    let u := s.rtDrawNow.2.rtInstall s.rtDrawNow.1
    u.event 0x4306 2 (u.get RT_KEYSTAT_KEYNUM) := by
  have hnone := State.rtInstall_rtDrawNow_daily hdaily
  rw [State.rtDrawNow] at hnone ⊢
  simp only [State.rtGenerate, hon, hcur, hreplace, Option.isNone_some, Bool.false_and, Bool.false_or, Bool.and_self, if_true, hnone,
    Bool.false_eq_true, if_false]
end

theorem State.rtDaily_of_no_key {s : State} (h : s.rt.cur = none) : s.rtDaily = s := by rw [State.rtDaily, h]

section
variable {s : State} {c : RtKey} (hcur : s.rt.cur = some c)
include hcur

theorem State.rtDaily_of_not_due (h : s.rtOn = false ∨ s.rt.daily.isSome = true ∨ s.utcNs s.now < s.rtD c - s.rtLead) :
    s.rtDaily = s := by
  simp only [State.rtDaily, hcur]
  refine if_neg fun hdue => ?_
  simp only [Bool.and_eq_true, decide_eq_true_eq, Option.isNone_iff_eq_none] at hdue
  obtain ⟨⟨hon, hnone⟩, hlead⟩ := hdue
  rcases h with h | h | h
  · simp [hon] at h
  · simp [hnone] at h
  · omega

theorem State.rtDaily_of_due (hon : s.rtOn = true) (hdaily : s.rt.daily = none) (hlead : s.rtD c - s.rtLead ≤ s.utcNs s.now) :
    s.rtDaily =
      let r := s.rtDraw (s.rtD c - s.rtOverlap) (s.rtD c + 86400 * 10 ^ 9 + s.rtOverlap)
      if s.rtD c ≤ s.utcNs s.now then r.2.rtInstall r.1
      else (r.2.onRt fun x => { x with daily := some r.1 }).set RT_KEYSTAT_NEXTREADY 1 := by
  simp only [State.rtDaily, hcur]
  rw [if_pos (by simp [hon, hdaily, hlead])]
end

theorem State.rtDaily_of_off {s : State} (h : s.rtOn = false) : s.rtDaily = s := by
  cases hcur : s.rt.cur with
  | none => exact State.rtDaily_of_no_key hcur
  | some c => exact State.rtDaily_of_not_due hcur (Or.inl h)

theorem State.rtEffect_of_off {s : State} (h : s.rtOn = false) : s.rtEffect = s := by
  simp only [State.rtEffect, h, Bool.not_false, if_true]

section
variable {s : State} (hon : s.rtOn = true)
include hon

theorem State.rtEffect_of_daily {k : RtKey} (hdaily : s.rt.daily = some k) : s.rtEffect = s.rtDue (s.utcNs s.now) := by
  simp only [State.rtEffect, hon, hdaily, Bool.not_true, Bool.false_eq_true, if_false]

variable (hdaily : s.rt.daily = none)
include hdaily

theorem State.rtEffect_of_no_key (hcur : s.rt.cur = none) : s.rtEffect = s := by
  simp only [State.rtEffect, hon, hdaily, hcur, Bool.not_true, Bool.false_eq_true, if_false]

/-- Without a daily key at D the late condition is raised, once. -/
theorem State.rtEffect_of_late {c : RtKey} (hcur : s.rt.cur = some c) : s.rtEffect =
    if s.rtD c ≤ s.utcNs s.now ∧ s.is RT_KEYSTAT_LATE = false then (s.set RT_KEYSTAT_LATE 1).raiseCond 0x4302 2 0 0 else s := by
  simp only [State.rtEffect, hon, hdaily, hcur, Bool.not_true, Bool.false_eq_true, if_false, Bool.not_eq_true']
end

/-- Settles O41: the routine and its checks, leaves, windows and closes, the release of a signature, and the online keys. -/
theorem roughtimeRequestsBatchesAndKeys : Obligations.RoughtimeRequestsBatchesAndKeys := by
  refine ⟨?noRequest, ?routine, ?checks, ?firstLeaf, ?nextLeaf, ?noBatch, ?window, ?close, ?noSignature, ?failed, ?signed, ?off, ?first,
    ?replace, ?noDraw, ?daily, ?noKey, ?effect, ?late⟩
  case noRequest =>
    intro s g h
    rw [exec_roughtimeRequest, State.rtRequest, State.routine_of_no_request _ h]
  case routine =>
    intro s g r hreq hpart
    rw [exec_roughtimeRequest]
    refine ⟨fun h => ?_, fun hcredit hturn => ⟨fun hsrc => ?_, fun hsrc hudp => ?_, fun ip p hsrc hudp => ⟨fun h => ?_,
      fun hon hport haddr => ?_⟩⟩⟩
    · rw [State.rtRequest, State.routine_of_waiting hreq hpart _ h]
    · exact congrArg _ (State.rtRequest_of_unit hreq hpart hcredit hturn hsrc)
    · rw [State.rtRequest_of_not_udp hreq hpart hcredit hturn hsrc hudp]
    · rw [State.rtRequest_of_elsewhere hreq hpart hcredit hturn hsrc hudp h]
    · rw [State.rtRequest_of_endpoint hreq hpart hcredit hturn hsrc hudp hon hport haddr]
  case checks =>
    intro s g r ip p u fail sport
    refine ⟨fun h => State.rtCheck_of_short h s g r ip, fun hlen h => s.rtCheck_of_badSource g hlen h, fun hlen hsrc =>
      ⟨fun h => s.rtCheck_of_malformed g hlen hsrc h, fun m t hmessage hparse =>
        ⟨fun h => s.rtCheck_of_bad_list g hlen hsrc hmessage hparse h, fun hne hfour hmax hnonce => ?listed⟩⟩⟩
    have hlist := not_bad_rt_list hne hfour hmax hnonce
    refine ⟨fun h => s.rtCheck_of_no_version g hlen hsrc hmessage hparse hlist h, fun v hchoose => ?_⟩
    rw [s.rtCheck_of_version g hlen hsrc hmessage hparse hlist hchoose]
    dsimp only
    have hstands (h : u.rt.cur.isSome = true) : ¬u.rt.cur.isNone = true := Bool.eq_false_iff.mp (Option.isNone_eq_false_iff.mpr h)
    refine ⟨fun ⟨b, hsrv, hother⟩ => if_pos ((Option.any_eq_true _ _).mpr ⟨b, hsrv, decide_eq_true hother⟩), fun hsrv => ?_⟩
    have hserver : ¬((rtTag t rtSRV).any fun b => decide (b ≠ u.rtServer)) = true := fun h => by
      obtain ⟨b, hb, hother⟩ := (Option.any_eq_true _ _).mp h
      exact of_decide_eq_true hother (hsrv b hb)
    rw [if_neg hserver]
    refine ⟨fun hcur => if_pos (Option.isNone_iff_eq_none.mpr hcur), fun hcur hbound => ?_, fun hcur hbound hfull => ?_,
      fun hcur hbound hfull => ?_⟩
    · exact (if_neg (hstands hcur)).trans (if_pos hbound)
    · rw [if_neg (hstands hcur), if_neg hbound]
      exact if_pos hfull
    · rw [if_neg (hstands hcur), if_neg hbound]
      exact if_neg (Bool.eq_false_iff.mp hfull)
  case firstLeaf => exact fun s v l h => State.rtAppend_of_none h l
  case nextLeaf => exact fun s v l o hopen hend hfull => State.rtAppend_of_open hopen hend hfull l
  case noBatch =>
    intro s v h
    rw [exec_batchClose, State.rtWindow_of_none h]
  case window =>
    intro s v o hopen n
    rw [exec_batchClose]
    exact ⟨fun h => congrArg _ (State.rtWindow_of_boundary hopen h), fun u h => congrArg _ (State.rtWindow_of_reached hopen h)⟩
  case close =>
    exact fun s v o t => ⟨s.rtOpen_rtClose v o t, s.rtClose_mac v o t, s.rtClose_tb v o t, s.rtClose_mode v o t, s.rtClose_nextNum v o t,
      fun k hdaily hbound hcur hmint hmaxt => s.rtClose_closed v o t hdaily hbound hcur hmint hmaxt⟩
  case noSignature =>
    intro s n ok h
    rw [exec_batchSignatureRelease, State.rtRelease_of_none h]
  case failed =>
    intro s n b h
    rw [exec_batchSignatureRelease, State.rtRelease_of_failed h]
  case signed =>
    intro s n b k hbatch hkey u sig fs
    rw [exec_batchSignatureRelease, State.rtRelease_of_signed hbatch hkey]
  case off =>
    intro s h
    rw [exec_onlineKeyGenerate, exec_dailyKeyGenerate, exec_dailyKeyEffect, State.rtGenerate_of_off h, State.rtDaily_of_off h,
      State.rtEffect_of_off h]
    exact ⟨rfl, rfl, rfl⟩
  case first =>
    intro s hon hcur hbound hdaily
    rw [exec_onlineKeyGenerate, State.rtGenerate_of_first hon hdaily hcur hbound]
    refine ⟨_, s.rtDrawNow.1, rfl, by rw [State.rtInstall_rt], rfl, rfl, rfl, s.rtDraw_seed _ _, State.get_rtInstall_online _ _,
      State.get_rtInstall_late _ _, ?_⟩
    rw [State.rtInstall_same State.free State.set_free State.onBoot_free State.onRt_free State.clearCond_free State.event_free]
    exact s.rtDraw_free _ _
  case replace =>
    intro s c hon hcur hreplace hdaily
    rw [exec_onlineKeyGenerate, State.rtGenerate_of_replace hon hdaily hcur hreplace]
    exact ⟨_, s.rtDrawNow.1, rfl, by rw [State.event_rt, State.rtInstall_rt], rfl, rfl, rfl, by rw [State.event_rt, State.rtInstall_rt]⟩
  case noDraw =>
    intro s hreplace h
    rw [exec_onlineKeyGenerate, State.rtGenerate_of_not_due hreplace h]
  case daily =>
    intro s c hcur
    rw [exec_dailyKeyGenerate]
    refine ⟨fun h => congrArg _ (State.rtDaily_of_not_due hcur (Or.inr h)), fun hon hdaily hlead => ⟨rfl, rfl, rfl, ?_⟩⟩
    rw [State.rtDaily_of_due hcur hon hdaily hlead]
    exact ⟨fun h => congrArg _ (if_neg (Int.not_le.mpr h)), fun h => congrArg _ (if_pos h)⟩
  case noKey =>
    intro s h
    rw [exec_dailyKeyGenerate, State.rtDaily_of_no_key h]
  case effect =>
    intro s k hon hdaily
    rw [exec_dailyKeyEffect, State.rtEffect_of_daily hon hdaily, State.rtDue_of_key hdaily]
    refine ⟨fun h => by rw [if_neg (Int.not_le.mpr h)], fun h => ?_⟩
    rw [if_pos h]
    refine ⟨_, rfl, by rw [State.rtInstall_rt], by rw [State.rtInstall_rt, State.set_rt, State.onRt_rt], ?_, State.get_rtInstall_late _ _⟩
    rw [State.get_rtInstall_nextready, State.get_set_self, Nat.zero_mod]
  case late =>
    intro s hon hdaily
    rw [exec_dailyKeyEffect]
    refine ⟨fun hcur => by rw [State.rtEffect_of_no_key hon hdaily hcur], fun c hcur => ?_⟩
    rw [State.rtEffect_of_late hon hdaily hcur]
    refine ⟨fun h => ?_, fun hdue hlate => by rw [if_pos ⟨hdue, hlate⟩]⟩
    rw [if_neg]
    rintro ⟨hdue, hlate⟩
    rcases h with h | h
    · omega
    · simp [hlate] at h

end Sys2Proof.Machine
end
